-- ==== Sys2Proof/Word.lean ====
section
/-!
DEFINITION. The word types of the model. Multi-byte fields are little-endian lists of bytes (R12); registers that the
spec numbers bit by bit are bit vectors, counts and addresses are natural numbers.
-/

namespace Sys2Proof

/-- One byte of memory or of a message. -/
abbrev Byte := BitVec 8

/-- A 16-bit status code (R16). -/
abbrev Status := BitVec 16

/-- An IEEE 754 binary32 value as its 32 bits. -/
abbrev F32 := BitVec 32

/-- An IEEE 754 binary64 value as its 64 bits. -/
abbrev F64 := BitVec 64

end Sys2Proof
end

