-- ==== Sys2Proof/Syntax.lean ====
section
/-!
DEFINITION. The commands the module takes from outside and the events that change it: one constructor of Instr for each
row of spec/opcode_table.json. The table gives its rows no operands; the operands here are those the row's rule names,
and, for events of the physical world, what that event found (log 5).
-/

namespace Sys2Proof

/-- The management routes of R371, R375, R377, R378. -/
inductive Route where
  | pcie | i3c | port
deriving DecidableEq, Repr

/-- What travels around a Caddy request: its route, the header fields of R371 and, on the Caddy port, the Ethernet frame
of R375. tagOk says that the tag verifies (R376; the AES-GMAC arithmetic is not modelled). -/
structure Req where
  route : Route
  src : Nat := 0
  txn : Nat := 0
  version : Nat := 1
  reserved : Nat := 0
  auth : Bool := false
  tagOk : Bool := true
  counter : Nat := 0
  etherType : Nat := 0x88B5
  vlan : Bool := false
  dest : Nat := 0
deriving DecidableEq, Repr

/-- What a signature check finds: the measurement matches, the RSA and the SLH-DSA signature verify (R359, R396). -/
structure Verdict where
  measOk : Bool
  rsaOk : Bool
  slhOk : Bool
deriving DecidableEq, Repr

/-- A block of a partition address that does not match its CRC entry at the first read, and whether it still does not at
the refetch (R235). -/
structure BlockFault where
  addr : Nat
  persists : Bool
deriving DecidableEq, Repr

/-- What start-up finds (R467 to R473). -/
structure Findings where
  straps : Nat := 0
  factoryOk : Bool := true
  secActiveOk : Bool := true
  secInactiveOk : Bool := true
  rootOk : Bool := true
  trustOk : Bool := true
  configOk : Bool := true
  imagesActiveOk : List Bool := [true, true, true]
  imagesInactiveOk : List Bool := [true, true, true]
  shutdownSensor : Option Nat := none
  badColumns : List (Nat × Nat) := []
  badSites : List (Nat × Bool) := []
  badFleArrays : List (Nat × Nat) := []
  badChannels : List Nat := []
  inputsActive : List Nat := []
deriving DecidableEq, Repr

/-- An Infuser message of R253, with the verdict on its tag in an encrypted stream (R256) and on its Ethernet frame
(R446). -/
structure IngestMsg where
  port : Nat
  conn : Nat
  seq : Nat
  flags : Nat := 0
  reserved : Nat := 0
  sampleId : Nat := 0
  arg : Nat := 0
  payload : List Byte := []
  tagOk : Bool := true
  etherType : Nat := 0x88B6
  fcsOk : Bool := true
  source : Nat := 0
deriving DecidableEq, Repr

/-- What a media decoder makes of one sample's coded bytes: the codecs are external standards (R261 to R263). reason is
the decoder's own finding in the encoding of R270, 0 when the sample decodes. frames are the decoded images before colour
expansion (R208): grey or RGB pixels, with alpha or not, of sampleBits each (in two bytes above 8); luma holds the Y plane of
each from the YCbCr decode; pcm is the decoded audio. -/
structure Decoded where
  reason : Nat := 0
  width : Nat := 0
  height : Nat := 0
  firstFrameBytes : Nat := 0
  declaredSamples : Nat := 0
  channels : Nat := 0
  rate : Nat := 0
  grey : Bool := false
  alpha : Bool := false
  sampleBits : Nat := 8
  frames : List (List Byte) := []
  luma : List (List Byte) := []
  pcm : List F32 := []
  flags : Nat := 0
deriving DecidableEq, Repr

/-- The header of a Kettle transport packet (R440, R441) as it reaches a port. -/
structure KHdr where
  port : Nat
  srcModule : Nat := 0
  srcPartition : Nat := 0
  tag : Nat := 0
  seq : Nat := 0
  fenceEpoch : Nat := 0
  timestamp : Nat := 0
  crcOk : Bool := true
deriving DecidableEq, Repr

/-- The ring key of R279 and the block fields of R440. -/
structure BlockFields where
  group : Nat
  tensor : Nat
  policy : Nat
  format : Nat
  total : Nat
  block : Nat
  contributed : Nat
  pairSum : F64 := 0
  pairAbs : F64 := 0
  payload : List Byte
deriving DecidableEq, Repr

/-- An SPDM request of R404 as it arrives: where it came from, the session it belongs to, its body, and whether the
requester's certificate chain ends in a root of the trust record (R407). -/
structure Spdm where
  source : Nat
  session : Option Nat := none
  body : List Byte := []
  mutualAuth : Bool := false
  ok : Bool := true
deriving DecidableEq, Repr

/-- A run of an engine's command: the engine's number, a logical cluster or a gather queue, and the first address of what it
reads on the plane whose word parity is bad, none where all is good (R240). -/
structure EngineRun where
  n : Nat
  parity : Option Nat := none
deriving DecidableEq, Repr

/-- Where a fault of a core or of an array is met (R134, R214): the pass of the running command, and whether the pass in flight
replays an earlier fault's tiles. -/
structure PassFault where
  pass : Nat
  inReplay : Bool := false
deriving DecidableEq, Repr

/-- A unit with steep mode (R137, R215): a logical cluster, or a First-Layer Engine. -/
structure ArrayUnit where
  n : Nat
  fle : Bool := false
deriving DecidableEq, Repr

/-- The commands and events, one constructor per row of spec/opcode_table.json. p is a partition, n a logical cluster,
q a queue number, s a stream, k a Kettle port, f a function or an FLE as the row says. -/
inductive Instr where
  | caddyRead (r : Req) (index sub offset : Nat)
  | caddyWrite (r : Req) (index sub ty : Nat) (value : List Byte) (offset total : Nat) (more : Bool)
  | caddyDescribe (r : Req) (index sub offset : Nat)
  | caddyIdentify (r : Req) (broadcast : Bool)
  | caddySegmentTimeout (route : Route) (index sub : Nat)
  | start (r : Req) (p : Nat)
  | drain (r : Req) (p : Nat)
  | abort (r : Req) (p : Nat)
  | reclaim (r : Req) (p : Nat)
  | scrub (r : Req) (p : Nat)
  | clearSafeStop (r : Req) (p : Nat)
  | layoutCommit (r : Req) (value : Nat)
  | hostedPartnerWindow (r : Req) (gib : Nat)
  | partnerModuleAddress (r : Req) (p : Nat) (address : Nat)
  | partnerWindowRequest (r : Req) (p : Nat) (gib : Nat)
  | accumulatorVisibility (r : Req) (value : Nat)
  | debugTileData (r : Req) (write : Option (List Byte))
  | timebaseSet (r : Req) (t : Nat)
  | snapshotTime (r : Req) (t : Nat)
  | snapshotLatch
  | snapshotRelease (r : Req) (value : Nat)
  | migrationRequest (r : Req) (stack channel : Nat)
  | acknowledge (r : Req) (sequence : Nat)
  | declareModuleLost (r : Req) (address : Nat)
  | reclaimNoticeSend (r : Req) (modules partitions : Nat)
  | warmResetRequest (r : Req) (value : Nat) (found : Findings)
  | sensorMinMaxReset (r : Req) (index value : Nat)
  | logClear (r : Req) (value : Nat)
  | logReadData (r : Req)
  | keyErase (r : Req) (handle : Nat)
  | securityStateRequest (r : Req) (value : Nat)
  | updateStagingData (r : Req) (bytes : List Byte)
  | updateVerify (r : Req) (v : Verdict)
  | updateActivate (r : Req)
  | updateCancel (r : Req)
  | activationHold
  | handoffPoint
  | handoffAcceptance (accept crashed : Bool)
  | acceptanceLimit
  | cccHandoffWait (row : Nat)
  | recordStagingData (r : Req) (bytes : List Byte)
  | recordVerify (r : Req) (v : Verdict)
  | recordApply (r : Req)
  | recordCancel (r : Req)
  | recordExport (r : Req)
  | restoreDefaults (r : Req)
  | trustRecordStagingData (r : Req) (bytes : List Byte)
  | trustRecordVerify (r : Req) (v : Verdict)
  | trustRecordApply (r : Req)
  | trustRecordCancel (r : Req)
  | journalSwitch
  | kettlePortEnable (r : Req) (k : Nat) (value : Nat) (lanesTrained : Nat)
  | bar0RegisterWrite (fn offset value : Nat) (ide : Bool)
  | sqTailDb (fn value : Nat) (ide : Bool)
  | cqHeadDb (fn value : Nat) (ide : Bool)
  | attachResume (fn : Nat) (ide : Bool)
  | attachReset (fn : Nat) (ide : Bool)
  | errqAck (fn sequence : Nat) (ide : Bool)
  | moduleReset (value : Nat) (found : Findings)
  | caddyDb (value : Nat)
  | caddyRsp
  | doorbellErr (fn : Nat) (ide : Bool)
  | bar2Write (fn address : Nat) (bytes : List Byte) (ide : Bool)
  | submissionConsume (p : Nat)
  | listStart (p lane : Nat)
  | commandDispatch (kind q : Nat)
  | commandComplete (kind q : Nat)
  | deadlineMiss (p lane : Nat)
  | barrierStalled (p kind : Nat)
  | heartbeatSample (p : Nat)
  | hostLeaseExpired (p : Nat)
  | orphanServingTimeout (p : Nat)
  | irqCoalesceTimer (p : Nat)
  | scheduleTick (p lane : Nat)
  | gemm (n : Nat) (parity : Option Nat)
  | spatialOperator (u : EngineRun)
  | setArrayModeWide (n : Nat)
  | setArrayModeChive16 (n : Nat)
  | setArrayModeChive32 (n : Nat)
  | loadStationary (u : EngineRun)
  | epilogueOnly (u : EngineRun)
  | preemption (n passesDone : Nat)
  | arrayFault (site coreRow coreCol : Nat) (u : PassFault)
  | coreRetirementComplete (site : Nat) (badWords : List Nat)
  | steepRampDown (u : ArrayUnit)
  | fleFault (f array : Nat) (u : PassFault)
  | vectorAdd (u : EngineRun)
  | vectorMultiply (u : EngineRun)
  | vectorSubtract (u : EngineRun)
  | vectorMaximum (u : EngineRun)
  | vectorMinimum (u : EngineRun)
  | vectorCopyAndCast (u : EngineRun)
  | vectorExp (u : EngineRun)
  | vectorReciprocal (u : EngineRun)
  | vectorReciprocalSqrt (u : EngineRun)
  | castOnGather (u : EngineRun)
  | reduceAdd (u : EngineRun)
  | checksumVerify (u : EngineRun)
  | copy (n : Nat) (faults : List BlockFault)
  | decryptingCopy (n : Nat) (badTag : Option Nat)
  | skewedOperandFeed (u : EngineRun)
  | multicast (n : Nat) (faults : List BlockFault)
  | recomputeRange (n : Nat)
  | reduceScatter (q : Nat) (faults : List BlockFault)
  | allGather (q : Nat) (faults : List BlockFault)
  | allReduce (q : Nat) (faults : List BlockFault)
  | sachetPoint (q : Nat)
  | sachetFetch (q : Nat)
  | mediaBind (s : Nat)
  | decodeBlockList (s : Nat)
  | closeGraceful (s : Nat)
  | closeAbort (s : Nat)
  | gatherList (u : EngineRun)
  | gatherAdd (u : EngineRun) (badRows : List Nat)
  | atomicAdd (p address format : Nat) (values : List (Option F32)) (stochastic : Bool)
  | pairAdd (p address : Nat) (sum abs : F64)
  | hbmWrite (p address : Nat) (bytes : List Byte)
  | hbmBlockRead (p address consumer : Nat) (mismatch persists : Bool)
  | patrolBlock (stack channel : Nat) (mismatch persists : Bool)
  | channelDegraded (stack channel : Nat)
  | retrainingCheckFailed (stack channel : Nat)
  | migrationCopyDone (stack : Nat) (badBlocks : List Nat)
  | migrationRetrainDone (stack : Nat)
  | marchTestDone (stack : Nat) (passed : Bool)
  | channelFailed (stack channel : Nat)
  | scrubComplete (p : Nat)
  | openMsg (m : IngestMsg)
  | dataMsg (m : IngestMsg)
  | endMsg (m : IngestMsg)
  | roi (m : IngestMsg)
  | resultCredit (m : IngestMsg)
  | abortSample (m : IngestMsg)
  | ingestCreditTimer (s : Nat)
  | positionWritten (s position : Nat) (d : Decoded)
  | roundDeadline (s : Nat)
  | streamStall (s : Nat)
  | portDown (port : Nat)
  | kettleFlit (k seq ack : Nat) (crcOk : Bool)
  | nak (k seq : Nat)
  | hello (k peer peerPort lanes secVersion : Nat)
  | remap (k lane phase : Nat)
  | kettleLaneRemapped (k lane : Nat) (ok : Bool)
  | block (h : KHdr) (b : BlockFields)
  | credit (h : KHdr) (count : Nat)
  | refuse (h : KHdr) (status : Nat)
  | kettleCreditTimer (q : Nat)
  | sachetBlock (h : KHdr) (sachetId offset : Nat) (payload : List Byte) (crcOk : Bool)
  | sachetConfirm (h : KHdr) (sachetId offset count status : Nat)
  | fetchRequest (h : KHdr) (sachetId offset bytes guest guestPartition region : Nat)
  | fetchData (h : KHdr) (sachetId offset : Nat) (payload : List Byte) (crcOk : Bool)
  | fetchRefuse (h : KHdr) (status : Nat)
  | windowBind (h : KHdr) (gib partition : Nat)
  | windowReply (h : KHdr) (status slots : Nat)
  | windowRelease (h : KHdr) (partition : Nat)
  | windowNotice (h : KHdr) (status : Nat)
  | stragglerDeadline (q : Nat)
  | ledgerCopyDone (p key : Nat)
  | collectiveStall (q : Nat)
  | peerLossHold (peer : Nat)
  | sync (source t : Nat)
  | reclaimNotice (source modules partitions : Nat)
  | faultBroadcast (source status : Nat) (fatal : Bool) (named : Nat)
  | moduleLost (source lost : Nat)
  | landed (source group epoch partition : Nat)
  | rollbackMsg (source group epoch : Nat)
  | groupReclaim (source group partition : Nat)
  | barrierSlot (group : Nat) (notArrived even odd : Bool) (closed broken : Bool)
  | holdover
  | freeRun
  | masterTakeover (address : Nat)
  | sachetCapture (p : Nat) (faults : List BlockFault)
  | sachetLanded (p : Nat)
  | tier2WriteDone (p : Nat)
  | tier3WriteDone (p : Nat)
  | rollbackRestoreDone (p : Nat)
  | startRestoreDone (p : Nat)
  | spareSelfTestDone (site : Nat) (passed : Bool)
  | reclaimFenceAbort (p : Nat)
  | reclaimDeadline (p : Nat)
  | errorEntryHandle (handler : Nat)
  | errorEntryLogged (sequence : Nat)
  | flitParityError (path kind : Nat) (replaysFailed : Nat) (retrained : Bool)
  | faultInN
  | reclaimN
  | warmResetN (found : Findings)
  | inputStuck (input : Nat)
  | strainerRearm (input : Nat)
  | componentFault (processor component : Nat)
  | cccRestarted (n : Nat)
  | schTakeover
  | pmcTakeover
  | secFailed
  | getVersion (m : Spdm)
  | getCapabilities (m : Spdm)
  | negotiateAlgorithms (m : Spdm)
  | getDigests (m : Spdm)
  | getCertificate (m : Spdm) (slot offset length : Nat)
  | challenge (m : Spdm) (slot : Nat)
  | getMeasurements (m : Spdm) (index : Nat) (signed : Bool)
  | keyExchange (m : Spdm) (slot : Nat)
  | finish (m : Spdm)
  | keyUpdate (m : Spdm)
  | heartbeat (m : Spdm)
  | endSession (m : Spdm)
  | chunkGet (m : Spdm) (handle chunk : Nat)
  | chunkSend (m : Spdm) (handle chunk : Nat) (last : Bool)
  | keyDeliver (m : Spdm) (ty partition handle lifetime : Nat) (key : List Byte)
  | keyRevoke (m : Spdm) (ty partition handle : Nat)
  | keyLifetimeExpired (handle : Nat)
  | ideKm (m : Spdm) (stream keySet : Nat) (key : List Byte)
  | pmcControlPeriod (power : Nat)
  | governorSample (power : Nat)
  | droopEvent (n : Nat)
  | sensorSample (index : Nat) (value : F32)
  | zoneThrottleStep (zone : Nat)
  | idleGating (p : Nat)
  | bandPllStop (band : Nat)
  | bladesLive (found : Findings)
  | bladePowerFail
  | logBufferProgram
  | linkDown
  | functionReset (fn : Nat)
  | function0Reset
  | entdaa (address : Nat)
  | setdasa (address : Nat)
  | rstdaa
  | getpid
  | getbcr
  | getdcr
  | getmwl
  | setmwl (length : Nat)
  | getmrl
  | enec (events : Nat)
  | disec (events : Nat)
  | rstact (definingByte : Nat) (found : Findings)
  | ingestPortUp (port : Nat)
  | plcaBeaconLost
  | plcaBeacon
  | debugSessionOpen
  | debugSessionClose
  | strainerInputRelease (input : Nat)
  | flowControlFrame (port : Nat)
deriving DecidableEq, Repr

end Sys2Proof
end

