-- ==== Sys2Proof/Decode.lean ====
section
/-!
DEFINITION. The command a word spells by the table's bits. Every row of spec/opcode_table.json has an empty list of
fields, so no word spells a command; the commands reach the block by name (log 5).
-/

namespace Sys2Proof

/-- The command that the word w of nbits bits spells: none, for the table gives no row a bit. -/
def decodeTableWord (_nbits _w : Nat) : Option Instr := none

end Sys2Proof
end

