-- ==== Sys2Proof/Config.lean ====
section
/-!
DEFINITION. What one implementation fixes and the values the spec leaves open. The latter are opaque constants with no
body, so that nothing can be proved about their value: a claim that holds, holds for every value (log 4).
-/

namespace Sys2Proof.Config

/-- What the component table of an image says of a component (R347): its code, data and stack regions as base and length,
the guard band below its stack, and the components of the same processor that may write to its message port. -/
structure Component where
  code : Nat × Nat
  data : Nat × Nat
  stack : Nat × Nat
  guard : Nat
  senders : List Nat
deriving DecidableEq, Repr, Inhabited

/-- 16 bits of a random source used by stochastic rounding (R125); the argument is the model's draw counter. -/
opaque randomBits : Nat → BitVec 16

/-- A byte that the spec calls undefined; the argument is a counter or an address (R48, R134, R158). -/
opaque freeByte : Nat → Byte

/-- Which of the FP32 values within 2 ulp of the true result the engine's exp delivers (R183). -/
opaque expUlps : F32 → BitVec 3

/-- The same for 1 / a (R183). -/
opaque recipUlps : F32 → BitVec 3

/-- The same for 1 / sqrt a (R183). -/
opaque rsqrtUlps : F32 → BitVec 3

/-- Sign and payload of the quiet NaN that an operation delivers in a format of so many bits: R183 says only "quiet
NaN". The top bit is the sign. -/
opaque nanPayload : Nat → BitVec 52

/-- Key of element i in the fixed order in which the engines add up a checksum: R186 and R188 do not say which. -/
opaque sumKey : Nat → Nat

/-- Key by which the n-th command's operation i arrives where adds are applied in the order of arrival (R4, R31, R233). -/
opaque arrivalKey : Nat → Nat → Nat

/-- Byte i of the schedule section of the sachet with an identifier: R306 gives its content and no layout. -/
opaque scheduleByte : Nat → Nat → Byte

/-- Bytes of the schedule section that the sachet with an identifier uses; the rest is zero (R306). -/
opaque scheduleLen : Nat → Nat

/-- Distance of a region of the plan from the first region in the image of the sachet with an identifier, as its holder
knows it: R305 gives the image no table of regions (R321). -/
opaque regionGap : Nat → Nat → Nat

/-- Whether a module's partition is a member of a barrier group, as another module judges it (R321). -/
opaque groupMember : Nat → Nat → Nat → Bool

/-- Slots that a WINDOW_REPLY names to a module and partition for so many GiB: the sachet size that decides them (R308)
is not in WINDOW_BIND. -/
opaque replySlots : Nat → Nat → Nat → Byte

/-- Which staging block of a channel takes an arriving block (R280). -/
opaque stagingSlot : Nat → Nat

/-- Plain text of a weight container block under AES-256-GCM (R411): key, IV, additional data, cipher text. -/
opaque gcmOpen : List Byte → List Byte → List Byte → List Byte → List Byte

/-- Cipher text and tag of AES-256-GCM (R256). -/
opaque gcmSeal : List Byte → List Byte → List Byte → List Byte → List Byte

/-- SHA-384 (R398), 48 bytes. -/
opaque sha384 : List Byte → List Byte

/-- What an SPDM responder answers, by request code and content (DMTF DSP0274 lies outside the spec, R404). -/
opaque spdmBody : Nat → List Byte → List Byte

/-- Measurement of the boot ROM (R403). -/
opaque romDigest : List Byte

/-- Measurement of the image of a kind that a module is delivered with (R357, R403). -/
opaque imageDigest : Nat → List Byte

/-- Measurement of the factory record of a version (R403). -/
opaque factoryDigest : Nat → List Byte

/-- The SHA-384 identity digest of a module with a device root (R384, R402). -/
opaque identityDigest : Nat → List Byte

/-- The provisioned identifier of the I3C target, 6 bytes, and its bus and device characteristics (R457 names the CCCs
that read them and gives no value). -/
opaque i3cPid : List Byte
opaque i3cBcr : Byte
opaque i3cDcr : Byte

/-- The frequency correction that a follower learns from a sync word, in ps per reference tick, from the one before and the
offset it measured (R91 gives no filter). -/
opaque learned : Int → Int → Int

/-- The plane, of the four, that the hash of a destination address picks (R28 gives no hash). -/
opaque planeHash : Nat → BitVec 2

/-- The event code of the log record of a dropped mesh packet: R29 asks for the record and R388 lists no code for it. -/
opaque meshDropEvent : BitVec 16

/-- An audio sample after the fixed polyphase rate conversion of R263, whose taps the spec does not give: source rate,
output rate, input samples of one channel, output index. -/
opaque polyphase : Nat → Nat → List F32 → Nat → F32

/-- The regions of a firmware component and the senders that its message port admits, from the component table of its image
(R347 names the table and gives no format): processor, component. -/
opaque component : Nat → Nat → Component

/-- Key vault keys wrapped under a PUF-derived key, as SEC hands them over (R363 gives no wrapping). -/
opaque wrapVault : List Byte → List Byte

/-- Whether 8-bit raw PCM counts from 128 as zero, as WAV does, or is two's complement: R250 and R263 do not say. -/
opaque pcm8Offset : Bool

/-- Tenths of a degree, litre per minute, volt, ampere or watt that a sensor reads at start-up, before its first
sample (R385 gives no first reading). -/
def sensorStart : Nat := 0

/-- Version of the machine-readable dictionary shipped with the firmware (R384 gives no number). -/
def dictionaryVersion : Nat := 1

/-- Ralulaine's IANA Private Enterprise Number (R384). -/
def vendorNumber : Nat := 61417

/-- The 25 MHz reference: nanoseconds of one tick (R93, R459). -/
def tickNs : Nat := 40

/-- Ticks of the 25 MHz reference in one millisecond. -/
def ticksPerMs : Nat := 25000

/-- Ticks of the 25 MHz reference in one microsecond. -/
def ticksPerUs : Nat := 25

end Sys2Proof.Config
end

