-- ==== Sys2Proof/Machine/Data.lean ====
section
/-!
DEFINITION. Plain data the machine is made of: tables keyed by numbers, sets of numbers as ranges, byte strings in
little-endian order (R12), the CRC-32C of R77 and R82, and byte memory in its canonical form.
-/

namespace Sys2Proof.Machine

/-- A table of values by number. A number that is not listed reads the default its reader gives. -/
abbrev Tab (α : Type) := List (Nat × α)

/-- The value listed under k. -/
def Tab.find {α : Type} (t : Tab α) (k : Nat) : Option α :=
  match t with
  | [] => none
  | (j, v) :: r => if j = k then some v else Tab.find r k

/-- The value listed under k, else d. -/
def Tab.get {α : Type} (t : Tab α) (d : α) (k : Nat) : α := (Tab.find t k).getD d

/-- The table without k. -/
def Tab.del {α : Type} (t : Tab α) (k : Nat) : Tab α := t.filter (fun e => decide (e.1 ≠ k))

/-- The table with v under k. -/
def Tab.set {α : Type} (t : Tab α) (k : Nat) (v : α) : Tab α := (k, v) :: Tab.del t k

/-- The table with the value under k changed by f. -/
def Tab.mod {α : Type} (t : Tab α) (d : α) (k : Nat) (f : α → α) : Tab α := Tab.set t k (f (Tab.get t d k))

/-- A set of numbers as half-open ranges. -/
abbrev Ranges := List (Nat × Nat)

/-- Whether n lies in one of the ranges. -/
def Ranges.has (r : Ranges) (n : Nat) : Bool := r.any (fun e => decide (e.1 ≤ n ∧ n < e.2))

/-- The ranges without lo to hi - 1. -/
def Ranges.del (r : Ranges) (lo hi : Nat) : Ranges :=
  r.flatMap (fun e =>
    (if e.1 < min e.2 lo then [(e.1, min e.2 lo)] else []) ++ (if max e.1 hi < e.2 then [(max e.1 hi, e.2)] else []))

/-- The ranges with lo to hi - 1. -/
def Ranges.add (r : Ranges) (lo hi : Nat) : Ranges := if lo < hi then (lo, hi) :: Ranges.del r lo hi else r

/-- The n bytes of v, least significant first (R12). -/
def le (n v : Nat) : List Byte :=
  match n with
  | 0 => []
  | k + 1 => BitVec.ofNat 8 v :: le k (v / 256)

/-- The number whose bytes are bs, least significant first (R12). -/
def ofLe (bs : List Byte) : Nat :=
  match bs with
  | [] => 0
  | b :: r => b.toNat + 256 * ofLe r

/-- The n bytes of v, most significant first. -/
def be (n v : Nat) : List Byte := (le n v).reverse

/-- n bytes of bs from off; bytes past the end read 0. -/
def slice (bs : List Byte) (off n : Nat) : List Byte :=
  let r := (bs.drop off).take n
  r ++ List.replicate (n - r.length) 0

/-- The little-endian field of n bytes at off. -/
def field (bs : List Byte) (off n : Nat) : Nat := ofLe (slice bs off n)

/-- Whether the n bytes from off are zero. -/
def zeroAt (bs : List Byte) (off n : Nat) : Bool := ((bs.drop off).take n).all (fun b => decide (b = 0))

/-- bs with the bytes w put at off. -/
def overlay (bs : List Byte) (off : Nat) (w : List Byte) : List Byte :=
  slice bs 0 off ++ w ++ bs.drop (off + w.length)

/-- bs cut or filled with zeros to n bytes. -/
def padTo (n : Nat) (bs : List Byte) : List Byte := slice bs 0 n

/-- n zero bytes. -/
def zeros (n : Nat) : List Byte := List.replicate n 0

/-- Bit i of a number. -/
def bit (v i : Nat) : Bool := v / 2 ^ i % 2 == 1

/-- Bits hi down to lo of a number. -/
def bits (v hi lo : Nat) : Nat := v / 2 ^ lo % 2 ^ (hi + 1 - lo)

/-- The characters of an ASCII string as bytes. -/
def ascii (s : String) : List Byte := s.toList.map (fun c => BitVec.ofNat 8 c.toNat)

/-- One bit of the CRC-32C register: reflected polynomial 0x82F63B78. -/
def crcBit (n : Nat) (c : BitVec 32) : BitVec 32 :=
  match n with
  | 0 => c
  | k + 1 => crcBit k (if c.getLsbD 0 then (c >>> 1) ^^^ 0x82F63B78#32 else c >>> 1)

/-- The CRC-32C register after the bytes bs. -/
def crcRun (c : BitVec 32) (bs : List Byte) : BitVec 32 :=
  bs.foldl (fun r b => crcBit 8 (r ^^^ b.zeroExtend 32)) c

/-- CRC-32C of bs. -/
def crc32c (bs : List Byte) : Nat := (crcRun 0xFFFFFFFF#32 bs ^^^ 0xFFFFFFFF#32).toNat

/-- A record of n bytes in front of its own CRC-32C: bs, then the CRC of bs. -/
def withCrc (bs : List Byte) : List Byte := bs ++ le 4 (crc32c bs)

/-- Whether the CRC-32C of the first n bytes stands after them. -/
def crcOk (bs : List Byte) (n : Nat) : Bool := crc32c (slice bs 0 n) == field bs n 4

/-- Is e at or above c in the serial arithmetic of R100. -/
def serialGe (e c : Nat) : Bool := (e + 2 ^ 32 - c % 2 ^ 32) % 2 ^ 32 < 2 ^ 31

/-- Is e above c in the serial arithmetic of R100. -/
def serialGt (e c : Nat) : Bool := serialGe e c && e % 2 ^ 32 != c % 2 ^ 32

/-- Memory bytes that differ from zero, by rising place. -/
abbrev Mem := List Host.Cell

/-- The byte at place a; an unlisted place reads 0 (log 9). -/
def Mem.get (m : Mem) (a : Nat) : Byte :=
  match m with
  | [] => 0
  | c :: r => if c.1 = a then c.2 else if a < c.1 then 0 else Mem.get r a

/-- Memory with byte b at place a, in canonical form. -/
def Mem.put (m : Mem) (a : Nat) (b : Byte) : Mem :=
  match m with
  | [] => if b = 0 then [] else [(a, b)]
  | c :: r =>
    if a < c.1 then (if b = 0 then c :: r else (a, b) :: c :: r)
    else if a = c.1 then (if b = 0 then r else (a, b) :: r)
    else c :: Mem.put r a b

/-- Memory with bs at the places given. -/
def Mem.putAll (m : Mem) (w : List (Nat × Byte)) : Mem := w.foldl (fun m e => Mem.put m e.1 e.2) m

/-- Memory with every place that sel picks cleared. -/
def Mem.clear (m : Mem) (sel : Nat → Bool) : Mem := m.filter (fun c => !sel c.1)

/-- The canonical form: places strictly rising from above lo, no zero byte listed. -/
def Mem.wfFrom (lo : Nat) (m : Mem) : Bool :=
  match m with
  | [] => true
  | c :: r => decide (lo ≤ c.1) && decide (c.2 ≠ 0) && Mem.wfFrom (c.1 + 1) r

/-- The canonical form of memory. -/
def Mem.wf (m : Mem) : Bool := Mem.wfFrom 0 m

end Sys2Proof.Machine
end

