-- ==== Sys2Proof/Machine/Float.lean ====
section
/-!
DEFINITION. Numbers: the formats of R123, IEEE 754 sums and products rounded once (R124), the casts of R177, the functions
of R183. A value is an exact number sign, mantissa, power of two, or an infinity, or a NaN.
-/

namespace Sys2Proof.Machine

open Sys2Proof

/-- A floating-point value: m × 2^e with a sign. -/
inductive FV where
  | nan
  | inf (neg : Bool)
  | fin (neg : Bool) (m : Nat) (e : Int)
deriving DecidableEq, Repr

/-- A binary format: exponent bits, fraction bits, bias; kind 0 IEEE 754, 1 E4M3 (no infinity, one NaN), 2 neither. -/
structure Fmt where
  eb : Nat
  mb : Nat
  bias : Nat
  kind : Nat
deriving DecidableEq, Repr

def fp32 : Fmt := ⟨8, 23, 127, 0⟩
def bf16 : Fmt := ⟨8, 7, 127, 0⟩
def fp16 : Fmt := ⟨5, 10, 15, 0⟩
def e4m3 : Fmt := ⟨4, 3, 7, 1⟩
def e5m2 : Fmt := ⟨5, 2, 15, 0⟩
def e2m3 : Fmt := ⟨2, 3, 1, 2⟩
def e3m2 : Fmt := ⟨3, 2, 3, 2⟩
def e2m1 : Fmt := ⟨2, 1, 1, 2⟩
def fp64 : Fmt := ⟨11, 52, 1023, 0⟩

/-- Width of a format in bits. -/
def Fmt.width (f : Fmt) : Nat := 1 + f.eb + f.mb

/-- The value of the bits b. -/
def Fmt.decode (f : Fmt) (b : Nat) : FV :=
  let neg := b / 2 ^ (f.eb + f.mb) % 2 == 1
  let x := b / 2 ^ f.mb % 2 ^ f.eb
  let m := b % 2 ^ f.mb
  if f.kind = 0 ∧ x = 2 ^ f.eb - 1 then (if m = 0 then .inf neg else .nan)
  else if f.kind = 1 ∧ x = 2 ^ f.eb - 1 ∧ m = 2 ^ f.mb - 1 then .nan
  else if x = 0 then .fin neg m (1 - (f.bias : Int) - f.mb)
  else .fin neg (2 ^ f.mb + m) ((x : Int) - f.bias - f.mb)

/-- The sign bit in place. -/
def Fmt.signBit (f : Fmt) (neg : Bool) : Nat := if neg then 2 ^ (f.eb + f.mb) else 0

/-- The bits of infinity (IEEE formats). -/
def Fmt.infBits (f : Fmt) (neg : Bool) : Nat := f.signBit neg + (2 ^ f.eb - 1) * 2 ^ f.mb

/-- The bits of the largest finite magnitude. -/
def Fmt.maxBits (f : Fmt) : Nat :=
  if f.kind = 0 then (2 ^ f.eb - 1) * 2 ^ f.mb - 1
  else if f.kind = 1 then 2 ^ (f.eb + f.mb) - 2
  else 2 ^ (f.eb + f.mb) - 1

/-- The bits of a quiet NaN: payload and sign are open (R183, log 4). E4M3 has one NaN pattern of either sign. -/
def Fmt.nanBits (f : Fmt) : Nat :=
  let r := (Config.nanPayload f.width).toNat
  let sign := r / 2 ^ 51 % 2 * 2 ^ (f.eb + f.mb)
  if f.kind = 1 then sign + 2 ^ (f.eb + f.mb) - 1
  else sign + (2 ^ f.eb - 1) * 2 ^ f.mb + 2 ^ (f.mb - 1) + r % 2 ^ (f.mb - 1)

/-- Power of two of the least unit of a magnitude m × 2^e in the format. -/
def Fmt.quantum (f : Fmt) (m : Nat) (e : Int) : Int :=
  max ((Nat.log2 m : Int) + e - f.mb) (1 - (f.bias : Int) - f.mb)

/-- How a magnitude is rounded: to nearest even, toward zero, or stochastically with a 16-bit fraction (R125). -/
inductive Rounding where
  | nearest
  | down
  | random (r : Nat)
deriving DecidableEq, Repr

/-- m × 2^e as a whole number of units 2^q. -/
def roundUnits (md : Rounding) (m : Nat) (e q : Int) : Nat :=
  if q ≤ e then m * 2 ^ (e - q).toNat
  else
    let sh := (q - e).toNat
    let n := m / 2 ^ sh
    let rem := m % 2 ^ sh
    match md with
    | .down => n
    | .random r => (m * 65536 + r % 65536 * 2 ^ sh) / 2 ^ (sh + 16)
    | .nearest => if 2 * rem < 2 ^ sh then n else if 2 ^ sh < 2 * rem then n + 1 else n + n % 2

/-- The bits of n units of 2^q (n at most 2^(mb+1)), without sign; larger than every finite pattern on overflow. -/
def Fmt.pack (f : Fmt) (n : Nat) (q : Int) : Nat :=
  let base := (q - (1 - (f.bias : Int) - f.mb)).toNat
  base * 2 ^ f.mb + n

/-- A magnitude rounded to the format: its bits without sign, none on overflow past the largest finite value. -/
def Fmt.roundMag (f : Fmt) (md : Rounding) (m : Nat) (e : Int) : Option Nat :=
  if m = 0 then some 0
  else
    let q := f.quantum m e
    let b := f.pack (roundUnits md m e q) q
    if b ≤ f.maxBits then some b else none

/-- A value rounded to the format under IEEE 754: overflow gives infinity, or the largest magnitude where the format has no
infinity. -/
def Fmt.round (f : Fmt) (md : Rounding) (v : FV) : Nat :=
  match v with
  | .nan => f.nanBits
  | .inf neg => if f.kind = 0 then f.infBits neg else f.signBit neg + f.maxBits
  | .fin neg m e =>
    match f.roundMag md m e with
    | some b => f.signBit neg + b
    | none => if f.kind = 0 then f.infBits neg else f.signBit neg + f.maxBits

/-- The exact sum. A sum of opposite values is +0, a sum of like zeros keeps its sign. -/
def FV.add (a b : FV) : FV :=
  match a, b with
  | .nan, _ | _, .nan => .nan
  | .inf x, .inf y => if x = y then .inf x else .nan
  | .inf x, _ | _, .inf x => .inf x
  | .fin x m e, .fin y n g =>
    let q := min e g
    let p : Int := (m * 2 ^ (e - q).toNat : Nat)
    let r : Int := (n * 2 ^ (g - q).toNat : Nat)
    let t := (if x then -p else p) + (if y then -r else r)
    if t = 0 then .fin (x && y) 0 q else .fin (decide (t < 0)) t.natAbs q

/-- The negated value. -/
def FV.neg (a : FV) : FV :=
  match a with
  | .nan => .nan
  | .inf x => .inf (!x)
  | .fin x m e => .fin (!x) m e

/-- The magnitude. -/
def FV.abs (a : FV) : FV :=
  match a with
  | .nan => .nan
  | .inf _ => .inf false
  | .fin _ m e => .fin false m e

/-- The exact product. -/
def FV.mul (a b : FV) : FV :=
  match a, b with
  | .nan, _ | _, .nan => .nan
  | .inf x, .inf y => .inf (xor x y)
  | .inf x, .fin y m _ | .fin y m _, .inf x => if m = 0 then .nan else .inf (xor x y)
  | .fin x m e, .fin y n g => .fin (xor x y) (m * n) (e + g)

/-- Whether a value is not finite. -/
def FV.special (a : FV) : Bool :=
  match a with
  | .fin _ _ _ => false
  | _ => true

/-- Exact comparison of finite magnitudes with sign: a below b; −0 is below +0 (R183). -/
def FV.lt (a b : FV) : Bool :=
  match a, b with
  | .nan, _ | _, .nan => false
  | .inf x, .inf y => x && !y
  | .inf x, _ => x
  | _, .inf y => !y
  | .fin x m e, .fin y n g =>
    let q := min e g
    let p := m * 2 ^ (e - q).toNat
    let r := n * 2 ^ (g - q).toNat
    if p = 0 ∧ r = 0 then x && !y
    else if x ≠ y then (if p = 0 then !y else if r = 0 then x else x)
    else if x then decide (r < p) else decide (p < r)

/-- IEEE 754-2019 maximum and minimum (R183). -/
def FV.maximum (a b : FV) : FV :=
  match a, b with
  | .nan, _ | _, .nan => .nan
  | _, _ => if FV.lt a b then b else a
def FV.minimum (a b : FV) : FV :=
  match a, b with
  | .nan, _ | _, .nan => .nan
  | _, _ => if FV.lt b a then b else a

/-- FP32 bits as a value, and the nearest FP32 of a value. -/
def ofF32 (b : Nat) : FV := fp32.decode b
def toF32 (v : FV) : Nat := fp32.round .nearest v

/-- FP32 sum and product, rounded once to nearest even. -/
def addF32 (a b : Nat) : Nat := toF32 (FV.add (ofF32 a) (ofF32 b))
def mulF32 (a b : Nat) : Nat := toF32 (FV.mul (ofF32 a) (ofF32 b))

/-- FP32 fused: c + a × b with the exact product, rounded once (R124). -/
def fmaF32 (c : Nat) (a b : FV) : Nat := toF32 (FV.add (ofF32 c) (FV.mul a b))

/-- FP64 sum, rounded once (R187). -/
def addF64 (a b : Nat) : Nat := fp64.round .nearest (FV.add (fp64.decode a) (fp64.decode b))

/-- 2 to a power, exactly. -/
def FV.pow2 (e : Int) : FV := .fin false 1 e

/-- A value divided by a positive whole number, rounded once to FP32: the quotient is taken with 64 extra bits and a sticky
bit, which decide the rounding exactly. -/
def divF32 (a : FV) (n : Nat) : Nat :=
  match a with
  | .fin neg m e => toF32 (.fin neg (2 * (m * 2 ^ 64 / n) + (if m * 2 ^ 64 % n = 0 then 0 else 1)) (e - 65))
  | v => toF32 v

/-! ### Formats of commands (R123) -/

/-- Streaming and stationary element formats of a code (R123), none for a code that is refused. -/
def formatPair (code : Nat) : Option (Fmt × Fmt) :=
  match code with
  | 1 => some (fp32, fp32) | 2 => some (bf16, bf16) | 3 => some (fp16, fp16) | 4 => some (e4m3, e4m3)
  | 5 => some (e5m2, e5m2) | 6 => some (e4m3, e5m2) | 7 => some (e5m2, e4m3) | 8 => some (e4m3, e4m3)
  | 9 => some (e5m2, e5m2) | 10 => some (e2m3, e2m3) | 11 => some (e3m2, e3m2) | 12 => some (e2m1, e2m1)
  | 13 => some (e2m1, e2m1) | _ => none

/-- The element format of a code used for one tensor (R152: Y, I and X). -/
def formatOf (code : Nat) : Fmt := ((formatPair code).map (·.1)).getD fp32

/-- Codes 0x08 to 0x0C are MX formats (R123). -/
def isMx (code : Nat) : Bool := 8 ≤ code && code ≤ 12

/-- Bits of an element of a code (R123). -/
def elemBits (code : Nat) : Nat := (formatOf code).width

/-- Streaming rows per 512 cycles: 512 ÷ r (R119, R126). -/
def rowsPerPass (code : Nat) : Nat :=
  if code = 1 then 32 else if code = 2 ∨ code = 3 then 256 else if code = 12 ∨ code = 13 then 1024 else 512

/-- Element i of packed elements of a width, least significant first (R123). -/
def packedElem (bs : List Byte) (width i : Nat) : Nat :=
  field bs (i * width / 8) (((width + 7) / 8) + 1) / 2 ^ (i * width % 8) % 2 ^ width

/-- Elements of a width packed into bytes (R123). -/
def packElems (width : Nat) (es : List Nat) : List Byte :=
  le ((es.length * width + 7) / 8) (es.foldr (fun e acc => e % 2 ^ width + acc * 2 ^ width) 0)

/-- A cast to a format that is not MX, with the number of saturations and lost NaNs it counts (R177). The sign of the ±6 that a NaN
becomes in FP4 is open, as that of a NaN is (log 4). -/
def castTo (code : Nat) (md : Rounding) (v : FV) : Nat × Nat :=
  let f := formatOf code
  match v with
  | .nan =>
    if code = 13 then (f.signBit ((Config.nanPayload f.width).toNat / 2 ^ 51 % 2 == 1) + f.maxBits, 1) else (f.nanBits, 0)
  | .inf neg => if f.kind = 0 then (f.infBits neg, 0) else (f.signBit neg + f.maxBits, 1)
  | .fin neg m e =>
    match f.roundMag md m e with
    | some b => (f.signBit neg + b, 0)
    | none => if f.kind = 0 then (f.infBits neg, 0) else (f.signBit neg + f.maxBits, 1)

/-- Largest exponent of an element format (R177). -/
def emaxOf (code : Nat) : Int :=
  if code = 8 then 8 else if code = 9 then 15 else if code = 10 then 2 else if code = 11 then 4 else 2

/-- ⌊log₂⌋ of a finite non-zero magnitude. -/
def FV.log2 (v : FV) : Int :=
  match v with
  | .fin _ m e => (Nat.log2 m : Int) + e
  | _ => 0

/-- Is the value finite and not zero. -/
def FV.nonzero (v : FV) : Bool :=
  match v with
  | .fin _ m _ => m != 0
  | _ => false

/-- The E8M0 scale of an MX block (R177): 0xFF with a NaN; else from its largest finite magnitude, clamped to the code's
range; a block of zeros takes the smallest scale. -/
def mxScale (code : Nat) (vs : List FV) : Nat :=
  if vs.any (fun v => v == .nan) then 255
  else
    let xs := (vs.filter (fun v => v.nonzero)).map (fun v => v.log2 - emaxOf code + 127)
    match xs with
    | [] => 0
    | x :: r => (min 254 (max 0 (r.foldl max x))).toNat

/-- A block of 32 values cast to an MX format: scale, element bits, and the saturations counted (R177). -/
def mxBlock (code : Nat) (md : List Rounding) (vs : List FV) : Nat × List Nat × Nat :=
  let sc := mxScale code vs
  let f := formatOf code
  let cells := (vs.zip (md ++ List.replicate (vs.length - md.length) .nearest)).map (fun (v, m) =>
    match FV.mul v (FV.pow2 (127 - (sc : Int))) with
    | .nan => (0, 0)
    | .inf neg => (f.signBit neg + f.maxBits, 1)
    | .fin neg a e =>
      match f.roundMag m a e with
      | some b => (f.signBit neg + b, 0)
      | none => (f.signBit neg + f.maxBits, 1))
  (sc, cells.map (·.1), (cells.map (·.2)).sum)

/-! ### exp, reciprocal, reciprocal square root (R183) -/

/-- Largest FP32 magnitude, as bits. -/
def maxF32 : Nat := fp32.maxBits

/-- Whether FP32 pattern c lies within 2 ulp, of the binade of the true result, of a true result m × 2^e, or above it by less than
its last bit when sticky; below the normal range the unit is the smallest subnormal (R183, log 101). -/
def within2ulp (m : Nat) (e : Int) (sticky : Bool) (c : Nat) : Bool :=
  let x := FV.fin false m e
  let d := FV.add (fp32.decode c) x.neg
  let two := FV.pow2 (fp32.quantum m e + 1)
  if FV.lt d (.fin false 0 0) then (if sticky then FV.lt d.abs two else !FV.lt two d.abs) else !FV.lt two d.abs

/-- A positive magnitude m × 2^e, more than that when sticky, as the open result of R183: one of the patterns within 2 ulp, which
one is open (log 4). -/
def openResult (neg : Bool) (m : Nat) (e : Int) (sticky : Bool) (pick : BitVec 3) : Nat :=
  match fp32.roundMag .down m e with
  | none => fp32.infBits neg
  | some t =>
    if t = 0 then fp32.signBit neg
    else
      let cs := ((List.range 9).map (fun i => t + i - 4)).filter (fun c => c ≤ maxF32 && within2ulp m e sticky c)
      fp32.signBit neg + cs.getD (pick.toNat % max 1 cs.length) t

/-- 1 ÷ a (R183). -/
def recipF32 (b : Nat) : Nat :=
  match ofF32 b with
  | .nan => fp32.nanBits
  | .inf neg => fp32.signBit neg
  | .fin neg m e =>
    if m = 0 then fp32.infBits neg
    else openResult neg (2 ^ 90 / m) (-e - 90) (2 ^ 90 % m ≠ 0) (Config.recipUlps (BitVec.ofNat 32 b))

/-- ⌊√n⌋ bit by bit from 2^k down. -/
def isqrt (k n acc : Nat) : Nat :=
  match k with
  | 0 => acc
  | j + 1 => isqrt j n (if (acc + 2 ^ j) * (acc + 2 ^ j) ≤ n then acc + 2 ^ j else acc)

/-- 1 ÷ √a (R183). -/
def rsqrtF32 (b : Nat) : Nat :=
  match ofF32 b with
  | .nan => fp32.nanBits
  | .inf neg => if neg then fp32.nanBits else 0
  | .fin neg m e =>
    if m = 0 then fp32.infBits neg
    else if neg then fp32.nanBits
    else
      let m' := if e % 2 = 0 then m else 2 * m
      let e' := if e % 2 = 0 then e else e - 1
      let q := 2 ^ 130 / m'
      let r := isqrt 66 q 0
      openResult false r (-(e' / 2) - 65) (r * r * m' ≠ 2 ^ 130) (Config.rsqrtUlps (BitVec.ofNat 32 b))

/-- Terms of e^y for y = x ÷ 2^200 below 2^-12, in units of 2^-200. -/
def expSeries (n k x term acc : Nat) : Nat :=
  match n with
  | 0 => acc
  | j + 1 => let t := term * x / 2 ^ 200 / (k + 1); expSeries j (k + 1) x t (acc + t)

/-- x squared k times, in units of 2^-200. -/
def squareTimes (k x : Nat) : Nat :=
  match k with
  | 0 => x
  | j + 1 => squareTimes j (x * x / 2 ^ 200)

/-- e^|a| for |a| = m × 2^e below 128, in units of 2^-200: the series at |a| ÷ 2^20, squared 20 times. -/
def expUnits (m : Nat) (e : Int) : Nat :=
  let sh := e + 180
  let y := if 0 ≤ sh then m * 2 ^ sh.toNat else m / 2 ^ (-sh).toNat
  squareTimes 20 (expSeries 16 0 y (2 ^ 200) (2 ^ 200))

/-- exp(a) (R183). -/
def expF32 (b : Nat) : Nat :=
  match ofF32 b with
  | .nan => fp32.nanBits
  | .inf neg => if neg then 0 else fp32.infBits false
  | .fin neg m e =>
    if m = 0 then openResult false 1 0 false (Config.expUlps (BitVec.ofNat 32 b))
    else if 7 < (FV.fin neg m e).log2 ∨ FV.lt (.fin false 128 0) (.fin false m e) then
      (if neg then 0 else fp32.infBits false)
    else
      let u := expUnits m e
      if neg then openResult false (2 ^ 500 / u) (-300) true (Config.expUlps (BitVec.ofNat 32 b))
      else openResult false u (-200) true (Config.expUlps (BitVec.ofNat 32 b))

end Sys2Proof.Machine
end

