-- ==== Sys2Proof/Machine/State.lean ====
section
/-!
DEFINITION. The machine's state as plain data, and the state right after reset. INVENTORY.md lists every field with the
rule that names it.
-/

namespace Sys2Proof.Machine

/-- Reasons a step can stop with a fault. The block has none: an error is an entry of its error queue (R333), and every
command is answered by a next state. No meaning raises this one; it stands so that the type has a name to show. Safe. -/
inductive Fault where
  /-- No command raises it: the module answers errors through its error queue (R330 to R341). Safe. -/
  | none
deriving DecidableEq, Repr

/-- Reasons a command is turned away. -/
inductive Refusal where
  /-- A command whose meaning is not written, named as the table spells it. Raised by Dispatch only. Safe. -/
  | notModelled (mnemonic : String)
deriving DecidableEq, Repr

/-- What the module sends: the model's own record, newest first (log 6). -/
inductive Out where
  /-- MSI-X vector of a function (R74, R378). -/
  | msix (fn vector : Nat)
  /-- A Caddy response PDU (R371): route, destination, op with bit 7, transaction, index, subindex, status, counter,
  value. -/
  | caddy (route : Route) (dest op txn index sub status counter : Nat) (value : List Byte)
  /-- The value of a register read (R73, R378). -/
  | reg (fn offset value : Nat)
  /-- A packet at a Kettle port: port, packet type of R441 (or link word of R437 to R439), fields, payload. -/
  | kettle (port kind : Nat) (fields : List Nat) (payload : List Byte)
  /-- A TFB message of R453, or a reserved-slot action: kind and fields. -/
  | tfb (kind : Nat) (fields : List Nat)
  /-- An Infuser message to a sender or an output of a stream: port, connection, message type, fields, payload. -/
  | ingest (port conn kind : Nat) (fields : List Nat) (payload : List Byte)
  /-- An SPDM response: destination, response code, body (R404). -/
  | spdm (dest code : Nat) (body : List Byte)
  /-- An I3C answer: CCC code and bytes (R457). -/
  | i3c (ccc : Nat) (bytes : List Byte)
deriving DecidableEq, Repr

/-- The timebase and the snapshot (R90 to R95, R110 to R112). -/
structure TimeState where
  /-- The timebase in picoseconds: TIME64 is its whole nanoseconds (R15, R90, R92). -/
  ps : Nat := 0
  /-- Ticks of the 25 MHz reference since power-up (R93). -/
  ticks : Nat := 0
  /-- R91: 0 Free-run, 1 Acquiring, 2 Locked, 3 Holdover. -/
  state : Nat := 0
  /-- Last measured offset in ns, positive when ahead (R95). -/
  offset : Int := 0
  /-- Steps since power-up (R92). -/
  steps : Nat := 0
  /-- Offset still to be slewed off, in ps, positive when ahead (R92). -/
  slewPs : Int := 0
  /-- The frequency correction learned from the sync words, in ps per reference tick, kept through Holdover (R91, log 88). -/
  corr : Int := 0
  /-- Consecutive sync words within ±2 ns (R91). -/
  inWindow : Nat := 0
  /-- Consecutive sync words that show more than 1 µs behind (R92). -/
  behindRun : Nat := 0
  /-- Consecutive missing sync words (R91). -/
  missed : Nat := 0
  /-- Snapshot state: 0 none, 1 armed, 2 held, 3 held after step (R95). -/
  snapState : Nat := 0
  /-- Snapshot time T (R110). -/
  snapTime : Nat := 0
  /-- Snapshot sequence (R111). -/
  snapSeq : Nat := 0
deriving DecidableEq, Repr

/-- Partition states of R43. -/
inductive PState where
  | unassigned | idle | running | draining | hostLost | reclaiming | scrubbing | safeStop
deriving DecidableEq, Repr

/-- A command descriptor of R82, decoded. -/
structure Cmd where
  opcode : Nat := 0
  kind : Nat := 0
  target : Nat := 0
  flags : Nat := 0
  fmt : Nat := 0
  rounding : Nat := 0
  waitKind : Nat := 0
  waitEpoch : Nat := 0
  sigKind : Nat := 0
  sigEpoch : Nat := 0
  arg0 : Nat := 0
  arg1 : Nat := 0
  arg2 : Nat := 0
  arg3 : Nat := 0
  arg4 : Nat := 0
deriving DecidableEq, Repr

/-- Where a command of an accepted list stands: with the scheduler, in its queue, on its engine, with all writes
issued, or ended (R69, R101). -/
inductive CmdSt where
  | held | queued | running | issued | done
deriving DecidableEq, Repr

/-- A command of an accepted list. -/
structure CmdRec where
  cmd : Cmd
  st : CmdSt := .held
  /-- Its completion status so far. -/
  status : Nat := 0
  /-- Whether it ran (false for commands of an abandoned list, R84). -/
  ran : Bool := true
  /-- CRCs of the descriptors it names, as read at acceptance (R142). -/
  crcs : List Nat := []
  /-- What the dispatcher read for it at dispatch, in the order of Fit.lean: descriptors, shape vector, pointer lists
  (R142, R167). -/
  held : List (List Byte) := []
deriving DecidableEq, Repr

/-- A command in a queue: partition, list, index in the list, lane. -/
structure QRef where
  part : Nat
  list : Nat
  index : Nat
  lane : Nat
deriving DecidableEq, Repr

/-- An accepted list (R77, R78). -/
structure ListRec where
  id : Nat
  /-- list_addr of its submission entry (R78, R351). -/
  addr : Nat := 0
  subId : Nat := 0
  userTag : Nat := 0
  lane : Nat := 0
  irq : Bool := false
  deadline : Option Nat := none
  fenceKind : Nat := 0
  fenceEpoch : Nat := 0
  cmds : List CmdRec := []
  active : Bool := false
  /-- A dispatch check failed: nothing more of it is dispatched (R84). -/
  abandoned : Bool := false
  /-- A schedule-table run (R296 to R298): length and parameter values of each tick, none for a plain list. -/
  ticks : List (Nat × List Nat) := []
  /-- Ticks started, and the parameter block's address. -/
  tick : Nat := 0
  param : Nat := 0
  /-- Its completion entry is written (R78: a missed deadline writes it early). -/
  answered : Bool := false
  /-- First dispatch, none before it (R79, R96). -/
  tStart : Option Nat := none
  tEnd : Nat := 0
  /-- Commands injected by a recompute range: the recompute command they belong to (R295). -/
  parent : Option QRef := none
deriving DecidableEq, Repr

/-- An engine queue (R69, R78). -/
structure Queue where
  /-- Commands waiting, in arrival order. -/
  fifo : List QRef := []
  running : Option QRef := none
  /-- Commands with all writes issued and not yet acknowledged, oldest first. -/
  issued : List QRef := []
  /-- A tensor command preempted under consumer-late switch (R130). -/
  preempted : List QRef := []
  /-- Lane served last (R78 round robin). -/
  lastLane : Nat := 15
deriving DecidableEq, Repr

/-- An accepted contributor (R99): scope key, epoch, the logical cluster that runs it (kind 4), its command, and the tick
at which it completed (R106). -/
structure Contrib where
  scope : Nat
  epoch : Nat
  cluster : Nat
  list : Nat
  index : Nat
  done : Bool
  tick : Nat := 0
deriving DecidableEq, Repr

/-- Fences of a partition (R99 to R107). -/
structure Fences where
  /-- Closed epoch by scope key; 0 when not listed. -/
  closed : Tab Nat := []
  contribs : List Contrib := []
  /-- Status with which waits on the open group epoch complete: 0, 0x3103 or 0x3104 (R105). -/
  broken : Nat := 0
  /-- Lists below this number were accepted before the break of 0x3104, and the group epoch closed at the break (R105). -/
  brokenTo : Nat := 0
  brokenAt : Nat := 0
  /-- Epochs already reported as stalled (R106): scope, epoch. -/
  reported : List (Nat × Nat) := []
  /-- Closures since Start, newest first: scope, epoch, timebase in ns, tick (R289). -/
  times : List (Nat × Nat × Nat × Nat) := []
  /-- Late contributions that are dropped and counted once their fence closes (R289): kind, epoch. -/
  drops : List (Nat × Nat) := []
deriving DecidableEq, Repr

/-- The rings and registers of a partition function (R73 to R79). -/
structure Rings where
  base : Nat := 0
  size : Nat := 8
  sqTail : Nat := 0
  sqHead : Nat := 0
  cqHead : Nat := 0
  cqTail : Nat := 0
  cqHeldTail : Nat := 0
  /-- Entries written and not yet freed by CQ_HEAD_DB, and those of them held (R80, R87). -/
  cqUsed : Nat := 0
  heldN : Nat := 0
  /-- Phase of the next completion entry (R79). -/
  phase : Nat := 1
  irqCount : Nat := 1
  irqTime : Nat := 0
  attachStatus : Nat := 0
  doorbellErr : Nat := 0
  /-- Counted entries not yet signalled, and the tick of the first (R73). -/
  irqPending : Nat := 0
  irqFirst : Nat := 0
  /-- Consumption is enabled. -/
  consuming : Bool := false
  /-- Completions are held (R87). -/
  held : Bool := false
deriving DecidableEq, Repr

/-- The host lease (R85 to R89). -/
structure Lease where
  armed : Bool := false
  /-- lease_state of R76. -/
  state : Nat := 0
  cause : Nat := 0
  lastBeat : Nat := 0
  seen : Nat := 0
  seenTick : Nat := 0
  expiredAt : Nat := 0
  startGen : Nat := 0
  lostSachet : Nat := 0
  lostEpoch : Nat := 0
  /-- Tick at which Host-lost began (orphan-serving timeout, R86). -/
  lostTick : Nat := 0
  /-- Mode it acts by in Host-lost: an SL partition continues as SB after the timeout (R86). -/
  asSB : Bool := false
deriving DecidableEq, Repr

/-- What a partition's run to a stop is for (R47, R86, R324). -/
inductive RunTo where
  | none
  /-- Run to the next partition barrier (epoch), then the next phase. -/
  | barrier (epoch : Nat)
  /-- Run every dispatched list to completion (SB drain). -/
  | lists
  /-- Close streams after the samples in slots (SL drain). -/
  | streams
  /-- The sachet of this stop is being captured or is landing. -/
  | sachet
  /-- The barrier run or sachet has ended. -/
  | ended
deriving DecidableEq, Repr

/-- A partition in a layout: first row, rows, first logical channel, channels; rows 0 means unassigned (R59). -/
structure Slice where
  firstRow : Nat
  rows : Nat
  firstCh : Nat
  chans : Nat
deriving DecidableEq, Repr

/-- What follows a scrub (R45, R50, R61, R324). -/
inductive AfterScrub where
  | idle | run | handover
deriving DecidableEq, Repr

/-- An entry of the error queue (R334); pool says which entries of R335 it occupies: 0 quota, 1 general reserve, 2 the
partition's own 0x7101 entry, 3 shared entry taken by the reserve. -/
structure ErrEntry where
  seq : Nat
  status : Nat
  sev : Nat
  state : Nat := 0
  tDetect : Nat
  tHandled : Nat := 0
  part : Nat := 0xFF
  unitKind : Nat := 0
  unit : Nat := 0
  flags : Nat := 0
  cause : Nat := 0
  ref : Nat := 0
  addr : Nat := 0
  detail : List Byte := []
  pool : Nat := 0
deriving DecidableEq, Repr

/-- The error queue (R333 to R345). -/
structure ErrQ where
  entries : List ErrEntry := []
  nextSeq : Nat := 0
  /-- Lost entries by partition (R340). -/
  lost : Tab Nat := []
  reserveLost : Nat := 0
deriving DecidableEq, Repr

/-- A log record (R387), with the unit that made it, as kind × 65,536 + number (R334), and that unit's own 32-bit number of
it (R97). -/
structure LogRec where
  seq : Nat
  kind : Nat
  unit : Nat := 0xA8000
  unitSeq : Nat := 0
  part : Nat := 0xFF
  event : Nat := 0
  route : Nat := 0
  tLogged : Nat
  detail : List Byte := []
  body : List Byte := []
deriving DecidableEq, Repr

/-- A trace record of a command (R96, R97): the queue's key, the engine's own 32-bit number of it, the list and index of the
command, its start and its completion. -/
structure Trace where
  engine : Nat
  seq : Nat
  list : Nat
  index : Nat
  tStart : Nat
  tEnd : Option Nat := none
deriving DecidableEq, Repr

/-- The event log (R386 to R389): rings oldest first. -/
structure EvLog where
  general : List LogRec := []
  retained : List LogRec := []
  nextSeq : Nat := 1
  lastGeneral : Nat := 0
  lastRetained : Nat := 0
  overwritten : Nat := 0
  /-- Records gathered and not yet programmed, and the tick of the first (R386). -/
  unprogrammed : Nat := 0
  firstTick : Nat := 0
  /-- Read cursor and region select by route code (R389). -/
  cursor : Tab Nat := []
  region : Tab Nat := []
  /-- The next 32-bit number of a unit's log records (R97). -/
  unitSeq : Tab Nat := []
  /-- Engine queues whose command trace is enabled, their trace records, newest first, and the next number of each engine
  (R96, R97). No entry of the dictionary enables a trace (log 89). -/
  tracing : List Nat := []
  traces : List Trace := []
  traceSeq : Tab Nat := []
deriving DecidableEq, Repr

/-- Segments of a segmented Caddy write held for a route and entry (R372). -/
structure Segs where
  route : Route
  index : Nat
  sub : Nat
  bytes : List Byte
  total : Nat
  tick : Nat
deriving DecidableEq, Repr

/-- A kept response (R374). -/
structure Kept where
  source : Nat
  txn : Nat
  op : Nat
  index : Nat
  sub : Nat
  status : Nat
  value : List Byte
deriving DecidableEq, Repr

/-- The message port of a firmware component (R347): messages of 64 bytes with their senders, oldest first, at most 16; and
the senders that wait for room, with their message and the tick at which they began to. -/
structure Port where
  msgs : List (Nat × List Byte) := []
  waits : List (Nat × List Byte × Nat) := []
deriving DecidableEq, Repr

/-- A Caddy write in the boot monitor's acceptance list: accepted and not yet applied (R348). -/
structure Accepted where
  source : Nat
  txn : Nat
  index : Nat
  sub : Nat
  value : List Byte
deriving DecidableEq, Repr

/-- The Caddy service (R371 to R380). -/
structure Caddy where
  segs : List Segs := []
  /-- Newest first. -/
  kept : List Kept := []
  /-- Replay counter last accepted from a source (R376). -/
  counters : Tab Nat := []
  /-- The module's own counter on the Caddy port (R376). -/
  sendCounter : Nat := 0
  framesDropped : Nat := 0
  authFailures : Nat := 0
  /-- The PCI Express window of function 0 (R378). -/
  req : List Byte := []
  rsp : List Byte := []
  busy : Bool := false
  ready : Bool := false
  /-- The response of the request in progress is discarded (R434). -/
  discard : Bool := false
  /-- Message ports of the firmware components that hold something, by processor × 256 + component (R347, R348). -/
  ports : Tab Port := []
  /-- The acceptance list, oldest first (R348). -/
  accepted : List Accepted := []
  doorbellErr0 : Nat := 0
deriving DecidableEq, Repr

/-- The factory record (R2, R314, R483, R485). -/
structure Factory where
  /-- Active clusters per row: 40 or 38. -/
  grade : Nat := 40
  serial : List Byte := zeros 16
  version : Nat := 1
  mac : List Byte := zeros 6
  /-- MAC addresses of the ingest ports are mac + 1 + port (R446). -/
  moduleAddress : Nat := 0
deriving DecidableEq, Repr

/-- The resume record of a tensor command that stopped in the middle (R131, R134, R136): the command, the passes done, its
retained-stationary state, and the passes and arrays whose k-ranges are to be replayed before it goes on. -/
structure Resume where
  ref : QRef
  passes : Nat
  kept : Option (Nat × List Nat) := none
  replay : List (Nat × Nat) := []
deriving DecidableEq, Repr

/-- The recovery record of a CCC as last written (R349). -/
structure CccRec where
  /-- Queue kind, lane, list, and index in it of the next command to dispatch. -/
  next : List (Nat × Nat × Nat × Nat) := []
  /-- Closed epochs of the engine scope of queue kinds 1 to 3, and of the cluster scope. -/
  engine : List Nat := [0, 0, 0]
  cluster : Nat := 0
  resume : Option Resume := none
  mode : Nat := 0
  retained : Bool := false
deriving DecidableEq, Repr

/-- A cluster site's own state (R114 to R140, R349, R418). -/
structure Site where
  /-- Array mode: 0 wide, 1 chive-16, 2 chive-32 (R127). -/
  mode : Nat := 0
  /-- The block in the active stationary registers, when it is kept: format code × 2 + orientation, and by array the
  core-local offset it was loaded from (R118, R150). -/
  retained : Option (Nat × List Nat) := none
  /-- Which of its two sets of stationary registers is the active one, by core (core row × 34 + physical core column): 0
  where not listed; the other is the shadow (R118). -/
  regs : Tab Nat := []
  /-- Resume record of its tensor command (R130, R131). -/
  resume : Option Resume := none
  /-- A tensor command of a partition was aborted: the tick and the partition; its pass drains (R48, R136). -/
  stopped : Option (Nat × Nat) := none
  /-- Faults by core, keyed core row × 34 + physical core column (R135). -/
  coreFaults : Tab Nat := []
  /-- Core column states that differ from delivery, by physical core column: 0 active, 1 spare, 2 retired (R314). -/
  columns : Tab Nat := []
  /-- A core column retirement in progress: the failing column and its spare (R135). -/
  retiring : Option (Nat × Nat) := none
  /-- The cluster's queues hold (isolated, halted, or its CCC restarts). -/
  halted : Bool := false
  gated : Bool := false
  /-- Tick at which it was gated. -/
  gatedAt : Nat := 0
  /-- Steep mode: end of the last tensor work in ns, and the ramp level in eighths (R137 to R139). -/
  lastBusy : Nat := 0
  steep : Nat := 0
  /-- k of the clock stretcher under the power cap: band cycles swallowed of every 64 (R418). -/
  k : Nat := 0
  /-- k under zone throttling, and gaps taken for it; the larger k applies (R426, R429). -/
  zoneK : Nat := 0
  zoneGaps : Bool := false
  /-- The CCC's recovery record: commands dispatched since the last recorded fence, and whether one of them cannot be
  repeated (R349, R350). -/
  sinceFence : List QRef := []
  nonRepeat : Bool := false
  record : CccRec := {}
  /-- The cores whose faults the replay in the resume record answers: core row, physical column (R134 to R136). -/
  cleared : List (Nat × Nat) := []
  /-- Accumulator tiles, as their place over 1,024, that another engine wrote while the running tensor command uses their slots:
  they are undefined until it ends (R172). -/
  spoiled : List Nat := []
deriving DecidableEq, Repr

/-- A First-Layer Engine (R212 to R215). -/
structure Fle where
  /-- Faults by array. -/
  faults : Tab Nat := []
  retired : List Nat := []
  outOfService : Bool := false
deriving DecidableEq, Repr

/-- The schedule section of a sachet (R306). -/
structure Sched where
  closed : Tab Nat := []
  lanes : Tab Nat := []
  sqHead : Nat := 0
  /-- Stream, position, block-list address, next round, next entry. -/
  streams : List (List Nat) := []
  steps : Nat := 0
  written : Nat := 0
deriving DecidableEq, Repr

/-- A sachet and where copies of it stand (R305 to R309). -/
structure Sachet where
  id : Nat
  group : Nat := 0xFF
  groupEpoch : Nat := 0
  epoch : Nat := 0
  step : Nat := 0
  tCapture : Nat := 0
  layoutGen : Nat := 0
  total : Nat := 0
  planCrc : Nat := 0
  ledgerBytes : Nat := 0
  /-- Regions: partition address, bytes. -/
  regions : List (Nat × Nat) := []
  sched : Sched := {}
  /-- Contents of the regions and the ledger at capture, keyed by partition address. -/
  data : Mem := []
  tier1 : Bool := false
  tier2 : Bool := false
  tier3 : Bool := false
  landed : Bool := false
  committed : Bool := false
  /-- The partner that holds the tier-1 copy, and its slot. -/
  holder : Nat := 0xFF
  slot : Nat := 0
deriving DecidableEq, Repr

/-- A sachet being captured or landing (R304, R324). -/
structure Capture where
  /-- Waiting for the other lists (0) or sending (1). -/
  phase : Nat := 0
  tier : Nat := 2
  sachet : Option Sachet := none
  /-- The sachet points whose commands wait for it (R304, log 109). -/
  cmds : List QRef := []
  startNs : Nat := 0
deriving DecidableEq, Repr

/-- The connection of a partition's tier-3 store (R256, R328): nonce prefix, result credits, next sequence and message counter toward
it. -/
structure Store where
  nonce : Nat := 0
  credits : Nat := 0
  seq : Nat := 0
  ctr : Nat := 0
deriving DecidableEq, Repr

/-- A rollback in progress (R310). -/
structure Rollback where
  target : Option Nat := none
  tier : Nat := 1
  restored : Bool := false
  cause : Nat := 0
  /-- The group epoch that a member's rollback word names, and the sachet that was being captured and has landed (R310). -/
  groupEpoch : Option Nat := none
  captured : Option Nat := none
deriving DecidableEq, Repr

/-- A spare fill in progress (R315): failed site, spare being filled. -/
structure Fill where
  failed : Nat
  spare : Nat
  /-- State that the spare map gives the failed site: 2, or 3 with its router bypassed (R23, R314). -/
  mark : Nat := 2
deriving DecidableEq, Repr

/-- A reclaim in progress (R324). -/
structure Reclaim where
  t0 : Nat
  /-- 0 fence, 1 sachet, 2 scrub. -/
  phase : Nat := 0
  phaseStart : Nat := 0
  late : Bool := false
deriving DecidableEq, Repr

/-- A row of the degraded plan table (R318). -/
structure DegEntry where
  lost : Nat
  minActive : Nat
  rows : Nat
  plan : Nat
  words : List Nat
deriving DecidableEq, Repr

/-- Recovery state of a partition (R302 to R329). -/
structure Recovery where
  plan : List (Nat × Nat) := []
  planCrc : Nat := 0
  table : List DegEntry := []
  /-- Sachet points since the last sachet written, and since the first Start from empty (R304, R305). -/
  sinceLast : Nat := 0
  steps : Nat := 0
  written : Nat := 0
  /-- A reclaim or group reclaim forces the next sachet point (R304, R325). -/
  force : Bool := false
  capture : Option Capture := none
  /-- Newest first. -/
  sachets : List Sachet := []
  rollback : Option Rollback := none
  fills : List Fill := []
  /-- Lost group members (R320). -/
  lost : List Nat := []
  selected : Nat := 0
  lastRollback : Nat := 0
  reclaim : Option Reclaim := none
  /-- Sachets waiting to be written to tier 2 and tier 3 (R307). -/
  tier2Next : Option Nat := none
  tier3Next : Option Nat := none
  store : Store := {}
  /-- A restore at Start in progress: what it restores (R312). -/
  startRestore : Option Sachet := none
  /-- Landings seen: module, group epoch (R309). -/
  landings : List (Nat × Nat) := []
  /-- State changed since the last sachet (R68). -/
  dirty : Bool := false
  /-- The group member whose reclaim was announced, until it leaves (R325). -/
  departing : Option Nat := none
deriving DecidableEq, Repr

/-- A bound partner window (R65, R308). -/
structure Binding where
  module : Nat := 0xFF
  gib : Nat := 0
  slots : Nat := 0
  bound : Bool := false
  nextSlot : Nat := 0
  /-- An earlier partner whose window is given up once a sachet has landed elsewhere (R65). -/
  release : Option Nat := none
  /-- The partner has sent WINDOW_NOTICE: the next sachet binds afresh (R466). -/
  fresh : Bool := false
deriving DecidableEq, Repr

/-- A guest's window hosted here (R308, R321, R328). -/
structure Guest where
  module : Nat
  part : Nat
  /-- 0 bound, 1 lost. -/
  state : Nat := 0
  slots : Nat := 0
  gib : Nat := 0
  /-- Byte offset of the window within the hosted window. -/
  base : Nat := 0
  slotBytes : Nat := 0
  /-- Sachet identifier, next expected offset, complete, by slot. -/
  held : List (Nat × Nat × Bool) := []
deriving DecidableEq, Repr

/-- A partition (R42 to R68). -/
structure Part where
  state : PState := .unassigned
  firstRow : Nat := 0
  rows : Nat := 0
  firstCh : Nat := 0
  chans : Nat := 0
  /-- Modes in effect: service mode (0 T, 1 SB, 2 SL), consumer-late, straggler (R42). -/
  mode : Nat := 0
  policy : Nat := 0
  straggler : Nat := 2
  /-- Sachet interval and lease timeout in effect (R42). -/
  interval : Nat := 100
  leaseMs : Nat := 2000
  /-- Clusters that may run chive commands, as checked at Start or lapsed at a rollback (R56). -/
  chive : List Nat := []
  /-- Service mode when last Running in this layout (R50). -/
  ranMode : Option Nat := none
  /-- A scrub made since then counts for R50. -/
  scrubbed : Bool := false
  rings : Rings := {}
  lease : Lease := {}
  lists : List ListRec := []
  nextList : Nat := 1
  /-- submission_id of the last list completed, by lane (R306). -/
  laneDone : Tab Nat := []
  fences : Fences := {}
  runTo : RunTo := .none
  after : Option AfterScrub := none
  /-- Start of the scrub in ticks. -/
  scrubTick : Nat := 0
  rcv : Recovery := {}
  binding : Binding := {}
  /-- A binding that waits for WINDOW_REPLY: the Caddy write that asked for it with its subindex, none where the module
  asks by itself, and the module and GiB asked for (R65). -/
  bindReq : Option (Option (Req × Nat) × Nat × Nat) := none
  /-- Writes of the two partner entries accepted while that answer is awaited, oldest first: request, subindex, value (R53). -/
  bindNext : List (Req × Nat × Nat) := []
  idleTick : Nat := 0
  gated : Bool := false
  /-- It is a member of the barrier group that it names: from Start until it leaves (R105). -/
  member : Bool := false
deriving DecidableEq, Repr

/-- A sample on its way through a stream (R259, R260, R266). -/
structure Sample where
  id : Nat := 0
  /-- Stream position or address. -/
  pos : Nat := 0
  tArrival : Nat := 0
  bytes : List Byte := []
  /-- All bytes are here. -/
  whole : Bool := false
  /-- Corrupt with this reason; 0 sound (R270). -/
  reason : Nat := 0
  slot : Bool := false
  /-- Batch entry (index in the block list) it fills. -/
  entry : Option Nat := none
  /-- Tick of its first block; input blocks it holds; bytes received for it. -/
  tick : Nat := 0
  blocks : Nat := 0
  coded : Nat := 0
  /-- Its position is written as corrupt; the rest of its bytes is discarded (R269). -/
  dropped : Bool := false
deriving DecidableEq, Repr

/-- An entry of a block list (R258). -/
structure BEntry where
  kind : Nat
  flags : Nat
  boxCount : Nat
  position : Nat
  src : Nat
  length : Nat
  weight : Nat
  boxList : Nat
deriving DecidableEq, Repr

/-- A decode command's rounds (R257 to R259). -/
structure Rounds where
  addr : Nat
  depth : Nat
  b : Nat
  destBase : Nat
  maniBase : Nat
  maskBase : Nat
  entries : List BEntry
  total : Nat
  j : Nat := 0
  /-- Entries of the round whose position is written or whose result is sent. -/
  done : List Nat := []
  masked : Bool := false
  /-- Tick of the round's first sample (R272). -/
  firstTick : Option Nat := none
  /-- Bytes of the next result entry already sent (R259). -/
  sent : Nat := 0
deriving DecidableEq, Repr

/-- An Infuser stream (R248 to R274). -/
structure Stream where
  /-- 0 unbound, 1 bound, 2 open, 3 closing (R267). -/
  state : Nat := 0
  part : Nat := 0
  desc : List Byte := []
  resample : List Byte := []
  /-- Ceilings and floor held at bind (R267): entries 01 to 07. -/
  ceil : List Nat := []
  expectSeq : Option Nat := none
  nonce : Nat := 0
  /-- Message counters toward the module and toward the sender (R256), and the sequence toward the sender. -/
  ctrIn : Nat := 0
  ctrOut : Nat := 0
  seqOut : Nat := 0
  credits : Nat := 0
  owed : Nat := 0
  owedTick : Nat := 0
  /-- Input blocks in use. -/
  held : Nat := 0
  resultCredits : Nat := 0
  pos : Nat := 0
  authFailures : Nat := 0
  samples : List Sample := []
  rounds : Option Rounds := none
  /-- ROI boxes: frame number and the 16 bytes (R271). -/
  rois : List (Nat × List Byte) := []
  lastData : Nat := 0
  stallLogged : Bool := false
  /-- The running decode command, and the close command that waits for the running round (R273). -/
  cmd : Option QRef := none
  closeCmd : Option QRef := none
  /-- New samples are admitted: cleared by the drain of an SL partition (R47). -/
  admitsNew : Bool := true
  /-- The merge table loaded at bind (R264), and frames decoded since OPEN (R271). -/
  table : List Byte := []
  frames : Nat := 0
  /-- Block list, next round and next entry where the last decode command ended (R306). -/
  cursor : Nat × Nat × Nat := (0, 0, 0)
deriving DecidableEq, Repr

/-- A standby migration (R243): logical channel, phase (0 copy, 1 retrain, 2 march test), copy pointer in blocks. -/
structure Migration where
  logical : Nat
  source : Nat
  target : Nat
  phase : Nat := 0
  ptr : Nat := 0
deriving DecidableEq, Repr

/-- The memory stacks (R217 to R247, R485, R486). -/
structure Hbm where
  /-- Physical channel of a logical channel, keyed stack × 32 + logical, where it differs from delivery (R485). -/
  map : Tab Nat := []
  /-- Standby channel by stack, where it differs from delivery (R222). -/
  standby : Tab Nat := []
  failed : List (Nat × Nat) := []
  migrations : Tab Migration := []
  usable : Nat := 31
  /-- Blocks whose side-table entry is maintained, keyed (stack × 32 + physical channel) × 2^19 + block (R234). -/
  maintained : Ranges := []
  /-- Patrol pointer by physical channel key, in blocks (R237). -/
  patrol : Tab Nat := []
  /-- Ticks of the patrol mismatches of the last hour, which count toward the threshold, by physical channel key (R237,
  R242). -/
  errors : Tab (List Nat) := []
  /-- Maintained blocks whose data do not match their entry, keyed as above: every later read meets the mismatch (R235). -/
  corrupt : List Nat := []
  /-- Partitions that may not start before a layout is committed again (R246). -/
  stale : List Nat := []
deriving DecidableEq, Repr

/-- A block of a reduction channel: its index, data, checksum pair and contributed mask (R283, R440). -/
structure CBlock where
  block : Nat
  data : List Byte
  sum : Nat := 0
  abs : Nat := 0
  mask : Nat := 0
  /-- Its credit is returned when it leaves, not when it is added (R281). -/
  owes : Bool := false
deriving DecidableEq, Repr

/-- A late contribution that waits to be copied into the ledger (R289 to R292): source, pairs, its fence, format, the deadline that
made it late. -/
structure LateSrc where
  src : Nat
  pairs : Bool
  kind : Nat
  epoch : Nat
  fmt : Nat
  tLate : Nat
deriving DecidableEq, Repr

/-- A running collective command (R278 to R290). -/
structure CollRun where
  ref : QRef
  /-- Blocks received and written or passed on, and blocks that have left. -/
  got : Nat := 0
  sent : Nat := 0
  /-- Blocks waiting for a credit, and blocks waiting for the local contribution, oldest first. -/
  sendQ : List CBlock := []
  holdQ : List CBlock := []
  /-- The local contribution is ready, or late (R289). -/
  ready : Bool := false
  late : Bool := false
  /-- Barrier and deadline in ns of the timebase, deadline tick. -/
  tBarrier : Nat := 0
  tDeadline : Nat := 0
  tickDeadline : Nat := 0
  contributed : Nat := 0
  deferredIn : Nat := 0
  /-- Policy in force (R285, R288). -/
  policy : Nat := 2
  occurrence : Nat := 0
  status : Nat := 0
  /-- Credits owed to the sender, and the tick of the first (R281, R441). -/
  owed : Nat := 0
  owedTick : Nat := 0
  /-- Credits granted to the sender so far. -/
  granted : Nat := 0
  /-- Tick of the last block or credit from a peer (R299). -/
  heard : Nat := 0
  /-- Blocks of the local contribution that the transport leaves out or stops at, and those refetched (R235, R236). -/
  faults : List BlockFault := []
  /-- The deferred contribution of an earlier occurrence has been added, or there is none to wait for (R290). -/
  carried : Bool := false
deriving DecidableEq, Repr

/-- A Kettle port (R435 to R439). -/
structure KPort where
  /-- R439: 0 down, 1 training, 2 up, 3 remapping, 4 disabled. Start-up leaves the links training (R468). -/
  state : Nat := 1
  peer : Nat := 0xFF
  peerPort : Nat := 0xFF
  spare : Nat := 0xFF
  /-- The spare lane itself did not train. -/
  spareDead : Bool := false
  replayed : Nat := 0
  corrected : Nat := 0
  uncorrected : Nat := 0
  /-- Next data flit to send and next expected, 12 bits (R436), and the last one the peer acknowledged. -/
  sendSeq : Nat := 0
  expect : Nat := 0
  acked : Nat := 0
  /-- A NAK is outstanding: later flits are discarded until the named one arrives (R437). -/
  nak : Bool := false
  /-- Replays of the flit at the front (R438). -/
  fails : Nat := 0
  retrained : Bool := false
  /-- Blocks that came without a credit (R441). -/
  violations : Nat := 0
  /-- Tick since which it is down (R320). -/
  downSince : Nat := 0
  /-- Packet sequence by tag (R440). -/
  seqs : Tab Nat := []
deriving DecidableEq, Repr

/-- The Timebase and Fence Bus (R447 to R455). -/
structure Tfb where
  master : Bool := false
  errors : Nat := 0
  /-- Messages received in the last superframes: source, type and payload; their tick (R454). -/
  seen : List (List Nat × Nat) := []
  /-- RECLAIM messages and fault broadcasts sent and received, newest first: fields, and the time of the bus cycle that
  carried each (R96). -/
  stamps : List (List Nat × Nat) := []
  /-- Groups a partition has left, whose parity lines are still to be asserted for one presentation (R105). -/
  leaving : List Nat := []
  /-- No valid bus clock since this tick (R91). -/
  clockLost : Option Nat := none
deriving DecidableEq, Repr

/-- An image in a bank (R358): what its header says. -/
structure Image where
  version : Nat := 1
  secVersion : Nat := 0
  peerMin : Nat := 0
  inMin : Nat := 0
  inMax : Nat := 0xFFFF
  handOut : Nat := 0
  digest : List Byte := zeros 48
deriving DecidableEq, Repr

/-- A key of the vault (R407, R408). -/
structure Key where
  handle : Nat
  ty : Nat
  part : Nat
  key : List Byte
  /-- Tick at which its lifetime ends. -/
  lapse : Option Nat := none
deriving DecidableEq, Repr

/-- The NOR flash (R357, R381 to R383, R399, R400, R305). The spare map, the channel map and the event log stand in
their own fields. -/
structure Nor where
  /-- Saved values in journal order, by key, and the active region (R381). -/
  journal : List (Nat × List Byte) := []
  region : Nat := 0
  /-- Configuration record in force: version, entries, measurement (R382). -/
  config : Option (Nat × List (Nat × List Byte) × List Byte) := none
  /-- Operator trust record (R400). -/
  trust : Option (List Byte) := none
  /-- Anti-rollback counters (R399). -/
  counters : Tab Nat := []
  portKey : Option Key := none
  /-- Active image by kind, where it differs from delivery, and the inactive bank's verified image (R357). -/
  active : Tab Image := []
  inactive : Tab Image := []
  /-- Sequence of sachet identifiers (R305). -/
  sachetSeq : Nat := 0
  endorsement : List Byte := []
deriving DecidableEq, Repr

/-- A firmware update (R360 to R366). -/
structure Update where
  /-- 0 idle, 1 staging, 2 verified, 3 handing off, 4 committed, 5 failed. -/
  state : Nat := 0
  result : Nat := 0
  staged : List Byte := []
  rows : Nat := 0
  /-- The staged image when verified. -/
  image : Image := {}
  /-- Activate was written and waits for a quiet moment, since this tick (R361). -/
  waiting : Option Nat := none
  /-- Tick at which handing off, or the handoff of the row at hand, began (R365). -/
  since : Nat := 0
  /-- The old image has stopped at its handoff point, at this tick (R362). -/
  stopped : Option Nat := none
  /-- The handoff records written at that point, header and body, one for each processor that hands off (R363). -/
  records : List (List Byte) := []
deriving DecidableEq, Repr

/-- A staged configuration or trust record (R383, R400). -/
structure Staging where
  /-- 0 idle, 1 staging, 2 verified, 3 failed, 4 applied. -/
  state : Nat := 0
  bytes : List Byte := []
  result : Nat := 0
  failing : Nat := 0
  /-- Exported saved values (R383). -/
  exported : List Byte := []
deriving DecidableEq, Repr

/-- An SPDM session (R404): the connection it belongs to, its number, whether FINISH has completed it, and whether the
requester proved a chain that ends in a root of the trust record (R407). -/
structure Session where
  source : Nat
  id : Nat
  done : Bool := false
  trusted : Bool := false
deriving DecidableEq, Repr

/-- Security state beside the state of R393 (R404 to R415). -/
structure Sec where
  keys : List Key := []
  debugOpen : Bool := false
  debugFlag : Bool := false
  sessions : List Session := []
  /-- A large request received in chunks, by source (R405). -/
  chunksIn : Tab (List Byte) := []
  /-- IDE keys: stream, key set, key (R409). -/
  ide : List (Nat × Nat × List Byte) := []
  /-- Last response on the Caddy 0x8200 route, by route (R405). -/
  spdmOut : Tab (List Byte) := []
deriving DecidableEq, Repr

/-- The header of a mesh packet (R98), with its source site and its destination cluster. -/
structure MeshHdr where
  source : Nat
  dest : Nat
  plane : Nat
  part : Nat
  tagKind : Nat := 0
  tag : Nat := 0
  seq : Nat := 0
  fenceEpoch : Nat := 0
  timestamp : Nat := 0
  check : Nat := 1
deriving DecidableEq, Repr

/-- The mesh (R28, R29, R98): next sequence number by source, destination and plane, the header last taken by a cluster
site, and packets that a cluster dropped. -/
structure Mesh where
  seqs : Tab Nat := []
  last : Tab MeshHdr := []
  dropped : Tab Nat := []
deriving DecidableEq, Repr

/-- Start-up, reset and the processors (R346 to R356, R462 to R475). -/
structure Boot where
  /-- 1 to 9 of R467, 0x0A ready, 0xFF recovery. -/
  step : Nat := 0x0A
  kind : Nat := 0
  time : Nat := 570000
  refused : Nat := 0
  selfTest : List Nat := [0, 0, 0, 0]
  /-- 0 dead, 1 the always-on domain only, 2 on. -/
  power : Nat := 2
  ready : Bool := true
  faultOut : Bool := false
  deviceRoot : Bool := true
  /-- Tick of the last warm reset accepted (R464). -/
  resetTick : Option Nat := none
  secFailed : Bool := false
  schLost : Bool := false
  /-- Is there a standby SCH and PMC (R352, R354). -/
  schStandby : Bool := true
  pmcStandby : Bool := true
  /-- Which of the pair is active: SCH-B, PMC-B (R346). -/
  schB : Bool := false
  pmcB : Bool := false
  pmcLost : Bool := false
  /-- Links and paths offline: path number, 16 planes or units (R343). -/
  pathsOff : List Nat := []
  mesh : Mesh := {}
  pathReplays : Tab Nat := []
  pathRetrains : Tab Nat := []
  /-- In recovery: what start-up found (R469). -/
  found : Option Findings := none
deriving DecidableEq, Repr

/-- A write of the takeover journal (R351): its sequence number, its content, and its CRC-32C. -/
structure JRec where
  seq : Nat := 0
  body : List Byte := []
  /-- The default is the CRC-32C of an empty write numbered 0, as start-up leaves the mirrors (log 111). -/
  crc : Nat := 0x48674BC7
deriving DecidableEq, Repr

/-- The SCH's takeover journal, mirrored in management blocks A and B (R349, R351). -/
structure Journal where
  a : JRec := {}
  b : JRec := {}
deriving DecidableEq, Repr

/-- Power, clocks and the governor (R417 to R430). -/
structure Power where
  droops : Nat := 0
  /-- Cycles swallowed by the stretchers, and cluster time spent in cap gaps, in µs (R430). -/
  stretched : Nat := 0
  gapUs : Nat := 0
  thermalMs : List Nat := [0, 0, 0, 0]
  holds : Nat := 0
  governor : Bool := false
  /-- Consecutive governor samples above the effective cap (R424). -/
  overSamples : Nat := 0
  /-- Operating point by band, 0 to 3, and the bands whose PLL is stopped (R418, R420). -/
  points : Tab Nat := []
  stopped : List Nat := []
  /-- Classes of R66 that leave gaps, in the order taken. -/
  gapClasses : List Nat := []
deriving DecidableEq, Repr

/-- A sensor (R385, R425). -/
structure Sensor where
  value : F32 := 0
  low : F32 := 0
  high : F32 := 0
  state : Nat := 0
deriving DecidableEq, Repr

/-- A Strainer input (R459, R460). -/
structure SInput where
  /-- 0 idle, 1 asserted, 2 masked. -/
  state : Nat := 0
  qualified : Bool := false
  since : Nat := 0
  lastEvent : Option Nat := none
  events : Nat := 0
  rejected : Nat := 0
  coalesced : Nat := 0
  stuck : Nat := 0
deriving DecidableEq, Repr

/-- The I3C target (R457) and PLCA (R456). -/
structure Bus where
  addr : Nat := 0
  mwl : Nat := 1060
  mrl : Nat := 1060
  events : Nat := 0
  /-- PLCA beacons are present. -/
  beacons : Bool := true
  beaconTick : Nat := 0
deriving DecidableEq, Repr

/-- An ingest port (R248, R445, R446). -/
structure IPort where
  /-- 0 down, 1 training, 2 up. Start-up leaves the links training (R468). -/
  state : Nat := 1
  frames : Nat := 0
  discarded : Nat := 0
  flow : Nat := 0
  /-- Source address of the last OPEN by connection (R446). -/
  senders : Tab Nat := []
deriving DecidableEq, Repr

/-- A fetch in progress (R321): its command, the bytes written, the offsets of blocks that came bad once (R443). -/
structure Fetch where
  ref : QRef
  got : Nat := 0
  bad : List Nat := []
deriving DecidableEq, Repr

/-- Blocks on their way to another module on tag 0xFF (R443): a sachet of partition source, or, with source 4, a fetch
served from the hosted window at base. Blocks are numbered from first in units of 4 KiB. -/
structure Xfer where
  source : Nat
  module : Nat
  id : Nat
  first : Nat := 0
  base : Nat := 0
  blocks : Nat
  next : Nat := 0
  /-- Blocks to send again, and those sent again once. -/
  again : List Nat := []
  retried : List Nat := []
  /-- Unconfirmed blocks: port and block. -/
  flight : List (Nat × Nat) := []
  done : Nat := 0
deriving DecidableEq, Repr

/-- The machine's state. -/
structure State where
  /-- Commands waiting, first in first out (log 1). -/
  pending : List Instr := []
  time : TimeState := {}
  factory : Factory := {}
  /-- Current values of Caddy entries that differ from their default, keyed index × 256 + subindex (R53). -/
  vals : Tab (List Byte) := []
  caddy : Caddy := {}
  log : EvLog := {}
  errq : ErrQ := {}
  /-- Security state: 0 Open, 1 Attested, 2 Sealed (R393). -/
  secState : Nat := 0
  parts : Tab Part := []
  layoutGen : Nat := 0
  queues : Tab Queue := []
  sites : Tab Site := []
  /-- Site states that differ from delivery, by site: 0 active, 1 spare, 2 failed, 3 failed with router bypass (R314). -/
  siteState : Tab Nat := []
  spareGen : Nat := 0
  spareTime : Nat := 0
  fles : Tab Fle := []
  mem : Mem := []
  hbm : Hbm := {}
  guests : List Guest := []
  /-- Guests still to be told that their window is lost, once a port reaches them: module, partition (R466). -/
  notices : List (Nat × Nat) := []
  streams : Tab Stream := []
  /-- Counters and their shadows (R111, R390), keyed index × 256 + subindex. -/
  ctr : Tab Nat := []
  shadow : Tab Nat := []
  colls : Tab CollRun := []
  credits : Tab Nat := []
  fetches : Tab Fetch := []
  xfers : List Xfer := []
  /-- The contributions that a ledger entry waits for, the oldest, pending or copying, first (R290), by partition × 1,024 + entry. -/
  pendingSrc : Tab (List LateSrc) := []
  kports : Tab KPort := []
  iports : Tab IPort := []
  tfb : Tfb := {}
  nor : Nor := {}
  update : Update := {}
  recStage : Staging := {}
  trustStage : Staging := {}
  sec : Sec := {}
  boot : Boot := {}
  journal : Journal := {}
  power : Power := {}
  sensors : Tab Sensor := []
  inputs : Tab SInput := []
  bus : Bus := {}
  /-- A layout commit that waits for a spare fill: the write that asked for it, and the layout staged then (R53, R62). -/
  commitWait : Option (Req × List Slice) := none
  /-- A record apply that waits for an update to end: the write, and whether it is the trust record's (R383, R400). -/
  applyWait : Option (Req × Bool) := none
  outs : List Out := []
  /-- Index of the next free value (log 4). -/
  free : Nat := 0
deriving DecidableEq, Repr

/-- Partition 0 as delivered: all rows, 31 channels, Idle (R51). -/
def Part.first : Part := { state := .idle, firstRow := 0, rows := 30, firstCh := 0, chans := 31 }

/-- The machine right after reset: a delivered TWK3-1200 that has run its start-up to READY (log 2, log 3). -/
def State.reset : State := { parts := [(0, Part.first)] }

end Sys2Proof.Machine
end

