-- ==== Sys2Proof/Machine/Operands.lean ====
section
/-!
DEFINITION. Every operand form: the structures that commands and their descriptors are read as (R77, R82, R143, R144, R151,
R152, R195, R232, R257, R258, R277, R286, R294, R297, R321), and their reserved fields (R14).
-/

namespace Sys2Proof.Machine

/-- The two's-complement field of n bytes at off. -/
def sfield (bs : List Byte) (off n : Nat) : Int :=
  let v := field bs off n
  if v < 2 ^ (8 * n - 1) then (v : Int) else (v : Int) - 2 ^ (8 * n)

/-- An address moved by a signed byte offset, in 64 bits. -/
def shiftAddr (a : Nat) (d : Int) : Nat := (((a : Int) + d) % 2 ^ 64).toNat

/-- The first status of a list of (passed, status) checks that is not passed, 0 when all pass. -/
def firstFail (cs : List (Bool × Nat)) : Nat :=
  match cs with
  | [] => 0
  | c :: r => if c.1 then firstFail r else c.2

/-- A submission entry (R77). -/
structure Sub where
  addr : Nat
  len : Nat
  flags : Nat
  id : Nat
  deadline : Nat
  fenceKind : Nat
  fenceEpoch : Nat
  tag : Nat
deriving DecidableEq, Repr

def Sub.ofBytes (b : List Byte) : Sub :=
  { addr := field b 0 8, len := field b 8 4, flags := field b 0x0C 4, id := field b 0x10 8, deadline := field b 0x18 8
    fenceKind := field b 0x20 1, fenceEpoch := field b 0x24 4, tag := field b 0x28 8 }

/-- The lane of an entry (R77). -/
def Sub.lane (x : Sub) : Nat := bits x.flags 11 8

/-- Reserved fields and bits of an entry are zero (R77, R81). -/
def subReserved (b : List Byte) : Bool :=
  zeroAt b 0x21 3 && zeroAt b 0x30 12 && bits (field b 0x0C 4) 7 2 == 0 && field b 0x0C 4 / 4096 == 0

/-- A command descriptor (R82). -/
def Cmd.ofBytes (b : List Byte) : Cmd :=
  { opcode := field b 0 1, kind := field b 1 1, target := field b 2 2, flags := field b 4 2, fmt := field b 6 1
    rounding := field b 7 1, waitKind := field b 8 1, waitEpoch := field b 0x0C 4, sigKind := field b 0x10 1
    sigEpoch := field b 0x14 4, arg0 := field b 0x18 8, arg1 := field b 0x20 8, arg2 := field b 0x28 8
    arg3 := field b 0x30 4, arg4 := field b 0x34 2 }

/-- Reserved fields and flag bits of the frame are zero (R82). -/
def cmdReserved (b : List Byte) : Bool :=
  zeroAt b 0x09 3 && zeroAt b 0x11 3 && zeroAt b 0x36 6 && field b 4 2 < 4

/-- A level of a loop descriptor (R144). -/
structure Level where
  bound : Nat
  dim : Nat
  place : Nat
  nest : Nat
  flags : Nat
  sa : Int
  sw : Int
  sy : Int
deriving DecidableEq, Repr

def Level.ofBytes (b : List Byte) (o : Nat) : Level :=
  { bound := field b o 4, dim := field b (o + 4) 1, place := field b (o + 5) 1, nest := field b (o + 6) 1
    flags := field b (o + 7) 1, sa := sfield b (o + 8) 4, sw := sfield b (o + 12) 4, sy := sfield b (o + 16) 4 }

def Level.dynamic (l : Level) : Bool := bit l.flags 0
def Level.ptrA (l : Level) : Bool := bit l.flags 1
def Level.ptrY (l : Level) : Bool := bit l.flags 2
def Level.entry (l : Level) : Nat := bits l.flags 5 3

/-- A loop descriptor (R143). -/
structure Loop where
  passM : Nat
  passN : Nat
  passK : Nat
  accBase : Nat
  init : Nat
  mode : Nat
  aPitch : Nat
  yPitch : Nat
  shape : Nat
  levels : List Level
deriving DecidableEq, Repr

def Loop.ofBytes (b : List Byte) : Loop :=
  { passM := field b 4 2, passN := field b 6 2, passK := field b 8 1, accBase := field b 9 1, init := field b 0x0A 1
    mode := field b 0x0B 1, aPitch := field b 0x0C 4, yPitch := field b 0x10 4, shape := field b 0x18 8
    levels := (List.range (min 6 (field b 3 1))).map (fun i => Level.ofBytes b (0x40 + 20 * i)) }

/-- Reserved fields of a loop descriptor: the bits below the alignment of shape_vector too (R14, R143, R163). -/
def loopReserved (b : List Byte) : Bool :=
  zeroAt b 0x14 4 && zeroAt b 0x20 32 && zeroAt b 0xB8 4 && field b 0x18 8 % 32 == 0 &&
  (List.range (min 6 (field b 3 1))).all (fun i => field b (0x47 + 20 * i) 1 < 64)

/-- A buffer entry (R152). -/
structure BufEnt where
  base : Nat
  cap : Nat
  list : Nat
  scale : Nat
  count : Nat
  loc : Nat
  fmt : Nat
deriving DecidableEq, Repr

def BufEnt.ofBytes (b : List Byte) (o : Nat) : BufEnt :=
  { base := field b o 8, cap := field b (o + 8) 8, list := field b (o + 16) 8, scale := field b (o + 24) 4
    count := field b (o + 28) 2, loc := field b (o + 30) 1, fmt := field b (o + 31) 1 }

/-- An entry that is entirely zero. -/
def BufEnt.none (e : BufEnt) : Bool := e == ⟨0, 0, 0, 0, 0, 0, 0⟩

/-- A buffer set (R151). -/
structure Bufs where
  word : Nat
  a : BufEnt
  w : BufEnt
  y : BufEnt
  i : BufEnt
  x : BufEnt
deriving DecidableEq, Repr

def Bufs.ofBytes (b : List Byte) : Bufs :=
  { word := field b 4 4, a := BufEnt.ofBytes b 0x20, w := BufEnt.ofBytes b 0x40, y := BufEnt.ofBytes b 0x60
    i := BufEnt.ofBytes b 0x80, x := BufEnt.ofBytes b 0xA0 }

/-- The CRC of a buffer set covers all but itself (R151). -/
def bufsCrcOk (b : List Byte) : Bool := crc32c (slice b 0 0x1C ++ slice b 0x20 0xA0) == field b 0x1C 4

/-- Reserved fields of a buffer set; pointer lists are 8-byte aligned (R145, R151). -/
def bufsReserved (b : List Byte) : Bool :=
  zeroAt b 3 1 && zeroAt b 8 20 && [0x30, 0x50, 0x70, 0x90, 0xB0].all (fun o => field b o 8 % 8 == 0)

/-- Fields of the epilogue word (R175). -/
def Bufs.storeOp (b : Bufs) : Nat := bits b.word 1 0
def Bufs.xOp (b : Bufs) : Nat := bits b.word 3 2
def Bufs.rowX (b : Bufs) : Bool := bit b.word 4
def Bufs.pairs (b : Bufs) : Bool := bit b.word 5
def Bufs.exponent (b : Bufs) : Nat := bits b.word 15 8

/-- A spatial descriptor (R195). -/
structure Spatial where
  kind : Nat
  engine : Nat
  padMode : Nat
  groupLevel : Nat
  inH : Nat
  inW : Nat
  inC : Nat
  outH : Nat
  outW : Nat
  outC : Nat
  kH : Nat
  kW : Nat
  sH : Nat
  sW : Nat
  dH : Nat
  dW : Nat
  groups : Nat
  padT : Nat
  padB : Nat
  padL : Nat
  padR : Nat
  padValue : Nat
  pitch : Nat
deriving DecidableEq, Repr

def Spatial.ofBytes (b : List Byte) : Spatial :=
  { kind := field b 3 1, engine := field b 4 1, padMode := field b 6 1, groupLevel := field b 7 1, inH := field b 8 2
    inW := field b 0x0A 2, inC := field b 0x0C 2, outH := field b 0x0E 2, outW := field b 0x10 2, outC := field b 0x12 2
    kH := field b 0x14 1, kW := field b 0x15 1, sH := field b 0x16 1, sW := field b 0x17 1, dH := field b 0x18 1
    dW := field b 0x19 1, groups := field b 0x1A 2, padT := field b 0x1C 2, padB := field b 0x1E 2, padL := field b 0x20 2
    padR := field b 0x22 2, padValue := field b 0x24 4, pitch := field b 0x28 4 }

def spatialReserved (b : List Byte) : Bool := zeroAt b 5 1 && zeroAt b 0x2C 16

/-- A gather descriptor (R232). -/
structure Gather where
  lines : Nat
  count : Nat
  base : Nat
  rows : Nat
  list : Nat
  dest : Nat
  bags : Nat
  bagCount : Nat
  fmt : Nat
deriving DecidableEq, Repr

def Gather.ofBytes (b : List Byte) : Gather :=
  { lines := field b 3 1, count := field b 4 4, base := field b 8 8, rows := field b 0x10 8, list := field b 0x18 8
    dest := field b 0x20 8, bags := field b 0x28 8, bagCount := field b 0x30 4, fmt := field b 0x34 1 }

/-- Reserved fields of a gather descriptor, with the alignments of R232. -/
def gatherReserved (b : List Byte) : Bool :=
  zeroAt b 0x35 7 && field b 8 8 % 64 == 0 && field b 0x18 8 % 4 == 0 && field b 0x20 8 % 64 == 0

/-- A block list header and its entries (R257, R258). -/
structure BlockList where
  depth : Nat
  count : Nat
  dest : Nat
  mani : Nat
  mask : Nat
  positions : Nat
deriving DecidableEq, Repr

def BlockList.ofBytes (b : List Byte) : BlockList :=
  { depth := field b 3 1, count := field b 4 4, dest := field b 8 8, mani := field b 0x10 8, mask := field b 0x18 8
    positions := field b 0x20 4 }

def BEntry.ofBytes (b : List Byte) (o : Nat) : BEntry :=
  { kind := field b o 1, flags := field b (o + 1) 1, boxCount := field b (o + 2) 2, position := field b (o + 4) 4
    src := field b (o + 8) 8, length := field b (o + 16) 4, weight := field b (o + 20) 4, boxList := field b (o + 24) 8 }

/-- The entries of a block list whose bytes, header included, are b. -/
def blockEntries (b : List Byte) : List BEntry :=
  (List.range (field b 4 4)).map (fun i => BEntry.ofBytes b (64 + 32 * i))

/-- Mask bytes of a position for a number of units (R265). -/
def maskSize (units : Nat) : Nat := (units + 511) / 512 * 64

/-- Units at the ceiling of a bound stream (R265, R267). -/
def Stream.ceilUnits (x : Stream) : Nat :=
  let kind := field x.desc 3 1
  if kind = 1 then
    (let m := field x.resample 3 1
     if m = 2 then field x.resample 0x0E 2 else if m = 3 then field x.resample 7 1 else 1)
  else if kind = 2 then (x.ceil.getD 2 0 + field x.desc 0x0E 1 - 1) / max 1 (field x.desc 0x0E 1)
  else if kind = 3 then (x.ceil.getD 3 0 + field x.desc 0x56 2 - 1) / max 1 (field x.desc 0x56 2)
  else x.ceil.getD 4 0

/-- Bytes of a position and of its mask (R250, R265). -/
def Stream.slotBytes (x : Stream) : Nat := field x.desc 0x18 4
def Stream.maskBytes (x : Stream) : Nat := maskSize x.ceilUnits

/-- What the decode command of a stream may write, as ranges: its destination sets with their manifests and masks (R259). -/
def Stream.outputs (x : Stream) : List (Nat × Nat) :=
  match x.rounds with
  | some r =>
    let n := max 1 r.depth * r.b
    [(r.destBase, n * x.slotBytes), (r.maniBase, n * 64), (r.maskBase, n * x.maskBytes)]
  | none => []

/-- The CRC of a header and entries with the field at 0x3C taken as 0 (R257, R297, R302, R318). -/
def tableCrcOk (b : List Byte) : Bool := crc32c (overlay b 0x3C (zeros 4)) == field b 0x3C 4

def blockListReserved (b : List Byte) : Bool :=
  zeroAt b 0x24 24 && field b 8 8 % 64 == 0 && field b 0x10 8 % 64 == 0 && field b 0x18 8 % 64 == 0 &&
  (blockEntries b).all (fun e => e.flags < 2)

/-- A collective descriptor (R277). -/
structure Coll where
  members : Nat
  rank : Nat
  port : Nat
  tag : Nat
  fmt : Nat
  flags : Nat
  adder : Nat
  blocks : Nat
  src : Nat
  dst : Nat
  staging : Nat
  stagingBytes : Nat
  group : Nat
  policy : Nat
  contribKind : Nat
  tensor : Nat
  contribEpoch : Nat
  deadline : Nat
  nContrib : Nat
deriving DecidableEq, Repr

def Coll.ofBytes (b : List Byte) : Coll :=
  { members := field b 3 1, rank := field b 4 1, port := field b 5 1, tag := field b 6 1, fmt := field b 7 1
    flags := field b 8 2, adder := field b 0x0A 2, blocks := field b 0x0C 4, src := field b 0x10 8, dst := field b 0x18 8
    staging := field b 0x20 8, stagingBytes := field b 0x28 4, group := field b 0x2C 2, policy := field b 0x2E 1
    contribKind := field b 0x2F 1, tensor := field b 0x30 4, contribEpoch := field b 0x34 4, deadline := field b 0x38 4
    nContrib := field b 0x3C 4 }

def collReserved (b : List Byte) : Bool :=
  zeroAt b 0x40 60 && field b 8 2 < 16 && field b 0x10 8 % 4096 == 0 && field b 0x18 8 % 4096 == 0 && field b 0x20 8 % 4096 == 0

def Coll.pairs (c : Coll) : Bool := bit c.flags 0
def Coll.verify (c : Coll) : Bool := bit c.flags 1
def Coll.verifyPolicy (c : Coll) : Nat := bits c.flags 3 2

/-- Blocks of one chunk (R278). -/
def Coll.chunk (c : Coll) : Nat := c.blocks / c.members

/-- Bytes of n blocks, with their pair table when pairs are on (R186, R277). -/
def withPairs (pairs : Bool) (n : Nat) : Nat := n * 4096 + (if pairs then n * 16 else 0)

/-- A recompute descriptor (R294). -/
structure Recompute where
  count : Nat
  list : Nat
  overrides : Nat
  offset : Nat
deriving DecidableEq, Repr

def Recompute.ofBytes (b : List Byte) : Recompute :=
  { count := field b 4 2, list := field b 8 8, overrides := field b 0x10 8, offset := field b 0x18 4 }

def recomputeReserved (b : List Byte) : Bool :=
  zeroAt b 3 1 && zeroAt b 6 2 && zeroAt b 0x1C 32 && field b 8 8 % 64 == 0 && field b 0x10 8 % 8 == 0

/-- A fetch descriptor (R321). -/
structure FetchDesc where
  holder : Nat
  guest : Nat
  part : Nat
  region : Nat
  id : Nat
  offset : Nat
  bytes : Nat
  dst : Nat
deriving DecidableEq, Repr

def FetchDesc.ofBytes (b : List Byte) : FetchDesc :=
  { holder := field b 3 1, guest := field b 4 1, part := field b 5 1, region := field b 6 2, id := field b 8 8
    offset := field b 0x10 8, bytes := field b 0x18 8, dst := field b 0x20 8 }

/-- Its reserved fields. bytes, a size, must be a multiple of 4 KiB: its low bits are held to zero as an address's are (log 97). -/
def fetchReserved (b : List Byte) : Bool :=
  zeroAt b 0x28 20 && field b 0x10 8 % 4096 == 0 && field b 0x18 8 % 4096 == 0 && field b 0x20 8 % 4096 == 0

/-! ### Operand ranges of tensor commands -/

/-- What a running command may write, as ranges of partition addresses (R48): the whole room of its outputs. held is what the
dispatcher read for it, in the order of Fit.lean. -/
def Cmd.outputs (c : Cmd) (held : List (List Byte)) : List (Nat × Nat) :=
  let h := fun (i : Nat) => held.getD i []
  if c.kind = 1 then
    let y := (Bufs.ofBytes (h 1)).y
    if y.loc = 0 then []
    else if y.base ≠ 0 ∨ y.list = 0 then [(y.base, y.cap)]
    else (List.range ((h 5).length / 8)).map (fun i => (field (h 5) (8 * i) 8, y.cap))
  else if c.kind = 2 then
    (if c.opcode = 1 then [(c.arg2, 4 * c.arg3)]
     else if c.opcode = 2 then [(c.arg1, 4 * (c.arg2 % 4294967296) * (c.arg2 / 4294967296))]
     else if c.opcode = 3 then [(c.arg1, 4112 * c.arg3)] else if bits c.arg4 1 0 = 2 then [(c.arg0, 4112 * c.arg3)] else [])
  else if c.kind = 3 then
    (if c.opcode = 1 then [(c.arg1, if bit c.arg4 0 then 4096 * (c.arg3 % 65536) else c.arg3)]
     else if c.opcode = 2 then [(c.arg1, 4 * (c.arg2 % 4294967296) * (c.arg2 / 4294967296))] else [])
  else if c.kind = 4 then
    (if c.opcode ≤ 3 then
       let d := Coll.ofBytes (h 0)
       [(d.dst, d.blocks * 4112), (d.staging, d.stagingBytes)]
     else if held.isEmpty then [] else [((FetchDesc.ofBytes (h 0)).dst, (FetchDesc.ofBytes (h 0)).bytes)])
  else if c.kind = 6 then [((Gather.ofBytes (h 0)).dest, 64 * (Gather.ofBytes (h 0)).lines * (Gather.ofBytes (h 0)).count)]
  else []

/-- Bits of an element of the stationary operand (R118, R123). -/
def wBits (code : Nat) : Nat := ((formatPair code).map (fun p => p.2.width)).getD 8

/-- The W tile size: 256 · b bytes, and 16 scale bytes in an MX format (R153). -/
def wTile (code : Nat) : Nat := 32 * wBits code + (if isMx code then 16 else 0)

/-- Chive arrays of a mode (R127). -/
def arraysOf (mode : Nat) : Nat := if mode = 1 then 256 else if mode = 2 then 64 else 1

/-- Largest pass_n and pass_k of a mode (R119). -/
def passLimit (mode : Nat) : Nat × Nat := if mode = 0 then (512, 128) else if mode = 1 then (16, 16) else (32, 32)

/-- Product of a list. -/
def prod (l : List Nat) : Nat := l.foldl (· * ·) 1

/-- Bytes that n elements of a code take (R123). -/
def elemBytes (code n : Nat) : Nat := (n * elemBits code + 7) / 8

/-- The extent of an operand over the command (R164): last byte of a tile, strides, run-time bounds, and the
cluster-index level's index. -/
def extent (tileLast : Int) (terms : List (Int × Nat × Bool)) (index : Nat) : Int × Int :=
  terms.foldl (fun (r : Int × Int) (t : Int × Nat × Bool) =>
    let n : Int := if t.2.2 then 0 else (t.2.1 : Int) - 1
    let i : Int := if t.2.2 then index else 0
    (r.1 + i * t.1 + (if t.1 < 0 then n * t.1 else 0), r.2 + i * t.1 + (if 0 < t.1 then n * t.1 else 0)))
    (0, tileLast)

/-- Order of the elements (m, k) of a streaming block of rows × cols in a staged wavefront (R116): one anti-diagonal
⌊r·m⌋ + k a cycle, within it by rising k, then rising m. The place of (m, k); r2 is 2r (log 20). -/
def wavefront (r2 rows cols m k : Nat) : Nat :=
  let c := r2 * m / 2 + k
  let upTo := fun (x : Nat) => min rows ((2 * x + r2 - 1) / r2)
  let before := ((List.range cols).map (fun k' => if k' < c then upTo (c - k') else 0)).sum
  let same := ((List.range k).map (fun k' => if k' ≤ c then upTo (c - k' + 1) - upTo (c - k') else 0)).sum
  before + same + (m - upTo (c - k))

/-- 2r of a format (R123). -/
def cycles2 (code : Nat) : Nat :=
  if code = 1 then 32 else if code = 2 ∨ code = 3 then 4 else if code = 12 ∨ code = 13 then 1 else 2

end Sys2Proof.Machine
end

