-- ==== Sys2Proof/Machine/Dict.lean ====
section
/-!
DEFINITION. The parameter dictionary (R51, R71, R95 and the entry tables of every chapter; types R367, access R368): one
row for each entry or for a run of entries that differ in their index or subindex only.
-/

namespace Sys2Proof.Machine

/-- A row of the dictionary. It covers the indices idx + j × stride for j below span, and the subindices sub to
sub + subs - 1. acc: 0 ro, 1 rw, 2 wo, 3 rw-idle, 4 rw-sealed (R370). lo and hi bound the value, or the length of a STR
or OCTETS value. dflt is the default as a number, or 0 for an empty value. -/
structure DEntry where
  idx : Nat
  span : Nat
  stride : Nat
  sub : Nat
  subs : Nat
  name : String
  ty : Nat
  acc : Nat
  saved : Bool
  lo : Nat
  hi : Nat
  dflt : Nat
deriving DecidableEq, Repr

/-- Rows of the dictionary, part 1. -/
def dict1 : List DEntry := [
  ⟨0x1000, 1, 1, 0x1, 1, "Ordering code", 9, 0, false, 0, 255, 0⟩,
  ⟨0x1000, 1, 1, 0x2, 1, "Active clusters per row", 2, 0, false, 0, 255, 0⟩,
  ⟨0x1000, 1, 1, 0x3, 1, "Serial number", 9, 0, false, 16, 16, 0⟩,
  ⟨0x1000, 1, 1, 0x4, 1, "Factory record version", 4, 0, false, 0, 4294967295, 0⟩,
  ⟨0x1000, 1, 1, 0x5, 1, "Identity digest", 10, 0, false, 48, 48, 0⟩,
  ⟨0x1000, 1, 1, 0x6, 1, "Vendor enterprise number", 4, 0, false, 61417, 61417, 61417⟩,
  ⟨0x1000, 1, 1, 0x7, 1, "MAC address", 10, 0, false, 6, 6, 0⟩,
  ⟨0x1000, 1, 1, 0x8, 1, "Module label", 9, 1, true, 0, 64, 0⟩,
  ⟨0x1000, 1, 1, 0x9, 1, "Dictionary version", 4, 0, false, 0, 4294967295, 0⟩,
  ⟨0x1100, 1, 1, 0x1, 1, "Spare map", 10, 0, false, 20176, 20176, 0⟩,
  ⟨0x1100, 1, 1, 0x2, 1, "Spare map generation", 4, 0, false, 0, 4294967295, 0⟩,
  ⟨0x2100, 1, 1, 0x1, 1, "Layout commit", 2, 2, false, 1, 1, 0⟩,
  ⟨0x2100, 1, 1, 0x2, 1, "Partition count", 2, 1, true, 1, 4, 1⟩,
  ⟨0x2100, 1, 1, 0x3, 1, "Layout generation", 4, 0, false, 0, 4294967295, 0⟩,
  ⟨0x2100, 1, 1, 0x4, 1, "Transit share", 2, 1, true, 10, 50, 25⟩,
  ⟨0x2110, 1, 1, 0x1, 1, "Partition row count", 2, 1, true, 0, 30, 30⟩,
  ⟨0x2110, 1, 1, 0x2, 3, "Partition row count", 2, 1, true, 0, 30, 0⟩,
  ⟨0x2120, 1, 1, 0x1, 1, "Partition channel count", 2, 1, true, 0, 31, 31⟩,
  ⟨0x2120, 1, 1, 0x2, 3, "Partition channel count", 2, 1, true, 0, 31, 0⟩,
  ⟨0x2130, 1, 1, 0x1, 4, "Active first row", 2, 0, false, 0, 255, 0⟩,
  ⟨0x2200, 1, 1, 0x1, 1, "Accumulator visibility", 2, 4, false, 0, 1, 0⟩,
  ⟨0x2200, 1, 1, 0x2, 1, "Steep-off permitted", 1, 4, true, 0, 1, 0⟩,
  ⟨0x2200, 1, 1, 0x10, 1, "Debug tile select", 4, 1, false, 0, 4294967295, 0⟩,
  ⟨0x2200, 1, 1, 0x11, 1, "Debug tile data", 10, 1, false, 1024, 1024, 0⟩,
  ⟨0x2300, 1, 1, 0x1, 1, "Hosted partner window", 3, 3, true, 0, 320, 0⟩,
  ⟨0x2300, 1, 1, 0x2, 1, "Hosted guests", 10, 0, false, 0, 1048576, 0⟩,
  ⟨0x2300, 1, 1, 0x3, 1, "Hosted window free", 3, 0, false, 0, 65535, 0⟩,
  ⟨0x2400, 1, 1, 0x1, 1, "Migration request", 3, 2, false, 0, 65535, 0⟩,
  ⟨0x2400, 1, 1, 0x2, 1, "Migrations in progress", 4, 0, false, 0, 4294967295, 0⟩,
  ⟨0x2400, 1, 1, 0x3, 1, "Migration share", 2, 1, true, 25, 100, 50⟩,
  ⟨0x2400, 1, 1, 0x4, 1, "Auto-migrate threshold", 4, 1, true, 0, 1000000, 1000⟩,
  ⟨0x2400, 1, 1, 0x5, 1, "Patrol share", 2, 1, true, 0, 50, 10⟩,
  ⟨0x2400, 1, 1, 0x6, 1, "Usable channels", 2, 0, false, 0, 255, 0⟩,
  ⟨0x2410, 1, 1, 0x1, 20, "Standby channel", 2, 0, false, 0, 255, 0⟩,
  ⟨0x2420, 1, 1, 0x1, 20, "Channel map", 10, 0, false, 31, 31, 0⟩,
  ⟨0x2500, 1, 1, 0x1, 1, "Reclaim input mask", 2, 1, true, 0, 15, 15⟩,
  ⟨0x2500, 1, 1, 0x2, 1, "Fault input action", 2, 1, true, 0, 1, 0⟩,
  ⟨0x2500, 1, 1, 0x3, 1, "Fault input mask", 2, 1, true, 0, 15, 15⟩,
  ⟨0x2600, 1, 1, 0x1, 1, "Warm reset request", 2, 2, false, 1, 1, 0⟩,
  ⟨0x2600, 1, 1, 0x2, 1, "Last reset kind", 2, 0, false, 0, 255, 0⟩]

/-- Rows of the dictionary, part 2. -/
def dict2 : List DEntry := [
  ⟨0x2600, 1, 1, 0x3, 1, "Start-up step", 2, 0, false, 0, 255, 0⟩,
  ⟨0x2600, 1, 1, 0x4, 1, "Start-up time", 4, 0, false, 0, 4294967295, 0⟩,
  ⟨0x2600, 1, 1, 0x5, 1, "Refused reset requests", 4, 0, false, 0, 4294967295, 0⟩,
  ⟨0x2600, 1, 1, 0x6, 1, "Self-test failures", 10, 0, false, 8, 8, 0⟩,
  ⟨0x3000, 4, 256, 0x1, 1, "Partition state", 2, 0, false, 0, 255, 0⟩,
  ⟨0x3000, 4, 256, 0x2, 1, "Run control", 2, 2, false, 1, 6, 0⟩,
  ⟨0x3010, 4, 256, 0x1, 1, "Service mode", 2, 3, true, 0, 2, 0⟩,
  ⟨0x3010, 4, 256, 0x2, 1, "Consumer-late policy", 2, 1, true, 0, 1, 0⟩,
  ⟨0x3010, 4, 256, 0x3, 1, "Straggler policy", 2, 1, true, 0, 2, 2⟩,
  ⟨0x3010, 4, 256, 0x5, 1, "Sachet interval", 4, 1, true, 0, 1000000, 100⟩,
  ⟨0x3010, 4, 256, 0x6, 1, "Host-lease timeout", 4, 1, true, 100, 60000, 2000⟩,
  ⟨0x3010, 4, 256, 0x7, 1, "Orphan-serving timeout", 4, 1, true, 0, 600000, 30000⟩,
  ⟨0x3010, 4, 256, 0x8, 1, "Reclaim target mode", 2, 3, true, 1, 2, 2⟩,
  ⟨0x3010, 4, 256, 0x9, 1, "Reclaim deadline", 4, 1, true, 3000, 120000, 20000⟩,
  ⟨0x3010, 4, 256, 0xA, 1, "Reclaim consumer-late policy", 2, 3, true, 0, 1, 1⟩,
  ⟨0x3010, 4, 256, 0xB, 1, "Reclaim fence limit", 4, 1, true, 100, 10000, 2000⟩,
  ⟨0x3010, 4, 256, 0xC, 1, "Reclaim ring base", 5, 3, true, 0, 18446744073709551615, 0⟩,
  ⟨0x3010, 4, 256, 0xD, 1, "Reclaim ring size", 2, 3, true, 6, 16, 8⟩,
  ⟨0x3020, 4, 256, 0x1, 1, "Partner module address", 2, 1, true, 0, 255, 255⟩,
  ⟨0x3020, 4, 256, 0x2, 1, "Partner window request", 3, 1, true, 0, 320, 0⟩,
  ⟨0x3020, 4, 256, 0x3, 1, "Sachet plan address", 5, 3, true, 0, 18446744073709551615, 0⟩,
  ⟨0x3020, 4, 256, 0x4, 1, "Tier mask", 2, 1, true, 0, 7, 7⟩,
  ⟨0x3020, 4, 256, 0x5, 1, "Store port", 2, 1, true, 0, 255, 255⟩,
  ⟨0x3020, 4, 256, 0x6, 1, "Store connection", 3, 1, true, 0, 65535, 0⟩,
  ⟨0x3020, 4, 256, 0x7, 1, "Store key handle", 4, 1, true, 0, 4294967295, 0⟩,
  ⟨0x3020, 4, 256, 0x10, 4, "Newest sachet", 5, 0, false, 0, 18446744073709551615, 0⟩,
  ⟨0x3030, 4, 256, 0x1, 1, "Chive set", 10, 3, true, 0, 2400, 0⟩,
  ⟨0x3030, 4, 256, 0x2, 1, "Steep threshold", 4, 1, true, 0, 20000, 2000⟩,
  ⟨0x3030, 4, 256, 0x3, 1, "Epilogue reserve", 2, 3, true, 0, 8, 2⟩,
  ⟨0x3030, 4, 256, 0x4, 1, "Preemption reserve", 2, 3, true, 0, 32, 8⟩,
  ⟨0x3040, 4, 256, 0x1, 1, "Reduction channel mask", 10, 3, true, 24, 24, 0⟩,
  ⟨0x3040, 4, 256, 0x2, 1, "Lane count", 2, 3, true, 1, 16, 16⟩,
  ⟨0x3050, 4, 256, 0x1, 1, "TFB barrier group", 2, 3, true, 0, 255, 255⟩,
  ⟨0x3050, 4, 256, 0x2, 1, "Group member count", 2, 3, true, 2, 16, 2⟩,
  ⟨0x3060, 4, 256, 0x1, 1, "Near share", 3, 3, true, 0, 2040, 0⟩,
  ⟨0x3060, 4, 256, 0x2, 1, "Block CRC policy", 2, 1, true, 0, 1, 1⟩,
  ⟨0x3060, 4, 256, 0x3, 1, "Spread size", 5, 0, false, 0, 18446744073709551615, 0⟩,
  ⟨0x3060, 4, 256, 0x4, 1, "Near window size", 5, 0, false, 0, 18446744073709551615, 0⟩,
  ⟨0x3070, 4, 256, 0x1, 1, "Media queue mask", 10, 3, true, 16, 16, 0⟩,
  ⟨0x3080, 4, 256, 0x1, 1, "Recovery phase", 2, 0, false, 0, 255, 0⟩]

/-- Rows of the dictionary, part 3. -/
def dict3 : List DEntry := [
  ⟨0x3080, 4, 256, 0x2, 1, "Last rollback sachet", 5, 0, false, 0, 18446744073709551615, 0⟩,
  ⟨0x3080, 4, 256, 0x3, 1, "Degraded plan table", 5, 3, true, 0, 18446744073709551615, 0⟩,
  ⟨0x3080, 4, 256, 0x4, 1, "Selected plan", 4, 0, false, 0, 4294967295, 0⟩,
  ⟨0x3080, 4, 256, 0x5, 1, "Plan selector address", 5, 3, true, 0, 18446744073709551615, 0⟩,
  ⟨0x3080, 4, 256, 0x6, 1, "Restore source", 5, 3, false, 0, 18446744073709551615, 0⟩,
  ⟨0x3090, 4, 256, 0x1, 1, "Idle gating delay", 4, 1, true, 0, 600000, 1000⟩,
  ⟨0x4100, 1, 1, 0x1, 1, "Power cap", 4, 1, true, 6000, 21000, 21000⟩,
  ⟨0x4100, 1, 1, 0x2, 1, "Cap state", 2, 0, false, 0, 255, 0⟩,
  ⟨0x4100, 1, 1, 0x3, 1, "Effective cap", 4, 0, false, 0, 4294967295, 0⟩,
  ⟨0x4100, 1, 1, 0x4, 1, "Safe frequency", 3, 0, false, 0, 65535, 0⟩,
  ⟨0x4120, 1, 1, 0x1, 5, "Band clock", 3, 0, false, 0, 65535, 0⟩,
  ⟨0x4130, 1, 1, 0x1, 5, "Band voltage", 3, 0, false, 0, 65535, 0⟩,
  ⟨0x4300, 1, 1, 0x1, 1, "Droop events", 5, 0, false, 0, 18446744073709551615, 0⟩,
  ⟨0x4300, 1, 1, 0x2, 1, "Stretched cluster-cycles", 5, 0, false, 0, 18446744073709551615, 0⟩,
  ⟨0x4300, 1, 1, 0x3, 1, "Cap gap cluster-us", 5, 0, false, 0, 18446744073709551615, 0⟩,
  ⟨0x4300, 1, 1, 0x4, 1, "Thermal throttle ms", 10, 0, false, 16, 16, 0⟩,
  ⟨0x4300, 1, 1, 0x5, 1, "Governor holds", 4, 0, false, 0, 4294967295, 0⟩,
  ⟨0x5100, 3, 1, 0x1, 1, "Coolant value", 7, 0, false, 0, 4294967295, 0⟩,
  ⟨0x5100, 3, 1, 0x2, 1, "Coolant minimum", 7, 0, false, 0, 4294967295, 0⟩,
  ⟨0x5100, 3, 1, 0x3, 1, "Coolant maximum", 7, 0, false, 0, 4294967295, 0⟩,
  ⟨0x5100, 3, 1, 0x4, 1, "Coolant state", 2, 0, false, 0, 255, 0⟩,
  ⟨0x5100, 3, 1, 0x5, 1, "Coolant reset", 2, 2, false, 1, 1, 0⟩,
  ⟨0x5200, 25, 1, 0x1, 1, "Plane zone value", 7, 0, false, 0, 4294967295, 0⟩,
  ⟨0x5200, 25, 1, 0x2, 1, "Plane zone minimum", 7, 0, false, 0, 4294967295, 0⟩,
  ⟨0x5200, 25, 1, 0x3, 1, "Plane zone maximum", 7, 0, false, 0, 4294967295, 0⟩,
  ⟨0x5200, 25, 1, 0x4, 1, "Plane zone state", 2, 0, false, 0, 255, 0⟩,
  ⟨0x5200, 25, 1, 0x5, 1, "Plane zone reset", 2, 2, false, 1, 1, 0⟩,
  ⟨0x5300, 20, 1, 0x1, 1, "Stack value", 7, 0, false, 0, 4294967295, 0⟩,
  ⟨0x5300, 20, 1, 0x2, 1, "Stack minimum", 7, 0, false, 0, 4294967295, 0⟩,
  ⟨0x5300, 20, 1, 0x3, 1, "Stack maximum", 7, 0, false, 0, 4294967295, 0⟩,
  ⟨0x5300, 20, 1, 0x4, 1, "Stack state", 2, 0, false, 0, 255, 0⟩,
  ⟨0x5300, 20, 1, 0x5, 1, "Stack reset", 2, 2, false, 1, 1, 0⟩,
  ⟨0x5400, 4, 1, 0x1, 1, "I/O die value", 7, 0, false, 0, 4294967295, 0⟩,
  ⟨0x5400, 4, 1, 0x2, 1, "I/O die minimum", 7, 0, false, 0, 4294967295, 0⟩,
  ⟨0x5400, 4, 1, 0x3, 1, "I/O die maximum", 7, 0, false, 0, 4294967295, 0⟩,
  ⟨0x5400, 4, 1, 0x4, 1, "I/O die state", 2, 0, false, 0, 255, 0⟩,
  ⟨0x5400, 4, 1, 0x5, 1, "I/O die reset", 2, 2, false, 1, 1, 0⟩,
  ⟨0x5500, 6, 1, 0x1, 1, "Power value", 7, 0, false, 0, 4294967295, 0⟩,
  ⟨0x5500, 6, 1, 0x2, 1, "Power minimum", 7, 0, false, 0, 4294967295, 0⟩,
  ⟨0x5500, 6, 1, 0x3, 1, "Power maximum", 7, 0, false, 0, 4294967295, 0⟩]

/-- Rows of the dictionary, part 4. -/
def dict4 : List DEntry := [
  ⟨0x5500, 6, 1, 0x4, 1, "Power state", 2, 0, false, 0, 255, 0⟩,
  ⟨0x5500, 6, 1, 0x5, 1, "Power reset", 2, 2, false, 1, 1, 0⟩,
  ⟨0x5600, 5, 1, 0x1, 1, "Row band power value", 7, 0, false, 0, 4294967295, 0⟩,
  ⟨0x5600, 5, 1, 0x2, 1, "Row band power minimum", 7, 0, false, 0, 4294967295, 0⟩,
  ⟨0x5600, 5, 1, 0x3, 1, "Row band power maximum", 7, 0, false, 0, 4294967295, 0⟩,
  ⟨0x5600, 5, 1, 0x4, 1, "Row band power state", 2, 0, false, 0, 255, 0⟩,
  ⟨0x5600, 5, 1, 0x5, 1, "Row band power reset", 2, 2, false, 1, 1, 0⟩,
  ⟨0x6000, 1, 1, 0x1, 1, "Timebase now", 8, 0, false, 0, 18446744073709551615, 0⟩,
  ⟨0x6000, 1, 1, 0x2, 1, "Timebase state", 2, 0, false, 0, 255, 0⟩,
  ⟨0x6000, 1, 1, 0x3, 1, "Timebase offset", 6, 0, false, 0, 4294967295, 0⟩,
  ⟨0x6000, 1, 1, 0x4, 1, "Timebase steps", 4, 0, false, 0, 4294967295, 0⟩,
  ⟨0x6000, 1, 1, 0x5, 1, "Timebase set", 8, 2, false, 0, 18446744073709551615, 0⟩,
  ⟨0x6000, 1, 1, 0x10, 1, "Snapshot time", 8, 1, false, 0, 18446744073709551615, 0⟩,
  ⟨0x6000, 1, 1, 0x11, 1, "Snapshot state", 2, 0, false, 0, 255, 0⟩,
  ⟨0x6000, 1, 1, 0x12, 1, "Snapshot release", 2, 2, false, 1, 1, 0⟩,
  ⟨0x6000, 1, 1, 0x13, 1, "Snapshot sequence", 4, 0, false, 0, 4294967295, 0⟩,
  ⟨0x6010, 1, 1, 0x1, 1, "Barrier watchdog", 4, 1, true, 0, 600000, 10000⟩,
  ⟨0x6100, 1260, 1, 0x0, 1, "Cluster site counter block", 10, 0, false, 1024, 1024, 0⟩,
  ⟨0x6100, 1260, 1, 0x1, 127, "Cluster site counter", 5, 0, false, 0, 18446744073709551615, 0⟩,
  ⟨0x6600, 640, 1, 0x0, 1, "Channel controller counter block", 10, 0, false, 1024, 1024, 0⟩,
  ⟨0x6600, 640, 1, 0x1, 127, "Channel controller counter", 5, 0, false, 0, 18446744073709551615, 0⟩,
  ⟨0x6900, 4, 1, 0x0, 1, "Partition counter block", 10, 0, false, 1024, 1024, 0⟩,
  ⟨0x6900, 4, 1, 0x1, 127, "Partition counter", 5, 0, false, 0, 18446744073709551615, 0⟩,
  ⟨0x6A00, 128, 1, 0x0, 1, "Media stream counter block", 10, 0, false, 1024, 1024, 0⟩,
  ⟨0x6A00, 128, 1, 0x1, 127, "Media stream counter", 5, 0, false, 0, 18446744073709551615, 0⟩,
  ⟨0x6B00, 4, 1, 0x0, 1, "I/O die counter block", 10, 0, false, 1024, 1024, 0⟩,
  ⟨0x6B00, 4, 1, 0x1, 127, "I/O die counter", 5, 0, false, 0, 18446744073709551615, 0⟩,
  ⟨0x6C00, 192, 1, 0x0, 1, "Collective queue counter block", 10, 0, false, 1024, 1024, 0⟩,
  ⟨0x6C00, 192, 1, 0x1, 127, "Collective queue counter", 5, 0, false, 0, 18446744073709551615, 0⟩,
  ⟨0x6D00, 5, 1, 0x0, 1, "FLE counter block", 10, 0, false, 1024, 1024, 0⟩,
  ⟨0x6D00, 5, 1, 0x1, 127, "FLE counter", 5, 0, false, 0, 18446744073709551615, 0⟩,
  ⟨0x7000, 1, 1, 0x1, 1, "Oldest", 5, 0, false, 0, 18446744073709551615, 0⟩,
  ⟨0x7000, 1, 1, 0x2, 1, "Newest", 5, 0, false, 0, 18446744073709551615, 0⟩,
  ⟨0x7000, 1, 1, 0x3, 1, "Read cursor", 5, 1, false, 0, 18446744073709551615, 0⟩,
  ⟨0x7000, 1, 1, 0x4, 1, "Read data", 10, 0, false, 0, 1024, 0⟩,
  ⟨0x7000, 1, 1, 0x5, 1, "Region select", 2, 1, false, 0, 1, 0⟩,
  ⟨0x7000, 1, 1, 0x6, 1, "Log clear", 2, 2, false, 1, 1, 0⟩,
  ⟨0x7000, 1, 1, 0x7, 1, "Records overwritten", 5, 0, false, 0, 18446744073709551615, 0⟩,
  ⟨0x7100, 1, 1, 0x1, 1, "Queue occupancy", 3, 0, false, 0, 65535, 0⟩,
  ⟨0x7100, 1, 1, 0x2, 1, "Oldest entry", 10, 0, false, 128, 128, 0⟩]

/-- Rows of the dictionary, part 5. -/
def dict5 : List DEntry := [
  ⟨0x7100, 1, 1, 0x3, 1, "Acknowledge", 4, 2, false, 0, 4294967295, 0⟩,
  ⟨0x7100, 1, 1, 0x4, 1, "Partition quota", 2, 0, false, 0, 255, 0⟩,
  ⟨0x7100, 1, 1, 0x5, 1, "Next sequence", 4, 0, false, 0, 4294967295, 0⟩,
  ⟨0x7100, 1, 1, 0x6, 1, "Reserve lost entries", 4, 0, false, 0, 4294967295, 0⟩,
  ⟨0x7110, 1, 1, 0x1, 1, "Lost entries", 4, 0, false, 0, 4294967295, 0⟩,
  ⟨0x7110, 1, 1, 0x2, 1, "Held entries", 3, 0, false, 0, 65535, 0⟩,
  ⟨0x7120, 1, 1, 0x1, 1, "Lost entries", 4, 0, false, 0, 4294967295, 0⟩,
  ⟨0x7120, 1, 1, 0x2, 1, "Held entries", 3, 0, false, 0, 65535, 0⟩,
  ⟨0x7130, 1, 1, 0x1, 1, "Lost entries", 4, 0, false, 0, 4294967295, 0⟩,
  ⟨0x7130, 1, 1, 0x2, 1, "Held entries", 3, 0, false, 0, 65535, 0⟩,
  ⟨0x8000, 1, 1, 0x1, 1, "Security state", 2, 0, false, 0, 255, 0⟩,
  ⟨0x8000, 1, 1, 0x2, 1, "Security state request", 2, 2, false, 0, 2, 0⟩,
  ⟨0x8000, 1, 1, 0x3, 1, "Start state", 2, 4, true, 0, 2, 0⟩,
  ⟨0x8000, 1, 1, 0x4, 1, "IDE required", 1, 4, true, 0, 1, 0⟩,
  ⟨0x8000, 1, 1, 0x5, 1, "Erase keys on measurement change", 1, 4, true, 0, 1, 0⟩,
  ⟨0x8000, 1, 1, 0x6, 1, "Debug port enable", 1, 4, true, 0, 1, 1⟩,
  ⟨0x8100, 1, 1, 0x1, 1, "Keys held", 3, 0, false, 0, 65535, 0⟩,
  ⟨0x8100, 1, 1, 0x2, 1, "Key table", 10, 0, false, 0, 16384, 0⟩,
  ⟨0x8100, 1, 1, 0x3, 1, "Key erase", 4, 2, false, 0, 4294967295, 0⟩,
  ⟨0x8200, 1, 1, 0x1, 1, "SPDM request", 10, 2, false, 1, 1024, 0⟩,
  ⟨0x8200, 1, 1, 0x2, 1, "SPDM response", 10, 0, false, 0, 1024, 0⟩,
  ⟨0x8300, 1, 1, 0x1, 8, "Anti-rollback counter", 4, 0, false, 0, 4294967295, 0⟩,
  ⟨0x8400, 1, 1, 0x1, 1, "Trust record state", 2, 0, false, 0, 255, 0⟩,
  ⟨0x8400, 1, 1, 0x2, 1, "Trust record staging offset", 4, 1, false, 0, 4294967295, 0⟩,
  ⟨0x8400, 1, 1, 0x3, 1, "Trust record staging data", 10, 2, false, 1, 1024, 0⟩,
  ⟨0x8400, 1, 1, 0x4, 1, "Trust record control", 2, 2, false, 1, 5, 0⟩,
  ⟨0x8400, 1, 1, 0x5, 1, "Trust record result", 2, 0, false, 0, 255, 0⟩,
  ⟨0x8400, 1, 1, 0x6, 1, "Failing entry", 4, 0, false, 0, 4294967295, 0⟩,
  ⟨0x8500, 1, 1, 0x1, 1, "Identity endorsement", 10, 0, false, 0, 1048576, 0⟩,
  ⟨0x9000, 1, 1, 0x1, 1, "Update state", 2, 0, false, 0, 255, 0⟩,
  ⟨0x9000, 1, 1, 0x2, 1, "Update kind", 2, 1, false, 1, 4, 1⟩,
  ⟨0x9000, 1, 1, 0x3, 1, "Staging offset", 4, 1, false, 0, 4294967295, 0⟩,
  ⟨0x9000, 1, 1, 0x4, 1, "Staging data", 10, 2, false, 1, 1024, 0⟩,
  ⟨0x9000, 1, 1, 0x5, 1, "Update control", 2, 2, false, 1, 3, 0⟩,
  ⟨0x9000, 1, 1, 0x6, 1, "Update result", 2, 0, false, 0, 255, 0⟩,
  ⟨0x9000, 1, 1, 0x7, 1, "CCC handoff wait", 4, 1, true, 1, 1000, 50⟩,
  ⟨0x9000, 1, 1, 0x8, 1, "Activation hold", 4, 1, true, 0, 600000, 60000⟩,
  ⟨0x9000, 1, 1, 0x9, 1, "CCC rows updated", 2, 0, false, 0, 255, 0⟩,
  ⟨0x9000, 1, 1, 0x11, 4, "Active version", 4, 0, false, 0, 4294967295, 0⟩,
  ⟨0x9000, 1, 1, 0x21, 4, "Inactive version", 4, 0, false, 0, 4294967295, 0⟩]

/-- Rows of the dictionary, part 6. -/
def dict6 : List DEntry := [
  ⟨0x9100, 1, 1, 0x1, 1, "Record state", 2, 0, false, 0, 255, 0⟩,
  ⟨0x9100, 1, 1, 0x2, 1, "Record staging offset", 4, 1, false, 0, 4294967295, 0⟩,
  ⟨0x9100, 1, 1, 0x3, 1, "Record staging data", 10, 2, false, 1, 1024, 0⟩,
  ⟨0x9100, 1, 1, 0x4, 1, "Record control", 2, 2, false, 1, 5, 0⟩,
  ⟨0x9100, 1, 1, 0x5, 1, "Record result", 2, 0, false, 0, 255, 0⟩,
  ⟨0x9100, 1, 1, 0x6, 1, "Failing entry", 4, 0, false, 0, 4294967295, 0⟩,
  ⟨0x9100, 1, 1, 0x7, 1, "Active record version", 4, 0, false, 0, 4294967295, 0⟩,
  ⟨0x9100, 1, 1, 0x8, 1, "Journal entries", 4, 0, false, 0, 4294967295, 0⟩,
  ⟨0x9100, 1, 1, 0x9, 1, "Export data", 10, 0, false, 0, 1048576, 0⟩,
  ⟨0xA100, 1, 1, 0x1, 1, "TFB module address", 2, 0, false, 0, 15, 0⟩,
  ⟨0xA100, 1, 1, 0x2, 1, "TFB timebase role", 2, 3, true, 0, 1, 0⟩,
  ⟨0xA100, 1, 1, 0x3, 1, "TFB delay compensation", 3, 1, true, 0, 255, 0⟩,
  ⟨0xA100, 1, 1, 0x4, 1, "Bus role", 2, 0, false, 0, 255, 0⟩,
  ⟨0xA100, 1, 1, 0x5, 1, "Reclaim notice send", 4, 2, false, 0, 1048575, 0⟩,
  ⟨0xA100, 1, 1, 0x6, 1, "Message errors", 4, 0, false, 0, 4294967295, 0⟩,
  ⟨0xA100, 1, 1, 0x7, 1, "Barrier service", 2, 0, false, 0, 255, 0⟩,
  ⟨0xA200, 1, 1, 0x1, 1, "PLCA node ID", 2, 1, true, 1, 15, 1⟩,
  ⟨0xA200, 1, 1, 0x2, 1, "Caddy port enable", 1, 4, true, 0, 1, 1⟩,
  ⟨0xA200, 1, 1, 0x3, 1, "Unauthenticated reads", 1, 4, true, 0, 1, 1⟩,
  ⟨0xA200, 1, 1, 0x4, 1, "Frames dropped", 4, 0, false, 0, 4294967295, 0⟩,
  ⟨0xA200, 1, 1, 0x5, 1, "Authentication failures", 4, 0, false, 0, 4294967295, 0⟩,
  ⟨0xA210, 1, 1, 0x1, 1, "MCTP endpoint ID", 2, 0, false, 0, 255, 0⟩,
  ⟨0xA300, 1, 1, 0x1, 1, "PCI Express rights", 4, 4, true, 0, 4294967295, 4294967295⟩,
  ⟨0xA300, 1, 1, 0x2, 1, "I3C rights", 4, 4, true, 0, 4294967295, 4294967295⟩,
  ⟨0xA300, 1, 1, 0x3, 1, "Caddy port rights", 4, 4, true, 0, 4294967295, 4294311935⟩,
  ⟨0xA400, 12, 1, 0x1, 1, "Port state", 2, 0, false, 0, 255, 0⟩,
  ⟨0xA400, 12, 1, 0x2, 1, "Peer module", 2, 0, false, 0, 255, 0⟩,
  ⟨0xA400, 12, 1, 0x3, 1, "Peer port", 2, 0, false, 0, 255, 0⟩,
  ⟨0xA400, 12, 1, 0x4, 1, "Spare lane use", 2, 0, false, 0, 255, 0⟩,
  ⟨0xA400, 12, 1, 0x5, 1, "Port enable", 1, 1, true, 0, 1, 1⟩,
  ⟨0xA400, 12, 1, 0x6, 1, "Flits replayed", 5, 0, false, 0, 18446744073709551615, 0⟩,
  ⟨0xA400, 12, 1, 0x7, 1, "FEC codewords corrected, uncorrected", 10, 0, false, 16, 16, 0⟩,
  ⟨0xA40F, 1, 1, 0x1, 1, "Lane remap threshold", 4, 1, true, 10, 1000000, 1000⟩,
  ⟨0xA500, 4, 1, 0x1, 1, "MAC address", 10, 0, false, 6, 6, 0⟩,
  ⟨0xA500, 4, 1, 0x2, 1, "Frames received", 5, 0, false, 0, 18446744073709551615, 0⟩,
  ⟨0xA500, 4, 1, 0x3, 1, "Frames discarded", 5, 0, false, 0, 18446744073709551615, 0⟩,
  ⟨0xA500, 4, 1, 0x4, 1, "Flow-control frames ignored", 4, 0, false, 0, 4294967295, 0⟩,
  ⟨0xA700, 1, 1, 0x1, 1, "Minimum pulse width", 4, 4, true, 40, 1000000, 1000⟩,
  ⟨0xA700, 1, 1, 0x2, 1, "Filter window", 4, 4, true, 0, 10000000, 100000⟩,
  ⟨0xA700, 1, 1, 0x3, 1, "Stuck limit", 4, 4, true, 10, 600000, 5000⟩]

/-- Rows of the dictionary, part 7. -/
def dict7 : List DEntry := [
  ⟨0xA700, 1, 1, 0x4, 1, "Re-arm interval", 4, 4, true, 1, 600000, 100⟩,
  ⟨0xA700, 1, 1, 0x5, 1, "Input state", 2, 0, false, 0, 255, 0⟩,
  ⟨0xA700, 1, 1, 0x6, 1, "Events, rejected pulses, coalesced, stuck events", 10, 0, false, 16, 16, 0⟩,
  ⟨0xA701, 1, 1, 0x1, 1, "Minimum pulse width", 4, 4, true, 40, 1000000, 200⟩,
  ⟨0xA701, 1, 1, 0x2, 1, "Filter window", 4, 4, true, 0, 10000000, 10000⟩,
  ⟨0xA701, 1, 1, 0x3, 1, "Stuck limit", 4, 4, true, 10, 600000, 10000⟩,
  ⟨0xA701, 1, 1, 0x4, 1, "Re-arm interval", 4, 4, true, 1, 600000, 100⟩,
  ⟨0xA701, 1, 1, 0x5, 1, "Input state", 2, 0, false, 0, 255, 0⟩,
  ⟨0xA701, 1, 1, 0x6, 1, "Events, rejected pulses, coalesced, stuck events", 10, 0, false, 16, 16, 0⟩,
  ⟨0xA702, 1, 1, 0x1, 1, "Minimum pulse width", 4, 4, true, 40, 1000000, 10000⟩,
  ⟨0xA702, 1, 1, 0x2, 1, "Filter window", 4, 4, true, 0, 10000000, 1000000⟩,
  ⟨0xA702, 1, 1, 0x3, 1, "Stuck limit", 4, 4, true, 10, 600000, 10000⟩,
  ⟨0xA702, 1, 1, 0x4, 1, "Re-arm interval", 4, 4, true, 1, 600000, 1000⟩,
  ⟨0xA702, 1, 1, 0x5, 1, "Input state", 2, 0, false, 0, 255, 0⟩,
  ⟨0xA702, 1, 1, 0x6, 1, "Events, rejected pulses, coalesced, stuck events", 10, 0, false, 16, 16, 0⟩,
  ⟨0xB000, 1, 1, 0x1, 1, "Collective stall timeout", 4, 1, true, 100, 600000, 10000⟩,
  ⟨0xB000, 1, 1, 0x2, 1, "Peer loss hold", 4, 1, true, 10, 10000, 200⟩,
  ⟨0xB000, 1, 1, 0x3, 1, "Declare module lost", 2, 2, false, 0, 15, 0⟩,
  ⟨0xB010, 1, 1, 0x1, 1, "Checksum fault policy", 2, 1, true, 0, 2, 1⟩,
  ⟨0xB100, 1, 1, 0x1, 1, "Ledger base", 5, 3, true, 0, 18446744073709551615, 0⟩,
  ⟨0xB100, 1, 1, 0x2, 1, "Ledger size", 5, 3, true, 0, 68719476736, 0⟩,
  ⟨0xB100, 1, 1, 0x3, 1, "Defer age limit", 2, 1, true, 1, 16, 1⟩,
  ⟨0xB100, 1, 1, 0x4, 1, "Straggler deadline", 4, 1, true, 100, 10000000, 50000⟩,
  ⟨0xB100, 1, 1, 0x5, 1, "Deferred pending", 4, 0, false, 0, 4294967295, 0⟩,
  ⟨0xB100, 1, 1, 0x10, 16, "Schedule table", 5, 3, true, 0, 18446744073709551615, 0⟩,
  ⟨0xB110, 1, 1, 0x1, 1, "Ledger base", 5, 3, true, 0, 18446744073709551615, 0⟩,
  ⟨0xB110, 1, 1, 0x2, 1, "Ledger size", 5, 3, true, 0, 68719476736, 0⟩,
  ⟨0xB110, 1, 1, 0x3, 1, "Defer age limit", 2, 1, true, 1, 16, 1⟩,
  ⟨0xB110, 1, 1, 0x4, 1, "Straggler deadline", 4, 1, true, 100, 10000000, 50000⟩,
  ⟨0xB110, 1, 1, 0x5, 1, "Deferred pending", 4, 0, false, 0, 4294967295, 0⟩,
  ⟨0xB110, 1, 1, 0x10, 16, "Schedule table", 5, 3, true, 0, 18446744073709551615, 0⟩,
  ⟨0xB120, 1, 1, 0x1, 1, "Ledger base", 5, 3, true, 0, 18446744073709551615, 0⟩,
  ⟨0xB120, 1, 1, 0x2, 1, "Ledger size", 5, 3, true, 0, 68719476736, 0⟩,
  ⟨0xB120, 1, 1, 0x3, 1, "Defer age limit", 2, 1, true, 1, 16, 1⟩,
  ⟨0xB120, 1, 1, 0x4, 1, "Straggler deadline", 4, 1, true, 100, 10000000, 50000⟩,
  ⟨0xB120, 1, 1, 0x5, 1, "Deferred pending", 4, 0, false, 0, 4294967295, 0⟩,
  ⟨0xB120, 1, 1, 0x10, 16, "Schedule table", 5, 3, true, 0, 18446744073709551615, 0⟩,
  ⟨0xB130, 1, 1, 0x1, 1, "Ledger base", 5, 3, true, 0, 18446744073709551615, 0⟩,
  ⟨0xB130, 1, 1, 0x2, 1, "Ledger size", 5, 3, true, 0, 68719476736, 0⟩,
  ⟨0xB130, 1, 1, 0x3, 1, "Defer age limit", 2, 1, true, 1, 16, 1⟩]

/-- Rows of the dictionary, part 8. -/
def dict8 : List DEntry := [
  ⟨0xB130, 1, 1, 0x4, 1, "Straggler deadline", 4, 1, true, 100, 10000000, 50000⟩,
  ⟨0xB130, 1, 1, 0x5, 1, "Deferred pending", 4, 0, false, 0, 4294967295, 0⟩,
  ⟨0xB130, 1, 1, 0x10, 16, "Schedule table", 5, 3, true, 0, 18446744073709551615, 0⟩,
  ⟨0xC000, 1, 1, 0x1, 1, "Port enable", 2, 1, true, 0, 15, 15⟩,
  ⟨0xC000, 1, 1, 0x2, 1, "Reserved slots", 2, 0, false, 0, 255, 0⟩,
  ⟨0xC000, 1, 1, 0x3, 1, "Stream idle watchdog", 4, 1, true, 0, 600000, 5000⟩,
  ⟨0xC000, 1, 1, 0x4, 1, "Authentication failure limit", 2, 1, true, 1, 255, 3⟩,
  ⟨0xC010, 1, 1, 0x1, 4, "Port state", 2, 0, false, 0, 255, 0⟩,
  ⟨0xC100, 128, 1, 0x1, 1, "Max width", 3, 1, true, 8, 16384, 8192⟩,
  ⟨0xC100, 128, 1, 0x2, 1, "Max height", 3, 1, true, 8, 16384, 8192⟩,
  ⟨0xC100, 128, 1, 0x3, 1, "Max frames", 4, 1, true, 1, 100000, 1800⟩,
  ⟨0xC100, 128, 1, 0x4, 1, "Max samples", 4, 1, true, 1, 1073741824, 2880000⟩,
  ⟨0xC100, 128, 1, 0x5, 1, "Max tokens", 4, 1, true, 1, 16777216, 8192⟩,
  ⟨0xC100, 128, 1, 0x6, 1, "Max text bytes", 4, 1, true, 1, 67108864, 1048576⟩,
  ⟨0xC100, 128, 1, 0x7, 1, "Plausibility floor", 4, 1, true, 0, 4294967295, 0⟩,
  ⟨0xC100, 128, 1, 0x10, 1, "Stream state", 2, 0, false, 0, 255, 0⟩,
  ⟨0xC100, 128, 1, 0x11, 1, "Stream position", 5, 0, false, 0, 18446744073709551615, 0⟩]

/-- The dictionary. -/
def dict : List DEntry := dict1 ++ dict2 ++ dict3 ++ dict4 ++ dict5 ++ dict6 ++ dict7 ++ dict8

/-- Whether a row covers index i, subindex j. -/
def DEntry.covers (e : DEntry) (i j : Nat) : Bool :=
  e.idx ≤ i && (i - e.idx) % e.stride == 0 && (i - e.idx) / e.stride < e.span && e.sub ≤ j && j < e.sub + e.subs

/-- The row of entry i:j (R373: none answers 0x1203). -/
def dictFind (i j : Nat) : Option DEntry := dict.find? (fun e => e.covers i j)

/-- Bytes of a value of a fixed-size type; 0 for STR and OCTETS (R367). -/
def typeSize (ty : Nat) : Nat :=
  match ty with
  | 1 => 1 | 2 => 1 | 3 => 2 | 4 => 4 | 5 => 8 | 6 => 4 | 7 => 4 | 8 => 8 | _ => 0

/-- The value of a mask of bits lo to lo + n - 1 in a field of len bytes. -/
def maskBytes (len lo n : Nat) : List Byte := le len ((2 ^ n - 1) * 2 ^ lo)

/-- The default of entry i:j on a module of TFB address addr (R369; R71, R248 and R384 make three defaults depend on the
index or the module). -/
def dictDefault (addr i j : Nat) : List Byte :=
  match dictFind i j with
  | none => []
  | some e =>
    if e.idx = 0x3040 ∧ j = 1 then maskBytes 24 (48 * ((i - 0x3040) / 256)) 48
    else if e.idx = 0x3070 ∧ j = 1 then maskBytes 16 (32 * ((i - 0x3070) / 256)) 32
    else if e.idx = 0xA200 ∧ j = 1 then le 1 (addr % 15 + 1)
    else le (typeSize e.ty) e.dflt

/-- The partition whose entry index i is, for the 0x3pxx entries and the 0xB1p0 entries. -/
def entryPart (i : Nat) : Option Nat :=
  if 0x3000 ≤ i ∧ i < 0x3400 then some ((i - 0x3000) / 256)
  else if 0xB100 ≤ i ∧ i < 0xB140 then some ((i - 0xB100) / 16)
  else none

end Sys2Proof.Machine
end

