-- ==== Sys2Proof/Machine/Ops.lean ====
section
/-!
DEFINITION. The named operations every meaning is written over: reading and changing the state's tables, the site and
channel maps, partition addresses (R217 to R224), memory, counters, outputs and the event log.
-/

namespace Sys2Proof.Machine

/-- The timebase as TIME64, a 64-bit count (R15, R90). -/
def State.now (s : State) : Nat := s.time.ps / 1000 % 18446744073709551616

/-- Partition p. -/
def State.part (s : State) (p : Nat) : Part := Tab.get s.parts {} p

/-- s with partition p changed by f. -/
def State.modPart (s : State) (p : Nat) (f : Part → Part) : State := { s with parts := Tab.mod s.parts {} p f }

/-- Key of queue n of kind k (R69). -/
def qKey (k n : Nat) : Nat := k * 65536 + n

/-- The engine queue n of kind k. -/
def State.queue (s : State) (k n : Nat) : Queue := Tab.get s.queues {} (qKey k n)

/-- s with queue n of kind k changed by f. -/
def State.modQueue (s : State) (k n : Nat) (f : Queue → Queue) : State :=
  { s with queues := Tab.mod s.queues {} (qKey k n) f }

/-- The state of a cluster site. -/
def State.site (s : State) (i : Nat) : Site := Tab.get s.sites {} i

/-- s with site i changed by f. -/
def State.modSite (s : State) (i : Nat) (f : Site → Site) : State := { s with sites := Tab.mod s.sites {} i f }

/-- Stream n (R248). -/
def State.stream (s : State) (n : Nat) : Stream := Tab.get s.streams {} n

/-- s with stream n changed by f. -/
def State.modStream (s : State) (n : Nat) (f : Stream → Stream) : State :=
  { s with streams := Tab.mod s.streams {} n f }

/-- First-Layer Engine f. -/
def State.fle (s : State) (f : Nat) : Fle := Tab.get s.fles {} f

/-- s with First-Layer Engine i changed by f. -/
def State.modFle (s : State) (i : Nat) (f : Fle → Fle) : State := { s with fles := Tab.mod s.fles {} i f }

/-- s with one more output (log 6). -/
def State.out (s : State) (o : Out) : State := { s with outs := o :: s.outs }

/-- s with counter j of unit index i increased by n (R390). -/
def State.count (s : State) (i j n : Nat) : State := { s with ctr := Tab.mod s.ctr 0 (i * 256 + j) (· + n) }

/-- Counter j of unit index i. -/
def State.counter (s : State) (i j : Nat) : Nat := Tab.get s.ctr 0 (i * 256 + j)

/-- The bytes a Caddy entry holds: as written, else its default (R369). -/
def State.val (s : State) (i j : Nat) : List Byte :=
  (Tab.find s.vals (i * 256 + j)).getD (dictDefault s.factory.moduleAddress i j)

/-- The value of a numeric Caddy entry. -/
def State.valNat (s : State) (i j : Nat) : Nat := ofLe (s.val i j)

/-- The value of partition p's entry 0x3p00 + i (R42). -/
def State.pval (s : State) (p i j : Nat) : Nat := s.valNat (0x3000 + 256 * p + i) j

/-- s with Caddy entry i:j holding bs. -/
def State.setVal (s : State) (i j : Nat) (bs : List Byte) : State := { s with vals := Tab.set s.vals (i * 256 + j) bs }

/-- The TFB module address (R10). -/
def State.address (s : State) : Nat := s.factory.moduleAddress

/-- Partition states as R43 encodes them. -/
def PState.code (x : PState) : Nat :=
  match x with
  | .unassigned => 0 | .idle => 1 | .running => 2 | .draining => 3
  | .hostLost => 4 | .reclaiming => 5 | .scrubbing => 6 | .safeStop => 7

/-- Running, Draining, Host-lost or Reclaiming: the states that hold work (R71, R106). -/
def PState.works (x : PState) : Bool :=
  match x with
  | .running | .draining | .hostLost | .reclaiming => true
  | _ => false

/-- Idle or Unassigned (R52). -/
def PState.quiet (x : PState) : Bool :=
  match x with
  | .idle | .unassigned => true
  | _ => false

/-- The partition numbers (R9). -/
def partNumbers : List Nat := [0, 1, 2, 3]

/-- Every partition is Idle or Unassigned: the module-level condition of R52 and R92. -/
def State.allQuiet (s : State) : Bool := partNumbers.all (fun p => (s.part p).state.quiet)

/-- Number of assigned partitions. -/
def State.assigned (s : State) : Nat := (partNumbers.filter (fun p => decide ((s.part p).state ≠ .unassigned))).length

/-- s with the state of partition p changed, signalled on MSI-X vector 1 of its function (R74). -/
def State.setPState (s : State) (p : Nat) (x : PState) : State :=
  if (s.part p).state = x then s
  else (s.modPart p (fun q => { q with state := x, idleTick := s.time.ticks })).out (.msix (p + 1) 1)

/-- The physical site of a unit of kind 0x01 or 0x02: its number is row × 256 + physical column (R334). -/
def unitSite (unit : Nat) : Nat := unit / 256 * 42 + unit % 256

/-- The action that an entry of severity 2 or more set in motion has ended (R336): no retirement or fill of its site, no
migration of its stack and no rollback of its partition is under way. -/
def State.actionEnded (s : State) (e : ErrEntry) : Bool :=
  let i := unitSite e.unit
  !(e.unitKind == 1 && ((Tab.get s.sites {} i).retiring.isSome ||
      [0, 1, 2, 3, 4].any (fun p => (s.part p).rcv.fills.any (fun f => f.failed == i || f.spare == i)))) &&
  !(e.unitKind == 3 && (Tab.find s.hbm.migrations (e.unit / 256)).isSome) &&
  !(3 ≤ e.sev && partNumbers.any (fun p =>
      (e.part == p || (4 ≤ e.part && e.status == 0x7303)) && (s.part p).rcv.rollback.isSome))

/-- Repairs of hardware: a preempted one always resumes (R338). -/
def repairs : List Nat := [0x6201, 0x6202, 0x6401, 0x6601, 0x6602, 0x6603]

/-- The unit of an entry is in service (R338). -/
def State.inService (s : State) (e : ErrEntry) : Bool :=
  let i := unitSite e.unit
  if e.unitKind = 1 ∨ e.unitKind = 2 then
    Tab.get s.siteState 0 i == 0 && !(Tab.get s.sites {} i).halted &&
      (e.unitKind == 1 || Tab.get (Tab.get s.sites {} i).columns 0 (field e.detail 1 1) != 2)
  else if e.unitKind = 3 then !s.hbm.failed.contains (e.unit / 256, e.unit % 256)
  else true

/-- An entry as it stands now: handled once its action has ended (R336); a preempted one resumed, or closed as subsumed,
once the entry that preempted it is handled (R338). -/
def State.settleErr (s : State) (e : ErrEntry) : ErrEntry :=
  if e.state = 1 ∧ 2 ≤ e.sev && s.actionEnded e then { e with state := 3, tHandled := s.now }
  else if e.state = 2 && !s.errq.entries.any (fun g => g.cause == e.seq && g.seq != e.seq && g.sev > e.sev && g.state < 3) then
    if repairs.contains e.status || (e.status != 0x2201 && s.inService e && (s.part e.part).state != .safeStop) then
      { e with state := 1 }
    else { e with state := 3, flags := if e.flags % 2 = 0 then e.flags + 1 else e.flags, tHandled := s.now }
  else e

/-- The error queue with every entry as it stands now. -/
def State.settled (s : State) : ErrQ := { s.errq with entries := s.errq.entries.map s.settleErr }

/-! ### The takeover journal (R351) -/

/-- Index of the first command of a list that is still to be dispatched, its length where there is none. -/
def ListRec.nextIndex (x : ListRec) : Nat :=
  (x.cmds.findIdx? (fun c => c.st == .held || c.st == .queued)).getD x.cmds.length

/-- What the journal records of a list that is active: lane, list_addr, next command index, and the tick of a schedule table
(R298, R351). -/
def ListRec.journal (x : ListRec) : List Byte := le 1 x.lane ++ le 8 x.addr ++ le 4 x.nextIndex ++ le 4 x.tick

/-- What the journal records of a partition: its state, its active lists, the state of its lease sampling, the step of its
rollback, and the step of its reclaim with the tick from which its deadline counts (R351; log 111). -/
def Part.journal (q : Part) : List Byte :=
  le 1 q.state.code ++ ((q.lists.filter (fun x => x.active && x.parent.isNone)).flatMap ListRec.journal) ++
    le 1 q.lease.state ++ le 8 q.lease.lastBeat ++ le 8 q.lease.seenTick ++
    (match q.rcv.rollback with
     | some r => le 1 1 ++ le 1 r.tier ++ le 1 (if r.restored then 1 else 0) ++ le 4 (r.target.getD 0)
     | none => le 1 0) ++
    (match q.rcv.reclaim with
     | some c => le 1 1 ++ le 1 c.phase ++ le 8 c.t0
     | none => le 1 0)

/-- The content of the journal (R351): every partition, then the step of every handler in progress. -/
def State.journalBody (s : State) : List Byte :=
  (partNumbers.flatMap (fun p => (s.part p).journal)) ++
    ((s.errq.entries.filter (fun e => e.state == 1 || e.state == 2)).flatMap (fun e => le 4 e.seq ++ le 1 e.state))

/-- A journal write with the next sequence number and its CRC-32C (R351). -/
def JRec.of (seq : Nat) (body : List Byte) : JRec := { seq := seq, body := body, crc := crc32c (le 4 seq ++ body) }

/-- The write that a mirror holds is sound. -/
def JRec.sound (j : JRec) : Bool := j.crc == crc32c (le 4 j.seq ++ j.body)

/-- The valid mirror: the newer of the two whose CRC matches (R351), none where neither does (R356). -/
def Journal.valid (j : Journal) : Option JRec :=
  if j.a.sound && (!j.b.sound || serialGe j.a.seq j.b.seq) then some j.a
  else if j.b.sound then some j.b
  else none

/-- The journal with a content written to both mirrors, where it differs from the valid one's (R351). -/
def Journal.write (j : Journal) (body : List Byte) : Journal :=
  match j.valid with
  | some r =>
    if r.body = body then j
    else { a := JRec.of ((r.seq + 1) % 4294967296) body, b := JRec.of ((r.seq + 1) % 4294967296) body }
  | none => j

/-- The journal as it stands after s: an SCH in service writes it at every step of its work (R351). -/
def State.journaled (s : State) : Journal :=
  if s.boot.schLost ∨ s.boot.power ≠ 2 then s.journal else s.journal.write ({ s with errq := s.settled }).journalBody

/-- The answer of a command that touches neither the queue of commands, nor the timebase (R90 to R93), nor the factory
record (R2): t with those three as they were, and the error queue and the journal as they then stand (R336, R351). -/
def answer (s t : State) : Host.Outcome State Fault Refusal :=
  .next { t with pending := s.pending, time := s.time, factory := s.factory, errq := t.settled, journal := t.journaled }

/-- The answer of a command that may move the timebase (R90 to R92) or re-arm the snapshot (R110 to R112). -/
def answerTime (s t : State) : Host.Outcome State Fault Refusal :=
  .next { t with pending := s.pending, factory := s.factory, errq := t.settled, journal := t.journaled }

/-! ### Sites and logical clusters -/

/-- Active clusters in a row: the grade (R1). -/
def State.grade (s : State) : Nat := s.factory.grade

/-- Spare-map state of a site: 0 active, 1 spare, 2 failed, 3 failed with router bypass (R314). At delivery the
easternmost sites of each row are the spares (log 3). -/
def State.siteSt (s : State) (i : Nat) : Nat :=
  Tab.get s.siteState (if i % 42 < s.grade then 0 else 1) i

/-- The active sites of a row, in ascending physical order (R6). -/
def State.activeSites (s : State) (row : Nat) : List Nat :=
  ((List.range 42).map (fun c => row * 42 + c)).filter (fun i => s.siteSt i == 0)

/-- The site behind logical cluster number n, none in a reduced row (R6, R316). -/
def State.siteOf (s : State) (n : Nat) : Option Nat :=
  if n / s.grade < 30 then (s.activeSites (n / s.grade))[n % s.grade]? else none

/-- The logical cluster number of a site, none when it has none (R6). -/
def State.logicalOf (s : State) (i : Nat) : Option Nat :=
  ((s.activeSites (i / 42)).findIdx? (· == i)).map (fun c => i / 42 * s.grade + c)

/-- The partition that owns a row (R59). -/
def State.partOfRow (s : State) (row : Nat) : Option Nat :=
  partNumbers.find? (fun p =>
    decide ((s.part p).state ≠ .unassigned ∧ (s.part p).firstRow ≤ row ∧ row < (s.part p).firstRow + (s.part p).rows))

/-- The partition that owns logical cluster n. -/
def State.partOfCluster (s : State) (n : Nat) : Option Nat := s.partOfRow (n / s.grade)

/-- The rows of partition p. -/
def Part.rowList (q : Part) : List Nat := (List.range q.rows).map (· + q.firstRow)

/-- The active sites of partition p. -/
def State.partSites (s : State) (p : Nat) : List Nat := (s.part p).rowList.flatMap s.activeSites

/-- The logical clusters of partition p that have a site. -/
def State.partClusters (s : State) (p : Nat) : List Nat :=
  (s.part p).rowList.flatMap (fun r => (List.range (s.activeSites r).length).map (· + r * s.grade))

/-- State of physical core column c of a site: 0 active, 1 spare, 2 retired (R314); columns 32 and 33 are the spares at
delivery (log 3). -/
def Site.column (x : Site) (c : Nat) : Nat := Tab.get x.columns (if c < 32 then 0 else 1) c

/-- The active physical core columns of a site, ascending: their places are the logical core columns (R114). -/
def Site.coreColumns (x : Site) : List Nat := (List.range 34).filter (fun c => x.column c == 0)

/-- Row band of a row, column band of a physical column (R7). -/
def rowBand (row : Nat) : Nat := row / 6
def colBand (col : Nat) : Nat := if col < 9 then 0 else if col < 17 then 1 else if col < 25 then 2 else if col < 33 then 3 else 4

/-- Band clock in MHz of an operating point (R418). -/
def pointClock (x : Nat) : Nat := if x = 0 then 1900 else if x = 1 then 1700 else if x = 2 then 1500 else 1200

/-- Operating point of a band. -/
def State.point (s : State) (b : Nat) : Nat := Tab.get s.power.points 0 b

/-- The band clock of a cluster site, or of a First-Layer Engine, 1260 and on (R418). -/
def State.siteClock (s : State) (i : Nat) : Nat := pointClock (s.point (if i < 1260 then rowBand (i / 42) else i - 1260))

/-- The k of every 64 cycles that leaves 1/64 MHz of clock d from a band clock f: at least d (R418). -/
def stretchTo (f d : Nat) : Nat := 64 - min 64 ((d + f - 1) / f)

/-- The floor: an effective clock of 1.2 GHz, in 1/64 MHz (R132, R418). -/
def floorClock : Nat := 76800

/-- The largest k at a band clock (R418). -/
def kMax (f : Nat) : Nat := stretchTo f floorClock

/-- The k in force on a site: the larger of the cap's and the zone's (R429). -/
def Site.stretch (x : Site) : Nat := max x.k x.zoneK

/-- Array cycles that some nanoseconds come to on a site (R418). -/
def State.cyclesOf (s : State) (i ns : Nat) : Nat := ns * s.siteClock i * (64 - min 64 (s.site i).stretch) / 64000

/-- The partition that owns FLE f: the one with the most of its band's rows, the lower-numbered rows on a tie (R37). Where no
partition owns a majority and the split is not 3 and 3, R37 names no owner: log 90. -/
def State.fleOwner (s : State) (f : Nat) : Option Nat :=
  let rows := (List.range 6).map (fun k => s.partOfRow (6 * f + k))
  let cnt := fun p => (rows.filter (· == some p)).length
  partNumbers.foldl (fun best p =>
    match best with
    | none => if cnt p > 0 then some p else none
    | some b => if cnt p > cnt b then some p else some b) none

/-! ### Memory stacks -/

/-- One MiB. -/
def mib : Nat := 1048576

/-- The standby channel of a stack, 255 when it has none (R222, R485). -/
def State.standby (s : State) (stack : Nat) : Nat := Tab.get s.hbm.standby 31 stack

/-- The physical channel of a logical channel, 255 when there is none (R485). -/
def State.physCh (s : State) (stack logical : Nat) : Nat := Tab.get s.hbm.map logical (stack * 32 + logical)

/-- The physical channel that an access at an offset of a logical channel goes to: below the copy pointer of a migration, the
standby (R244). -/
def State.physAt (s : State) (stack logical off : Nat) : Nat :=
  match Tab.find s.hbm.migrations stack with
  | some g =>
    if g.phase = 0 ∧ g.logical = logical ∧ off / 4096 < g.ptr then g.target else s.physCh stack logical
  | none => s.physCh stack logical

/-- The logical channel that names a physical channel, 255 when none does. -/
def State.logicalCh (s : State) (stack phys : Nat) : Nat :=
  ((List.range 31).find? (fun l => s.physCh stack l == phys)).getD 255

/-- MiB each active channel gives to a hosted window of w GiB (R221). -/
def carveOf (w : Nat) : Nat := 4 * ((w * 256 + 619) / 620)

/-- The carve in force (R221). -/
def State.carve (s : State) : Nat := carveOf (s.valNat 0x2300 1)

/-- Near share of partition p in MiB (R222). -/
def State.near (s : State) (p : Nat) : Nat := s.pval p 0x60 1

/-- Size of the spread region of partition p in bytes (R220). -/
def State.spreadSize (s : State) (p : Nat) : Nat := 20 * (s.part p).chans * (2046 - s.carve - s.near p) * mib

/-- Size of each near window of partition p in bytes (R220, R224). -/
def State.nearSize (s : State) (p : Nat) : Nat := 4 * (s.part p).chans * (s.near p / 5) * mib

/-- The slot of a granule among n channels (R223). -/
def granuleSlot (g n : Nat) : Nat := (g % n + ((g / n * 40503) ^^^ (g / n / 128)) % n) % n

/-- The stack at position i of near window w: N_cb, S_cb, E_rb, W_rb (R224). -/
def nearStack (w i : Nat) : Nat :=
  if i = 0 then w % 5 else if i = 1 then 5 + w % 5 else if i = 2 then 10 + w / 5 else 15 + w / 5

/-- The piece of a stack's near part that serves window w (R224). -/
def nearPiece (w i : Nat) : Nat := if i < 2 then w / 5 else w % 5

/-- Place of an offset of a physical channel in the memory list. -/
def hbmPlace (stack phys off : Nat) : Nat := (stack * 32 + phys) * 2147483648 + off

/-- Place of offset o of a site's on-plane memory. -/
def planePlace (site o : Nat) : Nat := 2199023255552 + site * 268435456 + o

/-- Start of the near windows, of the on-plane regions, and their spacings (R217). -/
def nearBase : Nat := 0x20000000000
def nearStep : Nat := 0x1000000000
def planeBase : Nat := 0x40000000000
def planeStep : Nat := 0x10000000

/-- Offsets of the accumulator window and the operand buffers of a cluster, and sizes of its regions (R217). -/
def accOff : Nat := 0x4000000
def bufOff : Nat := 0x8000000
def cacheSize : Nat := 41943040
def accSize : Nat := 16777216
def bufSize : Nat := 33554432

/-- Place of byte o of slot k of a core (R168): its position is physical (R114). -/
def accPlace (site coreRow col slot o : Nat) : Nat := planePlace site (accOff + ((coreRow * 34 + col) * 64 + slot) * 1024 + o)

/-- Place of byte o of a core's operand buffer. -/
def bufPlace (site coreRow col o : Nat) : Nat := planePlace site (bufOff + (coreRow * 34 + col) * 131072 + o)

/-- The regions of R218 that an address range of n bytes can lie in: whether a + n stays wholly inside one of them. -/
def State.inside (s : State) (p a n : Nat) : Bool :=
  if a < nearBase then a + n ≤ s.spreadSize p
  else if a < planeBase then
    (a - nearBase) / nearStep < 25 && (a - nearBase) % nearStep + n ≤ s.nearSize p
  else
    let c := (a - planeBase) / planeStep
    let o := (a - planeBase) % planeStep
    s.partOfCluster c == some p && (s.siteOf c).isSome &&
      (o + n ≤ cacheSize ||
        (accOff ≤ o && o + n ≤ accOff + accSize && s.valNat 0x2200 1 == 0) ||
        (bufOff ≤ o && o + n ≤ bufOff + bufSize))

/-- Whether a range of n bytes lies in the HBM slice of partition p (R217). -/
def State.inSlice (s : State) (p a n : Nat) : Bool := a < planeBase && s.inside p a n

/-- Whether a range of n bytes lies in the shared cache of a cluster of partition p. -/
def State.inCache (s : State) (p a n : Nat) : Bool :=
  planeBase ≤ a && (a - planeBase) % planeStep + n ≤ cacheSize && s.inside p a n

/-- Place of offset o of a shared cache in its slices of 2.5 MiB: the slice of its 256-byte granule, and the entry within
the slice (R239). -/
def cachePlace (o : Nat) : Nat :=
  let g := o / 256
  ((g % 16) ^^^ (g / 16 % 16) ^^^ (g / 256 % 16)) * 2621440 + g / 16 * 256 + o % 256

/-- Place of on-plane byte o of the site behind a cluster (R168, R217, R239). -/
def State.planeByte (s : State) (site o : Nat) : Nat :=
  let cols := (s.site site).coreColumns
  if o < accOff then planePlace site (cachePlace o)
  else if o < bufOff then
    let t := (o - accOff) / 1024
    accPlace site (t / 64 / 32) (cols.getD (t / 64 % 32) 33) (t % 64) ((o - accOff) % 1024)
  else
    let k := (o - bufOff) / 131072
    bufPlace site (k / 32) (cols.getD (k % 32) 33) ((o - bufOff) % 131072)

/-- The place of a partition address, none outside the regions of R218. -/
def State.place (s : State) (p a : Nat) : Option Nat :=
  if !s.inside p a 1 then none
  else
    let q := s.part p
    if a < nearBase then
      let n := 20 * q.chans
      let g := a / 4096
      let k := granuleSlot g n
      let off := s.near p * mib + g / n * 4096 + a % 4096
      let phys := s.physAt (k % 20) (q.firstCh + k / 20) off
      if phys < 32 then some (hbmPlace (k % 20) phys off) else none
    else if a < planeBase then
      let w := (a - nearBase) / nearStep
      let o := (a - nearBase) % nearStep
      let n := 4 * q.chans
      let g := o / 4096
      let k := granuleSlot g n
      let stack := nearStack w (k % 4)
      let off := nearPiece w (k % 4) * (s.near p * mib / 5) + g / n * 4096 + o % 4096
      let phys := s.physAt stack (q.firstCh + k / 4) off
      if phys < 32 then some (hbmPlace stack phys off) else none
    else
      (s.siteOf ((a - planeBase) / planeStep)).map (fun i => s.planeByte i ((a - planeBase) % planeStep))

/-- The place of byte a of the hosted window (R221, R223 with N = 620). -/
def State.windowPlace (s : State) (a : Nat) : Option Nat :=
  let g := a / 4096
  let k := granuleSlot g 620
  let off := (2046 - s.carve) * mib + g / 620 * 4096 + a % 4096
  let phys := s.physAt (k % 20) (k / 20) off
  if phys < 32 ∧ g / 620 * 4096 < s.carve * mib then some (hbmPlace (k % 20) phys off) else none

/-- The n bytes from partition address a; a byte outside the partition reads 0 (R219). -/
def State.rd (s : State) (p a n : Nat) : List Byte :=
  (List.range n).map (fun i => match s.place p (a + i) with | some k => Mem.get s.mem k | none => 0)

/-- The little-endian number of n bytes at partition address a. -/
def State.rdNat (s : State) (p a n : Nat) : Nat := ofLe (s.rd p a n)

/-- The places and bytes of a write of bs at partition address a. -/
def State.writeCells (s : State) (p a : Nat) (bs : List Byte) : List (Nat × Byte) :=
  bs.zipIdx.filterMap (fun e => (s.place p (a + e.2)).map (fun k => (k, e.1)))

/-- First places of the whole aligned 4 KiB blocks of HBM that a write of n bytes at a covers (R234). -/
def State.wholeBlocks (s : State) (p a n : Nat) : List Nat :=
  if planeBase ≤ a then [] else
  ((List.range (n / 4096 + 1)).filterMap (fun k =>
    let b := ((a + 4095) / 4096 + k) * 4096
    if b + 4096 ≤ a + n then s.place p b else none))

/-- The side table after whole blocks at the places bs are written: their entries are maintained (R234). -/
def markMaintained (r : Ranges) (bs : List Nat) : Ranges :=
  bs.foldl (fun r b => Ranges.add r (b / 4096) (b / 4096 + 1)) r

/-- The stacks after whole blocks were written at the places bs: their entries are maintained and match (R234). -/
def Hbm.wrote (h : Hbm) (bs : List Nat) : Hbm :=
  { h with
    maintained := markMaintained h.maintained bs
    corrupt := h.corrupt.filter (fun k => !bs.contains (k * 4096)) }

/-- The stacks after ranges of blocks were scrubbed (R234, R241). -/
def Hbm.scrubbed (h : Hbm) (blocks : List (Nat × Nat)) : Hbm :=
  { h with
    maintained := blocks.foldl (fun r b => Ranges.add r b.1 b.2) h.maintained
    corrupt := h.corrupt.filter (fun k => !blocks.any (fun b => b.1 ≤ k && k < b.2)) }

/-- The stacks with the entries of blocks lo to hi − 1 unmaintained (R181, R486). -/
def Hbm.unmarked (h : Hbm) (lo hi : Nat) : Hbm :=
  { h with
    maintained := Ranges.del h.maintained lo hi
    corrupt := h.corrupt.filter (fun k => !(lo ≤ k && k < hi)) }

/-- The stacks with a block that does not match its entry (R235). -/
def Hbm.spoilt (h : Hbm) (k : Nat) : Hbm := if h.corrupt.contains k then h else { h with corrupt := k :: h.corrupt }

/-- s with bs stored at partition address a: whole blocks become maintained, partial ones keep their mark (R234). -/
def State.wr (s : State) (p a : Nat) (bs : List Byte) : State :=
  { s with
    mem := Mem.putAll s.mem (s.writeCells p a bs)
    hbm := s.hbm.wrote (s.wholeBlocks p a bs.length) }

/-- s with several stores made in order. -/
def State.wrAll (s : State) (p : Nat) (ws : List (Nat × List Byte)) : State := ws.foldl (fun s w => s.wr p w.1 w.2) s

/-- Whether the n bytes from a are zero, judged from the listed cells. -/
def State.rdZero (s : State) (p a n : Nat) : Bool := (s.rd p a n).all (fun b => decide (b = 0))

/-- The 4 KiB block of an HBM place, as the key of its side-table entry (R234). -/
def blockOf (place : Nat) : Nat := place / 4096

/-- Whether the block that holds partition address a is maintained; on-plane memory has no entry (R234). -/
def State.maintainedAt (s : State) (p a : Nat) : Bool :=
  match s.place p a with
  | some k => decide (k < 2199023255552) && Ranges.has s.hbm.maintained (blockOf k)
  | none => false

/-- Counter index of a cluster site (R390). -/
def siteIndex (site : Nat) : Nat := 0x6100 + site

/-- Counter index of the channel behind an HBM place (R390). -/
def channelIndex (place : Nat) : Nat := 0x6600 + place / 2147483648

/-- Places of the 64-byte lines that n bytes from a touch in the slice. -/
def State.linePlaces (s : State) (p a n : Nat) : List Nat :=
  if planeBase ≤ a ∨ n = 0 then [] else
  (List.range ((a + n - 1) / 64 - a / 64 + 1)).filterMap (fun k => s.place p (a / 64 * 64 + 64 * k))

/-- s with counter j of each channel behind the lines of a range increased by one per line (R231). -/
def State.countLines (s : State) (p a n j : Nat) : State :=
  (s.linePlaces p a n).foldl (fun s k => s.count (channelIndex k) j 1) s

/-- s with memory cleared where sel picks a place, and the blocks of ranges maintained (a scrub, R234, R241). -/
def State.scrubWhere (s : State) (sel : Nat → Bool) (blocks : List (Nat × Nat)) : State :=
  { s with
    mem := Mem.clear s.mem sel
    hbm := s.hbm.scrubbed blocks }

/-- Whether a place lies in the on-plane memory of one of the sites. -/
def onSites (sites : List Nat) (k : Nat) : Bool :=
  decide (2199023255552 ≤ k) && sites.contains ((k - 2199023255552) / 268435456)

/-- Whether a place lies in the data region of one of the channels (keys stack × 32 + physical), of size bytes. -/
def onChannels (chs : List Nat) (size k : Nat) : Bool :=
  decide (k < 2199023255552) && chs.contains (k / 2147483648) && decide (k % 2147483648 < size)

/-- The standby channels onto which logical channels l to l + n − 1 are being copied (R243, R247). -/
def State.copyTargets (s : State) (l n : Nat) : List Nat :=
  s.hbm.migrations.filterMap (fun e =>
    if e.2.phase = 0 ∧ l ≤ e.2.logical ∧ e.2.logical < l + n then some (e.1 * 32 + e.2.target) else none)

/-- The physical channels of logical channels l to l + n - 1 of every stack, and those they are being copied onto. -/
def State.channelsOf (s : State) (l n : Nat) : List Nat :=
  ((List.range 20).flatMap (fun st => (List.range n).filterMap (fun i =>
    let c := s.physCh st (l + i)
    if c < 32 then some (st * 32 + c) else none))) ++ s.copyTargets l n

/-- Block ranges of the data regions of channels, of size bytes each. -/
def channelBlocks (chs : List Nat) (size : Nat) : List (Nat × Nat) :=
  chs.map (fun c => (c * 524288, c * 524288 + size / 4096))

/-- Bytes of a channel's data region (R220). -/
def State.dataBytes (s : State) : Nat := (2046 - s.carve) * mib

/-- s with sites' on-plane memory and channels' data regions cleared to +0 (R241). -/
def State.scrub (s : State) (sites chs : List Nat) : State :=
  s.scrubWhere (fun k => onSites sites k || onChannels chs s.dataBytes k) (channelBlocks chs s.dataBytes)

/-- s with everything of partition p cleared: slice, operand buffers, accumulators, caches (R50, R241). -/
def State.scrubPart (s : State) (p : Nat) : State :=
  s.scrub (s.partSites p) (s.channelsOf (s.part p).firstCh (s.part p).chans)

/-! ### The event log -/

/-- Events that also go to the retained ring (R386). -/
def retainedEvent (ev : Nat) : Bool := [0x0004, 0x0006, 0x0007, 0x000A, 0x000B].contains ev

/-- s with a record in the general ring, and in the retained ring when keep is set (R386, R387), under the next number of its
unit (R97). -/
def State.logRecord (s : State) (r : LogRec) (keep : Bool) : State :=
  let l := s.log
  let n := Tab.get l.unitSeq 0 r.unit
  let r := { r with seq := l.nextSeq, unitSeq := n, tLogged := s.now }
  let full := decide (229376 ≤ l.general.length)
  { s with log := { l with
      general := (if full then l.general.drop 1 else l.general) ++ [r]
      retained := if keep then (if 32768 ≤ l.retained.length then l.retained.drop 1 else l.retained) ++ [r] else l.retained
      nextSeq := (l.nextSeq + 1) % 18446744073709551616
      unitSeq := Tab.set l.unitSeq r.unit ((n + 1) % 4294967296)
      lastGeneral := r.seq
      lastRetained := if keep then r.seq else l.lastRetained
      overwritten := if full then l.overwritten + 1 else l.overwritten
      unprogrammed := if l.unprogrammed = 255 then 0 else l.unprogrammed + 1
      firstTick := if l.unprogrammed = 0 then s.time.ticks else l.firstTick } }

/-- s with event ev logged (R388): partition, route code, detail. -/
def State.logEvent (s : State) (ev part route : Nat) (detail : List Byte) : State :=
  s.logRecord { seq := 0, kind := 2, part := part, event := ev, route := route, tLogged := 0, detail := detail }
    (retainedEvent ev)

/-- Route codes of R387. -/
def Route.code (r : Route) : Nat :=
  match r with
  | .pcie => 1 | .i3c => 2 | .port => 3

/-- s with an accepted write of an entry logged as event 0x0001 (R388): old and new value, their first 64 bytes in the
body. -/
def State.logWrite (s : State) (route i j ty : Nat) (old new : List Byte) : State :=
  let body := padTo 64 old ++ padTo 64 new
  s.logRecord
    { seq := 0, kind := 2, part := (entryPart i).getD 0xFF, event := 1, route := route, tLogged := 0
      detail := le 2 i ++ le 1 j ++ le 1 ty ++ le 4 old.length ++ le 4 new.length ++ le 4 (crc32c body)
      body := body } false

/-- s with entry i:j holding a value; a saved entry's value goes to the save journal (R369, R381). -/
def State.saveVal (s : State) (i j : Nat) (bs : List Byte) : State :=
  let s := s.setVal i j bs
  if ((dictFind i j).map (fun e => e.saved)).getD false then
    { s with nor := { s.nor with journal := s.nor.journal ++ [(i * 256 + j, bs)] } }
  else s

/-- Entry i:j is saved (R369). -/
def isSaved (i j : Nat) : Bool := ((dictFind i j).map (fun e => e.saved)).getD false

/-- s with entry i:j written by the module itself: an accepted write like any other (R380, R388). -/
def State.moduleWrite (s : State) (i j : Nat) (bs : List Byte) : State :=
  let t := s.saveVal i j bs
  if isSaved i j then t.logWrite 4 i j (((dictFind i j).map (fun e => e.ty)).getD 2) (s.val i j) bs else t

end Sys2Proof.Machine
end

