-- ==== Sys2Proof/Machine/Rings.lean ====
section
/-!
DEFINITION. The rings of a partition and its lists (R73 to R80, R87), the fences (R99 to R107), and stopping a partition's
work (R48, R310, R341).
-/

namespace Sys2Proof.Machine

/-! ### Rings -/

/-- Entries of each ring (R73). -/
def Rings.entries (r : Rings) : Nat := 2 ^ r.size

/-- Address of submission entry i (R75). -/
def Rings.sqAddr (r : Rings) (i : Nat) : Nat := r.base + 4096 + i * 64

/-- Address of completion entry i (R75). -/
def Rings.cqAddr (r : Rings) (i : Nat) : Nat := r.base + 4096 + r.entries * 64 + i * 64

/-- Bytes of the ring block (R75). -/
def Rings.blockBytes (r : Rings) : Nat := 4096 + 2 * r.entries * 64

/-- Free completion entries: those the module may write without passing CQ_HEAD_DB (R80, log 11). -/
def Rings.free (r : Rings) : Nat := r.entries - r.cqUsed

/-- Streams bound to partition p. -/
def State.boundStreams (s : State) (p : Nat) : List Nat :=
  (List.range 128).filter (fun n => decide ((s.stream n).state ≠ 0 ∧ (s.stream n).part = p))

/-- The module-written fields of the ring header: offset and bytes (R76). -/
def State.headerFields (s : State) (p : Nat) : List (Nat × List Byte) :=
  let r := (s.part p).rings
  let l := (s.part p).lease
  [(0x08, le 4 r.sqHead), (0x0C, le 4 r.cqTail), (0x10, le 4 r.cqHeldTail), (0x14, le 1 l.state), (0x15, le 1 l.cause),
   (0x20, le 8 l.seen), (0x28, le 8 l.expiredAt), (0x34, le 4 l.startGen), (0x38, le 8 l.lostSachet),
   (0x40, le 4 l.lostEpoch), (0x44, le 2 (s.boundStreams p).length), (0x48, le 4 r.heldN)]

/-- s with the module-written fields of partition p's ring header brought up to date in its slice (R76). -/
def State.syncHeader (s : State) (p : Nat) : State :=
  s.wrAll p ((s.headerFields p).map (fun f => ((s.part p).rings.base + f.1, f.2)))

/-- s with partition p's rings changed by f. -/
def State.modRings (s : State) (p : Nat) (f : Rings → Rings) : State :=
  s.modPart p (fun q => { q with rings := f q.rings })

/-- s with partition p's lease changed by f. -/
def State.modLease (s : State) (p : Nat) (f : Lease → Lease) : State :=
  s.modPart p (fun q => { q with lease := f q.lease })

/-- s with partition p's recovery state changed by f. -/
def State.modRcv (s : State) (p : Nat) (f : Recovery → Recovery) : State :=
  s.modPart p (fun q => { q with rcv := f q.rcv })

/-- The completion interrupt of partition p: MSI-X vector 0 (R74). -/
def State.signalCompletions (s : State) (p : Nat) : State :=
  (s.modRings p (fun r => { r with irqPending := 0 })).out (.msix (p + 1) 0)

/-- One counted entry more: the interrupt comes at the count of IRQ_COALESCE (R73). -/
def State.countCompletion (s : State) (p : Nat) : State :=
  let r := (s.part p).rings
  if r.irqCount ≤ r.irqPending + 1 then s.signalCompletions p
  else s.modRings p (fun r =>
    { r with irqPending := r.irqPending + 1, irqFirst := if r.irqPending = 0 then s.time.ticks else r.irqFirst })

/-- The partition's own epoch, which completion entries report (R79, R102): its closed kind-0x03 epoch. -/
def scopeKey (kind n : Nat) : Nat := kind * 16777216 + n

/-- Closed epoch of a scope (R99). -/
def Fences.closedAt (f : Fences) (key : Nat) : Nat := Tab.get f.closed 0 key

/-- The closed partition-barrier epoch of partition p. -/
def State.partEpoch (s : State) (p : Nat) : Nat := (s.part p).fences.closedAt (scopeKey 3 0)

/-- A completion entry (R79). -/
structure CqEntry where
  subId : Nat
  status : Nat
  flags : Nat := 0
  failing : Nat := 0xFFFFFFFF
  tStart : Nat
  tEnd : Nat
  range : Nat := 1
  done : Nat := 0
  userTag : Nat := 0
  epoch : Nat
deriving DecidableEq, Repr

/-- The 64 bytes of a completion entry with phase ph (R79). -/
def CqEntry.bytes (e : CqEntry) (ph : Nat) : List Byte :=
  withCrc (le 8 e.subId ++ le 2 e.status ++ le 1 ph ++ le 1 e.flags ++ le 4 e.failing ++ le 8 e.tStart ++ le 8 e.tEnd ++
    le 4 e.range ++ le 4 e.done ++ le 8 e.userTag ++ le 4 e.epoch ++ zeros 8)

/-- s with a completion entry written to partition p's ring; counted says whether it counts toward the interrupt. While
completions are held, only cq_held_tail moves (R79, R87). -/
def State.putCompletion (s : State) (p : Nat) (e : CqEntry) (counted : Bool) : State :=
  let r := (s.part p).rings
  let s := s.wr p (r.cqAddr r.cqHeldTail) (e.bytes r.phase)
  let t := (r.cqHeldTail + 1) % r.entries
  let s := s.modRings p (fun r =>
    { r with
      cqHeldTail := t
      phase := if t = 0 then 1 - r.phase else r.phase
      cqTail := if r.held then r.cqTail else t
      cqUsed := r.cqUsed + 1
      heldN := if r.held then r.heldN + 1 else r.heldN })
  let s := s.syncHeader p
  if counted && !r.held then s.countCompletion p else s

/-- s with held completions of partition p published (R87). -/
def State.publish (s : State) (p : Nat) : State :=
  if (s.part p).rings.held then
    ((s.modRings p (fun r => { r with cqTail := r.cqHeldTail, heldN := 0, held := false })).syncHeader p).signalCompletions p
  else s

/-! ### Lists and commands -/

/-- A status whose class is not 0x0 (R79). -/
def failed (status : Nat) : Bool := decide (status / 4096 ≠ 0)

/-- The list with number l of partition p. -/
def State.list (s : State) (p l : Nat) : Option ListRec := (s.part p).lists.find? (fun x => x.id == l)

/-- s with list l of partition p changed by f. -/
def State.modList (s : State) (p l : Nat) (f : ListRec → ListRec) : State :=
  s.modPart p (fun q => { q with lists := q.lists.map (fun x => if x.id = l then f x else x) })

/-- s with command i of list l of partition p changed by f. -/
def State.modCmd (s : State) (r : QRef) (f : CmdRec → CmdRec) : State :=
  s.modList r.part r.list (fun x => { x with cmds := x.cmds.mapIdx (fun i c => if i = r.index then f c else c) })

/-- The command a reference names. -/
def State.cmdOf (s : State) (r : QRef) : Option CmdRec := (s.list r.part r.list).bind (fun x => x.cmds[r.index]?)

/-- failing_index of command i: its index, or in a schedule run tick × 65,536 + its index in the tick (R298). -/
def tickIndex (ticks : List (Nat × List Nat)) (t i : Nat) : Nat :=
  match ticks with
  | [] => t * 65536 + i
  | x :: r => if i < x.1 then t * 65536 + i else tickIndex r (t + 1) (i - x.1)

/-- failing_index of command i of a list. -/
def ListRec.indexOf (x : ListRec) (i : Nat) : Nat := tickIndex x.ticks 0 i

/-- The status and failing_index of a list's completion (R79): the failing command of lowest index, else the notice of
lowest index, else 0x0000. -/
def ListRec.verdict (x : ListRec) : Nat × Nat :=
  match x.cmds.findIdx? (fun c => failed c.status) with
  | some i => (((x.cmds[i]?).map (·.status)).getD 0, x.indexOf i)
  | none => (((x.cmds.find? (fun c => c.status != 0)).map (·.status)).getD 0, 0xFFFFFFFF)

/-- Commands of the list that are started: all of a plain list, those of the ticks begun in a schedule run (R298). -/
def ListRec.started (x : ListRec) : Nat :=
  if x.ticks.isEmpty then x.cmds.length else ((x.ticks.take x.tick).map (·.1)).sum

/-- Commands of the list that ran to completion (R79). -/
def ListRec.ranCount (x : ListRec) : Nat := (x.cmds.filter (fun c => c.st == .done && c.ran)).length

/-- The lowest index of a command under the deadline that has not completed (R78). -/
def ListRec.lateIndex (x : ListRec) : Option Nat := x.cmds.findIdx? (fun c => bit c.cmd.flags 1 && c.st != .done)

/-- The lowest index of a command that has not completed (R48). -/
def ListRec.firstOpen (x : ListRec) : Nat := x.indexOf ((x.cmds.findIdx? (fun c => c.st != .done)).getD 0)

/-- s with list x of partition p answered by a completion entry of the given status and index (R79). A list of which nothing
was dispatched shows the present time in both time fields: R79 gives them the first dispatch and the last completion
(log 91). -/
def State.answerList (s : State) (p : Nat) (x : ListRec) (status failing : Nat) : State :=
  (s.putCompletion p
    { subId := x.subId, status := status, failing := failing, tStart := x.tStart.getD s.now
      tEnd := s.now, done := x.ranCount
      userTag := x.userTag, epoch := s.partEpoch p } x.irq).modList p x.id (fun y => { y with answered := true })

/-- s with a submission entry that fails a check completed at once (R81, R84); both time fields hold the present time
(log 91). -/
def State.refuseList (s : State) (p subId userTag : Nat) (irq : Bool) (status failing : Nat) : State :=
  s.putCompletion p
    { subId := subId, status := status, failing := failing, tStart := s.now, tEnd := s.now, userTag := userTag
      epoch := s.partEpoch p } irq

/-! ### Fences -/

/-- Distance of epoch e above c in the serial arithmetic of R100. -/
def epochDist (e c : Nat) : Nat := (e + 4294967296 - c % 4294967296) % 4294967296

/-- Whether every active cluster of the list has arrived at epoch e of the module barrier (R102). -/
def Fences.arrived (f : Fences) (key c e : Nat) (clusters : List Nat) : Bool :=
  clusters.all (fun n =>
    f.contribs.any (fun x => x.scope == key && x.cluster == n && x.done && epochDist e c ≤ epochDist x.epoch c) &&
    !f.contribs.any (fun x => x.scope == key && x.cluster == n && !x.done && epochDist x.epoch c ≤ epochDist e c))

/-- Whether epoch e above the closed epoch c of a scope may close (R99): one contributor to it has completed, and every
accepted contributor to it or to an earlier epoch has. -/
def Fences.closable (f : Fences) (key c e : Nat) : Bool :=
  f.contribs.any (fun x => x.scope == key && x.done && x.epoch == e) &&
  !f.contribs.any (fun x => x.scope == key && !x.done && epochDist x.epoch c ≤ epochDist e c)

/-- The largest epoch a scope can close at, none when it stays (R99, R102). -/
def Fences.target (f : Fences) (key : Nat) (barrier : Option (List Nat)) : Option Nat :=
  let c := f.closedAt key
  let es := (f.contribs.filter (fun x => x.scope == key && x.done && serialGt x.epoch c)).map (·.epoch)
  let ok := es.filter (fun e => f.closable key c e && (barrier.map (f.arrived key c e)).getD true)
  ok.foldl (fun best e =>
    match best with
    | none => some e
    | some b => if epochDist b c < epochDist e c then some e else some b) none

/-- The fences with scope key closed up to epoch e, at a time and tick. -/
def Fences.close (f : Fences) (key e ns tick : Nat) : Fences :=
  let c := f.closedAt key
  { f with
    closed := Tab.set f.closed key e
    times := (key, e, ns, tick) :: f.times
    contribs := f.contribs.filter (fun x => !(x.scope == key && epochDist x.epoch c ≤ epochDist e c)) }

/-- s with partition p's fences changed by f. -/
def State.modFences (s : State) (p : Nat) (f : Fences → Fences) : State :=
  s.modPart p (fun q => { q with fences := f q.fences })

/-- At each closure of the partition barrier, the consumer-late policy and the sachet interval written to Caddy take effect
(R42, R78). -/
def State.atBarrier (s : State) (p : Nat) : State :=
  s.modPart p (fun q => { q with policy := s.pval p 0x10 2, interval := s.pval p 0x10 5 })

/-- The scope key of fence kind k for a command of queue kind qk and queue n (R102). -/
def fenceScope (k qk n : Nat) : Nat := scopeKey k (if k = 1 then qKey qk n else if k = 2 then n else 0)

/-- Number of the queue a command goes to: gather targets count within the partition (R69, R82). -/
def Cmd.queueNo (c : Cmd) (p : Nat) : Nat := if c.kind = 6 then 16 * p + c.target else c.target

/-- Whether a wait on epoch e of a scope is satisfied (R99, R103). -/
def Fences.open (f : Fences) (key e : Nat) : Bool := e == 0 || serialGe (f.closedAt key) e

/-- Command c of partition p is a reduction that waits on scope key, and the closure that takes the fences from f to g lets
it go: that closure is its barrier (R289). -/
def Cmd.meetsBarrier (c : Cmd) (p key : Nat) (f g : Fences) : Bool :=
  c.kind == 4 && (c.opcode == 1 || c.opcode == 3) && c.waitKind != 0 && fenceScope c.waitKind c.kind (c.queueNo p) == key &&
    !f.open key c.waitEpoch && g.open key c.waitEpoch

/-- s, whose fences of partition p were f before scope key closed: where that closure is a reduction barrier, the straggler
policy written to Caddy takes effect (R42, R65). -/
def State.atReduction (s : State) (p key : Nat) (f : Fences) : State :=
  if (s.part p).lists.any (fun x => x.cmds.any (fun m =>
      (m.st == .held || m.st == .queued) && m.cmd.meetsBarrier p key f (s.part p).fences)) then
    s.modPart p (fun q => { q with straggler := s.pval p 0x10 3 })
  else s

/-- s with scope key of partition p closed as far as R99 and R102 let it. A group epoch closes only in its TFB slot
(R105). -/
def State.advance (s : State) (p key : Nat) : State :=
  let kind := key / 16777216
  if kind = 5 then s else
  match (s.part p).fences.target key (if kind = 4 then some (s.partClusters p) else none) with
  | none => s
  | some e =>
    let f := (s.part p).fences
    let s := (s.modFences p (fun f => f.close key e s.now s.time.ticks)).atReduction p key f
    if kind = 3 then s.atBarrier p else s

/-- Whether the wait fence of a command of partition p is satisfied. -/
def State.ready (s : State) (p : Nat) (c : Cmd) : Bool :=
  c.waitKind == 0 || (s.part p).fences.open (fenceScope c.waitKind c.kind (c.queueNo p)) c.waitEpoch

/-- Whether a wait of list l on group epoch e is broken (R105): 0x3103 ends every wait until a restart, 0x3104 those of
the lists accepted before the bus was lost. -/
def Fences.breaks (f : Fences) (l e : Nat) : Bool :=
  f.broken != 0 && (f.broken == 0x3103 || l < f.brokenTo) && !(e == 0 || serialGe f.brokenAt e)

/-- Whether the wait of a command of list l meets a broken group epoch (R105). -/
def State.waitBroken (s : State) (p l : Nat) (c : Cmd) : Bool :=
  c.waitKind == 5 && (s.part p).fences.breaks l c.waitEpoch

/-- s with command i of list l of partition p counted as a completed contributor to epoch e of a scope, to every epoch it
contributes to when e is none (R99, R106, R259). -/
def State.contribute (s : State) (p key : Nat) (e : Option Nat) (l i : Nat) : State :=
  let s := s.modFences p (fun f =>
    { f with
      contribs := f.contribs.map (fun x =>
        if x.scope = key ∧ (e = none ∨ e = some x.epoch) ∧ x.list = l ∧ x.index = i then
          { x with done := true, tick := s.time.ticks }
        else x) })
  s.advance p key

/-- s with the signal of a completed command given (R82, R99). -/
def State.signal (s : State) (r : QRef) (c : Cmd) : State :=
  if c.sigKind = 0 then s
  else s.contribute r.part (fenceScope c.sigKind c.kind (c.queueNo r.part)) none r.list r.index

/-- The worse of two statuses of one command: a failure over a notice over none, the earlier of equals (R79, R134). -/
def mergeStatus (old new : Nat) : Nat :=
  if failed old then old else if failed new then new else if old ≠ 0 then old else new

/-- s with command r of queue n of kind k having issued all its writes (R69). -/
def State.issue (s : State) (k n : Nat) (r : QRef) (status : Nat) : State :=
  (s.modCmd r (fun c => { c with st := .issued, status := mergeStatus c.status status })).modQueue k n
    (fun q => { q with
      running := q.running.filter (· != r), preempted := q.preempted.filter (· != r), issued := q.issued ++ [r] })

/-- s with list l of partition p taken off its lane when every command has ended; its completion entry is written unless
it was answered before (R78, R79). The end of a recompute range's commands ends the recompute command (R295). -/
def State.finishList (s : State) (p l : Nat) : State :=
  match s.list p l with
  | none => s
  | some x =>
    if x.cmds.all (fun c => c.st == .done) then
      let s := if x.answered then s else s.answerList p x x.verdict.1 x.verdict.2
      let s := match x.parent with
        | some r => s.issue 3 (((s.cmdOf r).map (fun c : CmdRec => c.cmd.target)).getD 0) r x.verdict.1
        | none => s
      s.modPart p (fun q =>
        { q with
          lists := q.lists.filter (fun y => y.id != l)
          laneDone := if x.parent.isSome then q.laneDone else Tab.set q.laneDone x.lane x.subId })
    else s

/-- s with a command ended: status, whether it ran, its signal, and its list's end (R99, R101). Its fences advance before the
list's completion entry is written, which holds the epoch then closed (R79, log 86). -/
def State.endCmd (s : State) (r : QRef) (status : Nat) (ran : Bool) : State :=
  match s.cmdOf r with
  | none => s
  | some c =>
    let s := s.modCmd r (fun c => { c with st := .done, status := status, ran := ran })
    (s.signal r c.cmd).finishList r.part r.list

/-- Lists of partition p under a deadline that has passed with a flagged command open: they are missed (R78, R93). -/
def ListRec.missed (x : ListRec) (now : Nat) : Bool :=
  !x.answered && (x.deadline.map (fun d => decide (d ≤ now))).getD false && x.lateIndex.isSome

/-- s with list x of partition p completed by its missed deadline; its commands go on (R78). -/
def State.missList (s : State) (p : Nat) (x : ListRec) : State := s.answerList p x 0x3101 (x.indexOf (x.lateIndex.getD 0))

/-- s with every deadline that the timebase has passed over missed (R93). -/
def State.missAll (s : State) : State :=
  partNumbers.foldl (fun s p => (s.part p).lists.foldl (fun s x => if x.missed s.now then s.missList p x else s) s) s

/-! ### Command traces (R96, R97) -/

/-- s with the start of command r of a queue in the trace of its engine, when that trace is enabled. -/
def State.traceStart (s : State) (key : Nat) (r : QRef) : State :=
  if !s.log.tracing.contains key then s
  else
    let n := Tab.get s.log.traceSeq 0 key
    { s with log := { s.log with
        traces := { engine := key, seq := n, list := r.list, index := r.index, tStart := s.now } :: s.log.traces
        traceSeq := Tab.set s.log.traceSeq key ((n + 1) % 4294967296) } }

/-- s with the completion of command r of a queue in the trace of its engine (R101). -/
def State.traceEnd (s : State) (key : Nat) (r : QRef) : State :=
  if !s.log.tracing.contains key then s
  else
    { s with log := { s.log with traces := s.log.traces.map (fun t =>
        if t.engine = key ∧ t.list = r.list ∧ t.index = r.index ∧ t.tEnd = none then { t with tEnd := some s.now } else t) } }

/-! ### Stopping a partition -/

/-- Places of the accumulator tiles of a site from slot b on. -/
def accPlaces (site b : Nat) : List Nat :=
  (List.range 272).flatMap (fun c => (List.range (1024 * (64 - b))).map (accPlace site (c / 34) (c % 34) b))

/-- Places that a command of partition p which stops in its descriptor may have written (R48). -/
def State.stoppedPlaces (s : State) (p : Nat) (c : CmdRec) : List Nat :=
  (c.cmd.outputs c.held ++ (if c.cmd.kind = 5 ∧ c.cmd.opcode = 2 then (s.stream c.cmd.target).outputs else [])).flatMap
      (fun e => (List.range e.2).filterMap (fun i => s.place p (e.1 + i))) ++
    (match c.cmd.kind == 1 && !c.held.isEmpty, s.siteOf c.cmd.target with
     | true, some i =>
       let b := (Loop.ofBytes (c.held.headD [])).accBase
       accPlaces i b ++ (if c.cmd.opcode = 2 then accPlaces (1260 + rowBand (c.cmd.target / s.grade)) b else [])
     | _, _ => [])

/-- s with the partial outputs of some commands of partition p undefined: free values (R48, log 92). -/
def State.loseCmds (s : State) (p : Nat) (cs : List CmdRec) : State :=
  let ks := cs.flatMap (s.stoppedPlaces p)
  { s with
    mem := Mem.putAll s.mem (ks.zipIdx.map (fun e => (e.1, Config.freeByte (s.free + e.2))))
    free := s.free + ks.length }

/-- s with the partial outputs of the commands of partition p that run undefined (R48). -/
def State.loseOutputs (s : State) (p : Nat) : State :=
  s.loseCmds p ((s.part p).lists.flatMap (fun x => x.cmds.filter (fun c => c.st == .running)))

/-- s with the tensor commands of partition p that run preempted by an abort (R130): each counts as a preemption, and the pass
in flight drains (R136). -/
def State.preemptAll (s : State) (p : Nat) : State :=
  (s.partClusters p).foldl (fun s n =>
    match (s.queue 1 n).running, s.siteOf n with
    | some r, some i =>
      if r.part = p then
        (s.modSite i (fun x =>
          { x with
            stopped := some (s.time.ticks, p), lastBusy := s.now, spoiled := []
            steep := if s.pval p 0x30 2 = 0 then 8 else x.steep })).count (siteIndex i) 9 1
      else s
    | _, _ => s) s

/-- A queue without the commands of partition p. -/
def Queue.without (q : Queue) (p : Nat) : Queue :=
  { q with
    fifo := q.fifo.filter (fun r => r.part != p)
    running := q.running.filter (fun r => r.part != p)
    issued := q.issued.filter (fun r => r.part != p)
    preempted := q.preempted.filter (fun r => r.part != p) }

/-- The ledger's size, and its base (R291). -/
def State.ledgerSize (s : State) (p : Nat) : Nat := s.valNat (0xB100 + 16 * p) 2
def State.ledgerBase (s : State) (p : Nat) : Nat := s.valNat (0xB100 + 16 * p) 1

/-- s with the reduction record of a run that completes with a status, unless it is an all-gather's (R293). -/
def State.recordRun (s : State) (run : CollRun) (status : Nat) : State :=
  let p := run.ref.part
  match s.cmdOf run.ref with
  | none => s
  | some c =>
    if c.cmd.opcode = 2 ∨ s.ledgerSize p = 0 then s
    else
      let d := Coll.ofBytes (c.held.getD 0 [])
      let base := s.ledgerBase p
      let h := s.rdNat p (base + 4) 4 % 4096
      let body := le 2 d.group ++ le 1 c.cmd.opcode ++ le 1 run.policy ++ le 4 d.tensor ++ le 4 run.occurrence ++ le 2 status ++
        le 1 d.rank ++ le 1 d.members ++ le 8 run.contributed ++ le 8 run.deferredIn ++ le 8 run.tBarrier ++
        le 8 run.tDeadline ++ le 8 s.now ++ le 4 d.blocks ++ zeros 4
      (s.wr p (base + 69632 + 64 * h) body).wr p (base + 4) (le 4 ((h + 1) % 4096))

/-- s with every accepted list of partition p that has no completion entry answered with a status, failing_index being
the lowest command not completed, and all of them gone from lanes and queues; collectives that ran leave their records (R48, R293,
R299, R310, R341). -/
def State.stopLists (s : State) (p status : Nat) : State :=
  let s := (s.colls.filter (fun e => e.2.ref.part == p)).foldl (fun s e => s.recordRun e.2 (mergeStatus e.2.status status)) s
  let s := (s.part p).lists.foldl (fun s x => if x.answered then s else s.answerList p x status x.firstOpen) s
  let s := s.modPart p (fun q => { q with lists := [], fences := { q.fences with contribs := [] } })
  { s with
    queues := s.queues.map (fun e => (e.1, e.2.without p))
    colls := s.colls.filter (fun e => e.2.ref.part != p)
    credits := s.credits.filter (fun e => !s.colls.any (fun c => c.1 == e.1 && c.2.ref.part == p))
    fetches := s.fetches.filter (fun e => e.2.ref.part != p)
    sites := s.sites.map (fun e => (e.1, { e.2 with resume := e.2.resume.filter (fun r => r.ref.part != p) })) }

/-- Port and connection of a stream, from its descriptor (R250). -/
def Stream.port (x : Stream) : Nat := field x.desc 6 1
def Stream.conn (x : Stream) : Nat := field x.desc 8 2

/-- s with stream n closed: END_NOTICE with a status goes to the sender of a port source, and the stream is unbound, its
credits, slots and reservations free (R273). -/
def State.closeStream (s : State) (n status : Nat) : State :=
  let x := s.stream n
  if x.state = 0 then s
  else
    let s := if field x.desc 5 1 = 0 then s.out (.ingest x.port x.conn 0x85 [x.seqOut, status] []) else s
    (s.modStream n (fun _ => {})).syncHeader x.part

/-- s with every stream of partition p closed with a status. -/
def State.closeStreams (s : State) (p status : Nat) : State :=
  (s.boundStreams p).foldl (fun s n => s.closeStream n status) s

/-- Counter indices of partition p (R390, R329). -/
def partCounters (p : Nat) : Nat := 0x6900 + p

/-- Counters of a partition, in the order of R301 and R329. -/
def ctrDeferred : Nat := 1
def ctrDropped : Nat := 2
def ctrAgedOut : Nat := 3
def ctrLedgerHigh : Nat := 4
def ctrSchedTicks : Nat := 5
def ctrSachetPoints : Nat := 6
def ctrSachetsWritten : Nat := 7
def ctrLandedTier (t : Nat) : Nat := 7 + t
def ctrAbandoned : Nat := 11
def ctrRollbacks : Nat := 12
def ctrFills : Nat := 13
def ctrFillFailures : Nat := 14
def ctrReclaims : Nat := 15
def ctrFenceAborts : Nat := 16
def ctrDeadlineMisses : Nat := 17
def ctrPhase (k : Nat) : Nat := 18 + k
def ctrCaptureHold : Nat := 22

/-- s with a sachet of partition p that is being captured or landing abandoned (R48). -/
def State.abandonSachet (s : State) (p : Nat) : State :=
  match (s.part p).rcv.capture with
  | none => s
  | some _ =>
    ({ s with xfers := s.xfers.filter (fun x => x.source != p) }.modRcv p (fun r => { r with capture := none, dirty := true })).count
      (partCounters p) ctrAbandoned 1

/-- s with partition p leaving its barrier group: both parity lines are asserted for one presentation (R105). -/
def State.leaveGroup (s : State) (p : Nat) : State :=
  if (s.part p).member then
    { s with tfb := { s.tfb with leaving := s.tfb.leaving ++ [s.pval p 0x50 1] } }.modPart p (fun q => { q with member := false })
  else s

/-- s with the work of partition p stopped as Abort stops it (R48): lists answered, streams closed by abort close, the
sachet in progress abandoned, a rollback given up, retained stationary blocks discarded (R118), the outputs of the descriptors
in hand undefined. -/
def State.stopWork (s : State) (p status : Nat) : State :=
  let s := (s.loseOutputs p).preemptAll p
  let s := (s.partSites p).foldl (fun s i =>
    if (s.site i).retained.isNone && (s.site i).sinceFence.isEmpty then s
    else s.modSite i (fun x =>
      { x with retained := none, record := { mode := x.mode }, sinceFence := [], nonRepeat := false })) s
  let s := s.modRings p (fun r => { r with consuming := false })
  let s := s.modRcv p (fun r => { r with rollback := none, startRestore := none, force := false })
  ((s.stopLists p status).closeStreams p status).abandonSachet p

/-- The submission entries not yet consumed: their number (R49). -/
def Rings.backlog (r : Rings) : Nat := (r.sqTail + r.entries - r.sqHead) % r.entries

/-- s with the unconsumed submission entries of partition p discarded under one range entry of status 0x1106; the ring
pointers are left equal (R49, R79). -/
def State.discardRing (s : State) (p : Nat) : State :=
  let r := (s.part p).rings
  if r.backlog = 0 then s
  else
    let first := s.rd p (r.sqAddr r.sqHead) 64
    let any := (List.range r.backlog).any (fun k => bit (s.rdNat p (r.sqAddr ((r.sqHead + k) % r.entries) + 0x0C) 4) 0)
    let s := s.modRings p (fun r => { r with sqHead := r.sqTail })
    s.putCompletion p
      { subId := field first 0x10 8, status := 0x1106, flags := 1, tStart := s.now, tEnd := s.now, range := r.backlog
        userTag := field first 0x28 8, epoch := s.partEpoch p } any

/-- s with the lease of partition p watched no more (R89). Its lease_state becomes not armed, but that of a partition whose
reclaim begins stays as it is (log 87). -/
def State.disarm (s : State) (p : Nat) : State :=
  s.modLease p (fun l => { l with armed := false, state := if (s.part p).rcv.reclaim.isSome then l.state else 0 })

/-- s with partition p Idle: streams are unbound, unconsumed entries discarded, held completions published, the lease
disarmed, the barrier group left (R44, R47, R49, R87, R89, R105). -/
def State.enterIdle (s : State) (p : Nat) : State :=
  let s := s.modPart p (fun q => { q with runTo := .none, after := none })
  let s := s.modRings p (fun r => { r with consuming := false })
  let s := (s.discardRing p).publish p
  (((s.disarm p).syncHeader p).leaveGroup p).setPState p .idle

end Sys2Proof.Machine
end

