-- ==== Sys2Proof/Machine/Flags.lean ====
section
/-!
DEFINITION. Status codes and their severity (R16, R332), the error queue (R333 to R345, R487), and Safe-stop (R341).
-/

namespace Sys2Proof.Machine

/-- Severity-1 codes of the master table (R332). -/
def sev1Codes : List Nat :=
  [0x120E, 0x2201, 0x2203, 0x2301, 0x3103, 0x3104, 0x3107, 0x4105, 0x5102, 0x5103, 0x5105, 0x5106, 0x5107, 0x6103]

/-- Severity-2 codes of the master table (R332). -/
def sev2Codes : List Nat :=
  [0x6101, 0x6102, 0x6105, 0x6201, 0x6301, 0x6302, 0x6303, 0x6501, 0x6502, 0x6601, 0x6603]

/-- Severity-3 codes of the master table (R332). -/
def sev3Codes : List Nat :=
  [0x6104, 0x6202, 0x6401, 0x6403, 0x6404, 0x7101, 0x7103, 0x7201, 0x7301, 0x7302, 0x7303]

/-- Severity-4 codes of the master table (R332). -/
def sev4Codes : List Nat := [0x6602, 0x7102, 0x7401, 0x7402]

/-- Severity of a code (R332); every other code of the table is severity 0. -/
def severity (status : Nat) : Nat :=
  if sev4Codes.contains status then 4 else if sev3Codes.contains status then 3
  else if sev2Codes.contains status then 2 else if sev1Codes.contains status then 1 else 0

/-- What a queuing rule gives of an entry (R334, R487). -/
structure ErrSpec where
  status : Nat
  part : Nat := 0xFF
  unitKind : Nat := 0
  unit : Nat := 0
  flags : Nat := 0
  cause : Nat := 0
  ref : Nat := 0
  addr : Nat := 0
  detail : List Byte := []
  /-- The logical number of the unit's site before the reassignment that the event causes, where the site no longer has it
  when the entry is queued (R5, R487). -/
  before : Option Nat := none
deriving DecidableEq, Repr

/-- s with a RECLAIM message or a fault broadcast stamped with the start of the bus cycle that carries it, in ns (R96, R453). -/
def State.stampTfb (s : State) (code : Nat) (fields : List Nat) : State :=
  if code = 2 ∨ code = 3 then { s with tfb := { s.tfb with stamps := (code :: fields, s.now / 4 * 4) :: s.tfb.stamps } } else s

/-- s with a TFB message sent (R453). -/
def State.tfbSend (s : State) (code : Nat) (fields : List Nat) : State := (s.stampTfb code fields).out (.tfb code fields)

/-- Entries that a partition may hold (R335). -/
def State.quota (s : State) : Nat := if s.assigned = 0 then 224 else 224 / s.assigned

/-- Entries in the 224 shared ones (R335). -/
def ErrQ.sharedUsed (q : ErrQ) : Nat := (q.entries.filter (fun e => e.pool == 0 || e.pool == 3)).length

/-- Entries in the 28 general reserve ones (R335). -/
def ErrQ.reserveUsed (q : ErrQ) : Nat := (q.entries.filter (fun e => e.pool == 1)).length

/-- Entries of partition p that count against its quota (R335). -/
def ErrQ.quotaUsed (q : ErrQ) (p : Nat) : Nat := (q.entries.filter (fun e => e.pool == 0 && e.part == p)).length

/-- A unit of kind 0x01 or 0x02: row × 256 + physical column (R334). -/
def siteUnit (site : Nat) : Nat := site / 42 * 256 + site % 42

/-- The detail field of an entry: for cluster sites and cores, the logical cluster number stands at +64 (R487). -/
def State.errDetail (s : State) (e : ErrSpec) : List Byte :=
  if e.unitKind = 1 ∨ e.unitKind = 2 then
    padTo 64 e.detail ++ le 2 ((e.before.or (s.logicalOf (e.unit / 256 * 42 + e.unit % 256))).getD 0xFFFF) ++ zeros 2
  else padTo 68 e.detail

/-- s with an entry put into the error queue in a pool of R335, and MSI-X vector 2 signalled (R333, R336). -/
def State.enqueue (s : State) (e : ErrSpec) (pool : Nat) : State :=
  let q := s.errq
  let s' := { s with errq := { q with
    nextSeq := (q.nextSeq + 1) % 4294967296
    entries := q.entries ++ [{
      seq := q.nextSeq, status := e.status, sev := severity e.status, tDetect := s.now, part := e.part
      unitKind := e.unitKind, unit := e.unit, flags := e.flags, cause := e.cause, ref := e.ref, addr := e.addr
      detail := s.errDetail e, pool := pool }] } }
  if e.part < 4 then s'.out (.msix (e.part + 1) 2) else s'

/-- s with partition p in Safe-stop: its work is stopped with a status, streams closed with it, held completions
published, the lease disarmed, the group left (R341). A rollback ends subsumed (R338); spare fills go on. -/
def State.enterSafeStop (s : State) (p status : Nat) : State :=
  let s := s.stopWork p status
  let s := s.modPart p (fun q => { q with runTo := .none, after := none })
  let s := s.modRcv p (fun r => { r with rollback := none, reclaim := none, startRestore := none, force := false })
  ((((s.publish p).disarm p).syncHeader p).leaveGroup p).setPState p .safeStop

/-- s with the 0x7101 entry of partition p queued in its own reserve entry, unless it holds one (R340). -/
def State.queueOverflow (s : State) (p : Nat) : State :=
  if s.errq.entries.any (fun e => e.pool == 2 && e.part == p) then s
  else s.enqueue { status := 0x7101, part := p, flags := 2 } 2

/-- s with partition p in Safe-stop for an overflow (R340): a partition that is stopped already stays. -/
def State.overflowStop (s : State) (p : Nat) : State :=
  (if (s.part p).state = .safeStop then s else s.enterSafeStop p 0x7101).queueOverflow p

/-- Codes that record what a recovery did, and are no further error of its unit (R339, log 62). -/
def recordCodes : List Nat := [0x6102, 0x6303, 0x6401, 0x6403, 0x6404, 0x6502, 0x7201]

/-- Is there an open recovery window on an entry's unit (R339): an entry of severity 2 or 3 that names it and is not
handled. Cores of one site differ by core row and column, planes of one link by their number. -/
def ErrQ.window (q : ErrQ) (x : ErrSpec) : Option ErrEntry :=
  q.entries.find? (fun e => e.unitKind == x.unitKind && e.unit == x.unit && (e.sev == 2 || e.sev == 3 || e.status == 0x6602) && e.state < 3 &&
    e.status != 0x6502 && (x.unitKind != 2 || slice e.detail 0 2 == slice x.detail 0 2) &&
    (x.unitKind != 5 || slice e.detail 0 1 == slice x.detail 0 1))

/-- s with one lost entry counted for partition p (R340). -/
def State.lose (s : State) (p : Nat) : State := { s with errq := { s.errq with lost := Tab.mod s.errq.lost 0 p (· + 1) } }

/-- s with an entry admitted to the error queue by the shares of R335 and the overflow rules of R340. -/
def State.enrol (s : State) (e : ErrSpec) : State :=
  if e.part ≥ 4 ∨ severity e.status = 4 then
    if s.errq.reserveUsed < 28 then s.enqueue e 1
    else if s.errq.sharedUsed < 224 then s.enqueue e 3
    else
      let s := { s with errq := { s.errq with reserveLost := s.errq.reserveLost + 1 } }
      let s := (partNumbers.filter (fun p => !(s.part p).state.quiet)).foldl (fun s p => s.overflowStop p) s
      s.tfbSend 3 [s.address, 0x7101, 0, s.address]
  else if s.errq.quotaUsed e.part < s.quota ∧ s.errq.sharedUsed < 224 then s.enqueue e 0
  else if severity e.status = 0 then s.lose e.part
  else (s.lose e.part).overflowStop e.part

/-- s with an error queued (R333). A second class 0x6 or 0x7 error that names a unit within its recovery window also
queues 0x6502 UNIT_OFFLINE (R339). A module-fatal code is broadcast on the TFB and asserts FAULT_OUT_N (R330, R458). -/
def State.raise (s : State) (e : ErrSpec) : State :=
  let w := s.errq.window e
  let cls := e.status / 4096
  let s := s.enrol e
  let s := if severity e.status = 4 ∧ cls = 7 then
      { s with boot := { s.boot with faultOut := true } }.tfbSend 3 [s.address, e.status, 1, s.address]
    else s
  match w with
  | some f =>
    if e.unitKind ≠ 0 ∧ (cls = 6 ∨ cls = 7) ∧ !recordCodes.contains e.status then
      s.enrol { status := 0x6502, part := e.part, unitKind := e.unitKind, unit := e.unit, flags := 4, cause := f.seq
                detail := if e.unitKind = 2 ∨ e.unitKind = 5 then e.detail.take 2 else [] }
    else s
  | none => s

/-- s with a code of severity 0 logged for a partition: it is queued, and reaches the log when it is handled (R336). -/
def State.note (s : State) (p status : Nat) : State := s.raise { status := status, part := p }

/-- The 128 bytes of an entry (R334). -/
def ErrEntry.bytes (e : ErrEntry) : List Byte :=
  withCrc (le 4 e.seq ++ le 2 e.status ++ le 1 e.sev ++ le 1 e.state ++ le 8 e.tDetect ++ le 8 e.tHandled ++ le 1 e.part ++
    le 1 e.unitKind ++ le 2 e.unit ++ le 1 e.flags ++ zeros 3 ++ le 4 e.cause ++ zeros 4 ++ le 8 e.ref ++ le 8 e.addr ++
    padTo 68 e.detail)

/-- s with the error queue's entries changed by f. -/
def State.modErr (s : State) (f : List ErrEntry → List ErrEntry) : State :=
  { s with errq := { s.errq with entries := f s.errq.entries } }

/-- s with held entries up to sequence n freed that sel picks (R337, R345). -/
def State.ackErrors (s : State) (n : Nat) (sel : ErrEntry → Bool) : State :=
  s.modErr (fun es => es.filter (fun e => !(e.state == 4 && serialGe n e.seq && sel e)))

/-- Entries of partition p that are held (R341). -/
def State.heldErrors (s : State) (p : Nat) : Nat :=
  (s.errq.entries.filter (fun e => e.part == p && e.state == 4)).length

end Sys2Proof.Machine
end

