-- ==== Sys2Proof/Machine/Checks.lean ====
section
/-!
DEFINITION. The list-acceptance checks 1 to 6 of R84 with the structure checks that follow check 3 (R145, R176, R178, R196,
R204, R213, R258, R277, R303), and the fence checks of R103.
-/

namespace Sys2Proof.Machine

/-- What the checks of one command find: CRCs, reserved fields, the status of check 3, of the structure check and of check
4, then check 5 and check 6. -/
structure Found where
  crc : Bool := true
  res : Bool := true
  op : Nat := 0
  shape : Nat := 0
  target : Nat := 0
  addr : Bool := true
  mode : Bool := true
  /-- A decode command's extents (R258). -/
  extents : Bool := true
deriving DecidableEq, Repr

/-- The first failing status in the order of R84. -/
def Found.status (f : Found) : Nat :=
  firstFail [(f.crc, 0x2101), (f.res, 0x1201), (f.op == 0, f.op), (f.shape == 0, f.shape), (f.target == 0, f.target),
    (f.addr, 0x5102), (f.extents, 0x120C), (f.mode, 0x1102)]

/-- The bytes of a structure a command names, none when no region of the partition holds it: check 5 then decides
(log 21). -/
def State.desc (s : State) (p a n : Nat) : Option (List Byte) := if s.inside p a n then some (s.rd p a n) else none

/-- A check of a structure that could be read. -/
def onDesc (d : Option (List Byte)) (f : List Byte → Bool) : Bool :=
  match d with
  | some b => f b
  | none => true

/-- The shared cache of cluster n holds the range (R217). -/
def State.ownCache (s : State) (p n a len : Nat) : Bool :=
  s.inCache p a len && (a - planeBase) / planeStep == n

/-- The shared cache or the accumulator window of cluster n holds the range (R183). -/
def State.ownPlane (s : State) (p n a len : Nat) : Bool :=
  planeBase ≤ a && s.inside p a len && (a - planeBase) / planeStep == n && (a - planeBase) % planeStep < bufOff

/-- Slice or the target's shared cache: where loop descriptors, buffer sets and spatial descriptors lie (R143, R151). -/
def State.descPlace (s : State) (p n a len : Nat) : Bool := s.inSlice p a len || s.ownCache p n a len

/-- Logical cluster n exists, has a site, and belongs to partition p (R6, R84, R316). -/
def State.ownsCluster (s : State) (p n : Nat) : Bool := (s.siteOf n).isSome && s.partOfCluster n == some p

/-- Bit i of a mask entry of octets. -/
def maskBit (bs : List Byte) (i : Nat) : Bool := bit (field bs (i / 8) 1) (i % 8)

/-- Collective queue q is in the partition's reduction channel mask (R71). -/
def State.ownsChannel (s : State) (p q : Nat) : Bool := decide (q < 192) && maskBit (s.val (0x3040 + 256 * p) 1) q

/-- Stream n is in the partition's media queue mask (R248). -/
def State.ownsStream (s : State) (p n : Nat) : Bool := decide (n < 128) && maskBit (s.val (0x3070 + 256 * p) 1) n

/-- The vault holds handle h with type ty for partition p (R408). -/
def State.hasKey (s : State) (p ty h : Nat) : Bool := s.sec.keys.any (fun k => k.handle == h && k.ty == ty && k.part == p)

/-- The straggler policy in force for a descriptor's policy field (R285, R288). -/
def State.policyOf (s : State) (p f : Nat) : Nat := if f = 3 then (s.part p).straggler else f

/-! ### Tensor commands -/

/-- Formats allowed for a single tensor Y or I (R123, R152). The mixed codes 0x06 and 0x07 name two formats; the spec gives no
status for them there, and the model refuses them with the others at the structure check, 0x1209 (log 96). -/
def oneFormat (f : Nat) : Bool := (1 ≤ f && f ≤ 5) || (8 ≤ f && f ≤ 13)

/-- Levels of a dimension. -/
def Loop.dims (l : Loop) (d : Nat) : List Level := l.levels.filter (fun v => v.dim == d)

/-- Is any level of the dimension dynamic. -/
def anyDynamic (ls : List Level) : Bool := ls.any Level.dynamic

/-- The conditions of R145 on the levels. For a non-zero level numbered level_count or above, and for a dim or placement code that
is not listed, neither R143 nor R145 names a status: the model answers 0x1209 with the rest (log 96). -/
def levelsOk (raw : List Byte) (l : Loop) (tile arrays : Nat) : Bool :=
  let n := field raw 3 1
  n ≤ 6 && zeroAt raw (0x40 + 20 * n) (120 - 20 * n) &&
  (List.range n).all (fun k => l.levels.any (fun v => v.nest == k)) &&
  l.levels.all (fun v =>
    v.dim ≤ 3 && v.place ≤ 2 &&
    (if v.dynamic then v.bound == 0 && l.shape != 0 else 1 ≤ v.bound && v.bound ≤ 65536) &&
    (v.dim != 0 || v.sw == 0) && (v.dim != 1 || v.sa == 0) && (v.dim != 2 || (v.sy == 0 && v.place != 1)) &&
    (v.place != 1 || l.mode != 0) && (v.place != 2 || !v.dynamic) && ((!v.ptrA && !v.ptrY) || v.dim == 3) &&
    v.sw % (tile : Int) == 0) &&
  (l.levels.filter (fun v => v.place == 2)).length ≤ 1 &&
  (l.levels.filter Level.ptrA).length ≤ 1 && (l.levels.filter Level.ptrY).length ≤ 1 &&
  prod ((l.levels.filter (fun v => v.place == 1 && !v.dynamic)).map (·.bound)) ≤ arrays

/-- The pass shape fits the mode and the format (R119, R145); pass_k of a pooling command is a matter of R204. -/
def passOk (code : Nat) (l : Loop) (pooling : Bool) : Bool :=
  let lim := passLimit l.mode
  1 ≤ l.passM && l.passM ≤ rowsPerPass code && 1 ≤ l.passN && l.passN ≤ lim.1 &&
  (pooling || (1 ≤ l.passK && l.passK ≤ lim.2 && (!isMx code || l.passK % (if l.mode = 1 then 16 else 32) == 0)))

/-- Base and pointer list of an operand in use: with a flagged level the base is 0 and a list is named, without one there
is no list (R145). -/
def listOk (flagged : Bool) (e : BufEnt) : Bool :=
  if flagged then e.base == 0 && e.list != 0 else e.list == 0 && e.count == 0

/-- The control word (R176). -/
def wordOk (b : Bufs) (l : Loop) (flagY : Bool) : Bool :=
  b.storeOp != 3 && b.xOp != 3 && bits b.word 7 6 == 0 && bits b.word 31 16 == 0 && b.exponent != 255 &&
  (if b.storeOp = 0 then b.y.none else b.y.loc == 1 || b.y.loc == 2) &&
  (b.storeOp != 2 || b.y.fmt == 1 || b.y.fmt == 2) &&
  (if b.xOp = 0 then b.x.none else (b.x.loc == 1 || b.x.loc == 2) && 1 ≤ b.x.fmt && b.x.fmt ≤ 5) &&
  (!b.pairs || (b.storeOp != 0 && (b.y.fmt == 1 || b.y.fmt == 2) && b.y.base % 4096 == 0 && b.y.cap % 4096 == 0 && !flagY)) &&
  (!isMx b.y.fmt || (b.storeOp == 1 && l.passN % 32 == 0))

/-- Which operand roles a tensor command uses. -/
structure Roles where
  a : Bool
  w : Bool
  i : Bool
  /-- Runs on a First-Layer Engine (R213). -/
  fle : Bool := false
  /-- A pooling command, whose W entry R204 holds to zero. -/
  pool : Bool := false
deriving DecidableEq, Repr

/-- The conditions on the buffer set (R145, R151 to R153). -/
def bufsOk (code : Nat) (r : Roles) (l : Loop) (b : Bufs) : Bool :=
  let fa := l.levels.any Level.ptrA
  let fy := l.levels.any Level.ptrY
  (if r.a then
     (if r.fle then b.a.loc == 1 || b.a.loc == 2 else b.a.loc == 2 || b.a.loc == 4) && b.a.fmt == 0 && listOk fa b.a &&
     (isMx code || b.a.scale == 0)
   else b.a.none && !fa) &&
  (if r.w then
     b.w.loc == 3 && b.w.fmt == 0 && listOk false b.w && (isMx code || b.w.scale == 0) && b.w.base % wTile code == 0
   else r.pool || b.w.none) &&
  (if b.storeOp = 0 then b.y.none && !fy
   else oneFormat b.y.fmt && listOk fy b.y && (isMx b.y.fmt || b.y.scale == 0)) &&
  (if r.i then
     (b.i.loc == 1 || b.i.loc == 2) && oneFormat b.i.fmt && listOk fy b.i && (isMx b.i.fmt || b.i.scale == 0)
   else b.i.none) &&
  (b.xOp == 0 || (listOk fy b.x && b.x.scale == 0)) && wordOk b l fy

/-- R145 with R176 and R178: whether a loop descriptor and buffer set are sound. The spec gives level_count, acc_base, init and
mode their ranges and names no status for a value outside: the model answers 0x1209 (log 96). -/
def loopOk (op code : Nat) (fle pooling : Bool) (raw rawB : List Byte) : Bool :=
  let l := Loop.ofBytes raw
  let b := Bufs.ofBytes rawB
  let r : Roles :=
    { a := op != 5, w := op != 5 && !pooling, i := op != 5 && l.init == 1, fle := fle, pool := pooling }
  field raw 0 2 == 0x4C44 && field raw 2 1 == 1 && field rawB 0 2 == 0x4253 && field rawB 2 1 == 1 &&
  l.accBase ≤ 63 && l.init ≤ 2 && l.mode ≤ 2 && passOk code l pooling &&
  levelsOk raw l (wTile code) (if fle then 64 else arraysOf l.mode) && bufsOk code r l b &&
  (op != 5 || ((l.dims 2).isEmpty && l.init == 2 && b.storeOp != 0))

/-- Output size along an axis (R196). -/
def outSize (inp p1 p2 dil k stride : Nat) : Int :=
  ((inp : Int) + p1 + p2 - dil * ((k : Int) - 1) - 1) / stride + 1

/-- Along one axis, every output position has a tap inside the input (R205). -/
def axisHasData (out stride pad k dil inp : Nat) : Bool :=
  (List.range out).all (fun o =>
    (List.range k).any (fun t => pad ≤ o * stride + t * dil && o * stride + t * dil < pad + inp))

/-- Coverage of a dimension to within one pass (R197): static bounds only. -/
def coverOk (ls : List Level) (pass need : Nat) : Bool :=
  anyDynamic ls || (let p := prod (ls.map (·.bound)) * pass; need ≤ p && p < need + pass)

/-- R196, R204 and R213: whether a spatial descriptor is sound with its loop descriptor and buffer set. -/
def spatialOk (code : Nat) (raw : List Byte) (l : Loop) (b : Bufs) : Bool :=
  let x := Spatial.ofBytes raw
  let pool := x.kind != 0
  let cg := x.inC / max x.groups 1
  field raw 0 2 == 0x5344 && field raw 2 1 == 1 && x.kind ≤ 3 && x.engine ≤ 1 && x.padMode ≤ 1 &&
  1 ≤ x.sH && x.sH ≤ 16 && 1 ≤ x.sW && x.sW ≤ 16 && 1 ≤ x.dH && 1 ≤ x.dW && 1 ≤ x.groups &&
  1 ≤ x.kH && 1 ≤ x.kW && (pool || (x.kH ≤ 32 && x.kW ≤ 32)) &&
  x.padT ≤ 4095 && x.padB ≤ 4095 && x.padL ≤ 4095 && x.padR ≤ 4095 &&
  1 ≤ x.outH && 1 ≤ x.outW && outSize x.inH x.padT x.padB x.dH x.kH x.sH == x.outH &&
  outSize x.inW x.padL x.padR x.dW x.kW x.sW == x.outW &&
  x.inC % x.groups == 0 && x.outC % x.groups == 0 && (!pool || (x.groups == 1 && x.outC == x.inC)) &&
  (if x.groupLevel = 255 then x.groups == 1
   else match l.levels[x.groupLevel]? with
     | some v => v.dim == 3 && !v.dynamic && v.bound == x.groups
     | none => false) &&
  x.inW * x.inC * elemBits code ≤ 8 * x.pitch &&
  (x.padMode == 0 || (!isMx code && x.kind != 1)) &&
  l.levels.all (fun v => (v.dim != 0 && v.dim != 2) || (v.sa == 0 && !v.ptrA)) &&
  coverOk (l.dims 0) l.passM (x.outH * x.outW) && coverOk (l.dims 1) l.passN (x.outC / x.groups) &&
  (pool || coverOk (l.dims 2) l.passK (x.kH * x.kW * cg)) &&
  (!pool || ((l.dims 2).isEmpty && l.passK == 1 && b.w.none)) &&
  ((x.kind != 1 && x.kind != 3) ||
    (axisHasData x.outH x.sH x.padT x.kH x.dH x.inH && axisHasData x.outW x.sW x.padL x.kW x.dW x.inW)) &&
  (x.engine == 0 || (!pool && l.mode == 1 && 1 ≤ code && code ≤ 7 && !isMx b.y.fmt))

/-- A buffer's range lies where its location says (R153, R218): 1 the slice, 2 and 4 a shared cache. -/
def State.bufPlaced (s : State) (p : Nat) (e : BufEnt) (extra : Nat) : Bool :=
  if e.loc = 0 then true
  else if e.list ≠ 0 then s.inside p e.list (8 * (e.count + 1))
  else if e.loc = 1 then s.inSlice p e.base (e.cap + extra)
  else s.inCache p e.base (e.cap + extra)

/-- Bytes of an operand buffer, or of one array's share of the FLE weight store (R212, log 22). -/
def wRoom (fle : Bool) : Nat := if fle then 8192 else 131072

/-- The First-Layer Engine of a target's row band belongs to the partition (R213). -/
def State.ownsFle (s : State) (p n : Nat) : Bool :=
  s.ownsCluster p n && s.fleOwner (rowBand (n / s.grade)) == some p

/-- An address in a shared cache lies in a cluster of the row band of cluster n (R213). -/
def State.inBand (s : State) (n a : Nat) : Bool := rowBand ((a - planeBase) / planeStep / s.grade) == rowBand (n / s.grade)

/-- For an FLE, A in a shared cache lies in a cluster of the band (R213); the entries of a pointer list are checked when they are
read (R155). -/
def State.bandCache (s : State) (n : Nat) (e : BufEnt) : Bool := e.loc != 2 || e.list != 0 || s.inBand n e.base

/-- Accumulator windows of the partition's clusters hold the range (R168, R172). -/
def State.inAccWindow (s : State) (p a len : Nat) : Bool :=
  planeBase ≤ a && s.inside p a len && accOff ≤ (a - planeBase) % planeStep && (a - planeBase) % planeStep < bufOff

/-- GEMM, spatial operator and epilogue only (R141 to R145, R178, R194). -/
def State.findLoop (s : State) (p : Nat) (c : Cmd) : Found :=
  let dl := s.desc p c.arg0 192
  let db := s.desc p c.arg2 192
  let ds := if c.opcode = 2 then s.desc p c.arg1 64 else none
  let l := Loop.ofBytes (dl.getD [])
  let b := Bufs.ofBytes (db.getD [])
  let x := Spatial.ofBytes (ds.getD [])
  let fle := c.opcode == 2 && ds.isSome && x.engine == 1
  let pool := c.opcode == 2 && ds.isSome && x.kind != 0
  let keep := if c.opcode = 5 then 2 else 4
  { crc := onDesc dl (crcOk · 0xBC) && onDesc db bufsCrcOk && onDesc ds (crcOk · 0x3C)
    res := c.arg0 % 64 == 0 && c.arg2 % 64 == 0 && c.arg1 % 64 == 0 && (c.opcode == 2 || c.arg1 == 0) &&
      c.arg3 < 65536 && c.arg4 < keep && onDesc dl loopReserved && onDesc db bufsReserved && onDesc ds spatialReserved
    op := if (formatPair c.fmt).isNone || (c.opcode != 5 && isMx c.fmt && bit c.arg4 0) then 0x1202 else 0
    shape :=
      if dl.isSome && db.isSome && (c.opcode != 2 || ds.isSome) then
        (if !loopOk c.opcode c.fmt fle pool (dl.getD []) (db.getD []) then 0x1209
         else if c.opcode == 2 && !spatialOk c.fmt (ds.getD []) l b then 0x120A else 0)
      else 0
    target := if (if fle then s.ownsFle p c.target else s.ownsCluster p c.target) then 0 else 0x1203
    addr := s.descPlace p c.target c.arg0 192 && s.descPlace p c.target c.arg2 192 &&
      (c.opcode != 2 || s.descPlace p c.target c.arg1 64) && s.bufPlaced p b.a 0 && (!fle || s.bandCache c.target b.a) &&
      b.w.base + b.w.cap ≤ wRoom fle && s.bufPlaced p b.y (if b.pairs then b.y.cap / 256 else 0) &&
      s.bufPlaced p b.i 0 && s.bufPlaced p b.x 0
    mode := l.mode == 0 || fle || (s.part p).chive.contains c.target }

/-- The tensor queue's commands (R83, R118, R127). -/
def State.findTensor (s : State) (p : Nat) (c : Cmd) : Found :=
  let own := if s.ownsCluster p c.target then 0 else 0x1203
  if c.opcode = 1 ∨ c.opcode = 2 ∨ c.opcode = 5 then s.findLoop p c
  else if c.opcode = 3 then
    { res := c.arg0 == 0 && c.arg1 == 0 && c.arg2 == 0 && c.arg3 == 0 && c.arg4 < 4
      op := if (formatPair c.fmt).isNone || c.arg4 == 3 then 0x1202 else 0
      target := own, mode := c.arg4 == 0 || (s.part p).chive.contains c.target }
  else if c.opcode = 4 then
    { res := c.arg1 == 0 && c.arg2 == 0 && c.arg3 == 0 && c.arg4 < 2
      op := if (formatPair c.fmt).isNone || (isMx c.fmt && bit c.arg4 0) then 0x1202 else 0
      shape := if c.arg0 % wTile c.fmt = 0 then 0 else 0x1209
      target := own, addr := c.arg0 + wTile c.fmt ≤ 131072 }
  else { op := 0x1202 }

/-! ### Vector and move commands -/

/-- The operation of an element-wise command and its source format (R184). -/
def Cmd.vop (c : Cmd) : Nat := bits c.arg4 7 0
def Cmd.srcFmt (c : Cmd) : Nat := bits c.arg4 11 8

/-- The vector queue's commands (R183 to R185, R286, R287). Counts outside their range are dispatch matters (log 23). -/
def State.findVector (s : State) (p : Nat) (c : Cmd) : Found :=
  let n := c.target
  let own := s.ownsCluster p n
  let fmtOk := 1 ≤ c.fmt && c.fmt ≤ 5
  let at0 := fun (a len : Nat) => s.ownPlane p n a (max len 1)
  if c.opcode = 1 then
    let unary := 6 ≤ c.vop && c.vop ≤ 9
    let cnt := min c.arg3 16777216
    { res := c.arg0 % 64 == 0 && c.arg1 % 64 == 0 && c.arg2 % 64 == 0 && (!unary || c.arg1 == 0) && c.arg4 < 4096
      op := if fmtOk && 1 ≤ c.vop && c.vop ≤ 9 && 1 ≤ c.srcFmt && c.srcFmt ≤ 5 then 0 else 0x1202
      target := if own && at0 c.arg0 (elemBytes c.srcFmt cnt) && (unary || at0 c.arg1 (elemBytes c.srcFmt cnt)) &&
        at0 c.arg2 (elemBytes c.fmt cnt) then 0 else 0x1203 }
  else if c.opcode = 2 then
    let r := c.arg2 % 4294967296
    let k := c.arg2 / 4294967296
    let mx := bit c.arg4 0
    let tiles := bit c.arg4 1
    let outR := if bit c.arg4 2 then k else r
    let outC := if bit c.arg4 2 then r else k
    let e := c.arg4 / 256
    let code := if mx then c.fmt + 4 else c.fmt
    { res := c.arg0 % 64 == 0 && c.arg1 % 64 == 0 && bits c.arg4 7 3 == 0
      op := if 2 ≤ c.fmt && c.fmt ≤ 5 && e ≤ 254 && (!mx || (4 ≤ c.fmt && tiles && outR % 32 == 0)) &&
        (!tiles || (outR % 16 == 0 && outC % 16 == 0)) then 0 else 0x1202
      target := if own && s.ownCache p n c.arg0 (max 1 ((r - 1) * c.arg3 + 4 * k)) &&
        s.ownCache p n c.arg1 (max 1 (if tiles then outR / 16 * (outC / 16) * wTile code else elemBytes c.fmt (r * k)))
        then 0 else 0x1203 }
  else if c.opcode = 3 then
    let len := withPairs (bit c.arg4 0) (min c.arg3 65536)
    { res := c.arg0 % 4096 == 0 && c.arg1 % 4096 == 0 && c.arg2 == 0 && c.arg4 < 2
      op := if c.fmt = 1 ∨ c.fmt = 2 then 0 else 0x1202
      target := if own && at0 c.arg0 len && at0 c.arg1 len then 0 else 0x1203 }
  else if c.opcode = 4 then
    { res := c.arg0 % 4096 == 0 && c.arg1 == 0 && c.arg2 < 4294967296 && c.arg4 < 4
      op := if c.fmt = 1 ∨ c.fmt = 2 then 0 else 0x1202
      target := if own && at0 c.arg0 (withPairs true (min c.arg3 65536)) then 0 else 0x1203 }
  else { op := 0x1202 }

/-- First block and block count of a decrypting copy (R412). -/
def Cmd.firstBlock (c : Cmd) : Nat := c.arg3 / 65536
def Cmd.blockCount (c : Cmd) : Nat := c.arg3 % 65536

/-- The move queue's commands (R157, R294, R412; words of copy and operand feed as log 20, log 24). A size that is no multiple of
its power of two is refused as a reserved field would be, 0x1201, though R14 speaks of address and offset fields (log 97). -/
def State.findMove (s : State) (p : Nat) (c : Cmd) : Found :=
  let n := c.target
  let own := if s.ownsCluster p n then 0 else 0x1203
  let op := if c.fmt = 0 ∧ c.rounding = 0 then 0 else 0x1202
  if c.opcode = 1 then
    if bit c.arg4 0 then
      { res := c.arg2 < 4294967296 && c.arg4 == 1, op := op
        target := if own ≠ 0 then own else if s.hasKey p 2 c.arg2 then 0 else 0x5104
        addr := s.inSlice p c.arg0 64 && s.inside p c.arg1 (max 1 (4096 * c.blockCount)) }
    else
      { res := c.arg2 == 0 && c.arg4 == 0, op := op, target := own
        addr := s.inside p c.arg0 (max 1 c.arg3) && s.inside p c.arg1 (max 1 c.arg3) }
  else if c.opcode = 2 then
    { res := c.arg0 % 64 == 0 && c.arg1 % 64 == 0 && c.arg4 < 16
      op := if op ≠ 0 ∨ (formatPair c.arg4).isNone then 0x1202 else 0
      target := own, addr := s.inside p c.arg0 1 && s.ownCache p n c.arg1 1 }
  else if c.opcode = 3 then
    let len := max 64 (min c.arg3 131072)
    { res := c.arg0 % 64 == 0 && c.arg1 % 64 == 0 && c.arg3 % 64 == 0 && c.arg4 == 0, op := op, target := own
      addr := (s.inSlice p c.arg0 len || s.ownCache p n c.arg0 len || s.inAccWindow p c.arg0 len) && s.inside p c.arg2 32 }
  else if c.opcode = 4 then
    let d := s.desc p c.arg0 64
    { crc := onDesc d (crcOk · 0x3C)
      res := c.arg0 % 64 == 0 && c.arg1 == 0 && c.arg2 == 0 && c.arg3 == 0 && c.arg4 == 0 && onDesc d recomputeReserved
      op := op, target := own, addr := s.inside p c.arg0 64 }
  else { op := 0x1202 }

/-! ### Collective, media and gather commands -/

/-- The conditions of R277 on a collective descriptor, and the adder's staging (R277). -/
def State.collOk (s : State) (p opcode : Nat) (b : List Byte) : Bool :=
  let d := Coll.ofBytes b
  field b 0 2 == 0x434F && field b 2 1 == 1 && 2 ≤ d.members && d.members ≤ 64 && d.rank < d.members && d.port ≤ 11 &&
  d.tag ≤ 191 && d.fmt ≤ 2 && 1 ≤ d.blocks && d.blocks ≤ 16777216 && d.blocks % d.members == 0 &&
  65536 ≤ d.stagingBytes && d.stagingBytes ≤ 4194304 && d.stagingBytes % 4096 == 0 && d.policy ≤ 3 &&
  [0, 3, 4].contains d.contribKind && (d.fmt != 0 || opcode == 2) && (!d.verify || d.pairs) &&
  (opcode != 2 || s.policyOf p d.policy == 2) && s.ownsCluster p d.adder &&
  (!s.inside p d.staging d.stagingBytes || s.ownCache p d.adder d.staging d.stagingBytes)

/-- Source and destination blocks of a collective command (R277). -/
def Coll.srcBlocks (d : Coll) (opcode : Nat) : Nat := if opcode = 2 then d.chunk else d.blocks
def Coll.dstBlocks (d : Coll) (opcode : Nat) : Nat := if opcode = 1 then d.chunk else d.blocks

/-- The wait kind that a sachet point needs (R303). -/
def State.sachetWait (s : State) (p : Nat) : Nat := if (s.part p).member then 5 else 3

/-- The collective queues' commands (R276, R277, R303, R321). last says that the command is the last of its list. -/
def State.findColl (s : State) (p : Nat) (c : Cmd) (last : Bool) : Found :=
  let own := if s.ownsChannel p c.target then 0 else 0x1203
  let op := if c.fmt = 0 ∧ c.rounding = 0 then 0 else 0x1202
  if 1 ≤ c.opcode ∧ c.opcode ≤ 3 then
    let d := s.desc p c.arg0 128
    let x := Coll.ofBytes (d.getD [])
    { crc := onDesc d (crcOk · 0x7C)
      res := c.arg0 % 64 == 0 && c.arg1 == 0 && c.arg2 == 0 && c.arg3 == 0 && c.arg4 == 0 && onDesc d collReserved
      op := op, shape := if onDesc d (s.collOk p c.opcode) then 0 else 0x120D, target := own
      addr := s.inSlice p c.arg0 128 && s.inside p x.src (withPairs x.pairs (x.srcBlocks c.opcode)) &&
        s.inside p x.dst (withPairs x.pairs (x.dstBlocks c.opcode)) && s.inside p x.staging x.stagingBytes
      mode := s.policyOf p x.policy == 2 || (s.part p).mode == 0 }
  else if c.opcode = 4 then
    let f := bits c.arg4 1 0
    let d := if f = 1 then s.desc p c.arg0 64 else none
    let x := FetchDesc.ofBytes (d.getD [])
    { crc := onDesc d (crcOk · 0x3C)
      res := c.arg1 == 0 && c.arg2 == 0 && c.arg3 == 0 && c.arg4 < (if f = 0 then 8 else 4) && c.arg0 % 64 == 0 &&
        (f != 0 || c.arg0 == 0) && onDesc d fetchReserved
      op := if op ≠ 0 ∨ 2 ≤ f then 0x1202 else 0
      shape :=
        if f = 0 then (if last && c.waitKind == s.sachetWait p then 0 else 0x1211)
        else if onDesc d (fun b => field b 0 2 == 0x4645 && field b 2 1 == 1 && x.holder ≤ 15 && x.guest ≤ 15 && x.part ≤ 3)
          then 0 else 0x1211
      target := own, addr := f != 1 || (s.inSlice p c.arg0 64 && s.inSlice p x.dst x.bytes) }
  else { op := 0x1202 }

/-- The conditions of R258 on a block list of a stream with flags fl and source src. -/
def blockListOk (b : List Byte) (fl src : Nat) : Bool :=
  let h := BlockList.ofBytes b
  let es := blockEntries b
  let smp := es.filter (fun e => e.kind == 1)
  field b 0 2 == 0x424C && field b 2 1 == 1 && 1 ≤ h.depth && h.depth ≤ 16 && 1 ≤ h.positions && h.positions ≤ 65536 &&
  es.all (fun e => (e.kind == 1 || (e.kind == 2 && bit fl 2 && src == 0)) && e.boxCount ≤ 1024 &&
    (if e.kind = 1 ∧ src = 0 then e.src == 0 && e.length == 0 else 1 ≤ e.length && e.length ≤ 16777216)) &&
  smp.length == h.positions && (List.range h.positions).all (fun i => smp.any (fun e => e.position == i))

/-- The bytes of the block list at an address, none when they do not lie in the slice or have too many entries (R257). -/
def State.blockListAt (s : State) (p a : Nat) : Option (List Byte) :=
  if s.inSlice p a 64 then
    (let n := s.rdNat p (a + 4) 4
     if n ≤ 65536 && s.inSlice p a (64 + 32 * n) then some (s.rd p a (64 + 32 * n)) else none)
  else none

/-- The media queues' commands (R248, R249, R257, R258). -/
def State.findMedia (s : State) (p : Nat) (c : Cmd) : Found :=
  let x := s.stream c.target
  let op := if c.fmt = 0 ∧ c.rounding = 0 then 0 else 0x1202
  let bound := if c.target < 128 ∧ x.state ≠ 0 ∧ x.part = p then 0 else 0x1203
  if c.opcode = 1 then
    { res := c.arg0 % 64 == 0 && c.arg1 % 64 == 0 && c.arg2 == 0 && c.arg3 == 0 && c.arg4 == 0, op := op
      target := if s.ownsStream p c.target ∧ x.state = 0 then 0 else 0x1203
      addr := s.inSlice p c.arg0 128 && (c.arg1 == 0 || s.inSlice p c.arg1 64) }
  else if c.opcode = 2 then
    let d := s.blockListAt p c.arg0
    let h := BlockList.ofBytes (d.getD [])
    let n := h.depth * h.positions
    let ok := fun (a len : Nat) => s.inSlice p a len || s.inCache p a len
    { crc := onDesc d tableCrcOk
      res := c.arg0 % 64 == 0 && c.arg1 == 0 && c.arg2 == 0 && c.arg4 == 0 && onDesc d blockListReserved
      op := op
      shape := if onDesc d (fun b => 1 ≤ h.count && blockListOk b (field x.desc 7 1) (field x.desc 5 1)) then 0 else 0x120C
      target := bound
      addr := d.isSome && (blockEntries (d.getD [])).all (fun e =>
        if e.kind = 1 then field x.desc 5 1 == 0 || s.inside p e.src e.length else s.inside p e.src (max 1 h.depth * e.length))
      extents := ok h.dest (n * x.slotBytes) && ok h.mani (n * 64) && ok h.mask (n * x.maskBytes) }
  else if c.opcode = 3 then
    { res := c.arg0 == 0 && c.arg1 == 0 && c.arg2 == 0 && c.arg3 == 0 && c.arg4 < 2, op := op, target := bound }
  else { op := 0x1202 }

/-- The gather queues' commands (R232; a descriptor of a wrong shape as log 25). -/
def State.findGather (s : State) (p : Nat) (c : Cmd) : Found :=
  let d := s.desc p c.arg0 64
  let x := Gather.ofBytes (d.getD [])
  let add := c.opcode == 2
  let ok := fun (b : List Byte) => field b 0 2 == 0x4754 && field b 2 1 == 1 && 1 ≤ x.lines && x.lines ≤ 16 &&
    (if add then x.fmt == 1 || x.fmt == 2 else x.fmt == 0 && x.bags == 0 && x.bagCount == 0)
  { crc := onDesc d (crcOk · 0x3C)
    res := c.arg0 % 64 == 0 && c.arg1 == 0 && c.arg2 == 0 && c.arg3 == 0 && c.arg4 == 0 && onDesc d gatherReserved
    op := if (c.opcode = 1 ∨ c.opcode = 2) ∧ c.fmt = 0 ∧ c.rounding = 0 ∧ onDesc d ok then 0 else 0x1202
    target := if c.target < 16 then 0 else 0x1203
    addr := s.inside p c.arg0 64 && s.inSlice p x.base (max 1 (x.rows * 64 * x.lines)) &&
      s.inside p x.list (max 1 (4 * x.count)) && (!add || s.inside p x.bags (max 1 (4 * x.count))) &&
      (s.inSlice p x.dest 1 || s.inCache p x.dest 1) }

/-! ### Fences -/

/-- Whether kind k may be waited on, and signalled, by a queue kind (R102). -/
def mayWait (k qk : Nat) : Bool := k ≤ 5 && (k != 2 || qk ≤ 3)
def maySignal (k qk : Nat) : Bool := k ≤ 5 && ((k != 2 && k != 4) || qk ≤ 3)

/-- Barrier service is there for fence kind 0x05: the bus is not in Free-run and the delay is not too large (R105,
R451). -/
def State.busServes (s : State) : Bool := s.time.state != 0 && s.valNat 0xA100 3 ≤ 5

/-- The fence checks of a command (R103, R105, R259, R288): 0, or the refusing status. Kind 0x05 in a partition that is a member of
no barrier group is answered with 0x1207, for which the spec gives no status: DESIGN CHOICE (log 95). -/
def State.fenceStatus (s : State) (p : Nat) (c : Cmd) : Nat :=
  let f := (s.part p).fences
  let group := (s.part p).member
  let closed := f.closedAt (fenceScope c.sigKind c.kind (c.queueNo p))
  let rounds := c.kind == 5 && c.opcode == 2 && c.arg3 != 1
  let policy := if c.kind = 4 ∧ c.opcode ≤ 3 then s.policyOf p (s.rdNat p (c.arg0 + 0x2E) 1) else 2
  if !mayWait c.waitKind c.kind || !maySignal c.sigKind c.kind then 0x1207
  else if (c.waitKind == 5 || c.sigKind == 5) && !group then 0x1207
  else if (c.waitKind == 5 || c.sigKind == 5) && !s.busServes then 0x4103
  else if c.sigKind != 0 && (c.sigEpoch == 0 || !serialGt c.sigEpoch closed) then 0x1207
  else if c.sigKind == 5 && c.sigEpoch != (closed + 1) % 4294967296 then 0x1207
  else if rounds && !((c.waitKind == 0 || c.waitKind == 3) && (c.sigKind == 0 || c.sigKind == 3)) then 0x1207
  else if policy != 2 && c.waitKind != 5 then 0x1207
  else 0

/-- The start fence of a submission entry (R77, R103); kind 0x05 without a group: log 95. -/
def State.startFenceStatus (s : State) (p kind : Nat) : Nat :=
  if kind = 1 ∨ kind = 2 ∨ 5 < kind then 0x1207
  else if kind = 5 then (if !(s.part p).member then 0x1207 else if s.busServes then 0 else 0x4103)
  else 0

/-! ### A descriptor and a list -/

/-- Checks 2 to 6 that depend on the queue kind. -/
def State.findCmd (s : State) (p : Nat) (c : Cmd) (last : Bool) : Found :=
  if c.kind = 1 then s.findTensor p c
  else if c.kind = 2 then s.findVector p c
  else if c.kind = 3 then s.findMove p c
  else if c.kind = 4 then s.findColl p c last
  else if c.kind = 5 then s.findMedia p c
  else if c.kind = 6 then s.findGather p c
  else { op := 0x1202 }

/-- All acceptance checks of one descriptor: 0, or its earliest failing status (R84). -/
def State.cmdStatus (s : State) (p : Nat) (b : List Byte) (last : Bool) : Nat :=
  if !crcOk b 0x3C then 0x2101
  else
    let c := Cmd.ofBytes b
    let f := s.findCmd p c last
    let f := { f with
      res := f.res && cmdReserved b
      op := if 1 < c.rounding then 0x1202 else f.op }
    let st := f.status
    if st ≠ 0 then st else s.fenceStatus p c

/-- The CRCs of the descriptors a command names (R142). -/
def State.cmdCrcs (s : State) (p : Nat) (c : Cmd) : List Nat :=
  if c.kind = 1 ∧ (c.opcode = 1 ∨ c.opcode = 2 ∨ c.opcode = 5) then
    [s.rdNat p (c.arg0 + 0xBC) 4, s.rdNat p (c.arg2 + 0x1C) 4, if c.opcode = 2 then s.rdNat p (c.arg1 + 0x3C) 4 else 0]
  else if c.kind = 4 ∧ c.opcode ≤ 3 then [s.rdNat p (c.arg0 + 0x7C) 4]
  else if c.kind = 4 ∧ bits c.arg4 1 0 = 1 then [s.rdNat p (c.arg0 + 0x3C) 4]
  else if (c.kind = 5 ∧ c.opcode = 2) ∨ c.kind = 6 then [s.rdNat p (c.arg0 + 0x3C) 4]
  else []

/-- The descriptors of a list of n commands at a, checked in list order: commands, or status and index of the first that
fails (R84). -/
def State.checkList (s : State) (p a n : Nat) : List CmdRec × Option (Nat × Nat) :=
  let raws := (List.range n).map (fun i => s.rd p (a + 64 * i) 64)
  let sts := raws.zipIdx.map (fun e => s.cmdStatus p e.1 (e.2 + 1 == n))
  match sts.findIdx? (· != 0) with
  | some i => ([], some (sts.getD i 0, i))
  | none => (raws.map (fun b => { cmd := Cmd.ofBytes b, crcs := s.cmdCrcs p (Cmd.ofBytes b) }), none)

/-- The checks of a submission entry (R81): 0, or the status. -/
def State.subStatus (s : State) (p : Nat) (b : List Byte) : Nat :=
  let x := Sub.ofBytes b
  firstFail [(crcOk b 0x3C, 0x2101), (subReserved b, 0x1201),
    (1 ≤ x.len && x.len ≤ 65536 && x.addr % 64 == 0 && s.inSlice p x.addr (64 * x.len) && x.lane < s.pval p 0x40 2, 0x1212)]

end Sys2Proof.Machine
end

