-- ==== Sys2Proof/Machine/HostPort.lean ====
section
/-!
DEFINITION. What the host writes and reads through BAR0 and BAR2 of the partition functions (R72 to R74, R87, R88, R219,
R337, R410). Function p + 1 serves partition p.
-/

namespace Sys2Proof.Machine

open Sys2Proof

/-- s with a refused write counted in the DOORBELL_ERR of a function (R73, R378); with the main domain off there is no host
port (R427). -/
def State.refuseHost (s : State) (fn : Nat) : State :=
  if s.boot.power ≠ 2 then s
  else if fn = 0 then { s with caddy := { s.caddy with doorbellErr0 := (s.caddy.doorbellErr0 + 1) % 4294967296 } }
  else s.modRings (fn - 1) (fun r => { r with doorbellErr := (r.doorbellErr + 1) % 4294967296 })

/-- Whether a request to function fn is dropped: outside an IDE stream while IDE is required and the state is not Open
(R410). Function 0 is not covered. -/
def State.ideBlocks (s : State) (fn : Nat) (ide : Bool) : Bool :=
  decide (1 ≤ fn ∧ fn ≤ 4) && !ide && s.secState != 0 && s.valNat 0x8000 4 == 1

/-- Whether function fn takes writes: a partition function whose partition is assigned, and IDE satisfied (R73, R410). -/
def State.takesWrites (s : State) (fn : Nat) (ide : Bool) : Bool :=
  decide (1 ≤ fn ∧ fn ≤ 4 ∧ s.boot.power = 2) && !s.ideBlocks fn ide && decide ((s.part (fn - 1)).state ≠ .unassigned)

/-- s with a write dropped, counted and its status logged for the partition (R74). -/
def State.dropLogged (s : State) (fn status : Nat) : State := (s.refuseHost fn).note (fn - 1) status

/-- SQ_TAIL_DB (R74): the new index must lie below the entry count and not behind the entries still to be consumed. -/
def State.sqTail (s : State) (p v : Nat) : State :=
  let r := (s.part p).rings
  let d := (v + r.entries - r.sqHead) % r.entries
  if r.entries ≤ v ∨ d < r.backlog then s.dropLogged (p + 1) 0x1208
  else s.modRings p (fun r => { r with sqTail := v })

/-- CQ_HEAD_DB (R74): the new index must lie from the current head up to the published tail. -/
def State.cqHeadWrite (s : State) (p v : Nat) : State :=
  let r := (s.part p).rings
  let d := (v + r.entries - r.cqHead) % r.entries
  if r.entries ≤ v ∨ r.cqUsed - r.heldN < d then s.dropLogged (p + 1) 0x1208
  else s.modRings p (fun r => { r with cqHead := v, cqUsed := r.cqUsed - d })

/-- s with the lease of partition p armed from now (R85): lease_state live, no expiry. The heartbeat field as it stands is
what later samples compare with. -/
def State.armLease (s : State) (p : Nat) : State :=
  let beat := s.rdNat p ((s.part p).rings.base + 0x18) 8
  s.modLease p (fun l =>
    { l with armed := true, state := 1, lastBeat := beat, seen := s.now, seenTick := s.time.ticks, expiredAt := 0 })

/-- The resume of a Host-lost partition (R88): held completions are published, the lease armed, consumption resumes. -/
def State.resumeHost (s : State) (p : Nat) : State :=
  let s := (s.publish p).armLease p
  let s := s.modPart p (fun q => { q with runTo := .none })
  let s := s.modRings p (fun r => { r with consuming := true })
  ((s.modLease p (fun l => { l with asSB := false })).syncHeader p).setPState p .running

/-- s with the result of an ATTACH write (R73). -/
def State.attachResult (s : State) (p status : Nat) : State := s.modRings p (fun r => { r with attachStatus := status })

/-- Whether the run to a stop is still in progress (R88). -/
def RunTo.busy (r : RunTo) : Bool :=
  match r with
  | .barrier _ | .lists | .streams | .sachet => true
  | _ => false

/-- ATTACH resume (R88). -/
def State.attachResume (s : State) (p : Nat) : State :=
  if (s.part p).state ≠ .hostLost then s.attachResult p 0x1101
  else
    let s := s.attachResult p 0
    if (s.part p).runTo.busy then (s.modLease p (fun l => { l with state := 3 })).syncHeader p
    else s.resumeHost p

/-- Abort of partition p (R48, R49, R107): its work stops with 0x1107, then it is Idle. -/
def State.abortPart (s : State) (p : Nat) : State := (s.stopWork p 0x1107).enterIdle p

/-- ATTACH reset (R88): as Abort. -/
def State.attachReset (s : State) (p : Nat) : State :=
  if (s.part p).state ≠ .hostLost then s.attachResult p 0x1101
  else (s.attachResult p 0).abortPart p

/-- A write to a register of a partition function that is assigned (R73, R74). A write to an offset that holds no writable
register is dropped and counted. -/
def State.regWrite (s : State) (p offset v : Nat) : State :=
  if offset = 0x008 ∨ offset = 0x010 then
    if (s.part p).state ≠ .idle then s.dropLogged (p + 1) 0x1101
    else if offset = 0x008 then
      (if v % 4096 ≠ 0 then s.dropLogged (p + 1) 0x1104 else s.modRings p (fun r => { r with base := v }))
    else if v < 6 ∨ 16 < v then s.dropLogged (p + 1) 0x1104
    else s.modRings p (fun r => { r with size := v })
  else if offset = 0x018 then s.sqTail p v
  else if offset = 0x01C then s.cqHeadWrite p v
  else if offset = 0x020 then
    (if v = 1 then s.attachResume p else if v = 2 then s.attachReset p else s.attachResult p 0x1104)
  else if offset = 0x028 then
    (if v % 65536 = 0 then s.dropLogged (p + 1) 0x1104
     else s.modRings p (fun r => { r with irqCount := v % 65536, irqTime := v / 65536 % 65536 }))
  else if offset = 0x480 then s.ackErrors v (fun e => e.part == p)
  else s.refuseHost (p + 1)

/-- A write to function 0: CADDY_REQ takes four bytes while busy is clear (R378); every other register of it has a step of
its own, is read-only, or is ERRQ_ACK, which is dropped and counted (R337). -/
def State.reg0Write (s : State) (offset v : Nat) : State :=
  if 0x1000 ≤ offset ∧ offset < 0x1420 ∧ !s.caddy.busy ∧ s.boot.power = 2 then
    { s with caddy := { s.caddy with req := overlay (padTo 1056 s.caddy.req) (offset - 0x1000) (le 4 v) } }
  else s.refuseHost 0

/-- BAR0_REGISTER_WRITE (R74). -/
def execBar0RegisterWrite (fn offset value : Nat) (ide : Bool) (s : State) : Host.Outcome State Fault Refusal :=
  answer s (if fn = 0 then s.reg0Write offset value
    else if s.takesWrites fn ide then s.regWrite (fn - 1) offset value
    else if fn ≤ 4 then s.refuseHost fn else s)

/-- SQ_TAIL_DB (R74). -/
def execSqTailDb (fn value : Nat) (ide : Bool) (s : State) : Host.Outcome State Fault Refusal :=
  answer s (if s.takesWrites fn ide then s.sqTail (fn - 1) value else if fn ≤ 4 then s.refuseHost fn else s)

/-- CQ_HEAD_DB (R74). -/
def execCqHeadDb (fn value : Nat) (ide : Bool) (s : State) : Host.Outcome State Fault Refusal :=
  answer s (if s.takesWrites fn ide then s.cqHeadWrite (fn - 1) value else if fn ≤ 4 then s.refuseHost fn else s)

/-- ATTACH_RESUME (R88). -/
def execAttachResume (fn : Nat) (ide : Bool) (s : State) : Host.Outcome State Fault Refusal :=
  answer s (if s.takesWrites fn ide then s.attachResume (fn - 1) else if fn ≤ 4 then s.refuseHost fn else s)

/-- ATTACH_RESET (R88). -/
def execAttachReset (fn : Nat) (ide : Bool) (s : State) : Host.Outcome State Fault Refusal :=
  answer s (if s.takesWrites fn ide then s.attachReset (fn - 1) else if fn ≤ 4 then s.refuseHost fn else s)

/-- ERRQ_ACK (R337): releases the held entries of the function's partition up to a sequence. -/
def execErrqAck (fn sequence : Nat) (ide : Bool) (s : State) : Host.Outcome State Fault Refusal :=
  answer s (if s.takesWrites fn ide then s.ackErrors sequence (fun e => e.part == fn - 1)
    else if fn ≤ 4 then s.refuseHost fn else s)

/-- What a read of a register of partition p's function answers while the partition is assigned (R73): 0 for a write-only
register and for an offset that holds none. -/
def State.readRegister (s : State) (p offset : Nat) : Nat :=
  let r := (s.part p).rings
  if offset = 0x000 then p + 256 * (s.layoutGen % 16777216)
  else if offset = 0x004 then (s.part p).state.code
  else if offset = 0x008 then r.base
  else if offset = 0x010 then r.size
  else if offset = 0x024 then r.attachStatus
  else if offset = 0x028 then r.irqCount + 65536 * r.irqTime
  else if offset = 0x02C then r.doorbellErr
  else 0

/-- What a BAR0 read of function p + 1 answers (R73): while the partition is Unassigned, FN_ID alone. No row of the table is
such a read but that of DOORBELL_ERR, the one that changes the module (log 81). -/
def State.readBar0 (s : State) (p offset : Nat) : Nat :=
  if (s.part p).state = .unassigned ∧ offset ≠ 0 then 0 else s.readRegister p offset

/-- DOORBELL_ERR (R73): the read answers the count and clears it. While the partition is Unassigned the read returns 0,
and a read that IDE blocks is completed as Unsupported Request and counted (R410). -/
def execDoorbellErr (fn : Nat) (ide : Bool) (s : State) : Host.Outcome State Fault Refusal :=
  answer s
    (if 4 < fn then s
     else if fn = 0 then
       ({ s with caddy := { s.caddy with doorbellErr0 := 0 } }).out (.reg 0 0x02C s.caddy.doorbellErr0)
     else if s.ideBlocks fn ide then s.refuseHost fn
     else if (s.part (fn - 1)).state = .unassigned then s.out (.reg fn 0x02C (s.readBar0 (fn - 1) 0x02C))
     else (s.modRings (fn - 1) (fun r => { r with doorbellErr := 0 })).out (.reg fn 0x02C (s.readBar0 (fn - 1) 0x02C)))

/-- Counters of a channel controller, in the order of R193 and R231. -/
def ctrChAtomics : Nat := 1
def ctrChOverflows : Nat := 2
def ctrChPairAdds : Nat := 3
def ctrChSkips : Nat := 4
def ctrChRead : Nat := 5
def ctrChWritten : Nat := 6
def ctrChGathers : Nat := 7
def ctrChCorrected : Nat := 11
def ctrChVerified : Nat := 12
def ctrChMismatches : Nat := 13
def ctrChRefetches : Nat := 14
def ctrChPartial : Nat := 15
def ctrChPatrol : Nat := 16
def ctrChPatrolBad : Nat := 17
def ctrChMigrations : Nat := 18

/-- A BAR2 read of n bytes at an address by function p + 1: the state, its lines counted as read by their channels, and the
bytes (R73, R219, R231). Outside the spread region and the near windows, and while the partition is Unassigned, they are 0.
No row of the table is such a read (log 81). -/
def State.readBar2 (s : State) (p a n : Nat) : State × List Byte :=
  if (s.part p).state = .unassigned ∨ !s.inSlice p a n then (s, zeros n)
  else (s.countLines p a n ctrChRead, s.rd p a n)

/-- BAR2_WRITE (R219, R234): offset x of BAR2 is partition address x of the spread region and the near windows. What the
host writes changes the state that a sachet holds (R68). -/
def execBar2Write (fn address : Nat) (bytes : List Byte) (ide : Bool) (s : State) : Host.Outcome State Fault Refusal :=
  answer s
    (if s.takesWrites fn ide && s.inSlice (fn - 1) address bytes.length then
       ((s.wr (fn - 1) address bytes).countLines (fn - 1) address bytes.length ctrChWritten).modRcv (fn - 1)
         (fun r => { r with dirty := true })
     else if 1 ≤ fn ∧ fn ≤ 4 then s.refuseHost fn else s)

/-- IRQ_COALESCE_TIMER (R73): the coalescing time has passed since the first unsignalled entry. Before that, or with the
timer off, nothing happens. -/
def execIrqCoalesceTimer (p : Nat) (s : State) : Host.Outcome State Fault Refusal :=
  let r := (s.part p).rings
  answer s
    (if 0 < r.irqTime ∧ 0 < r.irqPending ∧ r.irqFirst + r.irqTime * Config.ticksPerUs ≤ s.time.ticks then
       s.signalCompletions p
     else s)

end Sys2Proof.Machine
end

