-- ==== Sys2Proof/Machine/Engine.lean ====
section
/-!
DEFINITION. What every engine shares: taking the command that runs in a queue, handing it over with its writes issued, and
abandoning a list (R69, R84, R101, R205).
-/

namespace Sys2Proof.Machine

/-- The cluster's queues hold: its site is halted or gone (R135, R315, R349). -/
def State.holds (s : State) (k n : Nat) : Bool :=
  decide (1 ≤ k ∧ k ≤ 3) && ((s.siteOf n).map (fun i => (s.site i).halted)).getD true

/-- The command that runs in queue n of kind k and its record. -/
def State.running (s : State) (k n : Nat) : Option (QRef × CmdRec) :=
  (s.queue k n).running.bind (fun r => (s.cmdOf r).map (fun c => (r, c)))

/-- An engine runs the command of its queue if sel takes it: f gives the effect and the status. Without such a command
nothing happens (log 8). -/
def State.engine (s : State) (k n : Nat) (sel : Cmd → Bool) (f : State → QRef → CmdRec → State × Nat) : State :=
  match s.running k n with
  | some (r, c) =>
    if sel c.cmd && !s.holds k n then (let x := f s r c; x.1.issue k n r x.2) else s
  | none => s

/-- The submission_id of a command's list, which an entry's ref field names (R334). -/
def State.refOf (s : State) (r : QRef) : Nat := ((s.list r.part r.list).map (fun x : ListRec => x.subId)).getD 0

/-- s with an engine's store of bs at partition address a, its lines counted by the channels (R231). -/
def State.store (s : State) (p a : Nat) (bs : List Byte) : State :=
  (s.wr p a bs).countLines p a bs.length ctrChWritten

/-- Places of the blocks that a read of n bytes at a covers in part. -/
def State.partialBlocks (s : State) (p a n : Nat) : List Nat :=
  if planeBase ≤ a ∨ n = 0 then [] else
  let b0 := a / 4096 * 4096
  let b1 := (a + n - 1) / 4096 * 4096
  let cut := fun (b : Nat) => decide (b < a ∨ a + n < b + 4096)
  ((if cut b0 then [b0] else []) ++ (if b1 ≠ b0 && cut b1 then [b1] else [])).filterMap (fun b => s.place p b)

/-- s with an engine's read of n bytes at partition address a counted by the channels: lines, and blocks read in part,
which are not verified (R231, R235). -/
def State.loaded (s : State) (p a n : Nat) : State :=
  (s.partialBlocks p a n).foldl (fun s k => s.count (channelIndex k) ctrChPartial 1) (s.countLines p a n ctrChRead)

/-! ### Verified reads (R235, R236, R240) -/

/-- First addresses of the whole aligned HBM blocks of n bytes from a. -/
def wholeBlockAddrs (a n : Nat) : List Nat :=
  if planeBase ≤ a then [] else
  (List.range (n / 4096 + 1)).filterMap (fun k =>
    let b := ((a + 4095) / 4096 + k) * 4096
    if b + 4096 ≤ a + n then some b else none)

/-- What a read of the block at partition address b meets: in HBM a mismatch, where the block is maintained and is known not
to match or a fault names it (R235); on the plane a parity error, which is not refetched (R240). -/
def State.faultAt (s : State) (p : Nat) (faults : List BlockFault) (b : Nat) : Option BlockFault :=
  let named := faults.find? (fun f => f.addr / 4096 * 4096 == b)
  if planeBase ≤ b then named.map (fun f => { f with persists := true })
  else if !s.maintainedAt p b then none
  else if s.hbm.corrupt.contains (blockOf ((s.place p b).getD 0)) then some ⟨b, true⟩
  else named

/-- s with the reads of some whole blocks counted: verified, or skipped when unmaintained; mismatches and refetches. -/
def State.countVerified (s : State) (p : Nat) (faults : List BlockFault) (bs : List Nat) : State :=
  (bs.filter (· < planeBase)).foldl (fun s b =>
    match s.place p b with
    | none => s
    | some k =>
      let i := channelIndex k
      if !s.maintainedAt p b then s.count i ctrChSkips 1
      else
        let s := s.count i ctrChVerified 1
        match s.faultAt p faults b with
        | none => s
        | some f => (s.count i ctrChMismatches 1).count i ctrChRefetches (if f.persists then 0 else 1)) s

/-- The detail of a BLOCK_CRC entry for an HBM place (R487): the entry is that of the block's data, the CRC read is open. -/
def State.crcDetail (s : State) (place consumer : Nat) (block : List Byte) : List Byte :=
  let c := place / 2147483648
  le 1 (c / 32) ++ le 1 (c % 32) ++ le 1 (s.logicalCh (c / 32) (c % 32)) ++ le 1 consumer ++ zeros 4 ++
    le 8 (place % 2147483648) ++ le 4 (crc32c block) ++
    [Config.freeByte s.free, Config.freeByte (s.free + 1), Config.freeByte (s.free + 2), Config.freeByte (s.free + 3)]

/-- s with 0x2201 queued for the block at an HBM place (R235, R487), which does not match from then on. -/
def State.raisePlace (s : State) (place consumer p addr ref : Nat) : State :=
  let c := place / 2147483648
  ({ s with free := s.free + 4, hbm := s.hbm.spoilt (blockOf place) }).raise
    { status := 0x2201, part := p, unitKind := 3, unit := c / 32 * 256 + c % 32, addr := addr, ref := ref
      detail := s.crcDetail place consumer ((List.range 4096).map (fun i => Mem.get s.mem (place + i))) }

/-- s with 0x2201 queued for the block at partition address a. -/
def State.raiseBlock (s : State) (p a consumer : Nat) (ref : Nat := 0) : State :=
  s.raisePlace ((s.place p a).getD 0) consumer p a ref

/-- s with 0x2203 queued for a word on the plane that fails parity at a partition address (R240, R334). -/
def State.raiseParity (s : State) (p a ref : Nat) : State :=
  let k := (s.place p a).getD 2199023255552
  s.raise
    { status := 0x2203, part := p, unitKind := 1, unit := siteUnit ((k - 2199023255552) / 268435456), addr := a, ref := ref }

/-- s with the error of a read that meets a fault at address b queued: 0x2203 on the plane, 0x2201 in HBM. -/
def State.raiseRead (s : State) (r : QRef) (consumer b : Nat) : State :=
  if planeBase ≤ b then s.raiseParity r.part b (s.refOf r) else s.raiseBlock r.part b consumer (s.refOf r)

/-- The on-plane word of partition p, at a partition address, that fails parity in a command's reads. -/
def State.parityAt (s : State) (p : Nat) (parity : Option Nat) : Option Nat :=
  parity.filter (fun a => planeBase ≤ a && s.inside p a 8)

/-- s with a command stopped by a parity error at address a: what it wrote so far is undefined, and 0x2203 is queued (R48,
R236, R240). -/
def State.stopRead (s : State) (r : QRef) (c : CmdRec) (a : Nat) : State :=
  (s.loseCmds r.part [c]).raiseParity r.part a (s.refOf r)

/-- As State.engine, for a command that reads the plane: a word that fails parity stops it with 0x2201 (R236, R240). -/
def State.engineRead (s : State) (k n : Nat) (sel : Cmd → Bool) (parity : Option Nat) (f : State → QRef → CmdRec → State × Nat) :
    State :=
  s.engine k n sel (fun s r c =>
    match s.parityAt r.part parity with
    | some a => (s.stopRead r c a, 0x2201)
    | none => f s r c)

/-! ### Abandoned lists -/

/-- s without command r in any queue's waiting line. -/
def State.unqueue (s : State) (p l : Nat) : State :=
  { s with queues := s.queues.map (fun e => (e.1, { e.2 with fifo := e.2.fifo.filter (fun r => !(r.part == p && r.list == l)) })) }

/-- Whether the abandonment of a list at command i ends its command c at index j without running (R84). -/
def dropped (i j : Nat) (c : CmdRec) : Bool := j == i || c.st == .held || c.st == .queued

/-- s with every command of list l of partition p that is not dispatched, and command i, completed without running (R84). -/
def State.dropMarks (s : State) (p l i status : Nat) : State :=
  (s.modList p l (fun x => { x with
    abandoned := true
    cmds := x.cmds.mapIdx (fun j c =>
      if dropped i j c then { c with st := .done, ran := false, status := if j = i then status else c.status } else c) })).unqueue p l

/-- s with each command that the abandonment of list x at command i ends counted as a completed contributor (R84). -/
def State.dropSignals (s : State) (p : Nat) (x : ListRec) (i : Nat) : State :=
  ((List.range x.cmds.length).filter (fun j => (x.cmds[j]?.map (dropped i j)).getD false)).foldl (fun s j =>
    match x.cmds[j]? with
    | some c => s.signal { part := p, list := x.id, index := j, lane := x.lane } c.cmd
    | none => s) s

/-- s with the commands that the abandonment of list l at command i ends completed without running, as contributors
(R84). -/
def State.dropCommands (s : State) (p l i status : Nat) : State :=
  match s.list p l with
  | none => s
  | some x => (s.dropMarks p l i status).dropSignals p x i

/-- s with 0x1205 queued for list x of partition p, abandoned at command i with a status (R84, R487). -/
def State.raiseAbandoned (s : State) (p : Nat) (x : ListRec) (i status : Nat) : State :=
  let y := (s.list p x.id).getD x
  s.raise
    { status := 0x1205, part := p, ref := x.subId
      detail := le 2 status ++ zeros 2 ++ le 4 (x.indexOf i) ++ le 4 y.ranCount ++
        le 4 (y.cmds.filter (fun c => c.st == .done && !c.ran)).length }

/-- s with no further command of the list of a running command dispatched: a policy abort (R84, R189, R236). -/
def State.abandonAfter (s : State) (r : QRef) (status : Nat) : State :=
  match s.list r.part r.list with
  | none => s
  | some x => (s.dropCommands r.part r.list x.cmds.length 0).raiseAbandoned r.part x r.index status

/-- A list abandoned at command i with a status: one 0x1205 entry is queued (R84, R487). -/
def State.abandonList (s : State) (p l i status : Nat) : State :=
  match s.list p l with
  | none => s
  | some x =>
    (((s.dropMarks p l i status).raiseAbandoned p x i status).dropSignals p x i).finishList p l

end Sys2Proof.Machine
end

