-- ==== Sys2Proof/Machine/Streams.lean ====
section
/-!
DEFINITION. Infuser streams at run time: credits (R254), sample slots (R260), positions and manifests (R265, R266, R269),
rounds and results (R259), and closing (R273).
-/

namespace Sys2Proof.Machine

open Sys2Proof

/-! ### Fields of the stream descriptor (R250) -/

def Stream.kind (x : Stream) : Nat := field x.desc 3 1
def Stream.codec (x : Stream) : Nat := field x.desc 4 1
def Stream.fromPort (x : Stream) : Bool := field x.desc 5 1 == 0
def Stream.flag (x : Stream) (i : Nat) : Bool := bit (field x.desc 7 1) i
def Stream.encrypted (x : Stream) : Bool := x.flag 0
def Stream.live (x : Stream) : Bool := x.flag 1
def Stream.reserved (x : Stream) : Nat := field x.desc 0x0C 1
def Stream.keyHandle (x : Stream) : Nat := field x.desc 0x10 4

/-- Counter index of stream n (R390). -/
def streamIndex (n : Nat) : Nat := 0x6A00 + n

/-- The streams bound on a die (R35). -/
def State.dieStreams (s : State) (die : Nat) : List Nat :=
  (List.range 128).filter (fun n => (s.stream n).state != 0 && (s.stream n).port == die)

/-- The stream key as the vault holds it (R407). -/
def State.streamKey (s : State) (x : Stream) : List Byte :=
  ((s.sec.keys.find? (fun k => k.handle == x.keyHandle && k.ty == 1 && k.part == x.part)).map (·.key)).getD []

/-- The IV of message counter n of a direction (R256). -/
def Stream.iv (x : Stream) (dir n : Nat) : List Byte := le 4 x.nonce ++ le 8 (dir * 2 ^ 63 + n % 2 ^ 63)

/-! ### Messages toward the sender -/

/-- s with a message of a type sent to the sender of stream n (R253). -/
def State.tellSender (s : State) (n type arg : Nat) (payload : List Byte) : State :=
  let x := s.stream n
  (s.out (.ingest x.port x.conn type [x.seqOut, arg] payload)).modStream n (fun x => { x with seqOut := (x.seqOut + 1) % 2 ^ 32 })

/-- s with the owed credits of stream n returned (R254). -/
def State.sendCredit (s : State) (n : Nat) : State :=
  let x := s.stream n
  if x.owed = 0 then s
  else (s.tellSender n 0x83 x.owed []).modStream n (fun x => { x with credits := x.credits + x.owed, owed := 0 })

/-- s with k more input credits owed to the sender of stream n: CREDIT goes out at 8 (R254). -/
def State.owe (s : State) (n k : Nat) : State :=
  if k = 0 ∨ !(s.stream n).fromPort then s
  else
    let s := s.modStream n (fun x =>
      { x with owed := x.owed + k, owedTick := if x.owed = 0 then s.time.ticks else x.owedTick, held := x.held - k })
    if 8 ≤ (s.stream n).owed then s.sendCredit n else s

/-! ### Slots (R260) -/

/-- Slots that stream x uses. -/
def Stream.slots (x : Stream) : Nat := (x.samples.filter (·.slot)).length

/-- Whether a sample of stream n finds a free slot on its die: one reserved for the stream, or a shared one. -/
def State.slotFree (s : State) (n : Nat) : Bool :=
  let x := s.stream n
  let all := (s.dieStreams x.port).map s.stream
  decide (x.slots < x.reserved) ||
    decide ((all.map (fun y => y.slots - y.reserved)).sum < 24 - (all.map Stream.reserved).sum)

/-! ### Positions -/

/-- The mask bytes of so many units of data. -/
def maskOf (bytes units : Nat) : List Byte := le bytes (2 ^ min units (8 * bytes) - 1)

/-- Addresses of position i of a round (R259). -/
def Rounds.at (r : Rounds) (i : Nat) : Nat := r.j % max 1 r.depth * r.b + i
def Stream.dataAddr (x : Stream) (r : Rounds) (i : Nat) : Nat := r.destBase + r.at i * x.slotBytes
def Rounds.maniAddr (r : Rounds) (i : Nat) : Nat := r.maniBase + r.at i * 64
def Stream.maskAddr (x : Stream) (r : Rounds) (i : Nat) : Nat := r.maskBase + r.at i * x.maskBytes

/-- What is written for a position: data, mask units, manifest flags, declared size, reason (0 sound). -/
structure Written where
  data : List Byte := []
  units : Nat := 0
  flags : Nat := 0
  width : Nat := 0
  height : Nat := 0
  reason : Nat := 0
deriving DecidableEq, Repr

/-- Data filled to the size of a position, with zero or with the pad token (R265). -/
def Stream.fillSlot (x : Stream) (data : List Byte) : List Byte :=
  let pad := if x.kind = 4 then slice x.desc 0x44 4 else zeros 4
  let rest := (x.slotBytes - data.length + 3) / 4
  (data ++ (List.replicate rest pad).flatten).take x.slotBytes

/-- A manifest entry (R266). -/
def manifest (pos : Nat) (m : Sample) (now status reason flags weight width height units round : Nat) : List Byte :=
  withCrc (le 4 pos ++ le 4 m.id ++ le 8 m.pos ++ le 8 m.tArrival ++ le 8 now ++ le 2 status ++ le 1 reason ++ le 1 flags ++
    le 4 weight ++ le 2 width ++ le 2 height ++ le 4 units ++ le 4 round ++ le 4 m.coded ++ zeros 4)

/-- s with the data, mask and manifest entry of a position written for sample m of entry e (R259, R265, R266, R269). -/
def State.putPosition (s : State) (n e : Nat) (m : Sample) (w : Written) : State :=
  let x := s.stream n
  match x.rounds.bind (fun r => (r.entries[e]?).map (fun b => (r, b))) with
  | none => s
  | some (r, b) =>
    let bad := decide (w.reason ≠ 0)
    let status := if !bad then 0 else if w.reason = 0x0A then 0x3101 else 0x2401
    let weight := if bad then 0 else if bit b.flags 0 then b.weight else 0x3F800000
    let flags := (if bad then 1 else 0) + w.flags
    let units := if bad then 0 else w.units
    let s := s.store x.part (x.dataAddr r b.position) (if bad then zeros x.slotBytes else x.fillSlot w.data)
    let s := s.store x.part (x.maskAddr r b.position) (maskOf x.maskBytes units)
    let s := s.store x.part (r.maniAddr b.position)
      (manifest b.position m s.now status w.reason flags weight w.width w.height units r.j)
    let s : State := if !bad then s.count (streamIndex n) 1 1 else
      let s := s.count (streamIndex n) (16 + w.reason) 1
      if w.reason = 0x0A then s.raise { status := 0x3101, part := x.part, unitKind := 7, unit := n }
      else s.raise
        { status := 0x2401, part := x.part, unitKind := 7, unit := n
          detail := le 4 b.position ++ le 4 m.id ++ le 8 m.pos ++ le 1 w.reason }
    s.modStream n (fun x =>
      { x with rounds := x.rounds.map (fun r => { r with done := e :: r.done, masked := r.masked || bad }) })

/-- The status that a round's masked positions add to its command (R269). -/
def Rounds.status (r : Rounds) : Nat := if r.masked then 0x0104 else 0

/-- s with the sample of entry e gone from its slot after its position is written; the rest of an incomplete sample is
discarded as it arrives, and the input blocks it held are returned (R260, R269). -/
def State.dropSample (s : State) (n e : Nat) : State :=
  let x := s.stream n
  let hit := fun (m : Sample) => m.entry == some e
  let blocks := ((x.samples.filter hit).map (·.blocks)).sum
  (s.modStream n (fun x => { x with
    samples := (x.samples.map (fun m =>
      if hit m then { m with slot := false, entry := none, bytes := [], blocks := 0, dropped := true } else m)).filter
        (fun m => !(m.dropped && m.whole)) })).owe n blocks

/-- A sample that no one sent: what its position's manifest entry names is open (log 4). -/
def State.noSample (s : State) (n : Nat) : Sample :=
  let byte := fun (i : Nat) => Config.freeByte (s.free + i)
  { id := ofLe [byte 0, byte 1, byte 2, byte 3], pos := (s.stream n).pos
    tArrival := ofLe [byte 4, byte 5, byte 6, byte 7, byte 8, byte 9, byte 10, byte 11] }

/-- s with entry e of the running round corrupt for a reason: with its sample where it has one (R269). -/
def State.maskEntry (s : State) (n e reason : Nat) : State :=
  match (s.stream n).samples.find? (fun m => m.entry == some e) with
  | some m => (s.putPosition n e m { reason := reason }).dropSample n e
  | none =>
    let m := s.noSample n
    ({ s with free := s.free + 12 }).putPosition n e m { reason := reason }

/-! ### Rounds -/

/-- The sample entries of a round that are not done and have no sample, in entry order. -/
def Stream.openEntries (x : Stream) : List Nat :=
  match x.rounds with
  | none => []
  | some r =>
    (List.range r.entries.length).filter (fun e =>
      ((r.entries[e]?).map (fun b => b.kind == 1)).getD false && !r.done.contains e &&
      !x.samples.any (fun m => m.entry == some e))

/-- s with the input blocks of the samples of stream n in decode returned: a decoder consumes the blocks of a sample that has its
slot and its position as they come (R254, R260, log 105). -/
def State.takeBlocks (s : State) (n : Nat) : State :=
  let takes := fun (m : Sample) => m.slot && m.entry.isSome
  let blocks := (((s.stream n).samples.filter takes).map (·.blocks)).sum
  if blocks = 0 then s
  else
    (s.modStream n (fun x =>
      { x with samples := x.samples.map (fun m => if takes m then { m with blocks := 0 } else m) })).owe n blocks

/-- The sample entries whose position is not written. -/
def Stream.unwritten (x : Stream) : List Nat :=
  match x.rounds with
  | none => []
  | some r =>
    (List.range r.entries.length).filter (fun e =>
      ((r.entries[e]?).map (fun b => b.kind == 1)).getD false && !r.done.contains e)

/-- Whether the wait fence of the round in hand is satisfied: round j waits for epoch E + j (R259). -/
def State.roundOpen (s : State) (n : Nat) : Bool :=
  let x := s.stream n
  match x.rounds, x.cmd.bind (fun r => s.cmdOf r) with
  | some r, some c =>
    r.j == 0 || c.cmd.waitKind == 0 ||
      (s.part x.part).fences.open (scopeKey 3 0) ((c.cmd.waitEpoch + r.j) % 2 ^ 32)
  | _, _ => false

/-- Whether a round is running: a sample of it has come, or a position is written (R273). -/
def Stream.roundRuns (x : Stream) : Bool :=
  match x.rounds with
  | some r => !r.done.isEmpty || x.samples.any (fun m => m.entry.isSome)
  | none => false

/-- s with waiting samples given the next entries, and slots; memory samples start as slots are free (R259, R260). -/
def State.assign (s : State) (n : Nat) : State :=
  let x := s.stream n
  if !s.roundOpen n then s
  else if x.fromPort then
    let step := fun (s : State) (k : Nat) =>
      let x := s.stream n
      match x.samples[k]?, x.openEntries with
      | some m, e :: _ =>
        if m.dropped || m.entry.isSome then s
        else s.modStream n (fun x =>
          { x with
            samples := x.samples.mapIdx (fun i m => if i = k then { m with entry := some e } else m)
            rounds := x.rounds.map (fun r => { r with firstTick := some (r.firstTick.getD m.tick) }) })
      | _, _ => s
    (List.range x.samples.length).foldl step s
  else
    let step := fun (s : State) (_ : Nat) =>
      let x := s.stream n
      match x.openEntries, x.rounds with
      | e :: _, some r =>
        if s.slotFree n then
          let b := r.entries.getD e ⟨0, 0, 0, 0, 0, 0, 0, 0⟩
          let s := (s.count (streamIndex n) 3 b.length).loaded x.part b.src b.length
          s.modStream n (fun x =>
            { x with
              samples := x.samples ++ [{ id := e, pos := b.src, tArrival := s.now, whole := true, slot := true
                                         entry := some e, tick := s.time.ticks, coded := b.length }]
              rounds := x.rounds.map (fun r => { r with firstTick := some (r.firstTick.getD s.time.ticks) }) })
        else s
      | _, _ => s
    (List.range 24).foldl step s

/-- s with slots given to the samples of a port stream that wait for one, in arrival order (R260). -/
def State.takeSlots (s : State) (n : Nat) : State :=
  (List.range (s.stream n).samples.length).foldl (fun s k =>
    let x := s.stream n
    match x.samples[k]? with
    | some m =>
      if !m.slot && !m.dropped && s.slotFree n then
        s.modStream n (fun x => { x with samples := x.samples.mapIdx (fun i m => if i = k then { m with slot := true } else m) })
      else s
    | none => s) s

/-- s with the positions of corrupt samples that have an entry written (R269). -/
def State.maskCorrupt (s : State) (n : Nat) : State :=
  ((s.stream n).samples.filter (fun m => m.reason != 0 && m.entry.isSome)).foldl
    (fun s m => match m.entry with | some e => s.maskEntry n e m.reason | none => s) s

/-- Payload bytes that one RESULT message carries: 4,096 with its tag (R253, R256). -/
def Stream.resultChunk (x : Stream) : Nat := if x.encrypted then 4080 else 4096

/-- Where a stream stands (R306): its block list, next round and next entry. -/
def Stream.cursorNow (x : Stream) : Nat × Nat × Nat :=
  match x.rounds with
  | none => x.cursor
  | some r =>
    match (List.range r.entries.length).find? (fun e => !r.done.contains e) with
    | some e => (r.addr, r.j, e)
    | none => (r.addr, r.j + 1, 0)

/-- s with the decode command of stream n handed over: it issues with its masked positions' notice or a worse status. -/
def State.endDecode (s : State) (n status : Nat) : State :=
  let x := s.stream n
  match x.cmd with
  | none => s
  | some r =>
    let s := s.modStream n (fun x => { x with cmd := none, rounds := none, cursor := x.cursorNow })
    s.issue 5 n r (mergeStatus status ((x.rounds.map Rounds.status).getD 0))

/-- The 32-byte header of a message (R253), the additional data of its tag (R256): type, flags, connection, sequence, length,
reserved bytes, sample, arg. -/
def msgHeader (type flags conn seq len reserved sample arg : Nat) : List Byte :=
  le 1 type ++ le 1 flags ++ le 2 conn ++ le 4 seq ++ le 2 len ++ le 2 reserved ++ le 4 sample ++ le 8 arg ++ zeros 8

/-- Address of the extent of result entry b in the round in hand (R259). -/
def Rounds.resultAt (r : Rounds) (b : BEntry) : Nat := b.src + r.j % max 1 r.depth * b.length

/-- Whole blocks of the n bytes of results from e0 that the message of len bytes from a is the first to need: the Infuser reads
results back block by block and verifies each (R235, R259). -/
def resultBlocks (e0 n a len : Nat) : List Nat := (wholeBlockAddrs e0 n).filter (fun k => a ≤ k && k < a + len)

/-- s with what the read for that message comes to counted: lines, verified blocks, blocks read in part (R231, R235). -/
def State.countResult (s : State) (p e0 n a len : Nat) : State :=
  let lo := if a = e0 then a else (a + 63) / 64 * 64
  let s := (s.countLines p lo (a + len - lo) ctrChRead).countVerified p [] (resultBlocks e0 n a len)
  if a = e0 then (s.partialBlocks p e0 n).foldl (fun s k => s.count (channelIndex k) ctrChPartial 1) s else s

/-- s with a decode command stopped at a block of results that does not match at its refetch (R236, R273). -/
def State.stopResult (s : State) (n b : Nat) : State :=
  let x := s.stream n
  (s.raiseBlock x.part b 3 ((x.cmd.map s.refOf).getD 0)).endDecode n 0x2201

/-- s with the next RESULT message of the result entry e sent (R256, R259), or its command stopped. -/
def State.sendResult (s : State) (n e : Nat) : State :=
  let x := s.stream n
  match x.rounds.bind (fun r => (r.entries[e]?).map (fun b => (r, b))) with
  | none => s
  | some (r, b) =>
    let len := min x.resultChunk (b.length - r.sent)
    let e0 := r.resultAt b
    let a := e0 + r.sent
    let s := s.countResult x.part e0 b.length a len
    match (resultBlocks e0 b.length a len).find? (fun k => (s.faultAt x.part [] k).isSome) with
    | some k => s.stopResult n k
    | none =>
      let plain := s.rd x.part a len
      let last := decide (b.length ≤ r.sent + len)
      let head := msgHeader 0x84 (if last then 2 else 0) x.conn x.seqOut (len + 16) 0 0 b.position
      let payload := if x.encrypted then Config.gcmSeal (s.streamKey x) (x.iv 1 x.ctrOut) head plain else plain
      let s := s.out (.ingest x.port x.conn 0x84 [x.seqOut, b.position, if last then 2 else 0] payload)
      s.modStream n (fun x =>
        { x with
          seqOut := (x.seqOut + 1) % 2 ^ 32, ctrOut := x.ctrOut + 1, resultCredits := x.resultCredits - 1
          rounds := x.rounds.map (fun r =>
            { r with sent := if last then 0 else r.sent + len, done := if last then e :: r.done else r.done }) })

/-- The stream of partition p whose round in hand reads its results back from an extent that holds address a (R235). -/
def State.resultReader (s : State) (p a : Nat) : Option Nat :=
  (s.boundStreams p).find? (fun n =>
    ((s.stream n).rounds.map (fun r => r.entries.any (fun b =>
      b.kind == 2 && r.resultAt b ≤ a && a < r.resultAt b + b.length))).getD false)

/-- The result entry that may be sent: every earlier entry of the round is done (R259). -/
def Stream.nextResult (x : Stream) : Option Nat :=
  match x.rounds with
  | none => none
  | some r =>
    match (List.range r.entries.length).find? (fun e => !r.done.contains e) with
    | some e => if ((r.entries[e]?).map (fun b => b.kind == 2)).getD false then some e else none
    | none => none

/-- s with results of stream n sent as far as the result credits reach. -/
def State.sendResults (s : State) (n fuel : Nat) : State :=
  match fuel with
  | 0 => s
  | k + 1 =>
    match (s.stream n).nextResult with
    | some e => if (s.stream n).resultCredits = 0 then s else (s.sendResult n e).sendResults n k
    | none => s

/-- s with the round in hand of stream n complete: it signals epoch E + j, and the next round follows or the command
ends (R259). -/
def State.endRound (s : State) (n : Nat) : State :=
  let x := s.stream n
  match x.rounds, x.cmd.bind (fun q => (s.cmdOf q).map (fun c => (q, c.cmd))) with
  | some r, some (q, c) =>
    let s := if c.sigKind = 3 then
        s.contribute x.part (scopeKey 3 0) (some ((c.sigEpoch + r.j) % 2 ^ 32)) q.list q.index else s
    if (r.total ≠ 0 ∧ r.total ≤ r.j + 1) ∨ x.state = 3 then s.endDecode n 0
    else
      let s := if r.total = 0 ∧ c.sigKind = 3 then
          s.modFences x.part (fun f => { f with contribs := f.contribs ++
            [{ scope := scopeKey 3 0, epoch := (c.sigEpoch + r.j + 1) % 2 ^ 32, cluster := 0, list := q.list
               index := q.index, done := false }] })
        else s
      s.modStream n (fun x =>
        { x with
          rounds := x.rounds.map (fun r => { r with j := r.j + 1, done := [], firstTick := none, sent := 0 }) })
  | _, _ => s

/-- Whether every entry of the round in hand is done. -/
def Stream.roundDone (x : Stream) : Bool :=
  match x.rounds with
  | some r => (List.range r.entries.length).all (fun e => r.done.contains e)
  | none => false

/-- s with stream n closed for good where it is closing and no round runs any more (R273). -/
def State.endClosing (s : State) (n : Nat) : State :=
  let x := s.stream n
  if x.state = 3 ∧ !x.roundRuns then
    let s := (s.endDecode n 0).closeStream n 0
    match x.closeCmd with
    | some r => s.issue 5 n r 0
    | none => s
  else s

/-- One round of moves of stream n: samples take slots and entries, corrupt ones are written, results leave, a complete
round ends. -/
def State.pumpOnce (s : State) (n : Nat) : State :=
  let x := s.stream n
  let s := if x.fromPort then s.takeSlots n else s
  let s := if x.state = 3 ∧ !x.admitsNew then s else s.assign n
  let s := (s.takeBlocks n).maskCorrupt n
  let s := if x.state = 3 ∧ !x.admitsNew ∧ (s.stream n).roundRuns then
      (s.stream n).openEntries.foldl (fun s e => s.maskEntry n e 5) s else s
  let s := s.sendResults n (s.stream n).resultCredits
  let s := if (s.stream n).roundDone then s.endRound n else s
  s.endClosing n

/-- s with stream n moved on as far as it goes: a round may end in each move. -/
def State.pump (s : State) (n : Nat) : State :=
  (List.range ((s.stream n).samples.length + 2)).foldl (fun s _ => if (s.stream n).state = 0 then s else s.pumpOnce n) s

/-- s with every stream of partition p moved on. -/
def State.pumpAll (s : State) (p : Nat) : State := (s.boundStreams p).foldl (fun s n => s.pump n) s

/-! ### Closing -/

/-- s with stream n closed by an abort close: the running command completes with 0x1107 and its outputs undefined, END_NOTICE
carries a status (R273). -/
def State.abortClose (s : State) (n status : Nat) : State :=
  let x := s.stream n
  let s := match x.cmd.bind s.cmdOf with | some c => s.loseCmds x.part [c] | none => s
  let s := (s.endDecode n 0x1107).closeStream n status
  match x.closeCmd with
  | some r => s.issue 5 n r 0
  | none => s

/-- s with stream n lost to its samples for a reason: those in decode and the open positions of the running round are
corrupt, the round completes, and an abort close follows (R273). -/
def State.failStream (s : State) (n reason : Nat) : State :=
  let s := if (s.stream n).roundRuns then (s.stream n).unwritten.foldl (fun s e => s.maskEntry n e reason) s else s
  let s := s.sendResults n (s.stream n).resultCredits
  let s := if (s.stream n).roundDone then s.endRound n else s
  s.abortClose n 0x1107

/-- s with every bound stream of partition p closing: a drain of SL admits no new sample (R47, R273). -/
def State.closingStreams (s : State) (p : Nat) (admitsNew : Bool) : State :=
  (s.boundStreams p).foldl (fun s n => (s.modStream n (fun x => { x with state := 3, admitsNew := admitsNew })).pump n) s

end Sys2Proof.Machine
end

