-- ==== Sys2Proof/Machine/Recovery.lean ====
section
/-!
DEFINITION. Sachets, rollback, spare fills, degraded plans, module loss and the reclaim (R302 to R327), and how a
partition's run to a stop goes on (R47, R86).
-/

namespace Sys2Proof.Machine

open Sys2Proof

/-! ### Plans read at Start -/

/-- The sachet plan that the slice holds: regions and its CRC, none when it is not valid (R302). -/
def State.readPlan (s : State) (p : Nat) : Option (List (Nat × Nat) × Nat) :=
  let a := s.pval p 0x20 3
  let n := s.rdNat p (a + 4) 2
  let b := s.rd p a (64 + 16 * n)
  let rs := (List.range n).map (fun i => (field b (64 + 16 * i) 8, field b (72 + 16 * i) 8))
  if s.inSlice p a (64 + 16 * n) && field b 0 2 == 0x5350 && field b 2 1 == 1 && 1 ≤ n && n ≤ 4096 && zeroAt b 3 1 &&
      zeroAt b 6 54 && tableCrcOk b &&
      rs.all (fun r => r.1 % 4096 == 0 && r.2 % 4096 == 0 && s.inSlice p r.1 r.2) then some (rs, field b 0x3C 4)
  else none

/-- The degraded plan table that the slice holds, none when it is malformed; address 0 names no table (R318, log 27). -/
def State.readTable (s : State) (p : Nat) : Option (List DegEntry) :=
  let a := s.pval p 0x80 3
  if a = 0 then some []
  else
    let n := s.rdNat p (a + 4) 2
    let b := s.rd p a (64 + 32 * n)
    if s.inSlice p a (64 + 32 * n) && field b 0 2 == 0x4450 && field b 2 1 == 1 && 1 ≤ n && n ≤ 1024 && zeroAt b 3 1 &&
        zeroAt b 6 54 && tableCrcOk b &&
        (List.range n).all (fun i => zeroAt b (67 + 32 * i) 1 && zeroAt b (92 + 32 * i) 4) then
      some ((List.range n).map (fun i =>
        let o := 64 + 32 * i
        { lost := field b o 2, minActive := field b (o + 2) 1, rows := field b (o + 4) 4, plan := field b (o + 8) 4
          words := (List.range 4).map (fun k => field b (o + 12 + 4 * k) 4) }))
    else none

/-- The sachet size S (R302). -/
def State.sachetBytes (s : State) (p : Nat) : Nat :=
  4096 + 1048576 + s.ledgerSize p + ((s.part p).rcv.plan.map (fun r => r.2 + r.2 / 1024)).sum

/-! ### Links to other modules -/

/-- Kettle port k. -/
def State.kport (s : State) (k : Nat) : KPort := Tab.get s.kports {} k

/-- s with Kettle port k changed by f. -/
def State.modKport (s : State) (k : Nat) (f : KPort → KPort) : State := { s with kports := Tab.mod s.kports {} k f }

/-- The ports that reach module m: up, with m as peer (R443). -/
def State.portsTo (s : State) (m : Nat) : List Nat :=
  (List.range 12).filter (fun k => (s.kport k).state == 2 && (s.kport k).peer == m)

/-- Fields of a transport packet header but those of its type (R440): tag kind, tag, checksum kind. -/
structure Tags where
  kind : Nat := 0
  tag : Nat := 0xFE
  check : Nat := 1
deriving DecidableEq, Repr

/-- s with a transport packet sent on port k for partition p (R436, R440): the output lists source module, partition, tag
kind, tag, checksum kind, sequence, fence epoch and timestamp, then the fields of the type. A packet of n bytes takes
⌈n ÷ 248⌉ data flits (log 50). -/
def State.kettleSend (s : State) (k type p : Nat) (t : Tags) (fields : List Nat) (payload : List Byte) : State :=
  let x := s.kport k
  let key := t.kind * 256 + t.tag
  let n := Tab.get x.seqs 0 key
  let s := s.modKport k (fun x =>
    { x with
      seqs := Tab.set x.seqs key ((n + 1) % 4294967296)
      sendSeq := (x.sendSeq + (64 + payload.length + 247) / 248) % 4096 })
  s.out (.kettle k type ([s.address, p, t.kind, t.tag, t.check, n, s.partEpoch p, s.now % 16777216] ++ fields) payload)

/-- s with a window-control packet sent for partition p to module m on the first port that reaches it (R441). -/
def State.sendTo (s : State) (m type p : Nat) (fields : List Nat) : State :=
  match s.portsTo m with
  | k :: _ => s.kettleSend k type p {} fields []
  | [] => s

/-- s with a WINDOW_BIND sent to module m for partition p (R65, R441); r is the Caddy write that asks, with its
subindex. -/
def State.sendBind (s : State) (p m gib : Nat) (r : Option (Req × Nat)) : State :=
  (s.sendTo m 0x21 p [gib, p]).modPart p (fun q => { q with bindReq := some (r, m, gib) })

/-- s with the binding that a WINDOW_NOTICE ended asked for again at the next sachet (R466). -/
def State.bindAfresh (s : State) (p : Nat) : State :=
  let b := (s.part p).binding
  if b.fresh && !(s.portsTo b.module).isEmpty && (s.part p).bindReq.isNone then
    (s.modPart p (fun q => { q with binding := { q.binding with fresh := false } })).sendBind p b.module b.gib none
  else s

/-! ### Tiers -/

/-- Slots of a window of so many GiB for sachets of S bytes (R308). -/
def windowSlots (gib bytes : Nat) : Nat := min 2 (gib * 1073741824 / ((bytes + 4194303) / 4194304 * 4194304))

/-- Tier n is enabled in the tier mask (R307). -/
def State.tierOn (s : State) (p n : Nat) : Bool := bit (s.pval p 0x20 4) (n - 1)

/-- Tier 1 can take a sachet of partition p (R304, R308). -/
def State.tier1Ready (s : State) (p : Nat) : Bool :=
  let b := (s.part p).binding
  s.tierOn p 1 && b.bound && !(s.portsTo b.module).isEmpty && 0 < windowSlots b.gib (s.sachetBytes p)

/-- The key of a path without a unit of its own, as the state keeps it: kind × 2²⁰ + number (R343). -/
def pathKey (kind path : Nat) : Nat := kind * 1048576 + path

/-- The link from the SE die to the NVMe controller is in service (R36, R41): a path of kind 6 (log 67). -/
def State.flashUp (s : State) : Bool := !s.boot.pathsOff.contains (pathKey 6 0)

/-- Tier 2 can take a sachet of partition p (R41, R307). -/
def State.tier2Ready (s : State) (p : Nat) : Bool := s.tierOn p 2 && s.flashUp

/-- The current tier, none when no enabled tier can take the sachet (R304, log 28). -/
def State.currentTier (s : State) (p : Nat) : Option Nat :=
  if s.tier1Ready p then some 1 else if s.tier2Ready p then some 2 else none

/-! ### Capture -/

/-- The group of partition p, 0xFF when it is in none (R105). -/
def State.group (s : State) (p : Nat) : Nat := s.pval p 0x50 1

/-- Partition p is a member of its group: from Start until it leaves (R105). -/
def State.grouped (s : State) (p : Nat) : Bool := (s.part p).member

/-- Bytes of some regions of the slice, by partition address. -/
def State.regionData (s : State) (p : Nat) (rs : List (Nat × Nat)) : Mem :=
  rs.foldl (fun m r => (s.rd p r.1 r.2).zipIdx.foldl (fun m e => Mem.put m (r.1 + e.2) e.1) m) []

/-- The ledger as a region. -/
def State.ledgerRegion (s : State) (p : Nat) : List (Nat × Nat) :=
  if s.ledgerSize p = 0 then [] else [(s.valNat (0xB100 + 16 * p) 1, s.ledgerSize p)]

/-- The schedule section (R306). -/
def State.schedule (s : State) (p : Nat) : Sched :=
  let q := s.part p
  { closed := q.fences.closed, lanes := q.laneDone, sqHead := q.rings.sqHead
    streams := (s.boundStreams p).map (fun n =>
      let x := s.stream n
      [n, x.pos, x.cursorNow.1, x.cursorNow.2.1, x.cursorNow.2.2])
    steps := q.rcv.steps, written := q.rcv.written }

/-- The sachet of partition p as it stands (R305). -/
def State.image (s : State) (p slot : Nat) : Sachet :=
  let q := s.part p
  { id := s.address * 2 ^ 60 + p * 2 ^ 58 + s.nor.sachetSeq % 2 ^ 58
    group := s.group p, groupEpoch := if s.grouped p then q.fences.closedAt (scopeKey 5 0) else 0
    epoch := s.partEpoch p, step := q.rcv.steps, tCapture := s.now, layoutGen := s.layoutGen, total := s.sachetBytes p
    planCrc := q.rcv.planCrc, ledgerBytes := s.ledgerSize p, regions := q.rcv.plan, sched := s.schedule p
    data := s.regionData p (q.rcv.plan ++ s.ledgerRegion p), holder := q.binding.module, slot := slot }

/-- s with the length of the reclaim phase that ends kept in the partition's counters, in µs (R329). -/
def State.phaseDone (s : State) (p : Nat) : State :=
  match (s.part p).rcv.reclaim with
  | some c => { s with ctr := Tab.set s.ctr (partCounters p * 256 + ctrPhase c.phase)
                         ((s.time.ticks - c.phaseStart) / Config.ticksPerUs) }
  | none => s

/-- s with a capture asked for, by a sachet point's command or by a stop: lists start no more (R304). In the fence phase of a reclaim its sachet phase begins
(R324). -/
def State.beginCapture (s : State) (p : Nat) (cmd : Option QRef) : State :=
  let s := if ((s.part p).rcv.reclaim.map (fun c => c.phase == 0)).getD false then s.phaseDone p else s
  s.modRcv p (fun r =>
    { r with
      capture := some { phase := 0, cmds := cmd.toList, startNs := s.now }
      reclaim := r.reclaim.map (fun c => if c.phase = 0 then { c with phase := 1, phaseStart := s.time.ticks } else c) })

/-- Every command of an active list has ended but the sachet points themselves; of a schedule run, those of the ticks begun
(R298, R304). -/
def State.quiesced (s : State) (p : Nat) (cmds : List QRef) : Bool :=
  (s.part p).lists.all (fun x =>
    !x.active ||
    (x.cmds.take x.started).zipIdx.all (fun e =>
      e.1.st == .done || cmds.any (fun r => r.list == x.id && r.index == e.2)))

/-- Whole blocks of some regions of the slice. -/
def regionBlocks (rs : List (Nat × Nat)) : List Nat := rs.flatMap (fun r => wholeBlockAddrs r.1 r.2)

/-- The first block of a capture that does not match after its refetch (R235, R305). -/
def State.badBlock (s : State) (p : Nat) (faults : List BlockFault) (rs : List (Nat × Nat)) : Option Nat :=
  (regionBlocks rs).find? (fun b => (s.faultAt p faults b).any (fun f => f.persists))

/-- s with a capture's verified reads of some regions counted, up to the block at which they stop (R231, R235); a block that was
refetched gives the commands that asked for the sachet notice 0x0103. -/
def State.readRegions (s : State) (p : Nat) (faults : List BlockFault) (rs : List (Nat × Nat)) : State :=
  let bad := s.badBlock p faults rs
  let bs := regionBlocks rs
  let bs := bs.take (((bs.findIdx? (fun b => bad == some b)).map (· + 1)).getD bs.length)
  let again := bs.any (fun b => (s.faultAt p faults b).any (fun f => !f.persists))
  let s := bs.foldl (fun s b => s.countLines p b 4096 ctrChRead) (s.countVerified p faults bs)
  if !again then s
  else (((s.part p).rcv.capture.map (·.cmds)).getD []).foldl (fun s r =>
    s.modCmd r (fun c => { c with status := mergeStatus c.status 0x0103 })) s

/-- s with the capture of partition p ended and the commands that asked for it completed with a status. -/
def State.endCapture (s : State) (p status : Nat) : State :=
  match (s.part p).rcv.capture with
  | none => s
  | some c =>
    let s := s.modRcv p (fun r => { r with capture := none })
    let s := s.count (partCounters p) ctrCaptureHold (s.now - c.startNs)
    c.cmds.foldl (fun s r => s.issue 4 (((s.cmdOf r).map (fun c : CmdRec => c.cmd.target)).getD 0) r status) s

/-- s with tier-1 copies of partition p in a slot gone (R308). -/
def State.dropSlot (s : State) (p slot : Nat) : State :=
  s.modRcv p (fun r => { r with sachets := r.sachets.map (fun x =>
    if x.tier1 && x.holder == (s.part p).binding.module && x.slot == slot then { x with tier1 := false } else x) })

/-- s with the tier-1 copies of partition p that module m holds gone (R65, R245, R320). -/
def State.dropHolder (s : State) (p m : Nat) : State :=
  s.modRcv p (fun r => { r with sachets := r.sachets.map (fun x => if x.holder = m then { x with tier1 := false } else x) })

/-- Sachets that still have a copy somewhere. -/
def State.pruneSachets (s : State) (p : Nat) : State :=
  s.modRcv p (fun r => { r with sachets := r.sachets.filter (fun x => x.tier1 || x.tier2 || x.tier3) })

/-! ### The sachet image and its way to the partner -/

/-- The header of a sachet image of partition p (R305). -/
def Sachet.header (x : Sachet) (p : Nat) : List Byte :=
  withCrc (padTo 0xFFC (le 2 0x5348 ++ le 1 1 ++ le 1 p ++ zeros 4 ++ le 8 x.id ++ le 1 x.group ++ le 1 0 ++
    le 2 x.regions.length ++ le 4 x.layoutGen ++ le 4 x.epoch ++ le 4 x.groupEpoch ++ le 8 x.step ++ le 8 x.tCapture ++
    le 8 x.total ++ le 4 x.planCrc ++ zeros 4 ++ le 8 x.ledgerBytes))

/-- Byte o of the regions of an image, each followed by its table of block CRCs (R305). -/
def regionByte (data : Mem) (rs : List (Nat × Nat)) (o : Nat) : Byte :=
  match rs with
  | [] => 0
  | r :: t =>
    if o < r.2 then Mem.get data (r.1 + o)
    else if o < r.2 + r.2 / 1024 then
      let k := (o - r.2) / 4
      (le 4 (crc32c ((List.range 4096).map (fun i => Mem.get data (r.1 + 4096 * k + i))))).getD ((o - r.2) % 4) 0
    else regionByte data t (o - r.2 - r.2 / 1024)

/-- Byte o of the image of a sachet of partition p, whose ledger lies at base (R305). The layout of the schedule section is
open (R306). -/
def Sachet.byte (x : Sachet) (p base o : Nat) : Byte :=
  let first := 4096 + 1048576
  if o < 4096 then (x.header p).getD o 0
  else if o < first then (if o - 4096 < Config.scheduleLen x.id then Config.scheduleByte x.id (o - 4096) else 0)
  else if o < first + x.ledgerBytes then Mem.get x.data (base + o - first)
  else regionByte x.data x.regions (o - first - x.ledgerBytes)

/-- The payload of block b of a transfer (R321, R443). -/
def State.xferBlock (s : State) (x : Xfer) (b : Nat) : List Byte :=
  if x.source < 4 then
    match (s.part x.source).rcv.capture.bind (fun c : Capture => c.sachet) with
    | some y => (List.range 4096).map (fun i => y.byte x.source (s.valNat (0xB100 + 16 * x.source) 1) (4096 * b + i))
    | none => zeros 4096
  else (List.range 4096).map (fun i => match s.windowPlace (x.base + 4096 * b + i) with | some k => Mem.get s.mem k | none => 0)

/-- Places of the whole blocks of the hosted window among n bytes from window byte a. -/
def State.windowBlocks (s : State) (a n : Nat) : List Nat :=
  (List.range (n / 4096 + 1)).filterMap (fun k =>
    let b := ((a + 4095) / 4096 + k) * 4096
    if b + 4096 ≤ a + n then s.windowPlace b else none)

/-- The block at an HBM place is maintained and does not match its entry (R235). -/
def State.badPlace (s : State) (k : Nat) : Bool :=
  Ranges.has s.hbm.maintained (blockOf k) && s.hbm.corrupt.contains (blockOf k)

/-- s with the verified reads of the blocks at some HBM places counted (R231, R235). -/
def State.countPlaces (s : State) (ks : List Nat) : State :=
  ks.foldl (fun s k =>
    let i := channelIndex k
    let s := s.count i ctrChRead 64
    if !Ranges.has s.hbm.maintained (blockOf k) then s.count i ctrChSkips 1
    else (s.count i ctrChVerified 1).count i ctrChMismatches (if s.badPlace k then 1 else 0)) s

/-- Blocks sent on port k and not confirmed (R443). -/
def State.unconfirmed (s : State) (k : Nat) : Nat := (s.xfers.map (fun x => (x.flight.filter (fun f => f.1 == k)).length)).sum

/-- The next block of a transfer, none when every block is on its way. -/
def Xfer.pick (x : Xfer) : Option Nat :=
  match x.again with
  | b :: _ => some b
  | [] => if x.next < x.blocks then some x.next else none

/-- A transfer with block b on its way on port k. -/
def Xfer.sent (x : Xfer) (k b : Nat) : Xfer :=
  { x with
    again := x.again.drop 1, next := if x.again.isEmpty then x.next + 1 else x.next, flight := x.flight ++ [(k, b)] }

/-- s with one more block sent on port k, when it may hold another one unconfirmed (R443). A block of the hosted window that does
not match ends the fetch it serves with 0x2201 (R235, R236). -/
def State.sendBlock (s : State) (k : Nat) : State :=
  if (s.kport k).state ≠ 2 ∨ 64 ≤ s.unconfirmed k then s
  else
    match s.xfers.find? (fun x => x.module == (s.kport k).peer && x.pick.isSome) with
    | none => s
    | some x =>
      let b := x.pick.getD 0
      let ks := if x.source < 4 then [] else s.windowBlocks (x.base + 4096 * b) 4096
      let s := s.countPlaces ks
      match ks.find? s.badPlace with
      | some a =>
        ({ s with xfers := s.xfers.filter (fun y => y ≠ x) }.raisePlace a 2 0xFF a 0).kettleSend k 0x15 0 { tag := 0xFF } [0x2201] []
      | none =>
      let s := s.kettleSend k (if x.source < 4 then 0x11 else 0x14) (x.source % 4) { tag := 0xFF } [x.id, x.first + 4096 * b]
        (s.xferBlock x b)
      { s with xfers := s.xfers.map (fun y => if y = x then x.sent k b else y) }

/-- s with as many blocks under way on every port as R443 allows. -/
def State.pumpXfers (s : State) : State :=
  (List.range 12).foldl (fun s k => (List.range 64).foldl (fun s _ => s.sendBlock k) s) s

/-- The slot of the window that the next sachet of partition p takes: of two, the one that does not hold its newest committed
sachet (R308, R309). -/
def State.nextSlot (s : State) (p : Nat) : Nat :=
  let b := (s.part p).binding
  if windowSlots b.gib (s.sachetBytes p) ≠ 2 then 0
  else match (s.part p).rcv.sachets.find? (fun x => x.committed && x.tier1 && x.holder == b.module) with
    | some x => 1 - x.slot
    | none => b.nextSlot % 2

/-- Sending a captured sachet (R304 step 4): the first available tier; without one the sachet is abandoned. -/
def State.sendSachet (s : State) (p : Nat) : State :=
  let s := s.bindAfresh p
  let b := (s.part p).binding
  let s := if s.tierOn p 1 && !s.tier1Ready p && s.pval p 0x20 1 != 0xFF then s.note p 0x4101 else s
  match s.currentTier p with
  | none => (s.count (partCounters p) ctrAbandoned 1).endCapture p 0x7302
  | some t =>
    let slot := s.nextSlot p
    let s := { s with nor := { s.nor with sachetSeq := s.nor.sachetSeq + 1 } }
    let x := s.image p slot
    let s := s.modRcv p (fun r =>
      { r with capture := r.capture.map (fun c => { c with phase := 1, tier := t, sachet := some x }), dirty := false })
    if t = 1 then
      let s := (s.dropSlot p slot).modPart p (fun q => { q with binding := { q.binding with nextSlot := slot + 1 } })
      let y : Xfer := { source := p, module := b.module, id := x.id, blocks := (x.total + 4095) / 4096 }
      { s with xfers := s.xfers ++ [y] }.pumpXfers
    else s

/-! ### The degraded plan -/

/-- Rows of partition p that run reduced (R316). -/
def State.reducedRows (s : State) (p : Nat) : List Nat :=
  (s.part p).rowList.filter (fun r => (s.activeSites r).length < s.grade)

/-- The first entry of the table that fits the losses (R319). -/
def State.degraded (s : State) (p : Nat) : Option DegEntry :=
  let q := s.part p
  let mask := (q.rcv.lost.map (fun m => 2 ^ m)).sum
  (q.rcv.table).find? (fun e =>
    e.lost == mask && (s.reducedRows p).all (fun r => bit e.rows r && e.minActive ≤ (s.activeSites r).length))

/-- s with plan_id and words selected: Caddy entry and the selector in the slice (R319). -/
def State.selectPlan (s : State) (p plan : Nat) (words : List Nat) : State :=
  let s := (s.modRcv p (fun r => { r with selected := plan })).setVal (0x3080 + 256 * p) 4 (le 4 plan)
  let a := s.pval p 0x80 5
  if a = 0 then s else s.wr p a ((plan :: words).flatMap (le 4))

/-- s with partition p in Safe-stop for a status that is queued (R341). -/
def State.stopWith (s : State) (p status : Nat) : State :=
  (s.raise { status := status, part := p }).enterSafeStop p status

/-! ### Rollback -/

/-- The target of a rollback: the newest committed sachet in tier 1, then in tier 2; its tier (R310). -/
def State.target (s : State) (p : Nat) (sel : Sachet → Bool) : Option (Sachet × Nat) :=
  let q := s.part p
  let t1 := q.rcv.sachets.find? (fun x => x.committed && x.tier1 && sel x && !(s.portsTo x.holder).isEmpty)
  let t2 := q.rcv.sachets.find? (fun x => x.committed && x.tier2 && sel x && s.flashUp)
  match t1 with
  | some x => some (x, 1)
  | none => t2.map (fun x => (x, 2))

/-- The target of the rollback of partition p: the sachet that was being captured when it began, once it has landed, else the newest
committed one, of the group epoch that another member's word names (R310 step 2). -/
def State.rollbackTarget (s : State) (p : Nat) (b : Rollback) : Option (Sachet × Nat) :=
  let fits := fun (x : Sachet) => match b.groupEpoch with | some e => x.groupEpoch == e | none => true
  match (s.part p).rcv.sachets.find? (fun x => b.captured == some x.id && fits x) with
  | some x =>
    if x.tier1 && !(s.portsTo x.holder).isEmpty then some (x, 1) else if x.tier2 && s.flashUp then some (x, 2) else s.target p fits
  | none => s.target p fits

/-- s with the target of partition p's rollback chosen (R310 step 2), once no capture is under way; the member of a group that rolls
back first sends the ROLLBACK word. Without a target: Safe-stop with 0x7302. -/
def State.chooseTarget (s : State) (p : Nat) : State :=
  match (s.part p).rcv.rollback, (s.part p).rcv.capture with
  | some b, none =>
    match s.rollbackTarget p b with
    | none => s.stopWith p 0x7302
    | some (x, t) =>
      let s := s.modRcv p (fun r => { r with rollback := r.rollback.map (fun b => { b with target := some x.id, tier := t }) })
      if s.grouped p && b.groupEpoch.isNone then s.tfbSend 6 [s.group p, x.groupEpoch] else s
  | _, _ => s

/-- s with the decode rounds of partition p given up where they stand (R273, R310). -/
def State.haltRounds (s : State) (p : Nat) : State :=
  (s.boundStreams p).foldl (fun s n =>
    s.modStream n (fun x => { x with cursor := x.cursorNow, rounds := none, cmd := none })) s

/-- s with a rollback of partition p begun (R310 step 1): tensor work stops at its pass boundaries. A sachet that is landing goes on
and becomes the target; a capture that still waits for lists is given up; a run to a stop that asked for it asks again after the
rollback (R47, R86). -/
def State.beginRollback (s : State) (p cause : Nat) (groupEpoch : Option Nat) : State :=
  if (s.part p).rcv.rollback.isSome then s
  else
    let s := s.modRings p (fun r => { r with consuming := false })
    let s := ((((s.loseOutputs p).preemptAll p).stopLists p 0x6402)).haltRounds p
    let waits := ((s.part p).rcv.capture.map (fun c => c.phase == 0)).getD false
    let s := if waits && (s.part p).runTo == .sachet then s.modPart p (fun q => { q with runTo := .barrier (s.partEpoch p) }) else s
    let s := s.modRcv p (fun r =>
      { r with
        rollback := some { cause := cause, groupEpoch := groupEpoch }
        capture := r.capture.bind (fun c => if c.phase = 0 then none else some { c with cmds := [] }) })
    (s.count (partCounters p) ctrRollbacks 1).chooseTarget p

/-- s with every cluster of partition p in wide mode and without retained block, resume record or recovery record (R129, R310 step 4); what
pending ledger entries of the work before wait for is forgotten (log 53). -/
def State.wideAll (s : State) (p : Nat) : State :=
  let s := { s with pendingSrc := s.pendingSrc.filter (fun e => e.1 / 1024 != p) }
  (s.partSites p).foldl (fun s i => s.modSite i (fun x =>
    { x with mode := 0, retained := none, resume := none, record := {}, sinceFence := [], nonRepeat := false })) s

/-- s with a sachet's regions, and its ledger, put back into the slice (R310 step 3). -/
def State.restoreRegions (s : State) (p : Nat) (x : Sachet) (ledger : List (Nat × Nat)) : State :=
  (x.regions ++ ledger).foldl (fun s r => s.store p r.1 ((List.range r.2).map (fun i => Mem.get x.data (r.1 + i)))) s

/-- s with the schedule section of a sachet restored: epochs, lanes, steps; with one of an earlier layout only the
partition-barrier and group epochs (R100, R306, R310, R312). -/
def State.restoreSchedule (s : State) (p : Nat) (x : Sachet) (whole : Bool) : State :=
  s.modPart p (fun q =>
    { q with
      fences := { closed := if whole then x.sched.closed else x.sched.closed.filter (fun e => e.1 / 16777216 == 3 || e.1 / 16777216 == 5) }
      laneDone := if whole then x.sched.lanes else []
      rcv := { q.rcv with steps := x.sched.steps, written := x.sched.written, sinceLast := 0, dirty := false } })

/-- s with the chive set of partition p cut to what its active clusters allow: the highest numbers lapse (R56). -/
def State.lapseChive (s : State) (p : Nat) : State :=
  s.modPart p (fun q => { q with chive := (q.chive.mergeSort (· ≤ ·)).take ((s.partClusters p).length / 8) })

/-- The cursor of stream n in a sachet (R306). -/
def Sched.cursor (x : Sched) (n : Nat) : Nat × Nat × Nat :=
  match x.streams.find? (fun l => l.headD 128 == n) with
  | some l => (l.getD 2 0, l.getD 3 0, l.getD 4 0)
  | none => (0, 0, 0)

/-- s with the streams of partition p after a rollback to sachet x: those from a port are closed with 0x6402, the others keep their
binding, give up their rounds and stand at the sachet's cursor (R306, R310, R311). -/
def State.rewindStreams (s : State) (p : Nat) (x : Sachet) : State :=
  (s.boundStreams p).foldl (fun s n =>
    if field (s.stream n).desc 5 1 = 0 then s.closeStream n 0x6402
    else s.modStream n (fun y => { y with rounds := none, cmd := none, samples := [], cursor := x.sched.cursor n })) s

/-! ### Running to a stop -/

/-- Barrier reached, or nothing left that could reach it (R47, R86, log 29). -/
def State.barrierMet (s : State) (p e : Nat) : Bool := s.partEpoch p != e || (s.part p).lists.isEmpty

/-- A sachet is written: at the drain of a T partition with a sachet interval (R47), at the host loss of any T partition
(R86). -/
def State.writesSachet (s : State) (p : Nat) : Bool :=
  (s.part p).mode == 0 && ((s.part p).interval != 0 || (s.part p).state == .hostLost)

/-- s with partition p's run to a stop set. -/
def State.setRunTo (s : State) (p : Nat) (r : RunTo) : State := s.modPart p (fun q => { q with runTo := r })

/-- One move of the run of a Draining or Host-lost partition (R47, R86). -/
def State.progressOnce (s : State) (p : Nat) : State :=
  let q := s.part p
  let drain := q.state == .draining
  let lost := q.state == .hostLost
  if !(drain || lost) || q.rcv.rollback.isSome then s
  else
    match q.runTo with
    | .barrier e =>
      if s.barrierMet p e then
        let s := if lost then (s.modLease p (fun l => { l with lostEpoch := s.partEpoch p })).syncHeader p else s
        if s.writesSachet p then (s.beginCapture p none).setRunTo p .sachet
        else s.setRunTo p (if drain then .lists else .ended)
      else s
    | .streams =>
      if (s.boundStreams p).isEmpty then s.setRunTo p .lists else s
    | .lists =>
      let s := if q.lists.isEmpty && drain then s.closingStreams p true else s
      if q.lists.isEmpty && (s.boundStreams p).isEmpty && q.rcv.fills.isEmpty && q.rcv.capture.isNone && drain then
        s.enterIdle p
      else s
    | .ended => if drain then s.setRunTo p .lists else if q.lease.state = 3 then s.resumeHost p else s
    | _ => s

/-- s with the run of partition p to a stop taken as far as it goes. -/
def State.progress (s : State) (p : Nat) : State :=
  ((((s.pumpAll p).progressOnce p).progressOnce p).progressOnce p).progressOnce p

/-! ### End of a rollback -/

/-- s with partition p's rollback finished when the restore and every fill are done (R310 steps 5 and 6, R315). -/
def State.finishRollback (s : State) (p : Nat) : State :=
  let q := s.part p
  match q.rcv.rollback with
  | none => s
  | some b =>
    if !b.restored || !q.rcv.fills.isEmpty then s
    else
      let lossy := !(s.reducedRows p).isEmpty || !q.rcv.lost.isEmpty
      let pick : Option (Nat × List Nat) :=
        if lossy then (s.degraded p).map (fun e => (e.plan, e.words)) else some (0, [0, 0, 0, 0])
      match pick with
      | none => s.stopWith p 0x7301
      | some (plan, words) =>
        let s := (s.lapseChive p).selectPlan p plan words
        let s := s.modRcv p (fun r => { r with rollback := none, lastRollback := b.target.getD 0 })
        let s := s.setVal (0x3080 + 256 * p) 2 (le 8 (b.target.getD 0))
        let s := s.out (.msix (p + 1) 1)
        if q.state = .running then s.modRings p (fun r => { r with consuming := true }) else s.progress p

/-! ### Reclaim -/

/-- s with the scrub of a reclaim begun: what is left of the partition's work is stopped as by Abort (R324). -/
def State.startScrub (s : State) (p : Nat) : State :=
  let s := (s.stopWork p 0x1107).phaseDone p
  let s := s.modPart p (fun q => { q with runTo := .none, after := some .handover, scrubTick := s.time.ticks })
  s.modRcv p (fun r =>
    { r with
      force := false, rollback := none
      reclaim := r.reclaim.map (fun c => { c with phase := 2, phaseStart := s.time.ticks }) })

/-- The fence phase ends without a sachet (R324, R327): the partition is stopped as by Abort and 0x3109 is logged. -/
def State.fenceAbort (s : State) (p : Nat) : State :=
  ((s.stopWork p 0x1107).note p 0x3109 |>.count (partCounters p) ctrFenceAborts 1).startScrub p

/-- s with the sachet of a stop ended, landed or not: what waits for it goes on (R47, R86, R310, R324). -/
def State.sachetEnded (s : State) (p : Nat) : State :=
  let q := s.part p
  if (q.rcv.rollback.map (fun b => b.target.isNone)).getD false then
    (if q.runTo == .sachet then s.setRunTo p .ended else s).chooseTarget p
  else if (q.rcv.reclaim.map (fun c => c.phase == 1)).getD false then s.startScrub p
  else if q.runTo == .sachet then (s.setRunTo p .ended).progress p
  else s.progress p

/-- s with a group's landing recorded, and the sachet of that epoch committed once every member has landed (R309). -/
def State.groupLanded (s : State) (p source epoch : Nat) : State :=
  let s := s.modRcv p (fun r =>
    { r with landings := if r.landings.contains (source, epoch) then r.landings else (source, epoch) :: r.landings })
  let r := (s.part p).rcv
  let n := (r.landings.filter (fun e => e.2 == epoch)).length
  match r.sachets.find? (fun x => x.landed && !x.committed && x.groupEpoch == epoch) with
  | some x =>
    if s.pval p 0x50 2 ≤ n then
      (s.modRcv p (fun r => { r with sachets := r.sachets.map (fun y => if y.id = x.id then { y with committed := true } else y) })).setVal
        (0x3020 + 256 * p) 0x11 (le 8 x.id)
    else s
  | none => s

/-- A sachet has landed in its tier (R304 step 5, R307, R309): the tiers behind it take it in place of an older one. -/
def State.landSachet (s : State) (p : Nat) : State :=
  match (s.part p).rcv.capture with
  | some c =>
    match c.sachet with
    | none => s
    | some x =>
      let grouped := s.grouped p
      let x := { x with landed := true, tier1 := c.tier == 1, tier2 := c.tier == 2, committed := !grouped }
      let i := 0x3020 + 256 * p
      let s := s.modRcv p (fun r =>
        { r with
          sachets := x :: (if c.tier = 2 then r.sachets.map (fun y => { y with tier2 := false }) else r.sachets)
          sinceLast := 0, written := r.written + 1, force := false
          tier2Next := if c.tier = 1 && s.tier2Ready p then some x.id else none
          tier3Next := if s.tierOn p 3 && s.pval p 0x20 5 != 0xFF then some x.id else none
          rollback := r.rollback.map (fun b => if b.target.isNone then { b with captured := some x.id } else b) })
      let s := s.setVal i 0x10 (le 8 x.id)
      let s := if grouped then (s.tfbSend 5 [s.group p, x.groupEpoch, p]).groupLanded p s.address x.groupEpoch else s.setVal i 0x11 (le 8 x.id)
      let s := if c.tier = 2 then s.setVal i 0x12 (le 8 x.id) else s
      let s := (s.count (partCounters p) ctrSachetsWritten 1).count (partCounters p) (ctrLandedTier c.tier) 1
      let b := (s.part p).binding
      let s : State := match b.release with
        | some m => if c.tier = 1 ∧ m = b.module then s else
            ((s.sendTo m 0x23 p [p]).dropHolder p m).modPart p (fun q => { q with binding := { q.binding with release := none } })
        | none => s
      let s := if (s.part p).state = .hostLost ∧ (s.part p).runTo = .sachet then
          (s.modLease p (fun l => { l with lostSachet := x.id })).syncHeader p
        else s
      let s := { s with xfers := s.xfers.filter (fun x => x.source != p) }
      ((s.pruneSachets p).endCapture p 0).sachetEnded p
  | none => s

/-- Every block of the sachet of partition p that is landing is confirmed; a write to flash has no confirmations (R309). -/
def State.allConfirmed (s : State) (p : Nat) : Bool :=
  s.xfers.all (fun x => x.source != p || x.done == x.blocks)

/-- s with the tier-1 landing of partition p given up for a status (R305, R317, R327): in the sachet phase of a reclaim it
starts again to tier 2 where that is enabled, else the sachet is abandoned. -/
def State.landingFailed (s : State) (p status : Nat) : State :=
  let s := { s with xfers := s.xfers.filter (fun x => x.source != p) }
  let q := s.part p
  if q.rcv.capture.isNone then s
  else if status ≠ 0x2201 && (q.rcv.reclaim.map (fun c => c.phase == 1)).getD false && s.tier2Ready p then
    s.modRcv p (fun r => { r with capture := r.capture.map (fun c => { c with tier := 2 }) })
  else (((s.modRcv p (fun r => { r with dirty := true })).count (partCounters p) ctrAbandoned 1).endCapture p status).sachetEnded p

/-- The service mode a reclaim request goes by: the one in effect, for an Idle partition the one its entry names (R68). -/
def State.modeOf (s : State) (p : Nat) : Nat :=
  if (s.part p).state = .idle then s.pval p 0x10 1 else (s.part p).mode

/-- A reclaim of partition p is requested (R54, R68, R323 to R325, R327). Its lease is watched no more (R89, log 87). -/
def State.reclaim (s : State) (p : Nat) (group : Bool) : State :=
  let q := s.part p
  if q.state = .unassigned ∨ s.modeOf p ≠ 0 then s
  else
    let s := s.count (partCounters p) ctrReclaims 1
    if q.state = .reclaiming ∨ q.state = .safeStop then s
    else
      let s := s.modRcv p (fun r =>
        { r with reclaim := some { t0 := s.time.ticks, phase := 0, phaseStart := s.time.ticks }, force := true })
      let s := s.modRings p (fun r => { r with consuming := false })
      let s := s.publish p
      let s := if group && s.grouped p then s.tfbSend 7 [s.group p, p] else s
      let s := (s.disarm p).setPState p .reclaiming
      let s := s.setRunTo p .none
      if q.state = .scrubbing then
        (s.modPart p (fun q => { q with after := some .handover })).modRcv p (fun r =>
          { r with force := false, reclaim := r.reclaim.map (fun c => { c with phase := 2 }) })
      else if q.rcv.rollback.isSome then (s.abandonSachet p).startScrub p
      else if q.rcv.capture.isSome then
        s.modRcv p (fun r => { r with reclaim := r.reclaim.map (fun c => { c with phase := 1 }) })
      else if q.state = .idle then (if q.rcv.dirty && !q.rcv.plan.isEmpty then s.beginCapture p none else s.startScrub p)
      else if q.state = .hostLost ∧ !q.rcv.dirty then s.startScrub p
      else s

/-! ### Spare fills -/

/-- Sites taken by fills in progress. -/
def State.taken (s : State) : List Nat := [0, 1, 2, 3, 4].flatMap (fun p => (s.part p).rcv.fills.map (·.spare))

/-- The spare of a row nearest in physical column to a failed site, the western one on a tie (R315 step 3). -/
def State.nearestSpare (s : State) (site : Nat) : Option Nat :=
  let dist := fun (i : Nat) => if i < site then site - i else i - site
  (((List.range 42).map (fun c => site / 42 * 42 + c)).filter (fun i => s.siteSt i == 1 && !s.taken.contains i)).foldl
    (fun best i =>
      match best with
      | none => some i
      | some b => if dist i < dist b then some i else some b) none

/-- s with the spare map changed (R314). -/
def State.mapChanged (s : State) : State := { s with spareGen := s.spareGen + 1, spareTime := s.now }

/-- s with a site's memory lost and its own state fresh (R171, R315). -/
def State.freshSite (s : State) (i : Nat) : State :=
  (s.scrubWhere (onSites [i]) []).modSite i (fun x => { columns := x.columns, coreFaults := x.coreFaults })

/-- The key under which fills of a row are held: its partition, or 4 for a row that no partition owns. -/
def State.fillKey (s : State) (site : Nat) : Nat := (s.partOfRow (site / 42)).getD 4

/-- s with a spare taken for a failed site, or the row left reduced (R315 steps 3 and 4, R316). st is the state that the
spare map gives the failed site. -/
def State.takeSpare (s : State) (failed st : Nat) : State :=
  let k := s.fillKey failed
  match s.nearestSpare failed with
  | some i => (s.freshSite i).modRcv k (fun r => { r with fills := r.fills ++ [{ failed := failed, spare := i, mark := st }] })
  | none =>
    let s := s.raise { status := 0x6404, part := if k < 4 then k else 0xFF, unitKind := 1, unit := siteUnit failed }
    { s with siteState := Tab.set s.siteState failed st }.mapChanged

/-- The k at which cluster site i wakes in a partition of a service mode: the safe frequency while the governor holds (R424),
else the current k of the clusters of its class, as far as its band's clock allows (R429; log 64). -/
def State.wakeK (s : State) (mode i : Nat) : Nat :=
  if s.power.governor then 64 - 96000 / s.siteClock i
  else
    let peers := partNumbers.filter (fun x => (s.part x).state.works && (s.part x).mode == mode)
    min (kMax (s.siteClock i)) ((peers.flatMap s.partSites).foldl (fun m j => max m (s.site j).k) 0)

/-- A spare's self-test has ended (R315 steps 5 and 6, R317). -/
def State.spareTested (s : State) (site : Nat) (passed : Bool) : State :=
  match [0, 1, 2, 3, 4].find? (fun p => (s.part p).rcv.fills.any (fun f => f.spare == site)) with
  | none => s
  | some k =>
    match (s.part k).rcv.fills.find? (fun f => f.spare == site) with
    | none => s
    | some f =>
      let st := f.mark
      let s := s.modRcv k (fun r => { r with fills := r.fills.filter (fun g => g.spare != site) })
      if passed then
        let s := { s with siteState := Tab.set (Tab.set s.siteState f.failed st) site 0 }.mapChanged
        let s := (s.freshSite site).modSite site (fun x => { x with k := if k < 4 then s.wakeK (s.part k).mode site else 0 })
        let s := s.count (partCounters k) ctrFills 1
        (s.finishRollback k).progress k
      else
        let s := { s with siteState := Tab.set s.siteState site 2 }.mapChanged
        let s := s.raise { status := 0x6403, part := if k < 4 then k else 0xFF, unitKind := 1, unit := siteUnit site }
        let s := s.count (partCounters k) ctrFillFailures 1
        ((s.takeSpare f.failed st).finishRollback k).progress k

/-- A cluster has failed (R315, R317, R327): it is isolated, its partition rolls back where it holds work, and a spare is
filled; a spare that fails while it is filled is given up. bypass says that its router failed too (R23). -/
def State.clusterFailed (s : State) (site cause : Nat) (bypass : Bool) : State :=
  if s.siteSt site = 1 then s.spareTested site false
  else if s.siteSt site ≠ 0 ∨ (s.site site).halted && [0, 1, 2, 3, 4].any (fun p => (s.part p).rcv.fills.any (fun f => f.failed == site)) then s
  else
    let k := s.fillKey site
    let st := if bypass then 3 else 2
    let s := s.raise
      { status := 0x6401, part := if k < 4 then k else 0xFF, unitKind := 1, unit := siteUnit site, detail := le 2 cause ++ le 1 st }
    let s := (s.freshSite site).modSite site (fun x => { x with halted := true, gated := true })
    let q := s.part k
    let s := if q.state = .running ∨ q.state = .draining ∨ q.state = .hostLost then s.beginRollback k 0x6401 none
      else if q.state = .reclaiming && (q.rcv.reclaim.map (fun c => c.phase == 0)).getD false then s.fenceAbort k
      else s
    (s.takeSpare site st).finishRollback k

/-! ### Module loss -/

/-- s with module m declared lost (R320, R322): the declaring member queues 0x7303 and tells the others; partitions in a
group roll back to the newest committed group sachet with m in their loss set. -/
def State.declareLost (s : State) (m : Nat) (first : Bool) : State :=
  let hit := partNumbers.filter (fun p =>
    s.grouped p && !(s.part p).rcv.lost.contains m)
  if hit.isEmpty then s
  else
    let s := if first then (s.raise { status := 0x7303, unitKind := 0x0D, unit := m }).tfbSend 4 [m] else s
    hit.foldl (fun s p =>
      let s := s.modRcv p (fun r => { r with lost := m :: r.lost })
      let s := s.moduleWrite (0x3050 + 256 * p) 2 (le 1 (s.pval p 0x50 2 - 1))
      let s := s.dropHolder p m
      let s := if (s.part p).binding.module = m then
          s.modPart p (fun q => { q with binding := { q.binding with bound := false } })
        else s
      if (s.part p).state.works && (s.part p).state != .reclaiming then s.beginRollback p 0x7303 none else s) s

end Sys2Proof.Machine
end

