-- ==== Sys2Proof/Machine/Mesh.lean ====
section
/-!
DEFINITION. The mesh (R22, R23, R27 to R29, R98, R109, R315, R343): routes, planes, packet headers with their sequence
numbers, and what a cluster does with a packet that reaches it.
-/

namespace Sys2Proof.Machine

/-- The bits of a packet header that R98 lays out. -/
def MeshHdr.word (h : MeshHdr) : Nat :=
  h.part % 4 + 4 * (h.tagKind % 2) + 8 * (h.tag % 256) + 2 ^ 16 * (h.seq % 65536) + 2 ^ 32 * (h.fenceEpoch % 2 ^ 32) +
    2 ^ 64 * (h.timestamp % 2 ^ 24) + 2 ^ 88 * (h.check % 16)

/-! ### Routes (R28): a site is row × 42 + column; directions are north 0, east 1, south 2, west 3 (log 67) -/

/-- A site's router is bypassed (R23). -/
def State.bypassed (s : State) (i : Nat) : Bool := s.siteSt i == 3

/-- Hops along a row from a site to a column: the sites passed on leaving, with the direction. -/
def rowHops (site col : Nat) : List (Nat × Nat) :=
  let c := site % 42
  let r := site / 42 * 42
  if c ≤ col then (List.range (col - c)).map (fun k => (r + c + k, 1)) else (List.range (c - col)).map (fun k => (r + c - k, 3))

/-- Hops along a column from a site to a row. -/
def colHops (site row : Nat) : List (Nat × Nat) :=
  let r := site / 42
  let c := site % 42
  if r ≤ row then (List.range (row - r)).map (fun k => ((r + k) * 42 + c, 2)) else (List.range (r - row)).map (fun k => ((r - k) * 42 + c, 0))

/-- The rows from a row toward another, the first left out, the last included. -/
def rowsToward (a b : Nat) : List Nat :=
  if a ≤ b then (List.range (b - a)).map (· + a + 1) else (List.range (a - b)).map (fun k => a - 1 - k)

/-- The row in which a route whose turn is bypassed runs along: the nearest toward the destination in which neither column's
site is bypassed (R28). -/
def State.detourRow (s : State) (src dst : Nat) : Option Nat :=
  (rowsToward (src / 42) (dst / 42)).find? (fun r => !s.bypassed (r * 42 + src % 42) && !s.bypassed (r * 42 + dst % 42))

/-- The links of the route from one site to another: along the row, then along the column; or the detour (R28). None where no
row serves the detour. -/
def State.route (s : State) (src dst : Nat) : Option (List (Nat × Nat)) :=
  let turn := src / 42 * 42 + dst % 42
  if src / 42 ≠ dst / 42 ∧ src % 42 ≠ dst % 42 ∧ s.bypassed turn then
    (s.detourRow src dst).map (fun r =>
      colHops src r ++ rowHops (r * 42 + src % 42) (dst % 42) ++ colHops (r * 42 + dst % 42) (dst / 42))
  else some (rowHops src (dst % 42) ++ colHops turn (dst / 42))

/-- The planes that a route may use: those that are in service on every link of it (R343). -/
def State.planesOf (s : State) (route : List (Nat × Nat)) : List Nat :=
  (List.range 4).filter (fun k => route.all (fun h => !s.boot.pathsOff.contains (pathKey 0 ((h.1 * 4 + h.2) * 4 + k))))

/-! ### Packets -/

/-- s with the mesh changed by f. -/
def State.modMesh (s : State) (f : Mesh → Mesh) : State := { s with boot := { s.boot with mesh := f s.boot.mesh } }

/-- s with a packet dropped at site i and counted (R29, R315). -/
def State.dropPacket (s : State) (i : Nat) : State :=
  s.modMesh (fun m => { m with dropped := Tab.mod m.dropped 0 i (fun n => (n + 1) % 4294967296) })

/-- s with a packet that has reached site i: one of another partition than the cluster's is dropped, counted and logged with
its source site (R29), one for a cluster that is isolated is dropped and counted (R315), another is taken. -/
def State.takePacket (s : State) (i : Nat) (h : MeshHdr) : State :=
  if (s.site i).halted then s.dropPacket i
  else if s.partOfRow (i / 42) ≠ some h.part then
    (s.dropPacket i).logRecord
      { seq := 0, kind := 2, unit := 0x10000 + siteUnit i, part := (s.partOfRow (i / 42)).getD 0xFF
        event := Config.meshDropEvent.toNat, route := 4, tLogged := 0, detail := le 2 (siteUnit h.source) } false
  else s.modMesh (fun m => { m with last := Tab.set m.last i h })

/-- s with a packet injected at a source site for partition p, to an address of a destination site: its plane is picked by the
hash of the address among those in service (R28, R343), and packets of one source, destination and plane are numbered (R98,
R109). Nothing is injected or ejected at a bypassed site (R23). -/
def State.sendPacket (s : State) (src dst p addr kind : Nat) : State :=
  match s.route src dst with
  | none => s.dropPacket src
  | some route =>
    let planes := s.planesOf route
    if planes.isEmpty ∨ s.bypassed src ∨ s.bypassed dst then s.dropPacket src
    else
      let k := planes.getD ((Config.planeHash addr).toNat % planes.length) 0
      let key := (src * 1260 + dst) * 4 + k
      let n := Tab.get s.boot.mesh.seqs 0 key
      let h : MeshHdr :=
        { source := src, dest := dst, plane := k, part := p, tag := kind, seq := n, fenceEpoch := s.partEpoch p
          timestamp := s.now % 16777216 }
      (s.modMesh (fun m => { m with seqs := Tab.set m.seqs key ((n + 1) % 65536) })).takePacket dst h

/-- The site whose on-plane memory holds a partition address. -/
def State.siteAt (s : State) (a : Nat) : Option Nat := if a < planeBase then none else s.siteOf ((a - planeBase) / planeStep)

/-- s with the mesh packets of a move command of cluster n: one from every other cluster that it reads from, one to every other
cluster that it writes to (log 89). -/
def State.movePackets (s : State) (p n : Nat) (reads writes : List Nat) : State :=
  match s.siteOf n with
  | none => s
  | some i =>
    let s := (reads.filterMap (fun a => (s.siteAt a).map (fun j => (j, a)))).foldl (fun s e =>
      if e.1 = i then s else s.sendPacket e.1 i p e.2 3) s
    (writes.filterMap (fun a => (s.siteAt a).map (fun j => (j, a)))).foldl (fun s e =>
      if e.1 = i then s else s.sendPacket i e.1 p e.2 3) s

end Sys2Proof.Machine
end

