-- ==== Sys2Proof/Machine/Tiling.lean ====
section
/-!
DEFINITION. What a tensor command's levels, shapes and addresses come to at run time (R146 to R149, R155, R160 to R165, R169,
R170, R197): pure functions of what the dispatcher read.
-/

namespace Sys2Proof.Machine

/-- A tensor command as the dispatcher read it (R142, R163, R155): its descriptors, its run-time bounds, and the entries of
the pointer lists of A, Y, I and X. -/
structure TView where
  cmd : Cmd
  loop : Loop
  bufs : Bufs
  spat : Option Spatial
  bounds : List Nat
  aList : List Nat
  yList : List Nat
  iList : List Nat
  xList : List Nat
deriving DecidableEq, Repr

/-- The U64 entries of a pointer list. -/
def u64s (bs : List Byte) : List Nat := (List.range (bs.length / 8)).map (fun i => field bs (8 * i) 8)

/-- The bound of a level with a shape vector (R163). -/
def Level.boundAt (l : Level) (shape : List Byte) : Nat := if l.dynamic then field shape (4 * l.entry) 4 else l.bound

/-- The view of a command over the structures held for it: loop descriptor, buffer set, spatial descriptor, shape vector,
lists of A, Y, I and X. -/
def Cmd.view (c : Cmd) (held : List (List Byte)) : TView :=
  let l := Loop.ofBytes (held.getD 0 [])
  { cmd := c, loop := l, bufs := Bufs.ofBytes (held.getD 1 [])
    spat := if c.opcode = 2 then some (Spatial.ofBytes (held.getD 2 [])) else none
    bounds := l.levels.map (fun v => v.boundAt (held.getD 3 []))
    aList := u64s (held.getD 4 []), yList := u64s (held.getD 5 []), iList := u64s (held.getD 6 [])
    xList := u64s (held.getD 7 []) }

/-- Levels with their run-time bounds. -/
def TView.lv (v : TView) : List (Level × Nat) := v.loop.levels.zip v.bounds

/-- Product of the bounds of some levels. -/
def boundsOf (ls : List (Level × Nat)) : Nat := prod (ls.map (·.2))

/-- Levels by placement: sequential, arrays. -/
def TView.seqs (v : TView) : List (Level × Nat) := v.lv.filter (fun x => x.1.place == 0)
def TView.arrs (v : TView) : List (Level × Nat) := v.lv.filter (fun x => x.1.place == 1)

/-- The index of the cluster-index level (R149). -/
def TView.cidx (v : TView) : Nat := v.cmd.arg3 % 65536

/-- Runs on a First-Layer Engine (R213); is a pooling command (R204). -/
def TView.fle (v : TView) : Bool := (v.spat.map (fun x => x.engine == 1)).getD false
def TView.pool (v : TView) : Bool := (v.spat.map (fun x => x.kind != 0)).getD false

/-- Passes of the command in each array, and arrays that take part (R147, R148). -/
def TView.passes (v : TView) : Nat := boundsOf v.seqs
def TView.arrays (v : TView) : Nat := boundsOf v.arrs

/-- Index of a level in pass j of array a (R147 to R149). -/
def TView.idx (v : TView) (x : Level × Nat) (j a : Nat) : Nat :=
  if x.1.place = 0 then j / boundsOf (v.seqs.filter (fun y => y.1.nest < x.1.nest)) % max 1 x.2
  else if x.1.place = 1 then a / boundsOf (v.arrs.filter (fun y => y.1.nest < x.1.nest)) % max 1 x.2
  else v.cidx

/-- The level that spatial groups walk (R199). -/
def TView.isGroup (v : TView) (l : Level) : Bool :=
  match v.spat with
  | some x => x.groupLevel != 255 && (v.loop.levels[x.groupLevel]?) == some l
  | none => false

/-- Is the bound of some level zero (R165). -/
def TView.zero (v : TView) : Bool := v.bounds.any (· == 0)

/-- The base of an operand in pass j of array a: its entry's base, or the pointer that its flagged level names (R155). -/
def TView.base (v : TView) (flag : Level → Bool) (e : BufEnt) (list : List Nat) (j a : Nat) : Nat :=
  match v.lv.find? (fun x => flag x.1) with
  | some x => list.getD (v.idx x j a) 0
  | none => e.base

/-- Sum of index × stride over the levels that are not skipped (R149). -/
def TView.offset (v : TView) (stride : Level → Int) (skip : Level → Bool) (j a : Nat) : Int :=
  (v.lv.map (fun x => if skip x.1 then 0 else (v.idx x j a : Int) * stride x.1)).sum

/-- Address of A (R149); in a spatial command the image base (R197). -/
def TView.addrA (v : TView) (j a : Nat) : Nat :=
  ((v.base Level.ptrA v.bufs.a v.aList j a : Int) + v.offset Level.sa (fun l => l.ptrA || v.isGroup l) j a).toNat

/-- Core-local offset of W (R149). -/
def TView.offW (v : TView) (j a : Nat) : Nat := ((v.bufs.w.base : Int) + v.offset Level.sw (fun _ => false) j a).toNat

/-- Addresses of Y, I and X (R149). -/
def TView.addrY (v : TView) (j a : Nat) : Nat :=
  ((v.base Level.ptrY v.bufs.y v.yList j a : Int) + v.offset Level.sy Level.ptrY j a).toNat
def TView.addrI (v : TView) (j a : Nat) : Nat :=
  ((v.base Level.ptrY v.bufs.i v.iList j a : Int) + v.offset Level.sy Level.ptrY j a).toNat
/-- Levels whose stride X does not take: those of its pointer list, and under row broadcast the M levels, since X is then the one
row of every output row (R149, R175). -/
def TView.xSkip (v : TView) (l : Level) : Bool := l.ptrY || (v.bufs.rowX && l.dim == 0)
def TView.addrX (v : TView) (j a : Nat) : Nat :=
  ((v.base Level.ptrY v.bufs.x v.xList j a : Int) + v.offset Level.sy v.xSkip j a).toNat

/-- Index in a dimension of the first row or column of pass j: each level's index times its span, the innermost span being
the pass extent (R197). -/
def TView.dimIndex (v : TView) (d pass j a : Nat) : Nat :=
  ((v.lv.filter (fun x => x.1.dim == d)).map (fun x =>
    v.idx x j a * (pass * boundsOf (v.lv.filter (fun y => y.1.dim == d && y.1.nest < x.1.nest))))).sum

/-- Index of the group (R199). -/
def TView.group (v : TView) (j a : Nat) : Nat :=
  ((v.lv.find? (fun x => v.isGroup x.1)).map (fun x => v.idx x j a)).getD 0

/-! ### k-ranges, footprint and slots -/

/-- Sequential K levels (R147). -/
def TView.kSeqs (v : TView) : List (Level × Nat) := v.seqs.filter (fun x => x.1.dim == 2)

/-- First and last pass of a k-range (R122, R147). -/
def TView.opens (v : TView) (j : Nat) : Bool := v.kSeqs.all (fun x => v.idx x j 0 == 0)
def TView.closes (v : TView) (j : Nat) : Bool := v.kSeqs.all (fun x => v.idx x j 0 + 1 == x.2)

/-- Nest of the outermost sequential K level. -/
def TView.kNest (v : TView) : Option Nat :=
  v.kSeqs.foldl (fun best x => match best with | none => some x.1.nest | some b => some (max b x.1.nest)) none

/-- Sequential M, N and B levels inside the outermost sequential K level, and sequential levels outside it (R160). -/
def TView.inner (v : TView) : List (Level × Nat) :=
  match v.kNest with
  | some k => v.seqs.filter (fun x => x.1.dim != 2 && x.1.nest < k)
  | none => []
def TView.outer (v : TView) : List (Level × Nat) :=
  match v.kNest with
  | some k => v.seqs.filter (fun x => k < x.1.nest)
  | none => v.seqs

/-- Index of pass j in mixed radix over some sequential levels, the lowest nest changing fastest. -/
def TView.radix (v : TView) (ls : List (Level × Nat)) (j : Nat) : Nat :=
  (ls.map (fun x => v.idx x j 0 * boundsOf (ls.filter (fun y => y.1.nest < x.1.nest)))).sum

/-- Rows of output that one accumulator holds of a pass (R160). -/
def tileRows (mode : Nat) : Nat := if mode = 0 then 128 else if mode = 2 then 32 else 16

/-- Tiles per core of one pass, the k-range group, the footprint and the staging need (R160). -/
def TView.t (v : TView) : Nat := (v.loop.passM + tileRows v.loop.mode - 1) / tileRows v.loop.mode
def TView.g (v : TView) : Nat := v.t * boundsOf v.inner
def TView.footprint (v : TView) : Nat := if v.outer.isEmpty then v.g else 2 * v.g
def TView.staging (v : TView) : Nat := if v.bufs.y.loc = 0 then 0 else if v.bufs.xOp = 0 then 1 else 2

/-- First slot of pass j with the command's base (R170). -/
def TView.slot (v : TView) (base j : Nat) : Nat :=
  base + (if v.outer.isEmpty then 0 else v.radix v.outer j % 2 * v.g) + v.t * v.radix v.inner j

/-- Core row and logical core column of output (m, n) of array a, and its slot within the pass (R169). -/
def tileCore (mode a m n : Nat) : Nat × Nat :=
  if mode = 0 then (m / 16 % 8, n / 16)
  else if mode = 1 then (a / 32, a % 32)
  else (2 * (a / 16) + m / 16 % 2, 2 * (a % 16) + n / 16)
def tileSlot (mode m : Nat) : Nat := if mode = 0 then m / 128 else if mode = 1 then m / 16 else m / 32

/-- Core row and logical core column that hold stationary cell (k, n) of array a (R114, R127). -/
def cellCore (mode a k n : Nat) : Nat × Nat :=
  if mode = 0 then (k / 16, n / 16)
  else if mode = 1 then (a / 32, a % 32)
  else (2 * (a / 16) + k / 16, 2 * (a % 16) + n / 16)

/-! ### Taps of a spatial command -/

/-- What streaming element (m, k) of a spatial command reads (R197 to R203). -/
inductive Tap where
  /-- Nothing: a skipped tap or an excess k, its MAC gated. -/
  | gated
  /-- The descriptor's constant. -/
  | constant
  /-- An input element: bit offset of its pixel from the image base, and its channel. -/
  | data (off : Nat) (channel : Nat)
deriving DecidableEq, Repr

/-- Channels of a group. -/
def Spatial.cg (x : Spatial) : Nat := x.inC / max 1 x.groups

/-- The window tap (kh, kw) of output pixel m: input pixel, none when padded (R197, R200). -/
def Spatial.pixel (x : Spatial) (m kh kw : Nat) : Option (Nat × Nat) :=
  let ih : Int := ((m / x.outW * x.sH + kh * x.dH : Nat) : Int) - x.padT
  let iw : Int := ((m % x.outW * x.sW + kw * x.dW : Nat) : Int) - x.padL
  if 0 ≤ ih ∧ ih < x.inH ∧ 0 ≤ iw ∧ iw < x.inW then some (ih.toNat, iw.toNat) else none

/-- Bit offset of a pixel's channels in an image of elements of a width in bits (R195, R123). -/
def Spatial.pixelOff (x : Spatial) (width ih iw : Nat) : Nat := 8 * (ih * x.pitch) + iw * (x.inC * width)

/-- Streaming element (m, k) of group g (R197, R198, R201, R203). -/
def Spatial.tap (x : Spatial) (width g m k : Nat) : Tap :=
  let cg := max 1 x.cg
  if x.kH * x.kW * cg ≤ k then .gated
  else
    match x.pixel m (k / cg / x.kW) (k / cg % x.kW) with
    | some (ih, iw) => .data (x.pixelOff width ih iw) (g * x.cg + k % cg)
    | none => if x.padMode = 1 then .constant else .gated

/-- Lowest and highest of a list of offsets. -/
def minMax (l : List Nat) : Option (Nat × Nat) :=
  l.foldl (fun r x => match r with | none => some (x, x) | some (a, b) => some (min a x, max b x)) none

/-- Bytes of the image that in-data taps of the command read, first and last, over all passes and arrays (R197). -/
def TView.tapRange (v : TView) (x : Spatial) : Option (Nat × Nat) :=
  let w := elemBits v.cmd.fmt
  let cells := (List.range v.passes).flatMap (fun j => (List.range v.arrays).flatMap (fun a =>
    let m0 := v.dimIndex 0 v.loop.passM j a
    let ms := ((List.range v.loop.passM).map (· + m0)).filter (· < x.outH * x.outW)
    if v.pool then
      let c0 := v.dimIndex 1 v.loop.passN j a
      ms.flatMap (fun m => (List.range (x.kH * x.kW)).flatMap (fun t =>
        match x.pixel m (t / x.kW) (t % x.kW) with
        | some (ih, iw) =>
          [(x.pixelOff w ih iw + c0 * w) / 8, (x.pixelOff w ih iw + min x.inC (c0 + v.loop.passN) * w - 1) / 8]
        | none => []))
    else
      let k0 := v.dimIndex 2 v.loop.passK j a
      ms.flatMap (fun m => (List.range v.loop.passK).flatMap (fun k =>
        match x.tap w (v.group j a) m (k0 + k) with
        | .data off c => [(off + c * w) / 8, (off + c * w + w - 1) / 8]
        | _ => []))))
  minMax cells

/-! ### The dispatch checks on shapes (checks 7 and 8) -/

/-- Strides, bounds and cluster-index marks of the levels that count for an operand (R164). -/
def TView.terms (v : TView) (stride : Level → Int) (skip : Level → Bool) : List (Int × Nat × Bool) :=
  (v.lv.filter (fun x => !skip x.1)).map (fun x => (stride x.1, x.2, x.1.place == 2))

/-- Whether a byte range lies in [0, cap), and its MX scales too (R164). -/
def rangeOk (r : Int × Int) (cap scale code : Nat) : Bool :=
  0 ≤ r.1 && r.2 < cap &&
  (!isMx code || (scale * 64 : Nat) + r.2 * 8 / elemBits code / 32 < cap)

/-- Last byte of a tile of n elements a row over pass_m rows (R164). -/
def TView.lastByte (v : TView) (pitch code n : Nat) : Int :=
  ((v.loop.passM - 1) * pitch + elemBytes code n : Nat) - 1

/-- Extents of Y, I or X (R164); X under row broadcast has pitch 0 (R175). -/
def TView.outOk (v : TView) (e : BufEnt) (pitch : Nat) (skip : Level → Bool) : Bool :=
  rangeOk (extent (v.lastByte pitch e.fmt v.loop.passN) (v.terms Level.sy skip) v.cidx) e.cap e.scale e.fmt

/-- Extents of A (R164, R197). -/
def TView.aOk (v : TView) : Bool :=
  match v.spat with
  | none =>
    rangeOk (extent (v.lastByte v.loop.aPitch v.cmd.fmt v.loop.passK) (v.terms Level.sa Level.ptrA) v.cidx)
      v.bufs.a.cap v.bufs.a.scale v.cmd.fmt
  | some x =>
    match v.tapRange x with
    | none => true
    | some (lo, hi) =>
      let r := extent 0 (v.terms Level.sa (fun l => l.ptrA || v.isGroup l)) v.cidx
      rangeOk (r.1 + lo, r.2 + hi) v.bufs.a.cap v.bufs.a.scale v.cmd.fmt

/-- Run-time coverage of a dimension of a spatial command (R197). -/
def TView.covers (v : TView) (d pass need : Nat) : Bool :=
  let ls := v.lv.filter (fun x => x.1.dim == d)
  !anyDynamic (ls.map (·.1)) || (let p := boundsOf ls * pass; need ≤ p && p < need + pass)

/-- The flagged pointer list of an operand has an entry for every iteration (R155). -/
def TView.listFits (v : TView) (flag : Level → Bool) (e : BufEnt) : Bool :=
  (v.lv.filter (fun x => flag x.1)).all (fun x => x.2 ≤ e.count + 1)

/-- Which operands the command touches: with a zero shape only the Y region of write-on-empty, and nothing when an M, N or
B bound is 0 (R165). -/
def TView.fills (v : TView) : Bool :=
  bit v.cmd.flags 0 && v.bufs.storeOp != 0 && v.lv.all (fun x => x.1.dim == 2 || x.2 != 0)
def TView.usesA (v : TView) : Bool := !v.zero && v.cmd.opcode != 5
def TView.usesW (v : TView) : Bool := v.usesA && !v.pool
def TView.usesI (v : TView) : Bool := v.usesA && v.loop.init == 1 && !v.pool
def TView.usesX (v : TView) : Bool := !v.zero && v.bufs.xOp != 0
def TView.usesY (v : TView) : Bool := v.bufs.storeOp != 0 && (!v.zero || v.fills)

/-- The levels that what the command touches depends on: all, the M, N and B levels where a zero shape writes Y, none where it
touches nothing (R165). -/
def TView.touched (v : TView) : List (Level × Nat) :=
  if !v.zero then v.lv else if v.fills then v.lv.filter (fun x => x.1.dim != 2) else []

/-- Check 7 (R149, R155, R163 to R165, R197). -/
def TView.boundsOk (v : TView) : Bool :=
  v.touched.all (fun x => x.2 ≤ 65536 && (x.1.place != 2 || v.cidx < x.2)) &&
  boundsOf (v.touched.filter (fun x => x.1.place == 1)) ≤ (if v.fle then 64 else arraysOf v.loop.mode) &&
  (match v.spat with
    | none => true
    | some x => v.zero || (v.covers 0 v.loop.passM (x.outH * x.outW) &&
        v.covers 1 v.loop.passN (x.outC / max 1 x.groups) && (v.pool || v.covers 2 v.loop.passK (x.kH * x.kW * x.cg)))) &&
  (!v.usesA || (v.listFits Level.ptrA v.bufs.a && v.aOk)) &&
  (!v.usesW || rangeOk (extent (wTile v.cmd.fmt - 1 : Nat) (v.terms Level.sw (fun _ => false)) v.cidx) v.bufs.w.cap 0 1) &&
  (!v.usesY || (v.listFits Level.ptrY v.bufs.y && v.outOk v.bufs.y v.loop.yPitch Level.ptrY)) &&
  (!v.usesI || (v.listFits Level.ptrY v.bufs.i && v.outOk v.bufs.i v.loop.yPitch Level.ptrY)) &&
  (!v.usesX || (v.listFits Level.ptrY v.bufs.x && v.outOk v.bufs.x (if v.bufs.rowX then 0 else v.loop.yPitch) v.xSkip))

/-- Check 8: the footprint with the reserves E and P, or an FLE's 14 slots (R161, R204, R213). -/
def TView.slotsOk (v : TView) (e p : Nat) : Bool :=
  v.zero || v.pool ||
  (if v.fle then v.loop.accBase + v.footprint ≤ 14
   else v.loop.accBase + v.footprint + e + p ≤ 64 && v.staging ≤ e)

end Sys2Proof.Machine
end

