-- ==== Sys2Proof/Machine/Fit.lean ====
section
/-!
DEFINITION. What the dispatcher reads and the dispatch checks 7 to 10 of R84 with those of R142, R149, R155, R160 to R165,
R204, R213, R214, R233, R276, R295.
-/

namespace Sys2Proof.Machine

/-- What the dispatch checks find: 0 or the failing status, and whether the shape is zero (check 10). -/
structure Fit where
  status : Nat := 0
  empty : Bool := false
deriving DecidableEq, Repr

/-- Entries of the pointer list of an operand that the run-time bounds use (R155). -/
def State.listBytes (s : State) (p : Nat) (l : Loop) (shape : List Byte) (flag : Level → Bool) (e : BufEnt) : List Byte :=
  match l.levels.find? flag with
  | some v => s.rd p e.list (8 * min (v.boundAt shape) (e.count + 1))
  | none => []

/-- The structures of a tensor command as they stand at dispatch (R142, R163, R167). -/
def State.readTensor (s : State) (p : Nat) (c : Cmd) : List (List Byte) :=
  let lb := s.rd p c.arg0 192
  let bb := s.rd p c.arg2 192
  let l := Loop.ofBytes lb
  let b := Bufs.ofBytes bb
  let sh := if anyDynamic l.levels then s.rd p l.shape 32 else []
  [lb, bb, if c.opcode = 2 then s.rd p c.arg1 64 else [], sh, s.listBytes p l sh Level.ptrA b.a,
    s.listBytes p l sh Level.ptrY b.y, s.listBytes p l sh Level.ptrY b.i, s.listBytes p l sh Level.ptrY b.x]

/-- What the dispatcher reads for a command (R142, R163, R232, R233, R257, R276, R295, R321). -/
def State.readHeld (s : State) (p : Nat) (c : Cmd) : List (List Byte) :=
  if c.kind = 1 then (if c.opcode = 1 ∨ c.opcode = 2 ∨ c.opcode = 5 then s.readTensor p c else [])
  else if c.kind = 3 ∧ c.opcode = 1 && bit c.arg4 0 then
    ((s.sec.keys.find? (fun k => k.handle == c.arg2 && k.ty == 2 && k.part == p)).map (fun k : Key => k.key)).toList
  else if c.kind = 3 ∧ c.opcode = 4 then
    let d := s.rd p c.arg0 64
    let r := Recompute.ofBytes d
    d :: s.rd p r.overrides (8 * r.count) :: (List.range r.count).map (fun i => s.rd p (r.list + 64 * i) 64)
  else if c.kind = 4 then
    (if c.opcode ≤ 3 then [s.rd p c.arg0 128] else if bits c.arg4 1 0 = 1 then [s.rd p c.arg0 64] else [])
  else if c.kind = 5 ∧ c.opcode = 2 then [(s.blockListAt p c.arg0).getD []]
  else if c.kind = 6 then
    let d := s.rd p c.arg0 64
    let x := Gather.ofBytes d
    let n := min x.count 1048576
    [d, s.rd p x.list (4 * n), if c.opcode = 2 then s.rd p x.bags (4 * n) else []]
  else []

/-- The CRC fields equal those read at acceptance, and the structures still carry their own CRC (R142, R167, log 26). -/
def crcsSame (c : Cmd) (crcs : List Nat) (held : List (List Byte)) : Bool :=
  let h := fun (i : Nat) => held.getD i []
  if c.kind = 1 then
    held.isEmpty ||
    (crcs == [field (h 0) 0xBC 4, field (h 1) 0x1C 4, if c.opcode = 2 then field (h 2) 0x3C 4 else 0] &&
      crcOk (h 0) 0xBC && bufsCrcOk (h 1) && (c.opcode != 2 || crcOk (h 2) 0x3C))
  else if c.kind = 4 then
    held.isEmpty ||
    (if c.opcode ≤ 3 then crcs == [field (h 0) 0x7C 4] && crcOk (h 0) 0x7C
     else crcs == [field (h 0) 0x3C 4] && crcOk (h 0) 0x3C)
  else if c.kind = 5 then held.isEmpty || (crcs == [field (h 0) 0x3C 4] && tableCrcOk (h 0))
  else if c.kind = 6 then crcs == [field (h 0) 0x3C 4] && crcOk (h 0) 0x3C
  else true

/-- Regions that the used entries of a pointer list name lie where ok says (R155, check 9). -/
def TView.regionsOk (v : TView) (used : Bool) (flag : Level → Bool) (list : List Nat) (ok : Nat → Bool) : Bool :=
  !used || (v.lv.filter (fun x => flag x.1)).all (fun x =>
    ((List.range x.2).filter (fun i => x.1.place != 2 || i == v.cidx)).all (fun i => ok (list.getD i 0)))

/-- Where a region of A that a pointer list names must lie: in memory of the partition of A's location, so on the plane for a
cluster, and for a First-Layer Engine in the slice or in a cache of its band (R153 to R155, R213, log 99). -/
def State.aRegion (s : State) (p : Nat) (c : Cmd) (fle : Bool) (e : BufEnt) (a : Nat) : Bool :=
  if e.loc = 1 then s.inSlice p a e.cap else s.inCache p a e.cap && (!fle || s.inBand c.target a)

/-- The First-Layer Engine of a target's row band (R213). -/
def State.fleOf (s : State) (n : Nat) : Nat := rowBand (n / s.grade)

/-- Checks of a tensor command with descriptors at dispatch (R84, R142, R214). -/
def State.fitLoop (s : State) (p : Nat) (c : Cmd) (crcs : List Nat) (held : List (List Byte)) : Fit :=
  let v := c.view held
  let mode := ((s.siteOf c.target).map (fun i => (s.site i).mode)).getD 0
  let st := firstFail [
    (crcsSame c crcs held, 0x2101),
    (!v.fle || !(s.fle (s.fleOf c.target)).outOfService, 0x4105),
    (v.fle || v.loop.mode == mode, 0x1102),
    (!anyDynamic v.loop.levels || s.inside p v.loop.shape 32, 0x5102),
    (v.boundsOk, 0x1204),
    (v.slotsOk (s.pval p 0x30 3) (s.pval p 0x30 4), 0x4201),
    (v.regionsOk v.usesA Level.ptrA v.aList (s.aRegion p c v.fle v.bufs.a) &&
      v.regionsOk v.usesY Level.ptrY v.yList (fun a => s.inside p a v.bufs.y.cap) &&
      v.regionsOk v.usesI Level.ptrY v.iList (fun a => s.inside p a v.bufs.i.cap) &&
      v.regionsOk v.usesX Level.ptrY v.xList (fun a => s.inside p a v.bufs.x.cap), 0x5102)]
  { status := st, empty := st == 0 && v.zero }

/-- A count against its range: 0 makes the shape empty, above it the bounds check fails (log 23). -/
def fitCount (n hi : Nat) : Fit := if n = 0 then { empty := true } else if hi < n then { status := 0x1204 } else {}

/-- Vector commands (R184, R286). -/
def fitVector (c : Cmd) : Fit :=
  if c.opcode = 1 then fitCount c.arg3 16777216
  else if c.opcode = 2 then
    let r := c.arg2 % 4294967296
    let k := c.arg2 / 4294967296
    if r = 0 ∨ k = 0 then { empty := true }
    else if 65536 < r ∨ 65536 < k ∨ c.arg3 < 4 * k then { status := 0x1204 } else {}
  else fitCount c.arg3 65536

/-- A command of a recompute range as it is injected: its override and its epoch offset applied (R294). -/
def Recompute.adjust (r : Recompute) (c : Cmd) (override : Nat) : Cmd :=
  { c with
    arg2 := if override = 0 ∨ c.kind ≠ 1 then c.arg2 else override
    waitEpoch := if c.waitKind = 0 then c.waitEpoch else (c.waitEpoch + r.offset) % 4294967296
    sigEpoch := if c.sigKind = 0 then c.sigEpoch else (c.sigEpoch + r.offset) % 4294967296 }

/-- The commands of a recompute range, adjusted. -/
def recomputeCmds (held : List (List Byte)) : List Cmd :=
  let r := Recompute.ofBytes (held.getD 0 [])
  (held.drop 2).zipIdx.map (fun e => r.adjust (Cmd.ofBytes e.1) (field (held.getD 1 []) (8 * e.2) 8))

/-- Checks 1 to 6 and the fence checks of one command of a range, then the conditions of R295. -/
def State.recomputeStatus (s : State) (p n : Nat) (raw : List Byte) (c : Cmd) : Nat :=
  if !crcOk raw 0x3C then 0x2101
  else
    let f := s.findCmd p c false
    let f := { f with res := f.res && cmdReserved raw, op := if 1 < c.rounding then 0x1202 else f.op }
    firstFail [(f.status == 0, f.status), (s.fenceStatus p c == 0, s.fenceStatus p c),
      (1 ≤ c.kind && c.kind ≤ 3 && c.target == n && c.waitKind ≤ 2 && c.sigKind ≤ 2 && !(c.kind == 3 && c.opcode == 4),
        0x120F)]

/-- A recompute range at dispatch (R295). -/
def State.fitRecompute (s : State) (p : Nat) (c : Cmd) (held : List (List Byte)) : Fit :=
  let d := held.getD 0 []
  let r := Recompute.ofBytes d
  let st := firstFail [
    (crcOk d 0x3C, 0x2101), (recomputeReserved d, 0x1201),
    (field d 0 2 == 0x5243 && field d 2 1 == 1 && 1 ≤ r.count && r.count ≤ 256, 0x120F),
    (s.inside p r.list (64 * r.count) && (r.overrides == 0 || s.inside p r.overrides (8 * r.count)), 0x5102)]
  if st ≠ 0 then { status := st }
  else
    { status := (((held.drop 2).zip (recomputeCmds held)).map (fun e => s.recomputeStatus p c.target e.1 e.2)).find?
        (· != 0) |>.getD 0 }

/-- Move commands (R157, R412; copy and feed as log 20, log 24). -/
def State.fitMove (s : State) (p : Nat) (c : Cmd) (held : List (List Byte)) : Fit :=
  if c.opcode = 1 then { empty := (if bit c.arg4 0 then c.blockCount else c.arg3) == 0 }
  else if c.opcode = 2 then
    let r := c.arg2 % 4294967296
    let k := c.arg2 / 4294967296
    if r = 0 ∨ k = 0 then { empty := true }
    else if s.inside p c.arg0 ((r - 1) * c.arg3 + elemBytes c.arg4 k) && s.ownCache p c.target c.arg1 (elemBytes c.arg4 (r * k))
      then {} else { status := 0x1204 }
  else if c.opcode = 3 then
    if c.arg3 = 0 then { empty := true } else if 131072 < c.arg1 + c.arg3 then { status := 0x1204 } else {}
  else s.fitRecompute p c held

/-- Gather commands: the whole index list and bag list are scanned first (R233). -/
def State.fitGather (s : State) (p : Nat) (c : Cmd) (held : List (List Byte)) : Fit :=
  let x := Gather.ofBytes (held.getD 0 [])
  let idx := (List.range x.count).map (fun i => field (held.getD 1 []) (4 * i) 4)
  let bags := (List.range x.count).map (fun i => field (held.getD 2 []) (4 * i) 4)
  let len := 64 * x.lines * (if c.opcode = 2 then x.bagCount else x.count)
  if x.count = 0 then { empty := true }
  else if 1048576 < x.count || !idx.all (· < x.rows) || (c.opcode == 2 && !bags.all (· < x.bagCount)) ||
      !(s.inSlice p x.dest len || s.inCache p x.dest len) then { status := 0x1204 }
  else {}

/-- The dispatch checks of a command (R84): check 7 to 9, and whether check 10 completes it. -/
def State.fit (s : State) (p : Nat) (r : CmdRec) (held : List (List Byte)) : Fit :=
  let c := r.cmd
  if c.kind = 1 then (if c.opcode = 1 ∨ c.opcode = 2 ∨ c.opcode = 5 then s.fitLoop p c r.crcs held else {})
  else if c.kind = 2 then fitVector c
  else if c.kind = 3 then s.fitMove p c held
  else if !crcsSame c r.crcs held then { status := 0x2101 }
  else if c.kind = 6 then s.fitGather p c held
  else {}

end Sys2Proof.Machine
end

