-- ==== Sys2Proof/Machine/Epilogue.lean ====
section
/-!
DEFINITION. Rows of elements in memory: reading them as values, casting and storing them, atomic adds and pair adds at the
memory (R123, R152, R177, R180, R181, R186, R187), and the fused epilogue of a tile row (R174 to R178).
-/

namespace Sys2Proof.Machine

open Sys2Proof

/-! ### Free values -/

/-- The k-th free FP32 value from the model's counter on (log 4). -/
def freeF32 (k : Nat) : Nat :=
  ofLe [Config.freeByte k, Config.freeByte (k + 1), Config.freeByte (k + 2), Config.freeByte (k + 3)]

/-- s with n free bytes taken. -/
def State.spend (s : State) (n : Nat) : State := { s with free := s.free + n }

/-! ### Values -/

/-- A power of two as the E8M0 scale byte sc; 0xFF is NaN (R124). -/
def scaleValue (sc : Nat) : FV := if sc = 255 then .nan else .pow2 ((sc : Int) - 127)

/-- A field of w bits at bit position k after partition address a. -/
def State.rdBits (s : State) (p a k w : Nat) : Nat :=
  s.rdNat p (a + k / 8) ((k % 8 + w + 7) / 8) / 2 ^ (k % 8) % 2 ^ w

/-- Where the E8M0 scale of element i of a tensor stands (R152). -/
def scaleAddr (base scale i : Nat) : Nat := base + 64 * scale + i / 32

/-- n elements of a code from address a of a tensor at base: MX elements carry their block's scale (R152). -/
def State.rowValues (s : State) (p a code n base scale : Nat) : List FV :=
  let w := elemBits code
  (List.range n).map (fun i =>
    let v := (formatOf code).decode (s.rdBits p a (i * w) w)
    if isMx code then .mul v (scaleValue (s.rdNat p (scaleAddr base scale ((a - base) * 8 / w + i)) 1)) else v)

/-- The rounding of the k-th conversion (R125). -/
def roundingAt (stochastic : Bool) (k : Nat) : Rounding :=
  if stochastic then .random (Config.randomBits k).toNat else .nearest

/-- A row cast to a code: MX scales, element bits, saturations and lost NaNs (R177). -/
structure Cast where
  scales : List Nat
  elems : List Nat
  lost : Nat
deriving DecidableEq, Repr

/-- The blocks of 32 of a list. -/
def blocks32 (vs : List FV) : List (List FV) := (List.range ((vs.length + 31) / 32)).map (fun b => (vs.drop (32 * b)).take 32)

/-- Values cast to a code, element i by draw k + i of the random source. -/
def castRow (code : Nat) (stochastic : Bool) (k : Nat) (vs : List FV) : Cast :=
  if isMx code then
    let bs := (blocks32 vs).zipIdx.map (fun e =>
      mxBlock code ((List.range 32).map (fun i => roundingAt stochastic (k + 32 * e.2 + i))) e.1)
    { scales := bs.map (·.1), elems := bs.flatMap (·.2.1), lost := (bs.map (·.2.2)).sum }
  else
    let xs := vs.zipIdx.map (fun e => castTo code (roundingAt stochastic (k + e.2)) e.1)
    { scales := [], elems := xs.map (·.1), lost := (xs.map (·.2)).sum }

/-- s with packed elements of w bits stored at byte address a; bits of the last byte beyond them stay (R123). -/
def State.storeElems (s : State) (p a w : Nat) (es : List Nat) : State :=
  let n := es.length * w
  let tail := n % 8
  let bs := packElems w es
  let bs := if tail = 0 then bs else
    let last := s.rdNat p (a + n / 8) 1
    bs.dropLast ++ [BitVec.ofNat 8 (last / 2 ^ tail * 2 ^ tail + (bs.getLast?.map (·.toNat)).getD 0 % 2 ^ tail)]
  s.store p a bs

/-- s with a cast row stored at address a of a tensor at base (R152, R177). -/
def State.storeCast (s : State) (p a code base scale : Nat) (c : Cast) : State :=
  let s := s.storeElems p a (elemBits code) c.elems
  c.scales.zipIdx.foldl (fun s e => s.store p (scaleAddr base scale ((a - base) * 8 / elemBits code + 32 * e.2)) (le 1 e.1)) s

/-! ### Counters of the unit behind an address -/

/-- Counters of a cluster beyond those of the array (R193, R216, R287, R294). -/
def ctrTiles : Nat := 15
def ctrSaturations : Nat := 16
def ctrAtomics : Nat := 17
def ctrOverflows : Nat := 18
def ctrPairAdds : Nat := 19
def ctrSkips : Nat := 20
def ctrVerified : Nat := 21
def ctrChecksumFaults : Nat := 22
def ctrGated : Nat := 23
def ctrSkippedPasses : Nat := 24
def ctrPooled : Nat := 25
def ctrCastElems : Nat := 26
def ctrInjected : Nat := 27

/-- s with a counter increased of the unit that serves partition address a: a channel controller or a cache slice. -/
def State.countAt (s : State) (p a chCtr cacheCtr n : Nat) : State :=
  match s.place p a with
  | none => s
  | some k =>
    if k < 2199023255552 then s.count (channelIndex k) chCtr n
    else s.count (siteIndex ((k - 2199023255552) / 268435456)) cacheCtr n

/-! ### Atomic adds and pair adds (R180, R181, R187) -/

/-- One element of an atomic add: the sum's bits, and whether finite operands overflowed (R180). -/
def atomicElem (code : Nat) (md : Rounding) (old v : Nat) : Nat × Bool :=
  let f := formatOf code
  let a := f.decode old
  let b := ofF32 v
  let r := f.round (if code = 1 then .nearest else md) (FV.add a b)
  (r, !a.special && !b.special && (f.decode r).special)

/-- s with an atomic add of FP32 contributions into the elements of one line, none for an element not covered. An HBM
block's side-table entry becomes unmaintained (R181). -/
def State.atomicLine (s : State) (p line code : Nat) (stochastic : Bool) (vs : List (Option Nat)) : State :=
  let w := elemBits code / 8
  let step := fun (x : State × Nat) (e : Option Nat × Nat) =>
    match e.1 with
    | none => x
    | some v =>
      let a := line + e.2 * w
      let r := atomicElem code (roundingAt stochastic (x.1.free + e.2)) (x.1.rdNat p a w) v
      (x.1.wr p a (le w r.1), x.2 + (if r.2 then 1 else 0))
  let r := vs.zipIdx.foldl step (s, 0)
  let s := r.1.spend (if stochastic then vs.length else 0)
  let s : State := match s.place p line with
    | some k => if k < 2199023255552 then
        { s with hbm := s.hbm.unmarked (blockOf k) (blockOf k + 1) } else s
    | none => s
  (s.countAt p line ctrChAtomics ctrAtomics 1).countAt p line ctrChOverflows ctrOverflows r.2

/-- s with a pair add at a table entry: FP64 sum and absolute sum, each rounded once (R187). -/
def State.pairAddAt (s : State) (p a sum abs : Nat) : State :=
  let x := addF64 (s.rdNat p a 8) sum
  let y := addF64 (s.rdNat p (a + 8) 8) abs
  (s.wr p a (le 8 x ++ le 8 y)).countAt p a ctrChPairAdds ctrPairAdds 1

/-- FP32 values of a row that starts at byte address a, element size w bytes, by 64-byte line: line address, and the
values by element of the line. -/
def lineParts (a w : Nat) (vs : List Nat) : List (Nat × List (Option Nat)) :=
  if vs.isEmpty then [] else
  (List.range ((a + vs.length * w - 1) / 64 - a / 64 + 1)).map (fun k =>
    let line := (a / 64 + k) * 64
    (line, (List.range (64 / w)).map (fun i =>
      let x := line + i * w
      if x < a then none else vs[(x - a) / w]?)))

/-- Values in the engines' fixed order of summation, which the spec leaves open (R186, R188, log 4). -/
def inSumOrder (vs : List FV) : List FV :=
  (vs.zipIdx.mergeSort (fun a b => decide (Config.sumKey a.2 ≤ Config.sumKey b.2))).map (·.1)

/-- FP64 sum of some values, rounded at each addition. -/
def foldF64 (vs : List FV) : Nat := (inSumOrder vs).foldl (fun acc v => fp64.round .nearest (FV.add (fp64.decode acc) v)) 0

/-- FP64 sum and absolute sum of some FP32 values (R186). -/
def sumF64 (vs : List Nat) : Nat := foldF64 (vs.map ofF32)
def absF64 (vs : List Nat) : Nat := foldF64 (vs.map (fun v => (ofF32 v).abs))

/-- s with the pair adds of a row of contributions at a, one per line, into the pair table of the region at base of cap
bytes (R186). -/
def State.addPairs (s : State) (p a w base cap : Nat) (vs : List Nat) : State :=
  (lineParts a w vs).foldl (fun s l =>
    let xs := l.2.filterMap id
    s.pairAddAt p (base + cap + (l.1 - base) / 4096 * 16) (sumF64 xs) (absF64 xs)) s

/-! ### The epilogue of one row (R177) -/

/-- A row of FP32 values v scaled and combined with X (R177 steps 1 and 2). -/
def State.epilogueValues (s : State) (p : Nat) (v : TView) (j a m : Nat) (vals : List Nat) : List Nat :=
  let e := v.bufs.exponent
  let vs := vals.map (fun x => mulF32 x (toF32 (.pow2 ((e : Int) - 127))))
  if v.bufs.xOp = 0 then vs
  else
    let base := v.base Level.ptrY v.bufs.x v.xList j a
    let addr := v.addrX j a + (if v.bufs.rowX then 0 else m * v.loop.yPitch)
    let xs := (s.rowValues p addr v.bufs.x.fmt vals.length base v.bufs.x.scale).map toF32
    (vs.zip xs).map (fun e => if v.bufs.xOp = 1 then addF32 e.1 e.2 else mulF32 e.1 e.2)

/-- s with a read of n elements of a code from address a of a tensor at base, and of their scales, counted by the channels
(R231). -/
def State.loadedRow (s : State) (p a code n base scale : Nat) : State :=
  let w := elemBits code
  let s := s.loaded p a (elemBytes code n)
  if isMx code && n != 0 then
    let i := (a - base) * 8 / w
    s.loaded p (scaleAddr base scale i) (scaleAddr base scale (i + n - 1) + 1 - scaleAddr base scale i)
  else s

/-- s with the X row of output row m counted by the channels (R231). -/
def State.countX (s : State) (p : Nat) (v : TView) (j a m n : Nat) : State :=
  if v.bufs.xOp = 0 then s
  else
    s.loadedRow p (v.addrX j a + (if v.bufs.rowX then 0 else m * v.loop.yPitch)) v.bufs.x.fmt n
      (v.base Level.ptrY v.bufs.x v.xList j a) v.bufs.x.scale

/-- s with output row m of pass j in array a written out: cast and stored, or added line by line, with its pair adds. -/
def State.epilogueRow (s : State) (p : Nat) (v : TView) (site j a m : Nat) (vals : List Nat) : State :=
  if v.bufs.storeOp = 0 then s
  else
    let vs := s.epilogueValues p v j a m vals
    let s := s.countX p v j a m vals.length
    let y := v.bufs.y
    let base := v.base Level.ptrY y v.yList j a
    let addr := v.addrY j a + m * v.loop.yPitch
    let sto := v.cmd.rounding == 1
    let s :=
      if v.bufs.storeOp = 1 then
        let c := castRow y.fmt sto s.free (vs.map ofF32)
        ((s.storeCast p addr y.fmt base y.scale c).spend (if sto then vs.length else 0)).count (siteIndex site) ctrSaturations c.lost
      else
        (lineParts addr (elemBits y.fmt / 8) vs).foldl (fun s l => s.atomicLine p l.1 y.fmt sto l.2) s
    if v.bufs.pairs then s.addPairs p addr (elemBits y.fmt / 8) base y.cap vs else s

/-! ### Write-on-empty (R165) -/

/-- The pass indices of the M, N and B iterations of a zero-shape command, its K levels taken once. -/
def TView.flat (v : TView) : TView :=
  { v with bounds := v.lv.map (fun x => if x.1.dim = 2 then 1 else x.2) }

/-- s with +0 written to every Y element that the M, N and B bounds of a zero-shape command address (R165). -/
def State.fillEmpty (s : State) (p : Nat) (v : TView) : State :=
  if !v.fills then s
  else
    let w := v.flat
    let y := w.bufs.y
    (List.range w.passes).foldl (fun s j => (List.range w.arrays).foldl (fun s a =>
      (List.range w.loop.passM).foldl (fun s m =>
        s.storeCast p (w.addrY j a + m * w.loop.yPitch) y.fmt (w.base Level.ptrY y w.yList j a) y.scale
          (castRow y.fmt false 0 (List.replicate w.loop.passN (.fin false 0 0)))) s) s) s

end Sys2Proof.Machine
end

