-- ==== Sys2Proof/Machine/RunControl.lean ====
section
/-!
DEFINITION. Run control and what a partition does by itself: Start with its checks (R46, R54 to R57, R67, R71, R75, R105,
R248, R302, R312, R323), Drain, Abort, Reclaim, Scrub, Clear safe-stop (R45 to R50), the host lease (R85, R86), sachet
captures, rollback, restores and the reclaim timeline (R304 to R327).
-/

namespace Sys2Proof.Machine

open Sys2Proof

/-! ### The checks of Start -/

/-- Other partitions that hold work. -/
def State.others (s : State) (p : Nat) : List Nat := partNumbers.filter (fun q => q != p && (s.part q).state.works)

/-- The logical clusters that a chive set names (R51). -/
def chiveList (bs : List Byte) : List Nat := (List.range (bs.length / 2)).map (fun i => field bs (2 * i) 2)

/-- Whether two masks share a bit. -/
def masksMeet (a b : List Byte) : Bool := (ofLe a &&& ofLe b) != 0

/-- The sachet that an image in the slice holds, none when its header or a CRC table is wrong or it does not fit the plan
(R305, R312, log 30, log 31). -/
def State.imageAt (s : State) (p a : Nat) (plan : List (Nat × Nat)) (planCrc : Nat) : Option Sachet :=
  let h := s.rd p a 4096
  let ledger := field h 0x40 8
  let first := 4096 + 1048576 + ledger
  let offs := plan.zipIdx.map (fun r => (r.1, first + ((plan.take r.2).map (fun y => y.2 + y.2 / 1024)).sum))
  let blocksOk := offs.all (fun r => (List.range (r.1.2 / 4096)).all (fun k =>
    crc32c (s.rd p (a + r.2 + 4096 * k) 4096) == s.rdNat p (a + r.2 + r.1.2 + 4 * k) 4))
  let id := field h 8 8
  if a % 4096 == 0 && s.inSlice p a 4096 && field h 0 2 == 0x5348 && field h 2 1 == 1 && zeroAt h 4 4 &&
      zeroAt h 0x48 4020 && crcOk h 0xFFC && field h 0x12 2 == plan.length && field h 0x38 4 == planCrc &&
      s.inSlice p a (field h 0x30 8) && field h 0x30 8 == first + (plan.map (fun y => y.2 + y.2 / 1024)).sum && blocksOk then
    let base := s.valNat (0xB100 + 16 * p) 1
    let cells := ((List.range ledger).map (fun i => (base + i, a + 4096 + 1048576 + i))) ++
      offs.flatMap (fun r => (List.range r.1.2).map (fun i => (r.1.1 + i, a + r.2 + i)))
    let known := (s.part p).rcv.sachets.find? (fun x => x.id == id)
    some
      { id := id, group := field h 0x10 1, groupEpoch := field h 0x1C 4, epoch := field h 0x18 4, step := field h 0x20 8
        tCapture := field h 0x28 8, layoutGen := field h 0x14 4, total := field h 0x30 8, planCrc := planCrc
        ledgerBytes := ledger, regions := plan
        sched := (known.map (·.sched)).getD
          { closed := [(scopeKey 3 0, field h 0x18 4), (scopeKey 5 0, field h 0x1C 4)], steps := field h 0x20 8 }
        data := cells.foldl (fun m c => Mem.put m c.1 (ofLe (s.rd p c.2 1) : Nat)) [] }
  else none

/-- What Start works from: the plan with its CRC, the degraded table, and the sachet to restore. -/
structure StartPlan where
  plan : Option (List (Nat × Nat) × Nat)
  table : Option (List DegEntry)
  restore : Option Sachet
deriving DecidableEq, Repr

/-- Whether Start reads the sachet plan: a T partition with a sachet interval, or one that restores an image (R302, R312). -/
def State.needsPlan (s : State) (p : Nat) : Bool :=
  (s.pval p 0x10 1 == 0 && s.pval p 0x10 5 != 0) || 1 < s.pval p 0x80 6

/-- The plan, table and restore source as Start finds them. -/
def State.startPlan (s : State) (p : Nat) : StartPlan :=
  let need := s.needsPlan p
  let plan := if need then s.readPlan p else some ([], 0)
  let src := s.pval p 0x80 6
  { plan := plan, table := if need then s.readTable p else some []
    restore := if src = 0 then none else if src = 1 then (s.target p (fun _ => true)).map (·.1)
      else plan.bind (fun x => s.imageAt p src x.1 x.2) }

/-- The ring header and block of partition p (R75). -/
def State.ringsOk (s : State) (p : Nat) : Bool :=
  let r := (s.part p).rings
  let b := r.base
  s.inSlice p b r.blockBytes && s.rdNat p b 4 == 0x4B515247 && s.rdNat p (b + 4) 2 == 1 && s.rdZero p (b + 6) 2 &&
    s.rdZero p (b + 0x16) 2 && s.rdZero p (b + 0x46) 2 && s.rdZero p (b + 0x4C) 4020

/-- The checks of Start in the order taken: whether each passes, its status, and the entry it names (R46). The reclaim
profile of R67 (report for SL, either policy for SB, straggler wait) satisfies R54 for every value of its entries. -/
def State.startChecks (s : State) (p : Nat) : List (Bool × Nat × Nat × Nat) :=
  let i := 0x3000 + 256 * p
  let mode := s.pval p 0x10 1
  let policy := s.pval p 0x10 2
  let straggler := s.pval p 0x10 3
  let clusters := s.partClusters p
  let chive := chiveList (s.val (i + 0x30) 1)
  let group := s.group p
  let lanes := s.pval p 0x40 2
  let plan := s.startPlan p
  let src := s.pval p 0x80 6
  [(!s.hbm.stale.contains p, 0x1105, 0x2100, 1),
   (s.valNat 0x2200 1 == 0, 0x1102, 0x2200, 1),
   ((mode != 0 || policy == 0) && (mode != 2 || policy == 1), 0x1102, i + 0x10, 2),
   (mode == 0 || straggler == 2, 0x1102, i + 0x10, 3),
   (s.pval p 0x20 1 == 0xFF || s.pval p 0x20 1 != s.address, 0x1102, i + 0x20, 1),
   (chive.length ≤ clusters.length / 8 && chive.eraseDups.length == chive.length && chive.all clusters.contains, 0x1102, i + 0x30, 1),
   (s.pval p 0x30 2 != 0 || (s.valNat 0x2200 2 == 1 && s.valNat 0x4100 1 ≤ 12000), 0x1102, i + 0x30, 2),
   (mode != 0 || s.pval p 0x10 0x0B + 1000 ≤ s.pval p 0x10 9, 0x1102, i + 0x10, 0x0B),
   ((List.range 16).all (fun l => l < lanes || s.valNat (0xB100 + 16 * p) (0x10 + l) == 0), 0x1102, 0xB100 + 16 * p, 0x10 + lanes),
   ((s.others p).all (fun q => !masksMeet (s.val (i + 0x40) 1) (s.val (0x3040 + 256 * q) 1)), 0x4102, i + 0x40, 1),
   ((s.others p).all (fun q => !masksMeet (s.val (i + 0x70) 1) (s.val (0x3070 + 256 * q) 1)), 0x4102, i + 0x70, 1),
   (16 ≤ group || partNumbers.all (fun q => q == p || (s.part q).state.quiet || s.group q != group), 0x4102, i + 0x50, 1),
   (16 ≤ group || s.valNat 0xA100 3 ≤ 5, 0x4103, 0xA100, 3),
   (s.ringsOk p, 0x1206, 0, 0),
   (plan.plan.isSome, 0x1211, i + 0x20, 3),
   (plan.table.isSome, 0x1211, i + 0x80, 3),
   (src == 0 || plan.restore.isSome, 0x1211, i + 0x80, 6)]

/-! ### Start -/

/-- The partner binding of a T partition that is not in force is asked for again, unless an answer of the partner is awaited
already (R53, R65). -/
def State.rebind (s : State) (p : Nat) : State :=
  let m := s.pval p 0x20 1
  let g := s.pval p 0x20 2
  let b := (s.part p).binding
  if s.pval p 0x10 1 = 0 ∧ m ≠ 0xFF ∧ g ≠ 0 ∧ (s.part p).bindReq = none ∧ !(b.bound && b.module == m && b.gib == g) ∧
      s.portsTo m ≠ [] then
    s.sendBind p m g none
  else s

/-- s with gated clusters of partition p awake and their band PLLs running (R420). -/
def State.wake (s : State) (p : Nat) : State :=
  let s := (s.partSites p).foldl (fun s i =>
    if (s.site i).gated then let k := s.wakeK (s.pval p 0x10 1) i; s.modSite i (fun x => { x with gated := false, k := k }) else s) s
  let s := { s with power := { s.power with stopped := s.power.stopped.filter (fun b => !((s.part p).rowList.map rowBand).contains b) } }
  s.modPart p (fun q => { q with gated := false })

/-- s with an empty ledger where its magic is absent (R291). -/
def State.initLedger (s : State) (p : Nat) : State :=
  let a := s.valNat (0xB100 + 16 * p) 1
  let n := s.ledgerSize p
  if n = 0 ∨ s.rdNat p a 2 = 0x4C52 then s
  else s.wr p a (padTo (min n 331776) (le 2 0x4C52 ++ le 2 1 ++ le 4 0))

/-- s with the rings of partition p beginning a fresh pass (R75, R85): indices 0, completion entries zero, the lease
record at its defaults. -/
def State.freshRings (s : State) (p : Nat) : State :=
  let s := s.modRings p (fun r =>
    { r with sqTail := 0, sqHead := 0, cqHead := 0, cqTail := 0, cqHeldTail := 0, cqUsed := 0, heldN := 0, phase := 1
             irqPending := 0, consuming := true, held := false })
  let r := (s.part p).rings
  let s := s.wr p (r.cqAddr 0) (zeros (64 * r.entries))
  let s := s.modLease p (fun _ => { startGen := s.layoutGen })
  (s.armLease p).syncHeader p

/-- s with the modes of partition p's entries in effect (R42). -/
def State.takeModes (s : State) (p : Nat) : State :=
  s.modPart p (fun q =>
    { q with
      mode := s.pval p 0x10 1, policy := s.pval p 0x10 2, straggler := s.pval p 0x10 3, interval := s.pval p 0x10 5
      leaseMs := s.pval p 0x10 6, ranMode := some (s.pval p 0x10 1), scrubbed := false })

/-- The plan that the losses at a Start call for is published: plan 0 when nothing is lost (R319). -/
def State.publishPlan (s : State) (p : Nat) : State :=
  if (s.reducedRows p).isEmpty then s.selectPlan p 0 [0, 0, 0, 0]
  else match s.degraded p with
    | some e => s.selectPlan p e.plan e.words
    | none => s

/-- s with partition p Running: epochs reset or restored, every cluster wide, fresh rings (R42, R75, R85, R100, R129). -/
def State.beginRun (s : State) (p : Nat) (x : Option Sachet) : State :=
  let first := (s.part p).ranMode.isNone
  let s := s.takeModes p
  let s := s.modPart p (fun q =>
    { q with
      fences := {}, lists := [], laneDone := [], runTo := .none, after := none
      chive := (chiveList (s.val (0x3030 + 256 * p) 1)).mergeSort (· ≤ ·)
      rcv := { q.rcv with
        sinceLast := 0, steps := if first then 0 else q.rcv.steps, lost := [], landings := [], startRestore := none
        force := false, reclaim := none, rollback := none, capture := none, departing := none }
      member := s.pval p 0x50 1 < 16 })
  let s : State := match x with
    | some y => s.restoreSchedule p y (y.layoutGen == s.layoutGen)
    | none => s
  let s := s.moduleWrite (0x3080 + 256 * p) 6 (le 8 0)
  ((((s.wideAll p).initLedger p).freshRings p).publishPlan p).setPState p .running

/-- s with an Idle partition's Start going on after its scrub: a restore, or the run (R45, R312). The partition shows Idle
while it restores, and a Start or Scrub then is refused with 0x1101: log 94. -/
def State.proceedStart (s : State) (p : Nat) : State :=
  if (s.part p).rcv.startRestore.isSome then s.setPState p .idle else s.beginRun p none

/-- Start needs a scrub (R50). -/
def State.needsScrub (s : State) (p : Nat) : Bool :=
  (s.part p).ranMode != some (s.pval p 0x10 1) && !(s.part p).scrubbed

/-- s with partition p Scrubbing; what follows is set (R45, R50). -/
def State.beginScrub (s : State) (p : Nat) (next : AfterScrub) : State :=
  (s.modPart p (fun q => { q with after := some next, scrubTick := s.time.ticks })).setPState p .scrubbing

/-- Start (R45, R46), asked for on a route. The plan and the table are copied here, before a scrub clears them (R302,
R318). -/
def State.start (s : State) (p route : Nat) : State × Nat :=
  if (s.part p).state ≠ .idle ∨ (s.part p).rcv.startRestore.isSome then (s, 0x1101)
  else
    match (s.startChecks p).find? (fun c => !c.1) with
    | some (_, st, i, j) => (s.logEvent 2 p route (le 2 st ++ le 2 i ++ le 1 j), st)
    | none =>
      let s' := (s.rebind p).wake p
      let plan := s.startPlan p
      let s' := s'.modRcv p (fun r =>
        { r with
          plan := (plan.plan.map (·.1)).getD [], planCrc := (plan.plan.map (·.2)).getD 0, table := plan.table.getD []
          startRestore := plan.restore })
      (if s.needsScrub p then s'.beginScrub p .run else s'.proceedStart p, 0)

/-! ### Drain, Abort, Reclaim, Scrub, Clear safe-stop -/

/-- Drain (R45, R47). A Host-lost partition that already runs to its barrier goes on from there. -/
def State.drain (s : State) (p : Nat) : State × Nat :=
  let q := s.part p
  if q.state ≠ .running ∧ q.state ≠ .hostLost then (s, 0x1101)
  else
    let s := (s.modRings p (fun r => { r with consuming := false })).setPState p .draining
    let s :=
      if q.mode = 0 then (if q.runTo.busy || q.runTo == .ended then s else s.setRunTo p (.barrier (s.partEpoch p)))
      else if q.mode = 1 ∨ q.lease.asSB then s.setRunTo p .lists
      else (s.setRunTo p .streams).closingStreams p false
    (s.progress p, 0)

/-- Abort (R45, R48, R49). -/
def State.abort (s : State) (p : Nat) : State × Nat :=
  let q := s.part p
  if q.state = .running ∨ q.state = .draining ∨ q.state = .hostLost then (s.abortPart p, 0) else (s, 0x1101)

/-- Reclaim through Run control (R45, R54, R68, R323, R341). -/
def State.runReclaim (s : State) (p : Nat) : State × Nat :=
  let q := s.part p
  let s' := s.reclaim p true
  if q.state = .running ∨ q.state = .draining ∨ q.state = .hostLost ∨ q.state = .idle then (s', 0) else
  (if q.state = .reclaiming ∨ q.state = .safeStop then s' else s, 0x1101)

/-- Scrub (R45). -/
def State.runScrub (s : State) (p : Nat) : State × Nat :=
  if (s.part p).state ≠ .idle ∨ (s.part p).rcv.startRestore.isSome then (s, 0x1101)
  else ((s.wake p).beginScrub p .idle, 0)

/-- Clear safe-stop (R45, R49, R341): the next Start scrubs. -/
def State.clearSafeStop (s : State) (p : Nat) : State × Nat :=
  if (s.part p).state ≠ .safeStop ∨ s.heldErrors p ≠ 0 then (s, 0x1101)
  else ((s.modPart p (fun q => { q with ranMode := none, scrubbed := false })).enterIdle p, 0)

/-! ### The host lease (R85, R86) -/

/-- The heartbeat sample: a change renews the lease, and a written timeout takes effect (R42, R85). -/
def State.sampleHeartbeat (s : State) (p : Nat) : State :=
  let l := (s.part p).lease
  let beat := s.rdNat p ((s.part p).rings.base + 0x18) 8
  if !l.armed ∨ l.state ≠ 1 ∨ beat = l.lastBeat then s
  else
    let s := s.modLease p (fun l => { l with lastBeat := beat, seen := s.now, seenTick := s.time.ticks })
    (s.modPart p (fun q => { q with leaseMs := s.pval p 0x10 6 })).syncHeader p

/-- s with the lease of partition p lost for a cause (R85, R86): a Running partition becomes Host-lost and acts by its
mode, a Draining one goes on with its completions held. What an earlier loss left in host_lost_sachet and host_lost_epoch is
gone (R76). -/
def State.loseLease (s : State) (p cause : Nat) : State :=
  let q := s.part p
  if !q.lease.armed ∨ q.lease.state ≠ 1 ∨ !(q.state == .running || q.state == .draining) then s
  else
    let s := s.modLease p (fun l =>
      { l with armed := false, state := 2, cause := cause, expiredAt := s.now, lostTick := s.time.ticks, lostSachet := 0, lostEpoch := 0 })
    let s := s.modRings p (fun r => { r with held := true })
    let s := s.raise { status := 0x3108, part := p, detail := le 1 cause ++ zeros 7 ++ le 8 s.now }
    if q.state = .draining then (s.syncHeader p).out (.msix (p + 1) 1)
    else
      let s := (s.modRings p (fun r => { r with consuming := false })).setPState p .hostLost
      let s := if q.mode = 2 then s else s.setRunTo p (.barrier (s.partEpoch p))
      (s.syncHeader p).progress p

/-- HEARTBEAT_SAMPLE (R85). -/
def execHeartbeatSample (p : Nat) (s : State) : Host.Outcome State Fault Refusal := answer s (s.sampleHeartbeat p)

/-- HOST_LEASE_EXPIRED (R85): the first sample at which the time since heartbeat_seen reaches the timeout. -/
def execHostLeaseExpired (p : Nat) (s : State) : Host.Outcome State Fault Refusal :=
  answer s
    (let s := s.sampleHeartbeat p
     if (s.part p).lease.seenTick + (s.part p).leaseMs * Config.ticksPerMs ≤ s.time.ticks then s.loseLease p 1 else s)

/-- ORPHAN_SERVING_TIMEOUT (R86, R273): the streams of a Host-lost SL partition are closed gracefully, and it goes on as
SB. -/
def execOrphanServingTimeout (p : Nat) (s : State) : Host.Outcome State Fault Refusal :=
  answer s
    (let q := s.part p
     if q.state = .hostLost ∧ q.mode = 2 ∧ !q.lease.asSB ∧
         q.lease.lostTick + s.pval p 0x10 7 * Config.ticksPerMs ≤ s.time.ticks then
       let s := (s.modLease p (fun l => { l with asSB := true })).closingStreams p true
       (s.setRunTo p (.barrier (s.partEpoch p))).progress p
     else s)

/-! ### Captures and tiers -/

/-- SACHET_CAPTURE (R304, R305): once the other lists are done the sachet is sent; a block that does not match after its
refetch fails it with 0x2201. -/
def execSachetCapture (p : Nat) (faults : List BlockFault) (s : State) : Host.Outcome State Fault Refusal :=
  answer s
    (match (s.part p).rcv.capture with
     | some c =>
       if c.phase ≠ 0 ∨ !s.quiesced p c.cmds then s
       else
         let rs := (s.part p).rcv.plan ++ s.ledgerRegion p
         let bad := s.badBlock p faults rs
         let s := s.readRegions p faults rs
         match bad with
         | some a =>
           (((s.raiseBlock p a 2).count (partCounters p) ctrAbandoned 1).endCapture p 0x2201).sachetEnded p
         | none =>
           let s := s.sendSachet p
           if (s.part p).rcv.capture.isNone then s.sachetEnded p else s
     | none => s)

/-- SACHET_LANDED (R309): every block of the sachet is confirmed. -/
def execSachetLanded (p : Nat) (s : State) : Host.Outcome State Fault Refusal :=
  answer s (if s.allConfirmed p then s.landSachet p else s)

/-- The newest landed sachet of partition p that a tier takes in the background, with a copy it can be read from: in tier 1 over
the links, or for tier 3 in flash (R307). -/
def State.tierSource (s : State) (p : Nat) (next : Option Nat) (flash : Bool) : Option Sachet :=
  (s.part p).rcv.sachets.find? (fun x =>
    next == some x.id && ((x.tier1 && !(s.portsTo x.holder).isEmpty) || (flash && x.tier2 && s.flashUp)))

/-- TIER2_WRITE_DONE (R307): flash keeps the newest complete copy. Without the copy it was read from, there is nothing to write. -/
def execTier2WriteDone (p : Nat) (s : State) : Host.Outcome State Fault Refusal :=
  answer s
    (match s.tierSource p (s.part p).rcv.tier2Next false with
     | none => s.modRcv p (fun r => { r with tier2Next := none })
     | some x =>
       let id := x.id
       let s := s.modRcv p (fun r =>
         { r with tier2Next := none, sachets := r.sachets.map (fun x => { x with tier2 := x.id == id }) })
       ((s.setVal (0x3020 + 256 * p) 0x12 (le 8 id)).count (partCounters p) (ctrLandedTier 2) 1).pruneSachets p)

/-- RESULT message k of the image of sachet y to the store of partition p (R253, R256, R328). -/
def State.storeMessage (s : State) (p : Nat) (y : Sachet) (k : Nat) : Out :=
  let h := s.pval p 0x20 7
  let w := (s.part p).rcv.store
  let conn := s.pval p 0x20 6
  let chunk := if h = 0 then 4096 else 4080
  let len := min chunk (y.total - chunk * k)
  let last := decide (y.total ≤ chunk * (k + 1))
  let plain := (List.range len).map (fun i => y.byte p (s.ledgerBase p) (chunk * k + i))
  let seq := (w.seq + k) % 2 ^ 32
  let head := msgHeader 0x84 (if last then 2 else 0) conn seq (len + 16) 0 0 (y.id % 2 ^ 32)
  let key := ((s.sec.keys.find? (fun e => e.handle == h && e.ty == 3 && e.part == p)).map (·.key)).getD []
  .ingest (s.pval p 0x20 5) conn 0x84 [seq, y.id % 2 ^ 32, if last then 2 else 0]
    (if h = 0 then plain else Config.gcmSeal key (le 4 w.nonce ++ le 8 (2 ^ 63 + (w.ctr + k) % 2 ^ 63)) head plain)

/-- Messages that the image of a sachet takes. -/
def State.storeMessages (s : State) (p : Nat) (y : Sachet) : Nat :=
  let chunk := if s.pval p 0x20 7 = 0 then 4096 else 4080
  (y.total + chunk - 1) / chunk

/-- TIER3_WRITE_DONE (R307, R328): the image has gone to the store as RESULT messages under the store's result credits, sealed when
a store key is set; until it has given enough, nothing is done. Without its key, or unencrypted in Sealed, the image is not sent
(R55, R408). -/
def execTier3WriteDone (p : Nat) (s : State) : Host.Outcome State Fault Refusal :=
  answer s
    (match s.tierSource p (s.part p).rcv.tier3Next true with
     | none => s.modRcv p (fun r => { r with tier3Next := none })
     | some y =>
       let h := s.pval p 0x20 7
       let n := s.storeMessages p y
       let skip := s.modRcv p (fun r => { r with tier3Next := none })
       if s.boot.secFailed then skip
       else if h = 0 ∧ s.secState = 2 then skip.note p 0x5101
       else if h ≠ 0 ∧ !s.hasKey p 3 h then skip.note p 0x5104
       else if (s.part p).rcv.store.credits < n then s
       else
         let s := { s with outs := (List.range n).reverse.map (s.storeMessage p y) ++ s.outs }
         let s := s.modRcv p (fun r =>
           { r with
             tier3Next := none, sachets := r.sachets.map (fun x => { x with tier3 := x.tier3 || x.id == y.id })
             store := { r.store with
               credits := r.store.credits - n, seq := (r.store.seq + n) % 2 ^ 32, ctr := r.store.ctr + n } })
         (s.setVal (0x3020 + 256 * p) 0x13 (le 8 y.id)).count (partCounters p) (ctrLandedTier 3) 1)

/-! ### Restores -/

/-- ROLLBACK_RESTORE_DONE (R310 steps 3 to 6): with the tier-1 copy lost meanwhile, the restore starts again from tier 2
(R317). -/
def execRollbackRestoreDone (p : Nat) (s : State) : Host.Outcome State Fault Refusal :=
  answer s
    (let r := (s.part p).rcv
     match r.rollback with
     | none => s
     | some b =>
       match r.sachets.find? (fun x => b.target == some x.id) with
       | none => s
       | some x =>
         if b.restored then s
         else if b.tier = 1 ∧ (!x.tier1 ∨ s.portsTo x.holder = []) then
           (s.modRcv p (fun r => { r with rollback := r.rollback.map (fun b => { b with target := none, captured := none }) })).chooseTarget p
         else
           let s := s.restoreRegions p x (s.ledgerRegion p)
           let s := (((s.restoreSchedule p x true).wideAll p).lapseChive p).rewindStreams p x
           (s.modRcv p (fun r => { r with rollback := r.rollback.map (fun b => { b with restored := true }) })).finishRollback p)

/-- START_RESTORE_DONE (R312): the sachet is in the slice, and the Start ends. -/
def execStartRestoreDone (p : Nat) (s : State) : Host.Outcome State Fault Refusal :=
  answer s
    (match (s.part p).rcv.startRestore with
     | some x => if (s.part p).state = .idle then (s.restoreRegions p x (s.ledgerRegion p)).beginRun p (some x) else s
     | none => s)

/-! ### Reclaim -/

/-- RECLAIM_FENCE_ABORT (R324): the fence phase has lasted the fence limit. -/
def execReclaimFenceAbort (p : Nat) (s : State) : Host.Outcome State Fault Refusal :=
  answer s
    (match (s.part p).rcv.reclaim with
     | some c =>
       if c.phase = 0 ∧ c.t0 + s.pval p 0x10 0x0B * Config.ticksPerMs ≤ s.time.ticks then s.fenceAbort p else s
     | none => s)

/-- RECLAIM_DEADLINE (R324): the sachet cannot land by T0 + D − 200 ms, or that time has come; it is abandoned. -/
def execReclaimDeadline (p : Nat) (s : State) : Host.Outcome State Fault Refusal :=
  answer s
    (match (s.part p).rcv.reclaim with
     | some c =>
       if c.phase = 1 ∧ !c.late then
         let s := s.modRcv p (fun r => { r with reclaim := r.reclaim.map (fun c => { c with late := true }) })
         (((s.abandonSachet p).note p 0x310A).count (partCounters p) ctrDeadlineMisses 1).startScrub p
       else s
     | none => s)

/-- s with the reclaimed partition handed over (R67, R324, R326): its profile written, fresh rings set, the lease armed,
Running in the target mode; it leaves its barrier group (R105). -/
def State.handover (s : State) (p : Nat) : State :=
  let i := 0x3010 + 256 * p
  let s := s.publish p
  let c := (s.part p).rcv.reclaim
  let target := s.pval p 0x10 8
  let s := s.phaseDone p
  let s := ((s.moduleWrite i 1 (le 1 target)).moduleWrite i 2 (le 1 (if target = 2 then 1 else s.pval p 0x10 0x0A))).moduleWrite i 3
    (le 1 2)
  let base := s.pval p 0x10 0x0C
  let s := s.modRings p (fun r => { r with base := base, size := s.pval p 0x10 0x0D })
  let s := s.wr p base (padTo 4096 (le 4 0x4B515247 ++ le 2 1))
  let s := s.takeModes p
  let s := s.modPart p (fun q =>
    { q with fences := {}, lists := [], laneDone := [], runTo := .none, after := none
             chive := (chiveList (s.val (0x3030 + 256 * p) 1)).mergeSort (· ≤ ·)
             rcv := { q.rcv with reclaim := none, rollback := none, capture := none, plan := [], table := [], lost := [] } })
  let s := (((s.wideAll p).freshRings p).publishPlan p).leaveGroup p
  let s := { s with ctr := Tab.set s.ctr (partCounters p * 256 + ctrPhase 3) 0 }
  let late := (c.map (fun c => decide (c.t0 + s.pval p 0x10 9 * Config.ticksPerMs < s.time.ticks) && !c.late)).getD false
  let s := if late then (s.note p 0x310A).count (partCounters p) ctrDeadlineMisses 1 else s
  s.setPState p .running

/-- s with the memory, FLEs and keys that a scrub of partition p clears cleared (R212, R241, R408, R413). -/
def State.clearPartition (s : State) (p : Nat) : State :=
  let fs := (List.range 5).filter (fun f => s.fleOwner f == some p)
  let s := (s.scrubPart p).scrubWhere (onSites (fs.map (· + 1260))) []
  let s := (s.partSites p ++ fs.map (· + 1260)).foldl (fun (s : State) i =>
    s.modSite i (fun x => { x with retained := none, resume := none, cleared := [] })) s
  { s with sec := { s.sec with keys := s.sec.keys.filter (fun k => !(k.part == p && (k.ty == 1 || k.ty == 2))) } }

/-- SCRUB_COMPLETE (R45, R50, R241, R324): the partition goes on to Idle, to its run, or to reclaim handover. -/
def execScrubComplete (p : Nat) (s : State) : Host.Outcome State Fault Refusal :=
  answer s
    (match (s.part p).after with
     | some x =>
       if (s.part p).state ≠ .scrubbing ∧ (s.part p).state ≠ .reclaiming then s
       else
         let s := (s.clearPartition p).modPart p (fun q => { q with after := none, scrubbed := true })
         match x with
         | .idle => s.setPState p .idle
         | .run => s.proceedStart p
         | .handover => s.handover p
     | none => s)

end Sys2Proof.Machine
end

