-- ==== Sys2Proof/Machine/Scheduler.lean ====
section
/-!
DEFINITION. The scheduler and the dispatchers: consumption (R77, R78, R80, R81, R84, R103), list start, dispatch with its
checks (R69, R78, R84, R130, R131, R142, R165), completion (R101), deadlines (R78), the barrier watchdog (R106) and
schedule tables (R296 to R298).
-/

namespace Sys2Proof.Machine

open Sys2Proof

/-! ### Acceptance -/

/-- The contributors of a list's commands (R99, R259): a decode command of R rounds signals R epochs, one without end the
first. -/
def contributors (l : Nat) (cmds : List CmdRec) (p : Nat) (clusters : List Nat) : List Contrib :=
  cmds.zipIdx.flatMap (fun e =>
    let c := e.1.cmd
    if c.sigKind = 0 then []
    else
      let n := if c.kind = 5 ∧ c.opcode = 2 then max 1 c.arg3 else 1
      (List.range n).map (fun j =>
        { scope := fenceScope c.sigKind c.kind (c.queueNo p), epoch := (c.sigEpoch + j) % 4294967296
          cluster := if clusters.contains c.target then c.target else 0xFFFF, list := l, index := e.2, done := false }))

/-- s with list x of partition p accepted: every contributor of it is an accepted contributor from now (R78, R99). -/
def State.acceptList (s : State) (p : Nat) (x : ListRec) : State :=
  s.modPart p (fun q =>
    { q with
      lists := q.lists ++ [x], nextList := x.id + 1
      fences := { q.fences with contribs := q.fences.contribs ++ contributors x.id x.cmds p (s.partClusters p) } })

/-- A tick of a schedule table (R297). -/
structure Tick where
  addr : Nat
  len : Nat
  stage : Nat
  phase : Nat
  batch : Nat
  words : List Nat
deriving DecidableEq, Repr

def Tick.ofBytes (b : List Byte) (o : Nat) : Tick :=
  { addr := field b o 8, len := field b (o + 8) 4, stage := field b (o + 12) 1, phase := field b (o + 13) 1
    batch := field b (o + 14) 2, words := (List.range 4).map (fun k => field b (o + 16 + 4 * k) 4) }

/-- The parameter block of a tick with an index (R298). -/
def Tick.params (t : Tick) (i : Nat) : List Nat := [t.batch, t.stage, t.phase, i] ++ t.words

/-- The schedule table at an address, none when it is not valid: its ticks and the parameter block's address (R297). -/
def State.scheduleAt (s : State) (p a : Nat) : Option (List Tick × Nat) :=
  let n := s.rdNat p (a + 4) 2
  let b := s.rd p a (64 + 32 * n)
  let ts := (List.range n).map (fun i => Tick.ofBytes b (64 + 32 * i))
  let prm := field b 8 8
  if a % 64 == 0 && s.inSlice p a (64 + 32 * n) && field b 0 2 == 0x5354 && field b 2 1 == 1 && 1 ≤ field b 3 1 &&
      field b 3 1 ≤ 8 && 1 ≤ n && n ≤ 4096 && zeroAt b 6 2 && zeroAt b 0x10 44 && tableCrcOk b && prm % 32 == 0 &&
      s.inside p prm 32 &&
      ts.all (fun t => 1 ≤ t.len && t.len ≤ 65536 && t.stage < field b 3 1 && t.phase ≤ 2 && t.addr % 64 == 0 &&
        s.inSlice p t.addr (64 * t.len)) then some (ts, prm)
  else none

/-- The lists of a schedule run checked tick by tick: all commands, or the first failure with its index of R298. -/
def State.checkTicks (s : State) (p : Nat) (ts : List Tick) (i : Nat) : List CmdRec × Option (Nat × Nat) :=
  match ts with
  | [] => ([], none)
  | t :: r =>
    match s.checkList p t.addr t.len with
    | (_, some f) => ([], some (f.1, i * 65536 + f.2))
    | (cs, none) =>
      match s.checkTicks p r (i + 1) with
      | (_, some f) => ([], some f)
      | (ds, none) => (cs ++ ds, none)

/-- The address that Caddy binds a schedule table to for a lane, 0 for none (R296). -/
def State.boundTable (s : State) (p lane : Nat) : Nat := s.valNat (0xB100 + 16 * p) (0x10 + lane)

/-- The commands of an accepted submission, its ticks and parameter address; or status and failing_index (R84, R296). -/
def State.takeList (s : State) (p : Nat) (x : Sub) : Except (Nat × Nat) (List CmdRec × List (Nat × List Nat) × Nat) :=
  let t := s.boundTable p x.lane
  if t = 0 then
    (match s.checkList p x.addr x.len with
     | (_, some f) => .error f
     | (cs, none) => .ok (cs, [], 0))
  else
    match s.scheduleAt p t with
    | some (ts, prm) =>
      if x.addr ≠ t ∨ x.len ≠ ts.length then .error (0x1210, 0xFFFFFFFF)
      else
        (match s.checkTicks p ts 0 with
         | (_, some f) => .error f
         | (cs, none) => .ok (cs, ts.zipIdx.map (fun e => (e.1.len, e.1.params e.2)), prm))
    | none => .error (0x1210, 0xFFFFFFFF)

/-- Lists consumed and not yet completed (R80). -/
def State.openLists (s : State) (p : Nat) : Nat :=
  ((s.part p).lists.filter (fun x => !x.answered && x.parent.isNone)).length

/-- s with the next submission entry of partition p consumed (R78, R80, R81, R84, R103). -/
def State.consume (s : State) (p : Nat) : State :=
  let r := (s.part p).rings
  if !r.consuming ∨ r.backlog = 0 ∨ r.free < s.openLists p + 2 then s
  else
    let b := s.rd p (r.sqAddr r.sqHead) 64
    let x := Sub.ofBytes b
    let s := (s.modRings p (fun r => { r with sqHead := (r.sqHead + 1) % r.entries })).syncHeader p
    let irq := bit x.flags 0
    let st := s.subStatus p b
    let st := if st ≠ 0 then st else s.startFenceStatus p x.fenceKind
    if st ≠ 0 then s.refuseList p x.id x.tag irq st 0xFFFFFFFF
    else
      match s.takeList p x with
      | .error f => s.refuseList p x.id x.tag irq f.1 f.2
      | .ok (cs, ticks, prm) =>
        s.acceptList p
          { id := (s.part p).nextList, addr := x.addr, subId := x.id, userTag := x.tag, lane := x.lane, irq := irq
            deadline := if bit x.flags 1 && (s.part p).mode != 0 then some x.deadline else none
            fenceKind := x.fenceKind, fenceEpoch := x.fenceEpoch, cmds := cs, ticks := ticks, param := prm }

/-- SUBMISSION_CONSUME (R78). -/
def execSubmissionConsume (p : Nat) (s : State) : Host.Outcome State Fault Refusal := answer s (s.consume p)

/-! ### Queues -/

/-- Commands that a queue of a kind holds (R69). -/
def queueDepth (k : Nat) : Nat := if k = 3 then 128 else if k = 4 then 32 else if k = 5 then 16 else if k = 6 then 256 else 64

/-- s with command r put at the end of its queue. -/
def State.enqueueCmd (s : State) (r : QRef) (c : Cmd) : State :=
  (s.modCmd r (fun c => { c with st := .queued })).modQueue c.kind (c.queueNo r.part) (fun q => { q with fifo := q.fifo ++ [r] })

/-- s with the started commands of list x of partition p that sel picks handed to their queues, in list order, as far as
there is room (R69, R78). -/
def State.dealList (s : State) (p : Nat) (x : ListRec) (sel : Cmd → Bool) : State :=
  if !x.active ∨ x.abandoned then s
  else
    (x.cmds.take x.started).zipIdx.foldl (fun s e =>
      let c := e.1.cmd
      if e.1.st = .held ∧ sel c ∧ (s.queue c.kind (c.queueNo p)).fifo.length < queueDepth c.kind then
        s.enqueueCmd { part := p, list := x.id, index := e.2, lane := x.lane } c
      else s) s

/-- s with the room in queue n of kind k filled from the active lists. -/
def State.refill (s : State) (k n : Nat) : State :=
  partNumbers.foldl (fun s p => (s.part p).lists.foldl (fun s x =>
    s.dealList p x (fun c => c.kind == k && c.queueNo p == n)) s) s

/-! ### List start -/

/-- The work of a Host-lost partition rests at its barrier: its run to it, and the sachet, have ended (R86). -/
def Part.parked (q : Part) : Bool := q.state == .hostLost && q.runTo == .ended


/-- The first list of a lane that has not started. -/
def State.nextOnLane (s : State) (p lane : Nat) : Option ListRec :=
  (s.part p).lists.find? (fun x => x.lane == lane && !x.active && x.parent.isNone)

/-- Whether a list's start fence is satisfied (R77, R103). -/
def State.startOpen (s : State) (p : Nat) (x : ListRec) : Bool :=
  x.fenceKind == 0 || (s.part p).fences.open (scopeKey x.fenceKind 0) x.fenceEpoch

/-- s with list x ended without running: its start fence waits on a broken group epoch (R105). -/
def State.breakList (s : State) (p : Nat) (x : ListRec) (status : Nat) : State :=
  ((s.dropCommands p x.id x.cmds.length status).answerList p x status 0xFFFFFFFF).finishList p x.id

/-- LIST_START (R78, R86, R304): the next list of a lane starts once no list of the lane is active, its start fence is
satisfied and no sachet is being taken; none starts in a Host-lost partition that rests at its barrier. -/
def State.startList (s : State) (p lane : Nat) : State :=
  let q := s.part p
  match s.nextOnLane p lane with
  | none => s
  | some x =>
    if !q.state.works ∨ q.parked ∨ q.rcv.capture.isSome ∨ q.lists.any (fun y => y.lane == lane && y.active && y.parent.isNone) then s
    else if x.fenceKind = 5 && q.fences.breaks x.id x.fenceEpoch then (s.breakList p x q.fences.broken).progress p
    else if s.startOpen p x then
      let s := s.modList p x.id (fun y => { y with active := true })
      (s.modRcv p (fun r => { r with dirty := true })).dealList p { x with active := true } (fun _ => true)
    else s

/-- LIST_START (R78). -/
def execListStart (p lane : Nat) (s : State) : Host.Outcome State Fault Refusal := answer s (s.startList p lane)

/-! ### Dispatch -/

/-- A move command behind an open recompute range of its lane waits for it (R295). -/
def State.behindRange (s : State) (k n : Nat) (r : QRef) : Bool :=
  k == 3 && (s.part r.part).lists.any (fun x =>
    x.id != r.list &&
    (match x.parent with
     | some o => o.lane == r.lane && ((s.cmdOf o).map (fun c : CmdRec => c.cmd.target)) == some n
     | none => false))

/-- A waiting command of a tensor queue that sets the array mode (R127). -/
def State.setsMode (s : State) (r : QRef) : Bool :=
  ((s.cmdOf r).map (fun c : CmdRec => c.cmd.kind == 1 && c.cmd.opcode == 3)).getD false

/-- The order that a set-array-mode keeps: it goes when every earlier command of its queue has completed, and no command goes
before one that arrived earlier (R127). -/
def State.modeOrder (s : State) (k n : Nat) (r : QRef) : Bool :=
  let q := s.queue k n
  k != 1 || (!(q.fifo.takeWhile (· != r)).any s.setsMode &&
    (!s.setsMode r || (q.fifo.head? == some r && q.running.isNone && q.issued.isEmpty && q.preempted.isEmpty)))

/-- Whether a waiting command may go now: its partition does not rest at its barrier (R86), its wait fence is satisfied or
broken, and the order of the array modes is kept (R78, R105, R127). -/
def State.mayGo (s : State) (k n : Nat) (r : QRef) : Bool :=
  match s.cmdOf r with
  | none => false
  | some c =>
    !(s.part r.part).parked && !s.behindRange k n r && (s.ready r.part c.cmd || s.waitBroken r.part r.list c.cmd) &&
      s.modeOrder k n r

/-- The head commands of the lanes of a queue. -/
def laneHeads (fifo : List QRef) : List QRef :=
  fifo.foldl (fun hs r => if hs.any (fun h => h.lane == r.lane && h.part == r.part) then hs else hs ++ [r]) []

/-- The next of some ready heads in round robin after a lane (R78). -/
def roundRobin (last : Nat) (hs : List QRef) : Option QRef :=
  hs.foldl (fun best r =>
    match best with
    | none => some r
    | some b => if (r.lane + 31 - last) % 16 < (b.lane + 31 - last) % 16 then some r else some b) none

/-- The command that queue n of kind k serves next, with lanes in avoid passed over (R78): under switch the ready heads in
round robin, under report the first to have arrived. -/
def State.choose (s : State) (k n : Nat) (avoid : QRef → Bool) : Option QRef :=
  let q := s.queue k n
  match q.fifo with
  | [] => none
  | r :: _ =>
    if (s.part r.part).policy = 1 then (if s.mayGo k n r && !avoid r then some r else none)
    else roundRobin q.lastLane ((laneHeads q.fifo).filter (fun h => s.mayGo k n h && !avoid h))

/-- A tensor command whose accumulators, or a vector command whose memory, a second run would not leave alike (R350). -/
def notRepeatable (c : Cmd) (held : List (List Byte)) : Bool :=
  if c.kind = 1 then
    (c.opcode = 1 ∨ c.opcode = 2 ∨ c.opcode = 5) && (let v := c.view held; v.bufs.storeOp == 2 || v.loop.init == 2)
  else if c.kind = 2 then
    let n := elemBytes c.fmt c.arg3
    let meets := fun (a m b n : Nat) => a < b + n && b < a + m
    if c.opcode = 1 then
      meets c.arg2 n c.arg0 (elemBytes c.srcFmt c.arg3) || (c.vop < 6 && meets c.arg2 n c.arg1 (elemBytes c.srcFmt c.arg3))
    else if c.opcode = 2 then
      let r := c.arg2 % 4294967296
      let k := c.arg2 / 4294967296
      meets c.arg1 (elemBytes (if bit c.arg4 0 then c.fmt + 4 else c.fmt) (r * k)) c.arg0 ((r - 1) * c.arg3 + 4 * k)
    else c.opcode == 3
  else c.kind = 3 ∧ c.opcode = 4

/-- s with the CCC's record of a command that starts on cluster n (R349). -/
def State.recordStart (s : State) (k n : Nat) (r : QRef) (c : Cmd) (held : List (List Byte)) : State :=
  if 3 < k then s
  else match s.siteOf n with
    | some i => s.modSite i (fun x =>
        { x with sinceFence := x.sinceFence ++ [r], nonRepeat := x.nonRepeat || notRepeatable c held })
    | none => s

/-! ### Steep mode (R137 to R139) -/

/-- Length in array cycles of the gap of a site, since its last tensor work. -/
def State.gapCycles (s : State) (i : Nat) : Nat := s.cyclesOf i (s.now - (s.site i).lastBusy)

/-- s with the gap of site i of partition p over: up to the threshold every core ran dummy operations, and a ramp down gated 32
cores more each 256 cycles, of which ramping up takes 64 dummy cycles each; without steep mode every core was gated
throughout (R137 to R140). -/
def State.awaken (s : State) (p i : Nat) : State :=
  if 1260 ≤ i then s.modSite i (fun x => { x with steep := 0, lastBusy := s.now }) else
  let g := s.gapCycles i
  let t := s.pval p 0x30 2
  let thr := s.cyclesOf i t
  let n := (s.site i).steep
  let gated := if t = 0 then 256 * g else ((List.range n).map (fun j => 32 * (g - thr - 256 * (j + 1)))).sum
  let dummy := if t = 0 then 0 else min g thr + 64 * n
  ((s.modSite i (fun x => { x with steep := 0, lastBusy := s.now })).count (siteIndex i) 5 gated).count (siteIndex i) 6 dummy

/-- s with a gap of site i of partition p begun: without steep mode it gates the cluster at once (R139). -/
def State.beginGap (s : State) (p i : Nat) : State :=
  s.modSite i (fun x => { x with lastBusy := s.now, steep := if s.pval p 0x30 2 = 0 then 8 else x.steep })

/-- The cluster queue whose running command the First-Layer Engine f runs: the lowest (R213). -/
def State.fleRunner (s : State) (f : Nat) : Option (Nat × QRef × CmdRec) :=
  ((List.range (6 * s.grade)).map (· + 6 * f * s.grade)).findSome? (fun n =>
    match s.running 1 n with
    | some (r, c) => if c.cmd.opcode = 2 ∧ (c.cmd.view c.held).fle then some (n, r, c) else none
    | none => none)

/-- The site whose arrays a tensor command of queue n works: its cluster's, or the First-Layer Engine's (R213, R215). -/
def State.workSite (s : State) (k n : Nat) (c : Cmd) (held : List (List Byte)) : Option Nat :=
  if k ≠ 1 ∨ c.opcode = 3 then none
  else if (c.view held).fle then some (1260 + s.fleOf n)
  else s.siteOf n

/-- Whether the arrays of that site are at work for queue n already. -/
def State.atWork (s : State) (n i : Nat) : Bool :=
  if 1260 ≤ i then (s.fleRunner (i - 1260)).isSome
  else (let q := s.queue 1 n; q.running.isSome || !q.issued.isEmpty || !q.preempted.isEmpty)

/-- s with the ticks of a schedule run that have not begun given up after a failure: their commands complete without
running, as contributors (R84, R298). -/
def State.stopTicks (s : State) (p l : Nat) : State :=
  match s.list p l with
  | none => s
  | some x =>
    let n := x.started
    if x.ticks.isEmpty ∨ x.cmds.length ≤ n ∨ !x.cmds.any (fun c => failed c.status) then s
    else
      let s := s.modList p l (fun x => { x with
        tick := x.ticks.length, cmds := x.cmds.mapIdx (fun j c => if n ≤ j then { c with st := .done, ran := false } else c) })
      (((x.cmds.drop n).zipIdx n).foldl (fun s e =>
        s.signal { part := p, list := l, index := e.2, lane := x.lane } e.1.cmd) s).finishList p l

/-- s with command r ended with a status without running: its list goes on (R105, R295). -/
def State.endUnrun (s : State) (r : QRef) (status : Nat) : State :=
  ((s.endCmd r status false).stopTicks r.part r.list).progress r.part

/-- s with waiting command r taken from queue n of kind k and dispatched (R84): its wait is broken, a check fails, its shape
is zero, or it runs; a recompute command whose range fails ends alone (R295). Where it ends its list, a run to a stop goes on
(R47, R86). -/
def State.dispatch (s : State) (k n : Nat) (r : QRef) : State :=
  match s.cmdOf r with
  | none => s
  | some c =>
    let s := (s.modQueue k n (fun q => { q with fifo := q.fifo.filter (· != r), lastLane := r.lane })).refill k n
    let s := s.traceStart (qKey k n) r
    let s := s.modList r.part r.list (fun x => { x with tStart := some (x.tStart.getD s.now) })
    if s.waitBroken r.part r.list c.cmd then s.endUnrun r (s.part r.part).fences.broken
    else
      let held := s.readHeld r.part c.cmd
      let f := s.fit r.part c held
      if f.status ≠ 0 ∧ c.cmd.kind = 3 ∧ c.cmd.opcode = 4 then s.endUnrun r f.status
      else if f.status ≠ 0 then (s.abandonList r.part r.list r.index f.status).progress r.part
      else
        let s := (s.recordStart k n r c.cmd held).modCmd r (fun c => { c with held := held })
        if f.empty then
          (if k = 1 then s.fillEmpty r.part (c.cmd.view held) else s).issue k n r 0x0101
        else
          let s : State := match s.workSite k n c.cmd held with
            | some i => if s.atWork n i then s else s.awaken r.part i
            | none => s
          (s.modCmd r (fun c => { c with st := .running })).modQueue k n (fun q => { q with running := some r })

/-- A close command starts while a decode command of its stream runs (R249, R273). -/
def State.closeNext (s : State) (n : Nat) : Option QRef :=
  match s.running 5 n, s.choose 5 n (fun _ => false) with
  | some (_, c), some h =>
    if c.cmd.opcode = 2 ∧ ((s.cmdOf h).map (fun x : CmdRec => x.cmd.opcode)) = some 3 then some h else none
  | _, _ => none

/-- s with the next command of queue n of kind k dispatched (R69, R78): a preempted tensor command resumes first, once the
command that preempted it has completed (R131). -/
def State.dispatchNext (s : State) (k n : Nat) : State :=
  if s.holds k n then s
  else
    let s := s.refill k n
    let q := s.queue k n
    match q.running with
    | some o =>
      if k = 5 then
        match s.closeNext n with
        | some r => (s.modQueue k n (fun q => { q with preempted := [o] })).dispatch k n r
        | none => s
      else s
    | none =>
      if k = 1 ∧ !q.preempted.isEmpty then
        (if q.issued.isEmpty then s.modQueue k n (fun q => { q with running := q.preempted.head?, preempted := q.preempted.drop 1 })
         else s)
      else match s.choose k n (fun _ => false) with
        | some r => s.dispatch k n r
        | none => s

/-- COMMAND_DISPATCH (R69, R78, R84). -/
def execCommandDispatch (kind q : Nat) (s : State) : Host.Outcome State Fault Refusal := answer s (s.dispatchNext kind q)

/-! ### Completion -/

/-- The next command of every queue of cluster n of partition p to be dispatched, by queue kind and lane (R349). -/
def State.nextCmds (s : State) (p n : Nat) : List (Nat × Nat × Nat × Nat) :=
  [1, 2, 3].flatMap (fun k => (s.part p).lists.filterMap (fun x =>
    (x.cmds.findIdx? (fun c => c.cmd.kind == k && c.cmd.target == n && (c.st == .held || c.st == .queued))).map
      (fun i => (k, x.lane, x.id, i))))

/-- s with the recovery record of cluster n's CCC written: command r, which signals a fence, has completed (R349). Commands
dispatched before it that still run stay in the record (log 112). -/
def State.recordFence (s : State) (n : Nat) (r : QRef) : State :=
  match s.siteOf n with
  | none => s
  | some i =>
    let f := (s.part r.part).fences
    let left := (s.site i).sinceFence.filter (fun q => q != r && ((s.cmdOf q).map (fun c => c.st != .done)).getD false)
    s.modSite i (fun x =>
      { x with
        sinceFence := left
        nonRepeat := left.any (fun q => ((s.cmdOf q).map (fun c => notRepeatable c.cmd c.held)).getD false)
        record :=
          { next := s.nextCmds r.part n, engine := [1, 2, 3].map (fun k => f.closedAt (fenceScope 1 k n))
            cluster := f.closedAt (fenceScope 2 1 n), resume := x.resume, mode := x.mode, retained := x.retained.isSome } })

/-- The writes of the oldest issued command of a queue are acknowledged: it completes (R101). A command that signals
renews the CCC's record (R349). -/
def State.complete (s : State) (k n : Nat) : State :=
  match (s.queue k n).issued with
  | [] => s
  | r :: _ =>
    let s := (s.modQueue k n (fun q => { q with issued := q.issued.drop 1 })).traceEnd (qKey k n) r
    match s.cmdOf r with
    | none => s
    | some c =>
      let s : State := match s.workSite k n c.cmd c.held with
        | some i => if s.atWork n i then s else s.beginGap r.part i
        | none => s
      let s := s.endCmd r c.status true
      let s := if 3 < k ∨ c.cmd.sigKind = 0 then s else s.recordFence n r
      (s.stopTicks r.part r.list).progress r.part

/-! ### Deadlines and the barrier watchdog -/

/-- DEADLINE_MISS (R78): a list of the lane whose deadline has passed is completed with 0x3101; its commands go on. -/
def execDeadlineMiss (p lane : Nat) (s : State) : Host.Outcome State Fault Refusal :=
  answer s
    (match (s.part p).lists.find? (fun x => x.lane == lane && x.missed s.now) with
     | some x => s.missList p x
     | none => s)

/-- Epochs above the closed one of a scope that something of partition p waits on (R106). -/
def State.waitedEpochs (s : State) (p kind : Nat) : List Nat :=
  let q := s.part p
  let shut := fun (e : Nat) => !q.fences.open (scopeKey kind 0) e
  (q.lists.flatMap (fun x =>
    (if !x.active && x.fenceKind == kind && shut x.fenceEpoch then [x.fenceEpoch] else []) ++
    ((x.cmds.filter (fun c => c.st == .queued && c.cmd.waitKind == kind && shut c.cmd.waitEpoch)).map (·.cmd.waitEpoch))))

/-- Insertion into a list ordered by queue kind, then target (R487). -/
def insertContrib (x : Nat × Nat × List Byte) (l : List (Nat × Nat × List Byte)) : List (Nat × Nat × List Byte) :=
  match l with
  | [] => [x]
  | y :: r => if x.1 < y.1 ∨ (x.1 = y.1 ∧ x.2.1 < y.2.1) then x :: y :: r else y :: insertContrib x r

/-- The open contributors to epoch e of a scope or to an earlier one, with the list and command of each. -/
def State.openContribs (s : State) (p key e : Nat) : List (ListRec × Contrib × Cmd) :=
  let f := (s.part p).fences
  let c := f.closedAt key
  (f.contribs.filter (fun x => x.scope == key && !x.done && epochDist x.epoch c ≤ epochDist e c)).filterMap (fun x =>
    (s.list p x.list).bind (fun l => (l.cmds[x.index]?).map (fun m => (l, x, m.cmd))))

/-- s with 0x3102 queued for epoch e of a fence kind (R106, R487). -/
def State.reportStall (s : State) (p kind e : Nat) : State :=
  let cs := s.openContribs p (scopeKey kind 0) e
  let recs := cs.foldl (fun l x => insertContrib (x.2.2.kind, x.2.2.target,
      le 1 x.2.2.kind ++ le 1 x.1.lane ++ le 2 x.2.2.target ++ le 4 (x.1.indexOf x.2.1.index) ++ le 8 x.1.subId) l) []
  let six := recs.take 6
  let s := s.modFences p (fun f => { f with reported := (scopeKey kind 0, e) :: f.reported })
  s.raise
    { status := 0x3102, part := p, ref := (six.head?.map (fun x => field x.2.2 8 8)).getD 0
      detail := le 1 kind ++ zeros 1 ++ le 2 (if kind = 5 then s.group p else p) ++ le 4 e ++ le 4 cs.length ++
        six.flatMap (fun x => x.2.2.take 8) }

/-- Whether epoch e of a scope has had a completed contributor for as long as the watchdog allows (R106). -/
def State.stalled (s : State) (p kind e : Nat) : Bool :=
  let f := (s.part p).fences
  f.contribs.any (fun x => x.scope == scopeKey kind 0 && x.epoch == e && x.done &&
    x.tick + s.valNat 0x6010 1 * Config.ticksPerMs < s.time.ticks) && !f.reported.contains (scopeKey kind 0, e)

/-- BARRIER_STALLED (R106): once for an epoch that stays open with waiters; the barrier stays open. -/
def execBarrierStalled (p kind : Nat) (s : State) : Host.Outcome State Fault Refusal :=
  answer s
    (if 3 ≤ kind ∧ kind ≤ 5 ∧ s.valNat 0x6010 1 ≠ 0 ∧ (s.part p).state.works then
       (match (s.waitedEpochs p kind).find? (fun e => s.stalled p kind e) with
        | some e => s.reportStall p kind e
        | none => s)
     else s)

/-! ### Schedule runs -/

/-- SCHEDULE_TICK (R298): once every command of the earlier ticks is dispatched, the parameter block is written and the
next tick's list starts. No tick starts after a failure, while a sachet is taken, or in Host-lost (R299, R304). -/
def State.nextTick (s : State) (p lane : Nat) : State :=
  match (s.part p).lists.find? (fun x => x.lane == lane && x.active && !x.abandoned && !x.ticks.isEmpty) with
  | none => s
  | some x =>
    match x.ticks[x.tick]? with
    | none => s
    | some t =>
      if (s.part p).state = .hostLost ∨ (s.part p).rcv.capture.isSome ∨
          (x.cmds.take x.started).any (fun c => c.st == .held || c.st == .queued || failed c.status) then s
      else
        let s := s.store p x.param (t.2.flatMap (le 4))
        let s := s.modList p x.id (fun y => { y with tick := y.tick + 1 })
        (s.count (partCounters p) ctrSchedTicks 1).dealList p ((s.list p x.id).getD x) (fun _ => true)

/-- SCHEDULE_TICK (R298). -/
def execScheduleTick (p lane : Nat) (s : State) : Host.Outcome State Fault Refusal := answer s (s.nextTick p lane)

end Sys2Proof.Machine
end

