-- ==== Sys2Proof/Machine/Tensor.lean ====
section
/-!
DEFINITION. The tensor array: passes, loads of the stationary operand, initialisation, column sums, the epilogue at the end
of a k-range (R114 to R125, R146 to R150, R168 to R178), spatial taps and pooling (R197 to R205), array modes (R127),
preemption (R130, R131, R162), core faults and retirement (R133 to R136, R214), steep mode (R137 to R139).
-/

namespace Sys2Proof.Machine

open Sys2Proof

/-! ### Cores -/

/-- The physical array that stands for array a when retired ones were replaced by the spares 64 to 67 in order (R212,
R214). -/
def fleArray (retired : List Nat) (fuel a : Nat) : Nat :=
  match fuel with
  | 0 => a
  | k + 1 =>
    match retired.findIdx? (· == a) with
    | some i => fleArray retired k (64 + i)
    | none => a

/-- Logical array of a physical array of First-Layer Engine f, none when it serves none. -/
def State.fleLogical (s : State) (f pa : Nat) : Option Nat :=
  (List.range 64).find? (fun a => fleArray (s.fle f).retired 5 a == pa)

/-- Physical core row and column behind a core row and logical core column of a site; sites 1260 to 1264 are the First-Layer
Engines, whose arrays stand as 34 to a row (log 22). -/
def State.physCore (s : State) (site : Nat) (k : Nat × Nat) : Nat × Nat :=
  if site < 1260 then (k.1, (s.site site).coreColumns.getD k.2 33)
  else (let a := fleArray (s.fle (site - 1260)).retired 5 (k.1 * 32 + k.2); (a / 34, a % 34))

/-- The site whose arrays run a tensor command: its cluster's, or the First-Layer Engine's (R213). -/
def State.execSite (s : State) (v : TView) : Nat :=
  if v.fle then 1260 + s.fleOf v.cmd.target else (s.siteOf v.cmd.target).getD 0

/-- Place of one of the two sets of stationary registers of a core (R118). -/
def regPlace (site row col set : Nat) : Nat := planePlace site (0xC000000 + (row * 34 + col) * 2048 + set * 1024)

/-- Number of the set that is active in a core (R118). -/
def State.regSet (s : State) (site row col : Nat) : Nat := Tab.get (s.site site).regs 0 (row * 34 + col)

/-- Place of the active registers of a core. -/
def State.activeRegs (s : State) (site row col : Nat) : Nat := regPlace site row col (s.regSet site row col)

/-- n bytes of memory from a place, and the number they hold. -/
def memBytes (m : Mem) (k n : Nat) : List Byte := (List.range n).map (fun i => Mem.get m (k + i))
def memNat (m : Mem) (k n : Nat) : Nat := ofLe (memBytes m k n)

/-- Memory with bytes put from a place on. -/
def memPut (m : Mem) (k : Nat) (bs : List Byte) : Mem := Mem.putAll m (bs.zipIdx.map (fun e => (k + e.2, e.1)))

/-- Place of the accumulator element of output (m, n) of array a in a pass whose first slot is given (R168, R169). -/
def State.accAt (s : State) (site mode a slot m n : Nat) : Nat :=
  let q := s.physCore site (tileCore mode a m n)
  accPlace site q.1 q.2 (slot + tileSlot mode m) (m % 16 * 64 + n % 16 * 4)

/-! ### The stationary operand -/

/-- The cores that hold the stationary block of a pass in array a (R114, R127). -/
def TView.loadCores (v : TView) (a : Nat) : List (Nat × Nat) :=
  (List.range ((v.loop.passK + 15) / 16)).flatMap (fun kb =>
    (List.range ((v.loop.passN + 15) / 16)).map (fun nb => cellCore v.loop.mode a (16 * kb) (16 * nb)))

/-- s with the tile at a core-local offset loaded into the shadow registers of some cores, and the two sets of those cores
swapped (R117, R118). -/
def State.loadTiles (s : State) (site code off : Nat) (cores : List (Nat × Nat)) : State :=
  cores.foldl (fun s k =>
    let q := s.physCore site k
    let shadow := 1 - s.regSet site q.1 q.2
    { s with mem := memPut s.mem (regPlace site q.1 q.2 shadow) (memBytes s.mem (bufPlace site q.1 q.2 off) (wTile code)) }.modSite
      site (fun x => { x with regs := Tab.set x.regs (q.1 * 34 + q.2) shadow })) s

/-- Key of a kept stationary block: format, orientation, and the rows and columns it covers (R118). -/
def blockKey (code orient k n : Nat) : Nat := ((code * 2 + orient) * 1024 + n) * 256 + k

/-- Whether a kept block of key b serves a block of key c: same format and orientation, at least its rows and columns. -/
def blockServes (b c : Nat) : Bool :=
  b / 262144 == c / 262144 && c / 256 % 1024 ≤ b / 256 % 1024 && c % 256 ≤ b % 256

def TView.key (v : TView) : Nat := blockKey v.cmd.fmt (v.cmd.arg4 % 2) v.loop.passK v.loop.passN

/-- Stationary element (k, n) of array a as a value, from the active registers (R117, R153). -/
def State.wElem (s : State) (site : Nat) (v : TView) (a k n : Nat) : FV :=
  let q := s.physCore site (cellCore v.loop.mode a k n)
  let f := ((formatPair v.cmd.fmt).map (·.2)).getD fp32
  let i := if bit v.cmd.arg4 0 then 16 * (n % 16) + k % 16 else 16 * (k % 16) + n % 16
  f.decode (packedElem (memBytes s.mem (s.activeRegs site q.1 q.2) (wTile v.cmd.fmt)) f.width i)

/-- The scale of a block of the stationary operand in column n: that of the tile that holds the block's first row (R124,
R153). -/
def State.wScale (s : State) (site : Nat) (v : TView) (a k n : Nat) : FV :=
  let q := s.physCore site (cellCore v.loop.mode a k n)
  scaleValue (memNat s.mem (s.activeRegs site q.1 q.2 + 32 * wBits v.cmd.fmt + n % 16) 1)

/-! ### The streaming operand -/

/-- Where streaming element (m, k) of a pass comes from: nothing, the padding constant, or a bit field of memory with its
element index in the tensor (R146, R116, R197, R203). -/
inductive Source where
  | gated
  | constant
  | cell (addr bit elem : Nat)
deriving DecidableEq, Repr

/-- Output pixels and contraction rows that a spatial command covers. -/
def Spatial.pixels (x : Spatial) : Nat := x.outH * x.outW

/-- The source of streaming element (m, k) of pass j in array a. -/
def TView.source (v : TView) (j a m k : Nat) : Source :=
  let w := elemBits v.cmd.fmt
  let addr := v.addrA j a
  let first := (addr - v.base Level.ptrA v.bufs.a v.aList j a) * 8 / w
  match v.spat with
  | none =>
    if v.bufs.a.loc = 4 then
      .cell addr (wavefront (cycles2 v.cmd.fmt) v.loop.passM v.loop.passK m k * w) (first + m * v.loop.passK + k)
    else .cell (addr + m * v.loop.aPitch) (k * w) (first + m * v.loop.aPitch * 8 / w + k)
  | some x =>
    match x.tap w (v.group j a) (v.dimIndex 0 v.loop.passM j a + m) (v.dimIndex 2 v.loop.passK j a + k) with
    | .gated => .gated
    | .constant => .constant
    | .data off c => .cell addr (off + c * w) (first + off / w + c)

/-- A row beyond the output pixels of a spatial command: its results are undefined (R158, R198). -/
def TView.excess (v : TView) (j a m : Nat) : Bool :=
  match v.spat with
  | none => false
  | some x => x.pixels ≤ v.dimIndex 0 v.loop.passM j a + m

/-- A streaming element as a value, none where its MAC is gated. -/
def State.aElem (s : State) (p : Nat) (v : TView) (src : Source) : Option FV :=
  match src with
  | .gated => none
  | .constant => some ((formatOf v.cmd.fmt).decode ((v.spat.map Spatial.padValue).getD 0))
  | .cell addr b _ => some ((formatOf v.cmd.fmt).decode (s.rdBits p addr b (elemBits v.cmd.fmt)))

/-- The scale of a block of streaming elements: that of its first element that is not gated. -/
def State.aScale (s : State) (p : Nat) (v : TView) (j a : Nat) (srcs : List Source) : Option FV :=
  let e := v.bufs.a
  srcs.findSome? (fun x =>
    match x with
    | .cell _ _ i => some (scaleValue (s.rdNat p (scaleAddr (v.base Level.ptrA e v.aList j a) e.scale i) 1))
    | _ => none)

/-! ### Sums (R124) -/

/-- A sum with the number of results that became infinite from finite operands (R140). -/
abbrev Sum := Nat × Nat

/-- c + a × b, rounded once. -/
def Sum.fma (c : Sum) (a b : FV) : Sum :=
  let r := fmaF32 c.1 a b
  (r, c.2 + (if (ofF32 r).special && !(ofF32 c.1).special && !a.special && !b.special then 1 else 0))

/-- The FP32 sum of two sums' values. -/
def Sum.add (a b : Sum) : Sum :=
  let r := addF32 a.1 b.1
  (r, a.2 + b.2 + (if (ofF32 r).special && !(ofF32 a.1).special && !(ofF32 b.1).special then 1 else 0))

/-- The products of some streaming and stationary elements added in order from +0; a gated element adds nothing. -/
def columnSum (xs : List (Option FV × FV)) : Sum :=
  xs.foldl (fun c x => match x.1 with | some a => c.fma a x.2 | none => c) (0, 0)

/-- Rows of one scale block within a pass (R124, R145). -/
def scaleRows (mode : Nat) : Nat := if mode = 1 then 16 else 32

/-- A block's sum times its two scales, in FP32: whether the scaling alone made it infinite is counted (R124, R140). -/
def Sum.scaled (c : Sum) (a w : FV) : Sum :=
  let r := toF32 (.mul (.mul (ofF32 c.1) a) w)
  (r, c.2 + (if (ofF32 r).special && !(ofF32 c.1).special && !a.special && !w.special then 1 else 0))

/-- The column sum of output (m, n) of pass j in array a: srcs are the sources of row m, ws the stationary column. -/
def State.outSum (s : State) (p site : Nat) (v : TView) (j a n : Nat) (srcs : List Source) (ws : List FV) : Sum :=
  let xs := (srcs.map (s.aElem p v)).zip ws
  if !isMx v.cmd.fmt then columnSum xs
  else
    let r := scaleRows v.loop.mode
    (List.range ((v.loop.passK + r - 1) / r)).foldl (fun acc b =>
      let part := columnSum ((xs.drop (r * b)).take r)
      match s.aScale p v j a ((srcs.drop (r * b)).take r) with
      | none => acc
      | some sa =>
        Sum.add acc (part.scaled sa (s.wScale site v a (r * b) n))) (0, 0)

/-! ### One pass -/

/-- Counter index and counter numbers of the unit that runs a command: gated taps, skipped passes, pooled outputs, passes. -/
def TView.ctrIdx (v : TView) (s : State) : Nat :=
  if v.fle then 0x6D00 + s.fleOf v.cmd.target else siteIndex (s.execSite v)
def TView.ctrNo (v : TView) (k : Nat) : Nat :=
  if v.fle then (if k = 0 then 1 else if k = 1 then 2 else if k = 2 then 3 else 4)
  else (if k = 0 then ctrGated else if k = 1 then ctrSkippedPasses else if k = 2 then ctrPooled else 1)

/-- A pass of an array is not run: every streaming element is a skipped tap or an excess k, and none belongs to an output pixel
beyond the last (R202). -/
def TView.skipped (v : TView) (j a : Nat) : Bool :=
  v.spat.isSome && !v.pool &&
  (List.range v.loop.passM).all (fun m => !v.excess j a m &&
    (List.range v.loop.passK).all (fun k => v.source j a m k == .gated))

/-- Gated taps of a pass: output pixels and taps whose first channel it skips, counted in the first N iteration (R201). -/
def TView.gatedTaps (v : TView) (j a : Nat) : Nat :=
  match v.spat with
  | none => 0
  | some x =>
    if v.pool || (v.lv.filter (fun l => l.1.dim == 1 && l.1.place != 2)).any (fun l => v.idx l j a != 0) then 0
    else
      let k0 := v.dimIndex 2 v.loop.passK j a
      ((List.range v.loop.passM).map (fun m =>
        if v.excess j a m then 0
        else ((List.range v.loop.passK).filter (fun k =>
          (k0 + k) % max 1 x.cg == 0 && k0 + k < x.kH * x.kW * x.cg && v.source j a m k == .gated)).length)).sum

/-- The FP32 value that initialises output (m, n): +0, the I tensor, or the accumulator as it stands (R122, R143). -/
def State.initRow (s : State) (p : Nat) (v : TView) (j a m : Nat) : Option (List Nat) :=
  if !v.opens j ∨ v.loop.init = 2 then none
  else if v.loop.init = 0 then some (List.replicate v.loop.passN 0)
  else
    let e := v.bufs.i
    some ((s.rowValues p (v.addrI j a + m * v.loop.yPitch) e.fmt v.loop.passN
      (v.base Level.ptrY e v.iList j a) e.scale).map toF32)

/-- s with the reads of the I tensor for row m counted by their channels (R231). -/
def State.countInit (s : State) (p : Nat) (v : TView) (j a m : Nat) : State :=
  if !v.opens j ∨ v.loop.init = 2 ∨ v.loop.init = 0 then s
  else s.loadedRow p (v.addrI j a + m * v.loop.yPitch) v.bufs.i.fmt v.loop.passN (v.base Level.ptrY v.bufs.i v.iList j a) v.bufs.i.scale

/-- s with row m of pass j in array a added into its tiles: runs says whether the pass runs; slot is the pass's first. A row
beyond the output pixels, and a tile that another engine wrote into, comes to free values (R158, R172). -/
def State.passRow (s : State) (p site : Nat) (v : TView) (slot j a m : Nat) (ws : List (List FV)) (runs : Bool) : State :=
  let srcs := (List.range v.loop.passK).map (v.source j a m)
  let init := s.initRow p v j a m
  let cells : List (Nat × Sum) := (List.range v.loop.passN).map (fun n =>
    let k := s.accAt site v.loop.mode a slot m n
    let old := (init.map (fun r => r.getD n 0)).getD (memNat s.mem k 4)
    let r : Sum :=
      if v.excess j a m ∨ (s.site site).spoiled.contains (k / 1024) then (freeF32 (s.free + 4 * n), 0)
      else if runs then Sum.add (old, 0) (s.outSum p site v j a n srcs (ws.getD n [])) else (old, 0)
    (k, r))
  let s := s.countInit p v j a m
  let s := if v.excess j a m ∨ !(s.site site).spoiled.isEmpty then s.spend (4 * v.loop.passN) else s
  { s with mem := cells.foldl (fun (mem : Mem) (c : Nat × Sum) => memPut mem c.1 (le 4 c.2.1)) s.mem }.count (siteIndex site) 10
    ((cells.map (fun (c : Nat × Sum) => c.2.2)).sum)

/-- Row m of a pass as it stands in the accumulators. -/
def State.accRow (s : State) (site : Nat) (v : TView) (slot a m : Nat) : List Nat :=
  (List.range v.loop.passN).map (fun n => memNat s.mem (s.accAt site v.loop.mode a slot m n) 4)

/-- First staging slot of the epilogue: below the preemption reserve, or the last two of an FLE's 16 (R159, R212). -/
def State.stagingSlot (s : State) (p : Nat) (v : TView) : Nat := if v.fle then 14 else 64 - s.pval p 0x30 4 - s.pval p 0x30 3

/-- s with the tiles of array a passed through the staging slots of their cores, X through one and the cast tile through the other.
The spec does not say how they lie there: they hold free values afterwards (R159, R179). -/
def State.stage (s : State) (p site : Nat) (v : TView) (a : Nat) : State :=
  let cores := ((List.range ((v.loop.passM + 15) / 16)).flatMap (fun q =>
    (List.range ((v.loop.passN + 15) / 16)).map (fun nb => tileCore v.loop.mode a (16 * q) (16 * nb)))).eraseDups
  let n := 1024 * v.staging
  let b := s.stagingSlot p v
  cores.foldl (fun (s : State) k =>
    let q := s.physCore site k
    ({ s with mem := memPut s.mem (accPlace site q.1 q.2 b 0) ((List.range n).map (fun i => Config.freeByte (s.free + i))) }).spend n) s

/-- s with the rows of the tiles of pass j in array a, as vals gives them, written out by the epilogue (R174, R177, R179). -/
def State.writeRows (s : State) (p site : Nat) (v : TView) (j a : Nat) (vals : State → Nat → List Nat) : State :=
  if v.bufs.storeOp = 0 then s
  else
    let tiles := (v.loop.passM + 15) / 16 * ((v.loop.passN + 15) / 16)
    (((List.range v.loop.passM).foldl (fun s m => s.epilogueRow p v site j a m (vals s m)) s).stage p site v a).count
      (siteIndex site) ctrTiles tiles

/-- s with the tiles of pass j in array a written out by the epilogue from their slots. -/
def State.writeOut (s : State) (p site : Nat) (v : TView) (slot j a : Nat) : State :=
  s.writeRows p site v j a (fun s m => s.accRow site v slot a m)

/-- Array cycles of the streaming phase of a pass (R119). -/
def TView.stream (v : TView) : Nat := cycles2 v.cmd.fmt * v.loop.passM / 2

/-- Cycles of a load (R118). -/
def TView.loadTime (v : TView) : Nat := 2 * wBits v.cmd.fmt

/-- Cores that a pass of one array uses (R120, R127). -/
def TView.usedCores (v : TView) : Nat := (v.loop.passK + 15) / 16 * ((v.loop.passN + 15) / 16)

/-- s with what pass j comes to over its arrays counted, over the streaming phase: cells at work, masked cells of used cores,
and cores that no array of the pass uses, which in a chive mode run dummy operations where steep mode is on (R120, R127,
R137, R140, log 99). -/
def State.countCycles (s : State) (p site : Nat) (v : TView) (runs : Nat) : State :=
  let t := v.stream
  let cells := v.loop.passK * v.loop.passN
  let idle := 256 - (if v.loop.mode = 0 then v.usedCores else runs * (256 / arraysOf v.loop.mode))
  let dummy := v.loop.mode != 0 && s.pval p 0x30 2 != 0 && runs != 0 && idle != 0
  let s := (s.count (siteIndex site) 3 (runs * cells * t)).count (siteIndex site) 4 (runs * (256 * v.usedCores - cells) * t)
  if runs = 0 then s
  else if dummy then s.count (siteIndex site) 6 t
  else s.count (siteIndex site) 5 (idle * t)

/-- s with the lines of the slice that a First-Layer Engine reads A from in pass j of array a counted, each once (R213, R231, log
102). -/
def State.countA (s : State) (p : Nat) (v : TView) (j a : Nat) : State :=
  if !v.fle ∨ v.bufs.a.loc ≠ 1 then s
  else
    let lines := ((List.range v.loop.passM).flatMap (fun m => (List.range v.loop.passK).filterMap (fun k =>
      match v.source j a m k with
      | .cell addr b _ => some ((addr + b / 8) / 64)
      | _ => none))).eraseDups
    lines.foldl (fun s l => s.loaded p (64 * l) 64) s

/-- s with pass j of array a run: the stationary block is loaded unless it is the one in the registers, rows are added, and
the epilogue writes tiles whose k-range closes. cur holds the offsets in the registers by array. -/
def State.onePass (s : State) (p site : Nat) (v : TView) (base j a : Nat) (cur : List (Option Nat)) :
    State × List (Option Nat) :=
  let slot := v.slot base j
  let skip := v.skipped j a
  let off := v.offW j a
  let load := !skip && cur.getD a none != some off
  let s := if load then s.loadTiles site v.cmd.fmt off (v.loadCores a) else s
  let s := if skip then s else s.countA p v j a
  let cur := if load then cur.set a (some off) else cur
  let ws := (List.range v.loop.passN).map (fun n => (List.range v.loop.passK).map (fun k => s.wElem site v a k n))
  let s := (List.range v.loop.passM).foldl (fun s m => s.passRow p site v slot j a m ws (!skip)) s
  let s := (s.count (v.ctrIdx s) (v.ctrNo 0) (v.gatedTaps j a)).count (v.ctrIdx s) (v.ctrNo (if skip then 1 else 3)) 1
  let s := if skip || v.fle then s else s.count (siteIndex site) 2 v.loop.passM
  (if v.closes j then s.writeOut p site v slot j a else s, cur)

/-- s with pass j run in the arrays that sel picks. first says that no pass of the run came before it: a load that takes longer than the
streaming phase before it leaves the array idle (R118, R140, log 99). -/
def State.passAll (s : State) (p site : Nat) (v : TView) (base j : Nat) (sel : Nat → Bool) (first : Bool)
    (cur : List (Option Nat)) : State × List (Option Nat) :=
  let as := (List.range v.arrays).filter sel
  let r := as.foldl (fun (x : State × List (Option Nat)) a => x.1.onePass p site v base j a x.2) (s, cur)
  if v.fle then r
  else
    let runs := (as.filter (fun a => !v.skipped j a)).length
    let stall := if first || r.2 == cur then 0 else v.loadTime - v.stream
    ((r.1.countCycles p site v runs).count (siteIndex site) 8 stall, r.2)

/-! ### Pooling (R204, R205) -/

/-- The pooled value of channel c at output pixel m of an image: its in-data taps, in row-major order. -/
def State.pooled (s : State) (p : Nat) (v : TView) (x : Spatial) (j a m c : Nat) : Nat :=
  let w := elemBits v.cmd.fmt
  let e := v.bufs.a
  let base := v.base Level.ptrA e v.aList j a
  let addr := v.addrA j a
  let vals := (List.range (x.kH * x.kW)).map (fun t =>
    match x.pixel m (t / x.kW) (t % x.kW) with
    | some (ih, iw) =>
      let off := x.pixelOff w ih iw
      let b := (formatOf v.cmd.fmt).decode (s.rdBits p addr (off + c * w) w)
      some (toF32 (if isMx v.cmd.fmt then
        .mul b (scaleValue (s.rdNat p (scaleAddr base e.scale (((addr - base) * 8 + off) / w + c)) 1)) else b))
    | none => none)
  let ins := vals.filterMap id
  let pad := if x.padMode = 1 then toF32 ((formatOf v.cmd.fmt).decode x.padValue) else 0
  if x.kind = 1 then
    match ins with
    | [] => freeF32 s.free
    | y :: r => toF32 (r.foldl (fun b z => FV.maximum b (ofF32 z)) (ofF32 y))
  else if x.kind = 2 ∧ ins.isEmpty then pad
  else if x.kind = 2 then
    divF32 (ofF32 ((vals.map (fun y => y.getD pad)).foldl addF32 0)) (x.kH * x.kW)
  else divF32 (ofF32 (ins.foldl addF32 0)) (max 1 ins.length)

/-- s with pass j of array a of a pooling command run. Values beyond the pixels or channels are undefined (R158). -/
def State.poolPass (s : State) (p site : Nat) (v : TView) (x : Spatial) (j a : Nat) : State :=
  let m0 := v.dimIndex 0 v.loop.passM j a
  let c0 := v.dimIndex 1 v.loop.passN j a
  (List.range v.loop.passM).foldl (fun s m =>
    let cell := fun (n : Nat) =>
      if x.pixels ≤ m0 + m ∨ x.inC ≤ c0 + n then none else some (s.pooled p v x j a (m0 + m) (c0 + n))
    let cells := (List.range v.loop.passN).map cell
    let vals := cells.zipIdx.map (fun e => e.1.getD (freeF32 (s.free + 4 * e.2)))
    let s := (s.spend (4 * v.loop.passN)).count (siteIndex site) ctrPooled (cells.filterMap id).length
    s.epilogueRow p v site j a m vals) s

/-- The same with the tiles that it writes counted (R193). -/
def State.poolTiles (s : State) (p site : Nat) (v : TView) (x : Spatial) (j a : Nat) : State :=
  (s.poolPass p site v x j a).count (siteIndex site) ctrTiles
    (if v.bufs.storeOp = 0 then 0 else (v.loop.passM + 15) / 16 * ((v.loop.passN + 15) / 16))

/-! ### Commands -/

/-- The first accumulator slot of a command: its own, or the reserve of a preempting one (R162, R170). -/
def State.slotBase (s : State) (p n : Nat) (v : TView) : Nat :=
  if (s.queue 1 n).preempted.isEmpty then v.loop.accBase else 64 - s.pval p 0x30 4

/-- First accumulator slot that a command uses in the arrays that run it. -/
def State.baseOf (s : State) (p n : Nat) (v : TView) : Nat := if v.fle then v.loop.accBase else s.slotBase p n v

/-- s with some passes of a GEMM or convolution run in order, each in the arrays that sel picks for it, from the registers as a
kept block leaves them. -/
def State.runList (s : State) (p site n : Nat) (v : TView) (js : List Nat) (sel : Nat → Nat → Bool) : State :=
  let kept : List (Option Nat) := match (s.site site).retained with
    | some (b, offs) => if blockServes b v.key then (List.range v.arrays).map (fun a => offs[a]?) else List.replicate v.arrays none
    | none => List.replicate v.arrays none
  let base := s.baseOf p n v
  let r := js.zipIdx.foldl (fun (x : State × List (Option Nat)) j => x.1.passAll p site v base j.1 (sel j.1) (j.2 == 0) x.2) (s, kept)
  r.1.modSite site (fun x =>
    { x with retained := if r.2.all Option.isSome then some (v.key, r.2.map (fun o => o.getD 0)) else none })

/-- s with passes lo to hi − 1 run. -/
def State.runPasses (s : State) (p site n : Nat) (v : TView) (lo hi : Nat) : State :=
  s.runList p site n v ((List.range (hi - lo)).map (· + lo)) (fun _ _ => true)

/-- s with the stationary block of a site given up unless the command keeps it (R118). -/
def State.endBlock (s : State) (site : Nat) (keep : Bool) : State :=
  if keep then s else s.modSite site (fun x => { x with retained := none })

/-- The cluster site of logical cluster n. -/
def State.siteN (s : State) (n : Nat) : Nat := (s.siteOf n).getD 0

/-- The resume record of command r on site i: none done, nothing kept, where it has none (R131). -/
def State.record (s : State) (i : Nat) (r : QRef) : Resume :=
  ((s.site i).resume.filter (fun e => e.ref == r)).getD { ref := r, passes := 0 }

/-- s with the stationary block that a resume record keeps back in the registers of the arrays that run the command (R131,
R135). -/
def State.reload (s : State) (site : Nat) (v : TView) (kept : Option (Nat × List Nat)) : State :=
  match kept with
  | some (b, offs) =>
    if (s.site site).retained = kept ∨ !blockServes b v.key then s
    else
      ((List.range v.arrays).foldl (fun s a =>
        s.loadTiles site v.cmd.fmt (offs.getD a 0) (v.loadCores a)) s).modSite site (fun x => { x with retained := kept })
  | none => s

/-- Passes of one k-range: they differ in sequential K levels only (R122). -/
def TView.sameRange (v : TView) (i j : Nat) : Bool := v.seqs.all (fun x => x.1.dim == 2 || v.idx x i 0 == v.idx x j 0)

/-- Whether a replay of the k-ranges of some passes and arrays runs pass i in array a (R134). -/
def TView.replays (v : TView) (js : List (Nat × Nat)) (i a : Nat) : Bool := js.any (fun j => j.2 == a && v.sameRange i j.1)

/-- The passes before pass k that such a replay runs. -/
def TView.replayed (v : TView) (js : List (Nat × Nat)) (k : Nat) : List Nat :=
  (List.range k).filter (fun i => (List.range v.arrays).any (v.replays js i))

/-- s with the k-ranges of some passes and arrays replayed up to pass k, where the command stands: they count as replays (R134,
R140, R216). Tiles that were not affected come out as they stood. -/
def State.replay (s : State) (p site n : Nat) (v : TView) (js : List (Nat × Nat)) (k : Nat) : State :=
  let is := v.replayed js k
  if is.isEmpty then s
  else
    let s := s.runList p site n v is (v.replays js)
    if v.fle then s
    else s.count (siteIndex site) 12 ((is.map (fun i => ((List.range v.arrays).filter (v.replays js i)).length)).sum)

/-- s with command r of queue n run up to pass k from where it stands: the block of its resume record loaded again and its
replay made first. Its record then says so (R131, R134). -/
def State.runTo (s : State) (n : Nat) (r : QRef) (v : TView) (k : Nat) : State :=
  let i := s.siteN n
  let site := s.execSite v
  let e := s.record i r
  if k ≤ e.passes then s.modSite i (fun x => { x with resume := some e })
  else
    let s := (s.reload site v e.kept).replay r.part site n v e.replay e.passes
    let s := s.runPasses r.part site n v e.passes k
    s.modSite i (fun x => { x with
      resume := some { ref := r, passes := k, kept := (s.site site).retained }
      cleared := if e.replay.isEmpty then x.cleared else [] })

/-- A GEMM or convolution from where it stands to its end. -/
def State.runTensor (s : State) (n : Nat) (r : QRef) (c : CmdRec) : State × Nat :=
  let v := c.cmd.view c.held
  let i := s.siteN n
  let site := s.execSite v
  let s : State := match v.spat with
    | some x =>
      if v.pool then
        ((List.range v.passes).foldl (fun (s : State) j =>
          (List.range v.arrays).foldl (fun (s : State) a => s.poolTiles r.part site v x j a) s) s).endBlock site false
      else (s.runTo n r v v.passes).endBlock site (bit c.cmd.arg4 1)
    | none => (s.runTo n r v v.passes).endBlock site (bit c.cmd.arg4 1)
  let s := if v.fle then s.endBlock i false else s
  (s.modSite i (fun x => { x with resume := x.resume.filter (fun e => e.ref != r), cleared := [], spoiled := [] }), 0)

/-- s after an engine other than the tensor array of cluster m wrote n bytes at address a: a tile of the accumulator window in a
slot of its running tensor command becomes undefined until that command ends (R172). -/
def State.spoilTiles (s : State) (p m a n : Nat) : State :=
  match s.running 1 m with
  | some (r, c) =>
    if n = 0 ∨ !s.inAccWindow p a 1 ∨ c.cmd.opcode = 3 ∨ c.cmd.opcode = 4 then s
    else
      let v := c.cmd.view c.held
      let i := s.siteN m
      let base := s.slotBase r.part m v
      let slotOf := fun (k : Nat) => (k - planePlace i accOff) / 1024 % 64
      let hit := ((List.range ((a % 1024 + n - 1) / 1024 + 1)).filterMap (fun j => s.place p (a / 1024 * 1024 + 1024 * j))).map (· / 1024)
      let hit := hit.filter (fun t => base ≤ slotOf (t * 1024) && slotOf (t * 1024) < base + v.footprint)
      hit.foldl (fun (s : State) t =>
        ({ s with mem := memPut s.mem (t * 1024) ((List.range 1024).map (fun b => Config.freeByte (s.free + b))) }.modSite i
          (fun x => { x with spoiled := t :: x.spoiled })).spend 1024) s
  | none => s

/-- s after an engine other than a tensor array wrote n bytes at a partition address: the tiles of a running tensor command that lie
there become undefined (R172). -/
def State.spoilAt (s : State) (p a n : Nat) : State :=
  if planeBase ≤ a then s.spoilTiles p ((a - planeBase) / planeStep) a n else s

/-- A tensor command of cluster n that reads the plane: a parity error stops it with 0x2201, and its array keeps nothing of it
(R118, R236, R240). -/
def State.tensorRead (s : State) (n : Nat) (sel : Cmd → Bool) (parity : Option Nat) (f : State → QRef → CmdRec → State × Nat) :
    State :=
  s.engine 1 n sel (fun s r c =>
    match s.parityAt r.part parity with
    | some a =>
      ((s.stopRead r c a).modSite (s.siteN n) (fun x => { x with retained := none, resume := none, cleared := [], spoiled := [] }), 0x2201)
    | none => f s r c)

/-- GEMM (R141, R147). -/
def execGemm (n : Nat) (parity : Option Nat) (s : State) : Host.Outcome State Fault Refusal :=
  answer s (s.tensorRead n (fun c => c.opcode == 1) parity (fun s r c => s.runTensor n r c))

/-- SPATIAL_OPERATOR (R194, R197, R204, R213). -/
def execSpatialOperator (u : EngineRun) (s : State) : Host.Outcome State Fault Refusal :=
  answer s (s.tensorRead u.n (fun c => c.opcode == 2) u.parity (fun s r c => s.runTensor u.n r c))

/-- s with cluster n in an array mode; a kept stationary block is discarded (R127). -/
def State.setMode (s : State) (n mode : Nat) : State :=
  s.engine 1 n (fun c => c.opcode == 3 && c.arg4 % 4 == mode) (fun s _ _ =>
    (s.modSite (s.siteN n) (fun x => { x with mode := mode, retained := none }), 0))

/-- SET_ARRAY_MODE_WIDE (R127). -/
def execSetArrayModeWide (n : Nat) (s : State) : Host.Outcome State Fault Refusal := answer s (s.setMode n 0)

/-- SET_ARRAY_MODE_CHIVE_16 (R127). -/
def execSetArrayModeChive16 (n : Nat) (s : State) : Host.Outcome State Fault Refusal := answer s (s.setMode n 1)

/-- SET_ARRAY_MODE_CHIVE_32 (R127). -/
def execSetArrayModeChive32 (n : Nat) (s : State) : Host.Outcome State Fault Refusal := answer s (s.setMode n 2)

/-- LOAD_STATIONARY (R118): every core of the cluster loads the tile at the core-local offset of arg0. -/
def execLoadStationary (u : EngineRun) (s : State) : Host.Outcome State Fault Refusal :=
  answer s (s.tensorRead u.n (fun c => c.opcode == 4) u.parity (fun s _ c =>
    let i := s.siteN u.n
    let cores := (List.range 8).flatMap (fun r => (List.range 32).map (fun c => (r, c)))
    let s := s.loadTiles i c.cmd.fmt c.cmd.arg0 cores
    (s.modSite i (fun x =>
      { x with retained := some (blockKey c.cmd.fmt (c.cmd.arg4 % 2) 128 512, List.replicate 256 c.cmd.arg0) }), 0)))

/-- EPILOGUE_ONLY (R178): the epilogue of every tile that the passes would have written, from the slots or from +0. -/
def execEpilogueOnly (u : EngineRun) (s : State) : Host.Outcome State Fault Refusal :=
  answer s (s.tensorRead u.n (fun c => c.opcode == 5) u.parity (fun s r c =>
    let v := c.cmd.view c.held
    let i := s.siteN u.n
    let base := s.slotBase r.part u.n v
    let s := (List.range v.passes).foldl (fun s j => (List.range v.arrays).foldl (fun s a =>
      if bit c.cmd.arg4 0 then s.writeRows r.part i v j a (fun _ _ => List.replicate v.loop.passN 0)
      else s.writeOut r.part i v (v.slot base j) j a) s) s
    (s.endBlock i false, 0)))

/-! ### Preemption (R130, R131, R162) -/

/-- Whether a waiting tensor command may preempt: its footprint fits the reserve, of which there must be one, and it
initialises its tiles itself (R159, R162, R215). An epilogue-only command never does (R178). A pooling or load-stationary
command has no footprint for R162 to test and waits its turn (log 98). -/
def State.mayPreempt (s : State) (p : Nat) (c : Cmd) : Bool :=
  (c.opcode == 1 || c.opcode == 2 || c.opcode == 5) && s.pval p 0x30 4 != 0 &&
  (let v := c.view (s.readHeld p c)
   !v.fle && !v.pool && v.footprint ≤ s.pval p 0x30 4 && v.staging ≤ s.pval p 0x30 3 && v.loop.init != 2)

/-- s with the running tensor command of cluster n stopped at the pass boundary after k passes: its resume record is made
(R131). -/
def State.stopAt (s : State) (n : Nat) (r : QRef) (c : CmdRec) (k : Nat) : State :=
  let v := c.cmd.view c.held
  if v.pool || c.cmd.opcode = 5 then
    s.modSite (s.siteN n) (fun x => { x with resume := some { ref := r, passes := min k v.passes } })
  else s.runTo n r v (min k v.passes)

/-- PREEMPTION (R130, R131): under switch, with another lane's tensor command ready that qualifies, the running command
stops after so many passes and that command runs in the reserve. -/
def execPreemption (n passesDone : Nat) (s : State) : Host.Outcome State Fault Refusal :=
  answer s
    (match s.running 1 n with
     | none => s
     | some (r, c) =>
       let v := c.cmd.view c.held
       if (s.part r.part).policy ≠ 0 ∨ !(c.cmd.opcode == 1 || c.cmd.opcode == 2) ∨ v.fle ∨ v.pool ∨ s.holds 1 n ∨
           !(s.queue 1 n).preempted.isEmpty ∨ v.passes ≤ passesDone then s
       else
         match s.choose 1 n (fun h => h.lane == r.lane ||
             !((s.cmdOf h).map (fun x : CmdRec => s.ready h.part x.cmd && s.mayPreempt h.part x.cmd)).getD false) with
         | none => s
         | some h =>
           let s := (s.stopAt n r c passesDone).count (siteIndex (s.siteN n)) 9 1
           (s.modQueue 1 n (fun q => { q with running := none, preempted := [r] })).dispatch 1 n h)

/-! ### Core faults and retirement (R133 to R136) -/

/-- s with one fault more counted for a core of a site; its number. -/
def State.coreFault (s : State) (i core : Nat) : State × Nat :=
  let k := Tab.get (s.site i).coreFaults 0 core + 1
  (s.modSite i (fun x => { x with coreFaults := Tab.set x.coreFaults core k }), k)

/-- The spare core column nearest to a column, the lower-numbered on a tie (R135). -/
def Site.nearestColumn (x : Site) (c : Nat) : Option Nat :=
  let dist := fun (d : Nat) => if d < c then c - d else d - c
  ((List.range 34).filter (fun d => x.column d == 1)).foldl (fun best d =>
    match best with
    | none => some d
    | some b => if dist d < dist b then some d else some b) none

/-- The array of a chive mode, and the output columns in wide mode, to which a core contributes; none when the core takes no
part (R134). -/
def TView.coreArray (v : TView) (row lcol : Nat) : Nat :=
  if v.loop.mode = 0 then 0 else if v.loop.mode = 1 then row * 32 + lcol else row / 2 * 16 + lcol / 2

/-- Output (m, n) of array a lies in a tile that the faulting core cleared: in wide mode the tiles of its column, in chive
mode those of its array (R134). -/
def TView.clears (v : TView) (row lcol a n : Nat) : Bool :=
  if v.loop.mode = 0 then n / 16 == lcol else a == v.coreArray row lcol

/-- s with the tiles of pass j that a faulting core cleared undefined (R134). -/
def State.looseTiles (s : State) (site : Nat) (v : TView) (slot row lcol : Nat) : State :=
  (List.range v.arrays).foldl (fun s a => (List.range v.loop.passM).foldl (fun s m =>
    (List.range v.loop.passN).foldl (fun s n =>
      if v.clears row lcol a n then
        ({ s with mem := memPut s.mem (s.accAt site v.loop.mode a slot m n) (le 4 (freeF32 s.free)) }).spend 4
      else s) s) s) s

/-- s with a running tensor command told of a fault in pass j of the core at a core row and logical column: the passes before it
stand, its resume record points at the replay of the cleared tiles, and it completes with notice 0x0102; or it fails with
0x6103 because the tile has no initialisation in the command (R134, R136). In a replay the record stands already. -/
def State.recoverTiles (s : State) (n : Nat) (r : QRef) (c : CmdRec) (j row lcol : Nat) : State :=
  let v := c.cmd.view c.held
  let i := s.siteN n
  let site := s.execSite v
  let s := s.runTo n r v j
  if v.loop.init ≠ 2 then
    let e := s.record i r
    let k := (j, v.coreArray row lcol)
    (s.modSite i (fun x => { x with resume := some { e with replay := if e.replay.contains k then e.replay else k :: e.replay } })).modCmd r
      (fun c => { c with status := mergeStatus c.status 0x0102 })
  else
    let s := s.looseTiles site v (v.slot (s.baseOf r.part n v) j) row lcol
    let s := (s.endBlock site false).modSite i (fun x => { x with resume := none, cleared := [], spoiled := [] })
    s.issue 1 n r 0x6103

/-- A replay of command r of queue n is due, at pass j (R134, R136). -/
def State.replaying (s : State) (n : Nat) (r : QRef) (j : Nat) : Bool :=
  let e := s.record (s.siteN n) r
  !e.replay.isEmpty && e.passes == j

/-- s with the retirement of a core column of site i begun: the cluster's queues hold, its running work stops at the pass
boundary (R135). Without a spare column the cluster fails with 0x6104. -/
def State.retireColumn (s : State) (i col : Nat) : State :=
  let part := (s.partOfRow (i / 42)).getD 0xFF
  match (s.site i).nearestColumn col with
  | some d =>
    let work := ((s.logicalOf i).map (fun n => (s.queue 1 n).running.isSome)).getD false
    ((s.modSite i (fun x => { x with retiring := some (col, d), halted := true })).count (siteIndex i) 9 (if work then 1 else 0)).raise
      { status := 0x6102, part := part, unitKind := 1, unit := siteUnit i, detail := le 1 col ++ le 1 d }
  | none =>
    (s.raise { status := 0x6104, part := part, unitKind := 1, unit := siteUnit i }).clusterFailed i 0x6104 false

/-- s with a fault of a core of a site logged and counted (R133, R135). -/
def State.logFault (s : State) (site coreRow coreCol p ref : Nat) : State :=
  (s.raise { status := 0x6101, part := p, unitKind := 2, unit := siteUnit site, ref := ref
             detail := le 1 coreRow ++ le 1 coreCol }).count (siteIndex site) 11 1

/-- s with a core fault met in the drain of an aborted command: nothing is replayed, the fault is logged and counts (R136). The
drain ends within 1 µs (R132). -/
def State.drainFault (s : State) (site coreRow coreCol : Nat) : State :=
  match (s.site site).stopped with
  | some (t, p) =>
    if t + Config.ticksPerUs < s.time.ticks then s
    else
      let x := s.coreFault site (coreRow * 34 + coreCol)
      let s := x.1.logFault site coreRow coreCol p 0
      if 3 ≤ x.2 then s.retireColumn site coreCol else s
  | none => s

/-- ARRAY_FAULT (R133 to R136): the core at a core row and physical core column of a site fails in pass j of the running
command; inReplay says that the pass in flight replays an earlier fault's tiles. -/
def execArrayFault (site coreRow coreCol : Nat) (u : PassFault) (s : State) : Host.Outcome State Fault Refusal :=
  answer s
    (match s.logicalOf site with
     | none => s
     | some n =>
       if 8 ≤ coreRow ∨ 34 ≤ coreCol ∨ (s.site site).column coreCol ≠ 0 then s
       else
         match s.running 1 n with
         | none => s.drainFault site coreRow coreCol
         | some (r, c) =>
           let v := c.cmd.view c.held
           if v.fle ∨ v.pool ∨ !(c.cmd.opcode == 1 || c.cmd.opcode == 2) ∨ s.holds 1 n ∨ v.passes ≤ u.pass ∨
               u.pass < (s.record site r).passes ∨ (u.inReplay && !s.replaying n r u.pass) then s
           else
             let lcol := ((s.site site).coreColumns.findIdx? (· == coreCol)).getD 0
             let again := u.inReplay && (s.site site).cleared.contains (coreRow, coreCol)
             let x := s.coreFault site (coreRow * 34 + coreCol)
             let s := (x.1.logFault site coreRow coreCol r.part (s.refOf r)).recoverTiles n r c u.pass coreRow lcol
             let s := s.modSite site (fun x => { x with
               cleared := if x.resume.isNone then [] else if u.inReplay then (coreRow, coreCol) :: x.cleared else [(coreRow, coreCol)] })
             if 3 ≤ x.2 ∨ again then s.retireColumn site coreCol else s)

/-- s with what one core's operand buffer and accumulators hold moved to another core of the site. -/
def State.moveCore (s : State) (i : Nat) (src dst : Nat × Nat) : State :=
  let sb := bufPlace i src.1 src.2 0
  let sa := accPlace i src.1 src.2 0 0
  let db := bufPlace i dst.1 dst.2 0
  let da := accPlace i dst.1 dst.2 0 0
  let goes := fun (k : Nat) =>
    if sb ≤ k ∧ k < sb + 131072 then some (k - sb + db)
    else if sa ≤ k ∧ k < sa + 65536 then some (k - sa + da) else none
  let old := fun (k : Nat) => (db ≤ k && k < db + 131072) || (da ≤ k && k < da + 65536)
  { s with mem := Mem.putAll (Mem.clear s.mem old) (s.mem.filterMap (fun c => (goes c.1).map (fun k => (k, c.2)))) }

/-- Core row, physical core column and offset of a place in a site's operand buffers (first) or accumulators. -/
def coreSpot (i k : Nat) : Option (Bool × Nat × Nat) :=
  let o := k - planePlace i 0
  if k < planePlace i accOff ∨ planePlace (i + 1) 0 ≤ k then none
  else if o < accOff + 272 * 65536 then some (false, (o - accOff) / 65536, (o - accOff) % 65536)
  else if bufOff ≤ o ∧ o < bufOff + 272 * 131072 then some (true, (o - bufOff) / 131072, (o - bufOff) % 131072)
  else none

/-- s with the contents of the core columns of a site moved with their logical columns: what stood in column src.(c) stands in
column dst.(c) (R114, R135, R168). -/
def State.moveColumns (s : State) (i : Nat) (src dst : List Nat) : State :=
  let pairs : List (Nat × Nat) := (src.zip dst).filter (fun e => e.1 != e.2)
  let goes := fun (k : Nat) =>
    match coreSpot i k with
    | some (isBuf, core, o) =>
      (pairs.find? (fun (e : Nat × Nat) => e.1 == core % 34)).map (fun (e : Nat × Nat) =>
        if isBuf then bufPlace i (core / 34) e.2 o else accPlace i (core / 34) e.2 0 o)
    | none => none
  let old := fun (k : Nat) =>
    match coreSpot i k with
    | some (_, core, _) => pairs.any (fun e => e.2 == core % 34)
    | none => false
  { s with mem := Mem.putAll (Mem.clear s.mem old) (s.mem.filterMap (fun c => (goes c.1).map (fun k => (k, c.2)))) }

/-- Bytes of an operand-buffer tile of a site: of the format of the tensor command in hand there, else of the kept block, else
the largest of R153 (R135, log 99). -/
def State.tileBytes (s : State) (i n : Nat) : Nat :=
  match s.running 1 n, (s.site i).retained with
  | some (_, c), _ => wTile c.cmd.fmt
  | none, some (b, _) => wTile (b / 262144 / 2)
  | none, none => 1024

/-- s with what a word lost in the copy belonged to undefined: words are numbered by core row × 196,608 bytes, first the
operand buffer, in tiles of tb bytes, then the accumulators, in tiles of 1 KiB (R135). -/
def State.loseWord (s : State) (i col tb w : Nat) : State :=
  let row := w / 196608 % 8
  let o := w % 196608
  let n := if o < 131072 then max 1 tb else 1024
  let k := if o < 131072 then bufPlace i row col (o / n * n) else accPlace i row col ((o - 131072) / 1024) 0
  ({ s with mem := memPut s.mem k ((List.range n).map (fun b => Config.freeByte (s.free + b))) }).spend n

/-- Core row and accumulator slot of a lost word, none for a word of an operand buffer (R135). -/
def lostSlot (w : Nat) : Option (Nat × Nat) :=
  if w % 196608 < 131072 then none else some (w / 196608 % 8, (w % 196608 - 131072) / 1024)

/-- The passes before pass k whose tiles a slot holds while their k-range is open. -/
def TView.openIn (v : TView) (base k slot : Nat) : List Nat :=
  (List.range k).filter (fun i => v.slot base i ≤ slot && slot < v.slot base i + v.t &&
    !(List.range k).any (fun j => v.sameRange i j && v.closes j))

/-- s with the running command of cluster n told of accumulator tiles of a logical core column lost in the copy, by core row and
slot: those of its open k-ranges are replayed (R135), or it fails where they have no initialisation. -/
def State.replayLost (s : State) (n lcol : Nat) (slots : List (Nat × Nat)) : State :=
  match s.running 1 n with
  | some (r, c) =>
    let v := c.cmd.view c.held
    let i := s.siteN n
    let e := s.record i r
    let js := slots.flatMap (fun t =>
      (v.openIn (s.slotBase r.part n v) e.passes t.2).map (fun j => (j, v.coreArray t.1 lcol)))
    if v.pool ∨ v.fle ∨ !(c.cmd.opcode == 1 || c.cmd.opcode == 2) ∨ js.isEmpty then s
    else if v.loop.init = 2 then (s.modSite i (fun x => { x with resume := none, cleared := [], spoiled := [] })).issue 1 n r 0x6103
    else s.modSite i (fun x => { x with resume := some { e with replay := e.replay ++ js } })
  | none => s

/-- s with a preempted command of cluster n failed if a slot of its own was lost in the copy (R135). -/
def State.failPreempted (s : State) (n : Nat) (slots : List (Nat × Nat)) : State :=
  (s.queue 1 n).preempted.foldl (fun s r =>
    match s.cmdOf r with
    | some c =>
      let v := c.cmd.view c.held
      if slots.any (fun t => v.loop.accBase ≤ t.2 && t.2 < v.loop.accBase + v.footprint) then
        (s.modQueue 1 n (fun q => { q with preempted := q.preempted.filter (· != r) })).issue 1 n r 0x6103
      else s
    | none => s) s

/-- CORE_RETIREMENT_COMPLETE (R135): the spare column has the retired one's contents and its logical number, and the
cluster is back in service; its running command goes on with the replay of its cleared tiles. What a word lost in the copy
belonged to is undefined until it is written again. -/
def execCoreRetirementComplete (site : Nat) (badWords : List Nat) (s : State) : Host.Outcome State Fault Refusal :=
  answer s
    (match (s.site site).retiring with
     | none => s
     | some (col, spare) =>
       let tb := s.tileBytes site ((s.logicalOf site).getD 1200)
       let before := (s.site site).coreColumns
       let s := s.modSite site (fun x =>
         { x with
           retiring := none, halted := false, retained := none
           columns := Tab.set (Tab.set x.columns col 2) spare 0 })
       let after := (s.site site).coreColumns
       let s := s.moveColumns site before after
       let lcol := (before.findIdx? (· == col)).getD 0
       let moved := after.getD lcol spare
       let s := badWords.foldl (fun s w => s.loseWord site moved tb w) s
       let s := ({ s with ctr := Tab.mod s.ctr 0 (siteIndex site * 256 + 14) (· + 1) }).mapChanged
       match s.logicalOf site with
       | some n => (s.failPreempted n (badWords.filterMap lostSlot)).replayLost n lcol (badWords.filterMap lostSlot)
       | none => s)

/-! ### Steep mode (R137 to R139) -/

/-- s with the cores of site i of partition p one eighth further gated, when its gap has lasted 256 cycles more than the threshold
and the steps before it (R138). -/
def State.rampDown (s : State) (p i : Nat) : State :=
  let x := s.site i
  let t := s.pval p 0x30 2
  if t = 0 ∨ 8 ≤ x.steep ∨ s.gapCycles i < s.cyclesOf i t + 256 * (x.steep + 1) then s
  else
    let s := s.modSite i (fun x => { x with steep := x.steep + 1 })
    if x.steep = 7 ∧ i < 1260 then s.count (siteIndex i) 7 1 else s

/-- STEEP_RAMP_DOWN (R138, R215): of a logical cluster, or of a First-Layer Engine. -/
def execSteepRampDown (u : ArrayUnit) (s : State) : Host.Outcome State Fault Refusal :=
  answer s
    (if u.fle then
       (match s.fleOwner u.n with
        | some p => if 5 ≤ u.n ∨ s.atWork 0 (1260 + u.n) then s else s.rampDown p (1260 + u.n)
        | none => s)
     else
       match s.siteOf u.n, s.partOfCluster u.n with
       | some i, some p => if s.atWork u.n i then s else s.rampDown p i
       | _, _ => s)

/-! ### First-Layer Engine faults (R214) -/

/-- s with array pa of First-Layer Engine f retired to the next spare; with none left the engine leaves service, and its
running command fails (R214). -/
def State.retireArray (s : State) (f pa : Nat) (run : Option (Nat × QRef)) : State :=
  let site := 1260 + f
  let new := 64 + (s.fle f).retired.length
  if new < 68 then
    let s := s.modFle f (fun x => { x with retired := x.retired ++ [pa] })
    let s := (s.count (0x6D00 + f) 6 1).raise
      { status := 0x6102, part := (s.fleOwner f).getD 0xFF, unitKind := 4, unit := f * 256 + pa }
    s.moveCore site (pa / 34, pa % 34) (new / 34, new % 34)
  else
    let s := s.modFle f (fun x => { x with outOfService := true })
    match run with
    | some (n, r) => (s.modSite (s.siteN n) (fun x => { x with resume := none })).issue 1 n r 0x6103
    | none => s

/-- FLE_FAULT (R214): a fault in physical array pa of First-Layer Engine f in pass j of the command that it runs; inReplay says
that the pass in flight replays the array's own tiles. -/
def execFleFault (f array : Nat) (u : PassFault) (s : State) : Host.Outcome State Fault Refusal :=
  answer s
    (if 5 ≤ f ∨ 68 ≤ array ∨ (s.fle f).retired.contains array ∨ (s.fle f).outOfService then s
     else
       match s.fleRunner f with
       | none => s
       | some (n, r, c) =>
         if (c.cmd.view c.held).passes ≤ u.pass ∨ u.pass < (s.record (s.siteN n) r).passes ∨ (u.inReplay && !s.replaying n r u.pass) then s
         else
           let k := Tab.get (s.fle f).faults 0 array + 1
           let s := (s.modFle f (fun x => { x with faults := Tab.set x.faults array k })).count (0x6D00 + f) 5 1
           let s := s.raise { status := 0x6105, part := r.part, unitKind := 4, unit := f * 256 + array, ref := s.refOf r }
           let s : State := match s.fleLogical f array with
             | some a => s.recoverTiles n r c u.pass (a / 32) (a % 32)
             | none => s
           if 3 ≤ k ∨ u.inReplay then s.retireArray f array ((s.running 1 n).map (fun _ => (n, r))) else s)

end Sys2Proof.Machine
end

