-- ==== Sys2Proof/Machine/Vector.lean ====
section
/-!
DEFINITION. The vector engine: element-wise operations (R183 to R185), cast-on-gather (R286, R287), reduce-add (R184) and
checksum verify (R188, R189).
-/

namespace Sys2Proof.Machine

open Sys2Proof

/-! ### Element-wise operations -/

/-- n elements of a code at address a as values. -/
def State.vecValues (s : State) (p a code n : Nat) : List FV := s.rowValues p a code n a 0

/-- s with the results of a vector command narrowed to the destination format and stored (R177, R183). -/
def State.storeVec (s : State) (n : Nat) (r : QRef) (c : Cmd) (a : Nat) (vs : List FV) : State :=
  let sto := c.rounding == 1
  let x := castRow c.fmt sto s.free vs
  (((s.storeElems r.part a (elemBits c.fmt) x.elems).spoilTiles r.part n a (elemBytes c.fmt vs.length)).spend
    (if sto then vs.length else 0)).count (siteIndex (s.siteN n)) ctrSaturations x.lost

/-- An element-wise command with operation code op on cluster n: f makes each result from its operands. -/
def State.elementwise (s : State) (n op : Nat) (parity : Option Nat) (f : FV → FV → FV) : State :=
  s.engineRead 2 n (fun c => c.opcode == 1 && c.vop == op) parity (fun s r c =>
    let k := c.cmd
    let xs := s.vecValues r.part k.arg0 k.srcFmt k.arg3
    let ys := if op < 6 then s.vecValues r.part k.arg1 k.srcFmt k.arg3 else xs
    (s.storeVec n r k k.arg2 ((xs.zip ys).map (fun e => f e.1 e.2)), 0))

/-- An FP32 operation on the bits of a value. -/
def onF32 (f : Nat → Nat) (a : FV) : FV := ofF32 (f (toF32 a))

/-- VECTOR_ADD (R183, R185). -/
def execVectorAdd (u : EngineRun) (s : State) : Host.Outcome State Fault Refusal :=
  answer s (s.elementwise u.n 1 u.parity (fun a b => ofF32 (toF32 (FV.add a b))))

/-- VECTOR_MULTIPLY (R183, R185). -/
def execVectorMultiply (u : EngineRun) (s : State) : Host.Outcome State Fault Refusal :=
  answer s (s.elementwise u.n 2 u.parity (fun a b => ofF32 (toF32 (FV.mul a b))))

/-- VECTOR_SUBTRACT (R183, R185). -/
def execVectorSubtract (u : EngineRun) (s : State) : Host.Outcome State Fault Refusal :=
  answer s (s.elementwise u.n 3 u.parity (fun a b => ofF32 (toF32 (FV.add a b.neg))))

/-- VECTOR_MAXIMUM (R183, R185). -/
def execVectorMaximum (u : EngineRun) (s : State) : Host.Outcome State Fault Refusal :=
  answer s (s.elementwise u.n 4 u.parity FV.maximum)

/-- VECTOR_MINIMUM (R183, R185). -/
def execVectorMinimum (u : EngineRun) (s : State) : Host.Outcome State Fault Refusal :=
  answer s (s.elementwise u.n 5 u.parity FV.minimum)

/-- VECTOR_COPY_AND_CAST (R185). -/
def execVectorCopyAndCast (u : EngineRun) (s : State) : Host.Outcome State Fault Refusal :=
  answer s (s.elementwise u.n 6 u.parity (fun a _ => a))

/-- VECTOR_EXP (R183, R185). -/
def execVectorExp (u : EngineRun) (s : State) : Host.Outcome State Fault Refusal :=
  answer s (s.elementwise u.n 7 u.parity (fun a _ => onF32 expF32 a))

/-- VECTOR_RECIPROCAL (R183, R185). -/
def execVectorReciprocal (u : EngineRun) (s : State) : Host.Outcome State Fault Refusal :=
  answer s (s.elementwise u.n 8 u.parity (fun a _ => onF32 recipF32 a))

/-- VECTOR_RECIPROCAL_SQRT (R183, R185). -/
def execVectorReciprocalSqrt (u : EngineRun) (s : State) : Host.Outcome State Fault Refusal :=
  answer s (s.elementwise u.n 9 u.parity (fun a _ => onF32 rsqrtF32 a))

/-! ### Cast-on-gather (R286, R287) -/

/-- Shape and flags of a cast-on-gather command. -/
def Cmd.gatherR (c : Cmd) : Nat := c.arg2 % 4294967296
def Cmd.gatherC (c : Cmd) : Nat := c.arg2 / 4294967296
def Cmd.outRows (c : Cmd) : Nat := if bit c.arg4 2 then c.gatherC else c.gatherR
def Cmd.outCols (c : Cmd) : Nat := if bit c.arg4 2 then c.gatherR else c.gatherC

/-- Output element (r, k) of a cast-on-gather command before the cast: the source element times 2^(e − 127). -/
def State.gatherElem (s : State) (p : Nat) (c : Cmd) (r k : Nat) : FV :=
  let x := if bit c.arg4 2 then k else r
  let y := if bit c.arg4 2 then r else k
  ofF32 (mulF32 (s.rdNat p (c.arg0 + x * c.arg3 + 4 * y) 4) (toF32 (.pow2 ((c.arg4 / 256 : Nat) - 127))))

/-- Address of the output tile of a cast-on-gather command that holds element (r, k) (R287). -/
def Cmd.tileAddr (c : Cmd) (code r k : Nat) : Nat := c.arg1 + (r / 16 * (c.outCols / 16) + k / 16) * wTile code

/-- s with a cast-on-gather to MX W tiles: blocks of 32 down a column, the scale in both tiles (R287). -/
def State.gatherMx (s : State) (n : Nat) (r : QRef) (c : Cmd) : State :=
  let p := r.part
  let code := c.fmt + 4
  let sto := c.rounding == 1
  let free := s.free
  let blocks := (List.range (c.outRows / 32)).flatMap (fun b => (List.range c.outCols).map (fun k => (b, k)))
  let outs := blocks.map (fun e =>
    let vs := (List.range 32).map (fun i => s.gatherElem p c (32 * e.1 + i) e.2)
    (e, mxBlock code ((List.range 32).map (fun i => roundingAt sto (free + (32 * e.1 + i) * c.outCols + e.2))) vs))
  let s := outs.foldl (fun s o =>
    let put := fun (s : State) (i x : Nat) =>
      let row := 32 * o.1.1 + i
      s.store p (c.tileAddr code row o.1.2 + 16 * (row % 16) + o.1.2 % 16) (le 1 x)
    let s := o.2.2.1.zipIdx.foldl (fun s e => put s e.2 e.1) s
    [0, 16].foldl (fun s i =>
      s.store p (c.tileAddr code (32 * o.1.1 + i) o.1.2 + 32 * wBits code + o.1.2 % 16) (le 1 o.2.1)) s) s
  (s.spend (if sto then c.outRows * c.outCols else 0)).count (siteIndex (s.siteN n)) ctrSaturations
    ((outs.map (fun o => o.2.2.2)).sum)

/-- s with a cast-on-gather to a plain format: row-major, or W tiles. -/
def State.gatherPlain (s : State) (n : Nat) (r : QRef) (c : Cmd) : State :=
  let p := r.part
  let sto := c.rounding == 1
  let free := s.free
  let w := elemBits c.fmt / 8
  let outs := (List.range (c.outRows * c.outCols)).map (fun i =>
    let row := i / c.outCols
    let col := i % c.outCols
    let x := castTo c.fmt (roundingAt sto (free + i)) (s.gatherElem p c row col)
    let a := if bit c.arg4 1 then c.tileAddr c.fmt row col + (16 * (row % 16) + col % 16) * w else c.arg1 + i * w
    (a, x))
  let s := outs.foldl (fun s o => s.store p o.1 (le w o.2.1)) s
  (s.spend (if sto then c.outRows * c.outCols else 0)).count (siteIndex (s.siteN n)) ctrSaturations ((outs.map (fun o => o.2.2)).sum)

/-- CAST_ON_GATHER (R286, R287). -/
def execCastOnGather (u : EngineRun) (s : State) : Host.Outcome State Fault Refusal :=
  answer s (s.engineRead 2 u.n (fun c => c.opcode == 2) u.parity (fun s r c =>
    let s := if bit c.cmd.arg4 0 then s.gatherMx u.n r c.cmd else s.gatherPlain u.n r c.cmd
    (s.count (siteIndex (s.siteN u.n)) ctrCastElems (c.cmd.outRows * c.cmd.outCols), 0)))

/-! ### Reduce-add (R184) -/

/-- s with the region at src added into the one at dst, element by element, rounded once; draws are taken from the model's
counter. -/
def State.addRegion (s : State) (p dst src code n : Nat) (sto : Bool) : State :=
  let f := formatOf code
  let w := f.width / 8
  let out := (List.range n).map (fun i =>
    f.round (if code = 1 then .nearest else roundingAt sto (s.free + i))
      (FV.add (f.decode (s.rdNat p (dst + i * w) w)) (f.decode (s.rdNat p (src + i * w) w))))
  (s.store p dst (out.flatMap (le w))).spend (if sto then n else 0)

/-- s with n pair table entries at src added into those at dst (R184, R187). -/
def State.addPairTable (s : State) (p dst src n : Nat) : State :=
  s.wr p dst ((List.range (2 * n)).flatMap (fun i => le 8 (addF64 (s.rdNat p (dst + 8 * i) 8) (s.rdNat p (src + 8 * i) 8))))

/-- REDUCE_ADD (R184): the exact sum of destination and incoming, rounded once to the destination format. -/
def execReduceAdd (u : EngineRun) (s : State) : Host.Outcome State Fault Refusal :=
  answer s (s.engineRead 2 u.n (fun c => c.opcode == 3) u.parity (fun s r c =>
    let k := c.cmd
    let len := 4096 * k.arg3
    let s := s.addRegion r.part k.arg0 k.arg1 k.fmt (len * 8 / elemBits k.fmt) (k.rounding == 1)
    let s := if bit k.arg4 0 then s.addPairTable r.part (k.arg0 + len) (k.arg1 + len) k.arg3 else s
    (s.spoilTiles r.part u.n k.arg0 (withPairs (bit k.arg4 0) k.arg3), 0)))

/-! ### Checksum verify (R188, R189) -/

/-- tol of a block (R188): 2 · n_contrib · block_len · u · pair_abs_sum, exactly. -/
def tolOf (code contrib abs : Nat) : FV :=
  .mul (.fin false (2 * contrib * (if code = 1 then 1024 else 2048)) (if code = 1 then -24 else -8)) (fp64.decode abs)

/-- A block passes: s and the pair's sum are finite and |s − pair_sum| ≤ tol (R188). -/
def checksumOk (sum pairSum : Nat) (tol : FV) : Bool :=
  let a := fp64.decode sum
  let b := fp64.decode pairSum
  let d := (FV.add a b.neg).abs
  !a.special && !b.special && tol != .nan && tol != .inf true && !(FV.lt tol d && (d.nonzero || tol.nonzero))

/-- What verifying block b of a region finds: s, the pair entry, and whether it passes. -/
def State.verifyBlock (s : State) (p : Nat) (c : Cmd) (b : Nat) : Nat × Nat × Nat × Bool :=
  let f := formatOf c.fmt
  let w := f.width / 8
  let sum := foldF64 ((List.range (4096 / w)).map (fun i => f.decode (s.rdNat p (c.arg0 + 4096 * b + i * w) w)))
  let e := c.arg0 + 4096 * c.arg3 + 16 * b
  let ps := s.rdNat p e 8
  let pa := s.rdNat p (e + 8) 8
  (sum, ps, pa, checksumOk sum ps (tolOf c.fmt (c.arg2 % 4294967296) pa))

/-- s with a checksum fault of block b queued and the policy applied to the block (R189): 1 report, 2 zero, 3 abort. -/
def State.checksumFault (s : State) (n : Nat) (r : QRef) (c : Cmd) (b policy : Nat) (x : Nat × Nat × Nat × Bool) : State :=
  let a := c.arg0 + 4096 * b
  let s := s.raise
    { status := 0x2301, part := r.part, unitKind := 1, unit := siteUnit (s.siteN n), addr := a, ref := s.refOf r
      detail := le 8 x.1 ++ le 8 x.2.1 ++ le 8 x.2.2.1 ++
        le 8 (fp64.round .nearest (tolOf c.fmt (c.arg2 % 4294967296) x.2.2.1)) }
  let s := s.count (siteIndex (s.siteN n)) ctrChecksumFaults 1
  if policy = 2 then
    ((s.store r.part a (zeros 4096)).wr r.part (c.arg0 + 4096 * c.arg3 + 16 * b) (zeros 16)).spoilTiles r.part n a 4096
  else s

/-- CHECKSUM_VERIFY (R188, R189). -/
def execChecksumVerify (u : EngineRun) (s : State) : Host.Outcome State Fault Refusal :=
  answer s (s.engineRead 2 u.n (fun c => c.opcode == 4) u.parity (fun s r c =>
    let k := c.cmd
    let policy := if k.arg4 % 4 = 0 then s.valNat 0xB010 1 + 1 else k.arg4 % 4
    let step := fun (x : State × Bool × Bool) (b : Nat) =>
      if x.2.2 then x
      else
        let v := x.1.verifyBlock r.part k b
        let s := x.1.count (siteIndex (x.1.siteN u.n)) ctrVerified 1
        if v.2.2.2 then (s, x.2) else (s.checksumFault u.n r k b policy v, true, policy == 3)
    let x := (List.range k.arg3).foldl step (s, false, false)
    (if x.2.2 then x.1.abandonAfter r 0x2301 else x.1, if x.2.1 then 0x2301 else 0)))

end Sys2Proof.Machine
end

