-- ==== Sys2Proof/Machine/Move.lean ====
section
/-!
DEFINITION. The move engine: copies with block verification (R69, R234 to R236, R240), decrypting copies (R411, R412), the
skewed operand feed (R116), multicast (R157) and recompute ranges (R294, R295).
-/

namespace Sys2Proof.Machine

open Sys2Proof

/-! ### Verified reads (R235, R236, R240) -/

/-- What a verified read of n bytes at a finds: the address at which it stops, none when it reads all, and whether a block
was refetched. A parity error on the plane is not refetched (R240). -/
def State.readStop (s : State) (p a n : Nat) (faults : List BlockFault) : Option Nat × Bool :=
  if planeBase ≤ a then
    (((faults.filter (fun f => a ≤ f.addr && f.addr < a + n)).map (fun f => f.addr / 8 * 8)).min?, false)
  else
    let hits := (wholeBlockAddrs a n).filterMap (fun b => (s.faultAt p faults b).map (fun f => (b, f.persists)))
    (((hits.filter (·.2)).map (·.1)).min?, hits.any (fun h => !h.2))

/-- A verified read by a command: s with its counts and errors, the bytes that are read, and the command's status. -/
def State.readVerified (s : State) (r : QRef) (a n : Nat) (faults : List BlockFault) : State × List Byte × Nat :=
  let x := s.readStop r.part a n faults
  let len := (x.1.map (fun b => b - a)).getD n
  let s := (s.countVerified r.part faults ((wholeBlockAddrs a n).filter (fun b => (x.1.map (fun e => decide (b ≤ e))).getD true))).loaded
    r.part a len
  let bytes := s.rd r.part a len
  match x.1 with
  | some b => (s.raiseRead r 1 b, bytes, 0x2201)
  | none => (s, bytes, if x.2 then 0x0103 else 0)

/-! ### Copies -/

/-- COPY (R83, R235): a block that does not match at the refetch stops it. -/
def execCopy (n : Nat) (faults : List BlockFault) (s : State) : Host.Outcome State Fault Refusal :=
  answer s (s.engine 3 n (fun c => c.opcode == 1 && !bit c.arg4 0) (fun s r c =>
    let x := (s.movePackets r.part n [c.cmd.arg0] [c.cmd.arg1]).readVerified r c.cmd.arg0 c.cmd.arg3 faults
    ((x.1.store r.part c.cmd.arg1 x.2.1).spoilAt r.part c.cmd.arg1 x.2.1.length, x.2.2)))

/-- The plain text of block b of the weight container at address a (R411). -/
def State.plainBlock (s : State) (p a b : Nat) (key : List Byte) : List Byte :=
  let h := s.rd p a 64
  padTo 4096 (Config.gcmOpen key (slice h 8 8 ++ le 4 b) h (s.rd p (a + 64 + 4096 * b) 4096))

/-- DECRYPTING_COPY (R408, R412), with the key loaded when it started: without one it fails with 0x5104. A tag that fails
stops it with 0x5103, and nothing of that block is written. -/
def execDecryptingCopy (n : Nat) (badTag : Option Nat) (s : State) : Host.Outcome State Fault Refusal :=
  answer s (s.engine 3 n (fun c => c.opcode == 1 && bit c.arg4 0) (fun s r c =>
    let k := c.cmd
    match c.held.head? with
    | none => (s, 0x5104)
    | some key =>
      let blocks := (List.range k.blockCount).map (· + k.firstBlock)
      let good := match badTag with
        | some b => blocks.takeWhile (· != b)
        | none => blocks
      let s := good.foldl (fun s b =>
        (s.loaded r.part (k.arg0 + 64 + 4096 * b) 4096).store r.part (k.arg1 + 4096 * (b - k.firstBlock))
          (s.plainBlock r.part k.arg0 b key)) s
      let s := s.spoilAt r.part k.arg1 (4096 * good.length)
      (s.movePackets r.part n [] [k.arg1], if good.length < blocks.length then 0x5103 else 0)))

/-! ### Skewed feed and multicast -/

/-- SKEWED_OPERAND_FEED (R116): the operand in wavefront order; words as log 20. -/
def execSkewedOperandFeed (u : EngineRun) (s : State) : Host.Outcome State Fault Refusal :=
  answer s (s.engineRead 3 u.n (fun c => c.opcode == 2) u.parity (fun s r c =>
    let k := c.cmd
    let rows := k.arg2 % 4294967296
    let cols := k.arg2 / 4294967296
    let w := elemBits k.arg4
    let cells := (List.range rows).flatMap (fun m => (List.range cols).map (fun j =>
      (wavefront (cycles2 k.arg4) rows cols m j, s.rdBits r.part (k.arg0 + m * k.arg3) (j * w) w)))
    let es := (cells.mergeSort (fun a b => decide (a.1 ≤ b.1))).map (·.2)
    let s := s.movePackets r.part u.n [k.arg0] [k.arg1]
    let s := (List.range rows).foldl (fun s m => s.loaded r.part (k.arg0 + m * k.arg3) (elemBytes k.arg4 cols)) s
    (s.storeElems r.part k.arg1 w es, 0)))

/-- MULTICAST (R157): one region into the operand buffers of the cores that the mask selects. -/
def execMulticast (n : Nat) (faults : List BlockFault) (s : State) : Host.Outcome State Fault Refusal :=
  answer s (s.engine 3 n (fun c => c.opcode == 3) (fun s r c =>
    let k := c.cmd
    let mask := s.rdNat r.part k.arg2 32
    let i := s.siteN n
    let x := (s.movePackets r.part n [k.arg0] []).readVerified r k.arg0 k.arg3 faults
    let cores := (List.range 256).filter (fun b => bit mask b)
    ({ x.1 with mem := cores.foldl (fun (m : Mem) b =>
        let q := s.physCore i (b / 32, b % 32)
        memPut m (bufPlace i q.1 q.2 k.arg1) x.2.1) x.1.mem }, x.2.2)))

/-! ### Recompute ranges (R294, R295) -/

/-- Whether waiting command e of a lane comes after command r of that lane: injected commands go ahead of it. -/
def afterRange (r e : QRef) : Bool := e.part == r.part && e.lane == r.lane && !(e.list == r.list && e.index < r.index)

/-- A queue with injected commands of the range of r put ahead of every later command of the lane. -/
def Queue.inject (q : Queue) (r : QRef) (es : List QRef) : Queue :=
  let k := (q.fifo.findIdx? (afterRange r)).getD q.fifo.length
  { q with fifo := q.fifo.take k ++ es ++ q.fifo.drop k }

/-- s with the commands of recompute command r put into the queues of its cluster on its lane. -/
def State.injectRange (s : State) (n : Nat) (r : QRef) (c : CmdRec) : State :=
  let cmds := recomputeCmds c.held
  let x := (s.list r.part r.list).getD { id := 0 }
  let id := (s.part r.part).nextList
  let child : ListRec :=
    { id := id, subId := x.subId, userTag := x.userTag, lane := r.lane, active := true, answered := true, tStart := some s.now
      parent := some r, cmds := cmds.map (fun k => { cmd := k, st := .queued, crcs := s.cmdCrcs r.part k }) }
  let s := s.acceptList r.part child
  let refs := fun (k : Nat) => (cmds.zipIdx.filter (fun e => e.1.kind == k)).map (fun e =>
    ({ part := r.part, list := id, index := e.2, lane := r.lane } : QRef))
  let s := [1, 2, 3].foldl (fun s k => s.modQueue k n (fun q => q.inject r (refs k))) s
  s.count (siteIndex (s.siteN n)) ctrInjected cmds.length

/-- RECOMPUTE_RANGE (R295): the range's commands enter their queues; the move engine is free for them, and the command ends
with the last of them. -/
def execRecomputeRange (n : Nat) (s : State) : Host.Outcome State Fault Refusal :=
  answer s
    (match s.running 3 n with
     | some (r, c) =>
       if c.cmd.opcode ≠ 4 ∨ s.holds 3 n then s
       else (s.injectRange n r c).modQueue 3 n (fun q => { q with running := none })
     | none => s)

end Sys2Proof.Machine
end

