-- ==== Sys2Proof/Machine/Memory.lean ====
section
/-!
DEFINITION. The gather queues (R232, R233), what the channel controllers do with lines and blocks (R31, R180, R187, R234,
R235, R237), and standby channels: migration, failure, exhaustion (R242 to R247).
-/

namespace Sys2Proof.Machine

open Sys2Proof

/-! ### Gathers -/

/-- The gather descriptor of a command, its indices and its bags, as the dispatcher read them (R233). -/
def CmdRec.gather (c : CmdRec) : Gather := Gather.ofBytes (c.held.getD 0 [])
def CmdRec.indices (c : CmdRec) : List Nat := (List.range c.gather.count).map (fun i => field (c.held.getD 1 []) (4 * i) 4)
def CmdRec.bags (c : CmdRec) : List Nat := (List.range c.gather.count).map (fun i => field (c.held.getD 2 []) (4 * i) 4)

/-- s with the lines of a narrow-path read counted: gathers, which are not verified (R231, R235). -/
def State.countGather (s : State) (p a n : Nat) : State :=
  ((s.linePlaces p a n).foldl (fun s k =>
    s.count (channelIndex k) (if s.boot.pathsOff.contains (pathKey 3 (k / 2147483648)) then ctrChRead else ctrChGathers) 1) s).countLines
    p a n ctrChPartial

/-- GATHER_LIST (R233): row i of the index list goes to place i of the destination. -/
def execGatherList (u : EngineRun) (s : State) : Host.Outcome State Fault Refusal :=
  answer s (s.engineRead 6 u.n (fun c => c.opcode == 1) u.parity (fun s r c =>
    let g := c.gather
    let len := 64 * g.lines
    let s := c.indices.zipIdx.foldl (fun s e =>
      let a := g.base + e.1 * len
      (s.countGather r.part a len).store r.part (g.dest + e.2 * len) (s.rd r.part a len)) s
    (s.spoilAt r.part g.dest (len * c.indices.length), 0)))

/-- The order in which the adds of one command arrive, which is open (R4, R31, R233, log 4). -/
def arrivalOrder (k : Nat) (xs : List (Nat × Nat)) : List (Nat × Nat) :=
  xs.mergeSort (fun a b => decide (Config.arrivalKey k a.1 ≤ Config.arrivalKey k b.1))

/-- s with the table row at index j added into its bag by atomic adds, line by line. -/
def State.addRow (s : State) (r : QRef) (c : CmdRec) (j bag : Nat) : State :=
  let g := c.gather
  let len := 64 * g.lines
  let a := g.base + j * len
  let w := elemBits g.fmt / 8
  (List.range g.lines).foldl (fun s k =>
    let vals := (List.range (64 / w)).map (fun i => some (toF32 ((formatOf g.fmt).decode (s.rdNat r.part (a + 64 * k + i * w) w))))
    s.atomicLine r.part (g.dest + bag * len + 64 * k) g.fmt (c.cmd.rounding == 1) vals) (s.countGather r.part a len)

/-- GATHER_ADD (R233): row i is added into its bag. A row that does not match at its refetch is not added, or stops the
command, by the block CRC policy (R236). -/
def execGatherAdd (u : EngineRun) (badRows : List Nat) (s : State) : Host.Outcome State Fault Refusal :=
  answer s (s.engineRead 6 u.n (fun c => c.opcode == 2) u.parity (fun s r c =>
    let pairs := c.indices.zipIdx.map (fun e => (e.2, e.1))
    let bad := fun (j : Nat) => badRows.contains j && s.maintainedAt r.part (c.gather.base + j * 64 * c.gather.lines)
    let drop := s.pval r.part 0x60 2 == 1
    let s1 := s.spend 1
    let step := fun (x : State × Bool × Bool) (e : Nat × Nat) =>
      if x.2.2 then x
      else if bad e.2 then
        ((x.1.raiseBlock r.part ((c.gather.base + e.2 * 64 * c.gather.lines) / 4096 * 4096) 0 (x.1.refOf r)), true, !drop)
      else (x.1.addRow r c e.2 (c.bags.getD e.1 0), x.2)
    let x := (arrivalOrder s.free pairs).foldl step (s1, false, false)
    (if x.2.2 then x.1.abandonAfter r 0x2201 else x.1, if x.2.1 then 0x2201 else 0)))

/-! ### Lines and blocks -/

/-- Where atomic and pair adds may go: the slice, or a shared cache (R180). -/
def State.takesAdds (s : State) (p a n : Nat) : Bool := s.inSlice p a n || s.inCache p a n

/-- ATOMIC_ADD (R31, R180, R181): one line operation of FP32 contributions at an address of partition p. -/
def execAtomicAdd (p address format : Nat) (values : List (Option F32)) (stochastic : Bool) (s : State) :
    Host.Outcome State Fault Refusal :=
  answer s
    (if (format = 1 ∨ format = 2) ∧ address % 64 = 0 ∧ values.length = 512 / elemBits format ∧ s.takesAdds p address 64 then
       s.atomicLine p address format stochastic (values.map (fun v => v.map (·.toNat)))
     else s)

/-- PAIR_ADD (R187): FP64 sum and absolute sum added into a pair table entry; the block stays maintained (R234). -/
def execPairAdd (p address : Nat) (sum abs : F64) (s : State) : Host.Outcome State Fault Refusal :=
  answer s (if address % 16 = 0 ∧ s.takesAdds p address 16 then s.pairAddAt p address sum.toNat abs.toNat else s)

/-- HBM_WRITE (R31, R234): a write of whole lines by an engine; a whole block becomes maintained. -/
def execHbmWrite (p address : Nat) (bytes : List Byte) (s : State) : Host.Outcome State Fault Refusal :=
  answer s (if address % 64 = 0 ∧ bytes.length % 64 = 0 ∧ s.inSlice p address bytes.length then s.store p address bytes else s)

/-- HBM_BLOCK_READ (R235): a verified read of a whole block by a consumer; a persisting mismatch is queued. The Infuser's read of a
result adds the notice of a refetch to the decode command, or stops it (R236, R273). -/
def execHbmBlockRead (p address consumer : Nat) (mismatch persists : Bool) (s : State) : Host.Outcome State Fault Refusal :=
  answer s
    (if address % 4096 = 0 ∧ s.inSlice p address 4096 ∧ 1 ≤ consumer ∧ consumer ≤ 4 then
       let faults : List BlockFault := if mismatch then [⟨address, persists⟩] else []
       let fault := s.faultAt p faults address
       let reader := if consumer = 3 then s.resultReader p address else none
       let s := (s.countVerified p faults [address]).countLines p address 4096 ctrChRead
       match fault with
       | none => s
       | some f =>
         if f.persists then
           (match reader with
            | some n => s.stopResult n address
            | none => s.raiseBlock p address consumer)
         else
           match reader.bind (fun n => (s.stream n).cmd) with
           | some r => s.modCmd r (fun c => { c with status := mergeStatus c.status 0x0103 })
           | none => s
     else s)

/-- The partition that owns a physical channel's data, 0xFF when none does. -/
def State.channelOwner (s : State) (stack phys : Nat) : Nat :=
  let l := s.logicalCh stack phys
  (partNumbers.find? (fun p =>
    let q := s.part p
    q.state != .unassigned && q.firstCh ≤ l && l < q.firstCh + q.chans)).getD 0xFF

/-- Key of a physical channel. -/
def chKey (stack phys : Nat) : Nat := stack * 32 + phys

/-- A channel's error entry (R334). -/
def chUnit (stack phys : Nat) : Nat := stack * 256 + phys

/-! ### Migration (R242 to R244, R247) -/

/-- s with the memory stacks changed by f. -/
def State.modHbm (s : State) (f : Hbm → Hbm) : State := { s with hbm := f s.hbm }

/-- s with a migration of a logical channel of a stack begun, or 0x4106 (R242, R243). -/
def State.startMigration (s : State) (stack logical : Nat) : State × Nat :=
  let g : Migration := { logical := logical, source := s.physCh stack logical, target := s.standby stack }
  if (Tab.find s.hbm.migrations stack).isSome ∨ 32 ≤ s.standby stack ∨ 32 ≤ g.source then (s, 0x4106)
  else (s.modHbm (fun h => { h with migrations := Tab.set h.migrations stack g }), 0)

/-- Ticks of an hour (R93, R242). -/
def hourTicks : Nat := 3600000 * Config.ticksPerMs

/-- s with the migration that a degraded physical channel calls for begun. -/
def State.migrateAway (s : State) (stack phys : Nat) : State :=
  if s.logicalCh stack phys < 31 then (s.startMigration stack (s.logicalCh stack phys)).1 else s

/-- Ticks of a channel's patrol mismatches that are less than an hour old (R237, R242). -/
def State.recentErrors (s : State) (key : Nat) : List Nat :=
  (Tab.get s.hbm.errors [] key).filter (fun t => decide (s.time.ticks < t + hourTicks))

/-- s with a channel's errors of the last hour at the threshold: 0x6201 is queued, and the channel is migrated (R242). -/
def State.degrade (s : State) (stack channel : Nat) : State :=
  let s := s.modHbm (fun h => { h with errors := Tab.set h.errors (chKey stack channel) [] })
  (s.raise { status := 0x6201, part := s.channelOwner stack channel, unitKind := 3, unit := chUnit stack channel }).migrateAway
    stack channel

/-- CHANNEL_DEGRADED (R231, R242): the corrected errors of a physical channel reach the threshold. Those that patrol did not
find count as corrected (log 102). -/
def execChannelDegraded (stack channel : Nat) (s : State) : Host.Outcome State Fault Refusal :=
  answer s
    (if 20 ≤ stack ∨ 32 ≤ channel ∨ s.valNat 0x2400 4 = 0 ∨ s.hbm.failed.contains (stack, channel) then s
     else
       let n := s.valNat 0x2400 4 - (s.recentErrors (chKey stack channel)).length
       (s.count (0x6600 + chKey stack channel) ctrChCorrected n).degrade stack channel)

/-- PATROL_BLOCK (R237): the next block of a physical channel in offset order; unmaintained blocks are passed over (R486). A second
mismatch counts toward the threshold of R242. -/
def execPatrolBlock (stack channel : Nat) (mismatch persists : Bool) (s : State) : Host.Outcome State Fault Refusal :=
  answer s
    (if 20 ≤ stack ∨ 32 ≤ channel ∨ s.valNat 0x2400 5 = 0 ∨ s.hbm.failed.contains (stack, channel) then s
     else
       let key := chKey stack channel
       let b := Tab.get s.hbm.patrol 0 key % 523776
       let mismatch := mismatch || s.hbm.corrupt.contains (key * 524288 + b)
       let persists := persists || s.hbm.corrupt.contains (key * 524288 + b)
       let s := { s with hbm := { s.hbm with patrol := Tab.set s.hbm.patrol key ((b + 1) % 523776) } }
       if !Ranges.has s.hbm.maintained (key * 524288 + b) then s
       else
         let i := 0x6600 + key
         let s := s.count i ctrChPatrol 1
         if !mismatch then s
         else
           let s := s.count i ctrChPatrolBad 1
           if !persists then s
           else
             let inData := decide (b * 4096 < s.dataBytes)
             let es := s.time.ticks :: s.recentErrors key
             let s := s.modHbm (fun h => { h.spoilt (key * 524288 + b) with errors := Tab.set h.errors key es })
             let s := s.raise
               { status := 0x2202, part := if inData then s.channelOwner stack channel else 0xFF, unitKind := 3
                 unit := chUnit stack channel, addr := hbmPlace stack channel (b * 4096) }
             if s.valNat 0x2400 4 ≠ 0 ∧ s.valNat 0x2400 4 ≤ es.length then s.degrade stack channel else s)

/-- RETRAINING_CHECK_FAILED (R242). -/
def execRetrainingCheckFailed (stack channel : Nat) (s : State) : Host.Outcome State Fault Refusal :=
  answer s (if 20 ≤ stack ∨ 32 ≤ channel ∨ s.hbm.failed.contains (stack, channel) then s else s.migrateAway stack channel)

/-- s with blocks lo to hi − 1 of one physical channel, data, windows and side table, copied to another (R243 step 2). -/
def State.copyBlocks (s : State) (stack src dst lo hi : Nat) : State :=
  let a := hbmPlace stack src 0
  let b := hbmPlace stack dst 0
  let ka := chKey stack src * 524288
  let kb := chKey stack dst * 524288
  let marks := s.hbm.maintained.filterMap (fun r =>
    let l := max r.1 (ka + lo)
    let h := min r.2 (ka + hi)
    if l < h then some (l - ka + kb, h - ka + kb) else none)
  let bad := s.hbm.corrupt.filterMap (fun k => if ka + lo ≤ k ∧ k < ka + hi then some (k - ka + kb) else none)
  let h := (s.hbm.unmarked (kb + lo) (kb + hi)).scrubbed marks
  { s with
    mem := Mem.putAll (Mem.clear s.mem (fun k => decide (b + 4096 * lo ≤ k ∧ k < b + 4096 * hi)))
      (s.mem.filterMap (fun c => if a + 4096 * lo ≤ c.1 ∧ c.1 < a + 4096 * hi then some (c.1 - a + b, c.2) else none))
    hbm := { h with corrupt := h.corrupt ++ bad } }

/-- s with n more blocks of the migration of a stack copied (R243 step 2, R244). -/
def State.copyOn (s : State) (stack n : Nat) : State :=
  match Tab.find s.hbm.migrations stack with
  | none => s
  | some g =>
    if g.phase ≠ 0 then s
    else
      let hi := min 524288 (g.ptr + n)
      (s.copyBlocks stack g.source g.target g.ptr hi).modHbm (fun h =>
        { h with migrations := Tab.set h.migrations stack { g with ptr := hi } })

/-- s after one reference tick of the copies in progress: each moves its pointer on by a block or not; which is open, and more than
one block does not fit into a tick (R243, R244, log 103). -/
def State.copyTick (s : State) : State :=
  (s.hbm.migrations.map (·.1)).foldl (fun s stack =>
    (s.copyOn stack ((Config.freeByte s.free).toNat % 2)).spend 1) s

/-- MIGRATION_COPY_DONE (R243 steps 2 and 3): the rest of the channel is copied, and the logical channel now names the old standby.
A copied block whose CRC did not match twice is copied as read and logged. -/
def execMigrationCopyDone (stack : Nat) (badBlocks : List Nat) (s : State) : Host.Outcome State Fault Refusal :=
  answer s
    (match Tab.find s.hbm.migrations stack with
     | none => s
     | some g =>
       if g.phase ≠ 0 then s
       else
         let key := chKey stack g.source * 524288
         let bad := (badBlocks ++ (s.hbm.corrupt.filter (fun k => key ≤ k && k < key + 524288)).map (· - key)).eraseDups
         let s := (bad.filter (fun b => Ranges.has s.hbm.maintained (key + b))).foldl (fun s b =>
           let k := hbmPlace stack g.source (b * 4096)
           s.raisePlace k 4 (if b * 4096 < s.dataBytes then s.channelOwner stack g.source else 0xFF) k 0) s
         let s := s.copyOn stack 524288
         let s := (s.count (0x6600 + chKey stack g.source) ctrChMigrations 1).count (0x6600 + chKey stack g.target) ctrChMigrations 1
         s.modHbm (fun h =>
           { h with
             map := Tab.set h.map (stack * 32 + g.logical) g.target
             migrations := Tab.set h.migrations stack { g with phase := 1 } }))

/-- MIGRATION_RETRAIN_DONE (R243 step 4). -/
def execMigrationRetrainDone (stack : Nat) (s : State) : Host.Outcome State Fault Refusal :=
  answer s
    (match Tab.find s.hbm.migrations stack with
     | some g => if g.phase = 1 then s.modHbm (fun h => { h with migrations := Tab.set h.migrations stack { g with phase := 2 } }) else s
     | none => s)

/-- MARCH_TEST_DONE (R243 steps 5 and 6): the old channel becomes the standby, or is failed. The test writes its whole
extent: what it leaves there is undefined and read by no one before it is written (R486). -/
def execMarchTestDone (stack : Nat) (passed : Bool) (s : State) : Host.Outcome State Fault Refusal :=
  answer s
    (match Tab.find s.hbm.migrations stack with
     | some g =>
       if g.phase ≠ 2 then s
       else
         let k := chKey stack g.source * 524288
         s.modHbm (fun h =>
           { h.unmarked k (k + 524288) with
             migrations := Tab.del h.migrations stack
             standby := Tab.set h.standby stack (if passed then g.source else 255)
             failed := if passed then h.failed else (stack, g.source) :: h.failed })
     | none => s)

/-! ### Channel failure (R245, R246) -/

/-- s with the guests of the hosted window told that a channel of it is lost: their windows are spread over every channel
(R221, R245). -/
def State.tellGuests (s : State) (status : Nat) : State :=
  if s.carve = 0 then s
  else
    (s.guests.filter (fun g => g.state == 0)).foldl (fun s g => s.sendTo g.module 0x24 0 [g.part, status])
      { s with guests := s.guests.map (fun g => { g with held := [] }) }

/-- s with the contents of a physical channel gone: nothing of it is maintained (R245, R486). -/
def State.loseChannel (s : State) (stack phys : Nat) : State :=
  let a := hbmPlace stack phys 0
  let k := chKey stack phys * 524288
  { s with
    mem := Mem.clear s.mem (fun x => decide (a ≤ x ∧ x < a + 2147483648))
    hbm := s.hbm.unmarked k (k + 524288) }

/-- s with the partition that owns a lost channel rolled back as after a cluster failure (R245). -/
def State.rollOwner (s : State) (p : Nat) : State :=
  let q := s.part p
  if q.state = .running ∨ q.state = .draining ∨ q.state = .hostLost then s.beginRollback p 0x6202 none
  else if q.state = .reclaiming && (q.rcv.reclaim.map (fun c => c.phase == 0)).getD false then s.fenceAbort p
  else s

/-- s with a stack's failed logical channel lost for want of a standby (R246): its owner and that of channel 30 stop, and do not start
again before a layout is committed (log 104). -/
def State.exhausted (s : State) (stack logical phys : Nat) : State :=
  let owner := s.channelOwner stack phys
  let last := s.physCh stack 30
  let owner30 := s.channelOwner stack last
  let s := s.raise { status := 0x7201, part := 0xFF, unitKind := 3, unit := chUnit stack phys }
  let hit := [owner, owner30].eraseDups.filter (fun p => decide (p < 4))
  let s := s.modHbm (fun h => { h with usable := 30, failed := (stack, phys) :: h.failed, stale := (hit ++ h.stale).eraseDups })
  let s := if logical = 30 then s.modHbm (fun h => { h with map := Tab.set h.map (stack * 32 + 30) 255 })
    else s.modHbm (fun h => { h with map := Tab.set (Tab.set h.map (stack * 32 + logical) last) (stack * 32 + 30) 255 })
  hit.foldl (fun s p =>
    if (s.part p).state = .safeStop then s else s.enterSafeStop p 0x7201) s

/-- s with a physical channel failed outright (R245 to R247). In a migration whose copy runs, a failing standby ends
the migration; a failing source leaves the blocks below the copy pointer, and the rest is lost. -/
def State.channelFails (s : State) (stack channel : Nat) : State :=
    (if 20 ≤ stack ∨ 32 ≤ channel ∨ s.hbm.failed.contains (stack, channel) then s
     else
       let l := s.logicalCh stack channel
       let g := Tab.find s.hbm.migrations stack
       let owner := s.channelOwner stack channel
       let copying := (g.map (fun g => g.phase == 0)).getD false
       if l = 255 then
         (s.raise { status := 0x6202, part := 0xFF, unitKind := 3, unit := chUnit stack channel }).modHbm (fun h =>
           { h with migrations := Tab.del h.migrations stack, standby := Tab.set h.standby stack 255
                    failed := (stack, channel) :: h.failed })
       else if (g.isSome && !copying) || 32 ≤ s.standby stack then
         (s.raise { status := 0x6202, part := owner, unitKind := 3, unit := chUnit stack channel }).exhausted stack l channel
       else
         let b := s.standby stack
         let s := s.raise { status := 0x6202, part := owner, unitKind := 3, unit := chUnit stack channel }
         let s := if copying && ((g.map (fun g => g.source == channel)).getD false) then s else s.loseChannel stack b
         let s := s.loseChannel stack channel
         let s := s.modHbm (fun h =>
           { h with
             map := Tab.set h.map (stack * 32 + l) b, standby := Tab.set h.standby stack 255
             migrations := Tab.del h.migrations stack, failed := (stack, channel) :: h.failed })
         let s := s.tellGuests 0x6202
         if owner < 4 then s.rollOwner owner |>.finishRollback owner else s)

/-- CHANNEL_FAILED (R245 to R247). -/
def execChannelFailed (stack channel : Nat) (s : State) : Host.Outcome State Fault Refusal := answer s (s.channelFails stack channel)

end Sys2Proof.Machine
end

