-- ==== Sys2Proof/Machine/Collective.lean ====
section
/-!
DEFINITION. Collectives over the Kettle links: reduce-scatter, all-gather and all-reduce (R275 to R284), stragglers and
their ledger (R288 to R293), sachet points and fetches (R303, R304, R321), and the events of R299.
-/

namespace Sys2Proof.Machine

open Sys2Proof

/-! ### A running collective -/

/-- What a collective command works from: its reference, its queue, its opcode and its descriptor. -/
structure CollCtx where
  r : QRef
  q : Nat
  op : Nat
  d : Coll
deriving DecidableEq, Repr

/-- The collective command that runs in queue q. -/
def State.collCtx (s : State) (q : Nat) : Option CollCtx :=
  (s.running 4 q).bind (fun e =>
    if 1 ≤ e.2.cmd.opcode ∧ e.2.cmd.opcode ≤ 3 then
      some { r := e.1, q := q, op := e.2.cmd.opcode, d := Coll.ofBytes (e.2.held.getD 0 []) }
    else none)

/-- The run of queue q. -/
def State.coll (s : State) (q : Nat) : Option CollRun := Tab.find s.colls q

/-- s with the run of queue q changed by f. -/
def State.modColl (s : State) (q : Nat) (f : CollRun → CollRun) : State :=
  { s with colls := s.colls.map (fun e => (e.1, if e.1 = q then f e.2 else e.2)) }

/-- Credits to send that queue q holds (R281). -/
def State.creditsOf (s : State) (q : Nat) : Nat := Tab.get s.credits 0 q

/-- The port of a collective queue (R69). -/
def portOf (q : Nat) : Nat := q / 16

/-- Counter index of a collective queue, and its counters (R301). -/
def collIndex (q : Nat) : Nat := 0x6C00 + q
def ctrBlocksSent : Nat := 1
def ctrBlocksReceived : Nat := 2
def ctrBlocksAdded : Nat := 3
def ctrCreditStall : Nat := 4
def ctrMismatch : Nat := 5
def ctrStalls : Nat := 6

/-- Blocks that a member receives, and sends, in the reduce-scatter of a command, and over the whole command (R278). -/
def CollCtx.reduceBlocks (x : CollCtx) : Nat := if x.op = 2 then 0 else (x.d.members - 1) * x.d.chunk
def CollCtx.total (x : CollCtx) : Nat := (if x.op = 3 then 2 else 1) * (x.d.members - 1) * x.d.chunk

/-- Block number of the i-th block that a member receives: at step j it gets chunk (r − j − 2) mod n of a reduce-scatter,
chunk (r − j − 1) mod n of an all-gather, in ascending order (R278). -/
def CollCtx.blockAt (x : CollCtx) (i : Nat) : Nat :=
  let c := x.d.chunk
  let n := x.d.members
  if i < x.reduceBlocks then ((x.d.rank + 2 * n - i / c - 2) % n) * c + i % c
  else ((x.d.rank + n - 1 - (i - x.reduceBlocks) / c) % n) * c + i % c

/-- Whether the i-th block arrives in its phase's last step, after which it goes no further (R278). -/
def CollCtx.isLast (x : CollCtx) (i : Nat) : Bool :=
  (if i < x.reduceBlocks then i else i - x.reduceBlocks) / x.d.chunk + 2 == x.d.members

/-- Block number of the i-th block of the chunk that a member sends first: chunk r − 1 of a reduction, its own chunk of an
all-gather (R278). -/
def CollCtx.firstBlock (x : CollCtx) (i : Nat) : Nat :=
  let n := x.d.members
  (if x.op = 2 then x.d.rank else (x.d.rank + n - 1) % n) * x.d.chunk + i

/-- Addresses of a block and of its pair in the source and in the destination (R277). -/
def CollCtx.srcAddr (x : CollCtx) (b : Nat) : Nat := x.d.src + 4096 * (if x.op = 2 then b % x.d.chunk else b)
def CollCtx.srcPair (x : CollCtx) (b : Nat) : Nat :=
  x.d.src + 4096 * x.d.srcBlocks x.op + 16 * (if x.op = 2 then b % x.d.chunk else b)
def CollCtx.dstIndex (x : CollCtx) (b : Nat) : Nat := if x.op = 1 then b % x.d.chunk else b
def CollCtx.dstAddr (x : CollCtx) (b : Nat) : Nat := x.d.dst + 4096 * x.dstIndex b
def CollCtx.dstPair (x : CollCtx) (b : Nat) : Nat := x.d.dst + 4096 * x.d.dstBlocks x.op + 16 * x.dstIndex b

/-- The sum of two blocks in a format, each element rounded once to nearest even (R184, R280). -/
def addBlocks (code : Nat) (xs ys : List Byte) : List Byte :=
  let f := formatOf code
  let w := f.width / 8
  (List.range (4096 / w)).flatMap (fun i =>
    le w (f.round .nearest (FV.add (f.decode (field ys (i * w) w)) (f.decode (field xs (i * w) w)))))

/-! ### The straggler ledger (R290 to R293) -/

/-- Base of the ledger's key entries and of its pool (R291). -/
def State.keyAddr (s : State) (p i : Nat) : Nat := s.ledgerBase p + 4096 + 64 * i
def State.poolBase (s : State) (p : Nat) : Nat := s.ledgerBase p + 331776

/-- State, age, occurrences, blocks, buffer and epoch of key entry i (R292). -/
def State.keyState (s : State) (p i : Nat) : Nat := s.rdNat p (s.keyAddr p i + 2) 1
def State.keyAge (s : State) (p i : Nat) : Nat := s.rdNat p (s.keyAddr p i + 3) 1
def State.keyBlocks (s : State) (p i : Nat) : Nat := s.rdNat p (s.keyAddr p i + 0x0C) 4
def State.keyBuffer (s : State) (p i : Nat) : Nat := s.rdNat p (s.keyAddr p i + 0x10) 8
def State.keyEpoch (s : State) (p i : Nat) : Nat := s.rdNat p (s.keyAddr p i + 0x20) 4

/-- The key entry of a group and tensor: one that counts its occurrences (R292). -/
def State.findKey (s : State) (p group tensor : Nat) : Option Nat :=
  if s.ledgerSize p = 0 then none else
  (List.range 1024).find? (fun i =>
    let a := s.keyAddr p i
    s.rdNat p a 2 == group && s.rdNat p (a + 4) 4 == tensor && s.rdNat p (a + 8) 4 != 0)

/-- An entry for a new key: the first that no key uses, else the first that holds no contribution (log 51). -/
def State.freeKey (s : State) (p : Nat) : Option Nat :=
  if s.ledgerSize p = 0 then none else
  match (List.range 1024).find? (fun i => s.rdNat p (s.keyAddr p i + 8) 4 == 0) with
  | some i => some i
  | none => (List.range 1024).find? (fun i => s.keyState p i == 0)

/-- s with one more occurrence of a key counted (R292). -/
def State.countOccurrence (s : State) (p group tensor : Nat) : State :=
  match s.findKey p group tensor with
  | some i => s.wr p (s.keyAddr p i + 8) (le 4 (s.rdNat p (s.keyAddr p i + 8) 4 + 1))
  | none =>
    match s.freeKey p with
    | some i => s.wr p (s.keyAddr p i) (padTo 64 (le 2 group ++ le 2 0 ++ le 4 tensor ++ le 4 1))
    | none => s

/-- Bytes of a pool run for n blocks: the blocks and their pair table, in whole blocks (R291). -/
def runBytes (n : Nat) : Nat := (4112 * n + 4095) / 4096 * 4096

/-- The lowest pool offset at which a run of n blocks fits beside the runs in use (R291, log 51). -/
def State.poolRun (s : State) (p n : Nat) : Option Nat :=
  let used := ((List.range 1024).filter (fun i => s.keyState p i != 0)).map (fun i =>
    (s.keyBuffer p i, runBytes (s.keyBlocks p i)))
  let tries := (0 :: used.map (fun u => u.1 + u.2)).mergeSort (· ≤ ·)
  tries.find? (fun o =>
    o + runBytes n + 331776 ≤ s.ledgerSize p && used.all (fun u => u.1 + u.2 ≤ o || o + runBytes n ≤ u.1))

/-- Bytes of the pool in use, at their highest so far (R301). -/
def State.poolHigh (s : State) (p : Nat) : State :=
  let used := (((List.range 1024).filter (fun i => s.keyState p i != 0)).map (fun i => runBytes (s.keyBlocks p i))).sum
  { s with ctr := Tab.mod s.ctr 0 (partCounters p * 256 + ctrLedgerHigh) (fun n => max n used) }

/-- s with the contribution that key entry i holds, and those it waits for, given up. -/
def State.freeEntry (s : State) (p i : Nat) : State :=
  ({ s with pendingSrc := Tab.del s.pendingSrc (p * 1024 + i) }).wr p (s.keyAddr p i + 2) (le 2 0)

/-- s with the pool run at pool offset o of n blocks added into the region at a of n blocks (R184, R290). -/
def State.addDeferred (s : State) (p a o : Nat) (x : CollCtx) (n : Nat) : State :=
  let src := s.poolBase p + o
  let s := s.addRegion p a src x.d.fmt (4096 * n / ((formatOf x.d.fmt).width / 8)) false
  if x.d.pairs then s.addPairTable p (x.d.src + 4096 * x.d.srcBlocks x.op) (src + 4096 * n) n else s

/-! ### Start and end of a run -/

/-- The policy of a command (R288). -/
def State.collPolicy (s : State) (x : CollCtx) : Nat := s.policyOf x.r.part x.d.policy

/-- s with the collective command of queue q ended with a status, or an earlier failure of its run; a reduce leaves its record
(R293). -/
def State.endColl (s : State) (x : CollCtx) (status : Nat) : State :=
  let st := ((s.coll x.q).map (fun y => mergeStatus y.status status)).getD status
  let s := match s.coll x.q with | some y => s.recordRun y st | none => s
  ({ s with colls := Tab.del s.colls x.q }).issue 4 x.q x.r st

/-- s with the collective command of queue q stopped: the credits of its channel lapse (log 52). -/
def State.stopColl (s : State) (x : CollCtx) (status : Nat) : State :=
  ({ s with credits := Tab.del s.credits x.q }).endColl x status

/-- Status that the contributed mask gives every member (R289). -/
def lateStatus (x : CollCtx) (run : CollRun) : Nat :=
  if x.op = 2 ∨ run.contributed = 2 ^ x.d.members - 1 then 0
  else if run.policy = 0 then 0x0105 else if run.policy = 1 then 0x0106 else 0

/-- The instant and tick at which epoch e of a scope closed: the first closure that reached it, else now (R289). -/
def State.closedWhen (s : State) (p key e : Nat) : Nat × Nat :=
  match ((s.part p).fences.times.filter (fun t => t.1 == key && serialGe t.2.1 e)).getLast? with
  | some t => t.2.2
  | none => (s.now, s.time.ticks)

/-- A collective command starts (R278, R281, R289, R290, R444): the channel's staging is granted to the sender as
credits (log 52). With its send port or its receive port down it completes with 0x6303. -/
def State.startColl (s : State) (x : CollCtx) (faults : List BlockFault) : State :=
  let p := x.r.part
  let c := ((s.cmdOf x.r).map (fun c : CmdRec => c.cmd)).getD {}
  let t := s.closedWhen p (fenceScope c.waitKind 4 x.q) c.waitEpoch
  let us := if x.d.deadline = 0 then s.valNat (0xB100 + 16 * p) 4 else x.d.deadline
  let s := if x.op = 2 then s else s.countOccurrence p x.d.group x.d.tensor
  let occ := ((s.findKey p x.d.group x.d.tensor).map (fun i => s.rdNat p (s.keyAddr p i + 8) 4)).getD 1
  let policy := s.collPolicy x
  let grant := min (x.d.stagingBytes / 4096) x.total
  let run : CollRun :=
    { ref := x.r, policy := policy, occurrence := occ, tBarrier := t.1
      tDeadline := if policy = 2 then 0 else t.1 + 1000 * us, tickDeadline := t.2 + us * Config.ticksPerUs
      heard := s.time.ticks, faults := faults, granted := grant, carried := x.op == 2 }
  let s := { s with colls := Tab.set s.colls x.q run }
  if (s.kport (portOf x.q)).state ≠ 2 ∨ (s.kport x.d.port).state ≠ 2 then s.stopColl x 0x6303
  else s.kettleSend x.d.port 0x02 p { kind := 1, tag := x.d.tag } [grant] []

/-! ### The local contribution -/

/-- The fence of a command's contribution has closed (R289). -/
def State.contribClosed (s : State) (x : CollCtx) : Bool :=
  x.d.contribKind == 0 || (s.part x.r.part).fences.open (scopeKey x.d.contribKind 0) x.d.contribEpoch

/-- Whether a closed contribution fence closed by the run's deadline; under wait nothing is late (R289). -/
def State.inTime (s : State) (x : CollCtx) (run : CollRun) : Bool :=
  run.policy == 2 || x.d.contribKind == 0 ||
    (match ((s.part x.r.part).fences.times.filter (fun t =>
        t.1 == scopeKey x.d.contribKind 0 && serialGe t.2.1 x.d.contribEpoch)).getLast? with
     | some t => decide (t.2.2.2 ≤ run.tickDeadline)
     | none => true)

/-- The contributions that key entry i waits for, oldest first. -/
def State.pendingOf (s : State) (p i : Nat) : List LateSrc := (Tab.find s.pendingSrc (p * 1024 + i)).getD []

/-- The fence that a pending key entry waits for has closed; an entry whose source is not known, restored with a sachet,
has none (log 53). -/
def State.pendingClosed (s : State) (p i : Nat) : Bool :=
  match s.pendingOf p i with
  | l :: _ => l.kind == 0 || (s.part p).fences.open (scopeKey l.kind 0) l.epoch
  | [] => false

/-- s with the dropped contributions of partition p whose fence has closed counted: they are ready now (R289). -/
def State.settleDrops (s : State) (p : Nat) : State :=
  let f := (s.part p).fences
  let ready := fun (d : Nat × Nat) => f.open (scopeKey d.1 0) d.2
  if f.drops.any ready then
    (s.modFences p (fun f => { f with drops := f.drops.filter (fun d => !ready d) })).count (partCounters p) ctrDropped
      (f.drops.filter ready).length
  else s

/-- s with key entries of partition p whose fence has closed copying (R289, R292). -/
def State.beginCopies (s : State) (p : Nat) : State :=
  if s.ledgerSize p = 0 then s else
  (List.range 1024).foldl (fun s i =>
    if s.keyState p i = 1 ∧ s.pendingClosed p i then s.wr p (s.keyAddr p i + 2) (le 1 3) else s) s

/-- s with the local contribution of a run ready, and an earlier deferred one added into it, as far as both are there; an
occurrence waits for a pending or copying entry of its key, and the add for its adder (R289, R290). -/
def State.takeReady (s : State) (x : CollCtx) : State :=
  match s.coll x.q with
  | none => s
  | some run =>
    if run.late ∨ (run.ready ∧ run.carried) ∨ !s.contribClosed x ∨ !s.inTime x run then s
    else
      let p := x.r.part
      let s := (s.modColl x.q (fun y => { y with ready := true })).beginCopies p
      if run.carried ∨ s.holds 2 x.d.adder then s
      else
        match s.findKey p x.d.group x.d.tensor with
        | none => s.modColl x.q (fun y => { y with carried := true })
        | some i =>
          if s.keyState p i = 0 then s.modColl x.q (fun y => { y with carried := true })
          else if s.keyState p i = 2 then
            let s := s.addDeferred p x.d.src (s.keyBuffer p i) x (min x.d.blocks (s.keyBlocks p i))
            (s.freeEntry p i).modColl x.q (fun y => { y with carried := true, deferredIn := 2 ^ x.d.rank })
          else s

/-- A block of the local contribution as the transport brings it to staging (R235, R236, R280): late contributions and
blocks left out count as nothing. -/
def State.ownBlock (s : State) (x : CollCtx) (run : CollRun) (b : Nat) : CBlock :=
  let p := x.r.part
  let a := x.srcAddr b
  let bad := (s.faultAt p run.faults a).any (fun f => f.persists)
  let none' : CBlock := { block := b, data := zeros 4096, mask := if run.late then 0 else 2 ^ x.d.rank }
  if (run.late ∧ x.op ≠ 2) ∨ bad then none'
  else
    { none' with
      data := s.rd p a 4096
      sum := if x.d.pairs then s.rdNat p (x.srcPair b) 8 else 0
      abs := if x.d.pairs then s.rdNat p (x.srcPair b + 8) 8 else 0 }

/-- Whether the read of block b of the local contribution stops the command: under abort, and in an all-gather, which has
no contribution to leave out (R236). -/
def State.ownStops (s : State) (x : CollCtx) (run : CollRun) (b : Nat) : Bool :=
  (s.faultAt x.r.part run.faults (x.srcAddr b)).any (fun f => f.persists) && !(run.late && x.op != 2) &&
    (x.op == 2 || s.pval x.r.part 0x60 2 == 0)

/-- s with the read of block b of the local contribution counted, its mismatch queued, and the command's status kept
(R235, R236). -/
def State.noteOwn (s : State) (x : CollCtx) (run : CollRun) (b : Nat) : State :=
  let p := x.r.part
  let a := x.srcAddr b
  if run.late ∧ x.op ≠ 2 then s
  else
    let s := (s.countVerified p run.faults [a]).loaded p a 4096
    match s.faultAt p run.faults a with
    | none => s
    | some f =>
      let s := if f.persists then s.raiseRead x.r 2 a else s
      s.modColl x.q (fun y => { y with status := mergeStatus y.status (if f.persists then 0x2201 else 0x0103) })

/-- s with the command stopped at a block of its contribution (R236): under abort its list goes no further. -/
def State.stopOwn (s : State) (x : CollCtx) : State :=
  let s := if x.op ≠ 2 then s.abandonAfter x.r 0x2201 else s
  s.stopColl x 0x2201

/-! ### Blocks on their way -/

/-- s with a credit owed to the sender, unless every block of the command is already covered (R281). -/
def State.oweCredit (s : State) (x : CollCtx) : State :=
  s.modColl x.q (fun y =>
    if y.granted + y.owed < x.total then
      { y with owed := y.owed + 1, owedTick := if y.owed = 0 then s.time.ticks else y.owedTick }
    else y)

/-- s with the credits owed on a channel sent (R281, R441). -/
def State.sendCredits (s : State) (x : CollCtx) : State :=
  match s.coll x.q with
  | some y =>
    if y.owed = 0 then s
    else
      (s.modColl x.q (fun y => { y with owed := 0, granted := y.granted + y.owed })).kettleSend x.d.port 0x02 x.r.part
        { kind := 1, tag := x.d.tag } [y.owed] []
  | none => s

/-- s with credits sent once 8 are owed (R441). -/
def State.dueCredits (s : State) (x : CollCtx) : State :=
  match s.coll x.q with
  | some y => if 8 ≤ y.owed then s.sendCredits x else s
  | none => s

/-- Checksum verify of the final block b, which stands in the destination (R188, R284). -/
def CollCtx.verifyCmd (x : CollCtx) : Cmd :=
  { fmt := x.d.fmt, arg0 := x.d.dst, arg2 := x.d.nContrib, arg3 := x.d.dstBlocks x.op }

/-- s with a finished block written to the destination with its pair (R278, R283). -/
def State.putResult (s : State) (x : CollCtx) (b : CBlock) : State :=
  let p := x.r.part
  let s := (s.store p (x.dstAddr b.block) b.data).spoilAt p (x.dstAddr b.block) 4096
  if x.d.pairs then s.wr p (x.dstPair b.block) (le 8 b.sum ++ le 8 b.abs) else s

/-- The block and pair that stand in the destination. -/
def State.resultBlock (s : State) (x : CollCtx) (b : CBlock) : CBlock :=
  let p := x.r.part
  { b with
    data := s.rd p (x.dstAddr b.block) 4096
    sum := if x.d.pairs then s.rdNat p (x.dstPair b.block) 8 else 0
    abs := if x.d.pairs then s.rdNat p (x.dstPair b.block + 8) 8 else 0 }

/-- s with a total verified and written: what a fault's policy leaves; none when it stops the command (R284). -/
def State.finishBlock (s : State) (x : CollCtx) (b : CBlock) : Option State :=
  let s' := s.putResult x b
  if !x.d.verify then some s'
  else
    let i := x.dstIndex b.block
    let v := s'.verifyBlock x.r.part x.verifyCmd i
    let count := fun (s : State) => s.count (siteIndex (s.siteN x.d.adder)) ctrVerified 1
    if v.2.2.2 then some (count s')
    else
      let policy := if x.d.verifyPolicy = 0 then s.valNat 0xB010 1 + 1 else x.d.verifyPolicy
      if policy = 3 then none
      else
        some (((count s').checksumFault x.d.adder x.r x.verifyCmd i policy v).modColl x.q
          (fun y => { y with status := mergeStatus y.status 0x2301 }))

/-- s stopped by a checksum fault under abort: the block is neither written nor passed on (R189, R284). -/
def State.stopVerify (s : State) (x : CollCtx) (b : CBlock) : State :=
  let i := x.dstIndex b.block
  let v := (s.putResult x b).verifyBlock x.r.part x.verifyCmd i
  let s := (s.count (siteIndex (s.siteN x.d.adder)) ctrVerified 1).checksumFault x.d.adder x.r x.verifyCmd i 3 v
  (s.abandonAfter x.r 0x2301).stopColl x 0x2301

/-- s with block b put behind those that wait to be sent. -/
def State.queueBlock (s : State) (x : CollCtx) (b : CBlock) : State :=
  s.modColl x.q (fun y => { y with sendQ := y.sendQ ++ [b] })

/-- s with an arriving or a local block put into staging (R280): which staging block takes it is open. -/
def State.toStaging (s : State) (x : CollCtx) (data : List Byte) : State :=
  ({ s with free := s.free + 1 }).wr x.r.part
    (x.d.staging + 4096 * (Config.stagingSlot s.free % (x.d.stagingBytes / 4096))) data

/-- s with the front block of a reduction's staging added and passed on or finished (R278, R280, R283, R289). -/
def State.addStep (s : State) (x : CollCtx) (run : CollRun) (b : CBlock) : State :=
  let own := s.ownBlock x run b.block
  if s.ownStops x run b.block then (s.noteOwn x run b.block).stopOwn x
  else
    let s := s.noteOwn x run b.block
    let adds := !run.late
    let sum : CBlock :=
      if adds then
        { b with
          data := addBlocks x.d.fmt b.data own.data, mask := b.mask ||| own.mask
          sum := if x.d.pairs then addF64 b.sum own.sum else 0, abs := if x.d.pairs then addF64 b.abs own.abs else 0 }
      else { b with owes := !x.isLast run.got }
    let s := s.modColl x.q (fun y => { y with got := y.got + 1, holdQ := y.holdQ.drop 1 })
    let s := if adds then (s.toStaging x own.data).count (collIndex x.q) ctrBlocksAdded 1 else s
    let s := if adds ∨ x.isLast run.got then s.oweCredit x else s
    if x.isLast run.got then
      match s.finishBlock x sum with
      | none => s.stopVerify x sum
      | some t =>
        let t := t.modColl x.q (fun y => { y with contributed := sum.mask })
        if x.op = 3 then t.queueBlock x (t.resultBlock x sum) else t
    else s.queueBlock x sum

/-- s with the front block of an all-gather written and passed on (R278, R283). -/
def State.gatherStep (s : State) (x : CollCtx) (run : CollRun) (b : CBlock) : State :=
  let s := (s.putResult x b).modColl x.q (fun y => { y with got := y.got + 1, holdQ := y.holdQ.drop 1 })
  let s := s.oweCredit x
  if x.isLast run.got then s else s.queueBlock x b

/-- s with one block taken from staging, when it can be (R280, R289). -/
def State.stageStep (s : State) (x : CollCtx) : State :=
  match s.coll x.q with
  | none => s
  | some run =>
    match run.holdQ with
    | [] => s
    | b :: _ =>
      if x.reduceBlocks ≤ run.got then s.gatherStep x run b
      else if run.late ∨ (run.ready ∧ run.carried ∧ !s.holds 2 x.d.adder) then s.addStep x run b
      else s

/-- The policy in force in the running command of a channel, in the key of its blocks (R279, R288, R299). -/
def State.runPolicy (s : State) (x : CollCtx) : Nat := ((s.coll x.q).map (·.policy)).getD 2

/-- s with block b of a channel sent against a credit (R281, R440). -/
def State.emit (s : State) (x : CollCtx) (b : CBlock) : State :=
  let s := { s with credits := Tab.mod s.credits 0 x.q (· - 1) }
  let s := s.modColl x.q (fun y => { y with sent := y.sent + 1 })
  let s := (s.count (collIndex x.q) ctrBlocksSent 1).kettleSend (portOf x.q) 0x01 x.r.part
    { kind := 1, tag := x.q, check := if x.d.pairs then 2 else 1 }
    [x.d.group, s.runPolicy x, x.d.fmt, x.d.tensor, x.d.blocks, b.block, b.mask, b.sum, b.abs, crc32c b.data] b.data
  if b.owes then s.oweCredit x else s

/-- s with one more block of a channel sent, its own first chunk before those passed on (R278). -/
def State.emitStep (s : State) (x : CollCtx) : State :=
  match s.coll x.q with
  | none => s
  | some run =>
    if s.creditsOf x.q = 0 then s
    else if run.sent < x.d.chunk then
      if !(run.late ∨ (run.ready ∧ run.carried)) then s
      else
        let b := x.firstBlock run.sent
        let own := s.ownBlock x run b
        if s.ownStops x run b then (s.noteOwn x run b).stopOwn x
        else
          let s := s.noteOwn x run b
          let s := if x.op = 2 then s.putResult x own else s
          s.emit x own
    else
      match run.sendQ with
      | [] => s
      | b :: _ => (s.modColl x.q (fun y => { y with sendQ := y.sendQ.drop 1 })).emit x b

/-- s with a run ended when every block has come and gone (R278, R289, R293). -/
def State.finishColl (s : State) (x : CollCtx) : State :=
  match s.coll x.q with
  | some run =>
    if run.got = x.total ∧ run.sent = x.total then s.endColl x (lateStatus x run) else s
  | none => s

/-- s with the run of queue q taken as far as its contribution, its staging and its credits allow. -/
def State.pumpColl (s : State) (q : Nat) : State :=
  match s.collCtx q, s.coll q with
  | some x, some _ =>
    let s := s.takeReady x
    let n := ((s.coll q).map (fun y => y.holdQ.length)).getD 0
    let s := (List.range n).foldl (fun s _ => s.stageStep x) s
    let s := (List.range (s.creditsOf q)).foldl (fun s _ => s.emitStep x) s
    (s.dueCredits x).finishColl x
  | _, _ => s

/-- s with every run taken as far as it goes: contributions close with commands, and dropped ones are counted (R289). -/
def State.pumpColls (s : State) : State :=
  (s.colls.map (·.1)).foldl (fun s q => s.pumpColl q) (partNumbers.foldl State.settleDrops s)

/-- Whether a channel has blocks ready to leave and no credit (R301). -/
def State.creditStalled (s : State) (q : Nat) : Bool :=
  match s.collCtx q, s.coll q with
  | some x, some run =>
    s.creditsOf q == 0 && run.sent < x.total &&
      (if run.sent < x.d.chunk then run.late || (run.ready && run.carried) else !run.sendQ.isEmpty)
  | _, _ => false

/-- s with one reference tick counted on every channel that waits for credits (R301). -/
def State.stallTick (s : State) : State :=
  (s.colls.map (·.1)).foldl (fun t q => if s.creditStalled q then t.count (collIndex q) ctrCreditStall Config.tickNs else t) s

/-- A collective command with an opcode runs in queue q: it starts, or goes on (R275, R278). -/
def State.runColl (s : State) (q op : Nat) (faults : List BlockFault) : State :=
  match s.collCtx q with
  | some x =>
    if x.op ≠ op then s
    else if (s.coll q).isSome then s.pumpColl q
    else (s.startColl x faults).pumpColl q
  | none => s

/-- REDUCE_SCATTER (R278, R290, R293): faults are the blocks of the local contribution that do not match. -/
def execReduceScatter (q : Nat) (faults : List BlockFault) (s : State) : Host.Outcome State Fault Refusal :=
  answer s (s.runColl q 1 faults)

/-- ALL_GATHER (R278). -/
def execAllGather (q : Nat) (faults : List BlockFault) (s : State) : Host.Outcome State Fault Refusal :=
  answer s (s.runColl q 2 faults)

/-- ALL_REDUCE (R278, R290, R293). -/
def execAllReduce (q : Nat) (faults : List BlockFault) (s : State) : Host.Outcome State Fault Refusal :=
  answer s (s.runColl q 3 faults)

/-- COMMAND_COMPLETE (R101); a contribution that waited for the fence goes on (R289). -/
def execCommandComplete (kind q : Nat) (s : State) : Host.Outcome State Fault Refusal :=
  answer s ((s.complete kind q).pumpColls)

/-! ### Packets of the channels -/

/-- s with a packet that came in on an up port with a sound header taken by f; a bad header CRC discards it and asks for a
replay (R440). -/
def State.packet (s : State) (h : KHdr) (f : State → State) : State :=
  if (s.kport h.port).state ≠ 2 then s
  else if h.crcOk then f s
  else
    (s.modKport h.port (fun x => { x with nak := true })).out (.kettle h.port 0x102 [(s.kport h.port).expect] [])

/-- The channel whose running command receives on a port with a tag (R278). -/
def State.receiver (s : State) (port tag : Nat) : Option CollCtx :=
  (s.colls.filterMap (fun e => s.collCtx e.1)).find? (fun x => x.d.port == port && x.d.tag == tag)

/-- The ring key of a block is that of the command (R279). -/
def State.keyMatches (s : State) (x : CollCtx) (b : BlockFields) : Bool :=
  b.group == x.d.group && b.tensor == x.d.tensor && b.policy == s.runPolicy x && b.format == x.d.fmt &&
    b.total == x.d.blocks

/-- BLOCK (R278 to R283, R289, R441): without a credit it is discarded and counted; with another ring key it is refused
and the command completes with 0x120E. -/
def execBlock (h : KHdr) (b : BlockFields) (s : State) : Host.Outcome State Fault Refusal :=
  answer s (s.packet h (fun s =>
    match s.receiver h.port h.tag with
    | none => s.modKport h.port (fun k => { k with violations := k.violations + 1 })
    | some x =>
      match s.coll x.q with
      | none => s
      | some run =>
        if !s.keyMatches x b then
          ((s.count (collIndex x.q) ctrMismatch 1).kettleSend h.port 0x03 x.r.part { kind := 1, tag := h.tag } [0x120E]
            []).stopColl x 0x120E
        else
          let i := run.got + run.holdQ.length
          if run.granted ≤ i then s.modKport h.port (fun k => { k with violations := k.violations + 1 })
          else if b.block ≠ x.blockAt i then s
          else
            let c : CBlock :=
              { block := b.block, data := padTo 4096 b.payload, sum := if x.d.pairs then b.pairSum.toNat else 0
                abs := if x.d.pairs then b.pairAbs.toNat else 0, mask := b.contributed }
            let s := (s.toStaging x c.data).count (collIndex x.q) ctrBlocksReceived 1
            let s := s.modColl x.q (fun y => { y with holdQ := y.holdQ ++ [c], heard := s.time.ticks })
            s.pumpColl x.q))

/-- CREDIT (R281, R441): credits for the channel that the tag names, on its own port. -/
def execCredit (h : KHdr) (count : Nat) (s : State) : Host.Outcome State Fault Refusal :=
  answer s (s.packet h (fun s =>
    if portOf h.tag ≠ h.port then s
    else
      let s := { s with credits := Tab.mod s.credits 0 h.tag (· + count) }
      (s.modColl h.tag (fun y => { y with heard := s.time.ticks })).pumpColl h.tag))

/-- REFUSE (R279, R441): the receiver holds another ring key; the command that sent completes with its status. -/
def execRefuse (h : KHdr) (status : Nat) (s : State) : Host.Outcome State Fault Refusal :=
  answer s (s.packet h (fun s =>
    match s.collCtx h.tag with
    | some x => if (s.coll h.tag).isSome ∧ portOf h.tag = h.port then s.stopColl x status else s
    | none => s))

/-- KETTLE_CREDIT_TIMER (R441): 1 µs after the first credit owed, the credits go out. -/
def execKettleCreditTimer (q : Nat) (s : State) : Host.Outcome State Fault Refusal :=
  answer s
    (match s.collCtx q, s.coll q with
     | some x, some y => if y.owedTick + Config.ticksPerUs ≤ s.time.ticks then s.sendCredits x else s
     | _, _ => s)

/-! ### Stragglers -/

/-- The late contribution of a run. -/
def CollCtx.lateSrc (x : CollCtx) (run : CollRun) : LateSrc :=
  { src := x.d.src, pairs := x.d.pairs, kind := x.d.contribKind, epoch := x.d.contribEpoch, fmt := x.d.fmt, tLate := run.tDeadline }

/-- s with key entry i pending for a late contribution, at an age, with a pool run (R292). -/
def State.markPending (s : State) (p i age blocks buf : Nat) (ls : List LateSrc) : State :=
  let a := s.keyAddr p i
  let l := ls.headD ⟨0, false, 0, 0, 1, 0⟩
  ({ s with pendingSrc := Tab.set s.pendingSrc (p * 1024 + i) ls }).wrAll p
    [(a + 2, le 1 1), (a + 3, le 1 age), (a + 0x0C, le 4 blocks), (a + 0x10, le 8 buf), (a + 0x18, le 8 l.tLate),
      (a + 0x20, le 4 l.epoch)]

/-- Whether one occurrence more takes the contribution of key entry i past the defer age limit (R290). -/
def State.ageOver (s : State) (p i : Nat) : Bool := s.valNat (0xB100 + 16 * p) 3 < s.keyAge p i + 1

/-- s with the late contribution of a run under defer written down in the ledger: a new pool run, or merged with the one
that is held, behind a copy still in progress; without room it is dropped and 0x4108 is queued (R289 to R292). -/
def State.deferLate (s : State) (x : CollCtx) (run : CollRun) : State :=
  let p := x.r.part
  let l := x.lateSrc run
  let drop := fun (s : State) => (s.count (partCounters p) ctrDropped 1).note p 0x4108
  match s.findKey p x.d.group x.d.tensor with
  | none => drop s
  | some i =>
    let st := s.keyState p i
    if st = 0 then
      match s.poolRun p x.d.blocks with
      | none => drop s
      | some o => ((s.markPending p i 0 x.d.blocks o [l]).poolHigh p).count (partCounters p) ctrDeferred 1
    else if s.ageOver p i then (s.freeEntry p i).count (partCounters p) ctrAgedOut 1
    else
      (if st = 2 then s.markPending p i (s.keyAge p i + 1) (s.keyBlocks p i) (s.keyBuffer p i) [l]
       else { s with pendingSrc := Tab.set s.pendingSrc (p * 1024 + i) (s.pendingOf p i ++ [l]) }).count (partCounters p) ctrDeferred 1

/-- s with a contribution late under drop: it is discarded, and counted, when it becomes ready; one deferred earlier is carried once
more (R289, R290). -/
def State.dropLate (s : State) (x : CollCtx) : State :=
  let p := x.r.part
  let s := (s.modFences p (fun f => { f with drops := f.drops ++ [(x.d.contribKind, x.d.contribEpoch)] })).settleDrops p
  match s.findKey p x.d.group x.d.tensor with
  | none => s
  | some i =>
    if s.keyState p i = 0 then s
    else if s.ageOver p i then (s.freeEntry p i).count (partCounters p) ctrAgedOut 1
    else s.wr p (s.keyAddr p i + 3) (le 1 (s.keyAge p i + 1))

/-- s with a pending contribution of the key whose fence has not closed dropped (R290). -/
def State.dropPending (s : State) (x : CollCtx) : State :=
  let p := x.r.part
  match s.findKey p x.d.group x.d.tensor with
  | some i =>
    if s.keyState p i = 1 ∧ !s.pendingClosed p i then
      (s.freeEntry p i).count (partCounters p) ctrDropped (max 1 (s.pendingOf p i).length)
    else s
  | none => s

/-- s at the deadline of a run (R289, R290): what is not ready by it is late for the whole command. -/
def State.deadline (s : State) (x : CollCtx) : State :=
  match s.coll x.q with
  | none => s
  | some run =>
    if x.op = 2 ∨ run.late ∨ s.time.ticks < run.tickDeadline then s
    else
      let s := s.beginCopies x.r.part
      let s := if run.carried then s else s.dropPending x
      let s := s.takeReady x
      if run.policy = 2 ∨ ((s.coll x.q).map (fun y : CollRun => y.ready)).getD false then s.pumpColl x.q
      else
        let s := if run.policy = 0 then s.deferLate x run else s.dropLate x
        (s.modColl x.q (fun y => { y with late := true, carried := true })).pumpColl x.q

/-- STRAGGLER_DEADLINE (R289, R290). -/
def execStragglerDeadline (q : Nat) (s : State) : Host.Outcome State Fault Refusal :=
  answer s (match s.collCtx q with | some x => s.deadline x | none => s)

/-- s with the contribution of key entry i copied into its pool run, or added to the one there; the next that waits follows as one
late in its turn (R289, R290, R292). -/
def State.copyLedger (s : State) (p i : Nat) : State :=
  match s.pendingOf p i with
  | [] => s
  | l :: rest =>
    let n := s.keyBlocks p i
    let dst := s.poolBase p + s.keyBuffer p i
    let table := fun (s : State) (f : State → State) => if l.pairs then f s else s
    let s :=
      if s.keyAge p i = 0 then
        table (s.store p dst (s.rd p l.src (4096 * n))) (fun s => s.wr p (dst + 4096 * n) (s.rd p (l.src + 4096 * n) (16 * n)))
      else
        table (s.addRegion p dst l.src l.fmt (4096 * n / ((formatOf l.fmt).width / 8)) false)
          (fun s => s.addPairTable p (dst + 4096 * n) (l.src + 4096 * n) n)
    let s := if rest.isEmpty then ({ s with pendingSrc := Tab.del s.pendingSrc (p * 1024 + i) }).wr p (s.keyAddr p i + 2) (le 1 2)
      else s.markPending p i (s.keyAge p i + 1) n (s.keyBuffer p i) rest
    s.poolHigh p

/-- LEDGER_COPY_DONE (R289, R290): the entry is deferred, and an occurrence that waited for it goes on. -/
def execLedgerCopyDone (p key : Nat) (s : State) : Host.Outcome State Fault Refusal :=
  answer s
    (let s := s.beginCopies p
     if s.ledgerSize p = 0 ∨ 1024 ≤ key ∨ s.keyState p key ≠ 3 then s
     else
       let s := s.copyLedger p key
       s.pumpColls)

/-- COLLECTIVE_STALL (R299): the peers have been silent for the stall timeout while this member has data ready. -/
def execCollectiveStall (q : Nat) (s : State) : Host.Outcome State Fault Refusal :=
  answer s
    (match s.collCtx q, s.coll q with
     | some x, some y =>
       if (y.ready ∨ y.late) ∧ y.heard + s.valNat 0xB000 1 * Config.ticksPerMs ≤ s.time.ticks then
         (s.count (collIndex q) ctrStalls 1).stopColl x 0x3107
       else s
     | _, _ => s)

/-! ### Sachet points and fetches -/

/-- SACHET_POINT (R303, R304): one step is counted; one that is not due completes at once, one that is due while a capture waits for
the lists joins it (log 109). -/
def execSachetPoint (q : Nat) (s : State) : Host.Outcome State Fault Refusal :=
  answer s
    (match s.running 4 q with
     | none => s
     | some (r, c) =>
       let p := r.part
       let now := (s.part p).rcv.capture
       if c.cmd.opcode ≠ 4 ∨ bits c.cmd.arg4 1 0 ≠ 0 ∨ (now.map (fun k => k.cmds.contains r || k.phase != 0)).getD false then s
       else
         let s := s.modRcv p (fun v => { v with steps := v.steps + 1, sinceLast := v.sinceLast + 1 })
         let s := s.count (partCounters p) ctrSachetPoints 1
         let n := (s.part p).interval
         let v := (s.part p).rcv
         if (n ≠ 0 ∧ n ≤ v.sinceLast) ∨ bit c.cmd.arg4 2 ∨ v.force then
           (if now.isSome then s.modRcv p (fun v => { v with capture := v.capture.map (fun k => { k with cmds := k.cmds ++ [r] }) })
            else s.beginCapture p (some r))
         else s.issue 4 q r 0x0107)

/-- The guest of this module that a fetch names: its newest complete sachet, or the one named; slot base, header group
(R308, R321). -/
def State.fetchSlot (s : State) (guest part id : Nat) : Option (Guest × Nat × Nat) :=
  match s.guests.find? (fun g => g.module == guest && g.part == part) with
  | none => none
  | some g =>
    let whole := g.held.zipIdx.filter (fun h => h.1.2.2 && (id == 0 || h.1.1 == id))
    let newest := whole.foldl (fun (best : Option ((Nat × Nat × Bool) × Nat)) h =>
      match best with
      | none => some h
      | some b => if b.1.1 < h.1.1 then some h else some b) none
    newest.map (fun h => (g, h.1.1, g.base + h.2 * g.slotBytes))

/-- Byte b of the hosted window. -/
def State.windowByte (s : State) (a : Nat) : Byte := match s.windowPlace a with | some k => Mem.get s.mem k | none => 0

/-- The n bytes of the hosted window from a. -/
def State.windowBytes (s : State) (a n : Nat) : List Byte := (List.range n).map (fun i => s.windowByte (a + i))

/-- Offset of a region in an image whose slot begins at window byte a (R305, R306, R321). -/
def State.regionOffset (s : State) (a id region : Nat) : Nat :=
  if region = 0xFFFF then 4096
  else 4096 + 1048576 + ofLe (s.windowBytes (a + 0x40) 8) + (if region = 0 then 0 else Config.regionGap id region)

/-- Whether a requester is a member of barrier group g (R105, R321): of its own partitions a module knows it, of another
module's it is free (log 39). -/
def State.inGroup (s : State) (g m p : Nat) : Bool :=
  if m = s.address ∧ p < 4 then (s.part p).member && s.pval p 0x50 1 == g else Config.groupMember g m p

/-- A holder's answer to a fetch: the status that refuses it, or the sachet and the window byte it starts at (R321,
R322). -/
def State.serveFetch (s : State) (reqModule reqPart guest part id region offset : Nat) : Except Nat (Nat × Nat) :=
  match s.fetchSlot guest part id with
  | none => .error 0x7302
  | some (_, i, a) =>
    let g := ofLe (s.windowBytes (a + 0x10) 1)
    if g < 16 && s.inGroup g reqModule reqPart then .ok (i, a + s.regionOffset a i region + offset)
    else .error 0x5105

/-- SACHET_FETCH (R303, R321): the request goes to the holder; a holder that no port reaches fails it (R322). A window of
this module's own is read at once. -/
def execSachetFetch (q : Nat) (s : State) : Host.Outcome State Fault Refusal :=
  answer s
    (match s.running 4 q with
     | none => s
     | some (r, c) =>
       let d := FetchDesc.ofBytes (c.held.getD 0 [])
       if c.cmd.opcode ≠ 4 ∨ bits c.cmd.arg4 1 0 ≠ 1 ∨ (Tab.find s.fetches q).isSome then s
       else if d.holder = s.address then
         match s.serveFetch s.address r.part d.guest d.part d.id d.region d.offset with
         | .error st => s.issue 4 q r st
         | .ok (_, a) =>
           let ks := s.windowBlocks a d.bytes
           let s := s.countPlaces ks
           match ks.find? s.badPlace with
           | some k => (s.raisePlace k 2 0xFF k (s.refOf r)).issue 4 q r 0x2201
           | none => (s.store r.part d.dst (s.windowBytes a d.bytes)).issue 4 q r 0
       else
         match s.portsTo d.holder with
         | [] => s.issue 4 q r 0x7302
         | k :: _ =>
           ({ s with fetches := Tab.set s.fetches q { ref := r } }).kettleSend k 0x13 r.part { tag := 0xFF }
             [d.id, d.offset, d.bytes, d.guest, d.part, d.region] [])

end Sys2Proof.Machine
end

