-- ==== Sys2Proof/Machine/Ports.lean ====
section
/-!
DEFINITION. Firmware components (R347, R348): their regions, their message ports, and the acceptance list that the boot
monitor keeps behind its port.
-/

namespace Sys2Proof.Machine

open Sys2Proof

/-- Whether the memory-protection unit lets a component make an access of n bytes at a: access 0 fetches, 1 reads,
2 writes (R347). Its stack excludes the guard band at its lower end. -/
def mpuAllows (c : Config.Component) (access a n : Nat) : Bool :=
  let within := fun (base len : Nat) => decide (base ≤ a ∧ a + n ≤ base + len)
  if access = 0 then within c.code.1 c.code.2
  else within c.data.1 c.data.2 || within (c.stack.1 + c.guard) (c.stack.2 - c.guard) || (access == 1 && within c.code.1 c.code.2)

/-- Key of the port of a component: processors as in execComponentFault, components in the order of R348. -/
def portKey (processor component : Nat) : Nat := processor * 256 + component

/-- Whether the component table lets a component send to a port (R347); the Caddy service sends to the boot monitor
(R348). -/
def maySend (processor component sender : Nat) : Bool :=
  (processor == 0 && component == 0 && sender == 3) || (Config.component processor component).senders.contains sender

/-- A port with a message posted: in the ring where it has room, else the sender waits from now (R347). -/
def Port.post (p : Port) (sender : Nat) (msg : List Byte) (tick : Nat) : Port :=
  if p.msgs.length < 16 then { p with msgs := p.msgs ++ [(sender, padTo 64 msg)] }
  else { p with waits := p.waits ++ [(sender, padTo 64 msg, tick)] }

/-- A port with its oldest message read: the first sender that waits takes its room (R347). -/
def Port.take (p : Port) : Port :=
  match p.waits with
  | w :: ws => { msgs := p.msgs.drop 1 ++ [(w.1, w.2.1)], waits := ws }
  | [] => { p with msgs := p.msgs.drop 1 }

/-- A port with the sends that have waited 1 ms failed back to their senders (R347). -/
def Port.expire (p : Port) (tick : Nat) : Port :=
  { p with waits := p.waits.filter (fun w => tick < w.2.2 + Config.ticksPerMs) }

/-- The port of a component that restarted: what waited is discarded and every sender sends again (R348). -/
def Port.resent (p : Port) (tick : Nat) : Port :=
  (p.msgs ++ p.waits.map (fun w => (w.1, w.2.1))).foldl (fun q m => q.post m.1 m.2 tick) {}

/-- s with the port of a component changed by f; an empty port is not listed. -/
def State.modPort (s : State) (key : Nat) (f : Port → Port) : State :=
  let p := f (Tab.get s.caddy.ports {} key)
  { s with caddy := { s.caddy with
    ports := if p = {} then Tab.del s.caddy.ports key else Tab.set s.caddy.ports key p } }

/-- s with a message posted by one component of a processor to another, where the component table names the sender. -/
def State.post (s : State) (processor component sender : Nat) (msg : List Byte) : State :=
  if maySend processor component sender then s.modPort (portKey processor component) (fun p => p.post sender msg s.time.ticks)
  else s

/-- s with the port of a component read until it is empty: its messages, then those of the senders that wait. -/
def State.readPort (s : State) (processor component : Nat) : State :=
  let p := Tab.get s.caddy.ports {} (portKey processor component)
  s.modPort (portKey processor component)
    (fun q => (List.range (p.msgs.length + p.waits.length)).foldl (fun q _ => q.take) q)

/-- s with the sends that have waited 1 ms failed. -/
def State.portTick (s : State) : State :=
  { s with caddy := { s.caddy with
    ports := (s.caddy.ports.map (fun e => (e.1, e.2.expire s.time.ticks))).filter (fun e => e.2 != {}) } }

/-- s with the ports of a processor's components gone: it crashed. A SEC crash loses the acceptance list too, which lies in
the boot monitor's own data region (R348, R355). -/
def State.losePorts (s : State) (processor : Nat) : State :=
  { s with caddy := { s.caddy with
    ports := s.caddy.ports.filter (fun e => e.1 / 256 != processor)
    accepted := if processor = 0 then [] else s.caddy.accepted } }

/-- The message by which the Caddy service posts an accepted write (R348, which gives it 64 bytes and no layout): the
request's source and transaction, the entry, the length and the value's first bytes. -/
def acceptMsg (source txn i j : Nat) (bs : List Byte) : List Byte :=
  le 8 source ++ le 4 txn ++ le 2 i ++ le 1 j ++ le 4 bs.length ++ bs.take 45

/-- s with a Caddy write accepted: the Caddy service posts it to the boot monitor, which stores it in the acceptance list
and answers (R53, R348). -/
def State.acceptWrite (s : State) (source txn i j : Nat) (bs : List Byte) : State :=
  let s := (s.post 0 0 3 (acceptMsg source txn i j bs)).readPort 0 0
  { s with caddy := { s.caddy with
    accepted := s.caddy.accepted ++ [{ source := source, txn := txn, index := i, sub := j, value := bs }] } }

end Sys2Proof.Machine
end

