-- ==== Sys2Proof/Machine/Caddy.lean ====
section
/-!
DEFINITION. The Caddy service: what a request meets before its entry (R52, R53, R367 to R380), responses, describe and
identify, and the ranges of entries (R55, R379 and the entry tables). What a write does is the entry's own rule.
-/

namespace Sys2Proof.Machine

open Sys2Proof

/-! ### Responses -/

/-- The source whose transactions are counted together: a window each for PCI Express and I3C, a MAC address on the Caddy
port (R374). -/
def sourceOf (r : Req) : Nat :=
  match r.route with
  | .pcie => 2 ^ 48 | .i3c => 2 ^ 48 + 1 | .port => r.src % 2 ^ 48

/-- The bytes of a response PDU in the window (R371, R378). -/
def responseBytes (op txn i j st : Nat) (value : List Byte) : List Byte :=
  padTo 1056 (le 1 1 ++ le 1 (op + 0x80) ++ le 2 0 ++ le 4 txn ++ le 2 i ++ le 1 j ++
    le 1 (((dictFind i j).map (fun e => e.ty)).getD 0) ++ le 2 st ++ le 2 value.length ++ le 4 0 ++ le 4 value.length ++
    le 8 0 ++ value)

/-- s with a response sent on a request's route (R371, R378, R456): the Caddy port is silent without PLCA beacons. -/
def State.sendResponse (s : State) (r : Req) (op i j st : Nat) (value : List Byte) : State :=
  match r.route with
  | .pcie =>
    if s.caddy.discard then { s with caddy := { s.caddy with busy := false, discard := false } }
    else ({ s with caddy := { s.caddy with rsp := responseBytes op r.txn i j st value, ready := true, busy := false } }.out
      (.caddy .pcie 0 (op + 0x80) r.txn i j st 0 value)).out (.msix 0 0)
  | .i3c => s.out (.caddy .i3c 0 (op + 0x80) r.txn i j st 0 value)
  | .port =>
    if !s.bus.beacons then s
    else if r.auth then
      { s with caddy := { s.caddy with sendCounter := s.caddy.sendCounter + 1 } }.out
        (.caddy .port r.src (op + 0x80) r.txn i j st (s.caddy.sendCounter + 1) value)
    else s.out (.caddy .port r.src (op + 0x80) r.txn i j st 0 value)

/-- s with a response kept, the last 16 of each source (R374); a write that is answered leaves the acceptance list (R348). -/
def State.keepResponse (s : State) (r : Req) (op i j st : Nat) (value : List Byte) : State :=
  let k : Kept := { source := (sourceOf r), txn := r.txn, op := op, index := i, sub := j, status := st, value := value }
  let mine := (k :: s.caddy.kept.filter (fun x => x.source == (sourceOf r))).take 16
  { s with caddy := { s.caddy with
    kept := mine ++ s.caddy.kept.filter (fun x => x.source != (sourceOf r))
    accepted := s.caddy.accepted.filter (fun a => !(a.source == sourceOf r && a.txn == r.txn)) } }

/-- s with a request answered (R371, R374). -/
def State.respond (s : State) (r : Req) (op i j st : Nat) (value : List Byte) : State :=
  (s.keepResponse r op i j st value).sendResponse r op i j st value

/-! ### What a request meets before its entry -/

/-- The rights word of a route, and its two bits for an index (R379). -/
def State.rights (s : State) (r : Route) (i : Nat) : Nat :=
  let w := s.valNat 0xA300 (match r with | .pcie => 1 | .i3c => 2 | .port => 3)
  bits w (2 * (i / 4096) + 1) (2 * (i / 4096))

/-- A frame that the Caddy port takes (R375). -/
def State.frameOk (s : State) (r : Req) (ident : Bool) : Bool :=
  s.valNat 0xA200 2 == 1 && r.etherType == 0x88B5 && !r.vlan && (r.dest == 0 || (r.dest == 1 && ident))

/-- Indices that recovery serves (R469). -/
def recoveryIndex (i j : Nat) : Bool := i == 0x9000 && (j ≤ 6 || (0x11 ≤ j && j ≤ 0x14) || (0x21 ≤ j && j ≤ 0x24))

/-- Ways a request fares before its entry is looked at. -/
inductive Gate where
  /-- Dropped without a response. -/
  | drop
  /-- Answered with a status. -/
  | refuse (status : Nat)
  /-- Answered again with the response that was kept. -/
  | again (k : Kept)
  | pass
deriving DecidableEq, Repr

/-- s after the checks of R373 to R379, R469 and R471, and how the request fares. op is its operation, i and j its entry. -/
def State.gate (s : State) (r : Req) (op i j : Nat) : State × Gate :=
  let ident := op == 4
  let live := !s.boot.secFailed && s.boot.power != 0 && (s.boot.power == 2 || r.route != .pcie)
  if r.route = .port ∧ !s.frameOk r ident then
    ({ s with caddy := { s.caddy with framesDropped := s.caddy.framesDropped + 1 } }, .drop)
  else if !live then (s, .drop)
  else if s.boot.step = 0xFF ∧ (r.route ≠ .i3c ∨ !recoveryIndex i j) then (s, .drop)
  else if r.route = .port ∧ r.auth ∧ !(r.tagOk && s.nor.portKey.isSome && Tab.get s.caddy.counters 0 (sourceOf r) < r.counter) then
    (({ s with caddy := { s.caddy with authFailures := s.caddy.authFailures + 1 } }).logEvent 8 0xFF 3
      (le 6 r.src ++ le 8 r.counter), .drop)
  else
    let s := if r.route = .port ∧ r.auth then
        { s with caddy := { s.caddy with counters := Tab.set s.caddy.counters (sourceOf r) r.counter } }
      else s
    if r.version ≠ 1 ∨ r.reserved ≠ 0 then (s, .refuse 0x1201)
    else
      match s.caddy.kept.find? (fun k => k.source == (sourceOf r) && k.txn == r.txn) with
      | some k => (s, .again k)
      | none =>
        let open' := s.secState == 0 || r.auth || ident ||
          ((op == 1 || op == 3) && (i / 4096 == 1 || i / 4096 == 5) && s.valNat 0xA200 3 == 1)
        let right := s.rights r.route i
        if r.route = .port ∧ !open' then (s, .refuse 0x5101)
        else if !ident && (if op == 2 then right != 3 else !bit right 0) then (s, .refuse 0x5101)
        else if op = 2 ∧ s.boot.step ≠ 0x0A ∧ !([0x84, 0x90, 0x91].contains (i / 256)) then (s, .refuse 0x4102)
        else (s, .pass)

/-- s with a request of an operation on an entry served by f, which may leave the response for later (none). -/
def State.serve (s : State) (r : Req) (op i j : Nat) (f : State → State × Option (Nat × List Byte)) : State :=
  match s.gate r op i j with
  | (t, .drop) => t
  | (t, .refuse st) => t.respond r op i j st []
  | (t, .again k) => t.sendResponse r k.op k.index k.sub k.status k.value
  | (t, .pass) =>
    match f t with
    | (u, some a) => u.respond r op i j a.1 a.2
    | (u, none) => u

/-! ### Writes -/

/-- Further conditions on the value of an entry than its bounds (R51, R52, R57, R71, R220, R300, R379, R460). -/
def valueOk (grade i j v : Nat) (bs : List Byte) : Bool :=
  let p := (i - 0x3000) % 256
  let part := decide (0x3000 ≤ i ∧ i < 0x3400)
  if i = 0x2110 then v == 0 || 3 ≤ v
  else if i = 0x2200 ∧ j = 0x10 then bits v 7 0 < 42 && bits v 15 8 < 30 && bits v 24 19 < 34 && !bit v 31
  else if i = 0x4100 ∧ j = 1 then v % 250 == 0
  else if i = 0x6010 ∧ j = 1 then v == 0 || 100 ≤ v
  else if i = 0xC000 ∧ j = 3 then v == 0 || 10 ≤ v
  else if i = 0xA300 then (List.range 16).all (fun n => bits v (2 * n + 1) (2 * n) != 2)
  else if 0xA700 ≤ i ∧ i ≤ 0xA702 ∧ j = 1 then v % 40 == 0
  else if 0xB100 ≤ i ∧ i < 0xB140 then
    (if j = 1 then v % 4096 == 0 else if j = 2 then v == 0 || (331776 ≤ v && v % 4096 == 0) else true)
  else if part ∧ p = 0x10 ∧ j = 0x0C then v % 4096 == 0
  else if part ∧ p = 0x20 ∧ j = 1 then v ≤ 15 || v == 0xFF
  else if part ∧ p = 0x20 ∧ j = 5 then v ≤ 3 || v == 0xFF
  else if part ∧ p = 0x30 ∧ j = 1 then bs.length % 2 == 0 && bs.length ≤ 60 * grade
  else if part ∧ p = 0x30 ∧ j = 2 then v == 0 || 250 ≤ v
  else if part ∧ p = 0x50 ∧ j = 1 then v ≤ 15 || v == 0xFF
  else if part ∧ p = 0x60 ∧ j = 1 then v % 20 == 0
  else true

/-- The value of a type is one (R367): no other BOOL than 0 and 1, no NaN. -/
def typeOk (ty v : Nat) : Bool :=
  if ty = 1 then v ≤ 1 else if ty = 7 then !(bits v 30 23 == 255 && bits v 22 0 != 0) else true

/-- Whether a value has the type, the length and the range of entry i:j: 0, or the status that refuses it (R52, R367, R368,
R373). -/
def DEntry.fits (e : DEntry) (grade i j ty : Nat) (bs : List Byte) : Nat :=
  let v := ofLe bs
  let sized := typeSize e.ty
  let chive := decide (0x3000 ≤ i ∧ i < 0x3400 ∧ (i - 0x3000) % 256 = 0x30 ∧ j = 1)
  if e.acc = 0 ∨ e.ty ≠ ty then 0x1202
  else if sized ≠ 0 ∧ bs.length ≠ sized then 0x1202
  else if sized = 0 ∧ !chive ∧ (bs.length < e.lo ∨ e.hi < bs.length) then 0x1202
  else if sized ≠ 0 ∧ e.ty ≠ 6 ∧ e.ty ≠ 7 ∧ (v < e.lo ∨ e.hi < v) && !(e.ty == 4 && e.hi == 20000 && v == 0) then 0x1104
  else if !typeOk e.ty v ∨ !valueOk grade i j v bs then 0x1104
  else 0

/-- Checks of a write to an entry that its type, its bounds and the partition's or the module's state make: 0, or the
status that refuses it (R52, R367, R368, R373). -/
def State.writeStatus (s : State) (i j ty : Nat) (bs : List Byte) : Nat :=
  match dictFind i j with
  | none => 0x1203
  | some e =>
    let p := entryPart i
    let state := (p.map (fun p => (s.part p).state)).getD .idle
    let fit := e.fits s.grade i j ty bs
    if fit ≠ 0 then fit
    else if 0x3000 ≤ i ∧ i < 0x3400 ∧ (i - 0x3000) % 256 = 0x60 ∧ j = 1 ∧ 2046 < ofLe bs + s.carve then 0x1104
    else if e.acc = 3 && (match p with | some _ => !state.quiet | none => !s.allQuiet) then 0x1101
    else if e.acc = 4 ∧ s.secState = 2 then 0x1103
    else if (state = .reclaiming ∨ state = .scrubbing) ∧ 0x3000 ≤ i ∧ i < 0x3400 ∧
        [0x10, 0x20, 0x30].contains ((i - 0x3000) % 256) then 0x1101
    else 0

/-- s with an accepted write of an entry stored, journalled and logged (R369, R381, R388). -/
def State.commitWrite (s : State) (route i j : Nat) (bs : List Byte) : State :=
  match dictFind i j with
  | none => s
  | some e =>
    let old := if e.acc = 2 then [] else s.val i j
    let t := if e.acc = 2 then s else s.saveVal i j bs
    if e.saved ∨ (e.acc = 2 ∧ e.ty ≠ 10) then t.logWrite route i j e.ty old bs else t

/-- s with a write served: the checks of every entry, its acceptance (R348), then the entry's own effect, which answers a status or leaves the
response for later; an accepted value is stored. -/
def State.serveWrite (s : State) (r : Req) (i j ty : Nat) (bs : List Byte) (f : State → State × Option Nat) : State :=
  s.serve r 2 i j (fun s =>
    let st := s.writeStatus i j ty bs
    if st ≠ 0 then (s, some (st, []))
    else
      match f (s.acceptWrite (sourceOf r) r.txn i j bs) with
      | (t, some 0) => (t.commitWrite (Route.code r.route) i j bs, some (0, []))
      | (t, some st) => (t, some (st, []))
      | (t, none) => (t, none))

/-- An entry's own effect that always answers. -/
def done (x : State × Nat) : State × Option Nat := (x.1, some x.2)

/-! ### Describe and identify -/

/-- The value of a describe operation (R370). Numeric bounds are zero-extended. -/
def State.describe (s : State) (i j : Nat) : Option (List Byte) :=
  (dictFind i j).map (fun e =>
    let d := if e.acc = 0 ∨ e.acc = 2 then le (typeSize e.ty) e.dflt else dictDefault s.address i j
    padTo 0x18 (le 1 e.ty ++ le 1 e.acc ++ le 1 (if e.saved then 1 else 0) ++ zeros 5 ++ le 8 e.lo ++ le 8 e.hi) ++
      padTo 8 (le 2 d.length ++ le 1 e.name.length) ++ d ++ ascii e.name)

/-- CADDY_DESCRIBE (R370, R372). -/
def execCaddyDescribe (r : Req) (index sub offset : Nat) (s : State) : Host.Outcome State Fault Refusal :=
  answer s (s.serve r 3 index sub (fun s =>
    match s.describe index sub with
    | none => (s, some (0x1203, []))
    | some v => (s, some (0, (v.drop offset).take 1024))))

/-- CADDY_SEGMENT_TIMEOUT (R372): 1 s without the next segment discards those held. -/
def execCaddySegmentTimeout (route : Route) (index sub : Nat) (s : State) : Host.Outcome State Fault Refusal :=
  answer s
    { s with caddy := { s.caddy with segs := s.caddy.segs.filter (fun x =>
        !(x.route == route && x.index == index && x.sub == sub && x.tick + 1000 * Config.ticksPerMs ≤ s.time.ticks)) } }

/-! ### Run control (R45) -/

/-- A Run control write of a value: what it does to partition p (R45). With no scheduler it is refused (R353, log 65). -/
def State.runControl (s : State) (p v route : Nat) : State × Nat :=
  if s.boot.schLost then (s, 0x1101)
  else if v = 1 then s.start p route
  else if v = 2 then s.drain p
  else if v = 3 then s.abort p
  else if v = 4 then s.runReclaim p
  else if v = 5 then s.runScrub p
  else s.clearSafeStop p

/-- A write of a value to Run control of partition p. -/
def State.writeRun (s : State) (r : Req) (p v : Nat) : State :=
  s.serveWrite r (0x3000 + 256 * p) 2 2 (le 1 v) (fun s => done (s.runControl p v (Route.code r.route)))

/-- START (R45, R46). -/
def execStart (r : Req) (p : Nat) (s : State) : Host.Outcome State Fault Refusal := answer s (s.writeRun r p 1)

/-- DRAIN (R45, R47). -/
def execDrain (r : Req) (p : Nat) (s : State) : Host.Outcome State Fault Refusal := answer s (s.writeRun r p 2)

/-- ABORT (R45, R48). -/
def execAbort (r : Req) (p : Nat) (s : State) : Host.Outcome State Fault Refusal := answer s (s.writeRun r p 3)

/-- RECLAIM (R45, R67, R323). -/
def execReclaim (r : Req) (p : Nat) (s : State) : Host.Outcome State Fault Refusal := answer s (s.writeRun r p 4)

/-- SCRUB (R45). -/
def execScrub (r : Req) (p : Nat) (s : State) : Host.Outcome State Fault Refusal := answer s (s.writeRun r p 5)

/-- CLEAR_SAFE_STOP (R45, R341). -/
def execClearSafeStop (r : Req) (p : Nat) (s : State) : Host.Outcome State Fault Refusal := answer s (s.writeRun r p 6)

end Sys2Proof.Machine
end

