-- ==== Sys2Proof/Machine/Resample.lean ====
section
/-!
DEFINITION. The resampler (R206 to R211) and the tokenizer (R264): pure functions of a sample and the stream's descriptors.
-/

namespace Sys2Proof.Machine

open Sys2Proof

/-! ### The resample descriptor (R207) -/

/-- A resample descriptor. -/
structure Resample where
  mode : Nat
  filter : Nat
  out : Nat
  s2d : Nat
  levels : Nat
  outW : Nat
  outH : Nat
  ratio : Nat
  maxBoxes : Nat
  boxes : Nat
  mean : List Nat
  scale : List Nat
  fill : List Nat
  chans : Nat
deriving DecidableEq, Repr

def Resample.ofBytes (b : List Byte) : Resample :=
  { mode := field b 3 1, filter := field b 4 1, out := field b 5 1, s2d := field b 6 1, levels := field b 7 1
    outW := field b 8 2, outH := field b 0x0A 2, ratio := field b 0x0C 2, maxBoxes := field b 0x0E 2, boxes := field b 0x10 8
    mean := [field b 0x18 2, field b 0x1A 2, field b 0x1C 2], scale := [field b 0x1E 2, field b 0x20 2, field b 0x22 2]
    fill := [field b 0x24 1, field b 0x25 1, field b 0x26 1], chans := field b 0x27 1 }

/-- Channels of the output (R207). -/
def Resample.c (r : Resample) : Nat := if r.chans = 2 then 1 else 3

/-- Bytes of an output element. -/
def Resample.bytes (r : Resample) : Nat := if r.out = 2 ∨ r.out = 3 then 2 else 1

/-- Sizes of the pyramid's levels (R210). -/
def levelSizes (n w h ratio : Nat) : List (Nat × Nat) :=
  match n with
  | 0 => []
  | k + 1 => (w, h) :: levelSizes k ((w * ratio + 32768) / 65536) ((h * ratio + 32768) / 65536) ratio

/-- Sizes of the output images at the ceilings w × h (R265). -/
def Resample.images (r : Resample) (w h : Nat) : List (Nat × Nat) :=
  if r.mode = 0 then [(w, h)]
  else if r.mode = 1 then [(r.outW, r.outH)]
  else if r.mode = 2 then List.replicate r.maxBoxes (r.outW, r.outH)
  else levelSizes r.levels r.outW r.outH r.ratio

/-- Bytes of one decoded image's output at the ceilings. -/
def Resample.need (r : Resample) (w h : Nat) : Nat := ((r.images w h).map (fun x => x.1 * x.2 * r.c * r.bytes)).sum

/-- The conditions of R207 to R211 on a resample descriptor, the ranges of R207 in every mode. A mode of the decoded size cannot
promise multiples of the space-to-depth block. -/
def Resample.ok (r : Resample) : Bool :=
  r.mode ≤ 3 && r.filter ≤ 2 && [0x20, 2, 3, 4].contains r.out && [0, 2, 4, 8].contains r.s2d && r.chans ≤ 2 &&
  (if r.mode = 3 then 1 ≤ r.levels && r.levels ≤ 6 else r.levels == 1) &&
  8 ≤ r.outW && r.outW ≤ 8192 && 8 ≤ r.outH && r.outH ≤ 8192 && 0x8000 ≤ r.ratio && 1 ≤ r.maxBoxes && r.maxBoxes ≤ 1024 &&
  (r.mode == 0 || (r.images 0 0).all (fun x => 8 ≤ x.1 && 8 ≤ x.2)) &&
  (r.out != 0x20 || ((r.mean.take r.c).all (fun m => m % 32768 == 0) && (r.scale.take r.c).all (· == 0x3C00))) &&
  (r.s2d == 0 || (r.mode != 0 && (r.images 0 0).all (fun x => x.1 % r.s2d == 0 && x.2 % r.s2d == 0)))

/-- Output images that the counter of resampled images counts: a box, a level or a resized image (R216). -/
def Resample.counted (r : Resample) (n : Nat) : Nat := if r.mode = 0 then 0 else n

/-! ### Colour expansion (R208) -/

/-- Sample i of decoded pixels as 8 bits: 16-bit samples times 255 ÷ 65,535, 10-bit ones rounded (R208, R262, log 108). -/
def sampleByte (d : Decoded) (bs : List Byte) (i : Nat) : Nat :=
  if d.sampleBits ≤ 8 then (bs.getD i 0).toNat
  else
    let v := field bs (2 * i) 2
    if d.sampleBits = 10 then min 255 ((v + 2) / 4) else (v * 255 + 32767) / 65535

/-- Decoded image k, expanded: its Y plane for a luma-only stream, else three channels of which grey gives three copies, without
alpha (R206, R208). -/
def expanded (d : Decoded) (luma : Bool) (k : Nat) : List Byte :=
  let n := d.width * d.height
  let bs := d.frames.getD k []
  let ch := (if d.grey then 1 else 3) + (if d.alpha then 1 else 0)
  if luma then
    (List.range n).map (fun i => BitVec.ofNat 8 (if d.grey then sampleByte d bs (ch * i) else sampleByte d (d.luma.getD k []) i))
  else
    (List.range n).flatMap (fun i => (List.range 3).map (fun c => BitVec.ofNat 8 (sampleByte d bs (ch * i + (if d.grey then 0 else c)))))

/-! ### Filters (R208, R209): FP32 arithmetic, in the order of log 108 -/

/-- FP32 difference and quotient, rounded once; a whole number, half and one in FP32; the whole number at or below a value. -/
def subF32 (a b : Nat) : Nat := toF32 (FV.add (ofF32 a) (ofF32 b).neg)
def quotF32 (a b : Nat) : Nat :=
  match ofF32 b with
  | .fin neg m e => if m = 0 then toF32 .nan else divF32 (FV.mul (ofF32 a) (.fin neg 1 (-e))) m
  | v => toF32 v
def intF32 (k : Int) : Nat := toF32 (.fin (decide (k < 0)) k.natAbs 0)
def halfF32 : Nat := 0x3F000000
def oneF32 : Nat := 0x3F800000
def floorF32 (a : Nat) : Int :=
  match ofF32 a with
  | .fin neg m e =>
    let v : Int := if neg then -(m : Int) else m
    if 0 ≤ e then v * (2 ^ e.toNat : Nat) else v / (2 ^ (-e).toNat : Nat)
  | _ => 0

/-- The source coordinate of point t ÷ 2 of n output pixels: x0 + (t ÷ 2) × (x1 − x0) ÷ n (R209). -/
def coordF32 (x0 x1 n t : Nat) : Nat :=
  let a := toF32 (.fin false x0 (-16))
  addF32 a (quotF32 (mulF32 (toF32 (.fin false t (-1))) (subF32 (toF32 (.fin false x1 (-16))) a)) (intF32 n))

/-- Taps and FP32 weights of output index u of n along an axis whose source span is x0 to x1 in Q16.16 pixels, and the length
that divides their sum (R208): area averages the pixels of the footprint, and is bilinear on an axis scaled up. -/
def axisTaps (filter x0 x1 n u : Nat) : List (Int × Nat) × Nat :=
  let x := coordF32 x0 x1 n (2 * u + 1)
  if filter = 0 then ([(floorF32 x, oneF32)], oneF32)
  else if filter = 1 ∨ x1 - x0 < 65536 * n then
    let t := subF32 x halfF32
    let k := floorF32 t
    let w := subF32 t (intF32 k)
    ([(k, subF32 oneF32 w), (k + 1, w)], oneF32)
  else
    let lo := coordF32 x0 x1 n (2 * u)
    let hi := coordF32 x0 x1 n (2 * u + 2)
    let k0 := floorF32 lo
    let taps := (List.range (floorF32 hi - k0 + 1).toNat).map (fun (j : Nat) =>
      let k := k0 + (j : Int)
      (k, subF32 (toF32 (FV.minimum (ofF32 hi) (ofF32 (intF32 (k + 1))))) (toF32 (FV.maximum (ofF32 lo) (ofF32 (intF32 k))))))
    (taps.filter (fun e => e.2 != 0), subF32 hi lo)

/-- A box in Q16.16 source pixels. -/
structure Box where
  x0 : Nat
  y0 : Nat
  x1 : Nat
  y1 : Nat
deriving DecidableEq, Repr

def Box.ofBytes (b : List Byte) (o : Nat) : Box := ⟨field b o 4, field b (o + 4) 4, field b (o + 8) 4, field b (o + 12) 4⟩

/-- A box with no extent (R209). -/
def Box.empty (b : Box) : Bool := decide (b.x1 ≤ b.x0 ∨ b.y1 ≤ b.y0)

/-- The whole image. -/
def Box.full (w h : Nat) : Box := ⟨0, 0, w * 65536, h * 65536⟩

/-- The box cut to the image (R271). -/
def Box.clamp (b : Box) (w h : Nat) : Box :=
  ⟨min b.x0 (w * 65536), min b.y0 (h * 65536), min b.x1 (w * 65536), min b.y1 (h * 65536)⟩

/-- The source channel of output channel c. -/
def Resample.source (r : Resample) (c : Nat) : Nat := if r.chans = 1 then 2 - c else c

/-- The FP32 value of output pixel (u, v), channel c, of a box of an image of w × h pixels: the sum of its weighted taps, row by
row, over the lengths of its axes; taps outside are fill (R208). -/
def Resample.pixel (r : Resample) (img : List Byte) (w h : Nat) (b : Box) (ow oh u v c : Nat) : Nat :=
  let fill := r.fill.getD c 0
  if b.empty then intF32 fill
  else
    let ax := axisTaps r.filter b.x0 b.x1 ow u
    let ay := axisTaps r.filter b.y0 b.y1 oh v
    let get := fun (x y : Int) =>
      if 0 ≤ x ∧ x < w ∧ 0 ≤ y ∧ y < h then (img.getD ((y.toNat * w + x.toNat) * r.c + r.source c) 0).toNat else fill
    let sum := ay.1.foldl (fun acc y =>
      ax.1.foldl (fun acc x => addF32 acc (mulF32 (mulF32 y.2 x.2) (intF32 (get x.1 y.1)))) acc) 0
    quotF32 sum (mulF32 ax.2 ay.2)

/-- A value rounded to the output format: U8 to a whole number from 0 to 255, others saturated (R211). -/
def Resample.cast (r : Resample) (v : Nat) : Nat :=
  match ofF32 v with
  | .nan => if r.out = 0x20 then 0 else (formatOf r.out).nanBits
  | .inf neg => if r.out = 0x20 then (if neg then 0 else 255) else (formatOf r.out).signBit neg + (formatOf r.out).maxBits
  | .fin neg m e =>
    if r.out = 0x20 then (if neg then 0 else min 255 (roundUnits .nearest m e 0))
    else
      let f := formatOf r.out
      f.signBit neg + (f.roundMag .nearest m e).getD f.maxBits

/-- An output value, normalised and cast (R211). -/
def Resample.value (r : Resample) (v c : Nat) : Nat :=
  let m := toF32 (fp16.decode (r.mean.getD c 0)).neg
  let k := toF32 (fp16.decode (r.scale.getD c 0))
  r.cast (mulF32 (addF32 v m) k)

/-- An output image of ow × oh pixels of a box, after space-to-depth (R209, R211). -/
def Resample.image (r : Resample) (img : List Byte) (w h : Nat) (b : Box) (ow oh : Nat) : List Byte :=
  let k := max 1 r.s2d
  (List.range (oh / k)).flatMap (fun y => (List.range (ow / k)).flatMap (fun x =>
    (List.range k).flatMap (fun dy => (List.range k).flatMap (fun dx => (List.range r.c).flatMap (fun c =>
      le r.bytes (r.value (r.pixel img w h b ow oh (k * x + dx) (k * y + dy) c) c))))))

/-! ### The tokenizer (R264) -/

/-- A byte of the range 0x80 to 0xBF between lo and hi. -/
def utf8Cont (b : Option Byte) (lo hi : Nat) : Bool :=
  match b with
  | some v => decide (lo ≤ v.toNat ∧ v.toNat ≤ hi)
  | none => false

/-- Length of the valid UTF-8 sequence (RFC 3629) at the front, 0 when there is none. -/
def utf8Len (bs : List Byte) : Nat :=
  match bs with
  | [] => 0
  | b :: r =>
    let n := b.toNat
    let c := fun (i lo hi : Nat) => utf8Cont (r[i]?) lo hi
    let t := fun (i : Nat) => c i 0x80 0xBF
    if n < 0x80 then 1
    else if 0xC2 ≤ n ∧ n ≤ 0xDF ∧ t 0 then 2
    else if n = 0xE0 ∧ c 0 0xA0 0xBF ∧ t 1 then 3
    else if n = 0xED ∧ c 0 0x80 0x9F ∧ t 1 then 3
    else if 0xE1 ≤ n ∧ n ≤ 0xEF ∧ n ≠ 0xED ∧ t 0 ∧ t 1 then 3
    else if n = 0xF0 ∧ c 0 0x90 0xBF ∧ t 1 ∧ t 2 then 4
    else if 0xF1 ≤ n ∧ n ≤ 0xF3 ∧ t 0 ∧ t 1 ∧ t 2 then 4
    else if n = 0xF4 ∧ c 0 0x80 0x8F ∧ t 1 ∧ t 2 then 4
    else 0

/-- Text with each run of invalid bytes replaced by EF BF BD, and whether there was one (R264). -/
def utf8Clean (fuel : Nat) (bs : List Byte) (inBad : Bool) : List Byte × Bool :=
  match fuel with
  | 0 => ([], false)
  | k + 1 =>
    match bs with
    | [] => ([], false)
    | b :: r =>
      let n := utf8Len (b :: r)
      if n = 0 then
        let x := utf8Clean k r true
        (if inBad then x.1 else [0xEF, 0xBF, 0xBD] ++ x.1, true)
      else
        let x := utf8Clean k ((b :: r).drop n) false
        ((b :: r).take n ++ x.1, x.2)

/-- ASCII white space. -/
def asciiSpace (b : Byte) : Bool := [0x09, 0x0A, 0x0C, 0x0D, 0x20].contains b.toNat

/-- Text cut into pieces, a piece ending before every run of white space (R264). -/
def pieces (bs : List Byte) (prev : Bool) (cur : List Byte) : List (List Byte) :=
  match bs with
  | [] => if cur.isEmpty then [] else [cur.reverse]
  | b :: r =>
    if asciiSpace b && !prev && !cur.isEmpty then cur.reverse :: pieces r true [b]
    else pieces r (asciiSpace b) (b :: cur)

/-- Base token of a byte, and merge entry of a rank, in a merge table. -/
def baseToken (table : List Byte) (b : Byte) : Nat := field table (4 * b.toNat) 4
def mergeEntry (table : List Byte) (k : Nat) : Nat × Nat × Nat :=
  (field table (1024 + 12 * k) 4, field table (1028 + 12 * k) 4, field table (1032 + 12 * k) 4)

/-- The rank of a pair. -/
def rankOf (entries : List (Nat × Nat × Nat)) (a b : Nat) : Option Nat := entries.findIdx? (fun e => e.1 == a && e.2.1 == b)

/-- The lowest rank of the adjacent pairs. -/
def bestRank (entries : List (Nat × Nat × Nat)) (ts : List Nat) : Option Nat :=
  (ts.zip (ts.drop 1)).foldl (fun best p =>
    match rankOf entries p.1 p.2, best with
    | some k, some j => some (min k j)
    | some k, none => some k
    | none, b => b) none

/-- The leftmost pair equal to entry e replaced by its result. -/
def mergeFirst (e : Nat × Nat × Nat) (ts : List Nat) : List Nat :=
  match ts with
  | a :: b :: r => if a = e.1 ∧ b = e.2.1 then e.2.2 :: r else a :: mergeFirst e (b :: r)
  | r => r

/-- Tokens merged until no pair is in the table (R264). -/
def mergeAll (fuel : Nat) (entries : List (Nat × Nat × Nat)) (ts : List Nat) : List Nat :=
  match fuel with
  | 0 => ts
  | k + 1 =>
    match bestRank entries ts with
    | some r => mergeAll k entries (mergeFirst (entries.getD r (0, 0, 0)) ts)
    | none => ts

/-- The tokens of valid text (R264). -/
def tokenize (table : List Byte) (split : Bool) (bs : List Byte) : List Nat :=
  let entries := (List.range ((table.length - 1024) / 12)).map (mergeEntry table)
  (if split then pieces bs false [] else [bs]).flatMap (fun p => mergeAll p.length entries (p.map (baseToken table)))

end Sys2Proof.Machine
end

