-- ==== Sys2Proof/Machine/Infuser.lean ====
section
/-!
DEFINITION. The Infuser's commands, messages and events (R248 to R274, R445, R446).
-/

namespace Sys2Proof.Machine

open Sys2Proof

/-! ### Bind (R251) -/

/-- The codecs of a kind, and which video, audio and text fields it may set (R250). -/
def codecOk (kind codec : Nat) : Bool :=
  (kind == 1 && [1, 2, 3].contains codec) || (kind == 2 && [0x11, 0x12, 0x13].contains codec) ||
  (kind == 3 && [0x21, 0x22, 0x23, 0x24, 0x25].contains codec) || (kind == 4 && codec == 0x31)

/-- Output rates of R263. -/
def outRates : List Nat := [0, 8000, 16000, 22050, 24000, 32000, 44100, 48000]

/-- Raw PCM fields (R250). -/
def pcmOk (rate fmt : Nat) : Bool :=
  8000 ≤ rate && rate ≤ 192000 && [8, 16, 24, 32].contains (bits fmt 5 0) && (!bit fmt 6 || bits fmt 5 0 == 32) &&
  !bit fmt 7 && 1 ≤ bits fmt 11 8 && bits fmt 11 8 ≤ 8 && fmt / 4096 == 0

/-- Field values of a stream descriptor (R250, R261 to R265); fields of other kinds are zero. mode is the resample mode. -/
def State.streamOk (s : State) (p : Nat) (b : List Byte) (mode : Nat) : Bool :=
  let f := fun (o n : Nat) => field b o n
  let kind := f 3 1
  let fl := f 7 1
  let port := f 5 1 == 0
  let live := bit fl 1
  codecOk kind (f 4 1) && f 5 1 ≤ 1 && f 6 1 ≤ 3 && (kind == 4 || bits fl 6 3 == 0) &&
  (if port then 1 ≤ f 0x0A 2 && f 0x0A 2 ≤ 4096 else f 8 2 == 0 && f 0x0A 2 == 0) &&
  f 0x0C 1 ≤ 24 && (live || (f 0x0C 1 == 0 && f 0x14 4 == 0 && f 0x1C 4 == 0)) &&
  f 0x0D 1 ≤ 2 && (f 0x0D 1 == 0 || (kind == 2 && live && mode == 1)) &&
  (if kind = 2 then 1 ≤ f 0x0E 1 && f 0x0E 1 ≤ 16 && s.inSlice p (f 0x20 8) (f 0x28 8)
   else f 0x0E 1 == 0 && f 0x20 8 == 0 && f 0x28 8 == 0) &&
  (if f 0x0D 1 = 2 then s.inside p (f 0x30 8) 16 else f 0x30 8 == 0) &&
  (bit fl 0 || f 0x10 4 == 0) && f 0x18 4 % 64 == 0 &&
  (if kind = 4 then f 0x0F 1 ≤ 1 && f 0x40 4 ≤ 262144 && s.inside p (f 0x38 8) (1024 + 12 * f 0x40 4)
   else f 0x0F 1 == 0 && f 0x38 8 == 0 && f 0x40 4 == 0 && f 0x44 4 == 0 && f 0x48 4 == 0 && f 0x4C 4 == 0) &&
  (if kind = 3 then outRates.contains (f 0x50 4) && 1 ≤ f 0x54 1 && f 0x54 1 ≤ 3 && f 0x55 1 ≤ 2 && 1 ≤ f 0x56 2 &&
     (if f 4 1 = 0x25 then pcmOk (f 0x58 4) (f 0x5C 2) else f 0x58 4 == 0 && f 0x5C 2 == 0)
   else f 0x50 4 == 0 && f 0x54 1 == 0 && f 0x55 1 == 0 && f 0x56 2 == 0 && f 0x58 4 == 0 && f 0x5C 2 == 0)

/-- The ceilings and floor of stream n in force at a bind of a kind (R267). -/
def State.ceilings (s : State) (n kind : Nat) : List Nat :=
  let floor := match Tab.find s.vals ((0xC100 + n) * 256 + 7) with
    | some b => ofLe b
    | none => if kind = 1 then 128 else if kind = 2 then 16 else 256
  (List.range 6).map (fun i => s.valNat (0xC100 + n) (i + 1)) ++ [floor]

/-- Bytes of a position that the ceilings need (R265). -/
def Stream.need (x : Stream) : Nat :=
  let r := Resample.ofBytes x.resample
  let c := fun (i : Nat) => x.ceil.getD i 0
  let n :=
    if x.kind = 1 then r.need (c 0) (c 1)
    else if x.kind = 2 then r.need (c 0) (c 1) * x.ceilUnits
    else if x.kind = 3 then
      let ch := field x.desc 0x55 1
      let chans := if ch ≠ 0 then ch else if x.codec = 0x25 then bits (field x.desc 0x5C 2) 11 8 else 8
      c 3 * chans * (if field x.desc 0x54 1 = 1 then 4 else 2)
    else 4 * c 4
  (n + 63) / 64 * 64

/-- Video working area that the ceilings need (R262). -/
def Stream.workNeed (x : Stream) : Nat :=
  if x.kind = 2 then 10 * x.ceil.getD 0 0 * x.ceil.getD 1 0 * 3 + 4194304 else 0

/-- A die's rate for a kind in tenths of the unit of reserve_rate (R252, R261 to R264). -/
def dieRate (kind : Nat) : Nat := if kind = 1 then 75000 else if kind = 2 then 59720 else if kind = 3 then 50000 else 5000

/-- The merge table that a text stream names: partition, address, entries. -/
def Stream.tableKey (x : Stream) : Nat × Nat × Nat := (x.part, field x.desc 0x38 8, field x.desc 0x40 4)

/-- Credits, slots, engine reservation and table store of the stream's die hold it too (R251 check 9). -/
def State.capacityOk (s : State) (x : Stream) : Bool :=
  let all := x :: (s.dieStreams x.port).map s.stream
  let tables := ((all.filter (fun y => y.kind == 4)).map Stream.tableKey).eraseDups
  (all.map (fun y => field y.desc 0x0A 2)).sum ≤ 4096 && (all.map Stream.reserved).sum ≤ 16 &&
  10 * ((all.filter (fun y => y.kind == x.kind)).map (fun y => field y.desc 0x14 4)).sum * 10 ≤ 9 * dieRate x.kind &&
  (tables.map (fun t => 1024 + 12 * t.2.2)).sum ≤ 8388608

/-- The checks of a bind (R251): 0, or the status of the first that fails. -/
def State.bindStatus (s : State) (n : Nat) (x : Stream) (hasResample : Bool) : Nat :=
  let d := x.desc
  let r := x.resample
  let media := x.kind == 1 || x.kind == 2
  firstFail [
    (crcOk d 0x7C && field d 0 2 == 0x4946 && field d 2 1 == 1, 0x2101), (zeroAt d 0x5E 30 && !bit (field d 7 1) 7, 0x1201),
    (s.streamOk x.part d (field r 3 1), 0x120C), (!x.live || (s.part x.part).mode == 2, 0x1102),
    (hasResample == media && (!media || (crcOk r 0x3C && field r 0 2 == 0x5253 && field r 2 1 == 1)), 0x120B),
    (!media || zeroAt r 0x28 20, 0x1201), (!media || (Resample.ofBytes r).ok, 0x120B),
    (!x.fromPort || (bit (s.valNat 0xC000 1) x.port && (Tab.get s.iports {} x.port).state == 2), 0x4109),
    (!x.fromPort || (s.dieStreams x.port).all (fun m => m == n || !(s.stream m).fromPort || (s.stream m).conn != x.conn), 0x4102),
    (if x.encrypted then s.secState != 0 else s.secState != 2, 0x5101),
    (!x.encrypted || s.hasKey x.part 1 x.keyHandle, 0x5104),
    (x.need ≤ x.slotBytes && x.workNeed ≤ field d 0x28 8, 0x120C),
    (s.capacityOk x, 0x4107)]

/-- Bind (R249 to R251). -/
def State.mediaBind (s : State) (n : Nat) (r : QRef) (c : CmdRec) : State × Nat :=
  let p := r.part
  let d := s.rd p c.cmd.arg0 128
  let kind := field d 3 1
  let x : Stream :=
    { state := 1, part := p, desc := d, resample := if c.cmd.arg1 = 0 then [] else s.rd p c.cmd.arg1 64
      ceil := s.ceilings n kind, lastData := s.time.ticks }
  if (s.stream n).state ≠ 0 then (s, 0x1203)
  else
    let st := s.bindStatus n x (c.cmd.arg1 != 0)
    if st ≠ 0 then (s, st)
    else
      let table := if kind = 4 then s.rd p (field d 0x38 8) (1024 + 12 * field d 0x40 4) else []
      ((s.modStream n (fun _ => { x with table := table })).syncHeader p, 0)

/-- BIND (R251). -/
def execMediaBind (n : Nat) (s : State) : Host.Outcome State Fault Refusal :=
  answer s (s.engine 5 n (fun c => c.opcode == 1) (fun s r c => s.mediaBind n r c))

/-! ### Decode and close -/

/-- The rounds of a decode command over the block list its dispatcher read (R257, R259). -/
def Cmd.rounds (c : Cmd) (b : List Byte) : Rounds :=
  let h := BlockList.ofBytes b
  { addr := c.arg0, depth := h.depth, b := h.positions, destBase := h.dest, maniBase := h.mani, maskBase := h.mask
    entries := blockEntries b, total := c.arg3 }

/-- DECODE_BLOCK_LIST (R259): the running command's rounds begin; the command goes on until they end. Without such a
command nothing happens (log 8). -/
def execDecodeBlockList (n : Nat) (s : State) : Host.Outcome State Fault Refusal :=
  answer s
    (match s.running 5 n with
     | some (r, c) =>
       if c.cmd.opcode ≠ 2 ∨ (s.stream n).cmd.isSome then s
       else if (s.stream n).state = 0 then s.issue 5 n r 0x1203
       else (s.modStream n (fun x =>
         { x with rounds := some (c.cmd.rounds (c.held.getD 0 [])), cmd := some r })).pump n
     | none => s)

/-- A close command that runs in media queue n (R249). -/
def State.closing (s : State) (n : Nat) (abort : Bool) : Option QRef :=
  (s.running 5 n).bind (fun x => if x.2.cmd.opcode = 3 && bit x.2.cmd.arg4 0 == abort then some x.1 else none)

/-- CLOSE_GRACEFUL (R273): the running round completes, then END_NOTICE 0x0000 goes out and the stream is unbound. -/
def execCloseGraceful (n : Nat) (s : State) : Host.Outcome State Fault Refusal :=
  answer s
    (match s.closing n false with
     | some r =>
       if (s.stream n).state = 0 then s.issue 5 n r 0
       else (s.modStream n (fun x => { x with state := 3, closeCmd := some r })).pump n
     | none => s)

/-- CLOSE_ABORT (R273). -/
def execCloseAbort (n : Nat) (s : State) : Host.Outcome State Fault Refusal :=
  answer s
    (match s.closing n true with
     | some r =>
       if (s.stream n).state = 0 then s.issue 5 n r 0
       else (s.modStream n (fun x => { x with closeCmd := some r })).abortClose n 0x1107
     | none => s)

/-! ### Messages (R253 to R256, R446) -/

/-- s with a frame counted at its port, and whether it carries a message that is taken: the port is up, EtherType, FCS and
size are right (R446). -/
def State.takeFrame (s : State) (m : IngestMsg) : State × Bool :=
  if (Tab.get s.iports {} m.port).state ≠ 2 then (s, false)
  else
    let ok := m.etherType == 0x88B6 && m.fcsOk && m.payload.length ≤ 4096
    ({ s with iports := Tab.mod s.iports {} m.port (fun i =>
        { i with frames := i.frames + 1, discarded := if ok then i.discarded else i.discarded + 1 }) }, ok)

/-- The stream bound to a connection of a port. -/
def State.streamAt (s : State) (port conn : Nat) : Option Nat :=
  (s.dieStreams port).find? (fun n => (s.stream n).fromPort && (s.stream n).conn == conn)

/-- s with the sample in progress of stream n corrupt for a reason (R256, R270). -/
def State.spoil (s : State) (n reason : Nat) : State :=
  s.modStream n (fun x =>
    { x with samples := x.samples.map (fun m => if m.whole || m.reason != 0 || m.dropped then m else { m with reason := reason }) })

/-- An authentication failure or a sequence gap (R256): the sample in progress is corrupt and 0x5103 is queued; an
encrypted stream closes at the limit. -/
def State.authFailure (s : State) (n : Nat) (gap : Bool) : State :=
  let x := s.stream n
  let s := s.spoil n (if x.encrypted then 6 else 5)
  let s := s.raise { status := 0x5103, part := x.part, unitKind := 7, unit := n }
  let s := if gap then s.count (streamIndex n) 5 1 else s
  let s := if x.encrypted || !gap then s.count (streamIndex n) 6 1 else s
  let s := s.modStream n (fun x => { x with authFailures := x.authFailures + (if x.encrypted then 1 else 0) })
  if x.encrypted && s.valNat 0xC000 4 ≤ (s.stream n).authFailures then s.abortClose n 0x5103 else s.pump n

/-- s with the sequence number of a message of stream n taken; whether it follows the one before (R253, R256). -/
def State.takeSeq (s : State) (n seq : Nat) : State × Bool :=
  ((s.modStream n (fun x => { x with expectSeq := some ((seq + 1) % 2 ^ 32) })),
    match (s.stream n).expectSeq with
    | some e => e == seq
    | none => true)

/-- The header of a message as the additional data of its tag (R253, R256). -/
def ingestHeader (m : IngestMsg) (type : Nat) : List Byte :=
  msgHeader type m.flags m.conn m.seq m.payload.length m.reserved m.sampleId m.arg

/-- The plain payload of a message of stream x: opened under the stream key when the stream is encrypted (R256). -/
def State.plain (s : State) (x : Stream) (m : IngestMsg) (type : Nat) : List Byte :=
  if x.encrypted then
    (Config.gcmOpen (s.streamKey x) (x.iv 0 x.ctrIn) (ingestHeader m type) (m.payload.take (m.payload.length - 16))).take
      (m.payload.length - 16)
  else m.payload

/-- OPEN at a stream that is bound to its connection (R253, R254): ACCEPT grants the credit limit. -/
def State.openStream (s : State) (n : Nat) (m : IngestMsg) : State :=
  let s := (s.spoil n 5).modStream n (fun x => { x with samples := x.samples.map (fun y => { y with whole := true }) })
  let s := s.modStream n (fun x =>
    { x with
      state := if x.state = 3 then 3 else 2, expectSeq := some ((m.seq + 1) % 2 ^ 32), nonce := m.arg % 2 ^ 32, ctrIn := 0
      ctrOut := 0, seqOut := 0, credits := field x.desc 0x0A 2, owed := 0, resultCredits := 0, pos := 0, frames := 0
      rois := [], lastData := s.time.ticks })
  let s := { s with iports := Tab.mod s.iports {} m.port (fun i => { i with senders := Tab.set i.senders m.conn m.source }) }
  (s.tellSender n 0x81 (field (s.stream n).desc 0x0A 2) []).pump n

/-- The partition whose tier-3 store opens its connection here (R328). -/
def State.storeAt (s : State) (port conn : Nat) : Option Nat :=
  partNumbers.find? (fun p => s.pval p 0x20 5 == port && s.pval p 0x20 6 == conn)

/-- OPEN (R253). -/
def execOpenMsg (m : IngestMsg) (s : State) : Host.Outcome State Fault Refusal :=
  answer s
    (let x := s.takeFrame m
     if !x.2 then x.1
     else
       let s := x.1
       if !bit (s.valNat 0xC000 1) m.port then s.out (.ingest m.port m.conn 0x82 [0, 0x4109] [])
       else
         match s.streamAt m.port m.conn with
         | some n => s.openStream n m
         | none =>
           match s.storeAt m.port m.conn with
           | some p =>
             let s := s.modRcv p (fun r => { r with store := { nonce := m.arg % 2 ^ 32, seq := 1 } })
             ({ s with iports := Tab.mod s.iports {} m.port (fun i => { i with senders := Tab.set i.senders m.conn m.source }) }).out
               (.ingest m.port m.conn 0x81 [0, 0] [])
           | none =>
             let st := ofLe [Config.freeByte s.free, Config.freeByte (s.free + 1)]
             ({ s with free := s.free + 2 }).out (.ingest m.port m.conn 0x82 [0, st] []))

/-- A message of a bound stream: f is what it does once its sequence number follows; it is skipped when it does not. -/
def State.onMessage (s : State) (m : IngestMsg) (f : State → Nat → State) : State :=
  let x := s.takeFrame m
  if !x.2 then x.1
  else
    match x.1.streamAt m.port m.conn with
    | none => x.1
    | some n =>
      let y := x.1.takeSeq n m.seq
      if y.2 then f y.1 n else y.1.authFailure n true

/-- s with a sample of stream n begun by its first block (R253, R266): one still in progress is truncated. -/
def State.beginSample (s : State) (n : Nat) (m : IngestMsg) : State :=
  (s.spoil n 5).modStream n (fun x =>
    { x with
      samples := ((x.samples.map (fun y => { y with whole := true })).filter (fun y => !y.dropped)) ++
        [{ id := m.sampleId, pos := x.pos, tArrival := s.now, tick := s.time.ticks }] })

/-- s with so many bytes of payload, and a credit's block, given to the sample in progress; without one, or when it is
corrupt, they are discarded and the credit goes back (R253, R254, R269). -/
def State.addBytes (s : State) (n : Nat) (bytes : List Byte) (last : Bool) : State :=
  let x := s.stream n
  let keep := x.samples.any (fun y => !y.whole && y.reason == 0 && !y.dropped)
  let s := s.modStream n (fun x =>
    { x with
      pos := x.pos + bytes.length
      samples := (x.samples.map (fun y =>
        if y.whole then y
        else
          { y with
            bytes := if keep then y.bytes ++ bytes else y.bytes, blocks := if keep then y.blocks + 1 else y.blocks
            coded := y.coded + bytes.length, whole := last })).filter (fun y => !(y.dropped && y.whole)) })
  let s := s.count (streamIndex n) 3 bytes.length
  if keep then s else s.owe n 1

/-- s with the input blocks in use on the die of stream n held against their highest so far (R274). -/
def State.highWater (s : State) (n : Nat) : State :=
  let die := (s.stream n).port
  let used := ((s.dieStreams die).map (fun m => (s.stream m).held)).sum
  { s with ctr := Tab.mod s.ctr 0 ((0x6B00 + die) * 256 + 5) (max used) }

/-- DATA at a bound stream (R253, R254, R256). -/
def State.onData (s : State) (n : Nat) (m : IngestMsg) (follows : Bool) : State :=
  let s := s.modStream n (fun x => { x with lastData := s.time.ticks, stallLogged := false })
  let first := bit m.flags 0
  let last := bit m.flags 1
  let s := if first then s.beginSample n m else s
  let x := s.stream n
  let finish := fun (s : State) =>
    if last then s.modStream n (fun x => { x with
      samples := (x.samples.map (fun y => { y with whole := true })).filter (fun y => !y.dropped) }) else s
  if x.credits = 0 then ((finish ((s.count (streamIndex n) 4 1).spoil n 5)).pump n)
  else
    let s := (s.modStream n (fun x => { x with credits := x.credits - 1, held := x.held + 1 })).highWater n
    if !follows then (finish (s.spoil n (if x.encrypted then 6 else 5))).owe n 1 |>.authFailure n true
    else if x.encrypted && !m.tagOk then
      (finish ((s.modStream n (fun x => { x with ctrIn := x.ctrIn + 1 })).spoil n 6)).owe n 1 |>.authFailure n false
    else
      let bytes := s.plain x m 2
      let s := s.modStream n (fun x => { x with ctrIn := if x.encrypted then x.ctrIn + 1 else x.ctrIn })
      if x.state = 3 && !x.admitsNew && !x.samples.any (fun y => !y.whole && y.slot) then
        (s.modStream n (fun x => { x with samples := x.samples.filter (fun y => y.whole || y.slot) })).owe n 1
      else (s.addBytes n bytes last).pump n

/-- DATA (R253). -/
def execDataMsg (m : IngestMsg) (s : State) : Host.Outcome State Fault Refusal :=
  answer s
    (let x := s.takeFrame m
     if !x.2 then x.1
     else
       match x.1.streamAt m.port m.conn with
       | none => x.1
       | some n => let y := x.1.takeSeq n m.seq; y.1.onData n m y.2)

/-- END (R253, R273): the sample in progress is truncated, the open positions of the running round are corrupt, and later
rounds wait for a new OPEN. -/
def execEndMsg (m : IngestMsg) (s : State) : Host.Outcome State Fault Refusal :=
  answer s (s.onMessage m (fun s n =>
    let s := (s.spoil n 5).modStream n (fun x =>
      { x with
        state := if x.state = 2 then 1 else x.state, credits := 0
        samples := (x.samples.map (fun y => { y with whole := true })).filter (fun y => !y.dropped) })
    let s := s.pump n
    let s := if (s.stream n).roundRuns then (s.stream n).openEntries.foldl (fun s e => s.maskEntry n e 5) s else s
    s.pump n))

/-- ROI (R256, R271): a box for frames from a frame number on. -/
def execRoi (m : IngestMsg) (s : State) : Host.Outcome State Fault Refusal :=
  answer s (s.onMessage m (fun s n =>
    let x := s.stream n
    let next := fun (s : State) => s.modStream n (fun x => { x with ctrIn := if x.encrypted then x.ctrIn + 1 else x.ctrIn })
    if x.encrypted && !m.tagOk then (next s).authFailure n false
    else (next s).modStream n (fun y => { y with rois := (m.arg, padTo 16 (s.plain x m 4)) :: y.rois })))

/-- RESULT_CREDIT (R253): buffers for RESULT messages, of a stream's sender or of a partition's store (R328). -/
def execResultCredit (m : IngestMsg) (s : State) : Host.Outcome State Fault Refusal :=
  answer s
    (match s.streamAt m.port m.conn, s.storeAt m.port m.conn with
     | none, some p =>
       let x := s.takeFrame m
       if x.2 then x.1.modRcv p (fun r => { r with store := { r.store with credits := r.store.credits + m.arg } }) else x.1
     | _, _ => s.onMessage m (fun s n =>
         (s.modStream n (fun x => { x with resultCredits := x.resultCredits + m.arg })).pump n))

/-- ABORT_SAMPLE (R253, R270): the sample in progress is truncated. -/
def execAbortSample (m : IngestMsg) (s : State) : Host.Outcome State Fault Refusal :=
  answer s (s.onMessage m (fun s n =>
    ((s.spoil n 5).modStream n (fun x =>
      { x with samples := (x.samples.map (fun y => { y with whole := true })).filter (fun y => !y.dropped) })).pump n))

/-- INGEST_CREDIT_TIMER (R254): 2 µs after the first owed credit. -/
def execIngestCreditTimer (n : Nat) (s : State) : Host.Outcome State Fault Refusal :=
  answer s
    (let x := s.stream n
     if x.state ≠ 0 ∧ 0 < x.owed ∧ x.owedTick + 2 * Config.ticksPerUs ≤ s.time.ticks then s.sendCredit n else s)

/-! ### Decoded samples (R208 to R211, R261 to R271) -/

/-- The reason a decoded sample is corrupt by its declared size: ceiling, largest frame (R262, log 106), then floor (R268), which
needs all the sample's bytes for an image and for FLAC and WAV. -/
def Stream.declared (x : Stream) (m : Sample) (d : Decoded) : Nat :=
  let c := fun (i : Nat) => x.ceil.getD i 0
  let f := c 6
  if x.kind = 1 then
    (if c 0 < d.width ∨ c 1 < d.height then 2 else if m.whole ∧ m.coded * 2 ^ 20 < f * d.width * d.height then 3 else 0)
  else if x.kind = 2 then
    (if c 0 < d.width ∨ c 1 < d.height then 2
     else if 8192 < d.width ∨ 4352 < d.height then 4
     else if d.firstFrameBytes * 2 ^ 20 < f * d.width * d.height then 3 else 0)
  else if x.kind = 3 ∧ (x.codec = 0x23 ∨ x.codec = 0x24) then
    let r := field x.desc 0x50 4
    let n := if r = 0 ∨ d.rate = 0 then d.declaredSamples else (d.declaredSamples * r + d.rate - 1) / d.rate
    (if c 3 < n then 2 else if m.whole ∧ m.coded * 2 ^ 20 < f * d.declaredSamples * d.channels then 3 else 0)
  else 0

/-- The boxes of an image of a crop-and-resize stream, none when the list is invalid (R209). -/
def State.boxList (s : State) (x : Stream) (e : BEntry) : Option (List Box) :=
  let r := Resample.ofBytes x.resample
  let a := if e.boxList = 0 then r.boxes else e.boxList
  if r.maxBoxes < e.boxCount || !s.inside x.part a (16 * e.boxCount) then none
  else
    let b := s.rd x.part a (16 * e.boxCount)
    some ((List.range e.boxCount).map (fun i => Box.ofBytes b (16 * i)))

/-- The output of one image: its data, images written, degenerate boxes; none with an invalid box list (R206 to R211). -/
def State.imageOut (s : State) (x : Stream) (e : BEntry) (img : List Byte) (w h : Nat) : Option (List Byte × Nat × Nat) :=
  let r := Resample.ofBytes x.resample
  let full := Box.full w h
  if r.mode = 0 then some (({ r with filter := 0 }).image img w h full w h, 1, 0)
  else if r.mode = 2 then
    (s.boxList x e).map (fun bs =>
      (bs.flatMap (fun b => r.image img w h b r.outW r.outH), bs.length, (bs.filter Box.empty).length))
  else some ((r.images w h).flatMap (fun z => r.image img w h full z.1 z.2), (r.images w h).length, 0)

/-- The region of interest of frame f of the stream: the box, whether it applies, whether it is degenerate (R271). -/
def State.roiBox (s : State) (x : Stream) (f w h : Nat) : Box × Bool × Bool :=
  let mode := field x.desc 0x0D 1
  let best := (x.rois.filter (fun e => e.1 ≤ f)).foldl (fun b e =>
    match b with
    | none => some e
    | some c => if c.1 < e.1 then some e else some c) (none : Option (Nat × List Byte))
  let raw : Option (List Byte) := if mode = 1 then best.map (·.2) else if mode = 2 then some (s.rd x.part (field x.desc 0x30 8) 16) else none
  match raw with
  | none => (Box.full w h, false, false)
  | some b =>
    let k := (Box.ofBytes b 0).clamp w h
    if k.empty then (Box.full w h, true, true) else (k, true, false)

/-- What a sound image sample writes. -/
def State.imageSample (s : State) (x : Stream) (e : BEntry) (d : Decoded) : Written × Nat × Nat :=
  let r := Resample.ofBytes x.resample
  match s.imageOut x e (expanded d (r.chans == 2) 0) d.width d.height with
  | none => ({ width := d.width, height := d.height, reason := 7 }, 0, 0)
  | some (data, n, bad) =>
    ({ data := data, units := n, width := d.width, height := d.height, flags := if bad = 0 then 0 else 16 }, r.counted n, bad)

/-- What a sound clip writes: every frame_step-th frame, resampled one after another (R250, R265, R271). -/
def State.videoSample (s : State) (x : Stream) (e : BEntry) (d : Decoded) : Written × Nat × Nat × Nat :=
  let r := Resample.ofBytes x.resample
  let step := max 1 (field x.desc 0x0E 1)
  let fs := (List.range d.frames.length).filter (fun f => f % step == 0)
  let outs := fs.map (fun f =>
    let img := expanded d (r.chans == 2) f
    if field x.desc 0x0D 1 = 0 then
      (s.imageOut x e img d.width d.height).map (fun o => (o.1, r.counted o.2.1, o.2.2, false, false))
    else
      let b := s.roiBox x (x.frames + f) d.width d.height
      some (r.image img d.width d.height b.1 r.outW r.outH, 1, 0, b.2.1, b.2.2))
  if outs.any Option.isNone then ({ width := d.width, height := d.height, reason := 7 }, 0, 0, 0)
  else
    let os := outs.filterMap id
    let bad := (os.map (fun o => o.2.2.1)).sum
    let rois := (os.filter (fun o => o.2.2.2.1)).length
    let deg := os.any (fun o => o.2.2.2.2) || bad != 0
    ({ data := os.flatMap (·.1), units := fs.length, width := d.width, height := d.height
       flags := (if rois = 0 then 0 else 8) + (if deg then 16 else 0) }, (os.map (fun o => o.2.1)).sum, bad, rois)

/-- One sample of raw PCM in a format, full scale ±1.0 (R250, R263, log 107). -/
def pcmSample (fmt : Nat) (b : List Byte) : F32 :=
  let w := bits fmt 5 0
  let v := ofLe b
  if bit fmt 6 then BitVec.ofNat 32 v
  else
    let low := if w = 8 ∧ Config.pcm8Offset then 128 else if 2 ^ (w - 1) ≤ v then 2 ^ w else 0
    BitVec.ofNat 32 (toF32 (.fin (decide (v < low)) ((v : Int) - low).natAbs (1 - (w : Int))))

/-- What the bytes of a raw PCM sample decode to by pcm_rate and pcm_format; a part of a frame at the end is left out (R263, log
107). -/
def Stream.rawPcm (x : Stream) (bytes : List Byte) : Decoded :=
  let fmt := field x.desc 0x5C 2
  let n := bits fmt 5 0 / 8
  let ch := bits fmt 11 8
  { channels := ch, rate := field x.desc 0x58 4
    pcm := (List.range (bytes.length / max 1 (n * ch) * ch)).map (fun i => pcmSample fmt (slice bytes (i * n) n)) }

/-- Samples of channel c of decoded audio. -/
def pcmChannel (d : Decoded) (c : Nat) : List F32 :=
  (List.range (d.pcm.length / max 1 d.channels)).map (fun i => d.pcm.getD (i * max 1 d.channels + c) 0)

/-- A channel at the output rate (R263): ⌈n × out ÷ source⌉ samples. -/
def atRate (source out : Nat) (xs : List F32) : List F32 :=
  if out = 0 ∨ out = source ∨ source = 0 then xs
  else (List.range ((xs.length * out + source - 1) / source)).map (fun i => Config.polyphase source out xs i)

/-- The mean of some FP32 values (R263). -/
def meanF32 (xs : List F32) : F32 :=
  BitVec.ofNat 32 (divF32 (xs.foldl (fun a x => FV.add a (ofF32 x.toNat)) (.fin false 0 0)) (max 1 xs.length))

/-- The output channels of decoded audio: source order, mono or stereo (R263). -/
def outChannels (mode : Nat) (cs : List (List F32)) : List (List F32) :=
  let n := (cs.headD []).length
  if mode = 0 then cs
  else if mode = 1 then [(List.range n).map (fun i => meanF32 (cs.map (fun c => c.getD i 0)))]
  else [cs.headD [], if cs.length < 2 then cs.headD [] else cs.getD 1 []]

/-- What a sound audio sample writes (R263, R265). -/
def Stream.audioSample (x : Stream) (d : Decoded) : Written :=
  let cs := outChannels (field x.desc 0x55 1)
    ((List.range d.channels).map (fun c => atRate d.rate (field x.desc 0x50 4) (pcmChannel d c)))
  let n := (cs.headD []).length
  if x.ceil.getD 3 0 < n then { reason := 8 }
  else
    let f := field x.desc 0x54 1
    { data := (List.range n).flatMap (fun i => cs.flatMap (fun c =>
        le (if f = 1 then 4 else 2) (castTo f .nearest (ofF32 (c.getD i 0).toNat)).1))
      units := (n + field x.desc 0x56 2 - 1) / max 1 (field x.desc 0x56 2) }

/-- What a text sample writes (R264, R265). -/
def Stream.textSample (x : Stream) (bytes : List Byte) : Written :=
  let clean := utf8Clean bytes.length bytes false
  if x.ceil.getD 5 0 < bytes.length then { reason := 8 }
  else if clean.2 && !x.flag 4 then { reason := 9 }
  else
    let ts := tokenize x.table (field x.desc 0x0F 1 == 1) (if clean.2 then clean.1 else bytes)
    let ts := (if x.flag 5 then [field x.desc 0x48 4] else []) ++ ts ++ (if x.flag 6 then [field x.desc 0x4C 4] else [])
    let top := x.ceil.getD 4 0
    if top < ts.length && !x.flag 3 then { reason := 8 }
    else
      { data := (ts.take top).flatMap (le 4), units := min top ts.length
        flags := (if top < ts.length then 2 else 0) + (if clean.2 then 64 else 0) }

/-- What a decoded sample writes, with images counted, degenerate boxes, and boxes of interest applied. Raw PCM and text are
decoded here, from the sample's bytes (R263, R264). -/
def State.decodedSample (s : State) (x : Stream) (e : BEntry) (m : Sample) (d : Decoded) : Written × Nat × Nat × Nat :=
  let bytes := if x.fromPort then m.bytes else s.rd x.part e.src e.length
  let d := if x.codec = 0x25 then x.rawPcm bytes else d
  let size : Written := { width := if x.kind ≤ 2 then d.width else 0, height := if x.kind ≤ 2 then d.height else 0 }
  let reason := if x.declared m d ≠ 0 then x.declared m d
    else if x.kind = 2 ∧ x.ceil.getD 2 0 < d.frames.length then 8 else d.reason
  if reason ≠ 0 then ({ size with reason := reason }, 0, 0, 0)
  else
    let seen := (if bit d.flags 2 then 4 else 0) + (if bit d.flags 5 then 32 else 0)
    let w : Written × Nat × Nat × Nat :=
      if x.kind = 1 then (let o := s.imageSample x e d; (o.1, o.2.1, o.2.2, 0))
      else if x.kind = 2 then s.videoSample x e d
      else if x.kind = 3 then (x.audioSample d, 0, 0, 0)
      else (x.textSample bytes, 0, 0, 0)
    ({ w.1 with flags := w.1.flags + seen }, w.2)

/-- POSITION_WRITTEN (R260, R265, R266): the decode of the sample at a position of the running round has ended, or its
header was refused. A sound sample needs all its bytes and a slot. -/
def execPositionWritten (n position : Nat) (d : Decoded) (s : State) : Host.Outcome State Fault Refusal :=
  answer s
    (let x := s.stream n
     match x.rounds with
     | none => s
     | some r =>
       match (List.range r.entries.length).find? (fun e =>
           ((r.entries[e]?).map (fun b => b.kind == 1 && b.position == position)).getD false) with
       | none => s
       | some e =>
         match x.samples.find? (fun m => m.entry == some e && m.slot) with
         | none => s
         | some m =>
           let b := r.entries.getD e ⟨0, 0, 0, 0, 0, 0, 0, 0⟩
           let w := s.decodedSample x b m d
           if !m.whole && w.1.reason == 0 then s
           else
             let die := 0x6B00 + x.port
             let s := ((s.count die 1 w.2.1).count die 2 w.2.2.1).count (streamIndex n) 7 w.2.2.2
             let s := s.modStream n (fun x => { x with frames := x.frames + (if x.kind = 2 then d.frames.length else 0) })
             ((s.putPosition n e m w.1).dropSample n e).pump n)

/-! ### Timers and ports -/

/-- ROUND_DEADLINE (R272): every position of a live round that is not written is late. -/
def execRoundDeadline (n : Nat) (s : State) : Host.Outcome State Fault Refusal :=
  answer s
    (let x := s.stream n
     let limit := field x.desc 0x1C 4
     match x.rounds.bind (·.firstTick) with
     | some t =>
       if x.live ∧ limit ≠ 0 ∧ t + limit * Config.ticksPerUs ≤ s.time.ticks then
         (x.unwritten.foldl (fun s e => s.maskEntry n e 0x0A) s).pump n
       else s
     | none => s)

/-- STREAM_STALL (R272): a round waits for port samples and no DATA has come for the watchdog's time. -/
def execStreamStall (n : Nat) (s : State) : Host.Outcome State Fault Refusal :=
  answer s
    (let x := s.stream n
     let limit := s.valNat 0xC000 3
     if x.state ≠ 0 ∧ x.fromPort ∧ !x.stallLogged ∧ x.openEntries ≠ [] ∧ s.roundOpen n ∧ limit ≠ 0 ∧
         x.lastData + limit * Config.ticksPerMs ≤ s.time.ticks then
       (s.raise { status := 0x3106, part := x.part, unitKind := 7, unit := n }).modStream n (fun x => { x with stallLogged := true })
     else s)

/-- s with an ingest port down: its streams lose their samples in decode and take an abort close (R255, R273). -/
def State.ingestDown (s : State) (port : Nat) : State :=
  if port < 4 ∧ (Tab.get s.iports {} port).state = 2 then
    let s := { s with iports := Tab.mod s.iports {} port (fun i => { i with state := 0 }) }
    let s := s.raise { status := 0x6301, unitKind := 9, unit := port }
    ((s.dieStreams port).filter (fun n => (s.stream n).fromPort)).foldl (fun s n => s.failStream n 5) s
  else s

/-- PORT_DOWN (R255, R273). -/
def execPortDown (port : Nat) (s : State) : Host.Outcome State Fault Refusal := answer s (s.ingestDown port)

/-- INGEST_PORT_UP (R248). -/
def execIngestPortUp (port : Nat) (s : State) : Host.Outcome State Fault Refusal :=
  answer s (if port < 4 then { s with iports := Tab.mod s.iports {} port (fun i => { i with state := 2 }) } else s)

/-- FLOW_CONTROL_FRAME (R445): discarded and counted. -/
def execFlowControlFrame (port : Nat) (s : State) : Host.Outcome State Fault Refusal :=
  answer s (if port < 4 then { s with iports := Tab.mod s.iports {} port (fun i => { i with flow := i.flow + 1 }) } else s)

end Sys2Proof.Machine
end

