-- ==== Sys2Proof/Machine/Kettle.lean ====
section
/-!
DEFINITION. The Kettle links (R435 to R444): flits, replay, hello, lane remap and ports that go down; sachet and fetch data
between modules (R305, R308, R321, R443); partner windows (R65, R221, R308); module loss over the links (R320).
-/

namespace Sys2Proof.Machine

open Sys2Proof

/-! ### A port goes down -/

/-- s with the collective commands whose send port or receive port is k completed with 0x6303 (R444). -/
def State.stopPortColls (s : State) (k : Nat) : State :=
  ((s.colls.filterMap (fun e => s.collCtx e.1)).filter (fun x => portOf x.q == k || x.d.port == k)).foldl
    (fun s x => s.stopColl x 0x6303) s

/-- s with the blocks that were under way on port k sent again on the other ports that reach the module (R444). -/
def State.rerouteBlocks (s : State) (k : Nat) : State :=
  { s with xfers := s.xfers.map (fun x =>
      { x with again := (x.flight.filter (fun f => f.1 == k)).map (·.2) ++ x.again, flight := x.flight.filter (fun f => f.1 != k) }) }

/-! ### Bindings of partner windows (R53, R65) -/

/-- s with partition p's binding granted by module m for gib GiB (R65): an earlier partner keeps its copies until a sachet
has landed elsewhere. -/
def State.bindGranted (s : State) (p m gib slots : Nat) : State :=
  let b := (s.part p).binding
  let s := if b.module = m then s.dropHolder p m else s
  s.modPart p (fun q => { q with binding :=
    { module := m, gib := gib, slots := slots, bound := true
      release := if b.bound ∧ b.module ≠ m then some b.module else b.release.filter (· ≠ m) } })

/-- A write of the partner module address or of the window request that asks for a binding (R65): refused with 0x4101 when
no port reaches the partner. -/
def State.askBind (s : State) (r : Req) (p m gib j : Nat) : State × Option Nat :=
  if (s.portsTo m).isEmpty then (s, some 0x4101) else (s.sendBind p m gib (some (r, j)), none)

/-- The effect of a write of Partner module address (R46, R65). -/
def State.setPartner (s : State) (r : Req) (p m : Nat) : State × Option Nat :=
  if m = 0xFF then
    (s.modPart p (fun q => { q with binding :=
      { q.binding with
        module := 0xFF, bound := false, fresh := false
        release := if q.binding.bound then some q.binding.module else q.binding.release } }), some 0)
  else if m = s.address ∧ (s.part p).state.works then (s, some 0x1102)
  else s.askBind r p m (s.pval p 0x20 2) 1

/-- The effect of a write of Partner window request (R65): without a partner it is only recorded. -/
def State.setWindow (s : State) (r : Req) (p gib : Nat) : State × Option Nat :=
  if s.pval p 0x20 1 = 0xFF then (s, some 0) else s.askBind r p (s.pval p 0x20 1) gib 2

/-- s with a write of partition p's partner entry j kept until the binding that is asked for is answered: writes apply one at
a time, in the order accepted (R53). -/
def State.waitBind (s : State) (r : Req) (p j v : Nat) : State × Option Nat :=
  (s.modPart p (fun q => { q with bindNext := q.bindNext ++ [(r, j, v)] }), none)

/-- s with an accepted write of partition p's partner entry j stored, and answered with a status (R65). -/
def State.answerBind (s : State) (r : Req) (p j v status : Nat) : State :=
  let i := 0x3020 + 256 * p
  let s := if status = 0 then s.commitWrite (Route.code r.route) i j (if j = 1 then le 1 v else le 2 v) else s
  s.respond r 2 i j status []

/-- s with the oldest write that waits behind partition p's binding applied, unless a binding is awaited (R53). -/
def State.nextBind (s : State) (p : Nat) : State :=
  match (s.part p).bindReq, (s.part p).bindNext with
  | none, (r, j, v) :: rest =>
    let s := s.modPart p (fun q => { q with bindNext := rest })
    match if j = 1 then s.setPartner r p v else s.setWindow r p v with
    | (t, some st) => t.answerBind r p j v st
    | (t, none) => t
  | _, _ => s

/-- s with the writes that wait behind partition p's binding applied in order, as far as the next binding (R53). -/
def State.nextBinds (s : State) (p : Nat) : State := (List.range (s.part p).bindNext.length).foldl (fun s _ => s.nextBind p) s

/-- s with partition p's awaited binding answered (R65): granted with slots, or refused with a status; the write that asked
for it is answered, and those behind it follow. -/
def State.bindAnswered (s : State) (p status slots : Nat) : State :=
  match (s.part p).bindReq with
  | none => s
  | some (ask, m, gib) =>
    let s := s.modPart p (fun q => { q with bindReq := none })
    let s := if status = 0 then s.bindGranted p m gib slots else s
    (match ask with
     | none => s
     | some (r, j) => s.answerBind r p j (if j = 1 then m else gib) status).nextBinds p

/-! ### Ports -/

/-- s with what needs module m given up, when no port reaches it any more: sachets that land there, fetches from it and
for it (R317, R321, R444). -/
def State.unreachable (s : State) (m : Nat) : State :=
  if m = 0xFF ∨ !(s.portsTo m).isEmpty then s
  else
    let s := (s.xfers.filter (fun x => x.module == m && x.source < 4)).foldl (fun s x => s.landingFailed x.source 0x6303) s
    let s := { s with xfers := s.xfers.filter (fun x => x.module != m) }
    let s := partNumbers.foldl (fun s p =>
      if ((s.part p).bindReq.map (fun b => b.2.1 == m)).getD false then s.bindAnswered p 0x4101 0 else s) s
    s.fetches.foldl (fun s e =>
      match s.running 4 e.1 with
      | some (r, c) =>
        if (FetchDesc.ofBytes (c.held.getD 0 [])).holder = m then
          ({ s with fetches := Tab.del s.fetches e.1 }).issue 4 e.1 r 0x7302
        else s
      | none => s) s

/-- s without port k in service, in a state of R439: what ran over it stops or goes another way (R444). -/
def State.portOff (s : State) (k st : Nat) : State :=
  let m := (s.kport k).peer
  let s := s.modKport k (fun x => { x with state := st, downSince := s.time.ticks, nak := false, fails := 0, retrained := false })
  (((s.stopPortColls k).rerouteBlocks k).pumpXfers).unreachable m

/-- s with port k down for a lane: 0x6303 is queued (R438). -/
def State.kettleDown (s : State) (k lane : Nat) : State :=
  (s.raise { status := 0x6303, unitKind := 8, unit := k * 256 + lane }).portOff k 0

/-! ### Link layer -/

/-- s with the flit that port k waits for asked for again (R437). -/
def State.sendNak (s : State) (k : Nat) : State :=
  (s.modKport k (fun x => { x with nak := true })).out (.kettle k 0x102 [(s.kport k).expect] [])

/-- KETTLE_FLIT (R436, R437, R438): a sound data flit in order is taken; a bad one, and every later one, is discarded and
asked for again. After its first sending and 3 replays the port retrains once, then goes down. -/
def execKettleFlit (k seq ack : Nat) (crcOk : Bool) (s : State) : Host.Outcome State Fault Refusal :=
  let x := s.kport k
  answer s
    (if 12 ≤ k ∨ x.state ≠ 2 then s
     else if crcOk ∧ seq = x.expect then
       s.modKport k (fun x => { x with expect := (x.expect + 1) % 4096, acked := ack, nak := false, fails := 0, retrained := false })
     else if crcOk then (if x.nak then s else s.sendNak k)
     else
       let s := s.modKport k (fun x => { x with fails := x.fails + 1, uncorrected := x.uncorrected + 1 })
       if x.fails + 1 < 4 then s.sendNak k
       else if x.retrained then s.kettleDown k 0xFF
       else (s.modKport k (fun x => { x with fails := 0, retrained := true })).sendNak k)

/-- NAK (R437): the data flits from the one named are sent again, and counted. -/
def execNak (k seq : Nat) (s : State) : Host.Outcome State Fault Refusal :=
  let x := s.kport k
  let n := (x.sendSeq + 4096 - seq % 4096) % 4096
  answer s
    (if 12 ≤ k ∨ x.state ≠ 2 ∨ 1024 < n then s
     else s.modKport k (fun x => { x with replayed := x.replayed + n, acked := (seq + 4095) % 4096 }))

/-- s with port k up with a peer (R439); guests whose window was lost are told (R466). -/
def State.portUp (s : State) (k peer peerPort : Nat) : State :=
  let s := s.modKport k (fun x =>
    { x with state := 2, peer := peer, peerPort := peerPort, sendSeq := 0, expect := 0, acked := 4095, nak := false, seqs := [] })
  let s := s.out (.kettle k 0x103 [s.address, k] [])
  let told := s.notices.filter (fun e => e.1 == peer)
  let s := told.foldl (fun s e => s.sendTo peer 0x24 0 [e.2, 0x4101]) { s with notices := s.notices.filter (fun e => e.1 != peer) }
  s.pumpXfers

/-- HELLO (R439, R444): the port is up; a peer with this module's own address is refused; a new peer on a port that was up
is a new link. -/
def execHello (k peer peerPort lanes secVersion : Nat) (s : State) : Host.Outcome State Fault Refusal :=
  let x := s.kport k
  let _ := (lanes, secVersion)
  answer s
    (if 12 ≤ k ∨ peer = s.address then s
     else if x.state = 1 then s.portUp k peer peerPort
     else if x.state = 2 ∧ x.peer ≠ peer then (s.portOff k 1).portUp k peer peerPort
     else s)

/-- REMAP (R438): the peer moves a lane to the spare pair; a second lane takes the port down. -/
def execRemap (k lane phase : Nat) (s : State) : Host.Outcome State Fault Refusal :=
  let x := s.kport k
  answer s
    (if 12 ≤ k ∨ x.state ≠ 2 then s
     else if (x.spare ≠ 0xFF ∧ x.spare ≠ lane) ∨ x.spareDead then s.kettleDown k lane
     else (s.modKport k (fun x => { x with state := 3 })).out (.kettle k 0x104 [lane, phase] []))

/-- KETTLE_LANE_REMAPPED (R438): a lane has been moved to the spare pair, and what was not acknowledged is sent again; a
second lane, or a remap that fails, takes the port down. -/
def execKettleLaneRemapped (k lane : Nat) (ok : Bool) (s : State) : Host.Outcome State Fault Refusal :=
  let x := s.kport k
  answer s
    (if 12 ≤ k ∨ (x.state ≠ 2 ∧ x.state ≠ 3) then s
     else
       let s := if x.state = 2 then s.out (.kettle k 0x104 [lane, 0] []) else s
       if x.spare ≠ 0xFF ∨ x.spareDead ∨ !ok then s.kettleDown k lane
       else
         let s := s.modKport k (fun x =>
           { x with state := 2, spare := lane, replayed := x.replayed + (x.sendSeq + 4095 - x.acked) % 4096 })
         (s.raise { status := 0x6302, unitKind := 8, unit := k * 256 + lane }).pumpXfers)

/-- KETTLE_PORT_ENABLE (R438, R439): 0 takes the port out of service; 1 after it trains the lanes again, and at least 8 of
9 must train. lanesTrained has a bit for each lane, bit 8 for the spare. -/
def State.enablePort (s : State) (k value lanesTrained : Nat) : State × Nat :=
  let x := s.kport k
  if value = 0 then (if x.state = 4 then s else s.portOff k 4, 0)
  else if x.state ≠ 4 then (s, 0)
  else
    let bad := (List.range 9).filter (fun i => !bit lanesTrained i)
    match bad with
    | [] => (s.modKport k (fun x => { x with state := 1, spare := 0xFF, spareDead := false }), 0)
    | [b] =>
      (s.modKport k (fun x => { x with state := 1, spare := if b < 8 then b else 0xFF, spareDead := b == 8 }), 0)
    | b :: _ => (s.kettleDown k b, 0)

/-- KETTLE_PORT_ENABLE (R438). -/
def execKettlePortEnable (r : Req) (k value lanesTrained : Nat) (s : State) : Host.Outcome State Fault Refusal :=
  answer s (s.serveWrite r (0xA400 + k) 5 1 (le 1 value) (fun s => done (s.enablePort k value lanesTrained)))

/-! ### Sachets that land here -/

/-- Whether n bytes from window byte a are there (R221). -/
def State.inWindow (s : State) (a n : Nat) : Bool := a + n ≤ s.valNat 0x2300 1 * 1073741824

/-- s with bytes stored in the hosted window: whole blocks become maintained (R234), and their lines are counted (R231). -/
def State.windowWrite (s : State) (a : Nat) (bs : List Byte) : State :=
  let cells := bs.zipIdx.filterMap (fun e => (s.windowPlace (a + e.2)).map (fun k => (k, e.1)))
  let blocks := (List.range (bs.length / 4096)).filterMap (fun i => s.windowPlace (a + 4096 * i))
  blocks.foldl (fun s k => s.count (channelIndex k) ctrChWritten 64)
    { s with mem := Mem.putAll s.mem cells, hbm := s.hbm.wrote blocks }

/-- The window of a guest. -/
def State.guestOf (s : State) (m p : Nat) : Option Guest := s.guests.find? (fun g => g.module == m && g.part == p)

/-- s with the window of a guest changed by f. -/
def State.modGuest (s : State) (m p : Nat) (f : Guest → Guest) : State :=
  { s with guests := s.guests.map (fun g => if g.module = m ∧ g.part = p then f g else g) }

/-- A guest's window with a slot for the sachet of an identifier (R308): slots are used alternately, and their size is the
sachet size rounded up to 4 MiB, known from the image's header. -/
def Guest.open (g : Guest) (id total : Nat) : Guest :=
  if g.held.any (fun h => h.1 == id) then g
  else
    let slots := windowSlots g.gib total
    let size := (total + 4194303) / 4194304 * 4194304
    let h := g.held.take slots
    let put : List (Nat × Nat × Bool) :=
      if slots ≤ 1 then [(id, 0, false)]
      else match h with
        | [] => [(id, 0, false)]
        | [a] => [a, (id, 0, false)]
        | a :: b :: _ => if a.1 < b.1 then [(id, 0, false), b] else [a, (id, 0, false)]
    { g with slots := slots, slotBytes := size, held := put }

/-- Total bytes of the image that an arriving block belongs to: from its header block, else as the slots are cut. -/
def imageTotal (g : Guest) (offset : Nat) (payload : List Byte) : Nat :=
  if offset = 0 then field payload 0x30 8 else g.slotBytes

/-- s with a block of a guest's sachet written to its slot, and its confirmation's status (R65, R308, R443). -/
def State.landBlock (s : State) (m p id offset : Nat) (payload : List Byte) : State × Nat :=
  match s.guestOf m p with
  | none => (s, 0x4101)
  | some g =>
    let g' := g.open id (imageTotal g offset payload)
    match g'.held.findIdx? (fun h => h.1 == id) with
    | none => (s, 0x4101)
    | some i =>
      let a := g'.base + i * g'.slotBytes + offset
      if g'.slots = 0 ∨ g'.slotBytes < offset + 4096 ∨ !s.inWindow a 4096 then (s, 0x4101)
      else
        let s := (s.modGuest m p (fun _ => g')).windowWrite a (padTo 4096 payload)
        let total := ofLe (s.windowBytes (g'.base + i * g'.slotBytes + 0x30) 8)
        let mark := fun (h : Nat × Nat × Bool) =>
          if h.1 = id then (id, h.2.1 + 1, decide (0 < total ∧ (total + 4095) / 4096 ≤ h.2.1 + 1)) else h
        (s.modGuest m p (fun g => { g with held := g.held.map mark }), 0)

/-- SACHET_BLOCK (R308, R441, R443): the block is written to the guest's slot and confirmed; a block whose CRC fails is
confirmed with 0x2201. -/
def execSachetBlock (h : KHdr) (sachetId offset : Nat) (payload : List Byte) (crcOk : Bool) (s : State) :
    Host.Outcome State Fault Refusal :=
  answer s (s.packet h (fun s =>
    let x := if crcOk then s.landBlock h.srcModule h.srcPartition sachetId offset payload else (s, 0x2201)
    x.1.kettleSend h.port 0x12 0 { tag := 0xFF } [sachetId, offset, 1, x.2] []))

/-- A transfer after a confirmation of n blocks from block b with a status (R443): done, sent again once, or, for a second
failure and for any other status, none. -/
def Xfer.confirm (x : Xfer) (b n status : Nat) : Option Xfer :=
  let mine := fun (i : Nat) => b ≤ i && i < b + n
  let hit := (x.flight.filter (fun f => mine f.2)).map (·.2)
  let y := { x with flight := x.flight.filter (fun f => !mine f.2) }
  if status = 0 then some { y with done := y.done + hit.length }
  else if status = 0x2201 ∧ !hit.any (fun i => x.retried.contains i) then
    some { y with again := y.again ++ hit, retried := y.retried ++ hit }
  else none

/-- SACHET_CONFIRM (R443): confirmed blocks make room for others; one that fails twice fails the sachet with 0x2201, one
that is turned away ends the landing and the binding (R65). -/
def execSachetConfirm (h : KHdr) (sachetId offset count status : Nat) (s : State) : Host.Outcome State Fault Refusal :=
  answer s (s.packet h (fun s =>
    match s.xfers.find? (fun x => x.id == sachetId && x.module == h.srcModule && x.first ≤ offset &&
        (offset - x.first) / 4096 < x.blocks) with
    | none => s
    | some x =>
      match x.confirm ((offset - x.first) / 4096) count status with
      | some y =>
        let rest := s.xfers.map (fun z => if z = x then y else z)
        ({ s with xfers := rest.filter (fun z => z.source < 4 || z.done != z.blocks) }).pumpXfers
      | none =>
        if x.source < 4 then
          let s := if status = 0x2201 then s
            else s.modPart x.source (fun q => { q with binding := { q.binding with bound := false } })
          (s.landingFailed x.source status).pumpXfers
        else ({ s with xfers := s.xfers.filter (fun z => z ≠ x) }).pumpXfers))

/-! ### Fetches (R321, R322) -/

/-- FETCH_REQUEST (R321): the holder sends the data, or refuses. -/
def execFetchRequest (h : KHdr) (sachetId offset bytes guest guestPartition region : Nat) (s : State) :
    Host.Outcome State Fault Refusal :=
  answer s (s.packet h (fun s =>
    match s.serveFetch h.srcModule h.srcPartition guest guestPartition sachetId region offset with
    | .error st => s.kettleSend h.port 0x15 0 { tag := 0xFF } [st] []
    | .ok (id, a) =>
      let x : Xfer := { source := 4, module := h.srcModule, id := id, first := offset, base := a, blocks := bytes / 4096 }
      ({ s with xfers := s.xfers ++ [x] }).pumpXfers))

/-- The fetch of this module that data or a refusal from a module belongs to: queue, reference, descriptor. -/
def State.fetchFrom (s : State) (m : Nat) (sel : FetchDesc → Bool) : Option (Nat × QRef × FetchDesc) :=
  (s.fetches.filterMap (fun e => (s.running 4 e.1).map (fun x => (e.1, x.1, FetchDesc.ofBytes (x.2.held.getD 0 []))))).find?
    (fun e => e.2.2.holder == m && sel e.2.2)

/-- FETCH_DATA (R321, R443): the block is written and confirmed; one that comes bad twice fails the fetch. -/
def execFetchData (h : KHdr) (sachetId offset : Nat) (payload : List Byte) (crcOk : Bool) (s : State) :
    Host.Outcome State Fault Refusal :=
  answer s (s.packet h (fun s =>
    match s.fetchFrom h.srcModule (fun d => (d.id == 0 || d.id == sachetId) && d.offset ≤ offset && offset + 4096 ≤ d.offset + d.bytes) with
    | none => s
    | some (q, r, d) =>
      let f := Tab.get s.fetches { ref := r } q
      if !crcOk then
        let s := s.kettleSend h.port 0x12 r.part { tag := 0xFF } [sachetId, offset, 1, 0x2201] []
        if f.bad.contains offset then ({ s with fetches := Tab.del s.fetches q }).issue 4 q r 0x2201
        else { s with fetches := Tab.set s.fetches q { f with bad := offset :: f.bad } }
      else
        let s := s.store r.part (d.dst + offset - d.offset) (padTo 4096 payload)
        let s := s.kettleSend h.port 0x12 r.part { tag := 0xFF } [sachetId, offset, 1, 0] []
        if d.bytes ≤ f.got + 4096 then ({ s with fetches := Tab.del s.fetches q }).issue 4 q r 0
        else { s with fetches := Tab.set s.fetches q { f with got := f.got + 4096 } }))

/-- FETCH_REFUSE (R321, R322): the fetch completes with the holder's status. -/
def execFetchRefuse (h : KHdr) (status : Nat) (s : State) : Host.Outcome State Fault Refusal :=
  answer s (s.packet h (fun s =>
    match s.fetchFrom h.srcModule (fun _ => true) with
    | some (q, r, _) => ({ s with fetches := Tab.del s.fetches q }).issue 4 q r status
    | none => s))

/-! ### Partner windows (R65, R221, R308) -/

/-- GiB of the hosted window that no guest holds (R328). -/
def State.windowFree (s : State) : Nat := s.valNat 0x2300 1 - (s.guests.map (·.gib)).sum

/-- The highest window byte at which gib GiB are free: windows pack from the top, the last bytes to go when the hosted window
shrinks (log 115). -/
def windowBase (cap : Nat) (guests : List Guest) (gib : Nat) : Nat :=
  let w := gib * 1073741824
  let used := guests.map (fun g => (g.base, g.gib * 1073741824))
  ((((cap - w) :: (used.filter (fun u => decide (w ≤ u.1))).map (fun u => u.1 - w)).mergeSort (fun a b => decide (b ≤ a))).find?
    (fun o => used.all (fun u => u.1 + u.2 ≤ o || o + w ≤ u.1))).getD 0

/-- Bytes of a hosted window whose channels give up so many MiB each (R221). -/
def windowBytes (carve : Nat) : Nat := 620 * carve * mib

/-- WINDOW_BIND (R308, R328, R441): a guest is granted a window, which takes the place of one it held. -/
def execWindowBind (h : KHdr) (gib partition : Nat) (s : State) : Host.Outcome State Fault Refusal :=
  answer s (s.packet h (fun s =>
    let others := s.guests.filter (fun g => !(g.module == h.srcModule && g.part == partition))
    let free := ({ s with guests := others }).windowFree
    if free < gib then s.kettleSend h.port 0x22 0 {} [0x4101, 0] []
    else
      let g : Guest := { module := h.srcModule, part := partition, gib := gib, base := windowBase (windowBytes s.carve) others gib }
      ({ s with guests := others ++ [g] }).kettleSend h.port 0x22 0 {}
        [0, (Config.replySlots h.srcModule partition gib).toNat] []))

/-- WINDOW_REPLY (R65, R441): the binding that waits is granted or refused. -/
def execWindowReply (h : KHdr) (status slots : Nat) (s : State) : Host.Outcome State Fault Refusal :=
  answer s (s.packet h (fun s =>
    match partNumbers.find? (fun p => ((s.part p).bindReq.map (fun b => b.2.1 == h.srcModule)).getD false) with
    | none => s
    | some p => s.bindAnswered p status slots))

/-- WINDOW_RELEASE (R65, R441). -/
def execWindowRelease (h : KHdr) (partition : Nat) (s : State) : Host.Outcome State Fault Refusal :=
  answer s (s.packet h (fun s =>
    { s with guests := s.guests.filter (fun g => !(g.module == h.srcModule && g.part == partition)) }))

/-- WINDOW_NOTICE (R65, R441): the partner's window is gone or has lost its contents; the binding is lost. -/
def execWindowNotice (h : KHdr) (status : Nat) (s : State) : Host.Outcome State Fault Refusal :=
  let _ := status
  answer s (s.packet h (fun s =>
    partNumbers.foldl (fun s p =>
      if (s.part p).binding.module = h.srcModule ∧ (s.part p).binding.bound then
        let s := s.dropHolder p h.srcModule
        s.modPart p (fun q => { q with binding := { q.binding with bound := false, fresh := true } })
      else s.dropHolder p h.srcModule) s))

/-- A write of Partner module address (R46, R65): 0xFF gives the window up once a sachet has landed elsewhere; behind a
binding whose answer is awaited it waits (R53). -/
def State.writePartner (s : State) (r : Req) (p m : Nat) : State × Option Nat :=
  if (s.part p).bindReq.isSome then s.waitBind r p 1 m else s.setPartner r p m

/-- PARTNER_MODULE_ADDRESS (R65). -/
def execPartnerModuleAddress (r : Req) (p address : Nat) (s : State) : Host.Outcome State Fault Refusal :=
  answer s (s.serveWrite r (0x3020 + 256 * p) 1 2 (le 1 address) (fun s => s.writePartner r p address))

/-- A write of Partner window request (R65); behind a binding whose answer is awaited it waits (R53). -/
def State.writeWindowRequest (s : State) (r : Req) (p gib : Nat) : State × Option Nat :=
  if (s.part p).bindReq.isSome then s.waitBind r p 2 gib else s.setWindow r p gib

/-- PARTNER_WINDOW_REQUEST (R65). -/
def execPartnerWindowRequest (r : Req) (p gib : Nat) (s : State) : Host.Outcome State Fault Refusal :=
  answer s (s.serveWrite r (0x3020 + 256 * p) 2 3 (le 2 gib) (fun s => s.writeWindowRequest r p gib))

/-- Physical channels that a logical channel of some stack names (R485). -/
def State.activeChannels (s : State) : List Nat :=
  (List.range 20).flatMap (fun st => (List.range 31).filterMap (fun l =>
    let c := s.physCh st l
    if c < 32 then some (st * 32 + c) else none))

/-- s with offsets lo to hi − 1 of every active channel scrubbed (R221, R241). -/
def State.scrubOffsets (s : State) (lo hi : Nat) : State :=
  let chs := s.activeChannels
  s.scrubWhere (fun k => decide (k < 2199023255552 ∧ lo ≤ k % 2147483648 ∧ k % 2147483648 < hi) && chs.contains (k / 2147483648))
    (chs.map (fun c => (c * 524288 + lo / 4096, c * 524288 + hi / 4096)))

/-- A guest as it stands when the window of the old carve takes the new one: its contents stay where they are, at the top of
the channels, and its base moves with the window's start; none when they lay in what the window gives up (R65, R221). -/
def Guest.moved (g : Guest) (old new : Nat) : Option Guest :=
  if windowBytes old ≤ g.base + windowBytes new then some { g with base := g.base + windowBytes new - windowBytes old } else none

/-- A write of Hosted partner window (R65, R221): the range that changes hands is scrubbed; guests whose window the new size
no longer holds are told. -/
def State.writeWindow (s : State) (gib : Nat) : State × Nat :=
  let new := carveOf gib
  if partNumbers.any (fun p => decide (2046 < new + s.near p)) then (s, 0x1104)
  else if gib = s.valNat 0x2300 1 then (s, 0)
  else
    let gone := s.guests.filter (fun (g : Guest) => (g.moved s.carve new).isNone)
    let s' := gone.foldl (fun s g => s.sendTo g.module 0x24 0 [g.part, 0x4101]) s
    let s' := { s' with guests := s.guests.filterMap (fun (g : Guest) => g.moved s.carve new) }
    (s'.scrubOffsets ((2046 - max new s.carve) * mib) ((2046 - min new s.carve) * mib), 0)

/-- HOSTED_PARTNER_WINDOW (R221). -/
def execHostedPartnerWindow (r : Req) (gib : Nat) (s : State) : Host.Outcome State Fault Refusal :=
  answer s (s.serveWrite r 0x2300 1 3 (le 2 gib) (fun s => done (s.writeWindow gib)))

/-! ### Module loss over the links (R320) -/

/-- PEER_LOSS_HOLD (R320, R444): every port that links to a peer has been down for the hold. -/
def execPeerLossHold (peer : Nat) (s : State) : Host.Outcome State Fault Refusal :=
  let ports := (List.range 12).filter (fun k => (s.kport k).peer == peer)
  let hold := s.valNat 0xB000 2 * Config.ticksPerMs
  answer s
    (if peer ≤ 15 ∧ !ports.isEmpty ∧
        ports.all (fun k => (s.kport k).state != 2 && (s.kport k).downSince + hold ≤ s.time.ticks) then s.declareLost peer true
     else s)

/-- DECLARE_MODULE_LOST (R320): an operator declares a module lost. -/
def execDeclareModuleLost (r : Req) (address : Nat) (s : State) : Host.Outcome State Fault Refusal :=
  answer s (s.serveWrite r 0xB000 3 2 (le 1 address) (fun s => (s.declareLost address true, some 0)))

end Sys2Proof.Machine
end

