-- ==== Sys2Proof/Machine/Layout.lean ====
section
/-!
DEFINITION. The partition layout (R59 to R62), and the end of a spare's self-test, which a layout commit may wait for
(R62, R315).
-/

namespace Sys2Proof.Machine

open Sys2Proof

/-- The staged layout (R51, R59). -/
def State.staged (s : State) : List Slice :=
  let rows := fun (p : Nat) => s.valNat 0x2110 (p + 1)
  let chans := fun (p : Nat) => s.valNat 0x2120 (p + 1)
  partNumbers.map (fun p =>
    { firstRow := ((List.range p).map rows).sum, rows := rows p, firstCh := ((List.range p).map chans).sum, chans := chans p })

/-- The active layout. -/
def State.active (s : State) : List Slice :=
  partNumbers.map (fun p =>
    let q := s.part p
    if q.state = .unassigned then { firstRow := 0, rows := 0, firstCh := 0, chans := 0 }
    else { firstRow := q.firstRow, rows := q.rows, firstCh := q.firstCh, chans := q.chans })

/-- A layout is valid (R59); the channel total is limited by the usable channels (R246). -/
def State.layoutValid (s : State) (l : List Slice) : Bool :=
  let n := s.valNat 0x2100 2
  1 ≤ n && n ≤ 4 &&
  l.zipIdx.all (fun e =>
    if e.2 < n then 3 ≤ e.1.rows && e.1.rows ≤ 30 && 1 ≤ e.1.chans else e.1.rows == 0 && e.1.chans == 0) &&
  (l.map (·.rows)).sum ≤ 30 && (l.map (·.chans)).sum ≤ s.hbm.usable

/-- What R60 compares of a partition's place: first row, row count, channel count. -/
def Slice.extent (x : Slice) : Nat × Nat × Nat := (x.firstRow, x.rows, x.chans)

/-- The partitions that a layout changes (R60); one of which only the first logical channel moves is not among them
(log 54). -/
def State.changedBy (s : State) (l : List Slice) : List Nat :=
  partNumbers.filter (fun p => decide (l[p]?.map Slice.extent ≠ s.active[p]?.map Slice.extent) &&
    !((l[p]?.map (·.rows)) == some 0 && (s.part p).state == .unassigned))

/-- The owner of a row, and of a logical channel, in a layout. -/
def ownerOfRow (l : List Slice) (r : Nat) : Option Nat := l.findIdx? (fun x => x.firstRow ≤ r && r < x.firstRow + x.rows)
def ownerOfChannel (l : List Slice) (c : Nat) : Option Nat :=
  l.findIdx? (fun x => decide (0 < x.rows) && x.firstCh ≤ c && c < x.firstCh + x.chans)

/-- s with partition p's place in a layout set: Idle, or Unassigned when the layout drops it (R60, R61), signalled on vector 1
(R74). Its scrub counts, and it has never run in this layout (R50). -/
def State.setSlice (s : State) (p : Nat) (x : Slice) : State :=
  let f := fun (q : Part) =>
    { q with
      firstRow := x.firstRow, rows := x.rows, firstCh := x.firstCh, chans := x.chans, ranMode := none, scrubbed := true
      gated := false, rcv := { q.rcv with dirty := false } }
  (s.modPart p f).setPState p (if x.rows = 0 then .unassigned else .idle)

/-- s with the staged layout in force (R60, R61): what changes owner is scrubbed, the clusters of rows that no partition
owns are power-gated (R59). -/
def State.applyLayout (s : State) (l : List Slice) (route : Nat) : State :=
  let old := s.active
  let fles := (List.range 5).map s.fleOwner
  let changed := s.changedBy l
  let rows := (List.range 30).filter (fun r => ownerOfRow old r != ownerOfRow l r)
  let chans := (List.range 31).filter (fun c => ownerOfChannel old c != ownerOfChannel l c)
  let sites := rows.flatMap s.activeSites
  let s := s.scrub sites (chans.flatMap (fun c => s.channelsOf c 1))
  let s := changed.foldl (fun s p => match l[p]? with | some x => s.setSlice p x | none => s) s
  let s := (partNumbers.filter (fun p => !changed.contains p)).foldl (fun s p =>
    match l[p]? with
    | some x => if x.rows = 0 then s else s.modPart p (fun q => { q with firstCh := x.firstCh })
    | none => s) s
  let moved := (List.range 5).filter (fun f => (fles.getD f none) != s.fleOwner f)
  let s := s.scrubWhere (onSites (moved.map (· + 1260))) []
  let s := moved.foldl (fun s f => s.modSite (1260 + f) (fun x => { x with retained := none, resume := none })) s
  let s := rows.foldl (fun s r =>
    (s.activeSites r).foldl (fun s i =>
      s.modSite i (fun x =>
        { x with gated := (ownerOfRow l r).isNone, retained := none, resume := none, cleared := [], mode := 0, record := {}
                 sinceFence := [], nonRepeat := false })) s) s
  { s with layoutGen := s.layoutGen + 1, hbm := { s.hbm with stale := [] } }.logEvent 3 0xFF route (le 4 s.layoutGen ++ le 4 (s.layoutGen + 1))

/-- A CCC update hands off (R366). -/
def State.cccUpdating (s : State) : Bool := s.update.state == 3 && s.update.waiting.isNone && s.valNat 0x9000 2 == 4

/-- Commit of layout l (R59 to R62, R366): it waits for a CCC update to end and for a spare fill in a changed partition, then
every changed partition must be Idle. A commit that waits keeps the layout that was staged when it was written (R53). -/
def State.commitLayout (s : State) (l : List Slice) (r : Option Req) (route : Nat) : State × Option Nat :=
  let changed := s.changedBy l
  if !s.layoutValid l then (s, some 0x1105)
  else if r.isSome && (changed.any (fun p => !(s.part p).rcv.fills.isEmpty) || s.cccUpdating) then
    ({ s with commitWait := r.map (fun x => (x, l)) }, none)
  else if changed.any (fun p => !(s.part p).state.quiet) then (s, some 0x1101)
  else (s.applyLayout l route, some 0)

/-- LAYOUT_COMMIT (R59 to R62); while one waits, another is refused with 0x4102. -/
def State.writeLayout (s : State) (r : Req) : State × Option Nat :=
  if s.commitWait.isSome then (s, some 0x4102) else s.commitLayout s.staged (some r) (Route.code r.route)

/-- LAYOUT_COMMIT (R60). -/
def execLayoutCommit (r : Req) (value : Nat) (s : State) : Host.Outcome State Fault Refusal :=
  answer s (s.serveWrite r 0x2100 1 2 (le 1 value) (fun s => s.writeLayout r))

/-- s with a layout commit that waited for a fill tried again, and its write answered once no fill holds it (R62). -/
def State.retryLayout (s : State) : State :=
  match s.commitWait with
  | none => s
  | some (r, l) =>
    match ({ s with commitWait := none }).commitLayout l (some r) (Route.code r.route) with
    | (t, none) => t
    | (t, some st) =>
      let t := if st = 0 then t.commitWrite (Route.code r.route) 0x2100 1 (le 1 1) else t
      t.respond r 2 0x2100 1 st []

/-- SPARE_SELF_TEST_DONE (R315, R317): the spare takes the failed site's place, or the next one is tried. -/
def execSpareSelfTestDone (site : Nat) (passed : Bool) (s : State) : Host.Outcome State Fault Refusal :=
  answer s ((s.spareTested site passed).retryLayout)

end Sys2Proof.Machine
end

