-- ==== Sys2Proof/Machine/Timebase.lean ====
section
/-!
DEFINITION. The timebase and its discipline (R90 to R95), scheduled counter snapshots (R110 to R112), and what reaches the
module over the Timebase and Fence Bus (R105, R309, R310, R320, R323, R325, R447 to R455).
-/

namespace Sys2Proof.Machine

open Sys2Proof

/-! ### Snapshots -/

/-- Where the shadow of a core's fault counter stands (R140). -/
def coreShadow (site core : Nat) : Nat := 0x1000000 + site * 272 + core

/-- Core columns of a site retired since delivery (R140). -/
def Site.retiredColumns (x : Site) : Nat := ((List.range 34).filter (fun c => x.column c == 2)).length

/-- Where the shadows of a path's replays and retrains stand (R111, R343). -/
def pathShadow (key which : Nat) : Nat := 0x4000000 + 2 * key + which

/-- First-Layer Engine f is power-gated: no partition owns it, or its partition's clusters are gated (R37, R420). -/
def State.fleGated (s : State) (f : Nat) : Bool :=
  match s.fleOwner f with
  | some p => (s.part p).gated
  | none => true

/-- The counter tables that a snapshot latches: sites flagged gated, absent or invalid, and gated First-Layer Engines, carry
their source code under subindex 0 (R111, R391); with them the replay and retrain counts of the paths that have no block
(R343). -/
def State.latched (s : State) : Tab Nat :=
  let sites := List.range 1260
  let filling := s.taken
  let code := fun (i : Nat) =>
    if filling.contains i then 4 else if s.siteSt i != 0 then 3 else if (s.site i).gated || (s.partOfRow (i / 42)).isNone then 2 else 1
  let held := s.ctr.filter (fun e => !(0x6100 ≤ e.1 / 256 && e.1 / 256 < 0x6100 + 1260 && 3 ≤ code (e.1 / 256 - 0x6100)))
  held ++ s.boot.pathReplays.map (fun e => (pathShadow e.1 0, e.2)) ++ s.boot.pathRetrains.map (fun e => (pathShadow e.1 1, e.2)) ++
    ((List.range 5).filter s.fleGated).map (fun f => ((0x6D00 + f) * 256, 2)) ++ (sites.filter (fun i => code i != 1)).map (fun i => ((0x6100 + i) * 256, code i)) ++
    (s.sites.filter (fun e => decide (code e.1 < 3))).flatMap (fun e =>
      ((0x6100 + e.1) * 256 + 14, e.2.retiredColumns) :: e.2.coreFaults.map (fun f => (coreShadow e.1 f.1, f.2)))

/-- s with an armed snapshot latched and left in a state of R95. -/
def State.latch (s : State) (held : Nat) : State :=
  { s with
    shadow := s.latched
    time := { s.time with snapState := held, snapSeq := (s.time.snapSeq + 1) % 4294967296 } }

/-- SNAPSHOT_LATCH (R111): the timebase has reached T. -/
def execSnapshotLatch (s : State) : Host.Outcome State Fault Refusal :=
  answerTime s (if s.time.snapState = 1 ∧ s.time.snapTime ≤ s.now then s.latch 2 else s)

/-- A write of a snapshot time (R110): at least 10 µs and at most 60 s ahead, with no snapshot armed or held. -/
def State.writeSnapshot (s : State) (t : Nat) : State × Nat :=
  if t < s.now + 10000 ∨ s.now + 60000000000 < t then (s, 0x3105)
  else if s.time.snapState ≠ 0 then (s, 0x4104)
  else ({ s with time := { s.time with snapState := 1, snapTime := t } }, 0)

/-- SNAPSHOT_TIME (R110). -/
def execSnapshotTime (r : Req) (t : Nat) (s : State) : Host.Outcome State Fault Refusal :=
  answerTime s (s.serveWrite r 0x6000 0x10 8 (le 8 t) (fun s => done (s.writeSnapshot t)))

/-- A write of snapshot release (R95, R112). -/
def State.releaseSnapshot (s : State) : State :=
  { s with shadow := [], time := { s.time with snapState := 0 } }

/-- SNAPSHOT_RELEASE (R112). -/
def execSnapshotRelease (r : Req) (value : Nat) (s : State) : Host.Outcome State Fault Refusal :=
  answerTime s (s.serveWrite r 0x6000 0x12 2 (le 1 value) (fun s => (s.releaseSnapshot, some 0)))

/-! ### The timebase -/

/-- s with the timebase stepped to t: counted and logged; deadlines that a forward step passes over are missed, and an armed
snapshot is latched (R92, R93, R111). -/
def State.stepTime (s : State) (t : Nat) : State :=
  let old := s.now
  let s := { s with time := { s.time with ps := 1000 * t, steps := (s.time.steps + 1) % 4294967296, slewPs := 0, behindRun := 0 } }
  let s := s.logEvent 5 0xFF 4 (le 8 old ++ le 8 t)
  let s := if old < t then s.missAll else s
  if s.time.snapState = 1 ∧ s.time.snapTime ≤ t then s.latch 3 else s

/-- A write of Timebase set (R92, R95): master only, every partition Idle or Unassigned. The status on a module that is not
the master is not stated: log 95. -/
def State.writeTimebase (s : State) (t : Nat) : State × Nat :=
  if !s.tfb.master || !s.allQuiet then (s, 0x1101) else (s.stepTime t, 0)

/-- TIMEBASE_SET (R92). -/
def execTimebaseSet (r : Req) (t : Nat) (s : State) : Host.Outcome State Fault Refusal :=
  answerTime s (s.serveWrite r 0x6000 5 8 (le 8 t) (fun s => done (s.writeTimebase t)))

/-- The state of the timebase after a sync word that shows an offset in ns, and no step (R91): 16 consecutive words within
±2 ns lock an acquiring module. The frequency correction is learned anew, of at most 200 ppm (log 88). -/
def TimeState.follow (t : TimeState) (offset : Int) : TimeState :=
  let near := decide (-2 ≤ offset ∧ offset ≤ 2)
  let run := if near then t.inWindow + 1 else 0
  let st := if t.state = 0 ∨ t.state = 3 then 1 else t.state
  { t with
    offset := offset, missed := 0, inWindow := run, state := if st = 1 ∧ 16 ≤ run then 2 else st
    corr := max (-8) (min 8 (Config.learned t.corr offset)) }

/-- s with a sync word of the master taken (R91, R92). A word that ends Free-run is judged in Acquiring, one that ends
Holdover as in Holdover (log 60). -/
def State.takeSync (s : State) (t : Nat) : State :=
  let comp := s.valNat 0xA100 3
  let offset : Int := Int.ofNat s.now - Int.ofNat comp - Int.ofNat t
  let old := s.time.state
  let s := { s with time := s.time.follow offset }
  let behind := decide (offset < -1000)
  let run := if behind then s.time.behindRun + 1 else 0
  let s := { s with time := { s.time with behindRun := run } }
  if behind then
    if old = 0 ∨ old = 1 ∨ 4 ≤ run then
      let s := s.stepTime (t + comp)
      { s with time := { s.time with state := 1, inWindow := 0 } }
    else s
  else if 1000 < offset ∧ s.allQuiet then s.stepTime (t + comp)
  else { s with time := { s.time with slewPs := 1000 * offset } }

/-- SYNC (R91, R92): a word of another module is followed. The master follows no one, and a word of its own is the one that it
sends, with its time. -/
def execSync (source t : Nat) (s : State) : Host.Outcome State Fault Refusal :=
  answerTime s
    (if source = s.address then (if s.tfb.master then s.tfbSend 1 [s.now] else s)
     else if s.tfb.master then s
     else { s with tfb := { s.tfb with clockLost := none } }.takeSync t)

/-- HOLDOVER (R91): 4 consecutive sync words are missing while the bus clock is valid. -/
def execHoldover (s : State) : Host.Outcome State Fault Refusal :=
  answerTime s
    (if s.tfb.master ∨ s.time.state = 0 then s else { s with time := { s.time with state := 3, missed := 4, inWindow := 0 } })

/-- s with the open group epoch of partition p broken (R105): waits on it complete with a status. -/
def State.breakGroup (s : State) (p status : Nat) : State :=
  s.modPart p (fun q =>
    { q with fences := { q.fences with broken := status, brokenTo := q.nextList, brokenAt := q.fences.closedAt (scopeKey 5 0) } })

/-- The partitions that are members of a barrier group. -/
def State.members (s : State) (g : Nat) : List Nat := partNumbers.filter (fun p => s.grouped p && s.group p == g)

/-- FREE_RUN (R91, R105, R455): no valid bus clock for 1 µs. The group epochs that were open are broken with 0x3104. -/
def execFreeRun (s : State) : Host.Outcome State Fault Refusal :=
  answerTime s
    (if s.tfb.master ∨ s.time.state = 0 then s
     else
       let s := { s with
         time := { s.time with state := 0, inWindow := 0, behindRun := 0, missed := 0, corr := 0 }
         tfb := { s.tfb with clockLost := some s.time.ticks } }
       (partNumbers.filter s.grouped).foldl (fun s p =>
         if (s.part p).fences.broken = 0x3103 then s else s.breakGroup p 0x3104) s)

/-- MASTER_TAKEOVER (R91, R455): the next eligible module drives the bus clock and goes on from its own counter; the master
is always Locked. -/
def execMasterTakeover (address : Nat) (s : State) : Host.Outcome State Fault Refusal :=
  answerTime s
    (if address = s.address then
       (if s.tfb.master ∨ s.valNat 0xA100 2 ≠ 0 then s
        else { s with
          tfb := { s.tfb with master := true, clockLost := none }
          time := { s.time with state := 2, offset := 0, slewPs := 0, missed := 0, behindRun := 0 } })
     else if s.tfb.master then
       { s with
         tfb := { s.tfb with master := false }
         time := { s.time with state := 1, inWindow := 0 } }
     else { s with tfb := { s.tfb with clockLost := none } })

/-! ### Barrier slots -/

/-- Whether member p drives not arrived in its slot: its arrival for the open epoch is incomplete, or it is in spare-fill
recovery (R105, R449). -/
def State.notArrived (s : State) (p : Nat) : Bool :=
  let q := s.part p
  let key := scopeKey 5 0
  let c := q.fences.closedAt key
  !q.fences.closable key c ((c + 1) % 4294967296) || !q.rcv.fills.isEmpty || q.rcv.rollback.isSome || q.fences.broken == 0x3103

/-- s with member p's group epoch closed (R99, R449), which is the barrier of the reductions that wait on it (R289). -/
def State.closeGroup (s : State) (p : Nat) : State :=
  let key := scopeKey 5 0
  let f := (s.part p).fences
  let e := (f.closedAt key + 1) % 4294967296
  (s.modFences p (fun f => f.close key e s.now s.time.ticks)).atReduction p key f

/-- s with member p's open group epoch broken by its slot (R105): a member whose reclaim was announced has left, which the
others treat as its loss (R325). -/
def State.slotBroken (s : State) (p : Nat) : State :=
  let s := s.breakGroup p 0x3103
  match (s.part p).rcv.departing with
  | some m => (s.modRcv p (fun r => { r with departing := none })).declareLost m true
  | none => s

/-- s with the slot of group g presented (R449). The lines are those the other members drive; the results are the
master's, which this module gives itself when it is the master. -/
def State.presentSlot (s : State) (g : Nat) (d0 d1 d2 closed broken : Bool) : State :=
  if !s.tfb.master && !s.busServes || 5 < s.valNat 0xA100 3 then s
  else
    let ps := s.members g
    let leave := s.tfb.leaving.contains g
    let own0 := ps.any s.notArrived
    let odd := fun p => (s.part p).fences.closedAt (scopeKey 5 0) % 2 == 0
    let own1 := leave || ps.any (fun p => !odd p)
    let own2 := leave || ps.any odd
    let s := if own0 || own1 || own2 then
        s.out (.tfb 0x101 [g, if own0 then 1 else 0, if own1 then 1 else 0, if own2 then 1 else 0])
      else s
    let s := { s with tfb := { s.tfb with leaving := s.tfb.leaving.filter (· != g) } }
    let n0 := d0 || own0
    let n1 := d1 || own1
    let n2 := d2 || own2
    let hit := if s.tfb.master then n1 && n2 else broken
    let shut := if s.tfb.master then !n0 && (n1 != n2) else closed && !broken && !own0
    let s := if s.tfb.master then s.out (.tfb 0x102 [g, if shut then 1 else 0, if hit then 1 else 0]) else s
    if hit then ps.foldl (fun s p => s.slotBroken p) s
    else if shut then (ps.foldl (fun s p => (s.closeGroup p).progress p) s).pumpColls
    else s

/-- BARRIER_SLOT (R105, R449). -/
def execBarrierSlot (group : Nat) (notArrived even odd : Bool) (closed broken : Bool) (s : State) :
    Host.Outcome State Fault Refusal :=
  answer s (s.presentSlot group notArrived even odd closed broken)

/-! ### Messages -/

/-- Ticks of two superframes: a copy of a message comes within them (R448, R454). -/
def superframes : Nat := 205

/-- s with a message taken by f, unless it is this module's own, or a copy of one received from the same source in the
previous superframe (R454). -/
def State.message (s : State) (source : Nat) (fields : List Nat) (f : State → State) : State :=
  let recent := s.tfb.seen.filter (fun m => s.time.ticks ≤ m.2 + superframes)
  let m := source :: fields
  if source = s.address ∨ recent.any (fun e => e.1 == m) then s
  else f ({ s with tfb := { s.tfb with seen := (m, s.time.ticks) :: recent } }.stampTfb (fields.headD 0) (source :: fields.drop 1))

/-- The partitions that a mask names. -/
def maskParts (mask : Nat) : List Nat := partNumbers.filter (bit mask)

/-- RECLAIM_NOTICE (R323): a reclaim of the partitions of the mask, if the notice names this module. -/
def execReclaimNotice (source modules partitions : Nat) (s : State) : Host.Outcome State Fault Refusal :=
  answer s (s.message source [2, modules, partitions] (fun s =>
    if bit modules s.address then (maskParts partitions).foldl (fun s p => s.reclaim p true) s else s))

/-- RECLAIM_NOTICE_SEND (R453): one RECLAIM message is queued. -/
def execReclaimNoticeSend (r : Req) (modules partitions : Nat) (s : State) : Host.Outcome State Fault Refusal :=
  answer s (s.serveWrite r 0xA100 5 4 (le 4 (modules + 65536 * partitions)) (fun s => (s.tfbSend 2 [modules, partitions], some 0)))

/-- FAULT_BROADCAST (R320): a module that broadcasts a fault of its own, or that a broadcast names as module-fatal, is
lost (log 61). -/
def execFaultBroadcast (source status : Nat) (fatal : Bool) (named : Nat) (s : State) : Host.Outcome State Fault Refusal :=
  answer s (s.message source [3, status, if fatal then 1 else 0, named] (fun s =>
    if named = source then s.declareLost source true
    else if fatal then s.declareLost named true else s))

/-- MODULE_LOST (R320): another member has declared the loss. -/
def execModuleLost (source lost : Nat) (s : State) : Host.Outcome State Fault Refusal :=
  answer s (s.message source [4, lost] (fun s => s.declareLost lost false))

/-- LANDED (R309). -/
def execLanded (source group epoch partition : Nat) (s : State) : Host.Outcome State Fault Refusal :=
  answer s (s.message source [5, group, epoch, partition] (fun s =>
    (s.members group).foldl (fun s p => s.groupLanded p source epoch) s))

/-- ROLLBACK (R310): this member rolls back to its own committed sachet of the epoch. -/
def execRollbackMsg (source group epoch : Nat) (s : State) : Host.Outcome State Fault Refusal :=
  answer s (s.message source [6, group, epoch] (fun s =>
    (s.members group).foldl (fun s p =>
      if (s.part p).state.works && (s.part p).state != .reclaiming then s.beginRollback p 0x6402 (some epoch) else s) s))

/-- GROUP_RECLAIM (R325): each member forces its next sachet point; the one that asked leaves once its sachet lands. -/
def execGroupReclaim (source group partition : Nat) (s : State) : Host.Outcome State Fault Refusal :=
  answer s (s.message source [7, group, partition] (fun s =>
    (s.members group).foldl (fun s p => s.modRcv p (fun r => { r with force := true, departing := some source })) s))

end Sys2Proof.Machine
end

