-- ==== Sys2Proof/Machine/Security.lean ====
section
/-!
DEFINITION. Security: the state of R393 and its changes (R395), the key vault (R406 to R409), the SPDM responder (R403 to
R405), the debug port (R415), and accumulators under debug visibility (R55, R173).
-/

namespace Sys2Proof.Machine

open Sys2Proof

/-! ### Keys -/

/-- Every key held: those of the vault and the Caddy port key (R408). -/
def State.allKeys (s : State) : List Key := s.sec.keys ++ s.nor.portKey.toList

/-- Streams that run under a stream key of a partition (R256). -/
def State.keyedStreams (s : State) (k : Key) : List Nat :=
  (s.boundStreams k.part).filter (fun n => (s.stream n).encrypted && (s.stream n).keyHandle == k.handle)

/-- s with the keys that sel picks erased: streams under an erased stream key take an abort close with END_NOTICE 0x5104
(R408). -/
def State.eraseKeys (s : State) (sel : Key → Bool) : State :=
  let gone := s.allKeys.filter sel
  let s := { s with
    sec := { s.sec with keys := s.sec.keys.filter (fun k => !sel k) }
    nor := { s.nor with portKey := s.nor.portKey.filter (fun k => !sel k) } }
  (gone.filter (fun k => k.ty == 1)).foldl (fun s k => (s.keyedStreams k).foldl (fun s n => s.abortClose n 0x5104) s) s

/-- s after a measurement changed (R406): open SPDM sessions end; with Caddy 0x8000:05 set, stream, weight and store keys
are erased. -/
def State.remeasured (s : State) : State :=
  let s := { s with sec := { s.sec with sessions := [] } }
  if s.valNat 0x8000 5 = 1 then s.eraseKeys (fun k => k.ty ≤ 3) else s

/-- KEY_ERASE (R394, R408): one handle, or with 0xFFFFFFFF every key. -/
def execKeyErase (r : Req) (handle : Nat) (s : State) : Host.Outcome State Fault Refusal :=
  answer s (s.serveWrite r 0x8100 3 4 (le 4 handle) (fun s =>
    (s.eraseKeys (fun k => handle == 0xFFFFFFFF || k.handle == handle), some 0)))

/-- KEY_LIFETIME_EXPIRED (R408). -/
def execKeyLifetimeExpired (handle : Nat) (s : State) : Host.Outcome State Fault Refusal :=
  answer s (s.eraseKeys (fun k => k.handle == handle && (k.lapse.map (fun t => decide (t ≤ s.time.ticks))).getD false))

/-! ### The security state -/

/-- s in a security state, logged (R395). On entry to Sealed unencrypted streams are closed with 0x5101 (R65, R273). -/
def State.setSecState (s : State) (new : Nat) : State :=
  let old := s.secState
  let s := { s with secState := new }.logEvent 4 0xFF 4 (le 1 old ++ le 1 new)
  let s : State := if new = 2 then
      (partNumbers.flatMap s.boundStreams).foldl (fun s n => if (s.stream n).encrypted then s else s.abortClose n 0x5101) s
    else s
  let s := if new = 0 then s.eraseKeys (fun k => k.ty ≤ 3) else s
  s.remeasured

/-- A request for a security state (R395): what it does and its status. -/
def State.requestSecState (s : State) (v : Nat) : State × Nat :=
  if v = s.secState then (s, 0)
  else if s.secState = 2 then (s, 0x1103)
  else if s.secState = 0 then
    (if v = 2 then (s, 0x1104)
     else if s.sec.debugOpen then (s, 0x4102)
     else if s.valNat 0x2200 1 ≠ 0 then (s, 0x1102)
     else (s.setSecState 1, 0))
  else if v = 2 then (if s.nor.trust.isNone then (s, 0x5101) else (s.setSecState 2, 0))
  else if partNumbers.all (fun p => (s.part p).state.quiet) then (s.setSecState 0, 0) else (s, 0x1101)

/-- SECURITY_STATE_REQUEST (R395). -/
def execSecurityStateRequest (r : Req) (value : Nat) (s : State) : Host.Outcome State Fault Refusal :=
  answer s (s.serveWrite r 0x8000 2 2 (le 1 value) (fun s => done (s.requestSecState value)))

/-- DEBUG_SESSION_OPEN (R415): in Open with the port enabled; the flag in measurement 9 stays until the next cold start. -/
def execDebugSessionOpen (s : State) : Host.Outcome State Fault Refusal :=
  answer s
    (if s.secState ≠ 0 ∨ s.valNat 0x8000 6 ≠ 1 then s
     else
       let first := !s.sec.debugFlag
       let s := { s with sec := { s.sec with debugOpen := true, debugFlag := true } }
       if first then s.remeasured else s)

/-- DEBUG_SESSION_CLOSE (R395). -/
def execDebugSessionClose (s : State) : Host.Outcome State Fault Refusal :=
  answer s { s with sec := { s.sec with debugOpen := false } }

/-! ### Accumulator visibility -/

/-- s with every accumulator cleared (R55). -/
def State.scrubAccumulators (s : State) : State :=
  s.scrubWhere (fun k => decide (planePlace 0 0 ≤ k ∧ (k - planePlace 0 0) / 268435456 < 1260) &&
    decide (accOff ≤ (k - planePlace 0 0) % 268435456 ∧ (k - planePlace 0 0) % 268435456 < bufOff)) []

/-- A write of accumulator visibility (R55). -/
def State.writeVisibility (s : State) (v : Nat) : State × Nat :=
  if v = 1 then
    (if s.secState = 1 then (s, 0x5101) else if !s.allQuiet then (s, 0x1101) else (s, 0))
  else if s.valNat 0x2200 1 = 1 then (s.scrubAccumulators, 0) else (s, 0)

/-- ACCUMULATOR_VISIBILITY (R55). -/
def execAccumulatorVisibility (r : Req) (value : Nat) (s : State) : Host.Outcome State Fault Refusal :=
  answer s (s.serveWrite r 0x2200 1 2 (le 1 value) (fun s => done (s.writeVisibility value)))

/-- A site draws no power: gated, spare or failed, or of an unassigned row (R419). -/
def State.isGated (s : State) (i : Nat) : Bool :=
  (s.site i).gated || s.siteSt i != 0 || (s.partOfRow (i / 42)).isNone

/-- Place of byte 0 of the tile that Debug tile select names (R173). -/
def State.debugTile (s : State) : Nat :=
  let v := s.valNat 0x2200 0x10
  accPlace (bits v 15 8 * 42 + bits v 7 0) (bits v 18 16) (bits v 24 19) (bits v 30 25) 0

/-- Site that Debug tile select names (R173). -/
def State.debugSite (s : State) : Nat := bits (s.valNat 0x2200 0x10) 15 8 * 42 + bits (s.valNat 0x2200 0x10) 7 0

/-- A read of Debug tile data (R173): 0x1102 while visibility is mapped. A power-gated site's memory is woken for the access and
reads +0 (R171). -/
def State.readDebug (s : State) : Nat × List Byte :=
  if s.valNat 0x2200 1 = 0 then (0x1102, [])
  else if s.isGated s.debugSite then (0, zeros 1024)
  else (0, (List.range 1024).map (fun i => Mem.get s.mem (s.debugTile + i)))

/-- A write of Debug tile data (R173); a power-gated memory does not keep it. -/
def State.writeDebug (s : State) (bs : List Byte) : State × Nat :=
  if s.valNat 0x2200 1 = 0 then (s, 0x1102)
  else if s.isGated s.debugSite then (s, 0)
  else ({ s with mem := Mem.putAll s.mem (bs.zipIdx.map (fun e => (s.debugTile + e.2, e.1))) }, 0)

/-- DEBUG_TILE_DATA (R173): a write of the selected tile, or a read of it. -/
def execDebugTileData (r : Req) (write : Option (List Byte)) (s : State) : Host.Outcome State Fault Refusal :=
  answer s
    (match write with
     | some bs => s.serveWrite r 0x2200 0x11 10 bs (fun s => done (s.writeDebug bs))
     | none => s.serve r 1 0x2200 0x11 (fun s => (s, some s.readDebug)))

/-! ### Measurements -/

/-- Measurement block i (R403). -/
def State.measurement (s : State) (i : Nat) : List Byte :=
  if i = 1 then Config.romDigest
  else if 2 ≤ i ∧ i ≤ 5 then ((Tab.find s.nor.active (i - 1)).map (fun x : Image => x.digest)).getD (Config.imageDigest (i - 1))
  else if i = 6 then Config.factoryDigest s.factory.version
  else if i = 7 then (s.nor.config.map (fun c => c.2.2)).getD (zeros 48)
  else if i = 8 then (s.nor.trust.map Config.sha384).getD (zeros 48)
  else if i = 9 then
    Config.sha384 (le 1 s.secState ++ s.val 0x8000 3 ++ s.val 0x8000 4 ++ s.val 0x8000 5 ++ s.val 0x8000 6 ++
      s.val 0xA300 1 ++ s.val 0xA300 2 ++ s.val 0xA300 3 ++ le 1 (if s.sec.debugFlag then 1 else 0))
  else Config.sha384 ((List.range 8).flatMap (fun c => le 4 (Tab.get s.nor.counters 0 c)))

/-! ### The SPDM responder -/

/-- The responder answers: SEC runs and start-up has reached it (R355, R404, R469). -/
def State.spdmUp (s : State) : Bool := !s.boot.secFailed && s.boot.step == 0x0A

/-- s with an SPDM response sent; on a Caddy 0x8200 route (sources 3, 4, 5) the response entry keeps it (R394, R405). -/
def State.spdmSend (s : State) (source code : Nat) (body : List Byte) : State :=
  let s := if 3 ≤ source ∧ source ≤ 5 then
      { s with sec := { s.sec with spdmOut := Tab.set s.sec.spdmOut (source - 2) ((le 1 code ++ body).take 1024) } }
    else s
  s.out (.spdm source code body)

/-- s with a request answered by f, which gives the response code and the part of the body that the spec fixes; the rest is
the standard's. A malformed request gets ERROR (log 63). -/
def State.spdm (s : State) (m : Spdm) (f : State → State × Option (Nat × List Byte)) : State :=
  if !s.spdmUp then s
  else if !m.ok then s.spdmSend m.source 0x7F []
  else
    match f s with
    | (t, some (code, body)) => t.spdmSend m.source code (body ++ Config.spdmBody code m.body)
    | (t, none) => t.spdmSend m.source 0x7F []

/-- The session a request was sent in. -/
def State.session (s : State) (m : Spdm) : Option Session :=
  s.sec.sessions.find? (fun x => x.source == m.source && m.session == some x.id)

/-- An answer that changes nothing. -/
def State.spdmPlain (s : State) (m : Spdm) (code : Nat) : State := s.spdm m (fun s => (s, some (code, [])))

/-- SPDM request codes whose requests change nothing (R404; log 63). -/
def plainRequests : List Nat := [0x81, 0x82, 0x83, 0x84, 0x86, 0xE0, 0xE1, 0xE3]

/-- s with an SPDM message written to the request entry of a route (R394, R405): a request that changes nothing is answered;
requests that do come as commands of their own, and here get ERROR (log 63). -/
def State.spdmWrite (s : State) (route : Nat) (bs : List Byte) : State :=
  let code := field bs 1 1
  if !s.spdmUp then s
  else if plainRequests.contains code then s.spdmSend (route + 2) (code - 0x80) (Config.spdmBody (code - 0x80) bs)
  else s.spdmSend (route + 2) 0x7F []

/-- GET_VERSION (R404). -/
def execGetVersion (m : Spdm) (s : State) : Host.Outcome State Fault Refusal := answer s (s.spdmPlain m 0x04)

/-- GET_CAPABILITIES (R404). -/
def execGetCapabilities (m : Spdm) (s : State) : Host.Outcome State Fault Refusal := answer s (s.spdmPlain m 0x61)

/-- NEGOTIATE_ALGORITHMS (R404). -/
def execNegotiateAlgorithms (m : Spdm) (s : State) : Host.Outcome State Fault Refusal := answer s (s.spdmPlain m 0x63)

/-- GET_DIGESTS (R404). -/
def execGetDigests (m : Spdm) (s : State) : Host.Outcome State Fault Refusal := answer s (s.spdmPlain m 0x01)

/-- GET_CERTIFICATE (R402, R404): slot 0 only. -/
def execGetCertificate (m : Spdm) (slot offset length : Nat) (s : State) : Host.Outcome State Fault Refusal :=
  answer s (s.spdm m (fun s => (s, if slot = 0 then some (0x02, le 2 offset ++ le 2 length) else none)))

/-- CHALLENGE (R401, R404): a module with no device root cannot attest. -/
def execChallenge (m : Spdm) (slot : Nat) (s : State) : Host.Outcome State Fault Refusal :=
  answer s (s.spdm m (fun s => (s, if slot = 0 ∧ s.boot.deviceRoot then some (0x03, []) else none)))

/-- GET_MEASUREMENTS (R403, R404): index 0xFF asks for every block. -/
def execGetMeasurements (m : Spdm) (index : Nat) (signed : Bool) (s : State) : Host.Outcome State Fault Refusal :=
  answer s (s.spdm m (fun s =>
    (s, if signed && !s.boot.deviceRoot then none
        else if index = 0xFF then some (0x60, ((List.range 10).map (· + 1)).flatMap s.measurement)
        else if 1 ≤ index ∧ index ≤ 10 then some (0x60, s.measurement index) else none)))

/-- KEY_EXCHANGE (R404): slot 0, and at most 4 sessions at once; the lowest free session number is taken. -/
def execKeyExchange (m : Spdm) (slot : Nat) (s : State) : Host.Outcome State Fault Refusal :=
  answer s (s.spdm m (fun s =>
    if slot ≠ 0 ∨ !s.boot.deviceRoot ∨ 4 ≤ s.sec.sessions.length then (s, none)
    else
      let id := ((List.range 5).find? (fun i => !s.sec.sessions.any (fun x => x.id == i))).getD 4
      ({ s with sec := { s.sec with sessions := { source := m.source, id := id } :: s.sec.sessions } }, some (0x64, le 1 id))))

/-- s with the session of a request changed, and the response code; without a session an ERROR. -/
def State.inSession (s : State) (m : Spdm) (code : Nat) (f : Session → Option Session) : State :=
  s.spdm m (fun s =>
    match s.session m with
    | none => (s, none)
    | some x =>
      ({ s with sec := { s.sec with
          sessions := (f x).toList ++ s.sec.sessions.filter (fun y => !(y.source == x.source && y.id == x.id)) } }, some (code, [])))

/-- FINISH (R404, R407). -/
def execFinish (m : Spdm) (s : State) : Host.Outcome State Fault Refusal :=
  answer s (s.inSession m 0x65 (fun x => some { x with done := true, trusted := m.mutualAuth && s.nor.trust.isSome }))

/-- KEY_UPDATE (R404). -/
def execKeyUpdate (m : Spdm) (s : State) : Host.Outcome State Fault Refusal := answer s (s.inSession m 0x69 some)

/-- HEARTBEAT (R404). -/
def execHeartbeat (m : Spdm) (s : State) : Host.Outcome State Fault Refusal := answer s (s.inSession m 0x68 some)

/-- END_SESSION (R404). -/
def execEndSession (m : Spdm) (s : State) : Host.Outcome State Fault Refusal := answer s (s.inSession m 0x6C (fun _ => none))

/-- CHUNK_GET (R404, R405). -/
def execChunkGet (m : Spdm) (handle chunk : Nat) (s : State) : Host.Outcome State Fault Refusal :=
  answer s (s.spdm m (fun s => (s, some (0x06, le 1 handle ++ le 2 chunk))))

/-- CHUNK_SEND (R404, R405): the chunks of a large request are gathered; with the last one the request is whole. -/
def execChunkSend (m : Spdm) (handle chunk : Nat) (last : Bool) (s : State) : Host.Outcome State Fault Refusal :=
  answer s (s.spdm m (fun s =>
    let held := if chunk = 0 then [] else Tab.get s.sec.chunksIn [] m.source
    let c := if last then Tab.del s.sec.chunksIn m.source else Tab.set s.sec.chunksIn m.source (held ++ m.body)
    ({ s with sec := { s.sec with chunksIn := c } }, some (0x05, le 1 handle ++ le 2 chunk))))

/-! ### Key delivery (R407) -/

/-- A session whose requester is authenticated to a broker root. -/
def State.broker (s : State) (m : Spdm) : Bool := ((s.session m).map (fun x => x.done && x.trusted)).getD false

/-- The fields of a delivery are in range (R407, R408). -/
def keyFieldsOk (ty part handle : Nat) : Bool :=
  (1 ≤ ty && ty ≤ 4) && (1 ≤ handle && handle ≤ 0xFFFFFFFE) && (if ty = 4 then part == 0xFF else part ≤ 3)

/-- Status of a delivery (R407). -/
def State.deliverStatus (s : State) (m : Spdm) (ty part handle : Nat) : Nat :=
  let st := (s.part part).state
  let held := s.allKeys.filter (fun k => k.handle == handle)
  if !keyFieldsOk ty part handle then 0x1104
  else if ty ≠ 4 ∧ s.secState = 0 then 0x5101
  else if !s.broker m then 0x5101
  else if ty ≠ 4 ∧ (st = .scrubbing ∨ st = .reclaiming ∨ st = .unassigned) then 0x1101
  else if held.any (fun k => k.ty != ty || k.part != part) || (held.isEmpty && 1024 ≤ s.allKeys.length) then 0x4102
  else 0

/-- KEY_DELIVER (R407, R408): the key is stored, or replaces the one held. The Caddy port key is kept in the NOR flash. -/
def execKeyDeliver (m : Spdm) (ty partition handle lifetime : Nat) (key : List Byte) (s : State) :
    Host.Outcome State Fault Refusal :=
  answer s (s.spdm m (fun s =>
    let st := s.deliverStatus m ty partition handle
    let k : Key :=
      { handle := handle, ty := ty, part := partition, key := padTo 32 key
        lapse := if lifetime = 0 then none else some (s.time.ticks + lifetime * 1000 * Config.ticksPerMs) }
    let s : State := if st ≠ 0 then s
      else if ty = 4 then { s with nor := { s.nor with portKey := some k } }
      else { s with sec := { s.sec with keys := s.sec.keys.filter (fun x => x.handle != handle) ++ [k] } }
    (s, some (0x7E, le 2 st))))

/-- KEY_REVOKE (R407, R408). -/
def execKeyRevoke (m : Spdm) (ty partition handle : Nat) (s : State) : Host.Outcome State Fault Refusal :=
  answer s (s.spdm m (fun s =>
    let hit := fun (k : Key) => k.handle == handle && k.ty == ty && k.part == partition
    if !s.broker m then (s, some (0x7E, le 2 0x5101))
    else if !s.allKeys.any hit then (s, some (0x7E, le 2 0x5104))
    else (s.eraseKeys hit, some (0x7E, le 2 0))))

/-- IDE_KM (R409, R410): over a session on function 0's DOE (source 2), 8 streams with key sets 0 and 1. -/
def execIdeKm (m : Spdm) (stream keySet : Nat) (key : List Byte) (s : State) : Host.Outcome State Fault Refusal :=
  answer s (s.spdm m (fun s =>
    if m.source ≠ 2 ∨ !((s.session m).map (fun x => x.done)).getD false ∨ 8 ≤ stream ∨ 2 ≤ keySet then (s, none)
    else
      ({ s with sec := { s.sec with
          ide := (stream, keySet, key) :: s.sec.ide.filter (fun e => !(e.1 == stream && e.2.1 == keySet)) } }, some (0x7E, []))))

end Sys2Proof.Machine
end

