-- ==== Sys2Proof/Machine/Power.lean ====
section
/-!
DEFINITION. Power, clocks and heat: the cap and its classes (R66, R417 to R422), the governor (R423, R424), sensors and
throttling (R385, R425 to R427), gating (R419, R420).
-/

namespace Sys2Proof.Machine

open Sys2Proof

/-! ### Operating points -/

/-- Band voltage in mV of an operating point (R418). -/
def pointVolt (x : Nat) : Nat := if x = 0 then 800 else if x = 1 then 750 else if x = 2 then 700 else 650

/-- The clusters of partition p that run: awake, in a partition that holds work (R419). -/
def State.runningSites (s : State) (p : Nat) : List Nat :=
  if (s.part p).state.works then (s.partSites p).filter (fun i => !(s.site i).gated) else []

/-- Class of a partition under the cap (R66): 0 T, 1 SB, 2 SL and any that is Reclaiming. -/
def State.capClass (s : State) (p : Nat) : Nat :=
  if (s.part p).state = .reclaiming then 2 else (s.part p).mode

/-- The running clusters of a class. -/
def State.classSites (s : State) (c : Nat) : List Nat :=
  (partNumbers.filter (fun p => s.capClass p == c)).flatMap s.runningSites

/-- Every running cluster. -/
def State.allRunning (s : State) : List Nat := partNumbers.flatMap s.runningSites

/-- A class is at its floor: no cluster of it can be stretched further (R421). -/
def State.atFloor (s : State) (c : Nat) : Bool :=
  (s.classSites c).all (fun i => kMax (s.siteClock i) ≤ (s.site i).k)

/-! ### The cap -/

/-- Floor of k times an F32 value; 0 below zero and for what is no number. -/
def scaleF32 (k : Nat) (v : F32) : Nat :=
  match ofF32 v.toNat with
  | .fin false m e => if 0 ≤ e then k * m * 2 ^ e.toNat else k * m / 2 ^ (-e).toNat
  | _ => 0

/-- A sensor. -/
def State.sensor (s : State) (i : Nat) : Sensor := Tab.get s.sensors {} i

/-- The cap that the coolant sets while it throttles (R426), in whole watts, rounded down. -/
def State.coolantCap (s : State) : Nat :=
  let inlet := s.sensor 0x5100
  let flow := s.sensor 0x5102
  let t := scaleF32 2000 inlet.value
  let up := if scaleF32 2000000 inlet.value % 1000 = 0 then t else t + 1
  min (if 2 ≤ inlet.state then 115000 - up else 21000) (if 2 ≤ flow.state then scaleF32 700 flow.value else 21000)

/-- The effective cap (R421). -/
def State.effectiveCap (s : State) : Nat := min (min (s.valNat 0x4100 1) s.coolantCap) 21000

/-- s with the clusters of class c stretched one step, each k raised by 4 and none below 1.2 GHz; a band whose clusters all
fit a lower operating point moves down to it (R421), and no k of a zone takes one of its clusters below the floor there
(R132). -/
def State.stretchClass (s : State) (c : Nat) : State :=
  let sel := s.classSites c
  (List.range 5).foldl (fun s b =>
    let f := pointClock (s.point b)
    let sites := s.allRunning.filter (fun i => rowBand (i / 42) == b)
    let want := fun (i : Nat) =>
      let x := s.site i
      if sel.contains i then max floorClock (f * (64 - min 64 (x.k + 4))) else f * (64 - x.k)
    let top := sites.foldl (fun m i => max m (want i)) 0
    if !sites.any sel.contains then s
    else
      let pt := ((List.range 4).filter (fun x => s.point b ≤ x && top ≤ 64 * pointClock x)).foldl max (s.point b)
      let g := pointClock pt
      let ks := sites.map (fun i => (i, stretchTo g (want i)))
      let s := ks.foldl (fun s e => s.modSite e.1 (fun x => { x with k := e.2, zoneK := min x.zoneK (kMax g) })) s
      { s with power := { s.power with points := Tab.set s.power.points b pt } }) s

/-- The classes in the order they are taken (R66). -/
def capClasses : List Nat := [0, 1, 2]

/-- s with one step down: the first class that can give way is stretched, at its floor it leaves gaps (R421). -/
def State.capDown (s : State) : State :=
  match capClasses.find? (fun c => !(s.classSites c).isEmpty && !(s.atFloor c && s.power.gapClasses.contains c)) with
  | none => s
  | some c =>
    if s.atFloor c then { s with power := { s.power with gapClasses := s.power.gapClasses ++ [c] } } else s.stretchClass c

/-- s with one step up, in reverse order: gaps, then k, then operating points (R421). -/
def State.capUp (s : State) : State :=
  if !s.power.gapClasses.isEmpty then { s with power := { s.power with gapClasses := s.power.gapClasses.dropLast } }
  else
    match [2, 1, 0].find? (fun c => (s.classSites c).any (fun i => (s.site i).k != 0)) with
    | some c => (s.classSites c).foldl (fun s i => s.modSite i (fun x => { x with k := x.k - 4 })) s
    | none =>
      match [2, 1, 0].find? (fun c => (s.classSites c).any (fun i => s.point (rowBand (i / 42)) != 0)) with
      | some c =>
        let bands := ((s.classSites c).map (fun i => rowBand (i / 42))).eraseDups
        bands.foldl (fun s b =>
          { s with power := { s.power with points := Tab.set s.power.points b (s.point b - 1) } }) s
      | none => s

/-- s with a control period's cycles swallowed and gap time counted: 100 µs of each running cluster (R430). How long the
gaps of a period are is open (log 64). -/
def State.countPeriod (s : State) : State :=
  let swallowed := (s.allRunning.map (fun i => s.siteClock i * 100 * (s.site i).stretch / 64)).sum
  let gapped := (s.power.gapClasses.flatMap s.classSites).length
  let gap := if gapped = 0 then 0 else freeF32 s.free % (100 * gapped + 1)
  { s with power := { s.power with stretched := s.power.stretched + swallowed, gapUs := s.power.gapUs + gap } }.spend
    (if gapped = 0 then 0 else 4)

/-- PMC_CONTROL_PERIOD (R421): the active PMC compares the module power in watts with the effective cap. -/
def execPmcControlPeriod (power : Nat) (s : State) : Host.Outcome State Fault Refusal :=
  answer s
    (if s.boot.pmcLost ∨ s.power.governor ∨ s.boot.power ≠ 2 then s
     else
       let s := s.countPeriod
       let cap := s.effectiveCap
       if cap < power then s.capDown
       else if 100 * power < 97 * cap then s.capUp
       else s)

/-! ### Droop and the governor -/

/-- DROOP_EVENT (R423): the cluster falls to 1.2 GHz for 128 cycles, in which its stretcher swallows that much more (R430), and
returns to its k over 256; no pass is stopped. How it returns is open (log 64). -/
def execDroopEvent (n : Nat) (s : State) : Host.Outcome State Fault Refusal :=
  answer s
    (match s.siteOf n with
     | some i =>
      if (s.site i).gated then s
      else
        let more := kMax (s.siteClock i) - (s.site i).stretch
        { s with power := { s.power with
          droops := s.power.droops + 1, stretched := s.power.stretched + 2 * more + freeF32 s.free % (4 * more + 1) } }.spend 4
     | none => s)

/-- s with the governor holding the cap: each running cluster at no more than the safe frequency of 1.5 GHz (R424). -/
def State.governorHold (s : State) : State :=
  if s.power.governor then s
  else
    let s := { s with power := { s.power with governor := true, holds := s.power.holds + 1, overSamples := 0 } }
    s.allRunning.foldl (fun s i => s.modSite i (fun x => { x with k := max x.k (64 - 96000 / s.siteClock i) })) s

/-- GOVERNOR_SAMPLE (R424): after two samples above the effective cap in a row it inserts gaps, class by class. -/
def execGovernorSample (power : Nat) (s : State) : Host.Outcome State Fault Refusal :=
  answer s
    (if !s.power.governor ∨ s.boot.power ≠ 2 then s
     else if power ≤ s.effectiveCap then { s with power := { s.power with overSamples := 0 } }
     else if s.power.overSamples = 0 then { s with power := { s.power with overSamples := 1 } }
     else
       match capClasses.find? (fun c => !s.power.gapClasses.contains c) with
       | some c => { s with power := { s.power with overSamples := 0, gapClasses := s.power.gapClasses ++ [c] } }
       | none => s)

/-! ### Sensors -/

/-- Warning, throttling and shutdown limit of a sensor, and whether it is reached from above (coolant flow) (R425). -/
def sensorLimits (i : Nat) : Option (Bool × Nat × Nat × Nat) :=
  if i = 0x5100 then some (false, 45, 47, 55)
  else if i = 0x5102 then some (true, 30, 27, 15)
  else if 0x5200 ≤ i ∧ i < 0x5219 then some (false, 95, 105, 115)
  else if 0x5300 ≤ i ∧ i < 0x5314 then some (false, 85, 95, 105)
  else if 0x5400 ≤ i ∧ i < 0x5404 then some (false, 95, 105, 115)
  else none

/-- The indices that are sensors (R385). -/
def isSensor (i : Nat) : Bool :=
  (0x5100 ≤ i && i ≤ 0x5102) || (0x5200 ≤ i && i < 0x5219) || (0x5300 ≤ i && i < 0x5314) || (0x5400 ≤ i && i < 0x5404) ||
  (0x5500 ≤ i && i ≤ 0x5505) || (0x5600 ≤ i && i < 0x5605)

/-- A whole number as a value. -/
def whole (n : Nat) : FV := .fin false n 0

/-- State of a sensor after a reading (R425): throttling ends 3 °C below its limit, warning 3 °C below its own. A reading
that is no number is that of a failed sensor (R385). -/
def sensorState (i old : Nat) (v : F32) : Nat :=
  let x := ofF32 v.toNat
  match x, sensorLimits i with
  | .nan, _ => 1
  | _, none => 0
  | _, some (true, w, t, h) =>
    if FV.lt x (whole h) then 3 else if FV.lt x (whole t) then 2 else if FV.lt x (whole w) then 1 else 0
  | _, some (false, w, t, h) =>
    if !FV.lt x (whole h) then 3
    else if !FV.lt x (whole t) || (2 ≤ old && FV.lt (whole (t - 3)) x) then 2
    else if !FV.lt x (whole w) || (1 ≤ old && FV.lt (whole (w - 3)) x) then 1
    else 0

/-- Category of a sensor in the throttle counters that its samples feed (R430): 1 stack, 2 I/O die, 3 coolant. -/
def throttleKind (i : Nat) : Option Nat :=
  if 0x5300 ≤ i ∧ i < 0x5314 then some 1 else if 0x5400 ≤ i ∧ i < 0x5404 then some 2
  else if i = 0x5100 ∨ i = 0x5102 then some 3 else none

/-- s with ms of throttling counted in a category. -/
def State.countThermal (s : State) (k ms : Nat) : State :=
  { s with power := { s.power with thermalMs := s.power.thermalMs.mapIdx (fun j v => if j = k then (v + ms) % 4294967296 else v) } }

/-- s with the band, HBM and main domains off (R427, R480): links and ports are down, every band PLL is stopped. -/
def State.mainOff (s : State) (power : Nat) : State :=
  let s := (List.range 12).foldl (fun s k => s.modKport k (fun x => { x with state := 0 })) s
  { s with
    iports := (List.range 4).foldl (fun t k => Tab.set t k { (Tab.get t ({} : IPort) k) with state := 0 }) s.iports
    boot := { s.boot with power := power, ready := false }
    update := if s.update.state = 3 then {} else s.update
    power := { s.power with stopped := [0, 1, 2, 3, 4] } }

/-- s with a shutdown limit reached (R427): 0x7102, a fault broadcast, every partition in Safe-stop, the main domains off. -/
def State.thermalShutdown (s : State) (i : Nat) : State :=
  if s.boot.power ≠ 2 then s
  else
    let s := s.raise { status := 0x7102, detail := le 2 i }
    let s := (partNumbers.filter (fun p => (s.part p).state != .unassigned && (s.part p).state != .safeStop)).foldl
      (fun s p => s.enterSafeStop p 0x7102) s
    s.mainOff 1

/-- s with a sample of sensor i taken (R385, R425 to R427). -/
def State.sample (s : State) (i : Nat) (v : F32) : State :=
  let old := s.sensor i
  let first := (Tab.find s.sensors i).isNone
  let nan := ofF32 v.toNat == .nan
  let st := sensorState i old.state v
  let x : Sensor :=
    { value := v, state := st
      low := if nan then old.low else if first || FV.lt (ofF32 v.toNat) (ofF32 old.low.toNat) then v else old.low
      high := if nan then old.high else if first || FV.lt (ofF32 old.high.toNat) (ofF32 v.toNat) then v else old.high }
  let s := { s with sensors := Tab.set s.sensors i x }
  let s := match throttleKind i with
    | some k => if st = 2 then s.countThermal k (if i = 0x5102 then 10 else 1) else s
    | none => s
  let s : State := if 0x5200 ≤ i ∧ i < 0x5219 ∧ st < 2 ∧ 2 ≤ old.state then
      let z := i - 0x5200
      (List.range 1260).foldl (fun s k =>
        if rowBand (k / 42) == z / 5 && colBand (k % 42) == z % 5 && (s.site k).zoneK + (if (s.site k).zoneGaps then 1 else 0) != 0
        then s.modSite k (fun x => { x with zoneK := 0, zoneGaps := false }) else s) s
    else s
  if st = 3 then s.thermalShutdown i else s

/-- SENSOR_SAMPLE (R385, R425). -/
def execSensorSample (index : Nat) (value : F32) (s : State) : Host.Outcome State Fault Refusal :=
  answer s (if isSensor index then s.sample index value else s)

/-- A write of a sensor's reset entry (R385). -/
def State.resetSensor (s : State) (i : Nat) : State :=
  { s with sensors := Tab.set s.sensors i { s.sensor i with low := (s.sensor i).value, high := (s.sensor i).value } }

/-- SENSOR_MIN_MAX_RESET (R385). -/
def execSensorMinMaxReset (r : Req) (index value : Nat) (s : State) : Host.Outcome State Fault Refusal :=
  answer s (s.serveWrite r index 5 2 (le 1 value) (fun s => (if isSensor index then s.resetSensor index else s, some 0)))

/-- ZONE_THROTTLE_STEP (R426): each 1 ms while a plane zone throttles, its running clusters raise k by 1, and at the floor
take gaps. -/
def execZoneThrottleStep (zone : Nat) (s : State) : Host.Outcome State Fault Refusal :=
  answer s
    (if 25 ≤ zone ∨ (s.sensor (0x5200 + zone)).state < 2 then s
     else
       let sites := s.allRunning.filter (fun i => rowBand (i / 42) == zone / 5 && colBand (i % 42) == zone % 5)
       (sites.foldl (fun s i => s.modSite i (fun x =>
         if x.zoneK < kMax (s.siteClock i) then { x with zoneK := x.zoneK + 1 } else { x with zoneGaps := true })) s).countThermal 0 1)

/-! ### Gating -/

/-- IDLE_GATING (R419): the clusters of a partition that has been Idle for the gating delay lose power, and with it their
on-plane memory. -/
def execIdleGating (p : Nat) (s : State) : Host.Outcome State Fault Refusal :=
  answer s
    (let q := s.part p
     let delay := s.pval p 0x90 1
     if q.state ≠ .idle ∨ q.gated ∨ delay = 0 ∨ s.time.ticks < q.idleTick + delay * Config.ticksPerMs ∨
         q.rcv.startRestore.isSome then s
     else
       let sites := s.partSites p
       let s := s.scrubWhere (onSites sites) []
       let s := sites.foldl (fun s i => s.modSite i (fun x =>
         { x with gated := true, gatedAt := s.time.ticks, mode := 0, retained := none, resume := none, k := 0, zoneK := 0
                  zoneGaps := false, record := {}, sinceFence := [], nonRepeat := false })) s
       s.modPart p (fun q => { q with gated := true }))

/-- BAND_PLL_STOP (R420): 1 ms after the last cluster of the band, and with it its FLE, was gated. -/
def execBandPllStop (band : Nat) (s : State) : Host.Outcome State Fault Refusal :=
  answer s
    (let sites := (List.range 252).map (· + 252 * band)
     if 5 ≤ band ∨ s.power.stopped.contains band ||
         !sites.all (fun i => s.isGated i && (s.site i).gatedAt + Config.ticksPerMs ≤ s.time.ticks) then s
     else { s with power := { s.power with stopped := band :: s.power.stopped } })

end Sys2Proof.Machine
end

