-- ==== Sys2Proof/Machine/Entries.lean ====
section
/-!
DEFINITION. What writing a saved entry of the dictionary does beside storing its value (R46, R52, R54, R57, R221, R379,
R406, R415), for a Caddy write (R53) and for a configuration record (R383).
-/

namespace Sys2Proof.Machine

open Sys2Proof

/-- Whether partition p has a steep threshold of 0 (R57). -/
def State.steepOff (s : State) (p : Nat) : Bool := s.pval p 0x30 2 == 0

/-- The checks that the current modes of a partition make of its rw entries (R46, R54, R57, R323): those of R54 and R323 while
it works; a steep threshold of 0 is held to R57 in every state (log 84). -/
def State.modeStatus (s : State) (p o j v : Nat) : Nat :=
  let m := (s.part p).mode
  if o = 0x30 ∧ j = 2 ∧ v = 0 && !(s.valNat 0x2200 2 == 1 && s.valNat 0x4100 1 ≤ 12000) then 0x1102
  else if !(s.part p).state.works then 0
  else if o = 0x10 ∧ j = 2 ∧ ((m = 0 ∧ v ≠ 0) ∨ (m = 2 ∧ v ≠ 1)) then 0x1102
  else if o = 0x10 ∧ j = 3 ∧ m ≠ 0 ∧ v ≠ 2 then 0x1102
  else if o = 0x10 ∧ j = 9 ∧ m = 0 ∧ v < s.pval p 0x10 0x0B + 1000 then 0x1102
  else if o = 0x10 ∧ j = 0x0B ∧ m = 0 ∧ s.pval p 0x10 9 < v + 1000 then 0x1102
  else if o = 0x20 ∧ j = 1 ∧ v = s.address then 0x1102
  else 0

/-- Whether some route keeps write access to range 0xA000 with the rights of route j set to v (R379). -/
def State.keepsRights (s : State) (j v : Nat) : Bool :=
  [1, 2, 3].any (fun k => bits (if k = j then v else s.valNat 0xA300 k) 21 20 == 3)

/-- The effect of an accepted value of a saved entry, before it is stored, and its status. Partner entries have their own
(R65). lanes says which lanes of a Kettle port train when it is enabled (R438). -/
def State.savedEffect (s : State) (i j v lanes : Nat) : State × Nat :=
  if i = 0x2300 ∧ j = 1 then s.writeWindow v
  else if 0xA400 ≤ i ∧ i < 0xA40C ∧ j = 5 then s.enablePort (i - 0xA400) v lanes
  else if i = 0x4100 ∧ j = 1 then 
    (s, if 12000 < v && s.valNat 0x4100 1 < v && partNumbers.any s.steepOff then 0x1102 else 0)
  else if i = 0xA100 ∧ j = 2 then (if v = 0 then s else { s with tfb := { s.tfb with master := false } }, 0)
  else if i = 0xA300 then (s, if s.keepsRights j v then 0 else 0x1104)
  else if i = 0x8000 ∧ j = 6 ∧ v = 0 then ({ s with sec := { s.sec with debugOpen := false } }, 0)
  else if 0x3000 ≤ i ∧ i < 0x3400 then (s, s.modeStatus ((i - 0x3000) / 256) ((i - 0x3000) % 256) j v)
  else (s, 0)

/-- Entries that measurement 9 covers (R403). -/
def measured (i j : Nat) : Bool := (i == 0x8000 && 3 ≤ j && j ≤ 6) || (i == 0xA300 && 1 ≤ j && j ≤ 3)

end Sys2Proof.Machine
end

