-- ==== Sys2Proof/Machine/Records.lean ====
section
/-!
DEFINITION. Signed records: the configuration record and the save journal (R381 to R383), the operator trust record (R400)
and the signature block (R396).
-/

namespace Sys2Proof.Machine

open Sys2Proof

/-! ### Signatures -/

/-- Bytes of a signature block (R396). -/
def sigBytes : Nat := 16672

/-- Whether the block behind a message of n bytes is one of a signer and both of its signatures verify (R396). -/
def signed (bs : List Byte) (n signer : Nat) (v : Verdict) : Bool :=
  let b := slice bs n 64
  field b 0 2 == 0x5342 && field b 2 1 == 1 && field b 3 1 == signer && field b 4 4 == n && zeroAt b 0x28 24 && v.rsaOk && v.slhOk

/-! ### Staging areas: the configuration record's is at 0x9100, the trust record's at 0x8400 -/

/-- The staging area of a record. -/
def State.staging (s : State) (trust : Bool) : Staging := if trust then s.trustStage else s.recStage

/-- s with a staging area changed. -/
def State.setStaging (s : State) (trust : Bool) (x : Staging) : State :=
  if trust then { s with trustStage := x } else { s with recStage := x }

/-- Index of a record's entries. -/
def recordIndex (trust : Bool) : Nat := if trust then 0x8400 else 0x9100

/-- Bytes of a staging area (R383). -/
def stagingSize : Nat := 1048576

/-- A write of staging data (R383): the first one clears the area. While a record is verified, it is cancelled or applied
first (log 71). -/
def State.stageRecord (s : State) (trust : Bool) (bs : List Byte) : State × Nat :=
  let x := s.staging trust
  let off := s.valNat (recordIndex trust) 2
  if x.state = 2 then (s, 0x1101)
  else if stagingSize < off + bs.length then (s, 0x1104)
  else
    let old := if x.state = 1 then x.bytes else []
    ((s.setStaging trust { x with state := 1, bytes := overlay old off bs, result := 0, failing := 0 }).setVal
      (recordIndex trust) 2 (le 4 (off + bs.length)), 0)

/-- Cancel (R383). -/
def State.cancelRecord (s : State) (trust : Bool) : State × Nat :=
  if s.applyWait.isSome then (s, 0x4102)
  else (s.setStaging trust { s.staging trust with state := 0, bytes := [], result := 0, failing := 0 }, 0)

/-! ### The configuration record -/

/-- An entry of a record (R382). -/
structure RecEntry where
  index : Nat
  sub : Nat
  ty : Nat
  value : List Byte
deriving DecidableEq, Repr

/-- The n entries that make up a run of bytes, none when they do not (R382). -/
def recordEntries (n : Nat) (bs : List Byte) : Option (List RecEntry) :=
  match n with
  | 0 => if bs.isEmpty then some [] else none
  | k + 1 =>
    let len := field bs 4 2
    let all := 8 + (len + 3) / 4 * 4
    if bs.length < all ∨ field bs 6 2 ≠ 0 then none
    else (recordEntries k (bs.drop all)).map (fun r =>
      { index := field bs 0 2, sub := field bs 2 1, ty := field bs 3 1, value := slice bs 8 len } :: r)

/-- Bytes of a record's signed message (R382). -/
def recordLength (bs : List Byte) : Nat := 128 + field bs 0x0C 4

/-- The entries of a staged record, none when its structure is wrong (R382). -/
def recordOf (bs : List Byte) : Option (List RecEntry) :=
  let n := recordLength bs
  if field bs 0 2 = 0x4352 ∧ field bs 2 1 = 1 ∧ field bs 0x0A 2 ≤ 8192 ∧ n + sigBytes ≤ stagingSize &&
      zeroAt (slice bs 0 128) 0x09 1 && zeroAt (slice bs 0 128) 0x40 60 && crcOk bs 0x7C then
    recordEntries (field bs 0x0A 2) (slice bs 128 (n - 128))
  else none

/-- The identity digest as it reads (R384). -/
def State.identity (s : State) : List Byte := if s.boot.deviceRoot then Config.identityDigest s.factory.version else zeros 48

/-- A record is for this module and grade (R2, R382). -/
def State.boundHere (s : State) (bs : List Byte) : Bool :=
  field bs 3 1 == s.grade &&
    (if field bs 8 1 = 0 then zeroAt (slice bs 0 128) 0x10 48 else field bs 8 1 == 1 && slice bs 0x10 48 == s.identity)

/-- Whether an entry may stand in a record: known, saved, not ro, of its type and in range (R383). -/
def RecEntry.ok (e : RecEntry) (grade : Nat) : Bool :=
  match dictFind e.index e.sub with
  | some d => d.saved && d.acc != 0 && d.fits grade e.index e.sub e.ty e.value == 0
  | none => false

/-- The first entry of a record that may not stand in it, or stands in it twice (R383). -/
def badEntry (grade : Nat) (es : List RecEntry) : Option RecEntry :=
  (es.zipIdx.find? (fun x => !x.1.ok grade ||
    (es.take x.2).any (fun e => e.index == x.1.index && e.sub == x.1.sub))).map (·.1)

/-- What verifying a staged configuration record finds: result code, failing entry and status of the write (R383). Its
signatures hang on the keys of the installed trust record (R397). -/
def State.judgeRecord (s : State) (v : Verdict) : Nat × Nat × Nat :=
  let bs := s.recStage.bytes
  match recordOf bs with
  | none => (2, 0, 0)
  | some es =>
    if s.nor.trust.isNone ∨ !signed bs (recordLength bs) 2 v then (3, 0, 0x5106)
    else if field bs 4 4 < Tab.get s.nor.counters 0 5 ∨ Tab.get s.nor.counters 0 5 = 0xFFFFFFFF then (4, 0, 0x5107)
    else if !s.boundHere bs then (5, 0, 0)
    else
      match badEntry s.grade es with
      | some e => (6, 256 * e.index + e.sub, 0)
      | none => (0, 0, 0)

/-- s with event 0x0007 logged for the staged configuration record (R388). -/
def State.logRecordEvent (s : State) (route : Nat) : State :=
  s.logEvent 7 0xFF route (le 4 (field s.recStage.bytes 4 4) ++ le 1 s.recStage.result ++ le 4 s.recStage.failing)

/-- Verify of the configuration record (R383). -/
def State.verifyRecord (s : State) (v : Verdict) (route : Nat) : State × Nat :=
  if s.recStage.state ≠ 1 then (s, 0x1101)
  else
    let (result, failing, st) := s.judgeRecord v
    ({ s with recStage := { s.recStage with state := if result = 0 then 2 else 3, result := result, failing := failing } }.logRecordEvent
      route, st)

/-- s with an entry of a record in force, if it could be written now; others take the value at the next start (R383). -/
def State.applyEntry (s : State) (e : RecEntry) : State :=
  if s.writeStatus e.index e.sub e.ty e.value ≠ 0 then s
  else
    match s.savedEffect e.index e.sub (ofLe e.value) 0x1FF with
    | (t, 0) => t.setVal e.index e.sub e.value
    | _ => s

/-- s with an anti-rollback counter at no less than a version (R399). -/
def State.raiseCounter (s : State) (c version : Nat) : State :=
  { s with nor := { s.nor with counters := Tab.mod s.nor.counters 0 c (fun n => max n version) } }

/-- s with the verified configuration record in force (R383): its entries, its measurement, counter 5; the journal is
cleared. -/
def State.applyConfig (s : State) (route : Nat) : State :=
  let bs := s.recStage.bytes
  let n := recordLength bs
  let es := (recordOf bs).getD []
  let s := es.foldl State.applyEntry s
  let s := partNumbers.foldl (fun s p => s.rebind p) s
  let s := { s with
    nor := { s.nor with
      journal := []
      config := some (field bs 4 4, es.map (fun (e : RecEntry) => (256 * e.index + e.sub, e.value)), Config.sha384 (slice bs 0 n)) } }
  let s := (s.raiseCounter 5 (field bs 4 4)).remeasured
  { s with recStage := { s.recStage with state := 4, result := 1, failing := 0 } }.logRecordEvent route

/-! ### The trust record -/

/-- Bytes of a trust record's signed message (R400). -/
def trustBytes : Nat := 0x2B0

/-- What verifying a staged trust record finds (R400). -/
def State.judgeTrust (s : State) (v : Verdict) : Nat × Nat :=
  let bs := padTo trustBytes s.trustStage.bytes
  let roots := field bs 3 1
  let exponent := field bs 8 4
  if field bs 0 2 ≠ 0x5452 ∨ field bs 2 1 ≠ 1 ∨ !zeroAt bs 0x0C 48 ∨ !crcOk bs 0x3C then (2, 0)
  else if !signed s.trustStage.bytes trustBytes 2 v then (3, 0x5106)
  else if field bs 4 4 < Tab.get s.nor.counters 0 6 ∨ Tab.get s.nor.counters 0 6 = 0xFFFFFFFF then (4, 0x5107)
  else if roots < 1 ∨ 4 < roots ∨ exponent < 65537 ∨ exponent % 2 = 0 ∨ !zeroAt bs (0x1F0 + 48 * roots) (192 - 48 * roots) then (6, 0)
  else (0, 0)

/-- Verify of the trust record (R400). -/
def State.verifyTrust (s : State) (v : Verdict) : State × Nat :=
  if s.trustStage.state ≠ 1 then (s, 0x1101)
  else
    let (result, st) := s.judgeTrust v
    ({ s with trustStage := { s.trustStage with state := if result = 0 then 2 else 3, result := result } }, st)

/-- s with the verified trust record installed (R400): counter 6 raised; a configuration record that is staged or verified
fails. -/
def State.applyTrust (s : State) : State :=
  let bs := padTo trustBytes s.trustStage.bytes
  let s := { s with nor := { s.nor with trust := some bs } }.raiseCounter 6 (field bs 4 4)
  let s := { s with
    trustStage := { s.trustStage with state := 4, result := 1 }
    recStage := if s.recStage.state = 1 ∨ s.recStage.state = 2 then { s.recStage with state := 3, result := 3 } else s.recStage }
  s.remeasured

/-! ### Apply -/

/-- Apply of a record (R383, R400): it waits while an update is handing off. -/
def State.applyStaged (s : State) (r : Req) (trust : Bool) : State × Option Nat :=
  if s.applyWait.isSome then (s, some 0x4102)
  else if (s.staging trust).state ≠ 2 then (s, some 0x1101)
  else if s.update.state = 3 then ({ s with applyWait := some (r, trust) }, none)
  else (if trust then s.applyTrust else s.applyConfig (Route.code r.route), some 0)

/-- s with an apply that waited for an update made and answered (R383). -/
def State.retryApply (s : State) : State :=
  match s.applyWait with
  | none => s
  | some (r, trust) =>
    match ({ s with applyWait := none }).applyStaged r trust with
    | (t, none) => t
    | (t, some st) =>
      let t := if st = 0 then t.commitWrite (Route.code r.route) (recordIndex trust) 4 (le 1 2) else t
      t.respond r 2 (recordIndex trust) 4 st []

/-! ### Journal, export, defaults -/

/-- The newest value of each entry of the journal, in journal order (R381). -/
def newest (j : List (Nat × List Byte)) : List (Nat × List Byte) :=
  j.zipIdx.filterMap (fun e => if (j.drop (e.2 + 1)).any (fun x => x.1 == e.1.1) then none else some e.1)

/-- JOURNAL_SWITCH (R381): the newest value of each entry is written into the other region. -/
def execJournalSwitch (s : State) : Host.Outcome State Fault Refusal :=
  answer s
    (if s.boot.secFailed then s
     else { s with nor := { s.nor with journal := newest s.nor.journal, region := 1 - s.nor.region } })

/-- Every saved entry: index and subindex (R369). -/
def savedEntries : List (Nat × Nat) :=
  (dict.filter (fun e => e.saved && e.acc != 0)).flatMap (fun e =>
    (List.range e.span).flatMap (fun a => (List.range e.subs).map (fun b => (e.idx + a * e.stride, e.sub + b))))

/-- An entry of an exported record. -/
def State.exportEntry (s : State) (i j : Nat) : List Byte :=
  let v := s.val i j
  padTo (8 + (v.length + 3) / 4 * 4)
    (le 2 i ++ le 1 j ++ le 1 (((dictFind i j).map (fun e => e.ty)).getD 0) ++ le 2 v.length ++ zeros 2 ++ v)

/-- Version of the configuration record in force, 0 without one (R383). -/
def State.recordVersion (s : State) : Nat := (s.nor.config.map (·.1)).getD 0

/-- The current saved values as an unsigned record for any module (R383). -/
def State.exportRecord (s : State) : List Byte :=
  let es := savedEntries.flatMap (fun e => s.exportEntry e.1 e.2)
  withCrc (padTo 0x7C (le 2 0x4352 ++ le 1 1 ++ le 1 s.grade ++ le 4 (s.recordVersion + 1) ++ zeros 2 ++ le 2 savedEntries.length ++
    le 4 es.length)) ++ es

/-- Restore defaults (R383): every assigned partition Idle, not in Sealed; the journal is cleared and the record stays. -/
def State.restoreDefaults (s : State) : State × Nat :=
  if s.secState = 2 then (s, 0x1103)
  else if !s.allQuiet then (s, 0x1101)
  else ({ s with nor := { s.nor with journal := [] } }, 0)

/-- Record control with a value that needs no verdict (R383, R400). The trust record has neither export nor defaults. -/
def State.recordControl (s : State) (r : Req) (trust : Bool) (v : Nat) (verdict : Verdict) : State × Option Nat :=
  if v = 1 then done (if trust then s.verifyTrust verdict else s.verifyRecord verdict (Route.code r.route))
  else if v = 2 then s.applyStaged r trust
  else if v = 3 then done (s.cancelRecord trust)
  else if trust then (s, some 0x1104)
  else if v = 4 then ({ s with recStage := { s.recStage with exported := s.exportRecord } }, some 0)
  else done s.restoreDefaults

/-- s with a control value written for a record. -/
def State.writeControl (s : State) (r : Req) (trust : Bool) (v : Nat) (verdict : Verdict) : State :=
  s.serveWrite r (recordIndex trust) 4 2 (le 1 v) (fun s => s.recordControl r trust v verdict)

/-- s with staging data written for a record. -/
def State.writeStaging (s : State) (r : Req) (trust : Bool) (bs : List Byte) : State :=
  s.serveWrite r (recordIndex trust) 3 10 bs (fun s => done (s.stageRecord trust bs))

/-- A verdict that finds nothing wrong. -/
def allOk : Verdict := { measOk := true, rsaOk := true, slhOk := true }

/-- RECORD_STAGING_DATA (R383). -/
def execRecordStagingData (r : Req) (bytes : List Byte) (s : State) : Host.Outcome State Fault Refusal :=
  answer s (s.writeStaging r false bytes)

/-- RECORD_VERIFY (R383). -/
def execRecordVerify (r : Req) (v : Verdict) (s : State) : Host.Outcome State Fault Refusal := answer s (s.writeControl r false 1 v)

/-- RECORD_APPLY (R383). -/
def execRecordApply (r : Req) (s : State) : Host.Outcome State Fault Refusal := answer s (s.writeControl r false 2 allOk)

/-- RECORD_CANCEL (R383). -/
def execRecordCancel (r : Req) (s : State) : Host.Outcome State Fault Refusal := answer s (s.writeControl r false 3 allOk)

/-- RECORD_EXPORT (R383). -/
def execRecordExport (r : Req) (s : State) : Host.Outcome State Fault Refusal := answer s (s.writeControl r false 4 allOk)

/-- RESTORE_DEFAULTS (R383). -/
def execRestoreDefaults (r : Req) (s : State) : Host.Outcome State Fault Refusal := answer s (s.writeControl r false 5 allOk)

/-- TRUST_RECORD_STAGING_DATA (R400). -/
def execTrustRecordStagingData (r : Req) (bytes : List Byte) (s : State) : Host.Outcome State Fault Refusal :=
  answer s (s.writeStaging r true bytes)

/-- TRUST_RECORD_VERIFY (R400). -/
def execTrustRecordVerify (r : Req) (v : Verdict) (s : State) : Host.Outcome State Fault Refusal := answer s (s.writeControl r true 1 v)

/-- TRUST_RECORD_APPLY (R400). -/
def execTrustRecordApply (r : Req) (s : State) : Host.Outcome State Fault Refusal := answer s (s.writeControl r true 2 allOk)

/-- TRUST_RECORD_CANCEL (R400). -/
def execTrustRecordCancel (r : Req) (s : State) : Host.Outcome State Fault Refusal := answer s (s.writeControl r true 3 allOk)

end Sys2Proof.Machine
end

