-- ==== Sys2Proof/Machine/Update.lean ====
section
/-!
DEFINITION. Live firmware update (R357 to R366): staging and verification of an image, activation, handoff, and what ends
it. How long the processors pause is timing and left out (log 72).
-/

namespace Sys2Proof.Machine

open Sys2Proof

/-- The kind of the update (R357, R360): 1 SEC, 2 PMC, 3 SCH, 4 CCC. -/
def State.updateKind (s : State) : Nat := s.valNat 0x9000 2

/-- Bytes of a bank (R357). -/
def bankSize (kind : Nat) : Nat := if kind = 1 then 4194304 else if kind = 3 then 8388608 else 1048576

/-- The active image of a kind. -/
def State.activeImage (s : State) (kind : Nat) : Image :=
  Tab.get s.nor.active { digest := Config.imageDigest kind } kind

/-- s with the update changed by f. -/
def State.modUpdate (s : State) (f : Update → Update) : State := { s with update := f s.update }

/-! ### Staging (R360) -/

/-- n bytes of an erased bank, which the spec does not give (log 4). -/
def State.erased (s : State) (n : Nat) : List Byte := (List.range n).map (fun i => Config.freeByte (s.free + i))

/-- A write of staging data (R360): accepted in idle and staging; the first write erases the bank. -/
def State.stageUpdate (s : State) (bs : List Byte) : State × Nat :=
  let off := s.valNat 0x9000 3
  let kind := s.updateKind
  if 1 < s.update.state then (s, 0x1101)
  else if bankSize kind < off + bs.length then (s, 0x1104)
  else
    let old := if s.update.state = 1 then s.update.staged else []
    let gap := off - old.length
    let bytes := overlay (old ++ s.erased gap) off bs
    let s := s.spend gap
    let s := { s with nor := { s.nor with inactive := Tab.del s.nor.inactive kind } }
    ((s.modUpdate (fun u => { u with state := 1, result := 0, rows := 0, staged := bytes })).setVal 0x9000 3 (le 4 (off + bs.length)), 0)

/-- UPDATE_STAGING_DATA (R360). -/
def execUpdateStagingData (r : Req) (bytes : List Byte) (s : State) : Host.Outcome State Fault Refusal :=
  answer s (s.serveWrite r 0x9000 4 10 bytes (fun s => done (s.stageUpdate bytes)))

/-! ### Verify (R359) -/

/-- The image that a header describes (R358). -/
def imageOf (h : List Byte) : Image :=
  { version := field h 4 4, secVersion := field h 8 4, peerMin := field h 0x0C 4, inMin := field h 0x10 2
    inMax := field h 0x12 2, handOut := field h 0x14 2, digest := slice h 0x20 48 }

/-- What the checks of R359 find, in order: result code and status. -/
def State.judgeImage (s : State) (v : Verdict) : Nat × Nat :=
  let bs := s.update.staged
  let kind := s.updateKind
  let h := slice bs 0 512
  let x := imageOf h
  let n := 512 + field h 0x18 4
  let counter := Tab.get s.nor.counters 0 (kind - 1)
  let old := s.activeImage kind
  if field h 0 2 ≠ 0x4657 ∨ !crcOk h 0x1FC ∨ field h 3 1 ≠ kind ∨ bankSize kind < n + sigBytes then (7, 0)
  else if !v.measOk then (7, 0)
  else if !signed bs n 1 v then (5, 0x5106)
  else if x.secVersion < counter ∨ counter = 0xFFFFFFFF then (6, 0x5107)
  else if old.version < x.peerMin then (7, 0)
  else if old.handOut < x.inMin ∨ x.inMax < old.handOut then (7, 0)
  else (0, 0)

/-- Verify (R359, R360). -/
def State.verifyUpdate (s : State) (v : Verdict) : State × Nat :=
  if s.update.state ≠ 1 then (s, 0x1101)
  else
    let (result, st) := s.judgeImage v
    if result ≠ 0 then (s.modUpdate (fun u => { u with state := 5, result := result }), st)
    else
      let x := imageOf s.update.staged
      ({ s with
          nor := { s.nor with inactive := Tab.set s.nor.inactive s.updateKind x }
          update := { s.update with state := 2, image := x } }, 0)

/-- UPDATE_VERIFY (R359). -/
def execUpdateVerify (r : Req) (v : Verdict) (s : State) : Host.Outcome State Fault Refusal :=
  answer s (s.serveWrite r 0x9000 5 2 (le 1 1) (fun s => done (s.verifyUpdate v)))

/-- Cancel (R360): until handing off begins; after an update has ended it makes way for the next (log 70). -/
def State.cancelUpdate (s : State) : State × Nat :=
  if s.update.state = 3 then (s, 0x1101) else (s.modUpdate (fun u => { result := 4, image := u.image }), 0)

/-- UPDATE_CANCEL (R360). -/
def execUpdateCancel (r : Req) (s : State) : Host.Outcome State Fault Refusal :=
  answer s (s.serveWrite r 0x9000 5 2 (le 1 3) (fun s => done s.cancelUpdate))

/-! ### Activation (R361) -/

/-- What activation waits for (R361). -/
def State.mustWait (s : State) : Bool :=
  partNumbers.any (fun p => (s.part p).state == .reclaiming || (s.part p).rcv.rollback.isSome) ||
  [0, 1, 2, 3, 4].any (fun p => !(s.part p).rcv.fills.isEmpty) ||
  (s.updateKind == 4 && s.commitWait.isSome)

/-- Activate in service (R361): it waits for a quiet moment, or hands off from now. -/
def State.activateLive (s : State) : State :=
  s.modUpdate (fun u =>
    { u with state := 3, result := 0, rows := 0, since := s.time.ticks, stopped := none
             waiting := if s.mustWait then some s.time.ticks else none })

/-- ACTIVATION_HOLD (R361): the wait has passed the hold, so activate fails with 0x4102 and the update is verified again. -/
def execActivationHold (s : State) : Host.Outcome State Fault Refusal :=
  answer s
    (match s.update.waiting with
     | some t =>
       if s.update.state = 3 ∧ s.mustWait ∧ t + s.valNat 0x9000 8 * Config.ticksPerMs ≤ s.time.ticks then
         ((s.modUpdate (fun u => { u with state := 2, waiting := none })).raise { status := 0x4102 }).retryApply
       else s
     | none => s)

/-! ### Handoff points (R362, R365) -/

/-- Queue n of kind k of a CCC stands at a handoff point (R365): empty, or between commands with its last completed command
having signalled a fence, or holding a command that waits. -/
def State.atPoint (s : State) (i k n : Nat) : Bool :=
  let q := s.queue k n
  let mine := (s.site i).sinceFence.filter (fun r => ((s.cmdOf r).map (fun c => c.cmd.kind)) == some k)
  q.running.isNone && q.issued.isEmpty && q.preempted.isEmpty &&
    (q.fifo.isEmpty || mine.isEmpty ||
      (match q.fifo with
       | h :: _ => ((s.cmdOf h).map (fun (c : CmdRec) => !s.ready h.part c.cmd)).getD false
       | [] => true))

/-- The clusters of a row and their sites. -/
def State.rowClusters (s : State) (row : Nat) : List (Nat × Nat) :=
  (s.activeSites row).zipIdx.map (fun e => (row * s.grade + e.2, e.1))

/-- The old image stands at its handoff point (R362): SEC with no write mid-apply, a CCC row by its queues. -/
def State.pointReached (s : State) : Bool :=
  if s.updateKind = 1 then s.commitWait.isNone
  else if s.updateKind = 4 then
    (s.rowClusters s.update.rows).all (fun c => [1, 2, 3].all (fun k => s.atPoint c.2 k c.1))
  else true

/-- A handoff record (R363): the header with its CRC, then the body. -/
def handoffRecord (kind format old new written : Nat) (body : List Byte) : List Byte :=
  withCrc (le 2 0x484F ++ le 2 format ++ le 1 kind ++ zeros 3 ++ le 4 old ++ le 4 new ++ le 4 body.length ++ zeros 4 ++
    le 8 written ++ le 4 (crc32c body) ++ zeros 24) ++ body

/-- A resume record as bytes: its command, the passes done, the core columns that its replay answers (R131, R349). -/
def Resume.bytes (r : Resume) : List Byte :=
  le 1 r.ref.part ++ le 4 r.ref.list ++ le 4 r.ref.index ++ le 1 r.ref.lane ++ le 8 r.passes ++
    (match r.kept with
     | some k => le 1 1 ++ le 4 k.1 ++ k.2.flatMap (le 4)
     | none => le 1 0) ++ r.replay.flatMap (fun c => le 1 c.1 ++ le 1 c.2)

/-- The recovery record of a CCC as bytes, 512 of them (R349; log 113). -/
def Site.recordBytes (x : Site) : List Byte :=
  padTo 512
    (le 1 x.record.mode ++ le 1 (if x.record.retained then 1 else 0) ++ le 1 (if x.nonRepeat then 1 else 0) ++
      x.record.engine.flatMap (le 4) ++ le 4 x.record.cluster ++ le 2 x.record.next.length ++
      x.record.next.flatMap (fun e => le 1 e.1 ++ le 1 e.2.1 ++ le 4 e.2.2.1 ++ le 4 e.2.2.2) ++
      (match x.resume with
       | some r => le 1 1 ++ r.bytes
       | none => le 1 0))

/-- The bodies of the handoff records that the old image writes (R363; log 113): the journal for SCH; the recovery record of
each CCC of the row; the cap's target and what holds it for PMC; for SEC the wrapped vault, the Caddy writes that wait and
the sessions. -/
def State.handoffBodies (s : State) : List (List Byte) :=
  if s.updateKind = 1 then
    [Config.wrapVault (s.sec.keys.flatMap (fun k => le 2 k.handle ++ le 1 k.ty ++ le 1 k.part ++ k.key)) ++
      s.caddy.accepted.flatMap (fun a => le 8 a.source ++ le 4 a.txn ++ le 2 a.index ++ le 1 a.sub ++ le 4 a.value.length ++ a.value) ++
      s.sec.sessions.flatMap (fun x => le 8 x.source ++ le 4 x.id ++ le 1 (if x.done then 1 else 0) ++ le 1 (if x.trusted then 1 else 0))]
  else if s.updateKind = 2 then
    [s.val 0x4100 1 ++ le 4 s.power.overSamples ++ le 1 (if s.power.governor then 1 else 0) ++
      s.power.gapClasses.flatMap (le 1) ++ s.power.points.flatMap (fun e => le 1 e.1 ++ le 1 e.2)]
  else if s.updateKind = 3 then [s.journalBody]
  else (s.rowClusters s.update.rows).map (fun c => (s.site c.2).recordBytes)

/-- s with the old image stopped at its handoff point and its records written (R361 step 2, R363). -/
def State.stopOld (s : State) : State :=
  let old := s.activeImage s.updateKind
  let rs := s.handoffBodies.map (handoffRecord s.updateKind old.handOut old.version s.update.image.version s.now)
  s.modUpdate (fun u => { u with waiting := none, stopped := some s.time.ticks, records := rs })

/-- Whether an image takes a handoff record: a format that it accepts, and sound CRCs (R363). -/
def Image.takes (x : Image) (r : List Byte) : Bool :=
  crcOk r 0x3C && field r 0 2 == 0x484F && decide (x.inMin ≤ field r 2 2 ∧ field r 2 2 ≤ x.inMax) &&
    crc32c (slice r 0x40 (field r 0x10 4)) == field r 0x20 4

/-- HANDOFF_POINT (R361, R362, R365). -/
def execHandoffPoint (s : State) : Host.Outcome State Fault Refusal :=
  answer s
    (if s.update.state = 3 ∧ s.update.stopped = none && !(s.update.waiting.isSome && s.mustWait) && s.pointReached then s.stopOld else s)

/-- s with the running tensor command of cluster n preempted as R130 does, at a pass boundary that is open (R365). -/
def State.preemptFor (s : State) (n : Nat) : State :=
  match s.running 1 n with
  | some (r, c) =>
    if !(s.queue 1 n).preempted.isEmpty ∨ s.holds 1 n then s
    else
      let k := freeF32 s.free % max 1 (c.cmd.view c.held).passes
      let s := ((s.spend 4).stopAt n r c k).count (siteIndex (s.siteN n)) 9 1
      s.modQueue 1 n (fun q => { q with running := none, preempted := [r] })
  | none => s

/-- CCC_HANDOFF_WAIT (R365): the point was not reached within the wait, so the CCCs of the row preempt and hand off. -/
def execCccHandoffWait (row : Nat) (s : State) : Host.Outcome State Fault Refusal :=
  answer s
    (if s.update.state = 3 ∧ s.updateKind = 4 ∧ row = s.update.rows ∧ s.update.stopped = none ∧
        s.update.since + s.valNat 0x9000 7 * Config.ticksPerMs ≤ s.time.ticks && !(s.update.waiting.isSome && s.mustWait) then
       ((s.rowClusters row).foldl (fun s c => s.preemptFor c.1) s).stopOld
     else s)

/-! ### Acceptance (R361, R362, R364, R366) -/

/-- Acceptance limit in ticks (R362). -/
def acceptTicks (kind : Nat) : Nat :=
  if kind = 1 then 100 * Config.ticksPerMs else if kind = 2 then 5 * Config.ticksPerMs
  else if kind = 3 then 50 * Config.ticksPerMs else 100 * Config.ticksPerUs

/-- s with a handoff logged: kind, both versions, result (R364, R388). -/
def State.logHandoff (s : State) (kind old new result : Nat) : State :=
  s.logEvent 6 0xFF 4 (le 1 kind ++ le 4 old ++ le 4 new ++ le 1 result)

/-- s with what waited for the update to end made (R366, R383). -/
def State.updateEnded (s : State) : State := s.retryLayout.retryApply

/-- s with the update committed (R361 step 4): the banks flip, the counter rises, of a pair the standby is now active. -/
def State.commitUpdate (s : State) : State :=
  let kind := s.updateKind
  let old := s.activeImage kind
  let new := s.update.image
  let s := { s with nor := { s.nor with
    active := Tab.set s.nor.active kind new, inactive := Tab.set s.nor.inactive kind old } }
  let s := s.raiseCounter (kind - 1) new.secVersion
  let s := { s with boot := { s.boot with
    pmcB := if kind = 2 && s.boot.pmcStandby then !s.boot.pmcB else s.boot.pmcB
    schB := if kind = 3 && s.boot.schStandby then !s.boot.schB else s.boot.schB } }
  let s := s.modUpdate (fun u => { state := 4, result := 1, rows := u.rows, image := new })
  ((s.logHandoff kind old.version new.version 1).remeasured).updateEnded

/-- s with the update failed with a result (R361 step 5, R365): the old image resumes, updated rows return to it. -/
def State.failUpdate (s : State) (result : Nat) : State :=
  let kind := s.updateKind
  let u := s.update
  let s := s.modUpdate (fun u => { state := 5, result := result, image := u.image })
  (s.logHandoff kind (s.activeImage kind).version u.image.version result).updateEnded

/-- HANDOFF_ACCEPTANCE (R361, R363, R365, R366). -/
def execHandoffAcceptance (accept crashed : Bool) (s : State) : Host.Outcome State Fault Refusal :=
  answer s
    (if s.update.state ≠ 3 ∨ s.update.stopped = none then s
     else if crashed then s.failUpdate 3
     else if !accept || !s.update.records.all s.update.image.takes then s.failUpdate 2
     else if s.updateKind = 4 then
       let s := s.modUpdate (fun u => { u with rows := u.rows + 1, stopped := none, since := s.time.ticks })
       if 30 ≤ s.update.rows then s.commitUpdate else s
     else s.commitUpdate)

/-- ACCEPTANCE_LIMIT (R361, R362): the new image has not accepted in time. -/
def execAcceptanceLimit (s : State) : Host.Outcome State Fault Refusal :=
  answer s
    (match s.update.stopped with
     | some t => if s.update.state = 3 ∧ t + acceptTicks s.updateKind ≤ s.time.ticks then s.failUpdate 3 else s
     | none => s)

/-- s with the update of a pair whose active side crashes before it has written its record: the standby, which runs the new
image, takes over, and the update commits (R366). -/
def State.crashCommits (s : State) (kind : Nat) : Bool :=
  s.update.state == 3 && s.updateKind == kind && s.update.stopped.isNone && s.update.waiting.isNone

end Sys2Proof.Machine
end

