-- ==== Sys2Proof/Machine/Firmware.lean ====
section
/-!
DEFINITION. The firmware processors and what their crashes do (R346 to R356), and units taken offline (R339).
-/

namespace Sys2Proof.Machine

open Sys2Proof

/-! ### Units of kind 0x0A

A CCC has the unit number of its site; the others are numbered from 0x8000: SEC, PMC-A, PMC-B, SCH-A, SCH-B (log 66). -/

/-- Unit numbers of SEC, of the active PMC and of the active SCH. -/
def secUnit : Nat := 0x8000
def State.pmcUnit (s : State) : Nat := if s.boot.pmcB then 0x8002 else 0x8001
def State.schUnit (s : State) : Nat := if s.boot.schB then 0x8004 else 0x8003

/-! ### CCC -/

/-- The commands of queue kind k that a CCC re-issues: those dispatched since the last recorded fence, in order (R350). -/
def State.reissued (s : State) (i k : Nat) : List QRef :=
  (s.site i).sinceFence.filter (fun r => ((s.cmdOf r).map (fun c => c.cmd.kind)) == some k)

/-- s with the commands of queue n of kind k from the one after the last recorded fence back in the queue (R350). -/
def State.reissue (s : State) (i k n : Nat) : State :=
  let rs := s.reissued i k
  let s := rs.foldl (fun s r => s.modCmd r (fun c => { c with st := .queued, status := 0, ran := true, held := [] })) s
  s.modQueue k n (fun q =>
    { q with
      fifo := rs ++ q.fifo.filter (fun r => !rs.contains r)
      running := q.running.filter (fun r => !rs.contains r)
      issued := q.issued.filter (fun r => !rs.contains r)
      preempted := q.preempted.filter (fun r => !rs.contains r) })

/-- s with partition p rolled back for a cause, where it holds work that a rollback can restore (R310, R327). -/
def State.rollFor (s : State) (p cause : Nat) : State :=
  let q := s.part p
  if q.state = .running ∨ q.state = .draining ∨ q.state = .hostLost then s.beginRollback p cause none
  else if q.state = .reclaiming && (q.rcv.reclaim.map (fun c => c.phase == 0)).getD false then s.fenceAbort p
  else s

/-- s with the CCC of cluster n crashed and restarted (R350): a retained block is discarded; its array mode is the record's; its commands since the last
recorded fence are issued again, unless one of them cannot be repeated, when the partition rolls back without a fill. -/
def State.cccCrash (s : State) (n : Nat) : State :=
  match s.siteOf n, s.partOfCluster n with
  | some i, some p =>
    let s := s.raise { status := 0x6601, part := p, unitKind := 0x0A, unit := siteUnit i }
    let s := (s.losePorts (3 + n)).modSite i (fun x => { x with retained := none, mode := x.record.mode })
    if (s.site i).nonRepeat then s.rollFor p 0x6601
    else
      let rs := (s.site i).sinceFence
      let s := [1, 2, 3].foldl (fun s k => s.reissue i k n) s
      s.modSite i (fun x => { x with sinceFence := [], resume := x.resume.filter (fun r => !rs.contains r.ref) })
  | _, _ => s

/-- CCC_RESTARTED (R350). -/
def execCccRestarted (n : Nat) (s : State) : Host.Outcome State Fault Refusal := answer s (s.cccCrash n)

/-! ### SCH -/

/-- s with no SCH left (R353): 0x7402, every partition that holds work or could is in Safe-stop. -/
def State.schedulerLost (s : State) : State :=
  if s.boot.schLost then s
  else
    let s := s.raise { status := 0x7402, unitKind := 0x0A, unit := s.schUnit }
    let s := { s with boot := { s.boot with schLost := true } }
    (partNumbers.filter (fun p => !(s.part p).state.quiet && (s.part p).state != .safeStop)).foldl
      (fun s p => s.enterSafeStop p 0x7402) s

/-- s with the active SCH crashed (R352): the standby reads the valid mirror of the journal, which holds the step that the
machine stands at (R351), and takes over; the crashed one restarts as standby. Without a valid mirror the SCH is lost
(R356). -/
def State.schCrash (s : State) : State :=
  if s.boot.schLost then s
  else if s.boot.schStandby ∧ s.journal.valid.isSome then
    let s := (s.losePorts 2).raise { status := 0x6602, unitKind := 0x0A, unit := s.schUnit }
    if s.crashCommits 3 then s.commitUpdate else { s with boot := { s.boot with schB := !s.boot.schB } }
  else s.schedulerLost

/-- SCH_TAKEOVER (R352, R353). -/
def execSchTakeover (s : State) : Host.Outcome State Fault Refusal := answer s s.schCrash

/-! ### PMC -/

/-- s with no PMC left: the governor holds its safe frequency until a warm reset (R339). -/
def State.pmcGone (s : State) : State :=
  let s := s.governorHold
  { s with boot := { s.boot with pmcLost := true } }

/-- s with the active PMC crashed (R354): the governor holds until the standby has taken over. -/
def State.pmcCrash (s : State) : State :=
  if s.boot.pmcLost then s
  else
    let s := s.governorHold
    let s := (s.losePorts 1).raise { status := 0x6603, unitKind := 0x0A, unit := s.pmcUnit }
    if s.boot.pmcStandby then
      let s := if s.crashCommits 2 then s.commitUpdate else { s with boot := { s.boot with pmcB := !s.boot.pmcB } }
      { s with power := { s.power with governor := false, overSamples := 0 } }
    else s.pmcGone

/-- PMC_TAKEOVER (R354). -/
def execPmcTakeover (s : State) : Host.Outcome State Fault Refusal := answer s s.pmcCrash

/-! ### SEC -/

/-- s with SEC failed (R355): keys gone, encrypted streams failed with reason 0x0B (R273), T and SB partitions draining,
sessions and an update in progress ended, no more writes to tier 3. -/
def State.secCrash (s : State) : State :=
  if s.boot.secFailed then s
  else
    let s := (s.losePorts 0).raise { status := 0x7401, unitKind := 0x0A, unit := secUnit }
    let s := { s with boot := { s.boot with secFailed := true } }
    let s := (partNumbers.flatMap s.boundStreams).foldl (fun s n => if (s.stream n).encrypted then s.failStream n 0x0B else s) s
    let s := { s with
      sec := { s.sec with keys := [], sessions := [], chunksIn := [] }
      update := if 1 ≤ s.update.state ∧ s.update.state ≤ 3 then {} else s.update
      recStage := {}, trustStage := {}, applyWait := none, commitWait := none }
    partNumbers.foldl (fun s p =>
      let s := s.modRcv p (fun r => { r with tier3Next := none })
      let q := s.part p
      if q.mode ≠ 2 ∧ (q.state = .running ∨ q.state = .hostLost) then (s.drain p).1 else s) s

/-- SEC_FAILED (R355). -/
def execSecFailed (s : State) : Host.Outcome State Fault Refusal := answer s s.secCrash

/-! ### Components -/

/-- Whether component c of a processor is restartable (R348). Processors: 0 SEC, 1 PMC, 2 SCH, 3 + n the CCC of cluster n;
components in the order of the table. -/
def restartable (processor c : Nat) : Bool :=
  if processor = 0 then c == 3 || c == 4 || c == 5
  else if processor = 1 then c == 0 || c == 2
  else if processor = 2 then c == 4
  else c == 1

/-- COMPONENT_FAULT (R346, R348): a restartable component restarts, its senders resend, and accepted writes are applied all
the same; any other fault is a crash of its processor. -/
def execComponentFault (processor component : Nat) (s : State) : Host.Outcome State Fault Refusal :=
  answer s
    (if restartable processor component then s.modPort (portKey processor component) (fun p => p.resent s.time.ticks)
     else if processor = 0 then s.secCrash
     else if processor = 1 then s.pmcCrash
     else if processor = 2 then s.schCrash
     else s.cccCrash (processor - 3))

/-! ### Units offline (R339) -/

/-- s with a processor offline: a CCC takes its cluster down; of a pair the module runs on with no standby, and without
either the rules of R353 and R339 hold. -/
def State.processorOffline (s : State) (unit : Nat) : State :=
  if unit < 0x8000 then s.clusterFailed (unitSite unit) 0x6502 false
  else if unit = 0x8000 then s
  else if unit ≤ 0x8002 then
    (if s.boot.pmcStandby && unit != s.pmcUnit then { s with boot := { s.boot with pmcStandby := false } } else s.pmcGone)
  else if s.boot.schStandby && unit != s.schUnit then { s with boot := { s.boot with schStandby := false } }
  else s.schedulerLost

/-- s with a path offline (R343). -/
def State.pathOffline (s : State) (key : Nat) : State :=
  if s.boot.pathsOff.contains key then s else { s with boot := { s.boot with pathsOff := key :: s.boot.pathsOff } }

/-- s with the unit that a 0x6502 entry names taken offline (R339, R343). -/
def State.takeOffline (s : State) (e : ErrEntry) : State :=
  let i := unitSite e.unit
  let hi := e.unit / 256
  let lo := e.unit % 256
  if e.unitKind = 1 then
    (if s.taken.contains i then s.spareTested i false else s.clusterFailed i 0x6502 (s.boot.pathsOff.contains (pathKey 5 i)))
  else if e.unitKind = 2 then
    (if (s.site i).column (field e.detail 1 1) = 0 ∧ (s.site i).retiring = none then s.retireColumn i (field e.detail 1 1) else s)
  else if e.unitKind = 3 then s.channelFails hi lo
  else if e.unitKind = 4 then
    (if (s.fle hi).retired.contains lo || (s.fle hi).outOfService then s
     else s.retireArray hi lo ((s.fleRunner hi).map (fun x => (x.1, x.2.1))))
  else if e.unitKind = 5 then s.pathOffline (if 0x8000 ≤ e.unit then pathKey 3 (e.unit - 0x8000) else pathKey 0 (4 * e.unit + field e.detail 0 1))
  else if e.unitKind = 8 then (if (s.kport hi).state = 2 ∨ (s.kport hi).state = 3 then s.kettleDown hi lo else s)
  else if e.unitKind = 9 then s.ingestDown e.unit
  else if e.unitKind = 0x0A then s.processorOffline e.unit
  else if e.unitKind = 0x0B then s.pathOffline (pathKey 4 e.unit)
  else s

end Sys2Proof.Machine
end

