-- ==== Sys2Proof/Machine/Errors.lean ====
section
/-!
DEFINITION. Handling of error entries (R336 to R339), word parity on the plane (R342, R343), and the sideband inputs after
the Strainer (R323, R344, R458 to R460).
-/

namespace Sys2Proof.Machine

open Sys2Proof

/-! ### Handlers -/

/-- The handler of an entry (R336): 0 SEC, 1 the active SCH, 2 + site a CCC; a First-Layer Engine's arrays come after the
sites. -/
def ErrEntry.handler (e : ErrEntry) : Nat :=
  if e.status = 0x6401 ∨ e.status = 0x6403 ∨ e.status = 0x6404 ∨ e.unitKind = 6 ∨ e.unitKind = 7 ∨ (e.unitKind = 0 ∧ e.part < 4) then 1
  else if e.unitKind = 1 ∨ e.unitKind = 2 then 2 + unitSite e.unit
  else if e.unitKind = 4 then 2 + 1260 + e.unit / 256
  else if e.unitKind = 5 ∧ e.unit < 0x8000 then 2 + e.unit / 4
  else 0

/-- A handler is able to act (R353, R355). -/
def State.handlerUp (s : State) (h : Nat) : Bool := if h = 0 then !s.boot.secFailed else if h = 1 then !s.boot.schLost else true

/-- The scope of an entry contains the unit of another (R338): a partition-wide or module-wide entry, the cluster of a
core, or the unit itself. Entries of different partitions never meet. -/
def ErrEntry.contains (e f : ErrEntry) : Bool :=
  (e.part == f.part || 4 ≤ e.part) &&
  (e.sev == 4 || (e.sev == 3 && e.part < 4) || (e.unitKind == 0 && e.part == f.part) || e.status == 0x6602 ||
    (e.unitKind == f.unitKind && e.unit == f.unit) || (e.unitKind == 1 && f.unitKind == 2 && e.unit == f.unit))

/-- Whether an entry preempts the handling of another (R338). -/
def ErrEntry.preempts (e f : ErrEntry) : Bool := f.state == 1 && 1 ≤ f.sev && f.sev < e.sev && e.contains f

/-- The pending entry that a handler takes next: the highest severity, the lowest sequence (R336). -/
def State.nextError (s : State) (h : Nat) : Option ErrEntry :=
  (s.errq.entries.filter (fun e => e.state == 0 && e.handler == h)).foldl (fun best e =>
    match best with
    | none => some e
    | some b => if b.sev < e.sev then some e else some b) none

/-- ERROR_ENTRY_HANDLE (R336, R338, R339): a handler takes its next entry, unless it is busy with one that this entry does
not preempt. What the entry's rule sets in motion began when it was queued; a unit named by 0x6502 goes offline now. -/
def execErrorEntryHandle (handler : Nat) (s : State) : Host.Outcome State Fault Refusal :=
  answer s
    (match s.nextError handler with
     | none => s
     | some e =>
       if !s.handlerUp handler ∨
           s.errq.entries.any (fun f => f.state == 1 && 2 ≤ f.sev && f.handler == handler && !e.preempts f) then s
       else
         let first := (s.errq.entries.find? e.preempts).map (fun f => f.seq)
         let s := s.modErr (fun es => es.map (fun f =>
           if f.seq = e.seq then { f with state := 1, cause := if f.cause = 0 then first.getD 0 else f.cause }
           else if e.preempts f then { f with state := 2 } else f))
         if e.status = 0x6502 then s.takeOffline e else s)

/-- s with an entry copied to the event log (R386, R387). -/
def State.logEntry (s : State) (e : ErrEntry) : State :=
  s.logRecord { seq := 0, kind := 1, unit := e.unitKind * 65536 + e.unit, part := e.part, tLogged := 0, body := e.bytes } (decide (3 ≤ e.sev))

/-- ERROR_ENTRY_LOGGED (R336, R340, R341): an entry that is handled, or whose handling is this copy, goes to the event log.
It is freed, or held while its partition is in Safe-stop; 0x7101 is always held. A failed SEC copies none (R355). -/
def execErrorEntryLogged (sequence : Nat) (s : State) : Host.Outcome State Fault Refusal :=
  answer s
    (match s.errq.entries.find? (fun e => e.seq == sequence && (e.state == 3 || (e.state == 1 && e.sev ≤ 1))) with
     | none => s
     | some e =>
       if s.boot.secFailed then s
       else
         let e := { e with state := 3, tHandled := if e.state = 3 then e.tHandled else s.now }
         let keep := e.part < 4 && ((s.part e.part).state == .safeStop || e.status == 0x7101)
         (s.logEntry e).modErr (fun es =>
           if keep then es.map (fun f => if f.seq = e.seq then { e with state := 4 } else f)
           else es.filter (fun f => f.seq != e.seq)))

/-- ACKNOWLEDGE (R345): held entries of any partition up to a sequence are released. -/
def execAcknowledge (r : Req) (sequence : Nat) (s : State) : Host.Outcome State Fault Refusal :=
  answer s (s.serveWrite r 0x7100 3 4 (le 4 sequence) (fun s => (s.ackErrors sequence (fun _ => true), some 0)))

/-! ### Word parity and replay (R342, R343)

Kinds of path: 0 one plane of a mesh or edge link, path = (site × 4 + direction) × 4 + plane; 1 a router-to-unit or cache
port, path = site; 2 the bonded path of a core, path = (site × 8 + core row) × 34 + core column; 3 a narrow-path segment,
path = the channel behind it, stack × 32 + physical channel; 4 an I/O ring segment; 5 a router itself, path = site (R23); 6 the
link from the SE die to the NVMe controller, path = 0 (R36) (log 67). -/

/-- Counter numbers of a cluster's block for the replayed flits and the retrains of its router's outgoing links (R390). -/
def ctrLinkReplays : Nat := 28
def ctrLinkRetrains : Nat := 32

/-- s with replays and retrains of a path counted (R343). -/
def State.countPath (s : State) (kind path replays retrains : Nat) : State :=
  if kind = 0 then
    (s.count (siteIndex (path / 16)) (ctrLinkReplays + path / 4 % 4) replays).count (siteIndex (path / 16))
      (ctrLinkRetrains + path / 4 % 4) retrains
  else
    { s with boot := { s.boot with
        pathReplays := Tab.mod s.boot.pathReplays 0 (pathKey kind path) (· + replays)
        pathRetrains := Tab.mod s.boot.pathRetrains 0 (pathKey kind path) (· + retrains) } }

/-- The entry that a path's failure queues (R343). -/
def State.pathError (s : State) (kind path : Nat) : ErrSpec :=
  let part := fun (i : Nat) => (s.partOfRow (i / 42)).getD 0xFF
  let i := path / 272
  if kind = 0 then { status := 0x6501, unitKind := 5, unit := path / 4, detail := le 1 (path % 4) }
  else if kind = 1 ∨ kind = 5 then { status := 0x6501, part := part path, unitKind := 1, unit := siteUnit path }
  else if kind = 2 then
    { status := 0x6501, part := part i, unitKind := 2, unit := siteUnit i, detail := le 1 (path / 34 % 8) ++ le 1 (path % 34) }
  else if kind = 3 then { status := 0x6501, unitKind := 5, unit := 0x8000 + path }
  else { status := 0x6501, unitKind := 0x0B, unit := path }

/-- FLIT_PARITY_ERROR (R23, R36, R342, R343): the flit is replayed. After three failed replays 0x6501 is queued and the path
retrains once; a further failure queues 0x6502, whose handling takes it offline. Of a router that fails, its site enters
router bypass; the NVMe link has no unit in the error queue and goes out of service (R41). -/
def execFlitParityError (path kind : Nat) (replaysFailed : Nat) (retrained : Bool) (s : State) :
    Host.Outcome State Fault Refusal :=
  answer s
    (if 6 < kind ∨ kind = 6 ∧ path ≠ 0 then s
     else if replaysFailed < 3 then s.countPath kind path (replaysFailed + 1) 0
     else
       let s := s.countPath kind path 4 1
       if kind = 6 then (if retrained then s else s.pathOffline (pathKey 6 0)) else
       let s := if kind = 5 ∧ !retrained then s.pathOffline (pathKey 5 path) else s
       let e := s.pathError kind path
       let open' := (s.errq.window e).isSome
       let seq := s.errq.nextSeq
       let s := s.raise e
       if retrained ∨ open' then s
       else s.enrol { e with status := 0x6502, flags := 4, cause := seq })

/-! ### The Strainer (R459, R460): inputs 0 RECLAIM_N, 1 FAULT_IN_N, 2 WARM_RESET_N -/

/-- An input. -/
def State.input (s : State) (i : Nat) : SInput := Tab.get s.inputs {} i

/-- s with an input changed. -/
def State.modInput (s : State) (i : Nat) (f : SInput → SInput) : State := { s with inputs := Tab.mod s.inputs {} i f }

/-- s with a qualified assertion of input i: delivered as an event and taken by f, or coalesced inside the filter window; a
masked input counts nothing (R459). -/
def State.strain (s : State) (i : Nat) (f : State → State) : State :=
  let x := s.input i
  let now := s.time.ticks
  let since := now - (s.valNat (0xA700 + i) 1 / Config.tickNs + 2)
  if x.state = 2 then s.modInput i (fun x => { x with qualified := true, since := if x.qualified then x.since else now })
  else if x.state = 1 then s
  else
    let s := s.modInput i (fun x => { x with state := 1, qualified := true, since := since })
    let window := s.valNat (0xA700 + i) 2 * Config.ticksPerUs
    if (x.lastEvent.map (fun t => decide (now < t + window))).getD false then
      s.modInput i (fun x => { x with coalesced := (x.coalesced + 1) % 4294967296 })
    else f (s.modInput i (fun x => { x with events := (x.events + 1) % 4294967296, lastEvent := some now }))

/-- RECLAIM_N (R323). -/
def execReclaimN (s : State) : Host.Outcome State Fault Refusal :=
  answer s (s.strain 0 (fun s => (maskParts (s.valNat 0x2500 1)).foldl (fun s p => s.reclaim p true) s))

/-- FAULT_IN_N (R344). -/
def execFaultInN (s : State) : Host.Outcome State Fault Refusal :=
  answer s (s.strain 1 (fun s =>
    let s := s.raise { status := 0x7103, unitKind := 0x0C, unit := 1 }
    if s.valNat 0x2500 2 = 1 then
      ((maskParts (s.valNat 0x2500 3)).filter (fun p => !(s.part p).state.quiet && (s.part p).state != .safeStop)).foldl
        (fun s p => s.enterSafeStop p 0x7103) s
    else s))

/-- INPUT_STUCK (R459): active without a break for the stuck limit, an input is masked. -/
def execInputStuck (input : Nat) (s : State) : Host.Outcome State Fault Refusal :=
  answer s
    (let x := s.input input
     if 3 ≤ input ∨ x.state ≠ 1 ∨ s.time.ticks < x.since + s.valNat (0xA700 + input) 3 * Config.ticksPerMs then s
     else
       (s.raise { status := 0x6701, unitKind := 0x0C, unit := input }).modInput input (fun x =>
         { x with state := 2, qualified := true, stuck := (x.stuck + 1) % 4294967296 }))

/-- STRAINER_INPUT_RELEASE (R459): the input goes inactive; an assertion that never qualified is a rejected pulse. A masked
input begins to count its inactive time. -/
def execStrainerInputRelease (input : Nat) (s : State) : Host.Outcome State Fault Refusal :=
  answer s
    (if 3 ≤ input then s
     else s.modInput input (fun x =>
       if x.state = 2 then { x with qualified := false, since := s.time.ticks }
       else if x.state = 1 then { x with state := 0, qualified := false, since := s.time.ticks }
       else { x with rejected := (x.rejected + 1) % 4294967296 }))

/-- STRAINER_REARM (R459): a masked input that has been inactive for the re-arm interval is unmasked. -/
def execStrainerRearm (input : Nat) (s : State) : Host.Outcome State Fault Refusal :=
  answer s
    (let x := s.input input
     if 3 ≤ input ∨ x.state ≠ 2 ∨ x.qualified ∨ s.time.ticks < x.since + s.valNat (0xA700 + input) 4 * Config.ticksPerMs then s
     else s.modInput input (fun x => { x with state := 0 }))

end Sys2Proof.Machine
end

