-- ==== Sys2Proof/Machine/Startup.lean ====
section
/-!
DEFINITION. Start-up and reset (R462 to R475, R480), the flash side of the event log (R386, R389), and activation of an
update, which in recovery restarts start-up (R361, R469). How long start-up takes is timing and left out (log 10).
-/

namespace Sys2Proof.Machine

open Sys2Proof

/-! ### The event log in flash (R386, R389) -/

/-- s with SEC's log buffer programmed. -/
def State.programLog (s : State) : State := { s with log := { s.log with unprogrammed := 0 } }

/-- The log as the flash holds it when the records not yet programmed are lost (R386). -/
def EvLog.cut (l : EvLog) : EvLog :=
  let first := l.nextSeq - l.unprogrammed
  let kept := l.retained.filter (fun r => r.seq < first)
  { l with
    general := l.general.filter (fun r => r.seq < first), retained := kept, nextSeq := first
    lastGeneral := min l.lastGeneral (first - 1), lastRetained := (kept.getLast?.map (·.seq)).getD 0, unprogrammed := 0 }

/-- s at the moment SEC stops: its buffer is programmed, or lost where SEC has failed (R355, R465). -/
def State.saveLog (s : State) : State := if s.boot.secFailed then { s with log := s.log.cut } else s.programLog

/-- LOG_BUFFER_PROGRAM (R386): the 64 KiB buffer is full, or 100 ms have passed since its first record. -/
def execLogBufferProgram (s : State) : Host.Outcome State Fault Refusal :=
  answer s
    (if s.boot.secFailed ∨ !(256 ≤ s.log.unprogrammed ||
        (0 < s.log.unprogrammed && s.log.firstTick + 100 * Config.ticksPerMs ≤ s.time.ticks)) then s
     else s.programLog)

/-- Log clear (R386): the general ring is emptied and event 0x000A logged; not in Sealed. -/
def State.clearLog (s : State) (route : Nat) : State × Nat :=
  if s.secState = 2 then (s, 0x1103)
  else
    let n := s.log.general.length
    ({ s with log := { s.log with general := [] } }.logEvent 0x0A 0xFF route (le 4 n), 0)

/-- LOG_CLEAR (R386). -/
def execLogClear (r : Req) (value : Nat) (s : State) : Host.Outcome State Fault Refusal :=
  answer s (s.serveWrite r 0x7000 6 2 (le 1 value) (fun s => done (s.clearLog (Route.code r.route))))

/-- The 256 bytes of a record (R387). -/
def LogRec.bytes (x : LogRec) : List Byte :=
  withCrc (padTo 0x7C (le 8 x.seq ++ le 1 x.kind ++ le 1 x.part ++ le 2 x.event ++ le 1 x.route ++ zeros 3 ++ le 8 x.tLogged ++
    padTo 96 x.detail)) ++ padTo 128 x.body

/-- The ring that a route has selected, and the log_sequence of the last record it held (R389). -/
def State.ring (s : State) (route : Nat) : List LogRec × Nat :=
  if Tab.get s.log.region 0 route = 1 then (s.log.retained, s.log.lastRetained) else (s.log.general, s.log.lastGeneral)

/-- Oldest and Newest of a route's ring (R389). -/
def State.newestSeq (s : State) (route : Nat) : Nat := (s.ring route).2
def State.oldestSeq (s : State) (route : Nat) : Nat :=
  match (s.ring route).1 with
  | x :: _ => x.seq
  | [] => s.newestSeq route + 1

/-- Read data of a route: up to 4 records from its cursor, which advances past them (R389). -/
def State.readLog (s : State) (route : Nat) : State × List Byte :=
  let got := ((s.ring route).1.filter (fun x => decide (Tab.get s.log.cursor 0 route ≤ x.seq))).take 4
  match got.getLast? with
  | none => (s, [])
  | some x => ({ s with log := { s.log with cursor := Tab.set s.log.cursor route (x.seq + 1) } }, got.flatMap LogRec.bytes)

/-- LOG_READ_DATA (R389). -/
def execLogReadData (r : Req) (s : State) : Host.Outcome State Fault Refusal :=
  answer s (s.serve r 1 0x7000 4 (fun s =>
    let x := s.readLog (Route.code r.route)
    (x.1, some (0, x.2))))

/-! ### What outlasts a reset (R462, R466) -/

/-- The memory stacks after a reset (R466, R485): the maps, and nothing maintained (R486). A migration whose channel had
moved leaves its source as the standby (log 74). -/
def Hbm.kept (h : Hbm) : Hbm :=
  { map := h.map
    standby := h.migrations.foldl (fun t g => if g.2.phase = 0 then t else Tab.set t g.1 g.2.source) h.standby
    failed := h.failed, usable := h.usable, stale := h.stale }

/-- Counters since delivery: channel migrations and First-Layer Engine arrays retired (R216, R231). -/
def lifeCounter (k : Nat) : Bool :=
  (0x6600 ≤ k / 256 && k / 256 < 0x6880 && k % 256 == ctrChMigrations) || (0x6D00 ≤ k / 256 && k / 256 < 0x6D05 && k % 256 == 6)

/-- The sachets of a partition that a reset leaves: those in flash (R307, log 75). -/
def Part.kept (q : Part) : Part :=
  { rcv := { sachets := (q.rcv.sachets.filter (fun x => x.tier2)).map (fun x => { x with tier1 := false }) } }

/-- The state a reset starts from: what R462 and R466 keep, and everything else as at power-up. A cold start keeps the flash
and the factory record only. -/
def State.fresh (s : State) (cold : Bool) (kind : Nat) (found : Findings) : State :=
  { pending := s.pending
    time := if cold then {} else { s.time with snapState := 0, snapTime := 0, snapSeq := 0 }
    factory := if cold then { s.factory with moduleAddress := found.straps % 16 } else s.factory
    log := { s.log with cursor := [], region := [] }
    errq := if cold then {} else s.errq
    parts := partNumbers.map (fun p => (p, (s.part p).kept))
    layoutGen := s.layoutGen
    sites := s.sites.filterMap (fun e => if e.2.columns.isEmpty then none else some (e.1, { columns := e.2.columns }))
    siteState := s.siteState, spareGen := s.spareGen, spareTime := s.spareTime
    fles := s.fles.map (fun e => (e.1, { retired := e.2.retired, outOfService := e.2.outOfService }))
    hbm := s.hbm.kept
    notices := if cold then [] else s.notices ++ (s.guests.filter (fun g => g.state == 0)).map (fun g => (g.module, g.part))
    ctr := s.ctr.filter (fun e => lifeCounter e.1)
    tfb := if cold then {} else { master := s.tfb.master, clockLost := s.tfb.clockLost }
    nor := s.nor
    sec := { debugFlag := !cold && s.sec.debugFlag }
    boot :=
      { step := 1, kind := kind, time := 0, ready := false, deviceRoot := if cold then found.rootOk else s.boot.deviceRoot
        resetTick := if cold then none else some s.time.ticks }
    sensors := if cold then [] else s.sensors.map (fun e => (e.1, { e.2 with low := e.2.value, high := e.2.value }))
    inputs := if cold then found.inputsActive.map (fun i => (i, { state := 2, qualified := true })) else s.inputs
    bus := if cold then {} else s.bus
    outs := s.outs
    free := s.free }

/-! ### Boot chain (R467 to R470) -/

/-- s in recovery (R469). -/
def State.recover (s : State) (found : Findings) : State :=
  { s with boot := { s.boot with step := 0xFF, ready := false, faultOut := true, power := 1, found := some found } }

/-- s with the bank of a kind chosen: the active one, or the inactive one, which takes over; none when neither passes
(R467 steps 2 and 5). -/
def State.chooseBank (s : State) (kind : Nat) (activeOk inactiveOk : Bool) : Option State :=
  if activeOk then some s
  else
    match Tab.find s.nor.inactive kind with
    | some x =>
      if inactiveOk then
        some ({ s with nor := { s.nor with active := Tab.set s.nor.active kind x, inactive := Tab.del s.nor.inactive kind } }.logHandoff
          kind (s.activeImage kind).version x.version 1)
      else none
    | none => none

/-- s with the banks of SCH, PMC and CCC chosen (R467 step 5). -/
def State.chooseBanks (s : State) (found : Findings) : Option State :=
  [0, 1, 2].foldl (fun o k => o.bind (fun s =>
    s.chooseBank (k + 2) (found.imagesActiveOk.getD k true) (found.imagesInactiveOk.getD k true))) (some s)

/-- s with a layer's values set (R369): a value that fails its entry's type or range, and in layer 4 an rw-sealed one of a
module that starts Sealed, is skipped and logged. -/
def State.layer (s : State) (n : Nat) (isSealed : Bool) (es : List (Nat × List Byte)) : State :=
  es.foldl (fun s e =>
    let i := e.1 / 256
    let j := e.1 % 256
    match dictFind i j with
    | some d =>
      if d.fits s.grade i j d.ty e.2 ≠ 0 ∨ (isSealed ∧ n = 4 ∧ d.acc = 4 ∧ e.1 ≠ 0x8000 * 256 + 3) then
        s.logEvent 0x0C 0xFF 4 (le 1 n ++ le 2 i ++ le 1 j)
      else s.setVal i j e.2
    | none => s.logEvent 0x0C 0xFF 4 (le 1 n ++ le 2 i ++ le 1 j)) s

/-- Start state as all four layers resolve it (R369). -/
def State.startState (s : State) : Nat :=
  let k := 0x8000 * 256 + 3
  let pick := fun (es : List (Nat × List Byte)) => (es.find? (fun e => e.1 == k)).map (·.2)
  ofLe (((pick (newest s.nor.journal)).orElse (fun _ => pick ((s.nor.config.map (fun c => c.2.1)).getD []))).getD [0])

/-- s with the entries of the error queue that are not in the log copied there, and all of them freed (R466). -/
def State.emptyErrors (s : State) : State :=
  let es := s.errq.entries
  let s := (es.filter (fun e => e.state < 4)).foldl State.logEntry s
  { s with errq := { s.errq with entries := [] } }

/-- s after step 4 of R467, none where it goes into recovery (R470). -/
def State.loadRecords (s : State) (found : Findings) : Option State :=
  let s := s.emptyErrors
  let s : State := if found.trustOk then s else { s with nor := { s.nor with trust := none } }
  let bad := s.nor.config.isSome && !found.configOk
  if bad && Tab.get s.nor.counters 0 5 != 0 then none
  else
    let s := if bad then
        { s with nor := { s.nor with config := none } }.logEvent 7 0xFF 4 (le 4 s.recordVersion ++ le 1 3 ++ le 4 0)
      else s
    let shut := s.startState == 2
    some ((s.layer 3 shut ((s.nor.config.map (fun c => c.2.1)).getD [])).layer 4 shut (newest s.nor.journal))

/-! ### Self-test (R472, R473) -/

/-- Core columns of a site that fail their test and are not retired yet. -/
def State.failing (s : State) (found : Findings) (i : Nat) : List Nat :=
  ((found.badColumns.filter (fun e => e.1 == i && decide (e.2 < 34) && (s.site i).column e.2 != 2)).map (·.2)).eraseDups

/-- Spare core columns of a site. -/
def Site.spares (x : Site) : Nat := ((List.range 34).filter (fun c => x.column c == 1)).length

/-- The mark that the spare map gives a site that fails its test, none for a site that stays. -/
def State.testMark (s : State) (found : Findings) (i : Nat) : Option Nat :=
  match found.badSites.find? (fun e => e.1 == i) with
  | some e => some (if e.2 then 3 else 2)
  | none => if (s.site i).spares < (s.failing found i).length then some 2 else none

/-- Sites that the self-test reaches: active or spare (R472). -/
def State.tested (s : State) (found : Findings) : List Nat :=
  ((found.badSites.map (·.1) ++ found.badColumns.map (·.1)).eraseDups.filter (fun i => decide (i < 1260) && s.siteSt i < 2)).mergeSort

/-- s with the failing core columns of a site retired: failing spares first, then active columns to the nearest spare
(R135, R473). -/
def State.retireTested (s : State) (found : Findings) (i : Nat) : State :=
  let cols := s.failing found i
  let spare := cols.filter (fun c => (s.site i).column c == 1)
  let s := spare.foldl (fun s c => s.modSite i (fun x => { x with columns := Tab.set x.columns c 2 })) s
  (cols.filter (fun c => !spare.contains c)).foldl (fun s c =>
    match (s.site i).nearestColumn c with
    | some d => (s.modSite i (fun x => { x with columns := Tab.set (Tab.set x.columns c 2) d 0 })).raise
        { status := 0x6102, unitKind := 1, unit := siteUnit i, detail := le 1 c ++ le 1 d }
    | none => s) s

/-- s with a failed active site, of a logical number before the self-test, replaced by the spare of its row, or the row
reduced (R5, R473). -/
def State.replaceTested (s : State) (i : Nat) (number : Option Nat) : State :=
  match s.nearestSpare i with
  | some d => { s with siteState := Tab.set s.siteState d 0 }
  | none => s.raise { status := 0x6404, unitKind := 1, unit := siteUnit i, before := number }

/-- s after the self-test and spare mapping of step 7 (R472, R473). -/
def State.selfTest (s : State) (found : Findings) : State :=
  let sites := s.tested found
  let gone := sites.filterMap (fun i => (s.testMark found i).map (fun m => (i, m)))
  let lost := ((gone.map (·.1)).filter (fun i => s.siteSt i == 0)).map (fun i => (i, s.logicalOf i))
  let stay := sites.filter (fun i => !(gone.map (·.1)).contains i)
  let cols := (stay.map (fun i => (s.failing found i).length)).sum
  let arrays := found.badFleArrays.eraseDups.filter (fun e => decide (e.1 < 5 ∧ e.2 < 68) && !(s.fle e.1).retired.contains e.2)
  let chans := found.badChannels.eraseDups.filter (fun k => decide (k < 640) && !s.hbm.failed.contains (k / 32, k % 32))
  let s := stay.foldl (fun s i => s.retireTested found i) s
  let s := { s with siteState := gone.foldl (fun t e => Tab.set t e.1 e.2) s.siteState }
  let s := lost.foldl (fun (s : State) (e : Nat × Option Nat) => s.replaceTested e.1 e.2) s
  let s := arrays.foldl (fun s e => s.retireArray e.1 e.2 none) s
  let s := chans.foldl (fun s k => s.channelFails (k / 32) (k % 32)) s
  let s := if sites.isEmpty && arrays.isEmpty then s else s.mapChanged
  { s with boot := { s.boot with selfTest := [cols, gone.length, arrays.length, chans.length] } }

/-! ### Layout, security state, READY (R467 steps 8 and 9) -/

/-- s with the saved layout in force and every assigned partition Idle (R467 step 8). A saved layout that is not valid is
not committed (log 76). -/
def State.commitSaved (s : State) (old : List Slice) : State :=
  let l := s.staged
  if !s.layoutValid l then s
  else
    let s := (l.zipIdx.filter (fun e => decide (0 < e.1.rows))).foldl (fun s e =>
      s.modPart e.2 (fun q =>
        { q with
          state := .idle, firstRow := e.1.firstRow, rows := e.1.rows, firstCh := e.1.firstCh, chans := e.1.chans
          idleTick := s.time.ticks })) s
    if l = old then s else { s with layoutGen := s.layoutGen + 1 }

/-- s with the security state raised step by step up to Start state (R395, R401). -/
def State.raiseSecurity (s : State) : State :=
  let v := s.valNat 0x8000 3
  if !s.boot.deviceRoot ∨ v = 0 then s
  else
    let s := (s.requestSecState 1).1
    if v = 2 ∧ s.secState = 1 then (s.requestSecState 2).1 else s

/-- s with READY asserted after at most so many µs (R467 step 9, R468, log 2). -/
def State.readyNow (s : State) (most : Nat) : State :=
  let t := freeF32 s.free % (most + 1)
  let s := (s.spend 4).logEvent 0x0B 0xFF 4
    (le 1 s.boot.kind ++ [1, 2, 3, 4].flatMap (fun k => le 4 (s.activeImage k).version) ++ le 4 s.recordVersion)
  { s with boot := { s.boot with step := 0x0A, time := t, ready := true } }

/-- s after start-up (R467): the boot chain up to READY, recovery, or the stop at step 6. -/
def State.startUp (s : State) (cold : Bool) (kind : Nat) (found : Findings) : State :=
  let old := s.active
  let s := s.fresh cold kind found
  if !found.factoryOk then s.recover found
  else
    match s.chooseBank 1 found.secActiveOk found.secInactiveOk with
    | none => s.recover found
    | some s =>
      match s.loadRecords found with
      | none => s.recover found
      | some s =>
        match s.chooseBanks found with
        | none => s.recover found
        | some s =>
          match found.shutdownSensor with
          | some i =>
            let s := s.raise { status := 0x7102, detail := le 2 i }
            ({ s with boot := { s.boot with step := 6 } }).mainOff 1
          | none => ((s.selfTest found).commitSaved old).raiseSecurity.readyNow (if cold then 3560000 else 550000)

/-! ### Resets (R462 to R465) -/

/-- A sensor that has been sampled reads beyond its warning limit (R464). -/
def State.hot (s : State) : Bool :=
  s.sensors.any (fun e =>
    let x := ofF32 e.2.value.toNat
    match sensorLimits e.1 with
    | none => false
    | some (below, w, _) => if below then FV.lt x (whole w) else FV.lt (whole w) x)

/-- s with a warm reset made (R465, R466). Partitions that hold work stop as for Safe-stop (R462, log 77). -/
def State.warmReset (s : State) (kind : Nat) (found : Findings) : State :=
  let s := (partNumbers.filter (fun p => (s.part p).state.works)).foldl (fun s p => s.enterSafeStop p 0x1107) s
  s.saveLog.startUp false (if s.boot.step = 0x0A then kind else 5) found

/-- A request comes within the first 10 ms of a warm reset (R464). -/
def State.coalesced (s : State) : Bool :=
  (s.boot.resetTick.map (fun t => decide (s.time.ticks < t + 10 * Config.ticksPerMs))).getD false

/-- s with a warm reset requested past SEC: by pin, I3C or register (R463, R464). -/
def State.requestReset (s : State) (kind : Nat) (found : Findings) : State :=
  if s.boot.power = 0 then s
  else if s.hot then { s with boot := { s.boot with refused := (s.boot.refused + 1) % 4294967296 } }
  else if s.coalesced then s
  else s.warmReset kind found

/-- A Caddy request for a warm reset (R463, R464): answered before the reset. -/
def State.caddyReset (s : State) (r : Req) (found : Findings) : State × Option Nat :=
  if s.hot then (s, some 0x1101)
  else if s.coalesced then (s, some 0)
  else (((s.commitWrite (Route.code r.route) 0x2600 1 (le 1 1)).respond r 2 0x2600 1 0 []).warmReset 4 found, none)

/-- WARM_RESET_REQUEST (R463). -/
def execWarmResetRequest (r : Req) (value : Nat) (found : Findings) (s : State) : Host.Outcome State Fault Refusal :=
  answerTime s (s.serveWrite r 0x2600 1 2 (le 1 value) (fun s => s.caddyReset r found))

/-- MODULE_RESET (R463): a value other than 0x5752 is dropped and counted. -/
def execModuleReset (value : Nat) (found : Findings) (s : State) : Host.Outcome State Fault Refusal :=
  answerTime s
    (if s.boot.power ≠ 2 then s else if value ≠ 0x5752 then s.refuseHost 0 else s.requestReset 3 found)

/-- RSTACT (R457, R463): defining byte 0x02 asks for a warm reset. -/
def execRstact (definingByte : Nat) (found : Findings) (s : State) : Host.Outcome State Fault Refusal :=
  answerTime s (if definingByte = 2 then s.requestReset 2 found else s)

/-- WARM_RESET_N (R459, R463). -/
def execWarmResetN (found : Findings) (s : State) : Host.Outcome State Fault Refusal :=
  answerTime s (if s.boot.power = 0 then s else s.strain 2 (fun s => s.requestReset 1 found))

/-- The answer of a cold start, which samples the module address and starts the timebase from 0 (R90, R458). -/
def answerCold (s t : State) : Host.Outcome State Fault Refusal := .next { t with pending := s.pending, errq := t.settled, journal := t.journaled }

/-- BLADES_LIVE (R462, R467, R480): a cold start. -/
def execBladesLive (found : Findings) (s : State) : Host.Outcome State Fault Refusal :=
  answerCold s (if s.boot.power = 0 then s.startUp true 0 found else s)

/-- BLADE_POWER_FAIL (R480): the main domains go off at once, SEC programs its log buffer, and the module is dead until both
blades return. -/
def execBladePowerFail (s : State) : Host.Outcome State Fault Refusal :=
  answer s (if s.boot.power = 0 then s else s.saveLog.mainOff 0)

/-! ### Activation (R361, R469) -/

/-- What start-up will find once a bank of a kind is good. -/
def repaired (found : Findings) (kind : Nat) : Findings :=
  if kind = 1 then { found with secActiveOk := true }
  else { found with imagesActiveOk := (List.range 3).map (fun k => k + 2 == kind || found.imagesActiveOk.getD k true) }

/-- Activate in recovery: the bank flips and start-up begins again (R469). -/
def State.activateRecovery (s : State) (found : Findings) : State :=
  let kind := s.updateKind
  { s with nor := { s.nor with
      active := Tab.set s.nor.active kind s.update.image, inactive := Tab.del s.nor.inactive kind } }.startUp false 5
    (repaired found kind)

/-- Activate (R361). -/
def State.activate (s : State) (r : Req) : State × Option Nat :=
  if s.update.state ≠ 2 then (s, some 0x1101)
  else
    match s.boot.found with
    | some f =>
      (((s.commitWrite (Route.code r.route) 0x9000 5 (le 1 2)).respond r 2 0x9000 5 0 []).activateRecovery f, none)
    | none => (s.activateLive, some 0)

/-- UPDATE_ACTIVATE (R361). -/
def execUpdateActivate (r : Req) (s : State) : Host.Outcome State Fault Refusal :=
  answerTime s (s.serveWrite r 0x9000 5 2 (le 1 2) (fun s => s.activate r))

end Sys2Proof.Machine
end

