-- ==== Sys2Proof/Machine/Links.lean ====
section
/-!
DEFINITION. Events of the host link (R434), the I3C target (R457) and the multidrop segment (R456), and the migration
request (R242).
-/

namespace Sys2Proof.Machine

open Sys2Proof

/-! ### PCI Express (R434) -/

/-- s with the response of a Caddy request in progress in function 0's window discarded; the request is still applied. -/
def State.dropResponse (s : State) : State :=
  { s with caddy := { s.caddy with ready := false, discard := s.caddy.busy } }

/-- LINK_DOWN (R434): every armed lease is lost with cause 0x02. -/
def execLinkDown (s : State) : Host.Outcome State Fault Refusal :=
  answer s (partNumbers.foldl (fun s p => s.loseLease p 2) s.dropResponse)

/-- FUNCTION_RESET (R434): an FLR or D3hot entry of a partition function. -/
def execFunctionReset (fn : Nat) (s : State) : Host.Outcome State Fault Refusal :=
  answer s
    (if fn < 1 ∨ 4 < fn then s
     else
       (s.loseLease (fn - 1) 3).modRings (fn - 1) (fun r => { r with irqCount := 1, irqTime := 0, attachStatus := 0, doorbellErr := 0 }))

/-- FUNCTION_0_RESET (R434): the Caddy window is cleared. -/
def execFunction0Reset (s : State) : Host.Outcome State Fault Refusal :=
  answer s
    (let s := s.dropResponse
     { s with caddy := { s.caddy with req := [], rsp := [] } })

/-! ### I3C (R457). The CCC codes are those of the standard (log 7). The target lies in the always-on domain. -/

/-- s with an I3C event taken, while the always-on domain has power. -/
def State.i3c (s : State) (f : State → State) : State := if s.boot.power = 0 then s else f s

/-- s with the bus state changed. -/
def State.modBus (s : State) (f : Bus → Bus) : State := { s with bus := f s.bus }

/-- ENTDAA (R457): a target without a dynamic address sends its identifier and takes the address. -/
def execEntdaa (address : Nat) (s : State) : Host.Outcome State Fault Refusal :=
  answer s (s.i3c (fun s =>
    if s.bus.addr ≠ 0 then s
    else (s.modBus (fun b => { b with addr := address % 128 })).out (.i3c 0x07 (Config.i3cPid ++ [Config.i3cBcr, Config.i3cDcr]))))

/-- SETDASA (R457). -/
def execSetdasa (address : Nat) (s : State) : Host.Outcome State Fault Refusal :=
  answer s (s.i3c (fun s => s.modBus (fun b => { b with addr := address % 128 })))

/-- RSTDAA (R457). -/
def execRstdaa (s : State) : Host.Outcome State Fault Refusal :=
  answer s (s.i3c (fun s => s.modBus (fun b => { b with addr := 0 })))

/-- GETPID (R457). -/
def execGetpid (s : State) : Host.Outcome State Fault Refusal := answer s (s.i3c (fun s => s.out (.i3c 0x8D Config.i3cPid)))

/-- GETBCR (R457). -/
def execGetbcr (s : State) : Host.Outcome State Fault Refusal := answer s (s.i3c (fun s => s.out (.i3c 0x8E [Config.i3cBcr])))

/-- GETDCR (R457). -/
def execGetdcr (s : State) : Host.Outcome State Fault Refusal := answer s (s.i3c (fun s => s.out (.i3c 0x8F [Config.i3cDcr])))

/-- GETMWL (R457): most significant byte first. -/
def execGetmwl (s : State) : Host.Outcome State Fault Refusal := answer s (s.i3c (fun s => s.out (.i3c 0x8B (be 2 s.bus.mwl))))

/-- SETMWL (R457). -/
def execSetmwl (length : Nat) (s : State) : Host.Outcome State Fault Refusal :=
  answer s (s.i3c (fun s => s.modBus (fun b => { b with mwl := length % 65536 })))

/-- GETMRL (R457). -/
def execGetmrl (s : State) : Host.Outcome State Fault Refusal := answer s (s.i3c (fun s => s.out (.i3c 0x8C (be 2 s.bus.mrl))))

/-- ENEC (R457): the events of the mask are enabled. -/
def execEnec (events : Nat) (s : State) : Host.Outcome State Fault Refusal :=
  answer s (s.i3c (fun s => s.modBus (fun b => { b with events := b.events ||| events % 256 })))

/-- DISEC (R457): the events of the mask are disabled. -/
def execDisec (events : Nat) (s : State) : Host.Outcome State Fault Refusal :=
  answer s (s.i3c (fun s => s.modBus (fun b => { b with events := b.events &&& (255 - events % 256) })))

/-! ### The multidrop segment (R456) -/

/-- PLCA_BEACON_LOST (R456): no beacon for 4 ms. -/
def execPlcaBeaconLost (s : State) : Host.Outcome State Fault Refusal :=
  answer s (if s.bus.beaconTick + 4 * Config.ticksPerMs ≤ s.time.ticks then s.modBus (fun b => { b with beacons := false }) else s)

/-- PLCA_BEACON (R456). -/
def execPlcaBeacon (s : State) : Host.Outcome State Fault Refusal :=
  answer s (s.i3c (fun s => s.modBus (fun b => { b with beacons := true, beaconTick := s.time.ticks })))

/-! ### Migration (R242) -/

/-- A write of Migration request: bits 15:8 the stack, 7:0 the logical channel. -/
def State.writeMigration (s : State) (v : Nat) : State × Nat :=
  if 20 ≤ v / 256 ∨ 30 < v % 256 then (s, 0x1104) else s.startMigration (v / 256) (v % 256)

/-- MIGRATION_REQUEST (R242). -/
def execMigrationRequest (r : Req) (stack channel : Nat) (s : State) : Host.Outcome State Fault Refusal :=
  answer s (s.serveWrite r 0x2400 1 3 (le 2 (256 * stack + channel)) (fun s =>
    done (s.writeMigration ((256 * stack + channel) % 65536))))

end Sys2Proof.Machine
end

