-- ==== Sys2Proof/Machine/Reading.lean ====
section
/-!
DEFINITION. What the entries of the dictionary read as: entries the module itself keeps (R51, R314, R345, R384 to R391 and
the entry tables), and the counter blocks (R390, R391).
-/

namespace Sys2Proof.Machine

open Sys2Proof

/-! ### Counter blocks (R390, R391) -/

/-- The counters of a unit in block order (R140, R193, R216, R231, R274, R301, R329, R343): for each the bytes of an element
and the numbers under which the model keeps its elements. Scalars take 8 bytes. -/
def blockOrder (i : Nat) : List (Nat × List Nat) :=
  let one := fun (n : Nat) => (8, [n])
  if i < 0x6600 then
    (((List.range 12).map (fun k => one (k + 1))) ++ [(1, [13]), one 14]) ++ ((List.range 21).map (fun k => one (k + 15)))
  else if i < 0x6900 then (List.range 18).map (fun k => one (k + 1))
  else if i < 0x6A00 then
    ((List.range 7).map (fun k => one (k + 1))) ++ [(4, [8, 9, 10])] ++ ((List.range 7).map (fun k => one (k + 11))) ++
      [(4, [18, 19, 20, 21]), one 22]
  else if i < 0x6B00 then
    [one 1, (4, (List.range 11).map (· + 17))] ++ [3, 4, 5, 6, 7].map one
  else if i < 0x6C00 then [one 1, one 2, (8, [32, 33, 34, 35]), one 4, one 5]
  else if i < 0x6D00 then (List.range 6).map (fun k => one (k + 1))
  else [1, 2, 4, 5, 6].map one

/-- First index of a unit's range (R390, R391). -/
def rangeBase (i : Nat) : Nat :=
  if i < 0x6600 then 0x6100 else if i < 0x6900 then 0x6600 else i / 256 * 256

/-- A snapshot is held (R112). -/
def State.shadowed (s : State) : Bool := decide (2 ≤ s.time.snapState)

/-- Bits of counter n of a unit: the types of R140, R193, R216, R231, R274, R301 and R329; 64 where no smaller one is given. A
counter counts modulo its width (log 100). -/
def counterBits (i n : Nat) : Nat :=
  if i < 0x6600 then (if n = 14 then 8 else if [7, 9, 10, 11, 12, 16, 18, 20, 22].contains n then 32 else 64)
  else if i < 0x6900 then (if n = 18 then 16 else if [2, 4, 13, 14, 17].contains n then 32 else 64)
  else if i < 0x6A00 then (if [4, 5, 6, 7, 22].contains n then 64 else 32)
  else if i < 0x6B00 then (if [1, 3, 7].contains n then 64 else 32)
  else if i < 0x6C00 then (if n = 2 then 32 else if n = 5 then 16 else 64)
  else if i < 0x6D00 then (if n = 5 ∨ n = 6 then 32 else 64)
  else if n = 5 then 32 else if n = 6 then 8 else 64

/-- Counter n of a unit as it reads, live or from the shadow (R112), in its width. -/
def State.counterNow (s : State) (i n : Nat) : Nat :=
  (if s.shadowed then Tab.get s.shadow 0 (i * 256 + n)
  else if i < 0x6600 ∧ n = 14 then (s.site (i - 0x6100)).retiredColumns
  else s.counter i n) % 2 ^ counterBits i n

/-- Fault counter of a physical core as it reads (R140). -/
def State.coreNow (s : State) (i core : Nat) : Nat :=
  if s.shadowed then Tab.get s.shadow 0 (coreShadow (i - 0x6100) core) else Tab.get (s.site (i - 0x6100)).coreFaults 0 core

/-- The bytes of a counter. -/
def State.counterBytes (s : State) (i : Nat) (c : Nat × List Nat) : List Byte :=
  if i < 0x6600 ∧ c.2 = [13] then (List.range 272).flatMap (fun k => le 1 (s.coreNow i k))
  else c.2.flatMap (fun n => le c.1 (s.counterNow i n))

/-- Source code of a unit's block (R111, R391): 0 live, 1 shadow, 2 gated, 3 absent, 4 invalid. -/
def State.blockSource (s : State) (i : Nat) : Nat :=
  if !s.shadowed then 0
  else if (i < 0x6600 ∨ 0x6D00 ≤ i) ∧ Tab.get s.shadow 0 (i * 256) ≠ 0 then Tab.get s.shadow 0 (i * 256) else 1

/-- The counter block of a unit (R391). -/
def State.block (s : State) (i : Nat) : List Byte :=
  padTo 1024 (padTo 32 (le 2 (i - rangeBase i) ++ le 1 (s.blockSource i) ++ zeros 1 ++ le 4 (if s.shadowed then s.time.snapSeq else 0) ++
    le 8 (if s.shadowed then s.time.snapTime else s.now)) ++ (blockOrder i).flatMap (s.counterBytes i))

/-- Subindex j of a unit's counters (R390): 0 the block, then one by one; none past the last. -/
def State.counterEntry (s : State) (i j : Nat) : Option (List Byte) :=
  if j = 0 then some (s.block i) else ((blockOrder i)[j - 1]?).map (s.counterBytes i)

/-! ### Maps, lists and states -/

/-- The spare map (R314). -/
def State.spareMap (s : State) : List Byte :=
  le 4 s.spareGen ++ zeros 4 ++ le 8 s.spareTime ++ (List.range 1260).flatMap (fun i =>
    let x := s.site i
    let cols := (List.range 34).foldl (fun v c => v + x.column c * 4 ^ c) 0
    let logical := match s.logicalOf i with | some n => n % s.grade | none => 0xFF
    le 1 (s.siteSt i) ++ le 1 logical ++ zeros 2 ++ le 9 cols ++ zeros 3)

/-- Hosted guests (R308, R321): module, partition, state, slots, GiB; 16 bytes each (log 78). -/
def State.guestList (s : State) : List Byte :=
  s.guests.flatMap (fun g => padTo 16 (le 1 g.module ++ le 1 g.part ++ le 1 g.state ++ le 1 g.slots ++ le 2 g.gib))

/-- The key table (R394). -/
def State.keyTable (s : State) : List Byte :=
  s.allKeys.flatMap (fun k =>
    le 4 k.handle ++ le 1 k.ty ++ le 1 k.part ++ zeros 2 ++
      le 4 ((k.lapse.map (fun t => (t - s.time.ticks) / (1000 * Config.ticksPerMs))).getD 0) ++ zeros 4)

/-- Recovery phase (R329). -/
def State.phaseCode (s : State) (p : Nat) : Nat :=
  let r := (s.part p).rcv
  match r.reclaim, r.rollback with
  | some c, _ => 4 + c.phase
  | none, some b => if b.target.isNone then 1 else if !b.restored then 3 else 2
  | none, none => if r.fills.isEmpty then 0 else 2

/-- Cap state (R421, R424). -/
def State.capState (s : State) : Nat :=
  if s.power.governor then 3 else if !s.power.gapClasses.isEmpty then 2
  else if s.allRunning.any (fun i => (s.site i).k != 0 || s.point (rowBand (i / 42)) != 0) then 1 else 0

/-- A signed number of ns as an I32, at its bounds where it does not fit (R95). -/
def i32 (x : Int) : List Byte :=
  le 4 ((max (-2147483648) (min 2147483647 x) + 4294967296).toNat % 4294967296)

/-- Entries of partition p's deferral ledger that are not free (R291, R301). -/
def State.deferredPending (s : State) (p : Nat) : Nat :=
  if s.ledgerSize p = 0 then 0 else ((List.range 1024).filter (fun i => s.keyState p i != 0)).length

/-- The oldest entry of the error queue (R345); with none, its bytes are open. -/
def State.oldestError (s : State) : List Byte :=
  match s.errq.entries with
  | e :: _ => e.bytes
  | [] => s.erased 128

/-- Ordering code (R483). -/
def State.orderingCode (s : State) : List Byte := ascii (if s.grade = 40 then "TWK3-1200-LC" else "TWK3-1140-LC")

/-! ### Entries the module keeps -/

/-- Entries of ranges 0x1000 to 0x2FFF. -/
def State.readModule (s : State) (i j : Nat) : Option (List Byte) :=
  if i = 0x1000 then
    (if j = 1 then some s.orderingCode else if j = 2 then some (le 1 s.grade) else if j = 3 then some (padTo 16 s.factory.serial)
     else if j = 4 then some (le 4 s.factory.version) else if j = 5 then some s.identity
     else if j = 6 then some (le 4 Config.vendorNumber) else if j = 7 then some (padTo 6 s.factory.mac)
     else if j = 9 then some (le 4 Config.dictionaryVersion) else none)
  else if i = 0x1100 then (if j = 1 then some s.spareMap else some (le 4 s.spareGen))
  else if i = 0x2100 ∧ j = 3 then some (le 4 s.layoutGen)
  else if i = 0x2130 then
    let q := s.part (j - 1)
    some (le 1 (if q.state = .unassigned then 0xFF else q.firstRow))
  else if i = 0x2300 ∧ j = 2 then some s.guestList
  else if i = 0x2300 ∧ j = 3 then some (le 2 s.windowFree)
  else if i = 0x2400 ∧ j = 2 then some (le 4 ((s.hbm.migrations.map (fun g => 2 ^ g.1)).sum))
  else if i = 0x2400 ∧ j = 6 then some (le 1 s.hbm.usable)
  else if i = 0x2410 then some (le 1 (s.standby (j - 1)))
  else if i = 0x2420 then some ((List.range 31).flatMap (fun l => le 1 (s.physCh (j - 1) l)))
  else if i = 0x2600 then
    (if j = 2 then some (le 1 s.boot.kind) else if j = 3 then some (le 1 s.boot.step) else if j = 4 then some (le 4 s.boot.time)
     else if j = 5 then some (le 4 s.boot.refused) else if j = 6 then some (s.boot.selfTest.flatMap (le 2)) else none)
  else none

/-- Entries of ranges 0x3000 to 0x5FFF. -/
def State.readPart (s : State) (i j : Nat) : Option (List Byte) :=
  let p := (i - 0x3000) / 256
  let o := (i - 0x3000) % 256
  if i < 0x4000 then
    (if o = 0 ∧ j = 1 then some (le 1 (s.part p).state.code)
     else if o = 0x60 ∧ j = 3 then some (le 8 (s.spreadSize p))
     else if o = 0x60 ∧ j = 4 then some (le 8 (s.nearSize p))
     else if o = 0x80 ∧ j = 1 then some (le 1 (s.phaseCode p))
     else if o = 0x80 ∧ j = 4 then some (le 4 (s.part p).rcv.selected) else none)
  else if i = 0x4100 then
    (if j = 2 then some (le 1 s.capState) else if j = 3 then some (le 4 s.effectiveCap) else if j = 4 then some (le 2 1500) else none)
  else if i = 0x4120 then some (le 2 (if s.power.stopped.contains (j - 1) then 0 else pointClock (s.point (j - 1))))
  else if i = 0x4130 then some (le 2 (if s.power.stopped.contains (j - 1) then 0 else pointVolt (s.point (j - 1))))
  else if i = 0x4300 then
    (if j = 1 then some (le 8 s.power.droops) else if j = 2 then some (le 8 s.power.stretched)
     else if j = 3 then some (le 8 s.power.gapUs) else if j = 4 then some (s.power.thermalMs.flatMap (le 4))
     else some (le 4 s.power.holds))
  else if isSensor i then
    let x := s.sensor i
    (if j = 1 then some (le 4 x.value.toNat) else if j = 2 then some (le 4 x.low.toNat)
     else if j = 3 then some (le 4 x.high.toNat) else if j = 4 then some (le 1 x.state) else none)
  else none

/-- Entries of ranges 0x6000 and 0x7000. -/
def State.readTime (s : State) (route i j : Nat) : Option (List Byte) :=
  if i = 0x6000 then
    (if j = 1 then some (le 8 s.now) else if j = 2 then some (le 1 s.time.state) else if j = 3 then some (i32 s.time.offset)
     else if j = 4 then some (le 4 s.time.steps) else if j = 0x11 then some (le 1 s.time.snapState)
     else if j = 0x13 then some (le 4 s.time.snapSeq) else none)
  else if 0x6100 ≤ i ∧ i < 0x7000 then s.counterEntry i j
  else if i = 0x7000 then
    (if j = 1 then some (le 8 (s.oldestSeq route)) else if j = 2 then some (le 8 (s.newestSeq route))
     else if j = 3 then some (le 8 (Tab.get s.log.cursor 0 route)) else if j = 5 then some (le 1 (Tab.get s.log.region 0 route))
     else if j = 7 then some (le 8 s.log.overwritten) else none)
  else if i = 0x7100 then
    (if j = 1 then some (le 2 s.errq.entries.length) else if j = 2 then some s.oldestError
     else if j = 4 then some (le 1 s.quota) else if j = 5 then some (le 4 s.errq.nextSeq)
     else if j = 6 then some (le 4 s.errq.reserveLost) else none)
  else if 0x7110 ≤ i ∧ i < 0x7140 then
    let p := (i - 0x7100) / 16
    some (if j = 1 then le 4 (Tab.get s.errq.lost 0 p) else le 2 (s.heldErrors p))
  else none

/-- Entries of ranges 0x8000 and 0x9000. -/
def State.readSecure (s : State) (route i j : Nat) : Option (List Byte) :=
  if i = 0x8000 ∧ j = 1 then some (le 1 s.secState)
  else if i = 0x8100 ∧ j = 1 then some (le 2 s.allKeys.length)
  else if i = 0x8100 ∧ j = 2 then some s.keyTable
  else if i = 0x8200 ∧ j = 2 then some (Tab.get s.sec.spdmOut [] route)
  else if i = 0x8300 then some (le 4 (Tab.get s.nor.counters 0 (j - 1)))
  else if i = 0x8400 ∨ (i = 0x9100 ∧ j ≤ 6) then
    let x := s.staging (i == 0x8400)
    (if j = 1 then some (le 1 x.state) else if j = 5 then some (le 1 x.result) else if j = 6 then some (le 4 x.failing) else none)
  else if i = 0x8500 then some s.nor.endorsement
  else if i = 0x9000 then
    (if j = 1 then some (le 1 s.update.state) else if j = 6 then some (le 1 s.update.result)
     else if j = 9 then some (le 1 s.update.rows)
     else if 0x11 ≤ j ∧ j ≤ 0x14 then some (le 4 (s.activeImage (j - 0x10)).version)
     else if 0x21 ≤ j ∧ j ≤ 0x24 then some (le 4 (((Tab.find s.nor.inactive (j - 0x20)).map (fun x : Image => x.version)).getD 0)) else none)
  else if i = 0x9100 then
    (if j = 7 then some (le 4 s.recordVersion) else if j = 8 then some (le 4 s.nor.journal.length)
     else if j = 9 then some s.recStage.exported else none)
  else none

/-- Entries of ranges 0xA000 to 0xC000. -/
def State.readLink (s : State) (i j : Nat) : Option (List Byte) :=
  if i = 0xA100 then
    (if j = 1 then some (le 1 s.address) else if j = 4 then some (le 1 (if s.tfb.master then 1 else 0))
     else if j = 6 then some (le 4 s.tfb.errors) else if j = 7 then some (le 1 (if 5 < s.valNat 0xA100 3 then 1 else 0)) else none)
  else if i = 0xA200 ∧ j = 4 then some (le 4 s.caddy.framesDropped)
  else if i = 0xA200 ∧ j = 5 then some (le 4 s.caddy.authFailures)
  else if 0xA400 ≤ i ∧ i < 0xA40C ∧ j ≠ 5 then
    let x := s.kport (i - 0xA400)
    (if j = 1 then some (le 1 x.state) else if j = 2 then some (le 1 x.peer) else if j = 3 then some (le 1 x.peerPort)
     else if j = 4 then some (le 1 x.spare) else if j = 6 then some (le 8 x.replayed) else some (le 8 x.corrected ++ le 8 x.uncorrected))
  else if 0xA500 ≤ i ∧ i < 0xA504 then
    let k := i - 0xA500
    let x : IPort := Tab.get s.iports {} k
    (if j = 1 then some (be 6 (ofLe s.factory.mac.reverse + 1 + k)) else if j = 2 then some (le 8 x.frames)
     else if j = 3 then some (le 8 x.discarded) else some (le 4 x.flow))
  else if 0xA700 ≤ i ∧ i ≤ 0xA702 ∧ 5 ≤ j then
    let x := s.input (i - 0xA700)
    some (if j = 5 then le 1 x.state else le 4 x.events ++ le 4 x.rejected ++ le 4 x.coalesced ++ le 4 x.stuck)
  else if 0xB100 ≤ i ∧ i < 0xB140 ∧ j = 5 then some (le 4 (s.deferredPending ((i - 0xB100) / 16)))
  else if i = 0xC000 ∧ j = 2 then some (le 1 ((s.streams.map (fun e => if e.2.state = 0 then 0 else e.2.reserved)).sum))
  else if i = 0xC010 then some (le 1 (Tab.get s.iports ({} : IPort) (j - 1)).state)
  else if 0xC100 ≤ i ∧ i < 0xC180 ∧ j = 0x10 then some (le 1 (s.stream (i - 0xC100)).state)
  else if 0xC100 ≤ i ∧ i < 0xC180 ∧ j = 0x11 then some (le 8 (s.stream (i - 0xC100)).pos)
  else none

/-- The value of an entry that the module keeps itself, none for one that holds its written value or its default. -/
def State.kept (s : State) (route i j : Nat) : Option (List Byte) :=
  if i < 0x3000 then s.readModule i j
  else if i < 0x6000 then s.readPart i j
  else if i < 0x8000 then s.readTime route i j
  else if i < 0xA000 then s.readSecure route i j
  else s.readLink i j

/-- A read of an entry over a route: the state after it, its status and value (R368, R373). -/
def State.readEntry (s : State) (route i j : Nat) : State × Nat × List Byte :=
  match dictFind i j with
  | none => (s, 0x1203, [])
  | some e =>
    if e.acc = 2 then (s, 0x1202, [])
    else if i = 0x2200 ∧ j = 0x10 ∧ s.valNat 0x2200 1 = 0 then (s, 0x1102, [])
    else if i = 0x2200 ∧ j = 0x11 then (s, s.readDebug)
    else if i = 0x7000 ∧ j = 4 then
      let x := s.readLog route
      (x.1, 0, x.2)
    else if 0x6100 ≤ i ∧ i < 0x7000 ∧ s.counterEntry i j = none then (s, 0x1203, [])
    else
      let v := (s.kept route i j).getD (s.val i j)
      (if i = 0x7100 ∧ j = 2 && s.errq.entries.isEmpty then s.spend 128 else s, 0, v)

end Sys2Proof.Machine
end

