-- ==== Sys2Proof/Machine/CaddyServe.lean ====
section
/-!
DEFINITION. Caddy requests as a whole (R53, R371 to R378): reads, writes with their segments and the effect of each entry,
identify, and the PCI Express window.
-/

namespace Sys2Proof.Machine

open Sys2Proof

/-! ### Reads and identify -/

/-- s with a read served: up to 1,024 bytes of the value from an offset (R372). -/
def State.readRequest (s : State) (r : Req) (i j offset : Nat) : State :=
  s.serve r 1 i j (fun s =>
    let x := s.readEntry (Route.code r.route) i j
    (x.1, some (x.2.1, (x.2.2.drop offset).take 1024)))

/-- CADDY_READ (R372). -/
def execCaddyRead (r : Req) (index sub offset : Nat) (s : State) : Host.Outcome State Fault Refusal :=
  answer s (s.readRequest r index sub offset)

/-- The value of identify: 0x1000:01 to 0x1000:07, each prefixed by its U16 length (R372). -/
def State.identifyValue (s : State) : List Byte :=
  [1, 2, 3, 4, 5, 6, 7].flatMap (fun j =>
    let v := (s.readModule 0x1000 j).getD []
    le 2 v.length ++ v)

/-- s with an identify request served. -/
def State.identifyRequest (s : State) (r : Req) : State :=
  s.serve r 4 0 0 (fun s => (s, some (0, s.identifyValue)))

/-- CADDY_IDENTIFY (R372): it may be broadcast on the Caddy port (R375). -/
def execCaddyIdentify (r : Req) (broadcast : Bool) (s : State) : Host.Outcome State Fault Refusal :=
  answer s (s.identifyRequest (if broadcast then { r with dest := 1 } else r))

/-! ### The effect of each entry -/

/-- Update kind (R360): writable in idle, committed or failed; a new update begins there (log 70). -/
def State.writeKind (s : State) : State × Nat :=
  if 1 ≤ s.update.state ∧ s.update.state ≤ 3 then (s, 0x1101)
  else (s.modUpdate (fun u => { state := 0, result := u.result }), 0)

/-- s with a value of the event log's entries that each route keeps for itself (R389). -/
def State.writeCursor (s : State) (route j v : Nat) : State :=
  if j = 3 then { s with log := { s.log with cursor := Tab.set s.log.cursor route v } }
  else { s with log := { s.log with region := Tab.set s.log.region route v } }

/-- Effects of the entries that have a step of their own, and of others that do more than hold a value, below 0x8000. Each
answers a status, or leaves the response for later. -/
def State.lowEffect (s : State) (r : Req) (i j : Nat) (bs : List Byte) : State × Option Nat :=
  let v := ofLe bs
  let route := Route.code r.route
  let p := (i - 0x3000) / 256
  let o := (i - 0x3000) % 256
  if i = 0x2100 ∧ j = 1 then s.writeLayout r
  else if i = 0x2200 ∧ j = 1 then done (s.writeVisibility v)
  else if i = 0x2200 ∧ j = 0x10 then (s, some (if s.valNat 0x2200 1 = 0 then 0x1102 else 0))
  else if i = 0x2200 ∧ j = 0x11 then done (s.writeDebug bs)
  else if i = 0x2400 ∧ j = 1 then done (s.writeMigration v)
  else if i = 0x2600 ∧ j = 1 then s.caddyReset r {}
  else if 0x3000 ≤ i ∧ i < 0x3400 ∧ o = 0 ∧ j = 2 then done (s.runControl p v route)
  else if 0x3000 ≤ i ∧ i < 0x3400 ∧ o = 0x20 ∧ j = 1 then s.writePartner r p v
  else if 0x3000 ≤ i ∧ i < 0x3400 ∧ o = 0x20 ∧ j = 2 then s.writeWindowRequest r p v
  else if isSensor i ∧ j = 5 then (s.resetSensor i, some 0)
  else if i = 0x6000 ∧ j = 5 then done (s.writeTimebase v)
  else if i = 0x6000 ∧ j = 0x10 then done (s.writeSnapshot v)
  else if i = 0x6000 ∧ j = 0x12 then (s.releaseSnapshot, some 0)
  else if i = 0x7000 ∧ (j = 3 ∨ j = 5) then (s.writeCursor route j v, some 0)
  else if i = 0x7000 ∧ j = 6 then done (s.clearLog route)
  else if i = 0x7100 ∧ j = 3 then (s.ackErrors v (fun _ => true), some 0)
  else done (s.savedEffect i j v 0x1FF)

/-- The same from 0x8000 on. -/
def State.highEffect (s : State) (r : Req) (i j : Nat) (bs : List Byte) : State × Option Nat :=
  let v := ofLe bs
  if i = 0x8000 ∧ j = 2 then done (s.requestSecState v)
  else if i = 0x8100 ∧ j = 3 then (s.eraseKeys (fun k => v == 0xFFFFFFFF || k.handle == v), some 0)
  else if i = 0x8200 ∧ j = 1 then (s.spdmWrite (Route.code r.route) bs, some 0)
  else if (i = 0x8400 ∨ i = 0x9100) ∧ j = 3 then done (s.stageRecord (i == 0x8400) bs)
  else if (i = 0x8400 ∨ i = 0x9100) ∧ j = 4 then s.recordControl r (i == 0x8400) v allOk
  else if i = 0x9000 ∧ j = 2 then done s.writeKind
  else if i = 0x9000 ∧ j = 4 then done (s.stageUpdate bs)
  else if i = 0x9000 ∧ j = 5 then (if v = 1 then done (s.verifyUpdate allOk) else if v = 2 then s.activate r else done s.cancelUpdate)
  else if i = 0xA100 ∧ j = 5 then (s.tfbSend 2 [v % 65536, v / 65536], some 0)
  else if i = 0xB000 ∧ j = 3 then (s.declareLost v true, some 0)
  else done (s.savedEffect i j v 0x1FF)

/-- The effect of an accepted value of entry i:j (R53). -/
def State.entryEffect (s : State) (r : Req) (i j : Nat) (bs : List Byte) : State × Option Nat :=
  if i < 0x8000 then s.lowEffect r i j bs else s.highEffect r i j bs

/-- t after a write of entry i:j made on s: a changed value that measurement 9 covers ends the sessions (R406). -/
def State.afterWrite (s t : State) (i j : Nat) : State :=
  if measured i j && t.val i j != s.val i j then t.remeasured else t

/-! ### Segments (R372) -/

/-- The segments of a route and entry that are still held: the next one comes within 1 s (R372). -/
def State.segments (s : State) (route : Route) (i j : Nat) : Option Segs :=
  s.caddy.segs.find? (fun x => x.route == route && x.index == i && x.sub == j && decide (s.time.ticks < x.tick + 1000 * Config.ticksPerMs))

/-- s with the segments of a route and entry dropped. -/
def State.dropSegments (s : State) (route : Route) (i j : Nat) : State :=
  { s with caddy := { s.caddy with segs := s.caddy.segs.filter (fun x => !(x.route == route && x.index == i && x.sub == j)) } }

/-- Whether an entry takes segments at all: a STR or OCTETS that may be written, of the type named (R371, R372): 0, or the
status that refuses one. -/
def segmentStatus (i j ty : Nat) : Nat :=
  match dictFind i j with
  | none => 0x1203
  | some e => if e.acc = 0 ∨ e.ty ≠ ty ∨ typeSize e.ty ≠ 0 then 0x1202 else 0

/-- s with a segment taken (R372): the bytes so far, and the whole value once the last segment has come. -/
def State.takeSegment (s : State) (r : Req) (i j : Nat) (bs : List Byte) (offset total : Nat) (more : Bool) :
    State × Option (Option (List Byte)) :=
  let old := s.segments r.route i j
  let s := s.dropSegments r.route i j
  let held : Option (List Byte) :=
    if offset = 0 then some []
    else match old with
      | some x => if x.bytes.length = offset ∧ x.total = total then some x.bytes else none
      | none => none
  match held with
  | none => (s, none)
  | some b =>
    if more then
      let x : Segs := { route := r.route, index := i, sub := j, bytes := b ++ bs, total := total, tick := s.time.ticks }
      ({ s with caddy := { s.caddy with segs := x :: s.caddy.segs } }, some none)
    else if (b ++ bs).length = total then (s, some (some (b ++ bs)))
    else (s, none)

/-- s with a whole value of entry i:j accepted and applied, and the status (R53, R348). -/
def State.applyValue (s : State) (r : Req) (i j ty : Nat) (bs : List Byte) : State × Option (Nat × List Byte) :=
  let st := s.writeStatus i j ty bs
  if st ≠ 0 then (s, some (st, []))
  else
    match (s.acceptWrite (sourceOf r) r.txn i j bs).entryEffect r i j bs with
    | (t, some 0) => (t.commitWrite (Route.code r.route) i j bs, some (0, []))
    | (t, some st) => (t, some (st, []))
    | (t, none) => (t, none)

/-- s with one PDU of a segmented write served (R372). -/
def State.segmentRequest (s : State) (r : Req) (i j ty : Nat) (bs : List Byte) (offset total : Nat) (more : Bool) : State :=
  s.serve r 2 i j (fun s =>
    let st := segmentStatus i j ty
    if st ≠ 0 then (s, some (st, []))
    else
      match s.takeSegment r i j bs offset total more with
      | (t, none) => (t, some (0x1202, []))
      | (t, some none) => (t, some (0, []))
      | (t, some (some v)) => t.applyValue r i j ty v)

/-- s with a write served: whole in one PDU, or a segment of it (R53, R371, R372). -/
def State.writeRequest (s : State) (r : Req) (i j ty : Nat) (bs : List Byte) (offset total : Nat) (more : Bool) : State :=
  let t :=
    if more ∨ offset ≠ 0 then s.segmentRequest r i j ty bs offset total more
    else s.serve r 2 i j (fun s => if total ≠ bs.length ∨ 1024 < bs.length then (s, some (0x1202, [])) else s.applyValue r i j ty bs)
  s.afterWrite t i j

/-- CADDY_WRITE (R53). -/
def execCaddyWrite (r : Req) (index sub ty : Nat) (value : List Byte) (offset total : Nat) (more : Bool) (s : State) :
    Host.Outcome State Fault Refusal :=
  answerTime s (s.writeRequest r index sub ty value offset total more)

/-! ### The PCI Express window (R378) -/

/-- The request whose PDU stands in the window (R371). -/
def windowReq (b : List Byte) : Req :=
  { route := .pcie, txn := field b 4 4, version := field b 0 1, reserved := field b 3 1 }

/-- s with the PDU of CADDY_REQ served (R372, R378). An unknown operation is refused with 0x1202. -/
def State.windowRequest (s : State) : State :=
  let b := padTo 1056 s.caddy.req
  let r := windowReq b
  let op := field b 1 1
  let i := field b 8 2
  let j := field b 0x0A 1
  let n := field b 0x0E 2
  let offset := field b 0x10 4
  if op = 1 then s.readRequest r i j offset
  else if op = 2 then
    s.writeRequest r i j (field b 0x0B 1) (slice b 0x20 n) offset (field b 0x14 4) (bit (field b 2 1) 1)
  else if op = 3 then
    s.serve r 3 i j (fun s =>
      match s.describe i j with
      | none => (s, some (0x1203, []))
      | some v => (s, some (0, (v.drop offset).take 1024)))
  else if op = 4 then s.identifyRequest r
  else s.serve r op i j (fun s => (s, some (0x1202, [])))

/-- CADDY_DB (R378): the request is submitted, unless one is in progress. -/
def execCaddyDb (value : Nat) (s : State) : Host.Outcome State Fault Refusal :=
  answerTime s
    (if s.boot.power ≠ 2 then s
     else if s.caddy.busy ∨ value ≠ 1 then s.refuseHost 0
     else { s with caddy := { s.caddy with busy := true } }.windowRequest)

/-- CADDY_RSP (R378): the read answers the response PDU and clears response ready. -/
def execCaddyRsp (s : State) : Host.Outcome State Fault Refusal :=
  answer s
    (if s.boot.power ≠ 2 then s
     else { s with caddy := { s.caddy with ready := false } }.out (.reg 0 0x1800 (ofLe s.caddy.rsp)))

end Sys2Proof.Machine
end

