-- ==== Sys2Proof/Machine/Dispatch.lean ====
section
/-!
DEFINITION. The effect of each command: one arm for each constructor of Instr, one call of its meaning.
-/

namespace Sys2Proof.Machine

open Sys2Proof

/-- The command's effect on everything but the queue of commands. -/
def exec (i : Instr) (s : State) : Host.Outcome State Fault Refusal :=
  match i with
  | .caddyRead r index sub offset => Sys2Proof.Machine.execCaddyRead r index sub offset s
  | .caddyWrite r index sub ty value offset total more => Sys2Proof.Machine.execCaddyWrite r index sub ty value offset total more s
  | .caddyDescribe r index sub offset => Sys2Proof.Machine.execCaddyDescribe r index sub offset s
  | .caddyIdentify r broadcast => Sys2Proof.Machine.execCaddyIdentify r broadcast s
  | .caddySegmentTimeout route index sub => Sys2Proof.Machine.execCaddySegmentTimeout route index sub s
  | .start r p => Sys2Proof.Machine.execStart r p s
  | .drain r p => Sys2Proof.Machine.execDrain r p s
  | .abort r p => Sys2Proof.Machine.execAbort r p s
  | .reclaim r p => Sys2Proof.Machine.execReclaim r p s
  | .scrub r p => Sys2Proof.Machine.execScrub r p s
  | .clearSafeStop r p => Sys2Proof.Machine.execClearSafeStop r p s
  | .layoutCommit r value => Sys2Proof.Machine.execLayoutCommit r value s
  | .hostedPartnerWindow r gib => Sys2Proof.Machine.execHostedPartnerWindow r gib s
  | .partnerModuleAddress r p address => Sys2Proof.Machine.execPartnerModuleAddress r p address s
  | .partnerWindowRequest r p gib => Sys2Proof.Machine.execPartnerWindowRequest r p gib s
  | .accumulatorVisibility r value => Sys2Proof.Machine.execAccumulatorVisibility r value s
  | .debugTileData r write => Sys2Proof.Machine.execDebugTileData r write s
  | .timebaseSet r t => Sys2Proof.Machine.execTimebaseSet r t s
  | .snapshotTime r t => Sys2Proof.Machine.execSnapshotTime r t s
  | .snapshotLatch => Sys2Proof.Machine.execSnapshotLatch s
  | .snapshotRelease r value => Sys2Proof.Machine.execSnapshotRelease r value s
  | .migrationRequest r stack channel => Sys2Proof.Machine.execMigrationRequest r stack channel s
  | .acknowledge r sequence => Sys2Proof.Machine.execAcknowledge r sequence s
  | .declareModuleLost r address => Sys2Proof.Machine.execDeclareModuleLost r address s
  | .reclaimNoticeSend r modules partitions => Sys2Proof.Machine.execReclaimNoticeSend r modules partitions s
  | .warmResetRequest r value found => Sys2Proof.Machine.execWarmResetRequest r value found s
  | .sensorMinMaxReset r index value => Sys2Proof.Machine.execSensorMinMaxReset r index value s
  | .logClear r value => Sys2Proof.Machine.execLogClear r value s
  | .logReadData r => Sys2Proof.Machine.execLogReadData r s
  | .keyErase r handle => Sys2Proof.Machine.execKeyErase r handle s
  | .securityStateRequest r value => Sys2Proof.Machine.execSecurityStateRequest r value s
  | .updateStagingData r bytes => Sys2Proof.Machine.execUpdateStagingData r bytes s
  | .updateVerify r v => Sys2Proof.Machine.execUpdateVerify r v s
  | .updateActivate r => Sys2Proof.Machine.execUpdateActivate r s
  | .updateCancel r => Sys2Proof.Machine.execUpdateCancel r s
  | .activationHold => Sys2Proof.Machine.execActivationHold s
  | .handoffPoint => Sys2Proof.Machine.execHandoffPoint s
  | .handoffAcceptance accept crashed => Sys2Proof.Machine.execHandoffAcceptance accept crashed s
  | .acceptanceLimit => Sys2Proof.Machine.execAcceptanceLimit s
  | .cccHandoffWait row => Sys2Proof.Machine.execCccHandoffWait row s
  | .recordStagingData r bytes => Sys2Proof.Machine.execRecordStagingData r bytes s
  | .recordVerify r v => Sys2Proof.Machine.execRecordVerify r v s
  | .recordApply r => Sys2Proof.Machine.execRecordApply r s
  | .recordCancel r => Sys2Proof.Machine.execRecordCancel r s
  | .recordExport r => Sys2Proof.Machine.execRecordExport r s
  | .restoreDefaults r => Sys2Proof.Machine.execRestoreDefaults r s
  | .trustRecordStagingData r bytes => Sys2Proof.Machine.execTrustRecordStagingData r bytes s
  | .trustRecordVerify r v => Sys2Proof.Machine.execTrustRecordVerify r v s
  | .trustRecordApply r => Sys2Proof.Machine.execTrustRecordApply r s
  | .trustRecordCancel r => Sys2Proof.Machine.execTrustRecordCancel r s
  | .journalSwitch => Sys2Proof.Machine.execJournalSwitch s
  | .kettlePortEnable r k value lanesTrained => Sys2Proof.Machine.execKettlePortEnable r k value lanesTrained s
  | .bar0RegisterWrite fn offset value ide => Sys2Proof.Machine.execBar0RegisterWrite fn offset value ide s
  | .sqTailDb fn value ide => Sys2Proof.Machine.execSqTailDb fn value ide s
  | .cqHeadDb fn value ide => Sys2Proof.Machine.execCqHeadDb fn value ide s
  | .attachResume fn ide => Sys2Proof.Machine.execAttachResume fn ide s
  | .attachReset fn ide => Sys2Proof.Machine.execAttachReset fn ide s
  | .errqAck fn sequence ide => Sys2Proof.Machine.execErrqAck fn sequence ide s
  | .moduleReset value found => Sys2Proof.Machine.execModuleReset value found s
  | .caddyDb value => Sys2Proof.Machine.execCaddyDb value s
  | .caddyRsp => Sys2Proof.Machine.execCaddyRsp s
  | .doorbellErr fn ide => Sys2Proof.Machine.execDoorbellErr fn ide s
  | .bar2Write fn address bytes ide => Sys2Proof.Machine.execBar2Write fn address bytes ide s
  | .submissionConsume p => Sys2Proof.Machine.execSubmissionConsume p s
  | .listStart p lane => Sys2Proof.Machine.execListStart p lane s
  | .commandDispatch kind q => Sys2Proof.Machine.execCommandDispatch kind q s
  | .commandComplete kind q => Sys2Proof.Machine.execCommandComplete kind q s
  | .deadlineMiss p lane => Sys2Proof.Machine.execDeadlineMiss p lane s
  | .barrierStalled p kind => Sys2Proof.Machine.execBarrierStalled p kind s
  | .heartbeatSample p => Sys2Proof.Machine.execHeartbeatSample p s
  | .hostLeaseExpired p => Sys2Proof.Machine.execHostLeaseExpired p s
  | .orphanServingTimeout p => Sys2Proof.Machine.execOrphanServingTimeout p s
  | .irqCoalesceTimer p => Sys2Proof.Machine.execIrqCoalesceTimer p s
  | .scheduleTick p lane => Sys2Proof.Machine.execScheduleTick p lane s
  | .gemm n parity => Sys2Proof.Machine.execGemm n parity s
  | .spatialOperator u => Sys2Proof.Machine.execSpatialOperator u s
  | .setArrayModeWide n => Sys2Proof.Machine.execSetArrayModeWide n s
  | .setArrayModeChive16 n => Sys2Proof.Machine.execSetArrayModeChive16 n s
  | .setArrayModeChive32 n => Sys2Proof.Machine.execSetArrayModeChive32 n s
  | .loadStationary u => Sys2Proof.Machine.execLoadStationary u s
  | .epilogueOnly u => Sys2Proof.Machine.execEpilogueOnly u s
  | .preemption n passesDone => Sys2Proof.Machine.execPreemption n passesDone s
  | .arrayFault site coreRow coreCol u => Sys2Proof.Machine.execArrayFault site coreRow coreCol u s
  | .coreRetirementComplete site badWords => Sys2Proof.Machine.execCoreRetirementComplete site badWords s
  | .steepRampDown u => Sys2Proof.Machine.execSteepRampDown u s
  | .fleFault f array u => Sys2Proof.Machine.execFleFault f array u s
  | .vectorAdd u => Sys2Proof.Machine.execVectorAdd u s
  | .vectorMultiply u => Sys2Proof.Machine.execVectorMultiply u s
  | .vectorSubtract u => Sys2Proof.Machine.execVectorSubtract u s
  | .vectorMaximum u => Sys2Proof.Machine.execVectorMaximum u s
  | .vectorMinimum u => Sys2Proof.Machine.execVectorMinimum u s
  | .vectorCopyAndCast u => Sys2Proof.Machine.execVectorCopyAndCast u s
  | .vectorExp u => Sys2Proof.Machine.execVectorExp u s
  | .vectorReciprocal u => Sys2Proof.Machine.execVectorReciprocal u s
  | .vectorReciprocalSqrt u => Sys2Proof.Machine.execVectorReciprocalSqrt u s
  | .castOnGather u => Sys2Proof.Machine.execCastOnGather u s
  | .reduceAdd u => Sys2Proof.Machine.execReduceAdd u s
  | .checksumVerify u => Sys2Proof.Machine.execChecksumVerify u s
  | .copy n faults => Sys2Proof.Machine.execCopy n faults s
  | .decryptingCopy n badTag => Sys2Proof.Machine.execDecryptingCopy n badTag s
  | .skewedOperandFeed u => Sys2Proof.Machine.execSkewedOperandFeed u s
  | .multicast n faults => Sys2Proof.Machine.execMulticast n faults s
  | .recomputeRange n => Sys2Proof.Machine.execRecomputeRange n s
  | .reduceScatter q faults => Sys2Proof.Machine.execReduceScatter q faults s
  | .allGather q faults => Sys2Proof.Machine.execAllGather q faults s
  | .allReduce q faults => Sys2Proof.Machine.execAllReduce q faults s
  | .sachetPoint q => Sys2Proof.Machine.execSachetPoint q s
  | .sachetFetch q => Sys2Proof.Machine.execSachetFetch q s
  | .mediaBind u => Sys2Proof.Machine.execMediaBind u s
  | .decodeBlockList u => Sys2Proof.Machine.execDecodeBlockList u s
  | .closeGraceful u => Sys2Proof.Machine.execCloseGraceful u s
  | .closeAbort u => Sys2Proof.Machine.execCloseAbort u s
  | .gatherList u => Sys2Proof.Machine.execGatherList u s
  | .gatherAdd u badRows => Sys2Proof.Machine.execGatherAdd u badRows s
  | .atomicAdd p address format values stochastic => Sys2Proof.Machine.execAtomicAdd p address format values stochastic s
  | .pairAdd p address sum abs => Sys2Proof.Machine.execPairAdd p address sum abs s
  | .hbmWrite p address bytes => Sys2Proof.Machine.execHbmWrite p address bytes s
  | .hbmBlockRead p address consumer mismatch persists => Sys2Proof.Machine.execHbmBlockRead p address consumer mismatch persists s
  | .patrolBlock stack channel mismatch persists => Sys2Proof.Machine.execPatrolBlock stack channel mismatch persists s
  | .channelDegraded stack channel => Sys2Proof.Machine.execChannelDegraded stack channel s
  | .retrainingCheckFailed stack channel => Sys2Proof.Machine.execRetrainingCheckFailed stack channel s
  | .migrationCopyDone stack badBlocks => Sys2Proof.Machine.execMigrationCopyDone stack badBlocks s
  | .migrationRetrainDone stack => Sys2Proof.Machine.execMigrationRetrainDone stack s
  | .marchTestDone stack passed => Sys2Proof.Machine.execMarchTestDone stack passed s
  | .channelFailed stack channel => Sys2Proof.Machine.execChannelFailed stack channel s
  | .scrubComplete p => Sys2Proof.Machine.execScrubComplete p s
  | .openMsg m => Sys2Proof.Machine.execOpenMsg m s
  | .dataMsg m => Sys2Proof.Machine.execDataMsg m s
  | .endMsg m => Sys2Proof.Machine.execEndMsg m s
  | .roi m => Sys2Proof.Machine.execRoi m s
  | .resultCredit m => Sys2Proof.Machine.execResultCredit m s
  | .abortSample m => Sys2Proof.Machine.execAbortSample m s
  | .ingestCreditTimer u => Sys2Proof.Machine.execIngestCreditTimer u s
  | .positionWritten u position d => Sys2Proof.Machine.execPositionWritten u position d s
  | .roundDeadline u => Sys2Proof.Machine.execRoundDeadline u s
  | .streamStall u => Sys2Proof.Machine.execStreamStall u s
  | .portDown port => Sys2Proof.Machine.execPortDown port s
  | .kettleFlit k seq ack crcOk => Sys2Proof.Machine.execKettleFlit k seq ack crcOk s
  | .nak k seq => Sys2Proof.Machine.execNak k seq s
  | .hello k peer peerPort lanes secVersion => Sys2Proof.Machine.execHello k peer peerPort lanes secVersion s
  | .remap k lane phase => Sys2Proof.Machine.execRemap k lane phase s
  | .kettleLaneRemapped k lane ok => Sys2Proof.Machine.execKettleLaneRemapped k lane ok s
  | .block h b => Sys2Proof.Machine.execBlock h b s
  | .credit h count => Sys2Proof.Machine.execCredit h count s
  | .refuse h status => Sys2Proof.Machine.execRefuse h status s
  | .kettleCreditTimer q => Sys2Proof.Machine.execKettleCreditTimer q s
  | .sachetBlock h sachetId offset payload crcOk => Sys2Proof.Machine.execSachetBlock h sachetId offset payload crcOk s
  | .sachetConfirm h sachetId offset count status => Sys2Proof.Machine.execSachetConfirm h sachetId offset count status s
  | .fetchRequest h sachetId offset bytes guest guestPartition region => Sys2Proof.Machine.execFetchRequest h sachetId offset bytes guest guestPartition region s
  | .fetchData h sachetId offset payload crcOk => Sys2Proof.Machine.execFetchData h sachetId offset payload crcOk s
  | .fetchRefuse h status => Sys2Proof.Machine.execFetchRefuse h status s
  | .windowBind h gib partition => Sys2Proof.Machine.execWindowBind h gib partition s
  | .windowReply h status slots => Sys2Proof.Machine.execWindowReply h status slots s
  | .windowRelease h partition => Sys2Proof.Machine.execWindowRelease h partition s
  | .windowNotice h status => Sys2Proof.Machine.execWindowNotice h status s
  | .stragglerDeadline q => Sys2Proof.Machine.execStragglerDeadline q s
  | .ledgerCopyDone p key => Sys2Proof.Machine.execLedgerCopyDone p key s
  | .collectiveStall q => Sys2Proof.Machine.execCollectiveStall q s
  | .peerLossHold peer => Sys2Proof.Machine.execPeerLossHold peer s
  | .sync source t => Sys2Proof.Machine.execSync source t s
  | .reclaimNotice source modules partitions => Sys2Proof.Machine.execReclaimNotice source modules partitions s
  | .faultBroadcast source status fatal named => Sys2Proof.Machine.execFaultBroadcast source status fatal named s
  | .moduleLost source lost => Sys2Proof.Machine.execModuleLost source lost s
  | .landed source group epoch partition => Sys2Proof.Machine.execLanded source group epoch partition s
  | .rollbackMsg source group epoch => Sys2Proof.Machine.execRollbackMsg source group epoch s
  | .groupReclaim source group partition => Sys2Proof.Machine.execGroupReclaim source group partition s
  | .barrierSlot group notArrived even odd closed broken => Sys2Proof.Machine.execBarrierSlot group notArrived even odd closed broken s
  | .holdover => Sys2Proof.Machine.execHoldover s
  | .freeRun => Sys2Proof.Machine.execFreeRun s
  | .masterTakeover address => Sys2Proof.Machine.execMasterTakeover address s
  | .sachetCapture p faults => Sys2Proof.Machine.execSachetCapture p faults s
  | .sachetLanded p => Sys2Proof.Machine.execSachetLanded p s
  | .tier2WriteDone p => Sys2Proof.Machine.execTier2WriteDone p s
  | .tier3WriteDone p => Sys2Proof.Machine.execTier3WriteDone p s
  | .rollbackRestoreDone p => Sys2Proof.Machine.execRollbackRestoreDone p s
  | .startRestoreDone p => Sys2Proof.Machine.execStartRestoreDone p s
  | .spareSelfTestDone site passed => Sys2Proof.Machine.execSpareSelfTestDone site passed s
  | .reclaimFenceAbort p => Sys2Proof.Machine.execReclaimFenceAbort p s
  | .reclaimDeadline p => Sys2Proof.Machine.execReclaimDeadline p s
  | .errorEntryHandle handler => Sys2Proof.Machine.execErrorEntryHandle handler s
  | .errorEntryLogged sequence => Sys2Proof.Machine.execErrorEntryLogged sequence s
  | .flitParityError path kind replaysFailed retrained => Sys2Proof.Machine.execFlitParityError path kind replaysFailed retrained s
  | .faultInN => Sys2Proof.Machine.execFaultInN s
  | .reclaimN => Sys2Proof.Machine.execReclaimN s
  | .warmResetN found => Sys2Proof.Machine.execWarmResetN found s
  | .inputStuck input => Sys2Proof.Machine.execInputStuck input s
  | .strainerRearm input => Sys2Proof.Machine.execStrainerRearm input s
  | .componentFault processor component => Sys2Proof.Machine.execComponentFault processor component s
  | .cccRestarted n => Sys2Proof.Machine.execCccRestarted n s
  | .schTakeover => Sys2Proof.Machine.execSchTakeover s
  | .pmcTakeover => Sys2Proof.Machine.execPmcTakeover s
  | .secFailed => Sys2Proof.Machine.execSecFailed s
  | .getVersion m => Sys2Proof.Machine.execGetVersion m s
  | .getCapabilities m => Sys2Proof.Machine.execGetCapabilities m s
  | .negotiateAlgorithms m => Sys2Proof.Machine.execNegotiateAlgorithms m s
  | .getDigests m => Sys2Proof.Machine.execGetDigests m s
  | .getCertificate m slot offset length => Sys2Proof.Machine.execGetCertificate m slot offset length s
  | .challenge m slot => Sys2Proof.Machine.execChallenge m slot s
  | .getMeasurements m index signed => Sys2Proof.Machine.execGetMeasurements m index signed s
  | .keyExchange m slot => Sys2Proof.Machine.execKeyExchange m slot s
  | .finish m => Sys2Proof.Machine.execFinish m s
  | .keyUpdate m => Sys2Proof.Machine.execKeyUpdate m s
  | .heartbeat m => Sys2Proof.Machine.execHeartbeat m s
  | .endSession m => Sys2Proof.Machine.execEndSession m s
  | .chunkGet m handle chunk => Sys2Proof.Machine.execChunkGet m handle chunk s
  | .chunkSend m handle chunk last => Sys2Proof.Machine.execChunkSend m handle chunk last s
  | .keyDeliver m ty partition handle lifetime key => Sys2Proof.Machine.execKeyDeliver m ty partition handle lifetime key s
  | .keyRevoke m ty partition handle => Sys2Proof.Machine.execKeyRevoke m ty partition handle s
  | .keyLifetimeExpired handle => Sys2Proof.Machine.execKeyLifetimeExpired handle s
  | .ideKm m stream keySet key => Sys2Proof.Machine.execIdeKm m stream keySet key s
  | .pmcControlPeriod power => Sys2Proof.Machine.execPmcControlPeriod power s
  | .governorSample power => Sys2Proof.Machine.execGovernorSample power s
  | .droopEvent n => Sys2Proof.Machine.execDroopEvent n s
  | .sensorSample index value => Sys2Proof.Machine.execSensorSample index value s
  | .zoneThrottleStep zone => Sys2Proof.Machine.execZoneThrottleStep zone s
  | .idleGating p => Sys2Proof.Machine.execIdleGating p s
  | .bandPllStop band => Sys2Proof.Machine.execBandPllStop band s
  | .bladesLive found => Sys2Proof.Machine.execBladesLive found s
  | .bladePowerFail => Sys2Proof.Machine.execBladePowerFail s
  | .logBufferProgram => Sys2Proof.Machine.execLogBufferProgram s
  | .linkDown => Sys2Proof.Machine.execLinkDown s
  | .functionReset fn => Sys2Proof.Machine.execFunctionReset fn s
  | .function0Reset => Sys2Proof.Machine.execFunction0Reset s
  | .entdaa address => Sys2Proof.Machine.execEntdaa address s
  | .setdasa address => Sys2Proof.Machine.execSetdasa address s
  | .rstdaa => Sys2Proof.Machine.execRstdaa s
  | .getpid => Sys2Proof.Machine.execGetpid s
  | .getbcr => Sys2Proof.Machine.execGetbcr s
  | .getdcr => Sys2Proof.Machine.execGetdcr s
  | .getmwl => Sys2Proof.Machine.execGetmwl s
  | .setmwl length => Sys2Proof.Machine.execSetmwl length s
  | .getmrl => Sys2Proof.Machine.execGetmrl s
  | .enec events => Sys2Proof.Machine.execEnec events s
  | .disec events => Sys2Proof.Machine.execDisec events s
  | .rstact definingByte found => Sys2Proof.Machine.execRstact definingByte found s
  | .ingestPortUp port => Sys2Proof.Machine.execIngestPortUp port s
  | .plcaBeaconLost => Sys2Proof.Machine.execPlcaBeaconLost s
  | .plcaBeacon => Sys2Proof.Machine.execPlcaBeacon s
  | .debugSessionOpen => Sys2Proof.Machine.execDebugSessionOpen s
  | .debugSessionClose => Sys2Proof.Machine.execDebugSessionClose s
  | .strainerInputRelease input => Sys2Proof.Machine.execStrainerInputRelease input s
  | .flowControlFrame port => Sys2Proof.Machine.execFlowControlFrame port s

end Sys2Proof.Machine
end

