-- ==== Sys2Proof/Machine/Step.lean ====
section
/-!
DEFINITION. One step of the block: the command at the front of the queue, or one tick of the 25 MHz reference.
-/

namespace Sys2Proof.Machine

/-- One tick of the 25 MHz reference (R93): the timebase moves on by 40 ns at the learned correction (R91), less or more the
slew of at most 200 ppm that removes the offset left (R92). -/
def TimeState.tick (t : TimeState) : TimeState :=
  let slew : Int := if 0 < t.slewPs then min t.slewPs 8 else max t.slewPs (-8)
  { t with ticks := t.ticks + 1, ps := (Int.ofNat (t.ps + 40000) + t.corr - slew).toNat, slewPs := t.slewPs - slew }

/-- A step: run the command at the front with the queue's rest, or let one reference tick pass (log 1), in which the channel
copies in progress go on (R244), the waits of channels for credits are counted (R301) and those of components for room in a
port end (R347). -/
def step (s : State) : Host.Outcome State Fault Refusal :=
  match s.pending with
  | [] => .next { s.copyTick.stallTick.portTick with time := s.time.tick }
  | c :: rest => exec c { s with pending := rest }

/-- s with the command that a word spells put in front of its queue; no row of the table has bits, so no word spells a
command. -/
def State.withFetchWord (s : State) (nbits w : Nat) : State :=
  match Sys2Proof.decodeTableWord nbits w with
  | some c => { s with pending := c :: s.pending }
  | none => s

end Sys2Proof.Machine
end

