-- ==== Sys2Proof/Safety.lean ====
section
/-!
DEFINITION. What counts as a safe run, in the terms the statements use: the block goes on, memory keeps its canonical form,
what only ever rises does not fall, and a command changes no other piece of state than those its rules name.
-/

namespace Sys2Proof.Safety

open Sys2Proof Sys2Proof.Machine

/-- The step from s answers a next state. -/
def goesOn (s : State) : Prop := ∃ t, step s = .next t

/-- Memory is in its canonical form. -/
def memoryCanonical (s : State) : Prop := s.mem.wf = true

/-- The pieces of state, one for each field of State. -/
inductive Kind where
  | pending | time | factory | vals | caddy | log | errq | secState | parts | layoutGen | queues | sites | siteState
  | spareGen | spareTime | fles | mem | hbm | guests | notices | streams | ctr | shadow | colls | credits | fetches | xfers
  | pendingSrc | kports | iports | tfb | nor | update | recStage | trustStage | sec | boot | journal | power | sensors
  | inputs | bus | commitWait | applyWait | outs | free
deriving DecidableEq, Repr

/-- A piece of state reads the same in two states. -/
def Kind.same (k : Kind) (s t : State) : Prop :=
  match k with
  | .pending => t.pending = s.pending
  | .time => t.time = s.time
  | .factory => t.factory = s.factory
  | .vals => t.vals = s.vals
  | .caddy => t.caddy = s.caddy
  | .log => t.log = s.log
  | .errq => t.errq = s.errq
  | .secState => t.secState = s.secState
  | .parts => t.parts = s.parts
  | .layoutGen => t.layoutGen = s.layoutGen
  | .queues => t.queues = s.queues
  | .sites => t.sites = s.sites
  | .siteState => t.siteState = s.siteState
  | .spareGen => t.spareGen = s.spareGen
  | .spareTime => t.spareTime = s.spareTime
  | .fles => t.fles = s.fles
  | .mem => t.mem = s.mem
  | .hbm => t.hbm = s.hbm
  | .guests => t.guests = s.guests
  | .notices => t.notices = s.notices
  | .streams => t.streams = s.streams
  | .ctr => t.ctr = s.ctr
  | .shadow => t.shadow = s.shadow
  | .colls => t.colls = s.colls
  | .credits => t.credits = s.credits
  | .fetches => t.fetches = s.fetches
  | .xfers => t.xfers = s.xfers
  | .pendingSrc => t.pendingSrc = s.pendingSrc
  | .kports => t.kports = s.kports
  | .iports => t.iports = s.iports
  | .tfb => t.tfb = s.tfb
  | .nor => t.nor = s.nor
  | .update => t.update = s.update
  | .recStage => t.recStage = s.recStage
  | .trustStage => t.trustStage = s.trustStage
  | .sec => t.sec = s.sec
  | .boot => t.boot = s.boot
  | .journal => t.journal = s.journal
  | .power => t.power = s.power
  | .sensors => t.sensors = s.sensors
  | .inputs => t.inputs = s.inputs
  | .bus => t.bus = s.bus
  | .commitWait => t.commitWait = s.commitWait
  | .applyWait => t.applyWait = s.applyWait
  | .outs => t.outs = s.outs
  | .free => t.free = s.free

/-- From s to t no other piece of state changed than those of ks. -/
def onlyChanges (ks : List Kind) (s t : State) : Prop := ∀ k, k ∉ ks → k.same s t

/-- What holds between a state and every later one: canonical memory stays canonical; anti-rollback counters (R399), the
layout generation (R60) and the spare map's generation (R314) never fall; a failed channel stays failed (R243, R245). -/
structure oneWay (s t : State) : Prop where
  memory : s.mem.wf = true → t.mem.wf = true
  rollback : ∀ k, Tab.get s.nor.counters 0 k ≤ Tab.get t.nor.counters 0 k
  layouts : s.layoutGen ≤ t.layoutGen
  spares : s.spareGen ≤ t.spareGen
  channels : ∀ c, c ∈ s.hbm.failed → c ∈ t.hbm.failed

/-! ### What completion statements speak of -/

/-- A Caddy request on entry i:j passes the checks that stand before the entry (R371 to R379, R469, R471). -/
def admits (s : State) (r : Req) (op i j : Nat) : Prop := (s.gate r op i j).2 = .pass

/-- A Caddy write is admitted, and its value fits its entry and the state that the entry asks for (R52, R367, R368,
R373). -/
def acceptsWrite (s : State) (r : Req) (i j ty : Nat) (bs : List Byte) : Prop :=
  admits s r 2 i j ∧ s.writeStatus i j ty bs = 0

/-- The response to a request, with its status and value, is the newest that is kept for its source (R371, R374). -/
def respondedWith (t : State) (r : Req) (op i j st : Nat) (v : List Byte) : Prop :=
  t.caddy.kept.head? =
    some { source := sourceOf r, txn := r.txn, op := op, index := i, sub := j, status := st, value := v }

/-- Command r of queue n of kind k runs, and nothing holds its engine (R69, R135). -/
def runs (s : State) (k n : Nat) (r : QRef) (c : CmdRec) : Prop := s.running k n = some (r, c) ∧ s.holds k n = false

/-- From s to t the running command r of queue n of kind k was handed over with all its writes issued and a status (R69,
R101): the engine is free, and the command waits for its acknowledgement. -/
def handedOver (k n : Nat) (r : QRef) (c : CmdRec) (status : Nat) (s t : State) : Prop :=
  (t.queue k n).running = none ∧ (t.queue k n).issued = (s.queue k n).issued ++ [r] ∧
    ∃ d, t.cmdOf r = some d ∧ d.st = .issued ∧ d.status = mergeStatus c.status status

/-- From s to t every place of memory outside the n bytes from partition address a of partition p reads as before. -/
def bytesKept (p a n : Nat) (s t : State) : Prop :=
  ∀ k, (∀ i, i < n → s.place p (a + i) ≠ some k) → Mem.get t.mem k = Mem.get s.mem k

/-! ### Which command changes what -/

/-- The pieces of state that a command's rules let it change: no other changes. What a command may set in motion counts: an
error entry can stop a partition, whose lists, streams and queues then end. -/
def footprint (c : Instr) : List Kind :=
  match c with
  | .caddyRead .. =>
    [.caddy, .log, .errq, .journal, .outs, .free]
  | .caddyWrite .. | .warmResetRequest .. | .updateActivate .. | .moduleReset .. | .caddyDb .. | .warmResetN ..
  | .rstact .. =>
    [.time, .vals, .caddy, .log, .errq, .secState, .parts, .layoutGen, .queues, .sites, .siteState, .spareGen,
    .spareTime, .fles, .mem, .hbm, .guests, .notices, .streams, .ctr, .shadow, .colls, .credits, .fetches, .xfers,
    .pendingSrc, .kports, .iports, .tfb, .nor, .update, .recStage, .trustStage, .sec, .boot, .journal, .power,
    .sensors, .inputs, .bus, .commitWait, .applyWait, .outs, .free]
  | .caddyDescribe .. | .caddyIdentify .. | .logReadData .. =>
    [.caddy, .log, .errq, .journal, .outs]
  | .caddySegmentTimeout .. | .function0Reset =>
    [.caddy, .errq, .journal]
  | .start .. | .drain .. | .abort .. | .reclaim .. | .scrub .. | .clearSafeStop .. =>
    [.vals, .caddy, .log, .errq, .parts, .queues, .sites, .mem, .hbm, .streams, .ctr, .colls, .credits, .fetches,
    .xfers, .pendingSrc, .kports, .tfb, .nor, .boot, .journal, .power, .outs, .free]
  | .layoutCommit .. =>
    [.vals, .caddy, .log, .errq, .parts, .layoutGen, .sites, .mem, .hbm, .nor, .journal, .commitWait, .outs]
  | .hostedPartnerWindow .. =>
    [.vals, .caddy, .log, .errq, .mem, .hbm, .guests, .kports, .nor, .journal, .outs]
  | .partnerModuleAddress .. | .partnerWindowRequest .. | .windowReply .. =>
    [.vals, .caddy, .log, .errq, .parts, .kports, .nor, .journal, .outs]
  | .accumulatorVisibility .. =>
    [.vals, .caddy, .log, .errq, .mem, .hbm, .nor, .journal, .outs]
  | .debugTileData .. =>
    [.vals, .caddy, .log, .errq, .mem, .nor, .journal, .outs]
  | .timebaseSet .. =>
    [.time, .vals, .caddy, .log, .errq, .parts, .mem, .hbm, .shadow, .nor, .journal, .outs]
  | .snapshotRelease .. =>
    [.time, .vals, .caddy, .log, .errq, .shadow, .nor, .journal, .outs]
  | .snapshotTime .. =>
    [.time, .vals, .caddy, .log, .errq, .nor, .journal, .outs]
  | .snapshotLatch =>
    [.time, .errq, .shadow, .journal]
  | .migrationRequest .. =>
    [.vals, .caddy, .log, .errq, .hbm, .nor, .journal, .outs]
  | .acknowledge .. | .logClear .. =>
    [.vals, .caddy, .log, .errq, .nor, .journal, .outs]
  | .reclaimNoticeSend .. =>
    [.vals, .caddy, .log, .errq, .tfb, .nor, .journal, .outs]
  | .declareModuleLost .. =>
    [.vals, .caddy, .log, .errq, .parts, .queues, .sites, .mem, .hbm, .streams, .ctr, .colls, .credits, .fetches,
    .xfers, .tfb, .nor, .boot, .journal, .outs, .free]
  | .sensorMinMaxReset .. =>
    [.vals, .caddy, .log, .errq, .nor, .journal, .sensors, .outs]
  | .keyErase .. =>
    [.vals, .caddy, .log, .errq, .parts, .queues, .mem, .hbm, .streams, .nor, .sec, .journal, .outs, .free]
  | .securityStateRequest .. =>
    [.vals, .caddy, .log, .errq, .secState, .parts, .queues, .mem, .hbm, .streams, .nor, .sec, .journal, .outs, .free]
  | .updateStagingData .. =>
    [.vals, .caddy, .log, .errq, .nor, .update, .journal, .outs, .free]
  | .updateVerify .. | .updateCancel .. =>
    [.vals, .caddy, .log, .errq, .nor, .update, .journal, .outs]
  | .activationHold =>
    [.vals, .caddy, .log, .errq, .parts, .queues, .sites, .mem, .hbm, .guests, .streams, .ctr, .colls, .credits,
    .fetches, .xfers, .pendingSrc, .kports, .tfb, .nor, .update, .recStage, .trustStage, .sec, .boot, .journal,
    .applyWait, .outs, .free]
  | .handoffPoint =>
    [.errq, .update, .journal]
  | .handoffAcceptance .. | .acceptanceLimit | .schTakeover =>
    [.vals, .caddy, .log, .errq, .parts, .layoutGen, .queues, .sites, .mem, .hbm, .guests, .streams, .ctr, .colls,
    .credits, .fetches, .xfers, .pendingSrc, .kports, .tfb, .nor, .update, .recStage, .trustStage, .sec, .boot,
    .journal, .commitWait, .applyWait, .outs, .free]
  | .cccHandoffWait .. =>
    [.errq, .queues, .sites, .mem, .hbm, .ctr, .update, .journal, .free]
  | .recordStagingData .. | .trustRecordStagingData .. =>
    [.vals, .caddy, .log, .errq, .nor, .recStage, .trustStage, .journal, .outs]
  | .recordVerify .. | .recordApply .. | .recordCancel .. | .recordExport .. | .restoreDefaults ..
  | .trustRecordVerify .. | .trustRecordApply .. | .trustRecordCancel .. =>
    [.vals, .caddy, .log, .errq, .parts, .queues, .sites, .mem, .hbm, .guests, .streams, .ctr, .colls, .credits,
    .fetches, .xfers, .pendingSrc, .kports, .tfb, .nor, .recStage, .trustStage, .sec, .boot, .journal, .applyWait,
    .outs, .free]
  | .journalSwitch =>
    [.errq, .nor, .journal]
  | .kettlePortEnable .. | .kettleFlit .. | .remap .. | .kettleLaneRemapped .. =>
    [.vals, .caddy, .log, .errq, .parts, .queues, .sites, .mem, .hbm, .streams, .ctr, .colls, .credits, .fetches,
    .xfers, .pendingSrc, .kports, .tfb, .nor, .boot, .journal, .outs, .free]
  | .bar0RegisterWrite .. | .sqTailDb .. | .cqHeadDb .. | .linkDown =>
    [.caddy, .errq, .parts, .queues, .sites, .mem, .hbm, .streams, .ctr, .colls, .credits, .fetches, .xfers, .tfb,
    .boot, .journal, .outs, .free]
  | .attachResume .. =>
    [.caddy, .errq, .parts, .mem, .hbm, .journal, .outs]
  | .attachReset .. =>
    [.caddy, .errq, .parts, .queues, .sites, .mem, .hbm, .streams, .ctr, .colls, .credits, .fetches, .xfers, .tfb,
    .journal, .outs, .free]
  | .errqAck .. =>
    [.caddy, .errq, .parts, .journal]
  | .caddyRsp =>
    [.caddy, .errq, .journal, .outs]
  | .doorbellErr .. =>
    [.caddy, .errq, .parts, .journal, .outs]
  | .bar2Write .. =>
    [.caddy, .errq, .parts, .mem, .hbm, .ctr, .journal]
  | .submissionConsume .. | .deadlineMiss .. =>
    [.errq, .parts, .mem, .hbm, .journal, .outs]
  | .listStart .. | .barrierStalled .. | .checksumVerify .. | .patrolBlock .. | .channelDegraded ..
  | .streamStall .. | .rollbackMsg .. | .flitParityError .. | .hostLeaseExpired .. | .orphanServingTimeout ..
  | .gemm .. | .decodeBlockList .. | .closeGraceful .. | .gatherAdd .. | .hbmBlockRead .. | .migrationCopyDone ..
  | .positionWritten .. | .roundDeadline .. | .functionReset .. | .gatherList .. | .spatialOperator ..
  | .epilogueOnly .. | .loadStationary .. | .vectorAdd .. | .vectorMultiply .. | .vectorSubtract ..
  | .vectorMaximum .. | .vectorMinimum .. | .vectorCopyAndCast .. | .vectorExp .. | .vectorReciprocal ..
  | .vectorReciprocalSqrt .. | .castOnGather .. | .reduceAdd .. =>
    [.errq, .parts, .queues, .sites, .mem, .hbm, .streams, .ctr, .colls, .credits, .fetches, .xfers, .tfb, .boot,
    .journal, .outs, .free]
  | .commandDispatch .. | .preemption .. | .copy .. | .multicast .. | .skewedOperandFeed .. =>
    [.log, .errq, .parts, .queues, .sites, .mem, .hbm, .streams, .ctr, .colls, .credits, .fetches, .xfers, .tfb,
    .boot, .journal, .outs, .free]
  | .commandComplete .. =>
    [.log, .errq, .parts, .queues, .sites, .mem, .hbm, .streams, .ctr, .colls, .credits, .fetches, .xfers,
    .pendingSrc, .kports, .tfb, .boot, .journal, .outs, .free]
  | .reduceScatter .. | .allGather .. | .allReduce .. | .block .. | .credit .. | .stragglerDeadline ..
  | .ledgerCopyDone .. =>
    [.errq, .parts, .queues, .sites, .mem, .hbm, .streams, .ctr, .colls, .credits, .fetches, .xfers, .pendingSrc,
    .kports, .tfb, .boot, .journal, .outs, .free]
  | .heartbeatSample .. =>
    [.errq, .parts, .mem, .hbm, .journal]
  | .irqCoalesceTimer .. =>
    [.errq, .parts, .journal, .outs]
  | .scheduleTick .. =>
    [.errq, .parts, .queues, .mem, .hbm, .ctr, .journal]
  | .decryptingCopy .. =>
    [.log, .errq, .parts, .queues, .sites, .mem, .hbm, .ctr, .boot, .journal, .free]
  | .setArrayModeWide .. | .setArrayModeChive16 .. | .setArrayModeChive32 .. =>
    [.errq, .parts, .queues, .sites, .journal]
  | .arrayFault .. =>
    [.vals, .log, .errq, .parts, .queues, .sites, .siteState, .spareGen, .spareTime, .mem, .hbm, .streams, .ctr,
    .colls, .credits, .fetches, .xfers, .pendingSrc, .tfb, .nor, .boot, .journal, .outs, .free]
  | .coreRetirementComplete .. =>
    [.errq, .parts, .queues, .sites, .spareGen, .spareTime, .mem, .ctr, .journal, .free]
  | .steepRampDown .. =>
    [.errq, .sites, .ctr, .journal]
  | .fleFault .. =>
    [.errq, .parts, .queues, .sites, .fles, .mem, .hbm, .streams, .ctr, .colls, .credits, .fetches, .xfers, .tfb,
    .boot, .journal, .outs, .free]
  | .recomputeRange .. | .sachetPoint .. =>
    [.errq, .parts, .queues, .ctr, .journal]
  | .sachetFetch .. | .fetchRequest .. =>
    [.errq, .parts, .queues, .sites, .mem, .hbm, .streams, .ctr, .colls, .credits, .fetches, .xfers, .kports, .tfb,
    .boot, .journal, .outs, .free]
  | .fetchData .. =>
    [.errq, .parts, .queues, .mem, .hbm, .ctr, .fetches, .kports, .journal, .outs]
  | .mediaBind .. =>
    [.errq, .parts, .queues, .mem, .hbm, .streams, .journal]
  | .closeAbort .. =>
    [.errq, .parts, .queues, .mem, .hbm, .streams, .journal, .outs, .free]
  | .atomicAdd .. =>
    [.errq, .mem, .hbm, .ctr, .journal, .free]
  | .pairAdd .. | .hbmWrite .. =>
    [.errq, .mem, .hbm, .ctr, .journal]
  | .retrainingCheckFailed .. | .migrationRetrainDone .. | .marchTestDone .. =>
    [.errq, .hbm, .journal]
  | .channelFailed .. =>
    [.vals, .log, .errq, .parts, .queues, .sites, .mem, .hbm, .guests, .streams, .ctr, .colls, .credits, .fetches,
    .xfers, .pendingSrc, .kports, .tfb, .nor, .boot, .journal, .outs, .free]
  | .scrubComplete .. =>
    [.vals, .log, .errq, .parts, .queues, .sites, .mem, .hbm, .streams, .ctr, .colls, .credits, .fetches, .xfers,
    .pendingSrc, .tfb, .nor, .sec, .boot, .journal, .outs, .free]
  | .openMsg .. | .dataMsg .. | .endMsg .. | .roi .. | .resultCredit .. | .abortSample .. | .portDown .. =>
    [.errq, .parts, .queues, .sites, .mem, .hbm, .streams, .ctr, .colls, .credits, .fetches, .xfers, .iports, .tfb,
    .boot, .journal, .outs, .free]
  | .ingestCreditTimer .. =>
    [.errq, .streams, .journal, .outs]
  | .sachetConfirm .. | .sachetCapture .. | .sachetLanded .. | .barrierSlot .. =>
    [.vals, .log, .errq, .parts, .queues, .sites, .mem, .hbm, .streams, .ctr, .colls, .credits, .fetches, .xfers,
    .pendingSrc, .kports, .tfb, .nor, .boot, .journal, .outs, .free]
  | .nak .. =>
    [.errq, .kports, .journal]
  | .hello .. =>
    [.vals, .caddy, .log, .errq, .parts, .queues, .sites, .mem, .hbm, .notices, .streams, .ctr, .colls, .credits,
    .fetches, .xfers, .pendingSrc, .kports, .tfb, .nor, .boot, .journal, .outs, .free]
  | .refuse .. =>
    [.errq, .parts, .queues, .mem, .hbm, .colls, .credits, .kports, .journal, .outs]
  | .kettleCreditTimer .. =>
    [.errq, .colls, .kports, .journal, .outs]
  | .sachetBlock .. =>
    [.errq, .mem, .hbm, .guests, .ctr, .kports, .journal, .outs]
  | .fetchRefuse .. =>
    [.errq, .parts, .queues, .fetches, .kports, .journal, .outs]
  | .windowBind .. | .windowRelease .. =>
    [.errq, .guests, .kports, .journal, .outs]
  | .windowNotice .. =>
    [.errq, .parts, .kports, .journal, .outs]
  | .collectiveStall .. =>
    [.errq, .parts, .queues, .mem, .hbm, .ctr, .colls, .credits, .journal]
  | .peerLossHold .. | .faultBroadcast .. | .moduleLost .. =>
    [.vals, .log, .errq, .parts, .queues, .sites, .mem, .hbm, .streams, .ctr, .colls, .credits, .fetches, .xfers,
    .tfb, .nor, .boot, .journal, .outs, .free]
  | .sync .. =>
    [.time, .log, .errq, .parts, .mem, .hbm, .shadow, .tfb, .journal, .outs]
  | .reclaimNotice .. | .reclaimFenceAbort .. | .reclaimDeadline .. =>
    [.vals, .log, .errq, .parts, .queues, .sites, .mem, .hbm, .streams, .ctr, .colls, .credits, .fetches, .xfers,
    .pendingSrc, .tfb, .nor, .boot, .journal, .outs, .free]
  | .cccRestarted .. =>
    [.vals, .caddy, .log, .errq, .parts, .queues, .sites, .mem, .hbm, .streams, .ctr, .colls, .credits, .fetches,
    .xfers, .pendingSrc, .tfb, .nor, .boot, .journal, .outs, .free]
  | .landed .. =>
    [.vals, .errq, .parts, .tfb, .journal]
  | .groupReclaim .. =>
    [.errq, .parts, .tfb, .journal]
  | .holdover =>
    [.time, .errq, .journal]
  | .freeRun =>
    [.time, .errq, .parts, .tfb, .journal]
  | .masterTakeover .. =>
    [.time, .errq, .tfb, .journal]
  | .tier2WriteDone .. =>
    [.vals, .errq, .parts, .ctr, .journal]
  | .tier3WriteDone .. =>
    [.vals, .errq, .parts, .queues, .sites, .mem, .hbm, .streams, .ctr, .colls, .credits, .fetches, .xfers, .tfb,
    .boot, .journal, .outs, .free]
  | .rollbackRestoreDone .. =>
    [.vals, .errq, .parts, .queues, .sites, .mem, .hbm, .streams, .ctr, .colls, .credits, .fetches, .xfers,
    .pendingSrc, .tfb, .boot, .journal, .outs, .free]
  | .startRestoreDone .. =>
    [.vals, .log, .errq, .parts, .sites, .mem, .hbm, .ctr, .pendingSrc, .nor, .journal, .outs]
  | .spareSelfTestDone .. =>
    [.vals, .caddy, .log, .errq, .parts, .layoutGen, .queues, .sites, .siteState, .spareGen, .spareTime, .mem, .hbm,
    .streams, .ctr, .colls, .credits, .fetches, .xfers, .tfb, .nor, .boot, .journal, .commitWait, .outs, .free]
  | .errorEntryHandle .. =>
    [.vals, .caddy, .log, .errq, .parts, .queues, .sites, .siteState, .spareGen, .spareTime, .fles, .mem, .hbm,
    .guests, .streams, .ctr, .colls, .credits, .fetches, .xfers, .pendingSrc, .kports, .iports, .tfb, .nor, .boot,
    .journal, .power, .outs, .free]
  | .errorEntryLogged .. | .logBufferProgram =>
    [.log, .errq, .journal]
  | .faultInN | .inputStuck .. =>
    [.errq, .parts, .queues, .sites, .mem, .hbm, .streams, .ctr, .colls, .credits, .fetches, .xfers, .tfb, .boot,
    .journal, .inputs, .outs, .free]
  | .reclaimN =>
    [.vals, .log, .errq, .parts, .queues, .sites, .mem, .hbm, .streams, .ctr, .colls, .credits, .fetches, .xfers,
    .pendingSrc, .tfb, .nor, .boot, .journal, .inputs, .outs, .free]
  | .strainerRearm .. | .strainerInputRelease .. =>
    [.errq, .journal, .inputs]
  | .componentFault .. | .pmcTakeover =>
    [.vals, .caddy, .log, .errq, .parts, .layoutGen, .queues, .sites, .mem, .hbm, .guests, .streams, .ctr, .colls,
    .credits, .fetches, .xfers, .pendingSrc, .kports, .tfb, .nor, .update, .recStage, .trustStage, .sec, .boot,
    .journal, .power, .commitWait, .applyWait, .outs, .free]
  | .secFailed =>
    [.caddy, .errq, .parts, .queues, .sites, .mem, .hbm, .streams, .ctr, .colls, .credits, .fetches, .xfers, .tfb,
    .update, .recStage, .trustStage, .sec, .boot, .journal, .commitWait, .applyWait, .outs, .free]
  | .getVersion .. | .getCapabilities .. | .negotiateAlgorithms .. | .getDigests .. | .getCertificate ..
  | .challenge .. | .getMeasurements .. | .keyExchange .. | .finish .. | .keyUpdate .. | .heartbeat ..
  | .endSession .. | .chunkGet .. | .chunkSend .. | .ideKm .. =>
    [.errq, .sec, .journal, .outs]
  | .keyDeliver .. =>
    [.errq, .nor, .sec, .journal, .outs]
  | .keyRevoke .. | .keyLifetimeExpired .. | .debugSessionOpen =>
    [.errq, .parts, .queues, .mem, .hbm, .streams, .nor, .sec, .journal, .outs, .free]
  | .pmcControlPeriod .. =>
    [.errq, .sites, .journal, .power, .free]
  | .governorSample .. | .bandPllStop .. =>
    [.errq, .journal, .power]
  | .droopEvent .. =>
    [.errq, .journal, .power, .free]
  | .sensorSample .. =>
    [.errq, .parts, .queues, .sites, .mem, .hbm, .streams, .ctr, .colls, .credits, .fetches, .xfers, .kports,
    .iports, .tfb, .update, .boot, .journal, .power, .sensors, .outs, .free]
  | .zoneThrottleStep .. =>
    [.errq, .sites, .journal, .power]
  | .idleGating .. =>
    [.errq, .parts, .sites, .mem, .hbm, .journal]
  | .bladesLive .. =>
    [.time, .factory, .vals, .caddy, .log, .errq, .secState, .parts, .layoutGen, .queues, .sites, .siteState,
    .spareGen, .spareTime, .fles, .mem, .hbm, .guests, .notices, .streams, .ctr, .shadow, .colls, .credits,
    .fetches, .xfers, .pendingSrc, .kports, .iports, .tfb, .nor, .update, .recStage, .trustStage, .sec, .boot,
    .journal, .power, .sensors, .inputs, .bus, .commitWait, .applyWait, .outs, .free]
  | .bladePowerFail =>
    [.log, .errq, .kports, .iports, .update, .boot, .journal, .power]
  | .entdaa .. =>
    [.errq, .journal, .bus, .outs]
  | .setdasa .. | .rstdaa | .setmwl .. | .enec .. | .disec .. | .plcaBeaconLost | .plcaBeacon =>
    [.errq, .journal, .bus]
  | .getpid | .getbcr | .getdcr | .getmwl | .getmrl =>
    [.errq, .journal, .outs]
  | .ingestPortUp .. | .flowControlFrame .. =>
    [.errq, .iports, .journal]
  | .debugSessionClose =>
    [.errq, .sec, .journal]

/-- No physical channel of a stack serves two logical ones (R485). -/
def channelsDistinct (s : State) : Prop :=
  ∀ stack < 20, ∀ i < 31, ∀ j < 31, s.physCh stack i = s.physCh stack j → s.physCh stack i < 32 → i = j

/-- The channel slices of the partitions that have one lie within the 31 channels and do not overlap (R51, R217). -/
def slicesApart (s : State) : Prop :=
  (∀ p < 4, (s.part p).chans = 0 ∨ (s.part p).firstCh + (s.part p).chans ≤ 31) ∧
    ∀ p < 4, ∀ q < 4, p = q ∨ (s.part p).chans = 0 ∨ (s.part q).chans = 0 ∨
      (s.part p).firstCh + (s.part p).chans ≤ (s.part q).firstCh ∨ (s.part q).firstCh + (s.part q).chans ≤ (s.part p).firstCh

/-- The error queue takes an entry: no recovery window is open on its unit (R339), and its share has room (R335). -/
def roomFor (s : State) (e : ErrSpec) : Prop :=
  s.errq.window e = none ∧
    if 4 ≤ e.part ∨ severity e.status = 4 then s.errq.reserveUsed < 28
    else s.errq.quotaUsed e.part < s.quota ∧ s.errq.sharedUsed < 224

/-- An entry with a status, a partition and a unit is in the error queue under the next sequence number of s (R333, R334). -/
def queued (s t : State) (e : ErrSpec) : Prop :=
  ∃ x ∈ t.errq.entries, x.seq = s.errq.nextSeq ∧ x.status = e.status ∧ x.part = e.part ∧ x.unitKind = e.unitKind ∧
    x.unit = e.unit ∧ x.sev = severity e.status

/-- The error entry of a word on the plane that fails parity at address a of partition p (R240, R334). -/
def parityErr (s : State) (p a : Nat) : ErrSpec :=
  { status := 0x2203, part := p, unitKind := 1
    unit := siteUnit (((s.place p a).getD 2199023255552 - 2199023255552) / 268435456) }

/-- Command i, which runs command r of queue n of kind k, stops on a word of the plane that fails parity at address a of the
partition, where the error finds room: 0x2203 is queued, the command is handed over with 0x2201, and memory outside what it
writes reads as before (R48, R236, R240). -/
def stopsOnParity (s : State) (k n : Nat) (r : QRef) (c : CmdRec) (a : Nat) (i : Instr) : Prop :=
  planeBase ≤ a → s.inside r.part a 8 = true → roomFor s (parityErr s r.part a) →
    ∃ t, exec i s = .next t ∧ handedOver k n r c 0x2201 s t ∧ queued s t (parityErr s r.part a) ∧
      ∀ x, x ∉ s.stoppedPlaces r.part c → Mem.get t.mem x = Mem.get s.mem x

/-- No tensor command that runs has tiles at address a of partition p, where another engine writes (R172). -/
def tilesApart (s : State) (p a : Nat) : Prop :=
  a < planeBase ∨ s.inAccWindow p a 1 = false ∨ s.running 1 ((a - planeBase) / planeStep) = none

/-- The newest output is an SPDM response of a code to a source (R404). -/
def spdmAnswered (t : State) (source code : Nat) (body : List Byte) : Prop := t.outs.head? = some (.spdm source code body)

/-- Start-up finds every record, image and part of the module good (R467 to R473). -/
def soundFindings (f : Findings) : Prop :=
  f.factoryOk = true ∧ f.secActiveOk = true ∧ f.trustOk = true ∧ f.configOk = true ∧
    (∀ k < 3, f.imagesActiveOk.getD k true = true) ∧ f.badColumns = [] ∧ f.badSites = [] ∧ f.badFleArrays = [] ∧
    f.badChannels = [] ∧ f.shutdownSensor = none

/-- From s to t the module started up (R466, R467): it is READY at step 0x0A, the memory is cleared, no error is held, and the
spare map stands as before. -/
def startedUp (kind : Nat) (s t : State) : Prop :=
  t.boot.step = 0x0A ∧ t.boot.ready = true ∧ t.boot.power = 2 ∧ t.boot.kind = kind ∧ t.mem = [] ∧ t.errq.entries = [] ∧
    t.siteState = s.siteState ∧ t.spareGen = s.spareGen ∧ t.pending = s.pending

/-- From s to t the bytes bs were stored at partition address a of partition p, each where the last of them to its place wins,
and every other byte of memory reads as before. -/
def stored (p a : Nat) (bs : List Byte) (s t : State) : Prop :=
  (∀ i < bs.length, ∀ k, s.place p (a + i) = some k → (∀ j < bs.length, i < j → s.place p (a + j) ≠ some k) →
    Mem.get t.mem k = bs.getD i 0) ∧ bytesKept p a bs.length s t

/-- No accepted command waits outside queue n of kind k for room in it (R69). -/
def noneHeldBack (k n : Nat) (s : State) : Prop :=
  ∀ p < 4, ∀ x ∈ (s.part p).lists, ∀ c ∈ x.cmds, c.cmd.kind = k → c.cmd.queueNo p = n → c.st ≠ .held

/-- s once command r has left the waiting list of queue n of kind k, traced where that is enabled, and its list has begun (R69,
R78, R96). -/
def chosen (k n : Nat) (r : QRef) (s : State) : State :=
  ((s.modQueue k n (fun q => { q with fifo := q.fifo.filter (· != r), lastLane := r.lane })).traceStart (qKey k n) r).modList
    r.part r.list (fun x => { x with tStart := some (x.tStart.getD s.now) })

/-- Elements of w bits packed for a store at partition address a: bits of the last byte beyond them stay (R123). -/
def packedAt (s : State) (p a w : Nat) (es : List Nat) : List Byte :=
  let n := es.length * w
  let bs := packElems w es
  if n % 8 = 0 then bs
  else bs.dropLast ++ [BitVec.ofNat 8 (s.rdNat p (a + n / 8) 1 / 2 ^ (n % 8) * 2 ^ (n % 8) +
    (bs.getLast?.map (·.toNat)).getD 0 % 2 ^ (n % 8))]

/-- The newest output is a Kettle packet of a type on port k for partition p, with its tag, fields and payload (R440). -/
def packetSent (t : State) (k type p : Nat) (g : Tags) (fields : List Nat) (payload : List Byte) : Prop :=
  ∃ a n e w, t.outs.head? = some (.kettle k type ([a, p, g.kind, g.tag, g.check, n, e, w] ++ fields) payload)

/-- A collective run as its peers see it: its command, policy, credits granted and owed, and blocks received and sent. -/
def progressOf (y : CollRun) : QRef × Nat × Nat × Nat × Nat × Nat := (y.ref, y.policy, y.granted, y.owed, y.got, y.sent)

/-- A transfer of blocks but what is on its way: whose it is, what it carries, and how many blocks are confirmed (R443). -/
def wayOf (x : Xfer) : Nat × Nat × Nat × Nat × Nat × Nat × Nat := (x.source, x.module, x.id, x.first, x.base, x.blocks, x.done)

/-- A stream with the decode slots of its samples set aside: which samples hold one is read from the die (R260). -/
def slotsAside (x : Stream) : Stream := { x with samples := x.samples.map (fun y => { y with slot := false }) }

/-- The stream that a bind makes of a command's descriptors (R250, R251, R267). -/
def boundStream (s : State) (n : Nat) (r : QRef) (c : CmdRec) : Stream :=
  { state := 1, part := r.part, desc := s.rd r.part c.cmd.arg0 128
    resample := if c.cmd.arg1 = 0 then [] else s.rd r.part c.cmd.arg1 64
    ceil := s.ceilings n (field (s.rd r.part c.cmd.arg0 128) 3 1), lastData := s.time.ticks }

/-- An ingest frame carries a message that its port takes (R446). -/
def frameTaken (s : State) (m : IngestMsg) : Prop :=
  (Tab.get s.iports {} m.port).state = 2 ∧ m.etherType = 0x88B6 ∧ m.fcsOk = true ∧ m.payload.length ≤ 4096

/-- A bus message of a source with fields is to be taken: it is another module's, and no copy of it came within the last two
superframes, 205 ticks (R454). -/
def unheard (s : State) (source : Nat) (fields : List Nat) : Prop :=
  source ≠ s.address ∧ ∀ e ∈ s.tfb.seen, e.1 = source :: fields → e.2 + 205 < s.time.ticks

/-- Partition p, and no other, is a member of a barrier group (R105). -/
def onlyMember (s : State) (p : Nat) : Prop := p < 4 ∧ s.grouped p = true ∧ ∀ q < 4, q ≠ p → s.grouped q = false

/-- Command i, by which module m is lost to the one member p of a barrier group here, begins the rollback of a partition that runs
with no list: to its newest committed sachet that module m does not hold (R310, R320). -/
def lossRollsBack (s : State) (m p : Nat) (i : Instr) : Prop :=
  ∀ x tier, (s.part p).state = .running → (s.part p).lists = [] → s.boundStreams p = [] → (s.part p).rcv.rollback = none →
    (s.part p).rcv.capture = none → s.target p (fun _ => true) = some (x, tier) → x.holder ≠ m →
    ∃ t, exec i s = .next t ∧ m ∈ (t.part p).rcv.lost ∧ (t.part p).rings.consuming = false ∧
      (t.part p).rcv.rollback = some { cause := 0x7303, target := some x.id, tier := tier }

end Sys2Proof.Safety
end

