-- ==== Sys2Proof/WellFormed.lean ====
section
/-!
DEFINITION. Which commands are well formed: every operand lies in the range its rule gives it (R8, R9, R36, R69, R73, R217,
R248, R371, R375, R435, R448). A command out of range names nothing the module has; exec answers it all the same, and
changes nothing that it would name.
-/

namespace Sys2Proof

/-- A partition number (R9). -/
def partOk (p : Nat) : Bool := decide (p < 4)

/-- A host lane (R78). -/
def laneOk (l : Nat) : Bool := decide (l < 16)

/-- A logical cluster number of the larger grade (R1, R6). -/
def clusterOk (n : Nat) : Bool := decide (n < 1200)

/-- A cluster site: row × 42 + physical column (R1, R5). -/
def siteOk (i : Nat) : Bool := decide (i < 1260)

/-- An Infuser stream (R248). -/
def streamOk (n : Nat) : Bool := decide (n < 128)

/-- A Kettle port (R435). -/
def kettleOk (k : Nat) : Bool := decide (k < 12)

/-- An ingest port (R248). -/
def ingestOk (k : Nat) : Bool := decide (k < 4)

/-- A module address on the bus (R10). -/
def moduleOk (a : Nat) : Bool := decide (a < 16)

/-- A memory channel: stack and physical channel (R36, R217). -/
def channelOk (stack channel : Nat) : Bool := decide (stack < 20) && decide (channel < 32)

/-- A function of the host interface (R72). -/
def functionOk (fn : Nat) : Bool := decide (fn < 5)

/-- An entry of the dictionary: index and subindex (R366, R371). -/
def entryOk (index sub : Nat) : Bool := decide (index < 65536) && decide (sub < 256)

/-- A request around a Caddy operation (R371): 32-bit transaction, 64-bit counter, 48-bit source. -/
def Req.wf (r : Req) : Bool :=
  decide (r.txn < 4294967296) && decide (r.version < 256) && decide (r.src < 281474976710656) &&
    decide (r.counter < 18446744073709551616)

/-- An ingest message (R253): 64-bit payload of at most 8,192 bytes in an Ethernet frame of R446. -/
def IngestMsg.wf (m : IngestMsg) : Bool := ingestOk m.port && decide (m.conn < 65536) && decide (m.seq < 4294967296)

/-- An engine queue: its kind and number (R69). -/
def queueOk (kind q : Nat) : Bool :=
  match kind with
  | 1 => clusterOk q | 2 => clusterOk q | 3 => clusterOk q
  | 4 => decide (q < 192) | 5 => streamOk q | 6 => decide (q < 64)
  | _ => false

/-- A Strainer input (R459). -/
def inputOk (i : Nat) : Bool := decide (i < 3)

/-- The header of a packet (R440). -/
def KHdr.wf (h : KHdr) : Bool := kettleOk h.port && moduleOk h.srcModule && partOk h.srcPartition && decide (h.tag < 256)

/-- A command is well formed. -/
def Instr.wf (i : Instr) : Bool :=
  match i with
  | .caddyRead r index sub _ => r.wf && entryOk index sub
  | .caddyWrite r index sub _ value _ _ _ => r.wf && entryOk index sub && decide (value.length ≤ 1024)
  | .caddyDescribe r index sub _ => r.wf && entryOk index sub
  | .caddyIdentify r _ => r.wf
  | .caddySegmentTimeout _ index sub => entryOk index sub
  | .start r p => r.wf && partOk p
  | .drain r p => r.wf && partOk p
  | .abort r p => r.wf && partOk p
  | .reclaim r p => r.wf && partOk p
  | .scrub r p => r.wf && partOk p
  | .clearSafeStop r p => r.wf && partOk p
  | .layoutCommit r _ => r.wf
  | .hostedPartnerWindow r _ => r.wf
  | .partnerModuleAddress r p _ => r.wf && partOk p
  | .partnerWindowRequest r p _ => r.wf && partOk p
  | .accumulatorVisibility r _ => r.wf
  | .debugTileData r write => r.wf && (write.map (fun bs => decide (bs.length = 1024))).getD true
  | .timebaseSet r _ => r.wf
  | .snapshotTime r _ => r.wf
  | .snapshotLatch => true
  | .snapshotRelease r _ => r.wf
  | .migrationRequest r stack channel => r.wf && channelOk stack channel
  | .acknowledge r _ => r.wf
  | .declareModuleLost r _ => r.wf
  | .reclaimNoticeSend r _ _ => r.wf
  | .warmResetRequest r _ _ => r.wf
  | .sensorMinMaxReset r _ _ => r.wf
  | .logClear r _ => r.wf
  | .logReadData r => r.wf
  | .keyErase r _ => r.wf
  | .securityStateRequest r _ => r.wf
  | .updateStagingData r _ => r.wf
  | .updateVerify r _ => r.wf
  | .updateActivate r => r.wf
  | .updateCancel r => r.wf
  | .activationHold => true
  | .handoffPoint => true
  | .handoffAcceptance _ _ => true
  | .acceptanceLimit => true
  | .cccHandoffWait row => decide (row < 30)
  | .recordStagingData r _ => r.wf
  | .recordVerify r _ => r.wf
  | .recordApply r => r.wf
  | .recordCancel r => r.wf
  | .recordExport r => r.wf
  | .restoreDefaults r => r.wf
  | .trustRecordStagingData r _ => r.wf
  | .trustRecordVerify r _ => r.wf
  | .trustRecordApply r => r.wf
  | .trustRecordCancel r => r.wf
  | .journalSwitch => true
  | .kettlePortEnable r k _ _ => r.wf && kettleOk k
  | .bar0RegisterWrite fn offset _ _ => functionOk fn && decide (offset % 4 = 0)
  | .sqTailDb fn _ _ => functionOk fn
  | .cqHeadDb fn _ _ => functionOk fn
  | .attachResume fn _ => functionOk fn
  | .attachReset fn _ => functionOk fn
  | .errqAck fn _ _ => functionOk fn
  | .moduleReset _ _ => true
  | .caddyDb _ => true
  | .caddyRsp => true
  | .doorbellErr fn _ => functionOk fn
  | .bar2Write fn _ _ _ => functionOk fn
  | .submissionConsume p => partOk p
  | .listStart p lane => partOk p && laneOk lane
  | .commandDispatch kind q => queueOk kind q
  | .commandComplete kind q => queueOk kind q
  | .deadlineMiss p lane => partOk p && laneOk lane
  | .barrierStalled p kind => partOk p && decide (3 ≤ kind ∧ kind ≤ 5)
  | .heartbeatSample p => partOk p
  | .hostLeaseExpired p => partOk p
  | .orphanServingTimeout p => partOk p
  | .irqCoalesceTimer p => partOk p
  | .scheduleTick p lane => partOk p && laneOk lane
  | .gemm n _ => clusterOk n
  | .spatialOperator u => clusterOk u.n
  | .setArrayModeWide n => clusterOk n
  | .setArrayModeChive16 n => clusterOk n
  | .setArrayModeChive32 n => clusterOk n
  | .loadStationary u => clusterOk u.n
  | .epilogueOnly u => clusterOk u.n
  | .preemption n _ => clusterOk n
  | .arrayFault site coreRow coreCol _ => siteOk site && decide (coreRow < 8 ∧ coreCol < 34)
  | .coreRetirementComplete site _ => siteOk site
  | .steepRampDown u => if u.fle then decide (u.n < 5) else clusterOk u.n
  | .fleFault f array _ => decide (f < 5 ∧ array < 68)
  | .vectorAdd u => clusterOk u.n
  | .vectorMultiply u => clusterOk u.n
  | .vectorSubtract u => clusterOk u.n
  | .vectorMaximum u => clusterOk u.n
  | .vectorMinimum u => clusterOk u.n
  | .vectorCopyAndCast u => clusterOk u.n
  | .vectorExp u => clusterOk u.n
  | .vectorReciprocal u => clusterOk u.n
  | .vectorReciprocalSqrt u => clusterOk u.n
  | .castOnGather u => clusterOk u.n
  | .reduceAdd u => clusterOk u.n
  | .checksumVerify u => clusterOk u.n
  | .copy n _ => clusterOk n
  | .decryptingCopy n _ => clusterOk n
  | .skewedOperandFeed u => clusterOk u.n
  | .multicast n _ => clusterOk n
  | .recomputeRange n => clusterOk n
  | .reduceScatter q _ => decide (q < 192)
  | .allGather q _ => decide (q < 192)
  | .allReduce q _ => decide (q < 192)
  | .sachetPoint q => decide (q < 192)
  | .sachetFetch q => decide (q < 192)
  | .mediaBind s => streamOk s
  | .decodeBlockList s => streamOk s
  | .closeGraceful s => streamOk s
  | .closeAbort s => streamOk s
  | .gatherList u => decide (u.n < 64)
  | .gatherAdd u _ => decide (u.n < 64)
  | .atomicAdd p address format _ _ => partOk p && decide ((format = 1 ∨ format = 2) ∧ address % 64 = 0)
  | .pairAdd p address _ _ => partOk p && decide (address % 16 = 0)
  | .hbmWrite p address bytes => partOk p && decide (address % 64 = 0 ∧ bytes.length % 64 = 0)
  | .hbmBlockRead p address consumer _ _ => partOk p && decide (address % 4096 = 0 ∧ 1 ≤ consumer ∧ consumer ≤ 4)
  | .patrolBlock stack channel _ _ => channelOk stack channel
  | .channelDegraded stack channel => channelOk stack channel
  | .retrainingCheckFailed stack channel => channelOk stack channel
  | .migrationCopyDone stack _ => decide (stack < 20)
  | .migrationRetrainDone stack => decide (stack < 20)
  | .marchTestDone stack _ => decide (stack < 20)
  | .channelFailed stack channel => channelOk stack channel
  | .scrubComplete p => partOk p
  | .openMsg m => m.wf
  | .dataMsg m => m.wf
  | .endMsg m => m.wf
  | .roi m => m.wf
  | .resultCredit m => m.wf
  | .abortSample m => m.wf
  | .ingestCreditTimer s => streamOk s
  | .positionWritten s _ _ => streamOk s
  | .roundDeadline s => streamOk s
  | .streamStall s => streamOk s
  | .portDown port => ingestOk port
  | .kettleFlit k _ _ _ => kettleOk k
  | .nak k _ => kettleOk k
  | .hello k peer _ _ _ => kettleOk k && moduleOk peer
  | .remap k lane _ => kettleOk k && decide (lane < 9)
  | .kettleLaneRemapped k lane _ => kettleOk k && decide (lane < 9)
  | .block h _ => h.wf
  | .credit h _ => h.wf
  | .refuse h _ => h.wf
  | .kettleCreditTimer q => decide (q < 192)
  | .sachetBlock h _ _ _ _ => h.wf
  | .sachetConfirm h _ _ _ _ => h.wf
  | .fetchRequest h _ _ _ _ _ _ => h.wf
  | .fetchData h _ _ _ _ => h.wf
  | .fetchRefuse h _ => h.wf
  | .windowBind h _ _ => h.wf
  | .windowReply h _ _ => h.wf
  | .windowRelease h _ => h.wf
  | .windowNotice h _ => h.wf
  | .stragglerDeadline q => decide (q < 192)
  | .ledgerCopyDone p _ => partOk p
  | .collectiveStall q => decide (q < 192)
  | .peerLossHold peer => moduleOk peer
  | .sync source _ => moduleOk source
  | .reclaimNotice source _ _ => moduleOk source
  | .faultBroadcast source _ _ _ => moduleOk source
  | .moduleLost source lost => moduleOk source && moduleOk lost
  | .landed source _ _ _ => moduleOk source
  | .rollbackMsg source _ _ => moduleOk source
  | .groupReclaim source _ _ => moduleOk source
  | .barrierSlot group _ _ _ _ _ => moduleOk group
  | .holdover => true
  | .freeRun => true
  | .masterTakeover _ => true
  | .sachetCapture p _ => partOk p
  | .sachetLanded p => partOk p
  | .tier2WriteDone p => partOk p
  | .tier3WriteDone p => partOk p
  | .rollbackRestoreDone p => partOk p
  | .startRestoreDone p => partOk p
  | .spareSelfTestDone site _ => siteOk site
  | .reclaimFenceAbort p => partOk p
  | .reclaimDeadline p => partOk p
  | .errorEntryHandle handler => decide (handler < 4)
  | .errorEntryLogged _ => true
  | .flitParityError _ kind _ _ => decide (kind ≤ 6)
  | .faultInN => true
  | .reclaimN => true
  | .warmResetN _ => true
  | .inputStuck input => inputOk input
  | .strainerRearm input => inputOk input
  | .componentFault processor _ => decide (processor < 1263)
  | .cccRestarted n => clusterOk n
  | .schTakeover => true
  | .pmcTakeover => true
  | .secFailed => true
  | .getVersion _ => true
  | .getCapabilities _ => true
  | .negotiateAlgorithms _ => true
  | .getDigests _ => true
  | .getCertificate _ _ _ _ => true
  | .challenge _ _ => true
  | .getMeasurements _ _ _ => true
  | .keyExchange _ _ => true
  | .finish _ => true
  | .keyUpdate _ => true
  | .heartbeat _ => true
  | .endSession _ => true
  | .chunkGet _ _ _ => true
  | .chunkSend _ _ _ _ => true
  | .keyDeliver _ _ _ _ _ _ => true
  | .keyRevoke _ _ _ _ => true
  | .keyLifetimeExpired _ => true
  | .ideKm _ _ _ _ => true
  | .pmcControlPeriod _ => true
  | .governorSample _ => true
  | .droopEvent n => clusterOk n
  | .sensorSample _ _ => true
  | .zoneThrottleStep zone => decide (zone < 25)
  | .idleGating p => partOk p
  | .bandPllStop band => decide (band < 5)
  | .bladesLive _ => true
  | .bladePowerFail => true
  | .logBufferProgram => true
  | .linkDown => true
  | .functionReset fn => functionOk fn
  | .function0Reset => true
  | .entdaa _ => true
  | .setdasa _ => true
  | .rstdaa => true
  | .getpid => true
  | .getbcr => true
  | .getdcr => true
  | .getmwl => true
  | .setmwl _ => true
  | .getmrl => true
  | .enec _ => true
  | .disec _ => true
  | .rstact _ _ => true
  | .ingestPortUp port => ingestOk port
  | .plcaBeaconLost => true
  | .plcaBeacon => true
  | .debugSessionOpen => true
  | .debugSessionClose => true
  | .strainerInputRelease input => inputOk input
  | .flowControlFrame port => ingestOk port

end Sys2Proof
end

