-- ==== Sys2Proof/Certificates/Slice0/Obligations.lean ====
section
/-!
DEFINITION. The statements about the model, each for the provers: what the module does at every command, what a command
leaves alone, and what every step keeps.
-/

open Sys2Proof Sys2Proof.Machine Sys2Proof.Safety

/-- A step runs the command at the front of the queue on the state with the queue's rest, whatever that command answers. -/
def Obligations.StepRunsTheFrontCommand : Prop :=
  ∀ (s : State) (c : Instr) (q : List Instr), step { s with pending := c :: q } = exec c { s with pending := q }

/-- With no command waiting a step lets one tick of the 25 MHz reference pass (R93): 40 ns of the timebase at the learned
correction (R91), less or more a slew of at most 200 ppm (R92). Channel copies in progress move at most one block each
(R244), waits of the collective engine for credits are counted (R301), and port sends that waited out their time fail (R347).
That an idle step is a tick is the model's choice (log 1). -/
def Obligations.IdleStepIsOneReferenceTick : Prop :=
  ∀ s : State, s.pending = [] → ∃ t, step s = .next t ∧ onlyChanges [.time, .mem, .hbm, .ctr, .caddy, .free] s t ∧
    t.time.ticks = s.time.ticks + 1 ∧
    (∃ d : Int, -8 ≤ d ∧ d ≤ 8 ∧ (s.time.slewPs = 0 → d = 0) ∧ t.time.slewPs = s.time.slewPs - d ∧
      t.time.ps = (Int.ofNat (s.time.ps + 40000) + s.time.corr - d).toNat) ∧
    (s.hbm.migrations = [] → t.mem = s.mem ∧ t.hbm = s.hbm) ∧
    (s.hbm.migrations = [] → s.colls = [] → t.ctr = s.ctr)

/-- Every state goes on: no command stops the module, and a word spells no command (the model's opcode table has no bits;
log 5, log 8). -/
def Obligations.EveryStateGoesOn : Prop :=
  ∀ s : State, goesOn s ∧ (∀ nbits w, decodeTableWord nbits w = none ∧ s.withFetchWord nbits w = s)

/-- The module after reset as delivered (R42, R51, R398, R471): partition 0 is Idle with all 30 rows and 31 channels, the
others have none, the security state is Open, start-up is done, no error is held, and the queue of commands is empty.
Log 2 and log 3 name what the spec leaves open. -/
def Obligations.ResetLeavesTheModuleReady : Prop :=
  (State.reset.part 0).state = .idle ∧ (State.reset.part 0).rows = 30 ∧ (State.reset.part 0).chans = 31 ∧
    (∀ p ∈ [1, 2, 3], (State.reset.part p).state = .unassigned ∧ (State.reset.part p).rows = 0) ∧
    State.reset.secState = 0 ∧ State.reset.boot.step = 0x0A ∧ State.reset.boot.power = 2 ∧ State.reset.errq.entries = [] ∧
    State.reset.pending = [] ∧ State.reset.mem = [] ∧ State.reset.time.ps = 0 ∧ State.reset.valNat 0x2200 1 = 0

/-- The state after reset meets what the invariants ask: memory is canonical, no physical channel serves two logical ones,
and the partitions' slices do not overlap. -/
def Obligations.ResetMeetsTheInvariants : Prop :=
  memoryCanonical State.reset ∧ channelsDistinct State.reset ∧ slicesApart State.reset

/-- Memory stays in its canonical form over every step: addresses strictly rising, no byte listed that an unlisted one reads
as. -/
def Obligations.EveryStepKeepsMemoryCanonical : Prop :=
  ∀ s t : State, memoryCanonical s → step s = .next t → memoryCanonical t

/-- No step takes back what only ever rises: the anti-rollback counters (R399), the layout generation (R60) and the spare
map's generation (R314) never fall, and a failed channel stays failed (R243, R245). -/
def Obligations.WhatOnlyRisesNeverFalls : Prop := ∀ s t : State, step s = .next t → oneWay s t

/-- A command changes no other piece of state than those its rules name. `footprint` lists them for each command of the table:
a piece that is not on the list of a command reads after it as before. -/
def Obligations.EveryCommandKeepsToItsFootprint : Prop :=
  ∀ (c : Instr) (s t : State), exec c s = .next t → onlyChanges (footprint c) s t

/-- No two addresses of spread memory stand at one place (R217 to R223): neither two of one partition nor two of different
partitions, while no physical channel serves two logical ones and the slices do not overlap. -/
def Obligations.SpreadAddressesNeverShareAPlace : Prop :=
  ∀ (s : State) (p q a b k : Nat), channelsDistinct s → slicesApart s → p < 4 → q < 4 → a < nearBase → b < nearBase →
    s.place p a = some k → s.place q b = some k → p = q ∧ a = b

/-- The checks that stand before a Caddy entry: a request passes exactly when each of their conditions holds (R371 to R379,
R469, R471). The same checks are asked of every operation, on every route. -/
def Obligations.CaddyGatePassesExactlyWhen : Prop :=
  ∀ (s : State) (r : Req) (op i j : Nat), admits s r op i j ↔
    (s.boot.secFailed = false ∧ s.boot.power ≠ 0 ∧ (r.route = .pcie → s.boot.power = 2)) ∧
    (s.boot.step = 0xFF → r.route = .i3c ∧ recoveryIndex i j = true) ∧
    (r.route = .port → s.frameOk r (op == 4) = true) ∧
    (r.route = .port → r.auth = true →
      r.tagOk = true ∧ s.nor.portKey.isSome = true ∧ Tab.get s.caddy.counters 0 (sourceOf r) < r.counter) ∧
    (r.version = 1 ∧ r.reserved = 0) ∧
    (∀ k ∈ s.caddy.kept, ¬(k.source = sourceOf r ∧ k.txn = r.txn)) ∧
    (r.route = .port → s.secState = 0 ∨ r.auth = true ∨ op = 4 ∨
      ((op = 1 ∨ op = 3) ∧ (i / 4096 = 1 ∨ i / 4096 = 5) ∧ s.valNat 0xA200 3 = 1)) ∧
    (op ≠ 4 → op ≠ 2 → bit (s.rights r.route i) 0 = true) ∧
    (op = 2 → s.rights r.route i = 3 ∧
      (s.boot.step = 0x0A ∨ i / 256 = 0x84 ∨ i / 256 = 0x90 ∨ i / 256 = 0x91))

/-- Reads, describes and identify requests that pass are answered (R370, R372): a read with up to 1,024 bytes of the
entry's value from the offset, a describe with the entry's description or 0x1203, an identify with 0x1000:01 to
0x1000:07, each in front of its length. -/
def Obligations.CaddyReadsAreAnswered : Prop :=
  ∀ (s : State) (r : Req) (i j offset : Nat) (broadcast : Bool),
    (admits s r 1 i j →
      ∃ t, exec (.caddyRead r i j offset) s = .next t ∧
        respondedWith t r 1 i j (s.readEntry (Route.code r.route) i j).2.1
          (((s.readEntry (Route.code r.route) i j).2.2.drop offset).take 1024)) ∧
    (admits s r 1 i j → dictFind i j = none →
      ∃ t, exec (.caddyRead r i j offset) s = .next t ∧ respondedWith t r 1 i j 0x1203 []) ∧
    (admits s r 3 i j →
      ∃ t, exec (.caddyDescribe r i j offset) s = .next t ∧
        respondedWith t r 3 i j (if (dictFind i j).isSome then 0 else 0x1203)
          ((((s.describe i j).getD []).drop offset).take 1024)) ∧
    (admits s (if broadcast then { r with dest := 1 } else r) 4 0 0 →
      ∃ t, exec (.caddyIdentify r broadcast) s = .next t ∧ respondedWith t r 4 0 0 0 s.identifyValue)

/-- A write of a whole value that its entry accepts is stored: the entry reads as written, and the response says 0x0000
(R53, R369, R372). An entry that measurement 9 covers is written here with the value it holds; a change of it also ends
sessions (R406). A first segment is held for the next one, and segments that
have waited 1 s for it are discarded, no others. -/
def Obligations.CaddyWritesStoreTheValue : Prop :=
  ∀ (s : State) (r : Req) (i j ty : Nat) (bs : List Byte),
    (∀ e, acceptsWrite s r i j ty bs → bs.length ≤ 1024 → dictFind i j = some e → e.acc ≠ 2 →
      (measured i j = true → s.val i j = bs) →
      ((s.gate r 2 i j).1.entryEffect r i j bs).2 = some 0 →
      ∃ t, exec (.caddyWrite r i j ty bs 0 bs.length false) s = .next t ∧ t.val i j = bs ∧
        respondedWith t r 2 i j 0 []) ∧
    (∀ total, admits s r 2 i j → segmentStatus i j ty = 0 →
      ∃ t, exec (.caddyWrite r i j ty bs 0 total true) s = .next t ∧ respondedWith t r 2 i j 0 [] ∧
        t.caddy.segs.head? =
          some { route := r.route, index := i, sub := j, bytes := bs, total := total, tick := s.time.ticks }) ∧
    (∀ route, ∃ t, exec (.caddySegmentTimeout route i j) s = .next t ∧ onlyChanges [.caddy, .errq, .journal] s t ∧
      ∀ x, x ∈ t.caddy.segs ↔ x ∈ s.caddy.segs ∧
        ¬(x.route = route ∧ x.index = i ∧ x.sub = j ∧ x.tick + 1000 * Config.ticksPerMs ≤ s.time.ticks))

/-- Start of an Idle partition (R45, R46, R50, R312): the first check that fails is the answer, and nothing starts. With
every check passed the partition scrubs first where its mode changes, restores a sachet where one is named, or runs in
the mode of its entry. -/
def Obligations.StartChecksThenRunsThePartition : Prop :=
  ∀ (s : State) (r : Req) (p : Nat), p < 4 → acceptsWrite s r (0x3000 + 256 * p) 2 2 (le 1 1) →
    s.boot.schLost = false → (s.part p).state = .idle → (s.part p).rcv.startRestore = none →
    ((∀ st i j, (s.startChecks p).find? (fun c => !c.1) = some (false, st, i, j) →
      ∃ t, exec (.start r p) s = .next t ∧ respondedWith t r 2 (0x3000 + 256 * p) 2 st [] ∧ t.parts = s.parts) ∧
    ((s.startChecks p).find? (fun c => !c.1) = none →
      ∃ t, exec (.start r p) s = .next t ∧ respondedWith t r 2 (0x3000 + 256 * p) 2 0 [] ∧
        (s.needsScrub p = true → (t.part p).state = .scrubbing ∧ (t.part p).after = some .run) ∧
        (s.needsScrub p = false → (s.startPlan p).restore = none →
          (t.part p).state = .running) ∧
        (s.needsScrub p = false → (s.startPlan p).restore.isSome = true →
          (t.part p).state = .idle ∧ (t.part p).rcv.startRestore = (s.startPlan p).restore)))

/-- Drain, Abort, Reclaim, Scrub and Clear safe-stop of partition p, each from every state that takes it (R45, R47 to R50,
R324, R341). A Drain stops the consumption of submissions; with no stream to close first, the partition is Draining or, with
no list open, Idle. An Abort leaves it Idle with no list. A Reclaim of a partition whose mode is T begins at once; of any
other it is answered and changes no partition. In a state that does not take it each is refused with 0x1101,
and no partition changes; while a partition in Safe-stop holds errors, Clear safe-stop is refused, and a Scrub while a Start
restores a sachet (log 94). -/
def Obligations.RunControlStopsThePartition : Prop :=
  ∀ (s : State) (r : Req) (p : Nat), p < 4 → s.boot.schLost = false →
    (acceptsWrite s r (0x3000 + 256 * p) 2 2 (le 1 2) → (s.part p).state = .running ∨ (s.part p).state = .hostLost →
      ∃ t, exec (.drain r p) s = .next t ∧ respondedWith t r 2 (0x3000 + 256 * p) 2 0 [] ∧
        (s.boundStreams p = [] → (t.part p).rings.consuming = false ∧
          ((t.part p).state = .draining ∨ (s.part p).lists = [] ∧ (t.part p).state = .idle))) ∧
    (acceptsWrite s r (0x3000 + 256 * p) 2 2 (le 1 3) →
      (s.part p).state = .running ∨ (s.part p).state = .draining ∨ (s.part p).state = .hostLost →
      ∃ t, exec (.abort r p) s = .next t ∧ respondedWith t r 2 (0x3000 + 256 * p) 2 0 [] ∧ (t.part p).state = .idle ∧
        (t.part p).lists = [] ∧ (t.part p).rings.consuming = false) ∧
    (acceptsWrite s r (0x3000 + 256 * p) 2 2 (le 1 4) →
      (s.part p).state = .running ∨ (s.part p).state = .draining ∨ (s.part p).state = .hostLost ∨ (s.part p).state = .idle →
      (s.modeOf p = 0 →
        ∃ t, exec (.reclaim r p) s = .next t ∧ respondedWith t r 2 (0x3000 + 256 * p) 2 0 [] ∧
          (t.part p).state = .reclaiming ∧ (t.part p).rings.consuming = false ∧
          (t.part p).rcv.reclaim.map (fun c => c.t0) = some s.time.ticks) ∧
      (s.modeOf p ≠ 0 →
        ∃ t, exec (.reclaim r p) s = .next t ∧ respondedWith t r 2 (0x3000 + 256 * p) 2 0 [] ∧ t.parts = s.parts)) ∧
    (acceptsWrite s r (0x3000 + 256 * p) 2 2 (le 1 5) → (s.part p).state = .idle → (s.part p).rcv.startRestore = none →
      ∃ t, exec (.scrub r p) s = .next t ∧ respondedWith t r 2 (0x3000 + 256 * p) 2 0 [] ∧
        (t.part p).state = .scrubbing ∧ (t.part p).after = some .idle ∧ (t.part p).scrubTick = s.time.ticks) ∧
    (acceptsWrite s r (0x3000 + 256 * p) 2 2 (le 1 6) → (s.part p).state = .safeStop → s.heldErrors p = 0 →
      ∃ t, exec (.clearSafeStop r p) s = .next t ∧ respondedWith t r 2 (0x3000 + 256 * p) 2 0 [] ∧
        (t.part p).state = .idle ∧ (t.part p).ranMode = none ∧ (t.part p).scrubbed = false) ∧
    (acceptsWrite s r (0x3000 + 256 * p) 2 2 (le 1 1) → (s.part p).state ≠ .idle →
      ∃ t, exec (.start r p) s = .next t ∧ respondedWith t r 2 (0x3000 + 256 * p) 2 0x1101 [] ∧ t.parts = s.parts) ∧
    (acceptsWrite s r (0x3000 + 256 * p) 2 2 (le 1 2) → (s.part p).state ≠ .running → (s.part p).state ≠ .hostLost →
      ∃ t, exec (.drain r p) s = .next t ∧ respondedWith t r 2 (0x3000 + 256 * p) 2 0x1101 [] ∧ t.parts = s.parts) ∧
    (acceptsWrite s r (0x3000 + 256 * p) 2 2 (le 1 3) → (s.part p).state ≠ .running → (s.part p).state ≠ .draining →
      (s.part p).state ≠ .hostLost →
      ∃ t, exec (.abort r p) s = .next t ∧ respondedWith t r 2 (0x3000 + 256 * p) 2 0x1101 [] ∧ t.parts = s.parts) ∧
    (acceptsWrite s r (0x3000 + 256 * p) 2 2 (le 1 4) →
      (s.part p).state ∈ [PState.unassigned, .scrubbing, .reclaiming, .safeStop] →
      ∃ t, exec (.reclaim r p) s = .next t ∧ respondedWith t r 2 (0x3000 + 256 * p) 2 0x1101 [] ∧ t.parts = s.parts) ∧
    (acceptsWrite s r (0x3000 + 256 * p) 2 2 (le 1 5) →
      (s.part p).state ≠ .idle ∨ (s.part p).rcv.startRestore.isSome = true →
      ∃ t, exec (.scrub r p) s = .next t ∧ respondedWith t r 2 (0x3000 + 256 * p) 2 0x1101 [] ∧ t.parts = s.parts) ∧
    (acceptsWrite s r (0x3000 + 256 * p) 2 2 (le 1 6) → (s.part p).state ≠ .safeStop ∨ s.heldErrors p ≠ 0 →
      ∃ t, exec (.clearSafeStop r p) s = .next t ∧ respondedWith t r 2 (0x3000 + 256 * p) 2 0x1101 [] ∧
        t.parts = s.parts)

/-- Layout commit of the staged layout (R59 to R62, R366). A valid one whose changed partitions are Idle or Unassigned is in
force: each changed partition takes its staged rows and channels and is Idle, or Unassigned when it has none, the others keep
their state; the layout generation rises by 1. One that is not valid is refused with 0x1105, one that changes another
partition's place with 0x1101, and one behind a commit that waits with 0x4102; a spare fill in a changed partition, or a CCC
update that hands off, makes it wait. -/
def Obligations.LayoutCommitPutsTheStagedLayoutInForce : Prop :=
  ∀ (s : State) (r : Req) (v : Nat), acceptsWrite s r 0x2100 1 2 (le 1 v) →
    (s.commitWait = none →
      (s.layoutValid s.staged = true →
        ((∀ p ∈ s.changedBy s.staged, (s.part p).rcv.fills = []) → s.cccUpdating = false →
          ((∀ p ∈ s.changedBy s.staged, (s.part p).state.quiet = true) →
            ∃ t, exec (.layoutCommit r v) s = .next t ∧ respondedWith t r 2 0x2100 1 0 [] ∧ t.layoutGen = s.layoutGen + 1 ∧
              (∀ p ∈ s.changedBy s.staged, ∀ x, s.staged[p]? = some x →
                (t.part p).firstRow = x.firstRow ∧ (t.part p).rows = x.rows ∧ (t.part p).firstCh = x.firstCh ∧
                (t.part p).chans = x.chans ∧ (t.part p).state = if x.rows = 0 then .unassigned else .idle) ∧
              ∀ p, p ∉ s.changedBy s.staged → (t.part p).state = (s.part p).state) ∧
          ((∃ p ∈ s.changedBy s.staged, (s.part p).state.quiet = false) →
            ∃ t, exec (.layoutCommit r v) s = .next t ∧ respondedWith t r 2 0x2100 1 0x1101 [] ∧
              onlyChanges [.caddy, .outs, .errq, .journal] s t)) ∧
        ((∃ p ∈ s.changedBy s.staged, (s.part p).rcv.fills ≠ []) ∨ s.cccUpdating = true →
          ∃ t, exec (.layoutCommit r v) s = .next t ∧ t.commitWait = some (r, s.staged) ∧
            onlyChanges [.caddy, .commitWait, .errq, .journal] s t)) ∧
      (s.layoutValid s.staged = false →
        ∃ t, exec (.layoutCommit r v) s = .next t ∧ respondedWith t r 2 0x2100 1 0x1105 [] ∧
          onlyChanges [.caddy, .outs, .errq, .journal] s t)) ∧
    (s.commitWait.isSome = true →
      ∃ t, exec (.layoutCommit r v) s = .next t ∧ respondedWith t r 2 0x2100 1 0x4102 [] ∧
        onlyChanges [.caddy, .outs, .errq, .journal] s t)

/-- Partner module address and Partner window request (R53, R65): with a partner that a Kettle port reaches, WINDOW_BIND asks
it for the window and the write waits for its answer; with none in reach the write is refused with 0x4101, and the module's
own address with 0x1102 while the partition works; address 0xFF gives the window up; a request with no partner is only
recorded. A write behind a binding that is awaited waits for it, in the order accepted. -/
def Obligations.PartnerWindowsAreAskedForOverTheLink : Prop :=
  ∀ (s : State) (r : Req) (p : Nat), p < 4 →
    ((s.part p).bindReq = none →
      (∀ m, acceptsWrite s r (0x3020 + 256 * p) 1 2 (le 1 m) → m ≠ 0xFF →
        (m ≠ s.address ∨ (s.part p).state.works = false →
          (s.portsTo m ≠ [] →
            ∃ t, exec (.partnerModuleAddress r p m) s = .next t ∧
              (t.part p).bindReq = some (some (r, 1), m, s.pval p 0x20 2)) ∧
          (s.portsTo m = [] →
            ∃ t, exec (.partnerModuleAddress r p m) s = .next t ∧ respondedWith t r 2 (0x3020 + 256 * p) 1 0x4101 [] ∧
              onlyChanges [.caddy, .outs, .errq, .journal] s t)) ∧
        (m = s.address → (s.part p).state.works = true →
          ∃ t, exec (.partnerModuleAddress r p m) s = .next t ∧ respondedWith t r 2 (0x3020 + 256 * p) 1 0x1102 [] ∧
            onlyChanges [.caddy, .outs, .errq, .journal] s t)) ∧
      (acceptsWrite s r (0x3020 + 256 * p) 1 2 (le 1 0xFF) →
        ∃ t, exec (.partnerModuleAddress r p 0xFF) s = .next t ∧ respondedWith t r 2 (0x3020 + 256 * p) 1 0 [] ∧
          (t.part p).binding.module = 0xFF ∧ (t.part p).binding.bound = false) ∧
      (∀ gib, acceptsWrite s r (0x3020 + 256 * p) 2 3 (le 2 gib) →
        (s.pval p 0x20 1 = 0xFF → ∃ t, exec (.partnerWindowRequest r p gib) s = .next t ∧
          respondedWith t r 2 (0x3020 + 256 * p) 2 0 [] ∧ t.val (0x3020 + 256 * p) 2 = le 2 gib ∧ t.parts = s.parts) ∧
        (s.pval p 0x20 1 ≠ 0xFF → s.portsTo (s.pval p 0x20 1) ≠ [] →
          ∃ t, exec (.partnerWindowRequest r p gib) s = .next t ∧
            (t.part p).bindReq = some (some (r, 2), s.pval p 0x20 1, gib)) ∧
        (s.pval p 0x20 1 ≠ 0xFF → s.portsTo (s.pval p 0x20 1) = [] →
          ∃ t, exec (.partnerWindowRequest r p gib) s = .next t ∧
            respondedWith t r 2 (0x3020 + 256 * p) 2 0x4101 [] ∧ onlyChanges [.caddy, .outs, .errq, .journal] s t))) ∧
    ((s.part p).bindReq.isSome = true →
      (∀ m, acceptsWrite s r (0x3020 + 256 * p) 1 2 (le 1 m) →
        ∃ t, exec (.partnerModuleAddress r p m) s = .next t ∧ onlyChanges [.caddy, .parts, .errq, .journal] s t ∧
          (t.part p).bindNext = (s.part p).bindNext ++ [(r, 1, m)] ∧ (t.part p).bindReq = (s.part p).bindReq) ∧
      (∀ gib, acceptsWrite s r (0x3020 + 256 * p) 2 3 (le 2 gib) →
        ∃ t, exec (.partnerWindowRequest r p gib) s = .next t ∧ onlyChanges [.caddy, .parts, .errq, .journal] s t ∧
          (t.part p).bindNext = (s.part p).bindNext ++ [(r, 2, gib)] ∧ (t.part p).bindReq = (s.part p).bindReq))

/-- The window messages of R441 (R65, R308, R328), each on a port that works and sound in its CRC: WINDOW_BIND reserves the
GiB that are free, and is refused with 0x4101 otherwise; WINDOW_RELEASE gives them up; WINDOW_REPLY settles the binding that
waits for that module; WINDOW_NOTICE ends the bindings to it. -/
def Obligations.WindowMessagesSettleBindings : Prop :=
  ∀ (s : State) (h : KHdr), (s.kport h.port).state = 2 → h.crcOk = true →
    (∀ gib partition,
      let others := s.guests.filter (fun g => !(g.module == h.srcModule && g.part == partition))
      (gib ≤ ({ s with guests := others } : State).windowFree →
        ∃ t, exec (.windowBind h gib partition) s = .next t ∧
          t.guests = others ++
            [{ module := h.srcModule, part := partition, gib := gib, base := windowBase (windowBytes s.carve) others gib }]) ∧
      (({ s with guests := others } : State).windowFree < gib →
        ∃ t, exec (.windowBind h gib partition) s = .next t ∧ t.guests = s.guests)) ∧
    (∀ partition, ∃ t, exec (.windowRelease h partition) s = .next t ∧ onlyChanges [.guests, .errq, .journal] s t ∧
      ∀ g, g ∈ t.guests ↔ g ∈ s.guests ∧ ¬(g.module = h.srcModule ∧ g.part = partition)) ∧
    (∀ p ask gib slots, p < 4 → (s.part p).bindReq = some (ask, h.srcModule, gib) → (s.part p).bindNext = [] →
      (∀ q < p, ∀ b, (s.part q).bindReq = some b → b.2.1 ≠ h.srcModule) →
      (∃ t, exec (.windowReply h 0 slots) s = .next t ∧ (t.part p).bindReq = none ∧ (t.part p).binding.module = h.srcModule ∧
        (t.part p).binding.gib = gib ∧ (t.part p).binding.slots = slots ∧ (t.part p).binding.bound = true) ∧
      (∀ status, status ≠ 0 →
        ∃ t, exec (.windowReply h status slots) s = .next t ∧ (t.part p).bindReq = none ∧
          (t.part p).binding = (s.part p).binding)) ∧
    (∀ status p, p < 4 → (s.part p).binding.module = h.srcModule →
      ∃ t, exec (.windowNotice h status) s = .next t ∧ onlyChanges [.parts, .errq, .journal] s t ∧ (t.part p).binding.bound = false ∧
        ∀ x ∈ (t.part p).rcv.sachets, x.holder = h.srcModule → x.tier1 = false)

/-- Hosted partner window (R65, R221): with room in every partition's channels the new size is stored. Guests whose window
the new size still holds keep it, its base moved with the window's start, the others lose it, and the range that changes
hands reads zero; without room 0x1104 refuses the write. -/
def Obligations.HostedWindowTakesItsShareOfMemory : Prop :=
  ∀ (s : State) (r : Req) (gib : Nat), acceptsWrite s r 0x2300 1 3 (le 2 gib) →
    ((∀ p < 4, carveOf gib + s.near p ≤ 2046) →
      ∃ t, exec (.hostedPartnerWindow r gib) s = .next t ∧ respondedWith t r 2 0x2300 1 0 [] ∧ t.val 0x2300 1 = le 2 gib ∧
        (gib = s.valNat 0x2300 1 → t.guests = s.guests ∧ t.mem = s.mem) ∧
        (gib ≠ s.valNat 0x2300 1 →
          t.guests = s.guests.filterMap (fun g => g.moved s.carve (carveOf gib)) ∧
          ∀ c ∈ s.activeChannels, ∀ o, (2046 - max (carveOf gib) s.carve) * mib ≤ o →
            o < (2046 - min (carveOf gib) s.carve) * mib → Mem.get t.mem (c * 2147483648 + o) = 0)) ∧
    ((∃ p, p < 4 ∧ 2046 < carveOf gib + s.near p) →
      ∃ t, exec (.hostedPartnerWindow r gib) s = .next t ∧ respondedWith t r 2 0x2300 1 0x1104 [] ∧
        onlyChanges [.caddy, .outs, .errq, .journal] s t)

/-- Accumulators under debug visibility (R55, R173): setting it asks for every partition Idle or Unassigned and is refused
with 0x5101 in Attested; clearing it clears every accumulator; while it is set, the selected tile is written and read as
Debug tile data. The tile of a site that draws no power keeps no write and reads zero (R171). -/
def Obligations.AccumulatorsShowUnderDebugVisibilityOnly : Prop :=
  ∀ (s : State) (r : Req), memoryCanonical s →
    (acceptsWrite s r 0x2200 1 2 (le 1 1) →
      (s.secState ≠ 1 → s.allQuiet = true →
        ∃ t, exec (.accumulatorVisibility r 1) s = .next t ∧ respondedWith t r 2 0x2200 1 0 [] ∧ t.val 0x2200 1 = le 1 1) ∧
      (s.secState = 1 →
        ∃ t, exec (.accumulatorVisibility r 1) s = .next t ∧ respondedWith t r 2 0x2200 1 0x5101 [] ∧
          onlyChanges [.caddy, .outs, .errq, .journal] s t)) ∧
    (acceptsWrite s r 0x2200 1 2 (le 1 0) → s.valNat 0x2200 1 = 1 →
      ∃ t, exec (.accumulatorVisibility r 0) s = .next t ∧ respondedWith t r 2 0x2200 1 0 [] ∧ t.val 0x2200 1 = le 1 0 ∧
        ∀ site < 1260, ∀ o, accOff ≤ o → o < bufOff → Mem.get t.mem (planePlace site o) = 0) ∧
    (∀ bs, acceptsWrite s r 0x2200 0x11 10 bs → s.valNat 0x2200 1 ≠ 0 →
      (s.isGated s.debugSite = false →
        ∃ t, exec (.debugTileData r (some bs)) s = .next t ∧ respondedWith t r 2 0x2200 0x11 0 [] ∧
          (∀ i, i < bs.length → Mem.get t.mem (s.debugTile + i) = bs.getD i 0) ∧
          ∀ k, (∀ i, i < bs.length → k ≠ s.debugTile + i) → Mem.get t.mem k = Mem.get s.mem k) ∧
      (s.isGated s.debugSite = true →
        ∃ t, exec (.debugTileData r (some bs)) s = .next t ∧ respondedWith t r 2 0x2200 0x11 0 [] ∧ t.mem = s.mem)) ∧
    (admits s r 1 0x2200 0x11 →
      ∃ t, exec (.debugTileData r none) s = .next t ∧
        respondedWith t r 1 0x2200 0x11 (if s.valNat 0x2200 1 = 0 then 0x1102 else 0)
          (if s.valNat 0x2200 1 = 0 then []
           else if s.isGated s.debugSite = true then zeros 1024
           else (List.range 1024).map (fun i => Mem.get s.mem (s.debugTile + i))))

/-- Maintenance writes of the dictionary: a migration begins or is refused with 0x4106 (R242, R243), error entries held up to
a sequence number are released (R345), one RECLAIM message goes out with its time (R96, R453), a sensor's lowest and highest
readings become the present one (R385), and a Kettle port goes out of service, here one with nothing in progress on the
links, or comes up again in training with at least eight of its nine lanes trained, the spare pair in the place of the
ninth; with fewer it goes down with 0x6303 (R438). -/
def Obligations.MaintenanceWritesTakeEffect : Prop :=
  ∀ (s : State) (r : Req),
    (∀ stack ch, stack < 20 → ch < 31 → acceptsWrite s r 0x2400 1 3 (le 2 (256 * stack + ch)) →
      (Tab.find s.hbm.migrations stack = none → s.standby stack < 32 → s.physCh stack ch < 32 →
        ∃ t, exec (.migrationRequest r stack ch) s = .next t ∧ respondedWith t r 2 0x2400 1 0 [] ∧
          Tab.find t.hbm.migrations stack =
            some { logical := ch, source := s.physCh stack ch, target := s.standby stack }) ∧
      ((Tab.find s.hbm.migrations stack).isSome ∨ 32 ≤ s.standby stack ∨ 32 ≤ s.physCh stack ch →
        ∃ t, exec (.migrationRequest r stack ch) s = .next t ∧ respondedWith t r 2 0x2400 1 0x4106 [] ∧
          onlyChanges [.caddy, .outs, .errq, .journal] s t)) ∧
    (∀ n, acceptsWrite s r 0x7100 3 4 (le 4 n) →
      ∃ t, exec (.acknowledge r n) s = .next t ∧ respondedWith t r 2 0x7100 3 0 [] ∧
        (∀ e, e ∈ t.errq.entries → ¬(e.state = 4 ∧ serialGe n e.seq = true)) ∧
        ∀ e ∈ s.errq.entries, ¬(e.state = 4 ∧ serialGe n e.seq = true) → ∃ x ∈ t.errq.entries, x.seq = e.seq) ∧
    (∀ modules partitions, acceptsWrite s r 0xA100 5 4 (le 4 (modules + 65536 * partitions)) →
      ∃ t, exec (.reclaimNoticeSend r modules partitions) s = .next t ∧ respondedWith t r 2 0xA100 5 0 [] ∧
        Out.tfb 2 [modules, partitions] ∈ t.outs ∧ t.tfb.stamps.head? = some ([2, modules, partitions], s.now / 4 * 4)) ∧
    (∀ i v, isSensor i = true → acceptsWrite s r i 5 2 (le 1 v) →
      ∃ t, exec (.sensorMinMaxReset r i v) s = .next t ∧ respondedWith t r 2 i 5 0 [] ∧
        (t.sensor i).low = (s.sensor i).value ∧ (t.sensor i).high = (s.sensor i).value ∧
        (t.sensor i).value = (s.sensor i).value) ∧
    (∀ k lanes, k < 12 →
      (acceptsWrite s r (0xA400 + k) 5 1 (le 1 1) → (s.kport k).state = 4 →
        ((∀ i < 9, bit lanes i = true) →
          ∃ t, exec (.kettlePortEnable r k 1 lanes) s = .next t ∧ respondedWith t r 2 (0xA400 + k) 5 0 [] ∧
            (t.kport k).state = 1 ∧ (t.kport k).spare = 0xFF ∧ (t.kport k).spareDead = false) ∧
        (∀ b < 9, (∀ i < 9, bit lanes i = true ↔ i ≠ b) →
          ∃ t, exec (.kettlePortEnable r k 1 lanes) s = .next t ∧ respondedWith t r 2 (0xA400 + k) 5 0 [] ∧
            (t.kport k).state = 1 ∧ (t.kport k).spare = (if b < 8 then b else 0xFF) ∧
            (t.kport k).spareDead = decide (b = 8))) ∧
      (acceptsWrite s r (0xA400 + k) 5 1 (le 1 1) → (s.kport k).state ≠ 4 →
        ∃ t, exec (.kettlePortEnable r k 1 lanes) s = .next t ∧ respondedWith t r 2 (0xA400 + k) 5 0 [] ∧
          t.kports = s.kports) ∧
      (s.colls = [] → s.xfers = [] → s.fetches = [] → (∀ p < 4, (s.part p).bindReq = none) →
        (acceptsWrite s r (0xA400 + k) 5 1 (le 1 0) →
          ∃ t, exec (.kettlePortEnable r k 0 lanes) s = .next t ∧ respondedWith t r 2 (0xA400 + k) 5 0 [] ∧
            (t.kport k).state = 4) ∧
        (∀ a b, a < b → b < 9 → (∀ i < a, bit lanes i = true) → bit lanes a = false → bit lanes b = false →
          acceptsWrite s r (0xA400 + k) 5 1 (le 1 1) → (s.kport k).state = 4 →
          roomFor s { status := 0x6303, unitKind := 8, unit := k * 256 + a } →
          ∃ t, exec (.kettlePortEnable r k 1 lanes) s = .next t ∧ respondedWith t r 2 (0xA400 + k) 5 0 [] ∧
            (t.kport k).state = 0 ∧ queued s t { status := 0x6303, unitKind := 8, unit := k * 256 + a })))

/-- Log clear empties the general ring but for the records made since, and is refused in Sealed (R386); Read data gives the
records that its route's cursor stands before (R389). -/
def Obligations.LogIsReadAndCleared : Prop :=
  ∀ (s : State) (r : Req) (v : Nat),
    (acceptsWrite s r 0x7000 6 2 (le 1 v) →
      (s.secState ≠ 2 → ∃ t, exec (.logClear r v) s = .next t ∧ respondedWith t r 2 0x7000 6 0 [] ∧
        ∀ x ∈ t.log.general, s.log.nextSeq ≤ x.seq) ∧
      (s.secState = 2 → ∃ t, exec (.logClear r v) s = .next t ∧ respondedWith t r 2 0x7000 6 0x1103 [] ∧
        onlyChanges [.caddy, .outs, .errq, .journal] s t)) ∧
    (admits s r 1 0x7000 4 →
      ∃ t, exec (.logReadData r) s = .next t ∧ respondedWith t r 1 0x7000 4 0 (s.readLog (Route.code r.route)).2 ∧
        t.log.general = s.log.general ∧ t.log.retained = s.log.retained)

/-- An operator declares a module lost (R320): with one member of a barrier group here, the module joins its losses; a member that
runs rolls back to its newest committed sachet, one whose rollback already runs, or that is not at work, begins none; with no
member nothing but the write happens. -/
def Obligations.DeclaredModuleIsLost : Prop :=
  ∀ (s : State) (r : Req) (m p : Nat), p < 4 → acceptsWrite s r 0xB000 3 2 (le 1 m) →
    (∀ q < 4, q ≠ p → s.grouped q = false) →
    (s.grouped p = true → (s.part p).rcv.lost.contains m = false →
      ((s.part p).rcv.rollback.isSome = true ∨ (s.part p).state.works = false →
        roomFor s { status := 0x7303, unitKind := 0x0D, unit := m } →
        ∃ t, exec (.declareModuleLost r m) s = .next t ∧ respondedWith t r 2 0xB000 3 0 [] ∧ m ∈ (t.part p).rcv.lost ∧
          (t.part p).state = (s.part p).state ∧ queued s t { status := 0x7303, unitKind := 0x0D, unit := m }) ∧
      lossRollsBack s m p (.declareModuleLost r m)) ∧
    (s.grouped p = false → ∃ t, exec (.declareModuleLost r m) s = .next t ∧ respondedWith t r 2 0xB000 3 0 [] ∧
      t.parts = s.parts)

/-- The SPDM requests that change nothing (R403, R404): while the responder is up, each well-formed one gets its response,
with the measurement blocks asked for, and what the standard fixes behind them. A malformed request of any kind gets ERROR and
changes nothing else, and a responder that is down answers none (R355, R469). -/
def Obligations.SpdmRequestsGetTheirResponse : Prop :=
  (∀ (s : State) (m : Spdm), s.spdmUp = true → m.ok = true →
    (∀ p ∈ [(Instr.getVersion m, 0x04), (.getCapabilities m, 0x61), (.negotiateAlgorithms m, 0x63), (.getDigests m, 0x01)],
      ∃ t, exec p.1 s = .next t ∧ onlyChanges [.sec, .outs, .errq, .journal] s t ∧ t.sec.sessions = s.sec.sessions ∧
        t.sec.keys = s.sec.keys ∧ spdmAnswered t m.source p.2 (Config.spdmBody p.2 m.body)) ∧
    (∀ offset length, ∃ t, exec (.getCertificate m 0 offset length) s = .next t ∧ onlyChanges [.sec, .outs, .errq, .journal] s t ∧
      spdmAnswered t m.source 0x02 (le 2 offset ++ le 2 length ++ Config.spdmBody 0x02 m.body)) ∧
    (s.boot.deviceRoot = true → ∃ t, exec (.challenge m 0) s = .next t ∧ onlyChanges [.sec, .outs, .errq, .journal] s t ∧
      spdmAnswered t m.source 0x03 (Config.spdmBody 0x03 m.body)) ∧
    (∀ i signed, 1 ≤ i → i ≤ 10 → (signed = true → s.boot.deviceRoot = true) →
      ∃ t, exec (.getMeasurements m i signed) s = .next t ∧ onlyChanges [.sec, .outs, .errq, .journal] s t ∧
        spdmAnswered t m.source 0x60 (s.measurement i ++ Config.spdmBody 0x60 m.body)) ∧
    (∀ handle chunk, ∃ t, exec (.chunkGet m handle chunk) s = .next t ∧ onlyChanges [.sec, .outs, .errq, .journal] s t ∧
      spdmAnswered t m.source 0x06 (le 1 handle ++ le 2 chunk ++ Config.spdmBody 0x06 m.body))) ∧
  (∀ (s : State) (m : Spdm) (a b : Nat) (signed last : Bool) (bs : List Byte),
    ∀ c ∈ [Instr.getVersion m, .getCapabilities m, .negotiateAlgorithms m, .getDigests m, .getCertificate m a b b,
        .challenge m a, .getMeasurements m a signed, .keyExchange m a, .finish m, .keyUpdate m, .heartbeat m, .endSession m,
        .chunkGet m a b, .chunkSend m a b last, .keyDeliver m a b a b bs, .keyRevoke m a b a, .ideKm m a b bs],
      (s.spdmUp = true → m.ok = false →
        ∃ t, exec c s = .next t ∧ onlyChanges [.sec, .outs, .errq, .journal] s t ∧ spdmAnswered t m.source 0x7F [] ∧
          t.sec.sessions = s.sec.sessions ∧ t.sec.keys = s.sec.keys ∧ t.sec.ide = s.sec.ide) ∧
      (s.spdmUp = false → ∃ t, exec c s = .next t ∧ onlyChanges [.errq, .journal] s t))

/-- SPDM sessions (R404, R405, R409): KEY_EXCHANGE opens one of at most four under a free number, FINISH completes it and
marks a requester authenticated to a trusted root, KEY_UPDATE and HEARTBEAT keep it, END_SESSION ends it, IDE_KM over the
data-object exchange of function 0 sets a stream's key, and CHUNK_SEND gathers a large request. -/
def Obligations.SpdmSessionsOpenAndClose : Prop :=
  ∀ (s : State) (m : Spdm), s.spdmUp = true → m.ok = true →
    (s.boot.deviceRoot = true → s.sec.sessions.length < 4 →
      ∃ t id, exec (.keyExchange m 0) s = .next t ∧ id < 5 ∧ (∀ x ∈ s.sec.sessions, x.id ≠ id) ∧
        t.sec.sessions = { source := m.source, id := id } :: s.sec.sessions ∧
        spdmAnswered t m.source 0x64 (le 1 id ++ Config.spdmBody 0x64 m.body)) ∧
    (∀ x, s.session m = some x →
      (∃ t, exec (.finish m) s = .next t ∧ spdmAnswered t m.source 0x65 (Config.spdmBody 0x65 m.body) ∧
        { x with done := true, trusted := m.mutualAuth && s.nor.trust.isSome } ∈ t.sec.sessions) ∧
      (∀ p ∈ [(Instr.keyUpdate m, 0x69), (.heartbeat m, 0x68)],
        ∃ t, exec p.1 s = .next t ∧ spdmAnswered t m.source p.2 (Config.spdmBody p.2 m.body) ∧ x ∈ t.sec.sessions) ∧
      (∃ t, exec (.endSession m) s = .next t ∧ spdmAnswered t m.source 0x6C (Config.spdmBody 0x6C m.body) ∧
        ∀ y ∈ t.sec.sessions, ¬(y.source = x.source ∧ y.id = x.id)) ∧
      (∀ stream keySet key, m.source = 2 → x.done = true → stream < 8 → keySet < 2 →
        ∃ t, exec (.ideKm m stream keySet key) s = .next t ∧ (stream, keySet, key) ∈ t.sec.ide ∧
          spdmAnswered t m.source 0x7E (Config.spdmBody 0x7E m.body))) ∧
    (∀ handle chunk last, ∃ t, exec (.chunkSend m handle chunk last) s = .next t ∧
      spdmAnswered t m.source 0x05 (le 1 handle ++ le 2 chunk ++ Config.spdmBody 0x05 m.body) ∧
      Tab.get t.sec.chunksIn [] m.source =
        if last then [] else (if chunk = 0 then [] else Tab.get s.sec.chunksIn [] m.source) ++ m.body)

/-- Keys (R407, R408): a delivery that its checks pass is held under its handle, any other is answered with its status; a
key that is revoked, whose lifetime ends, or that Key erase names, is gone. -/
def Obligations.KeysAreHeldUntilErased : Prop :=
  ∀ (s : State) (m : Spdm) (r : Req) (handle : Nat),
    (∀ ty part lifetime key, s.spdmUp = true → m.ok = true →
      ∃ t, exec (.keyDeliver m ty part handle lifetime key) s = .next t ∧
        spdmAnswered t m.source 0x7E (le 2 (s.deliverStatus m ty part handle) ++ Config.spdmBody 0x7E m.body) ∧
        (s.deliverStatus m ty part handle = 0 → t.hasKey part ty handle = true ∨ ty = 4) ∧
        (s.deliverStatus m ty part handle ≠ 0 → t.sec.keys = s.sec.keys)) ∧
    (∀ ty part, s.spdmUp = true → m.ok = true → s.broker m = true →
      (s.allKeys.any (fun k => k.handle == handle && k.ty == ty && k.part == part)) = true →
      ∃ t, exec (.keyRevoke m ty part handle) s = .next t ∧
        spdmAnswered t m.source 0x7E (le 2 0 ++ Config.spdmBody 0x7E m.body) ∧
        ∀ k ∈ t.allKeys, ¬(k.handle = handle ∧ k.ty = ty ∧ k.part = part)) ∧
    (∃ t, exec (.keyLifetimeExpired handle) s = .next t ∧
      ∀ k, k ∈ t.sec.keys ↔ k ∈ s.sec.keys ∧ ¬(k.handle = handle ∧ ∃ x, k.lapse = some x ∧ x ≤ s.time.ticks)) ∧
    (acceptsWrite s r 0x8100 3 4 (le 4 handle) →
      ∃ t, exec (.keyErase r handle) s = .next t ∧ respondedWith t r 2 0x8100 3 0 [] ∧
        ∀ k, k ∈ t.sec.keys ↔ k ∈ s.sec.keys ∧ handle ≠ 0xFFFFFFFF ∧ k.handle ≠ handle)

/-- The security state (R393, R395, R415): Open goes to Attested with debug closed and visibility off, Attested to Sealed with
a trust record and back to Open with every partition quiet, and nothing leaves Sealed; a debug session opens in Open alone,
while the port is enabled. -/
def Obligations.SecurityStateMovesAsAllowed : Prop :=
  ∀ (s : State) (r : Req),
    (∀ v, acceptsWrite s r 0x8000 2 2 (le 1 v) →
      (s.secState = 0 → v = 1 → s.sec.debugOpen = false → s.valNat 0x2200 1 = 0 →
        ∃ t, exec (.securityStateRequest r v) s = .next t ∧ respondedWith t r 2 0x8000 2 0 [] ∧ t.secState = 1) ∧
      (s.secState = 1 → v = 2 → s.nor.trust.isSome = true →
        ∃ t, exec (.securityStateRequest r v) s = .next t ∧ respondedWith t r 2 0x8000 2 0 [] ∧ t.secState = 2) ∧
      (s.secState = 1 → v = 0 → s.allQuiet = true →
        ∃ t, exec (.securityStateRequest r v) s = .next t ∧ respondedWith t r 2 0x8000 2 0 [] ∧ t.secState = 0 ∧
          ∀ k ∈ t.sec.keys, 3 < k.ty) ∧
      (s.secState = 2 → v ≠ 2 →
        ∃ t, exec (.securityStateRequest r v) s = .next t ∧ respondedWith t r 2 0x8000 2 0x1103 [] ∧
          onlyChanges [.caddy, .outs, .errq, .journal] s t)) ∧
    (s.secState = 0 → s.valNat 0x8000 6 = 1 →
      ∃ t, exec .debugSessionOpen s = .next t ∧ t.sec.debugOpen = true ∧ t.sec.debugFlag = true) ∧
    (s.secState ≠ 0 ∨ s.valNat 0x8000 6 ≠ 1 → ∃ t, exec .debugSessionOpen s = .next t ∧ onlyChanges [.errq, .journal] s t) ∧
    (∃ t, exec .debugSessionClose s = .next t ∧ t.sec.debugOpen = false ∧ onlyChanges [.sec, .errq, .journal] s t ∧
      t.sec.keys = s.sec.keys ∧ t.sec.debugFlag = s.sec.debugFlag)

/-- The timebase (R90 to R92): Timebase set steps the master's while every partition is quiet and is refused with 0x1101
otherwise (log 95); a sync word of the master slews off at most 1 µs, steps forward what is further behind at once before lock
and after four words in lock, and steps back only with every partition quiet; it never turns the timebase back under work. The
frequency correction that a word teaches is within 200 ppm (log 88). The master's own sync word is what it sends, with its
time, and it follows no other. -/
def Obligations.TimebaseNeverStepsBackUnderWork : Prop :=
  ∀ (s : State) (r : Req) (v source : Nat),
    (acceptsWrite s r 0x6000 5 8 (le 8 v) → v < 18446744073709551616 →
      (s.tfb.master = true → s.allQuiet = true →
        ∃ t, exec (.timebaseSet r v) s = .next t ∧ respondedWith t r 2 0x6000 5 0 [] ∧ t.now = v ∧
          t.time.ticks = s.time.ticks) ∧
      (s.tfb.master = false ∨ s.allQuiet = false →
        ∃ t, exec (.timebaseSet r v) s = .next t ∧ respondedWith t r 2 0x6000 5 0x1101 [] ∧ t.time = s.time)) ∧
    (s.tfb.master = false → source ≠ s.address → v + s.valNat 0xA100 3 < 18446744073709551616 →
      ∃ t, exec (.sync source v) s = .next t ∧
        onlyChanges [.time, .tfb, .log, .shadow, .parts, .mem, .hbm, .outs, .errq, .journal] s t ∧
        (s.allQuiet = false → s.now ≤ t.now) ∧ -8 ≤ t.time.corr ∧ t.time.corr ≤ 8 ∧ t.tfb.clockLost = none ∧
        let offset : Int := Int.ofNat s.now - Int.ofNat (s.valNat 0xA100 3) - Int.ofNat v
        t.time.offset = offset ∧
        (-1000 ≤ offset → offset ≤ 1000 ∨ s.allQuiet = false → t.time.ps = s.time.ps ∧ t.time.slewPs = 1000 * offset) ∧
        (offset < -1000 → s.time.state < 2 ∨ 3 ≤ s.time.behindRun →
          t.now = v + s.valNat 0xA100 3 ∧ t.time.state = 1) ∧
        (offset < -1000 → 2 ≤ s.time.state → s.time.behindRun < 3 →
          t.time.ps = s.time.ps ∧ t.time.behindRun = s.time.behindRun + 1) ∧
        (1000 < offset → s.allQuiet = true → t.now = v + s.valNat 0xA100 3)) ∧
    (s.tfb.master = true →
      (source ≠ s.address → ∃ t, exec (.sync source v) s = .next t ∧ onlyChanges [.errq, .journal] s t) ∧
      (source = s.address → ∃ t, exec (.sync source v) s = .next t ∧ onlyChanges [.outs, .tfb, .errq, .journal] s t ∧
        t.outs.head? = some (.tfb 1 [s.now]))) ∧
    (s.tfb.master = false → source = s.address →
      ∃ t, exec (.sync source v) s = .next t ∧ onlyChanges [.errq, .journal] s t)

/-- The bus clock (R91, R455): four missing sync words put a follower into Holdover, a lost clock into Free-run; an eligible
module that takes over is the master and Locked, and one that hands over acquires again. The learned correction is kept in
Holdover and gone in Free-run. -/
def Obligations.ModulesFollowTheBusClock : Prop :=
  ∀ s : State,
    (s.tfb.master = false → s.time.state ≠ 0 →
      (∃ t, exec .holdover s = .next t ∧ onlyChanges [.time, .errq, .journal] s t ∧ t.time.state = 3 ∧ t.time.ps = s.time.ps ∧
        t.time.corr = s.time.corr) ∧
      (∃ t, exec .freeRun s = .next t ∧ onlyChanges [.time, .tfb, .parts, .errq, .journal] s t ∧ t.time.state = 0 ∧
        t.time.ps = s.time.ps ∧ t.time.corr = 0 ∧ t.tfb.clockLost = some s.time.ticks)) ∧
    (s.tfb.master = true → (∃ t, exec .holdover s = .next t ∧ onlyChanges [.errq, .journal] s t) ∧
      (∃ t, exec .freeRun s = .next t ∧ onlyChanges [.errq, .journal] s t) ∧
      (∀ a, a ≠ s.address → ∃ t, exec (.masterTakeover a) s = .next t ∧ t.tfb.master = false ∧ t.time.state = 1 ∧
        onlyChanges [.time, .tfb, .errq, .journal] s t)) ∧
    (s.tfb.master = false → s.valNat 0xA100 2 = 0 →
      ∃ t, exec (.masterTakeover s.address) s = .next t ∧ t.tfb.master = true ∧ t.time.state = 2 ∧
        t.time.ps = s.time.ps ∧ onlyChanges [.time, .tfb, .errq, .journal] s t) ∧
    (s.tfb.master = false → ∀ a, a ≠ s.address →
      ∃ t, exec (.masterTakeover a) s = .next t ∧ t.tfb.clockLost = none ∧ t.tfb.master = false ∧
        onlyChanges [.tfb, .errq, .journal] s t)

/-- Scheduled snapshots (R110 to R112): a time 10 µs to 60 s ahead arms one, any other is refused with 0x3105, and 0x4104
refuses one while another is armed or held; at its time every counter is latched; a release gives the shadow up. -/
def Obligations.SnapshotsLatchEveryCounterAtTheirTime : Prop :=
  ∀ (s : State) (r : Req) (v : Nat),
    (acceptsWrite s r 0x6000 0x10 8 (le 8 v) →
      (s.now + 10000 ≤ v → v ≤ s.now + 60000000000 →
        (s.time.snapState = 0 → ∃ t, exec (.snapshotTime r v) s = .next t ∧ respondedWith t r 2 0x6000 0x10 0 [] ∧
          t.time.snapState = 1 ∧ t.time.snapTime = v ∧ t.time.ps = s.time.ps) ∧
        (s.time.snapState ≠ 0 → ∃ t, exec (.snapshotTime r v) s = .next t ∧
          respondedWith t r 2 0x6000 0x10 0x4104 [] ∧ t.time = s.time)) ∧
      (v < s.now + 10000 ∨ s.now + 60000000000 < v → ∃ t, exec (.snapshotTime r v) s = .next t ∧
        respondedWith t r 2 0x6000 0x10 0x3105 [] ∧ t.time = s.time)) ∧
    (s.time.snapState = 1 → s.time.snapTime ≤ s.now →
      ∃ t, exec .snapshotLatch s = .next t ∧ onlyChanges [.time, .shadow, .errq, .journal] s t ∧ t.time.snapState = 2 ∧
        t.shadow = s.latched ∧ t.time.snapSeq = (s.time.snapSeq + 1) % 4294967296 ∧ t.time.ps = s.time.ps) ∧
    (s.time.snapState ≠ 1 ∨ s.now < s.time.snapTime → ∃ t, exec .snapshotLatch s = .next t ∧ onlyChanges [.errq, .journal] s t) ∧
    (acceptsWrite s r 0x6000 0x12 2 (le 1 v) →
      ∃ t, exec (.snapshotRelease r v) s = .next t ∧ respondedWith t r 2 0x6000 0x12 0 [] ∧ t.time.snapState = 0 ∧
        t.shadow = [] ∧ t.time.ps = s.time.ps)

/-- Update of a firmware image (R359 to R361): staging data lands in the bank, verify judges it, activate hands off from now
or waits for a quiet moment, cancel gives it up until handing off begins, and a wait that passes the hold ends with 0x4102
and the update verified again. In other states each is refused with 0x1101. -/
def Obligations.UpdatesAreStagedVerifiedActivated : Prop :=
  ∀ (s : State) (r : Req),
    (∀ bs, acceptsWrite s r 0x9000 4 10 bs →
      (s.update.state ≤ 1 → s.valNat 0x9000 3 + bs.length ≤ bankSize s.updateKind →
        ∃ t, exec (.updateStagingData r bs) s = .next t ∧ respondedWith t r 2 0x9000 4 0 [] ∧ t.update.state = 1 ∧
          (t.update.staged.drop (s.valNat 0x9000 3)).take bs.length = bs ∧
          t.val 0x9000 3 = le 4 (s.valNat 0x9000 3 + bs.length)) ∧
      (1 < s.update.state →
        ∃ t, exec (.updateStagingData r bs) s = .next t ∧ respondedWith t r 2 0x9000 4 0x1101 [] ∧
          onlyChanges [.caddy, .outs, .errq, .journal] s t)) ∧
    (∀ v, acceptsWrite s r 0x9000 5 2 (le 1 1) → s.update.state = 1 →
      (s.judgeImage v = (0, 0) →
        ∃ t, exec (.updateVerify r v) s = .next t ∧ respondedWith t r 2 0x9000 5 0 [] ∧ t.update.state = 2 ∧
          t.update.image = imageOf s.update.staged) ∧
      (∀ result st, s.judgeImage v = (result, st) → result ≠ 0 →
        ∃ t, exec (.updateVerify r v) s = .next t ∧ respondedWith t r 2 0x9000 5 st [] ∧ t.update.state = 5 ∧
          t.update.result = result ∧ t.nor.active = s.nor.active)) ∧
    (acceptsWrite s r 0x9000 5 2 (le 1 2) → s.boot.found = none →
      (s.update.state = 2 →
        ∃ t, exec (.updateActivate r) s = .next t ∧ respondedWith t r 2 0x9000 5 0 [] ∧ t.update.state = 3 ∧
          t.update.waiting = if s.mustWait then some s.time.ticks else none) ∧
      (s.update.state ≠ 2 →
        ∃ t, exec (.updateActivate r) s = .next t ∧ respondedWith t r 2 0x9000 5 0x1101 [] ∧ t.update = s.update)) ∧
    (acceptsWrite s r 0x9000 5 2 (le 1 3) →
      (s.update.state ≠ 3 →
        ∃ t, exec (.updateCancel r) s = .next t ∧ respondedWith t r 2 0x9000 5 0 [] ∧ t.update.state = 0 ∧
          t.update.result = 4 ∧ t.update.staged = []) ∧
      (s.update.state = 3 →
        ∃ t, exec (.updateCancel r) s = .next t ∧ respondedWith t r 2 0x9000 5 0x1101 [] ∧ t.update = s.update)) ∧
    (∀ since, s.update.waiting = some since → s.update.state = 3 → s.mustWait = true → s.applyWait = none →
      since + s.valNat 0x9000 8 * Config.ticksPerMs ≤ s.time.ticks → roomFor s { status := 0x4102 } →
      ∃ t, exec .activationHold s = .next t ∧ t.update.state = 2 ∧ t.update.waiting = none ∧ queued s t { status := 0x4102 }) ∧
    (s.update.waiting = none → ∃ t, exec .activationHold s = .next t ∧ onlyChanges [.errq, .journal] s t)

/-- Handoff (R361, R362, R364 to R366): the old image stops at its handoff point, a CCC row at the latest after its wait; an
image that accepts is active and the old one inactive, row by row for the CCCs; one that refuses, crashes, finds a record that
it does not take, or does not accept in time leaves the old one active and the update failed. The old image writes its
records at its point (R363). -/
def Obligations.HandoffsCommitOrFallBack : Prop :=
  ∀ s : State, s.update.state = 3 →
    (s.update.stopped = none → (s.update.waiting = none ∨ s.mustWait = false) →
      (s.pointReached = true →
        ∃ t, exec .handoffPoint s = .next t ∧ onlyChanges [.update, .errq, .journal] s t ∧ t.update.state = 3 ∧
          t.update.stopped = some s.time.ticks ∧ t.update.waiting = none ∧
          t.update.records = s.handoffBodies.map (handoffRecord s.updateKind (s.activeImage s.updateKind).handOut
            (s.activeImage s.updateKind).version s.update.image.version s.now)) ∧
      (s.updateKind = 4 → s.update.since + s.valNat 0x9000 7 * Config.ticksPerMs ≤ s.time.ticks →
        ∃ t, exec (.cccHandoffWait s.update.rows) s = .next t ∧ t.update.state = 3 ∧
          t.update.stopped = some s.time.ticks ∧ t.update.waiting = none)) ∧
    (∀ at', s.update.stopped = some at' → s.commitWait = none → s.applyWait = none →
      (s.updateKind ≠ 4 → s.update.records.all s.update.image.takes = true →
        ∃ t, exec (.handoffAcceptance true false) s = .next t ∧ t.update.state = 4 ∧ t.update.result = 1 ∧
          t.activeImage s.updateKind = s.update.image ∧
          Tab.find t.nor.inactive s.updateKind = some (s.activeImage s.updateKind)) ∧
      (s.updateKind = 4 → s.update.rows < 29 → s.update.records.all s.update.image.takes = true →
        ∃ t, exec (.handoffAcceptance true false) s = .next t ∧ onlyChanges [.update, .errq, .journal] s t ∧ t.update.state = 3 ∧
          t.update.rows = s.update.rows + 1 ∧ t.update.stopped = none) ∧
      (∀ accept,
        ∃ t, exec (.handoffAcceptance accept true) s = .next t ∧ t.update.state = 5 ∧ t.update.result = 3 ∧ t.nor = s.nor) ∧
      (∀ accept, accept = false ∨ s.update.records.all s.update.image.takes = false →
        ∃ t, exec (.handoffAcceptance accept false) s = .next t ∧ t.update.state = 5 ∧ t.update.result = 2 ∧
          t.nor = s.nor) ∧
      (at' + acceptTicks s.updateKind ≤ s.time.ticks →
        ∃ t, exec .acceptanceLimit s = .next t ∧ t.update.state = 5 ∧ t.update.result = 3 ∧ t.nor = s.nor))

/-- Signed records (R381, R383, R400): staging data lands in the area and opens it, verify judges it, apply puts it in force,
cancel empties the area; the configuration record can be exported, and Restore defaults clears the journal; the journal
switches regions with the newest value of each entry. -/
def Obligations.RecordsAreStagedVerifiedApplied : Prop :=
  ∀ (s : State) (r : Req) (bs : List Byte) (v : Verdict),
    (s.recStage.state ≠ 2 → s.valNat 0x9100 2 + bs.length ≤ stagingSize → acceptsWrite s r 0x9100 3 10 bs →
      ∃ t, exec (.recordStagingData r bs) s = .next t ∧ respondedWith t r 2 0x9100 3 0 [] ∧ t.recStage.state = 1 ∧
        (t.recStage.bytes.drop (s.valNat 0x9100 2)).take bs.length = bs) ∧
    (s.trustStage.state ≠ 2 → s.valNat 0x8400 2 + bs.length ≤ stagingSize → acceptsWrite s r 0x8400 3 10 bs →
      ∃ t, exec (.trustRecordStagingData r bs) s = .next t ∧ respondedWith t r 2 0x8400 3 0 [] ∧ t.trustStage.state = 1 ∧
        (t.trustStage.bytes.drop (s.valNat 0x8400 2)).take bs.length = bs) ∧
    (acceptsWrite s r 0x9100 4 2 (le 1 1) → s.recStage.state = 1 →
      ∃ t, exec (.recordVerify r v) s = .next t ∧ respondedWith t r 2 0x9100 4 (s.judgeRecord v).2.2 [] ∧
        t.recStage.state = (if (s.judgeRecord v).1 = 0 then 2 else 3) ∧ t.recStage.result = (s.judgeRecord v).1 ∧
        t.recStage.failing = (s.judgeRecord v).2.1) ∧
    (acceptsWrite s r 0x8400 4 2 (le 1 1) → s.trustStage.state = 1 →
      ∃ t, exec (.trustRecordVerify r v) s = .next t ∧ respondedWith t r 2 0x8400 4 (s.judgeTrust v).2 [] ∧
        t.trustStage.state = (if (s.judgeTrust v).1 = 0 then 2 else 3) ∧ t.trustStage.result = (s.judgeTrust v).1) ∧
    (s.applyWait = none → s.update.state ≠ 3 →
      (acceptsWrite s r 0x9100 4 2 (le 1 2) → s.recStage.state = 2 →
        ∃ t, exec (.recordApply r) s = .next t ∧ respondedWith t r 2 0x9100 4 0 [] ∧ t.recStage.state = 4 ∧
          t.nor.journal = [] ∧ t.recordVersion = field s.recStage.bytes 4 4) ∧
      (acceptsWrite s r 0x8400 4 2 (le 1 2) → s.trustStage.state = 2 →
        ∃ t, exec (.trustRecordApply r) s = .next t ∧ respondedWith t r 2 0x8400 4 0 [] ∧ t.trustStage.state = 4 ∧
          t.nor.trust = some (padTo trustBytes s.trustStage.bytes))) ∧
    (s.applyWait = none →
      (acceptsWrite s r 0x9100 4 2 (le 1 3) →
        ∃ t, exec (.recordCancel r) s = .next t ∧ respondedWith t r 2 0x9100 4 0 [] ∧ t.recStage.state = 0 ∧
          t.recStage.bytes = []) ∧
      (acceptsWrite s r 0x8400 4 2 (le 1 3) →
        ∃ t, exec (.trustRecordCancel r) s = .next t ∧ respondedWith t r 2 0x8400 4 0 [] ∧ t.trustStage.state = 0 ∧
          t.trustStage.bytes = [])) ∧
    (acceptsWrite s r 0x9100 4 2 (le 1 4) →
      ∃ t, exec (.recordExport r) s = .next t ∧ respondedWith t r 2 0x9100 4 0 [] ∧ t.recStage.exported = s.exportRecord) ∧
    (acceptsWrite s r 0x9100 4 2 (le 1 5) →
      (s.secState ≠ 2 → s.allQuiet = true →
        ∃ t, exec (.restoreDefaults r) s = .next t ∧ respondedWith t r 2 0x9100 4 0 [] ∧ t.nor.journal = []) ∧
      (s.secState = 2 →
        ∃ t, exec (.restoreDefaults r) s = .next t ∧ respondedWith t r 2 0x9100 4 0x1103 [] ∧ t.nor = s.nor)) ∧
    (s.boot.secFailed = false →
      ∃ t, exec .journalSwitch s = .next t ∧ onlyChanges [.nor, .errq, .journal] s t ∧ t.nor.journal = newest s.nor.journal ∧
        t.nor.region = 1 - s.nor.region)

/-- Resets and power (R386, R462 to R467, R480): a warm reset asked for by register, I3C, Caddy or pin is refused and counted
while a sensor is past its warning limit, is one with a reset of the last 10 ms, and starts the module up otherwise; blades
that go live make a cold start; a blade that fails takes the module down with its log programmed. -/
def Obligations.ResetsStartTheModuleUp : Prop :=
  ∀ (s : State) (r : Req) (f : Findings),
    (soundFindings f → s.hot = false → s.coalesced = false → s.boot.step = 0x0A →
      (acceptsWrite s r 0x2600 1 2 (le 1 1) →
        ∃ t, exec (.warmResetRequest r 1 f) s = .next t ∧ startedUp 4 s t) ∧
      (s.boot.power = 2 → ∃ t, exec (.moduleReset 0x5752 f) s = .next t ∧ startedUp 3 s t) ∧
      (s.boot.power ≠ 0 → ∃ t, exec (.rstact 2 f) s = .next t ∧ startedUp 2 s t) ∧
      (s.boot.power ≠ 0 → (s.input 2).state = 0 → (s.input 2).lastEvent = none →
        ∃ t, exec (.warmResetN f) s = .next t ∧ startedUp 1 s t)) ∧
    (s.hot = true →
      (acceptsWrite s r 0x2600 1 2 (le 1 1) →
        ∃ t, exec (.warmResetRequest r 1 f) s = .next t ∧ respondedWith t r 2 0x2600 1 0x1101 [] ∧
          onlyChanges [.caddy, .outs, .errq, .journal] s t) ∧
      (s.boot.power = 2 →
        ∀ c ∈ [Instr.moduleReset 0x5752 f, .rstact 2 f], ∃ t, exec c s = .next t ∧ onlyChanges [.boot, .errq, .journal] s t ∧
          t.boot.refused = (s.boot.refused + 1) % 4294967296 ∧ t.boot.step = s.boot.step)) ∧
    (s.hot = false → s.coalesced = true → s.boot.power = 2 →
      ∀ c ∈ [Instr.moduleReset 0x5752 f, .rstact 2 f], ∃ t, exec c s = .next t ∧ onlyChanges [.errq, .journal] s t) ∧
    (soundFindings f → s.boot.power = 0 →
      ∃ t, exec (.bladesLive f) s = .next t ∧ startedUp 0 s t ∧ t.time.ticks = 0) ∧
    (s.boot.power ≠ 0 → s.boot.secFailed = false →
      ∃ t, exec .bladePowerFail s = .next t ∧ t.boot.power = 0 ∧ t.boot.ready = false ∧ t.log.unprogrammed = 0 ∧
        (∀ k < 12, (t.kport k).state = 0) ∧ t.mem = s.mem) ∧
    (s.boot.secFailed = false → 256 ≤ s.log.unprogrammed →
      ∃ t, exec .logBufferProgram s = .next t ∧ onlyChanges [.log, .errq, .journal] s t ∧ t.log.unprogrammed = 0 ∧
        t.log.general = s.log.general ∧ t.log.retained = s.log.retained)

/-- Registers of a partition function that takes writes (R73, R74, R337, R410): the ring base and size of an Idle partition,
the submission tail and completion head within their rings, the interrupt coalescing, acknowledgements of held errors, and
DOORBELL_ERR, which reads and clears; what is written reads back. A BAR2 write stores its bytes in the partition's slice. -/
def Obligations.HostRegistersTakeTheirWrites : Prop :=
  ∀ (s : State) (p v : Nat) (ide : Bool), s.takesWrites (p + 1) ide = true →
    ((s.part p).state = .idle → v % 4096 = 0 →
      ∃ t, exec (.bar0RegisterWrite (p + 1) 0x008 v ide) s = .next t ∧ onlyChanges [.parts, .errq, .journal] s t ∧
        (t.part p).rings.base = v ∧ t.readBar0 p 0x008 = v) ∧
    ((s.part p).state = .idle → 6 ≤ v → v ≤ 16 →
      ∃ t, exec (.bar0RegisterWrite (p + 1) 0x010 v ide) s = .next t ∧ onlyChanges [.parts, .errq, .journal] s t ∧
        (t.part p).rings.size = v ∧ t.readBar0 p 0x010 = v) ∧
    (v % 65536 ≠ 0 →
      ∃ t, exec (.bar0RegisterWrite (p + 1) 0x028 v ide) s = .next t ∧ onlyChanges [.parts, .errq, .journal] s t ∧
        (t.part p).rings.irqCount = v % 65536 ∧ (t.part p).rings.irqTime = v / 65536 % 65536 ∧
        t.readBar0 p 0x028 = v % 4294967296) ∧
    (let r := (s.part p).rings
     (v < r.entries → r.backlog ≤ (v + r.entries - r.sqHead) % r.entries →
        ∃ t, exec (.sqTailDb (p + 1) v ide) s = .next t ∧ onlyChanges [.parts, .errq, .journal] s t ∧ (t.part p).rings.sqTail = v ∧
          (t.part p).rings.sqHead = r.sqHead) ∧
      (v < r.entries → (v + r.entries - r.cqHead) % r.entries ≤ r.cqUsed - r.heldN →
        ∃ t, exec (.cqHeadDb (p + 1) v ide) s = .next t ∧ onlyChanges [.parts, .errq, .journal] s t ∧ (t.part p).rings.cqHead = v ∧
          (t.part p).rings.cqUsed = r.cqUsed - (v + r.entries - r.cqHead) % r.entries)) ∧
    (∃ t, exec (.errqAck (p + 1) v ide) s = .next t ∧ onlyChanges [.errq, .journal] s t ∧
      ∀ e ∈ t.errq.entries, ¬(e.state = 4 ∧ serialGe v e.seq = true ∧ e.part = p)) ∧
    (∃ t, exec (.doorbellErr (p + 1) ide) s = .next t ∧ onlyChanges [.parts, .outs, .errq, .journal] s t ∧
      t.outs.head? = some (.reg (p + 1) 0x02C (s.part p).rings.doorbellErr) ∧ (t.part p).rings.doorbellErr = 0) ∧
    (∀ a bs, memoryCanonical s → s.inSlice p a bs.length = true →
      ∃ t, exec (.bar2Write (p + 1) a bs ide) s = .next t ∧ onlyChanges [.parts, .mem, .hbm, .ctr, .errq, .journal] s t ∧
        stored p a bs s t ∧ (t.part p).rcv.dirty = true)

/-- A partition function that takes no writes drops them (R73, R410): every one is counted in its DOORBELL_ERR, and nothing
else changes; a submission tail past its ring is dropped, counted and logged as 0x1208 (R74). -/
def Obligations.HostWritesThatAreDroppedAreCounted : Prop :=
  ∀ (s : State) (p offset v a : Nat) (bs : List Byte) (ide : Bool), p < 4 → s.boot.power = 2 →
    (s.takesWrites (p + 1) ide = false →
      ∀ c ∈ [Instr.bar0RegisterWrite (p + 1) offset v ide, .sqTailDb (p + 1) v ide, .cqHeadDb (p + 1) v ide,
          .attachResume (p + 1) ide, .attachReset (p + 1) ide, .errqAck (p + 1) v ide, .bar2Write (p + 1) a bs ide],
        ∃ t, exec c s = .next t ∧ onlyChanges [.parts, .errq, .journal] s t ∧
          (t.part p).rings =
            { (s.part p).rings with doorbellErr := ((s.part p).rings.doorbellErr + 1) % 4294967296 }) ∧
    (s.takesWrites (p + 1) ide = true → (s.part p).rings.entries ≤ v →
      roomFor (s.refuseHost (p + 1)) { status := 0x1208, part := p } →
      ∃ t, exec (.sqTailDb (p + 1) v ide) s = .next t ∧ (t.part p).rings.sqTail = (s.part p).rings.sqTail ∧
        (t.part p).rings.doorbellErr = ((s.part p).rings.doorbellErr + 1) % 4294967296 ∧ queued s t { status := 0x1208, part := p })

/-- The host comes back to a partition that lost it (R88): resume publishes what was held and the partition runs with its
lease armed, unless it is still running to its stop; reset makes it Idle. In another state each answers 0x1101. -/
def Obligations.HostsComeBackThroughAttach : Prop :=
  ∀ (s : State) (p : Nat) (ide : Bool), s.takesWrites (p + 1) ide = true →
    ((s.part p).state = .hostLost →
      ((s.part p).runTo.busy = false →
        ∃ t, exec (.attachResume (p + 1) ide) s = .next t ∧ (t.part p).state = .running ∧
          (t.part p).rings.consuming = true ∧ (t.part p).rings.held = false ∧ (t.part p).rings.attachStatus = 0 ∧
          (t.part p).lease.armed = true ∧ (t.part p).lease.state = 1) ∧
      ((s.part p).runTo.busy = true →
        ∃ t, exec (.attachResume (p + 1) ide) s = .next t ∧ (t.part p).state = .hostLost ∧ (t.part p).lease.state = 3) ∧
      (∃ t, exec (.attachReset (p + 1) ide) s = .next t ∧ (t.part p).state = .idle)) ∧
    ((s.part p).state ≠ .hostLost →
      ∀ c ∈ [Instr.attachResume (p + 1) ide, .attachReset (p + 1) ide],
        ∃ t, exec c s = .next t ∧ onlyChanges [.parts, .errq, .journal] s t ∧ (t.part p).rings.attachStatus = 0x1101 ∧
          (t.part p).state = (s.part p).state)

/-- The Caddy window of function 0 (R378): a read request submitted by CADDY_DB is answered in the response area with ready
set; a doorbell while one is in progress, or of another value, is dropped and counted; reading the response clears ready. -/
def Obligations.CaddyWindowServesOneRequest : Prop :=
  ∀ s : State, s.boot.power = 2 →
    (let b := padTo 1056 s.caddy.req
     let u : State := { s with caddy := { s.caddy with busy := true } }
     s.caddy.busy = false → s.caddy.discard = false → field b 1 1 = 1 →
     admits u (windowReq b) 1 (field b 8 2) (field b 0x0A 1) →
     ∃ t, exec (.caddyDb 1) s = .next t ∧ t.caddy.busy = false ∧ t.caddy.ready = true ∧
       t.caddy.rsp = responseBytes 1 (field b 4 4) (field b 8 2) (field b 0x0A 1)
         (u.readEntry 1 (field b 8 2) (field b 0x0A 1)).2.1
         (((u.readEntry 1 (field b 8 2) (field b 0x0A 1)).2.2.drop (field b 0x10 4)).take 1024)) ∧
    (∀ v, s.caddy.busy = true ∨ v ≠ 1 →
      ∃ t, exec (.caddyDb v) s = .next t ∧ onlyChanges [.caddy, .errq, .journal] s t ∧
        t.caddy = { s.caddy with doorbellErr0 := (s.caddy.doorbellErr0 + 1) % 4294967296 }) ∧
    (∃ t, exec .caddyRsp s = .next t ∧ onlyChanges [.caddy, .outs, .errq, .journal] s t ∧ t.caddy.ready = false ∧
      t.outs.head? = some (.reg 0 0x1800 (ofLe s.caddy.rsp)))

/-- From submission to completion (R69, R77 to R81, R84, R101): the next submission entry is consumed and accepted, or
refused with a completion entry; the next list of a lane starts; the command its queue chooses runs once its checks pass;
and a command whose writes are acknowledged is done, and with the last one its list, which is answered. -/
def Obligations.SubmissionsBecomeListsAndCommands : Prop :=
  ∀ (s : State) (p : Nat),
    (let g := (s.part p).rings
     let u := (s.modRings p (fun r => { r with sqHead := (r.sqHead + 1) % r.entries })).syncHeader p
     let b := s.rd p (g.sqAddr g.sqHead) 64
     g.consuming = true → g.backlog ≠ 0 → s.openLists p + 2 ≤ g.free →
       (∀ cs ticks param, u.subStatus p b = 0 → u.startFenceStatus p (Sub.ofBytes b).fenceKind = 0 →
         u.takeList p (Sub.ofBytes b) = .ok (cs, ticks, param) →
         ∃ t x, exec (.submissionConsume p) s = .next t ∧ (t.part p).rings.sqHead = (g.sqHead + 1) % g.entries ∧
           (t.part p).lists = (s.part p).lists ++ [x] ∧ x.subId = field b 0x10 8 ∧ x.cmds = cs ∧
           x.lane = (Sub.ofBytes b).lane) ∧
       (u.subStatus p b ≠ 0 →
         ∃ t, exec (.submissionConsume p) s = .next t ∧ (t.part p).rings.sqHead = (g.sqHead + 1) % g.entries ∧
           (t.part p).lists = (s.part p).lists ∧ (t.part p).rings.cqHeldTail = (g.cqHeldTail + 1) % g.entries)) ∧
    (∀ lane x, s.nextOnLane p lane = some x → (s.part p).state.works = true → (s.part p).rcv.capture = none →
      (s.part p).parked = false →
      (∀ y ∈ (s.part p).lists, y.lane = lane → y.active = true → y.parent ≠ none) → x.fenceKind ≠ 5 →
      s.startOpen p x = true →
      ∃ t, exec (.listStart p lane) s = .next t ∧ onlyChanges [.parts, .queues, .errq, .journal] s t ∧
        ((t.list p x.id).map (fun y => y.active)) = some true) ∧
    (∀ k n r c, s.holds k n = false → noneHeldBack k n s → (s.queue k n).running = none → (s.queue k n).preempted = [] →
      s.choose k n (fun _ => false) = some r → s.cmdOf r = some c →
      let u := chosen k n r s
      u.waitBroken r.part r.list c.cmd = false → (u.fit r.part c (u.readHeld r.part c.cmd)).status = 0 →
      (u.fit r.part c (u.readHeld r.part c.cmd)).empty = false →
      ∃ t, exec (.commandDispatch k n) s = .next t ∧ onlyChanges [.parts, .queues, .sites, .ctr, .log, .errq, .journal] s t ∧
        t.running k n = some (r, { c with st := .running, held := u.readHeld r.part c.cmd })) ∧
    (∀ k n r rest c x, (s.queue k n).issued = r :: rest → s.cmdOf r = some c → c.cmd.sigKind = 0 →
      s.list r.part r.list = some x → x.ticks = [] → (s.part r.part).state = .running → s.boundStreams r.part = [] → s.colls = [] →
      ((∃ j d, j ≠ r.index ∧ x.cmds[j]? = some d ∧ d.st ≠ .done) →
        ∃ t, exec (.commandComplete k n) s = .next t ∧ (t.queue k n).issued = rest ∧
          t.cmdOf r = some { c with st := .done, ran := true }) ∧
      ((∀ j d, j ≠ r.index → x.cmds[j]? = some d → d.st = .done) → x.parent = none → x.answered = false →
        ∃ t, exec (.commandComplete k n) s = .next t ∧ (t.queue k n).issued = rest ∧ t.list r.part r.list = none ∧
          (t.part r.part).rings.cqHeldTail =
            ((s.part r.part).rings.cqHeldTail + 1) % (s.part r.part).rings.entries))

/-- What the scheduler does by its clock (R73, R78, R85, R86, R106, R298): a list past its deadline is answered, a barrier
that stays open is reported, a heartbeat renews the lease, a host that stays silent loses the partition, an orphaned SL
partition goes on as SB, completions that waited are signalled, and the next tick of a schedule begins. -/
def Obligations.SchedulerTimersTakeEffect : Prop :=
  ∀ (s : State) (p : Nat), p < 4 →
    (∀ lane x, (s.part p).lists.find? (fun y => y.lane == lane && y.missed s.now) = some x →
      s.list p x.id = some x →
      ∃ t, exec (.deadlineMiss p lane) s = .next t ∧ onlyChanges [.parts, .mem, .hbm, .outs, .errq, .journal] s t ∧
        (t.list p x.id).map (fun y => y.answered) = some true ∧
        (t.part p).rings.cqHeldTail = ((s.part p).rings.cqHeldTail + 1) % (s.part p).rings.entries) ∧
    (∀ kind e, 3 ≤ kind → kind ≤ 5 → s.valNat 0x6010 1 ≠ 0 → (s.part p).state.works = true →
      (s.waitedEpochs p kind).find? (fun e => s.stalled p kind e) = some e → roomFor s { status := 0x3102, part := p } →
      ∃ t, exec (.barrierStalled p kind) s = .next t ∧ queued s t { status := 0x3102, part := p } ∧
        (scopeKey kind 0, e) ∈ (t.part p).fences.reported) ∧
    (let beat := s.rdNat p ((s.part p).rings.base + 0x18) 8
     (s.part p).lease.armed = true → (s.part p).lease.state = 1 →
      (beat ≠ (s.part p).lease.lastBeat →
        ∃ t, exec (.heartbeatSample p) s = .next t ∧ onlyChanges [.parts, .mem, .hbm, .errq, .journal] s t ∧
          (t.part p).lease.lastBeat = beat ∧ (t.part p).lease.seen = s.now ∧ (t.part p).lease.seenTick = s.time.ticks ∧
          (t.part p).leaseMs = s.pval p 0x10 6) ∧
      (beat = (s.part p).lease.lastBeat → (s.part p).state = .running → s.boundStreams p = [] →
        (s.part p).lease.seenTick + (s.part p).leaseMs * Config.ticksPerMs ≤ s.time.ticks →
        ((s.part p).mode = 2 ∧ (s.part p).runTo = .none ∨ (s.part p).mode ≠ 2 ∧ (s.part p).lists ≠ []) →
        roomFor s { status := 0x3108, part := p } →
        ∃ t, exec (.hostLeaseExpired p) s = .next t ∧ queued s t { status := 0x3108, part := p } ∧
          (t.part p).state = .hostLost ∧ (t.part p).lease.state = 2 ∧ (t.part p).lease.armed = false ∧
          (t.part p).rings.held = true ∧ (t.part p).rings.consuming = false)) ∧
    ((s.part p).state = .hostLost → (s.part p).mode = 2 → (s.part p).lease.asSB = false →
      (s.part p).lease.lostTick + s.pval p 0x10 7 * Config.ticksPerMs ≤ s.time.ticks → s.boundStreams p = [] →
      (s.part p).lists ≠ [] →
      ∃ t, exec (.orphanServingTimeout p) s = .next t ∧ (t.part p).state = .hostLost ∧ (t.part p).lease.asSB = true ∧
        (t.part p).runTo = .barrier (s.partEpoch p)) ∧
    (let g := (s.part p).rings
     (0 < g.irqTime → 0 < g.irqPending → g.irqFirst + g.irqTime * Config.ticksPerUs ≤ s.time.ticks →
        ∃ t, exec (.irqCoalesceTimer p) s = .next t ∧ onlyChanges [.parts, .outs, .errq, .journal] s t ∧
          t.outs.head? = some (.msix (p + 1) 0) ∧ (t.part p).rings.irqPending = 0) ∧
      (g.irqTime = 0 → ∃ t, exec (.irqCoalesceTimer p) s = .next t ∧ onlyChanges [.errq, .journal] s t)) ∧
    (∀ lane x ws, (s.part p).lists.find? (fun y => y.lane == lane && y.active && !y.abandoned && !y.ticks.isEmpty) = some x →
      s.list p x.id = some x → (x.ticks[x.tick]?).map (·.2) = some ws → (s.part p).state ≠ .hostLost →
      (s.part p).rcv.capture = none → (∀ c ∈ x.cmds.take x.started, c.st ≠ .held ∧ c.st ≠ .queued ∧ failed c.status = false) → memoryCanonical s →
      ∃ t, exec (.scheduleTick p lane) s = .next t ∧ onlyChanges [.parts, .queues, .mem, .hbm, .ctr, .errq, .journal] s t ∧
        stored p x.param (ws.flatMap (le 4)) s t ∧ (t.list p x.id).map (fun y => y.tick) = some (x.tick + 1))

/-- The tensor commands (R114 to R131, R141, R147, R178, R194, R197, R204, R213): a command that runs on cluster n hands
over once its passes are run from its resume point, its replay before them, its pooled rows are stored, its epilogues are
written, the tiles are loaded, or the array mode is set; a parity error of an on-plane word that it reads stops it (R236,
R240). -/
def Obligations.TensorCommandsRunTheirPasses : Prop :=
  ∀ (s : State) (n : Nat) (r : QRef) (c : CmdRec), runs s 1 n r c →
    let i := s.siteN n
    let v := c.cmd.view c.held
    let site := s.execSite v
    let e := s.record i r
    (∀ cmd, c.cmd.opcode = 1 ∧ cmd = Instr.gemm n none ∨ c.cmd.opcode = 2 ∧ cmd = Instr.spatialOperator ⟨n, none⟩ →
      ∃ t, exec cmd s = .next t ∧ handedOver 1 n r c 0 s t ∧ (∀ x, (t.site i).resume = some x → x.ref ≠ r) ∧
        (bit c.cmd.arg4 1 = false → (t.site site).retained = none) ∧
        ((v.spat = none ∨ v.pool = false) →
          t.mem = if v.passes ≤ e.passes then s.mem
            else (((s.reload site v e.kept).replay r.part site n v e.replay e.passes).runPasses r.part site n v e.passes v.passes).mem) ∧
        ∀ x, v.spat = some x → v.pool = true →
          t.mem = ((List.range v.passes).foldl (fun u j =>
            (List.range v.arrays).foldl (fun u a => u.poolTiles r.part site v x j a) u) s).mem) ∧
    (∀ mode, mode < 3 → c.cmd.opcode = 3 → c.cmd.arg4 % 4 = mode →
      ∃ t, exec (if mode = 0 then .setArrayModeWide n else if mode = 1 then .setArrayModeChive16 n else .setArrayModeChive32 n) s
          = .next t ∧ handedOver 1 n r c 0 s t ∧ (t.site i).mode = mode ∧ (t.site i).retained = none ∧
        onlyChanges [.parts, .queues, .sites, .errq, .journal] s t) ∧
    (c.cmd.opcode = 4 →
      ∃ t, exec (.loadStationary ⟨n, none⟩) s = .next t ∧ handedOver 1 n r c 0 s t ∧
        t.mem = (s.loadTiles i c.cmd.fmt c.cmd.arg0
          ((List.range 8).flatMap (fun y => (List.range 32).map (fun x => (y, x))))).mem ∧
        (t.site i).retained = some (blockKey c.cmd.fmt (c.cmd.arg4 % 2) 128 512, List.replicate 256 c.cmd.arg0) ∧
        onlyChanges [.parts, .queues, .sites, .mem, .errq, .journal] s t) ∧
    (c.cmd.opcode = 5 →
      ∃ t, exec (.epilogueOnly ⟨n, none⟩) s = .next t ∧ handedOver 1 n r c 0 s t ∧ (t.site i).retained = none ∧
        t.mem = ((List.range v.passes).foldl (fun u j => (List.range v.arrays).foldl (fun u a =>
          if bit c.cmd.arg4 0 then u.writeRows r.part i v j a (fun _ _ => List.replicate v.loop.passN 0)
          else u.writeOut r.part i v (v.slot (s.slotBase r.part n v) j) j a) u) s).mem) ∧
    (∀ a, ∀ x ∈ [(1, Instr.gemm n (some a)), (2, Instr.spatialOperator ⟨n, some a⟩), (4, Instr.loadStationary ⟨n, some a⟩),
        (5, Instr.epilogueOnly ⟨n, some a⟩)],
      c.cmd.opcode = x.1 → stopsOnParity s 1 n r c a x.2)

/-- What stops the tensor arrays and what they recover by (R130, R131, R133 to R136, R138, R162, R214, R215): a preempting
command runs while the other waits with its resume record; a core or array fault is reported, counted, and its tiles are run
again, or the command fails where they have no initialisation in it; the third fault of a core, or one in its own replay,
retires its column, the third of an array the array; a spare column takes over; steep mode gates one eighth more of the
columns once the gap is long enough. -/
def Obligations.ArrayFaultsAndPreemptionTakeEffect : Prop :=
  ∀ (s : State),
    (∀ n k r c h d, runs s 1 n r c → (s.part r.part).policy = 0 → c.cmd.opcode = 1 ∨ c.cmd.opcode = 2 →
      (c.cmd.view c.held).fle = false → (c.cmd.view c.held).pool = false → k < (c.cmd.view c.held).passes →
      (s.queue 1 n).preempted = [] → noneHeldBack 1 n s →
      s.choose 1 n (fun x => x.lane == r.lane ||
        !((s.cmdOf x).map (fun y : CmdRec => s.ready x.part y.cmd && s.mayPreempt x.part y.cmd)).getD false) = some h →
      s.cmdOf h = some d →
      let u := chosen 1 n h (((s.stopAt n r c k).count (siteIndex (s.siteN n)) 9 1).modQueue 1 n
        (fun q => { q with running := none, preempted := [r] }))
      u.waitBroken h.part h.list d.cmd = false → (u.fit h.part d (u.readHeld h.part d.cmd)).status = 0 →
      (u.fit h.part d (u.readHeld h.part d.cmd)).empty = false →
      ∃ t, exec (.preemption n k) s = .next t ∧ (t.queue 1 n).running = some h ∧ (t.queue 1 n).preempted = [r] ∧
        (t.site (s.siteN n)).resume.map (fun e => (e.ref, e.passes)) = some (r, max (s.record (s.siteN n) r).passes k)) ∧
    (∀ i y x j n r c inReplay, s.logicalOf i = some n → runs s 1 n r c → (c.cmd.view c.held).fle = false →
      (c.cmd.view c.held).pool = false → c.cmd.opcode = 1 ∨ c.cmd.opcode = 2 → y < 8 → x < 34 → (s.site i).column x = 0 →
      j < (c.cmd.view c.held).passes → (s.record i r).passes ≤ j → (inReplay = true → s.replaying n r j = true) →
      let e : ErrSpec := { status := 0x6101, part := r.part, unitKind := 2, unit := siteUnit i, detail := le 1 y ++ le 1 x }
      let seen := Tab.get (s.site i).coreFaults 0 (y * 34 + x)
      let again := inReplay && (s.site i).cleared.contains (y, x)
      let u := (s.coreFault i (y * 34 + x)).1.logFault i y x r.part (s.refOf r)
      roomFor s e →
      (seen < 2 → again = false →
        ∃ t, exec (.arrayFault i y x ⟨j, inReplay⟩) s = .next t ∧ queued s t e ∧
          Tab.get (t.site i).coreFaults 0 (y * 34 + x) = seen + 1 ∧ t.mem = (u.recoverTiles n r c j y
            (((s.site i).coreColumns.findIdx? (· == x)).getD 0)).mem ∧
          ((c.cmd.view c.held).loop.init ≠ 2 →
            t.cmdOf r = some { c with status := mergeStatus c.status 0x0102 } ∧
            (t.site i).resume.map (fun q => (q.ref, q.passes, q.replay.isEmpty)) = some (r, j, false)) ∧
          ((c.cmd.view c.held).loop.init = 2 → handedOver 1 n r c 0x6103 s t)) ∧
      (∀ d, 2 ≤ seen ∨ again = true → (s.site i).nearestColumn x = some d → (c.cmd.view c.held).loop.init ≠ 2 →
        roomFor (s.raise { e with ref := s.refOf r })
          { status := 0x6102, part := (s.partOfRow (i / 42)).getD 0xFF, unitKind := 1, unit := siteUnit i } →
        ∃ t, exec (.arrayFault i y x ⟨j, inReplay⟩) s = .next t ∧ (t.site i).retiring = some (x, d) ∧ (t.site i).halted = true)) ∧
    (∀ i x d, (s.site i).retiring = some (x, d) → x ≠ d →
      ∃ t, exec (.coreRetirementComplete i []) s = .next t ∧ (t.site i).retiring = none ∧ (t.site i).halted = false ∧
        (t.site i).column x = 2 ∧ (t.site i).column d = 0 ∧ t.spareGen = s.spareGen + 1 ∧
        t.mem = (s.moveColumns i (s.site i).coreColumns (t.site i).coreColumns).mem) ∧
    (∀ n i p fle, (fle = false → s.siteOf n = some i ∧ s.partOfCluster n = some p) →
      (fle = true → n < 5 ∧ i = 1260 + n ∧ s.fleOwner n = some p) → s.atWork (if fle = true then 0 else n) i = false →
      s.pval p 0x30 2 ≠ 0 → (s.site i).steep < 8 →
      (s.cyclesOf i (s.pval p 0x30 2) + 256 * ((s.site i).steep + 1) ≤ s.gapCycles i →
        ∃ t, exec (.steepRampDown ⟨n, fle⟩) s = .next t ∧ (t.site i).steep = (s.site i).steep + 1 ∧
          onlyChanges [.sites, .ctr, .errq, .journal] s t) ∧
      (s.gapCycles i < s.cyclesOf i (s.pval p 0x30 2) + 256 * ((s.site i).steep + 1) →
        ∃ t, exec (.steepRampDown ⟨n, fle⟩) s = .next t ∧ onlyChanges [.errq, .journal] s t)) ∧
    (∀ f a j k n r c, f < 5 → a < 68 → (s.fle f).retired.contains a = false → (s.fle f).outOfService = false →
      s.fleRunner f = some (n, r, c) → s.fleLogical f a = some k → (c.cmd.view c.held).loop.init ≠ 2 →
      j < (c.cmd.view c.held).passes → (s.record (s.siteN n) r).passes ≤ j →
      let e : ErrSpec := { status := 0x6105, part := r.part, unitKind := 4, unit := f * 256 + a }
      roomFor s e →
      (Tab.get (s.fle f).faults 0 a < 2 →
        ∃ t, exec (.fleFault f a ⟨j, false⟩) s = .next t ∧ queued s t e ∧
          Tab.get (t.fle f).faults 0 a = Tab.get (s.fle f).faults 0 a + 1 ∧
          t.cmdOf r = some { c with status := mergeStatus c.status 0x0102 }) ∧
      (2 ≤ Tab.get (s.fle f).faults 0 a → (s.fle f).retired.length < 4 →
        ∃ t, exec (.fleFault f a ⟨j, false⟩) s = .next t ∧ queued s t e ∧ (t.fle f).retired = (s.fle f).retired ++ [a]))

/-- The vector engine (R183 to R185, R188, R189, R286, R287): an element-wise operation takes each FP32 result from its
operands, rounds it to the destination format and stores it; cast-on-gather stores its scaled matrix; reduce-add rounds the
exact sum of two regions once, and adds their pair tables; checksum verify counts each block and reports one whose sum is
outside its tolerance; a parity error of an on-plane word that it reads stops each of them (R236, R240). Where the destination
holds tiles that a running tensor command uses, what stands there is undefined (R172): those clauses leave it out. -/
def Obligations.VectorCommandsStoreTheirResults : Prop :=
  ∀ (s : State) (n : Nat) (r : QRef) (c : CmdRec), runs s 2 n r c → memoryCanonical s →
    let p := r.part
    let k := c.cmd
    let m := s.running 1 n = none
    (let stores := fun (op : Nat) (i : Option Nat → Instr) (f : FV → FV → FV) =>
       k.opcode = 1 → k.vop = op →
         (∀ a, stopsOnParity s 2 n r c a (i (some a))) ∧
         let xs := s.vecValues p k.arg0 k.srcFmt k.arg3
         let ys := if op < 6 then s.vecValues p k.arg1 k.srcFmt k.arg3 else xs
         let out := castRow k.fmt (k.rounding == 1) s.free ((xs.zip ys).map (fun e => f e.1 e.2))
         ∃ t, exec (i none) s = .next t ∧ handedOver 2 n r c 0 s t ∧
           (m ∨ s.inAccWindow p k.arg2 1 = false → stored p k.arg2 (packedAt s p k.arg2 (elemBits k.fmt) out.elems) s t)
     stores 1 (fun a => .vectorAdd ⟨n, a⟩) (fun a b => ofF32 (toF32 (FV.add a b))) ∧
     stores 2 (fun a => .vectorMultiply ⟨n, a⟩) (fun a b => ofF32 (toF32 (FV.mul a b))) ∧
     stores 3 (fun a => .vectorSubtract ⟨n, a⟩) (fun a b => ofF32 (toF32 (FV.add a b.neg))) ∧
     stores 4 (fun a => .vectorMaximum ⟨n, a⟩) FV.maximum ∧ stores 5 (fun a => .vectorMinimum ⟨n, a⟩) FV.minimum ∧
     stores 6 (fun a => .vectorCopyAndCast ⟨n, a⟩) (fun a _ => a) ∧ stores 7 (fun a => .vectorExp ⟨n, a⟩) (fun a _ => onF32 expF32 a) ∧
     stores 8 (fun a => .vectorReciprocal ⟨n, a⟩) (fun a _ => onF32 recipF32 a) ∧
     stores 9 (fun a => .vectorReciprocalSqrt ⟨n, a⟩) (fun a _ => onF32 rsqrtF32 a)) ∧
    (k.opcode = 2 → (∀ a, stopsOnParity s 2 n r c a (.castOnGather ⟨n, some a⟩)) ∧
      ∃ t, exec (.castOnGather ⟨n, none⟩) s = .next t ∧ handedOver 2 n r c 0 s t ∧
        t.mem = (if bit k.arg4 0 = true then s.gatherMx n r k else s.gatherPlain n r k).mem ∧
        (bit k.arg4 0 = false → bit k.arg4 1 = false →
          stored p k.arg1 ((List.range (k.outRows * k.outCols)).flatMap (fun i => le (elemBits k.fmt / 8)
            (castTo k.fmt (roundingAt (k.rounding == 1) (s.free + i)) (s.gatherElem p k (i / k.outCols) (i % k.outCols))).1)) s t)) ∧
    (k.opcode = 3 → (∀ a, stopsOnParity s 2 n r c a (.reduceAdd ⟨n, some a⟩)) ∧
      let f := formatOf k.fmt
      let w := f.width / 8
      let len := 4096 * k.arg3
      let u := s.addRegion p k.arg0 k.arg1 k.fmt (len * 8 / elemBits k.fmt) (k.rounding == 1)
      ∃ t, exec (.reduceAdd ⟨n, none⟩) s = .next t ∧ handedOver 2 n r c 0 s t ∧
        stored p k.arg0 ((List.range (len * 8 / elemBits k.fmt)).flatMap (fun i => le w
          (f.round (if k.fmt = 1 then .nearest else roundingAt (k.rounding == 1) (s.free + i))
            (FV.add (f.decode (s.rdNat p (k.arg0 + i * w) w)) (f.decode (s.rdNat p (k.arg1 + i * w) w)))))) s u ∧
        (m ∨ s.inAccWindow p k.arg0 1 = false →
        (bit k.arg4 0 = false → t.mem = u.mem) ∧
        (bit k.arg4 0 = true → stored p (k.arg0 + len) ((List.range (2 * k.arg3)).flatMap (fun i => le 8
          (addF64 (u.rdNat p (k.arg0 + len + 8 * i) 8) (u.rdNat p (k.arg1 + len + 8 * i) 8)))) u t))) ∧
    (k.opcode = 4 → (∀ a, stopsOnParity s 2 n r c a (.checksumVerify ⟨n, some a⟩)) ∧
      ((∀ b < k.arg3, (s.verifyBlock p k b).2.2.2 = true) →
        ∃ t, exec (.checksumVerify ⟨n, none⟩) s = .next t ∧ handedOver 2 n r c 0 s t ∧ t.mem = s.mem ∧
          t.counter (siteIndex (s.siteN n)) ctrVerified = s.counter (siteIndex (s.siteN n)) ctrVerified + k.arg3) ∧
      (∀ policy, k.arg3 = 1 → (s.verifyBlock p k 0).2.2.2 = false → k.arg4 % 4 = policy → policy = 1 ∨ policy = 2 →
        let e : ErrSpec := { status := 0x2301, part := p, unitKind := 1, unit := siteUnit (s.siteN n) }
        roomFor s e →
        ∃ t, exec (.checksumVerify ⟨n, none⟩) s = .next t ∧ handedOver 2 n r c 0x2301 s t ∧ queued s t e ∧
          (policy = 1 → t.mem = s.mem) ∧
          (policy = 2 → m ∨ s.inAccWindow p k.arg0 1 = false → ∃ u, stored p k.arg0 (zeros 4096) s u ∧ stored p (k.arg0 + 4096) (zeros 16) u t)))

/-- The move engine (R116, R157, R235, R236, R294, R295, R408, R411, R412): a copy stores what its verified read gives, up to
a block that fails at its refetch; a decrypting copy stores the plain text of its blocks up to one whose tag fails, and needs
its key; the skewed feed stores its operand in wavefront order; multicast writes every selected core's buffer; a parity error of
an on-plane word stops the copy and the feed; a recompute range puts its commands into the queues of its cluster. A copy to another cluster's memory sends it a numbered mesh
packet, which a cluster of another partition drops and counts (R28, R29, R98; log 89). Where a copy
writes on tiles that a running tensor command uses, what stands there is undefined (R172): those clauses leave it out. -/
def Obligations.MoveCommandsStoreTheirData : Prop :=
  ∀ (s : State) (n : Nat) (r : QRef) (c : CmdRec), runs s 3 n r c → memoryCanonical s →
    let p := r.part
    let k := c.cmd
    (∀ faults, k.opcode = 1 → bit k.arg4 0 = false →
      let x := s.readStop p k.arg0 k.arg3 faults
      (x.1 = none → ∃ t, exec (.copy n faults) s = .next t ∧ handedOver 3 n r c (if x.2 then 0x0103 else 0) s t ∧
        (tilesApart s p k.arg1 → stored p k.arg1 (s.rd p k.arg0 k.arg3) s t)) ∧
      (∀ b, x.1 = some b →
        let place := (s.place p b).getD 0
        let e : ErrSpec :=
          if planeBase ≤ b then parityErr s p b
          else
            { status := 0x2201, part := p, unitKind := 3, unit := place / 2147483648 / 32 * 256 + place / 2147483648 % 32 }
        roomFor s e → ∃ t, exec (.copy n faults) s = .next t ∧ handedOver 3 n r c 0x2201 s t ∧ queued s t e ∧
          (tilesApart s p k.arg1 → stored p k.arg1 (s.rd p k.arg0 (b - k.arg0)) s t)) ∧
      (∀ i j route, s.siteOf n = some i → k.arg0 < planeBase → s.siteAt k.arg1 = some j → j ≠ i → s.route i j = some route →
        s.planesOf route ≠ [] → s.bypassed i = false → s.bypassed j = false → (s.site j).halted = false →
        ∃ t plane, exec (.copy n faults) s = .next t ∧ plane ∈ s.planesOf route ∧
          let key := (i * 1260 + j) * 4 + plane
          let seq := Tab.get s.boot.mesh.seqs 0 key
          Tab.get t.boot.mesh.seqs 0 key = (seq + 1) % 65536 ∧
          (s.partOfRow (j / 42) = some p → Tab.find t.boot.mesh.last j = some
            { source := i, dest := j, plane := plane, part := p, tag := 3, seq := seq, fenceEpoch := s.partEpoch p
              timestamp := s.now % 16777216 }) ∧
          (s.partOfRow (j / 42) ≠ some p →
            Tab.get t.boot.mesh.dropped 0 j = (Tab.get s.boot.mesh.dropped 0 j + 1) % 4294967296))) ∧
    (∀ bad, k.opcode = 1 → bit k.arg4 0 = true →
      (c.held.head? = none → ∃ t, exec (.decryptingCopy n bad) s = .next t ∧ handedOver 3 n r c 0x5104 s t ∧ t.mem = s.mem) ∧
      (∀ key, c.held.head? = some key →
        let blocks := (List.range k.blockCount).map (· + k.firstBlock)
        let good := match bad with
          | some b => blocks.takeWhile (· != b)
          | none => blocks
        ∃ t, exec (.decryptingCopy n bad) s = .next t ∧
          handedOver 3 n r c (if good.length < blocks.length then 0x5103 else 0) s t ∧
          (tilesApart s p k.arg1 → t.mem = (good.foldl (fun u b => u.wr p (k.arg1 + 4096 * (b - k.firstBlock)) (u.plainBlock p k.arg0 b key)) s).mem))) ∧
    (k.opcode = 2 → (∀ a, stopsOnParity s 3 n r c a (.skewedOperandFeed ⟨n, some a⟩)) ∧
      let rows := k.arg2 % 4294967296
      let cols := k.arg2 / 4294967296
      let w := elemBits k.arg4
      let cells := (List.range rows).flatMap (fun m => (List.range cols).map (fun j =>
        (wavefront (cycles2 k.arg4) rows cols m j, s.rdBits p (k.arg0 + m * k.arg3) (j * w) w)))
      ∃ t, exec (.skewedOperandFeed ⟨n, none⟩) s = .next t ∧ handedOver 3 n r c 0 s t ∧
        stored p k.arg1 (packedAt s p k.arg1 w ((cells.mergeSort (fun a b => decide (a.1 ≤ b.1))).map (·.2))) s t) ∧
    (∀ faults, k.opcode = 3 → (s.readStop p k.arg0 k.arg3 faults).1 = none →
      ∃ t, exec (.multicast n faults) s = .next t ∧
        handedOver 3 n r c (if (s.readStop p k.arg0 k.arg3 faults).2 then 0x0103 else 0) s t ∧
        t.mem = ((List.range 256).filter (fun b => bit (s.rdNat p k.arg2 32) b)).foldl (fun (m : Mem) b =>
          memPut m (bufPlace (s.siteN n) (s.physCore (s.siteN n) (b / 32, b % 32)).1
            (s.physCore (s.siteN n) (b / 32, b % 32)).2 k.arg1) (s.rd p k.arg0 k.arg3)) s.mem) ∧
    (k.opcode = 4 → s.list p (s.part p).nextList = none →
      let cmds := recomputeCmds c.held
      let refs := fun (q : Nat) => (cmds.zipIdx.filter (fun e => e.1.kind == q)).map (fun e =>
        ({ part := p, list := (s.part p).nextList, index := e.2, lane := r.lane } : QRef))
      ∃ t, exec (.recomputeRange n) s = .next t ∧ onlyChanges [.parts, .queues, .ctr, .errq, .journal] s t ∧
        (t.queue 3 n).running = none ∧
        (∀ q, 1 ≤ q → q ≤ 3 → (t.queue q n).fifo = ((s.queue q n).inject r (refs q)).fifo) ∧
        (t.list p (s.part p).nextList).map (fun y => (y.parent, y.lane, y.cmds.map (fun d => d.cmd))) = some (some r, r.lane, cmds))

/-- Collectives (R275, R278 to R281, R289, R290, R299, R440, R441, R444): a command starts with its staging granted as
credits, and fails at a down port; a block with the command's ring key goes into staging, one with another key is refused;
credits add up; a refusal, a stall and a down port end the command, which keeps an earlier failure of its own and leaves its
record (R293); owed credits go out after their time; what is not ready at the deadline is deferred, or dropped and counted once
it is ready; a ledger copy makes its entry deferred. -/
def Obligations.CollectivesStartReceiveAndEnd : Prop :=
  ∀ (s : State) (q : Nat) (x : CollCtx),
    (∀ faults, s.collCtx q = some x → s.coll q = none →
      let i : Instr := if x.op = 1 then .reduceScatter q faults else if x.op = 2 then .allGather q faults else .allReduce q faults
      ((s.kport (portOf q)).state ≠ 2 ∨ (s.kport x.d.port).state ≠ 2 → ∀ c, s.cmdOf x.r = some c →
        ∃ t, exec i s = .next t ∧ handedOver 4 q x.r c 0x6303 s t ∧ t.coll q = none) ∧
      ((s.kport (portOf q)).state = 2 → (s.kport x.d.port).state = 2 → s.creditsOf q = 0 → x.total ≠ 0 →
        ∃ t, exec i s = .next t ∧
          (t.coll q).map progressOf = some (x.r, s.collPolicy x, min (x.d.stagingBytes / 4096) x.total, 0, 0, 0) ∧
          packetSent t x.d.port 0x02 x.r.part { kind := 1, tag := x.d.tag } [min (x.d.stagingBytes / 4096) x.total] [])) ∧
    (∀ h b, (s.kport h.port).state = 2 → h.crcOk = true →
      (s.receiver h.port h.tag = none → ∃ t, exec (.block h b) s = .next t ∧ onlyChanges [.kports, .errq, .journal] s t ∧
        (t.kport h.port).violations = (s.kport h.port).violations + 1) ∧
      (∀ run, s.receiver h.port h.tag = some x → s.collCtx q = some x → s.coll q = some run →
        (s.keyMatches x b = false → ∀ c, s.cmdOf x.r = some c →
          ∃ t, exec (.block h b) s = .next t ∧ handedOver 4 q x.r c (mergeStatus run.status 0x120E) s t ∧ t.coll q = none ∧
            packetSent t h.port 0x03 x.r.part { kind := 1, tag := h.tag } [0x120E] []) ∧
        (s.keyMatches x b = true → run.got + run.holdQ.length < run.granted →
          b.block = x.blockAt (run.got + run.holdQ.length) → s.contribClosed x = false → run.late = false →
          run.ready = false → run.got < x.reduceBlocks → s.creditsOf q = 0 → run.owed < 8 →
          let d : CBlock :=
            { block := b.block, data := padTo 4096 b.payload, sum := if x.d.pairs then b.pairSum.toNat else 0
              abs := if x.d.pairs then b.pairAbs.toNat else 0, mask := b.contributed }
          ∃ t, exec (.block h b) s = .next t ∧ onlyChanges [.mem, .hbm, .ctr, .colls, .free, .errq, .journal] s t ∧
            t.coll q = some { run with holdQ := run.holdQ ++ [d], heard := s.time.ticks } ∧
            t.counter (collIndex q) ctrBlocksReceived = s.counter (collIndex q) ctrBlocksReceived + 1))) ∧
    (∀ h n, (s.kport h.port).state = 2 → h.crcOk = true → portOf h.tag = h.port → s.collCtx h.tag = none →
      ∃ t, exec (.credit h n) s = .next t ∧ t.creditsOf h.tag = s.creditsOf h.tag + n) ∧
    (∀ h st c y, (s.kport h.port).state = 2 → h.crcOk = true → h.tag = q → portOf q = h.port → s.collCtx q = some x →
      s.coll q = some y → s.cmdOf x.r = some c →
      ∃ t, exec (.refuse h st) s = .next t ∧ handedOver 4 q x.r c (mergeStatus y.status st) s t ∧ t.coll q = none ∧
        t.creditsOf q = 0 ∧ t.mem = (s.recordRun y (mergeStatus y.status st)).mem) ∧
    (∀ y, s.collCtx q = some x → s.coll q = some y → y.owed ≠ 0 → y.owedTick + Config.ticksPerUs ≤ s.time.ticks →
      ∃ t, exec (.kettleCreditTimer q) s = .next t ∧ t.coll q = some { y with owed := 0, granted := y.granted + y.owed } ∧
        packetSent t x.d.port 0x02 x.r.part { kind := 1, tag := x.d.tag } [y.owed] []) ∧
    (∀ y, s.collCtx q = some x → s.coll q = some y → x.op ≠ 2 → y.late = false → y.ready = false →
      y.tickDeadline ≤ s.time.ticks → s.ledgerSize x.r.part = 0 → s.contribClosed x = false → y.holdQ = [] →
      s.creditsOf q = 0 → y.owed < 8 → y.got ≠ x.total →
      (y.policy = 0 → roomFor s { status := 0x4108, part := x.r.part } →
        ∃ t, exec (.stragglerDeadline q) s = .next t ∧ t.coll q = some { y with late := true, carried := true } ∧
          queued s t { status := 0x4108, part := x.r.part }) ∧
      (y.policy = 1 → ∃ t, exec (.stragglerDeadline q) s = .next t ∧
        t.coll q = some { y with late := true, carried := true } ∧
        (x.d.contribKind, x.d.contribEpoch) ∈ (t.part x.r.part).fences.drops) ∧
      (y.policy = 2 → ∃ t, exec (.stragglerDeadline q) s = .next t ∧ t.coll q = some y)) ∧
    (∀ y c, s.collCtx q = some x → s.coll q = some y → y.ready = true ∨ y.late = true →
      y.heard + s.valNat 0xB000 1 * Config.ticksPerMs ≤ s.time.ticks → s.cmdOf x.r = some c →
      ∃ t, exec (.collectiveStall q) s = .next t ∧ handedOver 4 q x.r c (mergeStatus y.status 0x3107) s t ∧ t.coll q = none ∧
        t.mem = (s.recordRun y (mergeStatus y.status 0x3107)).mem ∧
        t.counter (collIndex q) ctrStalls = s.counter (collIndex q) ctrStalls + 1) ∧
    (∀ p i l, Tab.find s.pendingSrc (p * 1024 + i) = some [l] → l.pairs = false → i < 1024 → s.ledgerSize p ≠ 0 →
      s.keyState p i = 3 → s.keyAge p i = 0 → s.colls = [] → memoryCanonical s →
      (∀ j < 1024, s.keyState p j = 1 → s.pendingClosed p j = false) →
      let dst := s.poolBase p + s.keyBuffer p i
      ∃ t u, exec (.ledgerCopyDone p i) s = .next t ∧ Tab.find t.pendingSrc (p * 1024 + i) = none ∧
        stored p dst (s.rd p l.src (4096 * s.keyBlocks p i)) s u ∧ stored p (s.keyAddr p i + 2) (le 1 2) u t)

/-- The Kettle link layer (R320, R436 to R439, R444): a sound flit in order is taken, another is asked for again, and a port
that fails its fourth sending twice goes down; NAK sends flits again; HELLO brings a port up; one lane may move to the spare
pair; a peer that stays away for the hold is lost. -/
def Obligations.KettlePortsKeepTheirLink : Prop :=
  ∀ (s : State) (k : Nat), k < 12 →
    let x := s.kport k
    (x.state = 2 → ∀ seq ack,
      (seq = x.expect → ∃ t, exec (.kettleFlit k seq ack true) s = .next t ∧ onlyChanges [.kports, .errq, .journal] s t ∧
        t.kport k = { x with expect := (x.expect + 1) % 4096, acked := ack, nak := false, fails := 0, retrained := false }) ∧
      (seq ≠ x.expect → x.nak = false → ∃ t, exec (.kettleFlit k seq ack true) s = .next t ∧
        t.kport k = { x with nak := true } ∧ t.outs.head? = some (.kettle k 0x102 [x.expect] [])) ∧
      (x.fails < 3 → ∃ t, exec (.kettleFlit k seq ack false) s = .next t ∧
        t.kport k = { x with fails := x.fails + 1, uncorrected := x.uncorrected + 1, nak := true } ∧
        t.outs.head? = some (.kettle k 0x102 [x.expect] [])) ∧
      (3 ≤ x.fails → x.retrained = false → ∃ t, exec (.kettleFlit k seq ack false) s = .next t ∧
        t.kport k = { x with fails := 0, uncorrected := x.uncorrected + 1, retrained := true, nak := true }) ∧
      (3 ≤ x.fails → x.retrained = true → s.colls = [] → s.xfers = [] → s.fetches = [] →
        (∀ p < 4, ∀ b, (s.part p).bindReq = some b → b.2.1 ≠ x.peer) →
        roomFor s { status := 0x6303, unitKind := 8, unit := k * 256 + 0xFF } →
        ∃ t, exec (.kettleFlit k seq ack false) s = .next t ∧ (t.kport k).state = 0 ∧ (t.kport k).downSince = s.time.ticks ∧
          queued s t { status := 0x6303, unitKind := 8, unit := k * 256 + 0xFF })) ∧
    (∀ seq, x.state = 2 → (x.sendSeq + 4096 - seq % 4096) % 4096 ≤ 1024 →
      ∃ t, exec (.nak k seq) s = .next t ∧ onlyChanges [.kports, .errq, .journal] s t ∧
        (t.kport k).replayed = x.replayed + (x.sendSeq + 4096 - seq % 4096) % 4096 ∧
        (t.kport k).acked = (seq + 4095) % 4096) ∧
    (∀ peer port lanes v, peer ≠ s.address → x.state = 1 → s.notices = [] → s.xfers = [] →
      ∃ t, exec (.hello k peer port lanes v) s = .next t ∧ onlyChanges [.kports, .outs, .errq, .journal] s t ∧
        t.kport k = { x with
          state := 2, peer := peer, peerPort := port, sendSeq := 0, expect := 0, acked := 4095, nak := false, seqs := [] } ∧
        t.outs.head? = some (.kettle k 0x103 [s.address, k] [])) ∧
    (∀ lane phase, x.state = 2 → x.spareDead = false →
      (x.spare = 0xFF ∨ x.spare = lane → ∃ t, exec (.remap k lane phase) s = .next t ∧
        onlyChanges [.kports, .outs, .errq, .journal] s t ∧ t.kport k = { x with state := 3 } ∧
        t.outs.head? = some (.kettle k 0x104 [lane, phase] []))) ∧
    (∀ lane, x.state = 2 ∨ x.state = 3 → x.spareDead = false → x.spare = 0xFF → s.xfers = [] →
      roomFor s { status := 0x6302, unitKind := 8, unit := k * 256 + lane } →
      ∃ t, exec (.kettleLaneRemapped k lane true) s = .next t ∧ (t.kport k).state = 2 ∧ (t.kport k).spare = lane ∧
        (t.kport k).replayed = x.replayed + (x.sendSeq + 4095 - x.acked) % 4096 ∧
        queued s t { status := 0x6302, unitKind := 8, unit := k * 256 + lane }) ∧
    (∀ peer p, peer ≤ 15 → x.peer = peer → p < 4 → (∀ q < 4, q ≠ p → s.grouped q = false) →
      (∀ j < 12, (s.kport j).peer = peer → (s.kport j).state ≠ 2 ∧
        (s.kport j).downSince + s.valNat 0xB000 2 * Config.ticksPerMs ≤ s.time.ticks) →
      (s.grouped p = true → (s.part p).rcv.lost.contains peer = false →
        ((s.part p).rcv.rollback.isSome = true ∨ (s.part p).state.works = false →
          roomFor s { status := 0x7303, unitKind := 0x0D, unit := peer } →
          ∃ t, exec (.peerLossHold peer) s = .next t ∧ peer ∈ (t.part p).rcv.lost ∧
            (t.part p).state = (s.part p).state ∧ queued s t { status := 0x7303, unitKind := 0x0D, unit := peer }) ∧
        lossRollsBack s peer p (.peerLossHold peer)) ∧
      (s.grouped p = false → ∃ t, exec (.peerLossHold peer) s = .next t ∧ onlyChanges [.errq, .journal] s t))

/-- Sachet points and fetches (R235, R236, R303, R304, R308, R321, R322, R441, R443): a sachet point counts a step, and holds
its partition for a capture when a sachet is due, joining one that waits already (log 109); a fetch is served from this module's
own window, unless a block there does not match its CRC, or asked of its holder; blocks that arrive are stored and confirmed; a
holder sends what it is asked for, or refuses. -/
def Obligations.SachetPointsAndFetchesTakeEffect : Prop :=
  ∀ s : State,
    (∀ q r c, runs s 4 q r c → c.cmd.opcode = 4 →
      (let v := (s.part r.part).rcv
        let n := (s.part r.part).interval
        bits c.cmd.arg4 1 0 = 0 → (∀ k, v.capture = some k → k.phase = 0 ∧ r ∉ k.cmds) →
        (¬ ((n ≠ 0 ∧ n ≤ v.sinceLast + 1) ∨ bit c.cmd.arg4 2 = true ∨ v.force = true) →
          ∃ t, exec (.sachetPoint q) s = .next t ∧ handedOver 4 q r c 0x0107 s t ∧
            (t.part r.part).rcv.steps = v.steps + 1 ∧ (t.part r.part).rcv.sinceLast = v.sinceLast + 1 ∧
            (t.part r.part).rcv.capture = v.capture) ∧
        (∀ k, (n ≠ 0 ∧ n ≤ v.sinceLast + 1) ∨ bit c.cmd.arg4 2 = true ∨ v.force = true → v.capture = some k →
          ∃ t, exec (.sachetPoint q) s = .next t ∧ (t.queue 4 q).running = some r ∧
            (t.part r.part).rcv = { v with
              steps := v.steps + 1, sinceLast := v.sinceLast + 1, capture := some { k with cmds := k.cmds ++ [r] } }) ∧
        ((n ≠ 0 ∧ n ≤ v.sinceLast + 1) ∨ bit c.cmd.arg4 2 = true ∨ v.force = true → v.capture = none → v.reclaim = none →
          ∃ t, exec (.sachetPoint q) s = .next t ∧ (t.queue 4 q).running = some r ∧
            (t.part r.part).rcv = { v with
              steps := v.steps + 1, sinceLast := v.sinceLast + 1, capture := some { phase := 0, cmds := [r], startNs := s.now } })) ∧
      (bits c.cmd.arg4 1 0 = 1 → Tab.find s.fetches q = none →
        let d := FetchDesc.ofBytes (c.held.getD 0 [])
        let own := s.serveFetch s.address r.part d.guest d.part d.id d.region d.offset
        (d.holder = s.address → ∀ st, own = .error st →
          ∃ t, exec (.sachetFetch q) s = .next t ∧ handedOver 4 q r c st s t ∧ t.mem = s.mem) ∧
        (d.holder = s.address → memoryCanonical s → ∀ x, own = .ok x →
          ((s.windowBlocks x.2 d.bytes).find? s.badPlace = none →
            ∃ t, exec (.sachetFetch q) s = .next t ∧ handedOver 4 q r c 0 s t ∧
              stored r.part d.dst (s.windowBytes x.2 d.bytes) s t) ∧
          (∀ k, (s.windowBlocks x.2 d.bytes).find? s.badPlace = some k →
            let e : ErrSpec :=
              { status := 0x2201, part := 0xFF, unitKind := 3, unit := k / 2147483648 / 32 * 256 + k / 2147483648 % 32 }
            roomFor s e → ∃ t, exec (.sachetFetch q) s = .next t ∧ handedOver 4 q r c 0x2201 s t ∧ queued s t e ∧
              t.mem = s.mem)) ∧
        (d.holder ≠ s.address → s.portsTo d.holder = [] →
          ∃ t, exec (.sachetFetch q) s = .next t ∧ handedOver 4 q r c 0x7302 s t) ∧
        (∀ k ks, d.holder ≠ s.address → s.portsTo d.holder = k :: ks →
          ∃ t, exec (.sachetFetch q) s = .next t ∧ Tab.find t.fetches q = some { ref := r } ∧
            packetSent t k 0x13 r.part { tag := 0xFF } [d.id, d.offset, d.bytes, d.guest, d.part, d.region] []))) ∧
    (∀ h : KHdr, (s.kport h.port).state = 2 → h.crcOk = true →
      (∀ id offset payload,
        (∃ t, exec (.sachetBlock h id offset payload false) s = .next t ∧ onlyChanges [.kports, .outs, .errq, .journal] s t ∧
          packetSent t h.port 0x12 0 { tag := 0xFF } [id, offset, 1, 0x2201] []) ∧
        (s.guestOf h.srcModule h.srcPartition = none →
          ∃ t, exec (.sachetBlock h id offset payload true) s = .next t ∧ onlyChanges [.kports, .outs, .errq, .journal] s t ∧
            packetSent t h.port 0x12 0 { tag := 0xFF } [id, offset, 1, 0x4101] []) ∧
        (∀ g i, s.guestOf h.srcModule h.srcPartition = some g →
          let w := g.open id (imageTotal g offset payload)
          w.held.findIdx? (fun e => e.1 == id) = some i → w.slots ≠ 0 → offset + 4096 ≤ w.slotBytes →
          s.inWindow (w.base + i * w.slotBytes + offset) 4096 = true →
          ∃ t, exec (.sachetBlock h id offset payload true) s = .next t ∧
            t.mem = (s.windowWrite (w.base + i * w.slotBytes + offset) (padTo 4096 payload)).mem ∧
            packetSent t h.port 0x12 0 { tag := 0xFF } [id, offset, 1, 0] [])) ∧
      (∀ x id offset n, s.xfers = [x] → x.id = id → x.module = h.srcModule → x.first ≤ offset →
        (offset - x.first) / 4096 < x.blocks →
        let b := (offset - x.first) / 4096
        let more := (x.flight.filter (fun f => decide (b ≤ f.2) && decide (f.2 < b + n))).length
        (x.source < 4 ∨ x.done + more ≠ x.blocks ∧ s.hbm.corrupt = [] → ∃ t, exec (.sachetConfirm h id offset n 0) s = .next t ∧
          t.xfers.map wayOf = [wayOf { x with done := x.done + more }]) ∧
        (4 ≤ x.source → x.done + more = x.blocks → ∃ t, exec (.sachetConfirm h id offset n 0) s = .next t ∧ t.xfers = [])) ∧
      (∀ id offset bytes guest part region,
        let own := s.serveFetch h.srcModule h.srcPartition guest part id region offset
        (∀ st, own = .error st → ∃ t, exec (.fetchRequest h id offset bytes guest part region) s = .next t ∧
          packetSent t h.port 0x15 0 { tag := 0xFF } [st] []) ∧
        (∀ x, own = .ok x → s.hbm.corrupt = [] → ∃ t, exec (.fetchRequest h id offset bytes guest part region) s = .next t ∧
          t.xfers.map wayOf = s.xfers.map wayOf ++ [(4, h.srcModule, x.1, offset, x.2, bytes / 4096, 0)])) ∧
      (∀ q r c id offset payload, runs s 4 q r c →
        let d := FetchDesc.ofBytes (c.held.getD 0 [])
        let f := Tab.get s.fetches { ref := r } q
        s.fetchFrom h.srcModule (fun d => (d.id == 0 || d.id == id) && d.offset ≤ offset && offset + 4096 ≤ d.offset + d.bytes) =
          some (q, r, d) →
        (f.bad.contains offset = false → ∃ t, exec (.fetchData h id offset payload false) s = .next t ∧
          Tab.find t.fetches q = some { f with bad := offset :: f.bad } ∧
          packetSent t h.port 0x12 r.part { tag := 0xFF } [id, offset, 1, 0x2201] []) ∧
        (f.bad.contains offset = true → ∃ t, exec (.fetchData h id offset payload false) s = .next t ∧
          Tab.find t.fetches q = none ∧ handedOver 4 q r c 0x2201 s t) ∧
        (memoryCanonical s → f.got + 4096 < d.bytes → ∃ t, exec (.fetchData h id offset payload true) s = .next t ∧
          Tab.find t.fetches q = some { f with got := f.got + 4096 } ∧
          stored r.part (d.dst + offset - d.offset) (padTo 4096 payload) s t ∧
          packetSent t h.port 0x12 r.part { tag := 0xFF } [id, offset, 1, 0] []) ∧
        (memoryCanonical s → d.bytes ≤ f.got + 4096 → ∃ t, exec (.fetchData h id offset payload true) s = .next t ∧
          Tab.find t.fetches q = none ∧ handedOver 4 q r c 0 s t ∧
          stored r.part (d.dst + offset - d.offset) (padTo 4096 payload) s t)) ∧
      (∀ q r c d st, runs s 4 q r c → s.fetchFrom h.srcModule (fun _ => true) = some (q, r, d) →
        ∃ t, exec (.fetchRefuse h st) s = .next t ∧ Tab.find t.fetches q = none ∧ handedOver 4 q r c st s t))

/-- Media commands (R249 to R251, R257, R259, R267, R273): a bind makes its stream, or fails with the status of its first
failed check; a decode command's rounds begin; a close ends an idle stream with a notice to its sender; a graceful close
waits for the running round, and an abort close does not. -/
def Obligations.MediaCommandsBindDecodeAndClose : Prop :=
  ∀ (s : State) (n : Nat) (r : QRef) (c : CmdRec), runs s 5 n r c →
    let x := s.stream n
    (c.cmd.opcode = 1 →
      let y := boundStream s n r c
      let st := s.bindStatus n y (c.cmd.arg1 != 0)
      (x.state ≠ 0 → ∃ t, exec (.mediaBind n) s = .next t ∧ handedOver 5 n r c 0x1203 s t ∧ t.stream n = x) ∧
      (x.state = 0 → st ≠ 0 → ∃ t, exec (.mediaBind n) s = .next t ∧ handedOver 5 n r c st s t ∧ t.stream n = x) ∧
      (x.state = 0 → st = 0 → ∃ t, exec (.mediaBind n) s = .next t ∧ handedOver 5 n r c 0 s t ∧
        t.stream n = { y with
          table := if y.kind = 4 then s.rd r.part (field y.desc 0x38 8) (1024 + 12 * field y.desc 0x40 4) else [] })) ∧
    (c.cmd.opcode = 2 → x.cmd = none →
      (x.state = 0 → ∃ t, exec (.decodeBlockList n) s = .next t ∧ handedOver 5 n r c 0x1203 s t) ∧
      (x.state = 1 ∨ x.state = 2 → x.fromPort = true → x.samples = [] → x.resultCredits = 0 →
        let w := c.cmd.rounds (c.held.getD 0 [])
        w.entries ≠ [] → ∃ t, exec (.decodeBlockList n) s = .next t ∧ onlyChanges [.streams, .errq, .journal] s t ∧
          t.stream n = { x with rounds := some w, cmd := some r })) ∧
    (c.cmd.opcode = 3 →
      let i : Instr := if bit c.cmd.arg4 0 = true then .closeAbort n else .closeGraceful n
      (x.state = 0 → ∃ t, exec i s = .next t ∧ handedOver 5 n r c 0 s t) ∧
      (x.state ≠ 0 → x.cmd = none → x.rounds = none → x.samples = [] →
        ∃ t, exec i s = .next t ∧ handedOver 5 n r c 0 s t ∧ t.stream n = {} ∧
          (x.fromPort = true →
            t.outs.head? = some (.ingest x.port x.conn 0x85 [x.seqOut, if bit c.cmd.arg4 0 = true then 0x1107 else 0] []))) ∧
      (∀ q d w, x.state ≠ 0 → x.cmd = some q → x.rounds = some w → x.samples = [] → x.fromPort = true → x.resultCredits = 0 →
        w.done ≠ [] → x.roundDone = false → x.admitsNew = true → s.cmdOf q = some d →
        q.part ≠ r.part ∨ q.list ≠ r.list ∨ q.index ≠ r.index →
        (bit c.cmd.arg4 0 = false → ∃ t, exec i s = .next t ∧ onlyChanges [.streams, .errq, .journal] s t ∧
          t.stream n = { x with state := 3, closeCmd := some r }) ∧
        (bit c.cmd.arg4 0 = true → ∃ t, exec i s = .next t ∧ handedOver 5 n r c 0 (s.issue 5 n q (mergeStatus 0x1107 w.status)) t ∧
          (t.cmdOf q).map (·.status) = some (mergeStatus d.status (mergeStatus 0x1107 w.status)) ∧ t.stream n = {})))

/-- Messages of the ingest links (R248, R253, R254, R256, R328, R446): an OPEN is accepted, by a stream or by a partition's
tier-3 store, or refused; the blocks of a sample are put together against credits, and those of a sample in decode are given
back; END, ROI, RESULT_CREDIT and ABORT_SAMPLE take effect when their sequence number follows, and a gap is an authentication
failure. -/
def Obligations.IngestMessagesAreTaken : Prop :=
  ∀ (s : State) (m : IngestMsg), frameTaken s m →
    let open1 := bit (s.valNat 0xC000 1) m.port
    (open1 = false → ∃ t, exec (.openMsg m) s = .next t ∧ t.outs.head? = some (.ingest m.port m.conn 0x82 [0, 0x4109] [])) ∧
    (open1 = true → s.streamAt m.port m.conn = none →
      (∀ p, s.storeAt m.port m.conn = some p →
        (∃ t, exec (.resultCredit m) s = .next t ∧
          (t.part p).rcv.store = { (s.part p).rcv.store with credits := (s.part p).rcv.store.credits + m.arg }) ∧
        ∃ t, exec (.openMsg m) s = .next t ∧ (t.part p).rcv.store = { nonce := m.arg % 2 ^ 32, seq := 1 } ∧ t.outs.head? = some (.ingest m.port m.conn 0x81 [0, 0] [])) ∧
      (s.storeAt m.port m.conn = none →
        ∃ t st, exec (.openMsg m) s = .next t ∧ t.outs.head? = some (.ingest m.port m.conn 0x82 [0, st] []))) ∧
    (∀ n, s.streamAt m.port m.conn = some n → (s.stream n).rounds = none → (s.stream n).state ≠ 3 →
      let x := s.stream n
      let y : Stream := { x with expectSeq := some ((m.seq + 1) % 2 ^ 32) }
      (open1 = true → x.samples = [] → ∃ t, exec (.openMsg m) s = .next t ∧
        t.stream n = { y with
          state := 2, nonce := m.arg % 2 ^ 32, ctrIn := 0, ctrOut := 0, seqOut := 1, credits := field x.desc 0x0A 2, owed := 0
          resultCredits := 0, pos := 0, frames := 0, rois := [], lastData := s.time.ticks } ∧
        t.outs.head? = some (.ingest x.port x.conn 0x81 [0, field x.desc 0x0A 2] [])) ∧
      (x.encrypted = false → x.samples = [] → x.expectSeq.isSome = true → x.expectSeq ≠ some m.seq →
        roomFor s { status := 0x5103, part := x.part, unitKind := 7, unit := n } →
        ∀ i ∈ [Instr.endMsg m, .roi m, .resultCredit m, .abortSample m], ∃ t, exec i s = .next t ∧ t.stream n = y ∧
          queued s t { status := 0x5103, part := x.part, unitKind := 7, unit := n } ∧
          t.counter (streamIndex n) 5 = s.counter (streamIndex n) 5 + 1) ∧
      (x.expectSeq = none ∨ x.expectSeq = some m.seq →
        let z : Stream := { y with
          lastData := s.time.ticks, stallLogged := false, credits := x.credits - 1, held := x.held + 1
          pos := x.pos + m.payload.length }
        let len := m.payload.length
        (x.encrypted = false → x.credits ≠ 0 → x.samples = [] → bit m.flags 0 = true → ∃ t, exec (.dataMsg m) s = .next t ∧
          slotsAside (t.stream n) = { z with
            samples := [{ id := m.sampleId, pos := x.pos, tArrival := s.now, tick := s.time.ticks, bytes := m.payload
                          blocks := 1, coded := len, whole := bit m.flags 1 }] }) ∧
        (∀ a, x.encrypted = false → x.credits ≠ 0 → x.samples = [a] → bit m.flags 0 = false → a.whole = false →
          a.reason = 0 → a.dropped = false → a.entry = none → ∃ t, exec (.dataMsg m) s = .next t ∧
            slotsAside (t.stream n) = slotsAside { z with
              samples := [{ a with
                bytes := a.bytes ++ m.payload, blocks := a.blocks + 1, coded := a.coded + len, whole := bit m.flags 1 }] }) ∧
        (∀ a, x.encrypted = false → x.credits ≠ 0 → x.samples = [a] → bit m.flags 0 = false → a.whole = false →
          a.reason = 0 → a.dropped = false → a.entry.isSome = true → a.slot = true → ∃ t, exec (.dataMsg m) s = .next t ∧
            (t.stream n).samples.map (·.blocks) = [0] ∧ (t.stream n).held = x.held + 1 - (a.blocks + 1)) ∧
        (x.credits = 0 → x.samples = [] → bit m.flags 0 = false → ∃ t, exec (.dataMsg m) s = .next t ∧
          t.stream n = { y with lastData := s.time.ticks, stallLogged := false } ∧
          t.counter (streamIndex n) 4 = s.counter (streamIndex n) 4 + 1) ∧
        (x.samples = [] → ∃ t, exec (.endMsg m) s = .next t ∧
          t.stream n = { y with state := if x.state = 2 then 1 else x.state, credits := 0 }) ∧
        (x.encrypted = false → ∃ t, exec (.roi m) s = .next t ∧
          t.stream n = { y with rois := (m.arg, padTo 16 m.payload) :: x.rois }) ∧
        (x.samples = [] → ∃ t, exec (.resultCredit m) s = .next t ∧
          t.stream n = { y with resultCredits := x.resultCredits + m.arg }) ∧
        (∀ a, x.samples = [a] → a.whole = false → a.reason = 0 → a.dropped = false → a.entry = none →
          ∃ t, exec (.abortSample m) s = .next t ∧
            slotsAside (t.stream n) = slotsAside { y with samples := [{ a with reason := 5, whole := true }] })))

/-- What comes of a stream's time and of its ports (R254, R255, R265, R266, R269, R272, R445): owed credits go out; a decoded
sample's data, mask and manifest entry are written, or those of a corrupt position with an error; a position that is late at
the deadline is masked; a stream that waits too long is named once; a port goes down and up, and its control frames are
counted. -/
def Obligations.StreamsWriteTheirPositions : Prop :=
  ∀ (s : State) (n : Nat),
    let x := s.stream n
    (x.state ≠ 0 → 0 < x.owed → x.owedTick + 2 * Config.ticksPerUs ≤ s.time.ticks →
      ∃ t, exec (.ingestCreditTimer n) s = .next t ∧
        t.stream n = { x with credits := x.credits + x.owed, owed := 0, seqOut := (x.seqOut + 1) % 2 ^ 32 } ∧
        t.outs.head? = some (.ingest x.port x.conn 0x83 [x.seqOut, x.owed] [])) ∧
    (∀ r e b, x.rounds = some r → r.entries[e]? = some b → x.fromPort = true → x.resultCredits = 0 → x.state ≠ 3 →
      { x with rounds := some { r with done := e :: r.done } }.roundDone = false → memoryCanonical s →
      (∀ d m, (List.range r.entries.length).find? (fun i =>
          ((r.entries[i]?).map (fun c => c.kind == 1 && c.position == b.position)).getD false) = some e →
        x.samples = [m] → m.entry = some e → m.slot = true → m.whole = true →
        let w := (s.decodedSample x b m d).1
        let bad := decide (w.reason ≠ 0)
        let er : ErrSpec := { status := 0x2401, part := x.part, unitKind := 7, unit := n }
        w.reason ≠ 0x0A → (w.reason ≠ 0 → roomFor s er) →
        ∃ t u v, exec (.positionWritten n b.position d) s = .next t ∧
          stored x.part (x.dataAddr r b.position) (if bad then zeros x.slotBytes else x.fillSlot w.data) s u ∧
          stored x.part (x.maskAddr r b.position) (maskOf x.maskBytes (if bad then 0 else w.units)) u v ∧
          stored x.part (r.maniAddr b.position) (manifest b.position m s.now (if bad then 0x2401 else 0) w.reason
            ((if bad then 1 else 0) + w.flags) (if bad then 0 else if bit b.flags 0 then b.weight else 0x3F800000)
            w.width w.height (if bad then 0 else w.units) r.j) v t ∧
          (t.stream n).samples = [] ∧
          (t.stream n).rounds = some { r with done := e :: r.done, masked := r.masked || bad } ∧
          (w.reason ≠ 0 → queued s t er)) ∧
      (∀ t0, r.firstTick = some t0 → x.live = true → field x.desc 0x1C 4 ≠ 0 →
        t0 + field x.desc 0x1C 4 * Config.ticksPerUs ≤ s.time.ticks → x.samples = [] → x.unwritten = [e] →
        roomFor s { status := 0x3101, part := x.part, unitKind := 7, unit := n } →
        ∃ t u, exec (.roundDeadline n) s = .next t ∧
          stored x.part (x.dataAddr r b.position) (zeros x.slotBytes) s u ∧
          (t.stream n).rounds = some { r with done := e :: r.done, masked := true } ∧
          queued s t { status := 0x3101, part := x.part, unitKind := 7, unit := n })) ∧
    (x.state ≠ 0 → x.fromPort = true → x.stallLogged = false → x.openEntries ≠ [] → s.roundOpen n = true →
      s.valNat 0xC000 3 ≠ 0 → x.lastData + s.valNat 0xC000 3 * Config.ticksPerMs ≤ s.time.ticks →
      roomFor s { status := 0x3106, part := x.part, unitKind := 7, unit := n } →
      ∃ t, exec (.streamStall n) s = .next t ∧ t.stream n = { x with stallLogged := true } ∧
        queued s t { status := 0x3106, part := x.part, unitKind := 7, unit := n }) ∧
    (∀ port, port < 4 →
      let y := Tab.get s.iports {} port
      (∃ t, exec (.ingestPortUp port) s = .next t ∧ onlyChanges [.iports, .errq, .journal] s t ∧
        Tab.get t.iports {} port = { y with state := 2 }) ∧
      (∃ t, exec (.flowControlFrame port) s = .next t ∧ onlyChanges [.iports, .errq, .journal] s t ∧
        Tab.get t.iports {} port = { y with flow := y.flow + 1 }) ∧
      (y.state = 2 → (∀ k, k ∈ s.dieStreams port → (s.stream k).fromPort = false) →
        roomFor s { status := 0x6301, unitKind := 9, unit := port } →
        ∃ t, exec (.portDown port) s = .next t ∧ onlyChanges [.iports, .errq, .outs, .boot, .tfb, .journal] s t ∧
          Tab.get t.iports {} port = { y with state := 0 } ∧
          queued s t { status := 0x6301, unitKind := 9, unit := port }))

/-- The memory side of gathers and adds (R31, R180, R181, R187, R232 to R234, R236, R240): a gather list copies each row to its
place, tiles in use by a running tensor command aside (R172); a gather add adds each row into its bag, and leaves out a bad row
under that policy; a parity error of an on-plane word stops either; atomic adds, pair adds and line writes change what they name
and nothing else. -/
def Obligations.GathersAddsAndWritesTakeEffect : Prop :=
  ∀ s : State, memoryCanonical s →
    (∀ q r c, runs s 6 q r c →
      let g := c.gather
      let len := 64 * g.lines
      (c.cmd.opcode = 1 → (∀ a, stopsOnParity s 6 q r c a (.gatherList ⟨q, some a⟩)) ∧
        ∃ t, exec (.gatherList ⟨q, none⟩) s = .next t ∧ handedOver 6 q r c 0 s t ∧
        (tilesApart s r.part g.dest → t.mem = (c.indices.zipIdx.foldl (fun (u : State) e =>
          u.wr r.part (g.dest + e.2 * len) (u.rd r.part (g.base + e.1 * len) len)) s).mem)) ∧
      (c.cmd.opcode = 2 → (∀ a rows, stopsOnParity s 6 q r c a (.gatherAdd ⟨q, some a⟩ rows)) ∧
        ∃ t, exec (.gatherAdd ⟨q, none⟩ []) s = .next t ∧ handedOver 6 q r c 0 s t ∧
        t.mem = ((arrivalOrder s.free (c.indices.zipIdx.map (fun e => (e.2, e.1)))).foldl (fun (u : State) e =>
          u.addRow r c e.2 (c.bags.getD e.1 0)) (s.spend 1)).mem) ∧
      (∀ j, c.cmd.opcode = 2 → c.indices = [j] → s.maintainedAt r.part (g.base + j * len) = true →
        s.pval r.part 0x60 2 = 1 →
        let a := (g.base + j * len) / 4096 * 4096
        let place := (s.place r.part a).getD 0
        let e : ErrSpec := { status := 0x2201, part := r.part, unitKind := 3
                             unit := place / 2147483648 / 32 * 256 + place / 2147483648 % 32 }
        roomFor s e → ∃ t, exec (.gatherAdd ⟨q, none⟩ [j]) s = .next t ∧ handedOver 6 q r c 0x2201 s t ∧ t.mem = s.mem ∧
          queued s t e)) ∧
    (∀ p a format values stochastic, format = 1 ∨ format = 2 → a % 64 = 0 → values.length = 512 / elemBits format →
      s.takesAdds p a 64 = true →
      let w := elemBits format / 8
      ∃ t, exec (.atomicAdd p a format values stochastic) s = .next t ∧ onlyChanges [.mem, .hbm, .ctr, .free, .errq, .journal] s t ∧
        t.mem = (values.zipIdx.foldl (fun (u : State) e =>
          match e.1 with
          | none => u
          | some v => u.wr p (a + e.2 * w) (le w (atomicElem format (roundingAt stochastic (s.free + e.2))
              (u.rdNat p (a + e.2 * w) w) v.toNat).1)) s).mem) ∧
    (∀ p a sum abs, a % 16 = 0 → s.takesAdds p a 16 = true →
      ∃ t, exec (.pairAdd p a sum abs) s = .next t ∧ onlyChanges [.mem, .hbm, .ctr, .errq, .journal] s t ∧
        stored p a (le 8 (addF64 (s.rdNat p a 8) sum.toNat) ++ le 8 (addF64 (s.rdNat p (a + 8) 8) abs.toNat)) s t) ∧
    (∀ p a bytes, a % 64 = 0 → bytes.length % 64 = 0 → s.inSlice p a bytes.length = true →
      ∃ t, exec (.hbmWrite p a bytes) s = .next t ∧ onlyChanges [.mem, .hbm, .ctr, .errq, .journal] s t ∧ stored p a bytes s t)

/-- Checked reads, the patrol and the spare channels (R235 to R237, R241 to R247, R273): a block that does not match twice is
queued, and stops the decode command whose results it holds; patrol mismatches of an hour count toward the threshold at which a
channel is degraded; a degraded channel is migrated to its stack's standby, whose bytes then read as the channel's did, those
below the copy pointer as the standby's do already; a failed channel hands its place to the standby, and without one the stack
loses a channel; a scrub clears all that a partition holds. -/
def Obligations.ChannelsAreCheckedAndReplaced : Prop :=
  ∀ s : State,
    (∀ p a k mismatch persists, a % 4096 = 0 → s.inSlice p a 4096 = true → 1 ≤ k → k ≤ 4 →
      let fault := s.faultAt p (if mismatch then [⟨a, persists⟩] else []) a
      let reader := if k = 3 then s.resultReader p a else none
      fault.any (fun f => f.persists) = false →
        ∃ t, exec (.hbmBlockRead p a k mismatch persists) s = .next t ∧ onlyChanges [.parts, .ctr, .errq, .journal] s t ∧
          (reader = none → t.parts = s.parts) ∧
          ∀ n r c, reader = some n → (s.stream n).cmd = some r → s.cmdOf r = some c → fault.isSome = true →
            t.cmdOf r = some { c with status := mergeStatus c.status 0x0103 }) ∧
    (∀ p a k, a % 4096 = 0 → s.inSlice p a 4096 = true → 1 ≤ k → k ≤ 4 → s.maintainedAt p a = true →
      let place := (s.place p a).getD 0
      let reader := if k = 3 then s.resultReader p a else none
      let e : ErrSpec := { status := 0x2201, part := p, unitKind := 3
                           unit := place / 2147483648 / 32 * 256 + place / 2147483648 % 32 }
      roomFor s e → ∃ t, exec (.hbmBlockRead p a k true true) s = .next t ∧ queued s t e ∧ t.mem = s.mem ∧
        ∀ n r c, reader = some n → (s.stream n).cmd = some r → s.running 5 n = some (r, c) → handedOver 5 n r c 0x2201 s t) ∧
    (∀ stack ch, stack < 20 → ch < 32 → s.hbm.failed.contains (stack, ch) = false →
      let key := chKey stack ch
      let l := s.logicalCh stack ch
      let moving : Migration := { logical := l, source := s.physCh stack l, target := s.standby stack }
      (∀ mismatch persists, s.valNat 0x2400 5 ≠ 0 →
        let b := Tab.get s.hbm.patrol 0 key % 523776
        let e : ErrSpec := { status := 0x2202, unitKind := 3, unit := chUnit stack ch
                             part := if b * 4096 < s.dataBytes then s.channelOwner stack ch else 0xFF }
        let bad := s.hbm.corrupt.contains (key * 524288 + b)
        let es := s.time.ticks :: s.recentErrors key
        (Ranges.has s.hbm.maintained (key * 524288 + b) = false ∨ mismatch = false ∧ bad = false →
          ∃ t, exec (.patrolBlock stack ch mismatch persists) s = .next t ∧ onlyChanges [.hbm, .ctr, .errq, .journal] s t ∧
            Tab.get t.hbm.patrol 0 key = (b + 1) % 523776) ∧
        (Ranges.has s.hbm.maintained (key * 524288 + b) = true → mismatch = true ∧ persists = true ∨ bad = true → roomFor s e →
          ∃ t, exec (.patrolBlock stack ch mismatch persists) s = .next t ∧ queued s t e ∧
            Tab.get t.hbm.patrol 0 key = (b + 1) % 523776 ∧
            (s.valNat 0x2400 4 = 0 ∨ es.length < s.valNat 0x2400 4 → Tab.get t.hbm.errors [] key = es) ∧
            (s.valNat 0x2400 4 ≠ 0 → s.valNat 0x2400 4 ≤ es.length → Tab.get t.hbm.errors [] key = [] ∧
              (l < 31 → Tab.find s.hbm.migrations stack = none → s.standby stack < 32 → s.physCh stack l < 32 →
                Tab.find t.hbm.migrations stack = some moving)))) ∧
      (l < 31 → Tab.find s.hbm.migrations stack = none → s.standby stack < 32 → s.physCh stack l < 32 →
        (s.valNat 0x2400 4 ≠ 0 →
          let e : ErrSpec := { status := 0x6201, part := s.channelOwner stack ch, unitKind := 3, unit := chUnit stack ch }
          roomFor s e → ∃ t, exec (.channelDegraded stack ch) s = .next t ∧ queued s t e ∧
            Tab.find t.hbm.migrations stack = some moving ∧ Tab.get t.hbm.errors [] key = [] ∧
              t.counter (0x6600 + key) ctrChCorrected =
                s.counter (0x6600 + key) ctrChCorrected + (s.valNat 0x2400 4 - (s.recentErrors key).length)) ∧
        (∃ t, exec (.retrainingCheckFailed stack ch) s = .next t ∧ onlyChanges [.hbm, .errq, .journal] s t ∧
          Tab.find t.hbm.migrations stack = some moving)) ∧
      (let e : ErrSpec := { status := 0x6202, unitKind := 3, unit := chUnit stack ch
                            part := if l = 255 then 0xFF else s.channelOwner stack ch }
       roomFor s e → (l = 255 → ∃ t, exec (.channelFailed stack ch) s = .next t ∧ queued s t e ∧
          (stack, ch) ∈ t.hbm.failed ∧ t.standby stack = 255 ∧ Tab.find t.hbm.migrations stack = none) ∧
        (l ≠ 255 → Tab.find s.hbm.migrations stack = none → s.standby stack < 32 → 4 ≤ s.channelOwner stack ch →
          s.carve = 0 → ∃ t, exec (.channelFailed stack ch) s = .next t ∧ queued s t e ∧ (stack, ch) ∈ t.hbm.failed ∧
            t.standby stack = 255 ∧ t.physCh stack l = s.standby stack) ∧
        (∀ g, l ≠ 255 → Tab.find s.hbm.migrations stack = some g → g.phase = 0 → g.source = ch → s.standby stack < 32 →
          ch ≠ s.standby stack → 4 ≤ s.channelOwner stack ch → s.carve = 0 →
          ∃ t, exec (.channelFailed stack ch) s = .next t ∧ queued s t e ∧ (stack, ch) ∈ t.hbm.failed ∧
            Tab.find t.hbm.migrations stack = none ∧ t.physCh stack l = s.standby stack ∧
            ∀ o < 2147483648, Mem.get t.mem (hbmPlace stack (s.standby stack) o) = Mem.get s.mem (hbmPlace stack (s.standby stack) o)) ∧
        (l ≠ 255 → Tab.find s.hbm.migrations stack = none → 32 ≤ s.standby stack → 4 ≤ s.channelOwner stack ch →
          4 ≤ s.channelOwner stack (s.physCh stack 30) →
          (s.raise e).errq.reserveUsed < 28 → ∃ t, exec (.channelFailed stack ch) s = .next t ∧ queued s t e ∧
            (∃ x ∈ t.errq.entries, x.seq = s.errq.nextSeq + 1 ∧ x.status = 0x7201 ∧ x.unitKind = 3 ∧
              x.unit = chUnit stack ch) ∧
            (stack, ch) ∈ t.hbm.failed ∧ t.hbm.usable = 30 ∧ t.physCh stack 30 = 255 ∧
            (l ≠ 30 → t.physCh stack l = s.physCh stack 30)))) ∧
    (∀ stack g, Tab.find s.hbm.migrations stack = some g →
      (memoryCanonical s → g.source ≠ g.target → g.phase = 0 → ∃ t, exec (.migrationCopyDone stack []) s = .next t ∧
        t.physCh stack g.logical = g.target ∧ Tab.find t.hbm.migrations stack = some { g with phase := 1 } ∧
        ∀ o < 2147483648, Mem.get t.mem (hbmPlace stack g.target o) =
          Mem.get s.mem (hbmPlace stack (if o / 4096 < g.ptr then g.target else g.source) o)) ∧
      (g.phase = 1 → ∃ t, exec (.migrationRetrainDone stack) s = .next t ∧ onlyChanges [.hbm, .errq, .journal] s t ∧
        Tab.find t.hbm.migrations stack = some { g with phase := 2 }) ∧
      (g.phase = 2 → ∀ passed, ∃ t, exec (.marchTestDone stack passed) s = .next t ∧ onlyChanges [.hbm, .errq, .journal] s t ∧
        Tab.find t.hbm.migrations stack = none ∧ t.standby stack = (if passed then g.source else 255) ∧
        (passed = false → (stack, g.source) ∈ t.hbm.failed))) ∧
    (∀ p, (s.part p).after = some .idle → (s.part p).state = .scrubbing → memoryCanonical s →
      ∃ t, exec (.scrubComplete p) s = .next t ∧ (t.part p).state = .idle ∧ (t.part p).scrubbed = true ∧
        (t.part p).after = none ∧
        (∀ k, onSites (s.partSites p) k = true ∨
          onChannels (s.channelsOf (s.part p).firstCh (s.part p).chans) s.dataBytes k = true → Mem.get t.mem k = 0) ∧
        ∀ k ∈ t.sec.keys, k.part = p → k.ty ≠ 1 ∧ k.ty ≠ 2)

/-- Messages and slots of the front bus (R105, R309, R310, R320, R323 to R325, R449, R454): a module's own message, or a copy of
one just received, changes nothing; a reclaim notice reclaims a partition it names; a fault or a loss puts a module into the
loss set; a landing is recorded; a rollback and a reclaim of the group reach its member; a slot that is presented closes or
breaks the member's group epoch. -/
def Obligations.TheFrontBusReachesItsMembers : Prop :=
  ∀ (s : State) (source a b d : Nat) (fatal : Bool),
    (∀ m ∈ [(Instr.reclaimNotice source a b, [2, a, b]), (.faultBroadcast source a fatal b, [3, a, if fatal then 1 else 0, b]),
        (.moduleLost source a, [4, a]), (.landed source a b d, [5, a, b, d]), (.rollbackMsg source a b, [6, a, b]),
        (.groupReclaim source a b, [7, a, b])],
      ¬unheard s source m.2 → ∃ t, exec m.1 s = .next t ∧ onlyChanges [.errq, .journal] s t) ∧
    (∀ p, p < 4 → unheard s source [2, a, b] → maskParts b = [p] →
      (bit a s.address = false → ∃ t, exec (.reclaimNotice source a b) s = .next t ∧ onlyChanges [.tfb, .errq, .journal] s t) ∧
      (bit a s.address = true → (s.part p).state = .running → (s.part p).mode = 0 → (s.part p).rcv.rollback = none →
        (s.part p).rcv.capture = none →
        ∃ t, exec (.reclaimNotice source a b) s = .next t ∧ (t.part p).state = .reclaiming ∧
          (t.part p).rings.consuming = false ∧ (t.part p).rcv.force = true ∧
          (t.part p).rcv.reclaim = some { t0 := s.time.ticks, phase := 0, phaseStart := s.time.ticks } ∧
          (s.grouped p = true → Out.tfb 7 [s.group p, p] ∈ t.outs))) ∧
    (unheard s source [3, a, if fatal then 1 else 0, b] →
      (b ≠ source → fatal = false →
        ∃ t, exec (.faultBroadcast source a fatal b) s = .next t ∧ onlyChanges [.tfb, .errq, .journal] s t) ∧
      (b = source ∨ fatal = true → ∀ p, onlyMember s p → (s.part p).rcv.lost.contains b = false →
        ((s.part p).rcv.rollback.isSome = true ∨ (s.part p).state.works = false →
          roomFor s { status := 0x7303, unitKind := 0x0D, unit := b } →
          ∃ t, exec (.faultBroadcast source a fatal b) s = .next t ∧ b ∈ (t.part p).rcv.lost ∧
            (t.part p).state = (s.part p).state ∧ queued s t { status := 0x7303, unitKind := 0x0D, unit := b }) ∧
        lossRollsBack s b p (.faultBroadcast source a fatal b))) ∧
    (unheard s source [4, a] → ∀ p, onlyMember s p → (s.part p).rcv.lost.contains a = false →
      ((s.part p).rcv.rollback.isSome = true ∨ (s.part p).state.works = false →
        ∃ t, exec (.moduleLost source a) s = .next t ∧ a ∈ (t.part p).rcv.lost ∧ (t.part p).state = (s.part p).state ∧
          t.errq.nextSeq = s.errq.nextSeq) ∧
      lossRollsBack s a p (.moduleLost source a)) ∧
    (unheard s source [5, a, b, d] → ∀ p, p < 4 → s.members a = [p] →
      ∃ t, exec (.landed source a b d) s = .next t ∧ (source, b) ∈ (t.part p).rcv.landings) ∧
    (unheard s source [6, a, b] → ∀ p x tier, p < 4 → s.members a = [p] → (s.part p).state = .running →
      (s.part p).lists = [] → (s.part p).rcv.rollback = none → (s.part p).rcv.capture = none →
      s.target p (fun y => y.groupEpoch == b) = some (x, tier) →
      ∃ t, exec (.rollbackMsg source a b) s = .next t ∧ (t.part p).rings.consuming = false ∧
        (t.part p).rcv.rollback = some { cause := 0x6402, target := some x.id, tier := tier, groupEpoch := some b }) ∧
    (unheard s source [7, a, b] → ∀ p, p < 4 → s.members a = [p] →
      ∃ t, exec (.groupReclaim source a b) s = .next t ∧ (t.part p).rcv.force = true ∧
        (t.part p).rcv.departing = some source) ∧
    (∀ p d0 d1 d2 closed broken, p < 4 → s.members a = [p] → s.tfb.master = false → s.busServes = true →
      (broken = true → (s.part p).rcv.departing = none →
        ∃ t, exec (.barrierSlot a d0 d1 d2 closed broken) s = .next t ∧ (t.part p).fences.broken = 0x3103) ∧
      (broken = false → closed = true → s.notArrived p = false → s.colls = [] → (s.part p).state = .running →
        s.boundStreams p = [] →
        ∃ t, exec (.barrierSlot a d0 d1 d2 closed broken) s = .next t ∧
          (t.part p).fences.closedAt (scopeKey 5 0) = ((s.part p).fences.closedAt (scopeKey 5 0) + 1) % 2 ^ 32))

/-- What comes of captures, tiers, restores, spare fills and reclaim phases that end (R235, R304, R305, R307 to R310, R312, R315,
R317, R324, R327, R328): a capture takes the plan's regions and goes to a tier, or is abandoned; a sachet lands and is committed;
tiers 2 and 3 take their copy from one that can be read, tier 3 against the credits of its store (log 110); a rollback and a Start put their sachet back; a spare takes the place of a failed cluster, or fails
its own test; a fence phase and a sachet phase that last too long end in the scrub. -/
def Obligations.RecoveryWorkEndsAsWritten : Prop :=
  ∀ (s : State) (p : Nat), p < 4 → memoryCanonical s →
    let q := s.part p
    (∀ c, q.rcv.capture = some c → c.phase = 0 → s.quiesced p c.cmds = true → s.tierOn p 1 = false →
      q.binding.fresh = false →
      let rs := q.rcv.plan ++ s.ledgerRegion p
      (s.tier2Ready p = true → s.badBlock p [] rs = none → ∃ t x, exec (.sachetCapture p []) s = .next t ∧
        (t.part p).rcv.capture = some { c with phase := 1, tier := 2, sachet := some x } ∧
        x.id = s.address * 2 ^ 60 + p * 2 ^ 58 + t.nor.sachetSeq % 2 ^ 58 ∧ t.nor.sachetSeq = s.nor.sachetSeq + 1 ∧
        x.regions = q.rcv.plan ∧ x.data = s.regionData p rs ∧
        x.sched.closed = q.fences.closed) ∧
      (q.state = .running → s.boundStreams p = [] → q.rcv.rollback = none → q.rcv.reclaim = none → q.runTo = .none →
        c.cmds = [] →
        (s.tier2Ready p = false → s.badBlock p [] rs = none → ∃ t, exec (.sachetCapture p []) s = .next t ∧ (t.part p).rcv.capture = none ∧
          (t.part p).rcv.sachets = q.rcv.sachets) ∧
        (∀ faults a, s.badBlock p faults rs = some a →
          let place := (s.place p a).getD 0
          let e : ErrSpec := { status := 0x2201, part := p, unitKind := 3
                               unit := place / 2147483648 / 32 * 256 + place / 2147483648 % 32 }
          roomFor s e → ∃ t, exec (.sachetCapture p faults) s = .next t ∧ (t.part p).rcv.capture = none ∧ queued s t e))) ∧
    (∀ c x, q.rcv.capture = some c → c.sachet = some x → c.tier = 1 ∨ c.tier = 2 →
      (s.allConfirmed p = false → ∃ t, exec (.sachetLanded p) s = .next t ∧ onlyChanges [.errq, .journal] s t) ∧
      (s.allConfirmed p = true → c.cmds = [] → q.state = .running → s.boundStreams p = [] → q.rcv.rollback = none →
        q.rcv.reclaim = none → q.runTo = .none → s.grouped p = false → q.binding.release = none →
        ∃ t, exec (.sachetLanded p) s = .next t ∧ (t.part p).rcv.capture = none ∧ (t.part p).rcv.force = false ∧
          (t.part p).rcv.sachets.head? =
            some { x with landed := true, tier1 := c.tier == 1, tier2 := c.tier == 2, committed := true } ∧
          t.val (0x3020 + 256 * p) 0x10 = le 8 x.id ∧ t.val (0x3020 + 256 * p) 0x11 = le 8 x.id)) ∧
    ((s.tierSource p q.rcv.tier2Next false = none →
        ∃ t, exec (.tier2WriteDone p) s = .next t ∧ onlyChanges [.parts, .errq, .journal] s t ∧
          (t.part p).rcv = { q.rcv with tier2Next := none }) ∧
      ∀ y, s.tierSource p q.rcv.tier2Next false = some y →
        ∃ t, exec (.tier2WriteDone p) s = .next t ∧ (t.part p).rcv.tier2Next = none ∧
          t.val (0x3020 + 256 * p) 0x12 = le 8 y.id ∧ ∀ x, x ∈ (t.part p).rcv.sachets → x.tier2 = (x.id == y.id)) ∧
    (∀ y, s.tierSource p q.rcv.tier3Next true = some y → s.boot.secFailed = false →
      let h := s.pval p 0x20 7
      let n := s.storeMessages p y
      (h = 0 ∧ s.secState ≠ 2 ∨ h ≠ 0 ∧ s.hasKey p 3 h = true →
        (n ≤ q.rcv.store.credits → ∃ t, exec (.tier3WriteDone p) s = .next t ∧ (t.part p).rcv.tier3Next = none ∧
          t.val (0x3020 + 256 * p) 0x13 = le 8 y.id ∧ t.outs = (List.range n).reverse.map (s.storeMessage p y) ++ s.outs ∧
          (t.part p).rcv.store.credits = q.rcv.store.credits - n ∧
          ∀ x, x ∈ (t.part p).rcv.sachets → x.id = y.id → x.tier3 = true) ∧
        (q.rcv.store.credits < n → ∃ t, exec (.tier3WriteDone p) s = .next t ∧ onlyChanges [.errq, .journal] s t)) ∧
      (∀ st, h = 0 ∧ s.secState = 2 ∧ st = 0x5101 ∨ h ≠ 0 ∧ s.hasKey p 3 h = false ∧ st = 0x5104 →
        roomFor s { status := st, part := p } →
        ∃ t, exec (.tier3WriteDone p) s = .next t ∧ (t.part p).rcv.tier3Next = none ∧ queued s t { status := st, part := p })) ∧
    (∀ b x, q.rcv.rollback = some b → q.rcv.sachets.find? (fun y => b.target == some y.id) = some x → b.restored = false →
      b.tier = 2 → ∀ a n, x.regions = [(a, n)] → s.ledgerSize p = 0 → q.rcv.fills ≠ [] → s.boundStreams p = [] →
      ∃ t, exec (.rollbackRestoreDone p) s = .next t ∧ (t.part p).rcv.rollback = some { b with restored := true } ∧
        stored p a ((List.range n).map (fun i => Mem.get x.data (a + i))) s t ∧
        (t.part p).fences.closed = x.sched.closed ∧ (t.part p).laneDone = x.sched.lanes) ∧
    (∀ b x, q.rcv.rollback = some b → q.rcv.sachets.find? (fun y => b.target == some y.id) = some x → b.restored = false →
      b.tier = 2 → q.rcv.fills = [] → s.boundStreams p = [] → q.state = .running → s.reducedRows p = [] → q.rcv.lost = [] →
      ∃ t, exec (.rollbackRestoreDone p) s = .next t ∧ (t.part p).rcv.rollback = none ∧
        (t.part p).rcv.lastRollback = x.id ∧ (t.part p).rings.consuming = true ∧ (t.part p).state = .running ∧
        t.val (0x3080 + 256 * p) 2 = le 8 x.id) ∧
    (∀ x, q.rcv.startRestore = some x → q.state = .idle →
      ∃ t, exec (.startRestoreDone p) s = .next t ∧ (t.part p).state = .running ∧ (t.part p).rcv.startRestore = none ∧
        (t.part p).rings.consuming = true) ∧
    (∀ f, q.rcv.fills = [f] → (∀ k < 5, k ≠ p → ∀ g ∈ (s.part k).rcv.fills, g.spare ≠ f.spare) → f.failed ≠ f.spare →
      q.state = .running → q.rcv.rollback = none → s.boundStreams p = [] → s.commitWait = none →
      (∃ t, exec (.spareSelfTestDone f.spare true) s = .next t ∧ t.siteSt f.failed = f.mark ∧ t.siteSt f.spare = 0 ∧
        t.spareGen = s.spareGen + 1 ∧ (t.part p).rcv.fills = []) ∧
      (let u : State := { s.modRcv p (fun r => { r with fills := [] }) with siteState := Tab.set s.siteState f.spare 2 }
       ∀ i, u.nearestSpare f.failed = some i → s.fillKey f.failed = p →
        roomFor s { status := 0x6403, part := p, unitKind := 1, unit := siteUnit f.spare } →
        ∃ t, exec (.spareSelfTestDone f.spare false) s = .next t ∧ t.siteSt f.spare = 2 ∧ t.spareGen = s.spareGen + 1 ∧
          (t.part p).rcv.fills = [{ failed := f.failed, spare := i, mark := f.mark }] ∧
          queued s t { status := 0x6403, part := p, unitKind := 1, unit := siteUnit f.spare })) ∧
    (∀ c, q.rcv.reclaim = some c →
      (c.phase = 0 → s.time.ticks < c.t0 + s.pval p 0x10 0x0B * Config.ticksPerMs →
        ∃ t, exec (.reclaimFenceAbort p) s = .next t ∧ onlyChanges [.errq, .journal] s t) ∧
      (c.phase = 0 → c.t0 + s.pval p 0x10 0x0B * Config.ticksPerMs ≤ s.time.ticks →
        roomFor s { status := 0x3109, part := p } →
        ∃ t, exec (.reclaimFenceAbort p) s = .next t ∧ (t.part p).lists = [] ∧ (t.part p).after = some .handover ∧
          (t.part p).rcv.reclaim = some { c with phase := 2, phaseStart := s.time.ticks } ∧
          queued s t { status := 0x3109, part := p }) ∧
      (c.phase = 1 → c.late = false → roomFor s { status := 0x310A, part := p } →
        ∃ t, exec (.reclaimDeadline p) s = .next t ∧ (t.part p).lists = [] ∧ (t.part p).after = some .handover ∧
          (t.part p).rcv.capture = none ∧
          (t.part p).rcv.reclaim = some { c with phase := 2, phaseStart := s.time.ticks, late := true } ∧
          queued s t { status := 0x310A, part := p }))

/-- Handling of errors and of the sideband inputs (R323, R336, R338, R340 to R343, R386, R459): a handler takes its next entry and a
higher one preempts; a handled entry goes to the log and is freed, or held in Safe-stop; a flit is replayed until three replays
have failed; a qualified input reclaims partitions, is coalesced, or is masked when stuck, and re-arms. -/
def Obligations.ErrorsAndInputsAreHandled : Prop :=
  ∀ (s : State),
    (∀ h, s.nextError h = none → ∃ t, exec (.errorEntryHandle h) s = .next t ∧ onlyChanges [.errq, .journal] s t) ∧
    (∀ h e, s.nextError h = some e → s.handlerUp h = true → e.status ≠ 0x6502 → e.cause = 0 →
      (∀ f ∈ s.errq.entries, f.seq = e.seq → f = e) →
      ((∀ f ∈ s.errq.entries, f.state ≠ 1) →
        ∃ t, exec (.errorEntryHandle h) s = .next t ∧ onlyChanges [.errq, .journal] s t ∧
          ∃ x ∈ t.errq.entries, x.seq = e.seq ∧ x.status = e.status ∧
            x.state = if 2 ≤ e.sev ∧ s.actionEnded e = true then 3 else 1) ∧
      (∀ f, f ∈ s.errq.entries → f.seq ≠ e.seq → e.preempts f = true → (∀ g ∈ s.errq.entries, g.state = 1 → g = f) →
        ∃ t, exec (.errorEntryHandle h) s = .next t ∧ onlyChanges [.errq, .journal] s t ∧
          (∃ x ∈ t.errq.entries, x.seq = f.seq ∧ x.state = 2) ∧
          ∃ x ∈ t.errq.entries, x.seq = e.seq ∧ x.cause = f.seq)) ∧
    (∀ n e, s.errq.entries.find? (fun e => e.seq == n && (e.state == 3 || (e.state == 1 && e.sev ≤ 1))) = some e →
      s.boot.secFailed = false →
      ∃ t, exec (.errorEntryLogged n) s = .next t ∧ onlyChanges [.log, .errq, .journal] s t ∧
        (∃ x, t.log.general.getLast? = some x ∧ x.kind = 1 ∧ x.part = e.part ∧ x.seq = s.log.nextSeq ∧
          x.body = { e with state := 3, tHandled := if e.state = 3 then e.tHandled else s.now }.bytes) ∧
        (e.part < 4 → (s.part e.part).state = .safeStop → ∃ x ∈ t.errq.entries, x.seq = n ∧ x.state = 4) ∧
        (4 ≤ e.part → ∀ x ∈ t.errq.entries, x.seq ≠ n)) ∧
    (∀ path replays, replays < 3 → ∀ retrained,
      ∃ t, exec (.flitParityError path 0 replays retrained) s = .next t ∧ onlyChanges [.ctr, .errq, .journal] s t ∧
        t.counter (siteIndex (path / 16)) (ctrLinkReplays + path / 4 % 4) =
          s.counter (siteIndex (path / 16)) (ctrLinkReplays + path / 4 % 4) + (replays + 1)) ∧
    (∃ t, exec (.flitParityError 0 6 3 false) s = .next t ∧ onlyChanges [.boot, .errq, .journal] s t ∧ t.flashUp = false) ∧
    (∀ path, path < 1048576 → roomFor s (s.pathError 5 path) →
      ∃ t, exec (.flitParityError path 5 3 false) s = .next t ∧ queued s t (s.pathError 5 path) ∧
        t.boot.pathsOff.contains (pathKey 5 path) = true) ∧
    (∀ path kind, kind ≤ 5 → roomFor s (s.pathError kind path) →
      (∃ t, exec (.flitParityError path kind 3 true) s = .next t ∧ queued s t (s.pathError kind path)) ∧
      (kind = 0 → s.errq.reserveUsed < 27 →
        ∃ t, exec (.flitParityError path kind 3 false) s = .next t ∧ queued s t (s.pathError kind path) ∧
          ∃ x ∈ t.errq.entries, x.status = 0x6502 ∧ x.unitKind = 5 ∧ x.unit = path / 4 ∧ x.cause = s.errq.nextSeq)) ∧
    (let now := s.time.ticks
     let began := fun (i : Nat) => now - (s.valNat (0xA700 + i) 1 / Config.tickNs + 2)
     let taken := fun (i : Nat) => { s.input i with
       state := 1, qualified := true, since := began i, events := ((s.input i).events + 1) % 2 ^ 32, lastEvent := some now }
     (∀ i ∈ [(0, Instr.reclaimN), (1, .faultInN)], (s.input i.1).state = 0 → ∀ t0, (s.input i.1).lastEvent = some t0 →
        now < t0 + s.valNat (0xA700 + i.1) 2 * Config.ticksPerUs →
        ∃ t, exec i.2 s = .next t ∧ onlyChanges [.inputs, .errq, .journal] s t ∧
          (t.input i.1).coalesced = ((s.input i.1).coalesced + 1) % 2 ^ 32 ∧ (t.input i.1).state = 1) ∧
     ((s.input 0).state = 0 → (s.input 0).lastEvent = none →
        (s.valNat 0x2500 1 = 0 → ∃ t, exec .reclaimN s = .next t ∧ onlyChanges [.inputs, .errq, .journal] s t ∧ t.input 0 = taken 0) ∧
        (∀ p, p < 4 → maskParts (s.valNat 0x2500 1) = [p] → (s.part p).state = .running → (s.part p).mode = 0 →
          (s.part p).rcv.rollback = none → (s.part p).rcv.capture = none →
          ∃ t, exec .reclaimN s = .next t ∧ t.input 0 = taken 0 ∧ (t.part p).state = .reclaiming ∧
            (t.part p).rcv.reclaim = some { t0 := now, phaseStart := now })) ∧
     ∀ i, i < 3 →
      let x := s.input i
      (x.state = 1 → x.since + s.valNat (0xA700 + i) 3 * Config.ticksPerMs ≤ now →
        roomFor s { status := 0x6701, unitKind := 0x0C, unit := i } →
        ∃ t, exec (.inputStuck i) s = .next t ∧ queued s t { status := 0x6701, unitKind := 0x0C, unit := i } ∧
          t.input i = { x with state := 2, qualified := true, stuck := (x.stuck + 1) % 2 ^ 32 }) ∧
      (x.state = 2 → x.qualified = false → x.since + s.valNat (0xA700 + i) 4 * Config.ticksPerMs ≤ now →
        ∃ t, exec (.strainerRearm i) s = .next t ∧ onlyChanges [.inputs, .errq, .journal] s t ∧ t.input i = { x with state := 0 }) ∧
      (∃ t, exec (.strainerInputRelease i) s = .next t ∧ onlyChanges [.inputs, .errq, .journal] s t ∧
        t.input i = if x.state = 2 then { x with qualified := false, since := now }
          else if x.state = 1 then { x with state := 0, qualified := false, since := now }
          else { x with rejected := (x.rejected + 1) % 2 ^ 32 }))

/-- Crashes of the firmware processors (R346, R348, R350 to R356): a restartable component restarts, and its senders send again; any
other takes its processor down; a CCC takes its array mode from its record and issues its commands since the last fence again, or
its partition rolls back; a standby SCH, by a valid mirror of the journal, or a standby PMC takes over, and without one the partitions stop or the governor holds; without SEC the keys and sessions are gone and the
partitions drain. -/
def Obligations.ProcessorsAreReplaced : Prop :=
  ∀ (s : State),
    (∀ processor c, restartable processor c = true →
      ∃ t, exec (.componentFault processor c) s = .next t ∧ onlyChanges [.caddy, .errq, .journal] s t ∧
        Tab.get t.caddy.ports {} (portKey processor c) =
          (Tab.get s.caddy.ports {} (portKey processor c)).resent s.time.ticks) ∧
    (∀ c, restartable 0 c = false → exec (.componentFault 0 c) s = exec .secFailed s) ∧
    (∀ c, restartable 1 c = false → exec (.componentFault 1 c) s = exec .pmcTakeover s) ∧
    (∀ c, restartable 2 c = false → exec (.componentFault 2 c) s = exec .schTakeover s) ∧
    (∀ n c, restartable (3 + n) c = false → exec (.componentFault (3 + n) c) s = exec (.cccRestarted n) s) ∧
    (∀ n i p, s.siteOf n = some i → s.partOfCluster n = some p → p < 4 →
      roomFor s { status := 0x6601, part := p, unitKind := 0x0A, unit := siteUnit i } →
      ((s.site i).nonRepeat = false → ∀ r c k, (s.site i).sinceFence = [r] → s.cmdOf r = some c → c.cmd.kind = k →
        1 ≤ k → k ≤ 3 →
        ∃ t, exec (.cccRestarted n) s = .next t ∧
          queued s t { status := 0x6601, part := p, unitKind := 0x0A, unit := siteUnit i } ∧
          t.cmdOf r = some { c with st := .queued, status := 0, ran := true, held := [] } ∧
          (t.queue k n).fifo.head? = some r ∧ r ∉ (t.queue k n).running ∧ r ∉ (t.queue k n).issued ∧
          (t.site i).sinceFence = [] ∧ (t.site i).retained = none ∧ (t.site i).mode = (s.site i).record.mode) ∧
      ((s.site i).nonRepeat = true → (s.part p).state = .running → (s.part p).rcv.rollback = none →
        (s.part p).rcv.capture = none → ∀ x tier, s.target p (fun _ => true) = some (x, tier) →
        ∃ t, exec (.cccRestarted n) s = .next t ∧
          queued s t { status := 0x6601, part := p, unitKind := 0x0A, unit := siteUnit i } ∧
          (t.part p).rcv.rollback = some { cause := 0x6601, target := some x.id, tier := tier } ∧ (t.part p).lists = [] ∧
          (t.part p).rings.consuming = false)) ∧
    (s.boot.schLost = false →
      (s.boot.schStandby = true → s.journal.valid.isSome = true → s.crashCommits 3 = false →
        roomFor s { status := 0x6602, unitKind := 0x0A, unit := s.schUnit } →
        ∃ t, exec .schTakeover s = .next t ∧ t.boot.schB = !s.boot.schB ∧ t.boot.schLost = false ∧
          queued s t { status := 0x6602, unitKind := 0x0A, unit := s.schUnit }) ∧
      (s.boot.schStandby = false ∨ s.journal.valid = none → roomFor s { status := 0x7402, unitKind := 0x0A, unit := s.schUnit } →
        ∃ t, exec .schTakeover s = .next t ∧ t.boot.schLost = true ∧
          (∀ p < 4, (t.part p).state = if (s.part p).state.quiet then (s.part p).state else .safeStop) ∧
          queued s t { status := 0x7402, unitKind := 0x0A, unit := s.schUnit })) ∧
    (s.boot.pmcLost = false → roomFor s { status := 0x6603, unitKind := 0x0A, unit := s.pmcUnit } →
      (s.boot.pmcStandby = true → s.crashCommits 2 = false →
        ∃ t, exec .pmcTakeover s = .next t ∧ t.boot.pmcB = !s.boot.pmcB ∧ t.boot.pmcLost = false ∧
          t.power.governor = false ∧ queued s t { status := 0x6603, unitKind := 0x0A, unit := s.pmcUnit }) ∧
      (s.boot.pmcStandby = false →
        ∃ t, exec .pmcTakeover s = .next t ∧ t.boot.pmcLost = true ∧ t.power.governor = true ∧
          queued s t { status := 0x6603, unitKind := 0x0A, unit := s.pmcUnit })) ∧
    (s.boot.secFailed = false → roomFor s { status := 0x7401, unitKind := 0x0A, unit := secUnit } →
      (∃ t, exec .secFailed s = .next t ∧ t.sec.keys = [] ∧ t.sec.sessions = [] ∧ t.trustStage = {} ∧ t.recStage = {}) ∧
      (∀ p < 4, (∀ q < 4, s.boundStreams q = []) → (∀ q < 4, q ≠ p → (s.part q).state ≠ .running ∧ (s.part q).state ≠ .hostLost) →
        (s.part p).state = .running → (s.part p).mode = 1 → (s.part p).lists ≠ [] → (s.part p).rcv.rollback = none →
        ∃ t, exec .secFailed s = .next t ∧ t.boot.secFailed = true ∧ (t.part p).state = .draining ∧
          (t.part p).rings.consuming = false ∧ (t.part p).rcv.tier3Next = none ∧
          queued s t { status := 0x7401, unitKind := 0x0A, unit := secUnit }))

/-- Power, clocks and heat (R66, R385, R419 to R421, R423 to R427): the control period takes gaps from the first class that can give
way and gives them back in reverse order; the governor takes gaps after two samples; a droop is counted, with the cycles that it
swallows, whose return is open (R430, log 64); a sample is kept with
its state, and at a shutdown limit stops every partition; a zone throttles; an idle partition's clusters and a band's PLL are
switched off. -/
def Obligations.PowerAndHeatAreHeld : Prop :=
  ∀ (s : State) (w : Nat),
    (s.boot.pmcLost = false → s.power.governor = false → s.boot.power = 2 →
      (w ≤ s.effectiveCap → 97 * s.effectiveCap ≤ 100 * w →
        ∃ t, exec (.pmcControlPeriod w) s = .next t ∧ onlyChanges [.power, .free, .errq, .journal] s t ∧
          t.power.gapClasses = s.power.gapClasses ∧ t.power.points = s.power.points) ∧
      (∀ c, s.effectiveCap < w →
        capClasses.find? (fun c => !(s.classSites c).isEmpty && !(s.atFloor c && s.power.gapClasses.contains c)) = some c →
        s.atFloor c = true →
        ∃ t, exec (.pmcControlPeriod w) s = .next t ∧ onlyChanges [.power, .free, .errq, .journal] s t ∧
          t.power.gapClasses = s.power.gapClasses ++ [c]) ∧
      (w ≤ s.effectiveCap → 100 * w < 97 * s.effectiveCap →
        (s.power.gapClasses ≠ [] →
          ∃ t, exec (.pmcControlPeriod w) s = .next t ∧ onlyChanges [.power, .free, .errq, .journal] s t ∧
            t.power.gapClasses = s.power.gapClasses.dropLast) ∧
        (∀ c, s.power.gapClasses = [] → [2, 1, 0].find? (fun c => (s.classSites c).any (fun i => (s.site i).k != 0)) = some c →
          (s.classSites c).Nodup →
          ∃ t, exec (.pmcControlPeriod w) s = .next t ∧ onlyChanges [.sites, .power, .free, .errq, .journal] s t ∧
            ∀ i, t.site i = if i ∈ s.classSites c then { s.site i with k := (s.site i).k - 4 } else s.site i))) ∧
    (s.power.governor = true → s.boot.power = 2 →
      (w ≤ s.effectiveCap → ∃ t, exec (.governorSample w) s = .next t ∧ onlyChanges [.power, .errq, .journal] s t ∧
        t.power = { s.power with overSamples := 0 }) ∧
      (s.effectiveCap < w → s.power.overSamples = 0 → ∃ t, exec (.governorSample w) s = .next t ∧
        onlyChanges [.power, .errq, .journal] s t ∧ t.power = { s.power with overSamples := 1 }) ∧
      (∀ c, s.effectiveCap < w → s.power.overSamples ≠ 0 →
        capClasses.find? (fun c => !s.power.gapClasses.contains c) = some c → ∃ t, exec (.governorSample w) s = .next t ∧
        onlyChanges [.power, .errq, .journal] s t ∧
        t.power = { s.power with overSamples := 0, gapClasses := s.power.gapClasses ++ [c] })) ∧
    (∀ n i, s.siteOf n = some i → (s.site i).gated = false →
      let more := kMax (s.siteClock i) - (s.site i).stretch
      ∃ t, exec (.droopEvent n) s = .next t ∧ onlyChanges [.power, .free, .errq, .journal] s t ∧
        t.power = { s.power with droops := s.power.droops + 1, stretched := t.power.stretched } ∧
        s.power.stretched + 2 * more ≤ t.power.stretched ∧ t.power.stretched ≤ s.power.stretched + 6 * more) ∧
    (∀ i v, isSensor i = true →
      let st := sensorState i (s.sensor i).state v
      (st ≠ 3 → ∃ t, exec (.sensorSample i v) s = .next t ∧ onlyChanges [.sensors, .sites, .power, .errq, .journal] s t ∧
        (t.sensor i).value = v ∧ (t.sensor i).state = st ∧
        (ofF32 v.toNat = .nan → (t.sensor i).low = (s.sensor i).low ∧ (t.sensor i).high = (s.sensor i).high) ∧
        (i < 0x5200 ∨ 0x5219 ≤ i → t.sites = s.sites)) ∧
      (st = 3 → s.boot.power = 2 → roomFor s { status := 0x7102 } →
        ∃ t, exec (.sensorSample i v) s = .next t ∧ (t.sensor i).state = 3 ∧ t.boot.power = 1 ∧ t.boot.ready = false ∧
          (∀ p < 4, (s.part p).state ≠ .unassigned → (t.part p).state = .safeStop) ∧ queued s t { status := 0x7102 })) ∧
    (∀ zone, zone < 25 → 2 ≤ (s.sensor (0x5200 + zone)).state → s.allRunning.Nodup →
      ∃ t, exec (.zoneThrottleStep zone) s = .next t ∧ onlyChanges [.sites, .power, .errq, .journal] s t ∧
        ∀ i, t.site i =
          if i ∈ s.allRunning ∧ rowBand (i / 42) = zone / 5 ∧ colBand (i % 42) = zone % 5 then
            (if (s.site i).zoneK < kMax (s.siteClock i) then { s.site i with zoneK := (s.site i).zoneK + 1 }
             else { s.site i with zoneGaps := true })
          else s.site i) ∧
    (∀ p, memoryCanonical s → p < 4 → (s.part p).state = .idle → (s.part p).gated = false → s.pval p 0x90 1 ≠ 0 →
      (s.part p).idleTick + s.pval p 0x90 1 * Config.ticksPerMs ≤ s.time.ticks → (s.part p).rcv.startRestore = none →
      ∃ t, exec (.idleGating p) s = .next t ∧ onlyChanges [.parts, .sites, .mem, .hbm, .errq, .journal] s t ∧
        (t.part p).gated = true ∧
        (∀ i ∈ s.partSites p, (t.site i).gated = true ∧ (t.site i).k = 0 ∧ (t.site i).retained = none) ∧
        (∀ k, onSites (s.partSites p) k = true → Mem.get t.mem k = 0)) ∧
    (∀ band, band < 5 → s.power.stopped.contains band = false →
      (∀ i, 252 * band ≤ i → i < 252 * band + 252 →
        s.isGated i = true ∧ (s.site i).gatedAt + Config.ticksPerMs ≤ s.time.ticks) →
      ∃ t, exec (.bandPllStop band) s = .next t ∧ onlyChanges [.power, .errq, .journal] s t ∧
        t.power = { s.power with stopped := band :: s.power.stopped })

/-- Host link, I3C target and multidrop segment (R85, R86, R434, R456, R457): the link's loss and a function's reset lose armed
leases; a reset of function 0 clears the Caddy window; the target takes, changes and gives back its dynamic address, answers
with its identity and its limits, and enables and disables events; beacons are missed after 4 ms. -/
def Obligations.LinksAndBusesAnswer : Prop :=
  ∀ (s : State),
    (let down : Caddy := { s.caddy with ready := false, discard := s.caddy.busy }
     (∀ p < 4, (s.part p).lease.armed = false) → ∃ t, exec .linkDown s = .next t ∧ onlyChanges [.caddy, .errq, .journal] s t ∧
       t.caddy = down) ∧
    (∃ t, exec .function0Reset s = .next t ∧ onlyChanges [.caddy, .errq, .journal] s t ∧
      t.caddy = { s.caddy with ready := false, discard := s.caddy.busy, req := [], rsp := [] }) ∧
    (∀ p, p < 4 →
      ((s.part p).lease.armed = false → ∃ t, exec (.functionReset (p + 1)) s = .next t ∧ onlyChanges [.parts, .errq, .journal] s t ∧
        (t.part p).rings = { (s.part p).rings with irqCount := 1, irqTime := 0, attachStatus := 0, doorbellErr := 0 }) ∧
      ((s.part p).lease.armed = true → (s.part p).lease.state = 1 → (s.part p).state = .running →
        s.boundStreams p = [] → ((s.part p).mode = 2 ∧ (s.part p).runTo = .none ∨ (s.part p).mode ≠ 2 ∧ (s.part p).lists ≠ []) →
        roomFor s { status := 0x3108, part := p } →
        (∃ t, exec (.functionReset (p + 1)) s = .next t ∧ (t.part p).state = .hostLost ∧ (t.part p).lease.armed = false ∧
          (t.part p).lease.cause = 3 ∧ (t.part p).rings.irqCount = 1 ∧ (t.part p).rings.held = true ∧
          (t.part p).rings.consuming = false ∧ queued s t { status := 0x3108, part := p }) ∧
        ((∀ q < 4, q ≠ p → (s.part q).lease.armed = false) →
          ∃ t, exec .linkDown s = .next t ∧ (t.part p).state = .hostLost ∧ (t.part p).lease.armed = false ∧
            (t.part p).lease.cause = 2 ∧ (t.part p).rings.held = true ∧ (t.part p).rings.consuming = false ∧
            t.caddy.ready = false ∧ queued s t { status := 0x3108, part := p }))) ∧
    (s.boot.power ≠ 0 → ∀ a,
      (s.bus.addr = 0 → ∃ t, exec (.entdaa a) s = .next t ∧ onlyChanges [.bus, .outs, .errq, .journal] s t ∧
        t.bus = { s.bus with addr := a % 128 } ∧
        t.outs.head? = some (.i3c 0x07 (Config.i3cPid ++ [Config.i3cBcr, Config.i3cDcr]))) ∧
      (s.bus.addr ≠ 0 → ∃ t, exec (.entdaa a) s = .next t ∧ onlyChanges [.errq, .journal] s t) ∧
      (∃ t, exec (.setdasa a) s = .next t ∧ onlyChanges [.bus, .errq, .journal] s t ∧ t.bus = { s.bus with addr := a % 128 }) ∧
      (∃ t, exec .rstdaa s = .next t ∧ onlyChanges [.bus, .errq, .journal] s t ∧ t.bus = { s.bus with addr := 0 }) ∧
      (∀ m ∈ [(Instr.getpid, 0x8D, Config.i3cPid), (.getbcr, 0x8E, [Config.i3cBcr]), (.getdcr, 0x8F, [Config.i3cDcr]),
          (.getmwl, 0x8B, be 2 s.bus.mwl), (.getmrl, 0x8C, be 2 s.bus.mrl)],
        ∃ t, exec m.1 s = .next t ∧ onlyChanges [.outs, .errq, .journal] s t ∧ t.outs.head? = some (.i3c m.2.1 m.2.2)) ∧
      (∃ t, exec (.setmwl a) s = .next t ∧ onlyChanges [.bus, .errq, .journal] s t ∧ t.bus = { s.bus with mwl := a % 65536 }) ∧
      (∃ t, exec (.enec a) s = .next t ∧ onlyChanges [.bus, .errq, .journal] s t ∧
        ∀ k, t.bus.events.testBit k = (s.bus.events.testBit k || (a % 256).testBit k)) ∧
      (∃ t, exec (.disec a) s = .next t ∧ onlyChanges [.bus, .errq, .journal] s t ∧
        ∀ k < 8, t.bus.events.testBit k = (s.bus.events.testBit k && !a.testBit k)) ∧
      (∃ t, exec .plcaBeacon s = .next t ∧ onlyChanges [.bus, .errq, .journal] s t ∧
        t.bus = { s.bus with beacons := true, beaconTick := s.time.ticks })) ∧
    (s.bus.beaconTick + 4 * Config.ticksPerMs ≤ s.time.ticks →
      ∃ t, exec .plcaBeaconLost s = .next t ∧ onlyChanges [.bus, .errq, .journal] s t ∧ t.bus = { s.bus with beacons := false }) ∧
    (s.time.ticks < s.bus.beaconTick + 4 * Config.ticksPerMs →
      ∃ t, exec .plcaBeaconLost s = .next t ∧ onlyChanges [.errq, .journal] s t)

/-- FAULT_IN_N (R344): an assertion that the Strainer delivers as an event (no earlier one within the filter window) queues 0x7103
with partition 0xFF. Under Fault input action 0 that is all; under 1 the partitions of Fault input mask that are not Idle or
Unassigned enter Safe-stop, and no other partition changes its state. -/
def Obligations.FaultInputIsRecordedAndStopsPartitions : Prop :=
  ∀ (s : State), (s.input 1).state = 0 →
    (∀ t0, (s.input 1).lastEvent = some t0 → t0 + s.valNat 0xA701 2 * Config.ticksPerUs ≤ s.time.ticks) →
    roomFor s { status := 0x7103, part := 0xFF, unitKind := 0x0C, unit := 1 } →
    ∃ t, exec .faultInN s = .next t ∧ queued s t { status := 0x7103, part := 0xFF, unitKind := 0x0C, unit := 1 } ∧
      (t.input 1).state = 1 ∧ (t.input 1).lastEvent = some s.time.ticks ∧
      (s.valNat 0x2500 2 = 0 → onlyChanges [.inputs, .errq, .outs, .boot, .tfb, .journal] s t) ∧
      (s.valNat 0x2500 2 = 1 → ∀ p < 4, (t.part p).state =
        if bit (s.valNat 0x2500 3) p = true ∧ (s.part p).state ≠ .idle ∧ (s.part p).state ≠ .unassigned then .safeStop
        else (s.part p).state)

/-- Sensor states (R425): a sample that is a number puts the sensor at shutdown, throttling, warning or normal by the limits of
its kind; a state of warning or throttling lasts until the reading falls 3 °C below its limit. Coolant flow has lower limits. -/
def Obligations.SensorStatesFollowTheirLimits : Prop :=
  ∀ (s : State) (i : Nat) (v : F32), ofF32 v.toNat ≠ .nan →
    let x := ofF32 v.toNat
    let old := (s.sensor i).state
    (∀ w h k, (0x5200 ≤ i ∧ i < 0x5219 ∧ (w, h, k) = (95, 105, 115)) ∨ (0x5300 ≤ i ∧ i < 0x5314 ∧ (w, h, k) = (85, 95, 105)) ∨
        (0x5400 ≤ i ∧ i < 0x5404 ∧ (w, h, k) = (95, 105, 115)) ∨ (i = 0x5100 ∧ (w, h, k) = (45, 47, 55)) →
      ∃ t, exec (.sensorSample i v) s = .next t ∧ (t.sensor i).value = v ∧
        (t.sensor i).state =
          if FV.lt x (whole k) = false then 3
          else if FV.lt x (whole h) = false ∨ (2 ≤ old ∧ FV.lt (whole (h - 3)) x = true) then 2
          else if FV.lt x (whole w) = false ∨ (1 ≤ old ∧ FV.lt (whole (w - 3)) x = true) then 1
          else 0) ∧
    (i = 0x5102 →
      ∃ t, exec (.sensorSample i v) s = .next t ∧ (t.sensor i).value = v ∧
        (t.sensor i).state = if FV.lt x (whole 15) = true then 3 else if FV.lt x (whole 27) = true then 2
          else if FV.lt x (whole 30) = true then 1 else 0)

/-- Steep mode off (R57): with Steep-off permitted other than 1, or the power cap above 12,000 W, a write of 0 to a partition's steep
threshold is refused with 0x1102, in every state of the partition (log 84), as is a raise of the cap above 12,000 W while a
threshold is 0. Any other 0, and any other cap, is stored. Start checks the conditions again (R46). -/
def Obligations.SteepOffNeedsItsConditions : Prop :=
  ∀ (s : State) (r : Req) (p w : Nat), p < 4 →
    let met := s.valNat 0x2200 2 = 1 ∧ s.valNat 0x4100 1 ≤ 12000
    (acceptsWrite s r (0x3030 + 256 * p) 2 4 (le 4 0) →
      (¬met →
        ∃ t, exec (.caddyWrite r (0x3030 + 256 * p) 2 4 (le 4 0) 0 4 false) s = .next t ∧
          respondedWith t r 2 (0x3030 + 256 * p) 2 0x1102 [] ∧ t.vals = s.vals) ∧
      (met →
        ∃ t, exec (.caddyWrite r (0x3030 + 256 * p) 2 4 (le 4 0) 0 4 false) s = .next t ∧
          respondedWith t r 2 (0x3030 + 256 * p) 2 0 [] ∧ t.val (0x3030 + 256 * p) 2 = le 4 0)) ∧
    (acceptsWrite s r 0x4100 1 4 (le 4 w) → w < 2 ^ 32 →
      (12000 < w → s.valNat 0x4100 1 < w → s.pval p 0x30 2 = 0 →
        ∃ t, exec (.caddyWrite r 0x4100 1 4 (le 4 w) 0 4 false) s = .next t ∧
          respondedWith t r 2 0x4100 1 0x1102 [] ∧ t.vals = s.vals) ∧
      (w ≤ 12000 ∨ w ≤ s.valNat 0x4100 1 ∨ (∀ q < 4, s.pval q 0x30 2 ≠ 0) →
        ∃ t, exec (.caddyWrite r 0x4100 1 4 (le 4 w) 0 4 false) s = .next t ∧
          respondedWith t r 2 0x4100 1 0 [] ∧ t.val 0x4100 1 = le 4 w)) ∧
    (acceptsWrite s r (0x3000 + 256 * p) 2 2 (le 1 1) → s.boot.schLost = false → (s.part p).state = .idle →
      (s.part p).rcv.startRestore = none → s.pval p 0x30 2 = 0 → ¬met →
      ∃ t st, exec (.start r p) s = .next t ∧ st ≠ 0 ∧ respondedWith t r 2 (0x3000 + 256 * p) 2 st [] ∧ t.parts = s.parts)
end

