-- ==== Sys2Proof/Laws/Mem.lean ====
section
/-!
SUPPORT. Byte memory: every operation keeps the canonical form, a read after a write to the same place gives the value
written, and a write leaves every other place alone.
-/

namespace Sys2Proof.Laws

open Sys2Proof Sys2Proof.Machine

theorem wfFrom_put (m : Mem) (a : Nat) (b : Byte) :
    ∀ lo, lo ≤ a → Mem.wfFrom lo m = true → Mem.wfFrom lo (Mem.put m a b) = true := by
  induction m with
  | nil =>
    intro lo hlo _
    unfold Mem.put
    split
    · rfl
    · simp_all [Mem.wfFrom]
  | cons c r ih =>
    intro lo hlo h
    simp only [Mem.wfFrom, Bool.and_eq_true, decide_eq_true_eq] at h
    unfold Mem.put
    split
    · split
      · simp_all [Mem.wfFrom]
      · simp only [Mem.wfFrom, Bool.and_eq_true, decide_eq_true_eq]
        refine ⟨⟨hlo, ‹_›⟩, ⟨by omega, h.1.2⟩, h.2⟩
    · split
      · split
        · have w : ∀ l l' (n : Mem), l ≤ l' → Mem.wfFrom l' n = true → Mem.wfFrom l n = true := by
            intro l l' n hl hn
            cases n with
            | nil => rfl
            | cons d q =>
              simp only [Mem.wfFrom, Bool.and_eq_true, decide_eq_true_eq] at hn ⊢
              exact ⟨⟨by omega, hn.1.2⟩, hn.2⟩
          exact w _ _ _ (by omega) h.2
        · simp only [Mem.wfFrom, Bool.and_eq_true, decide_eq_true_eq]
          subst_vars
          exact ⟨⟨hlo, ‹_›⟩, h.2⟩
      · simp only [Mem.wfFrom, Bool.and_eq_true, decide_eq_true_eq]
        exact ⟨h.1, ih _ (by omega) h.2⟩

/-- A store of one byte keeps the canonical form. -/
theorem wf_put (m : Mem) (a : Nat) (b : Byte) (h : m.wf = true) : (Mem.put m a b).wf = true :=
  wfFrom_put m a b 0 (Nat.zero_le _) h

/-- Operations that keep the canonical form keep it when they are folded. -/
theorem wf_foldl {α : Type} (f : Mem → α → Mem) (l : List α) (hf : ∀ (m : Mem) (x : α), m.wf = true → (f m x).wf = true) :
    ∀ m : Mem, m.wf = true → (l.foldl f m).wf = true := by
  induction l with
  | nil => exact fun m h => h
  | cons x r ih => exact fun m h => ih _ (hf m x h)

theorem wf_putAll (m : Mem) (w : List (Nat × Byte)) (h : m.wf = true) : (Mem.putAll m w).wf = true :=
  wf_foldl _ _ (fun m e hm => wf_put m e.1 e.2 hm) m h

theorem wfFrom_filter (f : Host.Cell → Bool) (m : Mem) :
    ∀ lo, Mem.wfFrom lo m = true → Mem.wfFrom lo (m.filter f) = true := by
  induction m with
  | nil => exact fun _ _ => rfl
  | cons c r ih =>
    intro lo h
    simp only [Mem.wfFrom, Bool.and_eq_true, decide_eq_true_eq] at h
    rw [List.filter_cons]
    split
    · simp only [Mem.wfFrom, Bool.and_eq_true, decide_eq_true_eq]
      exact ⟨h.1, ih _ h.2⟩
    · have w : ∀ (n : Mem) l l', l ≤ l' → Mem.wfFrom l' n = true → Mem.wfFrom l n = true := by
        intro n l l' hl hn
        cases n with
        | nil => rfl
        | cons d q =>
          simp only [Mem.wfFrom, Bool.and_eq_true, decide_eq_true_eq] at hn ⊢
          exact ⟨⟨by omega, hn.1.2⟩, hn.2⟩
      exact w _ _ _ (by omega) (ih _ h.2)

theorem wf_clear (m : Mem) (sel : Nat → Bool) (h : m.wf = true) : (Mem.clear m sel).wf = true :=
  wfFrom_filter _ m 0 h

theorem get_below (m : Mem) : ∀ lo a, a < lo → Mem.wfFrom lo m = true → Mem.get m a = 0 := by
  induction m with
  | nil => exact fun _ _ _ _ => rfl
  | cons c r ih =>
    intro lo a ha h
    simp only [Mem.wfFrom, Bool.and_eq_true, decide_eq_true_eq] at h
    unfold Mem.get
    rw [if_neg (by omega), if_pos (by omega)]

/-- The byte just stored is the one read. -/
theorem get_put_same (m : Mem) (a : Nat) (b : Byte) (h : m.wf = true) : Mem.get (Mem.put m a b) a = b := by
  have go : ∀ (m : Mem) lo, Mem.wfFrom lo m = true → Mem.get (Mem.put m a b) a = b := by
    intro m
    induction m with
    | nil =>
      intro lo _
      unfold Mem.put
      split
      · simp_all [Mem.get]
      · simp [Mem.get]
    | cons c r ih =>
      intro lo hw
      simp only [Mem.wfFrom, Bool.and_eq_true, decide_eq_true_eq] at hw
      unfold Mem.put
      split
      · split
        · subst_vars
          unfold Mem.get
          rw [if_neg (by omega), if_pos ‹_›]
        · simp [Mem.get]
      · split
        · split
          · subst_vars
            exact get_below r _ _ (Nat.lt_succ_self _) hw.2
          · simp [Mem.get]
        · unfold Mem.get
          rw [if_neg (by omega), if_neg (by omega)]
          exact ih _ hw.2
  exact go m 0 h

/-- A store leaves every other place as it was. -/
theorem get_put_other (m : Mem) (a k : Nat) (b : Byte) (hk : k ≠ a) (h : m.wf = true) :
    Mem.get (Mem.put m a b) k = Mem.get m k := by
  have go : ∀ (m : Mem) lo, Mem.wfFrom lo m = true → Mem.get (Mem.put m a b) k = Mem.get m k := by
    intro m
    induction m with
    | nil =>
      intro lo _
      unfold Mem.put
      split
      · rfl
      · simp only [Mem.get]
        split
        · omega
        · split <;> rfl
    | cons c r ih =>
      intro lo hw
      simp only [Mem.wfFrom, Bool.and_eq_true, decide_eq_true_eq] at hw
      unfold Mem.put
      split
      · split
        · rfl
        · conv_lhs => unfold Mem.get
          rw [if_neg (fun e => hk e.symm)]
          split
          · symm
            exact get_below (c :: r) (a + 1) k (by dsimp only at *; omega) (by
              simp only [Mem.wfFrom, Bool.and_eq_true, decide_eq_true_eq]
              exact ⟨⟨by omega, hw.1.2⟩, hw.2⟩)
          · rfl
      · split
        · split
          · subst_vars
            conv_rhs => unfold Mem.get
            rw [if_neg (fun e => hk e.symm)]
            split
            · exact get_below r (c.1 + 1) k (by omega) hw.2
            · rfl
          · subst_vars
            have hk' : ¬ c.1 = k := fun e => hk e.symm
            simp only [Mem.get, if_neg hk']
        · conv_lhs => unfold Mem.get
          conv_rhs => unfold Mem.get
          split
          · rfl
          · split
            · rfl
            · exact ih _ hw.2
  exact go m 0 h

theorem get_putAll_other (w : List (Nat × Byte)) (k : Nat) (hk : ∀ e ∈ w, k ≠ e.1) :
    ∀ m : Mem, m.wf = true → Mem.get (Mem.putAll m w) k = Mem.get m k := by
  induction w with
  | nil => exact fun _ _ => rfl
  | cons e r ih =>
    intro m h
    have := ih (fun x hx => hk x (List.mem_cons_of_mem _ hx)) (Mem.put m e.1 e.2) (wf_put _ _ _ h)
    exact this.trans (get_put_other m e.1 k e.2 (hk e (List.mem_cons_self ..)) h)

/-- Of stores to places that differ, each one's byte is the one read. -/
theorem get_putAll_mem (w : List (Nat × Byte)) (hd : (w.map (·.1)).Nodup) (e : Nat × Byte) (he : e ∈ w) :
    ∀ m : Mem, m.wf = true → Mem.get (Mem.putAll m w) e.1 = e.2 := by
  induction w with
  | nil => exact absurd he List.not_mem_nil
  | cons x r ih =>
    intro m h
    rw [List.map_cons, List.nodup_cons] at hd
    rcases List.mem_cons.mp he with rfl | he
    · have := get_putAll_other r e.1 (fun y hy => fun q => hd.1 (List.mem_map.mpr ⟨y, hy, q.symm⟩)) (Mem.put m e.1 e.2)
        (wf_put _ _ _ h)
      exact this.trans (get_put_same m e.1 e.2 h)
    · exact ih hd.2 he _ (wf_put _ _ _ h)

/-- Every place that is cleared reads 0, and every other one as before. -/
theorem get_clear (m : Mem) (sel : Nat → Bool) (k : Nat) (h : m.wf = true) :
    Mem.get (Mem.clear m sel) k = if sel k then 0 else Mem.get m k := by
  have go : ∀ (m : Mem) lo, Mem.wfFrom lo m = true →
      Mem.get (m.filter (fun c => !sel c.1)) k = if sel k then 0 else Mem.get m k := by
    intro m
    induction m with
    | nil => intro lo _; simp [Mem.get]
    | cons c r ih =>
      intro lo hw
      simp only [Mem.wfFrom, Bool.and_eq_true, decide_eq_true_eq] at hw
      have ih := ih _ hw.2
      rw [List.filter_cons]
      by_cases hs : sel c.1 = true
      · rw [if_neg (by rw [hs]; decide), ih]
        by_cases hk : c.1 = k
        · rw [hk] at hs; rw [hs]; rfl
        · by_cases hl : k < c.1
          · rw [get_below r (c.1 + 1) k (by omega) hw.2]
            conv_rhs => unfold Mem.get
            rw [if_neg hk, if_pos hl]
          · conv_rhs => unfold Mem.get
            rw [if_neg hk, if_neg hl]
      · rw [Bool.not_eq_true] at hs
        rw [if_pos (by rw [hs]; decide)]
        unfold Mem.get
        by_cases hk : c.1 = k
        · rw [if_pos hk, if_pos hk]
          rw [hk] at hs; rw [hs]; rfl
        · rw [if_neg hk, if_neg hk]
          by_cases hl : k < c.1
          · rw [if_pos hl, if_pos hl]; split <;> rfl
          · rw [if_neg hl, if_neg hl]; exact ih
  exact go m 0 h

end Sys2Proof.Laws
end

