-- ==== Sys2Proof/Laws/Tab.lean ====
section
/-!
SUPPORT. Tables by number: what is read after a change.
-/

namespace Sys2Proof.Laws

open Sys2Proof Sys2Proof.Machine

theorem tab_find_del_other {α : Type} (t : Tab α) (k j : Nat) (h : j ≠ k) :
    Tab.find (Tab.del t k) j = Tab.find t j := by
  induction t with
  | nil => rfl
  | cons e r ih =>
    unfold Tab.del at ih ⊢
    rw [List.filter_cons]
    by_cases he : e.1 = k
    · have hj : ¬ e.1 = j := fun x => h (x ▸ he)
      rw [if_neg (by simp [he])]
      conv_rhs => unfold Tab.find
      simp only [hj, if_false]
      exact ih
    · rw [if_pos (by simp [he])]
      unfold Tab.find
      split
      · rfl
      · exact ih

/-- The value just set is the one read. -/
@[simp] theorem tab_get_set_same {α : Type} (t : Tab α) (d v : α) (k : Nat) : Tab.get (Tab.set t k v) d k = v := by
  simp [Tab.get, Tab.set, Tab.find]

/-- Setting one number leaves every other as it was. -/
theorem tab_get_set_other {α : Type} (t : Tab α) (d v : α) (k j : Nat) (h : j ≠ k) :
    Tab.get (Tab.set t k v) d j = Tab.get t d j := by
  have hk : ¬ k = j := fun e => h e.symm
  simp only [Tab.get, Tab.set, Tab.find, hk, if_false, tab_find_del_other t k j h]

theorem tab_get_set {α : Type} (t : Tab α) (d v : α) (k j : Nat) :
    Tab.get (Tab.set t k v) d j = if j = k then v else Tab.get t d j := by
  split
  · subst_vars
    exact tab_get_set_same t d v _
  · exact tab_get_set_other t d v k j ‹_›

@[simp] theorem tab_get_mod_same {α : Type} (t : Tab α) (d : α) (k : Nat) (f : α → α) :
    Tab.get (Tab.mod t d k f) d k = f (Tab.get t d k) := tab_get_set_same t d _ k

theorem tab_get_mod_other {α : Type} (t : Tab α) (d e : α) (k j : Nat) (f : α → α) (h : j ≠ k) :
    Tab.get (Tab.mod t d k f) e j = Tab.get t e j := tab_get_set_other t e _ k j h

@[simp] theorem tab_find_set_same {α : Type} (t : Tab α) (v : α) (k : Nat) : Tab.find (Tab.set t k v) k = some v := by
  simp [Tab.set, Tab.find]

theorem tab_find_set_other {α : Type} (t : Tab α) (v : α) (k j : Nat) (h : j ≠ k) :
    Tab.find (Tab.set t k v) j = Tab.find t j := by
  have hk : ¬ k = j := fun e => h e.symm
  simp only [Tab.set, Tab.find, hk, if_false, tab_find_del_other t k j h]

end Sys2Proof.Laws
end

