-- ==== Sys2Proof/Laws/PathBase.lean ====
section
/-!
SUPPORT. Paths of changes: what a shared operation can do to the state, said once for each operation, and how paths
compose.
-/

namespace Sys2Proof.Laws

open Sys2Proof Sys2Proof.Machine Sys2Proof.Safety

/-- From s to t no other piece of state changed than those of ks, and nothing went the wrong way. -/
structure Path (ks : List Kind) (s t : State) : Prop where
  frame : onlyChanges ks s t
  oneWay : oneWay s t

theorem oneWay_refl (s : State) : oneWay s s := ⟨id, fun _ => le_refl _, le_refl _, le_refl _, fun _ h => h⟩

theorem oneWay_trans {s t u : State} (a : oneWay s t) (b : oneWay t u) : oneWay s u :=
  ⟨fun h => b.memory (a.memory h), fun k => le_trans (a.rollback k) (b.rollback k), le_trans a.layouts b.layouts,
    le_trans a.spares b.spares, fun c h => b.channels c (a.channels c h)⟩

theorem Kind.same_refl (k : Kind) (s : State) : k.same s s := by cases k <;> rfl

theorem Kind.same_trans {k : Kind} {s t u : State} (a : k.same s t) (b : k.same t u) : k.same s u := by
  cases k <;> exact Eq.trans b a

theorem path_refl (ks : List Kind) (s : State) : Path ks s s := ⟨fun k _ => Kind.same_refl k s, oneWay_refl s⟩

theorem path_trans {ks : List Kind} {s t u : State} (a : Path ks s t) (b : Path ks t u) : Path ks s u :=
  ⟨fun k h => Kind.same_trans (a.frame k h) (b.frame k h), oneWay_trans a.oneWay b.oneWay⟩

theorem path_weaken {ks ls : List Kind} {s t : State} (h : Path ks s t) (hk : ks ⊆ ls) : Path ls s t :=
  ⟨fun k n => h.frame k (fun m => n (hk m)), h.oneWay⟩

/-- A fold of operations, each of which stays on the path. -/
theorem path_foldl {α : Type} {ks : List Kind} {s : State} (f : State → α → State) (l : List α)
    (hf : ∀ (t : State) (x : α), Path ks s t → Path ks s (f t x)) :
    ∀ t : State, Path ks s t → Path ks s (l.foldl f t) := by
  induction l with
  | nil => exact fun t h => h
  | cons x r ih => exact fun t h => ih _ (hf t x h)

/-- The same for a fold that carries a value beside the state. -/
theorem path_foldl_fst {α β : Type} {ks : List Kind} {s : State} (f : State × β → α → State × β) (l : List α)
    (hf : ∀ (x : State × β) (a : α), Path ks s x.1 → Path ks s (f x a).1) :
    ∀ x : State × β, Path ks s x.1 → Path ks s (l.foldl f x).1 := by
  induction l with
  | nil => exact fun x h => h
  | cons a r ih => exact fun x h => ih _ (hf x a h)

/-- A state that is the first part of an answer. -/
theorem path_of_fst {β : Type} {ks : List Kind} {s t : State} {b : β} {x : State × β} (e : x = (t, b))
    (h : Path ks s x.1) : Path ks s t := by
  subst e
  exact h

/-- Every state that an operation may answer is on the path. -/
def OnPath (ks : List Kind) (s : State) (o : Option State) : Prop := ∀ t, o = some t → Path ks s t

theorem onPath_some {ks : List Kind} {s t : State} (h : Path ks s t) : OnPath ks s (some t) := by
  intro u e
  injection e with e
  exact e ▸ h

theorem onPath_none (ks : List Kind) (s : State) : OnPath ks s none := fun _ e => nomatch e

theorem path_of_some {ks : List Kind} {s t : State} {o : Option State} (e : o = some t) (h : OnPath ks s o) : Path ks s t :=
  h t e

/-- Both branches of a choice stay on the path. -/
theorem path_ite {ks : List Kind} {s a b : State} {c : Prop} [Decidable c] (ha : c → Path ks s a) (hb : ¬c → Path ks s b) :
    Path ks s (if c then a else b) := by
  split
  · exact ha ‹_›
  · exact hb ‹_›

theorem path_ite_fst {β : Type} {ks : List Kind} {s : State} {a b : State × β} {c : Prop} [Decidable c]
    (ha : c → Path ks s a.1) (hb : ¬c → Path ks s b.1) : Path ks s (if c then a else b).1 := by
  split
  · exact ha ‹_›
  · exact hb ‹_›

/-- A state written out field by field is on the path when it is one change away from a state that is. -/
theorem path_mk {ks : List Kind} {s t : State} {a0 : List Instr} {a1 : TimeState} {a2 : Factory} {a3 : Tab (List
    Byte)} {a4 : Caddy} {a5 : EvLog} {a6 : ErrQ} {a7 : Nat} {a8 : Tab Part} {a9 : Nat} {a10 : Tab Queue} {a11 : Tab
    Site} {a12 : Tab Nat} {a13 : Nat} {a14 : Nat} {a15 : Tab Fle} {a16 : Mem} {a17 : Hbm} {a18 : List Guest} {a19 :
    List (Nat × Nat)} {a20 : Tab Stream} {a21 : Tab Nat} {a22 : Tab Nat} {a23 : Tab CollRun} {a24 : Tab Nat} {a25 :
    Tab Fetch} {a26 : List Xfer} {a27 : Tab (List LateSrc)} {a28 : Tab KPort} {a29 : Tab IPort} {a30 : Tfb} {a31 :
    Nor} {a32 : Update} {a33 : Staging} {a34 : Staging} {a35 : Sec} {a36 : Boot} {a37 : Journal} {a38 : Power} {a39
    : Tab Sensor} {a40 : Tab SInput} {a41 : Bus} {a42 : Option (Req × List Slice)} {a43 : Option (Req × Bool)} {a44
    : List Out} {a45 : Nat}
    (h : Path ks s t) (ho1 : t.layoutGen ≤ a9) (ho2 : t.spareGen ≤ a13)
    (ho3 : t.mem.wf = true → Mem.wf a16 = true)
    (ho4 : ∀ k, Tab.get t.nor.counters 0 k ≤ Tab.get a31.counters 0 k)
    (ho5 : ∀ c, c ∈ t.hbm.failed → c ∈ a17.failed)
    (hu : onlyChanges ks t (State.mk a0 a1 a2 a3 a4 a5 a6 a7 a8 a9 a10 a11 a12 a13 a14 a15 a16 a17 a18 a19 a20 a21
    a22 a23 a24 a25 a26 a27 a28 a29 a30 a31 a32 a33 a34 a35 a36 a37 a38 a39 a40 a41 a42 a43 a44 a45)) :
    Path ks s (State.mk a0 a1 a2 a3 a4 a5 a6 a7 a8 a9 a10 a11 a12 a13 a14 a15 a16 a17 a18 a19 a20 a21 a22 a23 a24
    a25 a26 a27 a28 a29 a30 a31 a32 a33 a34 a35 a36 a37 a38 a39 a40 a41 a42 a43 a44 a45) :=
  path_trans h ⟨hu, ho3, ho4, ho1, ho2, ho5⟩

/-- Spoiling a block's check fails no channel. -/
@[simp] theorem spoilt_failed (h : Hbm) (k : Nat) : (h.spoilt k).failed = h.failed := by
  unfold Hbm.spoilt
  split <;> rfl

/-! ### One field changed -/

theorem path_set_time {ks : List Kind} {s t : State} (v : TimeState) (hk : [.time] ⊆ ks) (h : Path ks s t) :
    Path ks s { t with time := v } :=
  path_trans h ⟨fun k hn => by cases k <;> first | rfl | exact absurd (hk (List.mem_cons_self ..)) hn,
    ⟨id, fun _ => le_refl _, le_refl _, le_refl _, fun _ hc => hc⟩⟩

theorem path_set_factory {ks : List Kind} {s t : State} (v : Factory) (hk : [.factory] ⊆ ks) (h : Path ks s t) :
    Path ks s { t with factory := v } :=
  path_trans h ⟨fun k hn => by cases k <;> first | rfl | exact absurd (hk (List.mem_cons_self ..)) hn,
    ⟨id, fun _ => le_refl _, le_refl _, le_refl _, fun _ hc => hc⟩⟩

theorem path_set_vals {ks : List Kind} {s t : State} (v : Tab (List Byte)) (hk : [.vals] ⊆ ks) (h : Path ks s t) :
    Path ks s { t with vals := v } :=
  path_trans h ⟨fun k hn => by cases k <;> first | rfl | exact absurd (hk (List.mem_cons_self ..)) hn,
    ⟨id, fun _ => le_refl _, le_refl _, le_refl _, fun _ hc => hc⟩⟩

theorem path_set_caddy {ks : List Kind} {s t : State} (v : Caddy) (hk : [.caddy] ⊆ ks) (h : Path ks s t) :
    Path ks s { t with caddy := v } :=
  path_trans h ⟨fun k hn => by cases k <;> first | rfl | exact absurd (hk (List.mem_cons_self ..)) hn,
    ⟨id, fun _ => le_refl _, le_refl _, le_refl _, fun _ hc => hc⟩⟩

theorem path_set_log {ks : List Kind} {s t : State} (v : EvLog) (hk : [.log] ⊆ ks) (h : Path ks s t) :
    Path ks s { t with log := v } :=
  path_trans h ⟨fun k hn => by cases k <;> first | rfl | exact absurd (hk (List.mem_cons_self ..)) hn,
    ⟨id, fun _ => le_refl _, le_refl _, le_refl _, fun _ hc => hc⟩⟩

theorem path_set_errq {ks : List Kind} {s t : State} (v : ErrQ) (hk : [.errq] ⊆ ks) (h : Path ks s t) :
    Path ks s { t with errq := v } :=
  path_trans h ⟨fun k hn => by cases k <;> first | rfl | exact absurd (hk (List.mem_cons_self ..)) hn,
    ⟨id, fun _ => le_refl _, le_refl _, le_refl _, fun _ hc => hc⟩⟩

theorem path_set_secState {ks : List Kind} {s t : State} (v : Nat) (hk : [.secState] ⊆ ks) (h : Path ks s t) :
    Path ks s { t with secState := v } :=
  path_trans h ⟨fun k hn => by cases k <;> first | rfl | exact absurd (hk (List.mem_cons_self ..)) hn,
    ⟨id, fun _ => le_refl _, le_refl _, le_refl _, fun _ hc => hc⟩⟩

theorem path_set_parts {ks : List Kind} {s t : State} (v : Tab Part) (hk : [.parts] ⊆ ks) (h : Path ks s t) :
    Path ks s { t with parts := v } :=
  path_trans h ⟨fun k hn => by cases k <;> first | rfl | exact absurd (hk (List.mem_cons_self ..)) hn,
    ⟨id, fun _ => le_refl _, le_refl _, le_refl _, fun _ hc => hc⟩⟩

theorem path_set_queues {ks : List Kind} {s t : State} (v : Tab Queue) (hk : [.queues] ⊆ ks) (h : Path ks s t) :
    Path ks s { t with queues := v } :=
  path_trans h ⟨fun k hn => by cases k <;> first | rfl | exact absurd (hk (List.mem_cons_self ..)) hn,
    ⟨id, fun _ => le_refl _, le_refl _, le_refl _, fun _ hc => hc⟩⟩

theorem path_set_sites {ks : List Kind} {s t : State} (v : Tab Site) (hk : [.sites] ⊆ ks) (h : Path ks s t) :
    Path ks s { t with sites := v } :=
  path_trans h ⟨fun k hn => by cases k <;> first | rfl | exact absurd (hk (List.mem_cons_self ..)) hn,
    ⟨id, fun _ => le_refl _, le_refl _, le_refl _, fun _ hc => hc⟩⟩

theorem path_set_siteState {ks : List Kind} {s t : State} (v : Tab Nat) (hk : [.siteState] ⊆ ks) (h : Path ks s t) :
    Path ks s { t with siteState := v } :=
  path_trans h ⟨fun k hn => by cases k <;> first | rfl | exact absurd (hk (List.mem_cons_self ..)) hn,
    ⟨id, fun _ => le_refl _, le_refl _, le_refl _, fun _ hc => hc⟩⟩

theorem path_set_spareTime {ks : List Kind} {s t : State} (v : Nat) (hk : [.spareTime] ⊆ ks) (h : Path ks s t) :
    Path ks s { t with spareTime := v } :=
  path_trans h ⟨fun k hn => by cases k <;> first | rfl | exact absurd (hk (List.mem_cons_self ..)) hn,
    ⟨id, fun _ => le_refl _, le_refl _, le_refl _, fun _ hc => hc⟩⟩

theorem path_set_fles {ks : List Kind} {s t : State} (v : Tab Fle) (hk : [.fles] ⊆ ks) (h : Path ks s t) :
    Path ks s { t with fles := v } :=
  path_trans h ⟨fun k hn => by cases k <;> first | rfl | exact absurd (hk (List.mem_cons_self ..)) hn,
    ⟨id, fun _ => le_refl _, le_refl _, le_refl _, fun _ hc => hc⟩⟩

theorem path_set_guests {ks : List Kind} {s t : State} (v : List Guest) (hk : [.guests] ⊆ ks) (h : Path ks s t) :
    Path ks s { t with guests := v } :=
  path_trans h ⟨fun k hn => by cases k <;> first | rfl | exact absurd (hk (List.mem_cons_self ..)) hn,
    ⟨id, fun _ => le_refl _, le_refl _, le_refl _, fun _ hc => hc⟩⟩

theorem path_set_notices {ks : List Kind} {s t : State} (v : List (Nat × Nat)) (hk : [.notices] ⊆ ks) (h : Path ks s t) :
    Path ks s { t with notices := v } :=
  path_trans h ⟨fun k hn => by cases k <;> first | rfl | exact absurd (hk (List.mem_cons_self ..)) hn,
    ⟨id, fun _ => le_refl _, le_refl _, le_refl _, fun _ hc => hc⟩⟩

theorem path_set_streams {ks : List Kind} {s t : State} (v : Tab Stream) (hk : [.streams] ⊆ ks) (h : Path ks s t) :
    Path ks s { t with streams := v } :=
  path_trans h ⟨fun k hn => by cases k <;> first | rfl | exact absurd (hk (List.mem_cons_self ..)) hn,
    ⟨id, fun _ => le_refl _, le_refl _, le_refl _, fun _ hc => hc⟩⟩

theorem path_set_ctr {ks : List Kind} {s t : State} (v : Tab Nat) (hk : [.ctr] ⊆ ks) (h : Path ks s t) :
    Path ks s { t with ctr := v } :=
  path_trans h ⟨fun k hn => by cases k <;> first | rfl | exact absurd (hk (List.mem_cons_self ..)) hn,
    ⟨id, fun _ => le_refl _, le_refl _, le_refl _, fun _ hc => hc⟩⟩

theorem path_set_shadow {ks : List Kind} {s t : State} (v : Tab Nat) (hk : [.shadow] ⊆ ks) (h : Path ks s t) :
    Path ks s { t with shadow := v } :=
  path_trans h ⟨fun k hn => by cases k <;> first | rfl | exact absurd (hk (List.mem_cons_self ..)) hn,
    ⟨id, fun _ => le_refl _, le_refl _, le_refl _, fun _ hc => hc⟩⟩

theorem path_set_colls {ks : List Kind} {s t : State} (v : Tab CollRun) (hk : [.colls] ⊆ ks) (h : Path ks s t) :
    Path ks s { t with colls := v } :=
  path_trans h ⟨fun k hn => by cases k <;> first | rfl | exact absurd (hk (List.mem_cons_self ..)) hn,
    ⟨id, fun _ => le_refl _, le_refl _, le_refl _, fun _ hc => hc⟩⟩

theorem path_set_credits {ks : List Kind} {s t : State} (v : Tab Nat) (hk : [.credits] ⊆ ks) (h : Path ks s t) :
    Path ks s { t with credits := v } :=
  path_trans h ⟨fun k hn => by cases k <;> first | rfl | exact absurd (hk (List.mem_cons_self ..)) hn,
    ⟨id, fun _ => le_refl _, le_refl _, le_refl _, fun _ hc => hc⟩⟩

theorem path_set_fetches {ks : List Kind} {s t : State} (v : Tab Fetch) (hk : [.fetches] ⊆ ks) (h : Path ks s t) :
    Path ks s { t with fetches := v } :=
  path_trans h ⟨fun k hn => by cases k <;> first | rfl | exact absurd (hk (List.mem_cons_self ..)) hn,
    ⟨id, fun _ => le_refl _, le_refl _, le_refl _, fun _ hc => hc⟩⟩

theorem path_set_xfers {ks : List Kind} {s t : State} (v : List Xfer) (hk : [.xfers] ⊆ ks) (h : Path ks s t) :
    Path ks s { t with xfers := v } :=
  path_trans h ⟨fun k hn => by cases k <;> first | rfl | exact absurd (hk (List.mem_cons_self ..)) hn,
    ⟨id, fun _ => le_refl _, le_refl _, le_refl _, fun _ hc => hc⟩⟩

theorem path_set_pendingSrc {ks : List Kind} {s t : State} (v : Tab (List LateSrc)) (hk : [.pendingSrc] ⊆ ks) (h : Path ks s t) :
    Path ks s { t with pendingSrc := v } :=
  path_trans h ⟨fun k hn => by cases k <;> first | rfl | exact absurd (hk (List.mem_cons_self ..)) hn,
    ⟨id, fun _ => le_refl _, le_refl _, le_refl _, fun _ hc => hc⟩⟩

theorem path_set_kports {ks : List Kind} {s t : State} (v : Tab KPort) (hk : [.kports] ⊆ ks) (h : Path ks s t) :
    Path ks s { t with kports := v } :=
  path_trans h ⟨fun k hn => by cases k <;> first | rfl | exact absurd (hk (List.mem_cons_self ..)) hn,
    ⟨id, fun _ => le_refl _, le_refl _, le_refl _, fun _ hc => hc⟩⟩

theorem path_set_iports {ks : List Kind} {s t : State} (v : Tab IPort) (hk : [.iports] ⊆ ks) (h : Path ks s t) :
    Path ks s { t with iports := v } :=
  path_trans h ⟨fun k hn => by cases k <;> first | rfl | exact absurd (hk (List.mem_cons_self ..)) hn,
    ⟨id, fun _ => le_refl _, le_refl _, le_refl _, fun _ hc => hc⟩⟩

theorem path_set_tfb {ks : List Kind} {s t : State} (v : Tfb) (hk : [.tfb] ⊆ ks) (h : Path ks s t) :
    Path ks s { t with tfb := v } :=
  path_trans h ⟨fun k hn => by cases k <;> first | rfl | exact absurd (hk (List.mem_cons_self ..)) hn,
    ⟨id, fun _ => le_refl _, le_refl _, le_refl _, fun _ hc => hc⟩⟩

theorem path_set_update {ks : List Kind} {s t : State} (v : Update) (hk : [.update] ⊆ ks) (h : Path ks s t) :
    Path ks s { t with update := v } :=
  path_trans h ⟨fun k hn => by cases k <;> first | rfl | exact absurd (hk (List.mem_cons_self ..)) hn,
    ⟨id, fun _ => le_refl _, le_refl _, le_refl _, fun _ hc => hc⟩⟩

theorem path_set_recStage {ks : List Kind} {s t : State} (v : Staging) (hk : [.recStage] ⊆ ks) (h : Path ks s t) :
    Path ks s { t with recStage := v } :=
  path_trans h ⟨fun k hn => by cases k <;> first | rfl | exact absurd (hk (List.mem_cons_self ..)) hn,
    ⟨id, fun _ => le_refl _, le_refl _, le_refl _, fun _ hc => hc⟩⟩

theorem path_set_trustStage {ks : List Kind} {s t : State} (v : Staging) (hk : [.trustStage] ⊆ ks) (h : Path ks s t) :
    Path ks s { t with trustStage := v } :=
  path_trans h ⟨fun k hn => by cases k <;> first | rfl | exact absurd (hk (List.mem_cons_self ..)) hn,
    ⟨id, fun _ => le_refl _, le_refl _, le_refl _, fun _ hc => hc⟩⟩

theorem path_set_sec {ks : List Kind} {s t : State} (v : Sec) (hk : [.sec] ⊆ ks) (h : Path ks s t) :
    Path ks s { t with sec := v } :=
  path_trans h ⟨fun k hn => by cases k <;> first | rfl | exact absurd (hk (List.mem_cons_self ..)) hn,
    ⟨id, fun _ => le_refl _, le_refl _, le_refl _, fun _ hc => hc⟩⟩

theorem path_set_boot {ks : List Kind} {s t : State} (v : Boot) (hk : [.boot] ⊆ ks) (h : Path ks s t) :
    Path ks s { t with boot := v } :=
  path_trans h ⟨fun k hn => by cases k <;> first | rfl | exact absurd (hk (List.mem_cons_self ..)) hn,
    ⟨id, fun _ => le_refl _, le_refl _, le_refl _, fun _ hc => hc⟩⟩

theorem path_set_journal {ks : List Kind} {s t : State} (v : Journal) (hk : [.journal] ⊆ ks) (h : Path ks s t) :
    Path ks s { t with journal := v } :=
  path_trans h ⟨fun k hn => by cases k <;> first | rfl | exact absurd (hk (List.mem_cons_self ..)) hn,
    ⟨id, fun _ => le_refl _, le_refl _, le_refl _, fun _ hc => hc⟩⟩

theorem path_set_power {ks : List Kind} {s t : State} (v : Power) (hk : [.power] ⊆ ks) (h : Path ks s t) :
    Path ks s { t with power := v } :=
  path_trans h ⟨fun k hn => by cases k <;> first | rfl | exact absurd (hk (List.mem_cons_self ..)) hn,
    ⟨id, fun _ => le_refl _, le_refl _, le_refl _, fun _ hc => hc⟩⟩

theorem path_set_sensors {ks : List Kind} {s t : State} (v : Tab Sensor) (hk : [.sensors] ⊆ ks) (h : Path ks s t) :
    Path ks s { t with sensors := v } :=
  path_trans h ⟨fun k hn => by cases k <;> first | rfl | exact absurd (hk (List.mem_cons_self ..)) hn,
    ⟨id, fun _ => le_refl _, le_refl _, le_refl _, fun _ hc => hc⟩⟩

theorem path_set_inputs {ks : List Kind} {s t : State} (v : Tab SInput) (hk : [.inputs] ⊆ ks) (h : Path ks s t) :
    Path ks s { t with inputs := v } :=
  path_trans h ⟨fun k hn => by cases k <;> first | rfl | exact absurd (hk (List.mem_cons_self ..)) hn,
    ⟨id, fun _ => le_refl _, le_refl _, le_refl _, fun _ hc => hc⟩⟩

theorem path_set_bus {ks : List Kind} {s t : State} (v : Bus) (hk : [.bus] ⊆ ks) (h : Path ks s t) :
    Path ks s { t with bus := v } :=
  path_trans h ⟨fun k hn => by cases k <;> first | rfl | exact absurd (hk (List.mem_cons_self ..)) hn,
    ⟨id, fun _ => le_refl _, le_refl _, le_refl _, fun _ hc => hc⟩⟩

theorem path_set_commitWait {ks : List Kind} {s t : State} (v : Option (Req × List Slice)) (hk : [.commitWait] ⊆ ks) (h : Path ks s t) :
    Path ks s { t with commitWait := v } :=
  path_trans h ⟨fun k hn => by cases k <;> first | rfl | exact absurd (hk (List.mem_cons_self ..)) hn,
    ⟨id, fun _ => le_refl _, le_refl _, le_refl _, fun _ hc => hc⟩⟩

theorem path_set_applyWait {ks : List Kind} {s t : State} (v : Option (Req × Bool)) (hk : [.applyWait] ⊆ ks) (h : Path ks s t) :
    Path ks s { t with applyWait := v } :=
  path_trans h ⟨fun k hn => by cases k <;> first | rfl | exact absurd (hk (List.mem_cons_self ..)) hn,
    ⟨id, fun _ => le_refl _, le_refl _, le_refl _, fun _ hc => hc⟩⟩

theorem path_set_outs {ks : List Kind} {s t : State} (v : List Out) (hk : [.outs] ⊆ ks) (h : Path ks s t) :
    Path ks s { t with outs := v } :=
  path_trans h ⟨fun k hn => by cases k <;> first | rfl | exact absurd (hk (List.mem_cons_self ..)) hn,
    ⟨id, fun _ => le_refl _, le_refl _, le_refl _, fun _ hc => hc⟩⟩

theorem path_set_free {ks : List Kind} {s t : State} (v : Nat) (hk : [.free] ⊆ ks) (h : Path ks s t) :
    Path ks s { t with free := v } :=
  path_trans h ⟨fun k hn => by cases k <;> first | rfl | exact absurd (hk (List.mem_cons_self ..)) hn,
    ⟨id, fun _ => le_refl _, le_refl _, le_refl _, fun _ hc => hc⟩⟩

end Sys2Proof.Laws
end

