-- ==== Sys2Proof/Laws/PathOps.lean ====
section
/-!
SUPPORT. What the operations of Machine/Ops.lean can do to the state: one path for each.
-/

set_option linter.all false

namespace Sys2Proof.Laws

open Sys2Proof Sys2Proof.Machine Sys2Proof.Safety

theorem path_modPart {ks : List Kind} {s0 s : State} (p : Nat) (f : Part → Part)
    (hk : [.parts] ⊆ ks) (h : Path ks s0 s) :
    Path ks s0 (State.modPart s p f) := by
  unfold State.modPart
  repeat' (first
    | with_reducible assumption
    | extract_lets
    | with_reducible refine path_of_fst (by with_reducible assumption) ?_
    | split
    | fail_if_no_progress (with_reducible refine path_set_parts _ (List.Subset.trans (by decide) hk) ?_)
    | dsimp +zetaDelta only)

theorem path_modQueue {ks : List Kind} {s0 s : State} (k : Nat) (n : Nat) (f : Queue → Queue)
    (hk : [.queues] ⊆ ks) (h : Path ks s0 s) :
    Path ks s0 (State.modQueue s k n f) := by
  unfold State.modQueue
  repeat' (first
    | with_reducible assumption
    | extract_lets
    | with_reducible refine path_of_fst (by with_reducible assumption) ?_
    | split
    | fail_if_no_progress (with_reducible refine path_set_queues _ (List.Subset.trans (by decide) hk) ?_)
    | dsimp +zetaDelta only)

theorem path_modSite {ks : List Kind} {s0 s : State} (i : Nat) (f : Site → Site)
    (hk : [.sites] ⊆ ks) (h : Path ks s0 s) :
    Path ks s0 (State.modSite s i f) := by
  unfold State.modSite
  repeat' (first
    | with_reducible assumption
    | extract_lets
    | with_reducible refine path_of_fst (by with_reducible assumption) ?_
    | split
    | fail_if_no_progress (with_reducible refine path_set_sites _ (List.Subset.trans (by decide) hk) ?_)
    | dsimp +zetaDelta only)

theorem path_modStream {ks : List Kind} {s0 s : State} (n : Nat) (f : Stream → Stream)
    (hk : [.streams] ⊆ ks) (h : Path ks s0 s) :
    Path ks s0 (State.modStream s n f) := by
  unfold State.modStream
  repeat' (first
    | with_reducible assumption
    | extract_lets
    | with_reducible refine path_of_fst (by with_reducible assumption) ?_
    | split
    | fail_if_no_progress (with_reducible refine path_set_streams _ (List.Subset.trans (by decide) hk) ?_)
    | dsimp +zetaDelta only)

theorem path_modFle {ks : List Kind} {s0 s : State} (i : Nat) (f : Fle → Fle)
    (hk : [.fles] ⊆ ks) (h : Path ks s0 s) :
    Path ks s0 (State.modFle s i f) := by
  unfold State.modFle
  repeat' (first
    | with_reducible assumption
    | extract_lets
    | with_reducible refine path_of_fst (by with_reducible assumption) ?_
    | split
    | fail_if_no_progress (with_reducible refine path_set_fles _ (List.Subset.trans (by decide) hk) ?_)
    | dsimp +zetaDelta only)

theorem path_out {ks : List Kind} {s0 s : State} (o : Out)
    (hk : [.outs] ⊆ ks) (h : Path ks s0 s) :
    Path ks s0 (State.out s o) := by
  unfold State.out
  repeat' (first
    | with_reducible assumption
    | extract_lets
    | with_reducible refine path_of_fst (by with_reducible assumption) ?_
    | split
    | fail_if_no_progress (with_reducible refine path_set_outs _ (List.Subset.trans (by decide) hk) ?_)
    | dsimp +zetaDelta only)

theorem path_count {ks : List Kind} {s0 s : State} (i : Nat) (j : Nat) (n : Nat)
    (hk : [.ctr] ⊆ ks) (h : Path ks s0 s) :
    Path ks s0 (State.count s i j n) := by
  unfold State.count
  repeat' (first
    | with_reducible assumption
    | extract_lets
    | with_reducible refine path_of_fst (by with_reducible assumption) ?_
    | split
    | fail_if_no_progress (with_reducible refine path_set_ctr _ (List.Subset.trans (by decide) hk) ?_)
    | dsimp +zetaDelta only)

theorem path_setVal {ks : List Kind} {s0 s : State} (i : Nat) (j : Nat) (bs : List Byte)
    (hk : [.vals] ⊆ ks) (h : Path ks s0 s) :
    Path ks s0 (State.setVal s i j bs) := by
  unfold State.setVal
  repeat' (first
    | with_reducible assumption
    | extract_lets
    | with_reducible refine path_of_fst (by with_reducible assumption) ?_
    | split
    | fail_if_no_progress (with_reducible refine path_set_vals _ (List.Subset.trans (by decide) hk) ?_)
    | dsimp +zetaDelta only)

theorem path_setPState {ks : List Kind} {s0 s : State} (p : Nat) (x : PState)
    (hk : [.parts, .outs] ⊆ ks) (h : Path ks s0 s) :
    Path ks s0 (State.setPState s p x) := by
  unfold State.setPState
  repeat' (first
    | with_reducible assumption
    | extract_lets
    | with_reducible refine path_modPart _ _ (List.Subset.trans (by decide) hk) ?_
    | with_reducible refine path_out _ (List.Subset.trans (by decide) hk) ?_
    | with_reducible refine path_of_fst (by with_reducible assumption) ?_
    | with_reducible refine path_ite (fun _ => ?_) (fun _ => ?_)
    | with_reducible refine path_ite_fst (fun _ => ?_) (fun _ => ?_)
    | split
    | dsimp +zetaDelta only)

theorem path_wr {ks : List Kind} {s0 s : State} (p : Nat) (a : Nat) (bs : List Byte)
    (hk : [.mem, .hbm] ⊆ ks) (h : Path ks s0 s) :
    Path ks s0 (State.wr s p a bs) := by
  unfold State.wr
  repeat' (first
    | with_reducible assumption
    | extract_lets
    | with_reducible refine path_of_fst (by with_reducible assumption) ?_
    | split
    | fail_if_no_progress ((with_reducible refine path_mk ?_ (le_refl _) (le_refl _) (fun hm => ?_) (fun _ => le_refl _) (fun _ hc => ?_) (fun k hn => ?_)); rotate_right 1; (cases k <;> first | exact absurd (hk (by decide)) hn | rfl); rotate_right 1; (first | exact hc | simpa using hc); rotate_right 1; (repeat' first | with_reducible assumption | with_reducible refine wf_memPut _ _ _ ?_ | with_reducible refine wf_putAll _ _ ?_ | with_reducible refine wf_clear _ _ ?_ | with_reducible refine wf_foldl _ _ (fun _ _ _ => ?_) _ ?_))
    | dsimp +zetaDelta only)

theorem path_wrAll {ks : List Kind} {s0 s : State} (p : Nat) (ws : List (Nat × List Byte))
    (hk : [.mem, .hbm] ⊆ ks) (h : Path ks s0 s) :
    Path ks s0 (State.wrAll s p ws) := by
  unfold State.wrAll
  repeat' (first
    | with_reducible assumption
    | extract_lets
    | with_reducible refine path_wr _ _ _ (List.Subset.trans (by decide) hk) ?_
    | with_reducible refine path_of_fst (by with_reducible assumption) ?_
    | with_reducible refine path_foldl _ _ (fun _ _ _ => ?_) _ ?_
    | with_reducible refine path_foldl_fst _ _ (fun _ _ _ => ?_) _ ?_
    | split
    | dsimp +zetaDelta only)

theorem path_countLines {ks : List Kind} {s0 s : State} (p : Nat) (a : Nat) (n : Nat) (j : Nat)
    (hk : [.ctr] ⊆ ks) (h : Path ks s0 s) :
    Path ks s0 (State.countLines s p a n j) := by
  unfold State.countLines
  repeat' (first
    | with_reducible assumption
    | extract_lets
    | with_reducible refine path_count _ _ _ (List.Subset.trans (by decide) hk) ?_
    | with_reducible refine path_of_fst (by with_reducible assumption) ?_
    | with_reducible refine path_foldl _ _ (fun _ _ _ => ?_) _ ?_
    | with_reducible refine path_foldl_fst _ _ (fun _ _ _ => ?_) _ ?_
    | split
    | dsimp +zetaDelta only)

theorem path_scrubWhere {ks : List Kind} {s0 s : State} (sel : Nat → Bool) (blocks : List (Nat × Nat))
    (hk : [.mem, .hbm] ⊆ ks) (h : Path ks s0 s) :
    Path ks s0 (State.scrubWhere s sel blocks) := by
  unfold State.scrubWhere
  repeat' (first
    | with_reducible assumption
    | extract_lets
    | with_reducible refine path_of_fst (by with_reducible assumption) ?_
    | split
    | fail_if_no_progress ((with_reducible refine path_mk ?_ (le_refl _) (le_refl _) (fun hm => ?_) (fun _ => le_refl _) (fun _ hc => ?_) (fun k hn => ?_)); rotate_right 1; (cases k <;> first | exact absurd (hk (by decide)) hn | rfl); rotate_right 1; (first | exact hc | simpa using hc); rotate_right 1; (repeat' first | with_reducible assumption | with_reducible refine wf_memPut _ _ _ ?_ | with_reducible refine wf_putAll _ _ ?_ | with_reducible refine wf_clear _ _ ?_ | with_reducible refine wf_foldl _ _ (fun _ _ _ => ?_) _ ?_))
    | dsimp +zetaDelta only)

theorem path_scrub {ks : List Kind} {s0 s : State} (sites : List Nat) (chs : List Nat)
    (hk : [.mem, .hbm] ⊆ ks) (h : Path ks s0 s) :
    Path ks s0 (State.scrub s sites chs) := by
  unfold State.scrub
  repeat' (first
    | with_reducible assumption
    | extract_lets
    | with_reducible refine path_scrubWhere _ _ (List.Subset.trans (by decide) hk) ?_
    | with_reducible refine path_of_fst (by with_reducible assumption) ?_
    | split
    | dsimp +zetaDelta only)

theorem path_scrubPart {ks : List Kind} {s0 s : State} (p : Nat)
    (hk : [.mem, .hbm] ⊆ ks) (h : Path ks s0 s) :
    Path ks s0 (State.scrubPart s p) := by
  unfold State.scrubPart
  repeat' (first
    | with_reducible assumption
    | extract_lets
    | with_reducible refine path_scrub _ _ (List.Subset.trans (by decide) hk) ?_
    | with_reducible refine path_of_fst (by with_reducible assumption) ?_
    | split
    | dsimp +zetaDelta only)

theorem path_logRecord {ks : List Kind} {s0 s : State} (r : LogRec) (keep : Bool)
    (hk : [.log] ⊆ ks) (h : Path ks s0 s) :
    Path ks s0 (State.logRecord s r keep) := by
  unfold State.logRecord
  repeat' (first
    | with_reducible assumption
    | extract_lets
    | with_reducible refine path_of_fst (by with_reducible assumption) ?_
    | with_reducible refine path_ite (fun _ => ?_) (fun _ => ?_)
    | with_reducible refine path_ite_fst (fun _ => ?_) (fun _ => ?_)
    | split
    | fail_if_no_progress (with_reducible refine path_set_log _ (List.Subset.trans (by decide) hk) ?_)
    | dsimp +zetaDelta only)

theorem path_logEvent {ks : List Kind} {s0 s : State} (ev : Nat) (part : Nat) (route : Nat) (detail : List Byte)
    (hk : [.log] ⊆ ks) (h : Path ks s0 s) :
    Path ks s0 (State.logEvent s ev part route detail) := by
  unfold State.logEvent
  repeat' (first
    | with_reducible assumption
    | extract_lets
    | with_reducible refine path_logRecord _ _ (List.Subset.trans (by decide) hk) ?_
    | with_reducible refine path_of_fst (by with_reducible assumption) ?_
    | split
    | dsimp +zetaDelta only)

theorem path_logWrite {ks : List Kind} {s0 s : State} (route : Nat) (i : Nat) (j : Nat) (ty : Nat) (old : List Byte) (new : List Byte)
    (hk : [.log] ⊆ ks) (h : Path ks s0 s) :
    Path ks s0 (State.logWrite s route i j ty old new) := by
  unfold State.logWrite
  repeat' (first
    | with_reducible assumption
    | extract_lets
    | with_reducible refine path_logRecord _ _ (List.Subset.trans (by decide) hk) ?_
    | with_reducible refine path_of_fst (by with_reducible assumption) ?_
    | split
    | dsimp +zetaDelta only)

theorem path_saveVal {ks : List Kind} {s0 s : State} (i : Nat) (j : Nat) (bs : List Byte)
    (hk : [.vals, .nor] ⊆ ks) (h : Path ks s0 s) :
    Path ks s0 (State.saveVal s i j bs) := by
  unfold State.saveVal
  repeat' (first
    | with_reducible assumption
    | extract_lets
    | with_reducible refine path_setVal _ _ _ (List.Subset.trans (by decide) hk) ?_
    | with_reducible refine path_of_fst (by with_reducible assumption) ?_
    | with_reducible refine path_ite (fun _ => ?_) (fun _ => ?_)
    | with_reducible refine path_ite_fst (fun _ => ?_) (fun _ => ?_)
    | split
    | fail_if_no_progress ((with_reducible refine path_mk ?_ (le_refl _) (le_refl _) id (fun _ => le_refl _) (fun _ h => h) (fun k hn => ?_)); rotate_right 1; (cases k <;> first | exact absurd (hk (by decide)) hn | rfl))
    | dsimp +zetaDelta only)

theorem path_moduleWrite {ks : List Kind} {s0 s : State} (i : Nat) (j : Nat) (bs : List Byte)
    (hk : [.vals, .log, .nor] ⊆ ks) (h : Path ks s0 s) :
    Path ks s0 (State.moduleWrite s i j bs) := by
  unfold State.moduleWrite
  repeat' (first
    | with_reducible assumption
    | extract_lets
    | with_reducible refine path_logWrite _ _ _ _ _ _ (List.Subset.trans (by decide) hk) ?_
    | with_reducible refine path_saveVal _ _ _ (List.Subset.trans (by decide) hk) ?_
    | with_reducible refine path_of_fst (by with_reducible assumption) ?_
    | with_reducible refine path_ite (fun _ => ?_) (fun _ => ?_)
    | with_reducible refine path_ite_fst (fun _ => ?_) (fun _ => ?_)
    | split
    | dsimp +zetaDelta only)

end Sys2Proof.Laws
end

