-- ==== Sys2Proof/Laws/PathRings.lean ====
section
/-!
SUPPORT. What the operations of Machine/Rings.lean can do to the state: one path for each.
-/

set_option linter.all false

namespace Sys2Proof.Laws

open Sys2Proof Sys2Proof.Machine Sys2Proof.Safety

theorem path_syncHeader {ks : List Kind} {s0 s : State} (p : Nat)
    (hk : [.mem, .hbm] ⊆ ks) (h : Path ks s0 s) :
    Path ks s0 (State.syncHeader s p) := by
  unfold State.syncHeader
  repeat' (first
    | with_reducible assumption
    | extract_lets
    | with_reducible refine path_wrAll _ _ (List.Subset.trans (by decide) hk) ?_
    | with_reducible refine path_of_fst (by with_reducible assumption) ?_
    | split
    | dsimp +zetaDelta only)

theorem path_modRings {ks : List Kind} {s0 s : State} (p : Nat) (f : Rings → Rings)
    (hk : [.parts] ⊆ ks) (h : Path ks s0 s) :
    Path ks s0 (State.modRings s p f) := by
  unfold State.modRings
  repeat' (first
    | with_reducible assumption
    | extract_lets
    | with_reducible refine path_modPart _ _ (List.Subset.trans (by decide) hk) ?_
    | with_reducible refine path_of_fst (by with_reducible assumption) ?_
    | split
    | dsimp +zetaDelta only)

theorem path_modLease {ks : List Kind} {s0 s : State} (p : Nat) (f : Lease → Lease)
    (hk : [.parts] ⊆ ks) (h : Path ks s0 s) :
    Path ks s0 (State.modLease s p f) := by
  unfold State.modLease
  repeat' (first
    | with_reducible assumption
    | extract_lets
    | with_reducible refine path_modPart _ _ (List.Subset.trans (by decide) hk) ?_
    | with_reducible refine path_of_fst (by with_reducible assumption) ?_
    | split
    | dsimp +zetaDelta only)

theorem path_modRcv {ks : List Kind} {s0 s : State} (p : Nat) (f : Recovery → Recovery)
    (hk : [.parts] ⊆ ks) (h : Path ks s0 s) :
    Path ks s0 (State.modRcv s p f) := by
  unfold State.modRcv
  repeat' (first
    | with_reducible assumption
    | extract_lets
    | with_reducible refine path_modPart _ _ (List.Subset.trans (by decide) hk) ?_
    | with_reducible refine path_of_fst (by with_reducible assumption) ?_
    | split
    | dsimp +zetaDelta only)

theorem path_signalCompletions {ks : List Kind} {s0 s : State} (p : Nat)
    (hk : [.parts, .outs] ⊆ ks) (h : Path ks s0 s) :
    Path ks s0 (State.signalCompletions s p) := by
  unfold State.signalCompletions
  repeat' (first
    | with_reducible assumption
    | extract_lets
    | with_reducible refine path_modRings _ _ (List.Subset.trans (by decide) hk) ?_
    | with_reducible refine path_out _ (List.Subset.trans (by decide) hk) ?_
    | with_reducible refine path_of_fst (by with_reducible assumption) ?_
    | split
    | dsimp +zetaDelta only)

theorem path_countCompletion {ks : List Kind} {s0 s : State} (p : Nat)
    (hk : [.parts, .outs] ⊆ ks) (h : Path ks s0 s) :
    Path ks s0 (State.countCompletion s p) := by
  unfold State.countCompletion
  repeat' (first
    | with_reducible assumption
    | extract_lets
    | with_reducible refine path_modRings _ _ (List.Subset.trans (by decide) hk) ?_
    | with_reducible refine path_signalCompletions _ (List.Subset.trans (by decide) hk) ?_
    | with_reducible refine path_of_fst (by with_reducible assumption) ?_
    | with_reducible refine path_ite (fun _ => ?_) (fun _ => ?_)
    | with_reducible refine path_ite_fst (fun _ => ?_) (fun _ => ?_)
    | split
    | dsimp +zetaDelta only)

theorem path_putCompletion {ks : List Kind} {s0 s : State} (p : Nat) (e : CqEntry) (counted : Bool)
    (hk : [.parts, .mem, .hbm, .outs] ⊆ ks) (h : Path ks s0 s) :
    Path ks s0 (State.putCompletion s p e counted) := by
  unfold State.putCompletion
  repeat' (first
    | with_reducible assumption
    | extract_lets
    | with_reducible refine path_countCompletion _ (List.Subset.trans (by decide) hk) ?_
    | with_reducible refine path_modRings _ _ (List.Subset.trans (by decide) hk) ?_
    | with_reducible refine path_syncHeader _ (List.Subset.trans (by decide) hk) ?_
    | with_reducible refine path_wr _ _ _ (List.Subset.trans (by decide) hk) ?_
    | with_reducible refine path_of_fst (by with_reducible assumption) ?_
    | with_reducible refine path_ite (fun _ => ?_) (fun _ => ?_)
    | with_reducible refine path_ite_fst (fun _ => ?_) (fun _ => ?_)
    | split
    | dsimp +zetaDelta only)

theorem path_publish {ks : List Kind} {s0 s : State} (p : Nat)
    (hk : [.parts, .mem, .hbm, .outs] ⊆ ks) (h : Path ks s0 s) :
    Path ks s0 (State.publish s p) := by
  unfold State.publish
  repeat' (first
    | with_reducible assumption
    | extract_lets
    | with_reducible refine path_modRings _ _ (List.Subset.trans (by decide) hk) ?_
    | with_reducible refine path_signalCompletions _ (List.Subset.trans (by decide) hk) ?_
    | with_reducible refine path_syncHeader _ (List.Subset.trans (by decide) hk) ?_
    | with_reducible refine path_of_fst (by with_reducible assumption) ?_
    | with_reducible refine path_ite (fun _ => ?_) (fun _ => ?_)
    | with_reducible refine path_ite_fst (fun _ => ?_) (fun _ => ?_)
    | split
    | dsimp +zetaDelta only)

theorem path_modList {ks : List Kind} {s0 s : State} (p : Nat) (l : Nat) (f : ListRec → ListRec)
    (hk : [.parts] ⊆ ks) (h : Path ks s0 s) :
    Path ks s0 (State.modList s p l f) := by
  unfold State.modList
  repeat' (first
    | with_reducible assumption
    | extract_lets
    | with_reducible refine path_modPart _ _ (List.Subset.trans (by decide) hk) ?_
    | with_reducible refine path_of_fst (by with_reducible assumption) ?_
    | with_reducible refine path_ite (fun _ => ?_) (fun _ => ?_)
    | with_reducible refine path_ite_fst (fun _ => ?_) (fun _ => ?_)
    | split
    | dsimp +zetaDelta only)

theorem path_modCmd {ks : List Kind} {s0 s : State} (r : QRef) (f : CmdRec → CmdRec)
    (hk : [.parts] ⊆ ks) (h : Path ks s0 s) :
    Path ks s0 (State.modCmd s r f) := by
  unfold State.modCmd
  repeat' (first
    | with_reducible assumption
    | extract_lets
    | with_reducible refine path_modList _ _ _ (List.Subset.trans (by decide) hk) ?_
    | with_reducible refine path_of_fst (by with_reducible assumption) ?_
    | with_reducible refine path_ite (fun _ => ?_) (fun _ => ?_)
    | with_reducible refine path_ite_fst (fun _ => ?_) (fun _ => ?_)
    | split
    | dsimp +zetaDelta only)

theorem path_answerList {ks : List Kind} {s0 s : State} (p : Nat) (x : ListRec) (status : Nat) (failing : Nat)
    (hk : [.parts, .mem, .hbm, .outs] ⊆ ks) (h : Path ks s0 s) :
    Path ks s0 (State.answerList s p x status failing) := by
  unfold State.answerList
  repeat' (first
    | with_reducible assumption
    | extract_lets
    | with_reducible refine path_modList _ _ _ (List.Subset.trans (by decide) hk) ?_
    | with_reducible refine path_putCompletion _ _ _ (List.Subset.trans (by decide) hk) ?_
    | with_reducible refine path_of_fst (by with_reducible assumption) ?_
    | split
    | dsimp +zetaDelta only)

theorem path_refuseList {ks : List Kind} {s0 s : State} (p : Nat) (subId : Nat) (userTag : Nat) (irq : Bool) (status : Nat) (failing : Nat)
    (hk : [.parts, .mem, .hbm, .outs] ⊆ ks) (h : Path ks s0 s) :
    Path ks s0 (State.refuseList s p subId userTag irq status failing) := by
  unfold State.refuseList
  repeat' (first
    | with_reducible assumption
    | extract_lets
    | with_reducible refine path_putCompletion _ _ _ (List.Subset.trans (by decide) hk) ?_
    | with_reducible refine path_of_fst (by with_reducible assumption) ?_
    | split
    | dsimp +zetaDelta only)

theorem path_modFences {ks : List Kind} {s0 s : State} (p : Nat) (f : Fences → Fences)
    (hk : [.parts] ⊆ ks) (h : Path ks s0 s) :
    Path ks s0 (State.modFences s p f) := by
  unfold State.modFences
  repeat' (first
    | with_reducible assumption
    | extract_lets
    | with_reducible refine path_modPart _ _ (List.Subset.trans (by decide) hk) ?_
    | with_reducible refine path_of_fst (by with_reducible assumption) ?_
    | split
    | dsimp +zetaDelta only)

theorem path_atBarrier {ks : List Kind} {s0 s : State} (p : Nat)
    (hk : [.parts] ⊆ ks) (h : Path ks s0 s) :
    Path ks s0 (State.atBarrier s p) := by
  unfold State.atBarrier
  repeat' (first
    | with_reducible assumption
    | extract_lets
    | with_reducible refine path_modPart _ _ (List.Subset.trans (by decide) hk) ?_
    | with_reducible refine path_of_fst (by with_reducible assumption) ?_
    | split
    | dsimp +zetaDelta only)

theorem path_atReduction {ks : List Kind} {s0 s : State} (p : Nat) (key : Nat) (f : Fences)
    (hk : [.parts] ⊆ ks) (h : Path ks s0 s) :
    Path ks s0 (State.atReduction s p key f) := by
  unfold State.atReduction
  repeat' (first
    | with_reducible assumption
    | extract_lets
    | with_reducible refine path_modPart _ _ (List.Subset.trans (by decide) hk) ?_
    | with_reducible refine path_of_fst (by with_reducible assumption) ?_
    | with_reducible refine path_ite (fun _ => ?_) (fun _ => ?_)
    | with_reducible refine path_ite_fst (fun _ => ?_) (fun _ => ?_)
    | split
    | dsimp +zetaDelta only)

theorem path_advance {ks : List Kind} {s0 s : State} (p : Nat) (key : Nat)
    (hk : [.parts] ⊆ ks) (h : Path ks s0 s) :
    Path ks s0 (State.advance s p key) := by
  unfold State.advance
  repeat' (first
    | with_reducible assumption
    | extract_lets
    | with_reducible refine path_atBarrier _ (List.Subset.trans (by decide) hk) ?_
    | with_reducible refine path_atReduction _ _ _ (List.Subset.trans (by decide) hk) ?_
    | with_reducible refine path_modFences _ _ (List.Subset.trans (by decide) hk) ?_
    | with_reducible refine path_of_fst (by with_reducible assumption) ?_
    | with_reducible refine path_ite (fun _ => ?_) (fun _ => ?_)
    | with_reducible refine path_ite_fst (fun _ => ?_) (fun _ => ?_)
    | split
    | dsimp +zetaDelta only)

theorem path_contribute {ks : List Kind} {s0 s : State} (p : Nat) (key : Nat) (e : Option Nat) (l : Nat) (i : Nat)
    (hk : [.parts] ⊆ ks) (h : Path ks s0 s) :
    Path ks s0 (State.contribute s p key e l i) := by
  unfold State.contribute
  repeat' (first
    | with_reducible assumption
    | extract_lets
    | with_reducible refine path_advance _ _ (List.Subset.trans (by decide) hk) ?_
    | with_reducible refine path_modFences _ _ (List.Subset.trans (by decide) hk) ?_
    | with_reducible refine path_of_fst (by with_reducible assumption) ?_
    | with_reducible refine path_ite (fun _ => ?_) (fun _ => ?_)
    | with_reducible refine path_ite_fst (fun _ => ?_) (fun _ => ?_)
    | split
    | dsimp +zetaDelta only)

theorem path_signal {ks : List Kind} {s0 s : State} (r : QRef) (c : Cmd)
    (hk : [.parts] ⊆ ks) (h : Path ks s0 s) :
    Path ks s0 (State.signal s r c) := by
  unfold State.signal
  repeat' (first
    | with_reducible assumption
    | extract_lets
    | with_reducible refine path_contribute _ _ _ _ _ (List.Subset.trans (by decide) hk) ?_
    | with_reducible refine path_of_fst (by with_reducible assumption) ?_
    | with_reducible refine path_ite (fun _ => ?_) (fun _ => ?_)
    | with_reducible refine path_ite_fst (fun _ => ?_) (fun _ => ?_)
    | split
    | dsimp +zetaDelta only)

theorem path_issue {ks : List Kind} {s0 s : State} (k : Nat) (n : Nat) (r : QRef) (status : Nat)
    (hk : [.parts, .queues] ⊆ ks) (h : Path ks s0 s) :
    Path ks s0 (State.issue s k n r status) := by
  unfold State.issue
  repeat' (first
    | with_reducible assumption
    | extract_lets
    | with_reducible refine path_modCmd _ _ (List.Subset.trans (by decide) hk) ?_
    | with_reducible refine path_modQueue _ _ _ (List.Subset.trans (by decide) hk) ?_
    | with_reducible refine path_of_fst (by with_reducible assumption) ?_
    | split
    | dsimp +zetaDelta only)

theorem path_finishList {ks : List Kind} {s0 s : State} (p : Nat) (l : Nat)
    (hk : [.parts, .queues, .mem, .hbm, .outs] ⊆ ks) (h : Path ks s0 s) :
    Path ks s0 (State.finishList s p l) := by
  unfold State.finishList
  repeat' (first
    | with_reducible assumption
    | extract_lets
    | with_reducible refine path_answerList _ _ _ _ (List.Subset.trans (by decide) hk) ?_
    | with_reducible refine path_issue _ _ _ _ (List.Subset.trans (by decide) hk) ?_
    | with_reducible refine path_modPart _ _ (List.Subset.trans (by decide) hk) ?_
    | with_reducible refine path_of_fst (by with_reducible assumption) ?_
    | with_reducible refine path_ite (fun _ => ?_) (fun _ => ?_)
    | with_reducible refine path_ite_fst (fun _ => ?_) (fun _ => ?_)
    | split
    | dsimp +zetaDelta only)

theorem path_endCmd {ks : List Kind} {s0 s : State} (r : QRef) (status : Nat) (ran : Bool)
    (hk : [.parts, .queues, .mem, .hbm, .outs] ⊆ ks) (h : Path ks s0 s) :
    Path ks s0 (State.endCmd s r status ran) := by
  unfold State.endCmd
  repeat' (first
    | with_reducible assumption
    | extract_lets
    | with_reducible refine path_finishList _ _ (List.Subset.trans (by decide) hk) ?_
    | with_reducible refine path_modCmd _ _ (List.Subset.trans (by decide) hk) ?_
    | with_reducible refine path_signal _ _ (List.Subset.trans (by decide) hk) ?_
    | with_reducible refine path_of_fst (by with_reducible assumption) ?_
    | split
    | dsimp +zetaDelta only)

theorem path_missList {ks : List Kind} {s0 s : State} (p : Nat) (x : ListRec)
    (hk : [.parts, .mem, .hbm, .outs] ⊆ ks) (h : Path ks s0 s) :
    Path ks s0 (State.missList s p x) := by
  unfold State.missList
  repeat' (first
    | with_reducible assumption
    | extract_lets
    | with_reducible refine path_answerList _ _ _ _ (List.Subset.trans (by decide) hk) ?_
    | with_reducible refine path_of_fst (by with_reducible assumption) ?_
    | split
    | dsimp +zetaDelta only)

theorem path_missAll {ks : List Kind} {s0 s : State}
    (hk : [.parts, .mem, .hbm, .outs] ⊆ ks) (h : Path ks s0 s) :
    Path ks s0 (State.missAll s) := by
  unfold State.missAll
  repeat' (first
    | with_reducible assumption
    | extract_lets
    | with_reducible refine path_missList _ _ (List.Subset.trans (by decide) hk) ?_
    | with_reducible refine path_of_fst (by with_reducible assumption) ?_
    | with_reducible refine path_foldl _ _ (fun _ _ _ => ?_) _ ?_
    | with_reducible refine path_foldl_fst _ _ (fun _ _ _ => ?_) _ ?_
    | with_reducible refine path_ite (fun _ => ?_) (fun _ => ?_)
    | with_reducible refine path_ite_fst (fun _ => ?_) (fun _ => ?_)
    | split
    | dsimp +zetaDelta only)

theorem path_traceStart {ks : List Kind} {s0 s : State} (key : Nat) (r : QRef)
    (hk : [.log] ⊆ ks) (h : Path ks s0 s) :
    Path ks s0 (State.traceStart s key r) := by
  unfold State.traceStart
  repeat' (first
    | with_reducible assumption
    | extract_lets
    | with_reducible refine path_of_fst (by with_reducible assumption) ?_
    | with_reducible refine path_ite (fun _ => ?_) (fun _ => ?_)
    | with_reducible refine path_ite_fst (fun _ => ?_) (fun _ => ?_)
    | split
    | fail_if_no_progress (with_reducible refine path_set_log _ (List.Subset.trans (by decide) hk) ?_)
    | dsimp +zetaDelta only)

theorem path_traceEnd {ks : List Kind} {s0 s : State} (key : Nat) (r : QRef)
    (hk : [.log] ⊆ ks) (h : Path ks s0 s) :
    Path ks s0 (State.traceEnd s key r) := by
  unfold State.traceEnd
  repeat' (first
    | with_reducible assumption
    | extract_lets
    | with_reducible refine path_of_fst (by with_reducible assumption) ?_
    | with_reducible refine path_ite (fun _ => ?_) (fun _ => ?_)
    | with_reducible refine path_ite_fst (fun _ => ?_) (fun _ => ?_)
    | split
    | fail_if_no_progress (with_reducible refine path_set_log _ (List.Subset.trans (by decide) hk) ?_)
    | dsimp +zetaDelta only)

theorem path_loseCmds {ks : List Kind} {s0 s : State} (p : Nat) (cs : List CmdRec)
    (hk : [.mem, .free] ⊆ ks) (h : Path ks s0 s) :
    Path ks s0 (State.loseCmds s p cs) := by
  unfold State.loseCmds
  repeat' (first
    | with_reducible assumption
    | extract_lets
    | with_reducible refine path_of_fst (by with_reducible assumption) ?_
    | split
    | fail_if_no_progress (with_reducible refine path_set_free _ (List.Subset.trans (by decide) hk) ?_)
    | fail_if_no_progress ((with_reducible refine path_mk ?_ (le_refl _) (le_refl _) (fun hm => ?_) (fun _ => le_refl _) (fun _ h => h) (fun k hn => ?_)); rotate_right 1; (cases k <;> first | exact absurd (hk (by decide)) hn | rfl); rotate_right 1; (repeat' first | with_reducible assumption | with_reducible refine wf_memPut _ _ _ ?_ | with_reducible refine wf_putAll _ _ ?_ | with_reducible refine wf_clear _ _ ?_ | with_reducible refine wf_foldl _ _ (fun _ _ _ => ?_) _ ?_))
    | dsimp +zetaDelta only)

theorem path_loseOutputs {ks : List Kind} {s0 s : State} (p : Nat)
    (hk : [.mem, .free] ⊆ ks) (h : Path ks s0 s) :
    Path ks s0 (State.loseOutputs s p) := by
  unfold State.loseOutputs
  repeat' (first
    | with_reducible assumption
    | extract_lets
    | with_reducible refine path_loseCmds _ _ (List.Subset.trans (by decide) hk) ?_
    | with_reducible refine path_of_fst (by with_reducible assumption) ?_
    | split
    | dsimp +zetaDelta only)

theorem path_preemptAll {ks : List Kind} {s0 s : State} (p : Nat)
    (hk : [.sites, .ctr] ⊆ ks) (h : Path ks s0 s) :
    Path ks s0 (State.preemptAll s p) := by
  unfold State.preemptAll
  repeat' (first
    | with_reducible assumption
    | extract_lets
    | with_reducible refine path_count _ _ _ (List.Subset.trans (by decide) hk) ?_
    | with_reducible refine path_modSite _ _ (List.Subset.trans (by decide) hk) ?_
    | with_reducible refine path_of_fst (by with_reducible assumption) ?_
    | with_reducible refine path_foldl _ _ (fun _ _ _ => ?_) _ ?_
    | with_reducible refine path_foldl_fst _ _ (fun _ _ _ => ?_) _ ?_
    | with_reducible refine path_ite (fun _ => ?_) (fun _ => ?_)
    | with_reducible refine path_ite_fst (fun _ => ?_) (fun _ => ?_)
    | split
    | dsimp +zetaDelta only)

theorem path_recordRun {ks : List Kind} {s0 s : State} (run : CollRun) (status : Nat)
    (hk : [.mem, .hbm] ⊆ ks) (h : Path ks s0 s) :
    Path ks s0 (State.recordRun s run status) := by
  unfold State.recordRun
  repeat' (first
    | with_reducible assumption
    | extract_lets
    | with_reducible refine path_wr _ _ _ (List.Subset.trans (by decide) hk) ?_
    | with_reducible refine path_of_fst (by with_reducible assumption) ?_
    | with_reducible refine path_ite (fun _ => ?_) (fun _ => ?_)
    | with_reducible refine path_ite_fst (fun _ => ?_) (fun _ => ?_)
    | split
    | dsimp +zetaDelta only)

theorem path_stopLists {ks : List Kind} {s0 s : State} (p : Nat) (status : Nat)
    (hk : [.parts, .queues, .sites, .mem, .hbm, .colls, .credits, .fetches, .outs] ⊆ ks) (h : Path ks s0 s) :
    Path ks s0 (State.stopLists s p status) := by
  unfold State.stopLists
  repeat' (first
    | with_reducible assumption
    | extract_lets
    | with_reducible refine path_answerList _ _ _ _ (List.Subset.trans (by decide) hk) ?_
    | with_reducible refine path_modPart _ _ (List.Subset.trans (by decide) hk) ?_
    | with_reducible refine path_recordRun _ _ (List.Subset.trans (by decide) hk) ?_
    | with_reducible refine path_of_fst (by with_reducible assumption) ?_
    | with_reducible refine path_foldl _ _ (fun _ _ _ => ?_) _ ?_
    | with_reducible refine path_foldl_fst _ _ (fun _ _ _ => ?_) _ ?_
    | with_reducible refine path_ite (fun _ => ?_) (fun _ => ?_)
    | with_reducible refine path_ite_fst (fun _ => ?_) (fun _ => ?_)
    | split
    | fail_if_no_progress ((with_reducible refine path_mk ?_ (le_refl _) (le_refl _) id (fun _ => le_refl _) (fun _ h => h) (fun k hn => ?_)); rotate_right 1; (cases k <;> first | exact absurd (hk (by decide)) hn | rfl))
    | dsimp +zetaDelta only)

theorem path_closeStream {ks : List Kind} {s0 s : State} (n : Nat) (status : Nat)
    (hk : [.mem, .hbm, .streams, .outs] ⊆ ks) (h : Path ks s0 s) :
    Path ks s0 (State.closeStream s n status) := by
  unfold State.closeStream
  repeat' (first
    | with_reducible assumption
    | extract_lets
    | with_reducible refine path_modStream _ _ (List.Subset.trans (by decide) hk) ?_
    | with_reducible refine path_out _ (List.Subset.trans (by decide) hk) ?_
    | with_reducible refine path_syncHeader _ (List.Subset.trans (by decide) hk) ?_
    | with_reducible refine path_of_fst (by with_reducible assumption) ?_
    | with_reducible refine path_ite (fun _ => ?_) (fun _ => ?_)
    | with_reducible refine path_ite_fst (fun _ => ?_) (fun _ => ?_)
    | split
    | dsimp +zetaDelta only)

theorem path_closeStreams {ks : List Kind} {s0 s : State} (p : Nat) (status : Nat)
    (hk : [.mem, .hbm, .streams, .outs] ⊆ ks) (h : Path ks s0 s) :
    Path ks s0 (State.closeStreams s p status) := by
  unfold State.closeStreams
  repeat' (first
    | with_reducible assumption
    | extract_lets
    | with_reducible refine path_closeStream _ _ (List.Subset.trans (by decide) hk) ?_
    | with_reducible refine path_of_fst (by with_reducible assumption) ?_
    | with_reducible refine path_foldl _ _ (fun _ _ _ => ?_) _ ?_
    | with_reducible refine path_foldl_fst _ _ (fun _ _ _ => ?_) _ ?_
    | split
    | dsimp +zetaDelta only)

theorem path_abandonSachet {ks : List Kind} {s0 s : State} (p : Nat)
    (hk : [.parts, .ctr, .xfers] ⊆ ks) (h : Path ks s0 s) :
    Path ks s0 (State.abandonSachet s p) := by
  unfold State.abandonSachet
  repeat' (first
    | with_reducible assumption
    | extract_lets
    | with_reducible refine path_count _ _ _ (List.Subset.trans (by decide) hk) ?_
    | with_reducible refine path_modRcv _ _ (List.Subset.trans (by decide) hk) ?_
    | with_reducible refine path_of_fst (by with_reducible assumption) ?_
    | split
    | fail_if_no_progress (with_reducible refine path_set_xfers _ (List.Subset.trans (by decide) hk) ?_)
    | dsimp +zetaDelta only)

theorem path_leaveGroup {ks : List Kind} {s0 s : State} (p : Nat)
    (hk : [.parts, .tfb] ⊆ ks) (h : Path ks s0 s) :
    Path ks s0 (State.leaveGroup s p) := by
  unfold State.leaveGroup
  repeat' (first
    | with_reducible assumption
    | extract_lets
    | with_reducible refine path_modPart _ _ (List.Subset.trans (by decide) hk) ?_
    | with_reducible refine path_of_fst (by with_reducible assumption) ?_
    | with_reducible refine path_ite (fun _ => ?_) (fun _ => ?_)
    | with_reducible refine path_ite_fst (fun _ => ?_) (fun _ => ?_)
    | split
    | fail_if_no_progress (with_reducible refine path_set_tfb _ (List.Subset.trans (by decide) hk) ?_)
    | dsimp +zetaDelta only)

theorem path_stopWork {ks : List Kind} {s0 s : State} (p : Nat) (status : Nat)
    (hk : [.parts, .queues, .sites, .mem, .hbm, .streams, .ctr, .colls, .credits, .fetches, .xfers, .outs, .free] ⊆ ks) (h : Path ks s0 s) :
    Path ks s0 (State.stopWork s p status) := by
  unfold State.stopWork
  repeat' (first
    | with_reducible assumption
    | extract_lets
    | with_reducible refine path_abandonSachet _ (List.Subset.trans (by decide) hk) ?_
    | with_reducible refine path_closeStreams _ _ (List.Subset.trans (by decide) hk) ?_
    | with_reducible refine path_loseOutputs _ (List.Subset.trans (by decide) hk) ?_
    | with_reducible refine path_modRcv _ _ (List.Subset.trans (by decide) hk) ?_
    | with_reducible refine path_modRings _ _ (List.Subset.trans (by decide) hk) ?_
    | with_reducible refine path_modSite _ _ (List.Subset.trans (by decide) hk) ?_
    | with_reducible refine path_preemptAll _ (List.Subset.trans (by decide) hk) ?_
    | with_reducible refine path_stopLists _ _ (List.Subset.trans (by decide) hk) ?_
    | with_reducible refine path_of_fst (by with_reducible assumption) ?_
    | with_reducible refine path_foldl _ _ (fun _ _ _ => ?_) _ ?_
    | with_reducible refine path_foldl_fst _ _ (fun _ _ _ => ?_) _ ?_
    | with_reducible refine path_ite (fun _ => ?_) (fun _ => ?_)
    | with_reducible refine path_ite_fst (fun _ => ?_) (fun _ => ?_)
    | split
    | dsimp +zetaDelta only)

theorem path_discardRing {ks : List Kind} {s0 s : State} (p : Nat)
    (hk : [.parts, .mem, .hbm, .outs] ⊆ ks) (h : Path ks s0 s) :
    Path ks s0 (State.discardRing s p) := by
  unfold State.discardRing
  repeat' (first
    | with_reducible assumption
    | extract_lets
    | with_reducible refine path_modRings _ _ (List.Subset.trans (by decide) hk) ?_
    | with_reducible refine path_putCompletion _ _ _ (List.Subset.trans (by decide) hk) ?_
    | with_reducible refine path_of_fst (by with_reducible assumption) ?_
    | with_reducible refine path_ite (fun _ => ?_) (fun _ => ?_)
    | with_reducible refine path_ite_fst (fun _ => ?_) (fun _ => ?_)
    | split
    | dsimp +zetaDelta only)

theorem path_disarm {ks : List Kind} {s0 s : State} (p : Nat)
    (hk : [.parts] ⊆ ks) (h : Path ks s0 s) :
    Path ks s0 (State.disarm s p) := by
  unfold State.disarm
  repeat' (first
    | with_reducible assumption
    | extract_lets
    | with_reducible refine path_modLease _ _ (List.Subset.trans (by decide) hk) ?_
    | with_reducible refine path_of_fst (by with_reducible assumption) ?_
    | with_reducible refine path_ite (fun _ => ?_) (fun _ => ?_)
    | with_reducible refine path_ite_fst (fun _ => ?_) (fun _ => ?_)
    | split
    | dsimp +zetaDelta only)

theorem path_enterIdle {ks : List Kind} {s0 s : State} (p : Nat)
    (hk : [.parts, .mem, .hbm, .tfb, .outs] ⊆ ks) (h : Path ks s0 s) :
    Path ks s0 (State.enterIdle s p) := by
  unfold State.enterIdle
  repeat' (first
    | with_reducible assumption
    | extract_lets
    | with_reducible refine path_disarm _ (List.Subset.trans (by decide) hk) ?_
    | with_reducible refine path_discardRing _ (List.Subset.trans (by decide) hk) ?_
    | with_reducible refine path_leaveGroup _ (List.Subset.trans (by decide) hk) ?_
    | with_reducible refine path_modPart _ _ (List.Subset.trans (by decide) hk) ?_
    | with_reducible refine path_modRings _ _ (List.Subset.trans (by decide) hk) ?_
    | with_reducible refine path_publish _ (List.Subset.trans (by decide) hk) ?_
    | with_reducible refine path_setPState _ _ (List.Subset.trans (by decide) hk) ?_
    | with_reducible refine path_syncHeader _ (List.Subset.trans (by decide) hk) ?_
    | with_reducible refine path_of_fst (by with_reducible assumption) ?_
    | split
    | dsimp +zetaDelta only)

end Sys2Proof.Laws
end

