-- ==== Sys2Proof/Laws/PathFlags.lean ====
section
/-!
SUPPORT. What the operations of Machine/Flags.lean can do to the state: one path for each.
-/

set_option linter.all false

namespace Sys2Proof.Laws

open Sys2Proof Sys2Proof.Machine Sys2Proof.Safety

theorem path_stampTfb {ks : List Kind} {s0 s : State} (code : Nat) (fields : List Nat)
    (hk : [.tfb] ⊆ ks) (h : Path ks s0 s) :
    Path ks s0 (State.stampTfb s code fields) := by
  unfold State.stampTfb
  repeat' (first
    | with_reducible assumption
    | extract_lets
    | with_reducible refine path_of_fst (by with_reducible assumption) ?_
    | with_reducible refine path_ite (fun _ => ?_) (fun _ => ?_)
    | with_reducible refine path_ite_fst (fun _ => ?_) (fun _ => ?_)
    | split
    | fail_if_no_progress (with_reducible refine path_set_tfb _ (List.Subset.trans (by decide) hk) ?_)
    | dsimp +zetaDelta only)

theorem path_tfbSend {ks : List Kind} {s0 s : State} (code : Nat) (fields : List Nat)
    (hk : [.tfb, .outs] ⊆ ks) (h : Path ks s0 s) :
    Path ks s0 (State.tfbSend s code fields) := by
  unfold State.tfbSend
  repeat' (first
    | with_reducible assumption
    | extract_lets
    | with_reducible refine path_out _ (List.Subset.trans (by decide) hk) ?_
    | with_reducible refine path_stampTfb _ _ (List.Subset.trans (by decide) hk) ?_
    | with_reducible refine path_of_fst (by with_reducible assumption) ?_
    | split
    | dsimp +zetaDelta only)

theorem path_enqueue {ks : List Kind} {s0 s : State} (e : ErrSpec) (pool : Nat)
    (hk : [.errq, .outs] ⊆ ks) (h : Path ks s0 s) :
    Path ks s0 (State.enqueue s e pool) := by
  unfold State.enqueue
  repeat' (first
    | with_reducible assumption
    | extract_lets
    | with_reducible refine path_out _ (List.Subset.trans (by decide) hk) ?_
    | with_reducible refine path_of_fst (by with_reducible assumption) ?_
    | with_reducible refine path_ite (fun _ => ?_) (fun _ => ?_)
    | with_reducible refine path_ite_fst (fun _ => ?_) (fun _ => ?_)
    | split
    | fail_if_no_progress (with_reducible refine path_set_errq _ (List.Subset.trans (by decide) hk) ?_)
    | dsimp +zetaDelta only)

theorem path_enterSafeStop {ks : List Kind} {s0 s : State} (p : Nat) (status : Nat)
    (hk : [.parts, .queues, .sites, .mem, .hbm, .streams, .ctr, .colls, .credits, .fetches, .xfers, .tfb, .outs, .free] ⊆ ks) (h : Path ks s0 s) :
    Path ks s0 (State.enterSafeStop s p status) := by
  unfold State.enterSafeStop
  repeat' (first
    | with_reducible assumption
    | extract_lets
    | with_reducible refine path_disarm _ (List.Subset.trans (by decide) hk) ?_
    | with_reducible refine path_leaveGroup _ (List.Subset.trans (by decide) hk) ?_
    | with_reducible refine path_modPart _ _ (List.Subset.trans (by decide) hk) ?_
    | with_reducible refine path_modRcv _ _ (List.Subset.trans (by decide) hk) ?_
    | with_reducible refine path_publish _ (List.Subset.trans (by decide) hk) ?_
    | with_reducible refine path_setPState _ _ (List.Subset.trans (by decide) hk) ?_
    | with_reducible refine path_stopWork _ _ (List.Subset.trans (by decide) hk) ?_
    | with_reducible refine path_syncHeader _ (List.Subset.trans (by decide) hk) ?_
    | with_reducible refine path_of_fst (by with_reducible assumption) ?_
    | split
    | dsimp +zetaDelta only)

theorem path_queueOverflow {ks : List Kind} {s0 s : State} (p : Nat)
    (hk : [.errq, .outs] ⊆ ks) (h : Path ks s0 s) :
    Path ks s0 (State.queueOverflow s p) := by
  unfold State.queueOverflow
  repeat' (first
    | with_reducible assumption
    | extract_lets
    | with_reducible refine path_enqueue _ _ (List.Subset.trans (by decide) hk) ?_
    | with_reducible refine path_of_fst (by with_reducible assumption) ?_
    | with_reducible refine path_ite (fun _ => ?_) (fun _ => ?_)
    | with_reducible refine path_ite_fst (fun _ => ?_) (fun _ => ?_)
    | split
    | dsimp +zetaDelta only)

theorem path_overflowStop {ks : List Kind} {s0 s : State} (p : Nat)
    (hk : [.errq, .parts, .queues, .sites, .mem, .hbm, .streams, .ctr, .colls, .credits, .fetches, .xfers, .tfb, .outs, .free] ⊆ ks) (h : Path ks s0 s) :
    Path ks s0 (State.overflowStop s p) := by
  unfold State.overflowStop
  repeat' (first
    | with_reducible assumption
    | extract_lets
    | with_reducible refine path_enterSafeStop _ _ (List.Subset.trans (by decide) hk) ?_
    | with_reducible refine path_queueOverflow _ (List.Subset.trans (by decide) hk) ?_
    | with_reducible refine path_of_fst (by with_reducible assumption) ?_
    | with_reducible refine path_ite (fun _ => ?_) (fun _ => ?_)
    | with_reducible refine path_ite_fst (fun _ => ?_) (fun _ => ?_)
    | split
    | dsimp +zetaDelta only)

theorem path_lose {ks : List Kind} {s0 s : State} (p : Nat)
    (hk : [.errq] ⊆ ks) (h : Path ks s0 s) :
    Path ks s0 (State.lose s p) := by
  unfold State.lose
  repeat' (first
    | with_reducible assumption
    | extract_lets
    | with_reducible refine path_of_fst (by with_reducible assumption) ?_
    | split
    | fail_if_no_progress (with_reducible refine path_set_errq _ (List.Subset.trans (by decide) hk) ?_)
    | dsimp +zetaDelta only)

theorem path_enrol {ks : List Kind} {s0 s : State} (e : ErrSpec)
    (hk : [.errq, .parts, .queues, .sites, .mem, .hbm, .streams, .ctr, .colls, .credits, .fetches, .xfers, .tfb, .outs, .free] ⊆ ks) (h : Path ks s0 s) :
    Path ks s0 (State.enrol s e) := by
  unfold State.enrol
  repeat' (first
    | with_reducible assumption
    | extract_lets
    | with_reducible refine path_enqueue _ _ (List.Subset.trans (by decide) hk) ?_
    | with_reducible refine path_lose _ (List.Subset.trans (by decide) hk) ?_
    | with_reducible refine path_overflowStop _ (List.Subset.trans (by decide) hk) ?_
    | with_reducible refine path_tfbSend _ _ (List.Subset.trans (by decide) hk) ?_
    | with_reducible refine path_of_fst (by with_reducible assumption) ?_
    | with_reducible refine path_foldl _ _ (fun _ _ _ => ?_) _ ?_
    | with_reducible refine path_foldl_fst _ _ (fun _ _ _ => ?_) _ ?_
    | with_reducible refine path_ite (fun _ => ?_) (fun _ => ?_)
    | with_reducible refine path_ite_fst (fun _ => ?_) (fun _ => ?_)
    | split
    | fail_if_no_progress (with_reducible refine path_set_errq _ (List.Subset.trans (by decide) hk) ?_)
    | dsimp +zetaDelta only)

theorem path_raise {ks : List Kind} {s0 s : State} (e : ErrSpec)
    (hk : [.errq, .parts, .queues, .sites, .mem, .hbm, .streams, .ctr, .colls, .credits, .fetches, .xfers, .tfb, .boot, .outs, .free] ⊆ ks) (h : Path ks s0 s) :
    Path ks s0 (State.raise s e) := by
  unfold State.raise
  repeat' (first
    | with_reducible assumption
    | extract_lets
    | with_reducible refine path_enrol _ (List.Subset.trans (by decide) hk) ?_
    | with_reducible refine path_tfbSend _ _ (List.Subset.trans (by decide) hk) ?_
    | with_reducible refine path_of_fst (by with_reducible assumption) ?_
    | with_reducible refine path_ite (fun _ => ?_) (fun _ => ?_)
    | with_reducible refine path_ite_fst (fun _ => ?_) (fun _ => ?_)
    | split
    | fail_if_no_progress (with_reducible refine path_set_boot _ (List.Subset.trans (by decide) hk) ?_)
    | dsimp +zetaDelta only)

theorem path_note {ks : List Kind} {s0 s : State} (p : Nat) (status : Nat)
    (hk : [.errq, .parts, .queues, .sites, .mem, .hbm, .streams, .ctr, .colls, .credits, .fetches, .xfers, .tfb, .boot, .outs, .free] ⊆ ks) (h : Path ks s0 s) :
    Path ks s0 (State.note s p status) := by
  unfold State.note
  repeat' (first
    | with_reducible assumption
    | extract_lets
    | with_reducible refine path_raise _ (List.Subset.trans (by decide) hk) ?_
    | with_reducible refine path_of_fst (by with_reducible assumption) ?_
    | split
    | dsimp +zetaDelta only)

theorem path_modErr {ks : List Kind} {s0 s : State} (f : List ErrEntry → List ErrEntry)
    (hk : [.errq] ⊆ ks) (h : Path ks s0 s) :
    Path ks s0 (State.modErr s f) := by
  unfold State.modErr
  repeat' (first
    | with_reducible assumption
    | extract_lets
    | with_reducible refine path_of_fst (by with_reducible assumption) ?_
    | split
    | fail_if_no_progress (with_reducible refine path_set_errq _ (List.Subset.trans (by decide) hk) ?_)
    | dsimp +zetaDelta only)

theorem path_ackErrors {ks : List Kind} {s0 s : State} (n : Nat) (sel : ErrEntry → Bool)
    (hk : [.errq] ⊆ ks) (h : Path ks s0 s) :
    Path ks s0 (State.ackErrors s n sel) := by
  unfold State.ackErrors
  repeat' (first
    | with_reducible assumption
    | extract_lets
    | with_reducible refine path_modErr _ (List.Subset.trans (by decide) hk) ?_
    | with_reducible refine path_of_fst (by with_reducible assumption) ?_
    | split
    | dsimp +zetaDelta only)

end Sys2Proof.Laws
end

