-- ==== Sys2Proof/Laws/PathHostPort.lean ====
section
/-!
SUPPORT. What the operations of Machine/HostPort.lean can do to the state: one path for each.
-/

set_option linter.all false

namespace Sys2Proof.Laws

open Sys2Proof Sys2Proof.Machine Sys2Proof.Safety

theorem path_refuseHost {ks : List Kind} {s0 s : State} (fn : Nat)
    (hk : [.caddy, .parts] ⊆ ks) (h : Path ks s0 s) :
    Path ks s0 (State.refuseHost s fn) := by
  unfold State.refuseHost
  repeat' (first
    | with_reducible assumption
    | extract_lets
    | with_reducible refine path_modRings _ _ (List.Subset.trans (by decide) hk) ?_
    | with_reducible refine path_of_fst (by with_reducible assumption) ?_
    | with_reducible refine path_ite (fun _ => ?_) (fun _ => ?_)
    | with_reducible refine path_ite_fst (fun _ => ?_) (fun _ => ?_)
    | split
    | fail_if_no_progress (with_reducible refine path_set_caddy _ (List.Subset.trans (by decide) hk) ?_)
    | dsimp +zetaDelta only)

theorem path_dropLogged {ks : List Kind} {s0 s : State} (fn : Nat) (status : Nat)
    (hk : [.caddy, .errq, .parts, .queues, .sites, .mem, .hbm, .streams, .ctr, .colls, .credits, .fetches, .xfers, .tfb, .boot, .outs, .free] ⊆ ks) (h : Path ks s0 s) :
    Path ks s0 (State.dropLogged s fn status) := by
  unfold State.dropLogged
  repeat' (first
    | with_reducible assumption
    | extract_lets
    | with_reducible refine path_note _ _ (List.Subset.trans (by decide) hk) ?_
    | with_reducible refine path_refuseHost _ (List.Subset.trans (by decide) hk) ?_
    | with_reducible refine path_of_fst (by with_reducible assumption) ?_
    | split
    | dsimp +zetaDelta only)

theorem path_sqTail {ks : List Kind} {s0 s : State} (p : Nat) (v : Nat)
    (hk : [.caddy, .errq, .parts, .queues, .sites, .mem, .hbm, .streams, .ctr, .colls, .credits, .fetches, .xfers, .tfb, .boot, .outs, .free] ⊆ ks) (h : Path ks s0 s) :
    Path ks s0 (State.sqTail s p v) := by
  unfold State.sqTail
  repeat' (first
    | with_reducible assumption
    | extract_lets
    | with_reducible refine path_dropLogged _ _ (List.Subset.trans (by decide) hk) ?_
    | with_reducible refine path_modRings _ _ (List.Subset.trans (by decide) hk) ?_
    | with_reducible refine path_of_fst (by with_reducible assumption) ?_
    | with_reducible refine path_ite (fun _ => ?_) (fun _ => ?_)
    | with_reducible refine path_ite_fst (fun _ => ?_) (fun _ => ?_)
    | split
    | dsimp +zetaDelta only)

theorem path_cqHeadWrite {ks : List Kind} {s0 s : State} (p : Nat) (v : Nat)
    (hk : [.caddy, .errq, .parts, .queues, .sites, .mem, .hbm, .streams, .ctr, .colls, .credits, .fetches, .xfers, .tfb, .boot, .outs, .free] ⊆ ks) (h : Path ks s0 s) :
    Path ks s0 (State.cqHeadWrite s p v) := by
  unfold State.cqHeadWrite
  repeat' (first
    | with_reducible assumption
    | extract_lets
    | with_reducible refine path_dropLogged _ _ (List.Subset.trans (by decide) hk) ?_
    | with_reducible refine path_modRings _ _ (List.Subset.trans (by decide) hk) ?_
    | with_reducible refine path_of_fst (by with_reducible assumption) ?_
    | with_reducible refine path_ite (fun _ => ?_) (fun _ => ?_)
    | with_reducible refine path_ite_fst (fun _ => ?_) (fun _ => ?_)
    | split
    | dsimp +zetaDelta only)

theorem path_armLease {ks : List Kind} {s0 s : State} (p : Nat)
    (hk : [.parts] ⊆ ks) (h : Path ks s0 s) :
    Path ks s0 (State.armLease s p) := by
  unfold State.armLease
  repeat' (first
    | with_reducible assumption
    | extract_lets
    | with_reducible refine path_modLease _ _ (List.Subset.trans (by decide) hk) ?_
    | with_reducible refine path_of_fst (by with_reducible assumption) ?_
    | split
    | dsimp +zetaDelta only)

theorem path_resumeHost {ks : List Kind} {s0 s : State} (p : Nat)
    (hk : [.parts, .mem, .hbm, .outs] ⊆ ks) (h : Path ks s0 s) :
    Path ks s0 (State.resumeHost s p) := by
  unfold State.resumeHost
  repeat' (first
    | with_reducible assumption
    | extract_lets
    | with_reducible refine path_armLease _ (List.Subset.trans (by decide) hk) ?_
    | with_reducible refine path_modLease _ _ (List.Subset.trans (by decide) hk) ?_
    | with_reducible refine path_modPart _ _ (List.Subset.trans (by decide) hk) ?_
    | with_reducible refine path_modRings _ _ (List.Subset.trans (by decide) hk) ?_
    | with_reducible refine path_publish _ (List.Subset.trans (by decide) hk) ?_
    | with_reducible refine path_setPState _ _ (List.Subset.trans (by decide) hk) ?_
    | with_reducible refine path_syncHeader _ (List.Subset.trans (by decide) hk) ?_
    | with_reducible refine path_of_fst (by with_reducible assumption) ?_
    | split
    | dsimp +zetaDelta only)

theorem path_attachResult {ks : List Kind} {s0 s : State} (p : Nat) (status : Nat)
    (hk : [.parts] ⊆ ks) (h : Path ks s0 s) :
    Path ks s0 (State.attachResult s p status) := by
  unfold State.attachResult
  repeat' (first
    | with_reducible assumption
    | extract_lets
    | with_reducible refine path_modRings _ _ (List.Subset.trans (by decide) hk) ?_
    | with_reducible refine path_of_fst (by with_reducible assumption) ?_
    | split
    | dsimp +zetaDelta only)

theorem path_attachResume {ks : List Kind} {s0 s : State} (p : Nat)
    (hk : [.parts, .mem, .hbm, .outs] ⊆ ks) (h : Path ks s0 s) :
    Path ks s0 (State.attachResume s p) := by
  unfold State.attachResume
  repeat' (first
    | with_reducible assumption
    | extract_lets
    | with_reducible refine path_attachResult _ _ (List.Subset.trans (by decide) hk) ?_
    | with_reducible refine path_modLease _ _ (List.Subset.trans (by decide) hk) ?_
    | with_reducible refine path_resumeHost _ (List.Subset.trans (by decide) hk) ?_
    | with_reducible refine path_syncHeader _ (List.Subset.trans (by decide) hk) ?_
    | with_reducible refine path_of_fst (by with_reducible assumption) ?_
    | with_reducible refine path_ite (fun _ => ?_) (fun _ => ?_)
    | with_reducible refine path_ite_fst (fun _ => ?_) (fun _ => ?_)
    | split
    | dsimp +zetaDelta only)

theorem path_abortPart {ks : List Kind} {s0 s : State} (p : Nat)
    (hk : [.parts, .queues, .sites, .mem, .hbm, .streams, .ctr, .colls, .credits, .fetches, .xfers, .tfb, .outs, .free] ⊆ ks) (h : Path ks s0 s) :
    Path ks s0 (State.abortPart s p) := by
  unfold State.abortPart
  repeat' (first
    | with_reducible assumption
    | extract_lets
    | with_reducible refine path_enterIdle _ (List.Subset.trans (by decide) hk) ?_
    | with_reducible refine path_stopWork _ _ (List.Subset.trans (by decide) hk) ?_
    | with_reducible refine path_of_fst (by with_reducible assumption) ?_
    | split
    | dsimp +zetaDelta only)

theorem path_attachReset {ks : List Kind} {s0 s : State} (p : Nat)
    (hk : [.parts, .queues, .sites, .mem, .hbm, .streams, .ctr, .colls, .credits, .fetches, .xfers, .tfb, .outs, .free] ⊆ ks) (h : Path ks s0 s) :
    Path ks s0 (State.attachReset s p) := by
  unfold State.attachReset
  repeat' (first
    | with_reducible assumption
    | extract_lets
    | with_reducible refine path_abortPart _ (List.Subset.trans (by decide) hk) ?_
    | with_reducible refine path_attachResult _ _ (List.Subset.trans (by decide) hk) ?_
    | with_reducible refine path_of_fst (by with_reducible assumption) ?_
    | with_reducible refine path_ite (fun _ => ?_) (fun _ => ?_)
    | with_reducible refine path_ite_fst (fun _ => ?_) (fun _ => ?_)
    | split
    | dsimp +zetaDelta only)

theorem path_regWrite {ks : List Kind} {s0 s : State} (p : Nat) (offset : Nat) (v : Nat)
    (hk : [.caddy, .errq, .parts, .queues, .sites, .mem, .hbm, .streams, .ctr, .colls, .credits, .fetches, .xfers, .tfb, .boot, .outs, .free] ⊆ ks) (h : Path ks s0 s) :
    Path ks s0 (State.regWrite s p offset v) := by
  unfold State.regWrite
  repeat' (first
    | with_reducible assumption
    | extract_lets
    | with_reducible refine path_ackErrors _ _ (List.Subset.trans (by decide) hk) ?_
    | with_reducible refine path_attachReset _ (List.Subset.trans (by decide) hk) ?_
    | with_reducible refine path_attachResult _ _ (List.Subset.trans (by decide) hk) ?_
    | with_reducible refine path_attachResume _ (List.Subset.trans (by decide) hk) ?_
    | with_reducible refine path_cqHeadWrite _ _ (List.Subset.trans (by decide) hk) ?_
    | with_reducible refine path_dropLogged _ _ (List.Subset.trans (by decide) hk) ?_
    | with_reducible refine path_modRings _ _ (List.Subset.trans (by decide) hk) ?_
    | with_reducible refine path_refuseHost _ (List.Subset.trans (by decide) hk) ?_
    | with_reducible refine path_sqTail _ _ (List.Subset.trans (by decide) hk) ?_
    | with_reducible refine path_of_fst (by with_reducible assumption) ?_
    | with_reducible refine path_ite (fun _ => ?_) (fun _ => ?_)
    | with_reducible refine path_ite_fst (fun _ => ?_) (fun _ => ?_)
    | split
    | dsimp +zetaDelta only)

theorem path_reg0Write {ks : List Kind} {s0 s : State} (offset : Nat) (v : Nat)
    (hk : [.caddy, .parts] ⊆ ks) (h : Path ks s0 s) :
    Path ks s0 (State.reg0Write s offset v) := by
  unfold State.reg0Write
  repeat' (first
    | with_reducible assumption
    | extract_lets
    | with_reducible refine path_refuseHost _ (List.Subset.trans (by decide) hk) ?_
    | with_reducible refine path_of_fst (by with_reducible assumption) ?_
    | with_reducible refine path_ite (fun _ => ?_) (fun _ => ?_)
    | with_reducible refine path_ite_fst (fun _ => ?_) (fun _ => ?_)
    | split
    | fail_if_no_progress (with_reducible refine path_set_caddy _ (List.Subset.trans (by decide) hk) ?_)
    | dsimp +zetaDelta only)

theorem path_readBar2 {ks : List Kind} {s0 s : State} (p : Nat) (a : Nat) (n : Nat)
    (hk : [.ctr] ⊆ ks) (h : Path ks s0 s) :
    Path ks s0 (State.readBar2 s p a n).1 := by
  unfold State.readBar2
  repeat' (first
    | with_reducible assumption
    | extract_lets
    | with_reducible refine path_countLines _ _ _ _ (List.Subset.trans (by decide) hk) ?_
    | with_reducible refine path_of_fst (by with_reducible assumption) ?_
    | with_reducible refine path_ite (fun _ => ?_) (fun _ => ?_)
    | with_reducible refine path_ite_fst (fun _ => ?_) (fun _ => ?_)
    | split
    | dsimp +zetaDelta only)

end Sys2Proof.Laws
end

