-- ==== Sys2Proof/Laws/PathEngine.lean ====
section
/-!
SUPPORT. What the operations of Machine/Engine.lean can do to the state: one path for each.
-/

set_option linter.all false

namespace Sys2Proof.Laws

open Sys2Proof Sys2Proof.Machine Sys2Proof.Safety

/-- An engine stays on the path when its effect does. -/
theorem path_engine {ks : List Kind} {s0 : State} {s : State} (k n : Nat) (sel : Cmd → Bool)
    (f : State → QRef → CmdRec → State × Nat) (hk : [.parts, .queues] ⊆ ks)
    (hf : ∀ (u : State) (r : QRef) (c : CmdRec), Path ks s0 u → Path ks s0 (f u r c).1) (h : Path ks s0 s) :
    Path ks s0 (State.engine s k n sel f) := by
  unfold State.engine
  split
  · split
    · exact path_issue _ _ _ _ (List.Subset.trans (by decide) hk) (hf _ _ _ h)
    · exact h
  · exact h

theorem path_store {ks : List Kind} {s0 s : State} (p : Nat) (a : Nat) (bs : List Byte)
    (hk : [.mem, .hbm, .ctr] ⊆ ks) (h : Path ks s0 s) :
    Path ks s0 (State.store s p a bs) := by
  unfold State.store
  repeat' (first
    | with_reducible assumption
    | extract_lets
    | with_reducible refine path_countLines _ _ _ _ (List.Subset.trans (by decide) hk) ?_
    | with_reducible refine path_wr _ _ _ (List.Subset.trans (by decide) hk) ?_
    | with_reducible refine path_of_fst (by with_reducible assumption) ?_
    | split
    | dsimp +zetaDelta only)

theorem path_loaded {ks : List Kind} {s0 s : State} (p : Nat) (a : Nat) (n : Nat)
    (hk : [.ctr] ⊆ ks) (h : Path ks s0 s) :
    Path ks s0 (State.loaded s p a n) := by
  unfold State.loaded
  repeat' (first
    | with_reducible assumption
    | extract_lets
    | with_reducible refine path_count _ _ _ (List.Subset.trans (by decide) hk) ?_
    | with_reducible refine path_countLines _ _ _ _ (List.Subset.trans (by decide) hk) ?_
    | with_reducible refine path_of_fst (by with_reducible assumption) ?_
    | with_reducible refine path_foldl _ _ (fun _ _ _ => ?_) _ ?_
    | with_reducible refine path_foldl_fst _ _ (fun _ _ _ => ?_) _ ?_
    | split
    | dsimp +zetaDelta only)

theorem path_countVerified {ks : List Kind} {s0 s : State} (p : Nat) (faults : List BlockFault) (bs : List Nat)
    (hk : [.ctr] ⊆ ks) (h : Path ks s0 s) :
    Path ks s0 (State.countVerified s p faults bs) := by
  unfold State.countVerified
  repeat' (first
    | with_reducible assumption
    | extract_lets
    | with_reducible refine path_count _ _ _ (List.Subset.trans (by decide) hk) ?_
    | with_reducible refine path_of_fst (by with_reducible assumption) ?_
    | with_reducible refine path_foldl _ _ (fun _ _ _ => ?_) _ ?_
    | with_reducible refine path_foldl_fst _ _ (fun _ _ _ => ?_) _ ?_
    | with_reducible refine path_ite (fun _ => ?_) (fun _ => ?_)
    | with_reducible refine path_ite_fst (fun _ => ?_) (fun _ => ?_)
    | split
    | dsimp +zetaDelta only)

theorem path_raisePlace {ks : List Kind} {s0 s : State} (place : Nat) (consumer : Nat) (p : Nat) (addr : Nat) (ref : Nat)
    (hk : [.errq, .parts, .queues, .sites, .mem, .hbm, .streams, .ctr, .colls, .credits, .fetches, .xfers, .tfb, .boot, .outs, .free] ⊆ ks) (h : Path ks s0 s) :
    Path ks s0 (State.raisePlace s place consumer p addr ref) := by
  unfold State.raisePlace
  repeat' (first
    | with_reducible assumption
    | extract_lets
    | with_reducible refine path_raise _ (List.Subset.trans (by decide) hk) ?_
    | with_reducible refine path_of_fst (by with_reducible assumption) ?_
    | split
    | fail_if_no_progress (with_reducible refine path_set_free _ (List.Subset.trans (by decide) hk) ?_)
    | fail_if_no_progress ((with_reducible refine path_mk ?_ (le_refl _) (le_refl _) id (fun _ => le_refl _) (fun _ hc => ?_) (fun k hn => ?_)); rotate_right 1; (cases k <;> first | exact absurd (hk (by decide)) hn | rfl); rotate_right 1; (first | exact hc | simpa using hc))
    | dsimp +zetaDelta only)

theorem path_raiseBlock {ks : List Kind} {s0 s : State} (p : Nat) (a : Nat) (consumer : Nat) (ref : optParam Nat 0)
    (hk : [.errq, .parts, .queues, .sites, .mem, .hbm, .streams, .ctr, .colls, .credits, .fetches, .xfers, .tfb, .boot, .outs, .free] ⊆ ks) (h : Path ks s0 s) :
    Path ks s0 (State.raiseBlock s p a consumer ref) := by
  unfold State.raiseBlock
  repeat' (first
    | with_reducible assumption
    | extract_lets
    | with_reducible refine path_raisePlace _ _ _ _ _ (List.Subset.trans (by decide) hk) ?_
    | with_reducible refine path_of_fst (by with_reducible assumption) ?_
    | split
    | dsimp +zetaDelta only)

theorem path_raiseParity {ks : List Kind} {s0 s : State} (p : Nat) (a : Nat) (ref : Nat)
    (hk : [.errq, .parts, .queues, .sites, .mem, .hbm, .streams, .ctr, .colls, .credits, .fetches, .xfers, .tfb, .boot, .outs, .free] ⊆ ks) (h : Path ks s0 s) :
    Path ks s0 (State.raiseParity s p a ref) := by
  unfold State.raiseParity
  repeat' (first
    | with_reducible assumption
    | extract_lets
    | with_reducible refine path_raise _ (List.Subset.trans (by decide) hk) ?_
    | with_reducible refine path_of_fst (by with_reducible assumption) ?_
    | split
    | dsimp +zetaDelta only)

theorem path_raiseRead {ks : List Kind} {s0 s : State} (r : QRef) (consumer : Nat) (b : Nat)
    (hk : [.errq, .parts, .queues, .sites, .mem, .hbm, .streams, .ctr, .colls, .credits, .fetches, .xfers, .tfb, .boot, .outs, .free] ⊆ ks) (h : Path ks s0 s) :
    Path ks s0 (State.raiseRead s r consumer b) := by
  unfold State.raiseRead
  repeat' (first
    | with_reducible assumption
    | extract_lets
    | with_reducible refine path_raiseBlock _ _ _ _ (List.Subset.trans (by decide) hk) ?_
    | with_reducible refine path_raiseParity _ _ _ (List.Subset.trans (by decide) hk) ?_
    | with_reducible refine path_of_fst (by with_reducible assumption) ?_
    | with_reducible refine path_ite (fun _ => ?_) (fun _ => ?_)
    | with_reducible refine path_ite_fst (fun _ => ?_) (fun _ => ?_)
    | split
    | dsimp +zetaDelta only)

theorem path_stopRead {ks : List Kind} {s0 s : State} (r : QRef) (c : CmdRec) (a : Nat)
    (hk : [.errq, .parts, .queues, .sites, .mem, .hbm, .streams, .ctr, .colls, .credits, .fetches, .xfers, .tfb, .boot, .outs, .free] ⊆ ks) (h : Path ks s0 s) :
    Path ks s0 (State.stopRead s r c a) := by
  unfold State.stopRead
  repeat' (first
    | with_reducible assumption
    | extract_lets
    | with_reducible refine path_loseCmds _ _ (List.Subset.trans (by decide) hk) ?_
    | with_reducible refine path_raiseParity _ _ _ (List.Subset.trans (by decide) hk) ?_
    | with_reducible refine path_of_fst (by with_reducible assumption) ?_
    | split
    | dsimp +zetaDelta only)

theorem path_engineRead {ks : List Kind} {s0 s : State} (k : Nat) (n : Nat) (sel : Cmd → Bool) (parity : Option Nat) (f : State → QRef → CmdRec → State × Nat)
    (hk : [.errq, .parts, .queues, .sites, .mem, .hbm, .streams, .ctr, .colls, .credits, .fetches, .xfers, .tfb, .boot, .outs, .free] ⊆ ks) (hf : ∀ (u : State) (x : QRef) (y : CmdRec), Path ks s0 u → Path ks s0 (f u x y).1) (h : Path ks s0 s) :
    Path ks s0 (State.engineRead s k n sel parity f) := by
  unfold State.engineRead
  repeat' (first
    | with_reducible assumption
    | extract_lets
    | with_reducible refine path_engine _ _ _ _ (List.Subset.trans (by decide) hk) (fun _ _ _ _ => ?_) ?_
    | with_reducible refine path_stopRead _ _ _ (List.Subset.trans (by decide) hk) ?_
    | exact hf _ (by assumption)
    | with_reducible refine hf _ ?_
    | with_reducible refine hf _ _ ?_
    | with_reducible refine hf _ _ _ ?_
    | with_reducible refine path_of_fst (by with_reducible assumption) ?_
    | split
    | dsimp +zetaDelta only)

theorem path_unqueue {ks : List Kind} {s0 s : State} (p : Nat) (l : Nat)
    (hk : [.queues] ⊆ ks) (h : Path ks s0 s) :
    Path ks s0 (State.unqueue s p l) := by
  unfold State.unqueue
  repeat' (first
    | with_reducible assumption
    | extract_lets
    | with_reducible refine path_of_fst (by with_reducible assumption) ?_
    | split
    | fail_if_no_progress (with_reducible refine path_set_queues _ (List.Subset.trans (by decide) hk) ?_)
    | dsimp +zetaDelta only)

theorem path_dropMarks {ks : List Kind} {s0 s : State} (p : Nat) (l : Nat) (i : Nat) (status : Nat)
    (hk : [.parts, .queues] ⊆ ks) (h : Path ks s0 s) :
    Path ks s0 (State.dropMarks s p l i status) := by
  unfold State.dropMarks
  repeat' (first
    | with_reducible assumption
    | extract_lets
    | with_reducible refine path_modList _ _ _ (List.Subset.trans (by decide) hk) ?_
    | with_reducible refine path_unqueue _ _ (List.Subset.trans (by decide) hk) ?_
    | with_reducible refine path_of_fst (by with_reducible assumption) ?_
    | with_reducible refine path_ite (fun _ => ?_) (fun _ => ?_)
    | with_reducible refine path_ite_fst (fun _ => ?_) (fun _ => ?_)
    | split
    | dsimp +zetaDelta only)

theorem path_dropSignals {ks : List Kind} {s0 s : State} (p : Nat) (x : ListRec) (i : Nat)
    (hk : [.parts] ⊆ ks) (h : Path ks s0 s) :
    Path ks s0 (State.dropSignals s p x i) := by
  unfold State.dropSignals
  repeat' (first
    | with_reducible assumption
    | extract_lets
    | with_reducible refine path_signal _ _ (List.Subset.trans (by decide) hk) ?_
    | with_reducible refine path_of_fst (by with_reducible assumption) ?_
    | with_reducible refine path_foldl _ _ (fun _ _ _ => ?_) _ ?_
    | with_reducible refine path_foldl_fst _ _ (fun _ _ _ => ?_) _ ?_
    | split
    | dsimp +zetaDelta only)

theorem path_dropCommands {ks : List Kind} {s0 s : State} (p : Nat) (l : Nat) (i : Nat) (status : Nat)
    (hk : [.parts, .queues] ⊆ ks) (h : Path ks s0 s) :
    Path ks s0 (State.dropCommands s p l i status) := by
  unfold State.dropCommands
  repeat' (first
    | with_reducible assumption
    | extract_lets
    | with_reducible refine path_dropMarks _ _ _ _ (List.Subset.trans (by decide) hk) ?_
    | with_reducible refine path_dropSignals _ _ _ (List.Subset.trans (by decide) hk) ?_
    | with_reducible refine path_of_fst (by with_reducible assumption) ?_
    | split
    | dsimp +zetaDelta only)

theorem path_raiseAbandoned {ks : List Kind} {s0 s : State} (p : Nat) (x : ListRec) (i : Nat) (status : Nat)
    (hk : [.errq, .parts, .queues, .sites, .mem, .hbm, .streams, .ctr, .colls, .credits, .fetches, .xfers, .tfb, .boot, .outs, .free] ⊆ ks) (h : Path ks s0 s) :
    Path ks s0 (State.raiseAbandoned s p x i status) := by
  unfold State.raiseAbandoned
  repeat' (first
    | with_reducible assumption
    | extract_lets
    | with_reducible refine path_raise _ (List.Subset.trans (by decide) hk) ?_
    | with_reducible refine path_of_fst (by with_reducible assumption) ?_
    | split
    | dsimp +zetaDelta only)

theorem path_abandonAfter {ks : List Kind} {s0 s : State} (r : QRef) (status : Nat)
    (hk : [.errq, .parts, .queues, .sites, .mem, .hbm, .streams, .ctr, .colls, .credits, .fetches, .xfers, .tfb, .boot, .outs, .free] ⊆ ks) (h : Path ks s0 s) :
    Path ks s0 (State.abandonAfter s r status) := by
  unfold State.abandonAfter
  repeat' (first
    | with_reducible assumption
    | extract_lets
    | with_reducible refine path_dropCommands _ _ _ _ (List.Subset.trans (by decide) hk) ?_
    | with_reducible refine path_raiseAbandoned _ _ _ _ (List.Subset.trans (by decide) hk) ?_
    | with_reducible refine path_of_fst (by with_reducible assumption) ?_
    | split
    | dsimp +zetaDelta only)

theorem path_abandonList {ks : List Kind} {s0 s : State} (p : Nat) (l : Nat) (i : Nat) (status : Nat)
    (hk : [.errq, .parts, .queues, .sites, .mem, .hbm, .streams, .ctr, .colls, .credits, .fetches, .xfers, .tfb, .boot, .outs, .free] ⊆ ks) (h : Path ks s0 s) :
    Path ks s0 (State.abandonList s p l i status) := by
  unfold State.abandonList
  repeat' (first
    | with_reducible assumption
    | extract_lets
    | with_reducible refine path_dropMarks _ _ _ _ (List.Subset.trans (by decide) hk) ?_
    | with_reducible refine path_dropSignals _ _ _ (List.Subset.trans (by decide) hk) ?_
    | with_reducible refine path_finishList _ _ (List.Subset.trans (by decide) hk) ?_
    | with_reducible refine path_raiseAbandoned _ _ _ _ (List.Subset.trans (by decide) hk) ?_
    | with_reducible refine path_of_fst (by with_reducible assumption) ?_
    | split
    | dsimp +zetaDelta only)

end Sys2Proof.Laws
end

