-- ==== Sys2Proof/Laws/PathStreams.lean ====
section
/-!
SUPPORT. What the operations of Machine/Streams.lean can do to the state: one path for each.
-/

set_option linter.all false

namespace Sys2Proof.Laws

open Sys2Proof Sys2Proof.Machine Sys2Proof.Safety

theorem path_tellSender {ks : List Kind} {s0 s : State} (n : Nat) (type : Nat) (arg : Nat) (payload : List Byte)
    (hk : [.streams, .outs] ⊆ ks) (h : Path ks s0 s) :
    Path ks s0 (State.tellSender s n type arg payload) := by
  unfold State.tellSender
  repeat' (first
    | with_reducible assumption
    | extract_lets
    | with_reducible refine path_modStream _ _ (List.Subset.trans (by decide) hk) ?_
    | with_reducible refine path_out _ (List.Subset.trans (by decide) hk) ?_
    | with_reducible refine path_of_fst (by with_reducible assumption) ?_
    | split
    | dsimp +zetaDelta only)

theorem path_sendCredit {ks : List Kind} {s0 s : State} (n : Nat)
    (hk : [.streams, .outs] ⊆ ks) (h : Path ks s0 s) :
    Path ks s0 (State.sendCredit s n) := by
  unfold State.sendCredit
  repeat' (first
    | with_reducible assumption
    | extract_lets
    | with_reducible refine path_modStream _ _ (List.Subset.trans (by decide) hk) ?_
    | with_reducible refine path_tellSender _ _ _ _ (List.Subset.trans (by decide) hk) ?_
    | with_reducible refine path_of_fst (by with_reducible assumption) ?_
    | with_reducible refine path_ite (fun _ => ?_) (fun _ => ?_)
    | with_reducible refine path_ite_fst (fun _ => ?_) (fun _ => ?_)
    | split
    | dsimp +zetaDelta only)

theorem path_owe {ks : List Kind} {s0 s : State} (n : Nat) (k : Nat)
    (hk : [.streams, .outs] ⊆ ks) (h : Path ks s0 s) :
    Path ks s0 (State.owe s n k) := by
  unfold State.owe
  repeat' (first
    | with_reducible assumption
    | extract_lets
    | with_reducible refine path_modStream _ _ (List.Subset.trans (by decide) hk) ?_
    | with_reducible refine path_sendCredit _ (List.Subset.trans (by decide) hk) ?_
    | with_reducible refine path_of_fst (by with_reducible assumption) ?_
    | with_reducible refine path_ite (fun _ => ?_) (fun _ => ?_)
    | with_reducible refine path_ite_fst (fun _ => ?_) (fun _ => ?_)
    | split
    | dsimp +zetaDelta only)

theorem path_putPosition {ks : List Kind} {s0 s : State} (n : Nat) (e : Nat) (m : Sample) (w : Written)
    (hk : [.errq, .parts, .queues, .sites, .mem, .hbm, .streams, .ctr, .colls, .credits, .fetches, .xfers, .tfb, .boot, .outs, .free] ⊆ ks) (h : Path ks s0 s) :
    Path ks s0 (State.putPosition s n e m w) := by
  unfold State.putPosition
  repeat' (first
    | with_reducible assumption
    | extract_lets
    | with_reducible refine path_count _ _ _ (List.Subset.trans (by decide) hk) ?_
    | with_reducible refine path_modStream _ _ (List.Subset.trans (by decide) hk) ?_
    | with_reducible refine path_raise _ (List.Subset.trans (by decide) hk) ?_
    | with_reducible refine path_store _ _ _ (List.Subset.trans (by decide) hk) ?_
    | with_reducible refine path_of_fst (by with_reducible assumption) ?_
    | with_reducible refine path_ite (fun _ => ?_) (fun _ => ?_)
    | with_reducible refine path_ite_fst (fun _ => ?_) (fun _ => ?_)
    | split
    | dsimp +zetaDelta only)

theorem path_dropSample {ks : List Kind} {s0 s : State} (n : Nat) (e : Nat)
    (hk : [.streams, .outs] ⊆ ks) (h : Path ks s0 s) :
    Path ks s0 (State.dropSample s n e) := by
  unfold State.dropSample
  repeat' (first
    | with_reducible assumption
    | extract_lets
    | with_reducible refine path_modStream _ _ (List.Subset.trans (by decide) hk) ?_
    | with_reducible refine path_owe _ _ (List.Subset.trans (by decide) hk) ?_
    | with_reducible refine path_of_fst (by with_reducible assumption) ?_
    | with_reducible refine path_ite (fun _ => ?_) (fun _ => ?_)
    | with_reducible refine path_ite_fst (fun _ => ?_) (fun _ => ?_)
    | split
    | dsimp +zetaDelta only)

theorem path_maskEntry {ks : List Kind} {s0 s : State} (n : Nat) (e : Nat) (reason : Nat)
    (hk : [.errq, .parts, .queues, .sites, .mem, .hbm, .streams, .ctr, .colls, .credits, .fetches, .xfers, .tfb, .boot, .outs, .free] ⊆ ks) (h : Path ks s0 s) :
    Path ks s0 (State.maskEntry s n e reason) := by
  unfold State.maskEntry
  repeat' (first
    | with_reducible assumption
    | extract_lets
    | with_reducible refine path_dropSample _ _ (List.Subset.trans (by decide) hk) ?_
    | with_reducible refine path_putPosition _ _ _ _ (List.Subset.trans (by decide) hk) ?_
    | with_reducible refine path_of_fst (by with_reducible assumption) ?_
    | split
    | fail_if_no_progress (with_reducible refine path_set_free _ (List.Subset.trans (by decide) hk) ?_)
    | dsimp +zetaDelta only)

theorem path_takeBlocks {ks : List Kind} {s0 s : State} (n : Nat)
    (hk : [.streams, .outs] ⊆ ks) (h : Path ks s0 s) :
    Path ks s0 (State.takeBlocks s n) := by
  unfold State.takeBlocks
  repeat' (first
    | with_reducible assumption
    | extract_lets
    | with_reducible refine path_modStream _ _ (List.Subset.trans (by decide) hk) ?_
    | with_reducible refine path_owe _ _ (List.Subset.trans (by decide) hk) ?_
    | with_reducible refine path_of_fst (by with_reducible assumption) ?_
    | with_reducible refine path_ite (fun _ => ?_) (fun _ => ?_)
    | with_reducible refine path_ite_fst (fun _ => ?_) (fun _ => ?_)
    | split
    | dsimp +zetaDelta only)

theorem path_assign {ks : List Kind} {s0 s : State} (n : Nat)
    (hk : [.streams, .ctr] ⊆ ks) (h : Path ks s0 s) :
    Path ks s0 (State.assign s n) := by
  unfold State.assign
  repeat' (first
    | with_reducible assumption
    | extract_lets
    | with_reducible refine path_count _ _ _ (List.Subset.trans (by decide) hk) ?_
    | with_reducible refine path_loaded _ _ _ (List.Subset.trans (by decide) hk) ?_
    | with_reducible refine path_modStream _ _ (List.Subset.trans (by decide) hk) ?_
    | with_reducible refine path_of_fst (by with_reducible assumption) ?_
    | with_reducible refine path_foldl _ _ (fun _ _ _ => ?_) _ ?_
    | with_reducible refine path_foldl_fst _ _ (fun _ _ _ => ?_) _ ?_
    | with_reducible refine path_ite (fun _ => ?_) (fun _ => ?_)
    | with_reducible refine path_ite_fst (fun _ => ?_) (fun _ => ?_)
    | split
    | dsimp +zetaDelta only)

theorem path_takeSlots {ks : List Kind} {s0 s : State} (n : Nat)
    (hk : [.streams] ⊆ ks) (h : Path ks s0 s) :
    Path ks s0 (State.takeSlots s n) := by
  unfold State.takeSlots
  repeat' (first
    | with_reducible assumption
    | extract_lets
    | with_reducible refine path_modStream _ _ (List.Subset.trans (by decide) hk) ?_
    | with_reducible refine path_of_fst (by with_reducible assumption) ?_
    | with_reducible refine path_foldl _ _ (fun _ _ _ => ?_) _ ?_
    | with_reducible refine path_foldl_fst _ _ (fun _ _ _ => ?_) _ ?_
    | with_reducible refine path_ite (fun _ => ?_) (fun _ => ?_)
    | with_reducible refine path_ite_fst (fun _ => ?_) (fun _ => ?_)
    | split
    | dsimp +zetaDelta only)

theorem path_maskCorrupt {ks : List Kind} {s0 s : State} (n : Nat)
    (hk : [.errq, .parts, .queues, .sites, .mem, .hbm, .streams, .ctr, .colls, .credits, .fetches, .xfers, .tfb, .boot, .outs, .free] ⊆ ks) (h : Path ks s0 s) :
    Path ks s0 (State.maskCorrupt s n) := by
  unfold State.maskCorrupt
  repeat' (first
    | with_reducible assumption
    | extract_lets
    | with_reducible refine path_maskEntry _ _ _ (List.Subset.trans (by decide) hk) ?_
    | with_reducible refine path_of_fst (by with_reducible assumption) ?_
    | with_reducible refine path_foldl _ _ (fun _ _ _ => ?_) _ ?_
    | with_reducible refine path_foldl_fst _ _ (fun _ _ _ => ?_) _ ?_
    | split
    | dsimp +zetaDelta only)

theorem path_endDecode {ks : List Kind} {s0 s : State} (n : Nat) (status : Nat)
    (hk : [.parts, .queues, .streams] ⊆ ks) (h : Path ks s0 s) :
    Path ks s0 (State.endDecode s n status) := by
  unfold State.endDecode
  repeat' (first
    | with_reducible assumption
    | extract_lets
    | with_reducible refine path_issue _ _ _ _ (List.Subset.trans (by decide) hk) ?_
    | with_reducible refine path_modStream _ _ (List.Subset.trans (by decide) hk) ?_
    | with_reducible refine path_of_fst (by with_reducible assumption) ?_
    | split
    | dsimp +zetaDelta only)

theorem path_countResult {ks : List Kind} {s0 s : State} (p : Nat) (e0 : Nat) (n : Nat) (a : Nat) (len : Nat)
    (hk : [.ctr] ⊆ ks) (h : Path ks s0 s) :
    Path ks s0 (State.countResult s p e0 n a len) := by
  unfold State.countResult
  repeat' (first
    | with_reducible assumption
    | extract_lets
    | with_reducible refine path_count _ _ _ (List.Subset.trans (by decide) hk) ?_
    | with_reducible refine path_countLines _ _ _ _ (List.Subset.trans (by decide) hk) ?_
    | with_reducible refine path_countVerified _ _ _ (List.Subset.trans (by decide) hk) ?_
    | with_reducible refine path_of_fst (by with_reducible assumption) ?_
    | with_reducible refine path_foldl _ _ (fun _ _ _ => ?_) _ ?_
    | with_reducible refine path_foldl_fst _ _ (fun _ _ _ => ?_) _ ?_
    | with_reducible refine path_ite (fun _ => ?_) (fun _ => ?_)
    | with_reducible refine path_ite_fst (fun _ => ?_) (fun _ => ?_)
    | split
    | dsimp +zetaDelta only)

theorem path_stopResult {ks : List Kind} {s0 s : State} (n : Nat) (b : Nat)
    (hk : [.errq, .parts, .queues, .sites, .mem, .hbm, .streams, .ctr, .colls, .credits, .fetches, .xfers, .tfb, .boot, .outs, .free] ⊆ ks) (h : Path ks s0 s) :
    Path ks s0 (State.stopResult s n b) := by
  unfold State.stopResult
  repeat' (first
    | with_reducible assumption
    | extract_lets
    | with_reducible refine path_endDecode _ _ (List.Subset.trans (by decide) hk) ?_
    | with_reducible refine path_raiseBlock _ _ _ _ (List.Subset.trans (by decide) hk) ?_
    | with_reducible refine path_of_fst (by with_reducible assumption) ?_
    | split
    | dsimp +zetaDelta only)

theorem path_sendResult {ks : List Kind} {s0 s : State} (n : Nat) (e : Nat)
    (hk : [.errq, .parts, .queues, .sites, .mem, .hbm, .streams, .ctr, .colls, .credits, .fetches, .xfers, .tfb, .boot, .outs, .free] ⊆ ks) (h : Path ks s0 s) :
    Path ks s0 (State.sendResult s n e) := by
  unfold State.sendResult
  repeat' (first
    | with_reducible assumption
    | extract_lets
    | with_reducible refine path_countResult _ _ _ _ _ (List.Subset.trans (by decide) hk) ?_
    | with_reducible refine path_modStream _ _ (List.Subset.trans (by decide) hk) ?_
    | with_reducible refine path_out _ (List.Subset.trans (by decide) hk) ?_
    | with_reducible refine path_stopResult _ _ (List.Subset.trans (by decide) hk) ?_
    | with_reducible refine path_of_fst (by with_reducible assumption) ?_
    | with_reducible refine path_ite (fun _ => ?_) (fun _ => ?_)
    | with_reducible refine path_ite_fst (fun _ => ?_) (fun _ => ?_)
    | split
    | dsimp +zetaDelta only)

theorem path_sendResults {ks : List Kind} {s0 s : State} (n : Nat) (fuel : Nat)
    (hk : [.errq, .parts, .queues, .sites, .mem, .hbm, .streams, .ctr, .colls, .credits, .fetches, .xfers, .tfb, .boot, .outs, .free] ⊆ ks) (h : Path ks s0 s) :
    Path ks s0 (State.sendResults s n fuel) := by
  induction fuel generalizing s n with
  | zero =>
    unfold State.sendResults
    repeat' (first
      | with_reducible assumption
      | extract_lets
      | with_reducible refine path_sendResult _ _ (List.Subset.trans (by decide) hk) ?_
      | with_reducible refine path_of_fst (by with_reducible assumption) ?_
      | with_reducible refine path_ite (fun _ => ?_) (fun _ => ?_)
      | with_reducible refine path_ite_fst (fun _ => ?_) (fun _ => ?_)
      | split
      | dsimp +zetaDelta only)
  | succ m ih =>
    unfold State.sendResults
    repeat' (first
      | with_reducible assumption
      | extract_lets
      | with_reducible refine path_sendResult _ _ (List.Subset.trans (by decide) hk) ?_
      | with_reducible refine path_of_fst (by with_reducible assumption) ?_
      | with_reducible refine path_ite (fun _ => ?_) (fun _ => ?_)
      | with_reducible refine path_ite_fst (fun _ => ?_) (fun _ => ?_)
      | with_reducible refine ih _ ?_
      | with_reducible refine ih _ _ ?_
      | with_reducible apply ih
      | split
      | dsimp +zetaDelta only)

theorem path_endRound {ks : List Kind} {s0 s : State} (n : Nat)
    (hk : [.parts, .queues, .streams] ⊆ ks) (h : Path ks s0 s) :
    Path ks s0 (State.endRound s n) := by
  unfold State.endRound
  repeat' (first
    | with_reducible assumption
    | extract_lets
    | with_reducible refine path_contribute _ _ _ _ _ (List.Subset.trans (by decide) hk) ?_
    | with_reducible refine path_endDecode _ _ (List.Subset.trans (by decide) hk) ?_
    | with_reducible refine path_modFences _ _ (List.Subset.trans (by decide) hk) ?_
    | with_reducible refine path_modStream _ _ (List.Subset.trans (by decide) hk) ?_
    | with_reducible refine path_of_fst (by with_reducible assumption) ?_
    | with_reducible refine path_ite (fun _ => ?_) (fun _ => ?_)
    | with_reducible refine path_ite_fst (fun _ => ?_) (fun _ => ?_)
    | split
    | dsimp +zetaDelta only)

theorem path_endClosing {ks : List Kind} {s0 s : State} (n : Nat)
    (hk : [.parts, .queues, .mem, .hbm, .streams, .outs] ⊆ ks) (h : Path ks s0 s) :
    Path ks s0 (State.endClosing s n) := by
  unfold State.endClosing
  repeat' (first
    | with_reducible assumption
    | extract_lets
    | with_reducible refine path_closeStream _ _ (List.Subset.trans (by decide) hk) ?_
    | with_reducible refine path_endDecode _ _ (List.Subset.trans (by decide) hk) ?_
    | with_reducible refine path_issue _ _ _ _ (List.Subset.trans (by decide) hk) ?_
    | with_reducible refine path_of_fst (by with_reducible assumption) ?_
    | with_reducible refine path_ite (fun _ => ?_) (fun _ => ?_)
    | with_reducible refine path_ite_fst (fun _ => ?_) (fun _ => ?_)
    | split
    | dsimp +zetaDelta only)

theorem path_pumpOnce {ks : List Kind} {s0 s : State} (n : Nat)
    (hk : [.errq, .parts, .queues, .sites, .mem, .hbm, .streams, .ctr, .colls, .credits, .fetches, .xfers, .tfb, .boot, .outs, .free] ⊆ ks) (h : Path ks s0 s) :
    Path ks s0 (State.pumpOnce s n) := by
  unfold State.pumpOnce
  repeat' (first
    | with_reducible assumption
    | extract_lets
    | with_reducible refine path_assign _ (List.Subset.trans (by decide) hk) ?_
    | with_reducible refine path_endClosing _ (List.Subset.trans (by decide) hk) ?_
    | with_reducible refine path_endRound _ (List.Subset.trans (by decide) hk) ?_
    | with_reducible refine path_maskCorrupt _ (List.Subset.trans (by decide) hk) ?_
    | with_reducible refine path_maskEntry _ _ _ (List.Subset.trans (by decide) hk) ?_
    | with_reducible refine path_sendResults _ _ (List.Subset.trans (by decide) hk) ?_
    | with_reducible refine path_takeBlocks _ (List.Subset.trans (by decide) hk) ?_
    | with_reducible refine path_takeSlots _ (List.Subset.trans (by decide) hk) ?_
    | with_reducible refine path_of_fst (by with_reducible assumption) ?_
    | with_reducible refine path_foldl _ _ (fun _ _ _ => ?_) _ ?_
    | with_reducible refine path_foldl_fst _ _ (fun _ _ _ => ?_) _ ?_
    | with_reducible refine path_ite (fun _ => ?_) (fun _ => ?_)
    | with_reducible refine path_ite_fst (fun _ => ?_) (fun _ => ?_)
    | split
    | dsimp +zetaDelta only)

theorem path_pump {ks : List Kind} {s0 s : State} (n : Nat)
    (hk : [.errq, .parts, .queues, .sites, .mem, .hbm, .streams, .ctr, .colls, .credits, .fetches, .xfers, .tfb, .boot, .outs, .free] ⊆ ks) (h : Path ks s0 s) :
    Path ks s0 (State.pump s n) := by
  unfold State.pump
  repeat' (first
    | with_reducible assumption
    | extract_lets
    | with_reducible refine path_pumpOnce _ (List.Subset.trans (by decide) hk) ?_
    | with_reducible refine path_of_fst (by with_reducible assumption) ?_
    | with_reducible refine path_foldl _ _ (fun _ _ _ => ?_) _ ?_
    | with_reducible refine path_foldl_fst _ _ (fun _ _ _ => ?_) _ ?_
    | with_reducible refine path_ite (fun _ => ?_) (fun _ => ?_)
    | with_reducible refine path_ite_fst (fun _ => ?_) (fun _ => ?_)
    | split
    | dsimp +zetaDelta only)

theorem path_pumpAll {ks : List Kind} {s0 s : State} (p : Nat)
    (hk : [.errq, .parts, .queues, .sites, .mem, .hbm, .streams, .ctr, .colls, .credits, .fetches, .xfers, .tfb, .boot, .outs, .free] ⊆ ks) (h : Path ks s0 s) :
    Path ks s0 (State.pumpAll s p) := by
  unfold State.pumpAll
  repeat' (first
    | with_reducible assumption
    | extract_lets
    | with_reducible refine path_pump _ (List.Subset.trans (by decide) hk) ?_
    | with_reducible refine path_of_fst (by with_reducible assumption) ?_
    | with_reducible refine path_foldl _ _ (fun _ _ _ => ?_) _ ?_
    | with_reducible refine path_foldl_fst _ _ (fun _ _ _ => ?_) _ ?_
    | split
    | dsimp +zetaDelta only)

theorem path_abortClose {ks : List Kind} {s0 s : State} (n : Nat) (status : Nat)
    (hk : [.parts, .queues, .mem, .hbm, .streams, .outs, .free] ⊆ ks) (h : Path ks s0 s) :
    Path ks s0 (State.abortClose s n status) := by
  unfold State.abortClose
  repeat' (first
    | with_reducible assumption
    | extract_lets
    | with_reducible refine path_closeStream _ _ (List.Subset.trans (by decide) hk) ?_
    | with_reducible refine path_endDecode _ _ (List.Subset.trans (by decide) hk) ?_
    | with_reducible refine path_issue _ _ _ _ (List.Subset.trans (by decide) hk) ?_
    | with_reducible refine path_loseCmds _ _ (List.Subset.trans (by decide) hk) ?_
    | with_reducible refine path_of_fst (by with_reducible assumption) ?_
    | split
    | dsimp +zetaDelta only)

theorem path_failStream {ks : List Kind} {s0 s : State} (n : Nat) (reason : Nat)
    (hk : [.errq, .parts, .queues, .sites, .mem, .hbm, .streams, .ctr, .colls, .credits, .fetches, .xfers, .tfb, .boot, .outs, .free] ⊆ ks) (h : Path ks s0 s) :
    Path ks s0 (State.failStream s n reason) := by
  unfold State.failStream
  repeat' (first
    | with_reducible assumption
    | extract_lets
    | with_reducible refine path_abortClose _ _ (List.Subset.trans (by decide) hk) ?_
    | with_reducible refine path_endRound _ (List.Subset.trans (by decide) hk) ?_
    | with_reducible refine path_maskEntry _ _ _ (List.Subset.trans (by decide) hk) ?_
    | with_reducible refine path_sendResults _ _ (List.Subset.trans (by decide) hk) ?_
    | with_reducible refine path_of_fst (by with_reducible assumption) ?_
    | with_reducible refine path_foldl _ _ (fun _ _ _ => ?_) _ ?_
    | with_reducible refine path_foldl_fst _ _ (fun _ _ _ => ?_) _ ?_
    | with_reducible refine path_ite (fun _ => ?_) (fun _ => ?_)
    | with_reducible refine path_ite_fst (fun _ => ?_) (fun _ => ?_)
    | split
    | dsimp +zetaDelta only)

theorem path_closingStreams {ks : List Kind} {s0 s : State} (p : Nat) (admitsNew : Bool)
    (hk : [.errq, .parts, .queues, .sites, .mem, .hbm, .streams, .ctr, .colls, .credits, .fetches, .xfers, .tfb, .boot, .outs, .free] ⊆ ks) (h : Path ks s0 s) :
    Path ks s0 (State.closingStreams s p admitsNew) := by
  unfold State.closingStreams
  repeat' (first
    | with_reducible assumption
    | extract_lets
    | with_reducible refine path_modStream _ _ (List.Subset.trans (by decide) hk) ?_
    | with_reducible refine path_pump _ (List.Subset.trans (by decide) hk) ?_
    | with_reducible refine path_of_fst (by with_reducible assumption) ?_
    | with_reducible refine path_foldl _ _ (fun _ _ _ => ?_) _ ?_
    | with_reducible refine path_foldl_fst _ _ (fun _ _ _ => ?_) _ ?_
    | split
    | dsimp +zetaDelta only)

end Sys2Proof.Laws
end

