-- ==== Sys2Proof/Laws/PathRecovery.lean ====
section
/-!
SUPPORT. What the operations of Machine/Recovery.lean can do to the state: one path for each.
-/

set_option linter.all false

namespace Sys2Proof.Laws

open Sys2Proof Sys2Proof.Machine Sys2Proof.Safety

theorem path_modKport {ks : List Kind} {s0 s : State} (k : Nat) (f : KPort → KPort)
    (hk : [.kports] ⊆ ks) (h : Path ks s0 s) :
    Path ks s0 (State.modKport s k f) := by
  unfold State.modKport
  repeat' (first
    | with_reducible assumption
    | extract_lets
    | with_reducible refine path_of_fst (by with_reducible assumption) ?_
    | split
    | fail_if_no_progress (with_reducible refine path_set_kports _ (List.Subset.trans (by decide) hk) ?_)
    | dsimp +zetaDelta only)

theorem path_kettleSend {ks : List Kind} {s0 s : State} (k : Nat) (type : Nat) (p : Nat) (t : Tags) (fields : List Nat) (payload : List Byte)
    (hk : [.kports, .outs] ⊆ ks) (h : Path ks s0 s) :
    Path ks s0 (State.kettleSend s k type p t fields payload) := by
  unfold State.kettleSend
  repeat' (first
    | with_reducible assumption
    | extract_lets
    | with_reducible refine path_modKport _ _ (List.Subset.trans (by decide) hk) ?_
    | with_reducible refine path_out _ (List.Subset.trans (by decide) hk) ?_
    | with_reducible refine path_of_fst (by with_reducible assumption) ?_
    | split
    | dsimp +zetaDelta only)

theorem path_sendTo {ks : List Kind} {s0 s : State} (m : Nat) (type : Nat) (p : Nat) (fields : List Nat)
    (hk : [.kports, .outs] ⊆ ks) (h : Path ks s0 s) :
    Path ks s0 (State.sendTo s m type p fields) := by
  unfold State.sendTo
  repeat' (first
    | with_reducible assumption
    | extract_lets
    | with_reducible refine path_kettleSend _ _ _ _ _ _ (List.Subset.trans (by decide) hk) ?_
    | with_reducible refine path_of_fst (by with_reducible assumption) ?_
    | split
    | dsimp +zetaDelta only)

theorem path_sendBind {ks : List Kind} {s0 s : State} (p : Nat) (m : Nat) (gib : Nat) (r : Option (Req × Nat))
    (hk : [.parts, .kports, .outs] ⊆ ks) (h : Path ks s0 s) :
    Path ks s0 (State.sendBind s p m gib r) := by
  unfold State.sendBind
  repeat' (first
    | with_reducible assumption
    | extract_lets
    | with_reducible refine path_modPart _ _ (List.Subset.trans (by decide) hk) ?_
    | with_reducible refine path_sendTo _ _ _ _ (List.Subset.trans (by decide) hk) ?_
    | with_reducible refine path_of_fst (by with_reducible assumption) ?_
    | split
    | dsimp +zetaDelta only)

theorem path_bindAfresh {ks : List Kind} {s0 s : State} (p : Nat)
    (hk : [.parts, .kports, .outs] ⊆ ks) (h : Path ks s0 s) :
    Path ks s0 (State.bindAfresh s p) := by
  unfold State.bindAfresh
  repeat' (first
    | with_reducible assumption
    | extract_lets
    | with_reducible refine path_modPart _ _ (List.Subset.trans (by decide) hk) ?_
    | with_reducible refine path_sendBind _ _ _ _ (List.Subset.trans (by decide) hk) ?_
    | with_reducible refine path_of_fst (by with_reducible assumption) ?_
    | with_reducible refine path_ite (fun _ => ?_) (fun _ => ?_)
    | with_reducible refine path_ite_fst (fun _ => ?_) (fun _ => ?_)
    | split
    | dsimp +zetaDelta only)

theorem path_phaseDone {ks : List Kind} {s0 s : State} (p : Nat)
    (hk : [.ctr] ⊆ ks) (h : Path ks s0 s) :
    Path ks s0 (State.phaseDone s p) := by
  unfold State.phaseDone
  repeat' (first
    | with_reducible assumption
    | extract_lets
    | with_reducible refine path_of_fst (by with_reducible assumption) ?_
    | split
    | fail_if_no_progress (with_reducible refine path_set_ctr _ (List.Subset.trans (by decide) hk) ?_)
    | dsimp +zetaDelta only)

theorem path_beginCapture {ks : List Kind} {s0 s : State} (p : Nat) (cmd : Option QRef)
    (hk : [.parts, .ctr] ⊆ ks) (h : Path ks s0 s) :
    Path ks s0 (State.beginCapture s p cmd) := by
  unfold State.beginCapture
  repeat' (first
    | with_reducible assumption
    | extract_lets
    | with_reducible refine path_modRcv _ _ (List.Subset.trans (by decide) hk) ?_
    | with_reducible refine path_phaseDone _ (List.Subset.trans (by decide) hk) ?_
    | with_reducible refine path_of_fst (by with_reducible assumption) ?_
    | with_reducible refine path_ite (fun _ => ?_) (fun _ => ?_)
    | with_reducible refine path_ite_fst (fun _ => ?_) (fun _ => ?_)
    | split
    | dsimp +zetaDelta only)

theorem path_readRegions {ks : List Kind} {s0 s : State} (p : Nat) (faults : List BlockFault) (rs : List (Nat × Nat))
    (hk : [.parts, .ctr] ⊆ ks) (h : Path ks s0 s) :
    Path ks s0 (State.readRegions s p faults rs) := by
  unfold State.readRegions
  repeat' (first
    | with_reducible assumption
    | extract_lets
    | with_reducible refine path_countLines _ _ _ _ (List.Subset.trans (by decide) hk) ?_
    | with_reducible refine path_countVerified _ _ _ (List.Subset.trans (by decide) hk) ?_
    | with_reducible refine path_modCmd _ _ (List.Subset.trans (by decide) hk) ?_
    | with_reducible refine path_of_fst (by with_reducible assumption) ?_
    | with_reducible refine path_foldl _ _ (fun _ _ _ => ?_) _ ?_
    | with_reducible refine path_foldl_fst _ _ (fun _ _ _ => ?_) _ ?_
    | with_reducible refine path_ite (fun _ => ?_) (fun _ => ?_)
    | with_reducible refine path_ite_fst (fun _ => ?_) (fun _ => ?_)
    | split
    | dsimp +zetaDelta only)

theorem path_endCapture {ks : List Kind} {s0 s : State} (p : Nat) (status : Nat)
    (hk : [.parts, .queues, .ctr] ⊆ ks) (h : Path ks s0 s) :
    Path ks s0 (State.endCapture s p status) := by
  unfold State.endCapture
  repeat' (first
    | with_reducible assumption
    | extract_lets
    | with_reducible refine path_count _ _ _ (List.Subset.trans (by decide) hk) ?_
    | with_reducible refine path_issue _ _ _ _ (List.Subset.trans (by decide) hk) ?_
    | with_reducible refine path_modRcv _ _ (List.Subset.trans (by decide) hk) ?_
    | with_reducible refine path_of_fst (by with_reducible assumption) ?_
    | with_reducible refine path_foldl _ _ (fun _ _ _ => ?_) _ ?_
    | with_reducible refine path_foldl_fst _ _ (fun _ _ _ => ?_) _ ?_
    | split
    | dsimp +zetaDelta only)

theorem path_dropSlot {ks : List Kind} {s0 s : State} (p : Nat) (slot : Nat)
    (hk : [.parts] ⊆ ks) (h : Path ks s0 s) :
    Path ks s0 (State.dropSlot s p slot) := by
  unfold State.dropSlot
  repeat' (first
    | with_reducible assumption
    | extract_lets
    | with_reducible refine path_modRcv _ _ (List.Subset.trans (by decide) hk) ?_
    | with_reducible refine path_of_fst (by with_reducible assumption) ?_
    | with_reducible refine path_ite (fun _ => ?_) (fun _ => ?_)
    | with_reducible refine path_ite_fst (fun _ => ?_) (fun _ => ?_)
    | split
    | dsimp +zetaDelta only)

theorem path_dropHolder {ks : List Kind} {s0 s : State} (p : Nat) (m : Nat)
    (hk : [.parts] ⊆ ks) (h : Path ks s0 s) :
    Path ks s0 (State.dropHolder s p m) := by
  unfold State.dropHolder
  repeat' (first
    | with_reducible assumption
    | extract_lets
    | with_reducible refine path_modRcv _ _ (List.Subset.trans (by decide) hk) ?_
    | with_reducible refine path_of_fst (by with_reducible assumption) ?_
    | with_reducible refine path_ite (fun _ => ?_) (fun _ => ?_)
    | with_reducible refine path_ite_fst (fun _ => ?_) (fun _ => ?_)
    | split
    | dsimp +zetaDelta only)

theorem path_pruneSachets {ks : List Kind} {s0 s : State} (p : Nat)
    (hk : [.parts] ⊆ ks) (h : Path ks s0 s) :
    Path ks s0 (State.pruneSachets s p) := by
  unfold State.pruneSachets
  repeat' (first
    | with_reducible assumption
    | extract_lets
    | with_reducible refine path_modRcv _ _ (List.Subset.trans (by decide) hk) ?_
    | with_reducible refine path_of_fst (by with_reducible assumption) ?_
    | split
    | dsimp +zetaDelta only)

theorem path_countPlaces {ks : List Kind} {s0 s : State} (ks' : List Nat)
    (hk : [.ctr] ⊆ ks) (h : Path ks s0 s) :
    Path ks s0 (State.countPlaces s ks') := by
  unfold State.countPlaces
  repeat' (first
    | with_reducible assumption
    | extract_lets
    | with_reducible refine path_count _ _ _ (List.Subset.trans (by decide) hk) ?_
    | with_reducible refine path_of_fst (by with_reducible assumption) ?_
    | with_reducible refine path_foldl _ _ (fun _ _ _ => ?_) _ ?_
    | with_reducible refine path_foldl_fst _ _ (fun _ _ _ => ?_) _ ?_
    | with_reducible refine path_ite (fun _ => ?_) (fun _ => ?_)
    | with_reducible refine path_ite_fst (fun _ => ?_) (fun _ => ?_)
    | split
    | dsimp +zetaDelta only)

theorem path_sendBlock {ks : List Kind} {s0 s : State} (k : Nat)
    (hk : [.errq, .parts, .queues, .sites, .mem, .hbm, .streams, .ctr, .colls, .credits, .fetches, .xfers, .kports, .tfb, .boot, .outs, .free] ⊆ ks) (h : Path ks s0 s) :
    Path ks s0 (State.sendBlock s k) := by
  unfold State.sendBlock
  repeat' (first
    | with_reducible assumption
    | extract_lets
    | with_reducible refine path_countPlaces _ (List.Subset.trans (by decide) hk) ?_
    | with_reducible refine path_kettleSend _ _ _ _ _ _ (List.Subset.trans (by decide) hk) ?_
    | with_reducible refine path_raisePlace _ _ _ _ _ (List.Subset.trans (by decide) hk) ?_
    | with_reducible refine path_of_fst (by with_reducible assumption) ?_
    | with_reducible refine path_ite (fun _ => ?_) (fun _ => ?_)
    | with_reducible refine path_ite_fst (fun _ => ?_) (fun _ => ?_)
    | split
    | fail_if_no_progress (with_reducible refine path_set_xfers _ (List.Subset.trans (by decide) hk) ?_)
    | dsimp +zetaDelta only)

theorem path_pumpXfers {ks : List Kind} {s0 s : State}
    (hk : [.errq, .parts, .queues, .sites, .mem, .hbm, .streams, .ctr, .colls, .credits, .fetches, .xfers, .kports, .tfb, .boot, .outs, .free] ⊆ ks) (h : Path ks s0 s) :
    Path ks s0 (State.pumpXfers s) := by
  unfold State.pumpXfers
  repeat' (first
    | with_reducible assumption
    | extract_lets
    | with_reducible refine path_sendBlock _ (List.Subset.trans (by decide) hk) ?_
    | with_reducible refine path_of_fst (by with_reducible assumption) ?_
    | with_reducible refine path_foldl _ _ (fun _ _ _ => ?_) _ ?_
    | with_reducible refine path_foldl_fst _ _ (fun _ _ _ => ?_) _ ?_
    | split
    | dsimp +zetaDelta only)

theorem path_sendSachet {ks : List Kind} {s0 s : State} (p : Nat)
    (hk : [.errq, .parts, .queues, .sites, .mem, .hbm, .streams, .ctr, .colls, .credits, .fetches, .xfers, .kports, .tfb, .nor, .boot, .outs, .free] ⊆ ks) (h : Path ks s0 s) :
    Path ks s0 (State.sendSachet s p) := by
  unfold State.sendSachet
  repeat' (first
    | with_reducible assumption
    | extract_lets
    | with_reducible refine path_bindAfresh _ (List.Subset.trans (by decide) hk) ?_
    | with_reducible refine path_count _ _ _ (List.Subset.trans (by decide) hk) ?_
    | with_reducible refine path_dropSlot _ _ (List.Subset.trans (by decide) hk) ?_
    | with_reducible refine path_endCapture _ _ (List.Subset.trans (by decide) hk) ?_
    | with_reducible refine path_modPart _ _ (List.Subset.trans (by decide) hk) ?_
    | with_reducible refine path_modRcv _ _ (List.Subset.trans (by decide) hk) ?_
    | with_reducible refine path_note _ _ (List.Subset.trans (by decide) hk) ?_
    | with_reducible refine path_pumpXfers (List.Subset.trans (by decide) hk) ?_
    | with_reducible refine path_of_fst (by with_reducible assumption) ?_
    | with_reducible refine path_ite (fun _ => ?_) (fun _ => ?_)
    | with_reducible refine path_ite_fst (fun _ => ?_) (fun _ => ?_)
    | split
    | fail_if_no_progress (with_reducible refine path_set_xfers _ (List.Subset.trans (by decide) hk) ?_)
    | fail_if_no_progress ((with_reducible refine path_mk ?_ (le_refl _) (le_refl _) id (fun _ => le_refl _) (fun _ h => h) (fun k hn => ?_)); rotate_right 1; (cases k <;> first | exact absurd (hk (by decide)) hn | rfl))
    | dsimp +zetaDelta only)

theorem path_selectPlan {ks : List Kind} {s0 s : State} (p : Nat) (plan : Nat) (words : List Nat)
    (hk : [.vals, .parts, .mem, .hbm] ⊆ ks) (h : Path ks s0 s) :
    Path ks s0 (State.selectPlan s p plan words) := by
  unfold State.selectPlan
  repeat' (first
    | with_reducible assumption
    | extract_lets
    | with_reducible refine path_modRcv _ _ (List.Subset.trans (by decide) hk) ?_
    | with_reducible refine path_setVal _ _ _ (List.Subset.trans (by decide) hk) ?_
    | with_reducible refine path_wr _ _ _ (List.Subset.trans (by decide) hk) ?_
    | with_reducible refine path_of_fst (by with_reducible assumption) ?_
    | with_reducible refine path_ite (fun _ => ?_) (fun _ => ?_)
    | with_reducible refine path_ite_fst (fun _ => ?_) (fun _ => ?_)
    | split
    | dsimp +zetaDelta only)

theorem path_stopWith {ks : List Kind} {s0 s : State} (p : Nat) (status : Nat)
    (hk : [.errq, .parts, .queues, .sites, .mem, .hbm, .streams, .ctr, .colls, .credits, .fetches, .xfers, .tfb, .boot, .outs, .free] ⊆ ks) (h : Path ks s0 s) :
    Path ks s0 (State.stopWith s p status) := by
  unfold State.stopWith
  repeat' (first
    | with_reducible assumption
    | extract_lets
    | with_reducible refine path_enterSafeStop _ _ (List.Subset.trans (by decide) hk) ?_
    | with_reducible refine path_raise _ (List.Subset.trans (by decide) hk) ?_
    | with_reducible refine path_of_fst (by with_reducible assumption) ?_
    | split
    | dsimp +zetaDelta only)

theorem path_chooseTarget {ks : List Kind} {s0 s : State} (p : Nat)
    (hk : [.errq, .parts, .queues, .sites, .mem, .hbm, .streams, .ctr, .colls, .credits, .fetches, .xfers, .tfb, .boot, .outs, .free] ⊆ ks) (h : Path ks s0 s) :
    Path ks s0 (State.chooseTarget s p) := by
  unfold State.chooseTarget
  repeat' (first
    | with_reducible assumption
    | extract_lets
    | with_reducible refine path_modRcv _ _ (List.Subset.trans (by decide) hk) ?_
    | with_reducible refine path_stopWith _ _ (List.Subset.trans (by decide) hk) ?_
    | with_reducible refine path_tfbSend _ _ (List.Subset.trans (by decide) hk) ?_
    | with_reducible refine path_of_fst (by with_reducible assumption) ?_
    | with_reducible refine path_ite (fun _ => ?_) (fun _ => ?_)
    | with_reducible refine path_ite_fst (fun _ => ?_) (fun _ => ?_)
    | split
    | dsimp +zetaDelta only)

theorem path_haltRounds {ks : List Kind} {s0 s : State} (p : Nat)
    (hk : [.streams] ⊆ ks) (h : Path ks s0 s) :
    Path ks s0 (State.haltRounds s p) := by
  unfold State.haltRounds
  repeat' (first
    | with_reducible assumption
    | extract_lets
    | with_reducible refine path_modStream _ _ (List.Subset.trans (by decide) hk) ?_
    | with_reducible refine path_of_fst (by with_reducible assumption) ?_
    | with_reducible refine path_foldl _ _ (fun _ _ _ => ?_) _ ?_
    | with_reducible refine path_foldl_fst _ _ (fun _ _ _ => ?_) _ ?_
    | split
    | dsimp +zetaDelta only)

theorem path_beginRollback {ks : List Kind} {s0 s : State} (p : Nat) (cause : Nat) (groupEpoch : Option Nat)
    (hk : [.errq, .parts, .queues, .sites, .mem, .hbm, .streams, .ctr, .colls, .credits, .fetches, .xfers, .tfb, .boot, .outs, .free] ⊆ ks) (h : Path ks s0 s) :
    Path ks s0 (State.beginRollback s p cause groupEpoch) := by
  unfold State.beginRollback
  repeat' (first
    | with_reducible assumption
    | extract_lets
    | with_reducible refine path_chooseTarget _ (List.Subset.trans (by decide) hk) ?_
    | with_reducible refine path_count _ _ _ (List.Subset.trans (by decide) hk) ?_
    | with_reducible refine path_haltRounds _ (List.Subset.trans (by decide) hk) ?_
    | with_reducible refine path_loseOutputs _ (List.Subset.trans (by decide) hk) ?_
    | with_reducible refine path_modPart _ _ (List.Subset.trans (by decide) hk) ?_
    | with_reducible refine path_modRcv _ _ (List.Subset.trans (by decide) hk) ?_
    | with_reducible refine path_modRings _ _ (List.Subset.trans (by decide) hk) ?_
    | with_reducible refine path_preemptAll _ (List.Subset.trans (by decide) hk) ?_
    | with_reducible refine path_stopLists _ _ (List.Subset.trans (by decide) hk) ?_
    | with_reducible refine path_of_fst (by with_reducible assumption) ?_
    | with_reducible refine path_ite (fun _ => ?_) (fun _ => ?_)
    | with_reducible refine path_ite_fst (fun _ => ?_) (fun _ => ?_)
    | split
    | dsimp +zetaDelta only)

theorem path_wideAll {ks : List Kind} {s0 s : State} (p : Nat)
    (hk : [.sites, .pendingSrc] ⊆ ks) (h : Path ks s0 s) :
    Path ks s0 (State.wideAll s p) := by
  unfold State.wideAll
  repeat' (first
    | with_reducible assumption
    | extract_lets
    | with_reducible refine path_modSite _ _ (List.Subset.trans (by decide) hk) ?_
    | with_reducible refine path_of_fst (by with_reducible assumption) ?_
    | with_reducible refine path_foldl _ _ (fun _ _ _ => ?_) _ ?_
    | with_reducible refine path_foldl_fst _ _ (fun _ _ _ => ?_) _ ?_
    | split
    | fail_if_no_progress (with_reducible refine path_set_pendingSrc _ (List.Subset.trans (by decide) hk) ?_)
    | dsimp +zetaDelta only)

theorem path_restoreRegions {ks : List Kind} {s0 s : State} (p : Nat) (x : Sachet) (ledger : List (Nat × Nat))
    (hk : [.mem, .hbm, .ctr] ⊆ ks) (h : Path ks s0 s) :
    Path ks s0 (State.restoreRegions s p x ledger) := by
  unfold State.restoreRegions
  repeat' (first
    | with_reducible assumption
    | extract_lets
    | with_reducible refine path_store _ _ _ (List.Subset.trans (by decide) hk) ?_
    | with_reducible refine path_of_fst (by with_reducible assumption) ?_
    | with_reducible refine path_foldl _ _ (fun _ _ _ => ?_) _ ?_
    | with_reducible refine path_foldl_fst _ _ (fun _ _ _ => ?_) _ ?_
    | split
    | dsimp +zetaDelta only)

theorem path_restoreSchedule {ks : List Kind} {s0 s : State} (p : Nat) (x : Sachet) (whole : Bool)
    (hk : [.parts] ⊆ ks) (h : Path ks s0 s) :
    Path ks s0 (State.restoreSchedule s p x whole) := by
  unfold State.restoreSchedule
  repeat' (first
    | with_reducible assumption
    | extract_lets
    | with_reducible refine path_modPart _ _ (List.Subset.trans (by decide) hk) ?_
    | with_reducible refine path_of_fst (by with_reducible assumption) ?_
    | with_reducible refine path_ite (fun _ => ?_) (fun _ => ?_)
    | with_reducible refine path_ite_fst (fun _ => ?_) (fun _ => ?_)
    | split
    | dsimp +zetaDelta only)

theorem path_lapseChive {ks : List Kind} {s0 s : State} (p : Nat)
    (hk : [.parts] ⊆ ks) (h : Path ks s0 s) :
    Path ks s0 (State.lapseChive s p) := by
  unfold State.lapseChive
  repeat' (first
    | with_reducible assumption
    | extract_lets
    | with_reducible refine path_modPart _ _ (List.Subset.trans (by decide) hk) ?_
    | with_reducible refine path_of_fst (by with_reducible assumption) ?_
    | split
    | dsimp +zetaDelta only)

theorem path_rewindStreams {ks : List Kind} {s0 s : State} (p : Nat) (x : Sachet)
    (hk : [.mem, .hbm, .streams, .outs] ⊆ ks) (h : Path ks s0 s) :
    Path ks s0 (State.rewindStreams s p x) := by
  unfold State.rewindStreams
  repeat' (first
    | with_reducible assumption
    | extract_lets
    | with_reducible refine path_closeStream _ _ (List.Subset.trans (by decide) hk) ?_
    | with_reducible refine path_modStream _ _ (List.Subset.trans (by decide) hk) ?_
    | with_reducible refine path_of_fst (by with_reducible assumption) ?_
    | with_reducible refine path_foldl _ _ (fun _ _ _ => ?_) _ ?_
    | with_reducible refine path_foldl_fst _ _ (fun _ _ _ => ?_) _ ?_
    | with_reducible refine path_ite (fun _ => ?_) (fun _ => ?_)
    | with_reducible refine path_ite_fst (fun _ => ?_) (fun _ => ?_)
    | split
    | dsimp +zetaDelta only)

theorem path_setRunTo {ks : List Kind} {s0 s : State} (p : Nat) (r : RunTo)
    (hk : [.parts] ⊆ ks) (h : Path ks s0 s) :
    Path ks s0 (State.setRunTo s p r) := by
  unfold State.setRunTo
  repeat' (first
    | with_reducible assumption
    | extract_lets
    | with_reducible refine path_modPart _ _ (List.Subset.trans (by decide) hk) ?_
    | with_reducible refine path_of_fst (by with_reducible assumption) ?_
    | split
    | dsimp +zetaDelta only)

theorem path_progressOnce {ks : List Kind} {s0 s : State} (p : Nat)
    (hk : [.errq, .parts, .queues, .sites, .mem, .hbm, .streams, .ctr, .colls, .credits, .fetches, .xfers, .tfb, .boot, .outs, .free] ⊆ ks) (h : Path ks s0 s) :
    Path ks s0 (State.progressOnce s p) := by
  unfold State.progressOnce
  repeat' (first
    | with_reducible assumption
    | extract_lets
    | with_reducible refine path_beginCapture _ _ (List.Subset.trans (by decide) hk) ?_
    | with_reducible refine path_closingStreams _ _ (List.Subset.trans (by decide) hk) ?_
    | with_reducible refine path_enterIdle _ (List.Subset.trans (by decide) hk) ?_
    | with_reducible refine path_modLease _ _ (List.Subset.trans (by decide) hk) ?_
    | with_reducible refine path_resumeHost _ (List.Subset.trans (by decide) hk) ?_
    | with_reducible refine path_setRunTo _ _ (List.Subset.trans (by decide) hk) ?_
    | with_reducible refine path_syncHeader _ (List.Subset.trans (by decide) hk) ?_
    | with_reducible refine path_of_fst (by with_reducible assumption) ?_
    | with_reducible refine path_ite (fun _ => ?_) (fun _ => ?_)
    | with_reducible refine path_ite_fst (fun _ => ?_) (fun _ => ?_)
    | split
    | dsimp +zetaDelta only)

theorem path_progress {ks : List Kind} {s0 s : State} (p : Nat)
    (hk : [.errq, .parts, .queues, .sites, .mem, .hbm, .streams, .ctr, .colls, .credits, .fetches, .xfers, .tfb, .boot, .outs, .free] ⊆ ks) (h : Path ks s0 s) :
    Path ks s0 (State.progress s p) := by
  unfold State.progress
  repeat' (first
    | with_reducible assumption
    | extract_lets
    | with_reducible refine path_progressOnce _ (List.Subset.trans (by decide) hk) ?_
    | with_reducible refine path_pumpAll _ (List.Subset.trans (by decide) hk) ?_
    | with_reducible refine path_of_fst (by with_reducible assumption) ?_
    | split
    | dsimp +zetaDelta only)

theorem path_finishRollback {ks : List Kind} {s0 s : State} (p : Nat)
    (hk : [.vals, .errq, .parts, .queues, .sites, .mem, .hbm, .streams, .ctr, .colls, .credits, .fetches, .xfers, .tfb, .boot, .outs, .free] ⊆ ks) (h : Path ks s0 s) :
    Path ks s0 (State.finishRollback s p) := by
  unfold State.finishRollback
  repeat' (first
    | with_reducible assumption
    | extract_lets
    | with_reducible refine path_lapseChive _ (List.Subset.trans (by decide) hk) ?_
    | with_reducible refine path_modRcv _ _ (List.Subset.trans (by decide) hk) ?_
    | with_reducible refine path_modRings _ _ (List.Subset.trans (by decide) hk) ?_
    | with_reducible refine path_out _ (List.Subset.trans (by decide) hk) ?_
    | with_reducible refine path_progress _ (List.Subset.trans (by decide) hk) ?_
    | with_reducible refine path_selectPlan _ _ _ (List.Subset.trans (by decide) hk) ?_
    | with_reducible refine path_setVal _ _ _ (List.Subset.trans (by decide) hk) ?_
    | with_reducible refine path_stopWith _ _ (List.Subset.trans (by decide) hk) ?_
    | with_reducible refine path_of_fst (by with_reducible assumption) ?_
    | with_reducible refine path_ite (fun _ => ?_) (fun _ => ?_)
    | with_reducible refine path_ite_fst (fun _ => ?_) (fun _ => ?_)
    | split
    | dsimp +zetaDelta only)

theorem path_startScrub {ks : List Kind} {s0 s : State} (p : Nat)
    (hk : [.parts, .queues, .sites, .mem, .hbm, .streams, .ctr, .colls, .credits, .fetches, .xfers, .outs, .free] ⊆ ks) (h : Path ks s0 s) :
    Path ks s0 (State.startScrub s p) := by
  unfold State.startScrub
  repeat' (first
    | with_reducible assumption
    | extract_lets
    | with_reducible refine path_modPart _ _ (List.Subset.trans (by decide) hk) ?_
    | with_reducible refine path_modRcv _ _ (List.Subset.trans (by decide) hk) ?_
    | with_reducible refine path_phaseDone _ (List.Subset.trans (by decide) hk) ?_
    | with_reducible refine path_stopWork _ _ (List.Subset.trans (by decide) hk) ?_
    | with_reducible refine path_of_fst (by with_reducible assumption) ?_
    | split
    | dsimp +zetaDelta only)

theorem path_fenceAbort {ks : List Kind} {s0 s : State} (p : Nat)
    (hk : [.errq, .parts, .queues, .sites, .mem, .hbm, .streams, .ctr, .colls, .credits, .fetches, .xfers, .tfb, .boot, .outs, .free] ⊆ ks) (h : Path ks s0 s) :
    Path ks s0 (State.fenceAbort s p) := by
  unfold State.fenceAbort
  repeat' (first
    | with_reducible assumption
    | extract_lets
    | with_reducible refine path_count _ _ _ (List.Subset.trans (by decide) hk) ?_
    | with_reducible refine path_note _ _ (List.Subset.trans (by decide) hk) ?_
    | with_reducible refine path_startScrub _ (List.Subset.trans (by decide) hk) ?_
    | with_reducible refine path_stopWork _ _ (List.Subset.trans (by decide) hk) ?_
    | with_reducible refine path_of_fst (by with_reducible assumption) ?_
    | split
    | dsimp +zetaDelta only)

theorem path_sachetEnded {ks : List Kind} {s0 s : State} (p : Nat)
    (hk : [.errq, .parts, .queues, .sites, .mem, .hbm, .streams, .ctr, .colls, .credits, .fetches, .xfers, .tfb, .boot, .outs, .free] ⊆ ks) (h : Path ks s0 s) :
    Path ks s0 (State.sachetEnded s p) := by
  unfold State.sachetEnded
  repeat' (first
    | with_reducible assumption
    | extract_lets
    | with_reducible refine path_chooseTarget _ (List.Subset.trans (by decide) hk) ?_
    | with_reducible refine path_progress _ (List.Subset.trans (by decide) hk) ?_
    | with_reducible refine path_setRunTo _ _ (List.Subset.trans (by decide) hk) ?_
    | with_reducible refine path_startScrub _ (List.Subset.trans (by decide) hk) ?_
    | with_reducible refine path_of_fst (by with_reducible assumption) ?_
    | with_reducible refine path_ite (fun _ => ?_) (fun _ => ?_)
    | with_reducible refine path_ite_fst (fun _ => ?_) (fun _ => ?_)
    | split
    | dsimp +zetaDelta only)

theorem path_groupLanded {ks : List Kind} {s0 s : State} (p : Nat) (source : Nat) (epoch : Nat)
    (hk : [.vals, .parts] ⊆ ks) (h : Path ks s0 s) :
    Path ks s0 (State.groupLanded s p source epoch) := by
  unfold State.groupLanded
  repeat' (first
    | with_reducible assumption
    | extract_lets
    | with_reducible refine path_modRcv _ _ (List.Subset.trans (by decide) hk) ?_
    | with_reducible refine path_setVal _ _ _ (List.Subset.trans (by decide) hk) ?_
    | with_reducible refine path_of_fst (by with_reducible assumption) ?_
    | with_reducible refine path_ite (fun _ => ?_) (fun _ => ?_)
    | with_reducible refine path_ite_fst (fun _ => ?_) (fun _ => ?_)
    | split
    | dsimp +zetaDelta only)

theorem path_landSachet {ks : List Kind} {s0 s : State} (p : Nat)
    (hk : [.vals, .errq, .parts, .queues, .sites, .mem, .hbm, .streams, .ctr, .colls, .credits, .fetches, .xfers, .kports, .tfb, .boot, .outs, .free] ⊆ ks) (h : Path ks s0 s) :
    Path ks s0 (State.landSachet s p) := by
  unfold State.landSachet
  repeat' (first
    | with_reducible assumption
    | extract_lets
    | with_reducible refine path_count _ _ _ (List.Subset.trans (by decide) hk) ?_
    | with_reducible refine path_dropHolder _ _ (List.Subset.trans (by decide) hk) ?_
    | with_reducible refine path_endCapture _ _ (List.Subset.trans (by decide) hk) ?_
    | with_reducible refine path_groupLanded _ _ _ (List.Subset.trans (by decide) hk) ?_
    | with_reducible refine path_modLease _ _ (List.Subset.trans (by decide) hk) ?_
    | with_reducible refine path_modPart _ _ (List.Subset.trans (by decide) hk) ?_
    | with_reducible refine path_modRcv _ _ (List.Subset.trans (by decide) hk) ?_
    | with_reducible refine path_pruneSachets _ (List.Subset.trans (by decide) hk) ?_
    | with_reducible refine path_sachetEnded _ (List.Subset.trans (by decide) hk) ?_
    | with_reducible refine path_sendTo _ _ _ _ (List.Subset.trans (by decide) hk) ?_
    | with_reducible refine path_setVal _ _ _ (List.Subset.trans (by decide) hk) ?_
    | with_reducible refine path_syncHeader _ (List.Subset.trans (by decide) hk) ?_
    | with_reducible refine path_tfbSend _ _ (List.Subset.trans (by decide) hk) ?_
    | with_reducible refine path_of_fst (by with_reducible assumption) ?_
    | with_reducible refine path_ite (fun _ => ?_) (fun _ => ?_)
    | with_reducible refine path_ite_fst (fun _ => ?_) (fun _ => ?_)
    | split
    | fail_if_no_progress (with_reducible refine path_set_xfers _ (List.Subset.trans (by decide) hk) ?_)
    | dsimp +zetaDelta only)

theorem path_landingFailed {ks : List Kind} {s0 s : State} (p : Nat) (status : Nat)
    (hk : [.errq, .parts, .queues, .sites, .mem, .hbm, .streams, .ctr, .colls, .credits, .fetches, .xfers, .tfb, .boot, .outs, .free] ⊆ ks) (h : Path ks s0 s) :
    Path ks s0 (State.landingFailed s p status) := by
  unfold State.landingFailed
  repeat' (first
    | with_reducible assumption
    | extract_lets
    | with_reducible refine path_count _ _ _ (List.Subset.trans (by decide) hk) ?_
    | with_reducible refine path_endCapture _ _ (List.Subset.trans (by decide) hk) ?_
    | with_reducible refine path_modRcv _ _ (List.Subset.trans (by decide) hk) ?_
    | with_reducible refine path_sachetEnded _ (List.Subset.trans (by decide) hk) ?_
    | with_reducible refine path_of_fst (by with_reducible assumption) ?_
    | with_reducible refine path_ite (fun _ => ?_) (fun _ => ?_)
    | with_reducible refine path_ite_fst (fun _ => ?_) (fun _ => ?_)
    | split
    | fail_if_no_progress (with_reducible refine path_set_xfers _ (List.Subset.trans (by decide) hk) ?_)
    | dsimp +zetaDelta only)

theorem path_reclaim {ks : List Kind} {s0 s : State} (p : Nat) (group : Bool)
    (hk : [.parts, .queues, .sites, .mem, .hbm, .streams, .ctr, .colls, .credits, .fetches, .xfers, .tfb, .outs, .free] ⊆ ks) (h : Path ks s0 s) :
    Path ks s0 (State.reclaim s p group) := by
  unfold State.reclaim
  repeat' (first
    | with_reducible assumption
    | extract_lets
    | with_reducible refine path_abandonSachet _ (List.Subset.trans (by decide) hk) ?_
    | with_reducible refine path_beginCapture _ _ (List.Subset.trans (by decide) hk) ?_
    | with_reducible refine path_count _ _ _ (List.Subset.trans (by decide) hk) ?_
    | with_reducible refine path_disarm _ (List.Subset.trans (by decide) hk) ?_
    | with_reducible refine path_modPart _ _ (List.Subset.trans (by decide) hk) ?_
    | with_reducible refine path_modRcv _ _ (List.Subset.trans (by decide) hk) ?_
    | with_reducible refine path_modRings _ _ (List.Subset.trans (by decide) hk) ?_
    | with_reducible refine path_publish _ (List.Subset.trans (by decide) hk) ?_
    | with_reducible refine path_setPState _ _ (List.Subset.trans (by decide) hk) ?_
    | with_reducible refine path_setRunTo _ _ (List.Subset.trans (by decide) hk) ?_
    | with_reducible refine path_startScrub _ (List.Subset.trans (by decide) hk) ?_
    | with_reducible refine path_tfbSend _ _ (List.Subset.trans (by decide) hk) ?_
    | with_reducible refine path_of_fst (by with_reducible assumption) ?_
    | with_reducible refine path_ite (fun _ => ?_) (fun _ => ?_)
    | with_reducible refine path_ite_fst (fun _ => ?_) (fun _ => ?_)
    | split
    | dsimp +zetaDelta only)

theorem path_mapChanged {ks : List Kind} {s0 s : State}
    (hk : [.spareGen, .spareTime] ⊆ ks) (h : Path ks s0 s) :
    Path ks s0 (State.mapChanged s) := by
  unfold State.mapChanged
  repeat' (first
    | with_reducible assumption
    | extract_lets
    | with_reducible refine path_of_fst (by with_reducible assumption) ?_
    | split
    | fail_if_no_progress (with_reducible refine path_set_spareTime _ (List.Subset.trans (by decide) hk) ?_)
    | fail_if_no_progress ((with_reducible refine path_mk ?_ (le_refl _) (Nat.le_succ _) id (fun _ => le_refl _) (fun _ h => h) (fun k hn => ?_)); rotate_right 1; (cases k <;> first | exact absurd (hk (by decide)) hn | rfl))
    | dsimp +zetaDelta only)

theorem path_freshSite {ks : List Kind} {s0 s : State} (i : Nat)
    (hk : [.sites, .mem, .hbm] ⊆ ks) (h : Path ks s0 s) :
    Path ks s0 (State.freshSite s i) := by
  unfold State.freshSite
  repeat' (first
    | with_reducible assumption
    | extract_lets
    | with_reducible refine path_modSite _ _ (List.Subset.trans (by decide) hk) ?_
    | with_reducible refine path_scrubWhere _ _ (List.Subset.trans (by decide) hk) ?_
    | with_reducible refine path_of_fst (by with_reducible assumption) ?_
    | split
    | dsimp +zetaDelta only)

theorem path_takeSpare {ks : List Kind} {s0 s : State} (failed : Nat) (st : Nat)
    (hk : [.errq, .parts, .queues, .sites, .siteState, .spareGen, .spareTime, .mem, .hbm, .streams, .ctr, .colls, .credits, .fetches, .xfers, .tfb, .boot, .outs, .free] ⊆ ks) (h : Path ks s0 s) :
    Path ks s0 (State.takeSpare s failed st) := by
  unfold State.takeSpare
  repeat' (first
    | with_reducible assumption
    | extract_lets
    | with_reducible refine path_freshSite _ (List.Subset.trans (by decide) hk) ?_
    | with_reducible refine path_mapChanged (List.Subset.trans (by decide) hk) ?_
    | with_reducible refine path_modRcv _ _ (List.Subset.trans (by decide) hk) ?_
    | with_reducible refine path_raise _ (List.Subset.trans (by decide) hk) ?_
    | with_reducible refine path_of_fst (by with_reducible assumption) ?_
    | with_reducible refine path_ite (fun _ => ?_) (fun _ => ?_)
    | with_reducible refine path_ite_fst (fun _ => ?_) (fun _ => ?_)
    | split
    | fail_if_no_progress (with_reducible refine path_set_siteState _ (List.Subset.trans (by decide) hk) ?_)
    | dsimp +zetaDelta only)

theorem path_spareTested {ks : List Kind} {s0 s : State} (site : Nat) (passed : Bool)
    (hk : [.vals, .errq, .parts, .queues, .sites, .siteState, .spareGen, .spareTime, .mem, .hbm, .streams, .ctr, .colls, .credits, .fetches, .xfers, .tfb, .boot, .outs, .free] ⊆ ks) (h : Path ks s0 s) :
    Path ks s0 (State.spareTested s site passed) := by
  unfold State.spareTested
  repeat' (first
    | with_reducible assumption
    | extract_lets
    | with_reducible refine path_count _ _ _ (List.Subset.trans (by decide) hk) ?_
    | with_reducible refine path_finishRollback _ (List.Subset.trans (by decide) hk) ?_
    | with_reducible refine path_freshSite _ (List.Subset.trans (by decide) hk) ?_
    | with_reducible refine path_mapChanged (List.Subset.trans (by decide) hk) ?_
    | with_reducible refine path_modRcv _ _ (List.Subset.trans (by decide) hk) ?_
    | with_reducible refine path_modSite _ _ (List.Subset.trans (by decide) hk) ?_
    | with_reducible refine path_progress _ (List.Subset.trans (by decide) hk) ?_
    | with_reducible refine path_raise _ (List.Subset.trans (by decide) hk) ?_
    | with_reducible refine path_takeSpare _ _ (List.Subset.trans (by decide) hk) ?_
    | with_reducible refine path_of_fst (by with_reducible assumption) ?_
    | with_reducible refine path_ite (fun _ => ?_) (fun _ => ?_)
    | with_reducible refine path_ite_fst (fun _ => ?_) (fun _ => ?_)
    | split
    | fail_if_no_progress (with_reducible refine path_set_siteState _ (List.Subset.trans (by decide) hk) ?_)
    | dsimp +zetaDelta only)

theorem path_clusterFailed {ks : List Kind} {s0 s : State} (site : Nat) (cause : Nat) (bypass : Bool)
    (hk : [.vals, .errq, .parts, .queues, .sites, .siteState, .spareGen, .spareTime, .mem, .hbm, .streams, .ctr, .colls, .credits, .fetches, .xfers, .tfb, .boot, .outs, .free] ⊆ ks) (h : Path ks s0 s) :
    Path ks s0 (State.clusterFailed s site cause bypass) := by
  unfold State.clusterFailed
  repeat' (first
    | with_reducible assumption
    | extract_lets
    | with_reducible refine path_beginRollback _ _ _ (List.Subset.trans (by decide) hk) ?_
    | with_reducible refine path_fenceAbort _ (List.Subset.trans (by decide) hk) ?_
    | with_reducible refine path_finishRollback _ (List.Subset.trans (by decide) hk) ?_
    | with_reducible refine path_freshSite _ (List.Subset.trans (by decide) hk) ?_
    | with_reducible refine path_modSite _ _ (List.Subset.trans (by decide) hk) ?_
    | with_reducible refine path_raise _ (List.Subset.trans (by decide) hk) ?_
    | with_reducible refine path_spareTested _ _ (List.Subset.trans (by decide) hk) ?_
    | with_reducible refine path_takeSpare _ _ (List.Subset.trans (by decide) hk) ?_
    | with_reducible refine path_of_fst (by with_reducible assumption) ?_
    | with_reducible refine path_ite (fun _ => ?_) (fun _ => ?_)
    | with_reducible refine path_ite_fst (fun _ => ?_) (fun _ => ?_)
    | split
    | dsimp +zetaDelta only)

theorem path_declareLost {ks : List Kind} {s0 s : State} (m : Nat) (first : Bool)
    (hk : [.vals, .log, .errq, .parts, .queues, .sites, .mem, .hbm, .streams, .ctr, .colls, .credits, .fetches, .xfers, .tfb, .nor, .boot, .outs, .free] ⊆ ks) (h : Path ks s0 s) :
    Path ks s0 (State.declareLost s m first) := by
  unfold State.declareLost
  repeat' (first
    | with_reducible assumption
    | extract_lets
    | with_reducible refine path_beginRollback _ _ _ (List.Subset.trans (by decide) hk) ?_
    | with_reducible refine path_dropHolder _ _ (List.Subset.trans (by decide) hk) ?_
    | with_reducible refine path_modPart _ _ (List.Subset.trans (by decide) hk) ?_
    | with_reducible refine path_modRcv _ _ (List.Subset.trans (by decide) hk) ?_
    | with_reducible refine path_moduleWrite _ _ _ (List.Subset.trans (by decide) hk) ?_
    | with_reducible refine path_raise _ (List.Subset.trans (by decide) hk) ?_
    | with_reducible refine path_tfbSend _ _ (List.Subset.trans (by decide) hk) ?_
    | with_reducible refine path_of_fst (by with_reducible assumption) ?_
    | with_reducible refine path_foldl _ _ (fun _ _ _ => ?_) _ ?_
    | with_reducible refine path_foldl_fst _ _ (fun _ _ _ => ?_) _ ?_
    | with_reducible refine path_ite (fun _ => ?_) (fun _ => ?_)
    | with_reducible refine path_ite_fst (fun _ => ?_) (fun _ => ?_)
    | split
    | dsimp +zetaDelta only)

end Sys2Proof.Laws
end

