-- ==== Sys2Proof/Laws/PathMesh.lean ====
section
/-!
SUPPORT. What the operations of Machine/Mesh.lean can do to the state: one path for each.
-/

set_option linter.all false

namespace Sys2Proof.Laws

open Sys2Proof Sys2Proof.Machine Sys2Proof.Safety

theorem path_modMesh {ks : List Kind} {s0 s : State} (f : Mesh → Mesh)
    (hk : [.boot] ⊆ ks) (h : Path ks s0 s) :
    Path ks s0 (State.modMesh s f) := by
  unfold State.modMesh
  repeat' (first
    | with_reducible assumption
    | extract_lets
    | with_reducible refine path_of_fst (by with_reducible assumption) ?_
    | split
    | fail_if_no_progress (with_reducible refine path_set_boot _ (List.Subset.trans (by decide) hk) ?_)
    | dsimp +zetaDelta only)

theorem path_dropPacket {ks : List Kind} {s0 s : State} (i : Nat)
    (hk : [.boot] ⊆ ks) (h : Path ks s0 s) :
    Path ks s0 (State.dropPacket s i) := by
  unfold State.dropPacket
  repeat' (first
    | with_reducible assumption
    | extract_lets
    | with_reducible refine path_modMesh _ (List.Subset.trans (by decide) hk) ?_
    | with_reducible refine path_of_fst (by with_reducible assumption) ?_
    | split
    | dsimp +zetaDelta only)

theorem path_takePacket {ks : List Kind} {s0 s : State} (i : Nat) (h' : MeshHdr)
    (hk : [.log, .boot] ⊆ ks) (h : Path ks s0 s) :
    Path ks s0 (State.takePacket s i h') := by
  unfold State.takePacket
  repeat' (first
    | with_reducible assumption
    | extract_lets
    | with_reducible refine path_dropPacket _ (List.Subset.trans (by decide) hk) ?_
    | with_reducible refine path_logRecord _ _ (List.Subset.trans (by decide) hk) ?_
    | with_reducible refine path_modMesh _ (List.Subset.trans (by decide) hk) ?_
    | with_reducible refine path_of_fst (by with_reducible assumption) ?_
    | with_reducible refine path_ite (fun _ => ?_) (fun _ => ?_)
    | with_reducible refine path_ite_fst (fun _ => ?_) (fun _ => ?_)
    | split
    | dsimp +zetaDelta only)

theorem path_sendPacket {ks : List Kind} {s0 s : State} (src : Nat) (dst : Nat) (p : Nat) (addr : Nat) (kind : Nat)
    (hk : [.log, .boot] ⊆ ks) (h : Path ks s0 s) :
    Path ks s0 (State.sendPacket s src dst p addr kind) := by
  unfold State.sendPacket
  repeat' (first
    | with_reducible assumption
    | extract_lets
    | with_reducible refine path_dropPacket _ (List.Subset.trans (by decide) hk) ?_
    | with_reducible refine path_modMesh _ (List.Subset.trans (by decide) hk) ?_
    | with_reducible refine path_takePacket _ _ (List.Subset.trans (by decide) hk) ?_
    | with_reducible refine path_of_fst (by with_reducible assumption) ?_
    | with_reducible refine path_ite (fun _ => ?_) (fun _ => ?_)
    | with_reducible refine path_ite_fst (fun _ => ?_) (fun _ => ?_)
    | split
    | dsimp +zetaDelta only)

theorem path_movePackets {ks : List Kind} {s0 s : State} (p : Nat) (n : Nat) (reads : List Nat) (writes : List Nat)
    (hk : [.log, .boot] ⊆ ks) (h : Path ks s0 s) :
    Path ks s0 (State.movePackets s p n reads writes) := by
  unfold State.movePackets
  repeat' (first
    | with_reducible assumption
    | extract_lets
    | with_reducible refine path_sendPacket _ _ _ _ _ (List.Subset.trans (by decide) hk) ?_
    | with_reducible refine path_of_fst (by with_reducible assumption) ?_
    | with_reducible refine path_foldl _ _ (fun _ _ _ => ?_) _ ?_
    | with_reducible refine path_foldl_fst _ _ (fun _ _ _ => ?_) _ ?_
    | with_reducible refine path_ite (fun _ => ?_) (fun _ => ?_)
    | with_reducible refine path_ite_fst (fun _ => ?_) (fun _ => ?_)
    | split
    | dsimp +zetaDelta only)

end Sys2Proof.Laws
end

