-- ==== Sys2Proof/Laws/PathEpilogue.lean ====
section
/-!
SUPPORT. What the operations of Machine/Epilogue.lean can do to the state: one path for each.
-/

set_option linter.all false

namespace Sys2Proof.Laws

open Sys2Proof Sys2Proof.Machine Sys2Proof.Safety

theorem path_spend {ks : List Kind} {s0 s : State} (n : Nat)
    (hk : [.free] ⊆ ks) (h : Path ks s0 s) :
    Path ks s0 (State.spend s n) := by
  unfold State.spend
  repeat' (first
    | with_reducible assumption
    | extract_lets
    | with_reducible refine path_of_fst (by with_reducible assumption) ?_
    | split
    | fail_if_no_progress (with_reducible refine path_set_free _ (List.Subset.trans (by decide) hk) ?_)
    | dsimp +zetaDelta only)

theorem path_storeElems {ks : List Kind} {s0 s : State} (p : Nat) (a : Nat) (w : Nat) (es : List Nat)
    (hk : [.mem, .hbm, .ctr] ⊆ ks) (h : Path ks s0 s) :
    Path ks s0 (State.storeElems s p a w es) := by
  unfold State.storeElems
  repeat' (first
    | with_reducible assumption
    | extract_lets
    | with_reducible refine path_store _ _ _ (List.Subset.trans (by decide) hk) ?_
    | with_reducible refine path_of_fst (by with_reducible assumption) ?_
    | with_reducible refine path_ite (fun _ => ?_) (fun _ => ?_)
    | with_reducible refine path_ite_fst (fun _ => ?_) (fun _ => ?_)
    | split
    | dsimp +zetaDelta only)

theorem path_storeCast {ks : List Kind} {s0 s : State} (p : Nat) (a : Nat) (code : Nat) (base : Nat) (scale : Nat) (c : Cast)
    (hk : [.mem, .hbm, .ctr] ⊆ ks) (h : Path ks s0 s) :
    Path ks s0 (State.storeCast s p a code base scale c) := by
  unfold State.storeCast
  repeat' (first
    | with_reducible assumption
    | extract_lets
    | with_reducible refine path_store _ _ _ (List.Subset.trans (by decide) hk) ?_
    | with_reducible refine path_storeElems _ _ _ _ (List.Subset.trans (by decide) hk) ?_
    | with_reducible refine path_of_fst (by with_reducible assumption) ?_
    | with_reducible refine path_foldl _ _ (fun _ _ _ => ?_) _ ?_
    | with_reducible refine path_foldl_fst _ _ (fun _ _ _ => ?_) _ ?_
    | split
    | dsimp +zetaDelta only)

theorem path_countAt {ks : List Kind} {s0 s : State} (p : Nat) (a : Nat) (chCtr : Nat) (cacheCtr : Nat) (n : Nat)
    (hk : [.ctr] ⊆ ks) (h : Path ks s0 s) :
    Path ks s0 (State.countAt s p a chCtr cacheCtr n) := by
  unfold State.countAt
  repeat' (first
    | with_reducible assumption
    | extract_lets
    | with_reducible refine path_count _ _ _ (List.Subset.trans (by decide) hk) ?_
    | with_reducible refine path_of_fst (by with_reducible assumption) ?_
    | with_reducible refine path_ite (fun _ => ?_) (fun _ => ?_)
    | with_reducible refine path_ite_fst (fun _ => ?_) (fun _ => ?_)
    | split
    | dsimp +zetaDelta only)

theorem path_atomicLine {ks : List Kind} {s0 s : State} (p : Nat) (line : Nat) (code : Nat) (stochastic : Bool) (vs : List (Option Nat))
    (hk : [.mem, .hbm, .ctr, .free] ⊆ ks) (h : Path ks s0 s) :
    Path ks s0 (State.atomicLine s p line code stochastic vs) := by
  unfold State.atomicLine
  repeat' (first
    | with_reducible assumption
    | extract_lets
    | with_reducible refine path_countAt _ _ _ _ _ (List.Subset.trans (by decide) hk) ?_
    | with_reducible refine path_spend _ (List.Subset.trans (by decide) hk) ?_
    | with_reducible refine path_wr _ _ _ (List.Subset.trans (by decide) hk) ?_
    | with_reducible refine path_of_fst (by with_reducible assumption) ?_
    | with_reducible refine path_foldl _ _ (fun _ _ _ => ?_) _ ?_
    | with_reducible refine path_foldl_fst _ _ (fun _ _ _ => ?_) _ ?_
    | with_reducible refine path_ite (fun _ => ?_) (fun _ => ?_)
    | with_reducible refine path_ite_fst (fun _ => ?_) (fun _ => ?_)
    | split
    | fail_if_no_progress ((with_reducible refine path_mk ?_ (le_refl _) (le_refl _) id (fun _ => le_refl _) (fun _ hc => ?_) (fun k hn => ?_)); rotate_right 1; (cases k <;> first | exact absurd (hk (by decide)) hn | rfl); rotate_right 1; (first | exact hc | simpa using hc))
    | dsimp +zetaDelta only)

theorem path_pairAddAt {ks : List Kind} {s0 s : State} (p : Nat) (a : Nat) (sum : Nat) (abs : Nat)
    (hk : [.mem, .hbm, .ctr] ⊆ ks) (h : Path ks s0 s) :
    Path ks s0 (State.pairAddAt s p a sum abs) := by
  unfold State.pairAddAt
  repeat' (first
    | with_reducible assumption
    | extract_lets
    | with_reducible refine path_countAt _ _ _ _ _ (List.Subset.trans (by decide) hk) ?_
    | with_reducible refine path_wr _ _ _ (List.Subset.trans (by decide) hk) ?_
    | with_reducible refine path_of_fst (by with_reducible assumption) ?_
    | split
    | dsimp +zetaDelta only)

theorem path_addPairs {ks : List Kind} {s0 s : State} (p : Nat) (a : Nat) (w : Nat) (base : Nat) (cap : Nat) (vs : List Nat)
    (hk : [.mem, .hbm, .ctr] ⊆ ks) (h : Path ks s0 s) :
    Path ks s0 (State.addPairs s p a w base cap vs) := by
  unfold State.addPairs
  repeat' (first
    | with_reducible assumption
    | extract_lets
    | with_reducible refine path_pairAddAt _ _ _ _ (List.Subset.trans (by decide) hk) ?_
    | with_reducible refine path_of_fst (by with_reducible assumption) ?_
    | with_reducible refine path_foldl _ _ (fun _ _ _ => ?_) _ ?_
    | with_reducible refine path_foldl_fst _ _ (fun _ _ _ => ?_) _ ?_
    | split
    | dsimp +zetaDelta only)

theorem path_loadedRow {ks : List Kind} {s0 s : State} (p : Nat) (a : Nat) (code : Nat) (n : Nat) (base : Nat) (scale : Nat)
    (hk : [.ctr] ⊆ ks) (h : Path ks s0 s) :
    Path ks s0 (State.loadedRow s p a code n base scale) := by
  unfold State.loadedRow
  repeat' (first
    | with_reducible assumption
    | extract_lets
    | with_reducible refine path_loaded _ _ _ (List.Subset.trans (by decide) hk) ?_
    | with_reducible refine path_of_fst (by with_reducible assumption) ?_
    | with_reducible refine path_ite (fun _ => ?_) (fun _ => ?_)
    | with_reducible refine path_ite_fst (fun _ => ?_) (fun _ => ?_)
    | split
    | dsimp +zetaDelta only)

theorem path_countX {ks : List Kind} {s0 s : State} (p : Nat) (v : TView) (j : Nat) (a : Nat) (m : Nat) (n : Nat)
    (hk : [.ctr] ⊆ ks) (h : Path ks s0 s) :
    Path ks s0 (State.countX s p v j a m n) := by
  unfold State.countX
  repeat' (first
    | with_reducible assumption
    | extract_lets
    | with_reducible refine path_loadedRow _ _ _ _ _ _ (List.Subset.trans (by decide) hk) ?_
    | with_reducible refine path_of_fst (by with_reducible assumption) ?_
    | with_reducible refine path_ite (fun _ => ?_) (fun _ => ?_)
    | with_reducible refine path_ite_fst (fun _ => ?_) (fun _ => ?_)
    | split
    | dsimp +zetaDelta only)

theorem path_epilogueRow {ks : List Kind} {s0 s : State} (p : Nat) (v : TView) (site : Nat) (j : Nat) (a : Nat) (m : Nat) (vals : List Nat)
    (hk : [.mem, .hbm, .ctr, .free] ⊆ ks) (h : Path ks s0 s) :
    Path ks s0 (State.epilogueRow s p v site j a m vals) := by
  unfold State.epilogueRow
  repeat' (first
    | with_reducible assumption
    | extract_lets
    | with_reducible refine path_addPairs _ _ _ _ _ _ (List.Subset.trans (by decide) hk) ?_
    | with_reducible refine path_atomicLine _ _ _ _ _ (List.Subset.trans (by decide) hk) ?_
    | with_reducible refine path_count _ _ _ (List.Subset.trans (by decide) hk) ?_
    | with_reducible refine path_countX _ _ _ _ _ _ (List.Subset.trans (by decide) hk) ?_
    | with_reducible refine path_spend _ (List.Subset.trans (by decide) hk) ?_
    | with_reducible refine path_storeCast _ _ _ _ _ _ (List.Subset.trans (by decide) hk) ?_
    | with_reducible refine path_of_fst (by with_reducible assumption) ?_
    | with_reducible refine path_foldl _ _ (fun _ _ _ => ?_) _ ?_
    | with_reducible refine path_foldl_fst _ _ (fun _ _ _ => ?_) _ ?_
    | with_reducible refine path_ite (fun _ => ?_) (fun _ => ?_)
    | with_reducible refine path_ite_fst (fun _ => ?_) (fun _ => ?_)
    | split
    | dsimp +zetaDelta only)

theorem path_fillEmpty {ks : List Kind} {s0 s : State} (p : Nat) (v : TView)
    (hk : [.mem, .hbm, .ctr] ⊆ ks) (h : Path ks s0 s) :
    Path ks s0 (State.fillEmpty s p v) := by
  unfold State.fillEmpty
  repeat' (first
    | with_reducible assumption
    | extract_lets
    | with_reducible refine path_storeCast _ _ _ _ _ _ (List.Subset.trans (by decide) hk) ?_
    | with_reducible refine path_of_fst (by with_reducible assumption) ?_
    | with_reducible refine path_foldl _ _ (fun _ _ _ => ?_) _ ?_
    | with_reducible refine path_foldl_fst _ _ (fun _ _ _ => ?_) _ ?_
    | with_reducible refine path_ite (fun _ => ?_) (fun _ => ?_)
    | with_reducible refine path_ite_fst (fun _ => ?_) (fun _ => ?_)
    | split
    | dsimp +zetaDelta only)

end Sys2Proof.Laws
end

