-- ==== Sys2Proof/Laws/PathRunControl.lean ====
section
/-!
SUPPORT. What the operations of Machine/RunControl.lean can do to the state: one path for each.
-/

set_option linter.all false

namespace Sys2Proof.Laws

open Sys2Proof Sys2Proof.Machine Sys2Proof.Safety

theorem path_rebind {ks : List Kind} {s0 s : State} (p : Nat)
    (hk : [.parts, .kports, .outs] ⊆ ks) (h : Path ks s0 s) :
    Path ks s0 (State.rebind s p) := by
  unfold State.rebind
  repeat' (first
    | with_reducible assumption
    | extract_lets
    | with_reducible refine path_sendBind _ _ _ _ (List.Subset.trans (by decide) hk) ?_
    | with_reducible refine path_of_fst (by with_reducible assumption) ?_
    | with_reducible refine path_ite (fun _ => ?_) (fun _ => ?_)
    | with_reducible refine path_ite_fst (fun _ => ?_) (fun _ => ?_)
    | split
    | dsimp +zetaDelta only)

theorem path_wake {ks : List Kind} {s0 s : State} (p : Nat)
    (hk : [.parts, .sites, .power] ⊆ ks) (h : Path ks s0 s) :
    Path ks s0 (State.wake s p) := by
  unfold State.wake
  repeat' (first
    | with_reducible assumption
    | extract_lets
    | with_reducible refine path_modPart _ _ (List.Subset.trans (by decide) hk) ?_
    | with_reducible refine path_modSite _ _ (List.Subset.trans (by decide) hk) ?_
    | with_reducible refine path_of_fst (by with_reducible assumption) ?_
    | with_reducible refine path_foldl _ _ (fun _ _ _ => ?_) _ ?_
    | with_reducible refine path_foldl_fst _ _ (fun _ _ _ => ?_) _ ?_
    | with_reducible refine path_ite (fun _ => ?_) (fun _ => ?_)
    | with_reducible refine path_ite_fst (fun _ => ?_) (fun _ => ?_)
    | split
    | fail_if_no_progress (with_reducible refine path_set_power _ (List.Subset.trans (by decide) hk) ?_)
    | dsimp +zetaDelta only)

theorem path_initLedger {ks : List Kind} {s0 s : State} (p : Nat)
    (hk : [.mem, .hbm] ⊆ ks) (h : Path ks s0 s) :
    Path ks s0 (State.initLedger s p) := by
  unfold State.initLedger
  repeat' (first
    | with_reducible assumption
    | extract_lets
    | with_reducible refine path_wr _ _ _ (List.Subset.trans (by decide) hk) ?_
    | with_reducible refine path_of_fst (by with_reducible assumption) ?_
    | with_reducible refine path_ite (fun _ => ?_) (fun _ => ?_)
    | with_reducible refine path_ite_fst (fun _ => ?_) (fun _ => ?_)
    | split
    | dsimp +zetaDelta only)

theorem path_freshRings {ks : List Kind} {s0 s : State} (p : Nat)
    (hk : [.parts, .mem, .hbm] ⊆ ks) (h : Path ks s0 s) :
    Path ks s0 (State.freshRings s p) := by
  unfold State.freshRings
  repeat' (first
    | with_reducible assumption
    | extract_lets
    | with_reducible refine path_armLease _ (List.Subset.trans (by decide) hk) ?_
    | with_reducible refine path_modLease _ _ (List.Subset.trans (by decide) hk) ?_
    | with_reducible refine path_modRings _ _ (List.Subset.trans (by decide) hk) ?_
    | with_reducible refine path_syncHeader _ (List.Subset.trans (by decide) hk) ?_
    | with_reducible refine path_wr _ _ _ (List.Subset.trans (by decide) hk) ?_
    | with_reducible refine path_of_fst (by with_reducible assumption) ?_
    | split
    | dsimp +zetaDelta only)

theorem path_takeModes {ks : List Kind} {s0 s : State} (p : Nat)
    (hk : [.parts] ⊆ ks) (h : Path ks s0 s) :
    Path ks s0 (State.takeModes s p) := by
  unfold State.takeModes
  repeat' (first
    | with_reducible assumption
    | extract_lets
    | with_reducible refine path_modPart _ _ (List.Subset.trans (by decide) hk) ?_
    | with_reducible refine path_of_fst (by with_reducible assumption) ?_
    | split
    | dsimp +zetaDelta only)

theorem path_publishPlan {ks : List Kind} {s0 s : State} (p : Nat)
    (hk : [.vals, .parts, .mem, .hbm] ⊆ ks) (h : Path ks s0 s) :
    Path ks s0 (State.publishPlan s p) := by
  unfold State.publishPlan
  repeat' (first
    | with_reducible assumption
    | extract_lets
    | with_reducible refine path_selectPlan _ _ _ (List.Subset.trans (by decide) hk) ?_
    | with_reducible refine path_of_fst (by with_reducible assumption) ?_
    | with_reducible refine path_ite (fun _ => ?_) (fun _ => ?_)
    | with_reducible refine path_ite_fst (fun _ => ?_) (fun _ => ?_)
    | split
    | dsimp +zetaDelta only)

theorem path_beginRun {ks : List Kind} {s0 s : State} (p : Nat) (x : Option Sachet)
    (hk : [.vals, .log, .parts, .sites, .mem, .hbm, .pendingSrc, .nor, .outs] ⊆ ks) (h : Path ks s0 s) :
    Path ks s0 (State.beginRun s p x) := by
  unfold State.beginRun
  repeat' (first
    | with_reducible assumption
    | extract_lets
    | with_reducible refine path_freshRings _ (List.Subset.trans (by decide) hk) ?_
    | with_reducible refine path_initLedger _ (List.Subset.trans (by decide) hk) ?_
    | with_reducible refine path_modPart _ _ (List.Subset.trans (by decide) hk) ?_
    | with_reducible refine path_moduleWrite _ _ _ (List.Subset.trans (by decide) hk) ?_
    | with_reducible refine path_publishPlan _ (List.Subset.trans (by decide) hk) ?_
    | with_reducible refine path_restoreSchedule _ _ _ (List.Subset.trans (by decide) hk) ?_
    | with_reducible refine path_setPState _ _ (List.Subset.trans (by decide) hk) ?_
    | with_reducible refine path_takeModes _ (List.Subset.trans (by decide) hk) ?_
    | with_reducible refine path_wideAll _ (List.Subset.trans (by decide) hk) ?_
    | with_reducible refine path_of_fst (by with_reducible assumption) ?_
    | with_reducible refine path_ite (fun _ => ?_) (fun _ => ?_)
    | with_reducible refine path_ite_fst (fun _ => ?_) (fun _ => ?_)
    | split
    | dsimp +zetaDelta only)

theorem path_proceedStart {ks : List Kind} {s0 s : State} (p : Nat)
    (hk : [.vals, .log, .parts, .sites, .mem, .hbm, .pendingSrc, .nor, .outs] ⊆ ks) (h : Path ks s0 s) :
    Path ks s0 (State.proceedStart s p) := by
  unfold State.proceedStart
  repeat' (first
    | with_reducible assumption
    | extract_lets
    | with_reducible refine path_beginRun _ _ (List.Subset.trans (by decide) hk) ?_
    | with_reducible refine path_setPState _ _ (List.Subset.trans (by decide) hk) ?_
    | with_reducible refine path_of_fst (by with_reducible assumption) ?_
    | with_reducible refine path_ite (fun _ => ?_) (fun _ => ?_)
    | with_reducible refine path_ite_fst (fun _ => ?_) (fun _ => ?_)
    | split
    | dsimp +zetaDelta only)

theorem path_beginScrub {ks : List Kind} {s0 s : State} (p : Nat) (next : AfterScrub)
    (hk : [.parts, .outs] ⊆ ks) (h : Path ks s0 s) :
    Path ks s0 (State.beginScrub s p next) := by
  unfold State.beginScrub
  repeat' (first
    | with_reducible assumption
    | extract_lets
    | with_reducible refine path_modPart _ _ (List.Subset.trans (by decide) hk) ?_
    | with_reducible refine path_setPState _ _ (List.Subset.trans (by decide) hk) ?_
    | with_reducible refine path_of_fst (by with_reducible assumption) ?_
    | split
    | dsimp +zetaDelta only)

theorem path_start {ks : List Kind} {s0 s : State} (p : Nat) (route : Nat)
    (hk : [.vals, .log, .parts, .sites, .mem, .hbm, .pendingSrc, .kports, .nor, .power, .outs] ⊆ ks) (h : Path ks s0 s) :
    Path ks s0 (State.start s p route).1 := by
  unfold State.start
  repeat' (first
    | with_reducible assumption
    | extract_lets
    | with_reducible refine path_beginScrub _ _ (List.Subset.trans (by decide) hk) ?_
    | with_reducible refine path_logEvent _ _ _ _ (List.Subset.trans (by decide) hk) ?_
    | with_reducible refine path_modRcv _ _ (List.Subset.trans (by decide) hk) ?_
    | with_reducible refine path_proceedStart _ (List.Subset.trans (by decide) hk) ?_
    | with_reducible refine path_rebind _ (List.Subset.trans (by decide) hk) ?_
    | with_reducible refine path_wake _ (List.Subset.trans (by decide) hk) ?_
    | with_reducible refine path_of_fst (by with_reducible assumption) ?_
    | with_reducible refine path_ite (fun _ => ?_) (fun _ => ?_)
    | with_reducible refine path_ite_fst (fun _ => ?_) (fun _ => ?_)
    | split
    | dsimp +zetaDelta only)

theorem path_drain {ks : List Kind} {s0 s : State} (p : Nat)
    (hk : [.errq, .parts, .queues, .sites, .mem, .hbm, .streams, .ctr, .colls, .credits, .fetches, .xfers, .tfb, .boot, .outs, .free] ⊆ ks) (h : Path ks s0 s) :
    Path ks s0 (State.drain s p).1 := by
  unfold State.drain
  repeat' (first
    | with_reducible assumption
    | extract_lets
    | with_reducible refine path_closingStreams _ _ (List.Subset.trans (by decide) hk) ?_
    | with_reducible refine path_modRings _ _ (List.Subset.trans (by decide) hk) ?_
    | with_reducible refine path_progress _ (List.Subset.trans (by decide) hk) ?_
    | with_reducible refine path_setPState _ _ (List.Subset.trans (by decide) hk) ?_
    | with_reducible refine path_setRunTo _ _ (List.Subset.trans (by decide) hk) ?_
    | with_reducible refine path_of_fst (by with_reducible assumption) ?_
    | with_reducible refine path_ite (fun _ => ?_) (fun _ => ?_)
    | with_reducible refine path_ite_fst (fun _ => ?_) (fun _ => ?_)
    | split
    | dsimp +zetaDelta only)

theorem path_abort {ks : List Kind} {s0 s : State} (p : Nat)
    (hk : [.parts, .queues, .sites, .mem, .hbm, .streams, .ctr, .colls, .credits, .fetches, .xfers, .tfb, .outs, .free] ⊆ ks) (h : Path ks s0 s) :
    Path ks s0 (State.abort s p).1 := by
  unfold State.abort
  repeat' (first
    | with_reducible assumption
    | extract_lets
    | with_reducible refine path_abortPart _ (List.Subset.trans (by decide) hk) ?_
    | with_reducible refine path_of_fst (by with_reducible assumption) ?_
    | with_reducible refine path_ite (fun _ => ?_) (fun _ => ?_)
    | with_reducible refine path_ite_fst (fun _ => ?_) (fun _ => ?_)
    | split
    | dsimp +zetaDelta only)

theorem path_runReclaim {ks : List Kind} {s0 s : State} (p : Nat)
    (hk : [.parts, .queues, .sites, .mem, .hbm, .streams, .ctr, .colls, .credits, .fetches, .xfers, .tfb, .outs, .free] ⊆ ks) (h : Path ks s0 s) :
    Path ks s0 (State.runReclaim s p).1 := by
  unfold State.runReclaim
  repeat' (first
    | with_reducible assumption
    | extract_lets
    | with_reducible refine path_reclaim _ _ (List.Subset.trans (by decide) hk) ?_
    | with_reducible refine path_of_fst (by with_reducible assumption) ?_
    | with_reducible refine path_ite (fun _ => ?_) (fun _ => ?_)
    | with_reducible refine path_ite_fst (fun _ => ?_) (fun _ => ?_)
    | split
    | dsimp +zetaDelta only)

theorem path_runScrub {ks : List Kind} {s0 s : State} (p : Nat)
    (hk : [.parts, .sites, .power, .outs] ⊆ ks) (h : Path ks s0 s) :
    Path ks s0 (State.runScrub s p).1 := by
  unfold State.runScrub
  repeat' (first
    | with_reducible assumption
    | extract_lets
    | with_reducible refine path_beginScrub _ _ (List.Subset.trans (by decide) hk) ?_
    | with_reducible refine path_wake _ (List.Subset.trans (by decide) hk) ?_
    | with_reducible refine path_of_fst (by with_reducible assumption) ?_
    | with_reducible refine path_ite (fun _ => ?_) (fun _ => ?_)
    | with_reducible refine path_ite_fst (fun _ => ?_) (fun _ => ?_)
    | split
    | dsimp +zetaDelta only)

theorem path_clearSafeStop {ks : List Kind} {s0 s : State} (p : Nat)
    (hk : [.parts, .mem, .hbm, .tfb, .outs] ⊆ ks) (h : Path ks s0 s) :
    Path ks s0 (State.clearSafeStop s p).1 := by
  unfold State.clearSafeStop
  repeat' (first
    | with_reducible assumption
    | extract_lets
    | with_reducible refine path_enterIdle _ (List.Subset.trans (by decide) hk) ?_
    | with_reducible refine path_modPart _ _ (List.Subset.trans (by decide) hk) ?_
    | with_reducible refine path_of_fst (by with_reducible assumption) ?_
    | with_reducible refine path_ite (fun _ => ?_) (fun _ => ?_)
    | with_reducible refine path_ite_fst (fun _ => ?_) (fun _ => ?_)
    | split
    | dsimp +zetaDelta only)

theorem path_sampleHeartbeat {ks : List Kind} {s0 s : State} (p : Nat)
    (hk : [.parts, .mem, .hbm] ⊆ ks) (h : Path ks s0 s) :
    Path ks s0 (State.sampleHeartbeat s p) := by
  unfold State.sampleHeartbeat
  repeat' (first
    | with_reducible assumption
    | extract_lets
    | with_reducible refine path_modLease _ _ (List.Subset.trans (by decide) hk) ?_
    | with_reducible refine path_modPart _ _ (List.Subset.trans (by decide) hk) ?_
    | with_reducible refine path_syncHeader _ (List.Subset.trans (by decide) hk) ?_
    | with_reducible refine path_of_fst (by with_reducible assumption) ?_
    | with_reducible refine path_ite (fun _ => ?_) (fun _ => ?_)
    | with_reducible refine path_ite_fst (fun _ => ?_) (fun _ => ?_)
    | split
    | dsimp +zetaDelta only)

theorem path_loseLease {ks : List Kind} {s0 s : State} (p : Nat) (cause : Nat)
    (hk : [.errq, .parts, .queues, .sites, .mem, .hbm, .streams, .ctr, .colls, .credits, .fetches, .xfers, .tfb, .boot, .outs, .free] ⊆ ks) (h : Path ks s0 s) :
    Path ks s0 (State.loseLease s p cause) := by
  unfold State.loseLease
  repeat' (first
    | with_reducible assumption
    | extract_lets
    | with_reducible refine path_modLease _ _ (List.Subset.trans (by decide) hk) ?_
    | with_reducible refine path_modRings _ _ (List.Subset.trans (by decide) hk) ?_
    | with_reducible refine path_out _ (List.Subset.trans (by decide) hk) ?_
    | with_reducible refine path_progress _ (List.Subset.trans (by decide) hk) ?_
    | with_reducible refine path_raise _ (List.Subset.trans (by decide) hk) ?_
    | with_reducible refine path_setPState _ _ (List.Subset.trans (by decide) hk) ?_
    | with_reducible refine path_setRunTo _ _ (List.Subset.trans (by decide) hk) ?_
    | with_reducible refine path_syncHeader _ (List.Subset.trans (by decide) hk) ?_
    | with_reducible refine path_of_fst (by with_reducible assumption) ?_
    | with_reducible refine path_ite (fun _ => ?_) (fun _ => ?_)
    | with_reducible refine path_ite_fst (fun _ => ?_) (fun _ => ?_)
    | split
    | dsimp +zetaDelta only)

theorem path_handover {ks : List Kind} {s0 s : State} (p : Nat)
    (hk : [.vals, .log, .errq, .parts, .queues, .sites, .mem, .hbm, .streams, .ctr, .colls, .credits, .fetches, .xfers, .pendingSrc, .tfb, .nor, .boot, .outs, .free] ⊆ ks) (h : Path ks s0 s) :
    Path ks s0 (State.handover s p) := by
  unfold State.handover
  repeat' (first
    | with_reducible assumption
    | extract_lets
    | with_reducible refine path_count _ _ _ (List.Subset.trans (by decide) hk) ?_
    | with_reducible refine path_freshRings _ (List.Subset.trans (by decide) hk) ?_
    | with_reducible refine path_leaveGroup _ (List.Subset.trans (by decide) hk) ?_
    | with_reducible refine path_modPart _ _ (List.Subset.trans (by decide) hk) ?_
    | with_reducible refine path_modRings _ _ (List.Subset.trans (by decide) hk) ?_
    | with_reducible refine path_moduleWrite _ _ _ (List.Subset.trans (by decide) hk) ?_
    | with_reducible refine path_note _ _ (List.Subset.trans (by decide) hk) ?_
    | with_reducible refine path_phaseDone _ (List.Subset.trans (by decide) hk) ?_
    | with_reducible refine path_publish _ (List.Subset.trans (by decide) hk) ?_
    | with_reducible refine path_publishPlan _ (List.Subset.trans (by decide) hk) ?_
    | with_reducible refine path_setPState _ _ (List.Subset.trans (by decide) hk) ?_
    | with_reducible refine path_takeModes _ (List.Subset.trans (by decide) hk) ?_
    | with_reducible refine path_wideAll _ (List.Subset.trans (by decide) hk) ?_
    | with_reducible refine path_wr _ _ _ (List.Subset.trans (by decide) hk) ?_
    | with_reducible refine path_of_fst (by with_reducible assumption) ?_
    | with_reducible refine path_ite (fun _ => ?_) (fun _ => ?_)
    | with_reducible refine path_ite_fst (fun _ => ?_) (fun _ => ?_)
    | split
    | fail_if_no_progress (with_reducible refine path_set_ctr _ (List.Subset.trans (by decide) hk) ?_)
    | dsimp +zetaDelta only)

theorem path_clearPartition {ks : List Kind} {s0 s : State} (p : Nat)
    (hk : [.sites, .mem, .hbm, .sec] ⊆ ks) (h : Path ks s0 s) :
    Path ks s0 (State.clearPartition s p) := by
  unfold State.clearPartition
  repeat' (first
    | with_reducible assumption
    | extract_lets
    | with_reducible refine path_modSite _ _ (List.Subset.trans (by decide) hk) ?_
    | with_reducible refine path_scrubPart _ (List.Subset.trans (by decide) hk) ?_
    | with_reducible refine path_scrubWhere _ _ (List.Subset.trans (by decide) hk) ?_
    | with_reducible refine path_of_fst (by with_reducible assumption) ?_
    | with_reducible refine path_foldl _ _ (fun _ _ _ => ?_) _ ?_
    | with_reducible refine path_foldl_fst _ _ (fun _ _ _ => ?_) _ ?_
    | split
    | fail_if_no_progress (with_reducible refine path_set_sec _ (List.Subset.trans (by decide) hk) ?_)
    | dsimp +zetaDelta only)

end Sys2Proof.Laws
end

