-- ==== Sys2Proof/Laws/PathScheduler.lean ====
section
/-!
SUPPORT. What the operations of Machine/Scheduler.lean can do to the state: one path for each.
-/

set_option linter.all false

namespace Sys2Proof.Laws

open Sys2Proof Sys2Proof.Machine Sys2Proof.Safety

theorem path_acceptList {ks : List Kind} {s0 s : State} (p : Nat) (x : ListRec)
    (hk : [.parts] ⊆ ks) (h : Path ks s0 s) :
    Path ks s0 (State.acceptList s p x) := by
  unfold State.acceptList
  repeat' (first
    | with_reducible assumption
    | extract_lets
    | with_reducible refine path_modPart _ _ (List.Subset.trans (by decide) hk) ?_
    | with_reducible refine path_of_fst (by with_reducible assumption) ?_
    | split
    | dsimp +zetaDelta only)

theorem path_consume {ks : List Kind} {s0 s : State} (p : Nat)
    (hk : [.parts, .mem, .hbm, .outs] ⊆ ks) (h : Path ks s0 s) :
    Path ks s0 (State.consume s p) := by
  unfold State.consume
  repeat' (first
    | with_reducible assumption
    | extract_lets
    | with_reducible refine path_acceptList _ _ (List.Subset.trans (by decide) hk) ?_
    | with_reducible refine path_modRings _ _ (List.Subset.trans (by decide) hk) ?_
    | with_reducible refine path_refuseList _ _ _ _ _ _ (List.Subset.trans (by decide) hk) ?_
    | with_reducible refine path_syncHeader _ (List.Subset.trans (by decide) hk) ?_
    | with_reducible refine path_of_fst (by with_reducible assumption) ?_
    | with_reducible refine path_ite (fun _ => ?_) (fun _ => ?_)
    | with_reducible refine path_ite_fst (fun _ => ?_) (fun _ => ?_)
    | split
    | dsimp +zetaDelta only)

theorem path_enqueueCmd {ks : List Kind} {s0 s : State} (r : QRef) (c : Cmd)
    (hk : [.parts, .queues] ⊆ ks) (h : Path ks s0 s) :
    Path ks s0 (State.enqueueCmd s r c) := by
  unfold State.enqueueCmd
  repeat' (first
    | with_reducible assumption
    | extract_lets
    | with_reducible refine path_modCmd _ _ (List.Subset.trans (by decide) hk) ?_
    | with_reducible refine path_modQueue _ _ _ (List.Subset.trans (by decide) hk) ?_
    | with_reducible refine path_of_fst (by with_reducible assumption) ?_
    | split
    | dsimp +zetaDelta only)

theorem path_dealList {ks : List Kind} {s0 s : State} (p : Nat) (x : ListRec) (sel : Cmd → Bool)
    (hk : [.parts, .queues] ⊆ ks) (h : Path ks s0 s) :
    Path ks s0 (State.dealList s p x sel) := by
  unfold State.dealList
  repeat' (first
    | with_reducible assumption
    | extract_lets
    | with_reducible refine path_enqueueCmd _ _ (List.Subset.trans (by decide) hk) ?_
    | with_reducible refine path_of_fst (by with_reducible assumption) ?_
    | with_reducible refine path_foldl _ _ (fun _ _ _ => ?_) _ ?_
    | with_reducible refine path_foldl_fst _ _ (fun _ _ _ => ?_) _ ?_
    | with_reducible refine path_ite (fun _ => ?_) (fun _ => ?_)
    | with_reducible refine path_ite_fst (fun _ => ?_) (fun _ => ?_)
    | split
    | dsimp +zetaDelta only)

theorem path_refill {ks : List Kind} {s0 s : State} (k : Nat) (n : Nat)
    (hk : [.parts, .queues] ⊆ ks) (h : Path ks s0 s) :
    Path ks s0 (State.refill s k n) := by
  unfold State.refill
  repeat' (first
    | with_reducible assumption
    | extract_lets
    | with_reducible refine path_dealList _ _ _ (List.Subset.trans (by decide) hk) ?_
    | with_reducible refine path_of_fst (by with_reducible assumption) ?_
    | with_reducible refine path_foldl _ _ (fun _ _ _ => ?_) _ ?_
    | with_reducible refine path_foldl_fst _ _ (fun _ _ _ => ?_) _ ?_
    | split
    | dsimp +zetaDelta only)

theorem path_breakList {ks : List Kind} {s0 s : State} (p : Nat) (x : ListRec) (status : Nat)
    (hk : [.parts, .queues, .mem, .hbm, .outs] ⊆ ks) (h : Path ks s0 s) :
    Path ks s0 (State.breakList s p x status) := by
  unfold State.breakList
  repeat' (first
    | with_reducible assumption
    | extract_lets
    | with_reducible refine path_answerList _ _ _ _ (List.Subset.trans (by decide) hk) ?_
    | with_reducible refine path_dropCommands _ _ _ _ (List.Subset.trans (by decide) hk) ?_
    | with_reducible refine path_finishList _ _ (List.Subset.trans (by decide) hk) ?_
    | with_reducible refine path_of_fst (by with_reducible assumption) ?_
    | split
    | dsimp +zetaDelta only)

theorem path_startList {ks : List Kind} {s0 s : State} (p : Nat) (lane : Nat)
    (hk : [.errq, .parts, .queues, .sites, .mem, .hbm, .streams, .ctr, .colls, .credits, .fetches, .xfers, .tfb, .boot, .outs, .free] ⊆ ks) (h : Path ks s0 s) :
    Path ks s0 (State.startList s p lane) := by
  unfold State.startList
  repeat' (first
    | with_reducible assumption
    | extract_lets
    | with_reducible refine path_breakList _ _ _ (List.Subset.trans (by decide) hk) ?_
    | with_reducible refine path_dealList _ _ _ (List.Subset.trans (by decide) hk) ?_
    | with_reducible refine path_modList _ _ _ (List.Subset.trans (by decide) hk) ?_
    | with_reducible refine path_modRcv _ _ (List.Subset.trans (by decide) hk) ?_
    | with_reducible refine path_progress _ (List.Subset.trans (by decide) hk) ?_
    | with_reducible refine path_of_fst (by with_reducible assumption) ?_
    | with_reducible refine path_ite (fun _ => ?_) (fun _ => ?_)
    | with_reducible refine path_ite_fst (fun _ => ?_) (fun _ => ?_)
    | split
    | dsimp +zetaDelta only)

theorem path_recordStart {ks : List Kind} {s0 s : State} (k : Nat) (n : Nat) (r : QRef) (c : Cmd) (held : List (List Byte))
    (hk : [.sites] ⊆ ks) (h : Path ks s0 s) :
    Path ks s0 (State.recordStart s k n r c held) := by
  unfold State.recordStart
  repeat' (first
    | with_reducible assumption
    | extract_lets
    | with_reducible refine path_modSite _ _ (List.Subset.trans (by decide) hk) ?_
    | with_reducible refine path_of_fst (by with_reducible assumption) ?_
    | with_reducible refine path_ite (fun _ => ?_) (fun _ => ?_)
    | with_reducible refine path_ite_fst (fun _ => ?_) (fun _ => ?_)
    | split
    | dsimp +zetaDelta only)

theorem path_awaken {ks : List Kind} {s0 s : State} (p : Nat) (i : Nat)
    (hk : [.sites, .ctr] ⊆ ks) (h : Path ks s0 s) :
    Path ks s0 (State.awaken s p i) := by
  unfold State.awaken
  repeat' (first
    | with_reducible assumption
    | extract_lets
    | with_reducible refine path_count _ _ _ (List.Subset.trans (by decide) hk) ?_
    | with_reducible refine path_modSite _ _ (List.Subset.trans (by decide) hk) ?_
    | with_reducible refine path_of_fst (by with_reducible assumption) ?_
    | with_reducible refine path_ite (fun _ => ?_) (fun _ => ?_)
    | with_reducible refine path_ite_fst (fun _ => ?_) (fun _ => ?_)
    | split
    | dsimp +zetaDelta only)

theorem path_beginGap {ks : List Kind} {s0 s : State} (p : Nat) (i : Nat)
    (hk : [.sites] ⊆ ks) (h : Path ks s0 s) :
    Path ks s0 (State.beginGap s p i) := by
  unfold State.beginGap
  repeat' (first
    | with_reducible assumption
    | extract_lets
    | with_reducible refine path_modSite _ _ (List.Subset.trans (by decide) hk) ?_
    | with_reducible refine path_of_fst (by with_reducible assumption) ?_
    | with_reducible refine path_ite (fun _ => ?_) (fun _ => ?_)
    | with_reducible refine path_ite_fst (fun _ => ?_) (fun _ => ?_)
    | split
    | dsimp +zetaDelta only)

theorem path_stopTicks {ks : List Kind} {s0 s : State} (p : Nat) (l : Nat)
    (hk : [.parts, .queues, .mem, .hbm, .outs] ⊆ ks) (h : Path ks s0 s) :
    Path ks s0 (State.stopTicks s p l) := by
  unfold State.stopTicks
  repeat' (first
    | with_reducible assumption
    | extract_lets
    | with_reducible refine path_finishList _ _ (List.Subset.trans (by decide) hk) ?_
    | with_reducible refine path_modList _ _ _ (List.Subset.trans (by decide) hk) ?_
    | with_reducible refine path_signal _ _ (List.Subset.trans (by decide) hk) ?_
    | with_reducible refine path_of_fst (by with_reducible assumption) ?_
    | with_reducible refine path_foldl _ _ (fun _ _ _ => ?_) _ ?_
    | with_reducible refine path_foldl_fst _ _ (fun _ _ _ => ?_) _ ?_
    | with_reducible refine path_ite (fun _ => ?_) (fun _ => ?_)
    | with_reducible refine path_ite_fst (fun _ => ?_) (fun _ => ?_)
    | split
    | dsimp +zetaDelta only)

theorem path_endUnrun {ks : List Kind} {s0 s : State} (r : QRef) (status : Nat)
    (hk : [.errq, .parts, .queues, .sites, .mem, .hbm, .streams, .ctr, .colls, .credits, .fetches, .xfers, .tfb, .boot, .outs, .free] ⊆ ks) (h : Path ks s0 s) :
    Path ks s0 (State.endUnrun s r status) := by
  unfold State.endUnrun
  repeat' (first
    | with_reducible assumption
    | extract_lets
    | with_reducible refine path_endCmd _ _ _ (List.Subset.trans (by decide) hk) ?_
    | with_reducible refine path_progress _ (List.Subset.trans (by decide) hk) ?_
    | with_reducible refine path_stopTicks _ _ (List.Subset.trans (by decide) hk) ?_
    | with_reducible refine path_of_fst (by with_reducible assumption) ?_
    | split
    | dsimp +zetaDelta only)

theorem path_dispatch {ks : List Kind} {s0 s : State} (k : Nat) (n : Nat) (r : QRef)
    (hk : [.log, .errq, .parts, .queues, .sites, .mem, .hbm, .streams, .ctr, .colls, .credits, .fetches, .xfers, .tfb, .boot, .outs, .free] ⊆ ks) (h : Path ks s0 s) :
    Path ks s0 (State.dispatch s k n r) := by
  unfold State.dispatch
  repeat' (first
    | with_reducible assumption
    | extract_lets
    | with_reducible refine path_abandonList _ _ _ _ (List.Subset.trans (by decide) hk) ?_
    | with_reducible refine path_awaken _ _ (List.Subset.trans (by decide) hk) ?_
    | with_reducible refine path_endUnrun _ _ (List.Subset.trans (by decide) hk) ?_
    | with_reducible refine path_fillEmpty _ _ (List.Subset.trans (by decide) hk) ?_
    | with_reducible refine path_issue _ _ _ _ (List.Subset.trans (by decide) hk) ?_
    | with_reducible refine path_modCmd _ _ (List.Subset.trans (by decide) hk) ?_
    | with_reducible refine path_modList _ _ _ (List.Subset.trans (by decide) hk) ?_
    | with_reducible refine path_modQueue _ _ _ (List.Subset.trans (by decide) hk) ?_
    | with_reducible refine path_progress _ (List.Subset.trans (by decide) hk) ?_
    | with_reducible refine path_recordStart _ _ _ _ _ (List.Subset.trans (by decide) hk) ?_
    | with_reducible refine path_refill _ _ (List.Subset.trans (by decide) hk) ?_
    | with_reducible refine path_traceStart _ _ (List.Subset.trans (by decide) hk) ?_
    | with_reducible refine path_of_fst (by with_reducible assumption) ?_
    | with_reducible refine path_ite (fun _ => ?_) (fun _ => ?_)
    | with_reducible refine path_ite_fst (fun _ => ?_) (fun _ => ?_)
    | split
    | dsimp +zetaDelta only)

theorem path_dispatchNext {ks : List Kind} {s0 s : State} (k : Nat) (n : Nat)
    (hk : [.log, .errq, .parts, .queues, .sites, .mem, .hbm, .streams, .ctr, .colls, .credits, .fetches, .xfers, .tfb, .boot, .outs, .free] ⊆ ks) (h : Path ks s0 s) :
    Path ks s0 (State.dispatchNext s k n) := by
  unfold State.dispatchNext
  repeat' (first
    | with_reducible assumption
    | extract_lets
    | with_reducible refine path_dispatch _ _ _ (List.Subset.trans (by decide) hk) ?_
    | with_reducible refine path_modQueue _ _ _ (List.Subset.trans (by decide) hk) ?_
    | with_reducible refine path_refill _ _ (List.Subset.trans (by decide) hk) ?_
    | with_reducible refine path_of_fst (by with_reducible assumption) ?_
    | with_reducible refine path_ite (fun _ => ?_) (fun _ => ?_)
    | with_reducible refine path_ite_fst (fun _ => ?_) (fun _ => ?_)
    | split
    | dsimp +zetaDelta only)

theorem path_recordFence {ks : List Kind} {s0 s : State} (n : Nat) (r : QRef)
    (hk : [.sites] ⊆ ks) (h : Path ks s0 s) :
    Path ks s0 (State.recordFence s n r) := by
  unfold State.recordFence
  repeat' (first
    | with_reducible assumption
    | extract_lets
    | with_reducible refine path_modSite _ _ (List.Subset.trans (by decide) hk) ?_
    | with_reducible refine path_of_fst (by with_reducible assumption) ?_
    | split
    | dsimp +zetaDelta only)

theorem path_complete {ks : List Kind} {s0 s : State} (k : Nat) (n : Nat)
    (hk : [.log, .errq, .parts, .queues, .sites, .mem, .hbm, .streams, .ctr, .colls, .credits, .fetches, .xfers, .tfb, .boot, .outs, .free] ⊆ ks) (h : Path ks s0 s) :
    Path ks s0 (State.complete s k n) := by
  unfold State.complete
  repeat' (first
    | with_reducible assumption
    | extract_lets
    | with_reducible refine path_beginGap _ _ (List.Subset.trans (by decide) hk) ?_
    | with_reducible refine path_endCmd _ _ _ (List.Subset.trans (by decide) hk) ?_
    | with_reducible refine path_modQueue _ _ _ (List.Subset.trans (by decide) hk) ?_
    | with_reducible refine path_progress _ (List.Subset.trans (by decide) hk) ?_
    | with_reducible refine path_recordFence _ _ (List.Subset.trans (by decide) hk) ?_
    | with_reducible refine path_stopTicks _ _ (List.Subset.trans (by decide) hk) ?_
    | with_reducible refine path_traceEnd _ _ (List.Subset.trans (by decide) hk) ?_
    | with_reducible refine path_of_fst (by with_reducible assumption) ?_
    | with_reducible refine path_ite (fun _ => ?_) (fun _ => ?_)
    | with_reducible refine path_ite_fst (fun _ => ?_) (fun _ => ?_)
    | split
    | dsimp +zetaDelta only)

theorem path_reportStall {ks : List Kind} {s0 s : State} (p : Nat) (kind : Nat) (e : Nat)
    (hk : [.errq, .parts, .queues, .sites, .mem, .hbm, .streams, .ctr, .colls, .credits, .fetches, .xfers, .tfb, .boot, .outs, .free] ⊆ ks) (h : Path ks s0 s) :
    Path ks s0 (State.reportStall s p kind e) := by
  unfold State.reportStall
  repeat' (first
    | with_reducible assumption
    | extract_lets
    | with_reducible refine path_modFences _ _ (List.Subset.trans (by decide) hk) ?_
    | with_reducible refine path_raise _ (List.Subset.trans (by decide) hk) ?_
    | with_reducible refine path_of_fst (by with_reducible assumption) ?_
    | with_reducible refine path_foldl _ _ (fun _ _ _ => ?_) _ ?_
    | with_reducible refine path_foldl_fst _ _ (fun _ _ _ => ?_) _ ?_
    | with_reducible refine path_ite (fun _ => ?_) (fun _ => ?_)
    | with_reducible refine path_ite_fst (fun _ => ?_) (fun _ => ?_)
    | split
    | dsimp +zetaDelta only)

theorem path_nextTick {ks : List Kind} {s0 s : State} (p : Nat) (lane : Nat)
    (hk : [.parts, .queues, .mem, .hbm, .ctr] ⊆ ks) (h : Path ks s0 s) :
    Path ks s0 (State.nextTick s p lane) := by
  unfold State.nextTick
  repeat' (first
    | with_reducible assumption
    | extract_lets
    | with_reducible refine path_count _ _ _ (List.Subset.trans (by decide) hk) ?_
    | with_reducible refine path_dealList _ _ _ (List.Subset.trans (by decide) hk) ?_
    | with_reducible refine path_modList _ _ _ (List.Subset.trans (by decide) hk) ?_
    | with_reducible refine path_store _ _ _ (List.Subset.trans (by decide) hk) ?_
    | with_reducible refine path_of_fst (by with_reducible assumption) ?_
    | with_reducible refine path_ite (fun _ => ?_) (fun _ => ?_)
    | with_reducible refine path_ite_fst (fun _ => ?_) (fun _ => ?_)
    | split
    | dsimp +zetaDelta only)

end Sys2Proof.Laws
end

