-- ==== Sys2Proof/Laws/PathTensor.lean ====
section
/-!
SUPPORT. What the operations of Machine/Tensor.lean can do to the state: one path for each.
-/

set_option linter.all false

namespace Sys2Proof.Laws

open Sys2Proof Sys2Proof.Machine Sys2Proof.Safety

theorem wf_memPut (m : Mem) (k : Nat) (bs : List Byte) (h : m.wf = true) : (memPut m k bs).wf = true := by
  unfold memPut
  exact wf_putAll _ _ h

theorem path_loadTiles {ks : List Kind} {s0 s : State} (site : Nat) (code : Nat) (off : Nat) (cores : List (Nat × Nat))
    (hk : [.sites, .mem] ⊆ ks) (h : Path ks s0 s) :
    Path ks s0 (State.loadTiles s site code off cores) := by
  unfold State.loadTiles
  repeat' (first
    | with_reducible assumption
    | extract_lets
    | with_reducible refine path_modSite _ _ (List.Subset.trans (by decide) hk) ?_
    | with_reducible refine path_of_fst (by with_reducible assumption) ?_
    | with_reducible refine path_foldl _ _ (fun _ _ _ => ?_) _ ?_
    | with_reducible refine path_foldl_fst _ _ (fun _ _ _ => ?_) _ ?_
    | split
    | fail_if_no_progress ((with_reducible refine path_mk ?_ (le_refl _) (le_refl _) (fun hm => ?_) (fun _ => le_refl _) (fun _ h => h) (fun k hn => ?_)); rotate_right 1; (cases k <;> first | exact absurd (hk (by decide)) hn | rfl); rotate_right 1; (repeat' first | with_reducible assumption | with_reducible refine wf_memPut _ _ _ ?_ | with_reducible refine wf_putAll _ _ ?_ | with_reducible refine wf_clear _ _ ?_ | with_reducible refine wf_foldl _ _ (fun _ _ _ => ?_) _ ?_))
    | dsimp +zetaDelta only)

theorem path_countInit {ks : List Kind} {s0 s : State} (p : Nat) (v : TView) (j : Nat) (a : Nat) (m : Nat)
    (hk : [.ctr] ⊆ ks) (h : Path ks s0 s) :
    Path ks s0 (State.countInit s p v j a m) := by
  unfold State.countInit
  repeat' (first
    | with_reducible assumption
    | extract_lets
    | with_reducible refine path_loadedRow _ _ _ _ _ _ (List.Subset.trans (by decide) hk) ?_
    | with_reducible refine path_of_fst (by with_reducible assumption) ?_
    | with_reducible refine path_ite (fun _ => ?_) (fun _ => ?_)
    | with_reducible refine path_ite_fst (fun _ => ?_) (fun _ => ?_)
    | split
    | dsimp +zetaDelta only)

theorem path_passRow {ks : List Kind} {s0 s : State} (p : Nat) (site : Nat) (v : TView) (slot : Nat) (j : Nat) (a : Nat) (m : Nat) (ws : List (List FV)) (runs : Bool)
    (hk : [.mem, .ctr, .free] ⊆ ks) (h : Path ks s0 s) :
    Path ks s0 (State.passRow s p site v slot j a m ws runs) := by
  unfold State.passRow
  repeat' (first
    | with_reducible assumption
    | extract_lets
    | with_reducible refine path_count _ _ _ (List.Subset.trans (by decide) hk) ?_
    | with_reducible refine path_countInit _ _ _ _ _ (List.Subset.trans (by decide) hk) ?_
    | with_reducible refine path_spend _ (List.Subset.trans (by decide) hk) ?_
    | with_reducible refine path_of_fst (by with_reducible assumption) ?_
    | with_reducible refine path_foldl _ _ (fun _ _ _ => ?_) _ ?_
    | with_reducible refine path_foldl_fst _ _ (fun _ _ _ => ?_) _ ?_
    | with_reducible refine path_ite (fun _ => ?_) (fun _ => ?_)
    | with_reducible refine path_ite_fst (fun _ => ?_) (fun _ => ?_)
    | split
    | fail_if_no_progress ((with_reducible refine path_mk ?_ (le_refl _) (le_refl _) (fun hm => ?_) (fun _ => le_refl _) (fun _ h => h) (fun k hn => ?_)); rotate_right 1; (cases k <;> first | exact absurd (hk (by decide)) hn | rfl); rotate_right 1; (repeat' first | with_reducible assumption | with_reducible refine wf_memPut _ _ _ ?_ | with_reducible refine wf_putAll _ _ ?_ | with_reducible refine wf_clear _ _ ?_ | with_reducible refine wf_foldl _ _ (fun _ _ _ => ?_) _ ?_))
    | dsimp +zetaDelta only)

theorem path_stage {ks : List Kind} {s0 s : State} (p : Nat) (site : Nat) (v : TView) (a : Nat)
    (hk : [.mem, .free] ⊆ ks) (h : Path ks s0 s) :
    Path ks s0 (State.stage s p site v a) := by
  unfold State.stage
  repeat' (first
    | with_reducible assumption
    | extract_lets
    | with_reducible refine path_spend _ (List.Subset.trans (by decide) hk) ?_
    | with_reducible refine path_of_fst (by with_reducible assumption) ?_
    | with_reducible refine path_foldl _ _ (fun _ _ _ => ?_) _ ?_
    | with_reducible refine path_foldl_fst _ _ (fun _ _ _ => ?_) _ ?_
    | split
    | fail_if_no_progress ((with_reducible refine path_mk ?_ (le_refl _) (le_refl _) (fun hm => ?_) (fun _ => le_refl _) (fun _ h => h) (fun k hn => ?_)); rotate_right 1; (cases k <;> first | exact absurd (hk (by decide)) hn | rfl); rotate_right 1; (repeat' first | with_reducible assumption | with_reducible refine wf_memPut _ _ _ ?_ | with_reducible refine wf_putAll _ _ ?_ | with_reducible refine wf_clear _ _ ?_ | with_reducible refine wf_foldl _ _ (fun _ _ _ => ?_) _ ?_))
    | dsimp +zetaDelta only)

theorem path_writeRows {ks : List Kind} {s0 s : State} (p : Nat) (site : Nat) (v : TView) (j : Nat) (a : Nat) (vals : State → Nat → List Nat)
    (hk : [.mem, .hbm, .ctr, .free] ⊆ ks) (h : Path ks s0 s) :
    Path ks s0 (State.writeRows s p site v j a vals) := by
  unfold State.writeRows
  repeat' (first
    | with_reducible assumption
    | extract_lets
    | with_reducible refine path_count _ _ _ (List.Subset.trans (by decide) hk) ?_
    | with_reducible refine path_epilogueRow _ _ _ _ _ _ _ (List.Subset.trans (by decide) hk) ?_
    | with_reducible refine path_stage _ _ _ _ (List.Subset.trans (by decide) hk) ?_
    | with_reducible refine path_of_fst (by with_reducible assumption) ?_
    | with_reducible refine path_foldl _ _ (fun _ _ _ => ?_) _ ?_
    | with_reducible refine path_foldl_fst _ _ (fun _ _ _ => ?_) _ ?_
    | with_reducible refine path_ite (fun _ => ?_) (fun _ => ?_)
    | with_reducible refine path_ite_fst (fun _ => ?_) (fun _ => ?_)
    | split
    | dsimp +zetaDelta only)

theorem path_writeOut {ks : List Kind} {s0 s : State} (p : Nat) (site : Nat) (v : TView) (slot : Nat) (j : Nat) (a : Nat)
    (hk : [.mem, .hbm, .ctr, .free] ⊆ ks) (h : Path ks s0 s) :
    Path ks s0 (State.writeOut s p site v slot j a) := by
  unfold State.writeOut
  repeat' (first
    | with_reducible assumption
    | extract_lets
    | with_reducible refine path_writeRows _ _ _ _ _ _ (List.Subset.trans (by decide) hk) ?_
    | with_reducible refine path_of_fst (by with_reducible assumption) ?_
    | split
    | dsimp +zetaDelta only)

theorem path_countCycles {ks : List Kind} {s0 s : State} (p : Nat) (site : Nat) (v : TView) (runs : Nat)
    (hk : [.ctr] ⊆ ks) (h : Path ks s0 s) :
    Path ks s0 (State.countCycles s p site v runs) := by
  unfold State.countCycles
  repeat' (first
    | with_reducible assumption
    | extract_lets
    | with_reducible refine path_count _ _ _ (List.Subset.trans (by decide) hk) ?_
    | with_reducible refine path_of_fst (by with_reducible assumption) ?_
    | with_reducible refine path_ite (fun _ => ?_) (fun _ => ?_)
    | with_reducible refine path_ite_fst (fun _ => ?_) (fun _ => ?_)
    | split
    | dsimp +zetaDelta only)

theorem path_countA {ks : List Kind} {s0 s : State} (p : Nat) (v : TView) (j : Nat) (a : Nat)
    (hk : [.ctr] ⊆ ks) (h : Path ks s0 s) :
    Path ks s0 (State.countA s p v j a) := by
  unfold State.countA
  repeat' (first
    | with_reducible assumption
    | extract_lets
    | with_reducible refine path_loaded _ _ _ (List.Subset.trans (by decide) hk) ?_
    | with_reducible refine path_of_fst (by with_reducible assumption) ?_
    | with_reducible refine path_foldl _ _ (fun _ _ _ => ?_) _ ?_
    | with_reducible refine path_foldl_fst _ _ (fun _ _ _ => ?_) _ ?_
    | with_reducible refine path_ite (fun _ => ?_) (fun _ => ?_)
    | with_reducible refine path_ite_fst (fun _ => ?_) (fun _ => ?_)
    | split
    | dsimp +zetaDelta only)

theorem path_onePass {ks : List Kind} {s0 s : State} (p : Nat) (site : Nat) (v : TView) (base : Nat) (j : Nat) (a : Nat) (cur : List (Option Nat))
    (hk : [.sites, .mem, .hbm, .ctr, .free] ⊆ ks) (h : Path ks s0 s) :
    Path ks s0 (State.onePass s p site v base j a cur).1 := by
  unfold State.onePass
  repeat' (first
    | with_reducible assumption
    | extract_lets
    | with_reducible refine path_count _ _ _ (List.Subset.trans (by decide) hk) ?_
    | with_reducible refine path_countA _ _ _ _ (List.Subset.trans (by decide) hk) ?_
    | with_reducible refine path_loadTiles _ _ _ _ (List.Subset.trans (by decide) hk) ?_
    | with_reducible refine path_passRow _ _ _ _ _ _ _ _ _ (List.Subset.trans (by decide) hk) ?_
    | with_reducible refine path_writeOut _ _ _ _ _ _ (List.Subset.trans (by decide) hk) ?_
    | with_reducible refine path_of_fst (by with_reducible assumption) ?_
    | with_reducible refine path_foldl _ _ (fun _ _ _ => ?_) _ ?_
    | with_reducible refine path_foldl_fst _ _ (fun _ _ _ => ?_) _ ?_
    | with_reducible refine path_ite (fun _ => ?_) (fun _ => ?_)
    | with_reducible refine path_ite_fst (fun _ => ?_) (fun _ => ?_)
    | split
    | dsimp +zetaDelta only)

theorem path_passAll {ks : List Kind} {s0 s : State} (p : Nat) (site : Nat) (v : TView) (base : Nat) (j : Nat) (sel : Nat → Bool) (first : Bool) (cur : List (Option Nat))
    (hk : [.sites, .mem, .hbm, .ctr, .free] ⊆ ks) (h : Path ks s0 s) :
    Path ks s0 (State.passAll s p site v base j sel first cur).1 := by
  unfold State.passAll
  repeat' (first
    | with_reducible assumption
    | extract_lets
    | with_reducible refine path_count _ _ _ (List.Subset.trans (by decide) hk) ?_
    | with_reducible refine path_countCycles _ _ _ _ (List.Subset.trans (by decide) hk) ?_
    | with_reducible refine path_onePass _ _ _ _ _ _ _ (List.Subset.trans (by decide) hk) ?_
    | with_reducible refine path_of_fst (by with_reducible assumption) ?_
    | with_reducible refine path_foldl _ _ (fun _ _ _ => ?_) _ ?_
    | with_reducible refine path_foldl_fst _ _ (fun _ _ _ => ?_) _ ?_
    | with_reducible refine path_ite (fun _ => ?_) (fun _ => ?_)
    | with_reducible refine path_ite_fst (fun _ => ?_) (fun _ => ?_)
    | split
    | dsimp +zetaDelta only)

theorem path_poolPass {ks : List Kind} {s0 s : State} (p : Nat) (site : Nat) (v : TView) (x : Spatial) (j : Nat) (a : Nat)
    (hk : [.mem, .hbm, .ctr, .free] ⊆ ks) (h : Path ks s0 s) :
    Path ks s0 (State.poolPass s p site v x j a) := by
  unfold State.poolPass
  repeat' (first
    | with_reducible assumption
    | extract_lets
    | with_reducible refine path_count _ _ _ (List.Subset.trans (by decide) hk) ?_
    | with_reducible refine path_epilogueRow _ _ _ _ _ _ _ (List.Subset.trans (by decide) hk) ?_
    | with_reducible refine path_spend _ (List.Subset.trans (by decide) hk) ?_
    | with_reducible refine path_of_fst (by with_reducible assumption) ?_
    | with_reducible refine path_foldl _ _ (fun _ _ _ => ?_) _ ?_
    | with_reducible refine path_foldl_fst _ _ (fun _ _ _ => ?_) _ ?_
    | with_reducible refine path_ite (fun _ => ?_) (fun _ => ?_)
    | with_reducible refine path_ite_fst (fun _ => ?_) (fun _ => ?_)
    | split
    | dsimp +zetaDelta only)

theorem path_poolTiles {ks : List Kind} {s0 s : State} (p : Nat) (site : Nat) (v : TView) (x : Spatial) (j : Nat) (a : Nat)
    (hk : [.mem, .hbm, .ctr, .free] ⊆ ks) (h : Path ks s0 s) :
    Path ks s0 (State.poolTiles s p site v x j a) := by
  unfold State.poolTiles
  repeat' (first
    | with_reducible assumption
    | extract_lets
    | with_reducible refine path_count _ _ _ (List.Subset.trans (by decide) hk) ?_
    | with_reducible refine path_poolPass _ _ _ _ _ _ (List.Subset.trans (by decide) hk) ?_
    | with_reducible refine path_of_fst (by with_reducible assumption) ?_
    | with_reducible refine path_ite (fun _ => ?_) (fun _ => ?_)
    | with_reducible refine path_ite_fst (fun _ => ?_) (fun _ => ?_)
    | split
    | dsimp +zetaDelta only)

theorem path_runList {ks : List Kind} {s0 s : State} (p : Nat) (site : Nat) (n : Nat) (v : TView) (js : List Nat) (sel : Nat → Nat → Bool)
    (hk : [.sites, .mem, .hbm, .ctr, .free] ⊆ ks) (h : Path ks s0 s) :
    Path ks s0 (State.runList s p site n v js sel) := by
  unfold State.runList
  repeat' (first
    | with_reducible assumption
    | extract_lets
    | with_reducible refine path_modSite _ _ (List.Subset.trans (by decide) hk) ?_
    | with_reducible refine path_passAll _ _ _ _ _ _ _ _ (List.Subset.trans (by decide) hk) ?_
    | with_reducible refine path_of_fst (by with_reducible assumption) ?_
    | with_reducible refine path_foldl _ _ (fun _ _ _ => ?_) _ ?_
    | with_reducible refine path_foldl_fst _ _ (fun _ _ _ => ?_) _ ?_
    | with_reducible refine path_ite (fun _ => ?_) (fun _ => ?_)
    | with_reducible refine path_ite_fst (fun _ => ?_) (fun _ => ?_)
    | split
    | dsimp +zetaDelta only)

theorem path_runPasses {ks : List Kind} {s0 s : State} (p : Nat) (site : Nat) (n : Nat) (v : TView) (lo : Nat) (hi : Nat)
    (hk : [.sites, .mem, .hbm, .ctr, .free] ⊆ ks) (h : Path ks s0 s) :
    Path ks s0 (State.runPasses s p site n v lo hi) := by
  unfold State.runPasses
  repeat' (first
    | with_reducible assumption
    | extract_lets
    | with_reducible refine path_runList _ _ _ _ _ _ (List.Subset.trans (by decide) hk) ?_
    | with_reducible refine path_of_fst (by with_reducible assumption) ?_
    | split
    | dsimp +zetaDelta only)

theorem path_endBlock {ks : List Kind} {s0 s : State} (site : Nat) (keep : Bool)
    (hk : [.sites] ⊆ ks) (h : Path ks s0 s) :
    Path ks s0 (State.endBlock s site keep) := by
  unfold State.endBlock
  repeat' (first
    | with_reducible assumption
    | extract_lets
    | with_reducible refine path_modSite _ _ (List.Subset.trans (by decide) hk) ?_
    | with_reducible refine path_of_fst (by with_reducible assumption) ?_
    | with_reducible refine path_ite (fun _ => ?_) (fun _ => ?_)
    | with_reducible refine path_ite_fst (fun _ => ?_) (fun _ => ?_)
    | split
    | dsimp +zetaDelta only)

theorem path_reload {ks : List Kind} {s0 s : State} (site : Nat) (v : TView) (kept : Option (Nat × List Nat))
    (hk : [.sites, .mem] ⊆ ks) (h : Path ks s0 s) :
    Path ks s0 (State.reload s site v kept) := by
  unfold State.reload
  repeat' (first
    | with_reducible assumption
    | extract_lets
    | with_reducible refine path_loadTiles _ _ _ _ (List.Subset.trans (by decide) hk) ?_
    | with_reducible refine path_modSite _ _ (List.Subset.trans (by decide) hk) ?_
    | with_reducible refine path_of_fst (by with_reducible assumption) ?_
    | with_reducible refine path_foldl _ _ (fun _ _ _ => ?_) _ ?_
    | with_reducible refine path_foldl_fst _ _ (fun _ _ _ => ?_) _ ?_
    | with_reducible refine path_ite (fun _ => ?_) (fun _ => ?_)
    | with_reducible refine path_ite_fst (fun _ => ?_) (fun _ => ?_)
    | split
    | dsimp +zetaDelta only)

theorem path_replay {ks : List Kind} {s0 s : State} (p : Nat) (site : Nat) (n : Nat) (v : TView) (js : List (Nat × Nat)) (k : Nat)
    (hk : [.sites, .mem, .hbm, .ctr, .free] ⊆ ks) (h : Path ks s0 s) :
    Path ks s0 (State.replay s p site n v js k) := by
  unfold State.replay
  repeat' (first
    | with_reducible assumption
    | extract_lets
    | with_reducible refine path_count _ _ _ (List.Subset.trans (by decide) hk) ?_
    | with_reducible refine path_runList _ _ _ _ _ _ (List.Subset.trans (by decide) hk) ?_
    | with_reducible refine path_of_fst (by with_reducible assumption) ?_
    | with_reducible refine path_ite (fun _ => ?_) (fun _ => ?_)
    | with_reducible refine path_ite_fst (fun _ => ?_) (fun _ => ?_)
    | split
    | dsimp +zetaDelta only)

theorem path_runTo {ks : List Kind} {s0 s : State} (n : Nat) (r : QRef) (v : TView) (k : Nat)
    (hk : [.sites, .mem, .hbm, .ctr, .free] ⊆ ks) (h : Path ks s0 s) :
    Path ks s0 (State.runTo s n r v k) := by
  unfold State.runTo
  repeat' (first
    | with_reducible assumption
    | extract_lets
    | with_reducible refine path_modSite _ _ (List.Subset.trans (by decide) hk) ?_
    | with_reducible refine path_reload _ _ _ (List.Subset.trans (by decide) hk) ?_
    | with_reducible refine path_replay _ _ _ _ _ _ (List.Subset.trans (by decide) hk) ?_
    | with_reducible refine path_runPasses _ _ _ _ _ _ (List.Subset.trans (by decide) hk) ?_
    | with_reducible refine path_of_fst (by with_reducible assumption) ?_
    | with_reducible refine path_ite (fun _ => ?_) (fun _ => ?_)
    | with_reducible refine path_ite_fst (fun _ => ?_) (fun _ => ?_)
    | split
    | dsimp +zetaDelta only)

theorem path_runTensor {ks : List Kind} {s0 s : State} (n : Nat) (r : QRef) (c : CmdRec)
    (hk : [.sites, .mem, .hbm, .ctr, .free] ⊆ ks) (h : Path ks s0 s) :
    Path ks s0 (State.runTensor s n r c).1 := by
  unfold State.runTensor
  repeat' (first
    | with_reducible assumption
    | extract_lets
    | with_reducible refine path_endBlock _ _ (List.Subset.trans (by decide) hk) ?_
    | with_reducible refine path_modSite _ _ (List.Subset.trans (by decide) hk) ?_
    | with_reducible refine path_poolTiles _ _ _ _ _ _ (List.Subset.trans (by decide) hk) ?_
    | with_reducible refine path_runTo _ _ _ _ (List.Subset.trans (by decide) hk) ?_
    | with_reducible refine path_of_fst (by with_reducible assumption) ?_
    | with_reducible refine path_foldl _ _ (fun _ _ _ => ?_) _ ?_
    | with_reducible refine path_foldl_fst _ _ (fun _ _ _ => ?_) _ ?_
    | with_reducible refine path_ite (fun _ => ?_) (fun _ => ?_)
    | with_reducible refine path_ite_fst (fun _ => ?_) (fun _ => ?_)
    | split
    | dsimp +zetaDelta only)

theorem path_spoilTiles {ks : List Kind} {s0 s : State} (p : Nat) (m : Nat) (a : Nat) (n : Nat)
    (hk : [.sites, .mem, .free] ⊆ ks) (h : Path ks s0 s) :
    Path ks s0 (State.spoilTiles s p m a n) := by
  unfold State.spoilTiles
  repeat' (first
    | with_reducible assumption
    | extract_lets
    | with_reducible refine path_modSite _ _ (List.Subset.trans (by decide) hk) ?_
    | with_reducible refine path_spend _ (List.Subset.trans (by decide) hk) ?_
    | with_reducible refine path_of_fst (by with_reducible assumption) ?_
    | with_reducible refine path_foldl _ _ (fun _ _ _ => ?_) _ ?_
    | with_reducible refine path_foldl_fst _ _ (fun _ _ _ => ?_) _ ?_
    | with_reducible refine path_ite (fun _ => ?_) (fun _ => ?_)
    | with_reducible refine path_ite_fst (fun _ => ?_) (fun _ => ?_)
    | split
    | fail_if_no_progress ((with_reducible refine path_mk ?_ (le_refl _) (le_refl _) (fun hm => ?_) (fun _ => le_refl _) (fun _ h => h) (fun k hn => ?_)); rotate_right 1; (cases k <;> first | exact absurd (hk (by decide)) hn | rfl); rotate_right 1; (repeat' first | with_reducible assumption | with_reducible refine wf_memPut _ _ _ ?_ | with_reducible refine wf_putAll _ _ ?_ | with_reducible refine wf_clear _ _ ?_ | with_reducible refine wf_foldl _ _ (fun _ _ _ => ?_) _ ?_))
    | dsimp +zetaDelta only)

theorem path_spoilAt {ks : List Kind} {s0 s : State} (p : Nat) (a : Nat) (n : Nat)
    (hk : [.sites, .mem, .free] ⊆ ks) (h : Path ks s0 s) :
    Path ks s0 (State.spoilAt s p a n) := by
  unfold State.spoilAt
  repeat' (first
    | with_reducible assumption
    | extract_lets
    | with_reducible refine path_spoilTiles _ _ _ _ (List.Subset.trans (by decide) hk) ?_
    | with_reducible refine path_of_fst (by with_reducible assumption) ?_
    | with_reducible refine path_ite (fun _ => ?_) (fun _ => ?_)
    | with_reducible refine path_ite_fst (fun _ => ?_) (fun _ => ?_)
    | split
    | dsimp +zetaDelta only)

theorem path_tensorRead {ks : List Kind} {s0 s : State} (n : Nat) (sel : Cmd → Bool) (parity : Option Nat) (f : State → QRef → CmdRec → State × Nat)
    (hk : [.errq, .parts, .queues, .sites, .mem, .hbm, .streams, .ctr, .colls, .credits, .fetches, .xfers, .tfb, .boot, .outs, .free] ⊆ ks) (hf : ∀ (u : State) (x : QRef) (y : CmdRec), Path ks s0 u → Path ks s0 (f u x y).1) (h : Path ks s0 s) :
    Path ks s0 (State.tensorRead s n sel parity f) := by
  unfold State.tensorRead
  repeat' (first
    | with_reducible assumption
    | extract_lets
    | with_reducible refine path_engine _ _ _ _ (List.Subset.trans (by decide) hk) (fun _ _ _ _ => ?_) ?_
    | with_reducible refine path_modSite _ _ (List.Subset.trans (by decide) hk) ?_
    | with_reducible refine path_stopRead _ _ _ (List.Subset.trans (by decide) hk) ?_
    | exact hf _ (by assumption)
    | with_reducible refine hf _ ?_
    | with_reducible refine hf _ _ ?_
    | with_reducible refine hf _ _ _ ?_
    | with_reducible refine path_of_fst (by with_reducible assumption) ?_
    | split
    | dsimp +zetaDelta only)

theorem path_setMode {ks : List Kind} {s0 s : State} (n : Nat) (mode : Nat)
    (hk : [.parts, .queues, .sites] ⊆ ks) (h : Path ks s0 s) :
    Path ks s0 (State.setMode s n mode) := by
  unfold State.setMode
  repeat' (first
    | with_reducible assumption
    | extract_lets
    | with_reducible refine path_engine _ _ _ _ (List.Subset.trans (by decide) hk) (fun _ _ _ _ => ?_) ?_
    | with_reducible refine path_modSite _ _ (List.Subset.trans (by decide) hk) ?_
    | with_reducible refine path_of_fst (by with_reducible assumption) ?_
    | split
    | dsimp +zetaDelta only)

theorem path_stopAt {ks : List Kind} {s0 s : State} (n : Nat) (r : QRef) (c : CmdRec) (k : Nat)
    (hk : [.sites, .mem, .hbm, .ctr, .free] ⊆ ks) (h : Path ks s0 s) :
    Path ks s0 (State.stopAt s n r c k) := by
  unfold State.stopAt
  repeat' (first
    | with_reducible assumption
    | extract_lets
    | with_reducible refine path_modSite _ _ (List.Subset.trans (by decide) hk) ?_
    | with_reducible refine path_runTo _ _ _ _ (List.Subset.trans (by decide) hk) ?_
    | with_reducible refine path_of_fst (by with_reducible assumption) ?_
    | with_reducible refine path_ite (fun _ => ?_) (fun _ => ?_)
    | with_reducible refine path_ite_fst (fun _ => ?_) (fun _ => ?_)
    | split
    | dsimp +zetaDelta only)

theorem path_coreFault {ks : List Kind} {s0 s : State} (i : Nat) (core : Nat)
    (hk : [.sites] ⊆ ks) (h : Path ks s0 s) :
    Path ks s0 (State.coreFault s i core).1 := by
  unfold State.coreFault
  repeat' (first
    | with_reducible assumption
    | extract_lets
    | with_reducible refine path_modSite _ _ (List.Subset.trans (by decide) hk) ?_
    | with_reducible refine path_of_fst (by with_reducible assumption) ?_
    | split
    | dsimp +zetaDelta only)

theorem path_looseTiles {ks : List Kind} {s0 s : State} (site : Nat) (v : TView) (slot : Nat) (row : Nat) (lcol : Nat)
    (hk : [.mem, .free] ⊆ ks) (h : Path ks s0 s) :
    Path ks s0 (State.looseTiles s site v slot row lcol) := by
  unfold State.looseTiles
  repeat' (first
    | with_reducible assumption
    | extract_lets
    | with_reducible refine path_spend _ (List.Subset.trans (by decide) hk) ?_
    | with_reducible refine path_of_fst (by with_reducible assumption) ?_
    | with_reducible refine path_foldl _ _ (fun _ _ _ => ?_) _ ?_
    | with_reducible refine path_foldl_fst _ _ (fun _ _ _ => ?_) _ ?_
    | with_reducible refine path_ite (fun _ => ?_) (fun _ => ?_)
    | with_reducible refine path_ite_fst (fun _ => ?_) (fun _ => ?_)
    | split
    | fail_if_no_progress ((with_reducible refine path_mk ?_ (le_refl _) (le_refl _) (fun hm => ?_) (fun _ => le_refl _) (fun _ h => h) (fun k hn => ?_)); rotate_right 1; (cases k <;> first | exact absurd (hk (by decide)) hn | rfl); rotate_right 1; (repeat' first | with_reducible assumption | with_reducible refine wf_memPut _ _ _ ?_ | with_reducible refine wf_putAll _ _ ?_ | with_reducible refine wf_clear _ _ ?_ | with_reducible refine wf_foldl _ _ (fun _ _ _ => ?_) _ ?_))
    | dsimp +zetaDelta only)

theorem path_recoverTiles {ks : List Kind} {s0 s : State} (n : Nat) (r : QRef) (c : CmdRec) (j : Nat) (row : Nat) (lcol : Nat)
    (hk : [.parts, .queues, .sites, .mem, .hbm, .ctr, .free] ⊆ ks) (h : Path ks s0 s) :
    Path ks s0 (State.recoverTiles s n r c j row lcol) := by
  unfold State.recoverTiles
  repeat' (first
    | with_reducible assumption
    | extract_lets
    | with_reducible refine path_endBlock _ _ (List.Subset.trans (by decide) hk) ?_
    | with_reducible refine path_issue _ _ _ _ (List.Subset.trans (by decide) hk) ?_
    | with_reducible refine path_looseTiles _ _ _ _ _ (List.Subset.trans (by decide) hk) ?_
    | with_reducible refine path_modCmd _ _ (List.Subset.trans (by decide) hk) ?_
    | with_reducible refine path_modSite _ _ (List.Subset.trans (by decide) hk) ?_
    | with_reducible refine path_runTo _ _ _ _ (List.Subset.trans (by decide) hk) ?_
    | with_reducible refine path_of_fst (by with_reducible assumption) ?_
    | with_reducible refine path_ite (fun _ => ?_) (fun _ => ?_)
    | with_reducible refine path_ite_fst (fun _ => ?_) (fun _ => ?_)
    | split
    | dsimp +zetaDelta only)

theorem path_retireColumn {ks : List Kind} {s0 s : State} (i : Nat) (col : Nat)
    (hk : [.vals, .errq, .parts, .queues, .sites, .siteState, .spareGen, .spareTime, .mem, .hbm, .streams, .ctr, .colls, .credits, .fetches, .xfers, .tfb, .boot, .outs, .free] ⊆ ks) (h : Path ks s0 s) :
    Path ks s0 (State.retireColumn s i col) := by
  unfold State.retireColumn
  repeat' (first
    | with_reducible assumption
    | extract_lets
    | with_reducible refine path_clusterFailed _ _ _ (List.Subset.trans (by decide) hk) ?_
    | with_reducible refine path_count _ _ _ (List.Subset.trans (by decide) hk) ?_
    | with_reducible refine path_modSite _ _ (List.Subset.trans (by decide) hk) ?_
    | with_reducible refine path_raise _ (List.Subset.trans (by decide) hk) ?_
    | with_reducible refine path_of_fst (by with_reducible assumption) ?_
    | with_reducible refine path_ite (fun _ => ?_) (fun _ => ?_)
    | with_reducible refine path_ite_fst (fun _ => ?_) (fun _ => ?_)
    | split
    | dsimp +zetaDelta only)

theorem path_logFault {ks : List Kind} {s0 s : State} (site : Nat) (coreRow : Nat) (coreCol : Nat) (p : Nat) (ref : Nat)
    (hk : [.errq, .parts, .queues, .sites, .mem, .hbm, .streams, .ctr, .colls, .credits, .fetches, .xfers, .tfb, .boot, .outs, .free] ⊆ ks) (h : Path ks s0 s) :
    Path ks s0 (State.logFault s site coreRow coreCol p ref) := by
  unfold State.logFault
  repeat' (first
    | with_reducible assumption
    | extract_lets
    | with_reducible refine path_count _ _ _ (List.Subset.trans (by decide) hk) ?_
    | with_reducible refine path_raise _ (List.Subset.trans (by decide) hk) ?_
    | with_reducible refine path_of_fst (by with_reducible assumption) ?_
    | split
    | dsimp +zetaDelta only)

theorem path_drainFault {ks : List Kind} {s0 s : State} (site : Nat) (coreRow : Nat) (coreCol : Nat)
    (hk : [.vals, .errq, .parts, .queues, .sites, .siteState, .spareGen, .spareTime, .mem, .hbm, .streams, .ctr, .colls, .credits, .fetches, .xfers, .tfb, .boot, .outs, .free] ⊆ ks) (h : Path ks s0 s) :
    Path ks s0 (State.drainFault s site coreRow coreCol) := by
  unfold State.drainFault
  repeat' (first
    | with_reducible assumption
    | extract_lets
    | with_reducible refine path_coreFault _ _ (List.Subset.trans (by decide) hk) ?_
    | with_reducible refine path_logFault _ _ _ _ _ (List.Subset.trans (by decide) hk) ?_
    | with_reducible refine path_retireColumn _ _ (List.Subset.trans (by decide) hk) ?_
    | with_reducible refine path_of_fst (by with_reducible assumption) ?_
    | with_reducible refine path_ite (fun _ => ?_) (fun _ => ?_)
    | with_reducible refine path_ite_fst (fun _ => ?_) (fun _ => ?_)
    | split
    | dsimp +zetaDelta only)

theorem path_moveCore {ks : List Kind} {s0 s : State} (i : Nat) (src : Nat × Nat) (dst : Nat × Nat)
    (hk : [.mem] ⊆ ks) (h : Path ks s0 s) :
    Path ks s0 (State.moveCore s i src dst) := by
  unfold State.moveCore
  repeat' (first
    | with_reducible assumption
    | extract_lets
    | with_reducible refine path_of_fst (by with_reducible assumption) ?_
    | with_reducible refine path_ite (fun _ => ?_) (fun _ => ?_)
    | with_reducible refine path_ite_fst (fun _ => ?_) (fun _ => ?_)
    | split
    | fail_if_no_progress ((with_reducible refine path_mk ?_ (le_refl _) (le_refl _) (fun hm => ?_) (fun _ => le_refl _) (fun _ h => h) (fun k hn => ?_)); rotate_right 1; (cases k <;> first | exact absurd (hk (by decide)) hn | rfl); rotate_right 1; (repeat' first | with_reducible assumption | with_reducible refine wf_memPut _ _ _ ?_ | with_reducible refine wf_putAll _ _ ?_ | with_reducible refine wf_clear _ _ ?_ | with_reducible refine wf_foldl _ _ (fun _ _ _ => ?_) _ ?_))
    | dsimp +zetaDelta only)

theorem path_moveColumns {ks : List Kind} {s0 s : State} (i : Nat) (src : List Nat) (dst : List Nat)
    (hk : [.mem] ⊆ ks) (h : Path ks s0 s) :
    Path ks s0 (State.moveColumns s i src dst) := by
  unfold State.moveColumns
  repeat' (first
    | with_reducible assumption
    | extract_lets
    | with_reducible refine path_of_fst (by with_reducible assumption) ?_
    | with_reducible refine path_ite (fun _ => ?_) (fun _ => ?_)
    | with_reducible refine path_ite_fst (fun _ => ?_) (fun _ => ?_)
    | split
    | fail_if_no_progress ((with_reducible refine path_mk ?_ (le_refl _) (le_refl _) (fun hm => ?_) (fun _ => le_refl _) (fun _ h => h) (fun k hn => ?_)); rotate_right 1; (cases k <;> first | exact absurd (hk (by decide)) hn | rfl); rotate_right 1; (repeat' first | with_reducible assumption | with_reducible refine wf_memPut _ _ _ ?_ | with_reducible refine wf_putAll _ _ ?_ | with_reducible refine wf_clear _ _ ?_ | with_reducible refine wf_foldl _ _ (fun _ _ _ => ?_) _ ?_))
    | dsimp +zetaDelta only)

theorem path_loseWord {ks : List Kind} {s0 s : State} (i : Nat) (col : Nat) (tb : Nat) (w : Nat)
    (hk : [.mem, .free] ⊆ ks) (h : Path ks s0 s) :
    Path ks s0 (State.loseWord s i col tb w) := by
  unfold State.loseWord
  repeat' (first
    | with_reducible assumption
    | extract_lets
    | with_reducible refine path_spend _ (List.Subset.trans (by decide) hk) ?_
    | with_reducible refine path_of_fst (by with_reducible assumption) ?_
    | with_reducible refine path_ite (fun _ => ?_) (fun _ => ?_)
    | with_reducible refine path_ite_fst (fun _ => ?_) (fun _ => ?_)
    | split
    | fail_if_no_progress ((with_reducible refine path_mk ?_ (le_refl _) (le_refl _) (fun hm => ?_) (fun _ => le_refl _) (fun _ h => h) (fun k hn => ?_)); rotate_right 1; (cases k <;> first | exact absurd (hk (by decide)) hn | rfl); rotate_right 1; (repeat' first | with_reducible assumption | with_reducible refine wf_memPut _ _ _ ?_ | with_reducible refine wf_putAll _ _ ?_ | with_reducible refine wf_clear _ _ ?_ | with_reducible refine wf_foldl _ _ (fun _ _ _ => ?_) _ ?_))
    | dsimp +zetaDelta only)

theorem path_replayLost {ks : List Kind} {s0 s : State} (n : Nat) (lcol : Nat) (slots : List (Nat × Nat))
    (hk : [.parts, .queues, .sites] ⊆ ks) (h : Path ks s0 s) :
    Path ks s0 (State.replayLost s n lcol slots) := by
  unfold State.replayLost
  repeat' (first
    | with_reducible assumption
    | extract_lets
    | with_reducible refine path_issue _ _ _ _ (List.Subset.trans (by decide) hk) ?_
    | with_reducible refine path_modSite _ _ (List.Subset.trans (by decide) hk) ?_
    | with_reducible refine path_of_fst (by with_reducible assumption) ?_
    | with_reducible refine path_ite (fun _ => ?_) (fun _ => ?_)
    | with_reducible refine path_ite_fst (fun _ => ?_) (fun _ => ?_)
    | split
    | dsimp +zetaDelta only)

theorem path_failPreempted {ks : List Kind} {s0 s : State} (n : Nat) (slots : List (Nat × Nat))
    (hk : [.parts, .queues] ⊆ ks) (h : Path ks s0 s) :
    Path ks s0 (State.failPreempted s n slots) := by
  unfold State.failPreempted
  repeat' (first
    | with_reducible assumption
    | extract_lets
    | with_reducible refine path_issue _ _ _ _ (List.Subset.trans (by decide) hk) ?_
    | with_reducible refine path_modQueue _ _ _ (List.Subset.trans (by decide) hk) ?_
    | with_reducible refine path_of_fst (by with_reducible assumption) ?_
    | with_reducible refine path_foldl _ _ (fun _ _ _ => ?_) _ ?_
    | with_reducible refine path_foldl_fst _ _ (fun _ _ _ => ?_) _ ?_
    | with_reducible refine path_ite (fun _ => ?_) (fun _ => ?_)
    | with_reducible refine path_ite_fst (fun _ => ?_) (fun _ => ?_)
    | split
    | dsimp +zetaDelta only)

theorem path_rampDown {ks : List Kind} {s0 s : State} (p : Nat) (i : Nat)
    (hk : [.sites, .ctr] ⊆ ks) (h : Path ks s0 s) :
    Path ks s0 (State.rampDown s p i) := by
  unfold State.rampDown
  repeat' (first
    | with_reducible assumption
    | extract_lets
    | with_reducible refine path_count _ _ _ (List.Subset.trans (by decide) hk) ?_
    | with_reducible refine path_modSite _ _ (List.Subset.trans (by decide) hk) ?_
    | with_reducible refine path_of_fst (by with_reducible assumption) ?_
    | with_reducible refine path_ite (fun _ => ?_) (fun _ => ?_)
    | with_reducible refine path_ite_fst (fun _ => ?_) (fun _ => ?_)
    | split
    | dsimp +zetaDelta only)

theorem path_retireArray {ks : List Kind} {s0 s : State} (f : Nat) (pa : Nat) (run : Option (Nat × QRef))
    (hk : [.errq, .parts, .queues, .sites, .fles, .mem, .hbm, .streams, .ctr, .colls, .credits, .fetches, .xfers, .tfb, .boot, .outs, .free] ⊆ ks) (h : Path ks s0 s) :
    Path ks s0 (State.retireArray s f pa run) := by
  unfold State.retireArray
  repeat' (first
    | with_reducible assumption
    | extract_lets
    | with_reducible refine path_count _ _ _ (List.Subset.trans (by decide) hk) ?_
    | with_reducible refine path_issue _ _ _ _ (List.Subset.trans (by decide) hk) ?_
    | with_reducible refine path_modFle _ _ (List.Subset.trans (by decide) hk) ?_
    | with_reducible refine path_modSite _ _ (List.Subset.trans (by decide) hk) ?_
    | with_reducible refine path_moveCore _ _ _ (List.Subset.trans (by decide) hk) ?_
    | with_reducible refine path_raise _ (List.Subset.trans (by decide) hk) ?_
    | with_reducible refine path_of_fst (by with_reducible assumption) ?_
    | with_reducible refine path_ite (fun _ => ?_) (fun _ => ?_)
    | with_reducible refine path_ite_fst (fun _ => ?_) (fun _ => ?_)
    | split
    | dsimp +zetaDelta only)

end Sys2Proof.Laws
end

