-- ==== Sys2Proof/Laws/PathVector.lean ====
section
/-!
SUPPORT. What the operations of Machine/Vector.lean can do to the state: one path for each.
-/

set_option linter.all false

namespace Sys2Proof.Laws

open Sys2Proof Sys2Proof.Machine Sys2Proof.Safety

theorem path_storeVec {ks : List Kind} {s0 s : State} (n : Nat) (r : QRef) (c : Cmd) (a : Nat) (vs : List FV)
    (hk : [.sites, .mem, .hbm, .ctr, .free] ⊆ ks) (h : Path ks s0 s) :
    Path ks s0 (State.storeVec s n r c a vs) := by
  unfold State.storeVec
  repeat' (first
    | with_reducible assumption
    | extract_lets
    | with_reducible refine path_count _ _ _ (List.Subset.trans (by decide) hk) ?_
    | with_reducible refine path_spend _ (List.Subset.trans (by decide) hk) ?_
    | with_reducible refine path_spoilTiles _ _ _ _ (List.Subset.trans (by decide) hk) ?_
    | with_reducible refine path_storeElems _ _ _ _ (List.Subset.trans (by decide) hk) ?_
    | with_reducible refine path_of_fst (by with_reducible assumption) ?_
    | with_reducible refine path_ite (fun _ => ?_) (fun _ => ?_)
    | with_reducible refine path_ite_fst (fun _ => ?_) (fun _ => ?_)
    | split
    | dsimp +zetaDelta only)

theorem path_elementwise {ks : List Kind} {s0 s : State} (n : Nat) (op : Nat) (parity : Option Nat) (f : FV → FV → FV)
    (hk : [.errq, .parts, .queues, .sites, .mem, .hbm, .streams, .ctr, .colls, .credits, .fetches, .xfers, .tfb, .boot, .outs, .free] ⊆ ks) (h : Path ks s0 s) :
    Path ks s0 (State.elementwise s n op parity f) := by
  unfold State.elementwise
  repeat' (first
    | with_reducible assumption
    | extract_lets
    | with_reducible refine path_engineRead _ _ _ _ _ (List.Subset.trans (by decide) hk) (fun _ _ _ _ => ?_) ?_
    | with_reducible refine path_storeVec _ _ _ _ _ (List.Subset.trans (by decide) hk) ?_
    | with_reducible refine path_of_fst (by with_reducible assumption) ?_
    | with_reducible refine path_ite (fun _ => ?_) (fun _ => ?_)
    | with_reducible refine path_ite_fst (fun _ => ?_) (fun _ => ?_)
    | split
    | dsimp +zetaDelta only)

theorem path_gatherMx {ks : List Kind} {s0 s : State} (n : Nat) (r : QRef) (c : Cmd)
    (hk : [.mem, .hbm, .ctr, .free] ⊆ ks) (h : Path ks s0 s) :
    Path ks s0 (State.gatherMx s n r c) := by
  unfold State.gatherMx
  repeat' (first
    | with_reducible assumption
    | extract_lets
    | with_reducible refine path_count _ _ _ (List.Subset.trans (by decide) hk) ?_
    | with_reducible refine path_spend _ (List.Subset.trans (by decide) hk) ?_
    | with_reducible refine path_store _ _ _ (List.Subset.trans (by decide) hk) ?_
    | with_reducible refine path_of_fst (by with_reducible assumption) ?_
    | with_reducible refine path_foldl _ _ (fun _ _ _ => ?_) _ ?_
    | with_reducible refine path_foldl_fst _ _ (fun _ _ _ => ?_) _ ?_
    | with_reducible refine path_ite (fun _ => ?_) (fun _ => ?_)
    | with_reducible refine path_ite_fst (fun _ => ?_) (fun _ => ?_)
    | split
    | dsimp +zetaDelta only)

theorem path_gatherPlain {ks : List Kind} {s0 s : State} (n : Nat) (r : QRef) (c : Cmd)
    (hk : [.mem, .hbm, .ctr, .free] ⊆ ks) (h : Path ks s0 s) :
    Path ks s0 (State.gatherPlain s n r c) := by
  unfold State.gatherPlain
  repeat' (first
    | with_reducible assumption
    | extract_lets
    | with_reducible refine path_count _ _ _ (List.Subset.trans (by decide) hk) ?_
    | with_reducible refine path_spend _ (List.Subset.trans (by decide) hk) ?_
    | with_reducible refine path_store _ _ _ (List.Subset.trans (by decide) hk) ?_
    | with_reducible refine path_of_fst (by with_reducible assumption) ?_
    | with_reducible refine path_foldl _ _ (fun _ _ _ => ?_) _ ?_
    | with_reducible refine path_foldl_fst _ _ (fun _ _ _ => ?_) _ ?_
    | with_reducible refine path_ite (fun _ => ?_) (fun _ => ?_)
    | with_reducible refine path_ite_fst (fun _ => ?_) (fun _ => ?_)
    | split
    | dsimp +zetaDelta only)

theorem path_addRegion {ks : List Kind} {s0 s : State} (p : Nat) (dst : Nat) (src : Nat) (code : Nat) (n : Nat) (sto : Bool)
    (hk : [.mem, .hbm, .ctr, .free] ⊆ ks) (h : Path ks s0 s) :
    Path ks s0 (State.addRegion s p dst src code n sto) := by
  unfold State.addRegion
  repeat' (first
    | with_reducible assumption
    | extract_lets
    | with_reducible refine path_spend _ (List.Subset.trans (by decide) hk) ?_
    | with_reducible refine path_store _ _ _ (List.Subset.trans (by decide) hk) ?_
    | with_reducible refine path_of_fst (by with_reducible assumption) ?_
    | with_reducible refine path_ite (fun _ => ?_) (fun _ => ?_)
    | with_reducible refine path_ite_fst (fun _ => ?_) (fun _ => ?_)
    | split
    | dsimp +zetaDelta only)

theorem path_addPairTable {ks : List Kind} {s0 s : State} (p : Nat) (dst : Nat) (src : Nat) (n : Nat)
    (hk : [.mem, .hbm] ⊆ ks) (h : Path ks s0 s) :
    Path ks s0 (State.addPairTable s p dst src n) := by
  unfold State.addPairTable
  repeat' (first
    | with_reducible assumption
    | extract_lets
    | with_reducible refine path_wr _ _ _ (List.Subset.trans (by decide) hk) ?_
    | with_reducible refine path_of_fst (by with_reducible assumption) ?_
    | split
    | dsimp +zetaDelta only)

theorem path_checksumFault {ks : List Kind} {s0 s : State} (n : Nat) (r : QRef) (c : Cmd) (b : Nat) (policy : Nat) (x : Nat × Nat × Nat × Bool)
    (hk : [.errq, .parts, .queues, .sites, .mem, .hbm, .streams, .ctr, .colls, .credits, .fetches, .xfers, .tfb, .boot, .outs, .free] ⊆ ks) (h : Path ks s0 s) :
    Path ks s0 (State.checksumFault s n r c b policy x) := by
  unfold State.checksumFault
  repeat' (first
    | with_reducible assumption
    | extract_lets
    | with_reducible refine path_count _ _ _ (List.Subset.trans (by decide) hk) ?_
    | with_reducible refine path_raise _ (List.Subset.trans (by decide) hk) ?_
    | with_reducible refine path_spoilTiles _ _ _ _ (List.Subset.trans (by decide) hk) ?_
    | with_reducible refine path_store _ _ _ (List.Subset.trans (by decide) hk) ?_
    | with_reducible refine path_wr _ _ _ (List.Subset.trans (by decide) hk) ?_
    | with_reducible refine path_of_fst (by with_reducible assumption) ?_
    | with_reducible refine path_ite (fun _ => ?_) (fun _ => ?_)
    | with_reducible refine path_ite_fst (fun _ => ?_) (fun _ => ?_)
    | split
    | dsimp +zetaDelta only)

end Sys2Proof.Laws
end

