-- ==== Sys2Proof/Laws/PathMove.lean ====
section
/-!
SUPPORT. What the operations of Machine/Move.lean can do to the state: one path for each.
-/

set_option linter.all false

namespace Sys2Proof.Laws

open Sys2Proof Sys2Proof.Machine Sys2Proof.Safety

theorem path_readVerified {ks : List Kind} {s0 s : State} (r : QRef) (a : Nat) (n : Nat) (faults : List BlockFault)
    (hk : [.errq, .parts, .queues, .sites, .mem, .hbm, .streams, .ctr, .colls, .credits, .fetches, .xfers, .tfb, .boot, .outs, .free] ⊆ ks) (h : Path ks s0 s) :
    Path ks s0 (State.readVerified s r a n faults).1 := by
  unfold State.readVerified
  repeat' (first
    | with_reducible assumption
    | extract_lets
    | with_reducible refine path_countVerified _ _ _ (List.Subset.trans (by decide) hk) ?_
    | with_reducible refine path_loaded _ _ _ (List.Subset.trans (by decide) hk) ?_
    | with_reducible refine path_raiseRead _ _ _ (List.Subset.trans (by decide) hk) ?_
    | with_reducible refine path_of_fst (by with_reducible assumption) ?_
    | with_reducible refine path_ite (fun _ => ?_) (fun _ => ?_)
    | with_reducible refine path_ite_fst (fun _ => ?_) (fun _ => ?_)
    | split
    | dsimp +zetaDelta only)

theorem path_injectRange {ks : List Kind} {s0 s : State} (n : Nat) (r : QRef) (c : CmdRec)
    (hk : [.parts, .queues, .ctr] ⊆ ks) (h : Path ks s0 s) :
    Path ks s0 (State.injectRange s n r c) := by
  unfold State.injectRange
  repeat' (first
    | with_reducible assumption
    | extract_lets
    | with_reducible refine path_acceptList _ _ (List.Subset.trans (by decide) hk) ?_
    | with_reducible refine path_count _ _ _ (List.Subset.trans (by decide) hk) ?_
    | with_reducible refine path_modQueue _ _ _ (List.Subset.trans (by decide) hk) ?_
    | with_reducible refine path_of_fst (by with_reducible assumption) ?_
    | with_reducible refine path_foldl _ _ (fun _ _ _ => ?_) _ ?_
    | with_reducible refine path_foldl_fst _ _ (fun _ _ _ => ?_) _ ?_
    | split
    | dsimp +zetaDelta only)

end Sys2Proof.Laws
end

