-- ==== Sys2Proof/Laws/PathMemory.lean ====
section
/-!
SUPPORT. What the operations of Machine/Memory.lean can do to the state: one path for each.
-/

set_option linter.all false

namespace Sys2Proof.Laws

open Sys2Proof Sys2Proof.Machine Sys2Proof.Safety

theorem path_countGather {ks : List Kind} {s0 s : State} (p : Nat) (a : Nat) (n : Nat)
    (hk : [.ctr] ⊆ ks) (h : Path ks s0 s) :
    Path ks s0 (State.countGather s p a n) := by
  unfold State.countGather
  repeat' (first
    | with_reducible assumption
    | extract_lets
    | with_reducible refine path_count _ _ _ (List.Subset.trans (by decide) hk) ?_
    | with_reducible refine path_countLines _ _ _ _ (List.Subset.trans (by decide) hk) ?_
    | with_reducible refine path_of_fst (by with_reducible assumption) ?_
    | with_reducible refine path_foldl _ _ (fun _ _ _ => ?_) _ ?_
    | with_reducible refine path_foldl_fst _ _ (fun _ _ _ => ?_) _ ?_
    | with_reducible refine path_ite (fun _ => ?_) (fun _ => ?_)
    | with_reducible refine path_ite_fst (fun _ => ?_) (fun _ => ?_)
    | split
    | dsimp +zetaDelta only)

theorem path_addRow {ks : List Kind} {s0 s : State} (r : QRef) (c : CmdRec) (j : Nat) (bag : Nat)
    (hk : [.mem, .hbm, .ctr, .free] ⊆ ks) (h : Path ks s0 s) :
    Path ks s0 (State.addRow s r c j bag) := by
  unfold State.addRow
  repeat' (first
    | with_reducible assumption
    | extract_lets
    | with_reducible refine path_atomicLine _ _ _ _ _ (List.Subset.trans (by decide) hk) ?_
    | with_reducible refine path_countGather _ _ _ (List.Subset.trans (by decide) hk) ?_
    | with_reducible refine path_of_fst (by with_reducible assumption) ?_
    | with_reducible refine path_foldl _ _ (fun _ _ _ => ?_) _ ?_
    | with_reducible refine path_foldl_fst _ _ (fun _ _ _ => ?_) _ ?_
    | split
    | dsimp +zetaDelta only)

theorem path_modHbm {ks : List Kind} {s0 : State} {s : State} (f : Hbm → Hbm) (hk : [.hbm] ⊆ ks)
    (hf : ∀ (x : Hbm) (c : Nat × Nat), c ∈ x.failed → c ∈ (f x).failed) (h : Path ks s0 s) :
    Path ks s0 (State.modHbm s f) := by
  unfold State.modHbm
  refine path_trans h ⟨fun k hn => ?_, ⟨id, fun _ => le_refl _, le_refl _, le_refl _, fun c hc => hf _ c hc⟩⟩
  cases k <;> first | exact absurd (hk (by decide)) hn | rfl

theorem path_startMigration {ks : List Kind} {s0 s : State} (stack : Nat) (logical : Nat)
    (hk : [.hbm] ⊆ ks) (h : Path ks s0 s) :
    Path ks s0 (State.startMigration s stack logical).1 := by
  unfold State.startMigration
  repeat' (first
    | with_reducible assumption
    | extract_lets
    | with_reducible refine path_modHbm _ (List.Subset.trans (by decide) hk) (by intro _ _ hc; first | exact hc | exact List.mem_cons_of_mem _ hc | simpa using hc | (dsimp only; split <;> first | exact hc | exact List.mem_cons_of_mem _ hc)) ?_
    | with_reducible refine path_of_fst (by with_reducible assumption) ?_
    | with_reducible refine path_ite (fun _ => ?_) (fun _ => ?_)
    | with_reducible refine path_ite_fst (fun _ => ?_) (fun _ => ?_)
    | split
    | dsimp +zetaDelta only)

theorem path_migrateAway {ks : List Kind} {s0 s : State} (stack : Nat) (phys : Nat)
    (hk : [.hbm] ⊆ ks) (h : Path ks s0 s) :
    Path ks s0 (State.migrateAway s stack phys) := by
  unfold State.migrateAway
  repeat' (first
    | with_reducible assumption
    | extract_lets
    | with_reducible refine path_startMigration _ _ (List.Subset.trans (by decide) hk) ?_
    | with_reducible refine path_of_fst (by with_reducible assumption) ?_
    | with_reducible refine path_ite (fun _ => ?_) (fun _ => ?_)
    | with_reducible refine path_ite_fst (fun _ => ?_) (fun _ => ?_)
    | split
    | dsimp +zetaDelta only)

theorem path_degrade {ks : List Kind} {s0 s : State} (stack : Nat) (channel : Nat)
    (hk : [.errq, .parts, .queues, .sites, .mem, .hbm, .streams, .ctr, .colls, .credits, .fetches, .xfers, .tfb, .boot, .outs, .free] ⊆ ks) (h : Path ks s0 s) :
    Path ks s0 (State.degrade s stack channel) := by
  unfold State.degrade
  repeat' (first
    | with_reducible assumption
    | extract_lets
    | with_reducible refine path_migrateAway _ _ (List.Subset.trans (by decide) hk) ?_
    | with_reducible refine path_modHbm _ (List.Subset.trans (by decide) hk) (by intro _ _ hc; first | exact hc | exact List.mem_cons_of_mem _ hc | simpa using hc | (dsimp only; split <;> first | exact hc | exact List.mem_cons_of_mem _ hc)) ?_
    | with_reducible refine path_raise _ (List.Subset.trans (by decide) hk) ?_
    | with_reducible refine path_of_fst (by with_reducible assumption) ?_
    | split
    | dsimp +zetaDelta only)

theorem path_copyBlocks {ks : List Kind} {s0 s : State} (stack : Nat) (src : Nat) (dst : Nat) (lo : Nat) (hi : Nat)
    (hk : [.mem, .hbm] ⊆ ks) (h : Path ks s0 s) :
    Path ks s0 (State.copyBlocks s stack src dst lo hi) := by
  unfold State.copyBlocks
  repeat' (first
    | with_reducible assumption
    | extract_lets
    | with_reducible refine path_of_fst (by with_reducible assumption) ?_
    | with_reducible refine path_ite (fun _ => ?_) (fun _ => ?_)
    | with_reducible refine path_ite_fst (fun _ => ?_) (fun _ => ?_)
    | split
    | fail_if_no_progress ((with_reducible refine path_mk ?_ (le_refl _) (le_refl _) (fun hm => ?_) (fun _ => le_refl _) (fun _ hc => ?_) (fun k hn => ?_)); rotate_right 1; (cases k <;> first | exact absurd (hk (by decide)) hn | rfl); rotate_right 1; (first | exact hc | simpa using hc); rotate_right 1; (repeat' first | with_reducible assumption | with_reducible refine wf_memPut _ _ _ ?_ | with_reducible refine wf_putAll _ _ ?_ | with_reducible refine wf_clear _ _ ?_ | with_reducible refine wf_foldl _ _ (fun _ _ _ => ?_) _ ?_))
    | dsimp +zetaDelta only)

theorem path_copyOn {ks : List Kind} {s0 s : State} (stack : Nat) (n : Nat)
    (hk : [.mem, .hbm] ⊆ ks) (h : Path ks s0 s) :
    Path ks s0 (State.copyOn s stack n) := by
  unfold State.copyOn
  repeat' (first
    | with_reducible assumption
    | extract_lets
    | with_reducible refine path_copyBlocks _ _ _ _ _ (List.Subset.trans (by decide) hk) ?_
    | with_reducible refine path_modHbm _ (List.Subset.trans (by decide) hk) (by intro _ _ hc; first | exact hc | exact List.mem_cons_of_mem _ hc | simpa using hc | (dsimp only; split <;> first | exact hc | exact List.mem_cons_of_mem _ hc)) ?_
    | with_reducible refine path_of_fst (by with_reducible assumption) ?_
    | with_reducible refine path_ite (fun _ => ?_) (fun _ => ?_)
    | with_reducible refine path_ite_fst (fun _ => ?_) (fun _ => ?_)
    | split
    | dsimp +zetaDelta only)

theorem path_copyTick {ks : List Kind} {s0 s : State}
    (hk : [.mem, .hbm, .free] ⊆ ks) (h : Path ks s0 s) :
    Path ks s0 (State.copyTick s) := by
  unfold State.copyTick
  repeat' (first
    | with_reducible assumption
    | extract_lets
    | with_reducible refine path_copyOn _ _ (List.Subset.trans (by decide) hk) ?_
    | with_reducible refine path_spend _ (List.Subset.trans (by decide) hk) ?_
    | with_reducible refine path_of_fst (by with_reducible assumption) ?_
    | with_reducible refine path_foldl _ _ (fun _ _ _ => ?_) _ ?_
    | with_reducible refine path_foldl_fst _ _ (fun _ _ _ => ?_) _ ?_
    | split
    | dsimp +zetaDelta only)

theorem path_tellGuests {ks : List Kind} {s0 s : State} (status : Nat)
    (hk : [.guests, .kports, .outs] ⊆ ks) (h : Path ks s0 s) :
    Path ks s0 (State.tellGuests s status) := by
  unfold State.tellGuests
  repeat' (first
    | with_reducible assumption
    | extract_lets
    | with_reducible refine path_sendTo _ _ _ _ (List.Subset.trans (by decide) hk) ?_
    | with_reducible refine path_of_fst (by with_reducible assumption) ?_
    | with_reducible refine path_foldl _ _ (fun _ _ _ => ?_) _ ?_
    | with_reducible refine path_foldl_fst _ _ (fun _ _ _ => ?_) _ ?_
    | with_reducible refine path_ite (fun _ => ?_) (fun _ => ?_)
    | with_reducible refine path_ite_fst (fun _ => ?_) (fun _ => ?_)
    | split
    | fail_if_no_progress (with_reducible refine path_set_guests _ (List.Subset.trans (by decide) hk) ?_)
    | dsimp +zetaDelta only)

theorem path_loseChannel {ks : List Kind} {s0 s : State} (stack : Nat) (phys : Nat)
    (hk : [.mem, .hbm] ⊆ ks) (h : Path ks s0 s) :
    Path ks s0 (State.loseChannel s stack phys) := by
  unfold State.loseChannel
  repeat' (first
    | with_reducible assumption
    | extract_lets
    | with_reducible refine path_of_fst (by with_reducible assumption) ?_
    | split
    | fail_if_no_progress ((with_reducible refine path_mk ?_ (le_refl _) (le_refl _) (fun hm => ?_) (fun _ => le_refl _) (fun _ hc => ?_) (fun k hn => ?_)); rotate_right 1; (cases k <;> first | exact absurd (hk (by decide)) hn | rfl); rotate_right 1; (first | exact hc | simpa using hc); rotate_right 1; (repeat' first | with_reducible assumption | with_reducible refine wf_memPut _ _ _ ?_ | with_reducible refine wf_putAll _ _ ?_ | with_reducible refine wf_clear _ _ ?_ | with_reducible refine wf_foldl _ _ (fun _ _ _ => ?_) _ ?_))
    | dsimp +zetaDelta only)

theorem path_rollOwner {ks : List Kind} {s0 s : State} (p : Nat)
    (hk : [.errq, .parts, .queues, .sites, .mem, .hbm, .streams, .ctr, .colls, .credits, .fetches, .xfers, .tfb, .boot, .outs, .free] ⊆ ks) (h : Path ks s0 s) :
    Path ks s0 (State.rollOwner s p) := by
  unfold State.rollOwner
  repeat' (first
    | with_reducible assumption
    | extract_lets
    | with_reducible refine path_beginRollback _ _ _ (List.Subset.trans (by decide) hk) ?_
    | with_reducible refine path_fenceAbort _ (List.Subset.trans (by decide) hk) ?_
    | with_reducible refine path_of_fst (by with_reducible assumption) ?_
    | with_reducible refine path_ite (fun _ => ?_) (fun _ => ?_)
    | with_reducible refine path_ite_fst (fun _ => ?_) (fun _ => ?_)
    | split
    | dsimp +zetaDelta only)

theorem path_exhausted {ks : List Kind} {s0 s : State} (stack : Nat) (logical : Nat) (phys : Nat)
    (hk : [.errq, .parts, .queues, .sites, .mem, .hbm, .streams, .ctr, .colls, .credits, .fetches, .xfers, .tfb, .boot, .outs, .free] ⊆ ks) (h : Path ks s0 s) :
    Path ks s0 (State.exhausted s stack logical phys) := by
  unfold State.exhausted
  repeat' (first
    | with_reducible assumption
    | extract_lets
    | with_reducible refine path_enterSafeStop _ _ (List.Subset.trans (by decide) hk) ?_
    | with_reducible refine path_modHbm _ (List.Subset.trans (by decide) hk) (by intro _ _ hc; first | exact hc | exact List.mem_cons_of_mem _ hc | simpa using hc | (dsimp only; split <;> first | exact hc | exact List.mem_cons_of_mem _ hc)) ?_
    | with_reducible refine path_raise _ (List.Subset.trans (by decide) hk) ?_
    | with_reducible refine path_of_fst (by with_reducible assumption) ?_
    | with_reducible refine path_foldl _ _ (fun _ _ _ => ?_) _ ?_
    | with_reducible refine path_foldl_fst _ _ (fun _ _ _ => ?_) _ ?_
    | with_reducible refine path_ite (fun _ => ?_) (fun _ => ?_)
    | with_reducible refine path_ite_fst (fun _ => ?_) (fun _ => ?_)
    | split
    | dsimp +zetaDelta only)

theorem path_channelFails {ks : List Kind} {s0 s : State} (stack : Nat) (channel : Nat)
    (hk : [.vals, .errq, .parts, .queues, .sites, .mem, .hbm, .guests, .streams, .ctr, .colls, .credits, .fetches, .xfers, .kports, .tfb, .boot, .outs, .free] ⊆ ks) (h : Path ks s0 s) :
    Path ks s0 (State.channelFails s stack channel) := by
  unfold State.channelFails
  repeat' (first
    | with_reducible assumption
    | extract_lets
    | with_reducible refine path_exhausted _ _ _ (List.Subset.trans (by decide) hk) ?_
    | with_reducible refine path_finishRollback _ (List.Subset.trans (by decide) hk) ?_
    | with_reducible refine path_loseChannel _ _ (List.Subset.trans (by decide) hk) ?_
    | with_reducible refine path_modHbm _ (List.Subset.trans (by decide) hk) (by intro _ _ hc; first | exact hc | exact List.mem_cons_of_mem _ hc | simpa using hc | (dsimp only; split <;> first | exact hc | exact List.mem_cons_of_mem _ hc)) ?_
    | with_reducible refine path_raise _ (List.Subset.trans (by decide) hk) ?_
    | with_reducible refine path_rollOwner _ (List.Subset.trans (by decide) hk) ?_
    | with_reducible refine path_tellGuests _ (List.Subset.trans (by decide) hk) ?_
    | with_reducible refine path_of_fst (by with_reducible assumption) ?_
    | with_reducible refine path_ite (fun _ => ?_) (fun _ => ?_)
    | with_reducible refine path_ite_fst (fun _ => ?_) (fun _ => ?_)
    | split
    | dsimp +zetaDelta only)

end Sys2Proof.Laws
end

