-- ==== Sys2Proof/Laws/PathCollective.lean ====
section
/-!
SUPPORT. What the operations of Machine/Collective.lean can do to the state: one path for each.
-/

set_option linter.all false

namespace Sys2Proof.Laws

open Sys2Proof Sys2Proof.Machine Sys2Proof.Safety

theorem path_modColl {ks : List Kind} {s0 s : State} (q : Nat) (f : CollRun → CollRun)
    (hk : [.colls] ⊆ ks) (h : Path ks s0 s) :
    Path ks s0 (State.modColl s q f) := by
  unfold State.modColl
  repeat' (first
    | with_reducible assumption
    | extract_lets
    | with_reducible refine path_of_fst (by with_reducible assumption) ?_
    | with_reducible refine path_ite (fun _ => ?_) (fun _ => ?_)
    | with_reducible refine path_ite_fst (fun _ => ?_) (fun _ => ?_)
    | split
    | fail_if_no_progress (with_reducible refine path_set_colls _ (List.Subset.trans (by decide) hk) ?_)
    | dsimp +zetaDelta only)

theorem path_countOccurrence {ks : List Kind} {s0 s : State} (p : Nat) (group : Nat) (tensor : Nat)
    (hk : [.mem, .hbm] ⊆ ks) (h : Path ks s0 s) :
    Path ks s0 (State.countOccurrence s p group tensor) := by
  unfold State.countOccurrence
  repeat' (first
    | with_reducible assumption
    | extract_lets
    | with_reducible refine path_wr _ _ _ (List.Subset.trans (by decide) hk) ?_
    | with_reducible refine path_of_fst (by with_reducible assumption) ?_
    | split
    | dsimp +zetaDelta only)

theorem path_poolHigh {ks : List Kind} {s0 s : State} (p : Nat)
    (hk : [.ctr] ⊆ ks) (h : Path ks s0 s) :
    Path ks s0 (State.poolHigh s p) := by
  unfold State.poolHigh
  repeat' (first
    | with_reducible assumption
    | extract_lets
    | with_reducible refine path_of_fst (by with_reducible assumption) ?_
    | split
    | fail_if_no_progress (with_reducible refine path_set_ctr _ (List.Subset.trans (by decide) hk) ?_)
    | dsimp +zetaDelta only)

theorem path_freeEntry {ks : List Kind} {s0 s : State} (p : Nat) (i : Nat)
    (hk : [.mem, .hbm, .pendingSrc] ⊆ ks) (h : Path ks s0 s) :
    Path ks s0 (State.freeEntry s p i) := by
  unfold State.freeEntry
  repeat' (first
    | with_reducible assumption
    | extract_lets
    | with_reducible refine path_wr _ _ _ (List.Subset.trans (by decide) hk) ?_
    | with_reducible refine path_of_fst (by with_reducible assumption) ?_
    | split
    | fail_if_no_progress (with_reducible refine path_set_pendingSrc _ (List.Subset.trans (by decide) hk) ?_)
    | dsimp +zetaDelta only)

theorem path_addDeferred {ks : List Kind} {s0 s : State} (p : Nat) (a : Nat) (o : Nat) (x : CollCtx) (n : Nat)
    (hk : [.mem, .hbm, .ctr, .free] ⊆ ks) (h : Path ks s0 s) :
    Path ks s0 (State.addDeferred s p a o x n) := by
  unfold State.addDeferred
  repeat' (first
    | with_reducible assumption
    | extract_lets
    | with_reducible refine path_addPairTable _ _ _ _ (List.Subset.trans (by decide) hk) ?_
    | with_reducible refine path_addRegion _ _ _ _ _ _ (List.Subset.trans (by decide) hk) ?_
    | with_reducible refine path_of_fst (by with_reducible assumption) ?_
    | with_reducible refine path_ite (fun _ => ?_) (fun _ => ?_)
    | with_reducible refine path_ite_fst (fun _ => ?_) (fun _ => ?_)
    | split
    | dsimp +zetaDelta only)

theorem path_endColl {ks : List Kind} {s0 s : State} (x : CollCtx) (status : Nat)
    (hk : [.parts, .queues, .mem, .hbm, .colls] ⊆ ks) (h : Path ks s0 s) :
    Path ks s0 (State.endColl s x status) := by
  unfold State.endColl
  repeat' (first
    | with_reducible assumption
    | extract_lets
    | with_reducible refine path_issue _ _ _ _ (List.Subset.trans (by decide) hk) ?_
    | with_reducible refine path_recordRun _ _ (List.Subset.trans (by decide) hk) ?_
    | with_reducible refine path_of_fst (by with_reducible assumption) ?_
    | split
    | fail_if_no_progress (with_reducible refine path_set_colls _ (List.Subset.trans (by decide) hk) ?_)
    | dsimp +zetaDelta only)

theorem path_stopColl {ks : List Kind} {s0 s : State} (x : CollCtx) (status : Nat)
    (hk : [.parts, .queues, .mem, .hbm, .colls, .credits] ⊆ ks) (h : Path ks s0 s) :
    Path ks s0 (State.stopColl s x status) := by
  unfold State.stopColl
  repeat' (first
    | with_reducible assumption
    | extract_lets
    | with_reducible refine path_endColl _ _ (List.Subset.trans (by decide) hk) ?_
    | with_reducible refine path_of_fst (by with_reducible assumption) ?_
    | split
    | fail_if_no_progress (with_reducible refine path_set_credits _ (List.Subset.trans (by decide) hk) ?_)
    | dsimp +zetaDelta only)

theorem path_startColl {ks : List Kind} {s0 s : State} (x : CollCtx) (faults : List BlockFault)
    (hk : [.parts, .queues, .mem, .hbm, .colls, .credits, .kports, .outs] ⊆ ks) (h : Path ks s0 s) :
    Path ks s0 (State.startColl s x faults) := by
  unfold State.startColl
  repeat' (first
    | with_reducible assumption
    | extract_lets
    | with_reducible refine path_countOccurrence _ _ _ (List.Subset.trans (by decide) hk) ?_
    | with_reducible refine path_kettleSend _ _ _ _ _ _ (List.Subset.trans (by decide) hk) ?_
    | with_reducible refine path_stopColl _ _ (List.Subset.trans (by decide) hk) ?_
    | with_reducible refine path_of_fst (by with_reducible assumption) ?_
    | with_reducible refine path_ite (fun _ => ?_) (fun _ => ?_)
    | with_reducible refine path_ite_fst (fun _ => ?_) (fun _ => ?_)
    | split
    | fail_if_no_progress (with_reducible refine path_set_colls _ (List.Subset.trans (by decide) hk) ?_)
    | dsimp +zetaDelta only)

theorem path_settleDrops {ks : List Kind} {s0 s : State} (p : Nat)
    (hk : [.parts, .ctr] ⊆ ks) (h : Path ks s0 s) :
    Path ks s0 (State.settleDrops s p) := by
  unfold State.settleDrops
  repeat' (first
    | with_reducible assumption
    | extract_lets
    | with_reducible refine path_count _ _ _ (List.Subset.trans (by decide) hk) ?_
    | with_reducible refine path_modFences _ _ (List.Subset.trans (by decide) hk) ?_
    | with_reducible refine path_of_fst (by with_reducible assumption) ?_
    | with_reducible refine path_ite (fun _ => ?_) (fun _ => ?_)
    | with_reducible refine path_ite_fst (fun _ => ?_) (fun _ => ?_)
    | split
    | dsimp +zetaDelta only)

theorem path_beginCopies {ks : List Kind} {s0 s : State} (p : Nat)
    (hk : [.mem, .hbm] ⊆ ks) (h : Path ks s0 s) :
    Path ks s0 (State.beginCopies s p) := by
  unfold State.beginCopies
  repeat' (first
    | with_reducible assumption
    | extract_lets
    | with_reducible refine path_wr _ _ _ (List.Subset.trans (by decide) hk) ?_
    | with_reducible refine path_of_fst (by with_reducible assumption) ?_
    | with_reducible refine path_foldl _ _ (fun _ _ _ => ?_) _ ?_
    | with_reducible refine path_foldl_fst _ _ (fun _ _ _ => ?_) _ ?_
    | with_reducible refine path_ite (fun _ => ?_) (fun _ => ?_)
    | with_reducible refine path_ite_fst (fun _ => ?_) (fun _ => ?_)
    | split
    | dsimp +zetaDelta only)

theorem path_takeReady {ks : List Kind} {s0 s : State} (x : CollCtx)
    (hk : [.mem, .hbm, .ctr, .colls, .pendingSrc, .free] ⊆ ks) (h : Path ks s0 s) :
    Path ks s0 (State.takeReady s x) := by
  unfold State.takeReady
  repeat' (first
    | with_reducible assumption
    | extract_lets
    | with_reducible refine path_addDeferred _ _ _ _ _ (List.Subset.trans (by decide) hk) ?_
    | with_reducible refine path_beginCopies _ (List.Subset.trans (by decide) hk) ?_
    | with_reducible refine path_freeEntry _ _ (List.Subset.trans (by decide) hk) ?_
    | with_reducible refine path_modColl _ _ (List.Subset.trans (by decide) hk) ?_
    | with_reducible refine path_of_fst (by with_reducible assumption) ?_
    | with_reducible refine path_ite (fun _ => ?_) (fun _ => ?_)
    | with_reducible refine path_ite_fst (fun _ => ?_) (fun _ => ?_)
    | split
    | dsimp +zetaDelta only)

theorem path_noteOwn {ks : List Kind} {s0 s : State} (x : CollCtx) (run : CollRun) (b : Nat)
    (hk : [.errq, .parts, .queues, .sites, .mem, .hbm, .streams, .ctr, .colls, .credits, .fetches, .xfers, .tfb, .boot, .outs, .free] ⊆ ks) (h : Path ks s0 s) :
    Path ks s0 (State.noteOwn s x run b) := by
  unfold State.noteOwn
  repeat' (first
    | with_reducible assumption
    | extract_lets
    | with_reducible refine path_countVerified _ _ _ (List.Subset.trans (by decide) hk) ?_
    | with_reducible refine path_loaded _ _ _ (List.Subset.trans (by decide) hk) ?_
    | with_reducible refine path_modColl _ _ (List.Subset.trans (by decide) hk) ?_
    | with_reducible refine path_raiseRead _ _ _ (List.Subset.trans (by decide) hk) ?_
    | with_reducible refine path_of_fst (by with_reducible assumption) ?_
    | with_reducible refine path_ite (fun _ => ?_) (fun _ => ?_)
    | with_reducible refine path_ite_fst (fun _ => ?_) (fun _ => ?_)
    | split
    | dsimp +zetaDelta only)

theorem path_stopOwn {ks : List Kind} {s0 s : State} (x : CollCtx)
    (hk : [.errq, .parts, .queues, .sites, .mem, .hbm, .streams, .ctr, .colls, .credits, .fetches, .xfers, .tfb, .boot, .outs, .free] ⊆ ks) (h : Path ks s0 s) :
    Path ks s0 (State.stopOwn s x) := by
  unfold State.stopOwn
  repeat' (first
    | with_reducible assumption
    | extract_lets
    | with_reducible refine path_abandonAfter _ _ (List.Subset.trans (by decide) hk) ?_
    | with_reducible refine path_stopColl _ _ (List.Subset.trans (by decide) hk) ?_
    | with_reducible refine path_of_fst (by with_reducible assumption) ?_
    | with_reducible refine path_ite (fun _ => ?_) (fun _ => ?_)
    | with_reducible refine path_ite_fst (fun _ => ?_) (fun _ => ?_)
    | split
    | dsimp +zetaDelta only)

theorem path_oweCredit {ks : List Kind} {s0 s : State} (x : CollCtx)
    (hk : [.colls] ⊆ ks) (h : Path ks s0 s) :
    Path ks s0 (State.oweCredit s x) := by
  unfold State.oweCredit
  repeat' (first
    | with_reducible assumption
    | extract_lets
    | with_reducible refine path_modColl _ _ (List.Subset.trans (by decide) hk) ?_
    | with_reducible refine path_of_fst (by with_reducible assumption) ?_
    | with_reducible refine path_ite (fun _ => ?_) (fun _ => ?_)
    | with_reducible refine path_ite_fst (fun _ => ?_) (fun _ => ?_)
    | split
    | dsimp +zetaDelta only)

theorem path_sendCredits {ks : List Kind} {s0 s : State} (x : CollCtx)
    (hk : [.colls, .kports, .outs] ⊆ ks) (h : Path ks s0 s) :
    Path ks s0 (State.sendCredits s x) := by
  unfold State.sendCredits
  repeat' (first
    | with_reducible assumption
    | extract_lets
    | with_reducible refine path_kettleSend _ _ _ _ _ _ (List.Subset.trans (by decide) hk) ?_
    | with_reducible refine path_modColl _ _ (List.Subset.trans (by decide) hk) ?_
    | with_reducible refine path_of_fst (by with_reducible assumption) ?_
    | with_reducible refine path_ite (fun _ => ?_) (fun _ => ?_)
    | with_reducible refine path_ite_fst (fun _ => ?_) (fun _ => ?_)
    | split
    | dsimp +zetaDelta only)

theorem path_dueCredits {ks : List Kind} {s0 s : State} (x : CollCtx)
    (hk : [.colls, .kports, .outs] ⊆ ks) (h : Path ks s0 s) :
    Path ks s0 (State.dueCredits s x) := by
  unfold State.dueCredits
  repeat' (first
    | with_reducible assumption
    | extract_lets
    | with_reducible refine path_sendCredits _ (List.Subset.trans (by decide) hk) ?_
    | with_reducible refine path_of_fst (by with_reducible assumption) ?_
    | with_reducible refine path_ite (fun _ => ?_) (fun _ => ?_)
    | with_reducible refine path_ite_fst (fun _ => ?_) (fun _ => ?_)
    | split
    | dsimp +zetaDelta only)

theorem path_putResult {ks : List Kind} {s0 s : State} (x : CollCtx) (b : CBlock)
    (hk : [.sites, .mem, .hbm, .ctr, .free] ⊆ ks) (h : Path ks s0 s) :
    Path ks s0 (State.putResult s x b) := by
  unfold State.putResult
  repeat' (first
    | with_reducible assumption
    | extract_lets
    | with_reducible refine path_spoilAt _ _ _ (List.Subset.trans (by decide) hk) ?_
    | with_reducible refine path_store _ _ _ (List.Subset.trans (by decide) hk) ?_
    | with_reducible refine path_wr _ _ _ (List.Subset.trans (by decide) hk) ?_
    | with_reducible refine path_of_fst (by with_reducible assumption) ?_
    | with_reducible refine path_ite (fun _ => ?_) (fun _ => ?_)
    | with_reducible refine path_ite_fst (fun _ => ?_) (fun _ => ?_)
    | split
    | dsimp +zetaDelta only)

theorem path_finishBlock {ks : List Kind} {s0 s : State} (x : CollCtx) (b : CBlock)
    (hk : [.errq, .parts, .queues, .sites, .mem, .hbm, .streams, .ctr, .colls, .credits, .fetches, .xfers, .tfb, .boot, .outs, .free] ⊆ ks) (h : Path ks s0 s) :
    OnPath ks s0 (State.finishBlock s x b) := by
  unfold State.finishBlock
  repeat' (first
    | with_reducible assumption
    | extract_lets
    | with_reducible refine path_checksumFault _ _ _ _ _ _ (List.Subset.trans (by decide) hk) ?_
    | with_reducible refine path_count _ _ _ (List.Subset.trans (by decide) hk) ?_
    | with_reducible refine path_modColl _ _ (List.Subset.trans (by decide) hk) ?_
    | with_reducible refine path_putResult _ _ (List.Subset.trans (by decide) hk) ?_
    | with_reducible refine onPath_some ?_
    | with_reducible exact onPath_none _ _
    | with_reducible refine path_of_fst (by with_reducible assumption) ?_
    | with_reducible refine path_ite (fun _ => ?_) (fun _ => ?_)
    | with_reducible refine path_ite_fst (fun _ => ?_) (fun _ => ?_)
    | split
    | dsimp +zetaDelta only)

theorem path_stopVerify {ks : List Kind} {s0 s : State} (x : CollCtx) (b : CBlock)
    (hk : [.errq, .parts, .queues, .sites, .mem, .hbm, .streams, .ctr, .colls, .credits, .fetches, .xfers, .tfb, .boot, .outs, .free] ⊆ ks) (h : Path ks s0 s) :
    Path ks s0 (State.stopVerify s x b) := by
  unfold State.stopVerify
  repeat' (first
    | with_reducible assumption
    | extract_lets
    | with_reducible refine path_abandonAfter _ _ (List.Subset.trans (by decide) hk) ?_
    | with_reducible refine path_checksumFault _ _ _ _ _ _ (List.Subset.trans (by decide) hk) ?_
    | with_reducible refine path_count _ _ _ (List.Subset.trans (by decide) hk) ?_
    | with_reducible refine path_putResult _ _ (List.Subset.trans (by decide) hk) ?_
    | with_reducible refine path_stopColl _ _ (List.Subset.trans (by decide) hk) ?_
    | with_reducible refine path_of_fst (by with_reducible assumption) ?_
    | split
    | dsimp +zetaDelta only)

theorem path_queueBlock {ks : List Kind} {s0 s : State} (x : CollCtx) (b : CBlock)
    (hk : [.colls] ⊆ ks) (h : Path ks s0 s) :
    Path ks s0 (State.queueBlock s x b) := by
  unfold State.queueBlock
  repeat' (first
    | with_reducible assumption
    | extract_lets
    | with_reducible refine path_modColl _ _ (List.Subset.trans (by decide) hk) ?_
    | with_reducible refine path_of_fst (by with_reducible assumption) ?_
    | split
    | dsimp +zetaDelta only)

theorem path_toStaging {ks : List Kind} {s0 s : State} (x : CollCtx) (data : List Byte)
    (hk : [.mem, .hbm, .free] ⊆ ks) (h : Path ks s0 s) :
    Path ks s0 (State.toStaging s x data) := by
  unfold State.toStaging
  repeat' (first
    | with_reducible assumption
    | extract_lets
    | with_reducible refine path_wr _ _ _ (List.Subset.trans (by decide) hk) ?_
    | with_reducible refine path_of_fst (by with_reducible assumption) ?_
    | split
    | fail_if_no_progress (with_reducible refine path_set_free _ (List.Subset.trans (by decide) hk) ?_)
    | dsimp +zetaDelta only)

theorem path_addStep {ks : List Kind} {s0 s : State} (x : CollCtx) (run : CollRun) (b : CBlock)
    (hk : [.errq, .parts, .queues, .sites, .mem, .hbm, .streams, .ctr, .colls, .credits, .fetches, .xfers, .tfb, .boot, .outs, .free] ⊆ ks) (h : Path ks s0 s) :
    Path ks s0 (State.addStep s x run b) := by
  unfold State.addStep
  repeat' (first
    | with_reducible assumption
    | extract_lets
    | with_reducible refine path_count _ _ _ (List.Subset.trans (by decide) hk) ?_
    | with_reducible refine path_finishBlock _ _ (List.Subset.trans (by decide) hk) ?_
    | with_reducible refine path_modColl _ _ (List.Subset.trans (by decide) hk) ?_
    | with_reducible refine path_noteOwn _ _ _ (List.Subset.trans (by decide) hk) ?_
    | with_reducible refine path_oweCredit _ (List.Subset.trans (by decide) hk) ?_
    | with_reducible refine path_queueBlock _ _ (List.Subset.trans (by decide) hk) ?_
    | with_reducible refine path_stopOwn _ (List.Subset.trans (by decide) hk) ?_
    | with_reducible refine path_stopVerify _ _ (List.Subset.trans (by decide) hk) ?_
    | with_reducible refine path_toStaging _ _ (List.Subset.trans (by decide) hk) ?_
    | with_reducible refine path_of_fst (by with_reducible assumption) ?_
    | with_reducible refine path_of_some (by with_reducible assumption) ?_
    | with_reducible refine path_ite (fun _ => ?_) (fun _ => ?_)
    | with_reducible refine path_ite_fst (fun _ => ?_) (fun _ => ?_)
    | split
    | dsimp +zetaDelta only)

theorem path_gatherStep {ks : List Kind} {s0 s : State} (x : CollCtx) (run : CollRun) (b : CBlock)
    (hk : [.sites, .mem, .hbm, .ctr, .colls, .free] ⊆ ks) (h : Path ks s0 s) :
    Path ks s0 (State.gatherStep s x run b) := by
  unfold State.gatherStep
  repeat' (first
    | with_reducible assumption
    | extract_lets
    | with_reducible refine path_modColl _ _ (List.Subset.trans (by decide) hk) ?_
    | with_reducible refine path_oweCredit _ (List.Subset.trans (by decide) hk) ?_
    | with_reducible refine path_putResult _ _ (List.Subset.trans (by decide) hk) ?_
    | with_reducible refine path_queueBlock _ _ (List.Subset.trans (by decide) hk) ?_
    | with_reducible refine path_of_fst (by with_reducible assumption) ?_
    | with_reducible refine path_ite (fun _ => ?_) (fun _ => ?_)
    | with_reducible refine path_ite_fst (fun _ => ?_) (fun _ => ?_)
    | split
    | dsimp +zetaDelta only)

theorem path_stageStep {ks : List Kind} {s0 s : State} (x : CollCtx)
    (hk : [.errq, .parts, .queues, .sites, .mem, .hbm, .streams, .ctr, .colls, .credits, .fetches, .xfers, .tfb, .boot, .outs, .free] ⊆ ks) (h : Path ks s0 s) :
    Path ks s0 (State.stageStep s x) := by
  unfold State.stageStep
  repeat' (first
    | with_reducible assumption
    | extract_lets
    | with_reducible refine path_addStep _ _ _ (List.Subset.trans (by decide) hk) ?_
    | with_reducible refine path_gatherStep _ _ _ (List.Subset.trans (by decide) hk) ?_
    | with_reducible refine path_of_fst (by with_reducible assumption) ?_
    | with_reducible refine path_ite (fun _ => ?_) (fun _ => ?_)
    | with_reducible refine path_ite_fst (fun _ => ?_) (fun _ => ?_)
    | split
    | dsimp +zetaDelta only)

theorem path_emit {ks : List Kind} {s0 s : State} (x : CollCtx) (b : CBlock)
    (hk : [.ctr, .colls, .credits, .kports, .outs] ⊆ ks) (h : Path ks s0 s) :
    Path ks s0 (State.emit s x b) := by
  unfold State.emit
  repeat' (first
    | with_reducible assumption
    | extract_lets
    | with_reducible refine path_count _ _ _ (List.Subset.trans (by decide) hk) ?_
    | with_reducible refine path_kettleSend _ _ _ _ _ _ (List.Subset.trans (by decide) hk) ?_
    | with_reducible refine path_modColl _ _ (List.Subset.trans (by decide) hk) ?_
    | with_reducible refine path_oweCredit _ (List.Subset.trans (by decide) hk) ?_
    | with_reducible refine path_of_fst (by with_reducible assumption) ?_
    | with_reducible refine path_ite (fun _ => ?_) (fun _ => ?_)
    | with_reducible refine path_ite_fst (fun _ => ?_) (fun _ => ?_)
    | split
    | fail_if_no_progress (with_reducible refine path_set_credits _ (List.Subset.trans (by decide) hk) ?_)
    | dsimp +zetaDelta only)

theorem path_emitStep {ks : List Kind} {s0 s : State} (x : CollCtx)
    (hk : [.errq, .parts, .queues, .sites, .mem, .hbm, .streams, .ctr, .colls, .credits, .fetches, .xfers, .kports, .tfb, .boot, .outs, .free] ⊆ ks) (h : Path ks s0 s) :
    Path ks s0 (State.emitStep s x) := by
  unfold State.emitStep
  repeat' (first
    | with_reducible assumption
    | extract_lets
    | with_reducible refine path_emit _ _ (List.Subset.trans (by decide) hk) ?_
    | with_reducible refine path_modColl _ _ (List.Subset.trans (by decide) hk) ?_
    | with_reducible refine path_noteOwn _ _ _ (List.Subset.trans (by decide) hk) ?_
    | with_reducible refine path_putResult _ _ (List.Subset.trans (by decide) hk) ?_
    | with_reducible refine path_stopOwn _ (List.Subset.trans (by decide) hk) ?_
    | with_reducible refine path_of_fst (by with_reducible assumption) ?_
    | with_reducible refine path_ite (fun _ => ?_) (fun _ => ?_)
    | with_reducible refine path_ite_fst (fun _ => ?_) (fun _ => ?_)
    | split
    | dsimp +zetaDelta only)

theorem path_finishColl {ks : List Kind} {s0 s : State} (x : CollCtx)
    (hk : [.parts, .queues, .mem, .hbm, .colls] ⊆ ks) (h : Path ks s0 s) :
    Path ks s0 (State.finishColl s x) := by
  unfold State.finishColl
  repeat' (first
    | with_reducible assumption
    | extract_lets
    | with_reducible refine path_endColl _ _ (List.Subset.trans (by decide) hk) ?_
    | with_reducible refine path_of_fst (by with_reducible assumption) ?_
    | with_reducible refine path_ite (fun _ => ?_) (fun _ => ?_)
    | with_reducible refine path_ite_fst (fun _ => ?_) (fun _ => ?_)
    | split
    | dsimp +zetaDelta only)

theorem path_pumpColl {ks : List Kind} {s0 s : State} (q : Nat)
    (hk : [.errq, .parts, .queues, .sites, .mem, .hbm, .streams, .ctr, .colls, .credits, .fetches, .xfers, .pendingSrc, .kports, .tfb, .boot, .outs, .free] ⊆ ks) (h : Path ks s0 s) :
    Path ks s0 (State.pumpColl s q) := by
  unfold State.pumpColl
  repeat' (first
    | with_reducible assumption
    | extract_lets
    | with_reducible refine path_dueCredits _ (List.Subset.trans (by decide) hk) ?_
    | with_reducible refine path_emitStep _ (List.Subset.trans (by decide) hk) ?_
    | with_reducible refine path_finishColl _ (List.Subset.trans (by decide) hk) ?_
    | with_reducible refine path_stageStep _ (List.Subset.trans (by decide) hk) ?_
    | with_reducible refine path_takeReady _ (List.Subset.trans (by decide) hk) ?_
    | with_reducible refine path_of_fst (by with_reducible assumption) ?_
    | with_reducible refine path_foldl _ _ (fun _ _ _ => ?_) _ ?_
    | with_reducible refine path_foldl_fst _ _ (fun _ _ _ => ?_) _ ?_
    | split
    | dsimp +zetaDelta only)

theorem path_pumpColls {ks : List Kind} {s0 s : State}
    (hk : [.errq, .parts, .queues, .sites, .mem, .hbm, .streams, .ctr, .colls, .credits, .fetches, .xfers, .pendingSrc, .kports, .tfb, .boot, .outs, .free] ⊆ ks) (h : Path ks s0 s) :
    Path ks s0 (State.pumpColls s) := by
  unfold State.pumpColls
  repeat' (first
    | with_reducible assumption
    | extract_lets
    | with_reducible refine path_pumpColl _ (List.Subset.trans (by decide) hk) ?_
    | with_reducible refine path_settleDrops _ (List.Subset.trans (by decide) hk) ?_
    | with_reducible refine path_of_fst (by with_reducible assumption) ?_
    | with_reducible refine path_foldl _ _ (fun _ _ _ => ?_) _ ?_
    | with_reducible refine path_foldl_fst _ _ (fun _ _ _ => ?_) _ ?_
    | split
    | dsimp +zetaDelta only)

theorem path_stallTick {ks : List Kind} {s0 s : State}
    (hk : [.ctr] ⊆ ks) (h : Path ks s0 s) :
    Path ks s0 (State.stallTick s) := by
  unfold State.stallTick
  repeat' (first
    | with_reducible assumption
    | extract_lets
    | with_reducible refine path_count _ _ _ (List.Subset.trans (by decide) hk) ?_
    | with_reducible refine path_of_fst (by with_reducible assumption) ?_
    | with_reducible refine path_foldl _ _ (fun _ _ _ => ?_) _ ?_
    | with_reducible refine path_foldl_fst _ _ (fun _ _ _ => ?_) _ ?_
    | with_reducible refine path_ite (fun _ => ?_) (fun _ => ?_)
    | with_reducible refine path_ite_fst (fun _ => ?_) (fun _ => ?_)
    | split
    | dsimp +zetaDelta only)

theorem path_runColl {ks : List Kind} {s0 s : State} (q : Nat) (op : Nat) (faults : List BlockFault)
    (hk : [.errq, .parts, .queues, .sites, .mem, .hbm, .streams, .ctr, .colls, .credits, .fetches, .xfers, .pendingSrc, .kports, .tfb, .boot, .outs, .free] ⊆ ks) (h : Path ks s0 s) :
    Path ks s0 (State.runColl s q op faults) := by
  unfold State.runColl
  repeat' (first
    | with_reducible assumption
    | extract_lets
    | with_reducible refine path_pumpColl _ (List.Subset.trans (by decide) hk) ?_
    | with_reducible refine path_startColl _ _ (List.Subset.trans (by decide) hk) ?_
    | with_reducible refine path_of_fst (by with_reducible assumption) ?_
    | with_reducible refine path_ite (fun _ => ?_) (fun _ => ?_)
    | with_reducible refine path_ite_fst (fun _ => ?_) (fun _ => ?_)
    | split
    | dsimp +zetaDelta only)

theorem path_packet {ks : List Kind} {s0 s : State} (h' : KHdr) (f : State → State)
    (hk : [.kports, .outs] ⊆ ks) (hf : ∀ (u : State), Path ks s0 u → Path ks s0 (f u)) (h : Path ks s0 s) :
    Path ks s0 (State.packet s h' f) := by
  unfold State.packet
  repeat' (first
    | with_reducible assumption
    | extract_lets
    | with_reducible refine path_modKport _ _ (List.Subset.trans (by decide) hk) ?_
    | with_reducible refine path_out _ (List.Subset.trans (by decide) hk) ?_
    | exact hf _ (by assumption)
    | with_reducible refine hf _ ?_
    | with_reducible refine hf _ _ ?_
    | with_reducible refine hf _ _ _ ?_
    | with_reducible refine path_of_fst (by with_reducible assumption) ?_
    | with_reducible refine path_ite (fun _ => ?_) (fun _ => ?_)
    | with_reducible refine path_ite_fst (fun _ => ?_) (fun _ => ?_)
    | split
    | dsimp +zetaDelta only)

theorem path_markPending {ks : List Kind} {s0 s : State} (p : Nat) (i : Nat) (age : Nat) (blocks : Nat) (buf : Nat) (ls : List LateSrc)
    (hk : [.mem, .hbm, .pendingSrc] ⊆ ks) (h : Path ks s0 s) :
    Path ks s0 (State.markPending s p i age blocks buf ls) := by
  unfold State.markPending
  repeat' (first
    | with_reducible assumption
    | extract_lets
    | with_reducible refine path_wrAll _ _ (List.Subset.trans (by decide) hk) ?_
    | with_reducible refine path_of_fst (by with_reducible assumption) ?_
    | split
    | fail_if_no_progress (with_reducible refine path_set_pendingSrc _ (List.Subset.trans (by decide) hk) ?_)
    | dsimp +zetaDelta only)

theorem path_deferLate {ks : List Kind} {s0 s : State} (x : CollCtx) (run : CollRun)
    (hk : [.errq, .parts, .queues, .sites, .mem, .hbm, .streams, .ctr, .colls, .credits, .fetches, .xfers, .pendingSrc, .tfb, .boot, .outs, .free] ⊆ ks) (h : Path ks s0 s) :
    Path ks s0 (State.deferLate s x run) := by
  unfold State.deferLate
  repeat' (first
    | with_reducible assumption
    | extract_lets
    | with_reducible refine path_count _ _ _ (List.Subset.trans (by decide) hk) ?_
    | with_reducible refine path_freeEntry _ _ (List.Subset.trans (by decide) hk) ?_
    | with_reducible refine path_markPending _ _ _ _ _ _ (List.Subset.trans (by decide) hk) ?_
    | with_reducible refine path_note _ _ (List.Subset.trans (by decide) hk) ?_
    | with_reducible refine path_poolHigh _ (List.Subset.trans (by decide) hk) ?_
    | with_reducible refine path_of_fst (by with_reducible assumption) ?_
    | with_reducible refine path_ite (fun _ => ?_) (fun _ => ?_)
    | with_reducible refine path_ite_fst (fun _ => ?_) (fun _ => ?_)
    | split
    | fail_if_no_progress (with_reducible refine path_set_pendingSrc _ (List.Subset.trans (by decide) hk) ?_)
    | dsimp +zetaDelta only)

theorem path_dropLate {ks : List Kind} {s0 s : State} (x : CollCtx)
    (hk : [.parts, .mem, .hbm, .ctr, .pendingSrc] ⊆ ks) (h : Path ks s0 s) :
    Path ks s0 (State.dropLate s x) := by
  unfold State.dropLate
  repeat' (first
    | with_reducible assumption
    | extract_lets
    | with_reducible refine path_count _ _ _ (List.Subset.trans (by decide) hk) ?_
    | with_reducible refine path_freeEntry _ _ (List.Subset.trans (by decide) hk) ?_
    | with_reducible refine path_modFences _ _ (List.Subset.trans (by decide) hk) ?_
    | with_reducible refine path_settleDrops _ (List.Subset.trans (by decide) hk) ?_
    | with_reducible refine path_wr _ _ _ (List.Subset.trans (by decide) hk) ?_
    | with_reducible refine path_of_fst (by with_reducible assumption) ?_
    | with_reducible refine path_ite (fun _ => ?_) (fun _ => ?_)
    | with_reducible refine path_ite_fst (fun _ => ?_) (fun _ => ?_)
    | split
    | dsimp +zetaDelta only)

theorem path_dropPending {ks : List Kind} {s0 s : State} (x : CollCtx)
    (hk : [.mem, .hbm, .ctr, .pendingSrc] ⊆ ks) (h : Path ks s0 s) :
    Path ks s0 (State.dropPending s x) := by
  unfold State.dropPending
  repeat' (first
    | with_reducible assumption
    | extract_lets
    | with_reducible refine path_count _ _ _ (List.Subset.trans (by decide) hk) ?_
    | with_reducible refine path_freeEntry _ _ (List.Subset.trans (by decide) hk) ?_
    | with_reducible refine path_of_fst (by with_reducible assumption) ?_
    | with_reducible refine path_ite (fun _ => ?_) (fun _ => ?_)
    | with_reducible refine path_ite_fst (fun _ => ?_) (fun _ => ?_)
    | split
    | dsimp +zetaDelta only)

theorem path_deadline {ks : List Kind} {s0 s : State} (x : CollCtx)
    (hk : [.errq, .parts, .queues, .sites, .mem, .hbm, .streams, .ctr, .colls, .credits, .fetches, .xfers, .pendingSrc, .kports, .tfb, .boot, .outs, .free] ⊆ ks) (h : Path ks s0 s) :
    Path ks s0 (State.deadline s x) := by
  unfold State.deadline
  repeat' (first
    | with_reducible assumption
    | extract_lets
    | with_reducible refine path_beginCopies _ (List.Subset.trans (by decide) hk) ?_
    | with_reducible refine path_deferLate _ _ (List.Subset.trans (by decide) hk) ?_
    | with_reducible refine path_dropLate _ (List.Subset.trans (by decide) hk) ?_
    | with_reducible refine path_dropPending _ (List.Subset.trans (by decide) hk) ?_
    | with_reducible refine path_modColl _ _ (List.Subset.trans (by decide) hk) ?_
    | with_reducible refine path_pumpColl _ (List.Subset.trans (by decide) hk) ?_
    | with_reducible refine path_takeReady _ (List.Subset.trans (by decide) hk) ?_
    | with_reducible refine path_of_fst (by with_reducible assumption) ?_
    | with_reducible refine path_ite (fun _ => ?_) (fun _ => ?_)
    | with_reducible refine path_ite_fst (fun _ => ?_) (fun _ => ?_)
    | split
    | dsimp +zetaDelta only)

theorem path_copyLedger {ks : List Kind} {s0 s : State} (p : Nat) (i : Nat)
    (hk : [.mem, .hbm, .ctr, .pendingSrc, .free] ⊆ ks) (h : Path ks s0 s) :
    Path ks s0 (State.copyLedger s p i) := by
  unfold State.copyLedger
  repeat' (first
    | with_reducible assumption
    | extract_lets
    | with_reducible refine path_addPairTable _ _ _ _ (List.Subset.trans (by decide) hk) ?_
    | with_reducible refine path_addRegion _ _ _ _ _ _ (List.Subset.trans (by decide) hk) ?_
    | with_reducible refine path_markPending _ _ _ _ _ _ (List.Subset.trans (by decide) hk) ?_
    | with_reducible refine path_poolHigh _ (List.Subset.trans (by decide) hk) ?_
    | with_reducible refine path_store _ _ _ (List.Subset.trans (by decide) hk) ?_
    | with_reducible refine path_wr _ _ _ (List.Subset.trans (by decide) hk) ?_
    | with_reducible refine path_of_fst (by with_reducible assumption) ?_
    | with_reducible refine path_ite (fun _ => ?_) (fun _ => ?_)
    | with_reducible refine path_ite_fst (fun _ => ?_) (fun _ => ?_)
    | split
    | fail_if_no_progress (with_reducible refine path_set_pendingSrc _ (List.Subset.trans (by decide) hk) ?_)
    | dsimp +zetaDelta only)

end Sys2Proof.Laws
end

