-- ==== Sys2Proof/Laws/PathPorts.lean ====
section
/-!
SUPPORT. What the operations of Machine/Ports.lean can do to the state: one path for each.
-/

set_option linter.all false

namespace Sys2Proof.Laws

open Sys2Proof Sys2Proof.Machine Sys2Proof.Safety

theorem path_modPort {ks : List Kind} {s0 s : State} (key : Nat) (f : Port → Port)
    (hk : [.caddy] ⊆ ks) (h : Path ks s0 s) :
    Path ks s0 (State.modPort s key f) := by
  unfold State.modPort
  repeat' (first
    | with_reducible assumption
    | extract_lets
    | with_reducible refine path_of_fst (by with_reducible assumption) ?_
    | with_reducible refine path_ite (fun _ => ?_) (fun _ => ?_)
    | with_reducible refine path_ite_fst (fun _ => ?_) (fun _ => ?_)
    | split
    | fail_if_no_progress (with_reducible refine path_set_caddy _ (List.Subset.trans (by decide) hk) ?_)
    | dsimp +zetaDelta only)

theorem path_post {ks : List Kind} {s0 s : State} (processor : Nat) (component : Nat) (sender : Nat) (msg : List Byte)
    (hk : [.caddy] ⊆ ks) (h : Path ks s0 s) :
    Path ks s0 (State.post s processor component sender msg) := by
  unfold State.post
  repeat' (first
    | with_reducible assumption
    | extract_lets
    | with_reducible refine path_modPort _ _ (List.Subset.trans (by decide) hk) ?_
    | with_reducible refine path_of_fst (by with_reducible assumption) ?_
    | with_reducible refine path_ite (fun _ => ?_) (fun _ => ?_)
    | with_reducible refine path_ite_fst (fun _ => ?_) (fun _ => ?_)
    | split
    | dsimp +zetaDelta only)

theorem path_readPort {ks : List Kind} {s0 s : State} (processor : Nat) (component : Nat)
    (hk : [.caddy] ⊆ ks) (h : Path ks s0 s) :
    Path ks s0 (State.readPort s processor component) := by
  unfold State.readPort
  repeat' (first
    | with_reducible assumption
    | extract_lets
    | with_reducible refine path_modPort _ _ (List.Subset.trans (by decide) hk) ?_
    | with_reducible refine path_of_fst (by with_reducible assumption) ?_
    | with_reducible refine path_foldl _ _ (fun _ _ _ => ?_) _ ?_
    | with_reducible refine path_foldl_fst _ _ (fun _ _ _ => ?_) _ ?_
    | split
    | dsimp +zetaDelta only)

theorem path_portTick {ks : List Kind} {s0 s : State}
    (hk : [.caddy] ⊆ ks) (h : Path ks s0 s) :
    Path ks s0 (State.portTick s) := by
  unfold State.portTick
  repeat' (first
    | with_reducible assumption
    | extract_lets
    | with_reducible refine path_of_fst (by with_reducible assumption) ?_
    | split
    | fail_if_no_progress (with_reducible refine path_set_caddy _ (List.Subset.trans (by decide) hk) ?_)
    | dsimp +zetaDelta only)

theorem path_losePorts {ks : List Kind} {s0 s : State} (processor : Nat)
    (hk : [.caddy] ⊆ ks) (h : Path ks s0 s) :
    Path ks s0 (State.losePorts s processor) := by
  unfold State.losePorts
  repeat' (first
    | with_reducible assumption
    | extract_lets
    | with_reducible refine path_of_fst (by with_reducible assumption) ?_
    | with_reducible refine path_ite (fun _ => ?_) (fun _ => ?_)
    | with_reducible refine path_ite_fst (fun _ => ?_) (fun _ => ?_)
    | split
    | fail_if_no_progress (with_reducible refine path_set_caddy _ (List.Subset.trans (by decide) hk) ?_)
    | dsimp +zetaDelta only)

theorem path_acceptWrite {ks : List Kind} {s0 s : State} (source : Nat) (txn : Nat) (i : Nat) (j : Nat) (bs : List Byte)
    (hk : [.caddy] ⊆ ks) (h : Path ks s0 s) :
    Path ks s0 (State.acceptWrite s source txn i j bs) := by
  unfold State.acceptWrite
  repeat' (first
    | with_reducible assumption
    | extract_lets
    | with_reducible refine path_post _ _ _ _ (List.Subset.trans (by decide) hk) ?_
    | with_reducible refine path_readPort _ _ (List.Subset.trans (by decide) hk) ?_
    | with_reducible refine path_of_fst (by with_reducible assumption) ?_
    | split
    | fail_if_no_progress (with_reducible refine path_set_caddy _ (List.Subset.trans (by decide) hk) ?_)
    | dsimp +zetaDelta only)

end Sys2Proof.Laws
end

