-- ==== Sys2Proof/Laws/PathCaddy.lean ====
section
/-!
SUPPORT. What the operations of Machine/Caddy.lean can do to the state: one path for each.
-/

set_option linter.all false

namespace Sys2Proof.Laws

open Sys2Proof Sys2Proof.Machine Sys2Proof.Safety

theorem path_done {ks : List Kind} {s0 : State} (x : State × Nat) (h : Path ks s0 x.1) : Path ks s0 (done x).1 := h

theorem path_sendResponse {ks : List Kind} {s0 s : State} (r : Req) (op : Nat) (i : Nat) (j : Nat) (st : Nat) (value : List Byte)
    (hk : [.caddy, .outs] ⊆ ks) (h : Path ks s0 s) :
    Path ks s0 (State.sendResponse s r op i j st value) := by
  unfold State.sendResponse
  repeat' (first
    | with_reducible assumption
    | extract_lets
    | with_reducible refine path_out _ (List.Subset.trans (by decide) hk) ?_
    | with_reducible refine path_of_fst (by with_reducible assumption) ?_
    | with_reducible refine path_ite (fun _ => ?_) (fun _ => ?_)
    | with_reducible refine path_ite_fst (fun _ => ?_) (fun _ => ?_)
    | split
    | fail_if_no_progress (with_reducible refine path_set_caddy _ (List.Subset.trans (by decide) hk) ?_)
    | dsimp +zetaDelta only)

theorem path_keepResponse {ks : List Kind} {s0 s : State} (r : Req) (op : Nat) (i : Nat) (j : Nat) (st : Nat) (value : List Byte)
    (hk : [.caddy] ⊆ ks) (h : Path ks s0 s) :
    Path ks s0 (State.keepResponse s r op i j st value) := by
  unfold State.keepResponse
  repeat' (first
    | with_reducible assumption
    | extract_lets
    | with_reducible refine path_of_fst (by with_reducible assumption) ?_
    | split
    | fail_if_no_progress (with_reducible refine path_set_caddy _ (List.Subset.trans (by decide) hk) ?_)
    | dsimp +zetaDelta only)

theorem path_respond {ks : List Kind} {s0 s : State} (r : Req) (op : Nat) (i : Nat) (j : Nat) (st : Nat) (value : List Byte)
    (hk : [.caddy, .outs] ⊆ ks) (h : Path ks s0 s) :
    Path ks s0 (State.respond s r op i j st value) := by
  unfold State.respond
  repeat' (first
    | with_reducible assumption
    | extract_lets
    | with_reducible refine path_keepResponse _ _ _ _ _ _ (List.Subset.trans (by decide) hk) ?_
    | with_reducible refine path_sendResponse _ _ _ _ _ _ (List.Subset.trans (by decide) hk) ?_
    | with_reducible refine path_of_fst (by with_reducible assumption) ?_
    | split
    | dsimp +zetaDelta only)

theorem path_gate {ks : List Kind} {s0 s : State} (r : Req) (op : Nat) (i : Nat) (j : Nat)
    (hk : [.caddy, .log] ⊆ ks) (h : Path ks s0 s) :
    Path ks s0 (State.gate s r op i j).1 := by
  unfold State.gate
  repeat' (first
    | with_reducible assumption
    | extract_lets
    | with_reducible refine path_logEvent _ _ _ _ (List.Subset.trans (by decide) hk) ?_
    | with_reducible refine path_of_fst (by with_reducible assumption) ?_
    | with_reducible refine path_ite (fun _ => ?_) (fun _ => ?_)
    | with_reducible refine path_ite_fst (fun _ => ?_) (fun _ => ?_)
    | split
    | fail_if_no_progress (with_reducible refine path_set_caddy _ (List.Subset.trans (by decide) hk) ?_)
    | dsimp +zetaDelta only)

/-- A served request stays on the path when what serves it does. -/
theorem path_serve {ks : List Kind} {s0 : State} {s : State} (r : Req) (op i j : Nat)
    (f : State → State × Option (Nat × List Byte)) (hk : [.caddy, .log, .outs] ⊆ ks)
    (hf : ∀ u : State, Path ks s0 u → Path ks s0 (f u).1) (h : Path ks s0 s) :
    Path ks s0 (State.serve s r op i j f) := by
  have hg := path_gate r op i j (List.Subset.trans (by decide) hk) h
  unfold State.serve
  split
  · rename_i e; rw [e] at hg; exact hg
  · rename_i e; rw [e] at hg; exact path_respond _ _ _ _ _ _ (List.Subset.trans (by decide) hk) hg
  · rename_i e; rw [e] at hg; exact path_sendResponse _ _ _ _ _ _ (List.Subset.trans (by decide) hk) hg
  · rename_i e
    rw [e] at hg
    have hu := hf _ hg
    split
    · rename_i e2; rw [e2] at hu; exact path_respond _ _ _ _ _ _ (List.Subset.trans (by decide) hk) hu
    · rename_i e2; rw [e2] at hu; exact hu

theorem path_commitWrite {ks : List Kind} {s0 s : State} (route : Nat) (i : Nat) (j : Nat) (bs : List Byte)
    (hk : [.vals, .log, .nor] ⊆ ks) (h : Path ks s0 s) :
    Path ks s0 (State.commitWrite s route i j bs) := by
  unfold State.commitWrite
  repeat' (first
    | with_reducible assumption
    | extract_lets
    | with_reducible refine path_logWrite _ _ _ _ _ _ (List.Subset.trans (by decide) hk) ?_
    | with_reducible refine path_saveVal _ _ _ (List.Subset.trans (by decide) hk) ?_
    | with_reducible refine path_of_fst (by with_reducible assumption) ?_
    | with_reducible refine path_ite (fun _ => ?_) (fun _ => ?_)
    | with_reducible refine path_ite_fst (fun _ => ?_) (fun _ => ?_)
    | split
    | dsimp +zetaDelta only)

/-- The same for a served write. -/
theorem path_serveWrite {ks : List Kind} {s0 : State} {s : State} (r : Req) (i j ty : Nat) (bs : List Byte)
    (f : State → State × Option Nat) (hk : [.vals, .caddy, .log, .nor, .outs] ⊆ ks)
    (hf : ∀ u : State, Path ks s0 u → Path ks s0 (f u).1) (h : Path ks s0 s) :
    Path ks s0 (State.serveWrite s r i j ty bs f) := by
  unfold State.serveWrite
  refine path_serve _ _ _ _ _ (List.Subset.trans (by decide) hk) (fun u hu => ?_) h
  dsimp only
  split
  · exact hu
  · have hv := hf _ (path_acceptWrite (sourceOf r) r.txn i j bs (List.Subset.trans (by decide) hk) hu)
    split
    · rename_i e; rw [e] at hv; exact path_commitWrite _ _ _ _ (List.Subset.trans (by decide) hk) hv
    · rename_i e; rw [e] at hv; exact hv
    · rename_i e; rw [e] at hv; exact hv

theorem path_runControl {ks : List Kind} {s0 s : State} (p : Nat) (v : Nat) (route : Nat)
    (hk : [.vals, .log, .errq, .parts, .queues, .sites, .mem, .hbm, .streams, .ctr, .colls, .credits, .fetches, .xfers, .pendingSrc, .kports, .tfb, .nor, .boot, .power, .outs, .free] ⊆ ks) (h : Path ks s0 s) :
    Path ks s0 (State.runControl s p v route).1 := by
  unfold State.runControl
  repeat' (first
    | with_reducible assumption
    | extract_lets
    | with_reducible refine path_abort _ (List.Subset.trans (by decide) hk) ?_
    | with_reducible refine path_clearSafeStop _ (List.Subset.trans (by decide) hk) ?_
    | with_reducible refine path_drain _ (List.Subset.trans (by decide) hk) ?_
    | with_reducible refine path_runReclaim _ (List.Subset.trans (by decide) hk) ?_
    | with_reducible refine path_runScrub _ (List.Subset.trans (by decide) hk) ?_
    | with_reducible refine path_start _ _ (List.Subset.trans (by decide) hk) ?_
    | with_reducible refine path_of_fst (by with_reducible assumption) ?_
    | with_reducible refine path_ite (fun _ => ?_) (fun _ => ?_)
    | with_reducible refine path_ite_fst (fun _ => ?_) (fun _ => ?_)
    | split
    | dsimp +zetaDelta only)

theorem path_writeRun {ks : List Kind} {s0 s : State} (r : Req) (p : Nat) (v : Nat)
    (hk : [.vals, .caddy, .log, .errq, .parts, .queues, .sites, .mem, .hbm, .streams, .ctr, .colls, .credits, .fetches, .xfers, .pendingSrc, .kports, .tfb, .nor, .boot, .power, .outs, .free] ⊆ ks) (h : Path ks s0 s) :
    Path ks s0 (State.writeRun s r p v) := by
  unfold State.writeRun
  repeat' (first
    | with_reducible assumption
    | extract_lets
    | with_reducible refine path_runControl _ _ _ (List.Subset.trans (by decide) hk) ?_
    | with_reducible refine path_serveWrite _ _ _ _ _ _ (List.Subset.trans (by decide) hk) (fun _ _ => ?_) ?_
    | with_reducible refine path_done _ ?_
    | with_reducible refine path_of_fst (by with_reducible assumption) ?_
    | split
    | dsimp +zetaDelta only)

end Sys2Proof.Laws
end

