-- ==== Sys2Proof/Laws/PathInfuser.lean ====
section
/-!
SUPPORT. What the operations of Machine/Infuser.lean can do to the state: one path for each.
-/

set_option linter.all false

namespace Sys2Proof.Laws

open Sys2Proof Sys2Proof.Machine Sys2Proof.Safety

theorem path_mediaBind {ks : List Kind} {s0 s : State} (n : Nat) (r : QRef) (c : CmdRec)
    (hk : [.mem, .hbm, .streams] ⊆ ks) (h : Path ks s0 s) :
    Path ks s0 (State.mediaBind s n r c).1 := by
  unfold State.mediaBind
  repeat' (first
    | with_reducible assumption
    | extract_lets
    | with_reducible refine path_modStream _ _ (List.Subset.trans (by decide) hk) ?_
    | with_reducible refine path_syncHeader _ (List.Subset.trans (by decide) hk) ?_
    | with_reducible refine path_of_fst (by with_reducible assumption) ?_
    | with_reducible refine path_ite (fun _ => ?_) (fun _ => ?_)
    | with_reducible refine path_ite_fst (fun _ => ?_) (fun _ => ?_)
    | split
    | dsimp +zetaDelta only)

theorem path_takeFrame {ks : List Kind} {s0 s : State} (m : IngestMsg)
    (hk : [.iports] ⊆ ks) (h : Path ks s0 s) :
    Path ks s0 (State.takeFrame s m).1 := by
  unfold State.takeFrame
  repeat' (first
    | with_reducible assumption
    | extract_lets
    | with_reducible refine path_of_fst (by with_reducible assumption) ?_
    | with_reducible refine path_ite (fun _ => ?_) (fun _ => ?_)
    | with_reducible refine path_ite_fst (fun _ => ?_) (fun _ => ?_)
    | split
    | fail_if_no_progress (with_reducible refine path_set_iports _ (List.Subset.trans (by decide) hk) ?_)
    | dsimp +zetaDelta only)

theorem path_spoil {ks : List Kind} {s0 s : State} (n : Nat) (reason : Nat)
    (hk : [.streams] ⊆ ks) (h : Path ks s0 s) :
    Path ks s0 (State.spoil s n reason) := by
  unfold State.spoil
  repeat' (first
    | with_reducible assumption
    | extract_lets
    | with_reducible refine path_modStream _ _ (List.Subset.trans (by decide) hk) ?_
    | with_reducible refine path_of_fst (by with_reducible assumption) ?_
    | with_reducible refine path_ite (fun _ => ?_) (fun _ => ?_)
    | with_reducible refine path_ite_fst (fun _ => ?_) (fun _ => ?_)
    | split
    | dsimp +zetaDelta only)

theorem path_authFailure {ks : List Kind} {s0 s : State} (n : Nat) (gap : Bool)
    (hk : [.errq, .parts, .queues, .sites, .mem, .hbm, .streams, .ctr, .colls, .credits, .fetches, .xfers, .tfb, .boot, .outs, .free] ⊆ ks) (h : Path ks s0 s) :
    Path ks s0 (State.authFailure s n gap) := by
  unfold State.authFailure
  repeat' (first
    | with_reducible assumption
    | extract_lets
    | with_reducible refine path_abortClose _ _ (List.Subset.trans (by decide) hk) ?_
    | with_reducible refine path_count _ _ _ (List.Subset.trans (by decide) hk) ?_
    | with_reducible refine path_modStream _ _ (List.Subset.trans (by decide) hk) ?_
    | with_reducible refine path_pump _ (List.Subset.trans (by decide) hk) ?_
    | with_reducible refine path_raise _ (List.Subset.trans (by decide) hk) ?_
    | with_reducible refine path_spoil _ _ (List.Subset.trans (by decide) hk) ?_
    | with_reducible refine path_of_fst (by with_reducible assumption) ?_
    | with_reducible refine path_ite (fun _ => ?_) (fun _ => ?_)
    | with_reducible refine path_ite_fst (fun _ => ?_) (fun _ => ?_)
    | split
    | dsimp +zetaDelta only)

theorem path_takeSeq {ks : List Kind} {s0 s : State} (n : Nat) (seq : Nat)
    (hk : [.streams] ⊆ ks) (h : Path ks s0 s) :
    Path ks s0 (State.takeSeq s n seq).1 := by
  unfold State.takeSeq
  repeat' (first
    | with_reducible assumption
    | extract_lets
    | with_reducible refine path_modStream _ _ (List.Subset.trans (by decide) hk) ?_
    | with_reducible refine path_of_fst (by with_reducible assumption) ?_
    | split
    | dsimp +zetaDelta only)

theorem path_openStream {ks : List Kind} {s0 s : State} (n : Nat) (m : IngestMsg)
    (hk : [.errq, .parts, .queues, .sites, .mem, .hbm, .streams, .ctr, .colls, .credits, .fetches, .xfers, .iports, .tfb, .boot, .outs, .free] ⊆ ks) (h : Path ks s0 s) :
    Path ks s0 (State.openStream s n m) := by
  unfold State.openStream
  repeat' (first
    | with_reducible assumption
    | extract_lets
    | with_reducible refine path_modStream _ _ (List.Subset.trans (by decide) hk) ?_
    | with_reducible refine path_pump _ (List.Subset.trans (by decide) hk) ?_
    | with_reducible refine path_spoil _ _ (List.Subset.trans (by decide) hk) ?_
    | with_reducible refine path_tellSender _ _ _ _ (List.Subset.trans (by decide) hk) ?_
    | with_reducible refine path_of_fst (by with_reducible assumption) ?_
    | with_reducible refine path_ite (fun _ => ?_) (fun _ => ?_)
    | with_reducible refine path_ite_fst (fun _ => ?_) (fun _ => ?_)
    | split
    | fail_if_no_progress (with_reducible refine path_set_iports _ (List.Subset.trans (by decide) hk) ?_)
    | dsimp +zetaDelta only)

theorem path_onMessage {ks : List Kind} {s0 s : State} (m : IngestMsg) (f : State → Nat → State)
    (hk : [.errq, .parts, .queues, .sites, .mem, .hbm, .streams, .ctr, .colls, .credits, .fetches, .xfers, .iports, .tfb, .boot, .outs, .free] ⊆ ks) (hf : ∀ (u : State) (x : Nat), Path ks s0 u → Path ks s0 (f u x)) (h : Path ks s0 s) :
    Path ks s0 (State.onMessage s m f) := by
  unfold State.onMessage
  repeat' (first
    | with_reducible assumption
    | extract_lets
    | with_reducible refine path_authFailure _ _ (List.Subset.trans (by decide) hk) ?_
    | with_reducible refine path_takeFrame _ (List.Subset.trans (by decide) hk) ?_
    | with_reducible refine path_takeSeq _ _ (List.Subset.trans (by decide) hk) ?_
    | exact hf _ (by assumption)
    | with_reducible refine hf _ ?_
    | with_reducible refine hf _ _ ?_
    | with_reducible refine hf _ _ _ ?_
    | with_reducible refine path_of_fst (by with_reducible assumption) ?_
    | with_reducible refine path_ite (fun _ => ?_) (fun _ => ?_)
    | with_reducible refine path_ite_fst (fun _ => ?_) (fun _ => ?_)
    | split
    | dsimp +zetaDelta only)

theorem path_beginSample {ks : List Kind} {s0 s : State} (n : Nat) (m : IngestMsg)
    (hk : [.streams] ⊆ ks) (h : Path ks s0 s) :
    Path ks s0 (State.beginSample s n m) := by
  unfold State.beginSample
  repeat' (first
    | with_reducible assumption
    | extract_lets
    | with_reducible refine path_modStream _ _ (List.Subset.trans (by decide) hk) ?_
    | with_reducible refine path_spoil _ _ (List.Subset.trans (by decide) hk) ?_
    | with_reducible refine path_of_fst (by with_reducible assumption) ?_
    | split
    | dsimp +zetaDelta only)

theorem path_addBytes {ks : List Kind} {s0 s : State} (n : Nat) (bytes : List Byte) (last : Bool)
    (hk : [.streams, .ctr, .outs] ⊆ ks) (h : Path ks s0 s) :
    Path ks s0 (State.addBytes s n bytes last) := by
  unfold State.addBytes
  repeat' (first
    | with_reducible assumption
    | extract_lets
    | with_reducible refine path_count _ _ _ (List.Subset.trans (by decide) hk) ?_
    | with_reducible refine path_modStream _ _ (List.Subset.trans (by decide) hk) ?_
    | with_reducible refine path_owe _ _ (List.Subset.trans (by decide) hk) ?_
    | with_reducible refine path_of_fst (by with_reducible assumption) ?_
    | with_reducible refine path_ite (fun _ => ?_) (fun _ => ?_)
    | with_reducible refine path_ite_fst (fun _ => ?_) (fun _ => ?_)
    | split
    | dsimp +zetaDelta only)

theorem path_highWater {ks : List Kind} {s0 s : State} (n : Nat)
    (hk : [.ctr] ⊆ ks) (h : Path ks s0 s) :
    Path ks s0 (State.highWater s n) := by
  unfold State.highWater
  repeat' (first
    | with_reducible assumption
    | extract_lets
    | with_reducible refine path_of_fst (by with_reducible assumption) ?_
    | split
    | fail_if_no_progress (with_reducible refine path_set_ctr _ (List.Subset.trans (by decide) hk) ?_)
    | dsimp +zetaDelta only)

theorem path_onData {ks : List Kind} {s0 s : State} (n : Nat) (m : IngestMsg) (follows : Bool)
    (hk : [.errq, .parts, .queues, .sites, .mem, .hbm, .streams, .ctr, .colls, .credits, .fetches, .xfers, .tfb, .boot, .outs, .free] ⊆ ks) (h : Path ks s0 s) :
    Path ks s0 (State.onData s n m follows) := by
  unfold State.onData
  repeat' (first
    | with_reducible assumption
    | extract_lets
    | with_reducible refine path_addBytes _ _ _ (List.Subset.trans (by decide) hk) ?_
    | with_reducible refine path_authFailure _ _ (List.Subset.trans (by decide) hk) ?_
    | with_reducible refine path_beginSample _ _ (List.Subset.trans (by decide) hk) ?_
    | with_reducible refine path_count _ _ _ (List.Subset.trans (by decide) hk) ?_
    | with_reducible refine path_highWater _ (List.Subset.trans (by decide) hk) ?_
    | with_reducible refine path_modStream _ _ (List.Subset.trans (by decide) hk) ?_
    | with_reducible refine path_owe _ _ (List.Subset.trans (by decide) hk) ?_
    | with_reducible refine path_pump _ (List.Subset.trans (by decide) hk) ?_
    | with_reducible refine path_spoil _ _ (List.Subset.trans (by decide) hk) ?_
    | with_reducible refine path_of_fst (by with_reducible assumption) ?_
    | with_reducible refine path_ite (fun _ => ?_) (fun _ => ?_)
    | with_reducible refine path_ite_fst (fun _ => ?_) (fun _ => ?_)
    | split
    | dsimp +zetaDelta only)

theorem path_ingestDown {ks : List Kind} {s0 s : State} (port : Nat)
    (hk : [.errq, .parts, .queues, .sites, .mem, .hbm, .streams, .ctr, .colls, .credits, .fetches, .xfers, .iports, .tfb, .boot, .outs, .free] ⊆ ks) (h : Path ks s0 s) :
    Path ks s0 (State.ingestDown s port) := by
  unfold State.ingestDown
  repeat' (first
    | with_reducible assumption
    | extract_lets
    | with_reducible refine path_failStream _ _ (List.Subset.trans (by decide) hk) ?_
    | with_reducible refine path_raise _ (List.Subset.trans (by decide) hk) ?_
    | with_reducible refine path_of_fst (by with_reducible assumption) ?_
    | with_reducible refine path_foldl _ _ (fun _ _ _ => ?_) _ ?_
    | with_reducible refine path_foldl_fst _ _ (fun _ _ _ => ?_) _ ?_
    | with_reducible refine path_ite (fun _ => ?_) (fun _ => ?_)
    | with_reducible refine path_ite_fst (fun _ => ?_) (fun _ => ?_)
    | split
    | fail_if_no_progress (with_reducible refine path_set_iports _ (List.Subset.trans (by decide) hk) ?_)
    | dsimp +zetaDelta only)

end Sys2Proof.Laws
end

