-- ==== Sys2Proof/Laws/PathKettle.lean ====
section
/-!
SUPPORT. What the operations of Machine/Kettle.lean can do to the state: one path for each.
-/

set_option linter.all false

namespace Sys2Proof.Laws

open Sys2Proof Sys2Proof.Machine Sys2Proof.Safety

theorem path_stopPortColls {ks : List Kind} {s0 s : State} (k : Nat)
    (hk : [.parts, .queues, .mem, .hbm, .colls, .credits] ⊆ ks) (h : Path ks s0 s) :
    Path ks s0 (State.stopPortColls s k) := by
  unfold State.stopPortColls
  repeat' (first
    | with_reducible assumption
    | extract_lets
    | with_reducible refine path_stopColl _ _ (List.Subset.trans (by decide) hk) ?_
    | with_reducible refine path_of_fst (by with_reducible assumption) ?_
    | with_reducible refine path_foldl _ _ (fun _ _ _ => ?_) _ ?_
    | with_reducible refine path_foldl_fst _ _ (fun _ _ _ => ?_) _ ?_
    | split
    | dsimp +zetaDelta only)

theorem path_rerouteBlocks {ks : List Kind} {s0 s : State} (k : Nat)
    (hk : [.xfers] ⊆ ks) (h : Path ks s0 s) :
    Path ks s0 (State.rerouteBlocks s k) := by
  unfold State.rerouteBlocks
  repeat' (first
    | with_reducible assumption
    | extract_lets
    | with_reducible refine path_of_fst (by with_reducible assumption) ?_
    | split
    | fail_if_no_progress (with_reducible refine path_set_xfers _ (List.Subset.trans (by decide) hk) ?_)
    | dsimp +zetaDelta only)

theorem path_bindGranted {ks : List Kind} {s0 s : State} (p : Nat) (m : Nat) (gib : Nat) (slots : Nat)
    (hk : [.parts] ⊆ ks) (h : Path ks s0 s) :
    Path ks s0 (State.bindGranted s p m gib slots) := by
  unfold State.bindGranted
  repeat' (first
    | with_reducible assumption
    | extract_lets
    | with_reducible refine path_dropHolder _ _ (List.Subset.trans (by decide) hk) ?_
    | with_reducible refine path_modPart _ _ (List.Subset.trans (by decide) hk) ?_
    | with_reducible refine path_of_fst (by with_reducible assumption) ?_
    | with_reducible refine path_ite (fun _ => ?_) (fun _ => ?_)
    | with_reducible refine path_ite_fst (fun _ => ?_) (fun _ => ?_)
    | split
    | dsimp +zetaDelta only)

theorem path_askBind {ks : List Kind} {s0 s : State} (r : Req) (p : Nat) (m : Nat) (gib : Nat) (j : Nat)
    (hk : [.parts, .kports, .outs] ⊆ ks) (h : Path ks s0 s) :
    Path ks s0 (State.askBind s r p m gib j).1 := by
  unfold State.askBind
  repeat' (first
    | with_reducible assumption
    | extract_lets
    | with_reducible refine path_sendBind _ _ _ _ (List.Subset.trans (by decide) hk) ?_
    | with_reducible refine path_of_fst (by with_reducible assumption) ?_
    | with_reducible refine path_ite (fun _ => ?_) (fun _ => ?_)
    | with_reducible refine path_ite_fst (fun _ => ?_) (fun _ => ?_)
    | split
    | dsimp +zetaDelta only)

theorem path_setPartner {ks : List Kind} {s0 s : State} (r : Req) (p : Nat) (m : Nat)
    (hk : [.parts, .kports, .outs] ⊆ ks) (h : Path ks s0 s) :
    Path ks s0 (State.setPartner s r p m).1 := by
  unfold State.setPartner
  repeat' (first
    | with_reducible assumption
    | extract_lets
    | with_reducible refine path_askBind _ _ _ _ _ (List.Subset.trans (by decide) hk) ?_
    | with_reducible refine path_modPart _ _ (List.Subset.trans (by decide) hk) ?_
    | with_reducible refine path_of_fst (by with_reducible assumption) ?_
    | with_reducible refine path_ite (fun _ => ?_) (fun _ => ?_)
    | with_reducible refine path_ite_fst (fun _ => ?_) (fun _ => ?_)
    | split
    | dsimp +zetaDelta only)

theorem path_setWindow {ks : List Kind} {s0 s : State} (r : Req) (p : Nat) (gib : Nat)
    (hk : [.parts, .kports, .outs] ⊆ ks) (h : Path ks s0 s) :
    Path ks s0 (State.setWindow s r p gib).1 := by
  unfold State.setWindow
  repeat' (first
    | with_reducible assumption
    | extract_lets
    | with_reducible refine path_askBind _ _ _ _ _ (List.Subset.trans (by decide) hk) ?_
    | with_reducible refine path_of_fst (by with_reducible assumption) ?_
    | with_reducible refine path_ite (fun _ => ?_) (fun _ => ?_)
    | with_reducible refine path_ite_fst (fun _ => ?_) (fun _ => ?_)
    | split
    | dsimp +zetaDelta only)

theorem path_waitBind {ks : List Kind} {s0 s : State} (r : Req) (p : Nat) (j : Nat) (v : Nat)
    (hk : [.parts] ⊆ ks) (h : Path ks s0 s) :
    Path ks s0 (State.waitBind s r p j v).1 := by
  unfold State.waitBind
  repeat' (first
    | with_reducible assumption
    | extract_lets
    | with_reducible refine path_modPart _ _ (List.Subset.trans (by decide) hk) ?_
    | with_reducible refine path_of_fst (by with_reducible assumption) ?_
    | split
    | dsimp +zetaDelta only)

theorem path_answerBind {ks : List Kind} {s0 s : State} (r : Req) (p : Nat) (j : Nat) (v : Nat) (status : Nat)
    (hk : [.vals, .caddy, .log, .nor, .outs] ⊆ ks) (h : Path ks s0 s) :
    Path ks s0 (State.answerBind s r p j v status) := by
  unfold State.answerBind
  repeat' (first
    | with_reducible assumption
    | extract_lets
    | with_reducible refine path_commitWrite _ _ _ _ (List.Subset.trans (by decide) hk) ?_
    | with_reducible refine path_respond _ _ _ _ _ _ (List.Subset.trans (by decide) hk) ?_
    | with_reducible refine path_of_fst (by with_reducible assumption) ?_
    | with_reducible refine path_ite (fun _ => ?_) (fun _ => ?_)
    | with_reducible refine path_ite_fst (fun _ => ?_) (fun _ => ?_)
    | split
    | dsimp +zetaDelta only)

theorem path_nextBind {ks : List Kind} {s0 s : State} (p : Nat)
    (hk : [.vals, .caddy, .log, .parts, .kports, .nor, .outs] ⊆ ks) (h : Path ks s0 s) :
    Path ks s0 (State.nextBind s p) := by
  unfold State.nextBind
  repeat' (first
    | with_reducible assumption
    | extract_lets
    | with_reducible refine path_answerBind _ _ _ _ _ (List.Subset.trans (by decide) hk) ?_
    | with_reducible refine path_modPart _ _ (List.Subset.trans (by decide) hk) ?_
    | with_reducible refine path_setPartner _ _ _ (List.Subset.trans (by decide) hk) ?_
    | with_reducible refine path_setWindow _ _ _ (List.Subset.trans (by decide) hk) ?_
    | with_reducible refine path_of_fst (by with_reducible assumption) ?_
    | with_reducible refine path_ite (fun _ => ?_) (fun _ => ?_)
    | with_reducible refine path_ite_fst (fun _ => ?_) (fun _ => ?_)
    | split
    | dsimp +zetaDelta only)

theorem path_nextBinds {ks : List Kind} {s0 s : State} (p : Nat)
    (hk : [.vals, .caddy, .log, .parts, .kports, .nor, .outs] ⊆ ks) (h : Path ks s0 s) :
    Path ks s0 (State.nextBinds s p) := by
  unfold State.nextBinds
  repeat' (first
    | with_reducible assumption
    | extract_lets
    | with_reducible refine path_nextBind _ (List.Subset.trans (by decide) hk) ?_
    | with_reducible refine path_of_fst (by with_reducible assumption) ?_
    | with_reducible refine path_foldl _ _ (fun _ _ _ => ?_) _ ?_
    | with_reducible refine path_foldl_fst _ _ (fun _ _ _ => ?_) _ ?_
    | split
    | dsimp +zetaDelta only)

theorem path_bindAnswered {ks : List Kind} {s0 s : State} (p : Nat) (status : Nat) (slots : Nat)
    (hk : [.vals, .caddy, .log, .parts, .kports, .nor, .outs] ⊆ ks) (h : Path ks s0 s) :
    Path ks s0 (State.bindAnswered s p status slots) := by
  unfold State.bindAnswered
  repeat' (first
    | with_reducible assumption
    | extract_lets
    | with_reducible refine path_answerBind _ _ _ _ _ (List.Subset.trans (by decide) hk) ?_
    | with_reducible refine path_bindGranted _ _ _ _ (List.Subset.trans (by decide) hk) ?_
    | with_reducible refine path_modPart _ _ (List.Subset.trans (by decide) hk) ?_
    | with_reducible refine path_nextBinds _ (List.Subset.trans (by decide) hk) ?_
    | with_reducible refine path_of_fst (by with_reducible assumption) ?_
    | with_reducible refine path_ite (fun _ => ?_) (fun _ => ?_)
    | with_reducible refine path_ite_fst (fun _ => ?_) (fun _ => ?_)
    | split
    | dsimp +zetaDelta only)

theorem path_unreachable {ks : List Kind} {s0 s : State} (m : Nat)
    (hk : [.vals, .caddy, .log, .errq, .parts, .queues, .sites, .mem, .hbm, .streams, .ctr, .colls, .credits, .fetches, .xfers, .kports, .tfb, .nor, .boot, .outs, .free] ⊆ ks) (h : Path ks s0 s) :
    Path ks s0 (State.unreachable s m) := by
  unfold State.unreachable
  repeat' (first
    | with_reducible assumption
    | extract_lets
    | with_reducible refine path_bindAnswered _ _ _ (List.Subset.trans (by decide) hk) ?_
    | with_reducible refine path_issue _ _ _ _ (List.Subset.trans (by decide) hk) ?_
    | with_reducible refine path_landingFailed _ _ (List.Subset.trans (by decide) hk) ?_
    | with_reducible refine path_of_fst (by with_reducible assumption) ?_
    | with_reducible refine path_foldl _ _ (fun _ _ _ => ?_) _ ?_
    | with_reducible refine path_foldl_fst _ _ (fun _ _ _ => ?_) _ ?_
    | with_reducible refine path_ite (fun _ => ?_) (fun _ => ?_)
    | with_reducible refine path_ite_fst (fun _ => ?_) (fun _ => ?_)
    | split
    | fail_if_no_progress (with_reducible refine path_set_fetches _ (List.Subset.trans (by decide) hk) ?_)
    | fail_if_no_progress (with_reducible refine path_set_xfers _ (List.Subset.trans (by decide) hk) ?_)
    | fail_if_no_progress ((with_reducible refine path_mk ?_ (le_refl _) (le_refl _) id (fun _ => le_refl _) (fun _ h => h) (fun k hn => ?_)); rotate_right 1; (cases k <;> first | exact absurd (hk (by decide)) hn | rfl))
    | dsimp +zetaDelta only)

theorem path_portOff {ks : List Kind} {s0 s : State} (k : Nat) (st : Nat)
    (hk : [.vals, .caddy, .log, .errq, .parts, .queues, .sites, .mem, .hbm, .streams, .ctr, .colls, .credits, .fetches, .xfers, .kports, .tfb, .nor, .boot, .outs, .free] ⊆ ks) (h : Path ks s0 s) :
    Path ks s0 (State.portOff s k st) := by
  unfold State.portOff
  repeat' (first
    | with_reducible assumption
    | extract_lets
    | with_reducible refine path_modKport _ _ (List.Subset.trans (by decide) hk) ?_
    | with_reducible refine path_pumpXfers (List.Subset.trans (by decide) hk) ?_
    | with_reducible refine path_rerouteBlocks _ (List.Subset.trans (by decide) hk) ?_
    | with_reducible refine path_stopPortColls _ (List.Subset.trans (by decide) hk) ?_
    | with_reducible refine path_unreachable _ (List.Subset.trans (by decide) hk) ?_
    | with_reducible refine path_of_fst (by with_reducible assumption) ?_
    | split
    | dsimp +zetaDelta only)

theorem path_kettleDown {ks : List Kind} {s0 s : State} (k : Nat) (lane : Nat)
    (hk : [.vals, .caddy, .log, .errq, .parts, .queues, .sites, .mem, .hbm, .streams, .ctr, .colls, .credits, .fetches, .xfers, .kports, .tfb, .nor, .boot, .outs, .free] ⊆ ks) (h : Path ks s0 s) :
    Path ks s0 (State.kettleDown s k lane) := by
  unfold State.kettleDown
  repeat' (first
    | with_reducible assumption
    | extract_lets
    | with_reducible refine path_portOff _ _ (List.Subset.trans (by decide) hk) ?_
    | with_reducible refine path_raise _ (List.Subset.trans (by decide) hk) ?_
    | with_reducible refine path_of_fst (by with_reducible assumption) ?_
    | split
    | dsimp +zetaDelta only)

theorem path_sendNak {ks : List Kind} {s0 s : State} (k : Nat)
    (hk : [.kports, .outs] ⊆ ks) (h : Path ks s0 s) :
    Path ks s0 (State.sendNak s k) := by
  unfold State.sendNak
  repeat' (first
    | with_reducible assumption
    | extract_lets
    | with_reducible refine path_modKport _ _ (List.Subset.trans (by decide) hk) ?_
    | with_reducible refine path_out _ (List.Subset.trans (by decide) hk) ?_
    | with_reducible refine path_of_fst (by with_reducible assumption) ?_
    | split
    | dsimp +zetaDelta only)

theorem path_portUp {ks : List Kind} {s0 s : State} (k : Nat) (peer : Nat) (peerPort : Nat)
    (hk : [.errq, .parts, .queues, .sites, .mem, .hbm, .notices, .streams, .ctr, .colls, .credits, .fetches, .xfers, .kports, .tfb, .boot, .outs, .free] ⊆ ks) (h : Path ks s0 s) :
    Path ks s0 (State.portUp s k peer peerPort) := by
  unfold State.portUp
  repeat' (first
    | with_reducible assumption
    | extract_lets
    | with_reducible refine path_modKport _ _ (List.Subset.trans (by decide) hk) ?_
    | with_reducible refine path_out _ (List.Subset.trans (by decide) hk) ?_
    | with_reducible refine path_pumpXfers (List.Subset.trans (by decide) hk) ?_
    | with_reducible refine path_sendTo _ _ _ _ (List.Subset.trans (by decide) hk) ?_
    | with_reducible refine path_of_fst (by with_reducible assumption) ?_
    | with_reducible refine path_foldl _ _ (fun _ _ _ => ?_) _ ?_
    | with_reducible refine path_foldl_fst _ _ (fun _ _ _ => ?_) _ ?_
    | split
    | fail_if_no_progress (with_reducible refine path_set_notices _ (List.Subset.trans (by decide) hk) ?_)
    | dsimp +zetaDelta only)

theorem path_enablePort {ks : List Kind} {s0 s : State} (k : Nat) (value : Nat) (lanesTrained : Nat)
    (hk : [.vals, .caddy, .log, .errq, .parts, .queues, .sites, .mem, .hbm, .streams, .ctr, .colls, .credits, .fetches, .xfers, .kports, .tfb, .nor, .boot, .outs, .free] ⊆ ks) (h : Path ks s0 s) :
    Path ks s0 (State.enablePort s k value lanesTrained).1 := by
  unfold State.enablePort
  repeat' (first
    | with_reducible assumption
    | extract_lets
    | with_reducible refine path_kettleDown _ _ (List.Subset.trans (by decide) hk) ?_
    | with_reducible refine path_modKport _ _ (List.Subset.trans (by decide) hk) ?_
    | with_reducible refine path_portOff _ _ (List.Subset.trans (by decide) hk) ?_
    | with_reducible refine path_of_fst (by with_reducible assumption) ?_
    | with_reducible refine path_ite (fun _ => ?_) (fun _ => ?_)
    | with_reducible refine path_ite_fst (fun _ => ?_) (fun _ => ?_)
    | split
    | dsimp +zetaDelta only)

theorem path_windowWrite {ks : List Kind} {s0 s : State} (a : Nat) (bs : List Byte)
    (hk : [.mem, .hbm, .ctr] ⊆ ks) (h : Path ks s0 s) :
    Path ks s0 (State.windowWrite s a bs) := by
  unfold State.windowWrite
  repeat' (first
    | with_reducible assumption
    | extract_lets
    | with_reducible refine path_count _ _ _ (List.Subset.trans (by decide) hk) ?_
    | with_reducible refine path_of_fst (by with_reducible assumption) ?_
    | with_reducible refine path_foldl _ _ (fun _ _ _ => ?_) _ ?_
    | with_reducible refine path_foldl_fst _ _ (fun _ _ _ => ?_) _ ?_
    | split
    | fail_if_no_progress ((with_reducible refine path_mk ?_ (le_refl _) (le_refl _) (fun hm => ?_) (fun _ => le_refl _) (fun _ hc => ?_) (fun k hn => ?_)); rotate_right 1; (cases k <;> first | exact absurd (hk (by decide)) hn | rfl); rotate_right 1; (first | exact hc | simpa using hc); rotate_right 1; (repeat' first | with_reducible assumption | with_reducible refine wf_memPut _ _ _ ?_ | with_reducible refine wf_putAll _ _ ?_ | with_reducible refine wf_clear _ _ ?_ | with_reducible refine wf_foldl _ _ (fun _ _ _ => ?_) _ ?_))
    | dsimp +zetaDelta only)

theorem path_modGuest {ks : List Kind} {s0 s : State} (m : Nat) (p : Nat) (f : Guest → Guest)
    (hk : [.guests] ⊆ ks) (h : Path ks s0 s) :
    Path ks s0 (State.modGuest s m p f) := by
  unfold State.modGuest
  repeat' (first
    | with_reducible assumption
    | extract_lets
    | with_reducible refine path_of_fst (by with_reducible assumption) ?_
    | with_reducible refine path_ite (fun _ => ?_) (fun _ => ?_)
    | with_reducible refine path_ite_fst (fun _ => ?_) (fun _ => ?_)
    | split
    | fail_if_no_progress (with_reducible refine path_set_guests _ (List.Subset.trans (by decide) hk) ?_)
    | dsimp +zetaDelta only)

theorem path_landBlock {ks : List Kind} {s0 s : State} (m : Nat) (p : Nat) (id : Nat) (offset : Nat) (payload : List Byte)
    (hk : [.mem, .hbm, .guests, .ctr] ⊆ ks) (h : Path ks s0 s) :
    Path ks s0 (State.landBlock s m p id offset payload).1 := by
  unfold State.landBlock
  repeat' (first
    | with_reducible assumption
    | extract_lets
    | with_reducible refine path_modGuest _ _ _ (List.Subset.trans (by decide) hk) ?_
    | with_reducible refine path_windowWrite _ _ (List.Subset.trans (by decide) hk) ?_
    | with_reducible refine path_of_fst (by with_reducible assumption) ?_
    | with_reducible refine path_ite (fun _ => ?_) (fun _ => ?_)
    | with_reducible refine path_ite_fst (fun _ => ?_) (fun _ => ?_)
    | split
    | dsimp +zetaDelta only)

theorem path_writePartner {ks : List Kind} {s0 s : State} (r : Req) (p : Nat) (m : Nat)
    (hk : [.parts, .kports, .outs] ⊆ ks) (h : Path ks s0 s) :
    Path ks s0 (State.writePartner s r p m).1 := by
  unfold State.writePartner
  repeat' (first
    | with_reducible assumption
    | extract_lets
    | with_reducible refine path_setPartner _ _ _ (List.Subset.trans (by decide) hk) ?_
    | with_reducible refine path_waitBind _ _ _ _ (List.Subset.trans (by decide) hk) ?_
    | with_reducible refine path_of_fst (by with_reducible assumption) ?_
    | with_reducible refine path_ite (fun _ => ?_) (fun _ => ?_)
    | with_reducible refine path_ite_fst (fun _ => ?_) (fun _ => ?_)
    | split
    | dsimp +zetaDelta only)

theorem path_writeWindowRequest {ks : List Kind} {s0 s : State} (r : Req) (p : Nat) (gib : Nat)
    (hk : [.parts, .kports, .outs] ⊆ ks) (h : Path ks s0 s) :
    Path ks s0 (State.writeWindowRequest s r p gib).1 := by
  unfold State.writeWindowRequest
  repeat' (first
    | with_reducible assumption
    | extract_lets
    | with_reducible refine path_setWindow _ _ _ (List.Subset.trans (by decide) hk) ?_
    | with_reducible refine path_waitBind _ _ _ _ (List.Subset.trans (by decide) hk) ?_
    | with_reducible refine path_of_fst (by with_reducible assumption) ?_
    | with_reducible refine path_ite (fun _ => ?_) (fun _ => ?_)
    | with_reducible refine path_ite_fst (fun _ => ?_) (fun _ => ?_)
    | split
    | dsimp +zetaDelta only)

theorem path_scrubOffsets {ks : List Kind} {s0 s : State} (lo : Nat) (hi : Nat)
    (hk : [.mem, .hbm] ⊆ ks) (h : Path ks s0 s) :
    Path ks s0 (State.scrubOffsets s lo hi) := by
  unfold State.scrubOffsets
  repeat' (first
    | with_reducible assumption
    | extract_lets
    | with_reducible refine path_scrubWhere _ _ (List.Subset.trans (by decide) hk) ?_
    | with_reducible refine path_of_fst (by with_reducible assumption) ?_
    | split
    | dsimp +zetaDelta only)

theorem path_writeWindow {ks : List Kind} {s0 s : State} (gib : Nat)
    (hk : [.mem, .hbm, .guests, .kports, .outs] ⊆ ks) (h : Path ks s0 s) :
    Path ks s0 (State.writeWindow s gib).1 := by
  unfold State.writeWindow
  repeat' (first
    | with_reducible assumption
    | extract_lets
    | with_reducible refine path_scrubOffsets _ _ (List.Subset.trans (by decide) hk) ?_
    | with_reducible refine path_sendTo _ _ _ _ (List.Subset.trans (by decide) hk) ?_
    | with_reducible refine path_of_fst (by with_reducible assumption) ?_
    | with_reducible refine path_foldl _ _ (fun _ _ _ => ?_) _ ?_
    | with_reducible refine path_foldl_fst _ _ (fun _ _ _ => ?_) _ ?_
    | with_reducible refine path_ite (fun _ => ?_) (fun _ => ?_)
    | with_reducible refine path_ite_fst (fun _ => ?_) (fun _ => ?_)
    | split
    | fail_if_no_progress (with_reducible refine path_set_guests _ (List.Subset.trans (by decide) hk) ?_)
    | dsimp +zetaDelta only)

end Sys2Proof.Laws
end

