-- ==== Sys2Proof/Laws/PathLayout.lean ====
section
/-!
SUPPORT. What the operations of Machine/Layout.lean can do to the state: one path for each.
-/

set_option linter.all false

namespace Sys2Proof.Laws

open Sys2Proof Sys2Proof.Machine Sys2Proof.Safety

theorem path_setSlice {ks : List Kind} {s0 s : State} (p : Nat) (x : Slice)
    (hk : [.parts, .outs] ⊆ ks) (h : Path ks s0 s) :
    Path ks s0 (State.setSlice s p x) := by
  unfold State.setSlice
  repeat' (first
    | with_reducible assumption
    | extract_lets
    | with_reducible refine path_modPart _ _ (List.Subset.trans (by decide) hk) ?_
    | with_reducible refine path_setPState _ _ (List.Subset.trans (by decide) hk) ?_
    | with_reducible refine path_of_fst (by with_reducible assumption) ?_
    | with_reducible refine path_ite (fun _ => ?_) (fun _ => ?_)
    | with_reducible refine path_ite_fst (fun _ => ?_) (fun _ => ?_)
    | split
    | dsimp +zetaDelta only)

theorem path_applyLayout {ks : List Kind} {s0 s : State} (l : List Slice) (route : Nat)
    (hk : [.log, .parts, .layoutGen, .sites, .mem, .hbm, .outs] ⊆ ks) (h : Path ks s0 s) :
    Path ks s0 (State.applyLayout s l route) := by
  unfold State.applyLayout
  repeat' (first
    | with_reducible assumption
    | extract_lets
    | with_reducible refine path_logEvent _ _ _ _ (List.Subset.trans (by decide) hk) ?_
    | with_reducible refine path_modPart _ _ (List.Subset.trans (by decide) hk) ?_
    | with_reducible refine path_modSite _ _ (List.Subset.trans (by decide) hk) ?_
    | with_reducible refine path_scrub _ _ (List.Subset.trans (by decide) hk) ?_
    | with_reducible refine path_scrubWhere _ _ (List.Subset.trans (by decide) hk) ?_
    | with_reducible refine path_setSlice _ _ (List.Subset.trans (by decide) hk) ?_
    | with_reducible refine path_of_fst (by with_reducible assumption) ?_
    | with_reducible refine path_foldl _ _ (fun _ _ _ => ?_) _ ?_
    | with_reducible refine path_foldl_fst _ _ (fun _ _ _ => ?_) _ ?_
    | with_reducible refine path_ite (fun _ => ?_) (fun _ => ?_)
    | with_reducible refine path_ite_fst (fun _ => ?_) (fun _ => ?_)
    | split
    | fail_if_no_progress ((with_reducible refine path_mk ?_ (Nat.le_succ _) (le_refl _) id (fun _ => le_refl _) (fun _ hc => ?_) (fun k hn => ?_)); rotate_right 1; (cases k <;> first | exact absurd (hk (by decide)) hn | rfl); rotate_right 1; (first | exact hc | simpa using hc))
    | dsimp +zetaDelta only)

theorem path_commitLayout {ks : List Kind} {s0 s : State} (l : List Slice) (r : Option Req) (route : Nat)
    (hk : [.log, .parts, .layoutGen, .sites, .mem, .hbm, .commitWait, .outs] ⊆ ks) (h : Path ks s0 s) :
    Path ks s0 (State.commitLayout s l r route).1 := by
  unfold State.commitLayout
  repeat' (first
    | with_reducible assumption
    | extract_lets
    | with_reducible refine path_applyLayout _ _ (List.Subset.trans (by decide) hk) ?_
    | with_reducible refine path_of_fst (by with_reducible assumption) ?_
    | with_reducible refine path_ite (fun _ => ?_) (fun _ => ?_)
    | with_reducible refine path_ite_fst (fun _ => ?_) (fun _ => ?_)
    | split
    | fail_if_no_progress (with_reducible refine path_set_commitWait _ (List.Subset.trans (by decide) hk) ?_)
    | dsimp +zetaDelta only)

theorem path_writeLayout {ks : List Kind} {s0 s : State} (r : Req)
    (hk : [.log, .parts, .layoutGen, .sites, .mem, .hbm, .commitWait, .outs] ⊆ ks) (h : Path ks s0 s) :
    Path ks s0 (State.writeLayout s r).1 := by
  unfold State.writeLayout
  repeat' (first
    | with_reducible assumption
    | extract_lets
    | with_reducible refine path_commitLayout _ _ _ (List.Subset.trans (by decide) hk) ?_
    | with_reducible refine path_of_fst (by with_reducible assumption) ?_
    | with_reducible refine path_ite (fun _ => ?_) (fun _ => ?_)
    | with_reducible refine path_ite_fst (fun _ => ?_) (fun _ => ?_)
    | split
    | dsimp +zetaDelta only)

theorem path_retryLayout {ks : List Kind} {s0 s : State}
    (hk : [.vals, .caddy, .log, .parts, .layoutGen, .sites, .mem, .hbm, .nor, .commitWait, .outs] ⊆ ks) (h : Path ks s0 s) :
    Path ks s0 (State.retryLayout s) := by
  unfold State.retryLayout
  repeat' (first
    | with_reducible assumption
    | extract_lets
    | with_reducible refine path_commitLayout _ _ _ (List.Subset.trans (by decide) hk) ?_
    | with_reducible refine path_commitWrite _ _ _ _ (List.Subset.trans (by decide) hk) ?_
    | with_reducible refine path_respond _ _ _ _ _ _ (List.Subset.trans (by decide) hk) ?_
    | with_reducible refine path_of_fst (by with_reducible assumption) ?_
    | with_reducible refine path_ite (fun _ => ?_) (fun _ => ?_)
    | with_reducible refine path_ite_fst (fun _ => ?_) (fun _ => ?_)
    | split
    | fail_if_no_progress (with_reducible refine path_set_commitWait _ (List.Subset.trans (by decide) hk) ?_)
    | dsimp +zetaDelta only)

end Sys2Proof.Laws
end

