-- ==== Sys2Proof/Laws/PathTimebase.lean ====
section
/-!
SUPPORT. What the operations of Machine/Timebase.lean can do to the state: one path for each.
-/

set_option linter.all false

namespace Sys2Proof.Laws

open Sys2Proof Sys2Proof.Machine Sys2Proof.Safety

theorem path_latch {ks : List Kind} {s0 s : State} (held : Nat)
    (hk : [.time, .shadow] ⊆ ks) (h : Path ks s0 s) :
    Path ks s0 (State.latch s held) := by
  unfold State.latch
  repeat' (first
    | with_reducible assumption
    | extract_lets
    | with_reducible refine path_of_fst (by with_reducible assumption) ?_
    | split
    | fail_if_no_progress (with_reducible refine path_set_time _ (List.Subset.trans (by decide) hk) ?_)
    | fail_if_no_progress (with_reducible refine path_set_shadow _ (List.Subset.trans (by decide) hk) ?_)
    | fail_if_no_progress ((with_reducible refine path_mk ?_ (le_refl _) (le_refl _) id (fun _ => le_refl _) (fun _ h => h) (fun k hn => ?_)); rotate_right 1; (cases k <;> first | exact absurd (hk (by decide)) hn | rfl))
    | dsimp +zetaDelta only)

theorem path_writeSnapshot {ks : List Kind} {s0 s : State} (t : Nat)
    (hk : [.time] ⊆ ks) (h : Path ks s0 s) :
    Path ks s0 (State.writeSnapshot s t).1 := by
  unfold State.writeSnapshot
  repeat' (first
    | with_reducible assumption
    | extract_lets
    | with_reducible refine path_of_fst (by with_reducible assumption) ?_
    | with_reducible refine path_ite (fun _ => ?_) (fun _ => ?_)
    | with_reducible refine path_ite_fst (fun _ => ?_) (fun _ => ?_)
    | split
    | fail_if_no_progress (with_reducible refine path_set_time _ (List.Subset.trans (by decide) hk) ?_)
    | dsimp +zetaDelta only)

theorem path_releaseSnapshot {ks : List Kind} {s0 s : State}
    (hk : [.time, .shadow] ⊆ ks) (h : Path ks s0 s) :
    Path ks s0 (State.releaseSnapshot s) := by
  unfold State.releaseSnapshot
  repeat' (first
    | with_reducible assumption
    | extract_lets
    | with_reducible refine path_of_fst (by with_reducible assumption) ?_
    | split
    | fail_if_no_progress (with_reducible refine path_set_time _ (List.Subset.trans (by decide) hk) ?_)
    | fail_if_no_progress (with_reducible refine path_set_shadow _ (List.Subset.trans (by decide) hk) ?_)
    | fail_if_no_progress ((with_reducible refine path_mk ?_ (le_refl _) (le_refl _) id (fun _ => le_refl _) (fun _ h => h) (fun k hn => ?_)); rotate_right 1; (cases k <;> first | exact absurd (hk (by decide)) hn | rfl))
    | dsimp +zetaDelta only)

theorem path_stepTime {ks : List Kind} {s0 s : State} (t : Nat)
    (hk : [.time, .log, .parts, .mem, .hbm, .shadow, .outs] ⊆ ks) (h : Path ks s0 s) :
    Path ks s0 (State.stepTime s t) := by
  unfold State.stepTime
  repeat' (first
    | with_reducible assumption
    | extract_lets
    | with_reducible refine path_latch _ (List.Subset.trans (by decide) hk) ?_
    | with_reducible refine path_logEvent _ _ _ _ (List.Subset.trans (by decide) hk) ?_
    | with_reducible refine path_missAll (List.Subset.trans (by decide) hk) ?_
    | with_reducible refine path_of_fst (by with_reducible assumption) ?_
    | with_reducible refine path_ite (fun _ => ?_) (fun _ => ?_)
    | with_reducible refine path_ite_fst (fun _ => ?_) (fun _ => ?_)
    | split
    | fail_if_no_progress (with_reducible refine path_set_time _ (List.Subset.trans (by decide) hk) ?_)
    | dsimp +zetaDelta only)

theorem path_writeTimebase {ks : List Kind} {s0 s : State} (t : Nat)
    (hk : [.time, .log, .parts, .mem, .hbm, .shadow, .outs] ⊆ ks) (h : Path ks s0 s) :
    Path ks s0 (State.writeTimebase s t).1 := by
  unfold State.writeTimebase
  repeat' (first
    | with_reducible assumption
    | extract_lets
    | with_reducible refine path_stepTime _ (List.Subset.trans (by decide) hk) ?_
    | with_reducible refine path_of_fst (by with_reducible assumption) ?_
    | with_reducible refine path_ite (fun _ => ?_) (fun _ => ?_)
    | with_reducible refine path_ite_fst (fun _ => ?_) (fun _ => ?_)
    | split
    | dsimp +zetaDelta only)

theorem path_takeSync {ks : List Kind} {s0 s : State} (t : Nat)
    (hk : [.time, .log, .parts, .mem, .hbm, .shadow, .outs] ⊆ ks) (h : Path ks s0 s) :
    Path ks s0 (State.takeSync s t) := by
  unfold State.takeSync
  repeat' (first
    | with_reducible assumption
    | extract_lets
    | with_reducible refine path_stepTime _ (List.Subset.trans (by decide) hk) ?_
    | with_reducible refine path_of_fst (by with_reducible assumption) ?_
    | with_reducible refine path_ite (fun _ => ?_) (fun _ => ?_)
    | with_reducible refine path_ite_fst (fun _ => ?_) (fun _ => ?_)
    | split
    | fail_if_no_progress (with_reducible refine path_set_time _ (List.Subset.trans (by decide) hk) ?_)
    | dsimp +zetaDelta only)

theorem path_breakGroup {ks : List Kind} {s0 s : State} (p : Nat) (status : Nat)
    (hk : [.parts] ⊆ ks) (h : Path ks s0 s) :
    Path ks s0 (State.breakGroup s p status) := by
  unfold State.breakGroup
  repeat' (first
    | with_reducible assumption
    | extract_lets
    | with_reducible refine path_modPart _ _ (List.Subset.trans (by decide) hk) ?_
    | with_reducible refine path_of_fst (by with_reducible assumption) ?_
    | split
    | dsimp +zetaDelta only)

theorem path_closeGroup {ks : List Kind} {s0 s : State} (p : Nat)
    (hk : [.parts] ⊆ ks) (h : Path ks s0 s) :
    Path ks s0 (State.closeGroup s p) := by
  unfold State.closeGroup
  repeat' (first
    | with_reducible assumption
    | extract_lets
    | with_reducible refine path_atReduction _ _ _ (List.Subset.trans (by decide) hk) ?_
    | with_reducible refine path_modFences _ _ (List.Subset.trans (by decide) hk) ?_
    | with_reducible refine path_of_fst (by with_reducible assumption) ?_
    | split
    | dsimp +zetaDelta only)

theorem path_slotBroken {ks : List Kind} {s0 s : State} (p : Nat)
    (hk : [.vals, .log, .errq, .parts, .queues, .sites, .mem, .hbm, .streams, .ctr, .colls, .credits, .fetches, .xfers, .tfb, .nor, .boot, .outs, .free] ⊆ ks) (h : Path ks s0 s) :
    Path ks s0 (State.slotBroken s p) := by
  unfold State.slotBroken
  repeat' (first
    | with_reducible assumption
    | extract_lets
    | with_reducible refine path_breakGroup _ _ (List.Subset.trans (by decide) hk) ?_
    | with_reducible refine path_declareLost _ _ (List.Subset.trans (by decide) hk) ?_
    | with_reducible refine path_modRcv _ _ (List.Subset.trans (by decide) hk) ?_
    | with_reducible refine path_of_fst (by with_reducible assumption) ?_
    | split
    | dsimp +zetaDelta only)

theorem path_presentSlot {ks : List Kind} {s0 s : State} (g : Nat) (d0 : Bool) (d1 : Bool) (d2 : Bool) (closed : Bool) (broken : Bool)
    (hk : [.vals, .log, .errq, .parts, .queues, .sites, .mem, .hbm, .streams, .ctr, .colls, .credits, .fetches, .xfers, .pendingSrc, .kports, .tfb, .nor, .boot, .outs, .free] ⊆ ks) (h : Path ks s0 s) :
    Path ks s0 (State.presentSlot s g d0 d1 d2 closed broken) := by
  unfold State.presentSlot
  repeat' (first
    | with_reducible assumption
    | extract_lets
    | with_reducible refine path_closeGroup _ (List.Subset.trans (by decide) hk) ?_
    | with_reducible refine path_out _ (List.Subset.trans (by decide) hk) ?_
    | with_reducible refine path_progress _ (List.Subset.trans (by decide) hk) ?_
    | with_reducible refine path_pumpColls (List.Subset.trans (by decide) hk) ?_
    | with_reducible refine path_slotBroken _ (List.Subset.trans (by decide) hk) ?_
    | with_reducible refine path_of_fst (by with_reducible assumption) ?_
    | with_reducible refine path_foldl _ _ (fun _ _ _ => ?_) _ ?_
    | with_reducible refine path_foldl_fst _ _ (fun _ _ _ => ?_) _ ?_
    | with_reducible refine path_ite (fun _ => ?_) (fun _ => ?_)
    | with_reducible refine path_ite_fst (fun _ => ?_) (fun _ => ?_)
    | split
    | fail_if_no_progress (with_reducible refine path_set_tfb _ (List.Subset.trans (by decide) hk) ?_)
    | dsimp +zetaDelta only)

theorem path_message {ks : List Kind} {s0 s : State} (source : Nat) (fields : List Nat) (f : State → State)
    (hk : [.tfb] ⊆ ks) (hf : ∀ (u : State), Path ks s0 u → Path ks s0 (f u)) (h : Path ks s0 s) :
    Path ks s0 (State.message s source fields f) := by
  unfold State.message
  repeat' (first
    | with_reducible assumption
    | extract_lets
    | with_reducible refine path_stampTfb _ _ (List.Subset.trans (by decide) hk) ?_
    | exact hf _ (by assumption)
    | with_reducible refine hf _ ?_
    | with_reducible refine hf _ _ ?_
    | with_reducible refine hf _ _ _ ?_
    | with_reducible refine path_of_fst (by with_reducible assumption) ?_
    | with_reducible refine path_ite (fun _ => ?_) (fun _ => ?_)
    | with_reducible refine path_ite_fst (fun _ => ?_) (fun _ => ?_)
    | split
    | fail_if_no_progress (with_reducible refine path_set_tfb _ (List.Subset.trans (by decide) hk) ?_)
    | dsimp +zetaDelta only)

end Sys2Proof.Laws
end

