-- ==== Sys2Proof/Laws/PathSecurity.lean ====
section
/-!
SUPPORT. What the operations of Machine/Security.lean can do to the state: one path for each.
-/

set_option linter.all false

namespace Sys2Proof.Laws

open Sys2Proof Sys2Proof.Machine Sys2Proof.Safety

theorem path_eraseKeys {ks : List Kind} {s0 s : State} (sel : Key → Bool)
    (hk : [.parts, .queues, .mem, .hbm, .streams, .nor, .sec, .outs, .free] ⊆ ks) (h : Path ks s0 s) :
    Path ks s0 (State.eraseKeys s sel) := by
  unfold State.eraseKeys
  repeat' (first
    | with_reducible assumption
    | extract_lets
    | with_reducible refine path_abortClose _ _ (List.Subset.trans (by decide) hk) ?_
    | with_reducible refine path_of_fst (by with_reducible assumption) ?_
    | with_reducible refine path_foldl _ _ (fun _ _ _ => ?_) _ ?_
    | with_reducible refine path_foldl_fst _ _ (fun _ _ _ => ?_) _ ?_
    | split
    | fail_if_no_progress (with_reducible refine path_set_sec _ (List.Subset.trans (by decide) hk) ?_)
    | fail_if_no_progress ((with_reducible refine path_mk ?_ (le_refl _) (le_refl _) id (fun _ => le_refl _) (fun _ h => h) (fun k hn => ?_)); rotate_right 1; (cases k <;> first | exact absurd (hk (by decide)) hn | rfl))
    | dsimp +zetaDelta only)

theorem path_remeasured {ks : List Kind} {s0 s : State}
    (hk : [.parts, .queues, .mem, .hbm, .streams, .nor, .sec, .outs, .free] ⊆ ks) (h : Path ks s0 s) :
    Path ks s0 (State.remeasured s) := by
  unfold State.remeasured
  repeat' (first
    | with_reducible assumption
    | extract_lets
    | with_reducible refine path_eraseKeys _ (List.Subset.trans (by decide) hk) ?_
    | with_reducible refine path_of_fst (by with_reducible assumption) ?_
    | with_reducible refine path_ite (fun _ => ?_) (fun _ => ?_)
    | with_reducible refine path_ite_fst (fun _ => ?_) (fun _ => ?_)
    | split
    | fail_if_no_progress (with_reducible refine path_set_sec _ (List.Subset.trans (by decide) hk) ?_)
    | dsimp +zetaDelta only)

theorem path_setSecState {ks : List Kind} {s0 s : State} (new : Nat)
    (hk : [.log, .secState, .parts, .queues, .mem, .hbm, .streams, .nor, .sec, .outs, .free] ⊆ ks) (h : Path ks s0 s) :
    Path ks s0 (State.setSecState s new) := by
  unfold State.setSecState
  repeat' (first
    | with_reducible assumption
    | extract_lets
    | with_reducible refine path_abortClose _ _ (List.Subset.trans (by decide) hk) ?_
    | with_reducible refine path_eraseKeys _ (List.Subset.trans (by decide) hk) ?_
    | with_reducible refine path_logEvent _ _ _ _ (List.Subset.trans (by decide) hk) ?_
    | with_reducible refine path_remeasured (List.Subset.trans (by decide) hk) ?_
    | with_reducible refine path_of_fst (by with_reducible assumption) ?_
    | with_reducible refine path_foldl _ _ (fun _ _ _ => ?_) _ ?_
    | with_reducible refine path_foldl_fst _ _ (fun _ _ _ => ?_) _ ?_
    | with_reducible refine path_ite (fun _ => ?_) (fun _ => ?_)
    | with_reducible refine path_ite_fst (fun _ => ?_) (fun _ => ?_)
    | split
    | fail_if_no_progress (with_reducible refine path_set_secState _ (List.Subset.trans (by decide) hk) ?_)
    | dsimp +zetaDelta only)

theorem path_requestSecState {ks : List Kind} {s0 s : State} (v : Nat)
    (hk : [.log, .secState, .parts, .queues, .mem, .hbm, .streams, .nor, .sec, .outs, .free] ⊆ ks) (h : Path ks s0 s) :
    Path ks s0 (State.requestSecState s v).1 := by
  unfold State.requestSecState
  repeat' (first
    | with_reducible assumption
    | extract_lets
    | with_reducible refine path_setSecState _ (List.Subset.trans (by decide) hk) ?_
    | with_reducible refine path_of_fst (by with_reducible assumption) ?_
    | with_reducible refine path_ite (fun _ => ?_) (fun _ => ?_)
    | with_reducible refine path_ite_fst (fun _ => ?_) (fun _ => ?_)
    | split
    | dsimp +zetaDelta only)

theorem path_scrubAccumulators {ks : List Kind} {s0 s : State}
    (hk : [.mem, .hbm] ⊆ ks) (h : Path ks s0 s) :
    Path ks s0 (State.scrubAccumulators s) := by
  unfold State.scrubAccumulators
  repeat' (first
    | with_reducible assumption
    | extract_lets
    | with_reducible refine path_scrubWhere _ _ (List.Subset.trans (by decide) hk) ?_
    | with_reducible refine path_of_fst (by with_reducible assumption) ?_
    | split
    | dsimp +zetaDelta only)

theorem path_writeVisibility {ks : List Kind} {s0 s : State} (v : Nat)
    (hk : [.mem, .hbm] ⊆ ks) (h : Path ks s0 s) :
    Path ks s0 (State.writeVisibility s v).1 := by
  unfold State.writeVisibility
  repeat' (first
    | with_reducible assumption
    | extract_lets
    | with_reducible refine path_scrubAccumulators (List.Subset.trans (by decide) hk) ?_
    | with_reducible refine path_of_fst (by with_reducible assumption) ?_
    | with_reducible refine path_ite (fun _ => ?_) (fun _ => ?_)
    | with_reducible refine path_ite_fst (fun _ => ?_) (fun _ => ?_)
    | split
    | dsimp +zetaDelta only)

theorem path_writeDebug {ks : List Kind} {s0 s : State} (bs : List Byte)
    (hk : [.mem] ⊆ ks) (h : Path ks s0 s) :
    Path ks s0 (State.writeDebug s bs).1 := by
  unfold State.writeDebug
  repeat' (first
    | with_reducible assumption
    | extract_lets
    | with_reducible refine path_of_fst (by with_reducible assumption) ?_
    | with_reducible refine path_ite (fun _ => ?_) (fun _ => ?_)
    | with_reducible refine path_ite_fst (fun _ => ?_) (fun _ => ?_)
    | split
    | fail_if_no_progress ((with_reducible refine path_mk ?_ (le_refl _) (le_refl _) (fun hm => ?_) (fun _ => le_refl _) (fun _ h => h) (fun k hn => ?_)); rotate_right 1; (cases k <;> first | exact absurd (hk (by decide)) hn | rfl); rotate_right 1; (repeat' first | with_reducible assumption | with_reducible refine wf_memPut _ _ _ ?_ | with_reducible refine wf_putAll _ _ ?_ | with_reducible refine wf_clear _ _ ?_ | with_reducible refine wf_foldl _ _ (fun _ _ _ => ?_) _ ?_))
    | dsimp +zetaDelta only)

theorem path_spdmSend {ks : List Kind} {s0 s : State} (source : Nat) (code : Nat) (body : List Byte)
    (hk : [.sec, .outs] ⊆ ks) (h : Path ks s0 s) :
    Path ks s0 (State.spdmSend s source code body) := by
  unfold State.spdmSend
  repeat' (first
    | with_reducible assumption
    | extract_lets
    | with_reducible refine path_out _ (List.Subset.trans (by decide) hk) ?_
    | with_reducible refine path_of_fst (by with_reducible assumption) ?_
    | with_reducible refine path_ite (fun _ => ?_) (fun _ => ?_)
    | with_reducible refine path_ite_fst (fun _ => ?_) (fun _ => ?_)
    | split
    | fail_if_no_progress (with_reducible refine path_set_sec _ (List.Subset.trans (by decide) hk) ?_)
    | dsimp +zetaDelta only)

theorem path_spdm {ks : List Kind} {s0 s : State} (m : Spdm) (f : State → State × Option (Nat × List Byte))
    (hk : [.sec, .outs] ⊆ ks) (hf : ∀ (u : State), Path ks s0 u → Path ks s0 (f u).1) (h : Path ks s0 s) :
    Path ks s0 (State.spdm s m f) := by
  unfold State.spdm
  repeat' (first
    | with_reducible assumption
    | extract_lets
    | with_reducible refine path_spdmSend _ _ _ (List.Subset.trans (by decide) hk) ?_
    | exact hf _ (by assumption)
    | with_reducible refine hf _ ?_
    | with_reducible refine hf _ _ ?_
    | with_reducible refine hf _ _ _ ?_
    | with_reducible refine path_of_fst (by with_reducible assumption) ?_
    | with_reducible refine path_ite (fun _ => ?_) (fun _ => ?_)
    | with_reducible refine path_ite_fst (fun _ => ?_) (fun _ => ?_)
    | split
    | dsimp +zetaDelta only)

theorem path_spdmPlain {ks : List Kind} {s0 s : State} (m : Spdm) (code : Nat)
    (hk : [.sec, .outs] ⊆ ks) (h : Path ks s0 s) :
    Path ks s0 (State.spdmPlain s m code) := by
  unfold State.spdmPlain
  repeat' (first
    | with_reducible assumption
    | extract_lets
    | with_reducible refine path_spdm _ _ (List.Subset.trans (by decide) hk) (fun _ _ => ?_) ?_
    | with_reducible refine path_of_fst (by with_reducible assumption) ?_
    | split
    | dsimp +zetaDelta only)

theorem path_spdmWrite {ks : List Kind} {s0 s : State} (route : Nat) (bs : List Byte)
    (hk : [.sec, .outs] ⊆ ks) (h : Path ks s0 s) :
    Path ks s0 (State.spdmWrite s route bs) := by
  unfold State.spdmWrite
  repeat' (first
    | with_reducible assumption
    | extract_lets
    | with_reducible refine path_spdmSend _ _ _ (List.Subset.trans (by decide) hk) ?_
    | with_reducible refine path_of_fst (by with_reducible assumption) ?_
    | with_reducible refine path_ite (fun _ => ?_) (fun _ => ?_)
    | with_reducible refine path_ite_fst (fun _ => ?_) (fun _ => ?_)
    | split
    | dsimp +zetaDelta only)

theorem path_inSession {ks : List Kind} {s0 s : State} (m : Spdm) (code : Nat) (f : Session → Option Session)
    (hk : [.sec, .outs] ⊆ ks) (h : Path ks s0 s) :
    Path ks s0 (State.inSession s m code f) := by
  unfold State.inSession
  repeat' (first
    | with_reducible assumption
    | extract_lets
    | with_reducible refine path_spdm _ _ (List.Subset.trans (by decide) hk) (fun _ _ => ?_) ?_
    | with_reducible refine path_of_fst (by with_reducible assumption) ?_
    | split
    | fail_if_no_progress (with_reducible refine path_set_sec _ (List.Subset.trans (by decide) hk) ?_)
    | dsimp +zetaDelta only)

end Sys2Proof.Laws
end

