-- ==== Sys2Proof/Laws/PathPower.lean ====
section
/-!
SUPPORT. What the operations of Machine/Power.lean can do to the state: one path for each.
-/

set_option linter.all false

namespace Sys2Proof.Laws

open Sys2Proof Sys2Proof.Machine Sys2Proof.Safety

theorem path_stretchClass {ks : List Kind} {s0 s : State} (c : Nat)
    (hk : [.sites, .power] ⊆ ks) (h : Path ks s0 s) :
    Path ks s0 (State.stretchClass s c) := by
  unfold State.stretchClass
  repeat' (first
    | with_reducible assumption
    | extract_lets
    | with_reducible refine path_modSite _ _ (List.Subset.trans (by decide) hk) ?_
    | with_reducible refine path_of_fst (by with_reducible assumption) ?_
    | with_reducible refine path_foldl _ _ (fun _ _ _ => ?_) _ ?_
    | with_reducible refine path_foldl_fst _ _ (fun _ _ _ => ?_) _ ?_
    | with_reducible refine path_ite (fun _ => ?_) (fun _ => ?_)
    | with_reducible refine path_ite_fst (fun _ => ?_) (fun _ => ?_)
    | split
    | fail_if_no_progress (with_reducible refine path_set_power _ (List.Subset.trans (by decide) hk) ?_)
    | dsimp +zetaDelta only)

theorem path_capDown {ks : List Kind} {s0 s : State}
    (hk : [.sites, .power] ⊆ ks) (h : Path ks s0 s) :
    Path ks s0 (State.capDown s) := by
  unfold State.capDown
  repeat' (first
    | with_reducible assumption
    | extract_lets
    | with_reducible refine path_stretchClass _ (List.Subset.trans (by decide) hk) ?_
    | with_reducible refine path_of_fst (by with_reducible assumption) ?_
    | with_reducible refine path_ite (fun _ => ?_) (fun _ => ?_)
    | with_reducible refine path_ite_fst (fun _ => ?_) (fun _ => ?_)
    | split
    | fail_if_no_progress (with_reducible refine path_set_power _ (List.Subset.trans (by decide) hk) ?_)
    | dsimp +zetaDelta only)

theorem path_capUp {ks : List Kind} {s0 s : State}
    (hk : [.sites, .power] ⊆ ks) (h : Path ks s0 s) :
    Path ks s0 (State.capUp s) := by
  unfold State.capUp
  repeat' (first
    | with_reducible assumption
    | extract_lets
    | with_reducible refine path_modSite _ _ (List.Subset.trans (by decide) hk) ?_
    | with_reducible refine path_of_fst (by with_reducible assumption) ?_
    | with_reducible refine path_foldl _ _ (fun _ _ _ => ?_) _ ?_
    | with_reducible refine path_foldl_fst _ _ (fun _ _ _ => ?_) _ ?_
    | with_reducible refine path_ite (fun _ => ?_) (fun _ => ?_)
    | with_reducible refine path_ite_fst (fun _ => ?_) (fun _ => ?_)
    | split
    | fail_if_no_progress (with_reducible refine path_set_power _ (List.Subset.trans (by decide) hk) ?_)
    | dsimp +zetaDelta only)

theorem path_countPeriod {ks : List Kind} {s0 s : State}
    (hk : [.power, .free] ⊆ ks) (h : Path ks s0 s) :
    Path ks s0 (State.countPeriod s) := by
  unfold State.countPeriod
  repeat' (first
    | with_reducible assumption
    | extract_lets
    | with_reducible refine path_spend _ (List.Subset.trans (by decide) hk) ?_
    | with_reducible refine path_of_fst (by with_reducible assumption) ?_
    | with_reducible refine path_ite (fun _ => ?_) (fun _ => ?_)
    | with_reducible refine path_ite_fst (fun _ => ?_) (fun _ => ?_)
    | split
    | fail_if_no_progress (with_reducible refine path_set_power _ (List.Subset.trans (by decide) hk) ?_)
    | dsimp +zetaDelta only)

theorem path_governorHold {ks : List Kind} {s0 s : State}
    (hk : [.sites, .power] ⊆ ks) (h : Path ks s0 s) :
    Path ks s0 (State.governorHold s) := by
  unfold State.governorHold
  repeat' (first
    | with_reducible assumption
    | extract_lets
    | with_reducible refine path_modSite _ _ (List.Subset.trans (by decide) hk) ?_
    | with_reducible refine path_of_fst (by with_reducible assumption) ?_
    | with_reducible refine path_foldl _ _ (fun _ _ _ => ?_) _ ?_
    | with_reducible refine path_foldl_fst _ _ (fun _ _ _ => ?_) _ ?_
    | with_reducible refine path_ite (fun _ => ?_) (fun _ => ?_)
    | with_reducible refine path_ite_fst (fun _ => ?_) (fun _ => ?_)
    | split
    | fail_if_no_progress (with_reducible refine path_set_power _ (List.Subset.trans (by decide) hk) ?_)
    | dsimp +zetaDelta only)

theorem path_countThermal {ks : List Kind} {s0 s : State} (k : Nat) (ms : Nat)
    (hk : [.power] ⊆ ks) (h : Path ks s0 s) :
    Path ks s0 (State.countThermal s k ms) := by
  unfold State.countThermal
  repeat' (first
    | with_reducible assumption
    | extract_lets
    | with_reducible refine path_of_fst (by with_reducible assumption) ?_
    | with_reducible refine path_ite (fun _ => ?_) (fun _ => ?_)
    | with_reducible refine path_ite_fst (fun _ => ?_) (fun _ => ?_)
    | split
    | fail_if_no_progress (with_reducible refine path_set_power _ (List.Subset.trans (by decide) hk) ?_)
    | dsimp +zetaDelta only)

theorem path_mainOff {ks : List Kind} {s0 s : State} (power : Nat)
    (hk : [.kports, .iports, .update, .boot, .power] ⊆ ks) (h : Path ks s0 s) :
    Path ks s0 (State.mainOff s power) := by
  unfold State.mainOff
  repeat' (first
    | with_reducible assumption
    | extract_lets
    | with_reducible refine path_modKport _ _ (List.Subset.trans (by decide) hk) ?_
    | with_reducible refine path_of_fst (by with_reducible assumption) ?_
    | with_reducible refine path_foldl _ _ (fun _ _ _ => ?_) _ ?_
    | with_reducible refine path_foldl_fst _ _ (fun _ _ _ => ?_) _ ?_
    | with_reducible refine path_ite (fun _ => ?_) (fun _ => ?_)
    | with_reducible refine path_ite_fst (fun _ => ?_) (fun _ => ?_)
    | split
    | fail_if_no_progress ((with_reducible refine path_mk ?_ (le_refl _) (le_refl _) id (fun _ => le_refl _) (fun _ h => h) (fun k hn => ?_)); rotate_right 1; (cases k <;> first | exact absurd (hk (by decide)) hn | rfl))
    | dsimp +zetaDelta only)

theorem path_thermalShutdown {ks : List Kind} {s0 s : State} (i : Nat)
    (hk : [.errq, .parts, .queues, .sites, .mem, .hbm, .streams, .ctr, .colls, .credits, .fetches, .xfers, .kports, .iports, .tfb, .update, .boot, .power, .outs, .free] ⊆ ks) (h : Path ks s0 s) :
    Path ks s0 (State.thermalShutdown s i) := by
  unfold State.thermalShutdown
  repeat' (first
    | with_reducible assumption
    | extract_lets
    | with_reducible refine path_enterSafeStop _ _ (List.Subset.trans (by decide) hk) ?_
    | with_reducible refine path_mainOff _ (List.Subset.trans (by decide) hk) ?_
    | with_reducible refine path_raise _ (List.Subset.trans (by decide) hk) ?_
    | with_reducible refine path_of_fst (by with_reducible assumption) ?_
    | with_reducible refine path_foldl _ _ (fun _ _ _ => ?_) _ ?_
    | with_reducible refine path_foldl_fst _ _ (fun _ _ _ => ?_) _ ?_
    | with_reducible refine path_ite (fun _ => ?_) (fun _ => ?_)
    | with_reducible refine path_ite_fst (fun _ => ?_) (fun _ => ?_)
    | split
    | dsimp +zetaDelta only)

theorem path_sample {ks : List Kind} {s0 s : State} (i : Nat) (v : F32)
    (hk : [.errq, .parts, .queues, .sites, .mem, .hbm, .streams, .ctr, .colls, .credits, .fetches, .xfers, .kports, .iports, .tfb, .update, .boot, .power, .sensors, .outs, .free] ⊆ ks) (h : Path ks s0 s) :
    Path ks s0 (State.sample s i v) := by
  unfold State.sample
  repeat' (first
    | with_reducible assumption
    | extract_lets
    | with_reducible refine path_countThermal _ _ (List.Subset.trans (by decide) hk) ?_
    | with_reducible refine path_modSite _ _ (List.Subset.trans (by decide) hk) ?_
    | with_reducible refine path_thermalShutdown _ (List.Subset.trans (by decide) hk) ?_
    | with_reducible refine path_of_fst (by with_reducible assumption) ?_
    | with_reducible refine path_foldl _ _ (fun _ _ _ => ?_) _ ?_
    | with_reducible refine path_foldl_fst _ _ (fun _ _ _ => ?_) _ ?_
    | with_reducible refine path_ite (fun _ => ?_) (fun _ => ?_)
    | with_reducible refine path_ite_fst (fun _ => ?_) (fun _ => ?_)
    | split
    | fail_if_no_progress (with_reducible refine path_set_sensors _ (List.Subset.trans (by decide) hk) ?_)
    | dsimp +zetaDelta only)

theorem path_resetSensor {ks : List Kind} {s0 s : State} (i : Nat)
    (hk : [.sensors] ⊆ ks) (h : Path ks s0 s) :
    Path ks s0 (State.resetSensor s i) := by
  unfold State.resetSensor
  repeat' (first
    | with_reducible assumption
    | extract_lets
    | with_reducible refine path_of_fst (by with_reducible assumption) ?_
    | split
    | fail_if_no_progress (with_reducible refine path_set_sensors _ (List.Subset.trans (by decide) hk) ?_)
    | dsimp +zetaDelta only)

end Sys2Proof.Laws
end

