-- ==== Sys2Proof/Laws/PathEntries.lean ====
section
/-!
SUPPORT. What the operations of Machine/Entries.lean can do to the state: one path for each.
-/

set_option linter.all false

namespace Sys2Proof.Laws

open Sys2Proof Sys2Proof.Machine Sys2Proof.Safety

theorem path_savedEffect {ks : List Kind} {s0 s : State} (i : Nat) (j : Nat) (v : Nat) (lanes : Nat)
    (hk : [.vals, .caddy, .log, .errq, .parts, .queues, .sites, .mem, .hbm, .guests, .streams, .ctr, .colls, .credits, .fetches, .xfers, .kports, .tfb, .nor, .sec, .boot, .outs, .free] ⊆ ks) (h : Path ks s0 s) :
    Path ks s0 (State.savedEffect s i j v lanes).1 := by
  unfold State.savedEffect
  repeat' (first
    | with_reducible assumption
    | extract_lets
    | with_reducible refine path_enablePort _ _ _ (List.Subset.trans (by decide) hk) ?_
    | with_reducible refine path_writeWindow _ (List.Subset.trans (by decide) hk) ?_
    | with_reducible refine path_of_fst (by with_reducible assumption) ?_
    | with_reducible refine path_ite (fun _ => ?_) (fun _ => ?_)
    | with_reducible refine path_ite_fst (fun _ => ?_) (fun _ => ?_)
    | split
    | fail_if_no_progress (with_reducible refine path_set_tfb _ (List.Subset.trans (by decide) hk) ?_)
    | fail_if_no_progress (with_reducible refine path_set_sec _ (List.Subset.trans (by decide) hk) ?_)
    | fail_if_no_progress ((with_reducible refine path_mk ?_ (le_refl _) (le_refl _) id (fun _ => le_refl _) (fun _ h => h) (fun k hn => ?_)); rotate_right 1; (cases k <;> first | exact absurd (hk (by decide)) hn | rfl))
    | dsimp +zetaDelta only)

end Sys2Proof.Laws
end

