-- ==== Sys2Proof/Laws/PathRecords.lean ====
section
/-!
SUPPORT. What the operations of Machine/Records.lean can do to the state: one path for each.
-/

set_option linter.all false

namespace Sys2Proof.Laws

open Sys2Proof Sys2Proof.Machine Sys2Proof.Safety

theorem path_setStaging {ks : List Kind} {s0 s : State} (trust : Bool) (x : Staging)
    (hk : [.recStage, .trustStage] ⊆ ks) (h : Path ks s0 s) :
    Path ks s0 (State.setStaging s trust x) := by
  unfold State.setStaging
  repeat' (first
    | with_reducible assumption
    | extract_lets
    | with_reducible refine path_of_fst (by with_reducible assumption) ?_
    | with_reducible refine path_ite (fun _ => ?_) (fun _ => ?_)
    | with_reducible refine path_ite_fst (fun _ => ?_) (fun _ => ?_)
    | split
    | fail_if_no_progress (with_reducible refine path_set_recStage _ (List.Subset.trans (by decide) hk) ?_)
    | fail_if_no_progress (with_reducible refine path_set_trustStage _ (List.Subset.trans (by decide) hk) ?_)
    | fail_if_no_progress ((with_reducible refine path_mk ?_ (le_refl _) (le_refl _) id (fun _ => le_refl _) (fun _ h => h) (fun k hn => ?_)); rotate_right 1; (cases k <;> first | exact absurd (hk (by decide)) hn | rfl))
    | dsimp +zetaDelta only)

theorem path_stageRecord {ks : List Kind} {s0 s : State} (trust : Bool) (bs : List Byte)
    (hk : [.vals, .recStage, .trustStage] ⊆ ks) (h : Path ks s0 s) :
    Path ks s0 (State.stageRecord s trust bs).1 := by
  unfold State.stageRecord
  repeat' (first
    | with_reducible assumption
    | extract_lets
    | with_reducible refine path_setStaging _ _ (List.Subset.trans (by decide) hk) ?_
    | with_reducible refine path_setVal _ _ _ (List.Subset.trans (by decide) hk) ?_
    | with_reducible refine path_of_fst (by with_reducible assumption) ?_
    | with_reducible refine path_ite (fun _ => ?_) (fun _ => ?_)
    | with_reducible refine path_ite_fst (fun _ => ?_) (fun _ => ?_)
    | split
    | dsimp +zetaDelta only)

theorem path_cancelRecord {ks : List Kind} {s0 s : State} (trust : Bool)
    (hk : [.recStage, .trustStage] ⊆ ks) (h : Path ks s0 s) :
    Path ks s0 (State.cancelRecord s trust).1 := by
  unfold State.cancelRecord
  repeat' (first
    | with_reducible assumption
    | extract_lets
    | with_reducible refine path_setStaging _ _ (List.Subset.trans (by decide) hk) ?_
    | with_reducible refine path_of_fst (by with_reducible assumption) ?_
    | with_reducible refine path_ite (fun _ => ?_) (fun _ => ?_)
    | with_reducible refine path_ite_fst (fun _ => ?_) (fun _ => ?_)
    | split
    | dsimp +zetaDelta only)

theorem path_logRecordEvent {ks : List Kind} {s0 s : State} (route : Nat)
    (hk : [.log] ⊆ ks) (h : Path ks s0 s) :
    Path ks s0 (State.logRecordEvent s route) := by
  unfold State.logRecordEvent
  repeat' (first
    | with_reducible assumption
    | extract_lets
    | with_reducible refine path_logEvent _ _ _ _ (List.Subset.trans (by decide) hk) ?_
    | with_reducible refine path_of_fst (by with_reducible assumption) ?_
    | split
    | dsimp +zetaDelta only)

theorem path_verifyRecord {ks : List Kind} {s0 s : State} (v : Verdict) (route : Nat)
    (hk : [.log, .recStage] ⊆ ks) (h : Path ks s0 s) :
    Path ks s0 (State.verifyRecord s v route).1 := by
  unfold State.verifyRecord
  repeat' (first
    | with_reducible assumption
    | extract_lets
    | with_reducible refine path_logRecordEvent _ (List.Subset.trans (by decide) hk) ?_
    | with_reducible refine path_of_fst (by with_reducible assumption) ?_
    | with_reducible refine path_ite (fun _ => ?_) (fun _ => ?_)
    | with_reducible refine path_ite_fst (fun _ => ?_) (fun _ => ?_)
    | split
    | fail_if_no_progress (with_reducible refine path_set_recStage _ (List.Subset.trans (by decide) hk) ?_)
    | dsimp +zetaDelta only)

theorem path_applyEntry {ks : List Kind} {s0 s : State} (e : RecEntry)
    (hk : [.vals, .caddy, .log, .errq, .parts, .queues, .sites, .mem, .hbm, .guests, .streams, .ctr, .colls, .credits, .fetches, .xfers, .kports, .tfb, .nor, .sec, .boot, .outs, .free] ⊆ ks) (h : Path ks s0 s) :
    Path ks s0 (State.applyEntry s e) := by
  unfold State.applyEntry
  repeat' (first
    | with_reducible assumption
    | extract_lets
    | with_reducible refine path_savedEffect _ _ _ _ (List.Subset.trans (by decide) hk) ?_
    | with_reducible refine path_setVal _ _ _ (List.Subset.trans (by decide) hk) ?_
    | with_reducible refine path_of_fst (by with_reducible assumption) ?_
    | with_reducible refine path_ite (fun _ => ?_) (fun _ => ?_)
    | with_reducible refine path_ite_fst (fun _ => ?_) (fun _ => ?_)
    | split
    | dsimp +zetaDelta only)

theorem path_raiseCounter {ks : List Kind} {s0 : State} {s : State} (c version : Nat) (hk : [.nor] ⊆ ks)
    (h : Path ks s0 s) : Path ks s0 (State.raiseCounter s c version) := by
  unfold State.raiseCounter
  refine path_trans h ⟨fun k hn => ?_, ⟨id, fun k => ?_, le_refl _, le_refl _, fun _ hc => hc⟩⟩
  · cases k <;> first | exact absurd (hk (by decide)) hn | rfl
  · by_cases e : k = c
    · subst e
      simp
    · exact le_of_eq (tab_get_mod_other s.nor.counters 0 0 c k (fun n => max n version) e).symm

theorem path_applyConfig {ks : List Kind} {s0 : State} {s : State} (route : Nat)
    (hk : [.vals, .caddy, .log, .errq, .parts, .queues, .sites, .mem, .hbm, .guests, .streams, .ctr, .colls, .credits, .fetches, .xfers, .kports, .tfb, .nor, .recStage, .sec, .boot, .outs, .free] ⊆ ks) (h : Path ks s0 s) : Path ks s0 (State.applyConfig s route) := by
  have hf : ∀ (u : State) (x : RecEntry), Path ks s0 u → Path ks s0 (State.applyEntry u x) :=
    fun u x hu => path_applyEntry _ (List.Subset.trans (by decide) hk) hu
  have hp : ∀ (u : State) (p : Nat), Path ks s0 u → Path ks s0 (u.rebind p) :=
    fun u p hu => path_rebind _ (List.Subset.trans (by decide) hk) hu
  have hn : ∀ (u : State) (c : Option (Nat × List (Nat × List Byte) × List Byte)), Path ks s0 u →
      Path ks s0 { u with nor := { u.nor with journal := [], config := c } } := by
    intro u c hu
    refine path_trans hu ⟨fun k n => ?_, ⟨id, fun _ => le_refl _, le_refl _, le_refl _, fun _ hc => hc⟩⟩
    cases k <;> first | rfl | exact absurd (hk (by decide)) n
  unfold State.applyConfig
  exact path_logRecordEvent _ (List.Subset.trans (by decide) hk) (path_set_recStage _ (List.Subset.trans (by decide) hk)
    (path_remeasured (List.Subset.trans (by decide) hk) (path_raiseCounter _ _ (List.Subset.trans (by decide) hk)
      (hn _ _ (path_foldl _ _ hp _ (path_foldl _ _ hf _ h))))))

theorem path_verifyTrust {ks : List Kind} {s0 s : State} (v : Verdict)
    (hk : [.trustStage] ⊆ ks) (h : Path ks s0 s) :
    Path ks s0 (State.verifyTrust s v).1 := by
  unfold State.verifyTrust
  repeat' (first
    | with_reducible assumption
    | extract_lets
    | with_reducible refine path_of_fst (by with_reducible assumption) ?_
    | with_reducible refine path_ite (fun _ => ?_) (fun _ => ?_)
    | with_reducible refine path_ite_fst (fun _ => ?_) (fun _ => ?_)
    | split
    | fail_if_no_progress (with_reducible refine path_set_trustStage _ (List.Subset.trans (by decide) hk) ?_)
    | dsimp +zetaDelta only)

theorem path_applyTrust {ks : List Kind} {s0 s : State}
    (hk : [.parts, .queues, .mem, .hbm, .streams, .nor, .recStage, .trustStage, .sec, .outs, .free] ⊆ ks) (h : Path ks s0 s) :
    Path ks s0 (State.applyTrust s) := by
  unfold State.applyTrust
  repeat' (first
    | with_reducible assumption
    | extract_lets
    | with_reducible refine path_raiseCounter _ _ (List.Subset.trans (by decide) hk) ?_
    | with_reducible refine path_remeasured (List.Subset.trans (by decide) hk) ?_
    | with_reducible refine path_of_fst (by with_reducible assumption) ?_
    | with_reducible refine path_ite (fun _ => ?_) (fun _ => ?_)
    | with_reducible refine path_ite_fst (fun _ => ?_) (fun _ => ?_)
    | split
    | fail_if_no_progress (with_reducible refine path_set_recStage _ (List.Subset.trans (by decide) hk) ?_)
    | fail_if_no_progress (with_reducible refine path_set_trustStage _ (List.Subset.trans (by decide) hk) ?_)
    | fail_if_no_progress ((with_reducible refine path_mk ?_ (le_refl _) (le_refl _) id (fun _ => le_refl _) (fun _ h => h) (fun k hn => ?_)); rotate_right 1; (cases k <;> first | exact absurd (hk (by decide)) hn | rfl))
    | dsimp +zetaDelta only)

theorem path_applyStaged {ks : List Kind} {s0 s : State} (r : Req) (trust : Bool)
    (hk : [.vals, .caddy, .log, .errq, .parts, .queues, .sites, .mem, .hbm, .guests, .streams, .ctr, .colls, .credits, .fetches, .xfers, .kports, .tfb, .nor, .recStage, .trustStage, .sec, .boot, .applyWait, .outs, .free] ⊆ ks) (h : Path ks s0 s) :
    Path ks s0 (State.applyStaged s r trust).1 := by
  unfold State.applyStaged
  repeat' (first
    | with_reducible assumption
    | extract_lets
    | with_reducible refine path_applyConfig _ (List.Subset.trans (by decide) hk) ?_
    | with_reducible refine path_applyTrust (List.Subset.trans (by decide) hk) ?_
    | with_reducible refine path_of_fst (by with_reducible assumption) ?_
    | with_reducible refine path_ite (fun _ => ?_) (fun _ => ?_)
    | with_reducible refine path_ite_fst (fun _ => ?_) (fun _ => ?_)
    | split
    | fail_if_no_progress (with_reducible refine path_set_applyWait _ (List.Subset.trans (by decide) hk) ?_)
    | dsimp +zetaDelta only)

theorem path_retryApply {ks : List Kind} {s0 s : State}
    (hk : [.vals, .caddy, .log, .errq, .parts, .queues, .sites, .mem, .hbm, .guests, .streams, .ctr, .colls, .credits, .fetches, .xfers, .kports, .tfb, .nor, .recStage, .trustStage, .sec, .boot, .applyWait, .outs, .free] ⊆ ks) (h : Path ks s0 s) :
    Path ks s0 (State.retryApply s) := by
  unfold State.retryApply
  repeat' (first
    | with_reducible assumption
    | extract_lets
    | with_reducible refine path_applyStaged _ _ (List.Subset.trans (by decide) hk) ?_
    | with_reducible refine path_commitWrite _ _ _ _ (List.Subset.trans (by decide) hk) ?_
    | with_reducible refine path_respond _ _ _ _ _ _ (List.Subset.trans (by decide) hk) ?_
    | with_reducible refine path_of_fst (by with_reducible assumption) ?_
    | with_reducible refine path_ite (fun _ => ?_) (fun _ => ?_)
    | with_reducible refine path_ite_fst (fun _ => ?_) (fun _ => ?_)
    | split
    | fail_if_no_progress (with_reducible refine path_set_applyWait _ (List.Subset.trans (by decide) hk) ?_)
    | dsimp +zetaDelta only)

theorem path_restoreDefaults {ks : List Kind} {s0 s : State}
    (hk : [.nor] ⊆ ks) (h : Path ks s0 s) :
    Path ks s0 (State.restoreDefaults s).1 := by
  unfold State.restoreDefaults
  repeat' (first
    | with_reducible assumption
    | extract_lets
    | with_reducible refine path_of_fst (by with_reducible assumption) ?_
    | with_reducible refine path_ite (fun _ => ?_) (fun _ => ?_)
    | with_reducible refine path_ite_fst (fun _ => ?_) (fun _ => ?_)
    | split
    | fail_if_no_progress ((with_reducible refine path_mk ?_ (le_refl _) (le_refl _) id (fun _ => le_refl _) (fun _ h => h) (fun k hn => ?_)); rotate_right 1; (cases k <;> first | exact absurd (hk (by decide)) hn | rfl))
    | dsimp +zetaDelta only)

theorem path_recordControl {ks : List Kind} {s0 s : State} (r : Req) (trust : Bool) (v : Nat) (verdict : Verdict)
    (hk : [.vals, .caddy, .log, .errq, .parts, .queues, .sites, .mem, .hbm, .guests, .streams, .ctr, .colls, .credits, .fetches, .xfers, .kports, .tfb, .nor, .recStage, .trustStage, .sec, .boot, .applyWait, .outs, .free] ⊆ ks) (h : Path ks s0 s) :
    Path ks s0 (State.recordControl s r trust v verdict).1 := by
  unfold State.recordControl
  repeat' (first
    | with_reducible assumption
    | extract_lets
    | with_reducible refine path_applyStaged _ _ (List.Subset.trans (by decide) hk) ?_
    | with_reducible refine path_cancelRecord _ (List.Subset.trans (by decide) hk) ?_
    | with_reducible refine path_restoreDefaults (List.Subset.trans (by decide) hk) ?_
    | with_reducible refine path_verifyRecord _ _ (List.Subset.trans (by decide) hk) ?_
    | with_reducible refine path_verifyTrust _ (List.Subset.trans (by decide) hk) ?_
    | with_reducible refine path_done _ ?_
    | with_reducible refine path_of_fst (by with_reducible assumption) ?_
    | with_reducible refine path_ite (fun _ => ?_) (fun _ => ?_)
    | with_reducible refine path_ite_fst (fun _ => ?_) (fun _ => ?_)
    | split
    | fail_if_no_progress (with_reducible refine path_set_recStage _ (List.Subset.trans (by decide) hk) ?_)
    | dsimp +zetaDelta only)

theorem path_writeControl {ks : List Kind} {s0 s : State} (r : Req) (trust : Bool) (v : Nat) (verdict : Verdict)
    (hk : [.vals, .caddy, .log, .errq, .parts, .queues, .sites, .mem, .hbm, .guests, .streams, .ctr, .colls, .credits, .fetches, .xfers, .kports, .tfb, .nor, .recStage, .trustStage, .sec, .boot, .applyWait, .outs, .free] ⊆ ks) (h : Path ks s0 s) :
    Path ks s0 (State.writeControl s r trust v verdict) := by
  unfold State.writeControl
  repeat' (first
    | with_reducible assumption
    | extract_lets
    | with_reducible refine path_recordControl _ _ _ _ (List.Subset.trans (by decide) hk) ?_
    | with_reducible refine path_serveWrite _ _ _ _ _ _ (List.Subset.trans (by decide) hk) (fun _ _ => ?_) ?_
    | with_reducible refine path_of_fst (by with_reducible assumption) ?_
    | split
    | dsimp +zetaDelta only)

theorem path_writeStaging {ks : List Kind} {s0 s : State} (r : Req) (trust : Bool) (bs : List Byte)
    (hk : [.vals, .caddy, .log, .nor, .recStage, .trustStage, .outs] ⊆ ks) (h : Path ks s0 s) :
    Path ks s0 (State.writeStaging s r trust bs) := by
  unfold State.writeStaging
  repeat' (first
    | with_reducible assumption
    | extract_lets
    | with_reducible refine path_serveWrite _ _ _ _ _ _ (List.Subset.trans (by decide) hk) (fun _ _ => ?_) ?_
    | with_reducible refine path_stageRecord _ _ (List.Subset.trans (by decide) hk) ?_
    | with_reducible refine path_done _ ?_
    | with_reducible refine path_of_fst (by with_reducible assumption) ?_
    | split
    | dsimp +zetaDelta only)

end Sys2Proof.Laws
end

