-- ==== Sys2Proof/Laws/PathUpdate.lean ====
section
/-!
SUPPORT. What the operations of Machine/Update.lean can do to the state: one path for each.
-/

set_option linter.all false

namespace Sys2Proof.Laws

open Sys2Proof Sys2Proof.Machine Sys2Proof.Safety

theorem path_modUpdate {ks : List Kind} {s0 s : State} (f : Update → Update)
    (hk : [.update] ⊆ ks) (h : Path ks s0 s) :
    Path ks s0 (State.modUpdate s f) := by
  unfold State.modUpdate
  repeat' (first
    | with_reducible assumption
    | extract_lets
    | with_reducible refine path_of_fst (by with_reducible assumption) ?_
    | split
    | fail_if_no_progress (with_reducible refine path_set_update _ (List.Subset.trans (by decide) hk) ?_)
    | dsimp +zetaDelta only)

theorem path_stageUpdate {ks : List Kind} {s0 s : State} (bs : List Byte)
    (hk : [.vals, .nor, .update, .free] ⊆ ks) (h : Path ks s0 s) :
    Path ks s0 (State.stageUpdate s bs).1 := by
  unfold State.stageUpdate
  repeat' (first
    | with_reducible assumption
    | extract_lets
    | with_reducible refine path_modUpdate _ (List.Subset.trans (by decide) hk) ?_
    | with_reducible refine path_setVal _ _ _ (List.Subset.trans (by decide) hk) ?_
    | with_reducible refine path_spend _ (List.Subset.trans (by decide) hk) ?_
    | with_reducible refine path_of_fst (by with_reducible assumption) ?_
    | with_reducible refine path_ite (fun _ => ?_) (fun _ => ?_)
    | with_reducible refine path_ite_fst (fun _ => ?_) (fun _ => ?_)
    | split
    | fail_if_no_progress ((with_reducible refine path_mk ?_ (le_refl _) (le_refl _) id (fun _ => le_refl _) (fun _ h => h) (fun k hn => ?_)); rotate_right 1; (cases k <;> first | exact absurd (hk (by decide)) hn | rfl))
    | dsimp +zetaDelta only)

theorem path_verifyUpdate {ks : List Kind} {s0 s : State} (v : Verdict)
    (hk : [.nor, .update] ⊆ ks) (h : Path ks s0 s) :
    Path ks s0 (State.verifyUpdate s v).1 := by
  unfold State.verifyUpdate
  repeat' (first
    | with_reducible assumption
    | extract_lets
    | with_reducible refine path_modUpdate _ (List.Subset.trans (by decide) hk) ?_
    | with_reducible refine path_of_fst (by with_reducible assumption) ?_
    | with_reducible refine path_ite (fun _ => ?_) (fun _ => ?_)
    | with_reducible refine path_ite_fst (fun _ => ?_) (fun _ => ?_)
    | split
    | fail_if_no_progress (with_reducible refine path_set_update _ (List.Subset.trans (by decide) hk) ?_)
    | fail_if_no_progress ((with_reducible refine path_mk ?_ (le_refl _) (le_refl _) id (fun _ => le_refl _) (fun _ h => h) (fun k hn => ?_)); rotate_right 1; (cases k <;> first | exact absurd (hk (by decide)) hn | rfl))
    | dsimp +zetaDelta only)

theorem path_cancelUpdate {ks : List Kind} {s0 s : State}
    (hk : [.update] ⊆ ks) (h : Path ks s0 s) :
    Path ks s0 (State.cancelUpdate s).1 := by
  unfold State.cancelUpdate
  repeat' (first
    | with_reducible assumption
    | extract_lets
    | with_reducible refine path_modUpdate _ (List.Subset.trans (by decide) hk) ?_
    | with_reducible refine path_of_fst (by with_reducible assumption) ?_
    | with_reducible refine path_ite (fun _ => ?_) (fun _ => ?_)
    | with_reducible refine path_ite_fst (fun _ => ?_) (fun _ => ?_)
    | split
    | dsimp +zetaDelta only)

theorem path_activateLive {ks : List Kind} {s0 s : State}
    (hk : [.update] ⊆ ks) (h : Path ks s0 s) :
    Path ks s0 (State.activateLive s) := by
  unfold State.activateLive
  repeat' (first
    | with_reducible assumption
    | extract_lets
    | with_reducible refine path_modUpdate _ (List.Subset.trans (by decide) hk) ?_
    | with_reducible refine path_of_fst (by with_reducible assumption) ?_
    | with_reducible refine path_ite (fun _ => ?_) (fun _ => ?_)
    | with_reducible refine path_ite_fst (fun _ => ?_) (fun _ => ?_)
    | split
    | dsimp +zetaDelta only)

theorem path_stopOld {ks : List Kind} {s0 s : State}
    (hk : [.update] ⊆ ks) (h : Path ks s0 s) :
    Path ks s0 (State.stopOld s) := by
  unfold State.stopOld
  repeat' (first
    | with_reducible assumption
    | extract_lets
    | with_reducible refine path_modUpdate _ (List.Subset.trans (by decide) hk) ?_
    | with_reducible refine path_of_fst (by with_reducible assumption) ?_
    | split
    | dsimp +zetaDelta only)

theorem path_preemptFor {ks : List Kind} {s0 s : State} (n : Nat)
    (hk : [.queues, .sites, .mem, .hbm, .ctr, .free] ⊆ ks) (h : Path ks s0 s) :
    Path ks s0 (State.preemptFor s n) := by
  unfold State.preemptFor
  repeat' (first
    | with_reducible assumption
    | extract_lets
    | with_reducible refine path_count _ _ _ (List.Subset.trans (by decide) hk) ?_
    | with_reducible refine path_modQueue _ _ _ (List.Subset.trans (by decide) hk) ?_
    | with_reducible refine path_spend _ (List.Subset.trans (by decide) hk) ?_
    | with_reducible refine path_stopAt _ _ _ _ (List.Subset.trans (by decide) hk) ?_
    | with_reducible refine path_of_fst (by with_reducible assumption) ?_
    | with_reducible refine path_ite (fun _ => ?_) (fun _ => ?_)
    | with_reducible refine path_ite_fst (fun _ => ?_) (fun _ => ?_)
    | split
    | dsimp +zetaDelta only)

theorem path_logHandoff {ks : List Kind} {s0 s : State} (kind : Nat) (old : Nat) (new : Nat) (result : Nat)
    (hk : [.log] ⊆ ks) (h : Path ks s0 s) :
    Path ks s0 (State.logHandoff s kind old new result) := by
  unfold State.logHandoff
  repeat' (first
    | with_reducible assumption
    | extract_lets
    | with_reducible refine path_logEvent _ _ _ _ (List.Subset.trans (by decide) hk) ?_
    | with_reducible refine path_of_fst (by with_reducible assumption) ?_
    | split
    | dsimp +zetaDelta only)

theorem path_updateEnded {ks : List Kind} {s0 s : State}
    (hk : [.vals, .caddy, .log, .errq, .parts, .layoutGen, .queues, .sites, .mem, .hbm, .guests, .streams, .ctr, .colls, .credits, .fetches, .xfers, .kports, .tfb, .nor, .recStage, .trustStage, .sec, .boot, .commitWait, .applyWait, .outs, .free] ⊆ ks) (h : Path ks s0 s) :
    Path ks s0 (State.updateEnded s) := by
  unfold State.updateEnded
  repeat' (first
    | with_reducible assumption
    | extract_lets
    | with_reducible refine path_retryApply (List.Subset.trans (by decide) hk) ?_
    | with_reducible refine path_retryLayout (List.Subset.trans (by decide) hk) ?_
    | with_reducible refine path_of_fst (by with_reducible assumption) ?_
    | split
    | dsimp +zetaDelta only)

theorem path_commitUpdate {ks : List Kind} {s0 s : State}
    (hk : [.vals, .caddy, .log, .errq, .parts, .layoutGen, .queues, .sites, .mem, .hbm, .guests, .streams, .ctr, .colls, .credits, .fetches, .xfers, .kports, .tfb, .nor, .update, .recStage, .trustStage, .sec, .boot, .commitWait, .applyWait, .outs, .free] ⊆ ks) (h : Path ks s0 s) :
    Path ks s0 (State.commitUpdate s) := by
  unfold State.commitUpdate
  repeat' (first
    | with_reducible assumption
    | extract_lets
    | with_reducible refine path_logHandoff _ _ _ _ (List.Subset.trans (by decide) hk) ?_
    | with_reducible refine path_modUpdate _ (List.Subset.trans (by decide) hk) ?_
    | with_reducible refine path_raiseCounter _ _ (List.Subset.trans (by decide) hk) ?_
    | with_reducible refine path_remeasured (List.Subset.trans (by decide) hk) ?_
    | with_reducible refine path_updateEnded (List.Subset.trans (by decide) hk) ?_
    | with_reducible refine path_of_fst (by with_reducible assumption) ?_
    | with_reducible refine path_ite (fun _ => ?_) (fun _ => ?_)
    | with_reducible refine path_ite_fst (fun _ => ?_) (fun _ => ?_)
    | split
    | fail_if_no_progress (with_reducible refine path_set_boot _ (List.Subset.trans (by decide) hk) ?_)
    | fail_if_no_progress ((with_reducible refine path_mk ?_ (le_refl _) (le_refl _) id (fun _ => le_refl _) (fun _ h => h) (fun k hn => ?_)); rotate_right 1; (cases k <;> first | exact absurd (hk (by decide)) hn | rfl))
    | dsimp +zetaDelta only)

theorem path_failUpdate {ks : List Kind} {s0 s : State} (result : Nat)
    (hk : [.vals, .caddy, .log, .errq, .parts, .layoutGen, .queues, .sites, .mem, .hbm, .guests, .streams, .ctr, .colls, .credits, .fetches, .xfers, .kports, .tfb, .nor, .update, .recStage, .trustStage, .sec, .boot, .commitWait, .applyWait, .outs, .free] ⊆ ks) (h : Path ks s0 s) :
    Path ks s0 (State.failUpdate s result) := by
  unfold State.failUpdate
  repeat' (first
    | with_reducible assumption
    | extract_lets
    | with_reducible refine path_logHandoff _ _ _ _ (List.Subset.trans (by decide) hk) ?_
    | with_reducible refine path_modUpdate _ (List.Subset.trans (by decide) hk) ?_
    | with_reducible refine path_updateEnded (List.Subset.trans (by decide) hk) ?_
    | with_reducible refine path_of_fst (by with_reducible assumption) ?_
    | split
    | dsimp +zetaDelta only)

end Sys2Proof.Laws
end

