-- ==== Sys2Proof/Laws/PathFirmware.lean ====
section
/-!
SUPPORT. What the operations of Machine/Firmware.lean can do to the state: one path for each.
-/

set_option linter.all false

namespace Sys2Proof.Laws

open Sys2Proof Sys2Proof.Machine Sys2Proof.Safety

theorem path_reissue {ks : List Kind} {s0 s : State} (i : Nat) (k : Nat) (n : Nat)
    (hk : [.parts, .queues] ⊆ ks) (h : Path ks s0 s) :
    Path ks s0 (State.reissue s i k n) := by
  unfold State.reissue
  repeat' (first
    | with_reducible assumption
    | extract_lets
    | with_reducible refine path_modCmd _ _ (List.Subset.trans (by decide) hk) ?_
    | with_reducible refine path_modQueue _ _ _ (List.Subset.trans (by decide) hk) ?_
    | with_reducible refine path_of_fst (by with_reducible assumption) ?_
    | with_reducible refine path_foldl _ _ (fun _ _ _ => ?_) _ ?_
    | with_reducible refine path_foldl_fst _ _ (fun _ _ _ => ?_) _ ?_
    | split
    | dsimp +zetaDelta only)

theorem path_rollFor {ks : List Kind} {s0 s : State} (p : Nat) (cause : Nat)
    (hk : [.errq, .parts, .queues, .sites, .mem, .hbm, .streams, .ctr, .colls, .credits, .fetches, .xfers, .tfb, .boot, .outs, .free] ⊆ ks) (h : Path ks s0 s) :
    Path ks s0 (State.rollFor s p cause) := by
  unfold State.rollFor
  repeat' (first
    | with_reducible assumption
    | extract_lets
    | with_reducible refine path_beginRollback _ _ _ (List.Subset.trans (by decide) hk) ?_
    | with_reducible refine path_fenceAbort _ (List.Subset.trans (by decide) hk) ?_
    | with_reducible refine path_of_fst (by with_reducible assumption) ?_
    | with_reducible refine path_ite (fun _ => ?_) (fun _ => ?_)
    | with_reducible refine path_ite_fst (fun _ => ?_) (fun _ => ?_)
    | split
    | dsimp +zetaDelta only)

theorem path_cccCrash {ks : List Kind} {s0 s : State} (n : Nat)
    (hk : [.caddy, .errq, .parts, .queues, .sites, .mem, .hbm, .streams, .ctr, .colls, .credits, .fetches, .xfers, .tfb, .boot, .outs, .free] ⊆ ks) (h : Path ks s0 s) :
    Path ks s0 (State.cccCrash s n) := by
  unfold State.cccCrash
  repeat' (first
    | with_reducible assumption
    | extract_lets
    | with_reducible refine path_losePorts _ (List.Subset.trans (by decide) hk) ?_
    | with_reducible refine path_modSite _ _ (List.Subset.trans (by decide) hk) ?_
    | with_reducible refine path_raise _ (List.Subset.trans (by decide) hk) ?_
    | with_reducible refine path_reissue _ _ _ (List.Subset.trans (by decide) hk) ?_
    | with_reducible refine path_rollFor _ _ (List.Subset.trans (by decide) hk) ?_
    | with_reducible refine path_of_fst (by with_reducible assumption) ?_
    | with_reducible refine path_foldl _ _ (fun _ _ _ => ?_) _ ?_
    | with_reducible refine path_foldl_fst _ _ (fun _ _ _ => ?_) _ ?_
    | with_reducible refine path_ite (fun _ => ?_) (fun _ => ?_)
    | with_reducible refine path_ite_fst (fun _ => ?_) (fun _ => ?_)
    | split
    | dsimp +zetaDelta only)

theorem path_schedulerLost {ks : List Kind} {s0 s : State}
    (hk : [.errq, .parts, .queues, .sites, .mem, .hbm, .streams, .ctr, .colls, .credits, .fetches, .xfers, .tfb, .boot, .outs, .free] ⊆ ks) (h : Path ks s0 s) :
    Path ks s0 (State.schedulerLost s) := by
  unfold State.schedulerLost
  repeat' (first
    | with_reducible assumption
    | extract_lets
    | with_reducible refine path_enterSafeStop _ _ (List.Subset.trans (by decide) hk) ?_
    | with_reducible refine path_raise _ (List.Subset.trans (by decide) hk) ?_
    | with_reducible refine path_of_fst (by with_reducible assumption) ?_
    | with_reducible refine path_foldl _ _ (fun _ _ _ => ?_) _ ?_
    | with_reducible refine path_foldl_fst _ _ (fun _ _ _ => ?_) _ ?_
    | with_reducible refine path_ite (fun _ => ?_) (fun _ => ?_)
    | with_reducible refine path_ite_fst (fun _ => ?_) (fun _ => ?_)
    | split
    | fail_if_no_progress (with_reducible refine path_set_boot _ (List.Subset.trans (by decide) hk) ?_)
    | dsimp +zetaDelta only)

theorem path_schCrash {ks : List Kind} {s0 s : State}
    (hk : [.vals, .caddy, .log, .errq, .parts, .layoutGen, .queues, .sites, .mem, .hbm, .guests, .streams, .ctr, .colls, .credits, .fetches, .xfers, .kports, .tfb, .nor, .update, .recStage, .trustStage, .sec, .boot, .commitWait, .applyWait, .outs, .free] ⊆ ks) (h : Path ks s0 s) :
    Path ks s0 (State.schCrash s) := by
  unfold State.schCrash
  repeat' (first
    | with_reducible assumption
    | extract_lets
    | with_reducible refine path_commitUpdate (List.Subset.trans (by decide) hk) ?_
    | with_reducible refine path_losePorts _ (List.Subset.trans (by decide) hk) ?_
    | with_reducible refine path_raise _ (List.Subset.trans (by decide) hk) ?_
    | with_reducible refine path_schedulerLost (List.Subset.trans (by decide) hk) ?_
    | with_reducible refine path_of_fst (by with_reducible assumption) ?_
    | with_reducible refine path_ite (fun _ => ?_) (fun _ => ?_)
    | with_reducible refine path_ite_fst (fun _ => ?_) (fun _ => ?_)
    | split
    | fail_if_no_progress (with_reducible refine path_set_boot _ (List.Subset.trans (by decide) hk) ?_)
    | dsimp +zetaDelta only)

theorem path_pmcGone {ks : List Kind} {s0 s : State}
    (hk : [.sites, .boot, .power] ⊆ ks) (h : Path ks s0 s) :
    Path ks s0 (State.pmcGone s) := by
  unfold State.pmcGone
  repeat' (first
    | with_reducible assumption
    | extract_lets
    | with_reducible refine path_governorHold (List.Subset.trans (by decide) hk) ?_
    | with_reducible refine path_of_fst (by with_reducible assumption) ?_
    | split
    | fail_if_no_progress (with_reducible refine path_set_boot _ (List.Subset.trans (by decide) hk) ?_)
    | dsimp +zetaDelta only)

theorem path_pmcCrash {ks : List Kind} {s0 s : State}
    (hk : [.vals, .caddy, .log, .errq, .parts, .layoutGen, .queues, .sites, .mem, .hbm, .guests, .streams, .ctr, .colls, .credits, .fetches, .xfers, .kports, .tfb, .nor, .update, .recStage, .trustStage, .sec, .boot, .power, .commitWait, .applyWait, .outs, .free] ⊆ ks) (h : Path ks s0 s) :
    Path ks s0 (State.pmcCrash s) := by
  unfold State.pmcCrash
  repeat' (first
    | with_reducible assumption
    | extract_lets
    | with_reducible refine path_commitUpdate (List.Subset.trans (by decide) hk) ?_
    | with_reducible refine path_governorHold (List.Subset.trans (by decide) hk) ?_
    | with_reducible refine path_losePorts _ (List.Subset.trans (by decide) hk) ?_
    | with_reducible refine path_pmcGone (List.Subset.trans (by decide) hk) ?_
    | with_reducible refine path_raise _ (List.Subset.trans (by decide) hk) ?_
    | with_reducible refine path_of_fst (by with_reducible assumption) ?_
    | with_reducible refine path_ite (fun _ => ?_) (fun _ => ?_)
    | with_reducible refine path_ite_fst (fun _ => ?_) (fun _ => ?_)
    | split
    | fail_if_no_progress (with_reducible refine path_set_boot _ (List.Subset.trans (by decide) hk) ?_)
    | fail_if_no_progress (with_reducible refine path_set_power _ (List.Subset.trans (by decide) hk) ?_)
    | fail_if_no_progress ((with_reducible refine path_mk ?_ (le_refl _) (le_refl _) id (fun _ => le_refl _) (fun _ h => h) (fun k hn => ?_)); rotate_right 1; (cases k <;> first | exact absurd (hk (by decide)) hn | rfl))
    | dsimp +zetaDelta only)

theorem path_secCrash {ks : List Kind} {s0 s : State}
    (hk : [.caddy, .errq, .parts, .queues, .sites, .mem, .hbm, .streams, .ctr, .colls, .credits, .fetches, .xfers, .tfb, .update, .recStage, .trustStage, .sec, .boot, .commitWait, .applyWait, .outs, .free] ⊆ ks) (h : Path ks s0 s) :
    Path ks s0 (State.secCrash s) := by
  unfold State.secCrash
  repeat' (first
    | with_reducible assumption
    | extract_lets
    | with_reducible refine path_drain _ (List.Subset.trans (by decide) hk) ?_
    | with_reducible refine path_failStream _ _ (List.Subset.trans (by decide) hk) ?_
    | with_reducible refine path_losePorts _ (List.Subset.trans (by decide) hk) ?_
    | with_reducible refine path_modRcv _ _ (List.Subset.trans (by decide) hk) ?_
    | with_reducible refine path_raise _ (List.Subset.trans (by decide) hk) ?_
    | with_reducible refine path_of_fst (by with_reducible assumption) ?_
    | with_reducible refine path_foldl _ _ (fun _ _ _ => ?_) _ ?_
    | with_reducible refine path_foldl_fst _ _ (fun _ _ _ => ?_) _ ?_
    | with_reducible refine path_ite (fun _ => ?_) (fun _ => ?_)
    | with_reducible refine path_ite_fst (fun _ => ?_) (fun _ => ?_)
    | split
    | fail_if_no_progress ((with_reducible refine path_mk ?_ (le_refl _) (le_refl _) id (fun _ => le_refl _) (fun _ h => h) (fun k hn => ?_)); rotate_right 1; (cases k <;> first | exact absurd (hk (by decide)) hn | rfl))
    | dsimp +zetaDelta only)

theorem path_processorOffline {ks : List Kind} {s0 s : State} (unit : Nat)
    (hk : [.vals, .errq, .parts, .queues, .sites, .siteState, .spareGen, .spareTime, .mem, .hbm, .streams, .ctr, .colls, .credits, .fetches, .xfers, .tfb, .boot, .power, .outs, .free] ⊆ ks) (h : Path ks s0 s) :
    Path ks s0 (State.processorOffline s unit) := by
  unfold State.processorOffline
  repeat' (first
    | with_reducible assumption
    | extract_lets
    | with_reducible refine path_clusterFailed _ _ _ (List.Subset.trans (by decide) hk) ?_
    | with_reducible refine path_pmcGone (List.Subset.trans (by decide) hk) ?_
    | with_reducible refine path_schedulerLost (List.Subset.trans (by decide) hk) ?_
    | with_reducible refine path_of_fst (by with_reducible assumption) ?_
    | with_reducible refine path_ite (fun _ => ?_) (fun _ => ?_)
    | with_reducible refine path_ite_fst (fun _ => ?_) (fun _ => ?_)
    | split
    | fail_if_no_progress (with_reducible refine path_set_boot _ (List.Subset.trans (by decide) hk) ?_)
    | dsimp +zetaDelta only)

theorem path_pathOffline {ks : List Kind} {s0 s : State} (key : Nat)
    (hk : [.boot] ⊆ ks) (h : Path ks s0 s) :
    Path ks s0 (State.pathOffline s key) := by
  unfold State.pathOffline
  repeat' (first
    | with_reducible assumption
    | extract_lets
    | with_reducible refine path_of_fst (by with_reducible assumption) ?_
    | with_reducible refine path_ite (fun _ => ?_) (fun _ => ?_)
    | with_reducible refine path_ite_fst (fun _ => ?_) (fun _ => ?_)
    | split
    | fail_if_no_progress (with_reducible refine path_set_boot _ (List.Subset.trans (by decide) hk) ?_)
    | dsimp +zetaDelta only)

theorem path_takeOffline {ks : List Kind} {s0 s : State} (e : ErrEntry)
    (hk : [.vals, .caddy, .log, .errq, .parts, .queues, .sites, .siteState, .spareGen, .spareTime, .fles, .mem, .hbm, .guests, .streams, .ctr, .colls, .credits, .fetches, .xfers, .kports, .iports, .tfb, .nor, .boot, .power, .outs, .free] ⊆ ks) (h : Path ks s0 s) :
    Path ks s0 (State.takeOffline s e) := by
  unfold State.takeOffline
  repeat' (first
    | with_reducible assumption
    | extract_lets
    | with_reducible refine path_channelFails _ _ (List.Subset.trans (by decide) hk) ?_
    | with_reducible refine path_clusterFailed _ _ _ (List.Subset.trans (by decide) hk) ?_
    | with_reducible refine path_ingestDown _ (List.Subset.trans (by decide) hk) ?_
    | with_reducible refine path_kettleDown _ _ (List.Subset.trans (by decide) hk) ?_
    | with_reducible refine path_pathOffline _ (List.Subset.trans (by decide) hk) ?_
    | with_reducible refine path_processorOffline _ (List.Subset.trans (by decide) hk) ?_
    | with_reducible refine path_retireArray _ _ _ (List.Subset.trans (by decide) hk) ?_
    | with_reducible refine path_retireColumn _ _ (List.Subset.trans (by decide) hk) ?_
    | with_reducible refine path_spareTested _ _ (List.Subset.trans (by decide) hk) ?_
    | with_reducible refine path_of_fst (by with_reducible assumption) ?_
    | with_reducible refine path_ite (fun _ => ?_) (fun _ => ?_)
    | with_reducible refine path_ite_fst (fun _ => ?_) (fun _ => ?_)
    | split
    | dsimp +zetaDelta only)

end Sys2Proof.Laws
end

