-- ==== Sys2Proof/Laws/PathErrors.lean ====
section
/-!
SUPPORT. What the operations of Machine/Errors.lean can do to the state: one path for each.
-/

set_option linter.all false

namespace Sys2Proof.Laws

open Sys2Proof Sys2Proof.Machine Sys2Proof.Safety

theorem path_logEntry {ks : List Kind} {s0 s : State} (e : ErrEntry)
    (hk : [.log] ⊆ ks) (h : Path ks s0 s) :
    Path ks s0 (State.logEntry s e) := by
  unfold State.logEntry
  repeat' (first
    | with_reducible assumption
    | extract_lets
    | with_reducible refine path_logRecord _ _ (List.Subset.trans (by decide) hk) ?_
    | with_reducible refine path_of_fst (by with_reducible assumption) ?_
    | split
    | dsimp +zetaDelta only)

theorem path_countPath {ks : List Kind} {s0 s : State} (kind : Nat) (path : Nat) (replays : Nat) (retrains : Nat)
    (hk : [.ctr, .boot] ⊆ ks) (h : Path ks s0 s) :
    Path ks s0 (State.countPath s kind path replays retrains) := by
  unfold State.countPath
  repeat' (first
    | with_reducible assumption
    | extract_lets
    | with_reducible refine path_count _ _ _ (List.Subset.trans (by decide) hk) ?_
    | with_reducible refine path_of_fst (by with_reducible assumption) ?_
    | with_reducible refine path_ite (fun _ => ?_) (fun _ => ?_)
    | with_reducible refine path_ite_fst (fun _ => ?_) (fun _ => ?_)
    | split
    | fail_if_no_progress (with_reducible refine path_set_boot _ (List.Subset.trans (by decide) hk) ?_)
    | dsimp +zetaDelta only)

theorem path_modInput {ks : List Kind} {s0 s : State} (i : Nat) (f : SInput → SInput)
    (hk : [.inputs] ⊆ ks) (h : Path ks s0 s) :
    Path ks s0 (State.modInput s i f) := by
  unfold State.modInput
  repeat' (first
    | with_reducible assumption
    | extract_lets
    | with_reducible refine path_of_fst (by with_reducible assumption) ?_
    | split
    | fail_if_no_progress (with_reducible refine path_set_inputs _ (List.Subset.trans (by decide) hk) ?_)
    | dsimp +zetaDelta only)

theorem path_strain {ks : List Kind} {s0 s : State} (i : Nat) (f : State → State)
    (hk : [.inputs] ⊆ ks) (hf : ∀ (u : State), Path ks s0 u → Path ks s0 (f u)) (h : Path ks s0 s) :
    Path ks s0 (State.strain s i f) := by
  unfold State.strain
  repeat' (first
    | with_reducible assumption
    | extract_lets
    | with_reducible refine path_modInput _ _ (List.Subset.trans (by decide) hk) ?_
    | exact hf _ (by assumption)
    | with_reducible refine hf _ ?_
    | with_reducible refine hf _ _ ?_
    | with_reducible refine hf _ _ _ ?_
    | with_reducible refine path_of_fst (by with_reducible assumption) ?_
    | with_reducible refine path_ite (fun _ => ?_) (fun _ => ?_)
    | with_reducible refine path_ite_fst (fun _ => ?_) (fun _ => ?_)
    | split
    | dsimp +zetaDelta only)

end Sys2Proof.Laws
end

