-- ==== Sys2Proof/Laws/PathStartup.lean ====
section
/-!
SUPPORT. What the operations of Machine/Startup.lean can do to the state: one path for each.
-/

set_option linter.all false

namespace Sys2Proof.Laws

open Sys2Proof Sys2Proof.Machine Sys2Proof.Safety

theorem path_programLog {ks : List Kind} {s0 s : State}
    (hk : [.log] ⊆ ks) (h : Path ks s0 s) :
    Path ks s0 (State.programLog s) := by
  unfold State.programLog
  repeat' (first
    | with_reducible assumption
    | extract_lets
    | with_reducible refine path_of_fst (by with_reducible assumption) ?_
    | split
    | fail_if_no_progress (with_reducible refine path_set_log _ (List.Subset.trans (by decide) hk) ?_)
    | dsimp +zetaDelta only)

theorem path_saveLog {ks : List Kind} {s0 s : State}
    (hk : [.log] ⊆ ks) (h : Path ks s0 s) :
    Path ks s0 (State.saveLog s) := by
  unfold State.saveLog
  repeat' (first
    | with_reducible assumption
    | extract_lets
    | with_reducible refine path_programLog (List.Subset.trans (by decide) hk) ?_
    | with_reducible refine path_of_fst (by with_reducible assumption) ?_
    | with_reducible refine path_ite (fun _ => ?_) (fun _ => ?_)
    | with_reducible refine path_ite_fst (fun _ => ?_) (fun _ => ?_)
    | split
    | fail_if_no_progress (with_reducible refine path_set_log _ (List.Subset.trans (by decide) hk) ?_)
    | dsimp +zetaDelta only)

theorem path_clearLog {ks : List Kind} {s0 s : State} (route : Nat)
    (hk : [.log] ⊆ ks) (h : Path ks s0 s) :
    Path ks s0 (State.clearLog s route).1 := by
  unfold State.clearLog
  repeat' (first
    | with_reducible assumption
    | extract_lets
    | with_reducible refine path_logEvent _ _ _ _ (List.Subset.trans (by decide) hk) ?_
    | with_reducible refine path_of_fst (by with_reducible assumption) ?_
    | with_reducible refine path_ite (fun _ => ?_) (fun _ => ?_)
    | with_reducible refine path_ite_fst (fun _ => ?_) (fun _ => ?_)
    | split
    | fail_if_no_progress (with_reducible refine path_set_log _ (List.Subset.trans (by decide) hk) ?_)
    | dsimp +zetaDelta only)

theorem path_readLog {ks : List Kind} {s0 s : State} (route : Nat)
    (hk : [.log] ⊆ ks) (h : Path ks s0 s) :
    Path ks s0 (State.readLog s route).1 := by
  unfold State.readLog
  repeat' (first
    | with_reducible assumption
    | extract_lets
    | with_reducible refine path_of_fst (by with_reducible assumption) ?_
    | split
    | fail_if_no_progress (with_reducible refine path_set_log _ (List.Subset.trans (by decide) hk) ?_)
    | dsimp +zetaDelta only)

theorem path_fresh {ks : List Kind} {s0 : State} {s : State} (cold : Bool) (kind : Nat) (found : Findings)
    (hk : [.time, .factory, .vals, .caddy, .log, .errq, .secState, .parts, .queues, .sites, .fles, .mem, .hbm, .guests, .notices, .streams, .ctr, .shadow, .colls, .credits, .fetches, .xfers, .pendingSrc, .kports, .iports, .tfb, .update, .recStage, .trustStage, .sec, .boot, .journal, .power, .sensors, .inputs, .bus, .commitWait, .applyWait] ⊆ ks) (h : Path ks s0 s) : Path ks s0 (State.fresh s cold kind found) := by
  unfold State.fresh
  have hch : ∀ c, c ∈ s.hbm.failed → c ∈ s.hbm.kept.failed := fun c hc => hc
  extract_lets
  split <;>
  · refine path_trans h ⟨fun k hn => ?_, ⟨fun _ => rfl, fun _ => le_refl _, le_refl _, le_refl _, hch⟩⟩
    cases k <;> first | rfl | exact absurd (hk (by decide)) hn

theorem path_recover {ks : List Kind} {s0 s : State} (found : Findings)
    (hk : [.boot] ⊆ ks) (h : Path ks s0 s) :
    Path ks s0 (State.recover s found) := by
  unfold State.recover
  repeat' (first
    | with_reducible assumption
    | extract_lets
    | with_reducible refine path_of_fst (by with_reducible assumption) ?_
    | split
    | fail_if_no_progress (with_reducible refine path_set_boot _ (List.Subset.trans (by decide) hk) ?_)
    | dsimp +zetaDelta only)

theorem path_chooseBank {ks : List Kind} {s0 s : State} (kind : Nat) (activeOk : Bool) (inactiveOk : Bool)
    (hk : [.log, .nor] ⊆ ks) (h : Path ks s0 s) :
    OnPath ks s0 (State.chooseBank s kind activeOk inactiveOk) := by
  unfold State.chooseBank
  repeat' (first
    | with_reducible assumption
    | extract_lets
    | with_reducible refine path_logHandoff _ _ _ _ (List.Subset.trans (by decide) hk) ?_
    | with_reducible refine onPath_some ?_
    | with_reducible exact onPath_none _ _
    | with_reducible refine path_of_fst (by with_reducible assumption) ?_
    | with_reducible refine path_ite (fun _ => ?_) (fun _ => ?_)
    | with_reducible refine path_ite_fst (fun _ => ?_) (fun _ => ?_)
    | split
    | fail_if_no_progress ((with_reducible refine path_mk ?_ (le_refl _) (le_refl _) id (fun _ => le_refl _) (fun _ h => h) (fun k hn => ?_)); rotate_right 1; (cases k <;> first | exact absurd (hk (by decide)) hn | rfl))
    | dsimp +zetaDelta only)

theorem path_chooseBanks {ks : List Kind} {s0 : State} {s : State} (found : Findings)
    (hk : [.log, .nor] ⊆ ks) (h : Path ks s0 s) : OnPath ks s0 (State.chooseBanks s found) := by
  unfold State.chooseBanks
  have go : ∀ (l : List Nat) (o : Option State), OnPath ks s0 o → OnPath ks s0 (l.foldl (fun (o : Option State) (k : Nat) =>
      o.bind fun s => s.chooseBank (k + 2) (found.imagesActiveOk.getD k true) (found.imagesInactiveOk.getD k true)) o) := by
    intro l
    induction l with
    | nil => exact fun _ ho => ho
    | cons k r ih =>
      intro o ho
      refine ih _ ?_
      cases o with
      | none => exact onPath_none _ _
      | some u => exact path_chooseBank _ _ _ (List.Subset.trans (by decide) hk) (ho u rfl)
  exact go _ _ (onPath_some h)

theorem path_layer {ks : List Kind} {s0 s : State} (n : Nat) (isSealed : Bool) (es : List (Nat × List Byte))
    (hk : [.vals, .log] ⊆ ks) (h : Path ks s0 s) :
    Path ks s0 (State.layer s n isSealed es) := by
  unfold State.layer
  repeat' (first
    | with_reducible assumption
    | extract_lets
    | with_reducible refine path_logEvent _ _ _ _ (List.Subset.trans (by decide) hk) ?_
    | with_reducible refine path_setVal _ _ _ (List.Subset.trans (by decide) hk) ?_
    | with_reducible refine path_of_fst (by with_reducible assumption) ?_
    | with_reducible refine path_foldl _ _ (fun _ _ _ => ?_) _ ?_
    | with_reducible refine path_foldl_fst _ _ (fun _ _ _ => ?_) _ ?_
    | with_reducible refine path_ite (fun _ => ?_) (fun _ => ?_)
    | with_reducible refine path_ite_fst (fun _ => ?_) (fun _ => ?_)
    | split
    | dsimp +zetaDelta only)

theorem path_emptyErrors {ks : List Kind} {s0 s : State}
    (hk : [.log, .errq] ⊆ ks) (h : Path ks s0 s) :
    Path ks s0 (State.emptyErrors s) := by
  unfold State.emptyErrors
  repeat' (first
    | with_reducible assumption
    | extract_lets
    | with_reducible refine path_logEntry _ (List.Subset.trans (by decide) hk) ?_
    | with_reducible refine path_of_fst (by with_reducible assumption) ?_
    | with_reducible refine path_foldl _ _ (fun _ _ _ => ?_) _ ?_
    | with_reducible refine path_foldl_fst _ _ (fun _ _ _ => ?_) _ ?_
    | split
    | fail_if_no_progress (with_reducible refine path_set_errq _ (List.Subset.trans (by decide) hk) ?_)
    | dsimp +zetaDelta only)

theorem path_loadRecords {ks : List Kind} {s0 s : State} (found : Findings)
    (hk : [.vals, .log, .errq, .nor] ⊆ ks) (h : Path ks s0 s) :
    OnPath ks s0 (State.loadRecords s found) := by
  unfold State.loadRecords
  repeat' (first
    | with_reducible assumption
    | extract_lets
    | with_reducible refine path_emptyErrors (List.Subset.trans (by decide) hk) ?_
    | with_reducible refine path_layer _ _ _ (List.Subset.trans (by decide) hk) ?_
    | with_reducible refine path_logEvent _ _ _ _ (List.Subset.trans (by decide) hk) ?_
    | with_reducible refine onPath_some ?_
    | with_reducible exact onPath_none _ _
    | with_reducible refine path_of_fst (by with_reducible assumption) ?_
    | with_reducible refine path_ite (fun _ => ?_) (fun _ => ?_)
    | with_reducible refine path_ite_fst (fun _ => ?_) (fun _ => ?_)
    | split
    | fail_if_no_progress ((with_reducible refine path_mk ?_ (le_refl _) (le_refl _) id (fun _ => le_refl _) (fun _ h => h) (fun k hn => ?_)); rotate_right 1; (cases k <;> first | exact absurd (hk (by decide)) hn | rfl))
    | dsimp +zetaDelta only)

theorem path_retireTested {ks : List Kind} {s0 s : State} (found : Findings) (i : Nat)
    (hk : [.errq, .parts, .queues, .sites, .mem, .hbm, .streams, .ctr, .colls, .credits, .fetches, .xfers, .tfb, .boot, .outs, .free] ⊆ ks) (h : Path ks s0 s) :
    Path ks s0 (State.retireTested s found i) := by
  unfold State.retireTested
  repeat' (first
    | with_reducible assumption
    | extract_lets
    | with_reducible refine path_modSite _ _ (List.Subset.trans (by decide) hk) ?_
    | with_reducible refine path_raise _ (List.Subset.trans (by decide) hk) ?_
    | with_reducible refine path_of_fst (by with_reducible assumption) ?_
    | with_reducible refine path_foldl _ _ (fun _ _ _ => ?_) _ ?_
    | with_reducible refine path_foldl_fst _ _ (fun _ _ _ => ?_) _ ?_
    | split
    | dsimp +zetaDelta only)

theorem path_replaceTested {ks : List Kind} {s0 s : State} (i : Nat) (number : Option Nat)
    (hk : [.errq, .parts, .queues, .sites, .siteState, .mem, .hbm, .streams, .ctr, .colls, .credits, .fetches, .xfers, .tfb, .boot, .outs, .free] ⊆ ks) (h : Path ks s0 s) :
    Path ks s0 (State.replaceTested s i number) := by
  unfold State.replaceTested
  repeat' (first
    | with_reducible assumption
    | extract_lets
    | with_reducible refine path_raise _ (List.Subset.trans (by decide) hk) ?_
    | with_reducible refine path_of_fst (by with_reducible assumption) ?_
    | split
    | fail_if_no_progress (with_reducible refine path_set_siteState _ (List.Subset.trans (by decide) hk) ?_)
    | dsimp +zetaDelta only)

theorem path_selfTest {ks : List Kind} {s0 s : State} (found : Findings)
    (hk : [.vals, .errq, .parts, .queues, .sites, .siteState, .spareGen, .spareTime, .fles, .mem, .hbm, .guests, .streams, .ctr, .colls, .credits, .fetches, .xfers, .kports, .tfb, .boot, .outs, .free] ⊆ ks) (h : Path ks s0 s) :
    Path ks s0 (State.selfTest s found) := by
  unfold State.selfTest
  repeat' (first
    | with_reducible assumption
    | extract_lets
    | with_reducible refine path_channelFails _ _ (List.Subset.trans (by decide) hk) ?_
    | with_reducible refine path_mapChanged (List.Subset.trans (by decide) hk) ?_
    | with_reducible refine path_replaceTested _ _ (List.Subset.trans (by decide) hk) ?_
    | with_reducible refine path_retireArray _ _ _ (List.Subset.trans (by decide) hk) ?_
    | with_reducible refine path_retireTested _ _ (List.Subset.trans (by decide) hk) ?_
    | with_reducible refine path_of_fst (by with_reducible assumption) ?_
    | with_reducible refine path_foldl _ _ (fun _ _ _ => ?_) _ ?_
    | with_reducible refine path_foldl_fst _ _ (fun _ _ _ => ?_) _ ?_
    | with_reducible refine path_ite (fun _ => ?_) (fun _ => ?_)
    | with_reducible refine path_ite_fst (fun _ => ?_) (fun _ => ?_)
    | split
    | fail_if_no_progress (with_reducible refine path_set_siteState _ (List.Subset.trans (by decide) hk) ?_)
    | fail_if_no_progress (with_reducible refine path_set_boot _ (List.Subset.trans (by decide) hk) ?_)
    | fail_if_no_progress ((with_reducible refine path_mk ?_ (le_refl _) (le_refl _) id (fun _ => le_refl _) (fun _ h => h) (fun k hn => ?_)); rotate_right 1; (cases k <;> first | exact absurd (hk (by decide)) hn | rfl))
    | dsimp +zetaDelta only)

theorem path_commitSaved {ks : List Kind} {s0 s : State} (old : List Slice)
    (hk : [.parts, .layoutGen] ⊆ ks) (h : Path ks s0 s) :
    Path ks s0 (State.commitSaved s old) := by
  unfold State.commitSaved
  repeat' (first
    | with_reducible assumption
    | extract_lets
    | with_reducible refine path_modPart _ _ (List.Subset.trans (by decide) hk) ?_
    | with_reducible refine path_of_fst (by with_reducible assumption) ?_
    | with_reducible refine path_foldl _ _ (fun _ _ _ => ?_) _ ?_
    | with_reducible refine path_foldl_fst _ _ (fun _ _ _ => ?_) _ ?_
    | with_reducible refine path_ite (fun _ => ?_) (fun _ => ?_)
    | with_reducible refine path_ite_fst (fun _ => ?_) (fun _ => ?_)
    | split
    | fail_if_no_progress ((with_reducible refine path_mk ?_ (Nat.le_succ _) (le_refl _) id (fun _ => le_refl _) (fun _ h => h) (fun k hn => ?_)); rotate_right 1; (cases k <;> first | exact absurd (hk (by decide)) hn | rfl))
    | dsimp +zetaDelta only)

theorem path_raiseSecurity {ks : List Kind} {s0 s : State}
    (hk : [.log, .secState, .parts, .queues, .mem, .hbm, .streams, .nor, .sec, .outs, .free] ⊆ ks) (h : Path ks s0 s) :
    Path ks s0 (State.raiseSecurity s) := by
  unfold State.raiseSecurity
  repeat' (first
    | with_reducible assumption
    | extract_lets
    | with_reducible refine path_requestSecState _ (List.Subset.trans (by decide) hk) ?_
    | with_reducible refine path_of_fst (by with_reducible assumption) ?_
    | with_reducible refine path_ite (fun _ => ?_) (fun _ => ?_)
    | with_reducible refine path_ite_fst (fun _ => ?_) (fun _ => ?_)
    | split
    | dsimp +zetaDelta only)

theorem path_readyNow {ks : List Kind} {s0 s : State} (most : Nat)
    (hk : [.log, .boot, .free] ⊆ ks) (h : Path ks s0 s) :
    Path ks s0 (State.readyNow s most) := by
  unfold State.readyNow
  repeat' (first
    | with_reducible assumption
    | extract_lets
    | with_reducible refine path_logEvent _ _ _ _ (List.Subset.trans (by decide) hk) ?_
    | with_reducible refine path_spend _ (List.Subset.trans (by decide) hk) ?_
    | with_reducible refine path_of_fst (by with_reducible assumption) ?_
    | split
    | fail_if_no_progress (with_reducible refine path_set_boot _ (List.Subset.trans (by decide) hk) ?_)
    | dsimp +zetaDelta only)

theorem path_startUp {ks : List Kind} {s0 s : State} (cold : Bool) (kind : Nat) (found : Findings)
    (hk : [.time, .factory, .vals, .caddy, .log, .errq, .secState, .parts, .layoutGen, .queues, .sites, .siteState, .spareGen, .spareTime, .fles, .mem, .hbm, .guests, .notices, .streams, .ctr, .shadow, .colls, .credits, .fetches, .xfers, .pendingSrc, .kports, .iports, .tfb, .nor, .update, .recStage, .trustStage, .sec, .boot, .journal, .power, .sensors, .inputs, .bus, .commitWait, .applyWait, .outs, .free] ⊆ ks) (h : Path ks s0 s) :
    Path ks s0 (State.startUp s cold kind found) := by
  unfold State.startUp
  repeat' (first
    | with_reducible assumption
    | extract_lets
    | with_reducible refine path_chooseBank _ _ _ (List.Subset.trans (by decide) hk) ?_
    | with_reducible refine path_chooseBanks _ (List.Subset.trans (by decide) hk) ?_
    | with_reducible refine path_commitSaved _ (List.Subset.trans (by decide) hk) ?_
    | with_reducible refine path_fresh _ _ _ (List.Subset.trans (by decide) hk) ?_
    | with_reducible refine path_loadRecords _ (List.Subset.trans (by decide) hk) ?_
    | with_reducible refine path_mainOff _ (List.Subset.trans (by decide) hk) ?_
    | with_reducible refine path_raise _ (List.Subset.trans (by decide) hk) ?_
    | with_reducible refine path_raiseSecurity (List.Subset.trans (by decide) hk) ?_
    | with_reducible refine path_readyNow _ (List.Subset.trans (by decide) hk) ?_
    | with_reducible refine path_recover _ (List.Subset.trans (by decide) hk) ?_
    | with_reducible refine path_selfTest _ (List.Subset.trans (by decide) hk) ?_
    | with_reducible refine path_of_fst (by with_reducible assumption) ?_
    | with_reducible refine path_of_some (by with_reducible assumption) ?_
    | with_reducible refine path_ite (fun _ => ?_) (fun _ => ?_)
    | with_reducible refine path_ite_fst (fun _ => ?_) (fun _ => ?_)
    | split
    | fail_if_no_progress (with_reducible refine path_set_boot _ (List.Subset.trans (by decide) hk) ?_)
    | dsimp +zetaDelta only)

theorem path_warmReset {ks : List Kind} {s0 s : State} (kind : Nat) (found : Findings)
    (hk : [.time, .factory, .vals, .caddy, .log, .errq, .secState, .parts, .layoutGen, .queues, .sites, .siteState, .spareGen, .spareTime, .fles, .mem, .hbm, .guests, .notices, .streams, .ctr, .shadow, .colls, .credits, .fetches, .xfers, .pendingSrc, .kports, .iports, .tfb, .nor, .update, .recStage, .trustStage, .sec, .boot, .journal, .power, .sensors, .inputs, .bus, .commitWait, .applyWait, .outs, .free] ⊆ ks) (h : Path ks s0 s) :
    Path ks s0 (State.warmReset s kind found) := by
  unfold State.warmReset
  repeat' (first
    | with_reducible assumption
    | extract_lets
    | with_reducible refine path_enterSafeStop _ _ (List.Subset.trans (by decide) hk) ?_
    | with_reducible refine path_saveLog (List.Subset.trans (by decide) hk) ?_
    | with_reducible refine path_startUp _ _ _ (List.Subset.trans (by decide) hk) ?_
    | with_reducible refine path_of_fst (by with_reducible assumption) ?_
    | with_reducible refine path_foldl _ _ (fun _ _ _ => ?_) _ ?_
    | with_reducible refine path_foldl_fst _ _ (fun _ _ _ => ?_) _ ?_
    | with_reducible refine path_ite (fun _ => ?_) (fun _ => ?_)
    | with_reducible refine path_ite_fst (fun _ => ?_) (fun _ => ?_)
    | split
    | dsimp +zetaDelta only)

theorem path_requestReset {ks : List Kind} {s0 s : State} (kind : Nat) (found : Findings)
    (hk : [.time, .factory, .vals, .caddy, .log, .errq, .secState, .parts, .layoutGen, .queues, .sites, .siteState, .spareGen, .spareTime, .fles, .mem, .hbm, .guests, .notices, .streams, .ctr, .shadow, .colls, .credits, .fetches, .xfers, .pendingSrc, .kports, .iports, .tfb, .nor, .update, .recStage, .trustStage, .sec, .boot, .journal, .power, .sensors, .inputs, .bus, .commitWait, .applyWait, .outs, .free] ⊆ ks) (h : Path ks s0 s) :
    Path ks s0 (State.requestReset s kind found) := by
  unfold State.requestReset
  repeat' (first
    | with_reducible assumption
    | extract_lets
    | with_reducible refine path_warmReset _ _ (List.Subset.trans (by decide) hk) ?_
    | with_reducible refine path_of_fst (by with_reducible assumption) ?_
    | with_reducible refine path_ite (fun _ => ?_) (fun _ => ?_)
    | with_reducible refine path_ite_fst (fun _ => ?_) (fun _ => ?_)
    | split
    | fail_if_no_progress (with_reducible refine path_set_boot _ (List.Subset.trans (by decide) hk) ?_)
    | dsimp +zetaDelta only)

theorem path_caddyReset {ks : List Kind} {s0 s : State} (r : Req) (found : Findings)
    (hk : [.time, .factory, .vals, .caddy, .log, .errq, .secState, .parts, .layoutGen, .queues, .sites, .siteState, .spareGen, .spareTime, .fles, .mem, .hbm, .guests, .notices, .streams, .ctr, .shadow, .colls, .credits, .fetches, .xfers, .pendingSrc, .kports, .iports, .tfb, .nor, .update, .recStage, .trustStage, .sec, .boot, .journal, .power, .sensors, .inputs, .bus, .commitWait, .applyWait, .outs, .free] ⊆ ks) (h : Path ks s0 s) :
    Path ks s0 (State.caddyReset s r found).1 := by
  unfold State.caddyReset
  repeat' (first
    | with_reducible assumption
    | extract_lets
    | with_reducible refine path_commitWrite _ _ _ _ (List.Subset.trans (by decide) hk) ?_
    | with_reducible refine path_respond _ _ _ _ _ _ (List.Subset.trans (by decide) hk) ?_
    | with_reducible refine path_warmReset _ _ (List.Subset.trans (by decide) hk) ?_
    | with_reducible refine path_of_fst (by with_reducible assumption) ?_
    | with_reducible refine path_ite (fun _ => ?_) (fun _ => ?_)
    | with_reducible refine path_ite_fst (fun _ => ?_) (fun _ => ?_)
    | split
    | dsimp +zetaDelta only)

theorem path_activateRecovery {ks : List Kind} {s0 s : State} (found : Findings)
    (hk : [.time, .factory, .vals, .caddy, .log, .errq, .secState, .parts, .layoutGen, .queues, .sites, .siteState, .spareGen, .spareTime, .fles, .mem, .hbm, .guests, .notices, .streams, .ctr, .shadow, .colls, .credits, .fetches, .xfers, .pendingSrc, .kports, .iports, .tfb, .nor, .update, .recStage, .trustStage, .sec, .boot, .journal, .power, .sensors, .inputs, .bus, .commitWait, .applyWait, .outs, .free] ⊆ ks) (h : Path ks s0 s) :
    Path ks s0 (State.activateRecovery s found) := by
  unfold State.activateRecovery
  repeat' (first
    | with_reducible assumption
    | extract_lets
    | with_reducible refine path_startUp _ _ _ (List.Subset.trans (by decide) hk) ?_
    | with_reducible refine path_of_fst (by with_reducible assumption) ?_
    | split
    | fail_if_no_progress ((with_reducible refine path_mk ?_ (le_refl _) (le_refl _) id (fun _ => le_refl _) (fun _ h => h) (fun k hn => ?_)); rotate_right 1; (cases k <;> first | exact absurd (hk (by decide)) hn | rfl))
    | dsimp +zetaDelta only)

theorem path_activate {ks : List Kind} {s0 s : State} (r : Req)
    (hk : [.time, .factory, .vals, .caddy, .log, .errq, .secState, .parts, .layoutGen, .queues, .sites, .siteState, .spareGen, .spareTime, .fles, .mem, .hbm, .guests, .notices, .streams, .ctr, .shadow, .colls, .credits, .fetches, .xfers, .pendingSrc, .kports, .iports, .tfb, .nor, .update, .recStage, .trustStage, .sec, .boot, .journal, .power, .sensors, .inputs, .bus, .commitWait, .applyWait, .outs, .free] ⊆ ks) (h : Path ks s0 s) :
    Path ks s0 (State.activate s r).1 := by
  unfold State.activate
  repeat' (first
    | with_reducible assumption
    | extract_lets
    | with_reducible refine path_activateLive (List.Subset.trans (by decide) hk) ?_
    | with_reducible refine path_activateRecovery _ (List.Subset.trans (by decide) hk) ?_
    | with_reducible refine path_commitWrite _ _ _ _ (List.Subset.trans (by decide) hk) ?_
    | with_reducible refine path_respond _ _ _ _ _ _ (List.Subset.trans (by decide) hk) ?_
    | with_reducible refine path_of_fst (by with_reducible assumption) ?_
    | with_reducible refine path_ite (fun _ => ?_) (fun _ => ?_)
    | with_reducible refine path_ite_fst (fun _ => ?_) (fun _ => ?_)
    | split
    | dsimp +zetaDelta only)

end Sys2Proof.Laws
end

