-- ==== Sys2Proof/Laws/PathLinks.lean ====
section
/-!
SUPPORT. What the operations of Machine/Links.lean can do to the state: one path for each.
-/

set_option linter.all false

namespace Sys2Proof.Laws

open Sys2Proof Sys2Proof.Machine Sys2Proof.Safety

theorem path_dropResponse {ks : List Kind} {s0 s : State}
    (hk : [.caddy] ⊆ ks) (h : Path ks s0 s) :
    Path ks s0 (State.dropResponse s) := by
  unfold State.dropResponse
  repeat' (first
    | with_reducible assumption
    | extract_lets
    | with_reducible refine path_of_fst (by with_reducible assumption) ?_
    | split
    | fail_if_no_progress (with_reducible refine path_set_caddy _ (List.Subset.trans (by decide) hk) ?_)
    | dsimp +zetaDelta only)

theorem path_i3c {ks : List Kind} {s0 s : State} (f : State → State)
    (hk : [] ⊆ ks) (hf : ∀ (u : State), Path ks s0 u → Path ks s0 (f u)) (h : Path ks s0 s) :
    Path ks s0 (State.i3c s f) := by
  unfold State.i3c
  repeat' (first
    | with_reducible assumption
    | extract_lets
    | exact hf _ (by assumption)
    | with_reducible refine hf _ ?_
    | with_reducible refine hf _ _ ?_
    | with_reducible refine hf _ _ _ ?_
    | with_reducible refine path_of_fst (by with_reducible assumption) ?_
    | with_reducible refine path_ite (fun _ => ?_) (fun _ => ?_)
    | with_reducible refine path_ite_fst (fun _ => ?_) (fun _ => ?_)
    | split
    | dsimp +zetaDelta only)

theorem path_modBus {ks : List Kind} {s0 s : State} (f : Bus → Bus)
    (hk : [.bus] ⊆ ks) (h : Path ks s0 s) :
    Path ks s0 (State.modBus s f) := by
  unfold State.modBus
  repeat' (first
    | with_reducible assumption
    | extract_lets
    | with_reducible refine path_of_fst (by with_reducible assumption) ?_
    | split
    | fail_if_no_progress (with_reducible refine path_set_bus _ (List.Subset.trans (by decide) hk) ?_)
    | dsimp +zetaDelta only)

theorem path_writeMigration {ks : List Kind} {s0 s : State} (v : Nat)
    (hk : [.hbm] ⊆ ks) (h : Path ks s0 s) :
    Path ks s0 (State.writeMigration s v).1 := by
  unfold State.writeMigration
  repeat' (first
    | with_reducible assumption
    | extract_lets
    | with_reducible refine path_startMigration _ _ (List.Subset.trans (by decide) hk) ?_
    | with_reducible refine path_of_fst (by with_reducible assumption) ?_
    | with_reducible refine path_ite (fun _ => ?_) (fun _ => ?_)
    | with_reducible refine path_ite_fst (fun _ => ?_) (fun _ => ?_)
    | split
    | dsimp +zetaDelta only)

end Sys2Proof.Laws
end

