-- ==== Sys2Proof/Laws/PathReading.lean ====
section
/-!
SUPPORT. What the operations of Machine/Reading.lean can do to the state: one path for each.
-/

set_option linter.all false

namespace Sys2Proof.Laws

open Sys2Proof Sys2Proof.Machine Sys2Proof.Safety

theorem path_readEntry {ks : List Kind} {s0 s : State} (route : Nat) (i : Nat) (j : Nat)
    (hk : [.log, .free] ⊆ ks) (h : Path ks s0 s) :
    Path ks s0 (State.readEntry s route i j).1 := by
  unfold State.readEntry
  repeat' (first
    | with_reducible assumption
    | extract_lets
    | with_reducible refine path_readLog _ (List.Subset.trans (by decide) hk) ?_
    | with_reducible refine path_spend _ (List.Subset.trans (by decide) hk) ?_
    | with_reducible refine path_of_fst (by with_reducible assumption) ?_
    | with_reducible refine path_ite (fun _ => ?_) (fun _ => ?_)
    | with_reducible refine path_ite_fst (fun _ => ?_) (fun _ => ?_)
    | split
    | dsimp +zetaDelta only)

end Sys2Proof.Laws
end

