-- ==== Sys2Proof/Laws/PathCaddyServe.lean ====
section
/-!
SUPPORT. What the operations of Machine/CaddyServe.lean can do to the state: one path for each.
-/

set_option linter.all false

namespace Sys2Proof.Laws

open Sys2Proof Sys2Proof.Machine Sys2Proof.Safety

theorem path_readRequest {ks : List Kind} {s0 s : State} (r : Req) (i : Nat) (j : Nat) (offset : Nat)
    (hk : [.caddy, .log, .outs, .free] ⊆ ks) (h : Path ks s0 s) :
    Path ks s0 (State.readRequest s r i j offset) := by
  unfold State.readRequest
  repeat' (first
    | with_reducible assumption
    | extract_lets
    | with_reducible refine path_readEntry _ _ _ (List.Subset.trans (by decide) hk) ?_
    | with_reducible refine path_serve _ _ _ _ _ (List.Subset.trans (by decide) hk) (fun _ _ => ?_) ?_
    | with_reducible refine path_of_fst (by with_reducible assumption) ?_
    | split
    | dsimp +zetaDelta only)

theorem path_identifyRequest {ks : List Kind} {s0 s : State} (r : Req)
    (hk : [.caddy, .log, .outs] ⊆ ks) (h : Path ks s0 s) :
    Path ks s0 (State.identifyRequest s r) := by
  unfold State.identifyRequest
  repeat' (first
    | with_reducible assumption
    | extract_lets
    | with_reducible refine path_serve _ _ _ _ _ (List.Subset.trans (by decide) hk) (fun _ _ => ?_) ?_
    | with_reducible refine path_of_fst (by with_reducible assumption) ?_
    | split
    | dsimp +zetaDelta only)

theorem path_writeKind {ks : List Kind} {s0 s : State}
    (hk : [.update] ⊆ ks) (h : Path ks s0 s) :
    Path ks s0 (State.writeKind s).1 := by
  unfold State.writeKind
  repeat' (first
    | with_reducible assumption
    | extract_lets
    | with_reducible refine path_modUpdate _ (List.Subset.trans (by decide) hk) ?_
    | with_reducible refine path_of_fst (by with_reducible assumption) ?_
    | with_reducible refine path_ite (fun _ => ?_) (fun _ => ?_)
    | with_reducible refine path_ite_fst (fun _ => ?_) (fun _ => ?_)
    | split
    | dsimp +zetaDelta only)

theorem path_writeCursor {ks : List Kind} {s0 s : State} (route : Nat) (j : Nat) (v : Nat)
    (hk : [.log] ⊆ ks) (h : Path ks s0 s) :
    Path ks s0 (State.writeCursor s route j v) := by
  unfold State.writeCursor
  repeat' (first
    | with_reducible assumption
    | extract_lets
    | with_reducible refine path_of_fst (by with_reducible assumption) ?_
    | with_reducible refine path_ite (fun _ => ?_) (fun _ => ?_)
    | with_reducible refine path_ite_fst (fun _ => ?_) (fun _ => ?_)
    | split
    | fail_if_no_progress (with_reducible refine path_set_log _ (List.Subset.trans (by decide) hk) ?_)
    | dsimp +zetaDelta only)

theorem path_lowEffect {ks : List Kind} {s0 s : State} (r : Req) (i : Nat) (j : Nat) (bs : List Byte)
    (hk : [.time, .factory, .vals, .caddy, .log, .errq, .secState, .parts, .layoutGen, .queues, .sites, .siteState, .spareGen, .spareTime, .fles, .mem, .hbm, .guests, .notices, .streams, .ctr, .shadow, .colls, .credits, .fetches, .xfers, .pendingSrc, .kports, .iports, .tfb, .nor, .update, .recStage, .trustStage, .sec, .boot, .journal, .power, .sensors, .inputs, .bus, .commitWait, .applyWait, .outs, .free] ⊆ ks) (h : Path ks s0 s) :
    Path ks s0 (State.lowEffect s r i j bs).1 := by
  unfold State.lowEffect
  repeat' (first
    | with_reducible assumption
    | extract_lets
    | with_reducible refine path_ackErrors _ _ (List.Subset.trans (by decide) hk) ?_
    | with_reducible refine path_caddyReset _ _ (List.Subset.trans (by decide) hk) ?_
    | with_reducible refine path_clearLog _ (List.Subset.trans (by decide) hk) ?_
    | with_reducible refine path_releaseSnapshot (List.Subset.trans (by decide) hk) ?_
    | with_reducible refine path_resetSensor _ (List.Subset.trans (by decide) hk) ?_
    | with_reducible refine path_runControl _ _ _ (List.Subset.trans (by decide) hk) ?_
    | with_reducible refine path_savedEffect _ _ _ _ (List.Subset.trans (by decide) hk) ?_
    | with_reducible refine path_writeCursor _ _ _ (List.Subset.trans (by decide) hk) ?_
    | with_reducible refine path_writeDebug _ (List.Subset.trans (by decide) hk) ?_
    | with_reducible refine path_writeLayout _ (List.Subset.trans (by decide) hk) ?_
    | with_reducible refine path_writeMigration _ (List.Subset.trans (by decide) hk) ?_
    | with_reducible refine path_writePartner _ _ _ (List.Subset.trans (by decide) hk) ?_
    | with_reducible refine path_writeSnapshot _ (List.Subset.trans (by decide) hk) ?_
    | with_reducible refine path_writeTimebase _ (List.Subset.trans (by decide) hk) ?_
    | with_reducible refine path_writeVisibility _ (List.Subset.trans (by decide) hk) ?_
    | with_reducible refine path_writeWindowRequest _ _ _ (List.Subset.trans (by decide) hk) ?_
    | with_reducible refine path_done _ ?_
    | with_reducible refine path_of_fst (by with_reducible assumption) ?_
    | with_reducible refine path_ite (fun _ => ?_) (fun _ => ?_)
    | with_reducible refine path_ite_fst (fun _ => ?_) (fun _ => ?_)
    | split
    | dsimp +zetaDelta only)

theorem path_highEffect {ks : List Kind} {s0 s : State} (r : Req) (i : Nat) (j : Nat) (bs : List Byte)
    (hk : [.time, .factory, .vals, .caddy, .log, .errq, .secState, .parts, .layoutGen, .queues, .sites, .siteState, .spareGen, .spareTime, .fles, .mem, .hbm, .guests, .notices, .streams, .ctr, .shadow, .colls, .credits, .fetches, .xfers, .pendingSrc, .kports, .iports, .tfb, .nor, .update, .recStage, .trustStage, .sec, .boot, .journal, .power, .sensors, .inputs, .bus, .commitWait, .applyWait, .outs, .free] ⊆ ks) (h : Path ks s0 s) :
    Path ks s0 (State.highEffect s r i j bs).1 := by
  unfold State.highEffect
  repeat' (first
    | with_reducible assumption
    | extract_lets
    | with_reducible refine path_activate _ (List.Subset.trans (by decide) hk) ?_
    | with_reducible refine path_cancelUpdate (List.Subset.trans (by decide) hk) ?_
    | with_reducible refine path_declareLost _ _ (List.Subset.trans (by decide) hk) ?_
    | with_reducible refine path_eraseKeys _ (List.Subset.trans (by decide) hk) ?_
    | with_reducible refine path_recordControl _ _ _ _ (List.Subset.trans (by decide) hk) ?_
    | with_reducible refine path_requestSecState _ (List.Subset.trans (by decide) hk) ?_
    | with_reducible refine path_savedEffect _ _ _ _ (List.Subset.trans (by decide) hk) ?_
    | with_reducible refine path_spdmWrite _ _ (List.Subset.trans (by decide) hk) ?_
    | with_reducible refine path_stageRecord _ _ (List.Subset.trans (by decide) hk) ?_
    | with_reducible refine path_stageUpdate _ (List.Subset.trans (by decide) hk) ?_
    | with_reducible refine path_tfbSend _ _ (List.Subset.trans (by decide) hk) ?_
    | with_reducible refine path_verifyUpdate _ (List.Subset.trans (by decide) hk) ?_
    | with_reducible refine path_writeKind (List.Subset.trans (by decide) hk) ?_
    | with_reducible refine path_done _ ?_
    | with_reducible refine path_of_fst (by with_reducible assumption) ?_
    | with_reducible refine path_ite (fun _ => ?_) (fun _ => ?_)
    | with_reducible refine path_ite_fst (fun _ => ?_) (fun _ => ?_)
    | split
    | dsimp +zetaDelta only)

theorem path_entryEffect {ks : List Kind} {s0 s : State} (r : Req) (i : Nat) (j : Nat) (bs : List Byte)
    (hk : [.time, .factory, .vals, .caddy, .log, .errq, .secState, .parts, .layoutGen, .queues, .sites, .siteState, .spareGen, .spareTime, .fles, .mem, .hbm, .guests, .notices, .streams, .ctr, .shadow, .colls, .credits, .fetches, .xfers, .pendingSrc, .kports, .iports, .tfb, .nor, .update, .recStage, .trustStage, .sec, .boot, .journal, .power, .sensors, .inputs, .bus, .commitWait, .applyWait, .outs, .free] ⊆ ks) (h : Path ks s0 s) :
    Path ks s0 (State.entryEffect s r i j bs).1 := by
  unfold State.entryEffect
  repeat' (first
    | with_reducible assumption
    | extract_lets
    | with_reducible refine path_highEffect _ _ _ _ (List.Subset.trans (by decide) hk) ?_
    | with_reducible refine path_lowEffect _ _ _ _ (List.Subset.trans (by decide) hk) ?_
    | with_reducible refine path_of_fst (by with_reducible assumption) ?_
    | with_reducible refine path_ite (fun _ => ?_) (fun _ => ?_)
    | with_reducible refine path_ite_fst (fun _ => ?_) (fun _ => ?_)
    | split
    | dsimp +zetaDelta only)

theorem path_afterWrite {ks : List Kind} {s0 t : State} (s : State) (i : Nat) (j : Nat)
    (hk : [.parts, .queues, .mem, .hbm, .streams, .nor, .sec, .outs, .free] ⊆ ks) (h : Path ks s0 t) :
    Path ks s0 (State.afterWrite s t i j) := by
  unfold State.afterWrite
  repeat' (first
    | with_reducible assumption
    | extract_lets
    | with_reducible refine path_remeasured (List.Subset.trans (by decide) hk) ?_
    | with_reducible refine path_of_fst (by with_reducible assumption) ?_
    | with_reducible refine path_ite (fun _ => ?_) (fun _ => ?_)
    | with_reducible refine path_ite_fst (fun _ => ?_) (fun _ => ?_)
    | split
    | dsimp +zetaDelta only)

theorem path_dropSegments {ks : List Kind} {s0 s : State} (route : Route) (i : Nat) (j : Nat)
    (hk : [.caddy] ⊆ ks) (h : Path ks s0 s) :
    Path ks s0 (State.dropSegments s route i j) := by
  unfold State.dropSegments
  repeat' (first
    | with_reducible assumption
    | extract_lets
    | with_reducible refine path_of_fst (by with_reducible assumption) ?_
    | split
    | fail_if_no_progress (with_reducible refine path_set_caddy _ (List.Subset.trans (by decide) hk) ?_)
    | dsimp +zetaDelta only)

theorem path_takeSegment {ks : List Kind} {s0 s : State} (r : Req) (i : Nat) (j : Nat) (bs : List Byte) (offset : Nat) (total : Nat) (more : Bool)
    (hk : [.caddy] ⊆ ks) (h : Path ks s0 s) :
    Path ks s0 (State.takeSegment s r i j bs offset total more).1 := by
  unfold State.takeSegment
  repeat' (first
    | with_reducible assumption
    | extract_lets
    | with_reducible refine path_dropSegments _ _ _ (List.Subset.trans (by decide) hk) ?_
    | with_reducible refine path_of_fst (by with_reducible assumption) ?_
    | with_reducible refine path_ite (fun _ => ?_) (fun _ => ?_)
    | with_reducible refine path_ite_fst (fun _ => ?_) (fun _ => ?_)
    | split
    | fail_if_no_progress (with_reducible refine path_set_caddy _ (List.Subset.trans (by decide) hk) ?_)
    | dsimp +zetaDelta only)

theorem path_applyValue {ks : List Kind} {s0 s : State} (r : Req) (i : Nat) (j : Nat) (ty : Nat) (bs : List Byte)
    (hk : [.time, .factory, .vals, .caddy, .log, .errq, .secState, .parts, .layoutGen, .queues, .sites, .siteState, .spareGen, .spareTime, .fles, .mem, .hbm, .guests, .notices, .streams, .ctr, .shadow, .colls, .credits, .fetches, .xfers, .pendingSrc, .kports, .iports, .tfb, .nor, .update, .recStage, .trustStage, .sec, .boot, .journal, .power, .sensors, .inputs, .bus, .commitWait, .applyWait, .outs, .free] ⊆ ks) (h : Path ks s0 s) :
    Path ks s0 (State.applyValue s r i j ty bs).1 := by
  unfold State.applyValue
  repeat' (first
    | with_reducible assumption
    | extract_lets
    | with_reducible refine path_acceptWrite _ _ _ _ _ (List.Subset.trans (by decide) hk) ?_
    | with_reducible refine path_commitWrite _ _ _ _ (List.Subset.trans (by decide) hk) ?_
    | with_reducible refine path_entryEffect _ _ _ _ (List.Subset.trans (by decide) hk) ?_
    | with_reducible refine path_of_fst (by with_reducible assumption) ?_
    | with_reducible refine path_ite (fun _ => ?_) (fun _ => ?_)
    | with_reducible refine path_ite_fst (fun _ => ?_) (fun _ => ?_)
    | split
    | dsimp +zetaDelta only)

theorem path_segmentRequest {ks : List Kind} {s0 s : State} (r : Req) (i : Nat) (j : Nat) (ty : Nat) (bs : List Byte) (offset : Nat) (total : Nat) (more : Bool)
    (hk : [.time, .factory, .vals, .caddy, .log, .errq, .secState, .parts, .layoutGen, .queues, .sites, .siteState, .spareGen, .spareTime, .fles, .mem, .hbm, .guests, .notices, .streams, .ctr, .shadow, .colls, .credits, .fetches, .xfers, .pendingSrc, .kports, .iports, .tfb, .nor, .update, .recStage, .trustStage, .sec, .boot, .journal, .power, .sensors, .inputs, .bus, .commitWait, .applyWait, .outs, .free] ⊆ ks) (h : Path ks s0 s) :
    Path ks s0 (State.segmentRequest s r i j ty bs offset total more) := by
  unfold State.segmentRequest
  repeat' (first
    | with_reducible assumption
    | extract_lets
    | with_reducible refine path_applyValue _ _ _ _ _ (List.Subset.trans (by decide) hk) ?_
    | with_reducible refine path_serve _ _ _ _ _ (List.Subset.trans (by decide) hk) (fun _ _ => ?_) ?_
    | with_reducible refine path_takeSegment _ _ _ _ _ _ _ (List.Subset.trans (by decide) hk) ?_
    | with_reducible refine path_of_fst (by with_reducible assumption) ?_
    | with_reducible refine path_ite (fun _ => ?_) (fun _ => ?_)
    | with_reducible refine path_ite_fst (fun _ => ?_) (fun _ => ?_)
    | split
    | dsimp +zetaDelta only)

theorem path_writeRequest {ks : List Kind} {s0 s : State} (r : Req) (i : Nat) (j : Nat) (ty : Nat) (bs : List Byte) (offset : Nat) (total : Nat) (more : Bool)
    (hk : [.time, .factory, .vals, .caddy, .log, .errq, .secState, .parts, .layoutGen, .queues, .sites, .siteState, .spareGen, .spareTime, .fles, .mem, .hbm, .guests, .notices, .streams, .ctr, .shadow, .colls, .credits, .fetches, .xfers, .pendingSrc, .kports, .iports, .tfb, .nor, .update, .recStage, .trustStage, .sec, .boot, .journal, .power, .sensors, .inputs, .bus, .commitWait, .applyWait, .outs, .free] ⊆ ks) (h : Path ks s0 s) :
    Path ks s0 (State.writeRequest s r i j ty bs offset total more) := by
  unfold State.writeRequest
  repeat' (first
    | with_reducible assumption
    | extract_lets
    | with_reducible refine path_afterWrite _ _ _ (List.Subset.trans (by decide) hk) ?_
    | with_reducible refine path_applyValue _ _ _ _ _ (List.Subset.trans (by decide) hk) ?_
    | with_reducible refine path_segmentRequest _ _ _ _ _ _ _ _ (List.Subset.trans (by decide) hk) ?_
    | with_reducible refine path_serve _ _ _ _ _ (List.Subset.trans (by decide) hk) (fun _ _ => ?_) ?_
    | with_reducible refine path_of_fst (by with_reducible assumption) ?_
    | with_reducible refine path_ite (fun _ => ?_) (fun _ => ?_)
    | with_reducible refine path_ite_fst (fun _ => ?_) (fun _ => ?_)
    | split
    | dsimp +zetaDelta only)

theorem path_windowRequest {ks : List Kind} {s0 s : State}
    (hk : [.time, .factory, .vals, .caddy, .log, .errq, .secState, .parts, .layoutGen, .queues, .sites, .siteState, .spareGen, .spareTime, .fles, .mem, .hbm, .guests, .notices, .streams, .ctr, .shadow, .colls, .credits, .fetches, .xfers, .pendingSrc, .kports, .iports, .tfb, .nor, .update, .recStage, .trustStage, .sec, .boot, .journal, .power, .sensors, .inputs, .bus, .commitWait, .applyWait, .outs, .free] ⊆ ks) (h : Path ks s0 s) :
    Path ks s0 (State.windowRequest s) := by
  unfold State.windowRequest
  repeat' (first
    | with_reducible assumption
    | extract_lets
    | with_reducible refine path_identifyRequest _ (List.Subset.trans (by decide) hk) ?_
    | with_reducible refine path_readRequest _ _ _ _ (List.Subset.trans (by decide) hk) ?_
    | with_reducible refine path_serve _ _ _ _ _ (List.Subset.trans (by decide) hk) (fun _ _ => ?_) ?_
    | with_reducible refine path_writeRequest _ _ _ _ _ _ _ _ (List.Subset.trans (by decide) hk) ?_
    | with_reducible refine path_of_fst (by with_reducible assumption) ?_
    | with_reducible refine path_ite (fun _ => ?_) (fun _ => ?_)
    | with_reducible refine path_ite_fst (fun _ => ?_) (fun _ => ?_)
    | split
    | dsimp +zetaDelta only)

end Sys2Proof.Laws
end

