-- ==== Sys2Proof/Laws/Serve.lean ====
section
/-!
SUPPORT. The Caddy service seen from outside: what a request that passes the gate meets, and what its answer leaves.
-/

set_option linter.all false

namespace Sys2Proof.Laws

open Sys2Proof Sys2Proof.Machine Sys2Proof.Safety

/-- s with another service: passing the gate changes its replay counters only, and posting an accepted write its ports and
its acceptance list. -/
def replayed (s : State) (c : Caddy) : State := { s with caddy := c }

/-- A request that passes the gate is served on a state that differs in the service only. -/
theorem gate_pass {s : State} {r : Req} {op i j : Nat} (h : admits s r op i j) :
    ∃ cs, s.gate r op i j = (replayed s cs, .pass) := by
  unfold admits at h
  have e := State.gate.eq_1 s r op i j
  extract_lets _ u _ _ at e
  split at e
  · rw [e] at h; cases h
  split at e
  · rw [e] at h; cases h
  split at e
  · rw [e] at h; cases h
  split at e
  · rw [e] at h; cases h
  have hu : ∃ cs, u = replayed s cs := by
    by_cases ha : r.route = .port ∧ r.auth = true
    · exact ⟨_, if_pos ha⟩
    · exact ⟨s.caddy, if_neg ha⟩
  obtain ⟨cs, hu⟩ := hu
  refine ⟨cs, ?_⟩
  rw [← hu]
  clear_value u
  repeat' split at e
  all_goals first | (rw [e] at h; cases h; done) | exact e

/-- Posting an accepted write changes the service only. -/
theorem acceptWrite_replayed (s : State) (c : Caddy) (source txn i j : Nat) (bs : List Byte) :
    ∃ d, (replayed s c).acceptWrite source txn i j bs = replayed s d := by
  unfold State.acceptWrite State.post
  split
  · exact ⟨_, rfl⟩
  · exact ⟨_, rfl⟩

/-- A request that passes and is answered. -/
theorem serve_answered {s u : State} {r : Req} {op i j st : Nat} {v : List Byte}
    {f : State → State × Option (Nat × List Byte)} (h : admits s r op i j)
    (hf : ∀ cs, f (replayed s cs) = (u, some (st, v))) : s.serve r op i j f = u.respond r op i j st v := by
  obtain ⟨cs, e⟩ := gate_pass h
  unfold State.serve
  rw [e]
  dsimp only
  rw [hf cs]

/-- An accepted write whose effect is accepted. -/
theorem serveWrite_done {s : State} {r : Req} {i j ty : Nat} {bs : List Byte} {f : State → State × Option Nat}
    (h : acceptsWrite s r i j ty bs) :
    ∃ cs, (replayed s cs).writeStatus i j ty bs = 0 ∧ ∀ u, f (replayed s cs) = (u, some 0) →
      s.serveWrite r i j ty bs f = (u.commitWrite (Route.code r.route) i j bs).respond r 2 i j 0 [] := by
  obtain ⟨c0, e⟩ := gate_pass h.1
  have hw : (replayed s c0).writeStatus i j ty bs = 0 := h.2
  obtain ⟨cs, ha⟩ := acceptWrite_replayed s c0 (sourceOf r) r.txn i j bs
  refine ⟨cs, h.2, fun u hf => ?_⟩
  unfold State.serveWrite State.serve
  rw [e]
  dsimp only
  rw [hw, ha, hf]
  rfl

/-- The answer to a request is the newest response kept (R374). -/
theorem respondedWith_respond (s : State) (r : Req) (op i j st : Nat) (v : List Byte) :
    respondedWith (s.respond r op i j st v) r op i j st v := by
  have h : respondedWith (s.keepResponse r op i j st v) r op i j st v := rfl
  unfold State.respond
  generalize s.keepResponse r op i j st v = t at h
  unfold State.sendResponse
  cases r.route <;> dsimp only
  · split <;> exact h
  · exact h
  · split
    · exact h
    · split <;> exact h

/-- What a state x on the path of an answer says of the answer itself, but for what an answer settles. -/
theorem same_answer {ks : List Kind} {u x s t : State} (hk : [.pending, .time, .factory, .errq, .journal] ⊆ ks)
    (p : Path ks u x) (e : answer s x = .next t) : ∀ k, k ∉ ks → k.same u t := by
  injection e with e
  subst e
  intro k hn
  have q := p.frame k hn
  revert q hn
  cases k <;> intro hn q <;> first | exact absurd (hk (by decide)) hn | exact q

/-- Everything that an accepted write whose own effect is accepted leaves: beside the response and the stored value, t is
the state that the effect leaves. -/
theorem serveWrite_answer {s : State} {r : Req} {i j ty : Nat} {bs : List Byte} {f : State → State × Option Nat}
    (h : acceptsWrite s r i j ty bs) (hf : ∀ cs, (f (replayed s cs)).2 = some 0) :
    ∃ cs t, answer s (s.serveWrite r i j ty bs f) = .next t ∧ respondedWith t r 2 i j 0 [] ∧
      ∀ k, k ∉ ([.pending, .time, .factory, .vals, .caddy, .log, .nor, .outs, .errq, .journal] : List Kind) →
        k.same (f (replayed s cs)).1 t := by
  obtain ⟨cs, _, e⟩ := serveWrite_done (f := f) h
  have e := e (f (replayed s cs)).1 (Prod.ext rfl (hf cs))
  refine ⟨cs, _, congrArg (answer s) e, respondedWith_respond _ _ _ _ _ _ _, ?_⟩
  exact same_answer (by decide)
    (path_respond _ _ _ _ _ _ (by decide) (path_commitWrite _ _ _ _ (by decide) (path_refl _ _))) rfl

/-- An accepted write that its own effect refuses is answered with the status, and nothing is stored. -/
theorem serveWrite_refused {s : State} {r : Req} {i j ty st : Nat} {bs : List Byte} {f : State → State × Option Nat}
    (h : acceptsWrite s r i j ty bs) (hf : ∀ cs, (f (replayed s cs)).2 = some st) (hn : st ≠ 0) :
    ∃ cs t, answer s (s.serveWrite r i j ty bs f) = .next t ∧ respondedWith t r 2 i j st [] ∧
      ∀ k, k ∉ ([.pending, .time, .factory, .caddy, .outs, .errq, .journal] : List Kind) →
        k.same (f (replayed s cs)).1 t := by
  obtain ⟨c0, g⟩ := gate_pass h.1
  have hw : (replayed s c0).writeStatus i j ty bs = 0 := h.2
  obtain ⟨cs, ha⟩ := acceptWrite_replayed s c0 (sourceOf r) r.txn i j bs
  have e : s.serveWrite r i j ty bs f = (f (replayed s cs)).1.respond r 2 i j st [] := by
    unfold State.serveWrite State.serve
    rw [g]
    dsimp only
    rw [hw, ha, show f (replayed s cs) = ((f (replayed s cs)).1, some st) from Prod.ext rfl (hf cs)]
    obtain ⟨k, rfl⟩ : ∃ k, st = k + 1 := ⟨st - 1, by omega⟩
    rfl
  refine ⟨cs, _, congrArg (answer s) e, respondedWith_respond _ _ _ _ _ _ _, ?_⟩
  exact same_answer (by decide) (path_respond _ _ _ _ _ _ (by decide) (path_refl _ _)) rfl

/-- A write refused by an effect that changes nothing leaves the rest of the state alone. -/
theorem serveWrite_refused_same {s : State} {r : Req} {i j ty st : Nat} {bs : List Byte} {f : State → State × Option Nat}
    (h : acceptsWrite s r i j ty bs) (hf : ∀ cs, f (replayed s cs) = (replayed s cs, some st)) (hn : st ≠ 0) :
    ∃ t, answer s (s.serveWrite r i j ty bs f) = .next t ∧ respondedWith t r 2 i j st [] ∧
      onlyChanges [.caddy, .outs, .errq, .journal] s t := by
  obtain ⟨cs, t, e, a, k⟩ := serveWrite_refused (f := f) h (fun cs => by rw [hf cs]) hn
  refine ⟨t, e, a, fun x hx => ?_⟩
  rw [hf cs] at k
  have k := k x
  injection e with e
  subst e
  revert k hx
  cases x <;> intro hx k <;> first | exact absurd (by decide) hx | exact k (by decide) | rfl

/-- A part of the state that an accepted write's effect leaves as a function of the state it began with. -/
theorem serveWrite_effect {s : State} {r : Req} {i j ty : Nat} {bs : List Byte} {f : State → State × Option Nat}
    {g : State → State} (h : acceptsWrite s r i j ty bs) (hf : ∀ cs, f (replayed s cs) = (g (replayed s cs), some 0)) :
    ∃ cs t, answer s (s.serveWrite r i j ty bs f) = .next t ∧ respondedWith t r 2 i j 0 [] ∧
      ∀ k, k ∉ ([.pending, .time, .factory, .vals, .caddy, .log, .nor, .outs, .errq, .journal] : List Kind) →
        k.same (g (replayed s cs)) t := by
  obtain ⟨cs, t, e, a, k⟩ := serveWrite_answer (f := f) h (fun cs => by rw [hf cs])
  rw [hf cs] at k
  exact ⟨cs, t, e, a, k⟩

/-- An accepted write whose effect leaves the answer for later: t is the state that the effect leaves. -/
theorem serveWrite_wait {s : State} {r : Req} {i j ty : Nat} {bs : List Byte} {f : State → State × Option Nat}
    (h : acceptsWrite s r i j ty bs) (hf : ∀ cs, (f (replayed s cs)).2 = none) :
    ∃ cs t, answer s (s.serveWrite r i j ty bs f) = .next t ∧
      ∀ k, k ∉ ([.pending, .time, .factory, .errq, .journal] : List Kind) → k.same (f (replayed s cs)).1 t := by
  obtain ⟨c0, g⟩ := gate_pass h.1
  have hw : (replayed s c0).writeStatus i j ty bs = 0 := h.2
  obtain ⟨cs, ha⟩ := acceptWrite_replayed s c0 (sourceOf r) r.txn i j bs
  have e : s.serveWrite r i j ty bs f = (f (replayed s cs)).1 := by
    unfold State.serveWrite State.serve
    rw [g]
    dsimp only
    rw [hw, ha, show f (replayed s cs) = ((f (replayed s cs)).1, none) from Prod.ext rfl (hf cs)]
    rfl
  refine ⟨cs, _, congrArg (answer s) e, ?_⟩
  exact same_answer (by decide) (path_refl _ _) rfl

/-- What commitWrite stores. -/
theorem commitWrite_vals {s : State} {route i j : Nat} {bs : List Byte} {e : DEntry} (hd : dictFind i j = some e)
    (ha : e.acc ≠ 2) : (s.commitWrite route i j bs).vals = Tab.set s.vals (i * 256 + j) bs := by
  have hs : (s.saveVal i j bs).vals = Tab.set s.vals (i * 256 + j) bs := by
    unfold State.saveVal
    dsimp only
    split <;> rfl
  unfold State.commitWrite
  rw [hd]
  dsimp only
  rw [if_neg ha]
  split <;> exact hs

/-- The value of an accepted write, of an entry that keeps one, reads as written. -/
theorem serveWrite_stored {s : State} {r : Req} {i j ty : Nat} {bs : List Byte} {f : State → State × Option Nat} {d : DEntry}
    (h : acceptsWrite s r i j ty bs) (hf : ∀ cs, (f (replayed s cs)).2 = some 0) (hd : dictFind i j = some d)
    (ha : d.acc ≠ 2) :
    ∃ cs t, answer s (s.serveWrite r i j ty bs f) = .next t ∧ respondedWith t r 2 i j 0 [] ∧ t.val i j = bs ∧
      ∀ k, k ∉ ([.pending, .time, .factory, .vals, .caddy, .log, .nor, .outs, .errq, .journal] : List Kind) →
        k.same (f (replayed s cs)).1 t := by
  obtain ⟨cs, _, e⟩ := serveWrite_done (f := f) h
  have e := e (f (replayed s cs)).1 (Prod.ext rfl (hf cs))
  refine ⟨cs, _, congrArg (answer s) e, respondedWith_respond _ _ _ _ _ _ _, ?_, ?_⟩
  · show ((Tab.find (State.respond _ r 2 i j 0 []).vals (i * 256 + j)).getD (dictDefault s.factory.moduleAddress i j)) = bs
    rw [(path_respond r 2 i j 0 [] (List.Subset.refl _) (path_refl _ _)).frame .vals (by decide), commitWrite_vals hd ha]
    simp [Tab.set, Tab.find]
  · exact same_answer (by decide)
      (path_respond _ _ _ _ _ _ (by decide) (path_commitWrite _ _ _ _ (by decide) (path_refl _ _))) rfl

end Sys2Proof.Laws
end

