-- ==== Sys2Proof/Laws/State.lean ====
section
/-!
SUPPORT. The state's small updates, field by field: what each leaves as it was, and what it puts in place.
-/

set_option linter.all false

namespace Sys2Proof.Laws

open Sys2Proof Sys2Proof.Machine

/-! ### modPart -/

@[simp] theorem modPart_pending (s : State) (p : Nat) (f : Part → Part) : (s.modPart p f).pending = s.pending := rfl
@[simp] theorem modPart_time (s : State) (p : Nat) (f : Part → Part) : (s.modPart p f).time = s.time := rfl
@[simp] theorem modPart_factory (s : State) (p : Nat) (f : Part → Part) : (s.modPart p f).factory = s.factory := rfl
@[simp] theorem modPart_vals (s : State) (p : Nat) (f : Part → Part) : (s.modPart p f).vals = s.vals := rfl
@[simp] theorem modPart_caddy (s : State) (p : Nat) (f : Part → Part) : (s.modPart p f).caddy = s.caddy := rfl
@[simp] theorem modPart_log (s : State) (p : Nat) (f : Part → Part) : (s.modPart p f).log = s.log := rfl
@[simp] theorem modPart_errq (s : State) (p : Nat) (f : Part → Part) : (s.modPart p f).errq = s.errq := rfl
@[simp] theorem modPart_secState (s : State) (p : Nat) (f : Part → Part) : (s.modPart p f).secState = s.secState := rfl
@[simp] theorem modPart_parts (s : State) (p : Nat) (f : Part → Part) : (s.modPart p f).parts = Tab.mod s.parts {} p f := rfl
@[simp] theorem modPart_layoutGen (s : State) (p : Nat) (f : Part → Part) : (s.modPart p f).layoutGen = s.layoutGen := rfl
@[simp] theorem modPart_queues (s : State) (p : Nat) (f : Part → Part) : (s.modPart p f).queues = s.queues := rfl
@[simp] theorem modPart_sites (s : State) (p : Nat) (f : Part → Part) : (s.modPart p f).sites = s.sites := rfl
@[simp] theorem modPart_siteState (s : State) (p : Nat) (f : Part → Part) : (s.modPart p f).siteState = s.siteState := rfl
@[simp] theorem modPart_spareGen (s : State) (p : Nat) (f : Part → Part) : (s.modPart p f).spareGen = s.spareGen := rfl
@[simp] theorem modPart_spareTime (s : State) (p : Nat) (f : Part → Part) : (s.modPart p f).spareTime = s.spareTime := rfl
@[simp] theorem modPart_fles (s : State) (p : Nat) (f : Part → Part) : (s.modPart p f).fles = s.fles := rfl
@[simp] theorem modPart_mem (s : State) (p : Nat) (f : Part → Part) : (s.modPart p f).mem = s.mem := rfl
@[simp] theorem modPart_hbm (s : State) (p : Nat) (f : Part → Part) : (s.modPart p f).hbm = s.hbm := rfl
@[simp] theorem modPart_guests (s : State) (p : Nat) (f : Part → Part) : (s.modPart p f).guests = s.guests := rfl
@[simp] theorem modPart_notices (s : State) (p : Nat) (f : Part → Part) : (s.modPart p f).notices = s.notices := rfl
@[simp] theorem modPart_streams (s : State) (p : Nat) (f : Part → Part) : (s.modPart p f).streams = s.streams := rfl
@[simp] theorem modPart_ctr (s : State) (p : Nat) (f : Part → Part) : (s.modPart p f).ctr = s.ctr := rfl
@[simp] theorem modPart_shadow (s : State) (p : Nat) (f : Part → Part) : (s.modPart p f).shadow = s.shadow := rfl
@[simp] theorem modPart_colls (s : State) (p : Nat) (f : Part → Part) : (s.modPart p f).colls = s.colls := rfl
@[simp] theorem modPart_credits (s : State) (p : Nat) (f : Part → Part) : (s.modPart p f).credits = s.credits := rfl
@[simp] theorem modPart_fetches (s : State) (p : Nat) (f : Part → Part) : (s.modPart p f).fetches = s.fetches := rfl
@[simp] theorem modPart_xfers (s : State) (p : Nat) (f : Part → Part) : (s.modPart p f).xfers = s.xfers := rfl
@[simp] theorem modPart_pendingSrc (s : State) (p : Nat) (f : Part → Part) : (s.modPart p f).pendingSrc = s.pendingSrc := rfl
@[simp] theorem modPart_kports (s : State) (p : Nat) (f : Part → Part) : (s.modPart p f).kports = s.kports := rfl
@[simp] theorem modPart_iports (s : State) (p : Nat) (f : Part → Part) : (s.modPart p f).iports = s.iports := rfl
@[simp] theorem modPart_tfb (s : State) (p : Nat) (f : Part → Part) : (s.modPart p f).tfb = s.tfb := rfl
@[simp] theorem modPart_nor (s : State) (p : Nat) (f : Part → Part) : (s.modPart p f).nor = s.nor := rfl
@[simp] theorem modPart_update (s : State) (p : Nat) (f : Part → Part) : (s.modPart p f).update = s.update := rfl
@[simp] theorem modPart_recStage (s : State) (p : Nat) (f : Part → Part) : (s.modPart p f).recStage = s.recStage := rfl
@[simp] theorem modPart_trustStage (s : State) (p : Nat) (f : Part → Part) : (s.modPart p f).trustStage = s.trustStage := rfl
@[simp] theorem modPart_sec (s : State) (p : Nat) (f : Part → Part) : (s.modPart p f).sec = s.sec := rfl
@[simp] theorem modPart_boot (s : State) (p : Nat) (f : Part → Part) : (s.modPart p f).boot = s.boot := rfl
@[simp] theorem modPart_journal (s : State) (p : Nat) (f : Part → Part) : (s.modPart p f).journal = s.journal := rfl
@[simp] theorem modPart_power (s : State) (p : Nat) (f : Part → Part) : (s.modPart p f).power = s.power := rfl
@[simp] theorem modPart_sensors (s : State) (p : Nat) (f : Part → Part) : (s.modPart p f).sensors = s.sensors := rfl
@[simp] theorem modPart_inputs (s : State) (p : Nat) (f : Part → Part) : (s.modPart p f).inputs = s.inputs := rfl
@[simp] theorem modPart_bus (s : State) (p : Nat) (f : Part → Part) : (s.modPart p f).bus = s.bus := rfl
@[simp] theorem modPart_commitWait (s : State) (p : Nat) (f : Part → Part) : (s.modPart p f).commitWait = s.commitWait := rfl
@[simp] theorem modPart_applyWait (s : State) (p : Nat) (f : Part → Part) : (s.modPart p f).applyWait = s.applyWait := rfl
@[simp] theorem modPart_outs (s : State) (p : Nat) (f : Part → Part) : (s.modPart p f).outs = s.outs := rfl
@[simp] theorem modPart_free (s : State) (p : Nat) (f : Part → Part) : (s.modPart p f).free = s.free := rfl

/-! ### modRings -/

@[simp] theorem modRings_pending (s : State) (p : Nat) (f : Rings → Rings) : (s.modRings p f).pending = s.pending := rfl
@[simp] theorem modRings_time (s : State) (p : Nat) (f : Rings → Rings) : (s.modRings p f).time = s.time := rfl
@[simp] theorem modRings_factory (s : State) (p : Nat) (f : Rings → Rings) : (s.modRings p f).factory = s.factory := rfl
@[simp] theorem modRings_vals (s : State) (p : Nat) (f : Rings → Rings) : (s.modRings p f).vals = s.vals := rfl
@[simp] theorem modRings_caddy (s : State) (p : Nat) (f : Rings → Rings) : (s.modRings p f).caddy = s.caddy := rfl
@[simp] theorem modRings_log (s : State) (p : Nat) (f : Rings → Rings) : (s.modRings p f).log = s.log := rfl
@[simp] theorem modRings_errq (s : State) (p : Nat) (f : Rings → Rings) : (s.modRings p f).errq = s.errq := rfl
@[simp] theorem modRings_secState (s : State) (p : Nat) (f : Rings → Rings) : (s.modRings p f).secState = s.secState := rfl
@[simp] theorem modRings_layoutGen (s : State) (p : Nat) (f : Rings → Rings) : (s.modRings p f).layoutGen = s.layoutGen := rfl
@[simp] theorem modRings_queues (s : State) (p : Nat) (f : Rings → Rings) : (s.modRings p f).queues = s.queues := rfl
@[simp] theorem modRings_sites (s : State) (p : Nat) (f : Rings → Rings) : (s.modRings p f).sites = s.sites := rfl
@[simp] theorem modRings_siteState (s : State) (p : Nat) (f : Rings → Rings) : (s.modRings p f).siteState = s.siteState := rfl
@[simp] theorem modRings_spareGen (s : State) (p : Nat) (f : Rings → Rings) : (s.modRings p f).spareGen = s.spareGen := rfl
@[simp] theorem modRings_spareTime (s : State) (p : Nat) (f : Rings → Rings) : (s.modRings p f).spareTime = s.spareTime := rfl
@[simp] theorem modRings_fles (s : State) (p : Nat) (f : Rings → Rings) : (s.modRings p f).fles = s.fles := rfl
@[simp] theorem modRings_mem (s : State) (p : Nat) (f : Rings → Rings) : (s.modRings p f).mem = s.mem := rfl
@[simp] theorem modRings_hbm (s : State) (p : Nat) (f : Rings → Rings) : (s.modRings p f).hbm = s.hbm := rfl
@[simp] theorem modRings_guests (s : State) (p : Nat) (f : Rings → Rings) : (s.modRings p f).guests = s.guests := rfl
@[simp] theorem modRings_notices (s : State) (p : Nat) (f : Rings → Rings) : (s.modRings p f).notices = s.notices := rfl
@[simp] theorem modRings_streams (s : State) (p : Nat) (f : Rings → Rings) : (s.modRings p f).streams = s.streams := rfl
@[simp] theorem modRings_ctr (s : State) (p : Nat) (f : Rings → Rings) : (s.modRings p f).ctr = s.ctr := rfl
@[simp] theorem modRings_shadow (s : State) (p : Nat) (f : Rings → Rings) : (s.modRings p f).shadow = s.shadow := rfl
@[simp] theorem modRings_colls (s : State) (p : Nat) (f : Rings → Rings) : (s.modRings p f).colls = s.colls := rfl
@[simp] theorem modRings_credits (s : State) (p : Nat) (f : Rings → Rings) : (s.modRings p f).credits = s.credits := rfl
@[simp] theorem modRings_fetches (s : State) (p : Nat) (f : Rings → Rings) : (s.modRings p f).fetches = s.fetches := rfl
@[simp] theorem modRings_xfers (s : State) (p : Nat) (f : Rings → Rings) : (s.modRings p f).xfers = s.xfers := rfl
@[simp] theorem modRings_pendingSrc (s : State) (p : Nat) (f : Rings → Rings) : (s.modRings p f).pendingSrc = s.pendingSrc := rfl
@[simp] theorem modRings_kports (s : State) (p : Nat) (f : Rings → Rings) : (s.modRings p f).kports = s.kports := rfl
@[simp] theorem modRings_iports (s : State) (p : Nat) (f : Rings → Rings) : (s.modRings p f).iports = s.iports := rfl
@[simp] theorem modRings_tfb (s : State) (p : Nat) (f : Rings → Rings) : (s.modRings p f).tfb = s.tfb := rfl
@[simp] theorem modRings_nor (s : State) (p : Nat) (f : Rings → Rings) : (s.modRings p f).nor = s.nor := rfl
@[simp] theorem modRings_update (s : State) (p : Nat) (f : Rings → Rings) : (s.modRings p f).update = s.update := rfl
@[simp] theorem modRings_recStage (s : State) (p : Nat) (f : Rings → Rings) : (s.modRings p f).recStage = s.recStage := rfl
@[simp] theorem modRings_trustStage (s : State) (p : Nat) (f : Rings → Rings) : (s.modRings p f).trustStage = s.trustStage := rfl
@[simp] theorem modRings_sec (s : State) (p : Nat) (f : Rings → Rings) : (s.modRings p f).sec = s.sec := rfl
@[simp] theorem modRings_boot (s : State) (p : Nat) (f : Rings → Rings) : (s.modRings p f).boot = s.boot := rfl
@[simp] theorem modRings_journal (s : State) (p : Nat) (f : Rings → Rings) : (s.modRings p f).journal = s.journal := rfl
@[simp] theorem modRings_power (s : State) (p : Nat) (f : Rings → Rings) : (s.modRings p f).power = s.power := rfl
@[simp] theorem modRings_sensors (s : State) (p : Nat) (f : Rings → Rings) : (s.modRings p f).sensors = s.sensors := rfl
@[simp] theorem modRings_inputs (s : State) (p : Nat) (f : Rings → Rings) : (s.modRings p f).inputs = s.inputs := rfl
@[simp] theorem modRings_bus (s : State) (p : Nat) (f : Rings → Rings) : (s.modRings p f).bus = s.bus := rfl
@[simp] theorem modRings_commitWait (s : State) (p : Nat) (f : Rings → Rings) : (s.modRings p f).commitWait = s.commitWait := rfl
@[simp] theorem modRings_applyWait (s : State) (p : Nat) (f : Rings → Rings) : (s.modRings p f).applyWait = s.applyWait := rfl
@[simp] theorem modRings_outs (s : State) (p : Nat) (f : Rings → Rings) : (s.modRings p f).outs = s.outs := rfl
@[simp] theorem modRings_free (s : State) (p : Nat) (f : Rings → Rings) : (s.modRings p f).free = s.free := rfl

/-! ### modLease -/

@[simp] theorem modLease_pending (s : State) (p : Nat) (f : Lease → Lease) : (s.modLease p f).pending = s.pending := rfl
@[simp] theorem modLease_time (s : State) (p : Nat) (f : Lease → Lease) : (s.modLease p f).time = s.time := rfl
@[simp] theorem modLease_factory (s : State) (p : Nat) (f : Lease → Lease) : (s.modLease p f).factory = s.factory := rfl
@[simp] theorem modLease_vals (s : State) (p : Nat) (f : Lease → Lease) : (s.modLease p f).vals = s.vals := rfl
@[simp] theorem modLease_caddy (s : State) (p : Nat) (f : Lease → Lease) : (s.modLease p f).caddy = s.caddy := rfl
@[simp] theorem modLease_log (s : State) (p : Nat) (f : Lease → Lease) : (s.modLease p f).log = s.log := rfl
@[simp] theorem modLease_errq (s : State) (p : Nat) (f : Lease → Lease) : (s.modLease p f).errq = s.errq := rfl
@[simp] theorem modLease_secState (s : State) (p : Nat) (f : Lease → Lease) : (s.modLease p f).secState = s.secState := rfl
@[simp] theorem modLease_layoutGen (s : State) (p : Nat) (f : Lease → Lease) : (s.modLease p f).layoutGen = s.layoutGen := rfl
@[simp] theorem modLease_queues (s : State) (p : Nat) (f : Lease → Lease) : (s.modLease p f).queues = s.queues := rfl
@[simp] theorem modLease_sites (s : State) (p : Nat) (f : Lease → Lease) : (s.modLease p f).sites = s.sites := rfl
@[simp] theorem modLease_siteState (s : State) (p : Nat) (f : Lease → Lease) : (s.modLease p f).siteState = s.siteState := rfl
@[simp] theorem modLease_spareGen (s : State) (p : Nat) (f : Lease → Lease) : (s.modLease p f).spareGen = s.spareGen := rfl
@[simp] theorem modLease_spareTime (s : State) (p : Nat) (f : Lease → Lease) : (s.modLease p f).spareTime = s.spareTime := rfl
@[simp] theorem modLease_fles (s : State) (p : Nat) (f : Lease → Lease) : (s.modLease p f).fles = s.fles := rfl
@[simp] theorem modLease_mem (s : State) (p : Nat) (f : Lease → Lease) : (s.modLease p f).mem = s.mem := rfl
@[simp] theorem modLease_hbm (s : State) (p : Nat) (f : Lease → Lease) : (s.modLease p f).hbm = s.hbm := rfl
@[simp] theorem modLease_guests (s : State) (p : Nat) (f : Lease → Lease) : (s.modLease p f).guests = s.guests := rfl
@[simp] theorem modLease_notices (s : State) (p : Nat) (f : Lease → Lease) : (s.modLease p f).notices = s.notices := rfl
@[simp] theorem modLease_streams (s : State) (p : Nat) (f : Lease → Lease) : (s.modLease p f).streams = s.streams := rfl
@[simp] theorem modLease_ctr (s : State) (p : Nat) (f : Lease → Lease) : (s.modLease p f).ctr = s.ctr := rfl
@[simp] theorem modLease_shadow (s : State) (p : Nat) (f : Lease → Lease) : (s.modLease p f).shadow = s.shadow := rfl
@[simp] theorem modLease_colls (s : State) (p : Nat) (f : Lease → Lease) : (s.modLease p f).colls = s.colls := rfl
@[simp] theorem modLease_credits (s : State) (p : Nat) (f : Lease → Lease) : (s.modLease p f).credits = s.credits := rfl
@[simp] theorem modLease_fetches (s : State) (p : Nat) (f : Lease → Lease) : (s.modLease p f).fetches = s.fetches := rfl
@[simp] theorem modLease_xfers (s : State) (p : Nat) (f : Lease → Lease) : (s.modLease p f).xfers = s.xfers := rfl
@[simp] theorem modLease_pendingSrc (s : State) (p : Nat) (f : Lease → Lease) : (s.modLease p f).pendingSrc = s.pendingSrc := rfl
@[simp] theorem modLease_kports (s : State) (p : Nat) (f : Lease → Lease) : (s.modLease p f).kports = s.kports := rfl
@[simp] theorem modLease_iports (s : State) (p : Nat) (f : Lease → Lease) : (s.modLease p f).iports = s.iports := rfl
@[simp] theorem modLease_tfb (s : State) (p : Nat) (f : Lease → Lease) : (s.modLease p f).tfb = s.tfb := rfl
@[simp] theorem modLease_nor (s : State) (p : Nat) (f : Lease → Lease) : (s.modLease p f).nor = s.nor := rfl
@[simp] theorem modLease_update (s : State) (p : Nat) (f : Lease → Lease) : (s.modLease p f).update = s.update := rfl
@[simp] theorem modLease_recStage (s : State) (p : Nat) (f : Lease → Lease) : (s.modLease p f).recStage = s.recStage := rfl
@[simp] theorem modLease_trustStage (s : State) (p : Nat) (f : Lease → Lease) : (s.modLease p f).trustStage = s.trustStage := rfl
@[simp] theorem modLease_sec (s : State) (p : Nat) (f : Lease → Lease) : (s.modLease p f).sec = s.sec := rfl
@[simp] theorem modLease_boot (s : State) (p : Nat) (f : Lease → Lease) : (s.modLease p f).boot = s.boot := rfl
@[simp] theorem modLease_journal (s : State) (p : Nat) (f : Lease → Lease) : (s.modLease p f).journal = s.journal := rfl
@[simp] theorem modLease_power (s : State) (p : Nat) (f : Lease → Lease) : (s.modLease p f).power = s.power := rfl
@[simp] theorem modLease_sensors (s : State) (p : Nat) (f : Lease → Lease) : (s.modLease p f).sensors = s.sensors := rfl
@[simp] theorem modLease_inputs (s : State) (p : Nat) (f : Lease → Lease) : (s.modLease p f).inputs = s.inputs := rfl
@[simp] theorem modLease_bus (s : State) (p : Nat) (f : Lease → Lease) : (s.modLease p f).bus = s.bus := rfl
@[simp] theorem modLease_commitWait (s : State) (p : Nat) (f : Lease → Lease) : (s.modLease p f).commitWait = s.commitWait := rfl
@[simp] theorem modLease_applyWait (s : State) (p : Nat) (f : Lease → Lease) : (s.modLease p f).applyWait = s.applyWait := rfl
@[simp] theorem modLease_outs (s : State) (p : Nat) (f : Lease → Lease) : (s.modLease p f).outs = s.outs := rfl
@[simp] theorem modLease_free (s : State) (p : Nat) (f : Lease → Lease) : (s.modLease p f).free = s.free := rfl

/-! ### modRcv -/

@[simp] theorem modRcv_pending (s : State) (p : Nat) (f : Recovery → Recovery) : (s.modRcv p f).pending = s.pending := rfl
@[simp] theorem modRcv_time (s : State) (p : Nat) (f : Recovery → Recovery) : (s.modRcv p f).time = s.time := rfl
@[simp] theorem modRcv_factory (s : State) (p : Nat) (f : Recovery → Recovery) : (s.modRcv p f).factory = s.factory := rfl
@[simp] theorem modRcv_vals (s : State) (p : Nat) (f : Recovery → Recovery) : (s.modRcv p f).vals = s.vals := rfl
@[simp] theorem modRcv_caddy (s : State) (p : Nat) (f : Recovery → Recovery) : (s.modRcv p f).caddy = s.caddy := rfl
@[simp] theorem modRcv_log (s : State) (p : Nat) (f : Recovery → Recovery) : (s.modRcv p f).log = s.log := rfl
@[simp] theorem modRcv_errq (s : State) (p : Nat) (f : Recovery → Recovery) : (s.modRcv p f).errq = s.errq := rfl
@[simp] theorem modRcv_secState (s : State) (p : Nat) (f : Recovery → Recovery) : (s.modRcv p f).secState = s.secState := rfl
@[simp] theorem modRcv_layoutGen (s : State) (p : Nat) (f : Recovery → Recovery) : (s.modRcv p f).layoutGen = s.layoutGen := rfl
@[simp] theorem modRcv_queues (s : State) (p : Nat) (f : Recovery → Recovery) : (s.modRcv p f).queues = s.queues := rfl
@[simp] theorem modRcv_sites (s : State) (p : Nat) (f : Recovery → Recovery) : (s.modRcv p f).sites = s.sites := rfl
@[simp] theorem modRcv_siteState (s : State) (p : Nat) (f : Recovery → Recovery) : (s.modRcv p f).siteState = s.siteState := rfl
@[simp] theorem modRcv_spareGen (s : State) (p : Nat) (f : Recovery → Recovery) : (s.modRcv p f).spareGen = s.spareGen := rfl
@[simp] theorem modRcv_spareTime (s : State) (p : Nat) (f : Recovery → Recovery) : (s.modRcv p f).spareTime = s.spareTime := rfl
@[simp] theorem modRcv_fles (s : State) (p : Nat) (f : Recovery → Recovery) : (s.modRcv p f).fles = s.fles := rfl
@[simp] theorem modRcv_mem (s : State) (p : Nat) (f : Recovery → Recovery) : (s.modRcv p f).mem = s.mem := rfl
@[simp] theorem modRcv_hbm (s : State) (p : Nat) (f : Recovery → Recovery) : (s.modRcv p f).hbm = s.hbm := rfl
@[simp] theorem modRcv_guests (s : State) (p : Nat) (f : Recovery → Recovery) : (s.modRcv p f).guests = s.guests := rfl
@[simp] theorem modRcv_notices (s : State) (p : Nat) (f : Recovery → Recovery) : (s.modRcv p f).notices = s.notices := rfl
@[simp] theorem modRcv_streams (s : State) (p : Nat) (f : Recovery → Recovery) : (s.modRcv p f).streams = s.streams := rfl
@[simp] theorem modRcv_ctr (s : State) (p : Nat) (f : Recovery → Recovery) : (s.modRcv p f).ctr = s.ctr := rfl
@[simp] theorem modRcv_shadow (s : State) (p : Nat) (f : Recovery → Recovery) : (s.modRcv p f).shadow = s.shadow := rfl
@[simp] theorem modRcv_colls (s : State) (p : Nat) (f : Recovery → Recovery) : (s.modRcv p f).colls = s.colls := rfl
@[simp] theorem modRcv_credits (s : State) (p : Nat) (f : Recovery → Recovery) : (s.modRcv p f).credits = s.credits := rfl
@[simp] theorem modRcv_fetches (s : State) (p : Nat) (f : Recovery → Recovery) : (s.modRcv p f).fetches = s.fetches := rfl
@[simp] theorem modRcv_xfers (s : State) (p : Nat) (f : Recovery → Recovery) : (s.modRcv p f).xfers = s.xfers := rfl
@[simp] theorem modRcv_pendingSrc (s : State) (p : Nat) (f : Recovery → Recovery) : (s.modRcv p f).pendingSrc = s.pendingSrc := rfl
@[simp] theorem modRcv_kports (s : State) (p : Nat) (f : Recovery → Recovery) : (s.modRcv p f).kports = s.kports := rfl
@[simp] theorem modRcv_iports (s : State) (p : Nat) (f : Recovery → Recovery) : (s.modRcv p f).iports = s.iports := rfl
@[simp] theorem modRcv_tfb (s : State) (p : Nat) (f : Recovery → Recovery) : (s.modRcv p f).tfb = s.tfb := rfl
@[simp] theorem modRcv_nor (s : State) (p : Nat) (f : Recovery → Recovery) : (s.modRcv p f).nor = s.nor := rfl
@[simp] theorem modRcv_update (s : State) (p : Nat) (f : Recovery → Recovery) : (s.modRcv p f).update = s.update := rfl
@[simp] theorem modRcv_recStage (s : State) (p : Nat) (f : Recovery → Recovery) : (s.modRcv p f).recStage = s.recStage := rfl
@[simp] theorem modRcv_trustStage (s : State) (p : Nat) (f : Recovery → Recovery) : (s.modRcv p f).trustStage = s.trustStage := rfl
@[simp] theorem modRcv_sec (s : State) (p : Nat) (f : Recovery → Recovery) : (s.modRcv p f).sec = s.sec := rfl
@[simp] theorem modRcv_boot (s : State) (p : Nat) (f : Recovery → Recovery) : (s.modRcv p f).boot = s.boot := rfl
@[simp] theorem modRcv_journal (s : State) (p : Nat) (f : Recovery → Recovery) : (s.modRcv p f).journal = s.journal := rfl
@[simp] theorem modRcv_power (s : State) (p : Nat) (f : Recovery → Recovery) : (s.modRcv p f).power = s.power := rfl
@[simp] theorem modRcv_sensors (s : State) (p : Nat) (f : Recovery → Recovery) : (s.modRcv p f).sensors = s.sensors := rfl
@[simp] theorem modRcv_inputs (s : State) (p : Nat) (f : Recovery → Recovery) : (s.modRcv p f).inputs = s.inputs := rfl
@[simp] theorem modRcv_bus (s : State) (p : Nat) (f : Recovery → Recovery) : (s.modRcv p f).bus = s.bus := rfl
@[simp] theorem modRcv_commitWait (s : State) (p : Nat) (f : Recovery → Recovery) : (s.modRcv p f).commitWait = s.commitWait := rfl
@[simp] theorem modRcv_applyWait (s : State) (p : Nat) (f : Recovery → Recovery) : (s.modRcv p f).applyWait = s.applyWait := rfl
@[simp] theorem modRcv_outs (s : State) (p : Nat) (f : Recovery → Recovery) : (s.modRcv p f).outs = s.outs := rfl
@[simp] theorem modRcv_free (s : State) (p : Nat) (f : Recovery → Recovery) : (s.modRcv p f).free = s.free := rfl

/-! ### modFences -/

@[simp] theorem modFences_pending (s : State) (p : Nat) (f : Fences → Fences) : (s.modFences p f).pending = s.pending := rfl
@[simp] theorem modFences_time (s : State) (p : Nat) (f : Fences → Fences) : (s.modFences p f).time = s.time := rfl
@[simp] theorem modFences_factory (s : State) (p : Nat) (f : Fences → Fences) : (s.modFences p f).factory = s.factory := rfl
@[simp] theorem modFences_vals (s : State) (p : Nat) (f : Fences → Fences) : (s.modFences p f).vals = s.vals := rfl
@[simp] theorem modFences_caddy (s : State) (p : Nat) (f : Fences → Fences) : (s.modFences p f).caddy = s.caddy := rfl
@[simp] theorem modFences_log (s : State) (p : Nat) (f : Fences → Fences) : (s.modFences p f).log = s.log := rfl
@[simp] theorem modFences_errq (s : State) (p : Nat) (f : Fences → Fences) : (s.modFences p f).errq = s.errq := rfl
@[simp] theorem modFences_secState (s : State) (p : Nat) (f : Fences → Fences) : (s.modFences p f).secState = s.secState := rfl
@[simp] theorem modFences_layoutGen (s : State) (p : Nat) (f : Fences → Fences) : (s.modFences p f).layoutGen = s.layoutGen := rfl
@[simp] theorem modFences_queues (s : State) (p : Nat) (f : Fences → Fences) : (s.modFences p f).queues = s.queues := rfl
@[simp] theorem modFences_sites (s : State) (p : Nat) (f : Fences → Fences) : (s.modFences p f).sites = s.sites := rfl
@[simp] theorem modFences_siteState (s : State) (p : Nat) (f : Fences → Fences) : (s.modFences p f).siteState = s.siteState := rfl
@[simp] theorem modFences_spareGen (s : State) (p : Nat) (f : Fences → Fences) : (s.modFences p f).spareGen = s.spareGen := rfl
@[simp] theorem modFences_spareTime (s : State) (p : Nat) (f : Fences → Fences) : (s.modFences p f).spareTime = s.spareTime := rfl
@[simp] theorem modFences_fles (s : State) (p : Nat) (f : Fences → Fences) : (s.modFences p f).fles = s.fles := rfl
@[simp] theorem modFences_mem (s : State) (p : Nat) (f : Fences → Fences) : (s.modFences p f).mem = s.mem := rfl
@[simp] theorem modFences_hbm (s : State) (p : Nat) (f : Fences → Fences) : (s.modFences p f).hbm = s.hbm := rfl
@[simp] theorem modFences_guests (s : State) (p : Nat) (f : Fences → Fences) : (s.modFences p f).guests = s.guests := rfl
@[simp] theorem modFences_notices (s : State) (p : Nat) (f : Fences → Fences) : (s.modFences p f).notices = s.notices := rfl
@[simp] theorem modFences_streams (s : State) (p : Nat) (f : Fences → Fences) : (s.modFences p f).streams = s.streams := rfl
@[simp] theorem modFences_ctr (s : State) (p : Nat) (f : Fences → Fences) : (s.modFences p f).ctr = s.ctr := rfl
@[simp] theorem modFences_shadow (s : State) (p : Nat) (f : Fences → Fences) : (s.modFences p f).shadow = s.shadow := rfl
@[simp] theorem modFences_colls (s : State) (p : Nat) (f : Fences → Fences) : (s.modFences p f).colls = s.colls := rfl
@[simp] theorem modFences_credits (s : State) (p : Nat) (f : Fences → Fences) : (s.modFences p f).credits = s.credits := rfl
@[simp] theorem modFences_fetches (s : State) (p : Nat) (f : Fences → Fences) : (s.modFences p f).fetches = s.fetches := rfl
@[simp] theorem modFences_xfers (s : State) (p : Nat) (f : Fences → Fences) : (s.modFences p f).xfers = s.xfers := rfl
@[simp] theorem modFences_pendingSrc (s : State) (p : Nat) (f : Fences → Fences) : (s.modFences p f).pendingSrc = s.pendingSrc := rfl
@[simp] theorem modFences_kports (s : State) (p : Nat) (f : Fences → Fences) : (s.modFences p f).kports = s.kports := rfl
@[simp] theorem modFences_iports (s : State) (p : Nat) (f : Fences → Fences) : (s.modFences p f).iports = s.iports := rfl
@[simp] theorem modFences_tfb (s : State) (p : Nat) (f : Fences → Fences) : (s.modFences p f).tfb = s.tfb := rfl
@[simp] theorem modFences_nor (s : State) (p : Nat) (f : Fences → Fences) : (s.modFences p f).nor = s.nor := rfl
@[simp] theorem modFences_update (s : State) (p : Nat) (f : Fences → Fences) : (s.modFences p f).update = s.update := rfl
@[simp] theorem modFences_recStage (s : State) (p : Nat) (f : Fences → Fences) : (s.modFences p f).recStage = s.recStage := rfl
@[simp] theorem modFences_trustStage (s : State) (p : Nat) (f : Fences → Fences) : (s.modFences p f).trustStage = s.trustStage := rfl
@[simp] theorem modFences_sec (s : State) (p : Nat) (f : Fences → Fences) : (s.modFences p f).sec = s.sec := rfl
@[simp] theorem modFences_boot (s : State) (p : Nat) (f : Fences → Fences) : (s.modFences p f).boot = s.boot := rfl
@[simp] theorem modFences_journal (s : State) (p : Nat) (f : Fences → Fences) : (s.modFences p f).journal = s.journal := rfl
@[simp] theorem modFences_power (s : State) (p : Nat) (f : Fences → Fences) : (s.modFences p f).power = s.power := rfl
@[simp] theorem modFences_sensors (s : State) (p : Nat) (f : Fences → Fences) : (s.modFences p f).sensors = s.sensors := rfl
@[simp] theorem modFences_inputs (s : State) (p : Nat) (f : Fences → Fences) : (s.modFences p f).inputs = s.inputs := rfl
@[simp] theorem modFences_bus (s : State) (p : Nat) (f : Fences → Fences) : (s.modFences p f).bus = s.bus := rfl
@[simp] theorem modFences_commitWait (s : State) (p : Nat) (f : Fences → Fences) : (s.modFences p f).commitWait = s.commitWait := rfl
@[simp] theorem modFences_applyWait (s : State) (p : Nat) (f : Fences → Fences) : (s.modFences p f).applyWait = s.applyWait := rfl
@[simp] theorem modFences_outs (s : State) (p : Nat) (f : Fences → Fences) : (s.modFences p f).outs = s.outs := rfl
@[simp] theorem modFences_free (s : State) (p : Nat) (f : Fences → Fences) : (s.modFences p f).free = s.free := rfl

/-! ### modList -/

@[simp] theorem modList_pending (s : State) (p l : Nat) (f : ListRec → ListRec) : (s.modList p l f).pending = s.pending := rfl
@[simp] theorem modList_time (s : State) (p l : Nat) (f : ListRec → ListRec) : (s.modList p l f).time = s.time := rfl
@[simp] theorem modList_factory (s : State) (p l : Nat) (f : ListRec → ListRec) : (s.modList p l f).factory = s.factory := rfl
@[simp] theorem modList_vals (s : State) (p l : Nat) (f : ListRec → ListRec) : (s.modList p l f).vals = s.vals := rfl
@[simp] theorem modList_caddy (s : State) (p l : Nat) (f : ListRec → ListRec) : (s.modList p l f).caddy = s.caddy := rfl
@[simp] theorem modList_log (s : State) (p l : Nat) (f : ListRec → ListRec) : (s.modList p l f).log = s.log := rfl
@[simp] theorem modList_errq (s : State) (p l : Nat) (f : ListRec → ListRec) : (s.modList p l f).errq = s.errq := rfl
@[simp] theorem modList_secState (s : State) (p l : Nat) (f : ListRec → ListRec) : (s.modList p l f).secState = s.secState := rfl
@[simp] theorem modList_layoutGen (s : State) (p l : Nat) (f : ListRec → ListRec) : (s.modList p l f).layoutGen = s.layoutGen := rfl
@[simp] theorem modList_queues (s : State) (p l : Nat) (f : ListRec → ListRec) : (s.modList p l f).queues = s.queues := rfl
@[simp] theorem modList_sites (s : State) (p l : Nat) (f : ListRec → ListRec) : (s.modList p l f).sites = s.sites := rfl
@[simp] theorem modList_siteState (s : State) (p l : Nat) (f : ListRec → ListRec) : (s.modList p l f).siteState = s.siteState := rfl
@[simp] theorem modList_spareGen (s : State) (p l : Nat) (f : ListRec → ListRec) : (s.modList p l f).spareGen = s.spareGen := rfl
@[simp] theorem modList_spareTime (s : State) (p l : Nat) (f : ListRec → ListRec) : (s.modList p l f).spareTime = s.spareTime := rfl
@[simp] theorem modList_fles (s : State) (p l : Nat) (f : ListRec → ListRec) : (s.modList p l f).fles = s.fles := rfl
@[simp] theorem modList_mem (s : State) (p l : Nat) (f : ListRec → ListRec) : (s.modList p l f).mem = s.mem := rfl
@[simp] theorem modList_hbm (s : State) (p l : Nat) (f : ListRec → ListRec) : (s.modList p l f).hbm = s.hbm := rfl
@[simp] theorem modList_guests (s : State) (p l : Nat) (f : ListRec → ListRec) : (s.modList p l f).guests = s.guests := rfl
@[simp] theorem modList_notices (s : State) (p l : Nat) (f : ListRec → ListRec) : (s.modList p l f).notices = s.notices := rfl
@[simp] theorem modList_streams (s : State) (p l : Nat) (f : ListRec → ListRec) : (s.modList p l f).streams = s.streams := rfl
@[simp] theorem modList_ctr (s : State) (p l : Nat) (f : ListRec → ListRec) : (s.modList p l f).ctr = s.ctr := rfl
@[simp] theorem modList_shadow (s : State) (p l : Nat) (f : ListRec → ListRec) : (s.modList p l f).shadow = s.shadow := rfl
@[simp] theorem modList_colls (s : State) (p l : Nat) (f : ListRec → ListRec) : (s.modList p l f).colls = s.colls := rfl
@[simp] theorem modList_credits (s : State) (p l : Nat) (f : ListRec → ListRec) : (s.modList p l f).credits = s.credits := rfl
@[simp] theorem modList_fetches (s : State) (p l : Nat) (f : ListRec → ListRec) : (s.modList p l f).fetches = s.fetches := rfl
@[simp] theorem modList_xfers (s : State) (p l : Nat) (f : ListRec → ListRec) : (s.modList p l f).xfers = s.xfers := rfl
@[simp] theorem modList_pendingSrc (s : State) (p l : Nat) (f : ListRec → ListRec) : (s.modList p l f).pendingSrc = s.pendingSrc := rfl
@[simp] theorem modList_kports (s : State) (p l : Nat) (f : ListRec → ListRec) : (s.modList p l f).kports = s.kports := rfl
@[simp] theorem modList_iports (s : State) (p l : Nat) (f : ListRec → ListRec) : (s.modList p l f).iports = s.iports := rfl
@[simp] theorem modList_tfb (s : State) (p l : Nat) (f : ListRec → ListRec) : (s.modList p l f).tfb = s.tfb := rfl
@[simp] theorem modList_nor (s : State) (p l : Nat) (f : ListRec → ListRec) : (s.modList p l f).nor = s.nor := rfl
@[simp] theorem modList_update (s : State) (p l : Nat) (f : ListRec → ListRec) : (s.modList p l f).update = s.update := rfl
@[simp] theorem modList_recStage (s : State) (p l : Nat) (f : ListRec → ListRec) : (s.modList p l f).recStage = s.recStage := rfl
@[simp] theorem modList_trustStage (s : State) (p l : Nat) (f : ListRec → ListRec) : (s.modList p l f).trustStage = s.trustStage := rfl
@[simp] theorem modList_sec (s : State) (p l : Nat) (f : ListRec → ListRec) : (s.modList p l f).sec = s.sec := rfl
@[simp] theorem modList_boot (s : State) (p l : Nat) (f : ListRec → ListRec) : (s.modList p l f).boot = s.boot := rfl
@[simp] theorem modList_journal (s : State) (p l : Nat) (f : ListRec → ListRec) : (s.modList p l f).journal = s.journal := rfl
@[simp] theorem modList_power (s : State) (p l : Nat) (f : ListRec → ListRec) : (s.modList p l f).power = s.power := rfl
@[simp] theorem modList_sensors (s : State) (p l : Nat) (f : ListRec → ListRec) : (s.modList p l f).sensors = s.sensors := rfl
@[simp] theorem modList_inputs (s : State) (p l : Nat) (f : ListRec → ListRec) : (s.modList p l f).inputs = s.inputs := rfl
@[simp] theorem modList_bus (s : State) (p l : Nat) (f : ListRec → ListRec) : (s.modList p l f).bus = s.bus := rfl
@[simp] theorem modList_commitWait (s : State) (p l : Nat) (f : ListRec → ListRec) : (s.modList p l f).commitWait = s.commitWait := rfl
@[simp] theorem modList_applyWait (s : State) (p l : Nat) (f : ListRec → ListRec) : (s.modList p l f).applyWait = s.applyWait := rfl
@[simp] theorem modList_outs (s : State) (p l : Nat) (f : ListRec → ListRec) : (s.modList p l f).outs = s.outs := rfl
@[simp] theorem modList_free (s : State) (p l : Nat) (f : ListRec → ListRec) : (s.modList p l f).free = s.free := rfl

/-! ### modCmd -/

@[simp] theorem modCmd_pending (s : State) (r : QRef) (f : CmdRec → CmdRec) : (s.modCmd r f).pending = s.pending := rfl
@[simp] theorem modCmd_time (s : State) (r : QRef) (f : CmdRec → CmdRec) : (s.modCmd r f).time = s.time := rfl
@[simp] theorem modCmd_factory (s : State) (r : QRef) (f : CmdRec → CmdRec) : (s.modCmd r f).factory = s.factory := rfl
@[simp] theorem modCmd_vals (s : State) (r : QRef) (f : CmdRec → CmdRec) : (s.modCmd r f).vals = s.vals := rfl
@[simp] theorem modCmd_caddy (s : State) (r : QRef) (f : CmdRec → CmdRec) : (s.modCmd r f).caddy = s.caddy := rfl
@[simp] theorem modCmd_log (s : State) (r : QRef) (f : CmdRec → CmdRec) : (s.modCmd r f).log = s.log := rfl
@[simp] theorem modCmd_errq (s : State) (r : QRef) (f : CmdRec → CmdRec) : (s.modCmd r f).errq = s.errq := rfl
@[simp] theorem modCmd_secState (s : State) (r : QRef) (f : CmdRec → CmdRec) : (s.modCmd r f).secState = s.secState := rfl
@[simp] theorem modCmd_layoutGen (s : State) (r : QRef) (f : CmdRec → CmdRec) : (s.modCmd r f).layoutGen = s.layoutGen := rfl
@[simp] theorem modCmd_queues (s : State) (r : QRef) (f : CmdRec → CmdRec) : (s.modCmd r f).queues = s.queues := rfl
@[simp] theorem modCmd_sites (s : State) (r : QRef) (f : CmdRec → CmdRec) : (s.modCmd r f).sites = s.sites := rfl
@[simp] theorem modCmd_siteState (s : State) (r : QRef) (f : CmdRec → CmdRec) : (s.modCmd r f).siteState = s.siteState := rfl
@[simp] theorem modCmd_spareGen (s : State) (r : QRef) (f : CmdRec → CmdRec) : (s.modCmd r f).spareGen = s.spareGen := rfl
@[simp] theorem modCmd_spareTime (s : State) (r : QRef) (f : CmdRec → CmdRec) : (s.modCmd r f).spareTime = s.spareTime := rfl
@[simp] theorem modCmd_fles (s : State) (r : QRef) (f : CmdRec → CmdRec) : (s.modCmd r f).fles = s.fles := rfl
@[simp] theorem modCmd_mem (s : State) (r : QRef) (f : CmdRec → CmdRec) : (s.modCmd r f).mem = s.mem := rfl
@[simp] theorem modCmd_hbm (s : State) (r : QRef) (f : CmdRec → CmdRec) : (s.modCmd r f).hbm = s.hbm := rfl
@[simp] theorem modCmd_guests (s : State) (r : QRef) (f : CmdRec → CmdRec) : (s.modCmd r f).guests = s.guests := rfl
@[simp] theorem modCmd_notices (s : State) (r : QRef) (f : CmdRec → CmdRec) : (s.modCmd r f).notices = s.notices := rfl
@[simp] theorem modCmd_streams (s : State) (r : QRef) (f : CmdRec → CmdRec) : (s.modCmd r f).streams = s.streams := rfl
@[simp] theorem modCmd_ctr (s : State) (r : QRef) (f : CmdRec → CmdRec) : (s.modCmd r f).ctr = s.ctr := rfl
@[simp] theorem modCmd_shadow (s : State) (r : QRef) (f : CmdRec → CmdRec) : (s.modCmd r f).shadow = s.shadow := rfl
@[simp] theorem modCmd_colls (s : State) (r : QRef) (f : CmdRec → CmdRec) : (s.modCmd r f).colls = s.colls := rfl
@[simp] theorem modCmd_credits (s : State) (r : QRef) (f : CmdRec → CmdRec) : (s.modCmd r f).credits = s.credits := rfl
@[simp] theorem modCmd_fetches (s : State) (r : QRef) (f : CmdRec → CmdRec) : (s.modCmd r f).fetches = s.fetches := rfl
@[simp] theorem modCmd_xfers (s : State) (r : QRef) (f : CmdRec → CmdRec) : (s.modCmd r f).xfers = s.xfers := rfl
@[simp] theorem modCmd_pendingSrc (s : State) (r : QRef) (f : CmdRec → CmdRec) : (s.modCmd r f).pendingSrc = s.pendingSrc := rfl
@[simp] theorem modCmd_kports (s : State) (r : QRef) (f : CmdRec → CmdRec) : (s.modCmd r f).kports = s.kports := rfl
@[simp] theorem modCmd_iports (s : State) (r : QRef) (f : CmdRec → CmdRec) : (s.modCmd r f).iports = s.iports := rfl
@[simp] theorem modCmd_tfb (s : State) (r : QRef) (f : CmdRec → CmdRec) : (s.modCmd r f).tfb = s.tfb := rfl
@[simp] theorem modCmd_nor (s : State) (r : QRef) (f : CmdRec → CmdRec) : (s.modCmd r f).nor = s.nor := rfl
@[simp] theorem modCmd_update (s : State) (r : QRef) (f : CmdRec → CmdRec) : (s.modCmd r f).update = s.update := rfl
@[simp] theorem modCmd_recStage (s : State) (r : QRef) (f : CmdRec → CmdRec) : (s.modCmd r f).recStage = s.recStage := rfl
@[simp] theorem modCmd_trustStage (s : State) (r : QRef) (f : CmdRec → CmdRec) : (s.modCmd r f).trustStage = s.trustStage := rfl
@[simp] theorem modCmd_sec (s : State) (r : QRef) (f : CmdRec → CmdRec) : (s.modCmd r f).sec = s.sec := rfl
@[simp] theorem modCmd_boot (s : State) (r : QRef) (f : CmdRec → CmdRec) : (s.modCmd r f).boot = s.boot := rfl
@[simp] theorem modCmd_journal (s : State) (r : QRef) (f : CmdRec → CmdRec) : (s.modCmd r f).journal = s.journal := rfl
@[simp] theorem modCmd_power (s : State) (r : QRef) (f : CmdRec → CmdRec) : (s.modCmd r f).power = s.power := rfl
@[simp] theorem modCmd_sensors (s : State) (r : QRef) (f : CmdRec → CmdRec) : (s.modCmd r f).sensors = s.sensors := rfl
@[simp] theorem modCmd_inputs (s : State) (r : QRef) (f : CmdRec → CmdRec) : (s.modCmd r f).inputs = s.inputs := rfl
@[simp] theorem modCmd_bus (s : State) (r : QRef) (f : CmdRec → CmdRec) : (s.modCmd r f).bus = s.bus := rfl
@[simp] theorem modCmd_commitWait (s : State) (r : QRef) (f : CmdRec → CmdRec) : (s.modCmd r f).commitWait = s.commitWait := rfl
@[simp] theorem modCmd_applyWait (s : State) (r : QRef) (f : CmdRec → CmdRec) : (s.modCmd r f).applyWait = s.applyWait := rfl
@[simp] theorem modCmd_outs (s : State) (r : QRef) (f : CmdRec → CmdRec) : (s.modCmd r f).outs = s.outs := rfl
@[simp] theorem modCmd_free (s : State) (r : QRef) (f : CmdRec → CmdRec) : (s.modCmd r f).free = s.free := rfl

/-! ### setRunTo -/

@[simp] theorem setRunTo_pending (s : State) (p : Nat) (r : RunTo) : (s.setRunTo p r).pending = s.pending := rfl
@[simp] theorem setRunTo_time (s : State) (p : Nat) (r : RunTo) : (s.setRunTo p r).time = s.time := rfl
@[simp] theorem setRunTo_factory (s : State) (p : Nat) (r : RunTo) : (s.setRunTo p r).factory = s.factory := rfl
@[simp] theorem setRunTo_vals (s : State) (p : Nat) (r : RunTo) : (s.setRunTo p r).vals = s.vals := rfl
@[simp] theorem setRunTo_caddy (s : State) (p : Nat) (r : RunTo) : (s.setRunTo p r).caddy = s.caddy := rfl
@[simp] theorem setRunTo_log (s : State) (p : Nat) (r : RunTo) : (s.setRunTo p r).log = s.log := rfl
@[simp] theorem setRunTo_errq (s : State) (p : Nat) (r : RunTo) : (s.setRunTo p r).errq = s.errq := rfl
@[simp] theorem setRunTo_secState (s : State) (p : Nat) (r : RunTo) : (s.setRunTo p r).secState = s.secState := rfl
@[simp] theorem setRunTo_layoutGen (s : State) (p : Nat) (r : RunTo) : (s.setRunTo p r).layoutGen = s.layoutGen := rfl
@[simp] theorem setRunTo_queues (s : State) (p : Nat) (r : RunTo) : (s.setRunTo p r).queues = s.queues := rfl
@[simp] theorem setRunTo_sites (s : State) (p : Nat) (r : RunTo) : (s.setRunTo p r).sites = s.sites := rfl
@[simp] theorem setRunTo_siteState (s : State) (p : Nat) (r : RunTo) : (s.setRunTo p r).siteState = s.siteState := rfl
@[simp] theorem setRunTo_spareGen (s : State) (p : Nat) (r : RunTo) : (s.setRunTo p r).spareGen = s.spareGen := rfl
@[simp] theorem setRunTo_spareTime (s : State) (p : Nat) (r : RunTo) : (s.setRunTo p r).spareTime = s.spareTime := rfl
@[simp] theorem setRunTo_fles (s : State) (p : Nat) (r : RunTo) : (s.setRunTo p r).fles = s.fles := rfl
@[simp] theorem setRunTo_mem (s : State) (p : Nat) (r : RunTo) : (s.setRunTo p r).mem = s.mem := rfl
@[simp] theorem setRunTo_hbm (s : State) (p : Nat) (r : RunTo) : (s.setRunTo p r).hbm = s.hbm := rfl
@[simp] theorem setRunTo_guests (s : State) (p : Nat) (r : RunTo) : (s.setRunTo p r).guests = s.guests := rfl
@[simp] theorem setRunTo_notices (s : State) (p : Nat) (r : RunTo) : (s.setRunTo p r).notices = s.notices := rfl
@[simp] theorem setRunTo_streams (s : State) (p : Nat) (r : RunTo) : (s.setRunTo p r).streams = s.streams := rfl
@[simp] theorem setRunTo_ctr (s : State) (p : Nat) (r : RunTo) : (s.setRunTo p r).ctr = s.ctr := rfl
@[simp] theorem setRunTo_shadow (s : State) (p : Nat) (r : RunTo) : (s.setRunTo p r).shadow = s.shadow := rfl
@[simp] theorem setRunTo_colls (s : State) (p : Nat) (r : RunTo) : (s.setRunTo p r).colls = s.colls := rfl
@[simp] theorem setRunTo_credits (s : State) (p : Nat) (r : RunTo) : (s.setRunTo p r).credits = s.credits := rfl
@[simp] theorem setRunTo_fetches (s : State) (p : Nat) (r : RunTo) : (s.setRunTo p r).fetches = s.fetches := rfl
@[simp] theorem setRunTo_xfers (s : State) (p : Nat) (r : RunTo) : (s.setRunTo p r).xfers = s.xfers := rfl
@[simp] theorem setRunTo_pendingSrc (s : State) (p : Nat) (r : RunTo) : (s.setRunTo p r).pendingSrc = s.pendingSrc := rfl
@[simp] theorem setRunTo_kports (s : State) (p : Nat) (r : RunTo) : (s.setRunTo p r).kports = s.kports := rfl
@[simp] theorem setRunTo_iports (s : State) (p : Nat) (r : RunTo) : (s.setRunTo p r).iports = s.iports := rfl
@[simp] theorem setRunTo_tfb (s : State) (p : Nat) (r : RunTo) : (s.setRunTo p r).tfb = s.tfb := rfl
@[simp] theorem setRunTo_nor (s : State) (p : Nat) (r : RunTo) : (s.setRunTo p r).nor = s.nor := rfl
@[simp] theorem setRunTo_update (s : State) (p : Nat) (r : RunTo) : (s.setRunTo p r).update = s.update := rfl
@[simp] theorem setRunTo_recStage (s : State) (p : Nat) (r : RunTo) : (s.setRunTo p r).recStage = s.recStage := rfl
@[simp] theorem setRunTo_trustStage (s : State) (p : Nat) (r : RunTo) : (s.setRunTo p r).trustStage = s.trustStage := rfl
@[simp] theorem setRunTo_sec (s : State) (p : Nat) (r : RunTo) : (s.setRunTo p r).sec = s.sec := rfl
@[simp] theorem setRunTo_boot (s : State) (p : Nat) (r : RunTo) : (s.setRunTo p r).boot = s.boot := rfl
@[simp] theorem setRunTo_journal (s : State) (p : Nat) (r : RunTo) : (s.setRunTo p r).journal = s.journal := rfl
@[simp] theorem setRunTo_power (s : State) (p : Nat) (r : RunTo) : (s.setRunTo p r).power = s.power := rfl
@[simp] theorem setRunTo_sensors (s : State) (p : Nat) (r : RunTo) : (s.setRunTo p r).sensors = s.sensors := rfl
@[simp] theorem setRunTo_inputs (s : State) (p : Nat) (r : RunTo) : (s.setRunTo p r).inputs = s.inputs := rfl
@[simp] theorem setRunTo_bus (s : State) (p : Nat) (r : RunTo) : (s.setRunTo p r).bus = s.bus := rfl
@[simp] theorem setRunTo_commitWait (s : State) (p : Nat) (r : RunTo) : (s.setRunTo p r).commitWait = s.commitWait := rfl
@[simp] theorem setRunTo_applyWait (s : State) (p : Nat) (r : RunTo) : (s.setRunTo p r).applyWait = s.applyWait := rfl
@[simp] theorem setRunTo_outs (s : State) (p : Nat) (r : RunTo) : (s.setRunTo p r).outs = s.outs := rfl
@[simp] theorem setRunTo_free (s : State) (p : Nat) (r : RunTo) : (s.setRunTo p r).free = s.free := rfl

/-! ### modQueue -/

@[simp] theorem modQueue_pending (s : State) (k n : Nat) (f : Queue → Queue) : (s.modQueue k n f).pending = s.pending := rfl
@[simp] theorem modQueue_time (s : State) (k n : Nat) (f : Queue → Queue) : (s.modQueue k n f).time = s.time := rfl
@[simp] theorem modQueue_factory (s : State) (k n : Nat) (f : Queue → Queue) : (s.modQueue k n f).factory = s.factory := rfl
@[simp] theorem modQueue_vals (s : State) (k n : Nat) (f : Queue → Queue) : (s.modQueue k n f).vals = s.vals := rfl
@[simp] theorem modQueue_caddy (s : State) (k n : Nat) (f : Queue → Queue) : (s.modQueue k n f).caddy = s.caddy := rfl
@[simp] theorem modQueue_log (s : State) (k n : Nat) (f : Queue → Queue) : (s.modQueue k n f).log = s.log := rfl
@[simp] theorem modQueue_errq (s : State) (k n : Nat) (f : Queue → Queue) : (s.modQueue k n f).errq = s.errq := rfl
@[simp] theorem modQueue_secState (s : State) (k n : Nat) (f : Queue → Queue) : (s.modQueue k n f).secState = s.secState := rfl
@[simp] theorem modQueue_parts (s : State) (k n : Nat) (f : Queue → Queue) : (s.modQueue k n f).parts = s.parts := rfl
@[simp] theorem modQueue_layoutGen (s : State) (k n : Nat) (f : Queue → Queue) : (s.modQueue k n f).layoutGen = s.layoutGen := rfl
@[simp] theorem modQueue_queues (s : State) (k n : Nat) (f : Queue → Queue) : (s.modQueue k n f).queues = Tab.mod s.queues {} (qKey k n) f := rfl
@[simp] theorem modQueue_sites (s : State) (k n : Nat) (f : Queue → Queue) : (s.modQueue k n f).sites = s.sites := rfl
@[simp] theorem modQueue_siteState (s : State) (k n : Nat) (f : Queue → Queue) : (s.modQueue k n f).siteState = s.siteState := rfl
@[simp] theorem modQueue_spareGen (s : State) (k n : Nat) (f : Queue → Queue) : (s.modQueue k n f).spareGen = s.spareGen := rfl
@[simp] theorem modQueue_spareTime (s : State) (k n : Nat) (f : Queue → Queue) : (s.modQueue k n f).spareTime = s.spareTime := rfl
@[simp] theorem modQueue_fles (s : State) (k n : Nat) (f : Queue → Queue) : (s.modQueue k n f).fles = s.fles := rfl
@[simp] theorem modQueue_mem (s : State) (k n : Nat) (f : Queue → Queue) : (s.modQueue k n f).mem = s.mem := rfl
@[simp] theorem modQueue_hbm (s : State) (k n : Nat) (f : Queue → Queue) : (s.modQueue k n f).hbm = s.hbm := rfl
@[simp] theorem modQueue_guests (s : State) (k n : Nat) (f : Queue → Queue) : (s.modQueue k n f).guests = s.guests := rfl
@[simp] theorem modQueue_notices (s : State) (k n : Nat) (f : Queue → Queue) : (s.modQueue k n f).notices = s.notices := rfl
@[simp] theorem modQueue_streams (s : State) (k n : Nat) (f : Queue → Queue) : (s.modQueue k n f).streams = s.streams := rfl
@[simp] theorem modQueue_ctr (s : State) (k n : Nat) (f : Queue → Queue) : (s.modQueue k n f).ctr = s.ctr := rfl
@[simp] theorem modQueue_shadow (s : State) (k n : Nat) (f : Queue → Queue) : (s.modQueue k n f).shadow = s.shadow := rfl
@[simp] theorem modQueue_colls (s : State) (k n : Nat) (f : Queue → Queue) : (s.modQueue k n f).colls = s.colls := rfl
@[simp] theorem modQueue_credits (s : State) (k n : Nat) (f : Queue → Queue) : (s.modQueue k n f).credits = s.credits := rfl
@[simp] theorem modQueue_fetches (s : State) (k n : Nat) (f : Queue → Queue) : (s.modQueue k n f).fetches = s.fetches := rfl
@[simp] theorem modQueue_xfers (s : State) (k n : Nat) (f : Queue → Queue) : (s.modQueue k n f).xfers = s.xfers := rfl
@[simp] theorem modQueue_pendingSrc (s : State) (k n : Nat) (f : Queue → Queue) : (s.modQueue k n f).pendingSrc = s.pendingSrc := rfl
@[simp] theorem modQueue_kports (s : State) (k n : Nat) (f : Queue → Queue) : (s.modQueue k n f).kports = s.kports := rfl
@[simp] theorem modQueue_iports (s : State) (k n : Nat) (f : Queue → Queue) : (s.modQueue k n f).iports = s.iports := rfl
@[simp] theorem modQueue_tfb (s : State) (k n : Nat) (f : Queue → Queue) : (s.modQueue k n f).tfb = s.tfb := rfl
@[simp] theorem modQueue_nor (s : State) (k n : Nat) (f : Queue → Queue) : (s.modQueue k n f).nor = s.nor := rfl
@[simp] theorem modQueue_update (s : State) (k n : Nat) (f : Queue → Queue) : (s.modQueue k n f).update = s.update := rfl
@[simp] theorem modQueue_recStage (s : State) (k n : Nat) (f : Queue → Queue) : (s.modQueue k n f).recStage = s.recStage := rfl
@[simp] theorem modQueue_trustStage (s : State) (k n : Nat) (f : Queue → Queue) : (s.modQueue k n f).trustStage = s.trustStage := rfl
@[simp] theorem modQueue_sec (s : State) (k n : Nat) (f : Queue → Queue) : (s.modQueue k n f).sec = s.sec := rfl
@[simp] theorem modQueue_boot (s : State) (k n : Nat) (f : Queue → Queue) : (s.modQueue k n f).boot = s.boot := rfl
@[simp] theorem modQueue_journal (s : State) (k n : Nat) (f : Queue → Queue) : (s.modQueue k n f).journal = s.journal := rfl
@[simp] theorem modQueue_power (s : State) (k n : Nat) (f : Queue → Queue) : (s.modQueue k n f).power = s.power := rfl
@[simp] theorem modQueue_sensors (s : State) (k n : Nat) (f : Queue → Queue) : (s.modQueue k n f).sensors = s.sensors := rfl
@[simp] theorem modQueue_inputs (s : State) (k n : Nat) (f : Queue → Queue) : (s.modQueue k n f).inputs = s.inputs := rfl
@[simp] theorem modQueue_bus (s : State) (k n : Nat) (f : Queue → Queue) : (s.modQueue k n f).bus = s.bus := rfl
@[simp] theorem modQueue_commitWait (s : State) (k n : Nat) (f : Queue → Queue) : (s.modQueue k n f).commitWait = s.commitWait := rfl
@[simp] theorem modQueue_applyWait (s : State) (k n : Nat) (f : Queue → Queue) : (s.modQueue k n f).applyWait = s.applyWait := rfl
@[simp] theorem modQueue_outs (s : State) (k n : Nat) (f : Queue → Queue) : (s.modQueue k n f).outs = s.outs := rfl
@[simp] theorem modQueue_free (s : State) (k n : Nat) (f : Queue → Queue) : (s.modQueue k n f).free = s.free := rfl

/-! ### modSite -/

@[simp] theorem modSite_pending (s : State) (i : Nat) (f : Site → Site) : (s.modSite i f).pending = s.pending := rfl
@[simp] theorem modSite_time (s : State) (i : Nat) (f : Site → Site) : (s.modSite i f).time = s.time := rfl
@[simp] theorem modSite_factory (s : State) (i : Nat) (f : Site → Site) : (s.modSite i f).factory = s.factory := rfl
@[simp] theorem modSite_vals (s : State) (i : Nat) (f : Site → Site) : (s.modSite i f).vals = s.vals := rfl
@[simp] theorem modSite_caddy (s : State) (i : Nat) (f : Site → Site) : (s.modSite i f).caddy = s.caddy := rfl
@[simp] theorem modSite_log (s : State) (i : Nat) (f : Site → Site) : (s.modSite i f).log = s.log := rfl
@[simp] theorem modSite_errq (s : State) (i : Nat) (f : Site → Site) : (s.modSite i f).errq = s.errq := rfl
@[simp] theorem modSite_secState (s : State) (i : Nat) (f : Site → Site) : (s.modSite i f).secState = s.secState := rfl
@[simp] theorem modSite_parts (s : State) (i : Nat) (f : Site → Site) : (s.modSite i f).parts = s.parts := rfl
@[simp] theorem modSite_layoutGen (s : State) (i : Nat) (f : Site → Site) : (s.modSite i f).layoutGen = s.layoutGen := rfl
@[simp] theorem modSite_queues (s : State) (i : Nat) (f : Site → Site) : (s.modSite i f).queues = s.queues := rfl
@[simp] theorem modSite_sites (s : State) (i : Nat) (f : Site → Site) : (s.modSite i f).sites = Tab.mod s.sites {} i f := rfl
@[simp] theorem modSite_siteState (s : State) (i : Nat) (f : Site → Site) : (s.modSite i f).siteState = s.siteState := rfl
@[simp] theorem modSite_spareGen (s : State) (i : Nat) (f : Site → Site) : (s.modSite i f).spareGen = s.spareGen := rfl
@[simp] theorem modSite_spareTime (s : State) (i : Nat) (f : Site → Site) : (s.modSite i f).spareTime = s.spareTime := rfl
@[simp] theorem modSite_fles (s : State) (i : Nat) (f : Site → Site) : (s.modSite i f).fles = s.fles := rfl
@[simp] theorem modSite_mem (s : State) (i : Nat) (f : Site → Site) : (s.modSite i f).mem = s.mem := rfl
@[simp] theorem modSite_hbm (s : State) (i : Nat) (f : Site → Site) : (s.modSite i f).hbm = s.hbm := rfl
@[simp] theorem modSite_guests (s : State) (i : Nat) (f : Site → Site) : (s.modSite i f).guests = s.guests := rfl
@[simp] theorem modSite_notices (s : State) (i : Nat) (f : Site → Site) : (s.modSite i f).notices = s.notices := rfl
@[simp] theorem modSite_streams (s : State) (i : Nat) (f : Site → Site) : (s.modSite i f).streams = s.streams := rfl
@[simp] theorem modSite_ctr (s : State) (i : Nat) (f : Site → Site) : (s.modSite i f).ctr = s.ctr := rfl
@[simp] theorem modSite_shadow (s : State) (i : Nat) (f : Site → Site) : (s.modSite i f).shadow = s.shadow := rfl
@[simp] theorem modSite_colls (s : State) (i : Nat) (f : Site → Site) : (s.modSite i f).colls = s.colls := rfl
@[simp] theorem modSite_credits (s : State) (i : Nat) (f : Site → Site) : (s.modSite i f).credits = s.credits := rfl
@[simp] theorem modSite_fetches (s : State) (i : Nat) (f : Site → Site) : (s.modSite i f).fetches = s.fetches := rfl
@[simp] theorem modSite_xfers (s : State) (i : Nat) (f : Site → Site) : (s.modSite i f).xfers = s.xfers := rfl
@[simp] theorem modSite_pendingSrc (s : State) (i : Nat) (f : Site → Site) : (s.modSite i f).pendingSrc = s.pendingSrc := rfl
@[simp] theorem modSite_kports (s : State) (i : Nat) (f : Site → Site) : (s.modSite i f).kports = s.kports := rfl
@[simp] theorem modSite_iports (s : State) (i : Nat) (f : Site → Site) : (s.modSite i f).iports = s.iports := rfl
@[simp] theorem modSite_tfb (s : State) (i : Nat) (f : Site → Site) : (s.modSite i f).tfb = s.tfb := rfl
@[simp] theorem modSite_nor (s : State) (i : Nat) (f : Site → Site) : (s.modSite i f).nor = s.nor := rfl
@[simp] theorem modSite_update (s : State) (i : Nat) (f : Site → Site) : (s.modSite i f).update = s.update := rfl
@[simp] theorem modSite_recStage (s : State) (i : Nat) (f : Site → Site) : (s.modSite i f).recStage = s.recStage := rfl
@[simp] theorem modSite_trustStage (s : State) (i : Nat) (f : Site → Site) : (s.modSite i f).trustStage = s.trustStage := rfl
@[simp] theorem modSite_sec (s : State) (i : Nat) (f : Site → Site) : (s.modSite i f).sec = s.sec := rfl
@[simp] theorem modSite_boot (s : State) (i : Nat) (f : Site → Site) : (s.modSite i f).boot = s.boot := rfl
@[simp] theorem modSite_journal (s : State) (i : Nat) (f : Site → Site) : (s.modSite i f).journal = s.journal := rfl
@[simp] theorem modSite_power (s : State) (i : Nat) (f : Site → Site) : (s.modSite i f).power = s.power := rfl
@[simp] theorem modSite_sensors (s : State) (i : Nat) (f : Site → Site) : (s.modSite i f).sensors = s.sensors := rfl
@[simp] theorem modSite_inputs (s : State) (i : Nat) (f : Site → Site) : (s.modSite i f).inputs = s.inputs := rfl
@[simp] theorem modSite_bus (s : State) (i : Nat) (f : Site → Site) : (s.modSite i f).bus = s.bus := rfl
@[simp] theorem modSite_commitWait (s : State) (i : Nat) (f : Site → Site) : (s.modSite i f).commitWait = s.commitWait := rfl
@[simp] theorem modSite_applyWait (s : State) (i : Nat) (f : Site → Site) : (s.modSite i f).applyWait = s.applyWait := rfl
@[simp] theorem modSite_outs (s : State) (i : Nat) (f : Site → Site) : (s.modSite i f).outs = s.outs := rfl
@[simp] theorem modSite_free (s : State) (i : Nat) (f : Site → Site) : (s.modSite i f).free = s.free := rfl

/-! ### modStream -/

@[simp] theorem modStream_pending (s : State) (n : Nat) (f : Stream → Stream) : (s.modStream n f).pending = s.pending := rfl
@[simp] theorem modStream_time (s : State) (n : Nat) (f : Stream → Stream) : (s.modStream n f).time = s.time := rfl
@[simp] theorem modStream_factory (s : State) (n : Nat) (f : Stream → Stream) : (s.modStream n f).factory = s.factory := rfl
@[simp] theorem modStream_vals (s : State) (n : Nat) (f : Stream → Stream) : (s.modStream n f).vals = s.vals := rfl
@[simp] theorem modStream_caddy (s : State) (n : Nat) (f : Stream → Stream) : (s.modStream n f).caddy = s.caddy := rfl
@[simp] theorem modStream_log (s : State) (n : Nat) (f : Stream → Stream) : (s.modStream n f).log = s.log := rfl
@[simp] theorem modStream_errq (s : State) (n : Nat) (f : Stream → Stream) : (s.modStream n f).errq = s.errq := rfl
@[simp] theorem modStream_secState (s : State) (n : Nat) (f : Stream → Stream) : (s.modStream n f).secState = s.secState := rfl
@[simp] theorem modStream_parts (s : State) (n : Nat) (f : Stream → Stream) : (s.modStream n f).parts = s.parts := rfl
@[simp] theorem modStream_layoutGen (s : State) (n : Nat) (f : Stream → Stream) : (s.modStream n f).layoutGen = s.layoutGen := rfl
@[simp] theorem modStream_queues (s : State) (n : Nat) (f : Stream → Stream) : (s.modStream n f).queues = s.queues := rfl
@[simp] theorem modStream_sites (s : State) (n : Nat) (f : Stream → Stream) : (s.modStream n f).sites = s.sites := rfl
@[simp] theorem modStream_siteState (s : State) (n : Nat) (f : Stream → Stream) : (s.modStream n f).siteState = s.siteState := rfl
@[simp] theorem modStream_spareGen (s : State) (n : Nat) (f : Stream → Stream) : (s.modStream n f).spareGen = s.spareGen := rfl
@[simp] theorem modStream_spareTime (s : State) (n : Nat) (f : Stream → Stream) : (s.modStream n f).spareTime = s.spareTime := rfl
@[simp] theorem modStream_fles (s : State) (n : Nat) (f : Stream → Stream) : (s.modStream n f).fles = s.fles := rfl
@[simp] theorem modStream_mem (s : State) (n : Nat) (f : Stream → Stream) : (s.modStream n f).mem = s.mem := rfl
@[simp] theorem modStream_hbm (s : State) (n : Nat) (f : Stream → Stream) : (s.modStream n f).hbm = s.hbm := rfl
@[simp] theorem modStream_guests (s : State) (n : Nat) (f : Stream → Stream) : (s.modStream n f).guests = s.guests := rfl
@[simp] theorem modStream_notices (s : State) (n : Nat) (f : Stream → Stream) : (s.modStream n f).notices = s.notices := rfl
@[simp] theorem modStream_streams (s : State) (n : Nat) (f : Stream → Stream) : (s.modStream n f).streams = Tab.mod s.streams {} n f := rfl
@[simp] theorem modStream_ctr (s : State) (n : Nat) (f : Stream → Stream) : (s.modStream n f).ctr = s.ctr := rfl
@[simp] theorem modStream_shadow (s : State) (n : Nat) (f : Stream → Stream) : (s.modStream n f).shadow = s.shadow := rfl
@[simp] theorem modStream_colls (s : State) (n : Nat) (f : Stream → Stream) : (s.modStream n f).colls = s.colls := rfl
@[simp] theorem modStream_credits (s : State) (n : Nat) (f : Stream → Stream) : (s.modStream n f).credits = s.credits := rfl
@[simp] theorem modStream_fetches (s : State) (n : Nat) (f : Stream → Stream) : (s.modStream n f).fetches = s.fetches := rfl
@[simp] theorem modStream_xfers (s : State) (n : Nat) (f : Stream → Stream) : (s.modStream n f).xfers = s.xfers := rfl
@[simp] theorem modStream_pendingSrc (s : State) (n : Nat) (f : Stream → Stream) : (s.modStream n f).pendingSrc = s.pendingSrc := rfl
@[simp] theorem modStream_kports (s : State) (n : Nat) (f : Stream → Stream) : (s.modStream n f).kports = s.kports := rfl
@[simp] theorem modStream_iports (s : State) (n : Nat) (f : Stream → Stream) : (s.modStream n f).iports = s.iports := rfl
@[simp] theorem modStream_tfb (s : State) (n : Nat) (f : Stream → Stream) : (s.modStream n f).tfb = s.tfb := rfl
@[simp] theorem modStream_nor (s : State) (n : Nat) (f : Stream → Stream) : (s.modStream n f).nor = s.nor := rfl
@[simp] theorem modStream_update (s : State) (n : Nat) (f : Stream → Stream) : (s.modStream n f).update = s.update := rfl
@[simp] theorem modStream_recStage (s : State) (n : Nat) (f : Stream → Stream) : (s.modStream n f).recStage = s.recStage := rfl
@[simp] theorem modStream_trustStage (s : State) (n : Nat) (f : Stream → Stream) : (s.modStream n f).trustStage = s.trustStage := rfl
@[simp] theorem modStream_sec (s : State) (n : Nat) (f : Stream → Stream) : (s.modStream n f).sec = s.sec := rfl
@[simp] theorem modStream_boot (s : State) (n : Nat) (f : Stream → Stream) : (s.modStream n f).boot = s.boot := rfl
@[simp] theorem modStream_journal (s : State) (n : Nat) (f : Stream → Stream) : (s.modStream n f).journal = s.journal := rfl
@[simp] theorem modStream_power (s : State) (n : Nat) (f : Stream → Stream) : (s.modStream n f).power = s.power := rfl
@[simp] theorem modStream_sensors (s : State) (n : Nat) (f : Stream → Stream) : (s.modStream n f).sensors = s.sensors := rfl
@[simp] theorem modStream_inputs (s : State) (n : Nat) (f : Stream → Stream) : (s.modStream n f).inputs = s.inputs := rfl
@[simp] theorem modStream_bus (s : State) (n : Nat) (f : Stream → Stream) : (s.modStream n f).bus = s.bus := rfl
@[simp] theorem modStream_commitWait (s : State) (n : Nat) (f : Stream → Stream) : (s.modStream n f).commitWait = s.commitWait := rfl
@[simp] theorem modStream_applyWait (s : State) (n : Nat) (f : Stream → Stream) : (s.modStream n f).applyWait = s.applyWait := rfl
@[simp] theorem modStream_outs (s : State) (n : Nat) (f : Stream → Stream) : (s.modStream n f).outs = s.outs := rfl
@[simp] theorem modStream_free (s : State) (n : Nat) (f : Stream → Stream) : (s.modStream n f).free = s.free := rfl

/-! ### modFle -/

@[simp] theorem modFle_pending (s : State) (i : Nat) (f : Fle → Fle) : (s.modFle i f).pending = s.pending := rfl
@[simp] theorem modFle_time (s : State) (i : Nat) (f : Fle → Fle) : (s.modFle i f).time = s.time := rfl
@[simp] theorem modFle_factory (s : State) (i : Nat) (f : Fle → Fle) : (s.modFle i f).factory = s.factory := rfl
@[simp] theorem modFle_vals (s : State) (i : Nat) (f : Fle → Fle) : (s.modFle i f).vals = s.vals := rfl
@[simp] theorem modFle_caddy (s : State) (i : Nat) (f : Fle → Fle) : (s.modFle i f).caddy = s.caddy := rfl
@[simp] theorem modFle_log (s : State) (i : Nat) (f : Fle → Fle) : (s.modFle i f).log = s.log := rfl
@[simp] theorem modFle_errq (s : State) (i : Nat) (f : Fle → Fle) : (s.modFle i f).errq = s.errq := rfl
@[simp] theorem modFle_secState (s : State) (i : Nat) (f : Fle → Fle) : (s.modFle i f).secState = s.secState := rfl
@[simp] theorem modFle_parts (s : State) (i : Nat) (f : Fle → Fle) : (s.modFle i f).parts = s.parts := rfl
@[simp] theorem modFle_layoutGen (s : State) (i : Nat) (f : Fle → Fle) : (s.modFle i f).layoutGen = s.layoutGen := rfl
@[simp] theorem modFle_queues (s : State) (i : Nat) (f : Fle → Fle) : (s.modFle i f).queues = s.queues := rfl
@[simp] theorem modFle_sites (s : State) (i : Nat) (f : Fle → Fle) : (s.modFle i f).sites = s.sites := rfl
@[simp] theorem modFle_siteState (s : State) (i : Nat) (f : Fle → Fle) : (s.modFle i f).siteState = s.siteState := rfl
@[simp] theorem modFle_spareGen (s : State) (i : Nat) (f : Fle → Fle) : (s.modFle i f).spareGen = s.spareGen := rfl
@[simp] theorem modFle_spareTime (s : State) (i : Nat) (f : Fle → Fle) : (s.modFle i f).spareTime = s.spareTime := rfl
@[simp] theorem modFle_fles (s : State) (i : Nat) (f : Fle → Fle) : (s.modFle i f).fles = Tab.mod s.fles {} i f := rfl
@[simp] theorem modFle_mem (s : State) (i : Nat) (f : Fle → Fle) : (s.modFle i f).mem = s.mem := rfl
@[simp] theorem modFle_hbm (s : State) (i : Nat) (f : Fle → Fle) : (s.modFle i f).hbm = s.hbm := rfl
@[simp] theorem modFle_guests (s : State) (i : Nat) (f : Fle → Fle) : (s.modFle i f).guests = s.guests := rfl
@[simp] theorem modFle_notices (s : State) (i : Nat) (f : Fle → Fle) : (s.modFle i f).notices = s.notices := rfl
@[simp] theorem modFle_streams (s : State) (i : Nat) (f : Fle → Fle) : (s.modFle i f).streams = s.streams := rfl
@[simp] theorem modFle_ctr (s : State) (i : Nat) (f : Fle → Fle) : (s.modFle i f).ctr = s.ctr := rfl
@[simp] theorem modFle_shadow (s : State) (i : Nat) (f : Fle → Fle) : (s.modFle i f).shadow = s.shadow := rfl
@[simp] theorem modFle_colls (s : State) (i : Nat) (f : Fle → Fle) : (s.modFle i f).colls = s.colls := rfl
@[simp] theorem modFle_credits (s : State) (i : Nat) (f : Fle → Fle) : (s.modFle i f).credits = s.credits := rfl
@[simp] theorem modFle_fetches (s : State) (i : Nat) (f : Fle → Fle) : (s.modFle i f).fetches = s.fetches := rfl
@[simp] theorem modFle_xfers (s : State) (i : Nat) (f : Fle → Fle) : (s.modFle i f).xfers = s.xfers := rfl
@[simp] theorem modFle_pendingSrc (s : State) (i : Nat) (f : Fle → Fle) : (s.modFle i f).pendingSrc = s.pendingSrc := rfl
@[simp] theorem modFle_kports (s : State) (i : Nat) (f : Fle → Fle) : (s.modFle i f).kports = s.kports := rfl
@[simp] theorem modFle_iports (s : State) (i : Nat) (f : Fle → Fle) : (s.modFle i f).iports = s.iports := rfl
@[simp] theorem modFle_tfb (s : State) (i : Nat) (f : Fle → Fle) : (s.modFle i f).tfb = s.tfb := rfl
@[simp] theorem modFle_nor (s : State) (i : Nat) (f : Fle → Fle) : (s.modFle i f).nor = s.nor := rfl
@[simp] theorem modFle_update (s : State) (i : Nat) (f : Fle → Fle) : (s.modFle i f).update = s.update := rfl
@[simp] theorem modFle_recStage (s : State) (i : Nat) (f : Fle → Fle) : (s.modFle i f).recStage = s.recStage := rfl
@[simp] theorem modFle_trustStage (s : State) (i : Nat) (f : Fle → Fle) : (s.modFle i f).trustStage = s.trustStage := rfl
@[simp] theorem modFle_sec (s : State) (i : Nat) (f : Fle → Fle) : (s.modFle i f).sec = s.sec := rfl
@[simp] theorem modFle_boot (s : State) (i : Nat) (f : Fle → Fle) : (s.modFle i f).boot = s.boot := rfl
@[simp] theorem modFle_journal (s : State) (i : Nat) (f : Fle → Fle) : (s.modFle i f).journal = s.journal := rfl
@[simp] theorem modFle_power (s : State) (i : Nat) (f : Fle → Fle) : (s.modFle i f).power = s.power := rfl
@[simp] theorem modFle_sensors (s : State) (i : Nat) (f : Fle → Fle) : (s.modFle i f).sensors = s.sensors := rfl
@[simp] theorem modFle_inputs (s : State) (i : Nat) (f : Fle → Fle) : (s.modFle i f).inputs = s.inputs := rfl
@[simp] theorem modFle_bus (s : State) (i : Nat) (f : Fle → Fle) : (s.modFle i f).bus = s.bus := rfl
@[simp] theorem modFle_commitWait (s : State) (i : Nat) (f : Fle → Fle) : (s.modFle i f).commitWait = s.commitWait := rfl
@[simp] theorem modFle_applyWait (s : State) (i : Nat) (f : Fle → Fle) : (s.modFle i f).applyWait = s.applyWait := rfl
@[simp] theorem modFle_outs (s : State) (i : Nat) (f : Fle → Fle) : (s.modFle i f).outs = s.outs := rfl
@[simp] theorem modFle_free (s : State) (i : Nat) (f : Fle → Fle) : (s.modFle i f).free = s.free := rfl

/-! ### modKport -/

@[simp] theorem modKport_pending (s : State) (k : Nat) (f : KPort → KPort) : (s.modKport k f).pending = s.pending := rfl
@[simp] theorem modKport_time (s : State) (k : Nat) (f : KPort → KPort) : (s.modKport k f).time = s.time := rfl
@[simp] theorem modKport_factory (s : State) (k : Nat) (f : KPort → KPort) : (s.modKport k f).factory = s.factory := rfl
@[simp] theorem modKport_vals (s : State) (k : Nat) (f : KPort → KPort) : (s.modKport k f).vals = s.vals := rfl
@[simp] theorem modKport_caddy (s : State) (k : Nat) (f : KPort → KPort) : (s.modKport k f).caddy = s.caddy := rfl
@[simp] theorem modKport_log (s : State) (k : Nat) (f : KPort → KPort) : (s.modKport k f).log = s.log := rfl
@[simp] theorem modKport_errq (s : State) (k : Nat) (f : KPort → KPort) : (s.modKport k f).errq = s.errq := rfl
@[simp] theorem modKport_secState (s : State) (k : Nat) (f : KPort → KPort) : (s.modKport k f).secState = s.secState := rfl
@[simp] theorem modKport_parts (s : State) (k : Nat) (f : KPort → KPort) : (s.modKport k f).parts = s.parts := rfl
@[simp] theorem modKport_layoutGen (s : State) (k : Nat) (f : KPort → KPort) : (s.modKport k f).layoutGen = s.layoutGen := rfl
@[simp] theorem modKport_queues (s : State) (k : Nat) (f : KPort → KPort) : (s.modKport k f).queues = s.queues := rfl
@[simp] theorem modKport_sites (s : State) (k : Nat) (f : KPort → KPort) : (s.modKport k f).sites = s.sites := rfl
@[simp] theorem modKport_siteState (s : State) (k : Nat) (f : KPort → KPort) : (s.modKport k f).siteState = s.siteState := rfl
@[simp] theorem modKport_spareGen (s : State) (k : Nat) (f : KPort → KPort) : (s.modKport k f).spareGen = s.spareGen := rfl
@[simp] theorem modKport_spareTime (s : State) (k : Nat) (f : KPort → KPort) : (s.modKport k f).spareTime = s.spareTime := rfl
@[simp] theorem modKport_fles (s : State) (k : Nat) (f : KPort → KPort) : (s.modKport k f).fles = s.fles := rfl
@[simp] theorem modKport_mem (s : State) (k : Nat) (f : KPort → KPort) : (s.modKport k f).mem = s.mem := rfl
@[simp] theorem modKport_hbm (s : State) (k : Nat) (f : KPort → KPort) : (s.modKport k f).hbm = s.hbm := rfl
@[simp] theorem modKport_guests (s : State) (k : Nat) (f : KPort → KPort) : (s.modKport k f).guests = s.guests := rfl
@[simp] theorem modKport_notices (s : State) (k : Nat) (f : KPort → KPort) : (s.modKport k f).notices = s.notices := rfl
@[simp] theorem modKport_streams (s : State) (k : Nat) (f : KPort → KPort) : (s.modKport k f).streams = s.streams := rfl
@[simp] theorem modKport_ctr (s : State) (k : Nat) (f : KPort → KPort) : (s.modKport k f).ctr = s.ctr := rfl
@[simp] theorem modKport_shadow (s : State) (k : Nat) (f : KPort → KPort) : (s.modKport k f).shadow = s.shadow := rfl
@[simp] theorem modKport_colls (s : State) (k : Nat) (f : KPort → KPort) : (s.modKport k f).colls = s.colls := rfl
@[simp] theorem modKport_credits (s : State) (k : Nat) (f : KPort → KPort) : (s.modKport k f).credits = s.credits := rfl
@[simp] theorem modKport_fetches (s : State) (k : Nat) (f : KPort → KPort) : (s.modKport k f).fetches = s.fetches := rfl
@[simp] theorem modKport_xfers (s : State) (k : Nat) (f : KPort → KPort) : (s.modKport k f).xfers = s.xfers := rfl
@[simp] theorem modKport_pendingSrc (s : State) (k : Nat) (f : KPort → KPort) : (s.modKport k f).pendingSrc = s.pendingSrc := rfl
@[simp] theorem modKport_kports (s : State) (k : Nat) (f : KPort → KPort) : (s.modKport k f).kports = Tab.mod s.kports {} k f := rfl
@[simp] theorem modKport_iports (s : State) (k : Nat) (f : KPort → KPort) : (s.modKport k f).iports = s.iports := rfl
@[simp] theorem modKport_tfb (s : State) (k : Nat) (f : KPort → KPort) : (s.modKport k f).tfb = s.tfb := rfl
@[simp] theorem modKport_nor (s : State) (k : Nat) (f : KPort → KPort) : (s.modKport k f).nor = s.nor := rfl
@[simp] theorem modKport_update (s : State) (k : Nat) (f : KPort → KPort) : (s.modKport k f).update = s.update := rfl
@[simp] theorem modKport_recStage (s : State) (k : Nat) (f : KPort → KPort) : (s.modKport k f).recStage = s.recStage := rfl
@[simp] theorem modKport_trustStage (s : State) (k : Nat) (f : KPort → KPort) : (s.modKport k f).trustStage = s.trustStage := rfl
@[simp] theorem modKport_sec (s : State) (k : Nat) (f : KPort → KPort) : (s.modKport k f).sec = s.sec := rfl
@[simp] theorem modKport_boot (s : State) (k : Nat) (f : KPort → KPort) : (s.modKport k f).boot = s.boot := rfl
@[simp] theorem modKport_journal (s : State) (k : Nat) (f : KPort → KPort) : (s.modKport k f).journal = s.journal := rfl
@[simp] theorem modKport_power (s : State) (k : Nat) (f : KPort → KPort) : (s.modKport k f).power = s.power := rfl
@[simp] theorem modKport_sensors (s : State) (k : Nat) (f : KPort → KPort) : (s.modKport k f).sensors = s.sensors := rfl
@[simp] theorem modKport_inputs (s : State) (k : Nat) (f : KPort → KPort) : (s.modKport k f).inputs = s.inputs := rfl
@[simp] theorem modKport_bus (s : State) (k : Nat) (f : KPort → KPort) : (s.modKport k f).bus = s.bus := rfl
@[simp] theorem modKport_commitWait (s : State) (k : Nat) (f : KPort → KPort) : (s.modKport k f).commitWait = s.commitWait := rfl
@[simp] theorem modKport_applyWait (s : State) (k : Nat) (f : KPort → KPort) : (s.modKport k f).applyWait = s.applyWait := rfl
@[simp] theorem modKport_outs (s : State) (k : Nat) (f : KPort → KPort) : (s.modKport k f).outs = s.outs := rfl
@[simp] theorem modKport_free (s : State) (k : Nat) (f : KPort → KPort) : (s.modKport k f).free = s.free := rfl

/-! ### modInput -/

@[simp] theorem modInput_pending (s : State) (i : Nat) (f : SInput → SInput) : (s.modInput i f).pending = s.pending := rfl
@[simp] theorem modInput_time (s : State) (i : Nat) (f : SInput → SInput) : (s.modInput i f).time = s.time := rfl
@[simp] theorem modInput_factory (s : State) (i : Nat) (f : SInput → SInput) : (s.modInput i f).factory = s.factory := rfl
@[simp] theorem modInput_vals (s : State) (i : Nat) (f : SInput → SInput) : (s.modInput i f).vals = s.vals := rfl
@[simp] theorem modInput_caddy (s : State) (i : Nat) (f : SInput → SInput) : (s.modInput i f).caddy = s.caddy := rfl
@[simp] theorem modInput_log (s : State) (i : Nat) (f : SInput → SInput) : (s.modInput i f).log = s.log := rfl
@[simp] theorem modInput_errq (s : State) (i : Nat) (f : SInput → SInput) : (s.modInput i f).errq = s.errq := rfl
@[simp] theorem modInput_secState (s : State) (i : Nat) (f : SInput → SInput) : (s.modInput i f).secState = s.secState := rfl
@[simp] theorem modInput_parts (s : State) (i : Nat) (f : SInput → SInput) : (s.modInput i f).parts = s.parts := rfl
@[simp] theorem modInput_layoutGen (s : State) (i : Nat) (f : SInput → SInput) : (s.modInput i f).layoutGen = s.layoutGen := rfl
@[simp] theorem modInput_queues (s : State) (i : Nat) (f : SInput → SInput) : (s.modInput i f).queues = s.queues := rfl
@[simp] theorem modInput_sites (s : State) (i : Nat) (f : SInput → SInput) : (s.modInput i f).sites = s.sites := rfl
@[simp] theorem modInput_siteState (s : State) (i : Nat) (f : SInput → SInput) : (s.modInput i f).siteState = s.siteState := rfl
@[simp] theorem modInput_spareGen (s : State) (i : Nat) (f : SInput → SInput) : (s.modInput i f).spareGen = s.spareGen := rfl
@[simp] theorem modInput_spareTime (s : State) (i : Nat) (f : SInput → SInput) : (s.modInput i f).spareTime = s.spareTime := rfl
@[simp] theorem modInput_fles (s : State) (i : Nat) (f : SInput → SInput) : (s.modInput i f).fles = s.fles := rfl
@[simp] theorem modInput_mem (s : State) (i : Nat) (f : SInput → SInput) : (s.modInput i f).mem = s.mem := rfl
@[simp] theorem modInput_hbm (s : State) (i : Nat) (f : SInput → SInput) : (s.modInput i f).hbm = s.hbm := rfl
@[simp] theorem modInput_guests (s : State) (i : Nat) (f : SInput → SInput) : (s.modInput i f).guests = s.guests := rfl
@[simp] theorem modInput_notices (s : State) (i : Nat) (f : SInput → SInput) : (s.modInput i f).notices = s.notices := rfl
@[simp] theorem modInput_streams (s : State) (i : Nat) (f : SInput → SInput) : (s.modInput i f).streams = s.streams := rfl
@[simp] theorem modInput_ctr (s : State) (i : Nat) (f : SInput → SInput) : (s.modInput i f).ctr = s.ctr := rfl
@[simp] theorem modInput_shadow (s : State) (i : Nat) (f : SInput → SInput) : (s.modInput i f).shadow = s.shadow := rfl
@[simp] theorem modInput_colls (s : State) (i : Nat) (f : SInput → SInput) : (s.modInput i f).colls = s.colls := rfl
@[simp] theorem modInput_credits (s : State) (i : Nat) (f : SInput → SInput) : (s.modInput i f).credits = s.credits := rfl
@[simp] theorem modInput_fetches (s : State) (i : Nat) (f : SInput → SInput) : (s.modInput i f).fetches = s.fetches := rfl
@[simp] theorem modInput_xfers (s : State) (i : Nat) (f : SInput → SInput) : (s.modInput i f).xfers = s.xfers := rfl
@[simp] theorem modInput_pendingSrc (s : State) (i : Nat) (f : SInput → SInput) : (s.modInput i f).pendingSrc = s.pendingSrc := rfl
@[simp] theorem modInput_kports (s : State) (i : Nat) (f : SInput → SInput) : (s.modInput i f).kports = s.kports := rfl
@[simp] theorem modInput_iports (s : State) (i : Nat) (f : SInput → SInput) : (s.modInput i f).iports = s.iports := rfl
@[simp] theorem modInput_tfb (s : State) (i : Nat) (f : SInput → SInput) : (s.modInput i f).tfb = s.tfb := rfl
@[simp] theorem modInput_nor (s : State) (i : Nat) (f : SInput → SInput) : (s.modInput i f).nor = s.nor := rfl
@[simp] theorem modInput_update (s : State) (i : Nat) (f : SInput → SInput) : (s.modInput i f).update = s.update := rfl
@[simp] theorem modInput_recStage (s : State) (i : Nat) (f : SInput → SInput) : (s.modInput i f).recStage = s.recStage := rfl
@[simp] theorem modInput_trustStage (s : State) (i : Nat) (f : SInput → SInput) : (s.modInput i f).trustStage = s.trustStage := rfl
@[simp] theorem modInput_sec (s : State) (i : Nat) (f : SInput → SInput) : (s.modInput i f).sec = s.sec := rfl
@[simp] theorem modInput_boot (s : State) (i : Nat) (f : SInput → SInput) : (s.modInput i f).boot = s.boot := rfl
@[simp] theorem modInput_journal (s : State) (i : Nat) (f : SInput → SInput) : (s.modInput i f).journal = s.journal := rfl
@[simp] theorem modInput_power (s : State) (i : Nat) (f : SInput → SInput) : (s.modInput i f).power = s.power := rfl
@[simp] theorem modInput_sensors (s : State) (i : Nat) (f : SInput → SInput) : (s.modInput i f).sensors = s.sensors := rfl
@[simp] theorem modInput_inputs (s : State) (i : Nat) (f : SInput → SInput) : (s.modInput i f).inputs = Tab.mod s.inputs {} i f := rfl
@[simp] theorem modInput_bus (s : State) (i : Nat) (f : SInput → SInput) : (s.modInput i f).bus = s.bus := rfl
@[simp] theorem modInput_commitWait (s : State) (i : Nat) (f : SInput → SInput) : (s.modInput i f).commitWait = s.commitWait := rfl
@[simp] theorem modInput_applyWait (s : State) (i : Nat) (f : SInput → SInput) : (s.modInput i f).applyWait = s.applyWait := rfl
@[simp] theorem modInput_outs (s : State) (i : Nat) (f : SInput → SInput) : (s.modInput i f).outs = s.outs := rfl
@[simp] theorem modInput_free (s : State) (i : Nat) (f : SInput → SInput) : (s.modInput i f).free = s.free := rfl

/-! ### modHbm -/

@[simp] theorem modHbm_pending (s : State) (f : Hbm → Hbm) : (s.modHbm f).pending = s.pending := rfl
@[simp] theorem modHbm_time (s : State) (f : Hbm → Hbm) : (s.modHbm f).time = s.time := rfl
@[simp] theorem modHbm_factory (s : State) (f : Hbm → Hbm) : (s.modHbm f).factory = s.factory := rfl
@[simp] theorem modHbm_vals (s : State) (f : Hbm → Hbm) : (s.modHbm f).vals = s.vals := rfl
@[simp] theorem modHbm_caddy (s : State) (f : Hbm → Hbm) : (s.modHbm f).caddy = s.caddy := rfl
@[simp] theorem modHbm_log (s : State) (f : Hbm → Hbm) : (s.modHbm f).log = s.log := rfl
@[simp] theorem modHbm_errq (s : State) (f : Hbm → Hbm) : (s.modHbm f).errq = s.errq := rfl
@[simp] theorem modHbm_secState (s : State) (f : Hbm → Hbm) : (s.modHbm f).secState = s.secState := rfl
@[simp] theorem modHbm_parts (s : State) (f : Hbm → Hbm) : (s.modHbm f).parts = s.parts := rfl
@[simp] theorem modHbm_layoutGen (s : State) (f : Hbm → Hbm) : (s.modHbm f).layoutGen = s.layoutGen := rfl
@[simp] theorem modHbm_queues (s : State) (f : Hbm → Hbm) : (s.modHbm f).queues = s.queues := rfl
@[simp] theorem modHbm_sites (s : State) (f : Hbm → Hbm) : (s.modHbm f).sites = s.sites := rfl
@[simp] theorem modHbm_siteState (s : State) (f : Hbm → Hbm) : (s.modHbm f).siteState = s.siteState := rfl
@[simp] theorem modHbm_spareGen (s : State) (f : Hbm → Hbm) : (s.modHbm f).spareGen = s.spareGen := rfl
@[simp] theorem modHbm_spareTime (s : State) (f : Hbm → Hbm) : (s.modHbm f).spareTime = s.spareTime := rfl
@[simp] theorem modHbm_fles (s : State) (f : Hbm → Hbm) : (s.modHbm f).fles = s.fles := rfl
@[simp] theorem modHbm_mem (s : State) (f : Hbm → Hbm) : (s.modHbm f).mem = s.mem := rfl
@[simp] theorem modHbm_hbm (s : State) (f : Hbm → Hbm) : (s.modHbm f).hbm = f s.hbm := rfl
@[simp] theorem modHbm_guests (s : State) (f : Hbm → Hbm) : (s.modHbm f).guests = s.guests := rfl
@[simp] theorem modHbm_notices (s : State) (f : Hbm → Hbm) : (s.modHbm f).notices = s.notices := rfl
@[simp] theorem modHbm_streams (s : State) (f : Hbm → Hbm) : (s.modHbm f).streams = s.streams := rfl
@[simp] theorem modHbm_ctr (s : State) (f : Hbm → Hbm) : (s.modHbm f).ctr = s.ctr := rfl
@[simp] theorem modHbm_shadow (s : State) (f : Hbm → Hbm) : (s.modHbm f).shadow = s.shadow := rfl
@[simp] theorem modHbm_colls (s : State) (f : Hbm → Hbm) : (s.modHbm f).colls = s.colls := rfl
@[simp] theorem modHbm_credits (s : State) (f : Hbm → Hbm) : (s.modHbm f).credits = s.credits := rfl
@[simp] theorem modHbm_fetches (s : State) (f : Hbm → Hbm) : (s.modHbm f).fetches = s.fetches := rfl
@[simp] theorem modHbm_xfers (s : State) (f : Hbm → Hbm) : (s.modHbm f).xfers = s.xfers := rfl
@[simp] theorem modHbm_pendingSrc (s : State) (f : Hbm → Hbm) : (s.modHbm f).pendingSrc = s.pendingSrc := rfl
@[simp] theorem modHbm_kports (s : State) (f : Hbm → Hbm) : (s.modHbm f).kports = s.kports := rfl
@[simp] theorem modHbm_iports (s : State) (f : Hbm → Hbm) : (s.modHbm f).iports = s.iports := rfl
@[simp] theorem modHbm_tfb (s : State) (f : Hbm → Hbm) : (s.modHbm f).tfb = s.tfb := rfl
@[simp] theorem modHbm_nor (s : State) (f : Hbm → Hbm) : (s.modHbm f).nor = s.nor := rfl
@[simp] theorem modHbm_update (s : State) (f : Hbm → Hbm) : (s.modHbm f).update = s.update := rfl
@[simp] theorem modHbm_recStage (s : State) (f : Hbm → Hbm) : (s.modHbm f).recStage = s.recStage := rfl
@[simp] theorem modHbm_trustStage (s : State) (f : Hbm → Hbm) : (s.modHbm f).trustStage = s.trustStage := rfl
@[simp] theorem modHbm_sec (s : State) (f : Hbm → Hbm) : (s.modHbm f).sec = s.sec := rfl
@[simp] theorem modHbm_boot (s : State) (f : Hbm → Hbm) : (s.modHbm f).boot = s.boot := rfl
@[simp] theorem modHbm_journal (s : State) (f : Hbm → Hbm) : (s.modHbm f).journal = s.journal := rfl
@[simp] theorem modHbm_power (s : State) (f : Hbm → Hbm) : (s.modHbm f).power = s.power := rfl
@[simp] theorem modHbm_sensors (s : State) (f : Hbm → Hbm) : (s.modHbm f).sensors = s.sensors := rfl
@[simp] theorem modHbm_inputs (s : State) (f : Hbm → Hbm) : (s.modHbm f).inputs = s.inputs := rfl
@[simp] theorem modHbm_bus (s : State) (f : Hbm → Hbm) : (s.modHbm f).bus = s.bus := rfl
@[simp] theorem modHbm_commitWait (s : State) (f : Hbm → Hbm) : (s.modHbm f).commitWait = s.commitWait := rfl
@[simp] theorem modHbm_applyWait (s : State) (f : Hbm → Hbm) : (s.modHbm f).applyWait = s.applyWait := rfl
@[simp] theorem modHbm_outs (s : State) (f : Hbm → Hbm) : (s.modHbm f).outs = s.outs := rfl
@[simp] theorem modHbm_free (s : State) (f : Hbm → Hbm) : (s.modHbm f).free = s.free := rfl

/-! ### modBus -/

@[simp] theorem modBus_pending (s : State) (f : Bus → Bus) : (s.modBus f).pending = s.pending := rfl
@[simp] theorem modBus_time (s : State) (f : Bus → Bus) : (s.modBus f).time = s.time := rfl
@[simp] theorem modBus_factory (s : State) (f : Bus → Bus) : (s.modBus f).factory = s.factory := rfl
@[simp] theorem modBus_vals (s : State) (f : Bus → Bus) : (s.modBus f).vals = s.vals := rfl
@[simp] theorem modBus_caddy (s : State) (f : Bus → Bus) : (s.modBus f).caddy = s.caddy := rfl
@[simp] theorem modBus_log (s : State) (f : Bus → Bus) : (s.modBus f).log = s.log := rfl
@[simp] theorem modBus_errq (s : State) (f : Bus → Bus) : (s.modBus f).errq = s.errq := rfl
@[simp] theorem modBus_secState (s : State) (f : Bus → Bus) : (s.modBus f).secState = s.secState := rfl
@[simp] theorem modBus_parts (s : State) (f : Bus → Bus) : (s.modBus f).parts = s.parts := rfl
@[simp] theorem modBus_layoutGen (s : State) (f : Bus → Bus) : (s.modBus f).layoutGen = s.layoutGen := rfl
@[simp] theorem modBus_queues (s : State) (f : Bus → Bus) : (s.modBus f).queues = s.queues := rfl
@[simp] theorem modBus_sites (s : State) (f : Bus → Bus) : (s.modBus f).sites = s.sites := rfl
@[simp] theorem modBus_siteState (s : State) (f : Bus → Bus) : (s.modBus f).siteState = s.siteState := rfl
@[simp] theorem modBus_spareGen (s : State) (f : Bus → Bus) : (s.modBus f).spareGen = s.spareGen := rfl
@[simp] theorem modBus_spareTime (s : State) (f : Bus → Bus) : (s.modBus f).spareTime = s.spareTime := rfl
@[simp] theorem modBus_fles (s : State) (f : Bus → Bus) : (s.modBus f).fles = s.fles := rfl
@[simp] theorem modBus_mem (s : State) (f : Bus → Bus) : (s.modBus f).mem = s.mem := rfl
@[simp] theorem modBus_hbm (s : State) (f : Bus → Bus) : (s.modBus f).hbm = s.hbm := rfl
@[simp] theorem modBus_guests (s : State) (f : Bus → Bus) : (s.modBus f).guests = s.guests := rfl
@[simp] theorem modBus_notices (s : State) (f : Bus → Bus) : (s.modBus f).notices = s.notices := rfl
@[simp] theorem modBus_streams (s : State) (f : Bus → Bus) : (s.modBus f).streams = s.streams := rfl
@[simp] theorem modBus_ctr (s : State) (f : Bus → Bus) : (s.modBus f).ctr = s.ctr := rfl
@[simp] theorem modBus_shadow (s : State) (f : Bus → Bus) : (s.modBus f).shadow = s.shadow := rfl
@[simp] theorem modBus_colls (s : State) (f : Bus → Bus) : (s.modBus f).colls = s.colls := rfl
@[simp] theorem modBus_credits (s : State) (f : Bus → Bus) : (s.modBus f).credits = s.credits := rfl
@[simp] theorem modBus_fetches (s : State) (f : Bus → Bus) : (s.modBus f).fetches = s.fetches := rfl
@[simp] theorem modBus_xfers (s : State) (f : Bus → Bus) : (s.modBus f).xfers = s.xfers := rfl
@[simp] theorem modBus_pendingSrc (s : State) (f : Bus → Bus) : (s.modBus f).pendingSrc = s.pendingSrc := rfl
@[simp] theorem modBus_kports (s : State) (f : Bus → Bus) : (s.modBus f).kports = s.kports := rfl
@[simp] theorem modBus_iports (s : State) (f : Bus → Bus) : (s.modBus f).iports = s.iports := rfl
@[simp] theorem modBus_tfb (s : State) (f : Bus → Bus) : (s.modBus f).tfb = s.tfb := rfl
@[simp] theorem modBus_nor (s : State) (f : Bus → Bus) : (s.modBus f).nor = s.nor := rfl
@[simp] theorem modBus_update (s : State) (f : Bus → Bus) : (s.modBus f).update = s.update := rfl
@[simp] theorem modBus_recStage (s : State) (f : Bus → Bus) : (s.modBus f).recStage = s.recStage := rfl
@[simp] theorem modBus_trustStage (s : State) (f : Bus → Bus) : (s.modBus f).trustStage = s.trustStage := rfl
@[simp] theorem modBus_sec (s : State) (f : Bus → Bus) : (s.modBus f).sec = s.sec := rfl
@[simp] theorem modBus_boot (s : State) (f : Bus → Bus) : (s.modBus f).boot = s.boot := rfl
@[simp] theorem modBus_journal (s : State) (f : Bus → Bus) : (s.modBus f).journal = s.journal := rfl
@[simp] theorem modBus_power (s : State) (f : Bus → Bus) : (s.modBus f).power = s.power := rfl
@[simp] theorem modBus_sensors (s : State) (f : Bus → Bus) : (s.modBus f).sensors = s.sensors := rfl
@[simp] theorem modBus_inputs (s : State) (f : Bus → Bus) : (s.modBus f).inputs = s.inputs := rfl
@[simp] theorem modBus_bus (s : State) (f : Bus → Bus) : (s.modBus f).bus = f s.bus := rfl
@[simp] theorem modBus_commitWait (s : State) (f : Bus → Bus) : (s.modBus f).commitWait = s.commitWait := rfl
@[simp] theorem modBus_applyWait (s : State) (f : Bus → Bus) : (s.modBus f).applyWait = s.applyWait := rfl
@[simp] theorem modBus_outs (s : State) (f : Bus → Bus) : (s.modBus f).outs = s.outs := rfl
@[simp] theorem modBus_free (s : State) (f : Bus → Bus) : (s.modBus f).free = s.free := rfl

/-! ### modUpdate -/

@[simp] theorem modUpdate_pending (s : State) (f : Update → Update) : (s.modUpdate f).pending = s.pending := rfl
@[simp] theorem modUpdate_time (s : State) (f : Update → Update) : (s.modUpdate f).time = s.time := rfl
@[simp] theorem modUpdate_factory (s : State) (f : Update → Update) : (s.modUpdate f).factory = s.factory := rfl
@[simp] theorem modUpdate_vals (s : State) (f : Update → Update) : (s.modUpdate f).vals = s.vals := rfl
@[simp] theorem modUpdate_caddy (s : State) (f : Update → Update) : (s.modUpdate f).caddy = s.caddy := rfl
@[simp] theorem modUpdate_log (s : State) (f : Update → Update) : (s.modUpdate f).log = s.log := rfl
@[simp] theorem modUpdate_errq (s : State) (f : Update → Update) : (s.modUpdate f).errq = s.errq := rfl
@[simp] theorem modUpdate_secState (s : State) (f : Update → Update) : (s.modUpdate f).secState = s.secState := rfl
@[simp] theorem modUpdate_parts (s : State) (f : Update → Update) : (s.modUpdate f).parts = s.parts := rfl
@[simp] theorem modUpdate_layoutGen (s : State) (f : Update → Update) : (s.modUpdate f).layoutGen = s.layoutGen := rfl
@[simp] theorem modUpdate_queues (s : State) (f : Update → Update) : (s.modUpdate f).queues = s.queues := rfl
@[simp] theorem modUpdate_sites (s : State) (f : Update → Update) : (s.modUpdate f).sites = s.sites := rfl
@[simp] theorem modUpdate_siteState (s : State) (f : Update → Update) : (s.modUpdate f).siteState = s.siteState := rfl
@[simp] theorem modUpdate_spareGen (s : State) (f : Update → Update) : (s.modUpdate f).spareGen = s.spareGen := rfl
@[simp] theorem modUpdate_spareTime (s : State) (f : Update → Update) : (s.modUpdate f).spareTime = s.spareTime := rfl
@[simp] theorem modUpdate_fles (s : State) (f : Update → Update) : (s.modUpdate f).fles = s.fles := rfl
@[simp] theorem modUpdate_mem (s : State) (f : Update → Update) : (s.modUpdate f).mem = s.mem := rfl
@[simp] theorem modUpdate_hbm (s : State) (f : Update → Update) : (s.modUpdate f).hbm = s.hbm := rfl
@[simp] theorem modUpdate_guests (s : State) (f : Update → Update) : (s.modUpdate f).guests = s.guests := rfl
@[simp] theorem modUpdate_notices (s : State) (f : Update → Update) : (s.modUpdate f).notices = s.notices := rfl
@[simp] theorem modUpdate_streams (s : State) (f : Update → Update) : (s.modUpdate f).streams = s.streams := rfl
@[simp] theorem modUpdate_ctr (s : State) (f : Update → Update) : (s.modUpdate f).ctr = s.ctr := rfl
@[simp] theorem modUpdate_shadow (s : State) (f : Update → Update) : (s.modUpdate f).shadow = s.shadow := rfl
@[simp] theorem modUpdate_colls (s : State) (f : Update → Update) : (s.modUpdate f).colls = s.colls := rfl
@[simp] theorem modUpdate_credits (s : State) (f : Update → Update) : (s.modUpdate f).credits = s.credits := rfl
@[simp] theorem modUpdate_fetches (s : State) (f : Update → Update) : (s.modUpdate f).fetches = s.fetches := rfl
@[simp] theorem modUpdate_xfers (s : State) (f : Update → Update) : (s.modUpdate f).xfers = s.xfers := rfl
@[simp] theorem modUpdate_pendingSrc (s : State) (f : Update → Update) : (s.modUpdate f).pendingSrc = s.pendingSrc := rfl
@[simp] theorem modUpdate_kports (s : State) (f : Update → Update) : (s.modUpdate f).kports = s.kports := rfl
@[simp] theorem modUpdate_iports (s : State) (f : Update → Update) : (s.modUpdate f).iports = s.iports := rfl
@[simp] theorem modUpdate_tfb (s : State) (f : Update → Update) : (s.modUpdate f).tfb = s.tfb := rfl
@[simp] theorem modUpdate_nor (s : State) (f : Update → Update) : (s.modUpdate f).nor = s.nor := rfl
@[simp] theorem modUpdate_update (s : State) (f : Update → Update) : (s.modUpdate f).update = f s.update := rfl
@[simp] theorem modUpdate_recStage (s : State) (f : Update → Update) : (s.modUpdate f).recStage = s.recStage := rfl
@[simp] theorem modUpdate_trustStage (s : State) (f : Update → Update) : (s.modUpdate f).trustStage = s.trustStage := rfl
@[simp] theorem modUpdate_sec (s : State) (f : Update → Update) : (s.modUpdate f).sec = s.sec := rfl
@[simp] theorem modUpdate_boot (s : State) (f : Update → Update) : (s.modUpdate f).boot = s.boot := rfl
@[simp] theorem modUpdate_journal (s : State) (f : Update → Update) : (s.modUpdate f).journal = s.journal := rfl
@[simp] theorem modUpdate_power (s : State) (f : Update → Update) : (s.modUpdate f).power = s.power := rfl
@[simp] theorem modUpdate_sensors (s : State) (f : Update → Update) : (s.modUpdate f).sensors = s.sensors := rfl
@[simp] theorem modUpdate_inputs (s : State) (f : Update → Update) : (s.modUpdate f).inputs = s.inputs := rfl
@[simp] theorem modUpdate_bus (s : State) (f : Update → Update) : (s.modUpdate f).bus = s.bus := rfl
@[simp] theorem modUpdate_commitWait (s : State) (f : Update → Update) : (s.modUpdate f).commitWait = s.commitWait := rfl
@[simp] theorem modUpdate_applyWait (s : State) (f : Update → Update) : (s.modUpdate f).applyWait = s.applyWait := rfl
@[simp] theorem modUpdate_outs (s : State) (f : Update → Update) : (s.modUpdate f).outs = s.outs := rfl
@[simp] theorem modUpdate_free (s : State) (f : Update → Update) : (s.modUpdate f).free = s.free := rfl

/-! ### setVal -/

@[simp] theorem setVal_pending (s : State) (i j : Nat) (bs : List Byte) : (s.setVal i j bs).pending = s.pending := rfl
@[simp] theorem setVal_time (s : State) (i j : Nat) (bs : List Byte) : (s.setVal i j bs).time = s.time := rfl
@[simp] theorem setVal_factory (s : State) (i j : Nat) (bs : List Byte) : (s.setVal i j bs).factory = s.factory := rfl
@[simp] theorem setVal_vals (s : State) (i j : Nat) (bs : List Byte) : (s.setVal i j bs).vals = Tab.set s.vals (i * 256 + j) bs := rfl
@[simp] theorem setVal_caddy (s : State) (i j : Nat) (bs : List Byte) : (s.setVal i j bs).caddy = s.caddy := rfl
@[simp] theorem setVal_log (s : State) (i j : Nat) (bs : List Byte) : (s.setVal i j bs).log = s.log := rfl
@[simp] theorem setVal_errq (s : State) (i j : Nat) (bs : List Byte) : (s.setVal i j bs).errq = s.errq := rfl
@[simp] theorem setVal_secState (s : State) (i j : Nat) (bs : List Byte) : (s.setVal i j bs).secState = s.secState := rfl
@[simp] theorem setVal_parts (s : State) (i j : Nat) (bs : List Byte) : (s.setVal i j bs).parts = s.parts := rfl
@[simp] theorem setVal_layoutGen (s : State) (i j : Nat) (bs : List Byte) : (s.setVal i j bs).layoutGen = s.layoutGen := rfl
@[simp] theorem setVal_queues (s : State) (i j : Nat) (bs : List Byte) : (s.setVal i j bs).queues = s.queues := rfl
@[simp] theorem setVal_sites (s : State) (i j : Nat) (bs : List Byte) : (s.setVal i j bs).sites = s.sites := rfl
@[simp] theorem setVal_siteState (s : State) (i j : Nat) (bs : List Byte) : (s.setVal i j bs).siteState = s.siteState := rfl
@[simp] theorem setVal_spareGen (s : State) (i j : Nat) (bs : List Byte) : (s.setVal i j bs).spareGen = s.spareGen := rfl
@[simp] theorem setVal_spareTime (s : State) (i j : Nat) (bs : List Byte) : (s.setVal i j bs).spareTime = s.spareTime := rfl
@[simp] theorem setVal_fles (s : State) (i j : Nat) (bs : List Byte) : (s.setVal i j bs).fles = s.fles := rfl
@[simp] theorem setVal_mem (s : State) (i j : Nat) (bs : List Byte) : (s.setVal i j bs).mem = s.mem := rfl
@[simp] theorem setVal_hbm (s : State) (i j : Nat) (bs : List Byte) : (s.setVal i j bs).hbm = s.hbm := rfl
@[simp] theorem setVal_guests (s : State) (i j : Nat) (bs : List Byte) : (s.setVal i j bs).guests = s.guests := rfl
@[simp] theorem setVal_notices (s : State) (i j : Nat) (bs : List Byte) : (s.setVal i j bs).notices = s.notices := rfl
@[simp] theorem setVal_streams (s : State) (i j : Nat) (bs : List Byte) : (s.setVal i j bs).streams = s.streams := rfl
@[simp] theorem setVal_ctr (s : State) (i j : Nat) (bs : List Byte) : (s.setVal i j bs).ctr = s.ctr := rfl
@[simp] theorem setVal_shadow (s : State) (i j : Nat) (bs : List Byte) : (s.setVal i j bs).shadow = s.shadow := rfl
@[simp] theorem setVal_colls (s : State) (i j : Nat) (bs : List Byte) : (s.setVal i j bs).colls = s.colls := rfl
@[simp] theorem setVal_credits (s : State) (i j : Nat) (bs : List Byte) : (s.setVal i j bs).credits = s.credits := rfl
@[simp] theorem setVal_fetches (s : State) (i j : Nat) (bs : List Byte) : (s.setVal i j bs).fetches = s.fetches := rfl
@[simp] theorem setVal_xfers (s : State) (i j : Nat) (bs : List Byte) : (s.setVal i j bs).xfers = s.xfers := rfl
@[simp] theorem setVal_pendingSrc (s : State) (i j : Nat) (bs : List Byte) : (s.setVal i j bs).pendingSrc = s.pendingSrc := rfl
@[simp] theorem setVal_kports (s : State) (i j : Nat) (bs : List Byte) : (s.setVal i j bs).kports = s.kports := rfl
@[simp] theorem setVal_iports (s : State) (i j : Nat) (bs : List Byte) : (s.setVal i j bs).iports = s.iports := rfl
@[simp] theorem setVal_tfb (s : State) (i j : Nat) (bs : List Byte) : (s.setVal i j bs).tfb = s.tfb := rfl
@[simp] theorem setVal_nor (s : State) (i j : Nat) (bs : List Byte) : (s.setVal i j bs).nor = s.nor := rfl
@[simp] theorem setVal_update (s : State) (i j : Nat) (bs : List Byte) : (s.setVal i j bs).update = s.update := rfl
@[simp] theorem setVal_recStage (s : State) (i j : Nat) (bs : List Byte) : (s.setVal i j bs).recStage = s.recStage := rfl
@[simp] theorem setVal_trustStage (s : State) (i j : Nat) (bs : List Byte) : (s.setVal i j bs).trustStage = s.trustStage := rfl
@[simp] theorem setVal_sec (s : State) (i j : Nat) (bs : List Byte) : (s.setVal i j bs).sec = s.sec := rfl
@[simp] theorem setVal_boot (s : State) (i j : Nat) (bs : List Byte) : (s.setVal i j bs).boot = s.boot := rfl
@[simp] theorem setVal_journal (s : State) (i j : Nat) (bs : List Byte) : (s.setVal i j bs).journal = s.journal := rfl
@[simp] theorem setVal_power (s : State) (i j : Nat) (bs : List Byte) : (s.setVal i j bs).power = s.power := rfl
@[simp] theorem setVal_sensors (s : State) (i j : Nat) (bs : List Byte) : (s.setVal i j bs).sensors = s.sensors := rfl
@[simp] theorem setVal_inputs (s : State) (i j : Nat) (bs : List Byte) : (s.setVal i j bs).inputs = s.inputs := rfl
@[simp] theorem setVal_bus (s : State) (i j : Nat) (bs : List Byte) : (s.setVal i j bs).bus = s.bus := rfl
@[simp] theorem setVal_commitWait (s : State) (i j : Nat) (bs : List Byte) : (s.setVal i j bs).commitWait = s.commitWait := rfl
@[simp] theorem setVal_applyWait (s : State) (i j : Nat) (bs : List Byte) : (s.setVal i j bs).applyWait = s.applyWait := rfl
@[simp] theorem setVal_outs (s : State) (i j : Nat) (bs : List Byte) : (s.setVal i j bs).outs = s.outs := rfl
@[simp] theorem setVal_free (s : State) (i j : Nat) (bs : List Byte) : (s.setVal i j bs).free = s.free := rfl

/-! ### count -/

@[simp] theorem count_pending (s : State) (i j n : Nat) : (s.count i j n).pending = s.pending := rfl
@[simp] theorem count_time (s : State) (i j n : Nat) : (s.count i j n).time = s.time := rfl
@[simp] theorem count_factory (s : State) (i j n : Nat) : (s.count i j n).factory = s.factory := rfl
@[simp] theorem count_vals (s : State) (i j n : Nat) : (s.count i j n).vals = s.vals := rfl
@[simp] theorem count_caddy (s : State) (i j n : Nat) : (s.count i j n).caddy = s.caddy := rfl
@[simp] theorem count_log (s : State) (i j n : Nat) : (s.count i j n).log = s.log := rfl
@[simp] theorem count_errq (s : State) (i j n : Nat) : (s.count i j n).errq = s.errq := rfl
@[simp] theorem count_secState (s : State) (i j n : Nat) : (s.count i j n).secState = s.secState := rfl
@[simp] theorem count_parts (s : State) (i j n : Nat) : (s.count i j n).parts = s.parts := rfl
@[simp] theorem count_layoutGen (s : State) (i j n : Nat) : (s.count i j n).layoutGen = s.layoutGen := rfl
@[simp] theorem count_queues (s : State) (i j n : Nat) : (s.count i j n).queues = s.queues := rfl
@[simp] theorem count_sites (s : State) (i j n : Nat) : (s.count i j n).sites = s.sites := rfl
@[simp] theorem count_siteState (s : State) (i j n : Nat) : (s.count i j n).siteState = s.siteState := rfl
@[simp] theorem count_spareGen (s : State) (i j n : Nat) : (s.count i j n).spareGen = s.spareGen := rfl
@[simp] theorem count_spareTime (s : State) (i j n : Nat) : (s.count i j n).spareTime = s.spareTime := rfl
@[simp] theorem count_fles (s : State) (i j n : Nat) : (s.count i j n).fles = s.fles := rfl
@[simp] theorem count_mem (s : State) (i j n : Nat) : (s.count i j n).mem = s.mem := rfl
@[simp] theorem count_hbm (s : State) (i j n : Nat) : (s.count i j n).hbm = s.hbm := rfl
@[simp] theorem count_guests (s : State) (i j n : Nat) : (s.count i j n).guests = s.guests := rfl
@[simp] theorem count_notices (s : State) (i j n : Nat) : (s.count i j n).notices = s.notices := rfl
@[simp] theorem count_streams (s : State) (i j n : Nat) : (s.count i j n).streams = s.streams := rfl
@[simp] theorem count_ctr (s : State) (i j n : Nat) : (s.count i j n).ctr = Tab.mod s.ctr 0 (i * 256 + j) (· + n) := rfl
@[simp] theorem count_shadow (s : State) (i j n : Nat) : (s.count i j n).shadow = s.shadow := rfl
@[simp] theorem count_colls (s : State) (i j n : Nat) : (s.count i j n).colls = s.colls := rfl
@[simp] theorem count_credits (s : State) (i j n : Nat) : (s.count i j n).credits = s.credits := rfl
@[simp] theorem count_fetches (s : State) (i j n : Nat) : (s.count i j n).fetches = s.fetches := rfl
@[simp] theorem count_xfers (s : State) (i j n : Nat) : (s.count i j n).xfers = s.xfers := rfl
@[simp] theorem count_pendingSrc (s : State) (i j n : Nat) : (s.count i j n).pendingSrc = s.pendingSrc := rfl
@[simp] theorem count_kports (s : State) (i j n : Nat) : (s.count i j n).kports = s.kports := rfl
@[simp] theorem count_iports (s : State) (i j n : Nat) : (s.count i j n).iports = s.iports := rfl
@[simp] theorem count_tfb (s : State) (i j n : Nat) : (s.count i j n).tfb = s.tfb := rfl
@[simp] theorem count_nor (s : State) (i j n : Nat) : (s.count i j n).nor = s.nor := rfl
@[simp] theorem count_update (s : State) (i j n : Nat) : (s.count i j n).update = s.update := rfl
@[simp] theorem count_recStage (s : State) (i j n : Nat) : (s.count i j n).recStage = s.recStage := rfl
@[simp] theorem count_trustStage (s : State) (i j n : Nat) : (s.count i j n).trustStage = s.trustStage := rfl
@[simp] theorem count_sec (s : State) (i j n : Nat) : (s.count i j n).sec = s.sec := rfl
@[simp] theorem count_boot (s : State) (i j n : Nat) : (s.count i j n).boot = s.boot := rfl
@[simp] theorem count_journal (s : State) (i j n : Nat) : (s.count i j n).journal = s.journal := rfl
@[simp] theorem count_power (s : State) (i j n : Nat) : (s.count i j n).power = s.power := rfl
@[simp] theorem count_sensors (s : State) (i j n : Nat) : (s.count i j n).sensors = s.sensors := rfl
@[simp] theorem count_inputs (s : State) (i j n : Nat) : (s.count i j n).inputs = s.inputs := rfl
@[simp] theorem count_bus (s : State) (i j n : Nat) : (s.count i j n).bus = s.bus := rfl
@[simp] theorem count_commitWait (s : State) (i j n : Nat) : (s.count i j n).commitWait = s.commitWait := rfl
@[simp] theorem count_applyWait (s : State) (i j n : Nat) : (s.count i j n).applyWait = s.applyWait := rfl
@[simp] theorem count_outs (s : State) (i j n : Nat) : (s.count i j n).outs = s.outs := rfl
@[simp] theorem count_free (s : State) (i j n : Nat) : (s.count i j n).free = s.free := rfl

/-! ### out -/

@[simp] theorem out_pending (s : State) (o : Out) : (s.out o).pending = s.pending := rfl
@[simp] theorem out_time (s : State) (o : Out) : (s.out o).time = s.time := rfl
@[simp] theorem out_factory (s : State) (o : Out) : (s.out o).factory = s.factory := rfl
@[simp] theorem out_vals (s : State) (o : Out) : (s.out o).vals = s.vals := rfl
@[simp] theorem out_caddy (s : State) (o : Out) : (s.out o).caddy = s.caddy := rfl
@[simp] theorem out_log (s : State) (o : Out) : (s.out o).log = s.log := rfl
@[simp] theorem out_errq (s : State) (o : Out) : (s.out o).errq = s.errq := rfl
@[simp] theorem out_secState (s : State) (o : Out) : (s.out o).secState = s.secState := rfl
@[simp] theorem out_parts (s : State) (o : Out) : (s.out o).parts = s.parts := rfl
@[simp] theorem out_layoutGen (s : State) (o : Out) : (s.out o).layoutGen = s.layoutGen := rfl
@[simp] theorem out_queues (s : State) (o : Out) : (s.out o).queues = s.queues := rfl
@[simp] theorem out_sites (s : State) (o : Out) : (s.out o).sites = s.sites := rfl
@[simp] theorem out_siteState (s : State) (o : Out) : (s.out o).siteState = s.siteState := rfl
@[simp] theorem out_spareGen (s : State) (o : Out) : (s.out o).spareGen = s.spareGen := rfl
@[simp] theorem out_spareTime (s : State) (o : Out) : (s.out o).spareTime = s.spareTime := rfl
@[simp] theorem out_fles (s : State) (o : Out) : (s.out o).fles = s.fles := rfl
@[simp] theorem out_mem (s : State) (o : Out) : (s.out o).mem = s.mem := rfl
@[simp] theorem out_hbm (s : State) (o : Out) : (s.out o).hbm = s.hbm := rfl
@[simp] theorem out_guests (s : State) (o : Out) : (s.out o).guests = s.guests := rfl
@[simp] theorem out_notices (s : State) (o : Out) : (s.out o).notices = s.notices := rfl
@[simp] theorem out_streams (s : State) (o : Out) : (s.out o).streams = s.streams := rfl
@[simp] theorem out_ctr (s : State) (o : Out) : (s.out o).ctr = s.ctr := rfl
@[simp] theorem out_shadow (s : State) (o : Out) : (s.out o).shadow = s.shadow := rfl
@[simp] theorem out_colls (s : State) (o : Out) : (s.out o).colls = s.colls := rfl
@[simp] theorem out_credits (s : State) (o : Out) : (s.out o).credits = s.credits := rfl
@[simp] theorem out_fetches (s : State) (o : Out) : (s.out o).fetches = s.fetches := rfl
@[simp] theorem out_xfers (s : State) (o : Out) : (s.out o).xfers = s.xfers := rfl
@[simp] theorem out_pendingSrc (s : State) (o : Out) : (s.out o).pendingSrc = s.pendingSrc := rfl
@[simp] theorem out_kports (s : State) (o : Out) : (s.out o).kports = s.kports := rfl
@[simp] theorem out_iports (s : State) (o : Out) : (s.out o).iports = s.iports := rfl
@[simp] theorem out_tfb (s : State) (o : Out) : (s.out o).tfb = s.tfb := rfl
@[simp] theorem out_nor (s : State) (o : Out) : (s.out o).nor = s.nor := rfl
@[simp] theorem out_update (s : State) (o : Out) : (s.out o).update = s.update := rfl
@[simp] theorem out_recStage (s : State) (o : Out) : (s.out o).recStage = s.recStage := rfl
@[simp] theorem out_trustStage (s : State) (o : Out) : (s.out o).trustStage = s.trustStage := rfl
@[simp] theorem out_sec (s : State) (o : Out) : (s.out o).sec = s.sec := rfl
@[simp] theorem out_boot (s : State) (o : Out) : (s.out o).boot = s.boot := rfl
@[simp] theorem out_journal (s : State) (o : Out) : (s.out o).journal = s.journal := rfl
@[simp] theorem out_power (s : State) (o : Out) : (s.out o).power = s.power := rfl
@[simp] theorem out_sensors (s : State) (o : Out) : (s.out o).sensors = s.sensors := rfl
@[simp] theorem out_inputs (s : State) (o : Out) : (s.out o).inputs = s.inputs := rfl
@[simp] theorem out_bus (s : State) (o : Out) : (s.out o).bus = s.bus := rfl
@[simp] theorem out_commitWait (s : State) (o : Out) : (s.out o).commitWait = s.commitWait := rfl
@[simp] theorem out_applyWait (s : State) (o : Out) : (s.out o).applyWait = s.applyWait := rfl
@[simp] theorem out_outs (s : State) (o : Out) : (s.out o).outs = o :: s.outs := rfl
@[simp] theorem out_free (s : State) (o : Out) : (s.out o).free = s.free := rfl

/-! ### spend -/

@[simp] theorem spend_pending (s : State) (n : Nat) : (s.spend n).pending = s.pending := rfl
@[simp] theorem spend_time (s : State) (n : Nat) : (s.spend n).time = s.time := rfl
@[simp] theorem spend_factory (s : State) (n : Nat) : (s.spend n).factory = s.factory := rfl
@[simp] theorem spend_vals (s : State) (n : Nat) : (s.spend n).vals = s.vals := rfl
@[simp] theorem spend_caddy (s : State) (n : Nat) : (s.spend n).caddy = s.caddy := rfl
@[simp] theorem spend_log (s : State) (n : Nat) : (s.spend n).log = s.log := rfl
@[simp] theorem spend_errq (s : State) (n : Nat) : (s.spend n).errq = s.errq := rfl
@[simp] theorem spend_secState (s : State) (n : Nat) : (s.spend n).secState = s.secState := rfl
@[simp] theorem spend_parts (s : State) (n : Nat) : (s.spend n).parts = s.parts := rfl
@[simp] theorem spend_layoutGen (s : State) (n : Nat) : (s.spend n).layoutGen = s.layoutGen := rfl
@[simp] theorem spend_queues (s : State) (n : Nat) : (s.spend n).queues = s.queues := rfl
@[simp] theorem spend_sites (s : State) (n : Nat) : (s.spend n).sites = s.sites := rfl
@[simp] theorem spend_siteState (s : State) (n : Nat) : (s.spend n).siteState = s.siteState := rfl
@[simp] theorem spend_spareGen (s : State) (n : Nat) : (s.spend n).spareGen = s.spareGen := rfl
@[simp] theorem spend_spareTime (s : State) (n : Nat) : (s.spend n).spareTime = s.spareTime := rfl
@[simp] theorem spend_fles (s : State) (n : Nat) : (s.spend n).fles = s.fles := rfl
@[simp] theorem spend_mem (s : State) (n : Nat) : (s.spend n).mem = s.mem := rfl
@[simp] theorem spend_hbm (s : State) (n : Nat) : (s.spend n).hbm = s.hbm := rfl
@[simp] theorem spend_guests (s : State) (n : Nat) : (s.spend n).guests = s.guests := rfl
@[simp] theorem spend_notices (s : State) (n : Nat) : (s.spend n).notices = s.notices := rfl
@[simp] theorem spend_streams (s : State) (n : Nat) : (s.spend n).streams = s.streams := rfl
@[simp] theorem spend_ctr (s : State) (n : Nat) : (s.spend n).ctr = s.ctr := rfl
@[simp] theorem spend_shadow (s : State) (n : Nat) : (s.spend n).shadow = s.shadow := rfl
@[simp] theorem spend_colls (s : State) (n : Nat) : (s.spend n).colls = s.colls := rfl
@[simp] theorem spend_credits (s : State) (n : Nat) : (s.spend n).credits = s.credits := rfl
@[simp] theorem spend_fetches (s : State) (n : Nat) : (s.spend n).fetches = s.fetches := rfl
@[simp] theorem spend_xfers (s : State) (n : Nat) : (s.spend n).xfers = s.xfers := rfl
@[simp] theorem spend_pendingSrc (s : State) (n : Nat) : (s.spend n).pendingSrc = s.pendingSrc := rfl
@[simp] theorem spend_kports (s : State) (n : Nat) : (s.spend n).kports = s.kports := rfl
@[simp] theorem spend_iports (s : State) (n : Nat) : (s.spend n).iports = s.iports := rfl
@[simp] theorem spend_tfb (s : State) (n : Nat) : (s.spend n).tfb = s.tfb := rfl
@[simp] theorem spend_nor (s : State) (n : Nat) : (s.spend n).nor = s.nor := rfl
@[simp] theorem spend_update (s : State) (n : Nat) : (s.spend n).update = s.update := rfl
@[simp] theorem spend_recStage (s : State) (n : Nat) : (s.spend n).recStage = s.recStage := rfl
@[simp] theorem spend_trustStage (s : State) (n : Nat) : (s.spend n).trustStage = s.trustStage := rfl
@[simp] theorem spend_sec (s : State) (n : Nat) : (s.spend n).sec = s.sec := rfl
@[simp] theorem spend_boot (s : State) (n : Nat) : (s.spend n).boot = s.boot := rfl
@[simp] theorem spend_journal (s : State) (n : Nat) : (s.spend n).journal = s.journal := rfl
@[simp] theorem spend_power (s : State) (n : Nat) : (s.spend n).power = s.power := rfl
@[simp] theorem spend_sensors (s : State) (n : Nat) : (s.spend n).sensors = s.sensors := rfl
@[simp] theorem spend_inputs (s : State) (n : Nat) : (s.spend n).inputs = s.inputs := rfl
@[simp] theorem spend_bus (s : State) (n : Nat) : (s.spend n).bus = s.bus := rfl
@[simp] theorem spend_commitWait (s : State) (n : Nat) : (s.spend n).commitWait = s.commitWait := rfl
@[simp] theorem spend_applyWait (s : State) (n : Nat) : (s.spend n).applyWait = s.applyWait := rfl
@[simp] theorem spend_outs (s : State) (n : Nat) : (s.spend n).outs = s.outs := rfl
@[simp] theorem spend_free (s : State) (n : Nat) : (s.spend n).free = s.free + n := rfl

/-! ### wr -/

@[simp] theorem wr_pending (s : State) (p a : Nat) (bs : List Byte) : (s.wr p a bs).pending = s.pending := rfl
@[simp] theorem wr_time (s : State) (p a : Nat) (bs : List Byte) : (s.wr p a bs).time = s.time := rfl
@[simp] theorem wr_factory (s : State) (p a : Nat) (bs : List Byte) : (s.wr p a bs).factory = s.factory := rfl
@[simp] theorem wr_vals (s : State) (p a : Nat) (bs : List Byte) : (s.wr p a bs).vals = s.vals := rfl
@[simp] theorem wr_caddy (s : State) (p a : Nat) (bs : List Byte) : (s.wr p a bs).caddy = s.caddy := rfl
@[simp] theorem wr_log (s : State) (p a : Nat) (bs : List Byte) : (s.wr p a bs).log = s.log := rfl
@[simp] theorem wr_errq (s : State) (p a : Nat) (bs : List Byte) : (s.wr p a bs).errq = s.errq := rfl
@[simp] theorem wr_secState (s : State) (p a : Nat) (bs : List Byte) : (s.wr p a bs).secState = s.secState := rfl
@[simp] theorem wr_parts (s : State) (p a : Nat) (bs : List Byte) : (s.wr p a bs).parts = s.parts := rfl
@[simp] theorem wr_layoutGen (s : State) (p a : Nat) (bs : List Byte) : (s.wr p a bs).layoutGen = s.layoutGen := rfl
@[simp] theorem wr_queues (s : State) (p a : Nat) (bs : List Byte) : (s.wr p a bs).queues = s.queues := rfl
@[simp] theorem wr_sites (s : State) (p a : Nat) (bs : List Byte) : (s.wr p a bs).sites = s.sites := rfl
@[simp] theorem wr_siteState (s : State) (p a : Nat) (bs : List Byte) : (s.wr p a bs).siteState = s.siteState := rfl
@[simp] theorem wr_spareGen (s : State) (p a : Nat) (bs : List Byte) : (s.wr p a bs).spareGen = s.spareGen := rfl
@[simp] theorem wr_spareTime (s : State) (p a : Nat) (bs : List Byte) : (s.wr p a bs).spareTime = s.spareTime := rfl
@[simp] theorem wr_fles (s : State) (p a : Nat) (bs : List Byte) : (s.wr p a bs).fles = s.fles := rfl
@[simp] theorem wr_mem (s : State) (p a : Nat) (bs : List Byte) : (s.wr p a bs).mem = Mem.putAll s.mem (s.writeCells p a bs) := rfl
@[simp] theorem wr_guests (s : State) (p a : Nat) (bs : List Byte) : (s.wr p a bs).guests = s.guests := rfl
@[simp] theorem wr_notices (s : State) (p a : Nat) (bs : List Byte) : (s.wr p a bs).notices = s.notices := rfl
@[simp] theorem wr_streams (s : State) (p a : Nat) (bs : List Byte) : (s.wr p a bs).streams = s.streams := rfl
@[simp] theorem wr_ctr (s : State) (p a : Nat) (bs : List Byte) : (s.wr p a bs).ctr = s.ctr := rfl
@[simp] theorem wr_shadow (s : State) (p a : Nat) (bs : List Byte) : (s.wr p a bs).shadow = s.shadow := rfl
@[simp] theorem wr_colls (s : State) (p a : Nat) (bs : List Byte) : (s.wr p a bs).colls = s.colls := rfl
@[simp] theorem wr_credits (s : State) (p a : Nat) (bs : List Byte) : (s.wr p a bs).credits = s.credits := rfl
@[simp] theorem wr_fetches (s : State) (p a : Nat) (bs : List Byte) : (s.wr p a bs).fetches = s.fetches := rfl
@[simp] theorem wr_xfers (s : State) (p a : Nat) (bs : List Byte) : (s.wr p a bs).xfers = s.xfers := rfl
@[simp] theorem wr_pendingSrc (s : State) (p a : Nat) (bs : List Byte) : (s.wr p a bs).pendingSrc = s.pendingSrc := rfl
@[simp] theorem wr_kports (s : State) (p a : Nat) (bs : List Byte) : (s.wr p a bs).kports = s.kports := rfl
@[simp] theorem wr_iports (s : State) (p a : Nat) (bs : List Byte) : (s.wr p a bs).iports = s.iports := rfl
@[simp] theorem wr_tfb (s : State) (p a : Nat) (bs : List Byte) : (s.wr p a bs).tfb = s.tfb := rfl
@[simp] theorem wr_nor (s : State) (p a : Nat) (bs : List Byte) : (s.wr p a bs).nor = s.nor := rfl
@[simp] theorem wr_update (s : State) (p a : Nat) (bs : List Byte) : (s.wr p a bs).update = s.update := rfl
@[simp] theorem wr_recStage (s : State) (p a : Nat) (bs : List Byte) : (s.wr p a bs).recStage = s.recStage := rfl
@[simp] theorem wr_trustStage (s : State) (p a : Nat) (bs : List Byte) : (s.wr p a bs).trustStage = s.trustStage := rfl
@[simp] theorem wr_sec (s : State) (p a : Nat) (bs : List Byte) : (s.wr p a bs).sec = s.sec := rfl
@[simp] theorem wr_boot (s : State) (p a : Nat) (bs : List Byte) : (s.wr p a bs).boot = s.boot := rfl
@[simp] theorem wr_journal (s : State) (p a : Nat) (bs : List Byte) : (s.wr p a bs).journal = s.journal := rfl
@[simp] theorem wr_power (s : State) (p a : Nat) (bs : List Byte) : (s.wr p a bs).power = s.power := rfl
@[simp] theorem wr_sensors (s : State) (p a : Nat) (bs : List Byte) : (s.wr p a bs).sensors = s.sensors := rfl
@[simp] theorem wr_inputs (s : State) (p a : Nat) (bs : List Byte) : (s.wr p a bs).inputs = s.inputs := rfl
@[simp] theorem wr_bus (s : State) (p a : Nat) (bs : List Byte) : (s.wr p a bs).bus = s.bus := rfl
@[simp] theorem wr_commitWait (s : State) (p a : Nat) (bs : List Byte) : (s.wr p a bs).commitWait = s.commitWait := rfl
@[simp] theorem wr_applyWait (s : State) (p a : Nat) (bs : List Byte) : (s.wr p a bs).applyWait = s.applyWait := rfl
@[simp] theorem wr_outs (s : State) (p a : Nat) (bs : List Byte) : (s.wr p a bs).outs = s.outs := rfl
@[simp] theorem wr_free (s : State) (p a : Nat) (bs : List Byte) : (s.wr p a bs).free = s.free := rfl

/-! ### What is read after a change -/

@[simp] theorem part_modPart (s : State) (p : Nat) (f : Part → Part) : (s.modPart p f).part p = f (s.part p) :=
  tab_get_mod_same _ _ _ _
theorem part_modPart_other (s : State) (p q : Nat) (f : Part → Part) (h : q ≠ p) : (s.modPart p f).part q = s.part q :=
  tab_get_mod_other _ _ _ _ _ _ h
@[simp] theorem part_modRings (s : State) (p : Nat) (f : Rings → Rings) :
    (s.modRings p f).part p = { s.part p with rings := f (s.part p).rings } := part_modPart _ _ _
@[simp] theorem part_modLease (s : State) (p : Nat) (f : Lease → Lease) :
    (s.modLease p f).part p = { s.part p with lease := f (s.part p).lease } := part_modPart _ _ _
@[simp] theorem part_modRcv (s : State) (p : Nat) (f : Recovery → Recovery) :
    (s.modRcv p f).part p = { s.part p with rcv := f (s.part p).rcv } := part_modPart _ _ _
@[simp] theorem part_modFences (s : State) (p : Nat) (f : Fences → Fences) :
    (s.modFences p f).part p = { s.part p with fences := f (s.part p).fences } := part_modPart _ _ _
@[simp] theorem part_setRunTo (s : State) (p : Nat) (r : RunTo) : (s.setRunTo p r).part p = { s.part p with runTo := r } :=
  part_modPart _ _ _
theorem part_of {s t : State} (h : t.parts = s.parts) (p : Nat) : t.part p = s.part p := by unfold State.part; rw [h]
theorem setPState_state (s : State) (p : Nat) (x : PState) : ((s.setPState p x).part p).state = x := by
  unfold State.setPState
  split
  · assumption
  · unfold State.out State.modPart State.part
    rw [tab_get_mod_same]
theorem setPState_part_other (s : State) (p q : Nat) (x : PState) (h : q ≠ p) : (s.setPState p x).part q = s.part q := by
  unfold State.setPState
  split
  · rfl
  · unfold State.out State.modPart State.part
    rw [tab_get_mod_other _ _ _ _ _ _ h]
theorem setPState_firstRow (s : State) (p : Nat) (x : PState) : ((s.setPState p x).part p).firstRow = (s.part p).firstRow := by
  unfold State.setPState
  split
  · rfl
  · unfold State.out State.modPart State.part
    rw [tab_get_mod_same]
theorem setPState_rows (s : State) (p : Nat) (x : PState) : ((s.setPState p x).part p).rows = (s.part p).rows := by
  unfold State.setPState
  split
  · rfl
  · unfold State.out State.modPart State.part
    rw [tab_get_mod_same]
theorem setPState_firstCh (s : State) (p : Nat) (x : PState) : ((s.setPState p x).part p).firstCh = (s.part p).firstCh := by
  unfold State.setPState
  split
  · rfl
  · unfold State.out State.modPart State.part
    rw [tab_get_mod_same]
theorem setPState_chans (s : State) (p : Nat) (x : PState) : ((s.setPState p x).part p).chans = (s.part p).chans := by
  unfold State.setPState
  split
  · rfl
  · unfold State.out State.modPart State.part
    rw [tab_get_mod_same]
theorem setPState_mode (s : State) (p : Nat) (x : PState) : ((s.setPState p x).part p).mode = (s.part p).mode := by
  unfold State.setPState
  split
  · rfl
  · unfold State.out State.modPart State.part
    rw [tab_get_mod_same]
theorem setPState_policy (s : State) (p : Nat) (x : PState) : ((s.setPState p x).part p).policy = (s.part p).policy := by
  unfold State.setPState
  split
  · rfl
  · unfold State.out State.modPart State.part
    rw [tab_get_mod_same]
theorem setPState_straggler (s : State) (p : Nat) (x : PState) : ((s.setPState p x).part p).straggler = (s.part p).straggler := by
  unfold State.setPState
  split
  · rfl
  · unfold State.out State.modPart State.part
    rw [tab_get_mod_same]
theorem setPState_interval (s : State) (p : Nat) (x : PState) : ((s.setPState p x).part p).interval = (s.part p).interval := by
  unfold State.setPState
  split
  · rfl
  · unfold State.out State.modPart State.part
    rw [tab_get_mod_same]
theorem setPState_leaseMs (s : State) (p : Nat) (x : PState) : ((s.setPState p x).part p).leaseMs = (s.part p).leaseMs := by
  unfold State.setPState
  split
  · rfl
  · unfold State.out State.modPart State.part
    rw [tab_get_mod_same]
theorem setPState_chive (s : State) (p : Nat) (x : PState) : ((s.setPState p x).part p).chive = (s.part p).chive := by
  unfold State.setPState
  split
  · rfl
  · unfold State.out State.modPart State.part
    rw [tab_get_mod_same]
theorem setPState_ranMode (s : State) (p : Nat) (x : PState) : ((s.setPState p x).part p).ranMode = (s.part p).ranMode := by
  unfold State.setPState
  split
  · rfl
  · unfold State.out State.modPart State.part
    rw [tab_get_mod_same]
theorem setPState_scrubbed (s : State) (p : Nat) (x : PState) : ((s.setPState p x).part p).scrubbed = (s.part p).scrubbed := by
  unfold State.setPState
  split
  · rfl
  · unfold State.out State.modPart State.part
    rw [tab_get_mod_same]
theorem setPState_rings (s : State) (p : Nat) (x : PState) : ((s.setPState p x).part p).rings = (s.part p).rings := by
  unfold State.setPState
  split
  · rfl
  · unfold State.out State.modPart State.part
    rw [tab_get_mod_same]
theorem setPState_lease (s : State) (p : Nat) (x : PState) : ((s.setPState p x).part p).lease = (s.part p).lease := by
  unfold State.setPState
  split
  · rfl
  · unfold State.out State.modPart State.part
    rw [tab_get_mod_same]
theorem setPState_lists (s : State) (p : Nat) (x : PState) : ((s.setPState p x).part p).lists = (s.part p).lists := by
  unfold State.setPState
  split
  · rfl
  · unfold State.out State.modPart State.part
    rw [tab_get_mod_same]
theorem setPState_nextList (s : State) (p : Nat) (x : PState) : ((s.setPState p x).part p).nextList = (s.part p).nextList := by
  unfold State.setPState
  split
  · rfl
  · unfold State.out State.modPart State.part
    rw [tab_get_mod_same]
theorem setPState_laneDone (s : State) (p : Nat) (x : PState) : ((s.setPState p x).part p).laneDone = (s.part p).laneDone := by
  unfold State.setPState
  split
  · rfl
  · unfold State.out State.modPart State.part
    rw [tab_get_mod_same]
theorem setPState_fences (s : State) (p : Nat) (x : PState) : ((s.setPState p x).part p).fences = (s.part p).fences := by
  unfold State.setPState
  split
  · rfl
  · unfold State.out State.modPart State.part
    rw [tab_get_mod_same]
theorem setPState_runTo (s : State) (p : Nat) (x : PState) : ((s.setPState p x).part p).runTo = (s.part p).runTo := by
  unfold State.setPState
  split
  · rfl
  · unfold State.out State.modPart State.part
    rw [tab_get_mod_same]
theorem setPState_after (s : State) (p : Nat) (x : PState) : ((s.setPState p x).part p).after = (s.part p).after := by
  unfold State.setPState
  split
  · rfl
  · unfold State.out State.modPart State.part
    rw [tab_get_mod_same]
theorem setPState_scrubTick (s : State) (p : Nat) (x : PState) : ((s.setPState p x).part p).scrubTick = (s.part p).scrubTick := by
  unfold State.setPState
  split
  · rfl
  · unfold State.out State.modPart State.part
    rw [tab_get_mod_same]
theorem setPState_rcv (s : State) (p : Nat) (x : PState) : ((s.setPState p x).part p).rcv = (s.part p).rcv := by
  unfold State.setPState
  split
  · rfl
  · unfold State.out State.modPart State.part
    rw [tab_get_mod_same]
theorem setPState_binding (s : State) (p : Nat) (x : PState) : ((s.setPState p x).part p).binding = (s.part p).binding := by
  unfold State.setPState
  split
  · rfl
  · unfold State.out State.modPart State.part
    rw [tab_get_mod_same]
theorem setPState_bindReq (s : State) (p : Nat) (x : PState) : ((s.setPState p x).part p).bindReq = (s.part p).bindReq := by
  unfold State.setPState
  split
  · rfl
  · unfold State.out State.modPart State.part
    rw [tab_get_mod_same]
theorem setPState_gated (s : State) (p : Nat) (x : PState) : ((s.setPState p x).part p).gated = (s.part p).gated := by
  unfold State.setPState
  split
  · rfl
  · unfold State.out State.modPart State.part
    rw [tab_get_mod_same]
theorem setPState_member (s : State) (p : Nat) (x : PState) : ((s.setPState p x).part p).member = (s.part p).member := by
  unfold State.setPState
  split
  · rfl
  · unfold State.out State.modPart State.part
    rw [tab_get_mod_same]
@[simp] theorem setPState_s_pending (s : State) (p : Nat) (x : PState) : (s.setPState p x).pending = s.pending := by
  unfold State.setPState
  split <;> rfl
@[simp] theorem setPState_s_time (s : State) (p : Nat) (x : PState) : (s.setPState p x).time = s.time := by
  unfold State.setPState
  split <;> rfl
@[simp] theorem setPState_s_factory (s : State) (p : Nat) (x : PState) : (s.setPState p x).factory = s.factory := by
  unfold State.setPState
  split <;> rfl
@[simp] theorem setPState_s_vals (s : State) (p : Nat) (x : PState) : (s.setPState p x).vals = s.vals := by
  unfold State.setPState
  split <;> rfl
@[simp] theorem setPState_s_caddy (s : State) (p : Nat) (x : PState) : (s.setPState p x).caddy = s.caddy := by
  unfold State.setPState
  split <;> rfl
@[simp] theorem setPState_s_log (s : State) (p : Nat) (x : PState) : (s.setPState p x).log = s.log := by
  unfold State.setPState
  split <;> rfl
@[simp] theorem setPState_s_errq (s : State) (p : Nat) (x : PState) : (s.setPState p x).errq = s.errq := by
  unfold State.setPState
  split <;> rfl
@[simp] theorem setPState_s_secState (s : State) (p : Nat) (x : PState) : (s.setPState p x).secState = s.secState := by
  unfold State.setPState
  split <;> rfl
@[simp] theorem setPState_s_layoutGen (s : State) (p : Nat) (x : PState) : (s.setPState p x).layoutGen = s.layoutGen := by
  unfold State.setPState
  split <;> rfl
@[simp] theorem setPState_s_queues (s : State) (p : Nat) (x : PState) : (s.setPState p x).queues = s.queues := by
  unfold State.setPState
  split <;> rfl
@[simp] theorem setPState_s_sites (s : State) (p : Nat) (x : PState) : (s.setPState p x).sites = s.sites := by
  unfold State.setPState
  split <;> rfl
@[simp] theorem setPState_s_siteState (s : State) (p : Nat) (x : PState) : (s.setPState p x).siteState = s.siteState := by
  unfold State.setPState
  split <;> rfl
@[simp] theorem setPState_s_spareGen (s : State) (p : Nat) (x : PState) : (s.setPState p x).spareGen = s.spareGen := by
  unfold State.setPState
  split <;> rfl
@[simp] theorem setPState_s_spareTime (s : State) (p : Nat) (x : PState) : (s.setPState p x).spareTime = s.spareTime := by
  unfold State.setPState
  split <;> rfl
@[simp] theorem setPState_s_fles (s : State) (p : Nat) (x : PState) : (s.setPState p x).fles = s.fles := by
  unfold State.setPState
  split <;> rfl
@[simp] theorem setPState_s_mem (s : State) (p : Nat) (x : PState) : (s.setPState p x).mem = s.mem := by
  unfold State.setPState
  split <;> rfl
@[simp] theorem setPState_s_hbm (s : State) (p : Nat) (x : PState) : (s.setPState p x).hbm = s.hbm := by
  unfold State.setPState
  split <;> rfl
@[simp] theorem setPState_s_guests (s : State) (p : Nat) (x : PState) : (s.setPState p x).guests = s.guests := by
  unfold State.setPState
  split <;> rfl
@[simp] theorem setPState_s_notices (s : State) (p : Nat) (x : PState) : (s.setPState p x).notices = s.notices := by
  unfold State.setPState
  split <;> rfl
@[simp] theorem setPState_s_streams (s : State) (p : Nat) (x : PState) : (s.setPState p x).streams = s.streams := by
  unfold State.setPState
  split <;> rfl
@[simp] theorem setPState_s_ctr (s : State) (p : Nat) (x : PState) : (s.setPState p x).ctr = s.ctr := by
  unfold State.setPState
  split <;> rfl
@[simp] theorem setPState_s_shadow (s : State) (p : Nat) (x : PState) : (s.setPState p x).shadow = s.shadow := by
  unfold State.setPState
  split <;> rfl
@[simp] theorem setPState_s_colls (s : State) (p : Nat) (x : PState) : (s.setPState p x).colls = s.colls := by
  unfold State.setPState
  split <;> rfl
@[simp] theorem setPState_s_credits (s : State) (p : Nat) (x : PState) : (s.setPState p x).credits = s.credits := by
  unfold State.setPState
  split <;> rfl
@[simp] theorem setPState_s_fetches (s : State) (p : Nat) (x : PState) : (s.setPState p x).fetches = s.fetches := by
  unfold State.setPState
  split <;> rfl
@[simp] theorem setPState_s_xfers (s : State) (p : Nat) (x : PState) : (s.setPState p x).xfers = s.xfers := by
  unfold State.setPState
  split <;> rfl
@[simp] theorem setPState_s_pendingSrc (s : State) (p : Nat) (x : PState) : (s.setPState p x).pendingSrc = s.pendingSrc := by
  unfold State.setPState
  split <;> rfl
@[simp] theorem setPState_s_kports (s : State) (p : Nat) (x : PState) : (s.setPState p x).kports = s.kports := by
  unfold State.setPState
  split <;> rfl
@[simp] theorem setPState_s_iports (s : State) (p : Nat) (x : PState) : (s.setPState p x).iports = s.iports := by
  unfold State.setPState
  split <;> rfl
@[simp] theorem setPState_s_tfb (s : State) (p : Nat) (x : PState) : (s.setPState p x).tfb = s.tfb := by
  unfold State.setPState
  split <;> rfl
@[simp] theorem setPState_s_nor (s : State) (p : Nat) (x : PState) : (s.setPState p x).nor = s.nor := by
  unfold State.setPState
  split <;> rfl
@[simp] theorem setPState_s_update (s : State) (p : Nat) (x : PState) : (s.setPState p x).update = s.update := by
  unfold State.setPState
  split <;> rfl
@[simp] theorem setPState_s_recStage (s : State) (p : Nat) (x : PState) : (s.setPState p x).recStage = s.recStage := by
  unfold State.setPState
  split <;> rfl
@[simp] theorem setPState_s_trustStage (s : State) (p : Nat) (x : PState) : (s.setPState p x).trustStage = s.trustStage := by
  unfold State.setPState
  split <;> rfl
@[simp] theorem setPState_s_sec (s : State) (p : Nat) (x : PState) : (s.setPState p x).sec = s.sec := by
  unfold State.setPState
  split <;> rfl
@[simp] theorem setPState_s_boot (s : State) (p : Nat) (x : PState) : (s.setPState p x).boot = s.boot := by
  unfold State.setPState
  split <;> rfl
@[simp] theorem setPState_s_power (s : State) (p : Nat) (x : PState) : (s.setPState p x).power = s.power := by
  unfold State.setPState
  split <;> rfl
@[simp] theorem setPState_s_sensors (s : State) (p : Nat) (x : PState) : (s.setPState p x).sensors = s.sensors := by
  unfold State.setPState
  split <;> rfl
@[simp] theorem setPState_s_inputs (s : State) (p : Nat) (x : PState) : (s.setPState p x).inputs = s.inputs := by
  unfold State.setPState
  split <;> rfl
@[simp] theorem setPState_s_bus (s : State) (p : Nat) (x : PState) : (s.setPState p x).bus = s.bus := by
  unfold State.setPState
  split <;> rfl
@[simp] theorem setPState_s_commitWait (s : State) (p : Nat) (x : PState) : (s.setPState p x).commitWait = s.commitWait := by
  unfold State.setPState
  split <;> rfl
@[simp] theorem setPState_s_applyWait (s : State) (p : Nat) (x : PState) : (s.setPState p x).applyWait = s.applyWait := by
  unfold State.setPState
  split <;> rfl
@[simp] theorem setPState_s_free (s : State) (p : Nat) (x : PState) : (s.setPState p x).free = s.free := by
  unfold State.setPState
  split <;> rfl
@[simp] theorem site_modSite (s : State) (i : Nat) (f : Site → Site) : (s.modSite i f).site i = f (s.site i) :=
  tab_get_mod_same _ _ _ _
theorem site_modSite_other (s : State) (i j : Nat) (f : Site → Site) (h : j ≠ i) : (s.modSite i f).site j = s.site j :=
  tab_get_mod_other _ _ _ _ _ _ h
@[simp] theorem stream_modStream (s : State) (n : Nat) (f : Stream → Stream) : (s.modStream n f).stream n = f (s.stream n) :=
  tab_get_mod_same _ _ _ _
theorem stream_modStream_other (s : State) (n m : Nat) (f : Stream → Stream) (h : m ≠ n) :
    (s.modStream n f).stream m = s.stream m := tab_get_mod_other _ _ _ _ _ _ h
@[simp] theorem queue_modQueue (s : State) (k n : Nat) (f : Queue → Queue) : (s.modQueue k n f).queue k n = f (s.queue k n) :=
  tab_get_mod_same _ _ _ _
@[simp] theorem fle_modFle (s : State) (i : Nat) (f : Fle → Fle) : (s.modFle i f).fle i = f (s.fle i) :=
  tab_get_mod_same _ _ _ _
@[simp] theorem kport_modKport (s : State) (k : Nat) (f : KPort → KPort) : (s.modKport k f).kport k = f (s.kport k) :=
  tab_get_mod_same _ _ _ _
@[simp] theorem counter_count (s : State) (i j n : Nat) : (s.count i j n).counter i j = s.counter i j + n := by
  unfold State.count State.counter
  rw [tab_get_mod_same]
@[simp] theorem val_setVal (s : State) (i j : Nat) (bs : List Byte) : (s.setVal i j bs).val i j = bs := by
  unfold State.val State.setVal
  rw [tab_find_set_same]
  rfl

end Sys2Proof.Laws
end

