-- ==== Sys2Proof/Laws/Shared.lean ====
section
/-!
SUPPORT. Facts about the shared operations that many proofs cite: what the answer of a command leaves (ansK, ansE, ansF), when
an error entry is queued (raise_room, queued_settled), what a read of a part of the state sees (part_of, site_of, valNat_of),
and what the operations on partitions, lists, queues, streams and memory do.
-/

set_option linter.all false

namespace Sys2Proof.Laws.Shared

open Sys2Proof Sys2Proof.Machine Sys2Proof.Safety Sys2Proof.Laws

theorem enqueue_same (s : State) (e : ErrSpec) (n : Nat) : onlyChanges [.errq, .outs] s (s.enqueue e n) := by
  intro k hk
  unfold State.enqueue
  dsimp only
  split <;> (cases k <;> first | rfl | exact absurd (by decide) hk)

theorem enqueue_mem (s : State) (e : ErrSpec) (n : Nat) : ∃ x ∈ (s.enqueue e n).errq.entries, x.seq = s.errq.nextSeq ∧ x.status = e.status ∧ x.part = e.part ∧ x.unitKind = e.unitKind ∧
    x.unit = e.unit ∧ x.sev = severity e.status := by
  unfold State.enqueue
  dsimp only
  split <;> exact ⟨_, List.mem_append_right _ (List.mem_singleton.mpr rfl), rfl, rfl, rfl, rfl, rfl, rfl⟩

theorem admit_room {s : State} {e : ErrSpec} (h : roomFor s e) : ∃ n, s.enrol e = s.enqueue e n := by
  unfold roomFor at h
  unfold State.enrol
  by_cases c : 4 ≤ e.part ∨ severity e.status = 4
  · have c' : e.part ≥ 4 ∨ severity e.status = 4 := c
    rw [if_pos c']
    rw [if_pos c] at h
    exact ⟨1, if_pos h.2⟩
  · have c' : ¬(e.part ≥ 4 ∨ severity e.status = 4) := c
    rw [if_neg c']
    rw [if_neg c] at h
    exact ⟨0, if_pos h.2⟩

theorem send_tfb_only (s : State) (k : Nat) (l : List Nat) : onlyChanges [.outs, .tfb] s (s.tfbSend k l) :=
  (path_tfbSend (ks := [.outs, .tfb]) _ _ (by decide) (path_refl _ s)).frame

theorem raise_room {s : State} {e : ErrSpec} (h : roomFor s e) : onlyChanges [.errq, .outs, .boot, .tfb] s (s.raise e) ∧
    ∃ x ∈ (s.raise e).errq.entries, x.seq = s.errq.nextSeq ∧ x.status = e.status ∧ x.part = e.part ∧ x.unitKind = e.unitKind ∧
    x.unit = e.unit ∧ x.sev = severity e.status := by
  obtain ⟨n, hn⟩ := admit_room h
  unfold State.raise
  dsimp only
  rw [h.1, hn]
  dsimp only
  split
  · have g := send_tfb_only { s.enqueue e n with boot := { (s.enqueue e n).boot with faultOut := true } } 3
      [(s.enqueue e n).address, e.status, 1, (s.enqueue e n).address]
    refine ⟨?_, ?_⟩
    · intro k hk
      have h1 := enqueue_same s e n k (by revert hk; cases k <;> decide)
      have h2 := g k (by revert hk; cases k <;> decide)
      refine Kind.same_trans h1 (Kind.same_trans ?_ h2)
      revert hk
      cases k <;> intro hk <;> first | rfl | exact absurd (by decide) hk
    · have hq : State.errq _ = (s.enqueue e n).errq := g .errq (by decide)
      rw [hq]
      exact enqueue_mem s e n
  · refine ⟨?_, enqueue_mem s e n⟩
    intro k hk
    exact enqueue_same s e n k (by revert hk; cases k <;> decide)

theorem settle_same (s : State) (e : ErrEntry) : (s.settleErr e).seq = e.seq ∧ (s.settleErr e).status = e.status ∧ (s.settleErr e).part = e.part ∧ (s.settleErr e).unitKind = e.unitKind ∧ (s.settleErr e).unit = e.unit ∧ (s.settleErr e).sev = e.sev := by
  unfold State.settleErr
  split
  · exact ⟨rfl, rfl, rfl, rfl, rfl, rfl⟩
  · split
    · split <;> exact ⟨rfl, rfl, rfl, rfl, rfl, rfl⟩
    · exact ⟨rfl, rfl, rfl, rfl, rfl, rfl⟩

theorem queued_settled {s x : State} {e : ErrSpec} (h : ∃ y ∈ x.errq.entries, y.seq = s.errq.nextSeq ∧ y.status = e.status ∧ y.part = e.part ∧ y.unitKind = e.unitKind ∧
    y.unit = e.unit ∧ y.sev = severity e.status) (t : State) (ht : t.errq = x.settled) : queued s t e := by
  obtain ⟨y, hy, h1, h2, h3, h4, h5, h6⟩ := h
  obtain ⟨a1, a2, a3, a4, a5, a6⟩ := settle_same x y
  refine ⟨x.settleErr y, ?_, by rw [a1, h1], by rw [a2, h2], by rw [a3, h3], by rw [a4, h4], by rw [a5, h5], by rw [a6, h6]⟩
  rw [ht]; exact List.mem_map.mpr ⟨y, hy, rfl⟩

theorem serveWrite_full {s : State} {r : Req} {i j ty : Nat} {bs : List Byte} {f : State → State × Option Nat}
    (h : acceptsWrite s r i j ty bs) (hf : ∀ cs, (f (replayed s cs)).2 = some 0) :
    ∃ cs, s.serveWrite r i j ty bs f = (((f (replayed s cs)).1.commitWrite (Route.code r.route) i j bs).respond r 2 i j 0 []) := by
  obtain ⟨cs, _, e⟩ := serveWrite_done (f := f) h
  exact ⟨cs, (e (f (replayed s cs)).1 (Prod.ext rfl (hf cs)))⟩

theorem tail_same (s : State) (r : Req) (i j st : Nat) (c : Nat) (bs v : List Byte) : onlyChanges [.vals, .caddy, .log, .nor, .outs] s ((s.commitWrite c i j bs).respond r 2 i j st v) :=
  (path_respond (ks := [.vals, .caddy, .log, .nor, .outs]) _ _ _ _ _ _ (by decide) (path_commitWrite _ _ _ _ (by decide) (path_refl _ s))).frame
/-- answer keeps what x keeps -/

theorem answer_only {ks : List Kind} {s x : State} (h : onlyChanges ks s x) : ∃ t, answer s x = .next t ∧ onlyChanges (.errq :: .journal :: ks) s t := by
  refine ⟨_, rfl, ?_⟩
  intro k hk
  have := h k (fun m => hk (List.mem_cons_of_mem _ (List.mem_cons_of_mem _ m)))
  revert this hk
  cases k <;> intro hk this <;> first | exact this | rfl | exact absurd (List.mem_cons_self ..) hk |
    exact absurd (List.mem_cons_of_mem _ (List.mem_cons_self ..)) hk

theorem only_refl (ks : List Kind) (s : State) : onlyChanges ks s s := fun k _ => Kind.same_refl k s

theorem only_answer {ks : List Kind} {s x : State} (h : onlyChanges ks s x) : onlyChanges (ks ++ [.errq, .journal]) s { x with pending := s.pending, time := s.time, factory := s.factory, errq := x.settled, journal := x.journaled } := by
  intro k hk
  have := h k (fun m => hk (List.mem_append_left _ m))
  revert this hk
  cases k <;> intro hk this <;> first | exact this | rfl | exact absurd (List.mem_append_right _ (by decide)) hk

theorem only_answerTime {ks : List Kind} {s x : State} (h : onlyChanges ks s x) : onlyChanges (ks ++ [.errq, .journal]) s { x with pending := s.pending, factory := s.factory, errq := x.settled, journal := x.journaled } := by
  intro k hk
  have := h k (fun m => hk (List.mem_append_left _ m))
  revert this hk
  cases k <;> intro hk this <;> first | exact this | rfl | exact absurd (List.mem_append_right _ (by decide)) hk

theorem only_mono {ks ls : List Kind} {s t : State} (h : onlyChanges ks s t) (hk : ∀ k ∈ ks, k ∈ ls) : onlyChanges ls s t := fun k hn => h k (fun m => hn (hk k m))

theorem only_trans {ks : List Kind} {s t u : State} (h : onlyChanges ks s t) (g : onlyChanges ks t u) : onlyChanges ks s u := fun k hn => Kind.same_trans (h k hn) (g k hn)

theorem serveWrite_no {s : State} {r : Req} {i j ty st : Nat} {bs : List Byte} {f : State → State × Option Nat}
    (h : acceptsWrite s r i j ty bs) (hf : ∀ cs, f (replayed s cs) = (replayed s cs, some st)) (hn : st ≠ 0) :
    ∃ cs, s.serveWrite r i j ty bs f = (replayed s cs).respond r 2 i j st [] := by
  obtain ⟨c0, g⟩ := gate_pass h.1
  have hw : (replayed s c0).writeStatus i j ty bs = 0 := h.2
  obtain ⟨cs, ha⟩ := acceptWrite_replayed s c0 (sourceOf r) r.txn i j bs
  refine ⟨cs, ?_⟩
  unfold State.serveWrite State.serve
  rw [g]
  dsimp only
  rw [hw, ha, hf cs]
  obtain ⟨k, rfl⟩ : ∃ k, st = k + 1 := ⟨st - 1, by omega⟩
  rfl

theorem respond_same (s : State) (r : Req) (op i j st : Nat) (v : List Byte) : onlyChanges [.caddy, .outs] s (s.respond r op i j st v) :=
  (path_respond (ks := [.caddy, .outs]) _ _ _ _ _ _ (by decide) (path_refl _ s)).frame

theorem logEvent_only (s : State) (ev part route : Nat) (d : List Byte) : onlyChanges [.log] s (s.logEvent ev part route d) :=
  (path_logEvent (ks := [.log]) ev part route d (by decide) (path_refl _ s)).frame

theorem serveWrite_is {s : State} {r : Req} {i j ty : Nat} {bs : List Byte} {f : State → State × Option Nat} {g : Caddy → State}
    (h : acceptsWrite s r i j ty bs) (hf : ∀ cs, f (replayed s cs) = (g cs, some 0)) :
    ∃ cs, s.serveWrite r i j ty bs f = (((g cs).commitWrite (Route.code r.route) i j bs).respond r 2 i j 0 []) := by
  obtain ⟨cs, _, e⟩ := serveWrite_done (f := f) h
  exact ⟨cs, e _ (hf cs)⟩

theorem commit_wo {s : State} {c i j : Nat} {bs : List Byte} {d : DEntry} (hd : dictFind i j = some d) (ha : d.acc = 2) :
    onlyChanges [.log] s (s.commitWrite c i j bs) := by
  unfold State.commitWrite
  rw [hd]
  dsimp only
  rw [ha]
  simp only [if_true]
  split
  · exact (path_logWrite (ks := [.log]) _ _ _ _ _ _ (by decide) (path_refl _ s)).frame
  · exact only_refl _ _

theorem served {s : State} {r : Req} {i j ty : Nat} {bs : List Byte} {f : State → State × Option Nat} {g : Caddy → State}
    (h : acceptsWrite s r i j ty bs) (hf : ∀ cs, f (replayed s cs) = (g cs, some 0)) :
    ∃ cs t, answer s (s.serveWrite r i j ty bs f) = .next t ∧ respondedWith t r 2 i j 0 [] ∧
      onlyChanges [.pending, .time, .factory, .vals, .caddy, .log, .nor, .outs, .errq, .journal] (g cs) t := by
  obtain ⟨cs, t, e, a, k⟩ := serveWrite_answer (f := f) h (fun cs => by rw [hf cs])
  rw [hf cs] at k
  exact ⟨cs, t, e, a, k⟩

theorem served_wo {s : State} {r : Req} {i j ty : Nat} {bs : List Byte} {f : State → State × Option Nat} {g : Caddy → State}
    (d : DEntry) (hd : dictFind i j = some d) (ha : d.acc = 2)
    (h : acceptsWrite s r i j ty bs) (hf : ∀ cs, f (replayed s cs) = (g cs, some 0)) :
    ∃ cs t, answer s (s.serveWrite r i j ty bs f) = .next t ∧ respondedWith t r 2 i j 0 [] ∧
      onlyChanges [.pending, .time, .factory, .caddy, .log, .outs, .errq, .journal] (g cs) t := by
  obtain ⟨cs, e⟩ := serveWrite_is (f := f) h hf
  refine ⟨cs, _, congrArg (answer s) e, respondedWith_respond _ _ _ _ _ _ _, ?_⟩
  intro k hk
  have h1 := commit_wo (s := g cs) (c := Route.code r.route) (bs := bs) hd ha
  have h2 := respond_same ((g cs).commitWrite (Route.code r.route) i j bs) r 2 i j 0 []
  have := only_trans (only_mono h1 (ls := [.log, .caddy, .outs]) (by decide)) (only_mono h2 (by decide)) k (by revert hk; cases k <;> decide)
  revert this hk
  cases k <;> intro hk this <;> first | exact this | exact absurd (by decide) hk
/-- the same answered by answerTime -/

theorem servedTime {s : State} {r : Req} {i j ty : Nat} {bs : List Byte} {f : State → State × Option Nat} {g : Caddy → State}
    (h : acceptsWrite s r i j ty bs) (hf : ∀ cs, f (replayed s cs) = (g cs, some 0)) :
    ∃ cs t, answerTime s (s.serveWrite r i j ty bs f) = .next t ∧ respondedWith t r 2 i j 0 [] ∧
      onlyChanges [.pending, .factory, .vals, .caddy, .log, .nor, .outs, .errq, .journal] (g cs) t := by
  obtain ⟨cs, e⟩ := serveWrite_is (f := f) h hf
  refine ⟨cs, _, congrArg (answerTime s) e, respondedWith_respond _ _ _ _ _ _ _, ?_⟩
  intro k hk
  have := tail_same (g cs) r i j 0 (Route.code r.route) bs [] k (by revert hk; cases k <;> decide)
  revert this hk
  cases k <;> intro hk this <;> first | exact this | exact absurd (by decide) hk

theorem refusedTime {s : State} {r : Req} {i j ty st : Nat} {bs : List Byte} {f : State → State × Option Nat}
    (h : acceptsWrite s r i j ty bs) (hf : ∀ cs, f (replayed s cs) = (replayed s cs, some st)) (hn : st ≠ 0) :
    ∃ t, answerTime s (s.serveWrite r i j ty bs f) = .next t ∧ respondedWith t r 2 i j st [] ∧
      onlyChanges [.caddy, .outs, .errq, .journal] s t := by
  obtain ⟨cs, e⟩ := serveWrite_no (f := f) h hf hn
  refine ⟨_, congrArg (answerTime s) e, respondedWith_respond _ _ _ _ _ _ _, ?_⟩
  intro k hk
  have h2 := respond_same (replayed s cs) r 2 i j st [] k (by revert hk; cases k <;> decide)
  revert h2 hk
  cases k <;> intro hk h2 <;> first | exact h2 | rfl | exact absurd (by decide) hk

theorem writeCells_mem {s : State} {p a : Nat} {bs : List Byte} {e : Nat × Byte} (h : e ∈ s.writeCells p a bs) :
    ∃ i < bs.length, s.place p (a + i) = some e.1 ∧ e.2 = bs.getD i 0 := by
  unfold State.writeCells at h
  rw [List.mem_filterMap] at h
  obtain ⟨⟨b, i⟩, hx, h2⟩ := h
  have := List.mk_mem_zipIdx_iff_getElem?.mp hx
  have hi : i < bs.length := by
    by_contra hc
    rw [List.getElem?_eq_none (by omega)] at this
    cases this
  cases hp : s.place p (a + i) with
  | none => rw [hp] at h2; cases h2
  | some k =>
    rw [hp] at h2
    simp only [Option.map_some, Option.some.injEq] at h2
    subst h2
    refine ⟨i, hi, hp, ?_⟩
    simp [List.getD, this]

theorem writeCells_snoc (s : State) (p a : Nat) (bs : List Byte) (b : Byte) :
    s.writeCells p a (bs ++ [b]) = s.writeCells p a bs ++ ((s.place p (a + bs.length)).map (fun k => (k, b))).toList := by
  unfold State.writeCells
  rw [List.zipIdx_append, List.filterMap_append]
  congr 1
  simp only [List.zipIdx_cons, List.zipIdx_nil, Nat.zero_add]
  cases h : s.place p (a + bs.length) <;> simp [h]

theorem putAll_append (m : Mem) (w v : List (Nat × Byte)) : Mem.putAll m (w ++ v) = Mem.putAll (Mem.putAll m w) v := by
  unfold Mem.putAll; rw [List.foldl_append]

theorem cells_last (s : State) (p a : Nat) (m : Mem) (hm : m.wf = true) (bs : List Byte) : ∀ i < bs.length, ∀ k, s.place p (a + i) = some k →
    (∀ j < bs.length, i < j → s.place p (a + j) ≠ some k) → Mem.get (Mem.putAll m (s.writeCells p a bs)) k = bs.getD i 0 := by
  induction bs using List.reverseRecOn with
  | nil => intro i h; simp at h
  | append_singleton bs b ih =>
    intro i hi k hk hl
    rw [writeCells_snoc, putAll_append]
    have w := wf_putAll m (s.writeCells p a bs) hm
    by_cases e : i = bs.length
    · subst e
      rw [hk]
      simp only [Option.map_some, Option.toList_some, Mem.putAll, List.foldl]
      have g := get_put_same (Mem.putAll m (s.writeCells p a bs)) k b w
      simp only [Mem.putAll] at g
      rw [g]
      simp [List.getD]
    · have hi' : i < bs.length := by simp at hi; omega
      have := ih i hi' k hk (fun j hj hij => hl j (by simp; omega) hij)
      have e2 : (bs ++ [b]).getD i 0 = bs.getD i 0 := by simp [List.getD, List.getElem?_append_left hi']
      rw [e2, ← this]
      refine get_putAll_other _ k (fun x hx => ?_) _ w
      cases hp : s.place p (a + bs.length) with
      | none => rw [hp] at hx; simp at hx
      | some q =>
        rw [hp] at hx
        simp only [Option.map_some, Option.toList_some, List.mem_singleton] at hx
        subst hx
        intro hkq
        exact hl bs.length (by simp) hi' (by rw [hp, hkq])

theorem wr_stored (s : State) (p a : Nat) (bs : List Byte) (h : memoryCanonical s) : stored p a bs s (s.wr p a bs) := by
  refine ⟨cells_last s p a s.mem h bs, ?_⟩
  intro k hk
  refine get_putAll_other _ k (fun e he => ?_) s.mem h
  obtain ⟨i, hi, h1, _⟩ := writeCells_mem he
  rintro rfl
  exact hk i hi h1

theorem wr_only (s : State) (p a : Nat) (bs : List Byte) : onlyChanges [.mem, .hbm] s (s.wr p a bs) := by
  intro k hk
  cases k <;> first | rfl | exact absurd (by decide) hk

theorem stored_mem {p a : Nat} {bs : List Byte} {s t u : State} (h : stored p a bs s t) (e : u.mem = t.mem) : stored p a bs s u := by
  refine ⟨fun i hi k h1 h2 => by rw [e]; exact h.1 i hi k h1 h2, fun k hk => by rw [e]; exact h.2 k hk⟩
/-- stored reads only place and mem of s -/

theorem stored_from {p a : Nat} {bs : List Byte} {s u t : State} (h : stored p a bs u t) (e : u.mem = s.mem) (q : ∀ x, u.place p x = s.place p x) : stored p a bs s t := by
  refine ⟨fun i hi k h1 h2 => h.1 i hi k (by rw [q]; exact h1) (fun j hj hij => by rw [q]; exact h2 j hj hij), fun k hk => ?_⟩
  rw [← e]; exact h.2 k (fun i hi => by rw [q]; exact hk i hi)

theorem pm (s : State) (p : Nat) (f : Part → Part) : (s.modPart p f).part p = f (s.part p) := by
  unfold State.modPart State.part
  dsimp only
  rw [tab_get_mod_same]

theorem part_of_parts {s t : State} {p : Nat} (h : t.parts = s.parts) : t.part p = s.part p := by unfold State.part; rw [h]

theorem part_rings (s : State) (p : Nat) (f : Rings → Rings) : (s.modRings p f).part p = { s.part p with rings := f (s.part p).rings } := by
  unfold State.modRings; rw [pm]

theorem part_lease (s : State) (p : Nat) (f : Lease → Lease) : (s.modLease p f).part p = { s.part p with lease := f (s.part p).lease } := by
  unfold State.modLease; rw [pm]

theorem part_sync (s : State) (p q : Nat) : (s.syncHeader p).part q = s.part q :=
  part_of_parts ((path_syncHeader (ks := [.mem, .hbm]) p (by decide) (path_refl _ s)).frame .parts (by decide))

theorem part_out (s : State) (o : Out) (q : Nat) : (s.out o).part q = s.part q := rfl

theorem part_signal (s : State) (p : Nat) : (s.signalCompletions p).part p = { s.part p with rings := { (s.part p).rings with irqPending := 0 } } := by
  unfold State.signalCompletions; rw [part_out, part_rings]

theorem part_publish (s : State) (p : Nat) : ((s.publish p).part p) = if (s.part p).rings.held then
    { s.part p with rings := { (s.part p).rings with cqTail := (s.part p).rings.cqHeldTail, heldN := 0, held := false, irqPending := 0 } } else s.part p := by
  unfold State.publish
  split
  · rw [part_signal, part_sync, part_rings]
  · rfl

theorem part_arm (s : State) (p : Nat) : ∃ b, (s.armLease p).part p = { s.part p with lease := { (s.part p).lease with armed := true, state := 1, lastBeat := b, seen := s.now, seenTick := s.time.ticks, expiredAt := 0 } } := by
  unfold State.armLease
  dsimp only
  rw [part_lease]
  exact ⟨_, rfl⟩

theorem ansK {ks ls : List Kind} {s x : State} {P : State → Prop} (k : onlyChanges ks s x) (hl : ∀ a ∈ ks ++ [.errq, .journal], a ∈ ls) (hp : ∀ t, (∀ k, k ∉ ([.pending, .time, .factory, .errq, .journal] : List Kind) → k.same x t) → t.errq = x.settled → P t) :
    ∃ t, answer s x = .next t ∧ onlyChanges ls s t ∧ P t := by
  refine ⟨_, rfl, only_mono (only_answer k) hl, hp _ ?_ rfl⟩
  intro k hk
  cases k <;> first | rfl | exact absurd (by decide) hk

theorem ansE {s x : State} {P : State → Prop} (hp : ∀ t, (∀ k, k ∉ ([.pending, .time, .factory, .errq, .journal] : List Kind) → k.same x t) → t.errq = x.settled → P t) :
    ∃ t, answer s x = .next t ∧ P t := by
  refine ⟨_, rfl, hp _ ?_ rfl⟩
  intro k hk
  cases k <;> first | rfl | exact absurd (by decide) hk

theorem list_find_map (l : List ListRec) (i : Nat) (f : ListRec → ListRec) (hf : ∀ x, (f x).id = x.id) :
    (l.map (fun x => if x.id = i then f x else x)).find? (fun x => x.id == i) = (l.find? (fun x => x.id == i)).map f := by
  induction l with
  | nil => rfl
  | cons a l ih =>
    by_cases h : a.id = i
    · simp [List.find?, h, hf]
    · simp only [List.map_cons, if_neg h, List.find?]
      have : (a.id == i) = false := by simp [h]
      rw [this]
      exact ih

theorem list_modList (s : State) (p l : Nat) (f : ListRec → ListRec) (hf : ∀ x, (f x).id = x.id) :
    (s.modList p l f).list p l = (s.list p l).map f := by
  unfold State.list State.modList
  rw [part_modPart]
  exact list_find_map _ _ _ hf

theorem cmdOf_modCmd (s : State) (r : QRef) (f : CmdRec → CmdRec) : (s.modCmd r f).cmdOf r = (s.cmdOf r).map f := by
  unfold State.cmdOf State.modCmd
  rw [list_modList s r.part r.list (fun x => { x with cmds := x.cmds.mapIdx (fun i c => if i = r.index then f c else c) }) (fun _ => rfl)]
  cases s.list r.part r.list with
  | none => rfl
  | some x =>
    simp only [Option.map_some, Option.bind_some, List.getElem?_mapIdx]
    cases x.cmds[r.index]? <;> simp

theorem cmdOf_of {s t : State} (h : t.parts = s.parts) (r : QRef) : t.cmdOf r = s.cmdOf r := by
  unfold State.cmdOf State.list State.part; rw [h]

theorem queue_of {s t : State} (h : t.queues = s.queues) (k n : Nat) : t.queue k n = s.queue k n := by
  unfold State.queue; rw [h]

theorem modCmd_only (s : State) (r : QRef) (f : CmdRec → CmdRec) : onlyChanges [.parts] s (s.modCmd r f) := by
  intro k hk
  cases k <;> first | rfl | exact absurd (by decide) hk

theorem modQueue_only (s : State) (k n : Nat) (f : Queue → Queue) : onlyChanges [.queues] s (s.modQueue k n f) := by
  intro k hk
  cases k <;> first | rfl | exact absurd (by decide) hk

theorem issue_only (s : State) (k n : Nat) (r : QRef) (st : Nat) : onlyChanges [.parts, .queues] s (s.issue k n r st) :=
  only_trans (only_mono (modCmd_only s r _) (by decide)) (only_mono (modQueue_only _ k n _) (by decide))

theorem issue_cmd (s : State) (k n : Nat) (r : QRef) (st : Nat) :
    (s.issue k n r st).cmdOf r = (s.cmdOf r).map (fun c => { c with st := .issued, status := mergeStatus c.status st }) := by
  unfold State.issue
  rw [← cmdOf_modCmd]
  rfl

theorem issue_queue (s : State) (k n : Nat) (r : QRef) (st : Nat) : (s.issue k n r st).queue k n =
    { s.queue k n with running := (s.queue k n).running.filter (· != r), preempted := (s.queue k n).preempted.filter (· != r), issued := (s.queue k n).issued ++ [r] } := by
  unfold State.issue
  rw [queue_modQueue]
  rfl

theorem runs_parts {s : State} {k n : Nat} {r : QRef} {c : CmdRec} (h : runs s k n r c) : (s.queue k n).running = some r ∧ s.cmdOf r = some c ∧ s.holds k n = false := by
  obtain ⟨h, hh⟩ := h
  unfold State.running at h
  cases hq : (s.queue k n).running with
  | none => rw [hq] at h; cases h
  | some q =>
    rw [hq] at h
    simp only [Option.bind_some] at h
    cases hc : s.cmdOf q with
    | none => rw [hc] at h; cases h
    | some d =>
      rw [hc] at h
      simp only [Option.map_some, Option.some.injEq, Prod.mk.injEq] at h
      obtain ⟨rfl, rfl⟩ := h
      exact ⟨rfl, hc, hh⟩
/-- a command handed over after an effect u that leaves its record and its queue -/

theorem engine_spec {s u : State} {k n : Nat} {r : QRef} {c : CmdRec} {sel : Cmd → Bool} {f : State → QRef → CmdRec → State × Nat} {st : Nat}
    (h : runs s k n r c) (hs : sel c.cmd = true) (hf : f s r c = (u, st)) (hc : u.cmdOf r = some c) (hq : u.queue k n = s.queue k n) :
    ∃ t, answer s (s.engine k n sel f) = .next t ∧ handedOver k n r c st s t ∧ t.mem = u.mem ∧ (∀ i, t.site i = u.site i) ∧ t.free = u.free ∧
      (∀ x : Kind, x ∉ ([.pending, .time, .factory, .errq, .journal, .parts, .queues] : List Kind) → x.same u t) := by
  obtain ⟨h1, h2, h3⟩ := runs_parts h
  have e : s.engine k n sel f = u.issue k n r st := by
    unfold State.engine
    rw [h.1]
    dsimp only
    rw [hs, h3, if_pos (by decide), hf]
  rw [e]
  refine ⟨_, rfl, ⟨?_, ?_, ?_⟩, rfl, fun i => rfl, rfl, fun x hx => ?_⟩
  · show ((u.issue k n r st).queue k n).running = none
    rw [issue_queue, hq, h1]; simp
  · show ((u.issue k n r st).queue k n).issued = _
    rw [issue_queue, hq]
  · refine ⟨{ c with st := .issued, status := mergeStatus c.status st }, ?_, rfl, rfl⟩
    show (u.issue k n r st).cmdOf r = _
    rw [issue_cmd, hc]; rfl
  · have := issue_only u k n r st x (by revert hx; cases x <;> decide)
    revert hx this
    cases x <;> intro hx this <;> first | exact this | exact absurd (by decide) hx

theorem assigned_of {s t : State} (h : ∀ p < 4, (t.part p).state = (s.part p).state) : t.assigned = s.assigned := by
  unfold State.assigned partNumbers
  simp only [List.filter, h 0 (by decide), h 1 (by decide), h 2 (by decide), h 3 (by decide)]

theorem room_of {s t : State} {e : ErrSpec} (h : roomFor s e) (hq : t.errq = s.errq) (hp : ∀ p < 4, (t.part p).state = (s.part p).state) : roomFor t e := by
  unfold roomFor State.quota at *
  rw [hq, assigned_of hp]; exact h

theorem mod_state (s : State) (p q : Nat) (f : Part → Part) (h : ∀ x, (f x).state = x.state) : ((s.modPart p f).part q).state = (s.part q).state := by
  by_cases e : q = p
  · subst e; rw [part_modPart, h]
  · rw [part_modPart_other _ _ _ _ e]

theorem quota_of {s t : State} (hp : ∀ p < 4, (t.part p).state = (s.part p).state) : t.quota = s.quota := by
  unfold State.quota; rw [assigned_of hp]

theorem kinds_mono {ls : List Kind} {a b : State} (h : onlyChanges (ls ++ ([.parts, .queues] : List Kind) ++ [.errq, .journal]) a b) : onlyChanges (ls ++ [.parts, .queues, .errq, .journal]) a b :=
  only_mono h (fun k hk => by simpa [List.append_assoc] using hk)

theorem answer_engine {ls : List Kind} {s u : State} {k n : Nat} {r : QRef} {c : CmdRec} {sel : Cmd → Bool} {f : State → QRef → CmdRec → State × Nat} {st : Nat}
    (h : runs s k n r c) (hs : sel c.cmd = true) (hf : f s r c = (u, st)) (hk : onlyChanges ls s u) (hl : Kind.parts ∉ ls ∧ Kind.queues ∉ ls) :
    ∃ t, answer s (s.engine k n sel f) = .next t ∧ handedOver k n r c st s t ∧ t.mem = u.mem ∧ (∀ i, t.site i = u.site i) ∧ t.free = u.free ∧
      (∀ x : Kind, x ∉ ([.pending, .time, .factory, .errq, .journal, .parts, .queues] : List Kind) → x.same u t) ∧ onlyChanges (ls ++ [.parts, .queues, .errq, .journal]) s t ∧ t.errq = (u.issue k n r st).settled := by
  have hp : u.parts = s.parts := hk .parts hl.1
  have hq : u.queues = s.queues := hk .queues hl.2
  obtain ⟨h1, h2, h3⟩ := runs_parts h
  have e2 : s.engine k n sel f = u.issue k n r st := by
    unfold State.engine
    rw [h.1]
    dsimp only
    rw [hs, h3, if_pos (by decide), hf]
  obtain ⟨t, e, ho, hm, hs2, hfr, hx⟩ := engine_spec (n := n) (k := k) h hs hf (by rw [cmdOf_of hp, h2]) (queue_of hq k n)
  refine ⟨t, e, ho, hm, hs2, hfr, hx, ?_, ?_⟩
  · rw [e2] at e
    have e3 : t = _ := (Host.Outcome.next.inj e).symm
    rw [e3]
    exact kinds_mono (only_answer (s := s) (x := u.issue k n r st) (ks := ls ++ [.parts, .queues])
      (only_trans (only_mono hk (fun k hk => List.mem_append_left _ hk)) (only_mono (issue_only u k n r st) (fun k hk => List.mem_append_right _ hk))))
  · rw [e2] at e
    exact congrArg State.errq (Host.Outcome.next.inj e).symm

theorem put_part (s : State) (p : Nat) (e : CqEntry) (b : Bool) : ∃ g : Rings, (s.putCompletion p e b).part p = { s.part p with rings := g } ∧
    g.cqHeldTail = ((s.part p).rings.cqHeldTail + 1) % (s.part p).rings.entries ∧ g.sqHead = (s.part p).rings.sqHead := by
  unfold State.putCompletion
  dsimp only
  generalize hw : s.wr p ((s.part p).rings.cqAddr (s.part p).rings.cqHeldTail) (e.bytes (s.part p).rings.phase) = w
  have pw : w.part p = s.part p := by rw [← hw]; rfl
  clear hw
  generalize hm : w.modRings p _ = m
  have p1 : ∃ g : Rings, m.part p = { s.part p with rings := g } ∧
    g.cqHeldTail = ((s.part p).rings.cqHeldTail + 1) % (s.part p).rings.entries ∧ g.sqHead = (s.part p).rings.sqHead := by
    rw [← hm, part_rings, pw]
    exact ⟨_, rfl, rfl, rfl⟩
  clear hm
  have p2 : (m.syncHeader p).part p = m.part p := part_sync m p p
  generalize m.syncHeader p = y at p2
  obtain ⟨g, e1, e2, e3⟩ := p1
  split
  · unfold State.countCompletion
    dsimp only
    split
    · rw [part_signal, p2, e1]
      exact ⟨_, rfl, e2, e3⟩
    · rw [part_rings, p2, e1]
      exact ⟨_, rfl, e2, e3⟩
  · exact ⟨g, by rw [p2, e1], e2, e3⟩

theorem ml_part (s : State) (p l : Nat) (f : ListRec → ListRec) : (s.modList p l f).part p = { s.part p with lists := (s.part p).lists.map (fun x => if x.id = l then f x else x) } := by
  unfold State.modList; rw [pm]

theorem list_of {s t : State} {p : Nat} (h : (t.part p).lists = (s.part p).lists) (l : Nat) : t.list p l = s.list p l := by unfold State.list; rw [h]

theorem answer_part (s : State) (p : Nat) (x : ListRec) (st f : Nat) : ∃ g : Rings, (s.answerList p x st f).part p =
     { s.part p with rings := g, lists := (s.part p).lists.map (fun y => if y.id = x.id then { y with answered := true } else y) } ∧
    g.cqHeldTail = ((s.part p).rings.cqHeldTail + 1) % (s.part p).rings.entries ∧ g.sqHead = (s.part p).rings.sqHead := by
  unfold State.answerList
  rw [ml_part]
  obtain ⟨g, e1, e2, e3⟩ := put_part s p { subId := x.subId, status := st, failing := f, tStart := x.tStart.getD s.now, tEnd := s.now, done := x.ranCount, userTag := x.userTag, epoch := s.partEpoch p } x.irq
  rw [e1]
  exact ⟨g, rfl, e2, e3⟩
def shell (s : State) (p : Nat) : List ListRec := (s.part p).lists.map (fun y => { y with cmds := [] })

theorem shell_modCmd (s : State) (r : QRef) (f : CmdRec → CmdRec) : shell (s.modCmd r f) r.part = shell s r.part := by
  unfold shell State.modCmd
  rw [ml_part]
  dsimp only
  rw [List.map_map]
  congr 1
  funext y
  simp only [Function.comp]
  split <;> rfl

theorem shell_enq (s : State) (r : QRef) (c : Cmd) : shell (s.enqueueCmd r c) r.part = shell s r.part := by
  unfold State.enqueueCmd
  rw [← shell_modCmd s r (fun c => { c with st := .queued })]
  rfl

theorem shell_deal (s : State) (p : Nat) (x : ListRec) (sel : Cmd → Bool) : shell (s.dealList p x sel) p = shell s p := by
  unfold State.dealList
  split
  · rfl
  · generalize (x.cmds.take x.started).zipIdx = l
    induction l generalizing s with
    | nil => rfl
    | cons e l ih =>
      rw [List.foldl_cons, ih]
      dsimp only
      split
      · exact shell_enq s { part := p, list := x.id, index := e.2, lane := x.lane } _
      · rfl

theorem shell_list {s t : State} {p : Nat} (h : shell t p = shell s p) (l : Nat) : (t.list p l).map (fun y => { y with cmds := [] }) = (s.list p l).map (fun y => ({ y with cmds := [] } : ListRec)) := by
  have key : ∀ u : State, (u.list p l).map (fun y => ({ y with cmds := [] } : ListRec)) = (shell u p).find? (fun y => y.id == l) := by
    intro u
    unfold State.list shell
    induction (u.part p).lists with
    | nil => rfl
    | cons a r ih =>
      by_cases ha : a.id == l
      · simp [List.find?, ha]
      · simp only [List.map_cons, List.find?, ha]
        exact ih
  rw [key, key, h]

theorem noDeal (s : State) (p : Nat) (x : ListRec) (sel : Cmd → Bool) (h : ∀ c ∈ x.cmds, sel c.cmd = true → c.st ≠ .held) : s.dealList p x sel = s := by
  unfold State.dealList
  split
  · rfl
  · have : ∀ l : List (CmdRec × Nat), (∀ e ∈ l, sel e.1.cmd = true → e.1.st ≠ .held) → l.foldl (fun s e =>
      if e.1.st = .held ∧ sel e.1.cmd ∧ (s.queue e.1.cmd.kind (e.1.cmd.queueNo p)).fifo.length < queueDepth e.1.cmd.kind then
        s.enqueueCmd { part := p, list := x.id, index := e.2, lane := x.lane } e.1.cmd
      else s) s = s := by
      intro l hl
      induction l with
      | nil => rfl
      | cons e l ih =>
        rw [List.foldl_cons, if_neg (fun hc => hl e (List.mem_cons_self ..) hc.2.1 hc.1)]
        exact ih (fun e he => hl e (List.mem_cons_of_mem _ he))
    refine this _ (fun e he => ?_)
    obtain ⟨c, i⟩ := e
    have := List.fst_mem_of_mem_zipIdx he
    exact h c (List.mem_of_mem_take this)

theorem foldl_id {α β : Type} (l : List α) (s : β) (f : β → α → β) (h : ∀ a ∈ l, f s a = s) : l.foldl f s = s := by
  induction l with
  | nil => rfl
  | cons a l ih => rw [List.foldl_cons, h a (List.mem_cons_self ..)]; exact ih (fun a ha => h a (List.mem_cons_of_mem _ ha))

theorem noRefill (s : State) (k n : Nat) (h : noneHeldBack k n s) : s.refill k n = s := by
  unfold State.refill
  refine foldl_id _ _ _ (fun p hp => ?_)
  refine foldl_id _ _ _ (fun x hx => ?_)
  refine noDeal _ _ _ _ (fun c hc hs => ?_)
  simp only [Bool.and_eq_true, beq_iff_eq] at hs
  exact h p (by revert hp; unfold partNumbers; simp; omega) x hx c hc hs.1 hs.2

theorem still {s : State} {p : Nat} (h : (s.part p).state = .running) (hb : s.boundStreams p = []) : s.progress p = s := by
  have e1 : s.pumpAll p = s := by unfold State.pumpAll; rw [hb]; rfl
  have e2 : s.progressOnce p = s := by
    unfold State.progressOnce
    dsimp only
    rw [h]
    rfl
  unfold State.progress
  rw [e1, e2, e2, e2, e2]

/-- s with the site that command r of queue n of kind k works on out of its gap (R137, R138). -/
def roused (k n : Nat) (r : QRef) (c : Cmd) (held : List (List Byte)) (s : State) : State :=
  match s.workSite k n c held with
  | some i => if s.atWork n i then s else s.awaken r.part i
  | none => s

theorem roused_only (k n : Nat) (r : QRef) (c : Cmd) (held : List (List Byte)) (s : State) :
    onlyChanges [.sites, .ctr] s (roused k n r c held s) := by
  unfold roused
  split
  · split
    · exact only_refl _ _
    · exact (path_awaken (ks := [.sites, .ctr]) _ _ (by decide) (path_refl _ s)).frame
  · exact only_refl _ _

theorem awaken_resume (s : State) (p i j : Nat) : ((s.awaken p i).site j).resume = (s.site j).resume := by
  have hc : ∀ (u : State) (a b c : Nat), (u.count a b c).site j = u.site j := fun _ _ _ _ => rfl
  have hm : ∀ f : Site → Site, (∀ x, (f x).resume = x.resume) → ((s.modSite i f).site j).resume = (s.site j).resume := by
    intro f hf
    by_cases g : j = i
    · subst g; rw [site_modSite, hf]
    · rw [site_modSite_other _ _ _ _ g]
  unfold State.awaken
  split
  · exact hm _ (fun _ => rfl)
  · dsimp only
    rw [hc, hc]
    exact hm _ (fun _ => rfl)

theorem dispatch_ok {s : State} {k n : Nat} {r : QRef} {c : CmdRec} (h0 : s.cmdOf r = some c) (hr : noneHeldBack k n s)
    (h1 : (chosen k n r s).waitBroken r.part r.list c.cmd = false)
    (h2 : ((chosen k n r s).fit r.part c ((chosen k n r s).readHeld r.part c.cmd)).status = 0)
    (h3 : ((chosen k n r s).fit r.part c ((chosen k n r s).readHeld r.part c.cmd)).empty = false) :
    s.dispatch k n r = ((roused k n r c.cmd ((chosen k n r s).readHeld r.part c.cmd)
      (((chosen k n r s).recordStart k n r c.cmd ((chosen k n r s).readHeld r.part c.cmd)).modCmd r
        (fun d => { d with held := (chosen k n r s).readHeld r.part c.cmd }))).modCmd r
          (fun c => { c with st := .running })).modQueue k n (fun q => { q with running := some r }) := by
  unfold State.dispatch
  rw [h0]
  dsimp only
  have e : (s.modQueue k n (fun q => { q with fifo := q.fifo.filter (· != r), lastLane := r.lane })).refill k n =
      s.modQueue k n (fun q => { q with fifo := q.fifo.filter (· != r), lastLane := r.lane }) := noRefill _ _ _ hr
  rw [e]
  have e2 : (((s.modQueue k n (fun q => { q with fifo := q.fifo.filter (· != r), lastLane := r.lane })).traceStart
      (qKey k n) r).modList r.part r.list (fun x => { x with tStart := some (x.tStart.getD
        ((s.modQueue k n (fun q => { q with fifo := q.fifo.filter (· != r), lastLane := r.lane })).traceStart
          (qKey k n) r).now) })) = chosen k n r s := by
    have : ((s.modQueue k n (fun q => { q with fifo := q.fifo.filter (· != r), lastLane := r.lane })).traceStart
        (qKey k n) r).now = s.now := by
      unfold State.traceStart
      split <;> rfl
    rw [this]
    rfl
  rw [e2]
  generalize chosen k n r s = u at h1 h2 h3
  rw [h1, if_neg (by decide), if_neg (by rw [h2]; simp), if_neg (by rw [h2]; decide), h3, if_neg (by decide)]
  rfl

theorem record_only (s : State) (k n : Nat) (r : QRef) (c : Cmd) (h : List (List Byte)) : onlyChanges [.sites] s (s.recordStart k n r c h) :=
  (path_recordStart (ks := [.sites]) _ _ _ _ _ (by decide) (path_refl _ s)).frame

theorem chosen_only (k n : Nat) (r : QRef) (s : State) : onlyChanges [.log, .parts, .queues] s (chosen k n r s) := by
  intro x hx
  unfold chosen State.traceStart
  split <;> (cases x <;> first | rfl | exact absurd (by decide) hx)

theorem chosen_cmd (k n : Nat) (r : QRef) (s : State) : (chosen k n r s).cmdOf r = s.cmdOf r := by
  have e : ∀ u : State, u.parts = s.parts → u.cmdOf r = s.cmdOf r := fun u h => cmdOf_of h r
  unfold State.cmdOf chosen
  rw [list_modList _ _ _ (fun x => { x with tStart := some (x.tStart.getD s.now) }) (fun _ => rfl)]
  have : ((s.modQueue k n (fun q => { q with fifo := q.fifo.filter (· != r), lastLane := r.lane })).traceStart (qKey k n) r).list
      r.part r.list = s.list r.part r.list := by
    unfold State.traceStart
    split <;> rfl
  rw [this]
  cases s.list r.part r.list <;> rfl

theorem chosen_queue (k n : Nat) (r : QRef) (s : State) : (chosen k n r s).queue k n =
    { s.queue k n with fifo := (s.queue k n).fifo.filter (· != r), lastLane := r.lane } := by
  have e : (chosen k n r s).queue k n = (s.modQueue k n (fun q => { q with fifo := q.fifo.filter (· != r), lastLane := r.lane })).queue k n := by
    unfold chosen State.traceStart
    split <;> rfl
  rw [e, queue_modQueue]

theorem stop_id {s : State} {p l : Nat} (h : ∀ x, s.list p l = some x → x.ticks = []) : s.stopTicks p l = s := by
  unfold State.stopTicks
  cases hl : s.list p l with
  | none => rfl
  | some x =>
    dsimp only
    rw [if_pos]
    left; rw [h x hl]; rfl

theorem bound_of {s t : State} (h : t.streams = s.streams) (p : Nat) : t.boundStreams p = s.boundStreams p := by
  unfold State.boundStreams State.stream; rw [h]

theorem pst (s : State) (p : Nat) (x : PState) : ∃ i, (s.setPState p x).part p = { s.part p with state := x, idleTick := i } := by
  unfold State.setPState
  split
  · rename_i h; exact ⟨(s.part p).idleTick, by rw [← h]⟩
  · rw [part_out, pm]; exact ⟨_, rfl⟩

theorem stillLost {s : State} {p : Nat} (h : (s.part p).state = .hostLost) (hb : s.boundStreams p = [])
    (hr : (s.part p).runTo = .none ∨ (s.part p).runTo = .barrier (s.partEpoch p) ∧ (s.part p).lists ≠ []) : s.progress p = s := by
  have e1 : s.pumpAll p = s := by unfold State.pumpAll; rw [hb]; rfl
  have e2 : s.progressOnce p = s := by
    unfold State.progressOnce
    dsimp only
    split
    · rfl
    · rcases hr with hr | ⟨hr, hl⟩
      · rw [hr]
      · rw [hr]
        dsimp only
        have : s.barrierMet p (s.partEpoch p) = false := by
          unfold State.barrierMet
          cases hx : (s.part p).lists with
          | nil => exact absurd hx hl
          | cons a l => simp
        rw [this]; rfl
  unfold State.progress
  rw [e1, e2, e2, e2, e2]

theorem nhb_of {s t : State} {k n : Nat} (h : noneHeldBack k n s) (e : t.parts = s.parts) : noneHeldBack k n t := by
  intro p hp x hx c hc
  rw [part_of_parts e] at hx
  exact h p hp x hx c hc

theorem fle_none {s : State} {c : CmdRec} (h : c.cmd.opcode = 1) : (c.cmd.view c.held).spat = none := by
  show (if c.cmd.opcode = 2 then some (Spatial.ofBytes (c.held.getD 2 [])) else none) = none
  rw [h]; rfl

theorem dispatched {s w : State} {n : Nat} {h : QRef} {d : CmdRec} (h0 : w.cmdOf h = some d) (hn : noneHeldBack 1 n w)
    (h9 : (chosen 1 n h w).waitBroken h.part h.list d.cmd = false) (h10 : ((chosen 1 n h w).fit h.part d ((chosen 1 n h w).readHeld h.part d.cmd)).status = 0)
    (h11 : ((chosen 1 n h w).fit h.part d ((chosen 1 n h w).readHeld h.part d.cmd)).empty = false) :
    ∃ t, answer s (w.dispatch 1 n h) = .next t ∧ (t.queue 1 n).running = some h ∧ (t.queue 1 n).preempted = (w.queue 1 n).preempted ∧
      ∀ j, (t.site j).resume = (w.site j).resume := by
  rw [dispatch_ok h0 hn h9 h10 h11]
  have uq : ((chosen 1 n h w).queue 1 n).preempted = (w.queue 1 n).preempted := by
    rw [chosen_queue]
  have us : (chosen 1 n h w).sites = w.sites := chosen_only _ _ _ _ .sites (by decide)
  generalize chosen 1 n h w = u at *
  generalize u.readHeld h.part d.cmd = hh
  have ru := record_only u 1 n h d.cmd hh
  have rr : ∀ j, ((u.recordStart 1 n h d.cmd hh).site j).resume = (w.site j).resume := by
    intro j
    have e : (w.site j) = u.site j := by unfold State.site; rw [us]
    rw [e]
    unfold State.recordStart
    rw [if_neg (by decide)]
    split
    · rename_i i _
      by_cases g : j = i
      · subst g; rw [site_modSite]
      · rw [site_modSite_other _ _ _ _ g]
    · rfl
  generalize u.recordStart 1 n h d.cmd hh = v at *
  have vc := roused_only 1 n h d.cmd hh (v.modCmd h (fun d => { d with held := hh }))
  have vr : ∀ j, ((roused 1 n h d.cmd hh (v.modCmd h (fun d => { d with held := hh }))).site j).resume = (v.site j).resume := by
    intro j
    unfold roused
    split
    · rename_i i _
      split
      · rfl
      · rw [awaken_resume]; rfl
    · rfl
  generalize roused 1 n h d.cmd hh (v.modCmd h (fun d => { d with held := hh })) = z at *
  refine ansE (fun t kt _ => ⟨?_, ?_, fun j => ?_⟩)
  · rw [queue_of (kt .queues (by decide)), queue_modQueue]
  · rw [queue_of (kt .queues (by decide)), queue_modQueue, ← uq]
    show (z.queue 1 n).preempted = _
    rw [queue_of (show z.queues = v.queues from vc .queues (by decide)), queue_of (ru .queues (by decide))]
  · rw [← rr j, ← vr j]
    unfold State.site; exact congrArg (fun x => (Tab.get x {} j).resume) (kt .sites (by decide))

theorem mem_cmd {s t : State} (h : onlyChanges [.errq, .outs, .boot] s t) (r : QRef) : t.cmdOf r = s.cmdOf r := cmdOf_of (h .parts (by decide)) r

theorem site_of {s t : State} (h : t.sites = s.sites) (i : Nat) : t.site i = s.site i := by unfold State.site; rw [h]

theorem partOfRow_of {s t : State} (h1 : ∀ q, (t.part q).state = (s.part q).state) (h2 : ∀ q, (t.part q).firstRow = (s.part q).firstRow) (h3 : ∀ q, (t.part q).rows = (s.part q).rows) (r : Nat) :
    t.partOfRow r = s.partOfRow r := by
  unfold State.partOfRow
  congr 1
  funext p
  rw [h1, h2, h3]

theorem raise_errq {s : State} {e : ErrSpec} (h : roomFor s e) : (s.raise e).errq = (s.enqueue e (if 4 ≤ e.part ∨ severity e.status = 4 then 1 else 0)).errq := by
  have ha : s.enrol e = s.enqueue e (if 4 ≤ e.part ∨ severity e.status = 4 then 1 else 0) := by
    unfold roomFor at h
    unfold State.enrol
    by_cases c : 4 ≤ e.part ∨ severity e.status = 4
    · have c' : e.part ≥ 4 ∨ severity e.status = 4 := c
      rw [if_pos c', if_pos c]
      rw [if_pos c] at h
      exact if_pos h.2
    · have c' : ¬(e.part ≥ 4 ∨ severity e.status = 4) := c
      rw [if_neg c', if_neg c]
      rw [if_neg c] at h
      exact if_pos h.2
  unfold State.raise
  dsimp only
  rw [h.1, ha]
  dsimp only
  split <;> rfl

theorem site_any (s : State) (i j : Nat) (f : Site → Site) {α : Type} (g : Site → α) (h : ∀ x, g (f x) = g x) : g ((s.modSite i f).site j) = g (s.site j) := by
  by_cases e : j = i
  · subst e; rw [site_modSite, h]
  · rw [site_modSite_other _ _ _ _ e]

theorem store_mem (s : State) (p a : Nat) (bs : List Byte) : (s.store p a bs).mem = (s.wr p a bs).mem :=
  (path_countLines (ks := [.ctr]) p a bs.length ctrChWritten (by decide) (path_refl _ (s.wr p a bs))).frame .mem (by decide)

theorem store_only (s : State) (p a : Nat) (bs : List Byte) : onlyChanges [.mem, .hbm, .ctr] s (s.store p a bs) :=
  (path_store (ks := [.mem, .hbm, .ctr]) p a bs (by decide) (path_refl _ s)).frame

theorem store_stored (s : State) (p a : Nat) (bs : List Byte) (h : memoryCanonical s) : stored p a bs s (s.store p a bs) :=
  stored_mem (wr_stored s p a bs h) (store_mem s p a bs)

theorem store_canon (s : State) (p a : Nat) (bs : List Byte) (h : memoryCanonical s) : memoryCanonical (s.store p a bs) := by
  unfold memoryCanonical; rw [store_mem]; exact wf_putAll _ _ h

theorem wr_place (s : State) (p a q x : Nat) (bs : List Byte) : (s.wr p a bs).place q x = s.place q x := by
  unfold State.wr
  generalize Mem.putAll s.mem (s.writeCells p a bs) = m
  generalize markMaintained s.hbm.maintained (s.wholeBlocks p a bs.length) = h
  rfl

theorem hbm_countLines (s : State) (p a n j : Nat) : (s.countLines p a n j).hbm = s.hbm :=
  (path_countLines (ks := [.ctr]) p a n j (by decide) (path_refl _ s)).frame .hbm (by decide)

theorem place_count (s : State) (i j n q x : Nat) : (s.count i j n).place q x = s.place q x := rfl

theorem place_countLines (s : State) (p a n j q x : Nat) : (s.countLines p a n j).place q x = s.place q x := by
  unfold State.countLines
  generalize s.linePlaces p a n = l
  induction l generalizing s with
  | nil => rfl
  | cons b l ih => rw [List.foldl_cons, ih]; exact place_count _ _ _ _ _ _

theorem store_place (s : State) (p a q x : Nat) (bs : List Byte) : (s.store p a bs).place q x = s.place q x := by
  unfold State.store; rw [place_countLines, wr_place]

theorem writeCells_append (s : State) (p a : Nat) (xs ys : List Byte) : s.writeCells p a (xs ++ ys) = s.writeCells p a xs ++ s.writeCells p (a + xs.length) ys := by
  induction ys using List.reverseRecOn generalizing xs with
  | nil => simp [State.writeCells]
  | append_singleton ys y ih =>
    rw [← List.append_assoc, writeCells_snoc, ih, writeCells_snoc, List.append_assoc]
    congr 3
    rw [List.length_append]; congr 2; omega

theorem writeCells_of {s t : State} (h : ∀ q x, t.place q x = s.place q x) (p a : Nat) (bs : List Byte) : t.writeCells p a bs = s.writeCells p a bs := by
  simp only [State.writeCells, h]
/-- s places addresses by its partitions, entries, channels and sites alone -/

theorem place_of {s t : State} (h : onlyChanges [.pending, .time, .caddy, .log, .errq, .secState, .layoutGen, .queues, .spareGen, .spareTime, .fles, .mem, .guests, .notices, .streams, .ctr, .shadow, .colls, .credits, .fetches, .xfers, .pendingSrc, .kports, .iports, .tfb, .nor, .update, .recStage, .trustStage, .sec, .boot, .power, .sensors, .inputs, .bus, .commitWait, .applyWait, .outs, .free] s t) (p x : Nat) : t.place p x = s.place p x := by
  have h1 : t.parts = s.parts := h .parts (by decide)
  have h2 : t.vals = s.vals := h .vals (by decide)
  have h3 : t.hbm = s.hbm := h .hbm (by decide)
  have h4 : t.sites = s.sites := h .sites (by decide)
  have h5 : t.siteState = s.siteState := h .siteState (by decide)
  have h6 : t.factory = s.factory := h .factory (by decide)
  obtain ⟨⟩ := s
  obtain ⟨⟩ := t
  dsimp only at h1 h2 h3 h4 h5 h6
  subst h1 h2 h3 h4 h5 h6
  rfl
/-- stores one after another, each of w bytes, make one store of all -/

theorem stores_join (s : State) (p a w : Nat) (f : Nat → List Byte) (hf : ∀ i, (f i).length = w) (n : Nat) :
    (((List.range n).map (fun i => (a + i * w, f i))).foldl (fun (s : State) o => s.store p o.1 o.2) s).mem = Mem.putAll s.mem (s.writeCells p a ((List.range n).flatMap f)) ∧
    ∀ q x, (((List.range n).map (fun i => (a + i * w, f i))).foldl (fun (s : State) o => s.store p o.1 o.2) s).place q x = s.place q x := by
  induction n with
  | zero => exact ⟨by simp [State.writeCells, Mem.putAll], fun _ _ => rfl⟩
  | succ n ih =>
    rw [List.range_succ, List.map_append, List.foldl_append]
    simp only [List.map_cons, List.map_nil, List.foldl_cons, List.foldl_nil]
    have len : ((List.range n).flatMap f).length = n * w := by
      clear ih
      induction n with
      | zero => simp
      | succ n ih => rw [List.range_succ, List.flatMap_append, List.length_append, ih]; simp [hf]; ring
    refine ⟨?_, fun q x => by rw [store_place]; exact ih.2 q x⟩
    rw [store_mem, List.flatMap_append, writeCells_append, len]
    unfold State.wr
    dsimp only
    rw [ih.1, writeCells_of ih.2, putAll_append]
    simp

theorem le_len (w x : Nat) : (le w x).length = w := by
  induction w generalizing x with
  | zero => rfl
  | succ w ih => unfold le; rw [List.length_cons, ih]

theorem fold_ctr {α : Type} (l : List α) (f : State → α → State) (s : State) (h : ∀ s a, onlyChanges [.ctr] s (f s a)) : onlyChanges [.ctr] s (l.foldl f s) := by
  induction l generalizing s with
  | nil => exact only_refl _ _
  | cons a l ih => rw [List.foldl_cons]; exact only_trans (h s a) (ih _)

theorem count_only (s : State) (i j n : Nat) : onlyChanges [.ctr] s (s.count i j n) := by
  intro k hk
  cases k <;> first | rfl | exact absurd (by decide) hk

theorem rd_of {s t : State} (h : ∀ q x, t.place q x = s.place q x) (hm : t.mem = s.mem) (p a n : Nat) : t.rd p a n = s.rd p a n := by
  unfold State.rd
  simp only [h, hm]

theorem verified_only (s : State) (p : Nat) (faults : List BlockFault) (bs : List Nat) (a len : Nat) : onlyChanges [.ctr] s ((s.countVerified p faults bs).loaded p a len) :=
  (path_loaded (ks := [.ctr]) _ _ _ (by decide) (path_countVerified _ _ _ (by decide) (path_refl _ s))).frame

theorem allCtr : ∀ k ∈ ([.ctr] : List Kind), k ∈ ([.pending, .time, .caddy, .log, .errq, .secState, .layoutGen, .queues, .spareGen, .spareTime, .fles, .mem, .guests, .notices, .streams, .ctr, .shadow, .colls, .credits, .fetches, .xfers, .pendingSrc, .kports, .iports, .tfb, .nor, .update, .recStage, .trustStage, .sec, .boot, .power, .sensors, .inputs, .bus, .commitWait, .applyWait, .outs, .free] : List Kind) := by decide

theorem read_ok (s : State) (r : QRef) (a n : Nat) (faults : List BlockFault) (h : (s.readStop r.part a n faults).1 = none) :
    ∃ u, s.readVerified r a n faults = (u, s.rd r.part a n, if (s.readStop r.part a n faults).2 then 0x0103 else 0) ∧ onlyChanges [.ctr] s u := by
  unfold State.readVerified
  dsimp only
  rw [h]
  dsimp only [Option.map, Option.getD]
  generalize List.filter _ (wholeBlockAddrs a n) = bs
  have k := verified_only s r.part faults bs a n
  generalize (s.countVerified r.part faults bs).loaded r.part a n = u at *
  exact ⟨u, by rw [rd_of (place_of (only_mono k allCtr)) (k .mem (by decide))], k⟩

theorem queue_other (s : State) (k j n : Nat) (f : Queue → Queue) (h : qKey j n ≠ qKey k n) : (s.modQueue k n f).queue j n = s.queue j n :=
  tab_get_mod_other _ _ _ _ _ _ h

theorem tab_find_del_same {α : Type} (t : Tab α) (k : Nat) : Tab.find (Tab.del t k) k = none := by
  induction t with
  | nil => rfl
  | cons e r ih =>
    unfold Tab.del at ih ⊢
    rw [List.filter_cons]
    by_cases he : e.1 = k
    · rw [if_neg (by simp [he])]; exact ih
    · rw [if_pos (by simp [he])]
      unfold Tab.find
      rw [if_neg he]; exact ih

theorem ctx_parts {s : State} {q : Nat} {x : CollCtx} (h : s.collCtx q = some x) : x.q = q ∧ (s.queue 4 q).running = some x.r ∧ 1 ≤ x.op ∧ x.op ≤ 3 := by
  unfold State.collCtx at h
  cases hr : s.running 4 q with
  | none => rw [hr] at h; cases h
  | some e =>
    rw [hr] at h
    simp only [Option.bind_some] at h
    split at h
    · rename_i g
      cases h
      refine ⟨rfl, ?_, g.1, g.2⟩
      unfold State.running at hr
      cases hq : (s.queue 4 q).running with
      | none => rw [hq] at hr; cases hr
      | some r =>
        rw [hq] at hr
        cases hc : s.cmdOf r with
        | none => rw [Option.bind_some, hc] at hr; cases hr
        | some d => rw [Option.bind_some, hc] at hr; cases hr; rfl
    · cases h

theorem ctx_of {s t : State} (h1 : t.parts = s.parts) (h2 : t.queues = s.queues) (q : Nat) : t.collCtx q = s.collCtx q := by
  unfold State.collCtx State.running
  rw [queue_of h2]
  congr 2
  funext r
  rw [cmdOf_of h1]

theorem coll_of {s t : State} (h : t.colls = s.colls) (q : Nat) : t.coll q = s.coll q := by unfold State.coll; rw [h]

theorem find_map_tab {α : Type} (t : Tab α) (q z : Nat) (f : α → α) : Tab.find (t.map (fun e => (e.1, if e.1 = q then f e.2 else e.2))) z = (Tab.find t z).map (fun v => if z = q then f v else v) := by
  induction t with
  | nil => rfl
  | cons e r ih =>
    obtain ⟨j, v⟩ := e
    show Tab.find ((j, if j = q then f v else v) :: _) z = _
    unfold Tab.find
    by_cases h : j = z
    · subst h; simp
    · rw [if_neg h, if_neg h]; exact ih

theorem coll_modColl (s : State) (q : Nat) (f : CollRun → CollRun) : (s.modColl q f).coll q = (s.coll q).map f := by
  unfold State.coll State.modColl
  dsimp only
  rw [find_map_tab]
  simp

theorem coll_modColl_any (s : State) (q z : Nat) (f : CollRun → CollRun) {α : Type} (g : CollRun → α) (h : ∀ y, g (f y) = g y) : ((s.modColl q f).coll z).map g = (s.coll z).map g := by
  unfold State.coll State.modColl
  dsimp only
  rw [find_map_tab, Option.map_map]
  congr 1
  funext y
  simp only [Function.comp]
  split
  · exact h y
  · rfl

theorem modColl_only (s : State) (q : Nat) (f : CollRun → CollRun) : onlyChanges [.colls] s (s.modColl q f) := by
  intro k hk
  cases k <;> first | rfl | exact absurd (by decide) hk
def shown (y : CollRun) := (progressOf y, y.holdQ, y.late, y.sendQ)

theorem take_coll (s : State) (x : CollCtx) (z : Nat) : ((s.takeReady x).coll z).map shown = (s.coll z).map shown := by
  have b : ∀ (u : State) p, (u.beginCopies p).coll z = u.coll z := fun u p => coll_of ((path_beginCopies (ks := [.mem, .hbm]) p (by decide) (path_refl _ u)).frame .colls (by decide)) z
  have a : ∀ (u : State) p a o n, (u.addDeferred p a o x n).coll z = u.coll z := fun u p a o n => coll_of ((path_addDeferred (ks := [.mem, .hbm, .ctr, .free, .pendingSrc]) p a o x n (by decide) (path_refl _ u)).frame .colls (by decide)) z
  have f : ∀ (u : State) p i, (u.freeEntry p i).coll z = u.coll z := fun u p i => coll_of ((path_freeEntry (ks := [.mem, .hbm, .pendingSrc]) p i (by decide) (path_refl _ u)).frame .colls (by decide)) z
  unfold State.takeReady
  split
  · rfl
  · split
    · rfl
    · dsimp only
      split
      · rw [b]; exact coll_modColl_any _ _ _ _ _ (fun _ => rfl)
      · split
        · refine Eq.trans (coll_modColl_any _ _ _ _ _ ?_) ?_; · intro _; rfl
          rw [b]; exact coll_modColl_any _ _ _ _ _ (fun _ => rfl)
        · split
          · refine Eq.trans (coll_modColl_any _ _ _ _ _ ?_) ?_; · intro _; rfl
            rw [b]; exact coll_modColl_any _ _ _ _ _ (fun _ => rfl)
          · split
            · refine Eq.trans (coll_modColl_any _ _ _ _ _ ?_) ?_; · intro _; rfl
              rw [f, a, b]; exact coll_modColl_any _ _ _ _ _ (fun _ => rfl)
            · rw [b]; exact coll_modColl_any _ _ _ _ _ (fun _ => rfl)

/-- The status that a stopped collective command ends with: its run's faults count (R80, R236). -/
def collStatus (s : State) (q st : Nat) : Nat := ((s.coll q).map (fun y => mergeStatus y.status st)).getD st

theorem end_coll {s : State} {x : CollCtx} {q st : Nat} {c : CmdRec} (hx : x.q = q) (hc : s.cmdOf x.r = some c) (hr : (s.queue 4 q).running = some x.r) :
    ((s.stopColl x st).queue 4 q).running = none ∧ ((s.stopColl x st).queue 4 q).issued = (s.queue 4 q).issued ++ [x.r] ∧
    (s.stopColl x st).cmdOf x.r = some { c with st := .issued, status := mergeStatus c.status (collStatus s q st) } ∧
    (s.stopColl x st).coll q = none ∧ (s.stopColl x st).creditsOf q = 0 ∧
    onlyChanges [.mem, .hbm, .parts, .queues, .colls, .credits] s (s.stopColl x st) := by
  subst hx
  have hk : ∃ w : State, s.stopColl x st = ({ w with colls := Tab.del w.colls x.q }).issue 4 x.q x.r (collStatus s x.q st) ∧
      onlyChanges [.mem, .hbm] { s with credits := Tab.del s.credits x.q } w := by
    unfold State.stopColl State.endColl collStatus
    refine ⟨_, rfl, ?_⟩
    split
    · exact (path_recordRun (ks := [.mem, .hbm]) _ _ (by decide) (path_refl _ _)).frame
    · exact only_refl _ _
  obtain ⟨w, e, hw⟩ := hk
  have wq : w.queues = s.queues := hw .queues (by decide)
  have wp : w.parts = s.parts := hw .parts (by decide)
  have wl : w.colls = s.colls := hw .colls (by decide)
  have wc : w.credits = Tab.del s.credits x.q := hw .credits (by decide)
  rw [e]
  refine ⟨?_, ?_, ?_, ?_, ?_, ?_⟩
  · rw [issue_queue]
    show (w.queue 4 x.q).running.filter (· != x.r) = none
    rw [queue_of wq, hr]; simp
  · rw [issue_queue]
    show (w.queue 4 x.q).issued ++ [x.r] = _
    rw [queue_of wq]
  · rw [issue_cmd]
    show (w.cmdOf x.r).map _ = _
    rw [cmdOf_of wp, hc]; rfl
  · exact tab_find_del_same w.colls x.q
  · show (Tab.find w.credits x.q).getD 0 = 0
    rw [wc, tab_find_del_same]; rfl
  · refine only_trans ?_ (only_mono (issue_only _ _ _ _ _) (by decide))
    intro k hk
    have h := hw k (by revert hk; cases k <;> decide)
    revert h hk
    cases k <;> intro hk h <;> first | exact h | exact absurd (by decide) hk

theorem ended {s u v : State} {x : CollCtx} {q st : Nat} {c : CmdRec} (hu : u.collCtx q = some x) (hc : s.cmdOf x.r = some c) (hq : u.queues = s.queues) (hp : u.parts = s.parts) (e : v = u.stopColl x st) :
    ∃ t, answer s v = .next t ∧ handedOver 4 q x.r c (collStatus u q st) s t ∧ t.coll q = none ∧ t.creditsOf q = 0 ∧
      (∀ k, k ∉ ([.pending, .time, .factory, .errq, .journal, .mem, .hbm, .parts, .queues, .colls, .credits] : List Kind) → k.same u t) := by
  obtain ⟨h1, h2, h3, h4⟩ := ctx_parts hu
  obtain ⟨a, b, d, e1, e2, k⟩ := end_coll (s := u) (st := st) h1 (by rw [cmdOf_of hp]; exact hc) h2
  rw [← e] at *
  refine ansE (fun t kt _ => ⟨⟨?_, ?_, ?_⟩, ?_, ?_, fun y hy => ?_⟩)
  · rw [queue_of (kt .queues (by decide)), a]
  · rw [queue_of (kt .queues (by decide)), b, queue_of hq]
  · exact ⟨_, by rw [cmdOf_of (kt .parts (by decide)), d], rfl, rfl⟩
  · rw [coll_of (kt .colls (by decide)), e1]
  · unfold State.creditsOf; rw [show t.credits = v.credits from kt .credits (by decide)]; exact e2
  · exact Kind.same_trans (k y (by revert hy; cases y <;> decide)) (kt y (by revert hy; cases y <;> decide))

theorem foldl_same {α : Type} (l : List α) (s : State) (f : State → α → State) (h : ∀ a, f s a = s) : l.foldl f s = s := by
  induction l with
  | nil => rfl
  | cons a l ih => rw [List.foldl_cons, h]; exact ih

theorem pump_quiet {u : State} {q : Nat} {x : CollCtx} {y : CollRun} (h1 : u.collCtx q = some x) (h2 : u.coll q = some y) (h3 : u.takeReady x = u) (h4 : y.holdQ ≠ [] → u.stageStep x = u)
    (h5 : u.creditsOf q = 0) (h6 : y.owed < 8) (h7 : ¬(y.got = x.total ∧ y.sent = x.total)) : u.pumpColl q = u := by
  obtain ⟨rfl, _⟩ := ctx_parts h1
  unfold State.pumpColl
  rw [h1, h2]
  dsimp only
  rw [h3, h2]
  have e1 : (List.range (((some y).map (fun y : CollRun => y.holdQ.length)).getD 0)).foldl (fun s _ => State.stageStep s x) u = u := by
    by_cases hh : y.holdQ = []
    · dsimp only [Option.map, Option.getD]; rw [hh]; rfl
    · exact foldl_same _ _ _ (fun _ => h4 hh)
  rw [e1, h5]
  have e2 : (List.range 0).foldl (fun s _ => State.emitStep s x) u = u := rfl
  rw [e2]
  have e3 : u.dueCredits x = u := by
    unfold State.dueCredits
    rw [h2]; dsimp only
    rw [if_neg (by omega)]
  rw [e3]
  unfold State.finishColl
  rw [h2]; dsimp only
  rw [if_neg h7]

theorem take_late {u : State} {x : CollCtx} {y : CollRun} (h2 : u.coll x.q = some y) (h : y.late = true ∨ u.contribClosed x = false) : u.takeReady x = u := by
  unfold State.takeReady
  rw [h2]; dsimp only
  rw [if_pos]
  rcases h with h | h
  · exact Or.inl h
  · exact Or.inr (Or.inr (Or.inl (by rw [h]; rfl)))

theorem moduleWrite_same (s : State) (i j : Nat) (bs : List Byte) : onlyChanges [.vals, .log, .nor] s (s.moduleWrite i j bs) :=
  (path_moduleWrite (ks := [.vals, .log, .nor]) _ _ _ (by decide) (path_refl _ s)).frame

theorem begin_in {s : State} {p c : Nat} {g : Option Nat} (h : (s.part p).rcv.rollback.isSome = true) : s.beginRollback p c g = s := by
  unfold State.beginRollback; rw [if_pos h]

theorem hit_one {s : State} {p m : Nat} (hp : p < 4) (h : ∀ q < 4, q ≠ p → s.grouped q = false) (h1 : s.grouped p = true) (h2 : (s.part p).rcv.lost.contains m = false) :
    partNumbers.filter (fun p => s.grouped p && !(s.part p).rcv.lost.contains m) = [p] := by
  have a : (s.grouped p && !(s.part p).rcv.lost.contains m) = true := by rw [h1, h2]; rfl
  have b : ∀ q < 4, q ≠ p → (s.grouped q && !(s.part q).rcv.lost.contains m) = false := by
    intro q hq hn; rw [h q hq hn]; rfl
  have : p = 0 ∨ p = 1 ∨ p = 2 ∨ p = 3 := by omega
  unfold partNumbers
  rcases this with rfl | rfl | rfl | rfl
  · simp only [List.filter, a, b 1 (by omega) (by omega), b 2 (by omega) (by omega), b 3 (by omega) (by omega)]
  · simp only [List.filter, a, b 0 (by omega) (by omega), b 2 (by omega) (by omega), b 3 (by omega) (by omega)]
  · simp only [List.filter, a, b 0 (by omega) (by omega), b 1 (by omega) (by omega), b 3 (by omega) (by omega)]
  · simp only [List.filter, a, b 0 (by omega) (by omega), b 1 (by omega) (by omega), b 2 (by omega) (by omega)]

theorem hit_none {s : State} {m : Nat} (h : ∀ q < 4, s.grouped q = false) :
    partNumbers.filter (fun p => s.grouped p && !(s.part p).rcv.lost.contains m) = [] := by
  rw [List.filter_eq_nil_iff]
  intro q hq
  rw [h q (by unfold partNumbers at hq; simp at hq; omega)]; simp


theorem lost_spec {u : State} {p m : Nat} (hp : p < 4) (hq : ∀ q < 4, q ≠ p → u.grouped q = false) (h1 : u.grouped p = true) (h2 : (u.part p).rcv.lost.contains m = false) (h3 : (u.part p).rcv.rollback.isSome = true)
   (h4 : roomFor u { status := 0x7303, unitKind := 0x0D, unit := m }) : m ∈ ((u.declareLost m true).part p).rcv.lost ∧
    (u.declareLost m true).errq = (u.raise { status := 0x7303, unitKind := 0x0D, unit := m }).errq := by
  unfold State.declareLost
  dsimp only
  rw [hit_one hp hq h1 h2]
  rw [if_neg (by simp), List.foldl_cons, List.foldl_nil, if_pos rfl]
  obtain ⟨a, _⟩ := raise_room h4
  generalize hw : (u.raise { status := 0x7303, unitKind := 0x0D, unit := m }) = w at a
  have hpw : w.part p = u.part p := part_of (a .parts (by decide)) p
  have hx : (w.tfbSend 4 [m]).part p = w.part p := part_of (send_tfb_only w 4 [m] .parts (by decide)) p
  have hxe : (w.tfbSend 4 [m]).errq = w.errq := send_tfb_only w 4 [m] .errq (by decide)
  generalize w.tfbSend 4 [m] = x at hx hxe
  have hy := part_modRcv x p (fun r => { r with lost := m :: r.lost })
  have hye : (x.modRcv p (fun r => { r with lost := m :: r.lost })).errq = x.errq := rfl
  generalize x.modRcv p (fun r => { r with lost := m :: r.lost }) = y at hy hye
  have hz := moduleWrite_same y (0x3050 + 256 * p) 2 (le 1 (y.pval p 0x50 2 - 1))
  generalize y.moduleWrite (0x3050 + 256 * p) 2 (le 1 (y.pval p 0x50 2 - 1)) = z at hz
  have hzp : z.part p = y.part p := part_of (hz .parts (by decide)) p
  have hze : z.errq = y.errq := hz .errq (by decide)
  have hd := part_modRcv z p (fun r => { r with sachets := r.sachets.map (fun x => if x.holder = m then { x with tier1 := false } else x) })
  have hde : (z.dropHolder p m).errq = z.errq := rfl
  change (z.dropHolder p m).part p = _ at hd
  generalize z.dropHolder p m = d at hd hde
  have he : ∀ e : State, (e = if (d.part p).binding.module = m then d.modPart p (fun q => { q with binding := { q.binding with bound := false } }) else d) → (e.part p).rcv = (d.part p).rcv ∧ e.errq = d.errq := by
    intro e he
    subst he
    split
    · rw [part_modPart]; exact ⟨rfl, rfl⟩
    · exact ⟨rfl, rfl⟩
  have he := he _ rfl
  generalize (if (d.part p).binding.module = m then d.modPart p (fun q => { q with binding := { q.binding with bound := false } }) else d) = e at he
  have hrb : (e.part p).rcv.rollback.isSome = true := by rw [he.1, hd, hzp, hy, hx, hpw]; exact h3
  rw [begin_in hrb, ite_self]
  refine ⟨?_, ?_⟩
  · rw [he.1, hd, hzp, hy]
    exact List.mem_cons_self ..
  · rw [he.2, hde, hze, hye, hxe]


theorem kport_of {s t : State} (h : t.kports = s.kports) (k : Nat) : t.kport k = s.kport k := by unfold State.kport; rw [h]

theorem pump_none {s : State} (h : s.xfers = []) : s.pumpXfers = s := by
  have e : ∀ k, s.sendBlock k = s := by
    intro k
    unfold State.sendBlock
    rw [h]
    split <;> rfl
  unfold State.pumpXfers
  refine foldl_same _ _ _ (fun k => foldl_same _ _ _ (fun _ => e k))

theorem out_head (s : State) (o : Out) : (s.out o).outs.head? = some o := rfl

theorem out_kport (s : State) (o : Out) (k : Nat) : (s.out o).kport k = s.kport k := rfl

theorem modKport_only (s : State) (k : Nat) (f : KPort → KPort) : onlyChanges [.kports] s (s.modKport k f) :=
  (path_modKport (ks := [.kports]) k f (by decide) (path_refl _ s)).frame

theorem out_only (s : State) (o : Out) : onlyChanges [.outs] s (s.out o) := by
  intro y hy
  cases y <;> first | rfl | exact absurd (by decide) hy

theorem kdown {s w : State} {k lane : Nat} (h0 : onlyChanges [.kports] s w) (h1 : s.colls = []) (h2 : s.xfers = []) (h3 : s.fetches = [])
    (h4 : ∀ p < 4, (s.part p).bindReq = none)
    (hr : roomFor s { status := 0x6303, unitKind := 8, unit := k * 256 + lane }) :
    ∃ t, answer s (w.kettleDown k lane) = .next t ∧ (t.kport k).state = 0 ∧ (t.kport k).downSince = s.time.ticks ∧
      queued s t { status := 0x6303, unitKind := 8, unit := k * 256 + lane } := by
  obtain ⟨kr, q⟩ := raise_room (s := w) (e := { status := 0x6303, unitKind := 8, unit := k * 256 + lane }) (room_of hr (h0 .errq (by decide)) (fun p _ => by rw [part_of_parts (h0 .parts (by decide))]))
  unfold State.kettleDown
  have we : w.errq = s.errq := h0 .errq (by decide)
  generalize w.raise { status := 0x6303, unitKind := 8, unit := k * 256 + lane } = u at *
  have ku : onlyChanges [.kports, .errq, .outs, .boot, .tfb] s u := only_trans (only_mono h0 (by decide)) (only_mono kr (by decide))
  have e : u.portOff k 0 = { u.modKport k (fun x => { x with state := 0, downSince := u.time.ticks, nak := false, fails := 0, retrained := false }) with xfers := [] } := by
    unfold State.portOff
    dsimp only
    generalize (u.kport k).peer = m
    have vk := modKport_only u k (fun x => { x with state := 0, downSince := u.time.ticks, nak := false, fails := 0, retrained := false })
    generalize u.modKport k (fun x => { x with state := 0, downSince := u.time.ticks, nak := false, fails := 0, retrained := false }) = v at *
    have vc : v.colls = [] := by rw [vk .colls (by decide), ku .colls (by decide)]; exact h1
    have vx : v.xfers = [] := by rw [vk .xfers (by decide), ku .xfers (by decide)]; exact h2
    have vf : v.fetches = [] := by rw [vk .fetches (by decide), ku .fetches (by decide)]; exact h3
    have e1 : v.stopPortColls k = v := by unfold State.stopPortColls; rw [vc]; rfl
    have e2 : v.rerouteBlocks k = { v with xfers := [] } := by unfold State.rerouteBlocks; rw [vx]; rfl
    rw [e1, e2, pump_none rfl]
    unfold State.unreachable
    split
    · rfl
    · have vb : ∀ p < 4, (v.part p).bindReq = none := fun p hp => by
        rw [part_of_parts (vk .parts (by decide)), part_of_parts (ku .parts (by decide))]; exact h4 p hp
      dsimp only [List.filter, List.foldl]
      rw [foldl_id partNumbers]
      · dsimp only
        rw [vf]; rfl
      · intro p hp
        have hb : (({ v with xfers := [] } : State).part p).bindReq = none :=
          vb p (by unfold partNumbers at hp; simp at hp; omega)
        rw [if_neg]
        rw [hb]; simp
  rw [e]
  have mk := kport_modKport u k (fun x => { x with state := 0, downSince := u.time.ticks, nak := false, fails := 0, retrained := false })
  have mq := modKport_only u k (fun x => { x with state := 0, downSince := u.time.ticks, nak := false, fails := 0, retrained := false })
  generalize u.modKport k (fun x => { x with state := 0, downSince := u.time.ticks, nak := false, fails := 0, retrained := false }) = v at *
  refine ansE (fun t kt qt => ⟨?_, ?_, ?_⟩)
  · rw [kport_of (s := v) (kt .kports (by decide)), mk]
  · rw [kport_of (s := v) (kt .kports (by decide)), mk]
    show u.time.ticks = _
    rw [show u.time = s.time from ku .time (by decide)]
  · refine queued_settled (s := s) (e := { status := 0x6303, unitKind := 8, unit := k * 256 + lane }) ?_ t qt
    show ∃ y ∈ v.errq.entries, _
    rw [mq .errq (by decide), ← we]; exact q


theorem part_count (s : State) (a b c p : Nat) : (s.count a b c).part p = s.part p := rfl

theorem give {s u : State} {k n : Nat} {r : QRef} {c : CmdRec} {st : Nat} (h1 : (s.queue k n).running = some r) (h2 : s.cmdOf r = some c)
    (hc : u.cmdOf r = some c) (hq : u.queues = s.queues) {t : State} (kt : ∀ y, y ∉ ([.pending, .time, .factory, .errq, .journal] : List Kind) → y.same (u.issue k n r st) t) :
    handedOver k n r c st s t := by
  refine ⟨?_, ?_, ?_⟩
  · rw [queue_of (kt .queues (by decide)), issue_queue, queue_of hq, h1]; simp
  · rw [queue_of (kt .queues (by decide)), issue_queue, queue_of hq]
  · refine ⟨{ c with st := .issued, status := mergeStatus c.status st }, ?_, rfl, rfl⟩
    rw [cmdOf_of (kt .parts (by decide)), issue_cmd, hc]; rfl

theorem send_only (s : State) (k type p : Nat) (g : Tags) (fields : List Nat) (payload : List Byte) : onlyChanges [.kports, .outs] s (s.kettleSend k type p g fields payload) := by
  intro y hy
  cases y <;> first | rfl | exact absurd (by decide) hy

theorem send_sent (s t : State) (k type p : Nat) (g : Tags) (fields : List Nat) (payload : List Byte) (h : t.outs = (s.kettleSend k type p g fields payload).outs) : packetSent t k type p g fields payload :=
  ⟨_, _, _, _, by rw [h]; rfl⟩

theorem pump_way (s : State) (h : ∀ x ∈ s.xfers, x.source < 4) : (s.pumpXfers).xfers.map wayOf = s.xfers.map wayOf := by
  have one : ∀ (s : State) k, (∀ x ∈ s.xfers, x.source < 4) → (s.sendBlock k).xfers.map wayOf = s.xfers.map wayOf := by
    intro s k hs
    unfold State.sendBlock
    split
    · rfl
    · split
      · rfl
      · rename_i x hx
        have hx4 : x.source < 4 := hs x (List.mem_of_find?_eq_some hx)
        dsimp only
        rw [if_pos hx4]
        show ((State.xfers (State.countPlaces s [])).map _).map wayOf = _
        rw [show State.xfers (State.countPlaces s []) = s.xfers from rfl, List.map_map]
        refine List.map_congr_left (fun y hy => ?_)
        simp only [Function.comp]
        split
        · rename_i hh; subst hh; rfl
        · rfl
  have src : ∀ a b : State, a.xfers.map wayOf = b.xfers.map wayOf → (∀ x ∈ b.xfers, x.source < 4) → ∀ x ∈ a.xfers, x.source < 4 := by
    intro a b e hb x hx
    have : wayOf x ∈ b.xfers.map wayOf := e ▸ List.mem_map_of_mem hx
    obtain ⟨y, hy, he⟩ := List.mem_map.mp this
    have : y.source = x.source := congrArg Prod.fst he
    rw [← this]; exact hb y hy
  have two : ∀ (l : List Nat) (s : State) k, (∀ x ∈ s.xfers, x.source < 4) →
      (l.foldl (fun s _ => s.sendBlock k) s).xfers.map wayOf = s.xfers.map wayOf := by
    intro l
    induction l with
    | nil => intro s k _; rfl
    | cons a l ih => intro s k hs; rw [List.foldl_cons, ih _ _ (src _ _ (one s k hs) hs), one s k hs]
  have three : ∀ (l : List Nat) (s : State), (∀ x ∈ s.xfers, x.source < 4) →
      (l.foldl (fun s k => (List.range 64).foldl (fun s _ => s.sendBlock k) s) s).xfers.map wayOf = s.xfers.map wayOf := by
    intro l
    induction l with
    | nil => intro s _; rfl
    | cons a l ih => intro s hs; rw [List.foldl_cons, ih _ (src _ _ (two _ s a hs) hs), two _ s a hs]
  exact three _ s h


theorem stream_of {s t : State} (h : t.streams = s.streams) (n : Nat) : t.stream n = s.stream n := by unfold State.stream; rw [h]

theorem modStream_only (s : State) (n : Nat) (f : Stream → Stream) : onlyChanges [.streams] s (s.modStream n f) := by
  intro k hk
  cases k <;> first | rfl | exact absurd (by decide) hk

theorem takeSlots_none {s : State} {n : Nat} (h : (s.stream n).samples = []) : s.takeSlots n = s := by
  unfold State.takeSlots; rw [h]; rfl

theorem maskCorrupt_none {s : State} {n : Nat} (h : (s.stream n).samples = []) : s.maskCorrupt n = s := by
  unfold State.maskCorrupt; rw [h]; rfl

theorem takeBlocks_none {s : State} {n : Nat} (h : ∀ m ∈ (s.stream n).samples, (m.slot && m.entry.isSome) = true → m.blocks = 0) :
    s.takeBlocks n = s := by
  unfold State.takeBlocks
  dsimp only
  rw [if_pos]
  have : ∀ b ∈ ((s.stream n).samples.filter (fun m => m.slot && m.entry.isSome)).map (·.blocks), b = 0 := by
    intro b hb
    obtain ⟨m, hm, rfl⟩ := List.mem_map.mp hb
    exact h m (List.mem_filter.mp hm).1 (List.mem_filter.mp hm).2
  generalize ((s.stream n).samples.filter (fun m => m.slot && m.entry.isSome)).map (·.blocks) = l at *
  induction l with
  | nil => rfl
  | cons a l ih => rw [List.sum_cons, this a (by simp), ih (fun b hb => this b (by simp [hb]))]

theorem sendResults_zero (s : State) (n : Nat) (h : (s.stream n).resultCredits = 0 ∨ (s.stream n).rounds = none) : s.sendResults n (s.stream n).resultCredits = s := by
  rcases h with h | h
  · rw [h]; rfl
  · cases (s.stream n).resultCredits with
    | zero => rfl
    | succ k =>
      unfold State.sendResults
      have : (s.stream n).nextResult = none := by unfold Stream.nextResult; rw [h]
      rw [this]

theorem assign_none {s : State} {n : Nat} (h1 : (s.stream n).samples = []) (h2 : (s.stream n).rounds = none ∨ (s.stream n).fromPort = true) : s.assign n = s := by
  unfold State.assign
  dsimp only
  rcases h2 with h2 | h2
  · have : s.roundOpen n = false := by unfold State.roundOpen; dsimp only; rw [h2]
    rw [this, if_pos (by decide)]
  · rw [h2]
    split
    · rfl
    · rw [if_pos rfl, h1]; rfl

theorem rd_none {x : Stream} (h : x.rounds = none) : x.roundDone = false := by unfold Stream.roundDone; rw [h]
/-- a stream at rest -/

theorem once_quiet {s : State} {n : Nat} (h1 : (s.stream n).samples = []) (h2 : (s.stream n).state ≠ 3 ∨ ((s.stream n).admitsNew = true ∧ (s.stream n).roundRuns = true))
    (h3 : (s.stream n).rounds = none ∨ ((s.stream n).fromPort = true ∧ (s.stream n).resultCredits = 0 ∧ (s.stream n).roundDone = false)) : s.pumpOnce n = s := by
  have hd : (s.stream n).roundDone = false := h3.elim rd_none (fun h => h.2.2)
  have ha : ¬((s.stream n).state = 3 ∧ (!(s.stream n).admitsNew) = true) := by
    rcases h2 with h2 | h2
    · exact fun h => h2 h.1
    · rw [h2.1]; simp
  have ha' : ¬((s.stream n).state = 3 ∧ (!(s.stream n).admitsNew) = true ∧ (s.stream n).roundRuns = true) := fun h => ha ⟨h.1, h.2.1⟩
  unfold State.pumpOnce
  dsimp only
  rw [takeSlots_none h1, ite_self]
  rw [if_neg ha, assign_none h1 (h3.imp id (fun h => h.1)), takeBlocks_none (by rw [h1]; intro m hm; cases hm),
    maskCorrupt_none h1]
  rw [if_neg ha', sendResults_zero s n (h3.elim Or.inr (fun h => Or.inl h.2.1)), hd, if_neg (by decide)]
  unfold State.endClosing
  dsimp only
  rw [if_neg]
  rcases h2 with h2 | h2
  · exact fun h => h2 h.1
  · rw [h2.2]; simp

theorem pump_quiet_stream {s : State} {n : Nat} (h1 : (s.stream n).samples = []) (h2 : (s.stream n).state ≠ 3 ∨ ((s.stream n).admitsNew = true ∧ (s.stream n).roundRuns = true))
    (h3 : (s.stream n).rounds = none ∨ ((s.stream n).fromPort = true ∧ (s.stream n).resultCredits = 0 ∧ (s.stream n).roundDone = false)) : s.pump n = s := by
  unfold State.pump
  refine foldl_id _ _ _ (fun _ _ => ?_)
  split
  · rfl
  · exact once_quiet h1 h2 h3

theorem issue_streams (s : State) (k n : Nat) (r : QRef) (st m : Nat) : (s.issue k n r st).stream m = s.stream m := rfl

theorem close_stream {s : State} {n st : Nat} (h : (s.stream n).state ≠ 0) : (s.closeStream n st).stream n = {} ∧ onlyChanges [.mem, .hbm, .streams, .outs] s (s.closeStream n st) ∧
    ((s.stream n).fromPort = true → (s.closeStream n st).outs.head? = some (.ingest (s.stream n).port (s.stream n).conn 0x85 [(s.stream n).seqOut, st] [])) := by
  refine ⟨?_, (path_closeStream (ks := [.mem, .hbm, .streams, .outs]) n st (by decide) (path_refl _ s)).frame, ?_⟩
  all_goals
    unfold State.closeStream
    dsimp only
    rw [if_neg h]
  · rw [stream_of ((path_syncHeader (ks := [.mem, .hbm]) _ (by decide) (path_refl _ _)).frame .streams (by decide))]
    exact stream_modStream _ _ _
  · intro hf
    rw [show ∀ (u : State) (q : Nat), (u.syncHeader q).outs = u.outs from fun u q =>
      (path_syncHeader (ks := [.mem, .hbm]) q (by decide) (path_refl _ u)).frame .outs (by decide)]
    have : field (s.stream n).desc 5 1 = 0 := by simpa [Stream.fromPort] using hf
    rw [if_pos this]; rfl

theorem modCmd_other (s : State) (r q : QRef) (f : CmdRec → CmdRec) (h : q.part ≠ r.part ∨ q.list ≠ r.list ∨ q.index ≠ r.index) : (s.modCmd q f).cmdOf r = s.cmdOf r := by
  unfold State.cmdOf State.modCmd
  by_cases hp : q.part = r.part
  · by_cases hl : q.list = r.list
    · have hi : q.index ≠ r.index := by
        rcases h with h | h | h
        · exact absurd hp h
        · exact absurd hl h
        · exact h
      rw [hp, hl, list_modList s r.part r.list (fun x => { x with cmds := x.cmds.mapIdx (fun i c => if i = q.index then f c else c) }) (fun _ => rfl)]
      cases s.list r.part r.list with
      | none => rfl
      | some x =>
        simp only [Option.map_some, Option.bind_some, List.getElem?_mapIdx]
        cases x.cmds[r.index]? with
        | none => rfl
        | some d => simp [hi.symm]
    · have : (s.modList q.part q.list (fun x => { x with cmds := x.cmds.mapIdx (fun i c => if i = q.index then f c else c) })).list r.part r.list = s.list r.part r.list := by
        unfold State.list
        rw [hp, ml_part]
        dsimp only
        generalize (s.part r.part).lists = l
        induction l with
        | nil => rfl
        | cons a l ih =>
          simp only [List.map_cons, List.find?_cons]
          by_cases ha : a.id = q.list
          · rw [if_pos ha]
            have : (a.id == r.list) = false := by rw [ha]; simp [hl]
            dsimp only
            rw [this]; exact ih
          · rw [if_neg ha]
            split
            · rfl
            · exact ih
      rw [this]
  · have : (s.modList q.part q.list (fun x => { x with cmds := x.cmds.mapIdx (fun i c => if i = q.index then f c else c) })).list r.part r.list = s.list r.part r.list := by
      refine list_of ?_ _
      unfold State.modList
      rw [part_modPart_other _ _ _ _ (fun e => hp e.symm)]
    rw [this]

theorem issue_of (s : State) (k n : Nat) (r q : QRef) (st : Nat) (h : q.part ≠ r.part ∨ q.list ≠ r.list ∨ q.index ≠ r.index) : (s.issue k n q st).cmdOf r = s.cmdOf r :=
  modCmd_other s r q _ h

def aside (n : Nat) (s u : State) : Prop := onlyChanges [.streams] s u ∧ slotsAside (u.stream n) = slotsAside (s.stream n)

theorem aside_refl (n : Nat) (s : State) : aside n s s := ⟨only_refl _ s, rfl⟩

theorem aside_trans {n : Nat} {s t u : State} (h : aside n s t) (g : aside n t u) : aside n s u := ⟨only_trans h.1 g.1, g.2.trans h.2⟩

theorem aside_foldl {α : Type} {n : Nat} (l : List α) (f : State → α → State) (h : ∀ s a, aside n s (f s a)) (s : State) : aside n s (l.foldl f s) := by
  induction l generalizing s with
  | nil => exact aside_refl n s
  | cons a l ih => exact aside_trans (h s a) (ih _)

theorem mapIdx_slot (l : List Sample) (k : Nat) : (l.mapIdx (fun i m => if i = k then { m with slot := true } else m)).map (fun y => { y with slot := false }) = l.map (fun y => ({ y with slot := false } : Sample)) := by
  apply List.ext_getElem?
  intro i
  simp only [List.getElem?_map, List.getElem?_mapIdx]
  cases l[i]? with
  | none => rfl
  | some a =>
    simp only [Option.map_some]
    split <;> rfl

theorem takeSlots_aside (s : State) (n : Nat) : aside n s (s.takeSlots n) := by
  unfold State.takeSlots
  refine aside_foldl _ _ (fun s k => ?_) s
  dsimp only
  split
  · split
    · refine ⟨modStream_only _ _ _, ?_⟩
      rw [stream_modStream]
      unfold slotsAside
      dsimp only
      rw [mapIdx_slot]
    · exact aside_refl n s
  · exact aside_refl n s

theorem quietSamples {x y : Stream} (h : slotsAside x = slotsAside y) (g : ∀ a ∈ y.samples, a.reason = 0 ∨ a.entry = none) : ∀ a ∈ x.samples, a.reason = 0 ∨ a.entry = none := by
  intro a ha
  have e : x.samples.map (fun y => ({ y with slot := false } : Sample)) = y.samples.map (fun y => { y with slot := false }) := congrArg Stream.samples h
  have : ({ a with slot := false } : Sample) ∈ y.samples.map (fun y => ({ y with slot := false } : Sample)) := by rw [← e]; exact List.mem_map.mpr ⟨a, ha, rfl⟩
  obtain ⟨b, hb, hab⟩ := List.mem_map.mp this
  have e1 : b.reason = a.reason := (Sample.mk.inj hab).2.2.2.2.2.1
  have e2 : b.entry = a.entry := (Sample.mk.inj hab).2.2.2.2.2.2.2.1
  rw [← e1, ← e2]; exact g b hb

theorem blocksSamples {x y : Stream} (h : slotsAside x = slotsAside y) (g : ∀ a ∈ y.samples, a.blocks = 0 ∨ a.entry = none) : ∀ a ∈ x.samples, a.blocks = 0 ∨ a.entry = none := by
  intro a ha
  have e : x.samples.map (fun y => ({ y with slot := false } : Sample)) = y.samples.map (fun y => { y with slot := false }) := congrArg Stream.samples h
  have : ({ a with slot := false } : Sample) ∈ y.samples.map (fun y => ({ y with slot := false } : Sample)) := by rw [← e]; exact List.mem_map.mpr ⟨a, ha, rfl⟩
  obtain ⟨b, hb, hab⟩ := List.mem_map.mp this
  have e1 : b.blocks = a.blocks := by have := congrArg Sample.blocks hab; exact this
  have e2 : b.entry = a.entry := by have := congrArg Sample.entry hab; exact this
  rw [← e1, ← e2]; exact g b hb

theorem once_bare {s : State} {n : Nat} (h1 : (s.stream n).rounds = none) (h2 : (s.stream n).state ≠ 3) (h3 : ∀ a ∈ (s.stream n).samples, a.reason = 0 ∨ a.entry = none)
    (h4 : ∀ a ∈ (s.stream n).samples, a.blocks = 0 ∨ a.entry = none) : aside n s (s.pumpOnce n) := by
  unfold State.pumpOnce
  dsimp only
  have ha : aside n s (if (s.stream n).fromPort = true then s.takeSlots n else s) := by
    split
    · exact takeSlots_aside s n
    · exact aside_refl n s
  generalize (if (s.stream n).fromPort = true then s.takeSlots n else s) = u at *
  have ne1 : ¬((s.stream n).state = 3 ∧ (!(s.stream n).admitsNew) = true) := fun h => h2 h.1
  have ne2 : ∀ b : Bool, ¬((s.stream n).state = 3 ∧ (!(s.stream n).admitsNew) = true ∧ b = true) := fun b h => h2 h.1
  rw [if_neg ne1]
  have r1 : (u.stream n).rounds = none := (congrArg Stream.rounds ha.2).trans h1
  have r2 : (u.stream n).state ≠ 3 := fun h => h2 ((congrArg Stream.state ha.2).symm.trans h)
  have r3 := quietSamples ha.2 h3
  have r4 := blocksSamples ha.2 h4
  have e0 : u.takeBlocks n = u := takeBlocks_none (fun a ha hs => by
    rcases r4 a ha with h | h
    · exact h
    · rw [h] at hs; simp at hs)
  have e1 : u.assign n = u := by
    unfold State.assign
    dsimp only
    have : u.roundOpen n = false := by unfold State.roundOpen; dsimp only; rw [r1]
    rw [this, if_pos (by decide)]
  rw [e1, e0]
  have e2 : u.maskCorrupt n = u := by
    unfold State.maskCorrupt
    have : (u.stream n).samples.filter (fun m => m.reason != 0 && m.entry.isSome) = [] := by
      rw [List.filter_eq_nil_iff]
      intro a ha
      rcases r3 a ha with h | h
      · simp [h]
      · simp [h]
    rw [this]; rfl
  rw [e2, if_neg (ne2 _), sendResults_zero u n (Or.inr r1), rd_none r1, if_neg (by decide)]
  unfold State.endClosing
  dsimp only
  rw [if_neg (fun h => r2 h.1)]
  exact ha

theorem pump_bare {s : State} {n : Nat} (h1 : (s.stream n).rounds = none) (h2 : (s.stream n).state ≠ 3) (h3 : ∀ a ∈ (s.stream n).samples, a.reason = 0 ∨ a.entry = none)
    (h4 : ∀ a ∈ (s.stream n).samples, a.blocks = 0 ∨ a.entry = none) : aside n s (s.pump n) := by
  unfold State.pump
  generalize List.range ((s.stream n).samples.length + 2) = l
  induction l generalizing s with
  | nil => exact aside_refl n s
  | cons a l ih =>
    rw [List.foldl_cons]
    have ha : aside n s (if (s.stream n).state = 0 then s else s.pumpOnce n) := by
      split
      · exact aside_refl n s
      · exact once_bare h1 h2 h3 h4
    generalize (if (s.stream n).state = 0 then s else s.pumpOnce n) = u at *
    exact aside_trans ha (ih ((congrArg Stream.rounds ha.2).trans h1) (fun h => h2 ((congrArg Stream.state ha.2).symm.trans h)) (quietSamples ha.2 h3) (blocksSamples ha.2 h4))
/-- a frame that is taken counts at its port -/

theorem frame_taken {s : State} {m : IngestMsg} (h : frameTaken s m) : ∃ w, s.takeFrame m = (w, true) ∧ onlyChanges [.iports] s w := by
  obtain ⟨h1, h2, h3, h4⟩ := h
  unfold State.takeFrame
  rw [if_neg (by rw [h1]; simp)]
  dsimp only
  have : (m.etherType == 0x88B6 && m.fcsOk && decide (m.payload.length ≤ 4096)) = true := by simp [h2, h3, h4]
  rw [this]
  refine ⟨_, rfl, ?_⟩
  intro k hk
  cases k <;> first | rfl | exact absurd (by decide) hk

theorem onMsg {s : State} {m : IngestMsg} {n : Nat} (h : frameTaken s m) (hn : s.streamAt m.port m.conn = some n) : ∃ w, onlyChanges [.iports, .streams] s w ∧ w.stream n = { s.stream n with expectSeq := some ((m.seq + 1) % 2 ^ 32) } ∧
    (∀ f, s.onMessage m f = if ((s.stream n).expectSeq = none ∨ (s.stream n).expectSeq = some m.seq) then f w n else w.authFailure n true) ∧
    (exec (.dataMsg m) s = answer s (w.onData n m (decide ((s.stream n).expectSeq = none ∨ (s.stream n).expectSeq = some m.seq)))) := by
  obtain ⟨w, e, k⟩ := frame_taken h
  have hs : w.streamAt m.port m.conn = s.streamAt m.port m.conn := by
    unfold State.streamAt State.dieStreams
    have : ∀ n, w.stream n = s.stream n := stream_of (k .streams (by decide))
    simp only [this]
  have h2 : (w.takeSeq n m.seq).2 = decide ((s.stream n).expectSeq = none ∨ (s.stream n).expectSeq = some m.seq) := by
    unfold State.takeSeq
    dsimp only
    rw [stream_of (k .streams (by decide)) n]
    cases (s.stream n).expectSeq with
    | none => simp
    | some e =>
      by_cases h : e = m.seq
      · simp [h]
      · simp [h]
  refine ⟨(w.takeSeq n m.seq).1, ?_, ?_, fun f => ?_, ?_⟩
  · exact only_trans (only_mono k (by decide)) (only_mono (modStream_only _ _ _) (by decide))
  · unfold State.takeSeq
    dsimp only
    rw [stream_modStream, stream_of (k .streams (by decide))]
  · unfold State.onMessage
    rw [e]; dsimp only
    rw [if_neg (by decide), hs, hn]
    dsimp only
    rw [h2]
    simp only [decide_eq_true_eq]
  · show execDataMsg m s = _
    unfold execDataMsg
    rw [e]; dsimp only
    rw [if_neg (by decide), hs, hn]
    dsimp only
    rw [h2]

theorem spoil_stream (s : State) (n reason : Nat) (h : (s.stream n).samples = []) : (s.spoil n reason).stream n = s.stream n := by
  unfold State.spoil
  rw [stream_modStream, h]
  cases hx : s.stream n
  rw [hx] at h
  cases h; rfl

theorem spoil_only (s : State) (n reason : Nat) : onlyChanges [.streams] s (s.spoil n reason) := modStream_only _ _ _

theorem auth_gap {w : State} {n : Nat} (h1 : (w.stream n).encrypted = false) (h2 : (w.stream n).samples = []) (h3 : (w.stream n).rounds = none) (h4 : (w.stream n).state ≠ 3)
    (hr : roomFor w { status := 0x5103, part := (w.stream n).part, unitKind := 7, unit := n }) :
    (w.authFailure n true).stream n = w.stream n ∧ (∃ y ∈ (w.authFailure n true).errq.entries, y.seq = w.errq.nextSeq ∧ y.status = 0x5103 ∧ y.part = (w.stream n).part ∧ y.unitKind = 7 ∧ y.unit = n ∧ y.sev = severity 0x5103) ∧
    (w.authFailure n true).counter (streamIndex n) 5 = w.counter (streamIndex n) 5 + 1 := by
  unfold State.authFailure
  dsimp only
  rw [h1]
  simp only [Bool.false_eq_true, if_false, Bool.false_and, Bool.not_true, Bool.or_self, if_true]
  have ks := spoil_only w n 5
  have es := spoil_stream w n 5 h2
  generalize w.spoil n 5 = a at *
  have ea : a.errq = w.errq := ks .errq (by decide)
  obtain ⟨kr, q⟩ := raise_room (s := a) (e := { status := 0x5103, part := (w.stream n).part, unitKind := 7, unit := n }) (room_of hr ea (fun p _ => by rw [part_of_parts (ks .parts (by decide))]))
  generalize a.raise { status := 0x5103, part := (w.stream n).part, unitKind := 7, unit := n } = b at *
  have eb : b.stream n = w.stream n := (stream_of (kr .streams (by decide)) n).trans es
  have cb : b.counter (streamIndex n) 5 = w.counter (streamIndex n) 5 := by
    unfold State.counter; rw [show b.ctr = a.ctr from kr .ctr (by decide), show a.ctr = w.ctr from ks .ctr (by decide)]
  have m1 := stream_modStream (b.count (streamIndex n) 5 1) n (fun x => { x with authFailures := x.authFailures + (if x.encrypted then 1 else 0) })
  have mo := modStream_only (b.count (streamIndex n) 5 1) n (fun x => { x with authFailures := x.authFailures + (if x.encrypted then 1 else 0) })
  have cc : (b.count (streamIndex n) 5 1).counter (streamIndex n) 5 = w.counter (streamIndex n) 5 + 1 := by rw [← cb]; exact counter_count _ _ _ _
  have ce : (b.count (streamIndex n) 5 1).errq = b.errq := rfl
  have cs : (b.count (streamIndex n) 5 1).stream n = w.stream n := eb
  generalize b.count (streamIndex n) 5 1 = d at *
  generalize d.modStream n (fun x => { x with authFailures := x.authFailures + (if x.encrypted then 1 else 0) }) = g at *
  have eg : g.stream n = w.stream n := by rw [m1, cs, h1]; rfl
  rw [pump_quiet_stream (by rw [eg]; exact h2) (Or.inl (by rw [eg]; exact h4)) (Or.inl (by rw [eg]; exact h3))]
  refine ⟨eg, ?_, ?_⟩
  · rw [show g.errq = d.errq from mo .errq (by decide), ce, ← ea]; exact q
  · have : g.counter (streamIndex n) 5 = d.counter (streamIndex n) 5 := by unfold State.counter; rw [show g.ctr = d.ctr from mo .ctr (by decide)]
    rw [this]; exact cc


theorem nextFields (x : Stream) (seq : Nat) : ({ x with expectSeq := seq } : Stream).samples = x.samples := rfl


theorem place_counts (s : State) (i j n q x : Nat) : (s.count i j n).place q x = s.place q x := rfl
/-- what writing a position does -/

theorem put_spec {s : State} {n e : Nat} {m : Sample} {w : Written} {r : Rounds} {b : BEntry} (h1 : (s.stream n).rounds = some r) (h2 : r.entries[e]? = some b) (hm : memoryCanonical s)
    (hr : w.reason ≠ 0 → roomFor s { status := if w.reason = 0x0A then 0x3101 else 0x2401, part := (s.stream n).part, unitKind := 7, unit := n }) :
    let x := s.stream n
    let bad := decide (w.reason ≠ 0)
    ∃ u v, onlyChanges [.mem, .hbm, .ctr, .errq, .outs, .boot, .tfb, .streams] s (s.putPosition n e m w) ∧
          stored x.part (x.dataAddr r b.position) (if bad then zeros x.slotBytes else x.fillSlot w.data) s u ∧
          stored x.part (x.maskAddr r b.position) (maskOf x.maskBytes (if bad then 0 else w.units)) u v ∧
          stored x.part (r.maniAddr b.position) (manifest b.position m s.now (if !bad then 0 else if w.reason = 0x0A then 0x3101 else 0x2401) w.reason
            ((if bad then 1 else 0) + w.flags) (if bad then 0 else if bit b.flags 0 then b.weight else 0x3F800000)
            w.width w.height (if bad then 0 else w.units) r.j) v (s.putPosition n e m w) ∧
          (s.putPosition n e m w).stream n = { x with rounds := some { r with done := e :: r.done, masked := r.masked || bad } } ∧
          (w.reason ≠ 0 → ∃ y ∈ (s.putPosition n e m w).errq.entries, y.seq = s.errq.nextSeq ∧ y.status = (if w.reason = 0x0A then 0x3101 else 0x2401) ∧ y.part = x.part ∧ y.unitKind = 7 ∧ y.unit = n ∧ y.sev = severity (if w.reason = 0x0A then 0x3101 else 0x2401)) := by
  intro x bad
  have hx : s.stream n = x := rfl
  rw [hx] at h1 hr
  unfold State.putPosition
  dsimp only
  rw [hx, h1]
  simp only [Option.bind_some, h2, Option.map_some]
  clear_value x
  have hb : decide (w.reason ≠ 0) = bad := rfl
  rw [hb]
  clear_value bad
  have u1 := store_stored s x.part (x.dataAddr r b.position) (if bad then zeros x.slotBytes else x.fillSlot w.data) hm
  have uc := store_canon s x.part (x.dataAddr r b.position) (if bad then zeros x.slotBytes else x.fillSlot w.data) hm
  have uk := store_only s x.part (x.dataAddr r b.position) (if bad then zeros x.slotBytes else x.fillSlot w.data)
  generalize s.store x.part (x.dataAddr r b.position) (if bad then zeros x.slotBytes else x.fillSlot w.data) = u at *
  have v1 := store_stored u x.part (x.maskAddr r b.position) (maskOf x.maskBytes (if bad then 0 else w.units)) uc
  have vc := store_canon u x.part (x.maskAddr r b.position) (maskOf x.maskBytes (if bad then 0 else w.units)) uc
  have vk := store_only u x.part (x.maskAddr r b.position) (maskOf x.maskBytes (if bad then 0 else w.units))
  generalize u.store x.part (x.maskAddr r b.position) (maskOf x.maskBytes (if bad then 0 else w.units)) = v at *
  have nv : v.now = s.now := by unfold State.now; rw [show v.time = u.time from vk .time (by decide), show u.time = s.time from uk .time (by decide)]
  rw [nv]
  generalize manifest b.position m s.now _ w.reason _ _ w.width w.height _ r.j = mb
  have a1 := store_stored v x.part (r.maniAddr b.position) mb vc
  have ak := store_only v x.part (r.maniAddr b.position) mb
  generalize v.store x.part (r.maniAddr b.position) mb = a at *
  have ka : onlyChanges [.mem, .hbm, .ctr] s a := only_trans uk (only_trans vk ak)
  have fin : ∀ c : State, onlyChanges [.ctr, .errq, .outs, .boot, .tfb] a c → (w.reason ≠ 0 → ∃ y ∈ c.errq.entries, y.seq = s.errq.nextSeq ∧ y.status = (if w.reason = 0x0A then 0x3101 else 0x2401) ∧ y.part = x.part ∧ y.unitKind = 7 ∧ y.unit = n ∧ y.sev = severity (if w.reason = 0x0A then 0x3101 else 0x2401)) →
      ∃ u_1 v_1, onlyChanges [.mem, .hbm, .ctr, .errq, .outs, .boot, .tfb, .streams] s (c.modStream n (fun x => { x with rounds := x.rounds.map (fun r => { r with done := e :: r.done, masked := r.masked || bad }) })) ∧
        stored x.part (x.dataAddr r b.position) (if bad then zeros x.slotBytes else x.fillSlot w.data) s u_1 ∧
          stored x.part (x.maskAddr r b.position) (maskOf x.maskBytes (if bad then 0 else w.units)) u_1 v_1 ∧
          stored x.part (r.maniAddr b.position) mb v_1 (c.modStream n (fun x => { x with rounds := x.rounds.map (fun r => { r with done := e :: r.done, masked := r.masked || bad }) })) ∧
          (c.modStream n (fun x => { x with rounds := x.rounds.map (fun r => { r with done := e :: r.done, masked := r.masked || bad }) })).stream n = { x with rounds := some { r with done := e :: r.done, masked := r.masked || bad } } ∧
          (w.reason ≠ 0 → ∃ y ∈ (c.modStream n (fun x => { x with rounds := x.rounds.map (fun r => { r with done := e :: r.done, masked := r.masked || bad }) })).errq.entries, y.seq = s.errq.nextSeq ∧ y.status = (if w.reason = 0x0A then 0x3101 else 0x2401) ∧ y.part = x.part ∧ y.unitKind = 7 ∧ y.unit = n ∧ y.sev = severity (if w.reason = 0x0A then 0x3101 else 0x2401)) := by
    intro c kc hq
    have m1 := stream_modStream c n (fun x => { x with rounds := x.rounds.map (fun r => { r with done := e :: r.done, masked := r.masked || bad }) })
    have mk := modStream_only c n (fun x => { x with rounds := x.rounds.map (fun r => { r with done := e :: r.done, masked := r.masked || bad }) })
    generalize c.modStream n (fun x => { x with rounds := x.rounds.map (fun r => { r with done := e :: r.done, masked := r.masked || bad }) }) = d at *
    refine ⟨u, v, only_trans (only_mono ka (by decide)) (only_trans (only_mono kc (by decide)) (only_mono mk (by decide))), u1, v1, stored_mem a1 ?_, ?_, fun h => ?_⟩
    · rw [show d.mem = c.mem from mk .mem (by decide)]; exact kc .mem (by decide)
    · rw [m1, stream_of (kc .streams (by decide)), stream_of (ka .streams (by decide)), hx, h1]; rfl
    · rw [show d.errq = c.errq from mk .errq (by decide)]; exact hq h
  have ce : ∀ i j k, onlyChanges [.ctr, .errq, .outs, .boot, .tfb] a (a.count i j k) := fun i j k => only_mono (count_only a i j k) (by decide)
  cases hbad : bad with
  | false =>
    have : w.reason = 0 := by rw [hbad] at hb; simpa using hb
    rw [hbad] at fin
    exact fin _ (ce _ _ _) (fun h => absurd this h)
  | true =>
    have hne : w.reason ≠ 0 := by rw [hbad] at hb; simpa using hb
    rw [hbad] at fin
    have rm := hr hne
    simp only [Bool.not_true, Bool.false_eq_true, if_false]
    have key : ∀ (st : Nat) (d : List Byte), (if w.reason = 0x0A then 0x3101 else 0x2401) = st → ∃ c, (a.count (streamIndex n) (16 + w.reason) 1).raise { status := st, part := x.part, unitKind := 7, unit := n, detail := d } = c ∧ onlyChanges [.ctr, .errq, .outs, .boot, .tfb] a c ∧
       (∃ y ∈ c.errq.entries, y.seq = s.errq.nextSeq ∧ y.status = st ∧ y.part = x.part ∧ y.unitKind = 7 ∧ y.unit = n ∧ y.sev = severity st) := by
      intro st d hs
      rw [hs] at rm
      have k1 := count_only a (streamIndex n) (16 + w.reason) 1
      generalize a.count (streamIndex n) (16 + w.reason) 1 = g at *
      have kg : onlyChanges [.mem, .hbm, .ctr] s g := only_trans ka (only_mono k1 (by decide))
      have rm' : roomFor s { status := st, part := x.part, unitKind := 7, unit := n, detail := d } := rm
      obtain ⟨kr, q⟩ := raise_room (s := g) (e := { status := st, part := x.part, unitKind := 7, unit := n, detail := d }) (room_of rm' (kg .errq (by decide)) (fun p _ => by rw [part_of_parts (kg .parts (by decide))]))
      refine ⟨_, rfl, only_trans (only_mono k1 (by decide)) (only_mono kr (by decide)), ?_⟩
      rw [show g.errq = s.errq from kg .errq (by decide)] at q
      exact q
    by_cases h10 : w.reason = 0x0A
    · rw [if_pos h10]
      obtain ⟨c, c1, c2, c3⟩ := key 0x3101 [] (if_pos h10)
      rw [c1]
      exact fin c c2 (fun _ => by rw [if_pos h10]; exact c3)
    · rw [if_neg h10]
      obtain ⟨c, c1, c2, c3⟩ := key 0x2401 (le 4 b.position ++ le 4 m.id ++ le 8 m.pos ++ le 1 w.reason) (if_neg h10)
      rw [c1]
      exact fin c c2 (fun _ => by rw [if_neg h10]; exact c3)

theorem tell_stream (s : State) (n type arg : Nat) (bs : List Byte) : (s.tellSender n type arg bs).stream n = { s.stream n with seqOut := ((s.stream n).seqOut + 1) % 2 ^ 32 } := by
  unfold State.tellSender
  dsimp only
  rw [stream_modStream]; rfl

theorem tell_only (s : State) (n type arg : Nat) (bs : List Byte) : onlyChanges [.streams, .outs] s (s.tellSender n type arg bs) := by
  intro k hk
  cases k <;> first | rfl | exact absurd (by decide) hk

theorem tell_out (s : State) (n type arg : Nat) (bs : List Byte) : (s.tellSender n type arg bs).outs.head? = some (.ingest (s.stream n).port (s.stream n).conn type [(s.stream n).seqOut, arg] bs) := rfl

theorem credit_stream (s : State) (n : Nat) (h : 0 < (s.stream n).owed) : (s.sendCredit n).stream n = { s.stream n with credits := (s.stream n).credits + (s.stream n).owed, owed := 0, seqOut := ((s.stream n).seqOut + 1) % 2 ^ 32 } ∧
    onlyChanges [.streams, .outs] s (s.sendCredit n) ∧ (s.sendCredit n).outs.head? = some (.ingest (s.stream n).port (s.stream n).conn 0x83 [(s.stream n).seqOut, (s.stream n).owed] []) := by
  unfold State.sendCredit
  dsimp only
  rw [if_neg (by omega)]
  have a := tell_stream s n 0x83 (s.stream n).owed []
  have b := tell_only s n 0x83 (s.stream n).owed []
  have c := tell_out s n 0x83 (s.stream n).owed []
  generalize s.tellSender n 0x83 (s.stream n).owed [] = u at *
  refine ⟨?_, only_trans b (only_mono (modStream_only _ _ _) (by decide)), c⟩
  rw [stream_modStream, a]
def core6 (x : Stream) := (x.rounds, x.samples, x.state, x.desc, x.resultCredits, x.admitsNew)

theorem owe_core (s : State) (n k : Nat) : core6 ((s.owe n k).stream n) = core6 (s.stream n) ∧ onlyChanges [.streams, .outs] s (s.owe n k) := by
  unfold State.owe
  split
  · exact ⟨rfl, only_refl _ _⟩
  · dsimp only
    have a := stream_modStream s n (fun x => { x with owed := x.owed + k, owedTick := if x.owed = 0 then s.time.ticks else x.owedTick, held := x.held - k })
    have b := modStream_only s n (fun x => { x with owed := x.owed + k, owedTick := if x.owed = 0 then s.time.ticks else x.owedTick, held := x.held - k })
    generalize s.modStream n (fun x => { x with owed := x.owed + k, owedTick := if x.owed = 0 then s.time.ticks else x.owedTick, held := x.held - k }) = u at *
    split
    · rename_i h
      obtain ⟨c1, c2, _⟩ := credit_stream u n (by omega)
      refine ⟨?_, only_trans (only_mono b (by decide)) c2⟩
      rw [c1, a]; rfl
    · refine ⟨?_, only_mono b (by decide)⟩
      rw [a]; rfl

/-- two states with the same memory, read the same way -/
def alike (u v : State) : Prop := u.mem = v.mem ∧ ∀ q x, u.place q x = v.place q x

theorem alike_refl (s : State) : alike s s := ⟨rfl, fun _ _ => rfl⟩

theorem wr_alike {u v : State} (h : alike u v) (p a : Nat) (bs : List Byte) : alike (u.wr p a bs) (v.wr p a bs) := by
  refine ⟨?_, fun q x => by rw [wr_place, wr_place]; exact h.2 q x⟩
  show Mem.putAll u.mem (u.writeCells p a bs) = Mem.putAll v.mem (v.writeCells p a bs)
  rw [h.1, writeCells_of (s := v) (t := u) h.2]

theorem alike_foldl {α : Type} (l : List α) (f g : State → α → State) (h : ∀ u v a, alike u v → alike (f u a) (g v a)) {u v : State} (e : alike u v) : alike (l.foldl f u) (l.foldl g v) := by
  induction l generalizing u v with
  | nil => exact e
  | cons a l ih => exact ih (h u v a e)

theorem alike_trans {u v w : State} (h : alike u v) (g : alike v w) : alike u w := ⟨h.1.trans g.1, fun q x => (h.2 q x).trans (g.2 q x)⟩

theorem alike_of {s t : State} (h : onlyChanges [.ctr, .free] s t) : alike t s :=
  ⟨h .mem (by decide), place_of (only_mono h (by decide))⟩

theorem store_alike {u v : State} (h : alike u v) (p a : Nat) (bs : List Byte) : alike (u.store p a bs) (v.wr p a bs) := by
  refine alike_trans (v := u.wr p a bs) ?_ (wr_alike h p a bs)
  exact ⟨store_mem u p a bs, fun q x => by rw [store_place, wr_place]⟩


theorem ansF {s x : State} {P : State → Prop} (hx : x.factory = s.factory) (hp : ∀ t, (∀ k, k ∉ ([.pending, .time, .factory, .errq, .journal] : List Kind) → k.same x t) → t.errq = x.settled → t.factory = x.factory → P t) :
    ∃ t, answer s x = .next t ∧ P t := by
  refine ⟨_, rfl, hp _ ?_ rfl hx.symm⟩
  intro k hk
  cases k <;> first | rfl | exact absurd (by decide) hk

theorem val_set (s : State) (i j : Nat) (bs : List Byte) : (s.setVal i j bs).val i j = bs := by
  unfold State.val State.setVal; dsimp only; rw [tab_find_set_same]; rfl

theorem val_set_other (s : State) (i j k : Nat) (bs : List Byte) (h : j ≠ k) (hj : j < 256) (hk : k < 256) : (s.setVal i j bs).val i k = s.val i k := by
  unfold State.val State.setVal; dsimp only; rw [tab_find_set_other _ _ _ _ (by omega)]

theorem val_of {s t : State} (h : t.vals = s.vals) (hf : t.factory = s.factory) (i j : Nat) : t.val i j = s.val i j := by
  unfold State.val; rw [h, hf]
/-- what a stop leaves of a partition -/
def gone (s t : State) (p : Nat) : Prop := (∀ q, q ≠ p → t.part q = s.part q) ∧ (t.part p).state = (s.part p).state ∧ (t.part p).rcv = (s.part p).rcv

theorem gone_trans {s t u : State} {p : Nat} (h : gone s t p) (g : gone t u p) : gone s u p :=
  ⟨fun q hq => (g.1 q hq).trans (h.1 q hq), g.2.1.trans h.2.1, g.2.2.trans h.2.2⟩

theorem gone_refl (s : State) (p : Nat) : gone s s p := ⟨fun _ _ => rfl, rfl, rfl⟩

theorem gone_mod (s : State) (p : Nat) (f : Machine.Part → Machine.Part) (h : ∀ q, (f q).state = q.state ∧ (f q).rcv = q.rcv) : gone s (s.modPart p f) p :=
  ⟨fun _ hq => part_modPart_other _ _ _ _ hq, by rw [part_modPart]; exact (h _).1, by rw [part_modPart]; exact (h _).2⟩

theorem gone_of {s t : State} (p : Nat) (h : t.parts = s.parts) : gone s t p := ⟨fun q _ => part_of h q, by rw [part_of h], by rw [part_of h]⟩

theorem gone_out (s : State) (p : Nat) (o : Out) : gone s (s.out o) p := gone_of p rfl

theorem gone_sync (s : State) (p : Nat) : gone s (s.syncHeader p) p := ⟨fun q _ => part_sync s p q, by rw [part_sync], by rw [part_sync]⟩

theorem gone_signal (s : State) (p : Nat) : gone s (s.signalCompletions p) p := by
  unfold State.signalCompletions
  have h : gone s (s.modRings p (fun r => { r with irqPending := 0 })) p := gone_mod s p _ (fun _ => ⟨rfl, rfl⟩)
  exact gone_trans h (gone_out _ p _)

theorem gone_countc (s : State) (p : Nat) : gone s (s.countCompletion p) p := by
  unfold State.countCompletion
  dsimp only
  split
  · exact gone_signal s p
  · exact gone_mod s p _ (fun _ => ⟨rfl, rfl⟩)

theorem gone_put (s : State) (p : Nat) (e : CqEntry) (b : Bool) : gone s (s.putCompletion p e b) p := by
  unfold State.putCompletion
  extract_lets r s1 t0 s2 s3
  have h1 : gone s s1 p := gone_of p (wr_only _ _ _ _ .parts (by decide))
  have h2 : gone s s2 p := gone_trans h1 (gone_mod s1 p _ (fun _ => ⟨rfl, rfl⟩))
  have h3 : gone s s3 p := gone_trans h2 (gone_sync s2 p)
  split
  · exact gone_trans h3 (gone_countc _ p)
  · exact h3

theorem gone_answer (s : State) (p : Nat) (x : ListRec) (st f : Nat) : gone s (s.answerList p x st f) p := by
  unfold State.answerList
  exact gone_trans (gone_put _ p _ _) (gone_mod _ p _ (fun _ => ⟨rfl, rfl⟩))

theorem gone_foldl {α : Type} (p : Nat) (l : List α) (f : State → α → State) (h : ∀ s a, gone s (f s a) p) (s : State) : gone s (l.foldl f s) p := by
  induction l generalizing s with
  | nil => exact gone_refl s p
  | cons a l ih => exact gone_trans (h s a) (ih _)

theorem stop_lists (s : State) (p st : Nat) : gone s (s.stopLists p st) p ∧ ((s.stopLists p st).part p).lists = [] := by
  unfold State.stopLists
  extract_lets s0 s1 s2
  have h0 : gone s s0 p := gone_foldl p _ _ (fun s x => gone_of p ((path_recordRun (ks := [.mem, .hbm]) _ _ (by decide) (path_refl _ s)).frame .parts (by decide))) s
  have h1 : gone s s1 p := gone_trans h0 (gone_foldl p _ _ (fun s x => by split; exacts [gone_refl s p, gone_answer s p _ _ _]) s0)
  have h2 : gone s s2 p := gone_trans h1 (gone_mod s1 p _ (fun _ => ⟨rfl, rfl⟩))
  refine ⟨gone_trans h2 (gone_of p rfl), ?_⟩
  have : (s2.part p).lists = [] := congrArg Machine.Part.lists (part_modPart s1 p _)
  exact this

theorem abandon_part (s : State) (p : Nat) : (s.abandonSachet p).part p = { s.part p with rcv := { (s.part p).rcv with capture := none, dirty := (s.part p).rcv.dirty || (s.part p).rcv.capture.isSome } } ∧ ∀ q, q ≠ p → (s.abandonSachet p).part q = s.part q := by
  unfold State.abandonSachet
  split
  · rename_i h
    refine ⟨?_, fun _ _ => rfl⟩
    have : { (s.part p).rcv with capture := none, dirty := (s.part p).rcv.dirty || (s.part p).rcv.capture.isSome } = (s.part p).rcv := by
      have : ((s.part p).rcv.dirty || (s.part p).rcv.capture.isSome) = (s.part p).rcv.dirty := by rw [h]; simp
      rw [this, ← h]
    rw [this]
  · rename_i c h
    refine ⟨?_, fun q hq => ?_⟩
    · rw [part_count, part_modRcv]
      have : ((s.part p).rcv.dirty || (s.part p).rcv.capture.isSome) = true := by rw [h]; simp
      rw [this]; rfl
    · rw [part_count]; exact part_modPart_other _ _ _ _ hq

/-- what a partition's recovery state is after its work is stopped -/
def halted (r : Recovery) : Recovery :=
  { r with rollback := none, startRestore := none, force := false, capture := none, dirty := r.dirty || r.capture.isSome }

theorem stop_work (s : State) (p st : Nat) : (∀ q, ((s.stopWork p st).part q).state = (s.part q).state) ∧ ((s.stopWork p st).part p).lists = [] ∧
    ((s.stopWork p st).part p).rcv = halted (s.part p).rcv ∧ (s.stopWork p st).errq = s.errq ∧ (s.stopWork p st).time = s.time := by
  have k := (path_stopWork (ks := [.parts, .queues, .sites, .mem, .hbm, .streams, .ctr, .colls, .credits, .fetches, .xfers, .outs, .free]) p st (by decide) (path_refl _ s)).frame
  have ke : (s.stopWork p st).errq = s.errq := k .errq (by decide)
  have kt : (s.stopWork p st).time = s.time := k .time (by decide)
  clear k
  refine (fun h => ⟨h.1, h.2.1, h.2.2, ke, kt⟩) (?_ : (∀ q, ((s.stopWork p st).part q).state = (s.part q).state) ∧ ((s.stopWork p st).part p).lists = [] ∧
    ((s.stopWork p st).part p).rcv = halted (s.part p).rcv)
  clear ke kt
  unfold State.stopWork
  have h0 : onlyChanges [.mem, .free, .sites, .ctr] s ((s.loseOutputs p).preemptAll p) :=
    (path_preemptAll (ks := [.mem, .free, .sites, .ctr]) p (by decide) (path_loseOutputs p (by decide) (path_refl _ s))).frame
  generalize (s.loseOutputs p).preemptAll p = s0 at *
  extract_lets z s1 s2 s3
  have h1 : s1.parts = s.parts := by
    have : ∀ (l : List Nat) (f : State → Nat → Bool) (g : State → Nat → Site → Site) (u : State),
        (l.foldl (fun s i => if f s i then s else s.modSite i (g s i)) u).parts = u.parts := by
      intro l f g
      induction l with
      | nil => intro u; rfl
      | cons a l ih => intro u; rw [List.foldl_cons, ih]; split <;> rfl
    exact (this _ (fun s i => (s.site i).retained.isNone && (s.site i).sinceFence.isEmpty) (fun _ _ x =>
      { x with retained := none, record := { mode := x.mode }, sinceFence := [], nonRepeat := false }) _).trans (h0 .parts (by decide))
  have h2 := part_modRings s1 p (fun r => { r with consuming := false })
  have h3 : s3.part p = _ := part_modRcv s2 p (fun r => { r with rollback := none, startRestore := none, force := false })
  have o3 : ∀ q, q ≠ p → s3.part q = s.part q := fun q hq => (part_modPart_other _ _ _ _ hq).trans ((part_modPart_other _ _ _ _ hq).trans (part_of h1 q))
  have h3 : s3.part p = { s.part p with rings := { (s.part p).rings with consuming := false }, rcv := { (s.part p).rcv with rollback := none, startRestore := none, force := false } } := by
    rw [h3, show s2.part p = _ from h2, part_of h1 p]
  clear_value s3
  obtain ⟨g4, l4⟩ := stop_lists s3 p st
  generalize s3.stopLists p st = s4 at *
  have k5 : onlyChanges [.mem, .hbm, .streams, .outs] s4 (s4.closeStreams p st) := (path_closeStreams (ks := [.mem, .hbm, .streams, .outs]) p st (by decide) (path_refl _ s4)).frame
  generalize s4.closeStreams p st = s5 at *
  obtain ⟨a6, o6⟩ := abandon_part s5 p
  generalize s5.abandonSachet p = s6 at *
  rw [part_of (k5 .parts (by decide)) p] at a6
  refine ⟨fun q => ?_, ?_, ?_⟩
  · by_cases hq : q = p
    · rw [hq, a6, g4.2.1, h3]
    · rw [o6 q hq, part_of (k5 .parts (by decide)) q, g4.1 q hq, o3 q hq]
  · rw [a6]; exact l4
  · rw [a6, g4.2.2, h3]; rfl

theorem phase_done (s : State) (p : Nat) : onlyChanges [.ctr] s (s.phaseDone p) := (path_phaseDone (ks := [.ctr]) p (by decide) (path_refl _ s)).frame

theorem start_scrub {s : State} {p : Nat} {c : Reclaim} (h : (s.part p).rcv.reclaim = some c) : ((s.startScrub p).part p).lists = [] ∧ ((s.startScrub p).part p).after = some .handover ∧
     ((s.startScrub p).part p).rcv.capture = none ∧ ((s.startScrub p).part p).rcv.reclaim = some { c with phase := 2, phaseStart := s.time.ticks } ∧ (s.startScrub p).errq = s.errq := by
  unfold State.startScrub
  obtain ⟨w1, w2, w3, w4, w5⟩ := stop_work s p 0x1107
  generalize s.stopWork p 0x1107 = u at *
  have k := phase_done u p
  generalize u.phaseDone p = v at *
  extract_lets v0 x
  have hx : x.part p = _ := part_modPart v p (fun q => { q with runTo := .none, after := some .handover, scrubTick := v.time.ticks })
  have ht : x.time.ticks = s.time.ticks := by
    have a : x.time = v.time := rfl
    have b : v.time = u.time := k .time (by decide)
    rw [a, b, w5]
  rw [part_of (k .parts (by decide)) p] at hx
  have he : x.errq = s.errq := by
    have a : x.errq = v.errq := rfl
    have b : v.errq = u.errq := k .errq (by decide)
    rw [a, b, w4]
  clear_value x
  rw [part_modRcv, hx, ht]
  refine ⟨w2, rfl, ?_, ?_, he⟩
  · dsimp only; rw [w3]; rfl
  · dsimp only; rw [w3]; unfold halted; dsimp only; rw [h]; rfl

theorem grouped_of {s t : State} (h : t.parts = s.parts) (p : Nat) : t.grouped p = s.grouped p := by unfold State.grouped; rw [part_of h]

theorem settled_next (x : State) : x.settled.nextSeq = x.errq.nextSeq := rfl

theorem members_of {s t : State} (h : t.parts = s.parts) (hv : t.vals = s.vals) (hf : t.factory = s.factory) (g : Nat) : t.members g = s.members g := by
  unfold State.members State.grouped State.group State.pval State.valNat State.val
  simp only [part_of h, hv, hf]

theorem reclaim_run {u : State} {p : Nat} (h1 : (u.part p).state = .running) (h2 : (u.part p).mode = 0)
    (h3 : (u.part p).rcv.rollback = none) (h4 : (u.part p).rcv.capture = none) :
    ((u.reclaim p true).part p).state = .reclaiming ∧ ((u.reclaim p true).part p).rings.consuming = false ∧
      ((u.reclaim p true).part p).rcv.reclaim = some { t0 := u.time.ticks, phaseStart := u.time.ticks } := by
  have hm : u.modeOf p = 0 := by unfold State.modeOf; rw [h1]; exact h2
  unfold State.reclaim
  dsimp only
  rw [if_neg (by rw [h1, hm]; decide), if_neg (by rw [h1]; decide), if_neg (c := _ = PState.scrubbing) (by rw [h1]; decide), h3, h4,
    if_neg (by decide), if_neg (by decide), if_neg (c := _ = PState.idle) (by rw [h1]; decide), if_neg (by rw [h1]; rintro ⟨h, _⟩; cases h)]
  rw [part_setRunTo]
  dsimp only
  rw [setPState_state, setPState_rings, setPState_rcv]
  unfold State.disarm
  rw [part_modLease]
  dsimp only
  have ht : ∀ (v : State) (c : Bool) (l : List Nat), (if c = true then v.tfbSend 7 l else v).part p = v.part p := by
    intro v c l; split <;> rfl
  rw [ht, part_publish]
  split
  all_goals
    rw [part_modRings, part_modRcv]
    exact ⟨rfl, rfl, rfl⟩


theorem modErr_only (s : State) (f : List ErrEntry → List ErrEntry) : onlyChanges [.errq] s (s.modErr f) := by
  intro y hy
  cases y <;> first | rfl | exact absurd (by decide) hy

theorem settle_cause (s : State) (e : ErrEntry) : (s.settleErr e).cause = e.cause := by
  unfold State.settleErr
  split
  · rfl
  · split
    · split <;> rfl
    · rfl

theorem counter_mod (s : State) (i j n : Nat) : (s.count i j n).counter i j = s.counter i j + n := by
  unfold State.count State.counter; dsimp only; rw [tab_get_mod_same]

theorem counter_of {s t : State} (h : t.ctr = s.ctr) (i j : Nat) : t.counter i j = s.counter i j := by unfold State.counter; rw [h]

theorem counter_other (s : State) (i j k n : Nat) (h : k ≠ j) : (s.count i j n).counter i k = s.counter i k := by
  unfold State.count State.counter; dsimp only; rw [tab_get_mod_other _ _ _ _ _ _ (by omega)]

theorem input_mod (s : State) (i : Nat) (f : SInput → SInput) : (s.modInput i f).input i = f (s.input i) := tab_get_mod_same _ _ _ _

theorem input_of {s t : State} (h : t.inputs = s.inputs) (i : Nat) : t.input i = s.input i := by unfold State.input; rw [h]

theorem modInput_only (s : State) (i : Nat) (f : SInput → SInput) : onlyChanges [.inputs] s (s.modInput i f) := by
  intro y hy
  cases y <;> first | rfl | exact absurd (by decide) hy

theorem valNat_of {s t : State} (h : t.vals = s.vals) (hf : t.factory = s.factory) (i j : Nat) : t.valNat i j = s.valNat i j := by
  unfold State.valNat State.val; rw [h, hf]

theorem safe_state (s : State) (p st : Nat) : ((s.enterSafeStop p st).part p).state = .safeStop := by
  unfold State.enterSafeStop; exact setPState_state _ _ _

theorem part_lists_leave (s : State) (p : Nat) : ((s.leaveGroup p).part p).lists = (s.part p).lists := by
  unfold State.leaveGroup
  split
  · rw [part_modPart]; rfl
  · rfl

theorem publish_lists (s : State) (p : Nat) : ((s.publish p).part p).lists = (s.part p).lists := by
  rw [part_publish]; split <;> rfl

theorem safe_lists (s : State) (p st : Nat) : ((s.enterSafeStop p st).part p).lists = [] := by
  obtain ⟨-, w2, -⟩ := stop_work s p st
  unfold State.enterSafeStop
  generalize s.stopWork p st = u at *
  rw [setPState_lists, part_lists_leave, part_sync]
  unfold State.disarm
  rw [part_modLease]
  show (((_ : State).publish p).part p).lists = []
  rw [publish_lists, part_modRcv]
  dsimp only
  rw [part_modPart]
  exact w2

theorem raise_boot {s : State} {e : ErrSpec} (h : roomFor s e) : ∃ b, (s.raise e).boot = { s.boot with faultOut := b } := by
  obtain ⟨n, hn⟩ := admit_room h
  have hb : (s.enqueue e n).boot = s.boot := enqueue_same s e n .boot (by decide)
  unfold State.raise
  dsimp only
  rw [h.1, hn]
  dsimp only
  split
  · exact ⟨true, by show ({ (s.enqueue e n).boot with faultOut := true } : Boot) = _; rw [hb]⟩
  · exact ⟨s.boot.faultOut, by rw [hb]⟩

theorem site_mod (s : State) (i : Nat) (f : Site → Site) : (s.modSite i f).site i = f (s.site i) := tab_get_mod_same _ _ _ _

theorem modSite_only (s : State) (i : Nat) (f : Site → Site) : onlyChanges [.sites] s (s.modSite i f) := by
  intro y hy
  cases y <;> first | rfl | exact absurd (by decide) hy

theorem queue_mod (s : State) (k n : Nat) (f : Queue → Queue) : (s.modQueue k n f).queue k n = f (s.queue k n) := tab_get_mod_same _ _ _ _

theorem gone_states {s t : State} {p : Nat} (h : gone s t p) : ∀ q, (t.part q).state = (s.part q).state := by
  intro q
  by_cases hq : q = p
  · rw [hq]; exact h.2.1
  · rw [h.1 q hq]

theorem leave_states (s : State) (p q : Nat) : ((s.leaveGroup p).part q).state = (s.part q).state := by
  unfold State.leaveGroup
  split
  · exact mod_state _ _ _ _ (fun _ => rfl)
  · rfl

theorem publish_states (s : State) (p q : Nat) : ((s.publish p).part q).state = (s.part q).state := by
  unfold State.publish
  split
  · refine gone_states (gone_trans (gone_trans (t := s.modRings p (fun r => { r with cqTail := r.cqHeldTail, heldN := 0, held := false })) (gone_mod s p _ (fun _ => ⟨rfl, rfl⟩)) (gone_sync _ p)) (gone_signal _ p)) q
  · rfl

theorem safe_other (s : State) (p st q : Nat) (h : q ≠ p) : ((s.enterSafeStop p st).part q).state = (s.part q).state := by
  obtain ⟨w1, -⟩ := stop_work s p st
  unfold State.enterSafeStop
  rw [setPState_part_other _ _ _ _ h, leave_states, part_sync]
  unfold State.disarm State.modLease State.modRcv
  rw [mod_state _ _ _ _ ?_, publish_states, mod_state _ _ _ _ ?_, mod_state _ _ _ _ ?_]
  · exact w1 q
  all_goals exact fun _ => rfl

theorem safe_errq (s : State) (p st : Nat) : (s.enterSafeStop p st).errq = s.errq ∧ (s.enterSafeStop p st).boot = s.boot := by
  have k := (path_enterSafeStop (ks := [.parts, .queues, .sites, .mem, .hbm, .streams, .ctr, .colls, .credits, .fetches, .xfers, .tfb, .outs, .free]) p st (by decide) (path_refl _ s)).frame
  exact ⟨k .errq (by decide), k .boot (by decide)⟩

theorem stop_all (st : Nat) (l : List Nat) : ∀ (s : State), (∀ q, q ∈ l → ((l.foldl (fun s p => s.enterSafeStop p st) s).part q).state = .safeStop) ∧
    (∀ q, q ∉ l → ((l.foldl (fun s p => s.enterSafeStop p st) s).part q).state = (s.part q).state) ∧ (l.foldl (fun s p => s.enterSafeStop p st) s).errq = s.errq ∧ (l.foldl (fun s p => s.enterSafeStop p st) s).boot = s.boot := by
  induction l with
  | nil => intro s; exact ⟨fun q h => absurd h (by simp), fun q _ => rfl, rfl, rfl⟩
  | cons a l ih =>
    intro s
    rw [List.foldl_cons]
    obtain ⟨h1, h2, h3, h4⟩ := ih (s.enterSafeStop a st)
    refine ⟨fun q hq => ?_, fun q hq => ?_, h3.trans (safe_errq s a st).1, h4.trans (safe_errq s a st).2⟩
    · by_cases hl : q ∈ l
      · exact h1 q hl
      · rw [h2 q hl]
        rcases List.mem_cons.mp hq with e | e
        · rw [e]; exact safe_state s a st
        · exact absurd e hl
    · have hn : q ≠ a ∧ q ∉ l := by simpa using hq
      rw [h2 q hn.2]; exact safe_other s a st q hn.1


theorem site_mod_other (s : State) (i j : Nat) (f : Site → Site) (h : j ≠ i) : (s.modSite i f).site j = s.site j := tab_get_mod_other _ _ _ _ _ _ h

theorem fold_sites (f : State → Nat → Site → Site) (hf : ∀ s t : State, t.power = s.power → f t = f s) (l : List Nat) : ∀ s : State, l.Nodup →
   (∀ i, (l.foldl (fun s i => s.modSite i (f s i)) s).site i = if i ∈ l then f s i (s.site i) else s.site i) ∧ onlyChanges [.sites] s (l.foldl (fun s i => s.modSite i (f s i)) s) := by
  induction l with
  | nil => intro s _; exact ⟨fun i => by simp, only_refl _ s⟩
  | cons a l ih =>
    intro s hn
    rw [List.foldl_cons]
    rw [List.nodup_cons] at hn
    obtain ⟨h1, h2⟩ := ih (s.modSite a (f s a)) hn.2
    refine ⟨fun i => ?_, only_trans (modSite_only _ _ _) h2⟩
    rw [h1 i, hf s (s.modSite a (f s a)) rfl]
    by_cases hi : i = a
    · rw [hi, if_neg hn.1, if_pos (List.mem_cons_self ..), site_mod]
    · rw [site_mod_other _ _ _ _ hi]
      by_cases hl : i ∈ l
      · rw [if_pos hl, if_pos (List.mem_cons_of_mem _ hl)]
      · rw [if_neg hl, if_neg (by simp [hi, hl])]

theorem count_period (s : State) : onlyChanges [.power, .free] s s.countPeriod ∧ s.countPeriod.power.gapClasses = s.power.gapClasses ∧ s.countPeriod.power.points = s.power.points := by
  refine ⟨?_, rfl, rfl⟩
  intro y hy
  cases y <;> first | rfl | exact absurd (by decide) hy

theorem class_of {s t : State} (h : onlyChanges [.power, .free] s t) (hp : t.power.points = s.power.points) :
   t.classSites = s.classSites ∧ t.atFloor = s.atFloor ∧ (∀ i, t.site i = s.site i) ∧ t.effectiveCap = s.effectiveCap := by
  have hs : ∀ i, t.site i = s.site i := site_of (h .sites (by decide))
  have hq : ∀ q, t.part q = s.part q := part_of (h .parts (by decide))
  have ha : ∀ r, t.activeSites r = s.activeSites r := by
    intro r; unfold State.activeSites State.siteSt State.grade; rw [h .siteState (by decide), h .factory (by decide)]
  have hr : ∀ p, t.runningSites p = s.runningSites p := by
    intro p
    unfold State.runningSites State.partSites
    rw [hq]
    have : t.activeSites = s.activeSites := funext ha
    rw [this]
    split
    · refine List.filter_congr (fun i _ => ?_)
      rw [hs]
    · rfl
  have hc : t.classSites = s.classSites := by
    funext c
    unfold State.classSites State.capClass
    rw [show t.runningSites = s.runningSites from funext hr]
    simp only [hq]
  have hk : ∀ i, t.siteClock i = s.siteClock i := by
    intro i; unfold State.siteClock State.point; rw [hp]
  refine ⟨hc, ?_, hs, ?_⟩
  · funext c
    unfold State.atFloor
    rw [hc]
    simp only [hk, hs]
  · unfold State.effectiveCap State.coolantCap State.sensor
    rw [valNat_of (s := s) (h .vals (by decide)) (h .factory (by decide)), show t.sensors = s.sensors from h .sensors (by decide)]

theorem power_set (s : State) (p : Power) : onlyChanges [.power] s { s with power := p } := by
  intro y hy
  cases y <;> first | rfl | exact absurd (by decide) hy

theorem fold_only {α : Type} (ks : List Kind) (l : List α) (f : State → α → State) (h : ∀ s a, onlyChanges ks s (f s a)) (s : State) : onlyChanges ks s (l.foldl f s) := by
  induction l generalizing s with
  | nil => exact only_refl _ s
  | cons a l ih => exact only_trans (h s a) (ih _)


theorem only_ite {ks : List Kind} {s a b : State} {c : Prop} [Decidable c] (ha : onlyChanges ks s a) (hb : onlyChanges ks s b) : onlyChanges ks s (if c then a else b) := by
  split
  · exact ha
  · exact hb

theorem sensor_pre (s : State) (i : Nat) (v : F32) : ∃ y : State,
    s.sample i v = (if sensorState i (s.sensor i).state v = 3 then y.thermalShutdown i else y) ∧
    onlyChanges [.sensors, .sites, .power] s y ∧ (y.sensor i).value = v ∧ (y.sensor i).state = sensorState i (s.sensor i).state v ∧
    (ofF32 v.toNat = .nan → (y.sensor i).low = (s.sensor i).low ∧ (y.sensor i).high = (s.sensor i).high) ∧
    (i < 0x5200 ∨ 0x5219 ≤ i → y.sites = s.sites) := by
  unfold State.sample
  dsimp only
  refine ⟨_, rfl, ?_⟩
  have sens : ∀ (u : State) (x : Sensor), ({ u with sensors := Tab.set u.sensors i x } : State).sensor i = x := fun u x => tab_get_set_same _ _ _ _
  generalize hx : ({ value := v, state := sensorState i (s.sensor i).state v, low := _, high := _ } : Sensor) = x
  have x1 : x.value = v := by rw [← hx]
  have x2 : x.state = sensorState i (s.sensor i).state v := by rw [← hx]
  have x3 : ofF32 v.toNat = .nan → x.low = (s.sensor i).low ∧ x.high = (s.sensor i).high := by
    intro h; rw [← hx]; dsimp only; rw [h]; exact ⟨rfl, rfl⟩
  clear hx
  have k1 : onlyChanges [.sensors] s { s with sensors := Tab.set s.sensors i x } := by
    intro y hy
    cases y <;> first | rfl | exact absurd (by decide) hy
  have e1 := sens s x
  generalize ({ s with sensors := Tab.set s.sensors i x } : State) = u at *
  have step2 : ∀ w : State, onlyChanges [.power] u w → onlyChanges [.sensors, .sites, .power] s (if 0x5200 ≤ i ∧ i < 0x5219 ∧ sensorState i (s.sensor i).state v < 2 ∧ 2 ≤ (s.sensor i).state then
      (List.range 1260).foldl (fun s k =>
        if rowBand (k / 42) == (i - 0x5200) / 5 && colBand (k % 42) == (i - 0x5200) % 5 && (s.site k).zoneK + (if (s.site k).zoneGaps then 1 else 0) != 0
        then s.modSite k (fun x => { x with zoneK := 0, zoneGaps := false }) else s) w
    else w) ∧ onlyChanges [.sites] w (if 0x5200 ≤ i ∧ i < 0x5219 ∧ sensorState i (s.sensor i).state v < 2 ∧ 2 ≤ (s.sensor i).state then
      (List.range 1260).foldl (fun s k =>
        if rowBand (k / 42) == (i - 0x5200) / 5 && colBand (k % 42) == (i - 0x5200) % 5 && (s.site k).zoneK + (if (s.site k).zoneGaps then 1 else 0) != 0
        then s.modSite k (fun x => { x with zoneK := 0, zoneGaps := false }) else s) w
    else w) := by
    intro w hw
    have hf : onlyChanges [.sites] w (if 0x5200 ≤ i ∧ i < 0x5219 ∧ sensorState i (s.sensor i).state v < 2 ∧ 2 ≤ (s.sensor i).state then
      (List.range 1260).foldl (fun s k =>
        if rowBand (k / 42) == (i - 0x5200) / 5 && colBand (k % 42) == (i - 0x5200) % 5 && (s.site k).zoneK + (if (s.site k).zoneGaps then 1 else 0) != 0
        then s.modSite k (fun x => { x with zoneK := 0, zoneGaps := false }) else s) w
      else w) := by
      split
      · refine fold_only _ _ _ (fun s a => ?_) w
        exact only_ite (modSite_only _ _ _) (only_refl _ _)
      · exact only_refl _ _
    exact ⟨only_trans (only_mono k1 (by decide)) (only_trans (only_mono hw (by decide)) (only_mono hf (by decide))), hf⟩
  have thr : onlyChanges [.power] u (match throttleKind i with
    | some k => if sensorState i (s.sensor i).state v = 2 then u.countThermal k (if i = 0x5102 then 10 else 1) else u
    | none => u) := by
    split
    · split
      · exact power_set u _
      · exact only_refl _ _
    · exact only_refl _ _
  obtain ⟨a, b⟩ := step2 _ thr
  have es : ∀ {w y : State}, onlyChanges [.power] u w → onlyChanges [.sites] w y → y.sensor i = x := by
    intro w y h1 h2
    rw [← e1]; unfold State.sensor
    rw [show y.sensors = w.sensors from h2 .sensors (by decide), show w.sensors = u.sensors from h1 .sensors (by decide)]
  have ex := es thr b
  exact ⟨a, (congrArg Sensor.value ex).trans x1, (congrArg Sensor.state ex).trans x2, fun h => ⟨(congrArg Sensor.low ex).trans (x3 h).1, (congrArg Sensor.high ex).trans (x3 h).2⟩, fun h => (congrArg State.sites (if_neg (by omega))).trans (Eq.trans (thr .sites (by decide)) (k1 .sites (by decide)))⟩

end Sys2Proof.Laws.Shared
end

