-- ==== Sys2Proof/Tests/Slice0.lean ====
section
/-!
SUPPORT. The model's own tests: ill-formed terms that WellFormed refuses, and for every statement states and operands that
meet its hypotheses.
-/

set_option Elab.async false

open Sys2Proof Sys2Proof.Machine Sys2Proof.Safety

namespace Sys2Proof.Tests

/-! ### Small states -/

/-- A request over PCI Express. -/
def rq : Req := { route := .pcie }

/-- Partition 0 after reset, changed by f. -/
def part0 (f : Part → Part) : State := State.reset.modPart 0 f

/-- A list of one command that waits in its queue. -/
def waitingList : ListRec := { id := 1, active := true, cmds := [{ cmd := { opcode := 1, kind := 1 }, st := .queued }] }

/-- Partition 0 in a state, with a list open. -/
def atWork (x : PState) : State := part0 (fun q => { q with state := x, lists := [waitingList] })

/-- A command of partition 0 that runs on queue n of its kind. -/
def ref1 : QRef := { part := 0, list := 1, index := 0, lane := 0 }

/-- Its record. -/
def rec1 (c : Cmd) (held : List (List Byte)) : CmdRec := { cmd := c, st := .running, held := held }

/-- Partition 0 Running, with a command that runs on queue n of kind k. -/
def onQueue (k n : Nat) (c : Cmd) (held : List (List Byte)) : State :=
  (part0 (fun q => { q with
    state := .running, lists := [{ id := 1, active := true, cmds := [rec1 c held] }] })).modQueue k n
      (fun q => { q with running := some ref1 })

/-- A Kettle port up, to module 3. -/
def linked : State := { State.reset with kports := [(0, { state := 2, peer := 3 })] }

/-- A packet header on port 0 from module 3. -/
def hdr : KHdr := { port := 0, srcModule := 3 }

/-- An SPDM request with a body. -/
def spdm (source : Nat) : Spdm := { source := source, session := some 0 }

/-! ### What is not well formed is refused by name of its check -/

/-- An ill-formed term for each check of WellFormed.lean; beside each, the same command within its range. -/
theorem test_wellformed_refuses :
    (Instr.start rq 4).wf = false ∧ (Instr.start rq 3).wf = true ∧
    (Instr.start { rq with txn := 4294967296 } 0).wf = false ∧ (Instr.start { rq with version := 256 } 0).wf = false ∧
    (Instr.start { rq with src := 281474976710656 } 0).wf = false ∧
    (Instr.start { rq with counter := 18446744073709551616 } 0).wf = false ∧
    (Instr.caddyRead rq 65536 0 0).wf = false ∧ (Instr.caddyRead rq 0 256 0).wf = false ∧
    (Instr.caddyWrite rq 0x3030 2 4 (zeros 1025) 0 1025 false).wf = false ∧
    (Instr.debugTileData rq (some (zeros 1023))).wf = false ∧
    (Instr.migrationRequest rq 20 0).wf = false ∧ (Instr.migrationRequest rq 0 32).wf = false ∧
    (Instr.kettlePortEnable rq 12 1 0).wf = false ∧ (Instr.cccHandoffWait 30).wf = false := by
  decide +kernel

/-- The same for the commands of the host, the scheduler and the engines. -/
theorem test_wellformed_refuses_engines :
    (Instr.sqTailDb 5 0 true).wf = false ∧ (Instr.bar0RegisterWrite 1 2 0 true).wf = false ∧
    (Instr.listStart 0 16).wf = false ∧ (Instr.commandDispatch 1 1200).wf = false ∧
    (Instr.commandDispatch 4 192).wf = false ∧ (Instr.commandDispatch 6 64).wf = false ∧
    (Instr.commandDispatch 7 0).wf = false ∧ (Instr.barrierStalled 0 2).wf = false ∧ (Instr.gemm 1200 none).wf = false ∧
    (Instr.gemm 1199 none).wf = true ∧ (Instr.arrayFault 1260 0 0 ⟨0, false⟩).wf = false ∧ (Instr.arrayFault 0 8 0 ⟨0, false⟩).wf = false ∧
    (Instr.fleFault 5 0 ⟨0, false⟩).wf = false ∧ (Instr.fleFault 0 68 ⟨0, false⟩).wf = false ∧
    (Instr.steepRampDown ⟨5, true⟩).wf = false ∧ (Instr.steepRampDown ⟨5, false⟩).wf = true ∧ (Instr.mediaBind 128).wf = false ∧
    (Instr.atomicAdd 0 0 3 [] false).wf = false ∧ (Instr.atomicAdd 0 1 1 [] false).wf = false ∧
    (Instr.pairAdd 0 8 0 0).wf = false ∧ (Instr.hbmWrite 0 0 (zeros 63)).wf = false ∧
    (Instr.hbmBlockRead 0 64 1 false false).wf = false ∧ (Instr.hbmBlockRead 0 0 5 false false).wf = false := by
  decide +kernel

/-- The same for the links, the bus and the events of the physical world. -/
theorem test_wellformed_refuses_links :
    (Instr.openMsg { port := 4, conn := 0, seq := 0 }).wf = false ∧
    (Instr.openMsg { port := 0, conn := 65536, seq := 0 }).wf = false ∧
    (Instr.openMsg { port := 0, conn := 0, seq := 4294967296 }).wf = false ∧ (Instr.portDown 4).wf = false ∧
    (Instr.hello 0 16 0 0 0).wf = false ∧ (Instr.remap 0 9 0).wf = false ∧ (Instr.nak 12 0).wf = false ∧
    (Instr.credit { hdr with tag := 256 } 0).wf = false ∧ (Instr.credit { hdr with srcModule := 16 } 0).wf = false ∧
    (Instr.credit { hdr with srcPartition := 4 } 0).wf = false ∧ (Instr.credit hdr 0).wf = true ∧
    (Instr.sync 16 0).wf = false ∧ (Instr.barrierSlot 16 false false false false false).wf = false ∧
    (Instr.errorEntryHandle 4).wf = false ∧ (Instr.flitParityError 0 7 0 false).wf = false ∧
    (Instr.inputStuck 3).wf = false ∧ (Instr.componentFault 1263 0).wf = false ∧ (Instr.zoneThrottleStep 25).wf = false ∧
    (Instr.bandPllStop 5).wf = false ∧ (Instr.functionReset 5).wf = false ∧ (Instr.spareSelfTestDone 1260 true).wf = false := by
  decide +kernel

/-! ### The hypotheses of every statement are met: Caddy, layout and windows -/

theorem wit_IdleStep : State.reset.pending = [] ∧ State.reset.time.slewPs = 0 ∧ State.reset.hbm.migrations = [] ∧
    State.reset.colls = [] := by decide +kernel

theorem wit_Invariants : memoryCanonical State.reset ∧ (∃ t, step State.reset = .next t) ∧
    ∃ t, exec .plcaBeacon State.reset = .next t := ⟨by unfold memoryCanonical; decide +kernel, ⟨_, rfl⟩, ⟨_, rfl⟩⟩

theorem wit_Spread : channelsDistinct State.reset ∧ slicesApart State.reset ∧ (State.reset.place 0 4096).isSome = true := by
  refine ⟨?_, ?_, ?_⟩
  · unfold channelsDistinct; decide +kernel
  · unfold slicesApart; decide +kernel
  · decide +kernel

theorem wit_CaddyReads : admits State.reset rq 1 0x1000 1 ∧ admits State.reset rq 1 0x1FFF 1 ∧ dictFind 0x1FFF 1 = none ∧
    admits State.reset rq 3 0x1000 1 ∧ admits State.reset rq 4 0 0 ∧ admits State.reset { rq with dest := 1 } 4 0 0 := by
  unfold admits; decide +kernel

theorem wit_CaddyWrites : acceptsWrite State.reset rq 0x4100 1 4 (le 4 12000) ∧ (dictFind 0x4100 1).isSome = true ∧
    (dictFind 0x4100 1).map (·.acc) ≠ some 2 ∧ measured 0x4100 1 = false ∧
    ((State.reset.gate rq 2 0x4100 1).1.entryEffect rq 0x4100 1 (le 4 12000)).2 = some 0 ∧
    admits State.reset rq 2 0x9100 3 ∧ segmentStatus 0x9100 3 10 = 0 := by
  unfold acceptsWrite admits; decide +kernel

/-- A Start whose first failed check is that no lane ring stands (R45). -/
theorem wit_Start_refused : acceptsWrite State.reset rq 0x3000 2 2 (le 1 1) ∧ State.reset.boot.schLost = false ∧
    (State.reset.part 0).state = .idle ∧ (State.reset.part 0).rcv.startRestore = none ∧
    (State.reset.startChecks 0).find? (fun c => !c.1) = some (false, 0x1206, 0, 0) := by
  unfold acceptsWrite admits; decide +kernel

/-- Partition 0 set to SB with ring 0 of 64 entries at address 0 of its slice (R75). -/
def ringed : State :=
  (((part0 (fun q => { q with rings := { size := 6 } })).setVal 0x3010 1 (le 1 1)).setVal 0x3010 3 (le 1 2)).wr 0 0
    (le 4 0x4B515247 ++ le 2 1)

/-- A Start that passes every check: it scrubs first, or runs at once where the slice is scrubbed, or restores. -/
theorem wit_Start :
    acceptsWrite ringed rq 0x3000 2 2 (le 1 1) ∧ (ringed.startChecks 0).find? (fun c => !c.1) = none ∧
    ringed.needsScrub 0 = true ∧ (ringed.startPlan 0).restore = none ∧
    (ringed.modPart 0 (fun q => { q with scrubbed := true })).needsScrub 0 = false ∧
    (ringed.startPlan 0).restore = none := by
  unfold acceptsWrite admits; and_intros <;> decide +kernel

/-- The slice is scrubbed, and Start restores the newest committed sachet (R312). -/
def restores : State :=
  (ringed.modPart 0 (fun q => { q with
    scrubbed := true, rcv := { sachets := [{ id := 7, tier2 := true, landed := true, committed := true }] } })).setVal 0x3080 6 (le 8 1)

theorem wit_Start_restores :
    acceptsWrite restores rq 0x3000 2 2 (le 1 1) ∧ (restores.startChecks 0).find? (fun c => !c.1) = none ∧
    restores.needsScrub 0 = false ∧ (restores.startPlan 0).restore.isSome = true := by
  unfold acceptsWrite admits; and_intros <;> decide +kernel

theorem wit_RunControl :
    acceptsWrite (atWork .running) rq 0x3000 2 2 (le 1 2) ∧ acceptsWrite (atWork .running) rq 0x3000 2 2 (le 1 3) ∧
    acceptsWrite (atWork .running) rq 0x3000 2 2 (le 1 4) ∧ ((atWork .running).part 0).state = .running ∧
    (atWork .running).boundStreams 0 = [] ∧ (atWork .running).modeOf 0 = 0 ∧
    ((atWork .running).modPart 0 (fun q => { q with mode := 1 })).modeOf 0 ≠ 0 ∧
    acceptsWrite State.reset rq 0x3000 2 2 (le 1 5) ∧ State.reset.modeOf 0 = 0 ∧
    acceptsWrite State.reset rq 0x3000 2 2 (le 1 4) ∧ (State.reset.part 0).state = .idle ∧
    (State.reset.part 0).rcv.startRestore = none ∧
    acceptsWrite (atWork .safeStop) rq 0x3000 2 2 (le 1 6) ∧ ((atWork .safeStop).part 0).state = .safeStop ∧
    (atWork .safeStop).heldErrors 0 = 0 ∧ (atWork .running).boot.schLost = false := by
  unfold acceptsWrite admits; and_intros <;> decide +kernel

/-- A Start restores a sachet. -/
def restoring : State := part0 (fun q => { q with rcv := { startRestore := some { id := 7 } } })

/-- Partition 0 in Safe-stop holds an error. -/
def holdsError : State :=
  { atWork .safeStop with errq := { entries := [{ seq := 0, status := 0x6102, sev := 2, state := 4, tDetect := 0, part := 0, unitKind := 1, unit := 1 }], nextSeq := 1 } }

/-- Run control in a state that does not take it. -/
theorem wit_RunControl_refused :
    acceptsWrite (atWork .safeStop) rq 0x3000 2 2 (le 1 4) ∧ acceptsWrite restoring rq 0x3000 2 2 (le 1 5) ∧
    (restoring.part 0).rcv.startRestore.isSome = true ∧ acceptsWrite holdsError rq 0x3000 2 2 (le 1 6) ∧
    (holdsError.part 0).state = .safeStop ∧ holdsError.heldErrors 0 ≠ 0 ∧
    acceptsWrite (atWork .running) rq 0x3000 2 2 (le 1 1) ∧ acceptsWrite (atWork .safeStop) rq 0x3000 2 2 (le 1 2) ∧
    acceptsWrite (atWork .safeStop) rq 0x3000 2 2 (le 1 3) ∧ acceptsWrite (atWork .running) rq 0x3000 2 2 (le 1 5) ∧
    acceptsWrite (atWork .running) rq 0x3000 2 2 (le 1 6) := by
  unfold acceptsWrite admits; and_intros <;> decide +kernel

/-- A layout of two partitions is staged. -/
def staged2 : State :=
  ((((State.reset.setVal 0x2100 2 (le 1 2)).setVal 0x2110 1 (le 1 15)).setVal 0x2110 2 (le 1 15)).setVal 0x2120 1
    (le 1 16)).setVal 0x2120 2 (le 1 15)

theorem wit_Layout :
    acceptsWrite staged2 rq 0x2100 1 2 (le 1 1) ∧ staged2.commitWait = none ∧ staged2.layoutValid staged2.staged = true ∧
    staged2.changedBy staged2.staged = [0, 1] ∧
    (∀ p ∈ staged2.changedBy staged2.staged, (staged2.part p).rcv.fills = [] ∧ (staged2.part p).state.quiet = true) ∧
    staged2.cccUpdating = false ∧
    acceptsWrite (State.reset.setVal 0x2100 2 (le 1 2)) rq 0x2100 1 2 (le 1 1) ∧
    (State.reset.setVal 0x2100 2 (le 1 2)).layoutValid (State.reset.setVal 0x2100 2 (le 1 2)).staged = false := by
  unfold acceptsWrite admits; and_intros <;> decide +kernel

/-- The staged layout changes a partition that runs, or whose spare is filled; CCC firmware hands off; a commit waits already. -/
theorem wit_Layout_held :
    (let s := staged2.modPart 0 (fun q => { q with state := .running })
     acceptsWrite s rq 0x2100 1 2 (le 1 1) ∧ s.layoutValid s.staged = true ∧ 0 ∈ s.changedBy s.staged ∧
       (s.part 0).state.quiet = false) ∧
    (let s := staged2.modPart 0 (fun q => { q with rcv := { fills := [{ failed := 0, spare := 5 }] } })
     acceptsWrite s rq 0x2100 1 2 (le 1 1) ∧ s.layoutValid s.staged = true ∧ 0 ∈ s.changedBy s.staged ∧
       (s.part 0).rcv.fills ≠ []) ∧
    (let s := { staged2.setVal 0x9000 2 (le 1 4) with update := { state := 3 } }
     acceptsWrite s rq 0x2100 1 2 (le 1 1) ∧ s.layoutValid s.staged = true ∧ s.cccUpdating = true) ∧
    (let s := { staged2 with commitWait := some (rq, staged2.staged) }
     acceptsWrite s rq 0x2100 1 2 (le 1 1) ∧ s.commitWait.isSome = true) := by
  unfold acceptsWrite admits; and_intros <;> decide +kernel

theorem wit_PartnerWindows :
    acceptsWrite linked rq 0x3020 1 2 (le 1 3) ∧ linked.portsTo 3 ≠ [] ∧ (linked.part 0).bindReq = none ∧
    acceptsWrite linked rq 0x3020 1 2 (le 1 4) ∧ linked.portsTo 4 = [] ∧ 4 ≠ linked.address ∧
    acceptsWrite linked rq 0x3020 1 2 (le 1 0xFF) ∧ acceptsWrite linked rq 0x3020 2 3 (le 2 16) ∧
    linked.pval 0 0x20 1 = 0xFF ∧
    acceptsWrite (linked.setVal 0x3020 1 (le 1 3)) rq 0x3020 2 3 (le 2 16) ∧
    (linked.setVal 0x3020 1 (le 1 3)).pval 0 0x20 1 = 3 ∧
    acceptsWrite (linked.setVal 0x3020 1 (le 1 4)) rq 0x3020 2 3 (le 2 16) ∧
    (linked.setVal 0x3020 1 (le 1 4)).portsTo ((linked.setVal 0x3020 1 (le 1 4)).pval 0 0x20 1) = [] ∧
    acceptsWrite (atWork .running) rq 0x3020 1 2 (le 1 (atWork .running).address) ∧ (atWork .running).address ≠ 0xFF ∧
    ((atWork .running).part 0).state.works = true := by
  unfold acceptsWrite admits; and_intros <;> decide +kernel

/-- A binding waits for module 3, another stands. -/
def binding3 : State :=
  { linked with parts := [(0, { Part.first with bindReq := some (none, 3, 16), binding := { module := 3, bound := true } })] }

theorem wit_PartnerWindows_awaited :
    (binding3.part 0).bindReq.isSome = true ∧ acceptsWrite binding3 rq 0x3020 1 2 (le 1 3) ∧
    acceptsWrite binding3 rq 0x3020 2 3 (le 2 16) := by
  unfold acceptsWrite admits; and_intros <;> decide +kernel

theorem wit_WindowMessages :
    (linked.kport hdr.port).state = 2 ∧ hdr.crcOk = true ∧ ({ linked with guests := [] } : State).windowFree < 1 ∧
    1 ≤ ({ linked.setVal 0x2300 1 (le 2 16) with guests := [] } : State).windowFree ∧
    (binding3.part 0).bindReq = some (none, hdr.srcModule, 16) ∧ (binding3.part 0).bindNext = [] ∧ (binding3.part 0).binding.module = hdr.srcModule := by
  and_intros <;> decide +kernel

theorem wit_HostedWindow :
    acceptsWrite State.reset rq 0x2300 1 3 (le 2 16) ∧ (∀ p < 4, carveOf 16 + State.reset.near p ≤ 2046) ∧
    16 ≠ State.reset.valNat 0x2300 1 ∧
    acceptsWrite (State.reset.setVal 0x3060 1 (le 2 2046)) rq 0x2300 1 3 (le 2 16) ∧
    2046 < carveOf 16 + (State.reset.setVal 0x3060 1 (le 2 2046)).near 0 := by
  unfold acceptsWrite admits; and_intros <;> decide +kernel

/-- Debug visibility is on. -/
def visible : State := State.reset.setVal 0x2200 1 (le 1 1)

theorem wit_Accumulators :
    acceptsWrite State.reset rq 0x2200 1 2 (le 1 1) ∧ State.reset.allQuiet = true ∧
    acceptsWrite { State.reset with secState := 1 } rq 0x2200 1 2 (le 1 1) ∧
    acceptsWrite visible rq 0x2200 1 2 (le 1 0) ∧ visible.valNat 0x2200 1 = 1 ∧
    acceptsWrite visible rq 0x2200 0x11 10 (zeros 1024) ∧ admits visible rq 1 0x2200 0x11 ∧ memoryCanonical visible ∧
    visible.isGated visible.debugSite = false ∧
    (let s := visible.modSite visible.debugSite (fun x => { x with gated := true })
     acceptsWrite s rq 0x2200 0x11 10 (zeros 1024) ∧ s.isGated s.debugSite = true) := by
  unfold acceptsWrite admits memoryCanonical; and_intros <;> decide +kernel

/-- A port that is disabled. -/
def disabledPort : State := { State.reset with kports := [(0, { state := 4 })] }

/-- A migration of stack 0 is under way. -/
def migrating : State :=
  { State.reset with hbm := { migrations := [(0, { logical := 3, source := 3, target := 31 })] } }

theorem wit_Maintenance :
    acceptsWrite State.reset rq 0x2400 1 3 (le 2 3) ∧ Tab.find State.reset.hbm.migrations 0 = none ∧
    State.reset.standby 0 < 32 ∧ State.reset.physCh 0 3 < 32 ∧
    acceptsWrite migrating rq 0x2400 1 3 (le 2 3) ∧ (Tab.find migrating.hbm.migrations 0).isSome = true ∧
    acceptsWrite State.reset rq 0x7100 3 4 (le 4 7) ∧ acceptsWrite State.reset rq 0xA100 5 4 (le 4 (1 + 65536 * 1)) ∧
    isSensor 0x5200 = true ∧ acceptsWrite State.reset rq 0x5200 5 2 (le 1 1) ∧
    acceptsWrite disabledPort rq 0xA400 5 1 (le 1 1) ∧ (disabledPort.kport 0).state = 4 ∧ (∀ i < 9, bit 511 i = true) ∧
    (∀ i < 9, bit 255 i = true ↔ i ≠ 8) ∧ (∀ i < 9, bit 510 i = true ↔ i ≠ 0) ∧ (linked.kport 0).state ≠ 4 ∧
    acceptsWrite linked rq 0xA400 5 1 (le 1 1) ∧ acceptsWrite linked rq 0xA400 5 1 (le 1 0) ∧ linked.colls = [] ∧
    linked.xfers = [] ∧ linked.fetches = [] ∧ (∀ p < 4, (linked.part p).bindReq = none) ∧
    bit 126 0 = false ∧ bit 126 7 = false ∧ roomFor disabledPort { status := 0x6303, unitKind := 8, unit := 0 * 256 + 0 } ∧
    disabledPort.colls = [] ∧ (∀ p < 4, (disabledPort.part p).bindReq = none) := by
  unfold acceptsWrite admits roomFor; and_intros <;> decide +kernel

theorem wit_Log :
    acceptsWrite State.reset rq 0x7000 6 2 (le 1 1) ∧ State.reset.secState ≠ 2 ∧
    acceptsWrite { State.reset with secState := 2 } rq 0x7000 6 2 (le 1 1) ∧ admits State.reset rq 1 0x7000 4 := by
  unfold acceptsWrite admits; and_intros <;> decide +kernel

/-- Partition 0 Running, a member of group 0, with a rollback under way. -/
def grouped0 : State :=
  (part0 (fun q => { q with state := .running, member := true, rcv := { rollback := some {} } })).setVal 0x3010 4 (le 1 0)

theorem wit_DeclaredModule :
    acceptsWrite grouped0 rq 0xB000 3 2 (le 1 3) ∧ (∀ q < 4, q ≠ 0 → grouped0.grouped q = false) ∧
    grouped0.grouped 0 = true ∧ (grouped0.part 0).rcv.lost.contains 3 = false ∧
    (grouped0.part 0).rcv.rollback.isSome = true ∧ roomFor grouped0 { status := 0x7303, unitKind := 0x0D, unit := 3 } ∧
    acceptsWrite State.reset rq 0xB000 3 2 (le 1 3) ∧ State.reset.grouped 0 = false ∧
    (let s := part0 (fun q => { q with member := true })
     s.grouped 0 = true ∧ (s.part 0).state.works = false ∧ acceptsWrite s rq 0xB000 3 2 (le 1 3)) := by
  unfold acceptsWrite admits roomFor; and_intros <;> decide +kernel

/-! ### SPDM, keys and the security state -/

theorem wit_Spdm :
    State.reset.spdmUp = true ∧ (spdm 0).ok = true ∧ State.reset.boot.deviceRoot = true ∧
    ({ State.reset with boot := { secFailed := true } } : State).spdmUp = false := by
  and_intros <;> decide +kernel

/-- A session is open and complete, on source 2, and its requester may deliver keys; a key is held. -/
def inSession : State :=
  { State.reset with
    secState := 1
    sec := { sessions := [{ source := 2, id := 0, done := true, trusted := true }]
             keys := [{ handle := 5, ty := 1, part := 0, key := zeros 32, lapse := some 0 }] } }

theorem wit_Sessions :
    inSession.spdmUp = true ∧ (spdm 2).ok = true ∧ inSession.sec.sessions.length < 4 ∧
    inSession.session (spdm 2) = some { source := 2, id := 0, done := true, trusted := true } ∧ (spdm 2).source = 2 := by
  and_intros <;> decide +kernel

theorem wit_Keys :
    inSession.deliverStatus (spdm 2) 1 0 5 = 0 ∧ inSession.deliverStatus (spdm 2) 5 0 5 ≠ 0 ∧
    inSession.broker (spdm 2) = true ∧
    (inSession.allKeys.any (fun k => k.handle == 5 && k.ty == 1 && k.part == 0)) = true ∧
    acceptsWrite inSession rq 0x8100 3 4 (le 4 5) := by
  unfold acceptsWrite admits; and_intros <;> decide +kernel

/-- Attested, with a trust record. -/
def attested : State := { State.reset with secState := 1, nor := { trust := some [] } }

theorem wit_SecurityState :
    acceptsWrite State.reset rq 0x8000 2 2 (le 1 1) ∧ State.reset.secState = 0 ∧ State.reset.sec.debugOpen = false ∧
    State.reset.valNat 0x2200 1 = 0 ∧ acceptsWrite attested rq 0x8000 2 2 (le 1 2) ∧ attested.nor.trust.isSome = true ∧
    acceptsWrite attested rq 0x8000 2 2 (le 1 0) ∧ attested.allQuiet = true ∧
    acceptsWrite { attested with secState := 2 } rq 0x8000 2 2 (le 1 0) ∧
    (State.reset.setVal 0x8000 6 (le 1 1)).valNat 0x8000 6 = 1 ∧ attested.secState ≠ 0 := by
  unfold acceptsWrite admits; and_intros <;> decide +kernel

/-! ### Time -/

/-- The bus master, at rest. -/
def master : State := { State.reset with tfb := { master := true } }

/-- A follower in lock under work. -/
def locked : State := { atWork .running with time := { ps := 5000000, state := 2 } }

/-- The offset that a sync word of v shows (R92). -/
def offsetOf (s : State) (v : Nat) : Int := Int.ofNat s.now - Int.ofNat (s.valNat 0xA100 3) - Int.ofNat v

theorem wit_Timebase :
    acceptsWrite master rq 0x6000 5 8 (le 8 7) ∧ master.tfb.master = true ∧ master.allQuiet = true ∧
    acceptsWrite State.reset rq 0x6000 5 8 (le 8 7) ∧ State.reset.tfb.master = false ∧ 1 ≠ State.reset.address ∧
    -1000 ≤ offsetOf locked 5000 ∧ offsetOf locked 5000 ≤ 1000 ∧ offsetOf locked 9000 < -1000 ∧
    2 ≤ locked.time.state ∧ locked.time.behindRun < 3 ∧ locked.allQuiet = false ∧ 1000 < offsetOf locked 1000 ∧
    offsetOf State.reset 9000 < -1000 ∧ State.reset.time.state < 2 ∧
    9000 + locked.valNat 0xA100 3 < 18446744073709551616 ∧
    (let s := { State.reset with time := { ps := 9000000 } }
     1000 < offsetOf s 7000 ∧ s.allQuiet = true ∧ s.tfb.master = false) := by
  unfold acceptsWrite admits; and_intros <;> decide +kernel

theorem wit_BusClock :
    locked.tfb.master = false ∧ locked.time.state ≠ 0 ∧ master.tfb.master = true ∧ 1 ≠ master.address ∧
    (locked.setVal 0xA100 2 (le 1 0)).valNat 0xA100 2 = 0 := by
  and_intros <;> decide +kernel

/-- A snapshot is armed for now. -/
def armed : State := { State.reset with time := { ps := 1000000, snapState := 1, snapTime := 500 } }

theorem wit_Snapshots :
    acceptsWrite State.reset rq 0x6000 0x10 8 (le 8 10000) ∧ State.reset.now + 10000 ≤ 10000 ∧
    10000 ≤ State.reset.now + 60000000000 ∧ State.reset.time.snapState = 0 ∧
    acceptsWrite State.reset rq 0x6000 0x10 8 (le 8 9999) ∧ 9999 < State.reset.now + 10000 ∧
    acceptsWrite armed rq 0x6000 0x10 8 (le 8 20000) ∧ armed.time.snapState = 1 ∧ armed.time.snapTime ≤ armed.now ∧
    acceptsWrite armed rq 0x6000 0x12 2 (le 1 1) := by
  unfold acceptsWrite admits; and_intros <;> decide +kernel

/-! ### Updates, records and resets -/

/-- An update in a state. -/
def updating (n : Nat) : State := { State.reset with update := { state := n } }

/-- The first 508 bytes of the header of an image for SEC (R358). -/
def imageBody : List Byte := padTo 508 (le 2 0x4657 ++ le 1 1 ++ le 1 1)

/-- A sound image: its header with its CRC, no payload, and the signature block (R358, R396). -/
def soundImage : List Byte :=
  imageBody ++ le 4 (crc32c imageBody) ++ (le 2 0x5342 ++ le 1 1 ++ le 1 1 ++ le 4 512 ++ zeros 56)

/-- It is staged. -/
def soundStaged : State := { State.reset with update := { state := 1, staged := soundImage } }

theorem crc_below (bs : List Byte) : crc32c bs < 4294967296 := by
  unfold crc32c; exact BitVec.isLt _

theorem image_crc (body rest : List Byte) (h : body.length = 508) :
    crcOk (slice (body ++ le 4 (crc32c body) ++ rest) 0 512) 0x1FC = true := by
  have h4 := crc_below body
  have h5 : List.drop 508 body = [] := List.drop_eq_nil_of_le (by omega)
  simp only [crcOk, field, slice, List.take_append, List.drop_append, h]
  simp [List.take_of_length_le, h, h5, le, ofLe]
  generalize crc32c body = c at h4
  omega

theorem test_image_crc : crcOk (slice soundImage 0 512) 0x1FC = true := image_crc imageBody _ (by decide +kernel)

theorem wit_Updates_verify :
    soundStaged.judgeImage { measOk := true, rsaOk := true, slhOk := true } = (0, 0) ∧
    acceptsWrite soundStaged rq 0x9000 5 2 (le 1 1) := by
  refine ⟨?_, ?_⟩
  · have h : soundStaged.update.staged = soundImage := rfl
    unfold State.judgeImage
    simp only [h, test_image_crc]
    decide +kernel
  · unfold acceptsWrite admits; decide +kernel

/-- A verified update waits for a rollback of partition 0 to end. -/
def waiting : State :=
  { grouped0 with time := { ticks := 100000000000 }, update := { state := 3, waiting := some 0 } }

theorem wit_Updates :
    acceptsWrite State.reset rq 0x9000 4 10 (zeros 4) ∧ State.reset.update.state ≤ 1 ∧
    State.reset.valNat 0x9000 3 + 4 ≤ bankSize State.reset.updateKind ∧
    acceptsWrite (updating 2) rq 0x9000 4 10 (zeros 4) ∧ acceptsWrite (updating 1) rq 0x9000 5 2 (le 1 1) ∧
    (updating 1).judgeImage { measOk := true, rsaOk := true, slhOk := true } = (7, 0) ∧
    acceptsWrite (updating 2) rq 0x9000 5 2 (le 1 2) ∧ (updating 2).boot.found = none ∧
    acceptsWrite (updating 2) rq 0x9000 5 2 (le 1 3) ∧ acceptsWrite (updating 3) rq 0x9000 5 2 (le 1 3) ∧
    waiting.update.waiting = some 0 ∧ waiting.mustWait = true ∧ waiting.applyWait = none ∧
    0 + waiting.valNat 0x9000 8 * Config.ticksPerMs ≤ waiting.time.ticks ∧ roomFor waiting { status := 0x4102 } := by
  unfold acceptsWrite admits roomFor; and_intros <;> decide +kernel

/-- The CCCs' update hands off, and its row has stopped. -/
def stopped : State :=
  { State.reset.setVal 0x9000 2 (le 1 4) with
    time := { ticks := 100000000000 }, update := { state := 3, stopped := some 0 } }

theorem wit_Handoffs :
    (updating 3).update.stopped = none ∧ (updating 3).update.waiting = none ∧ (updating 3).pointReached = true ∧
    (updating 3).updateKind ≠ 4 ∧ stopped.updateKind = 4 ∧ stopped.update.stopped = some 0 ∧ stopped.update.rows < 29 ∧
    stopped.commitWait = none ∧ stopped.applyWait = none ∧ 0 + acceptTicks stopped.updateKind ≤ stopped.time.ticks ∧
    stopped.update.since + stopped.valNat 0x9000 7 * Config.ticksPerMs ≤ stopped.time.ticks ∧
    stopped.update.records.all stopped.update.image.takes = true ∧ [[]].all stopped.update.image.takes = false := by
  and_intros <;> decide +kernel

/-- Records staged in a state. -/
def recording (n : Nat) : State := { State.reset with recStage := { state := n }, trustStage := { state := n } }

theorem wit_Records :
    State.reset.recStage.state ≠ 2 ∧ State.reset.valNat 0x9100 2 + 4 ≤ stagingSize ∧
    acceptsWrite State.reset rq 0x9100 3 10 (zeros 4) ∧ State.reset.valNat 0x8400 2 + 4 ≤ stagingSize ∧
    acceptsWrite State.reset rq 0x8400 3 10 (zeros 4) ∧ acceptsWrite (recording 1) rq 0x9100 4 2 (le 1 1) ∧
    acceptsWrite (recording 1) rq 0x8400 4 2 (le 1 1) ∧ (recording 2).applyWait = none ∧ (recording 2).update.state ≠ 3 ∧
    acceptsWrite (recording 2) rq 0x9100 4 2 (le 1 2) ∧ acceptsWrite (recording 2) rq 0x8400 4 2 (le 1 2) ∧
    acceptsWrite (recording 2) rq 0x9100 4 2 (le 1 3) ∧ acceptsWrite (recording 2) rq 0x8400 4 2 (le 1 3) ∧
    acceptsWrite State.reset rq 0x9100 4 2 (le 1 4) ∧ acceptsWrite State.reset rq 0x9100 4 2 (le 1 5) ∧
    acceptsWrite { State.reset with secState := 2 } rq 0x9100 4 2 (le 1 5) := by
  unfold acceptsWrite admits; and_intros <;> decide +kernel

/-- A cluster zone at 200 °C. -/
def overheated : State := { State.reset with sensors := [(0x5200, { value := 0x43480000 })] }

theorem wit_Resets :
    soundFindings {} ∧ State.reset.hot = false ∧ State.reset.coalesced = false ∧ State.reset.boot.step = 0x0A ∧
    acceptsWrite State.reset rq 0x2600 1 2 (le 1 1) ∧ State.reset.boot.power = 2 ∧ (State.reset.input 2).state = 0 ∧
    (State.reset.input 2).lastEvent = none ∧ overheated.hot = true ∧ acceptsWrite overheated rq 0x2600 1 2 (le 1 1) ∧
    ({ State.reset with boot := { resetTick := some 0 } } : State).coalesced = true ∧
    State.reset.boot.secFailed = false ∧ 256 ≤ ({ State.reset with log := { unprogrammed := 256 } } : State).log.unprogrammed := by
  unfold acceptsWrite admits soundFindings; and_intros <;> decide +kernel

/-! ### Host interface and scheduler -/

theorem wit_HostRegisters :
    State.reset.takesWrites 1 true = true ∧ (State.reset.part 0).state = .idle ∧ 4096 % 4096 = 0 ∧ 3 % 65536 ≠ 0 ∧
    (let r := (State.reset.part 0).rings
     5 < r.entries ∧ r.backlog ≤ (5 + r.entries - r.sqHead) % r.entries ∧
       (0 + r.entries - r.cqHead) % r.entries ≤ r.cqUsed - r.heldN) ∧
    State.reset.inSlice 0 4096 64 = true ∧ memoryCanonical State.reset := by
  unfold memoryCanonical; and_intros <;> decide +kernel

theorem wit_HostDrops :
    State.reset.takesWrites 2 true = false ∧ State.reset.boot.power = 2 ∧ State.reset.takesWrites 1 true = true ∧
    (State.reset.part 0).rings.entries ≤ 256 ∧ roomFor (State.reset.refuseHost 1) { status := 0x1208, part := 0 } := by
  unfold roomFor; and_intros <;> decide +kernel

theorem wit_Attach :
    (atWork .hostLost).takesWrites 1 true = true ∧ ((atWork .hostLost).part 0).state = .hostLost ∧
    ((atWork .hostLost).part 0).runTo.busy = false ∧
    (((atWork .hostLost).modPart 0 (fun q => { q with runTo := .lists })).part 0).runTo.busy = true ∧
    (State.reset.part 0).state ≠ .hostLost := by
  and_intros <;> decide +kernel

/-- A read of 0x1000:01 stands in the request area of function 0 (R371, R378). -/
def windowRead : State :=
  { State.reset with caddy := { req := le 1 1 ++ le 1 1 ++ le 2 0 ++ le 4 7 ++ le 2 0x1000 ++ le 1 1 } }

theorem wit_CaddyWindow :
    windowRead.boot.power = 2 ∧ windowRead.caddy.busy = false ∧ windowRead.caddy.discard = false ∧
    (let b := padTo 1056 windowRead.caddy.req
     field b 1 1 = 1 ∧ admits { windowRead with caddy := { windowRead.caddy with busy := true } } (windowReq b) 1
       (field b 8 2) (field b 0x0A 1)) := by
  unfold admits; and_intros <;> decide +kernel

/-- The descriptor of a Set array mode of cluster 0 in format 1 (R82, R127), its CRC at 0x3C. -/
def modeFrame : List Byte := padTo 60 (le 1 3 ++ le 1 1 ++ le 4 0 ++ le 1 1) ++ le 4 4201370305

/-- A submission entry for a list of one descriptor at 0x10000 (R77), its CRC at 0x3C. -/
def subFrame : List Byte := padTo 60 (le 8 0x10000 ++ le 4 1) ++ le 4 1259351919

/-- The cells of bytes from a place on. -/
def cellsAt (k : Nat) (bs : List Byte) : Mem := (bs.zipIdx.filter (fun e => e.1 != 0)).map (fun e => (k + e.2, e.1))

/-- Partition 0 Running with a submission waiting in its ring of 64 entries: addresses 0x1000 and 0x10000 of its slice. -/
def submitted : State :=
  { part0 (fun q => { q with state := .running, rings := { size := 6, consuming := true, sqTail := 1 } }) with
    mem := cellsAt 68719476736 subFrame ++ cellsAt 1099511627776 modeFrame }

/-- The state in which the entry is judged. -/
def judged (s : State) : State := (s.modRings 0 (fun r => { r with sqHead := (r.sqHead + 1) % r.entries })).syncHeader 0

theorem wit_Submission :
    (submitted.part 0).rings.consuming = true ∧ (submitted.part 0).rings.backlog ≠ 0 ∧
    submitted.openLists 0 + 2 ≤ (submitted.part 0).rings.free ∧ submitted.rd 0 4096 64 = subFrame ∧
    (judged submitted).subStatus 0 subFrame = 0 ∧
    (judged submitted).startFenceStatus 0 (Sub.ofBytes subFrame).fenceKind = 0 ∧
    ((judged submitted).takeList 0 (Sub.ofBytes subFrame)).toBool = true ∧
    (judged submitted).subStatus 0 (zeros 64) ≠ 0 := by
  and_intros <;> decide +kernel

/-- A Set array mode command. -/
def setMode : Cmd := { opcode := 3, kind := 1 }

/-- It waits in the tensor queue of cluster 0. -/
def queued1 : State :=
  (part0 (fun q => { q with
    state := .running, lists := [{ id := 1, active := true, cmds := [{ cmd := setMode, st := .queued }] }] })).modQueue 1 0
      (fun q => { q with fifo := [ref1] })

theorem wit_Dispatch :
    queued1.holds 1 0 = false ∧ noneHeldBack 1 0 queued1 ∧ (queued1.queue 1 0).running = none ∧
    (queued1.queue 1 0).preempted = [] ∧ queued1.choose 1 0 (fun _ => false) = some ref1 ∧
    queued1.cmdOf ref1 = some { cmd := setMode, st := .queued } ∧
    (let u := chosen 1 0 ref1 queued1
     let c : CmdRec := { cmd := setMode, st := .queued }
     u.waitBroken ref1.part ref1.list c.cmd = false ∧ (u.fit ref1.part c (u.readHeld ref1.part c.cmd)).status = 0 ∧
       (u.fit ref1.part c (u.readHeld ref1.part c.cmd)).empty = false) := by
  unfold noneHeldBack; and_intros <;> decide +kernel

/-- A list that waits on lane 0. -/
def waitingLane : State := part0 (fun q => { q with state := .running, lists := [{ id := 1 }] })

theorem wit_ListStart :
    waitingLane.nextOnLane 0 0 = some { id := 1 } ∧ (waitingLane.part 0).state.works = true ∧
    (waitingLane.part 0).rcv.capture = none ∧ (waitingLane.part 0).parked = false ∧
    (∀ y ∈ (waitingLane.part 0).lists, y.lane = 0 → y.active = true → y.parent ≠ none) ∧
    waitingLane.startOpen 0 { id := 1 } = true := by
  and_intros <;> decide +kernel

/-- Commands 0 and 1 of a list have issued their writes and wait for the acknowledgement; of a list of one, command 0. -/
def issued (n : Nat) : State :=
  (part0 (fun q => { q with
    state := .running
    lists := [{ id := 1, active := true, cmds := List.replicate n { cmd := setMode, st := .issued } }] })).modQueue 1 0
      (fun q => { q with issued := [ref1] })

theorem wit_Complete :
    ((issued 2).queue 1 0).issued = [ref1] ∧ (issued 2).cmdOf ref1 = some { cmd := setMode, st := .issued } ∧
    ((issued 2).list 0 1).isSome = true ∧ ((issued 2).list 0 1).map (·.ticks) = some [] ∧
    ((issued 2).part 0).state = .running ∧ (issued 2).boundStreams 0 = [] ∧ (issued 2).colls = [] ∧
    (((issued 2).list 0 1).map (fun x => (x.cmds[1]?).map (·.st))) = some (some .issued) ∧
    ((issued 1).list 0 1).map (fun x => (x.cmds.length, x.parent, x.answered)) = some (1, none, false) := by
  and_intros <;> decide +kernel

/-- Partition 0 with lists, at a time, set up by f. -/
def timed (f : Part → Part) : State := { part0 f with time := { ps := 10 ^ 18, ticks := 10 ^ 12 } }

/-- A list of a schedule, past its deadline. -/
def late : State :=
  timed (fun q => { q with
    state := .running
    lists := [{ id := 1, active := true, deadline := some 5, ticks := [(1, [7])]
                cmds := [{ cmd := { opcode := 3, kind := 1, flags := 2 }, st := .issued }] }] })

/-- A command waits on epoch 1 of the partition, to which another contributed long ago. -/
def stalled : State :=
  (timed (fun q => { q with
    state := .running
    lists := [{ id := 1, active := true
                cmds := [{ cmd := { opcode := 3, kind := 1, waitKind := 3, waitEpoch := 1 }, st := .queued }] }]
    fences := { contribs := [{ scope := scopeKey 3 0, epoch := 1, cluster := 0, list := 1, index := 0, done := true }] } })).setVal
    0x6010 1 (le 4 100)

theorem wit_Timers_lists :
    ((late.part 0).lists.find? (fun y => y.lane == 0 && y.missed late.now)).isSome = true ∧
    (late.list 0 1).isSome = true ∧ ((late.list 0 1).bind (fun x => x.ticks[x.tick]?)).map (·.2) = some [7] ∧
    (∀ x ∈ (late.part 0).lists, ∀ c ∈ x.cmds.take x.started, c.st ≠ .held ∧ c.st ≠ .queued ∧ failed c.status = false) ∧
    stalled.valNat 0x6010 1 ≠ 0 ∧ (stalled.part 0).state.works = true ∧
    (stalled.waitedEpochs 0 3).find? (fun e => stalled.stalled 0 3 e) = some 1 ∧
    roomFor stalled { status := 0x3102, part := 0 } ∧
    ((late.part 0).lists.find? (fun y => y.lane == 0 && y.active && !y.abandoned && !y.ticks.isEmpty)).isSome = true ∧ (late.part 0).state ≠ .hostLost ∧ (late.part 0).rcv.capture = none ∧ memoryCanonical late := by
  unfold memoryCanonical roomFor; and_intros <;> decide +kernel

/-- Partition 0 with an armed lease and a list open. -/
def leased : State :=
  timed (fun q => { q with state := .running, lists := [waitingList], lease := { armed := true, state := 1 } })

theorem wit_Timers_lease :
    (leased.part 0).lease.armed = true ∧ (leased.part 0).lease.state = 1 ∧
    leased.rdNat 0 ((leased.part 0).rings.base + 0x18) 8 = (leased.part 0).lease.lastBeat ∧
    (leased.wr 0 0x18 (le 8 9)).rdNat 0 0x18 8 ≠ (leased.part 0).lease.lastBeat ∧ (leased.part 0).state = .running ∧
    leased.boundStreams 0 = [] ∧ (leased.part 0).lease.seenTick + (leased.part 0).leaseMs * Config.ticksPerMs ≤ leased.time.ticks ∧
    (leased.part 0).mode ≠ 2 ∧ (leased.part 0).lists ≠ [] ∧ roomFor leased { status := 0x3108, part := 0 } := by
  unfold roomFor; and_intros <;> decide +kernel

/-- A Host-lost SL partition with a list open. -/
def orphan : State := timed (fun q => { q with state := .hostLost, mode := 2, lists := [waitingList] })

theorem wit_Timers_orphan :
    (orphan.part 0).state = .hostLost ∧ (orphan.part 0).mode = 2 ∧ (orphan.part 0).lease.asSB = false ∧
    (orphan.part 0).lease.lostTick + orphan.pval 0 0x10 7 * Config.ticksPerMs ≤ orphan.time.ticks ∧
    orphan.boundStreams 0 = [] ∧ (orphan.part 0).lists ≠ [] ∧
    (let s := timed (fun q => { q with rings := { irqTime := 1, irqPending := 1 } })
     let g := (s.part 0).rings
     0 < g.irqTime ∧ 0 < g.irqPending ∧ g.irqFirst + g.irqTime * Config.ticksPerUs ≤ s.time.ticks) ∧
    (orphan.part 0).rings.irqTime = 0 := by
  and_intros <;> decide +kernel

/-! ### Engines -/

theorem wit_Tensor :
    runs (onQueue 1 0 { opcode := 1, kind := 1 } []) 1 0 ref1 (rec1 { opcode := 1, kind := 1 } []) ∧
    (onQueue 1 0 { opcode := 1, kind := 1 } []).inside 0 planeBase 8 = true ∧
    roomFor (onQueue 1 0 { opcode := 1, kind := 1 } []) (parityErr (onQueue 1 0 { opcode := 1, kind := 1 } []) 0 planeBase) ∧
    (({ opcode := 2, kind := 1 } : Cmd).view []).spat.isSome = true ∧
    runs (onQueue 1 0 { opcode := 2, kind := 1 } []) 1 0 ref1 (rec1 { opcode := 2, kind := 1 } []) ∧
    runs (onQueue 1 0 { opcode := 3, kind := 1, arg4 := 2 } []) 1 0 ref1 (rec1 { opcode := 3, kind := 1, arg4 := 2 } []) ∧
    runs (onQueue 1 0 { opcode := 4, kind := 1, fmt := 1 } []) 1 0 ref1 (rec1 { opcode := 4, kind := 1, fmt := 1 } []) ∧
    runs (onQueue 1 0 { opcode := 5, kind := 1 } []) 1 0 ref1 (rec1 { opcode := 5, kind := 1 } []) ∧ bit 0 0 = false := by
  unfold runs roomFor; and_intros <;> decide +kernel

/-- A GEMM of one pass over one element, its loop descriptor at 0 and its buffer set at 0x1000 (R143, R151). -/
def small : Cmd := { opcode := 1, kind := 1, fmt := 1, arg2 := 4096 }

/-- Their bytes without the CRC fields, and the CRCs. -/
def loopBody : List Byte := padTo 188 (le 4 0 ++ le 2 1 ++ le 2 1 ++ le 1 1)
def bufsBody : List Byte := padTo 160 (zeros 8 ++ le 8 1048576 ++ zeros 24 ++ le 8 1048576)
def loopCrc : Nat := 3363756491
def bufsCrc : Nat := 216936218

theorem crc_of_parts (a b c d : List Byte) (r q p o : BitVec 32) (ha : crcRun 0xFFFFFFFF#32 a = r) (hb : crcRun r b = q)
    (hc : crcRun q c = p) (hd : crcRun p d = o) : crc32c (a ++ b ++ c ++ d) = (o ^^^ 0xFFFFFFFF#32).toNat := by
  simp only [crcRun] at ha hb hc hd
  simp only [crc32c, crcRun, List.foldl_append, ha, hb, hc, hd]

theorem loop_crc : crc32c loopBody = loopCrc := by
  have h : loopBody = loopBody.take 47 ++ (loopBody.drop 47).take 47 ++ (loopBody.drop 94).take 47 ++ loopBody.drop 141 := by
    decide +kernel
  rw [h, crc_of_parts _ _ _ _ 3168401675#32 3711460058#32 1883112089#32 931210804#32 (by decide +kernel) (by decide +kernel)
    (by decide +kernel) (by decide +kernel)]
  decide +kernel

theorem bufs_crc : crc32c (zeros 28 ++ bufsBody) = bufsCrc := by
  have h : zeros 28 ++ bufsBody = (zeros 28 ++ bufsBody).take 47 ++ ((zeros 28 ++ bufsBody).drop 47).take 47 ++
      ((zeros 28 ++ bufsBody).drop 94).take 47 ++ (zeros 28 ++ bufsBody).drop 141 := by
    decide +kernel
  rw [h, crc_of_parts _ _ _ _ 3265177035#32 2040859821#32 1316585602#32 4078031077#32 (by decide +kernel) (by decide +kernel)
    (by decide +kernel) (by decide +kernel)]
  decide +kernel

/-- What the dispatcher reads for it. -/
def smallHeld : List (List Byte) :=
  [loopBody ++ le 4 loopCrc, zeros 28 ++ (le 4 bufsCrc ++ bufsBody), [], [], [], [], [], []]

/-- The waiting command, which may preempt. -/
def smallRec : CmdRec := { cmd := small, st := .queued, crcs := [loopCrc, bufsCrc, 0] }

theorem small_crcs : crcsSame small smallRec.crcs smallHeld = true := by
  have h1 : slice (loopBody ++ le 4 loopCrc) 0 0xBC = loopBody := by decide +kernel
  have h2 : slice (zeros 28 ++ (le 4 bufsCrc ++ bufsBody)) 0 0x1C ++ slice (zeros 28 ++ (le 4 bufsCrc ++ bufsBody)) 0x20 0xA0 =
    zeros 28 ++ bufsBody := by decide +kernel
  have h3 : field (loopBody ++ le 4 loopCrc) 0xBC 4 = loopCrc := by decide +kernel
  have h4 : field (zeros 28 ++ (le 4 bufsCrc ++ bufsBody)) 0x1C 4 = bufsCrc := by decide +kernel
  simp [crcsSame, smallHeld, small, smallRec, crcOk, bufsCrcOk, h1, h2, h3, h4, loop_crc, bufs_crc]

/-- The command on lane 1 that may preempt the one on lane 0. -/
def ref2 : QRef := { part := 0, list := 2, index := 0, lane := 1 }

/-- A command of one pass on lane 0 runs on cluster 0, and the small one waits on lane 1. -/
def preemptible : State :=
  ({ onQueue 1 0 { opcode := 1, kind := 1 } [] with
    mem := cellsAt 0 (loopBody ++ le 4 loopCrc) ++ cellsAt (68719476736 + 0x1C) (le 4 bufsCrc ++ bufsBody)
    parts := [(0, { Part.first with
      state := .running
      lists := [{ id := 1, active := true, cmds := [rec1 { opcode := 1, kind := 1 } []] },
                { id := 2, active := true, lane := 1, cmds := [smallRec] }] })] }).modQueue 1 0
    (fun q => { q with fifo := [ref2] })

/-- That command stopped before its first pass, and the other chosen. -/
def preempted : State :=
  chosen 1 0 ref2 (((preemptible.stopAt 0 ref1 (rec1 { opcode := 1, kind := 1 } []) 0).count
    (siteIndex (preemptible.siteN 0)) 9 1).modQueue 1 0 (fun q => { q with running := none, preempted := [ref1] }))

theorem preempted_held : preempted.readHeld 0 small = smallHeld := by decide +kernel

theorem wit_Preemption :
    runs preemptible 1 0 ref1 (rec1 { opcode := 1, kind := 1 } []) ∧ noneHeldBack 1 0 preemptible ∧
    (preemptible.part 0).policy = 0 ∧ 0 < ((rec1 { opcode := 1, kind := 1 } []).cmd.view []).passes ∧
    (preemptible.queue 1 0).preempted = [] ∧
    preemptible.choose 1 0 (fun x => x.lane == ref1.lane || !((preemptible.cmdOf x).map (fun y : CmdRec =>
      preemptible.ready x.part y.cmd && preemptible.mayPreempt x.part y.cmd)).getD false) = some ref2 ∧
    preemptible.cmdOf ref2 = some smallRec ∧ preempted.waitBroken 0 2 small = false := by
  unfold runs noneHeldBack; and_intros <;> decide +kernel

theorem wit_Preemption_fits :
    (preempted.fit 0 smallRec (preempted.readHeld 0 small)).status = 0 ∧
    (preempted.fit 0 smallRec (preempted.readHeld 0 small)).empty = false := by
  have h : preempted.fit 0 smallRec smallHeld = preempted.fitLoop 0 small smallRec.crcs smallHeld := by
    simp [State.fit, smallRec, small]
  rw [preempted_held, h]
  unfold State.fitLoop
  simp only [small_crcs]
  decide +kernel

/-- A GEMM runs on cluster 0; core (0, 0) of its site has had k faults. -/
def faulty (k : Nat) : State :=
  (onQueue 1 0 { opcode := 1, kind := 1 } []).modSite 0 (fun x => { x with coreFaults := [(0, k)] })

/-- The command replays its tiles for an earlier fault of that core. -/
def replayed : State :=
  (faulty 1).modSite 0 (fun x => { x with
    resume := some { ref := ref1, passes := 0, replay := [(0, 0)] }, cleared := [(0, 0)] })

theorem wit_ArrayFault :
    (faulty 0).logicalOf 0 = some 0 ∧ runs (faulty 0) 1 0 ref1 (rec1 { opcode := 1, kind := 1 } []) ∧
    (({ opcode := 1, kind := 1 } : Cmd).view []).fle = false ∧ (({ opcode := 1, kind := 1 } : Cmd).view []).pool = false ∧
    ((faulty 0).site 0).column 0 = 0 ∧ 0 < (({ opcode := 1, kind := 1 } : Cmd).view []).passes ∧
    (({ opcode := 1, kind := 1 } : Cmd).view []).loop.init ≠ 2 ∧ ((faulty 0).site 0).cleared.contains (0, 0) = false ∧
    roomFor (faulty 0) { status := 0x6101, part := 0, unitKind := 2, unit := siteUnit 0, detail := le 1 0 ++ le 1 0 } ∧
    Tab.get ((faulty 2).site 0).coreFaults 0 0 = 2 ∧ ((faulty 2).site 0).nearestColumn 0 = some 32 ∧
    roomFor ((faulty 2).raise { status := 0x6101, part := 0, unitKind := 2, unit := siteUnit 0, detail := le 1 0 ++ le 1 0
                                ref := (faulty 2).refOf ref1 })
      { status := 0x6102, part := ((faulty 2).partOfRow 0).getD 0xFF, unitKind := 1, unit := siteUnit 0 } ∧
    ((faulty 0).record 0 ref1).passes ≤ 0 ∧ replayed.replaying 0 ref1 0 = true ∧ (replayed.site 0).cleared.contains (0, 0) = true ∧
    runs replayed 1 0 ref1 (rec1 { opcode := 1, kind := 1 } []) ∧ (replayed.record 0 ref1).passes ≤ 0 ∧
    (let c := rec1 { opcode := 1, kind := 1 } [padTo 192 (zeros 10 ++ le 1 2)]
     (c.cmd.view c.held).loop.init = 2 ∧ 0 < (c.cmd.view c.held).passes) := by
  unfold roomFor runs; and_intros <;> decide +kernel

/-- A spatial command runs on the First-Layer Engine of cluster 0's band. -/
def onFle : State := onQueue 1 0 { opcode := 2, kind := 1 } [[], [], le 4 0 ++ le 1 1]

theorem wit_OtherFaults :
    (let s := State.reset.modSite 0 (fun x => { x with retiring := some (3, 32) })
     (s.site 0).retiring = some (3, 32)) ∧
    State.reset.siteOf 0 = some 0 ∧ State.reset.partOfCluster 0 = some 0 ∧ (State.reset.queue 1 0).running = none ∧
    State.reset.pval 0 0x30 2 ≠ 0 ∧ (State.reset.site 0).steep < 8 ∧ State.reset.atWork 0 0 = false ∧
    State.reset.gapCycles 0 < State.reset.cyclesOf 0 (State.reset.pval 0 0x30 2) + 256 * ((State.reset.site 0).steep + 1) ∧
    (let s : State := { State.reset with time := { ps := 10 ^ 18 } }
     s.cyclesOf 0 (s.pval 0 0x30 2) + 256 * ((s.site 0).steep + 1) ≤ s.gapCycles 0 ∧ s.fleOwner 0 = some 0 ∧
       s.atWork 0 1260 = false ∧ s.cyclesOf 1260 (s.pval 0 0x30 2) + 256 * ((s.site 1260).steep + 1) ≤ s.gapCycles 1260) ∧
    (onFle.record (onFle.siteN 0) ref1).passes ≤ 0 ∧ 0 < (({ opcode := 2, kind := 1 } : Cmd).view [[], [], le 4 0 ++ le 1 1]).passes ∧
    (onFle.fle 0).retired.contains 0 = false ∧ (onFle.fle 0).outOfService = false ∧
    onFle.fleRunner 0 = some (0, ref1, rec1 { opcode := 2, kind := 1 } [[], [], le 4 0 ++ le 1 1]) ∧
    onFle.fleLogical 0 0 = some 0 ∧ roomFor onFle { status := 0x6105, part := 0, unitKind := 4, unit := 0 } ∧
    Tab.get (onFle.fle 0).faults 0 0 < 2 := by
  unfold roomFor; and_intros <;> decide +kernel

/-- A checksum verify of one block of zeros at the start of the slice, its pair entry at 0x1000 holding bytes. -/
def verify (bytes : List Byte) : State :=
  { onQueue 2 0 { opcode := 4, kind := 2, fmt := 1, arg3 := 1, arg4 := 1 } [] with mem := cellsAt 68719476736 bytes }

theorem wit_Vector :
    runs (onQueue 2 0 { opcode := 1, kind := 2, fmt := 1, arg3 := 4, arg4 := 0x101 } []) 2 0 ref1
      (rec1 { opcode := 1, kind := 2, fmt := 1, arg3 := 4, arg4 := 0x101 } []) ∧
    ({ opcode := 1, kind := 2, fmt := 1, arg3 := 4, arg4 := 0x101 } : Cmd).vop = 1 ∧
    runs (onQueue 2 0 { opcode := 2, kind := 2, fmt := 2 } []) 2 0 ref1 (rec1 { opcode := 2, kind := 2, fmt := 2 } []) ∧
    runs (onQueue 2 0 { opcode := 3, kind := 2, fmt := 1 } []) 2 0 ref1 (rec1 { opcode := 3, kind := 2, fmt := 1 } []) ∧
    memoryCanonical (onQueue 2 0 { opcode := 3, kind := 2, fmt := 1 } []) ∧
    (verify []).running 1 0 = none ∧ (verify []).inAccWindow 0 0 1 = false ∧ (verify []).inside 0 planeBase 8 = true ∧
    roomFor (verify []) (parityErr (verify []) 0 planeBase) := by
  unfold runs memoryCanonical roomFor; and_intros <;> decide +kernel

theorem foldF64_of_zeros (vs : List FV) (h : ∀ v ∈ vs, v = (formatOf 1).decode 0) : foldF64 vs = 0 := by
  have step : fp64.round .nearest (FV.add (fp64.decode 0) ((formatOf 1).decode 0)) = 0 := by decide +kernel
  have fold : ∀ l : List FV, (∀ v ∈ l, v = (formatOf 1).decode 0) →
      l.foldl (fun acc v => fp64.round .nearest (FV.add (fp64.decode acc) v)) 0 = 0 := by
    intro l
    induction l with
    | nil => intro _; rfl
    | cons a r ih =>
      intro hl
      rw [List.foldl_cons, hl a (List.mem_cons_self ..), step]
      exact ih (fun v hv => hl v (List.mem_cons_of_mem _ hv))
  refine fold _ (fun v hv => h v ?_)
  obtain ⟨e, he, rfl⟩ := List.mem_map.mp hv
  exact (List.mem_zipIdx' (List.mem_mergeSort.mp he)).2 ▸ List.getElem_mem _

theorem verify_sum (bytes : List Byte) (h : ∀ v ∈ (List.range 1024).map (fun i =>
      (formatOf 1).decode ((verify bytes).rdNat 0 (i * 4) 4)), v = (formatOf 1).decode 0) :
    (verify bytes).verifyBlock 0 { opcode := 4, kind := 2, fmt := 1, arg3 := 1, arg4 := 1 } 0 =
      (0, (verify bytes).rdNat 0 4096 8, (verify bytes).rdNat 0 4104 8,
        checksumOk 0 ((verify bytes).rdNat 0 4096 8) (tolOf 1 0 ((verify bytes).rdNat 0 4104 8))) := by
  have w : (formatOf 1).width / 8 = 4 := by decide +kernel
  have z := foldF64_of_zeros _ h
  simp only [State.verifyBlock, w, Nat.mul_zero, Nat.zero_add, Nat.zero_mod, Nat.mul_one, Nat.add_zero]
  rw [z]

theorem wit_Vector_verify :
    runs (verify []) 2 0 ref1 (rec1 { opcode := 4, kind := 2, fmt := 1, arg3 := 1, arg4 := 1 } []) ∧
    ((verify []).verifyBlock 0 { opcode := 4, kind := 2, fmt := 1, arg3 := 1, arg4 := 1 } 0).2.2.2 = true ∧
    ((verify (le 8 0x3FF0000000000000)).verifyBlock 0 { opcode := 4, kind := 2, fmt := 1, arg3 := 1, arg4 := 1 } 0).2.2.2 = false ∧
    roomFor (verify []) { status := 0x2301, part := 0, unitKind := 1, unit := siteUnit ((verify []).siteN 0) } ∧
    memoryCanonical (verify (le 8 0x3FF0000000000000)) := by
  rw [verify_sum [] (by decide +kernel), verify_sum (le 8 0x3FF0000000000000) (by decide +kernel)]
  unfold runs memoryCanonical roomFor; and_intros <;> decide +kernel

/-- A command of the move engine of cluster 0. -/
def moving (op arg4 : Nat) (held : List (List Byte)) : State := onQueue 3 0 { opcode := op, kind := 3, arg3 := 4096, arg4 := arg4 } held

theorem wit_Move :
    runs (moving 1 0 []) 3 0 ref1 (rec1 { opcode := 1, kind := 3, arg3 := 4096 } []) ∧
    ((moving 1 0 []).readStop 0 0 4096 []).1 = none ∧
    (({ moving 1 0 [] with hbm := { maintained := [(0, 8)] } } : State).readStop 0 0 4096 [{ addr := 0, persists := true }]).1 = some 0 ∧
    roomFor { moving 1 0 [] with hbm := { maintained := [(0, 8)] } } { status := 0x2201, part := 0, unitKind := 3, unit := 0 } ∧
    runs (moving 1 1 []) 3 0 ref1 (rec1 { opcode := 1, kind := 3, arg3 := 4096, arg4 := 1 } []) ∧ bit 1 0 = true ∧
    (rec1 { opcode := 1, kind := 3, arg3 := 4096, arg4 := 1 } [zeros 32]).held.head? = some (zeros 32) ∧
    runs (moving 2 1 []) 3 0 ref1 (rec1 { opcode := 2, kind := 3, arg3 := 4096, arg4 := 1 } []) ∧
    runs (moving 3 0 []) 3 0 ref1 (rec1 { opcode := 3, kind := 3, arg3 := 4096 } []) ∧
    ((moving 3 0 []).readStop 0 0 4096 []).1 = none ∧
    runs (moving 4 0 []) 3 0 ref1 (rec1 { opcode := 4, kind := 3, arg3 := 4096 } []) ∧
    (((moving 4 0 []).modPart 0 (fun q => { q with nextList := 2 })).list 0 2) = none ∧
    tilesApart (moving 1 0 []) 0 0 ∧ tilesApart (moving 1 0 []) 0 planeBase ∧
    ((moving 1 0 []).readStop 0 planeBase 4096 [{ addr := planeBase, persists := true }]).1 = some planeBase ∧
    roomFor (moving 1 0 []) (parityErr (moving 1 0 []) 0 planeBase) ∧
    (let s := moving 1 0 []
     s.siteOf 0 = some 0 ∧ s.siteAt (planeBase + planeStep) = some 1 ∧ s.route 0 1 = some [(0, 1)] ∧
       s.planesOf [(0, 1)] = [0, 1, 2, 3] ∧ s.bypassed 0 = false ∧ s.bypassed 1 = false ∧ (s.site 1).halted = false ∧
       s.partOfRow 0 = some 0 ∧ (part0 (fun q => { q with rows := 0 })).partOfRow 0 ≠ some 0) ∧
    memoryCanonical (moving 4 0 []) := by
  unfold runs memoryCanonical roomFor tilesApart; and_intros <;> decide +kernel

/-! ### Links -/

/-- An all-reduce of ring 0, port 0, of one block with one block of staging (R276). -/
def ring : List Byte := padTo 128 (le 3 0 ++ le 1 2 ++ le 1 0 ++ le 1 0 ++ le 1 0 ++ le 1 1 ++ le 4 0 ++ le 4 4 ++ zeros 24 ++ le 4 4096)

/-- It runs on queue 0, its port up; its run is x. -/
def inRing (x : Option CollRun) : State :=
  { onQueue 4 0 { opcode := 3, kind := 4 } [ring] with
    kports := [(0, { state := 2, peer := 3 })], colls := (x.map (fun y => [(0, y)])).getD [] }

/-- What the module knows of it. -/
def ringCtx : CollCtx := { r := ref1, q := 0, op := 3, d := Coll.ofBytes ring }

/-- Its record. -/
def ringRec : CmdRec := rec1 { opcode := 3, kind := 4 } [ring]

/-- A block of it. -/
def ringBlock : BlockFields :=
  { group := 0, tensor := 0, policy := 2, format := 1, total := 4, block := ringCtx.blockAt 0
    contributed := 1, payload := [] }

theorem wit_Collectives_start :
    (inRing none).collCtx 0 = some ringCtx ∧ (inRing none).coll 0 = none ∧ ((inRing none).kport (portOf 0)).state = 2 ∧
    ((inRing none).kport ringCtx.d.port).state = 2 ∧ (inRing none).creditsOf 0 = 0 ∧ ringCtx.total ≠ 0 ∧
    (({ inRing none with kports := [(0, { state := 0 })] } : State).kport (portOf 0)).state ≠ 2 ∧
    (inRing none).cmdOf ref1 = some ringRec ∧ (linked.receiver hdr.port hdr.tag) = none := by
  and_intros <;> decide +kernel

/-- It waits for its own contribution, with credits granted, and two owed since long ago. -/
def ringRun : CollRun := { ref := ref1, granted := 4, owed := 2 }

/-- Later. -/
def inRingLate (x : CollRun) : State := { inRing (some x) with time := { ps := 10 ^ 18, ticks := 10 ^ 12 } }

theorem wit_Collectives_block :
    (inRing (some ringRun)).receiver 0 0 = some ringCtx ∧ (inRing (some ringRun)).coll 0 = some ringRun ∧
    (inRing (some ringRun)).keyMatches ringCtx ringBlock = true ∧
    (inRing (some ringRun)).keyMatches ringCtx { ringBlock with group := 1 } = false ∧
    ringRun.got + ringRun.holdQ.length < ringRun.granted ∧ ringBlock.block = ringCtx.blockAt (ringRun.got + ringRun.holdQ.length) ∧
    (inRing (some ringRun)).contribClosed { ringCtx with d := { ringCtx.d with contribKind := 3, contribEpoch := 1 } } = false ∧
    ringRun.got < ringCtx.reduceBlocks ∧ (inRing (some ringRun)).creditsOf 0 = 0 ∧ ringRun.owed < 8 ∧ ringRun.owed ≠ 0 ∧
    ringRun.late = false ∧ ringRun.ready = false ∧ ringRun.holdQ = [] ∧ ({ ringRun with ready := true } : CollRun).ready = true ∧ portOf hdr.tag = hdr.port ∧ linked.collCtx hdr.tag = none ∧
    ringRun.owedTick + Config.ticksPerUs ≤ (inRingLate ringRun).time.ticks ∧
    ringRun.heard + (inRingLate ringRun).valNat 0xB000 1 * Config.ticksPerMs ≤ (inRingLate ringRun).time.ticks ∧
    ringRun.tickDeadline ≤ (inRingLate ringRun).time.ticks ∧ (inRingLate ringRun).ledgerSize 0 = 0 ∧
    ringRun.got ≠ ringCtx.total ∧ roomFor (inRingLate ringRun) { status := 0x4108, part := 0 } := by
  unfold roomFor; and_intros <;> decide +kernel

/-- Port 0 in a state, after a time. -/
def port0 (x : KPort) : State := { State.reset with time := { ticks := 10 ^ 12 }, kports := [(0, x)] }

theorem wit_Kettle :
    ((port0 { state := 2 }).kport 0).state = 2 ∧ ((port0 { state := 2, fails := 3 }).kport 0).fails = 3 ∧
    ((port0 { state := 2, fails := 3, retrained := true }).kport 0).retrained = true ∧
    roomFor (port0 { state := 2 }) { status := 0x6303, unitKind := 8, unit := 0 * 256 + 0xFF } ∧
    (∀ p < 4, ((port0 { state := 2 }).part p).bindReq = none) ∧ (port0 { state := 2 }).colls = [] ∧
    (port0 { state := 2 }).fetches = [] ∧ ((port0 { state := 2 }).kport 0).spareDead = false ∧
    ((port0 { state := 2 }).kport 0).spare = 0xFF ∧
    (0 + 4096 - 0 % 4096) % 4096 ≤ 1024 ∧ 3 ≠ State.reset.address ∧ ((port0 {}).kport 0).state = 1 ∧ State.reset.notices = [] ∧
    (port0 {}).xfers = [] ∧ roomFor (port0 { state := 2 }) { status := 0x6302, unitKind := 8, unit := 0 * 256 + 4 } := by
  unfold roomFor; and_intros <;> decide +kernel

/-- Module 3 was the peer of port 0, which is down; partition 0 is the one member of a group and rolls back. -/
def peerGone : State := { grouped0 with time := { ticks := 10 ^ 12 }, kports := [(0, { state := 0, peer := 3 })] }

theorem wit_PeerLoss :
    (peerGone.kport 0).peer = 3 ∧ (∀ q < 4, q ≠ 0 → peerGone.grouped q = false) ∧
    (∀ j < 12, (peerGone.kport j).peer = 3 → (peerGone.kport j).state ≠ 2 ∧
      (peerGone.kport j).downSince + peerGone.valNat 0xB000 2 * Config.ticksPerMs ≤ peerGone.time.ticks) ∧
    peerGone.grouped 0 = true ∧ (peerGone.part 0).rcv.lost.contains 3 = false ∧
    (peerGone.part 0).rcv.rollback.isSome = true ∧ roomFor peerGone { status := 0x7303, unitKind := 0x0D, unit := 3 } ∧
    (port0 { state := 0, peer := 3 }).grouped 0 = false ∧
    (let s := peerGone.modPart 0 (fun q => { q with state := .idle, rcv := {} })
     s.grouped 0 = true ∧ (s.part 0).state.works = false) := by
  unfold roomFor; and_intros <;> decide +kernel

/-! ### Sachet points and fetches -/

/-- A sachet point, plain or forced, and a fetch by its descriptor (R303, R321). -/
def sachetAt (arg4 : Nat) (held : List (List Byte)) : State := onQueue 4 0 { opcode := 4, kind := 4, arg4 := arg4 } held

/-- A fetch of a block from a holder. -/
def fetchDesc (holder : Nat) : List Byte := padTo 64 (zeros 3 ++ le 1 holder ++ zeros 12 ++ zeros 8 ++ le 8 8192)

/-- The fetch from module 3 is under way, its block at offset 0 bad once. -/
def fetching (bad : List Nat) : State :=
  { sachetAt 1 [fetchDesc 3] with kports := [(0, { state := 2, peer := 3 })], fetches := [(0, { ref := ref1, bad := bad })] }

theorem wit_Sachets :
    runs (sachetAt 0 []) 4 0 ref1 (rec1 { opcode := 4, kind := 4 } []) ∧ ((sachetAt 0 []).part 0).rcv.capture = none ∧
    ¬ (((sachetAt 0 []).part 0).interval ≠ 0 ∧ ((sachetAt 0 []).part 0).interval ≤ ((sachetAt 0 []).part 0).rcv.sinceLast + 1) ∧
    ((sachetAt 0 []).part 0).rcv.force = false ∧ bit 0 2 = false ∧
    runs (sachetAt 4 []) 4 0 ref1 (rec1 { opcode := 4, kind := 4, arg4 := 4 } []) ∧ bit 4 2 = true ∧ bits 4 1 0 = 0 ∧
    ((sachetAt 4 []).part 0).rcv.reclaim = none ∧
    runs (sachetAt 1 [fetchDesc 0]) 4 0 ref1 (rec1 { opcode := 4, kind := 4, arg4 := 1 } [fetchDesc 0]) ∧ bits 1 1 0 = 1 ∧
    (FetchDesc.ofBytes (fetchDesc 0)).holder = (sachetAt 1 []).address ∧
    ((sachetAt 1 []).serveFetch 0 0 0 0 0 0 0).toBool = false ∧
    (FetchDesc.ofBytes (fetchDesc 3)).holder ≠ (sachetAt 1 []).address ∧ (sachetAt 1 []).portsTo 3 = [] ∧
    (fetching []).portsTo 3 = [0] ∧
    (let s := (sachetAt 4 []).modPart 0 (fun q => { q with rcv := { capture := some { cmds := [{ ref1 with index := 1 }] } } })
     runs s 4 0 ref1 (rec1 { opcode := 4, kind := 4, arg4 := 4 } []) ∧
       ((s.part 0).rcv.capture.map (fun k => (k.phase, k.cmds.contains ref1))) = some (0, false)) ∧
    Tab.find (sachetAt 1 []).fetches 0 = none := by
  unfold runs; and_intros <;> decide +kernel

/-- A window of partition 0 of module 0 hosted here, in group 0, with its newest sachet complete. -/
def hosting : State :=
  { part0 (fun q => { q with state := .running, member := true }) with
    vals := [(0x2300 * 256 + 1, le 2 16), (0x3050 * 256 + 1, le 1 0)], kports := [(0, { state := 2, peer := 3 })]
    guests := [{ module := 0, part := 0, slots := 2, gib := 16, slotBytes := 4194304, held := [(7, 1, true)] },
               { module := 3, part := 0, slots := 2, gib := 16, slotBytes := 4194304, held := [(7, 1, true)] }] }

theorem wit_Sachets_fetch :
    (hosting.serveFetch 0 0 0 0 0 0 0).toBool = true ∧ (linked.serveFetch 3 0 0 0 0 0 0).toBool = false ∧
    linked.guestOf 3 0 = none ∧ hosting.guestOf 3 0 = hosting.guests[1]? ∧
    (((hosting.guestOf 3 0).map (fun g => ((g.open 7 4194304).held.findIdx? (fun e => e.1 == 7), (g.open 7 4194304).slots))) =
      some (some 0, 2)) ∧ hosting.inWindow 0 4096 = true ∧
    runs (fetching []) 4 0 ref1 (rec1 { opcode := 4, kind := 4, arg4 := 1 } [fetchDesc 3]) ∧
    ((fetching []).fetchFrom 3 (fun d => (d.id == 0 || d.id == 5) && d.offset ≤ 0 && 0 + 4096 ≤ d.offset + d.bytes)) =
      some (0, ref1, FetchDesc.ofBytes (fetchDesc 3)) ∧
    (Tab.get (fetching [0]).fetches { ref := ref1 } 0).bad.contains 0 = true ∧
    (Tab.get (fetching []).fetches { ref := ref1 } 0).got + 4096 < (FetchDesc.ofBytes (fetchDesc 3)).bytes ∧
    ((fetching []).kport hdr.port).state = 2 ∧ memoryCanonical (fetching []) := by
  unfold runs memoryCanonical; and_intros <;> decide +kernel

/-- What is served stands in blocks that match their CRCs, or the first of them does not. -/
theorem wit_Sachets_window :
    (hosting.windowBlocks 0 4096).find? hosting.badPlace = none ∧
    (∀ k ∈ (hosting.windowBlocks 0 4096).head?,
      (let s := { hosting with hbm := { maintained := [(blockOf k, blockOf k + 1)], corrupt := [blockOf k] } }
       (s.windowBlocks 0 4096).find? s.badPlace = some k)) ∧ (hosting.windowBlocks 0 4096).head?.isSome = true ∧
    roomFor hosting { status := 0x2201, part := 0xFF, unitKind := 3, unit := 0 } ∧ hosting.hbm.corrupt = [] := by
  unfold roomFor; and_intros <;> decide +kernel

/-- A transfer of two blocks to module 3, served from the window or for a sachet. -/
theorem wit_Sachets_confirm :
    (let x : Xfer := { source := 4, module := 3, id := 7, blocks := 1, flight := [(0, 0)] }
     x.first ≤ 0 ∧ (0 - x.first) / 4096 < x.blocks ∧
       x.done + (x.flight.filter (fun f => decide (0 ≤ f.2) && decide (f.2 < 0 + 1))).length = x.blocks) := by
  and_intros <;> decide +kernel

/-! ### Media -/

/-- A text stream read from memory, its descriptor at 0 with its CRC at 0x7C (R250). -/
def descBody : List Byte := padTo 124 (le 2 0x4946 ++ le 1 1 ++ le 1 4 ++ le 1 0x31 ++ le 1 1 ++ zeros 18 ++ le 4 1073741824)
def descCrc : Nat := 3426119161

theorem desc_crc : crcOk (descBody ++ le 4 descCrc) 0x7C = true := by
  have h1 : slice (descBody ++ le 4 descCrc) 0 0x7C = descBody.take 31 ++ (descBody.drop 31).take 31 ++
    (descBody.drop 62).take 31 ++ descBody.drop 93 := by decide +kernel
  have h2 : field (descBody ++ le 4 descCrc) 0x7C 4 = descCrc := by decide +kernel
  unfold crcOk
  rw [h1, h2, crc_of_parts _ _ _ _ 3434635600#32 2419076204#32 4210356090#32 868848134#32 (by decide +kernel)
    (by decide +kernel) (by decide +kernel) (by decide +kernel)]
  decide +kernel

/-- A media command on queue 0. -/
def media (op arg4 : Nat) (held : List (List Byte)) : State :=
  { onQueue 5 0 { opcode := op, kind := 5, arg4 := arg4 } held with mem := cellsAt 0 (descBody ++ le 4 descCrc) }

/-- A stream on port 0, bound. -/
def bound : Stream := { state := 1, desc := zeros 128 }

/-- A block list of one sample entry at position 0 (R257, R258). -/
def blocks : List Byte := padTo 96 (zeros 4 ++ le 4 1 ++ zeros 24 ++ le 4 1 ++ zeros 28 ++ le 1 1)

theorem wit_Media_bind :
    runs (media 1 0 []) 5 0 ref1 (rec1 { opcode := 1, kind := 5 } []) ∧ ((media 1 0 []).stream 0).state = 0 ∧
    (media 1 0 []).bindStatus 0 (boundStream (media 1 0 []) 0 ref1 (rec1 { opcode := 1, kind := 5 } [])) false = 0 ∧
    ({ media 1 0 [] with mem := [] } : State).bindStatus 0 (boundStream { media 1 0 [] with mem := [] } 0 ref1
      (rec1 { opcode := 1, kind := 5 } [])) false ≠ 0 ∧
    (({ media 1 0 [] with streams := [(0, bound)] } : State).stream 0).state ≠ 0 := by
  have hd : (boundStream (media 1 0 []) 0 ref1 (rec1 { opcode := 1, kind := 5 } [])).desc = descBody ++ le 4 descCrc := by
    decide +kernel
  have hb : (media 1 0 []).bindStatus 0 (boundStream (media 1 0 []) 0 ref1 (rec1 { opcode := 1, kind := 5 } [])) false = 0 := by
    unfold State.bindStatus
    simp only [hd, desc_crc]
    decide +kernel
  have hn : crcOk (boundStream { media 1 0 [] with mem := [] } 0 ref1 (rec1 { opcode := 1, kind := 5 } [])).desc 0x7C = true ∨
      field (boundStream { media 1 0 [] with mem := [] } 0 ref1 (rec1 { opcode := 1, kind := 5 } [])).desc 0 2 ≠ 0x4946 := by
    right; decide +kernel
  refine ⟨?_, ?_, hb, ?_, ?_⟩
  · unfold runs; decide +kernel
  · decide +kernel
  · have hf : (field (boundStream { media 1 0 [] with mem := [] } 0 ref1 (rec1 { opcode := 1, kind := 5 } [])).desc 0 2 == 0x4946)
        = false := by decide +kernel
    unfold State.bindStatus
    simp [hf, firstFail]
  · decide +kernel

/-- The stream decodes; a close runs on its queue while the decode command's round is under way. -/
def closing (arg4 : Nat) : State :=
  { (part0 (fun q => { q with
      state := .running
      lists := [{ id := 1, active := true, cmds := [rec1 { opcode := 3, kind := 5, arg4 := arg4 } [],
        rec1 { opcode := 2, kind := 5 } []] }] })).modQueue 5 0 (fun q => { q with running := some ref1 }) with
    streams := [(0, { bound with
      cmd := some { ref1 with index := 1 }
      rounds := some { ({ opcode := 2, kind := 5 } : Cmd).rounds (padTo 128 (zeros 4 ++ le 4 2)) with done := [0] } })] }

theorem wit_Media_decode :
    runs (media 2 0 [blocks]) 5 0 ref1 (rec1 { opcode := 2, kind := 5 } [blocks]) ∧ ((media 2 0 []).stream 0).cmd = none ∧
    bound.state = 1 ∧ bound.fromPort = true ∧ bound.samples = [] ∧ bound.resultCredits = 0 ∧
    (({ opcode := 2, kind := 5 } : Cmd).rounds blocks).entries ≠ [] ∧
    runs (media 3 0 []) 5 0 ref1 (rec1 { opcode := 3, kind := 5 } []) ∧ bound.cmd = none ∧ bound.rounds = none ∧
    runs (closing 1) 5 0 ref1 (rec1 { opcode := 3, kind := 5, arg4 := 1 } []) ∧ bit 1 0 = true ∧ bit 0 0 = false ∧
    ((closing 1).stream 0).cmd = some { ref1 with index := 1 } ∧ (((closing 1).stream 0).rounds.map (·.done)) = some [0] ∧
    ((closing 1).stream 0).roundDone = false ∧ ((closing 1).stream 0).admitsNew = true ∧
    ((closing 1).cmdOf { ref1 with index := 1 }).isSome = true := by
  unfold runs; and_intros <;> decide +kernel

/-- Ingest port 0 up, taking OPEN, with a stream on connection 0. -/
def ported (x : Stream) : State :=
  { State.reset with
    time := { ps := 10 ^ 18, ticks := 10 ^ 12 }, vals := [(0xC000 * 256 + 1, le 1 1)], iports := [(0, { state := 2 })]
    streams := [(0, x)] }

/-- A message on it, the first block of a sample. -/
def msg : IngestMsg := { port := 0, conn := 0, seq := 5, flags := 1, payload := zeros 4 }

theorem wit_Ingest :
    frameTaken (ported bound) msg ∧ bit ((ported bound).valNat 0xC000 1) msg.port = true ∧
    frameTaken (ported {}) msg ∧ (ported {}).streamAt 0 0 = none ∧
    ((ported {}).setVal 0x3020 5 (le 1 0)).storeAt 0 0 = some 0 ∧ (ported {}).storeAt 0 7 = none ∧
    frameTaken ((ported {}).setVal 0xC000 1 (le 1 0)) msg ∧ bit (((ported {}).setVal 0xC000 1 (le 1 0)).valNat 0xC000 1) 0 = false ∧
    (ported bound).streamAt 0 0 = some 0 ∧ bound.encrypted = false ∧
    ({ bound with expectSeq := some 4 } : Stream).expectSeq ≠ some msg.seq ∧
    roomFor (ported bound) { status := 0x5103, part := 0, unitKind := 7, unit := 0 } ∧ bound.expectSeq = none ∧
    ({ bound with credits := 1 } : Stream).credits ≠ 0 ∧ bit msg.flags 0 = true ∧ bound.samples = [] ∧ bound.rounds = none ∧
    (let a : Sample := { entry := some 0, slot := true }
     ({ bound with credits := 1, samples := [a] } : Stream).samples = [a] ∧ a.whole = false ∧ a.reason = 0 ∧ a.dropped = false ∧
       a.entry.isSome = true ∧ ({ a with entry := none } : Sample).entry = none) ∧
    bit ({ msg with flags := 0 } : IngestMsg).flags 0 = false := by
  unfold frameTaken roomFor; and_intros <;> decide +kernel

/-- One round of one sample entry, begun long ago; live streams have a deadline of 1 µs. -/
def inRound (kind flags : Nat) (m : List Sample) : Stream :=
  { bound with
    desc := padTo 128 (zeros 3 ++ le 1 kind ++ zeros 3 ++ le 1 flags ++ zeros 20 ++ le 4 1), cmd := some ref1, samples := m, owed := 1
    rounds := some { ({ opcode := 2, kind := 5 } : Cmd).rounds blocks with firstTick := some 0 } }

/-- It runs with its decode command. -/
def decoding (kind flags : Nat) (m : List Sample) : State :=
  { onQueue 5 0 { opcode := 2, kind := 5 } [blocks] with
    time := { ps := 10 ^ 18, ticks := 10 ^ 12 }, vals := [(0xC000 * 256 + 3, le 4 1)], streams := [(0, inRound kind flags m)] }

/-- A whole sample for entry 0. -/
def wholeSample : Sample := { entry := some 0, slot := true, whole := true }

theorem wit_Streams :
    (inRound 3 2 []).state ≠ 0 ∧ 0 < (inRound 3 2 []).owed ∧
    (inRound 3 2 []).owedTick + 2 * Config.ticksPerUs ≤ (decoding 3 2 []).time.ticks ∧
    ((inRound 3 2 []).rounds.map (fun r => r.entries.length)) = some 1 ∧ (inRound 3 2 []).fromPort = true ∧
    ((inRound 3 2 []).rounds.map (fun r => ({ inRound 3 2 [] with rounds := some { r with done := 0 :: r.done } }).roundDone)) =
      some true ∧
    (inRound 3 2 []).live = true ∧ field (inRound 3 2 []).desc 0x1C 4 = 1 ∧ (inRound 3 2 []).unwritten = [0] ∧
    roomFor (decoding 3 2 []) { status := 0x3101, part := 0, unitKind := 7, unit := 0 } ∧
    (inRound 3 0 []).openEntries ≠ [] ∧ (decoding 3 0 []).roundOpen 0 = true ∧ (decoding 3 0 []).valNat 0xC000 3 ≠ 0 ∧
    (inRound 3 0 []).lastData + (decoding 3 0 []).valNat 0xC000 3 * Config.ticksPerMs ≤ (decoding 3 0 []).time.ticks ∧
    roomFor (decoding 3 0 []) { status := 0x3106, part := 0, unitKind := 7, unit := 0 } ∧
    (Tab.get (ported {}).iports {} 0).state = 2 ∧ (∀ k ∈ (ported {}).dieStreams 0, ((ported {}).stream k).fromPort = false) ∧
    roomFor (ported {}) { status := 0x6301, unitKind := 9, unit := 0 } := by
  unfold roomFor; and_intros <;> decide +kernel

/-- A whole sample at position 0 is decoded, soundly or as corrupt. -/
theorem wit_Positions :
    (let s := decoding 4 0 [wholeSample]
     let x := inRound 4 0 [wholeSample]
     let b : BEntry := { kind := 1, flags := 0, boxCount := 0, position := 0, src := 0, length := 0, weight := 0, boxList := 0 }
     (s.decodedSample x b wholeSample {}).1.reason ≠ 0x0A ∧
       (s.decodedSample x b wholeSample { reason := 1 }).1.reason = 1 ∧
       roomFor s { status := 0x2401, part := 0, unitKind := 7, unit := 0 }) := by
  unfold roomFor; and_intros <;> decide +kernel

/-! ### Ledger copies, gathers, adds and channels -/

/-- A late contribution in FP32 at 0x100000. -/
def late0 : LateSrc := { src := 1048576, pairs := false, kind := 3, epoch := 1, fmt := 1, tLate := 0 }

/-- Key entry 0 of partition 0's ledger at address 0 copies the contribution at 0x100000 (R290, R292). -/
def copying0 : State :=
  { State.reset.setVal 0xB100 2 (le 4 1048576) with
    pendingSrc := [(0, [late0])], mem := [(68719476736 + 2, 3)] }

theorem wit_LedgerCopy :
    Tab.find copying0.pendingSrc (0 * 1024 + 0) = some [late0] ∧ late0.pairs = false ∧ copying0.ledgerSize 0 ≠ 0 ∧
    copying0.keyState 0 0 = 3 ∧ copying0.keyAge 0 0 = 0 ∧ copying0.colls = [] ∧ memoryCanonical copying0 ∧
    ∀ j < 1024, copying0.keyState 0 j = 1 → copying0.pendingClosed 0 j = false := by
  unfold memoryCanonical; and_intros <;> decide +kernel

/-- A gather of row 0, one line, of a table at address 0 (R232); its block is maintained. -/
def gathering (op : Nat) : State :=
  { onQueue 6 0 { opcode := op, kind := 6 } [zeros 3 ++ le 1 1 ++ le 4 1 ++ zeros 56, zeros 4, zeros 4] with
    hbm := { maintained := [(0, 8)] }, vals := [(0x3060 * 256 + 2, le 1 1)] }

/-- Its record. -/
def gatherRec (op : Nat) : CmdRec :=
  rec1 { opcode := op, kind := 6 } [zeros 3 ++ le 1 1 ++ le 4 1 ++ zeros 56, zeros 4, zeros 4]

theorem wit_Gathers :
    memoryCanonical (gathering 2) ∧ runs (gathering 1) 6 0 ref1 (gatherRec 1) ∧ runs (gathering 2) 6 0 ref1 (gatherRec 2) ∧
    (gatherRec 2).indices = [0] ∧ (gathering 2).maintainedAt 0 ((gatherRec 2).gather.base + 0) = true ∧
    (gathering 2).pval 0 0x60 2 = 1 ∧ roomFor (gathering 2) { status := 0x2201, part := 0, unitKind := 3, unit := 0 } ∧
    State.reset.takesAdds 0 0 64 = true ∧ State.reset.takesAdds 0 16 16 = true ∧ State.reset.inSlice 0 64 64 = true ∧
    (gathering 1).inside 0 planeBase 8 = true ∧ roomFor (gathering 1) (parityErr (gathering 1) 0 planeBase) ∧
    tilesApart (gathering 1) 0 (gatherRec 1).gather.dest ∧ 512 / elemBits 1 = 16 ∧ 512 / elemBits 2 = 32 := by
  unfold runs memoryCanonical roomFor tilesApart; and_intros <;> decide +kernel

/-- A migration of logical channel 3 of stack 0 to its standby, in a phase. -/
def migrationAt (phase : Nat) : State :=
  { State.reset with hbm := { migrations := [(0, { logical := 3, source := 3, target := 31, phase := phase })] } }

/-- Stack 0 has used its standby; only partition 0 has no channel 3 or 30. -/
def noStandby : State :=
  { part0 (fun q => { q with chans := 3 }) with hbm := { standby := [(0, 255)], maintained := [(0, 8)] } }

/-- A decode command runs whose result entry stands at address 0; its block there is maintained. -/
def decodesResult : State :=
  { onQueue 5 0 { opcode := 2, kind := 5 } [] with
    hbm := { maintained := [(0, 8)] }
    streams := [(0, { bound with
      cmd := some ref1
      rounds := some { ({ opcode := 2, kind := 5 } : Cmd).rounds [] with
        entries := [{ kind := 2, flags := 0, boxCount := 0, position := 0, src := 0, length := 4096, weight := 0, boxList := 0 }] } })] }

theorem wit_Channels :
    State.reset.inSlice 0 4096 4096 = true ∧ noStandby.maintainedAt 0 0 = true ∧ noStandby.inSlice 0 0 4096 = true ∧
    roomFor noStandby { status := 0x2201, part := 0, unitKind := 3, unit := 0 } ∧
    State.reset.hbm.failed.contains (0, 3) = false ∧ State.reset.valNat 0x2400 5 ≠ 0 ∧ State.reset.valNat 0x2400 4 ≠ 0 ∧
    Ranges.has noStandby.hbm.maintained (chKey 0 0 * 524288 + 0) = true ∧
    roomFor noStandby { status := 0x2202, unitKind := 3, unit := 0, part := 0 } ∧
    State.reset.logicalCh 0 3 < 31 ∧ State.reset.standby 0 < 32 ∧ State.reset.physCh 0 3 < 32 ∧
    roomFor State.reset { status := 0x6201, part := 0, unitKind := 3, unit := 3 } ∧ State.reset.logicalCh 0 31 = 255 ∧
    4 ≤ noStandby.channelOwner 0 3 ∧ noStandby.carve = 0 ∧ 32 ≤ noStandby.standby 0 ∧
    4 ≤ noStandby.channelOwner 0 (noStandby.physCh 0 30) ∧ noStandby.logicalCh 0 3 ≠ 255 ∧
    roomFor noStandby { status := 0x6202, unitKind := 3, unit := 3 } ∧
    (noStandby.raise { status := 0x6202, unitKind := 3, unit := 3 }).errq.reserveUsed < 28 ∧
    (match exec (.channelFailed 0 3) noStandby with
     | .next t => t.errq.entries.any (fun x => x.seq == 1 && x.status == 0x7201) && t.hbm.usable == 30
     | _ => false) = true ∧
    (let s := noStandby
     (s.faultAt 0 [⟨0, false⟩] 0).any (fun f => f.persists) = false ∧ (s.faultAt 0 [⟨0, false⟩] 0).isSome = true ∧
       (s.faultAt 0 [] 0).any (fun f => f.persists) = false ∧ s.resultReader 0 0 = none) ∧
    (decodesResult.resultReader 0 0 = some 0 ∧ (decodesResult.stream 0).cmd = some ref1 ∧
      decodesResult.running 5 0 = some (ref1, rec1 { opcode := 2, kind := 5 } []) ∧ decodesResult.maintainedAt 0 0 = true) ∧
    (let s := { noStandby with hbm := { noStandby.hbm with corrupt := [chKey 0 0 * 524288] } }
     s.hbm.corrupt.contains (chKey 0 0 * 524288 + 0) = true) ∧
    (0 :: State.reset.recentErrors 0).length < State.reset.valNat 0x2400 4 ∧
    (let s := State.reset.setVal 0x2400 4 (le 4 1)
     s.valNat 0x2400 4 ≤ (0 :: s.recentErrors 0).length ∧ s.valNat 0x2400 4 ≠ 0) ∧
    ((State.reset.setVal 0x2400 4 (le 4 0)).valNat 0x2400 4 = 0) ∧
    (let s := (migrationAt 0).modPart 0 (fun q => { q with chans := 3 })
     s.logicalCh 0 3 ≠ 255 ∧ s.standby 0 < 32 ∧ 3 ≠ s.standby 0 ∧ 4 ≤ s.channelOwner 0 3 ∧ s.carve = 0 ∧
       roomFor s { status := 0x6202, unitKind := 3, unit := 3 }) ∧
    (∀ k < 3, (Tab.find (migrationAt k).hbm.migrations 0).map (·.phase) = some k) ∧ memoryCanonical (migrationAt 0) ∧
    (let s := part0 (fun q => { q with state := .scrubbing, after := some .idle })
     (s.part 0).after = some .idle ∧ (s.part 0).state = .scrubbing) := by
  unfold roomFor memoryCanonical; and_intros <;> decide +kernel

/-! ### The front bus and recovery -/

/-- A sachet of module 0, committed, at tier 2, of group epoch 5 and one region. -/
def sachet7 : Sachet := { id := 7, groupEpoch := 5, regions := [(4096, 64)], tier2 := true, landed := true, committed := true }

/-- Partition 0 Running alone in group 0 with a sachet; it has arrived at the group barrier of epoch 1. -/
def inGroup0 : State :=
  { (part0 (fun q => { q with
      state := .running, member := true, rcv := { sachets := [sachet7] }
      fences := { contribs :=
        [{ scope := scopeKey 5 0, epoch := 1, cluster := 0, list := 1, index := 0, done := true }] } })).setVal 0x3050 1 (le 1 0) with
    time := { state := 2 } }

theorem wit_FrontBus :
    ¬unheard State.reset State.reset.address [2, 1, 1] ∧ unheard State.reset 3 [2, 1, 1] ∧ maskParts 1 = [0] ∧
    bit 2 State.reset.address = false ∧ bit 1 inGroup0.address = true ∧ (inGroup0.part 0).mode = 0 ∧
    (inGroup0.part 0).rcv.capture = none ∧ onlyMember grouped0 0 ∧ (grouped0.part 0).rcv.lost.contains 3 = false ∧
    (grouped0.part 0).rcv.rollback.isSome = true ∧ roomFor grouped0 { status := 0x7303, unitKind := 0x0D, unit := 3 } ∧
    inGroup0.members 0 = [0] ∧ (inGroup0.part 0).lists = [] ∧ (inGroup0.part 0).rcv.rollback = none ∧
    inGroup0.target 0 (fun y => y.groupEpoch == 5) = some (sachet7, 2) ∧
    inGroup0.tfb.master = false ∧ inGroup0.busServes = true ∧ inGroup0.notArrived 0 = false ∧ inGroup0.boundStreams 0 = [] ∧
    (inGroup0.part 0).rcv.departing = none ∧
    (let s := part0 (fun q => { q with member := true })
     onlyMember s 0 ∧ (s.part 0).state.works = false) ∧
    onlyMember inGroup0 0 ∧ (inGroup0.part 0).state = .running ∧ inGroup0.target 0 (fun _ => true) = some (sachet7, 2) ∧
    sachet7.holder ≠ 3 := by
  refine ⟨?_, ?_, ?_⟩
  · unfold unheard; decide +kernel
  · unfold unheard; decide +kernel
  · unfold onlyMember roomFor; and_intros <;> decide +kernel

/-- Partition 0 Running with recovery state v; a tier mask of t. -/
def recovering (t : Nat) (v : Recovery) : State :=
  (part0 (fun q => { q with state := .running, rcv := v })).setVal 0x3020 4 (le 1 t)

/-- A capture that waits for the lists, and one whose sachet is on its way to tier 2. -/
def capture0 : Capture := {}
def capture1 : Capture := { phase := 1, sachet := some sachet7 }

/-- The store of partition 0 on port 0, connection 0, takes one message. -/
def storing (v : Recovery) : State := recovering 6 { v with tier3Next := some 7, sachets := [{ sachet7 with total := 4096 }] }

theorem wit_Recovery :
    (let s := recovering 2 { capture := some capture0 }
     s.quiesced 0 [] = true ∧ s.tierOn 0 1 = false ∧ s.tier2Ready 0 = true ∧ (s.part 0).binding.fresh = false ∧
       s.badBlock 0 [] ((s.part 0).rcv.plan ++ s.ledgerRegion 0) = none ∧ memoryCanonical s) ∧
    (let s := { recovering 4 { capture := some capture0, plan := [(0, 4096)] } with hbm := { maintained := [(0, 8)] } }
     s.quiesced 0 [] = true ∧ s.tierOn 0 1 = false ∧ s.tier2Ready 0 = false ∧ s.boundStreams 0 = [] ∧
       s.badBlock 0 [] ((s.part 0).rcv.plan ++ s.ledgerRegion 0) = none ∧ (s.part 0).runTo = .none ∧
       s.badBlock 0 [{ addr := 0, persists := true }] ((s.part 0).rcv.plan ++ s.ledgerRegion 0) = some 0 ∧
       roomFor s { status := 0x2201, part := 0, unitKind := 3, unit := 0 }) ∧
    (let s := recovering 2 { capture := some capture1 }
     s.allConfirmed 0 = true ∧ s.grouped 0 = false ∧ (s.part 0).binding.release = none ∧ s.boundStreams 0 = [] ∧
       { s with xfers := [{ source := 0, module := 3, id := 7, blocks := 1 }] }.allConfirmed 0 = false) ∧
    (let s := recovering 6 { tier2Next := some 7, sachets := [{ sachet7 with tier1 := true, holder := 3 }] }
     s.tierSource 0 (some 7) false = none ∧
       ({ s with kports := [(0, { state := 2, peer := 3 })] } : State).tierSource 0 (some 7) false =
         some { sachet7 with tier1 := true, holder := 3 }) ∧
    (let s := storing { store := { credits := 1 } }
     s.tierSource 0 (some 7) true = some { sachet7 with total := 4096 } ∧ s.pval 0 0x20 7 = 0 ∧ s.boot.secFailed = false ∧
       s.secState ≠ 2 ∧ s.storeMessages 0 { sachet7 with total := 4096 } ≤ (s.part 0).rcv.store.credits ∧
       roomFor s { status := 0x5101, part := 0 } ∧ roomFor s { status := 0x5104, part := 0 } ∧
       (s.setVal 0x3020 7 (le 4 5)).pval 0 0x20 7 = 5 ∧ (s.setVal 0x3020 7 (le 4 5)).hasKey 0 3 5 = false) ∧
    (let s := storing {}
     (s.part 0).rcv.store.credits < s.storeMessages 0 { sachet7 with total := 4096 }) := by
  unfold roomFor memoryCanonical; and_intros <;> decide +kernel

/-- Cluster site 0 has failed and spare site 5 of its row is being filled for it. -/
def fill5 : Fill := { failed := 0, spare := 5 }

theorem wit_Recovery_end :
    (let s := recovering 2 { rollback := some { target := some 7, tier := 2 }, sachets := [sachet7] }
     (s.part 0).rcv.sachets.find? (fun y => some 7 == some y.id) = some sachet7 ∧ s.boundStreams 0 = [] ∧
       s.reducedRows 0 = [] ∧ (s.part 0).rcv.lost = [] ∧ s.ledgerSize 0 = 0) ∧
    (let s := recovering 2 { fills := [fill5] }
     (∀ k < 5, k ≠ 0 → ∀ g ∈ (s.part k).rcv.fills, g.spare ≠ 5) ∧ s.commitWait = none ∧ s.fillKey 0 = 0 ∧
       roomFor s { status := 0x6403, part := 0, unitKind := 1, unit := siteUnit 5 } ∧
       (({ s.modRcv 0 (fun r => { r with fills := [] }) with siteState := Tab.set s.siteState 5 2 } : State).nearestSpare
         0).isSome = true) ∧
    (let s := part0 (fun q => { q with rcv := { startRestore := some sachet7 } })
     (s.part 0).state = .idle) ∧
    (let s := recovering 2 { reclaim := some { t0 := 0 } }
     s.time.ticks < s.pval 0 0x10 0x0B * Config.ticksPerMs ∧ roomFor s { status := 0x3109, part := 0 } ∧
       roomFor s { status := 0x310A, part := 0 } ∧
       s.pval 0 0x10 0x0B * Config.ticksPerMs ≤ ({ s with time := { ticks := 10 ^ 12 } } : State).time.ticks) := by
  unfold roomFor; and_intros <;> decide +kernel

/-! ### Errors, inputs and processors -/

/-- An entry of partition 0 that names its cluster site 1. -/
def entry0 (seq status sev state : Nat) : ErrEntry :=
  { seq := seq, status := status, sev := sev, state := state, tDetect := 0, part := 0, unitKind := 1, unit := 1 }

/-- The error queue holds entries; partition 0 is in a state. -/
def erring (x : PState) (es : List ErrEntry) : State :=
  { part0 (fun q => { q with state := x }) with errq := { entries := es, nextSeq := es.length } }

theorem wit_Errors :
    State.reset.nextError 0 = none ∧
    (let s := erring .running [entry0 0 0x6102 2 0]
     s.nextError 3 = some (entry0 0 0x6102 2 0) ∧ s.handlerUp 3 = true ∧
       (∀ f ∈ s.errq.entries, f.seq = 0 → f = entry0 0 0x6102 2 0) ∧
       (∀ f ∈ s.errq.entries, f.state ≠ 1)) ∧
    (let s := erring .running [entry0 0 0x6102 2 1, entry0 1 0x6401 3 0]
     s.nextError 1 = some (entry0 1 0x6401 3 0) ∧ (entry0 1 0x6401 3 0).preempts (entry0 0 0x6102 2 1) = true ∧
       ∀ g ∈ s.errq.entries, g.state = 1 → g = entry0 0 0x6102 2 1) ∧
    (let s := erring .safeStop [entry0 0 0x6102 2 3]
     s.errq.entries.find? (fun e => e.seq == 0 && (e.state == 3 || (e.state == 1 && e.sev ≤ 1))) = some (entry0 0 0x6102 2 3) ∧
       s.boot.secFailed = false ∧ (s.part 0).state = .safeStop) ∧
    (∀ k ≤ 5, roomFor State.reset (State.reset.pathError k 0)) ∧ State.reset.errq.reserveUsed < 27 := by
  unfold roomFor; and_intros <;> decide +kernel

/-- Input i in a state, late in time. -/
def input (i : Nat) (x : SInput) : State := { State.reset with inputs := [(i, x)], time := { ticks := 10 ^ 12 } }

theorem wit_Inputs :
    (10 ^ 12 < 10 ^ 12 + (input 0 { lastEvent := some (10 ^ 12) }).valNat (0xA700 + 0) 2 * Config.ticksPerUs) ∧
    (10 ^ 12 < 10 ^ 12 + (input 1 { lastEvent := some (10 ^ 12) }).valNat (0xA700 + 1) 2 * Config.ticksPerUs) ∧
    (State.reset.setVal 0x2500 1 (le 1 0)).valNat 0x2500 1 = 0 ∧ (State.reset.input 0).lastEvent = none ∧
    maskParts ((State.reset.setVal 0x2500 1 (le 1 1)).valNat 0x2500 1) = [0] ∧
    (∀ i < 3, (let s := input i { state := 1 }
      (s.input i).since + s.valNat (0xA700 + i) 3 * Config.ticksPerMs ≤ s.time.ticks ∧
        roomFor s { status := 0x6701, unitKind := 0x0C, unit := i }) ∧
      (let s := input i { state := 2 }
       (s.input i).qualified = false ∧ (s.input i).since + s.valNat (0xA700 + i) 4 * Config.ticksPerMs ≤ s.time.ticks)) ∧
    (State.reset.input 1).state = 0 ∧ roomFor State.reset { status := 0x7103, part := 0xFF, unitKind := 0x0C, unit := 1 } ∧
    State.reset.valNat 0x2500 2 = 0 ∧ (State.reset.setVal 0x2500 2 (le 1 1)).valNat 0x2500 2 = 1 ∧
    0 + (input 1 { lastEvent := some 0 }).valNat 0xA701 2 * Config.ticksPerUs ≤ (input 1 {}).time.ticks := by
  unfold roomFor; and_intros <;> decide +kernel

/-- A tensor command runs on cluster 0; its CCC's record since the last fence holds it. -/
def crashing (fixed : Bool) : State :=
  (onQueue 1 0 { opcode := 1, kind := 1 } []).modSite 0 (fun x => { x with sinceFence := [ref1], nonRepeat := fixed })

/-- Partition 0 Running with a sachet to roll back to. -/
def fallsBack : State := (part0 (fun q => { q with state := .running, rcv := { sachets := [sachet7] } })).modSite 0
  (fun x => { x with nonRepeat := true })

theorem wit_Processors :
    restartable 0 3 = true ∧ restartable 0 0 = false ∧ restartable 1 1 = false ∧ restartable 2 0 = false ∧
    restartable (3 + 0) 0 = false ∧ (crashing false).siteOf 0 = some 0 ∧ (crashing false).partOfCluster 0 = some 0 ∧
    roomFor (crashing false) { status := 0x6601, part := 0, unitKind := 0x0A, unit := siteUnit 0 } ∧
    (crashing false).cmdOf ref1 = some (rec1 { opcode := 1, kind := 1 } []) ∧
    (fallsBack.site 0).nonRepeat = true ∧ fallsBack.target 0 (fun _ => true) = some (sachet7, 2) ∧
    roomFor fallsBack { status := 0x6601, part := 0, unitKind := 0x0A, unit := siteUnit 0 } ∧
    State.reset.journal.valid.isSome = true ∧ State.reset.boot.schStandby = true ∧
    (let s : State := { State.reset with boot := { State.reset.boot with schStandby := false } }
     s.boot.schStandby = false ∧ s.boot.schLost = false) ∧
    State.reset.crashCommits 3 = false ∧ State.reset.crashCommits 2 = false ∧
    roomFor State.reset { status := 0x6602, unitKind := 0x0A, unit := State.reset.schUnit } ∧
    roomFor State.reset { status := 0x7402, unitKind := 0x0A, unit := State.reset.schUnit } ∧
    roomFor State.reset { status := 0x6603, unitKind := 0x0A, unit := State.reset.pmcUnit } ∧
    roomFor State.reset { status := 0x7401, unitKind := 0x0A, unit := secUnit } ∧
    (let s := (atWork .running).modPart 0 (fun q => { q with mode := 1 })
     (∀ q < 4, s.boundStreams q = []) ∧
       (∀ q < 4, q ≠ 0 → (s.part q).state ≠ .running ∧ (s.part q).state ≠ .hostLost) ∧ (s.part 0).lists ≠ []) := by
  unfold roomFor; and_intros <;> decide +kernel

/-- A write to the journal is the next one of both mirrors; of two mirrors with sound CRCs the newer is valid (R351). -/
theorem test_journal : ((({} : Journal).write [1]).valid.map (fun r => (r.seq, r.body))) = some (1, [1]) ∧
    (({ b := JRec.of 3 [2] } : Journal).valid.map (·.seq)) = some 3 ∧
    (({ a := { JRec.of 4 [2] with crc := 0 }, b := JRec.of 3 [2] } : Journal).valid.map (·.seq)) = some 3 := by
  and_intros <;> decide +kernel

/-- The 17th message waits, takes the room of the first one that is read, or fails after 1 ms (R347). -/
theorem test_port :
    (let p : Port := (List.range 17).foldl (fun p i => p.post i [] 0) {}
     p.msgs.length = 16 ∧ p.waits.map (·.1) = [16] ∧ p.take.msgs.map (·.1) = (List.range 16).map (· + 1) ∧ p.take.waits = [] ∧
       (p.expire 24999).waits.length = 1 ∧ (p.expire 25000).waits = []) := by
  and_intros <;> decide +kernel

/-! ### Power, heat, links and buses -/

/-- Partition 0 Running on one row, every cluster's k at n, with gaps by cs. -/
def powered (n : Nat) (cs : List Nat) : State :=
  { part0 (fun q => { q with state := .running, rows := 1 }) with
    sites := (List.range 42).map (fun i => (i, ({ k := n } : Site))), power := { gapClasses := cs } }

theorem wit_Power :
    State.reset.effectiveCap = State.reset.valNat 0x4100 1 ∧ 97 * State.reset.effectiveCap ≤ 100 * State.reset.effectiveCap ∧
    (powered 64 []).atFloor 0 = true ∧
    capClasses.find? (fun c => !((powered 64 []).classSites c).isEmpty &&
      !((powered 64 []).atFloor c && (powered 64 []).power.gapClasses.contains c)) = some 0 ∧
    (powered 64 [0]).power.gapClasses ≠ [] ∧
    [2, 1, 0].find? (fun c => ((powered 8 []).classSites c).any (fun i => ((powered 8 []).site i).k != 0)) = some 0 ∧
    ((powered 8 []).classSites 0).Nodup ∧ (powered 8 []).allRunning.Nodup ∧
    capClasses.find? (fun c => !State.reset.power.gapClasses.contains c) = some 0 ∧ State.reset.siteOf 0 = some 0 ∧
    sensorState 0x5200 0 0 ≠ 3 ∧ sensorState 0x5200 0 0x43000000 = 3 ∧ roomFor State.reset { status := 0x7102 } ∧
    2 ≤ (({ State.reset with sensors := [(0x5200, { state := 2 })] } : State).sensor 0x5200).state := by
  unfold roomFor; and_intros <;> decide +kernel

/-- The band's clusters have been off for long. -/
def unpowered : State :=
  { State.reset with
    sites := (List.range 252).map (fun i => (i, ({ gated := true } : Site))), time := { ticks := 10 ^ 12 } }

theorem wit_Gating :
    (let s := { State.reset.setVal 0x3090 1 (le 4 10) with time := { ticks := 10 ^ 12 } }
     memoryCanonical s ∧ s.pval 0 0x90 1 ≠ 0 ∧ (s.part 0).gated = false ∧ (s.part 0).rcv.startRestore = none ∧
       (s.part 0).idleTick + s.pval 0 0x90 1 * Config.ticksPerMs ≤ s.time.ticks) ∧
    (∀ i < 252, unpowered.isGated i = true ∧ (unpowered.site i).gatedAt + Config.ticksPerMs ≤ unpowered.time.ticks) ∧
    unpowered.power.stopped.contains 0 = false := by
  unfold memoryCanonical; and_intros <;> decide +kernel

/-- Partition 0 works with its lease armed. -/
def armed0 : State := (atWork .running).modPart 0 (fun q => { q with lease := { armed := true, state := 1 } })

theorem wit_Links :
    (∀ p < 4, (State.reset.part p).lease.armed = false) ∧ (armed0.part 0).lease.armed = true ∧
    armed0.boundStreams 0 = [] ∧ (armed0.part 0).mode ≠ 2 ∧ (armed0.part 0).lists ≠ [] ∧
    roomFor armed0 { status := 0x3108, part := 0 } ∧ (∀ q < 4, q ≠ 0 → (armed0.part q).lease.armed = false) ∧
    State.reset.boot.power ≠ 0 ∧ State.reset.bus.addr = 0 ∧
    State.reset.bus.beaconTick + 4 * Config.ticksPerMs ≤ (input 0 {}).time.ticks ∧
    State.reset.time.ticks < State.reset.bus.beaconTick + 4 * Config.ticksPerMs := by
  unfold roomFor; and_intros <;> decide +kernel

/-- 96.0 is a number, at or above the limits of a CCC sensor's warning (R425). -/
theorem wit_Sensors : ofF32 0x42C00000 ≠ .nan ∧ FV.lt (ofF32 0x42C00000) (whole 95) = false ∧
    FV.lt (ofF32 0x42C00000) (whole 105) = true := by decide +kernel

/-- Steep-off is permitted and the cap is low; then a threshold of 0 stands. -/
def steepOff : State :=
  ((State.reset.setVal 0x2200 2 (le 1 1)).setVal 0x4100 1 (le 4 12000)).setVal 0x3030 2 (le 4 0)

theorem wit_SteepOff :
    acceptsWrite (atWork .running) rq 0x3030 2 4 (le 4 0) ∧ (atWork .running).valNat 0x2200 2 ≠ 1 ∧
    acceptsWrite steepOff rq 0x3030 2 4 (le 4 0) ∧ steepOff.valNat 0x2200 2 = 1 ∧ steepOff.valNat 0x4100 1 ≤ 12000 ∧
    acceptsWrite steepOff rq 0x4100 1 4 (le 4 15000) ∧ steepOff.valNat 0x4100 1 < 15000 ∧ steepOff.pval 0 0x30 2 = 0 ∧
    acceptsWrite State.reset rq 0x4100 1 4 (le 4 15000) ∧ (∀ q < 4, State.reset.pval q 0x30 2 ≠ 0) ∧
    (let s := State.reset.setVal 0x3030 2 (le 4 0)
     acceptsWrite s rq 0x3000 2 2 (le 1 1) ∧ s.boot.schLost = false ∧ s.pval 0 0x30 2 = 0 ∧ s.valNat 0x2200 2 ≠ 1) := by
  unfold acceptsWrite admits; and_intros <;> decide +kernel

end Sys2Proof.Tests
end

/-!
SUPPORT. Gathers, adds and line writes at the memory: what a command that a parity error stops leaves, what the rows of a
gather and the elements of an add do to memory, and the statement of O50 from these.
-/

namespace Sys2Proof.Proofs.GathersAndAdds

open Sys2Proof Sys2Proof.Machine Sys2Proof.Safety Sys2Proof.Laws Sys2Proof.Laws.Shared

/-! ### Commands that run to their end -/

/-- A command whose effect leaves its record and its queue is handed over with that effect and status. -/
theorem engine_hands_over {s u : State} {k n st : Nat} {r : QRef} {c : CmdRec} {sel : Cmd → Bool} {i : Instr}
    {f : State → QRef → CmdRec → State × Nat} (hi : exec i s = answer s (s.engine k n sel f)) (h : runs s k n r c)
    (hs : sel c.cmd = true) (hf : f s r c = (u, st))
    (hk : onlyChanges [.sites, .mem, .hbm, .ctr, .free, .errq, .outs, .boot, .tfb] s u) :
    ∃ t, exec i s = .next t ∧ handedOver k n r c st s t ∧ t.mem = u.mem ∧ ∀ e, queued s u e → queued s t e := by
  obtain ⟨t, e, ho, hm, -, -, -, -, hq⟩ := answer_engine h hs hf hk (by decide)
  exact ⟨t, hi.trans e, ho, hm, fun e he => queued_settled (x := u.issue k n r st) he t hq⟩

/-! ### Commands stopped by a parity error (R48, R236, R240) -/

theorem loseCmds_only (s : State) (p : Nat) (cs : List CmdRec) : onlyChanges [.mem, .free] s (s.loseCmds p cs) :=
  (path_loseCmds (ks := [.mem, .free]) p cs (by decide) (path_refl _ s)).frame

/-- Memory outside the places that a stopped command may have written reads as before (R48). -/
theorem get_loseCmds_other {s : State} {p x : Nat} {c : CmdRec} (hm : memoryCanonical s) (hx : x ∉ s.stoppedPlaces p c) :
    Mem.get (s.loseCmds p [c]).mem x = Mem.get s.mem x := by
  refine get_putAll_other _ x (fun e he => ?_) _ hm
  obtain ⟨⟨k, i⟩, hk, rfl⟩ := List.mem_map.mp he
  rintro rfl
  exact hx (by simpa using List.fst_mem_of_mem_zipIdx hk)

/-- Room in the error queue stays while the queue and the partitions do. -/
theorem roomFor_of {s t : State} {e : ErrSpec} (h : roomFor s e) (hq : t.errq = s.errq) (hp : t.parts = s.parts) :
    roomFor t e := room_of h hq (fun p _ => by rw [part_of hp])

theorem stopRead_queued {s : State} {r : QRef} {a : Nat} (c : CmdRec) (h : roomFor s (parityErr s r.part a)) :
    onlyChanges [.mem, .free, .errq, .outs, .boot, .tfb] s (s.stopRead r c a) ∧
      (s.stopRead r c a).mem = (s.loseCmds r.part [c]).mem ∧ queued s (s.stopRead r c a) (parityErr s r.part a) := by
  have hl := loseCmds_only s r.part [c]
  have hpl : (s.loseCmds r.part [c]).place r.part a = s.place r.part a := place_of (only_mono hl (by decide)) _ _
  have hroom := roomFor_of h (hl .errq (by decide)) (hl .parts (by decide))
  have herr : (s.loseCmds r.part [c]).errq = s.errq := hl .errq (by decide)
  unfold State.stopRead State.raiseParity
  rw [hpl]
  generalize s.loseCmds r.part [c] = u at *
  obtain ⟨hr, hq⟩ := raise_room (e := { parityErr s r.part a with addr := a, ref := s.refOf r }) hroom
  rw [herr] at hq
  exact ⟨only_trans (only_mono hl (by decide)) (only_mono hr (by decide)), hr .mem (by decide), hq⟩

@[simp] theorem parityAt_none (s : State) (p : Nat) : s.parityAt p none = none := rfl

theorem parityAt_inside {s : State} {p a : Nat} (ha : planeBase ≤ a) (hi : s.inside p a 8 = true) :
    s.parityAt p (some a) = some a := by
  unfold State.parityAt
  simp [Option.filter, ha, hi]

/-- A command that reads the plane stops on a word that fails parity, whatever its effect f would have been. -/
theorem engineRead_stops {s : State} {k n a : Nat} {r : QRef} {c : CmdRec} {sel : Cmd → Bool} {i : Instr}
    {f : State → QRef → CmdRec → State × Nat} (hi : exec i s = answer s (s.engineRead k n sel (some a) f))
    (hm : memoryCanonical s) (h : runs s k n r c) (hs : sel c.cmd = true) : stopsOnParity s k n r c a i := by
  intro ha hin hroom
  obtain ⟨hk, hmem, hq⟩ := stopRead_queued c hroom
  obtain ⟨t, e, ho, htm, hqt⟩ := engine_hands_over (u := s.stopRead r c a) (st := 0x2201) hi h hs
    (by simp only [parityAt_inside ha hin]) (only_mono hk (by decide))
  exact ⟨t, e, ho, hqt _ hq, fun x hx => by rw [htm, hmem, get_loseCmds_other hm hx]⟩

/-! ### Tiles of a running tensor command (R172) -/

/-- Where an address lies depends on neither memory, nor stacks, nor counters. -/
theorem inAccWindow_of {s t : State} (h : onlyChanges [.mem, .hbm, .ctr] s t) (p a n : Nat) :
    t.inAccWindow p a n = s.inAccWindow p a n := by
  have h1 : t.parts = s.parts := h .parts (by decide)
  have h2 : t.vals = s.vals := h .vals (by decide)
  have h3 : t.siteState = s.siteState := h .siteState (by decide)
  have h4 : t.factory = s.factory := h .factory (by decide)
  obtain ⟨⟩ := s
  obtain ⟨⟩ := t
  dsimp only at h1 h2 h3 h4
  subst h1 h2 h3 h4
  rfl

theorem running_of {s t : State} (hq : t.queues = s.queues) (hp : t.parts = s.parts) (k n : Nat) :
    t.running k n = s.running k n := by
  unfold State.running
  rw [queue_of hq]
  simp only [cmdOf_of hp]

theorem tilesApart_of {s t : State} {p a : Nat} (h : onlyChanges [.mem, .hbm, .ctr] s t) (ha : tilesApart s p a) :
    tilesApart t p a := by
  unfold tilesApart
  rw [inAccWindow_of h, running_of (h .queues (by decide)) (h .parts (by decide))]
  exact ha

theorem spoilAt_apart {s : State} {p a : Nat} (n : Nat) (h : tilesApart s p a) : s.spoilAt p a n = s := by
  unfold State.spoilAt
  split
  case isFalse => rfl
  case isTrue ha =>
    unfold State.spoilTiles
    rcases h with h | h | h
    · omega
    · split
      · rw [if_pos (by simp [h])]
      · rfl
    · rw [h]

/-! ### Gather lists (R232, R233) -/

theorem countGather_only (s : State) (p a n : Nat) : onlyChanges [.ctr] s (s.countGather p a n) :=
  (path_countGather (ks := [.ctr]) p a n (by decide) (path_refl _ s)).frame

/-- u with the table row of index e.1 copied to place e.2 of the destination (R233). -/
def copyRow (p base dest len : Nat) (u : State) (e : Nat × Nat) : State :=
  u.wr p (dest + e.2 * len) (u.rd p (base + e.1 * len) len)

/-- The same copy as the engine makes it, which counts the lines that it reads and writes. -/
def gatherRow (p base dest len : Nat) (u : State) (e : Nat × Nat) : State :=
  (u.countGather p (base + e.1 * len) len).store p (dest + e.2 * len) (u.rd p (base + e.1 * len) len)

theorem gatherRow_only (p base dest len : Nat) (u : State) (e : Nat × Nat) :
    onlyChanges [.mem, .hbm, .ctr] u (gatherRow p base dest len u e) :=
  only_trans (only_mono (countGather_only _ _ _ _) (by decide)) (store_only _ _ _ _)

theorem gatherRow_alike {p base dest len : Nat} {u v : State} {e : Nat × Nat} (h : alike u v) :
    alike (gatherRow p base dest len u e) (copyRow p base dest len v e) := by
  unfold gatherRow copyRow
  rw [rd_of h.2 h.1]
  exact store_alike (alike_trans (alike_of (only_mono (countGather_only _ _ _ _) (by decide))) h) _ _ _

theorem gatherRows_alike (p base dest len : Nat) (l : List (Nat × Nat)) (s : State) :
    alike (l.foldl (gatherRow p base dest len) s) (l.foldl (copyRow p base dest len) s) :=
  alike_foldl l (gatherRow p base dest len) (copyRow p base dest len) (fun _ _ _ h => gatherRow_alike h) (alike_refl s)

theorem spoilAt_only (s : State) (p a n : Nat) : onlyChanges [.sites, .mem, .free] s (s.spoilAt p a n) :=
  (path_spoilAt (ks := [.sites, .mem, .free]) p a n (by decide) (path_refl _ s)).frame

/-- A gather list copies row after row, each from the state that the rows before it left. -/
theorem gatherList_copies_rows {s : State} {q : Nat} {r : QRef} {c : CmdRec} (h : runs s 6 q r c) (hop : c.cmd.opcode = 1) :
    ∃ t, exec (.gatherList ⟨q, none⟩) s = .next t ∧ handedOver 6 q r c 0 s t ∧
      (tilesApart s r.part c.gather.dest →
        t.mem = (c.indices.zipIdx.foldl (copyRow r.part c.gather.base c.gather.dest (64 * c.gather.lines)) s).mem) := by
  have hrows := fold_only _ c.indices.zipIdx _ (gatherRow_only r.part c.gather.base c.gather.dest (64 * c.gather.lines)) s
  obtain ⟨t, e, ho, htm, -⟩ := engine_hands_over (i := .gatherList ⟨q, none⟩) (st := 0)
    (u := (c.indices.zipIdx.foldl (gatherRow r.part c.gather.base c.gather.dest (64 * c.gather.lines)) s).spoilAt r.part
      c.gather.dest (64 * c.gather.lines * c.indices.length))
    rfl h (by simp [hop]) rfl (only_trans (only_mono hrows (by decide)) (only_mono (spoilAt_only _ _ _ _) (by decide)))
  refine ⟨t, e, ho, fun hapart => ?_⟩
  rw [htm, spoilAt_apart _ (tilesApart_of hrows hapart), (gatherRows_alike _ _ _ _ _ _).1]

/-! ### Gather adds (R233, R236) -/

theorem addRow_only (s : State) (r : QRef) (c : CmdRec) (j bag : Nat) :
    onlyChanges [.mem, .hbm, .ctr, .free] s (s.addRow r c j bag) :=
  (path_addRow (ks := [.mem, .hbm, .ctr, .free]) r c j bag (by decide) (path_refl _ s)).frame

theorem spend_only (s : State) (n : Nat) : onlyChanges [.free] s (s.spend n) :=
  (path_spend (ks := [.free]) n (by decide) (path_refl _ s)).frame

/-- A gather add whose rows all match adds each row into its bag. -/
theorem gatherAdd_adds_rows {s : State} {q : Nat} {r : QRef} {c : CmdRec} (h : runs s 6 q r c) (hop : c.cmd.opcode = 2) :
    ∃ t, exec (.gatherAdd ⟨q, none⟩ []) s = .next t ∧ handedOver 6 q r c 0 s t ∧
      t.mem = ((arrivalOrder s.free (c.indices.zipIdx.map (fun e => (e.2, e.1)))).foldl (fun (u : State) e =>
        u.addRow r c e.2 (c.bags.getD e.1 0)) (s.spend 1)).mem := by
  have hrows := fold_only [.mem, .hbm, .ctr, .free] (arrivalOrder s.free (c.indices.zipIdx.map (fun e => (e.2, e.1)))) _
    (fun (u : State) e => addRow_only u r c e.2 (c.bags.getD e.1 0)) (s.spend 1)
  -- No row is bad, so the two flags that the fold carries beside the state stay false.
  obtain ⟨t, e, ho, htm, -⟩ := engine_hands_over (i := .gatherAdd ⟨q, none⟩ []) (st := 0) rfl h (by simp [hop])
    (congrArg (fun x : State × Bool × Bool =>
        (if x.2.2 then x.1.abandonAfter r 0x2201 else x.1, if x.2.1 then 0x2201 else 0))
      (List.foldl_hom (fun u => (u, false, false)) (fun _ _ => rfl)))
    (only_trans (only_mono (spend_only s 1) (by decide)) (only_mono hrows (by decide)))
  exact ⟨t, e, ho, htm⟩

@[simp] theorem arrivalOrder_singleton (k : Nat) (x : Nat × Nat) : arrivalOrder k [x] = [x] := List.mergeSort_singleton x

/-- The error entry of the block at an HBM place that does not match (R235, R334). -/
def blockErr (place p : Nat) : ErrSpec :=
  { status := 0x2201, part := p, unitKind := 3
    unit := place / 2147483648 / 32 * 256 + place / 2147483648 % 32 }

theorem raiseBlock_queued {s : State} {p a : Nat} (consumer ref : Nat) (h : roomFor s (blockErr ((s.place p a).getD 0) p)) :
    onlyChanges [.hbm, .free, .errq, .outs, .boot, .tfb] s (s.raiseBlock p a consumer ref) ∧
      queued s (s.raiseBlock p a consumer ref) (blockErr ((s.place p a).getD 0) p) := by
  unfold State.raiseBlock State.raisePlace
  generalize (s.place p a).getD 0 = place at *
  generalize s.crcDetail _ _ _ = d
  have hk : onlyChanges [.hbm, .free] s { s with free := s.free + 4, hbm := s.hbm.spoilt (blockOf place) } := by
    intro k hk
    cases k <;> first | rfl | exact absurd (by decide) hk
  obtain ⟨hr, hq⟩ := raise_room (s := { s with free := s.free + 4, hbm := s.hbm.spoilt (blockOf place) })
    (e := { blockErr place p with addr := a, ref := ref, detail := d }) (roomFor_of h rfl rfl)
  exact ⟨only_trans (only_mono hk (by decide)) (only_mono hr (by decide)), hq⟩

/-- Under the policy that leaves bad rows out (R236), a gather add of one row that does not match adds nothing. -/
theorem gatherAdd_leaves_out_bad_row {s : State} {q j : Nat} {r : QRef} {c : CmdRec} (h : runs s 6 q r c)
    (hop : c.cmd.opcode = 2) (hj : c.indices = [j])
    (hb : s.maintainedAt r.part (c.gather.base + j * (64 * c.gather.lines)) = true)
    (hp : s.pval r.part 0x60 2 = 1)
    (hroom : roomFor s
      (blockErr ((s.place r.part ((c.gather.base + j * (64 * c.gather.lines)) / 4096 * 4096)).getD 0) r.part)) :
    ∃ t, exec (.gatherAdd ⟨q, none⟩ [j]) s = .next t ∧ handedOver 6 q r c 0x2201 s t ∧ t.mem = s.mem ∧ queued s t
      (blockErr ((s.place r.part ((c.gather.base + j * (64 * c.gather.lines)) / 4096 * 4096)).getD 0) r.part) := by
  have hs := spend_only s 1
  have hpl : ∀ a, (s.spend 1).place r.part a = s.place r.part a := fun a => place_of (only_mono hs (by decide)) _ _
  have hroom1 := roomFor_of hroom (hs .errq (by decide)) (hs .parts (by decide))
  rw [← hpl] at hroom1
  obtain ⟨hk, hq⟩ := raiseBlock_queued 0 ((s.spend 1).refOf r) hroom1
  rw [hpl] at hq
  obtain ⟨t, e, ho, htm, hqt⟩ := engine_hands_over (i := .gatherAdd ⟨q, none⟩ [j]) (st := 0x2201)
    (u := (s.spend 1).raiseBlock r.part ((c.gather.base + j * (64 * c.gather.lines)) / 4096 * 4096) 0 ((s.spend 1).refOf r))
    rfl h (by simp [hop]) (by simp [hj, hb, hp, Nat.mul_assoc])
    (only_trans (only_mono hs (by decide)) (only_mono hk (by decide)))
  exact ⟨t, e, ho, htm.trans (hk .mem (by decide)), hqt _ hq⟩

/-! ### Atomic adds (R31, R180, R181) -/

/-- Element i of a line of format code with a contribution added, where there is one; k is the first draw of the line. -/
def addElem (p line code : Nat) (stochastic : Bool) (k : Nat) (u : State) (e : Option Nat × Nat) : State :=
  match e.1 with
  | none => u
  | some v =>
    let w := elemBits code / 8
    u.wr p (line + e.2 * w) (le w (atomicElem code (roundingAt stochastic (k + e.2)) (u.rdNat p (line + e.2 * w) w) v).1)

theorem countAt_mem (s : State) (p a i j n : Nat) : (s.countAt p a i j n).mem = s.mem :=
  (path_countAt (ks := [.ctr]) p a i j n (by decide) (path_refl _ s)).frame .mem (by decide)

/-- An atomic add at a line changes memory element by element. -/
theorem atomicLine_mem (s : State) (p line code : Nat) (stochastic : Bool) (vs : List (Option Nat)) :
    (s.atomicLine p line code stochastic vs).mem = (vs.zipIdx.foldl (addElem p line code stochastic s.free) s).mem := by
  unfold State.atomicLine
  extract_lets w step x s1 s2
  have hx : x.1 = vs.zipIdx.foldl (addElem p line code stochastic s.free) s ∧ x.1.free = s.free := by
    refine List.foldl_rel (r := fun (y : State × Nat) u => y.1 = u ∧ y.1.free = s.free) ⟨rfl, rfl⟩ ?_
    rintro ⟨_ | v, i⟩ - y u ⟨rfl, hf⟩
    · exact ⟨rfl, hf⟩
    · refine ⟨?_, hf⟩
      show y.1.wr p _ _ = y.1.wr p _ _
      rw [hf]
  have hrest : s2.mem = x.1.mem := by
    dsimp only [s2]
    split
    · split <;> rfl
    · rfl
  rw [countAt_mem, countAt_mem, hrest, hx.1]

theorem atomicLine_only (s : State) (p line code : Nat) (stochastic : Bool) (vs : List (Option Nat)) :
    onlyChanges [.mem, .hbm, .ctr, .free] s (s.atomicLine p line code stochastic vs) :=
  (path_atomicLine (ks := [.mem, .hbm, .ctr, .free]) p line code stochastic vs (by decide) (path_refl _ s)).frame

theorem atomicAdd_adds_elements {s : State} {p a format : Nat} {values : List (Option F32)} {stochastic : Bool}
    (hf : format = 1 ∨ format = 2) (ha : a % 64 = 0) (hn : values.length = 512 / elemBits format)
    (ht : s.takesAdds p a 64 = true) :
    ∃ t, exec (.atomicAdd p a format values stochastic) s = .next t ∧
      onlyChanges [.mem, .hbm, .ctr, .free, .errq, .journal] s t ∧
      t.mem = ((values.map (fun v => v.map (·.toNat))).zipIdx.foldl (addElem p a format stochastic s.free) s).mem := by
  have he : exec (.atomicAdd p a format values stochastic) s =
      answer s (s.atomicLine p a format stochastic (values.map (fun v => v.map (·.toNat)))) :=
    congrArg (answer s) (if_pos ⟨hf, ha, hn, ht⟩)
  rw [he]
  exact ansK (atomicLine_only _ _ _ _ _ _) (by decide)
    (fun t ht _ => (ht .mem (by decide)).trans (atomicLine_mem _ _ _ _ _ _))

/-! ### Pair adds and line writes (R31, R187, R234) -/

theorem pairAddAt_only (s : State) (p a sum abs : Nat) : onlyChanges [.mem, .hbm, .ctr] s (s.pairAddAt p a sum abs) :=
  (path_pairAddAt (ks := [.mem, .hbm, .ctr]) p a sum abs (by decide) (path_refl _ s)).frame

theorem pairAddAt_stored {s : State} (hm : memoryCanonical s) (p a sum abs : Nat) :
    stored p a (le 8 (addF64 (s.rdNat p a 8) sum) ++ le 8 (addF64 (s.rdNat p (a + 8) 8) abs)) s (s.pairAddAt p a sum abs) :=
  stored_mem (wr_stored s p a _ hm) (countAt_mem _ _ _ _ _ _)

theorem pairAdd_stores_sums {s : State} (hm : memoryCanonical s) {p a : Nat} (sum abs : F64) (ha : a % 16 = 0)
    (ht : s.takesAdds p a 16 = true) :
    ∃ t, exec (.pairAdd p a sum abs) s = .next t ∧ onlyChanges [.mem, .hbm, .ctr, .errq, .journal] s t ∧
      stored p a (le 8 (addF64 (s.rdNat p a 8) sum.toNat) ++ le 8 (addF64 (s.rdNat p (a + 8) 8) abs.toNat)) s t := by
  have he : exec (.pairAdd p a sum abs) s = answer s (s.pairAddAt p a sum.toNat abs.toNat) :=
    congrArg (answer s) (if_pos ⟨ha, ht⟩)
  rw [he]
  exact ansK (pairAddAt_only _ _ _ _ _) (by decide)
    (fun t ht _ => stored_mem (pairAddAt_stored hm _ _ _ _) (ht .mem (by decide)))

theorem hbmWrite_stores_bytes {s : State} (hm : memoryCanonical s) {p a : Nat} {bytes : List Byte} (ha : a % 64 = 0)
    (hb : bytes.length % 64 = 0) (hs : s.inSlice p a bytes.length = true) :
    ∃ t, exec (.hbmWrite p a bytes) s = .next t ∧ onlyChanges [.mem, .hbm, .ctr, .errq, .journal] s t ∧
      stored p a bytes s t := by
  have he : exec (.hbmWrite p a bytes) s = answer s (s.store p a bytes) := congrArg (answer s) (if_pos ⟨ha, hb, hs⟩)
  rw [he]
  exact ansK (store_only _ _ _ _) (by decide)
    (fun t ht _ => stored_mem (store_stored s p a bytes hm) (ht .mem (by decide)))

/-! ### The statement -/

/-- Settles O50, clause by clause from the lemmas above. -/
theorem gathersAddsAndWritesTakeEffect : Obligations.GathersAddsAndWritesTakeEffect := by
  unfold Obligations.GathersAddsAndWritesTakeEffect
  intro s hm
  refine ⟨fun q r c h => ⟨?gatherList, ?gatherAdd, ?badRow⟩, ?atomicAdd, ?pairAdd, ?hbmWrite⟩
  case gatherList =>
    exact fun hop => ⟨fun a => engineRead_stops rfl hm h (by simp [hop]), gatherList_copies_rows h hop⟩
  case gatherAdd =>
    exact fun hop => ⟨fun a rows => engineRead_stops rfl hm h (by simp [hop]), gatherAdd_adds_rows h hop⟩
  case badRow => exact fun j hop hj hb hp hroom => gatherAdd_leaves_out_bad_row h hop hj hb hp hroom
  case atomicAdd =>
    intro p a format values stochastic hf ha hn ht
    obtain ⟨t, e, hk, hmem⟩ := atomicAdd_adds_elements hf ha hn ht
    refine ⟨t, e, hk, hmem.trans ?_⟩
    rw [List.zipIdx_map, List.foldl_map]
    refine congrArg (fun f => (values.zipIdx.foldl f s).mem) (funext₂ fun u e => ?_)
    rcases e with ⟨_ | v, i⟩ <;> rfl
  case pairAdd => exact fun p a sum abs ha ht => pairAdd_stores_sums hm sum abs ha ht
  case hbmWrite => exact fun p a bytes ha hb hs => hbmWrite_stores_bytes hm ha hb hs

end Sys2Proof.Proofs.GathersAndAdds

/-!
SUPPORT. The state after reset (R42, R51, R398, R471) and the statement of O4.
-/

namespace Sys2Proof.Proofs.ResetState

open Sys2Proof Sys2Proof.Machine

/-- Settles O4: every field is read from the closed state, the layout and the entry from their tables. -/
theorem resetLeavesTheModuleReady : Obligations.ResetLeavesTheModuleReady := by
  unfold Obligations.ResetLeavesTheModuleReady
  refine ⟨rfl, rfl, rfl, ?others, rfl, rfl, rfl, rfl, rfl, rfl, rfl, rfl⟩
  case others => decide

end Sys2Proof.Proofs.ResetState

/-!
SUPPORT. Caddy writes of whole values and of first segments: what status an entry's own effect answers, what a served write
leaves, and the statement of O12 from these.
-/

namespace Sys2Proof.Proofs.CaddyWrites

open Sys2Proof Sys2Proof.Machine Sys2Proof.Safety Sys2Proof.Laws Sys2Proof.Laws.Shared

theorem writeRequest_whole {s : State} {r : Req} {i j ty : Nat} {bs : List Byte} (h : bs.length ≤ 1024) :
    s.writeRequest r i j ty bs 0 bs.length false =
      s.afterWrite (s.serveWrite r i j ty bs (fun u => u.entryEffect r i j bs)) i j := by
  have hl : ¬(bs.length ≠ bs.length ∨ 1024 < bs.length) := by omega
  unfold State.writeRequest State.serveWrite State.applyValue
  simp only [if_neg hl]
  rfl

theorem afterWrite_same {s t : State} {i j : Nat} (h : measured i j = true → t.val i j = s.val i j) :
    s.afterWrite t i j = t := by
  unfold State.afterWrite
  by_cases hm : measured i j = true
  · rw [h hm]; simp
  · simp [hm]

theorem enablePort_status (s : State) (k v lanes : Nat) : (s.enablePort k v lanes).2 = 0 := by
  unfold State.enablePort
  dsimp only
  split
  · rfl
  · split
    · rfl
    · split <;> rfl

theorem writeWindow_status (s : State) (gib : Nat) : (s.writeWindow gib).2 =
    if partNumbers.any (fun p => decide (2046 < carveOf gib + s.near p)) then 0x1104 else 0 := by
  unfold State.writeWindow
  dsimp only
  split
  · rfl
  · split <;> rfl

theorem savedEffect_status (s : State) (c : Caddy) (i j v lanes : Nat) :
    ((replayed s c).savedEffect i j v lanes).2 = (s.savedEffect i j v lanes).2 := by
  unfold State.savedEffect
  simp only [apply_ite Prod.snd, enablePort_status, writeWindow_status]
  rfl

theorem writePartner_status (s : State) (c : Caddy) (r : Req) (p m : Nat) :
    ((replayed s c).writePartner r p m).2 = (s.writePartner r p m).2 := by
  unfold State.writePartner State.setPartner State.askBind State.waitBind
  simp only [apply_ite Prod.snd]
  rfl

theorem writeWindowRequest_status (s : State) (c : Caddy) (r : Req) (p m : Nat) :
    ((replayed s c).writeWindowRequest r p m).2 = (s.writeWindowRequest r p m).2 := by
  unfold State.writeWindowRequest State.setWindow State.askBind State.waitBind
  simp only [apply_ite Prod.snd]
  rfl

/-- Run control of every partition is write-only. -/
theorem runControl_writeOnly {i : Nat} {e : DEntry} (h : 0x3000 ≤ i ∧ i < 0x3400 ∧ (i - 0x3000) % 256 = 0)
    (he : dictFind i 2 = some e) : e.acc = 2 := by
  have hi : i = 0x3000 ∨ i = 0x3100 ∨ i = 0x3200 ∨ i = 0x3300 := by omega
  rcases hi with rfl | rfl | rfl | rfl <;> (cases he; rfl)

theorem status_ite {c : Prop} [Decidable c] {x y x' y' : State × Option Nat} (hx : c → x.2 = x'.2) (hy : ¬c → y.2 = y'.2) :
    (if c then x else y).2 = (if c then x' else y').2 := by
  split
  · exact hx ‹_›
  · exact hy ‹_›

theorem done_status {x y : State × Nat} (h : x.2 = y.2) : (done x).2 = (done y).2 := congrArg some h

theorem writeVisibility_status (s : State) (c : Caddy) (v : Nat) :
    ((replayed s c).writeVisibility v).2 = (s.writeVisibility v).2 := by
  unfold State.writeVisibility
  simp only [apply_ite Prod.snd]
  rfl

theorem writeDebug_status (s : State) (c : Caddy) (bs : List Byte) :
    ((replayed s c).writeDebug bs).2 = (s.writeDebug bs).2 := by
  unfold State.writeDebug
  simp only [apply_ite Prod.snd]
  rfl

theorem writeSnapshot_status (s : State) (c : Caddy) (t : Nat) :
    ((replayed s c).writeSnapshot t).2 = (s.writeSnapshot t).2 := by
  unfold State.writeSnapshot
  simp only [apply_ite Prod.snd]
  rfl

theorem writeKind_status (s : State) (c : Caddy) : (replayed s c).writeKind.2 = s.writeKind.2 := by
  unfold State.writeKind
  simp only [apply_ite Prod.snd]
  rfl

theorem not_writeOnly {i j a b : Nat} {e d : DEntry} (he : dictFind i j = some e) (ha : e.acc ≠ 2)
    (hd : dictFind a b = some d) (h2 : d.acc = 2) : ¬(i = a ∧ j = b) := by
  rintro ⟨rfl, rfl⟩
  cases he.symm.trans hd
  exact ha h2

theorem lowEffect_status (s : State) (c : Caddy) (r : Req) {i j : Nat} {bs : List Byte} {e : DEntry}
    (he : dictFind i j = some e) (ha : e.acc ≠ 2) :
    ((replayed s c).lowEffect r i j bs).2 = (s.lowEffect r i j bs).2 := by
  have wo {a b : Nat} {d : DEntry} (hd : dictFind a b = some d) (h2 : d.acc = 2) {P : Prop} (h : i = a ∧ j = b) : P :=
    absurd h (not_writeOnly he ha hd h2)
  unfold State.lowEffect
  dsimp only
  refine status_ite (wo rfl rfl) fun _ => ?_
  refine status_ite (fun _ => done_status (writeVisibility_status s c _)) fun _ => ?_
  refine status_ite (fun _ => rfl) fun _ => ?_
  refine status_ite (fun _ => done_status (writeDebug_status s c bs)) fun _ => ?_
  refine status_ite (wo rfl rfl) fun _ => ?_
  refine status_ite (wo rfl rfl) fun _ => ?_
  refine status_ite (fun h => absurd (runControl_writeOnly ⟨h.1, h.2.1, h.2.2.1⟩ (h.2.2.2 ▸ he)) ha) fun _ => ?_
  refine status_ite (fun _ => writePartner_status s c r _ _) fun _ => ?_
  refine status_ite (fun _ => writeWindowRequest_status s c r _ _) fun _ => ?_
  refine status_ite (fun _ => rfl) fun _ => ?_
  refine status_ite (wo rfl rfl) fun _ => ?_
  refine status_ite (fun _ => done_status (writeSnapshot_status s c _)) fun _ => ?_
  refine status_ite (fun _ => rfl) fun _ => ?_
  refine status_ite (fun _ => rfl) fun _ => ?_
  refine status_ite (wo rfl rfl) fun _ => ?_
  exact status_ite (fun _ => rfl) fun _ => done_status (savedEffect_status s c i j _ _)

theorem highEffect_status (s : State) (c : Caddy) (r : Req) {i j : Nat} {bs : List Byte} {e : DEntry}
    (he : dictFind i j = some e) (ha : e.acc ≠ 2) :
    ((replayed s c).highEffect r i j bs).2 = (s.highEffect r i j bs).2 := by
  have wo {a b : Nat} {d : DEntry} (hd : dictFind a b = some d) (h2 : d.acc = 2) {P : Prop} (h : i = a ∧ j = b) : P :=
    absurd h (not_writeOnly he ha hd h2)
  have wo2 {j' : Nat} {d d' : DEntry} (hd : dictFind 0x8400 j' = some d) (h2 : d.acc = 2) (hd' : dictFind 0x9100 j' = some d')
      (h2' : d'.acc = 2) {P : Prop} (h : (i = 0x8400 ∨ i = 0x9100) ∧ j = j') : P :=
    h.1.elim (fun hi => wo hd h2 ⟨hi, h.2⟩) (fun hi => wo hd' h2' ⟨hi, h.2⟩)
  unfold State.highEffect
  dsimp only
  refine status_ite (wo rfl rfl) fun _ => ?_
  refine status_ite (fun _ => rfl) fun _ => ?_
  refine status_ite (fun _ => rfl) fun _ => ?_
  refine status_ite (wo2 rfl rfl rfl rfl) fun _ => ?_
  refine status_ite (wo2 rfl rfl rfl rfl) fun _ => ?_
  refine status_ite (fun _ => done_status (writeKind_status s c)) fun _ => ?_
  refine status_ite (wo rfl rfl) fun _ => ?_
  refine status_ite (wo rfl rfl) fun _ => ?_
  refine status_ite (fun _ => rfl) fun _ => ?_
  exact status_ite (fun _ => rfl) fun _ => done_status (savedEffect_status s c i j _ _)

theorem entryEffect_status (s : State) (c : Caddy) (r : Req) {i j : Nat} {bs : List Byte} {e : DEntry}
    (he : dictFind i j = some e) (ha : e.acc ≠ 2) :
    ((replayed s c).entryEffect r i j bs).2 = (s.entryEffect r i j bs).2 := by
  unfold State.entryEffect
  split
  · exact lowEffect_status s c r he ha
  · exact highEffect_status s c r he ha

/-- A request that passes and is answered, from a state that the gate's counters may have changed. -/
theorem serve_answer {s : State} {r : Req} {op i j st : Nat} {v : List Byte} {f : State → State × Option (Nat × List Byte)}
    {g : Caddy → State} (h : admits s r op i j) (hf : ∀ cs, f (replayed s cs) = (g cs, some (st, v))) :
    ∃ cs, s.serve r op i j f = (g cs).respond r op i j st v := by
  obtain ⟨cs, e⟩ := gate_pass h
  refine ⟨cs, ?_⟩
  unfold State.serve
  rw [e]
  dsimp only
  rw [hf cs]

/-- How an accepted write is served: its effect runs on s but for the service, and its status is answered. -/
theorem serveWrite_runs {s : State} {r : Req} {i j ty : Nat} {bs : List Byte} (h : acceptsWrite s r i j ty bs) :
    ∃ cs, ∀ f : State → State × Option Nat, s.serveWrite r i j ty bs f =
      match f (replayed s cs) with
      | (t, some 0) => (t.commitWrite (Route.code r.route) i j bs).respond r 2 i j 0 []
      | (t, some st) => t.respond r 2 i j st []
      | (t, none) => t := by
  obtain ⟨c0, g⟩ := gate_pass h.1
  have hw : (replayed s c0).writeStatus i j ty bs = 0 := h.2
  obtain ⟨cs, ha⟩ := acceptWrite_replayed s c0 (sourceOf r) r.txn i j bs
  refine ⟨cs, fun f => ?_⟩
  unfold State.serveWrite State.serve
  rw [g]
  dsimp only
  rw [hw, ha, if_neg (by simp)]
  rcases f (replayed s cs) with ⟨t, _ | _ | st⟩ <;> rfl

theorem val_of_find {s : State} {i j : Nat} {bs : List Byte} (h : Tab.find s.vals (i * 256 + j) = some bs) :
    s.val i j = bs := by
  unfold State.val
  rw [h]
  rfl

theorem find_respond_commitWrite (u : State) (r : Req) {i j : Nat} {bs : List Byte} {e : DEntry} (he : dictFind i j = some e)
    (ha : e.acc ≠ 2) :
    Tab.find ((u.commitWrite (Route.code r.route) i j bs).respond r 2 i j 0 []).vals (i * 256 + j) = some bs := by
  rw [show State.vals _ = _ from respond_same _ r 2 i j 0 [] .vals (by decide), commitWrite_vals he ha]
  exact tab_find_set_same _ _ _

theorem caddyWrite_stores {s : State} {r : Req} {i j ty : Nat} {bs : List Byte} {e : DEntry} (h : acceptsWrite s r i j ty bs)
    (hl : bs.length ≤ 1024) (he : dictFind i j = some e) (ha : e.acc ≠ 2) (hm : measured i j = true → s.val i j = bs)
    (hf : ∀ cs, ((replayed s cs).entryEffect r i j bs).2 = some 0) :
    ∃ t, exec (.caddyWrite r i j ty bs 0 bs.length false) s = .next t ∧ t.val i j = bs ∧ respondedWith t r 2 i j 0 [] := by
  obtain ⟨cs, e1⟩ := serveWrite_full (f := fun u => u.entryEffect r i j bs) h hf
  have hv := find_respond_commitWrite ((replayed s cs).entryEffect r i j bs).1 r (bs := bs) he ha
  have hr := respondedWith_respond (((replayed s cs).entryEffect r i j bs).1.commitWrite (Route.code r.route) i j bs) r 2 i j 0 []
  rw [← e1] at hv hr
  have e2 : s.writeRequest r i j ty bs 0 bs.length false = _ := (writeRequest_whole hl).trans
    (afterWrite_same (fun hi => (val_of_find hv).trans (hm hi).symm))
  exact ⟨_, congrArg (answerTime s) e2, val_of_find hv, hr⟩

theorem caddyWrite_refuses {s : State} {r : Req} {i j ty st : Nat} {bs : List Byte} (h : acceptsWrite s r i j ty bs)
    (hl : bs.length ≤ 1024) (hm : measured i j = false)
    (hf : ∀ cs, (replayed s cs).entryEffect r i j bs = (replayed s cs, some st)) (hn : st ≠ 0) :
    ∃ t, exec (.caddyWrite r i j ty bs 0 bs.length false) s = .next t ∧ respondedWith t r 2 i j st [] ∧
      onlyChanges [.caddy, .outs, .errq, .journal] s t := by
  obtain ⟨t, e, a, k⟩ := refusedTime (f := fun u => u.entryEffect r i j bs) h hf hn
  have e2 : s.writeRequest r i j ty bs 0 bs.length false = _ := (writeRequest_whole hl).trans
    (afterWrite_same (fun hi => by rw [hm] at hi; cases hi))
  exact ⟨t, (congrArg (answerTime s) e2).trans e, a, k⟩

theorem segs_respond (s : State) (r : Req) (op i j st : Nat) (v : List Byte) :
    (s.respond r op i j st v).caddy.segs = s.caddy.segs := by
  unfold State.respond State.sendResponse
  cases r.route <;> dsimp only
  · split <;> rfl
  · rfl
  · split
    · rfl
    · split <;> rfl

/-- s with a first segment of entry i:j held, those held before it dropped. -/
def firstHeld (s : State) (r : Req) (i j : Nat) (bs : List Byte) (total : Nat) : State :=
  let x : Segs := { route := r.route, index := i, sub := j, bytes := bs, total := total, tick := s.time.ticks }
  let d := s.dropSegments r.route i j
  { d with caddy := { d.caddy with segs := x :: d.caddy.segs } }

theorem takeSegment_first (s : State) (r : Req) (i j : Nat) (bs : List Byte) (total : Nat) :
    s.takeSegment r i j bs 0 total true = (firstHeld s r i j bs total, some none) := rfl

theorem caddyWrite_holds_first_segment {s : State} {r : Req} {i j ty total : Nat} {bs : List Byte} (h : admits s r 2 i j)
    (ht : segmentStatus i j ty = 0) :
    ∃ t, exec (.caddyWrite r i j ty bs 0 total true) s = .next t ∧ respondedWith t r 2 i j 0 [] ∧
      t.caddy.segs.head? =
        some { route := r.route, index := i, sub := j, bytes := bs, total := total, tick := s.time.ticks } := by
  obtain ⟨cs, e⟩ : ∃ cs, s.segmentRequest r i j ty bs 0 total true =
      (firstHeld (replayed s cs) r i j bs total).respond r 2 i j 0 [] := by
    refine serve_answer h (fun cs => ?_)
    dsimp only
    rw [if_neg (by simp [ht]), takeSegment_first]
  have hk := respond_same (firstHeld (replayed s cs) r i j bs total) r 2 i j 0 []
  have hr := respondedWith_respond (firstHeld (replayed s cs) r i j bs total) r 2 i j 0 []
  have hs := segs_respond (firstHeld (replayed s cs) r i j bs total) r 2 i j 0 []
  have e2 : s.writeRequest r i j ty bs 0 total true = s.segmentRequest r i j ty bs 0 total true :=
    afterWrite_same (fun _ => by rw [e]; exact val_of (hk .vals (by decide)) (hk .factory (by decide)) i j)
  exact ⟨_, congrArg (answerTime s) (e2.trans e), hr, congrArg List.head? hs⟩

theorem segmentTimeout_drops (s : State) (route : Route) (i j : Nat) :
    ∃ t, exec (.caddySegmentTimeout route i j) s = .next t ∧ onlyChanges [.caddy, .errq, .journal] s t ∧
      ∀ x, x ∈ t.caddy.segs ↔ x ∈ s.caddy.segs ∧
        ¬(x.route = route ∧ x.index = i ∧ x.sub = j ∧ x.tick + 1000 * Config.ticksPerMs ≤ s.time.ticks) := by
  refine ⟨_, rfl, fun k hk => ?_, fun x => ?_⟩
  · cases k <;> first | rfl | exact absurd (by decide) hk
  · refine List.mem_filter.trans (and_congr_right fun _ => ?_)
    simp only [Bool.not_eq_true', ← Bool.not_eq_true, Bool.and_eq_true, beq_iff_eq, decide_eq_true_eq, and_assoc]

/-- Settles O12. -/
theorem caddyWritesStoreTheValue : Obligations.CaddyWritesStoreTheValue := by
  unfold Obligations.CaddyWritesStoreTheValue
  intro s r i j ty bs
  refine ⟨fun e h hl he ha hm hs => ?stored, fun total h ht => caddyWrite_holds_first_segment h ht,
    fun route => segmentTimeout_drops s route i j⟩
  case stored =>
    obtain ⟨c, hc⟩ := gate_pass h.1
    rw [hc] at hs
    have hs' : (s.entryEffect r i j bs).2 = some 0 := (entryEffect_status s c r he ha).symm.trans hs
    exact caddyWrite_stores h hl he ha hm (fun cs => (entryEffect_status s cs r he ha).trans hs')

end Sys2Proof.Proofs.CaddyWrites

/-!
SUPPORT. Steep mode off and the power cap: what their entries' own effects answer, the check of Start that asks for the
conditions of R57, and the statement of O60 from these.
-/

namespace Sys2Proof.Proofs.SteepMode

open Sys2Proof Sys2Proof.Machine Sys2Proof.Safety Sys2Proof.Laws Sys2Proof.Laws.Shared Sys2Proof.Proofs.CaddyWrites

/-- The number that w little-endian bytes of v spell. -/
theorem ofLe_le (n v : Nat) : ofLe (le n v) = v % 256 ^ n := by
  induction n generalizing v with
  | zero => simp [le, ofLe, Nat.mod_one]
  | succ n ih =>
    unfold le ofLe
    rw [ih, pow_succ', Nat.mod_mul]
    simp

theorem modeStatus_steep (s : State) (p : Nat) : s.modeStatus p 0x30 2 0 =
    if s.valNat 0x2200 2 = 1 ∧ s.valNat 0x4100 1 ≤ 12000 then 0 else 0x1102 := by
  unfold State.modeStatus
  by_cases h : s.valNat 0x2200 2 = 1 ∧ s.valNat 0x4100 1 ≤ 12000
  · rw [if_pos h]
    simp [h.1, h.2]
  · rw [if_neg h, if_pos]
    simpa [or_iff_not_imp_left] using h

theorem startChecks_statuses (s : State) (p : Nat) : ∀ c ∈ s.startChecks p, c.2.1 ≠ 0 := by
  unfold State.startChecks
  simp

theorem start_refuses {s : State} {p : Nat} (route : Nat) (hi : (s.part p).state = .idle)
    (hr : (s.part p).rcv.startRestore = none) (hc : ∃ c ∈ s.startChecks p, c.1 = false) :
    (s.start p route).2 ≠ 0 ∧ (s.start p route).1.parts = s.parts := by
  obtain ⟨c, hm, hf⟩ := hc
  have hs : ((s.startChecks p).find? (fun c => !c.1)).isSome = true :=
    List.find?_isSome.mpr ⟨c, hm, by rw [hf]; rfl⟩
  obtain ⟨d, hd⟩ := Option.isSome_iff_exists.mp hs
  have h0 := startChecks_statuses s p d (List.mem_of_find?_eq_some hd)
  unfold State.start
  rw [if_neg (by simp [hi, hr]), hd]
  exact ⟨h0, logEvent_only s 2 p route _ .parts (by decide)⟩

theorem start_checks_steep {s : State} {p : Nat} (h0 : s.pval p 0x30 2 = 0)
    (hm : ¬(s.valNat 0x2200 2 = 1 ∧ s.valNat 0x4100 1 ≤ 12000)) : ∃ c ∈ s.startChecks p, c.1 = false := by
  refine ⟨(s.pval p 0x30 2 != 0 || (s.valNat 0x2200 2 == 1 && s.valNat 0x4100 1 ≤ 12000),
    0x1102, 0x3000 + 256 * p + 0x30, 2), ?_, ?_⟩
  · unfold State.startChecks
    simp
  · simpa [h0] using hm

theorem entryEffect_steep (s : State) (r : Req) {p : Nat} (hp : p < 4) (bs : List Byte) :
    s.entryEffect r (0x3030 + 256 * p) 2 bs = (s, some (s.modeStatus p 0x30 2 (ofLe bs))) := by
  match p, hp with
  | 0, _ => rfl
  | 1, _ => rfl
  | 2, _ => rfl
  | 3, _ => rfl

theorem entryEffect_cap (s : State) (r : Req) (bs : List Byte) : s.entryEffect r 0x4100 1 bs =
    (s, some (if 12000 < ofLe bs && s.valNat 0x4100 1 < ofLe bs && partNumbers.any s.steepOff then 0x1102 else 0)) := rfl

/-- The dictionary's row of the steep thresholds. -/
def steepRow : DEntry := ⟨0x3030, 4, 256, 2, 1, "Steep threshold", 4, 1, true, 0, 20000, 2000⟩

theorem dictFind_steep {p : Nat} (hp : p < 4) : dictFind (0x3030 + 256 * p) 2 = some steepRow := by
  match p, hp with
  | 0, _ => rfl
  | 1, _ => rfl
  | 2, _ => rfl
  | 3, _ => rfl

theorem measured_steep (p : Nat) : measured (0x3030 + 256 * p) 2 = false := by
  unfold measured
  have h : (0x3030 + 256 * p == 0xA300) = false := beq_false_of_ne (by omega)
  rw [h]
  simp

/-- A write of 0 to a steep threshold (R57, log 84). -/
theorem steepWrite {s : State} {r : Req} {p : Nat} (hp : p < 4) (h : acceptsWrite s r (0x3030 + 256 * p) 2 4 (le 4 0)) :
    (¬(s.valNat 0x2200 2 = 1 ∧ s.valNat 0x4100 1 ≤ 12000) →
      ∃ t, exec (.caddyWrite r (0x3030 + 256 * p) 2 4 (le 4 0) 0 4 false) s = .next t ∧
        respondedWith t r 2 (0x3030 + 256 * p) 2 0x1102 [] ∧ t.vals = s.vals) ∧
    (s.valNat 0x2200 2 = 1 ∧ s.valNat 0x4100 1 ≤ 12000 →
      ∃ t, exec (.caddyWrite r (0x3030 + 256 * p) 2 4 (le 4 0) 0 4 false) s = .next t ∧
        respondedWith t r 2 (0x3030 + 256 * p) 2 0 [] ∧ t.val (0x3030 + 256 * p) 2 = le 4 0) := by
  have hf (cs : Caddy) : (replayed s cs).entryEffect r (0x3030 + 256 * p) 2 (le 4 0) =
      (replayed s cs, some (if s.valNat 0x2200 2 = 1 ∧ s.valNat 0x4100 1 ≤ 12000 then 0 else 0x1102)) := by
    rw [entryEffect_steep _ r hp, show ofLe (le 4 0) = 0 from rfl, modeStatus_steep]
    rfl
  refine ⟨fun hm => ?_, fun hm => ?_⟩
  · simp only [if_neg hm] at hf
    obtain ⟨t, e, a, k⟩ := caddyWrite_refuses h (by decide) (measured_steep p) hf (by decide)
    exact ⟨t, e, a, k .vals (by decide)⟩
  · simp only [if_pos hm] at hf
    obtain ⟨t, e, v, a⟩ := caddyWrite_stores h (by decide) (dictFind_steep hp) (by decide)
      (fun hc => by rw [measured_steep] at hc; cases hc) (fun cs => by rw [hf cs])
    exact ⟨t, e, a, v⟩

/-- A write of the power cap (R57, log 84). -/
theorem capWrite {s : State} {r : Req} {w : Nat} (h : acceptsWrite s r 0x4100 1 4 (le 4 w)) (hw : w < 2 ^ 32) :
    (12000 < w → s.valNat 0x4100 1 < w → (∃ q < 4, s.pval q 0x30 2 = 0) →
      ∃ t, exec (.caddyWrite r 0x4100 1 4 (le 4 w) 0 4 false) s = .next t ∧ respondedWith t r 2 0x4100 1 0x1102 [] ∧
        t.vals = s.vals) ∧
    (w ≤ 12000 ∨ w ≤ s.valNat 0x4100 1 ∨ (∀ q < 4, s.pval q 0x30 2 ≠ 0) →
      ∃ t, exec (.caddyWrite r 0x4100 1 4 (le 4 w) 0 4 false) s = .next t ∧ respondedWith t r 2 0x4100 1 0 [] ∧
        t.val 0x4100 1 = le 4 w) := by
  have hv : ofLe (le 4 w) = w := by rw [ofLe_le]; omega
  have hsteep : partNumbers.any s.steepOff = true ↔ ∃ q < 4, s.pval q 0x30 2 = 0 := by
    rw [List.any_eq_true]
    refine exists_congr fun q => and_congr ?_ ?_
    · unfold partNumbers; simp; omega
    · unfold State.steepOff; simp
  have hf (cs : Caddy) : (replayed s cs).entryEffect r 0x4100 1 (le 4 w) = (replayed s cs,
      some (if 12000 < w && s.valNat 0x4100 1 < w && partNumbers.any s.steepOff then 0x1102 else 0)) := by
    rw [entryEffect_cap, hv]
    rfl
  refine ⟨fun h1 h2 h3 => ?_, fun h0 => ?_⟩
  · have hc : (12000 < w && s.valNat 0x4100 1 < w && partNumbers.any s.steepOff) = true := by simp [h1, h2, hsteep.mpr h3]
    simp only [if_pos hc] at hf
    obtain ⟨t, e, a, k⟩ := caddyWrite_refuses h (by simp [le_len]) rfl hf (by decide)
    exact ⟨t, e, a, k .vals (by decide)⟩
  · have hc : ¬(12000 < w && s.valNat 0x4100 1 < w && partNumbers.any s.steepOff) = true := by
      rw [Bool.and_eq_true, Bool.and_eq_true, decide_eq_true_eq, decide_eq_true_eq, hsteep]
      rintro ⟨⟨h1, h2⟩, q, hq, h3⟩
      rcases h0 with h0 | h0 | h0
      · omega
      · omega
      · exact h0 q hq h3
    simp only [if_neg hc] at hf
    obtain ⟨t, e, v, a⟩ := caddyWrite_stores h (by simp [le_len]) (e := _) rfl (by decide) (fun hm => by cases hm)
      (fun cs => by rw [hf cs])
    exact ⟨t, e, a, v⟩

/-- Start of a partition whose steep threshold is 0 without the conditions of R57 (R46). -/
theorem start_asks_steep {s : State} {r : Req} {p : Nat} (h : acceptsWrite s r (0x3000 + 256 * p) 2 2 (le 1 1))
    (hb : s.boot.schLost = false) (hi : (s.part p).state = .idle) (hr : (s.part p).rcv.startRestore = none)
    (h0 : s.pval p 0x30 2 = 0) (hm : ¬(s.valNat 0x2200 2 = 1 ∧ s.valNat 0x4100 1 ≤ 12000)) :
    ∃ t st, exec (.start r p) s = .next t ∧ st ≠ 0 ∧ respondedWith t r 2 (0x3000 + 256 * p) 2 st [] ∧ t.parts = s.parts := by
  obtain ⟨cs, e⟩ := serveWrite_runs h
  have e := e (fun s => done (s.runControl p 1 (Route.code r.route)))
  obtain ⟨hn, hp⟩ := start_refuses (s := replayed s cs) (Route.code r.route) hi hr (start_checks_steep h0 hm)
  have hd : done ((replayed s cs).runControl p 1 (Route.code r.route)) =
      done ((replayed s cs).start p (Route.code r.route)) := by
    unfold State.runControl
    rw [if_neg (by rw [show (replayed s cs).boot.schLost = false from hb]; decide), if_pos rfl]
  rw [hd] at e
  generalize (replayed s cs).start p (Route.code r.route) = x at e hn hp
  obtain ⟨u, st⟩ := x
  obtain ⟨k, rfl⟩ : ∃ k, st = k + 1 := ⟨st - 1, by dsimp only at hn; omega⟩
  refine ⟨_, k + 1, congrArg (answer s) e, hn, respondedWith_respond _ _ _ _ _ _ _, ?_⟩
  exact (respond_same u r 2 _ 2 (k + 1) [] .parts (by decide)).trans hp

/-- Settles O60: the two writes, and the check that Start makes. -/
theorem steepOffNeedsItsConditions : Obligations.SteepOffNeedsItsConditions := by
  unfold Obligations.SteepOffNeedsItsConditions
  intro s r p w hp
  refine ⟨fun h => steepWrite hp h, fun h hw => ?_, fun h hb hi hr h0 hm => start_asks_steep h hb hi hr h0 hm⟩
  obtain ⟨refused, stored⟩ := capWrite h hw
  exact ⟨fun h1 h2 h3 => refused h1 h2 ⟨p, hp, h3⟩, stored⟩

end Sys2Proof.Proofs.SteepMode

/-!
SUPPORT. Power, clocks and heat: what a control period, the governor, a droop, a sample, a zone and the gating of idle
clusters and bands leave, and the statement of O56 from these.
-/

namespace Sys2Proof.Proofs.PowerAndHeat

open Sys2Proof Sys2Proof.Machine Sys2Proof.Safety Sys2Proof.Laws Sys2Proof.Laws.Shared

/-! ### The control period (R421) -/

theorem countPeriod_only (s : State) : onlyChanges [.power, .free] s s.countPeriod := (count_period s).1

theorem countPeriod_gapClasses (s : State) : s.countPeriod.power.gapClasses = s.power.gapClasses := (count_period s).2.1

theorem countPeriod_points (s : State) : s.countPeriod.power.points = s.power.points := (count_period s).2.2

theorem countPeriod_classSites (s : State) : s.countPeriod.classSites = s.classSites :=
  (class_of (countPeriod_only s) (countPeriod_points s)).1

theorem countPeriod_atFloor (s : State) : s.countPeriod.atFloor = s.atFloor :=
  (class_of (countPeriod_only s) (countPeriod_points s)).2.1

theorem countPeriod_site (s : State) (i : Nat) : s.countPeriod.site i = s.site i :=
  (class_of (countPeriod_only s) (countPeriod_points s)).2.2.1 i

theorem countPeriod_effectiveCap (s : State) : s.countPeriod.effectiveCap = s.effectiveCap :=
  (class_of (countPeriod_only s) (countPeriod_points s)).2.2.2

/-- A control period of a PMC in service, with the governor at rest. -/
theorem controlPeriod_runs {s : State} (w : Nat) (hl : s.boot.pmcLost = false) (hg : s.power.governor = false)
    (hp : s.boot.power = 2) : exec (.pmcControlPeriod w) s = answer s
      (if s.effectiveCap < w then s.countPeriod.capDown
       else if 100 * w < 97 * s.effectiveCap then s.countPeriod.capUp else s.countPeriod) := by
  show execPmcControlPeriod w s = _
  unfold execPmcControlPeriod
  rw [if_neg (by rw [hl, hg, hp]; decide), ← countPeriod_effectiveCap]

theorem controlPeriod_rests {s : State} {w : Nat} (hl : s.boot.pmcLost = false) (hg : s.power.governor = false)
    (hp : s.boot.power = 2) (h1 : w ≤ s.effectiveCap) (h2 : 97 * s.effectiveCap ≤ 100 * w) :
    ∃ t, exec (.pmcControlPeriod w) s = .next t ∧ onlyChanges [.power, .free, .errq, .journal] s t ∧
      t.power.gapClasses = s.power.gapClasses ∧ t.power.points = s.power.points := by
  rw [controlPeriod_runs w hl hg hp, if_neg (by omega), if_neg (by omega)]
  refine ansK (countPeriod_only s) (by decide) (fun t kt _ => ?_)
  rw [show t.power = _ from kt .power (by decide)]
  exact ⟨countPeriod_gapClasses s, countPeriod_points s⟩

/-- A class at its floor leaves gaps. -/
theorem capDown_of_atFloor {s : State} {c : Nat}
    (hf : capClasses.find? (fun c => !(s.classSites c).isEmpty && !(s.atFloor c && s.power.gapClasses.contains c)) = some c)
    (ha : s.atFloor c = true) :
    s.capDown = { s with power := { s.power with gapClasses := s.power.gapClasses ++ [c] } } := by
  unfold State.capDown
  rw [hf]
  exact if_pos ha

theorem controlPeriod_takes_gaps {s : State} {w c : Nat} (hl : s.boot.pmcLost = false) (hg : s.power.governor = false)
    (hp : s.boot.power = 2) (hw : s.effectiveCap < w)
    (hf : capClasses.find? (fun c => !(s.classSites c).isEmpty && !(s.atFloor c && s.power.gapClasses.contains c)) = some c)
    (ha : s.atFloor c = true) :
    ∃ t, exec (.pmcControlPeriod w) s = .next t ∧ onlyChanges [.power, .free, .errq, .journal] s t ∧
      t.power.gapClasses = s.power.gapClasses ++ [c] := by
  rw [controlPeriod_runs w hl hg hp, if_pos hw, capDown_of_atFloor (c := c)
    (by rw [countPeriod_classSites, countPeriod_atFloor, countPeriod_gapClasses]; exact hf)
    (by rw [countPeriod_atFloor]; exact ha), countPeriod_gapClasses]
  refine ansK (ks := [.power, .free]) (only_trans (countPeriod_only s) (only_mono (power_set _ _) (by decide))) (by decide)
    (fun t kt _ => ?_)
  rw [show t.power = _ from kt .power (by decide)]

theorem controlPeriod_gives_gaps_back {s : State} {w : Nat} (hl : s.boot.pmcLost = false) (hg : s.power.governor = false)
    (hp : s.boot.power = 2) (h1 : w ≤ s.effectiveCap) (h2 : 100 * w < 97 * s.effectiveCap) (hc : s.power.gapClasses ≠ []) :
    ∃ t, exec (.pmcControlPeriod w) s = .next t ∧ onlyChanges [.power, .free, .errq, .journal] s t ∧
      t.power.gapClasses = s.power.gapClasses.dropLast := by
  have hup : s.countPeriod.capUp =
      { s.countPeriod with power := { s.countPeriod.power with gapClasses := s.power.gapClasses.dropLast } } := by
    unfold State.capUp
    rw [countPeriod_gapClasses, if_pos (by simpa using hc)]
  rw [controlPeriod_runs w hl hg hp, if_neg (by omega), if_pos h2, hup]
  refine ansK (ks := [.power, .free]) (only_trans (countPeriod_only s) (only_mono (power_set _ _) (by decide))) (by decide)
    (fun t kt _ => ?_)
  rw [show t.power = _ from kt .power (by decide)]

theorem controlPeriod_unstretches {s : State} {w c : Nat} (hl : s.boot.pmcLost = false) (hg : s.power.governor = false)
    (hp : s.boot.power = 2) (h1 : w ≤ s.effectiveCap) (h2 : 100 * w < 97 * s.effectiveCap) (hc : s.power.gapClasses = [])
    (hf : [2, 1, 0].find? (fun c => (s.classSites c).any (fun i => (s.site i).k != 0)) = some c) (hn : (s.classSites c).Nodup) :
    ∃ t, exec (.pmcControlPeriod w) s = .next t ∧ onlyChanges [.sites, .power, .free, .errq, .journal] s t ∧
      ∀ i, t.site i = if i ∈ s.classSites c then { s.site i with k := (s.site i).k - 4 } else s.site i := by
  have hup : s.countPeriod.capUp = (s.classSites c).foldl
      (fun u i => u.modSite i ((fun _ _ x => { x with k := x.k - 4 } : State → Nat → Site → Site) u i)) s.countPeriod := by
    unfold State.capUp
    rw [countPeriod_gapClasses, hc, if_neg (by decide), countPeriod_classSites]
    simp only [countPeriod_site]
    rw [hf]
  obtain ⟨hs, hk⟩ := fold_sites (fun _ _ x => { x with k := x.k - 4 }) (fun _ _ _ => rfl) (s.classSites c) s.countPeriod hn
  rw [controlPeriod_runs w hl hg hp, if_neg (by omega), if_pos h2, hup]
  refine ansK (ks := [.sites, .power, .free])
    (only_trans (only_mono (countPeriod_only s) (by decide)) (only_mono hk (by decide))) (by decide) (fun t kt _ i => ?_)
  rw [site_of (kt .sites (by decide)), hs i, countPeriod_site]

/-! ### The governor and droops (R423, R424) -/

/-- A command that leaves s with another power state. -/
theorem answers_power (s : State) (p : Power) :
    ∃ t, answer s { s with power := p } = .next t ∧ onlyChanges [.power, .errq, .journal] s t ∧ t.power = p :=
  ansK (power_set s p) (by decide) (fun _ kt _ => kt .power (by decide))

section
variable {s : State} {w : Nat} (hg : s.power.governor = true) (hp : s.boot.power = 2)
include hg hp

theorem governor_runs : ¬(!s.power.governor ∨ s.boot.power ≠ 2) := by
  rw [hg, hp]
  decide

theorem governorSample_below (h : w ≤ s.effectiveCap) :
    exec (.governorSample w) s = answer s { s with power := { s.power with overSamples := 0 } } := by
  show execGovernorSample w s = _
  unfold execGovernorSample
  rw [if_neg (governor_runs hg hp), if_pos h]

theorem governorSample_first (h : s.effectiveCap < w) (h0 : s.power.overSamples = 0) :
    exec (.governorSample w) s = answer s { s with power := { s.power with overSamples := 1 } } := by
  show execGovernorSample w s = _
  unfold execGovernorSample
  rw [if_neg (governor_runs hg hp), if_neg (by omega), if_pos h0]

theorem governorSample_second {c : Nat} (h : s.effectiveCap < w) (h0 : s.power.overSamples ≠ 0)
    (hf : capClasses.find? (fun c => !s.power.gapClasses.contains c) = some c) :
    exec (.governorSample w) s =
      answer s { s with power := { s.power with overSamples := 0, gapClasses := s.power.gapClasses ++ [c] } } := by
  show execGovernorSample w s = _
  unfold execGovernorSample
  rw [if_neg (governor_runs hg hp), if_neg (by omega), if_neg h0, hf]
end

theorem droop_counts {s : State} {n i : Nat} (hi : s.siteOf n = some i) (hg : (s.site i).gated = false) :
    let more := kMax (s.siteClock i) - (s.site i).stretch
    ∃ t, exec (.droopEvent n) s = .next t ∧ onlyChanges [.power, .free, .errq, .journal] s t ∧
      t.power = { s.power with droops := s.power.droops + 1, stretched := t.power.stretched } ∧
      s.power.stretched + 2 * more ≤ t.power.stretched ∧ t.power.stretched ≤ s.power.stretched + 6 * more := by
  intro more
  show ∃ t, execDroopEvent n s = .next t ∧ _
  unfold execDroopEvent
  rw [hi]
  dsimp only
  rw [if_neg (by rw [hg]; decide)]
  have hr : freeF32 s.free % (4 * more + 1) < 4 * more + 1 := Nat.mod_lt _ (by omega)
  refine ansK (ks := [.power, .free]) ?_ (by decide) (fun t kt _ => ?_)
  · intro k hk
    cases k <;> first | rfl | exact absurd (by decide) hk
  · rw [show t.power = _ from kt .power (by decide)]
    refine ⟨rfl, ?_, ?_⟩
    · show _ ≤ s.power.stretched + 2 * more + freeF32 s.free % (4 * more + 1)
      omega
    · show s.power.stretched + 2 * more + freeF32 s.free % (4 * more + 1) ≤ _
      omega

/-! ### Samples (R385, R425 to R427) -/

theorem sample_keeps {s : State} {i : Nat} {v : F32} (hi : isSensor i = true) (h : sensorState i (s.sensor i).state v ≠ 3) :
    ∃ t, exec (.sensorSample i v) s = .next t ∧ onlyChanges [.sensors, .sites, .power, .errq, .journal] s t ∧
      (t.sensor i).value = v ∧ (t.sensor i).state = sensorState i (s.sensor i).state v ∧
      (ofF32 v.toNat = .nan → (t.sensor i).low = (s.sensor i).low ∧ (t.sensor i).high = (s.sensor i).high) ∧
      (i < 0x5200 ∨ 0x5219 ≤ i → t.sites = s.sites) := by
  obtain ⟨y, e, k, hv, hst, hnan, hsites⟩ := sensor_pre s i v
  have e1 : exec (.sensorSample i v) s = answer s y := by
    show answer s (if isSensor i then s.sample i v else s) = _
    rw [if_pos hi, e, if_neg h]
  rw [e1]
  refine ansK k (by decide) (fun t kt _ => ?_)
  have hs : t.sensor i = y.sensor i := by unfold State.sensor; rw [show t.sensors = y.sensors from kt .sensors (by decide)]
  rw [hs]
  exact ⟨hv, hst, hnan, fun hb => (kt .sites (by decide) : t.sites = y.sites).trans (hsites hb)⟩

/-- The partitions that a shutdown stops: those assigned and not stopped already. -/
def unstopped (s : State) : List Nat := partNumbers.filter (fun p => (s.part p).state != .unassigned && (s.part p).state != .safeStop)

theorem mainOff_only (s : State) (power : Nat) : onlyChanges [.kports, .iports, .update, .boot, .power] s (s.mainOff power) :=
  (path_mainOff power (by decide) (path_refl _ s)).frame

theorem modKports_boot (f : KPort → KPort) (l : List Nat) : ∀ s : State, (l.foldl (fun s k => s.modKport k f) s).boot = s.boot := by
  induction l with
  | nil => exact fun _ => rfl
  | cons k l ih => exact fun s => ih (s.modKport k f)

theorem mainOff_boot (s : State) (power : Nat) : (s.mainOff power).boot = { s.boot with power := power, ready := false } := by
  unfold State.mainOff
  dsimp only
  rw [modKports_boot]

theorem safeStop_all_states (s : State) (st : Nat) {p : Nat} (hp : p < 4) (ha : (s.part p).state ≠ .unassigned) :
    (((unstopped s).foldl (fun u q => u.enterSafeStop q st) s).part p).state = .safeStop := by
  obtain ⟨hin, hout, -⟩ := stop_all st (unstopped s) s
  by_cases hs : (s.part p).state = .safeStop
  · rw [hout p (by unfold unstopped; simp [hs]), hs]
  · refine hin p ?_
    unfold unstopped partNumbers
    simp [ha, hs]
    omega

theorem thermalShutdown_stops {s : State} (i : Nat) (hp : s.boot.power = 2) (hr : roomFor s { status := 0x7102 }) :
    (s.thermalShutdown i).sensors = s.sensors ∧ (s.thermalShutdown i).boot.power = 1 ∧
      (s.thermalShutdown i).boot.ready = false ∧
      (∀ p < 4, (s.part p).state ≠ .unassigned → ((s.thermalShutdown i).part p).state = .safeStop) ∧
      ∃ x ∈ (s.thermalShutdown i).errq.entries, x.seq = s.errq.nextSeq ∧ x.status = 0x7102 ∧ x.part = 0xFF ∧ x.unitKind = 0 ∧
        x.unit = 0 ∧ x.sev = severity 0x7102 := by
  obtain ⟨hk, hq⟩ := raise_room (s := s) (e := { status := 0x7102, detail := le 2 i }) hr
  have e : s.thermalShutdown i = ((unstopped (s.raise { status := 0x7102, detail := le 2 i })).foldl
      (fun u q => u.enterSafeStop q 0x7102) (s.raise { status := 0x7102, detail := le 2 i })).mainOff 1 := by
    unfold State.thermalShutdown
    rw [if_neg (by simp [hp])]
    rfl
  have hs : (s.thermalShutdown i).sensors = s.sensors :=
    (path_thermalShutdown (ks := [.errq, .parts, .queues, .sites, .mem, .hbm, .streams, .ctr, .colls, .credits, .fetches, .xfers,
      .kports, .iports, .tfb, .update, .boot, .power, .outs, .free]) i (by decide) (path_refl _ s)).frame .sensors (by decide)
  rw [e] at hs ⊢
  generalize s.raise { status := 0x7102, detail := le 2 i } = u at *
  have hst := fun p hp ha => safeStop_all_states u 0x7102 (p := p) hp ha
  obtain ⟨-, -, hqe, -⟩ := stop_all 0x7102 (unstopped u) u
  generalize (unstopped u).foldl (fun u q => u.enterSafeStop q 0x7102) u = w at *
  have hm := mainOff_only w 1
  refine ⟨hs, by rw [mainOff_boot], by rw [mainOff_boot], fun p hp ha => ?_, ?_⟩
  · rw [part_of (hm .parts (by decide))]
    exact hst p hp (by rw [part_of (hk .parts (by decide))]; exact ha)
  · rw [show (w.mainOff 1).errq = w.errq from hm .errq (by decide), hqe]
    exact hq

theorem sample_shuts_down {s : State} {i : Nat} {v : F32} (hi : isSensor i = true)
    (h : sensorState i (s.sensor i).state v = 3) (hp : s.boot.power = 2) (hr : roomFor s { status := 0x7102 }) :
    ∃ t, exec (.sensorSample i v) s = .next t ∧ (t.sensor i).state = 3 ∧ t.boot.power = 1 ∧ t.boot.ready = false ∧
      (∀ p < 4, (s.part p).state ≠ .unassigned → (t.part p).state = .safeStop) ∧ queued s t { status := 0x7102 } := by
  obtain ⟨y, e, k, -, hst, -⟩ := sensor_pre s i v
  have hy (p : Nat) : y.part p = s.part p := part_of (k .parts (by decide)) p
  have hq : y.errq = s.errq := k .errq (by decide)
  have e1 : exec (.sensorSample i v) s = answer s (y.thermalShutdown i) := by
    show answer s (if isSensor i then s.sample i v else s) = _
    rw [if_pos hi, e, if_pos h]
  rw [e1]
  obtain ⟨h1, h2, h3, h4, h5⟩ := thermalShutdown_stops i (by rw [show y.boot = s.boot from k .boot (by decide)]; exact hp)
    (room_of hr hq (fun p _ => by rw [hy]))
  rw [hq] at h5
  refine ansE (fun t kt ht => ⟨?_, ?_, ?_, fun p hp ha => ?_, queued_settled h5 t ht⟩)
  · unfold State.sensor
    rw [show t.sensors = _ from kt .sensors (by decide), h1]
    exact hst.trans h
  · rw [show t.boot = _ from kt .boot (by decide), h2]
  · rw [show t.boot = _ from kt .boot (by decide), h3]
  · rw [part_of (kt .parts (by decide))]
    exact h4 p hp (by rw [hy]; exact ha)

/-! ### Zones and gating (R419, R420, R426) -/

/-- The running clusters of a plane zone. -/
def zoneSites (s : State) (zone : Nat) : List Nat :=
  s.allRunning.filter (fun i => rowBand (i / 42) == zone / 5 && colBand (i % 42) == zone % 5)

/-- A cluster that its zone throttles one step more: k rises by 1, and at the floor it takes gaps. -/
def throttled (s : State) (i : Nat) (x : Site) : Site :=
  if x.zoneK < kMax (s.siteClock i) then { x with zoneK := x.zoneK + 1 } else { x with zoneGaps := true }

theorem throttled_of {s t : State} (h : t.power = s.power) : throttled t = throttled s := by
  unfold throttled State.siteClock State.point
  rw [h]

theorem zone_throttles {s : State} {zone : Nat} (hz : zone < 25) (hst : 2 ≤ (s.sensor (0x5200 + zone)).state)
    (hn : s.allRunning.Nodup) :
    ∃ t, exec (.zoneThrottleStep zone) s = .next t ∧ onlyChanges [.sites, .power, .errq, .journal] s t ∧
      ∀ i, t.site i =
        if i ∈ s.allRunning ∧ rowBand (i / 42) = zone / 5 ∧ colBand (i % 42) = zone % 5 then throttled s i (s.site i)
        else s.site i := by
  obtain ⟨hs, hk⟩ := fold_sites throttled (fun _ _ h => throttled_of h) (zoneSites s zone) s (hn.filter _)
  have e : exec (.zoneThrottleStep zone) s = answer s
      (((zoneSites s zone).foldl (fun u i => u.modSite i (throttled u i)) s).countThermal 0 1) := by
    show answer s (if 25 ≤ zone ∨ (s.sensor (0x5200 + zone)).state < 2 then s else _) = _
    rw [if_neg (by omega)]
    rfl
  rw [e]
  refine ansK (ks := [.sites, .power]) (only_trans (only_mono hk (by decide)) (only_mono (power_set _ _) (by decide)))
    (by decide) (fun t kt _ i => ?_)
  have hm : i ∈ zoneSites s zone ↔ i ∈ s.allRunning ∧ rowBand (i / 42) = zone / 5 ∧ colBand (i % 42) = zone % 5 := by
    unfold zoneSites
    simp [List.mem_filter]
  rw [site_of (kt .sites (by decide))]
  show State.site (List.foldl _ _ _) i = _
  rw [hs i]
  exact if_congr hm rfl rfl

/-- What every change that a fold makes to a site leaves holds of each of them after the fold. -/
theorem fold_sites_leaves {P : Site → Prop} (g : State → Site → Site) (hg : ∀ u x, P (g u x)) (l : List Nat) :
    ∀ (u : State) (i : Nat), i ∈ l ∨ P (u.site i) → P ((l.foldl (fun u i => u.modSite i (g u)) u).site i) := by
  induction l with
  | nil => exact fun u i h => h.resolve_left (by simp)
  | cons a l ih =>
    intro u i h
    refine ih (u.modSite a (g u)) i ?_
    by_cases hi : i = a
    · rw [hi, site_modSite]
      exact Or.inr (hg u _)
    · rw [site_modSite_other _ _ _ _ hi]
      exact h.imp_left (fun h => (List.mem_cons.mp h).resolve_left hi)

/-- A cluster without power (R419). -/
def unpowered (s : State) (x : Site) : Site :=
  { x with gated := true, gatedAt := s.time.ticks, mode := 0, retained := none, resume := none, k := 0, zoneK := 0
           zoneGaps := false, record := {}, sinceFence := [], nonRepeat := false }

theorem idle_gates {s : State} {p : Nat} (hm : memoryCanonical s) (hi : (s.part p).state = .idle)
    (hg : (s.part p).gated = false) (hd : s.pval p 0x90 1 ≠ 0)
    (ht : (s.part p).idleTick + s.pval p 0x90 1 * Config.ticksPerMs ≤ s.time.ticks) (hr : (s.part p).rcv.startRestore = none) :
    ∃ t, exec (.idleGating p) s = .next t ∧ onlyChanges [.parts, .sites, .mem, .hbm, .errq, .journal] s t ∧
      (t.part p).gated = true ∧
      (∀ i ∈ s.partSites p, (t.site i).gated = true ∧ (t.site i).k = 0 ∧ (t.site i).retained = none) ∧
      (∀ k, onSites (s.partSites p) k = true → Mem.get t.mem k = 0) := by
  let u := s.scrubWhere (onSites (s.partSites p)) []
  let v := (s.partSites p).foldl (fun v i => v.modSite i (unpowered v)) u
  have e : exec (.idleGating p) s = answer s (v.modPart p (fun q => { q with gated := true })) := by
    show answer s (if _ then s else _) = _
    rw [if_neg (by simp [hi, hg, hd, hr]; omega)]
    rfl
  have hu : onlyChanges [.mem, .hbm] s u := (path_scrubWhere _ _ (by decide) (path_refl _ s)).frame
  have hv : onlyChanges [.sites] u v := fold_only _ _ _ (fun v i => modSite_only v i _) u
  have hw : onlyChanges [.parts] v (v.modPart p (fun q => { q with gated := true })) :=
    (path_modPart p _ (by decide) (path_refl _ v)).frame
  rw [e]
  refine ansK (ks := [.parts, .sites, .mem, .hbm])
    (only_trans (only_mono hu (by decide)) (only_trans (only_mono hv (by decide)) (only_mono hw (by decide)))) (by decide)
    (fun t kt _ => ⟨?_, fun i h => ?_, fun k hk => ?_⟩)
  · rw [part_of (kt .parts (by decide)), part_modPart]
  · rw [site_of (kt .sites (by decide))]
    exact fold_sites_leaves (P := fun x => x.gated = true ∧ x.k = 0 ∧ x.retained = none) unpowered (fun _ _ => ⟨rfl, rfl, rfl⟩)
      (s.partSites p) u i (Or.inl h)
  · rw [show t.mem = u.mem from (kt .mem (by decide) : t.mem = _).trans ((hw .mem (by decide)).trans (hv .mem (by decide)))]
    show Mem.get (Mem.clear s.mem _) k = 0
    rw [get_clear _ _ _ hm, if_pos hk]

theorem band_stops {s : State} {band : Nat} (hb : band < 5) (hs : s.power.stopped.contains band = false)
    (h : ∀ i, 252 * band ≤ i → i < 252 * band + 252 →
      s.isGated i = true ∧ (s.site i).gatedAt + Config.ticksPerMs ≤ s.time.ticks) :
    ∃ t, exec (.bandPllStop band) s = .next t ∧ onlyChanges [.power, .errq, .journal] s t ∧
      t.power = { s.power with stopped := band :: s.power.stopped } := by
  have hall : ((List.range 252).map (· + 252 * band)).all
      (fun i => s.isGated i && (s.site i).gatedAt + Config.ticksPerMs ≤ s.time.ticks) = true := by
    rw [List.all_map, List.all_eq_true]
    intro j hj
    have hj := List.mem_range.mp hj
    obtain ⟨h1, h2⟩ := h (j + 252 * band) (by omega) (by omega)
    simp [h1, h2]
  have e : exec (.bandPllStop band) s = answer s { s with power := { s.power with stopped := band :: s.power.stopped } } := by
    show answer s (if _ then s else _) = _
    rw [if_neg]
    rw [hall, hs]
    simp
    omega
  rw [e]
  exact answers_power s _

/-- Settles O56, clause by clause from the lemmas above. -/
theorem powerAndHeatAreHeld : Obligations.PowerAndHeatAreHeld := by
  unfold Obligations.PowerAndHeatAreHeld
  intro s w
  refine ⟨fun hl hg hp => ⟨controlPeriod_rests hl hg hp, fun c => controlPeriod_takes_gaps hl hg hp, fun h1 h2 =>
      ⟨controlPeriod_gives_gaps_back hl hg hp h1 h2, fun c => controlPeriod_unstretches hl hg hp h1 h2⟩⟩,
    fun hg hp => ⟨fun h1 => ?below, fun h1 h0 => ?first, fun c h1 h0 hf => ?second⟩, fun n i => droop_counts,
    fun i v hi => ⟨sample_keeps hi, sample_shuts_down hi⟩, fun zone => zone_throttles, fun p hm _ => idle_gates hm,
    fun band => band_stops⟩
  case below =>
    rw [governorSample_below hg hp h1]
    exact answers_power s _
  case first =>
    rw [governorSample_first hg hp h1 h0]
    exact answers_power s _
  case second =>
    rw [governorSample_second hg hp h1 h0 hf]
    exact answers_power s _

end Sys2Proof.Proofs.PowerAndHeat

/-!
SUPPORT. The hosted partner window: what a write of its size leaves to the guests and to memory, and the statement of O18
from it.
-/

namespace Sys2Proof.Proofs.HostedWindow

open Sys2Proof Sys2Proof.Machine Sys2Proof.Safety Sys2Proof.Laws Sys2Proof.Laws.Shared

theorem any_partNumbers {f : Nat → Bool} : partNumbers.any f = true ↔ ∃ p < 4, f p = true := by
  rw [List.any_eq_true]
  refine exists_congr fun p => and_congr_left' ?_
  unfold partNumbers
  simp
  omega

/-- A place that is cleared reads zero, whatever the form of memory. -/
theorem get_clear_selected (m : Mem) {sel : Nat → Bool} {k : Nat} (h : sel k = true) : Mem.get (Mem.clear m sel) k = 0 := by
  unfold Mem.clear
  induction m with
  | nil => rfl
  | cons c r ih =>
    rw [List.filter_cons]
    split
    · rename_i hc
      have hne : c.1 ≠ k := fun e => by simp [e, h] at hc
      unfold Mem.get
      rw [if_neg hne]
      split
      · rfl
      · exact ih
    · exact ih

theorem get_scrubWhere (s : State) {sel : Nat → Bool} (blocks : List (Nat × Nat)) {k : Nat} (h : sel k = true) :
    Mem.get (s.scrubWhere sel blocks).mem k = 0 := get_clear_selected s.mem h

theorem activeChannels_of {s t : State} (h : t.hbm = s.hbm) : t.activeChannels = s.activeChannels := by
  unfold State.activeChannels State.physCh
  rw [h]

theorem activeChannels_lt {s : State} {c : Nat} (h : c ∈ s.activeChannels) : c < 640 := by
  unfold State.activeChannels at h
  obtain ⟨st, hst, h⟩ := List.mem_flatMap.mp h
  obtain ⟨l, -, h⟩ := List.mem_filterMap.mp h
  have hst := List.mem_range.mp hst
  dsimp only at h
  split at h
  · cases h
    omega
  · cases h

/-- The range that is scrubbed reads zero on every active channel (R241). -/
theorem scrubOffsets_zero (s : State) {lo hi c o : Nat} (hc : c ∈ s.activeChannels) (h1 : lo ≤ o) (h2 : o < hi)
    (h3 : o < 2147483648) : Mem.get (s.scrubOffsets lo hi).mem (c * 2147483648 + o) = 0 := by
  have hl := activeChannels_lt hc
  unfold State.scrubOffsets
  refine get_scrubWhere s _ ?_
  have hd : (c * 2147483648 + o) / 2147483648 = c := by omega
  have hm : (c * 2147483648 + o) % 2147483648 = o := by omega
  rw [hd, hm]
  simp [hc, h1, h2]
  omega

/-- There is room for a window of so many GiB in every partition's channels (R221). -/
def windowFits (s : State) (gib : Nat) : Prop := ∀ p < 4, carveOf gib + s.near p ≤ 2046

theorem writeWindow_no_room {s : State} {gib : Nat} (h : ∃ p, p < 4 ∧ 2046 < carveOf gib + s.near p) :
    s.writeWindow gib = (s, 0x1104) := by
  obtain ⟨p, hp, h⟩ := h
  unfold State.writeWindow
  rw [if_pos (any_partNumbers.mpr ⟨p, hp, by simpa using h⟩)]

theorem not_any_of_fits {s : State} {gib : Nat} (h : windowFits s gib) :
    ¬partNumbers.any (fun p => decide (2046 < carveOf gib + s.near p)) = true := by
  rw [any_partNumbers]
  rintro ⟨p, hp, h'⟩
  have := h p hp
  simp at h'
  omega

theorem writeWindow_unchanged {s : State} {gib : Nat} (h : windowFits s gib) (hg : gib = s.valNat 0x2300 1) :
    s.writeWindow gib = (s, 0) := by
  unfold State.writeWindow
  rw [if_neg (not_any_of_fits h), if_pos hg]

/-- s with the guests told whose window a new carve no longer holds. -/
def tellGone (s : State) (new : Nat) : State :=
  (s.guests.filter (fun (g : Guest) => (g.moved s.carve new).isNone)).foldl (fun s g => s.sendTo g.module 0x24 0 [g.part, 0x4101]) s

theorem tellGone_only (s : State) (new : Nat) : onlyChanges [.kports, .outs] s (tellGone s new) :=
  fold_only _ _ _ (fun s _ => (path_sendTo _ _ _ _ (by decide) (path_refl _ s)).frame) s

theorem writeWindow_resizes {s : State} {gib : Nat} (h : windowFits s gib) (hg : gib ≠ s.valNat 0x2300 1) :
    (s.writeWindow gib).2 = 0 ∧
    (s.writeWindow gib).1.guests = s.guests.filterMap (fun g => g.moved s.carve (carveOf gib)) ∧
    ∀ c ∈ s.activeChannels, ∀ o, (2046 - max (carveOf gib) s.carve) * mib ≤ o →
      o < (2046 - min (carveOf gib) s.carve) * mib → Mem.get (s.writeWindow gib).1.mem (c * 2147483648 + o) = 0 := by
  have e : s.writeWindow gib =
      ({ tellGone s (carveOf gib) with guests := s.guests.filterMap (fun (g : Guest) => g.moved s.carve (carveOf gib)) }.scrubOffsets
        ((2046 - max (carveOf gib) s.carve) * mib) ((2046 - min (carveOf gib) s.carve) * mib), 0) := by
    unfold State.writeWindow
    rw [if_neg (not_any_of_fits h), if_neg hg]
    rfl
  have hh : (tellGone s (carveOf gib)).hbm = s.hbm := tellGone_only s _ .hbm (by decide)
  rw [e]
  generalize tellGone s (carveOf gib) = u at hh
  refine ⟨rfl, rfl, fun c hc o h1 h2 => scrubOffsets_zero _ ?_ h1 h2 ?_⟩
  · have ha : State.activeChannels { u with guests := s.guests.filterMap (fun (g : Guest) => g.moved s.carve (carveOf gib)) } =
        s.activeChannels := activeChannels_of hh
    exact ha ▸ hc
  · have : (2046 - min (carveOf gib) s.carve) * mib ≤ 2046 * mib := Nat.mul_le_mul_right _ (Nat.sub_le _ _)
    unfold mib at *
    omega

theorem hostedWindow_resizes {s : State} {r : Req} {gib : Nat} (h : acceptsWrite s r 0x2300 1 3 (le 2 gib))
    (hf : windowFits s gib) :
    ∃ t, exec (.hostedPartnerWindow r gib) s = .next t ∧ respondedWith t r 2 0x2300 1 0 [] ∧ t.val 0x2300 1 = le 2 gib ∧
      (gib = s.valNat 0x2300 1 → t.guests = s.guests ∧ t.mem = s.mem) ∧
      (gib ≠ s.valNat 0x2300 1 →
        t.guests = s.guests.filterMap (fun g => g.moved s.carve (carveOf gib)) ∧
        ∀ c ∈ s.activeChannels, ∀ o, (2046 - max (carveOf gib) s.carve) * mib ≤ o →
          o < (2046 - min (carveOf gib) s.carve) * mib → Mem.get t.mem (c * 2147483648 + o) = 0) := by
  have hs (cs : Caddy) : (done ((replayed s cs).writeWindow gib)).2 = some 0 := by
    by_cases hg : gib = s.valNat 0x2300 1
    · rw [writeWindow_unchanged (s := replayed s cs) hf hg]
      rfl
    · exact congrArg some (writeWindow_resizes (s := replayed s cs) hf hg).1
  obtain ⟨cs, t, e, hr, hv, hk⟩ := serveWrite_stored (f := fun s => done (s.writeWindow gib)) h hs (d := _) rfl (by decide)
  have hgu : t.guests = ((replayed s cs).writeWindow gib).1.guests := hk .guests (by decide)
  have hme : t.mem = ((replayed s cs).writeWindow gib).1.mem := hk .mem (by decide)
  refine ⟨t, e, hr, hv, fun hg => ?_, fun hg => ?_⟩
  · rw [hgu, hme, writeWindow_unchanged (s := replayed s cs) hf hg]
    exact ⟨rfl, rfl⟩
  · rw [hgu, hme]
    exact (writeWindow_resizes (s := replayed s cs) hf hg).2

/-- Settles O18: with room and without. -/
theorem hostedWindowTakesItsShareOfMemory : Obligations.HostedWindowTakesItsShareOfMemory := by
  unfold Obligations.HostedWindowTakesItsShareOfMemory
  intro s r gib h
  refine ⟨hostedWindow_resizes h, fun hn => ?_⟩
  exact serveWrite_refused_same (f := fun s => done (s.writeWindow gib)) h
    (fun cs => congrArg done (writeWindow_no_room (s := replayed s cs) hn)) (by decide)

end Sys2Proof.Proofs.HostedWindow

/-!
SUPPORT. Accumulators under debug visibility: what a write of the visibility and an access of the selected tile leave, and the
statement of O19 from these.
-/

namespace Sys2Proof.Proofs.Accumulators

open Sys2Proof Sys2Proof.Machine Sys2Proof.Safety Sys2Proof.Laws Sys2Proof.Laws.Shared
open Sys2Proof.Proofs.CaddyWrites Sys2Proof.Proofs.HostedWindow

theorem writeVisibility_set {s : State} (hs : s.secState ≠ 1) (hq : s.allQuiet = true) : s.writeVisibility 1 = (s, 0) := by
  unfold State.writeVisibility
  rw [if_pos rfl, if_neg hs, if_neg (by rw [hq]; decide)]

theorem writeVisibility_attested {s : State} (hs : s.secState = 1) : s.writeVisibility 1 = (s, 0x5101) := by
  unfold State.writeVisibility
  rw [if_pos rfl, if_pos hs]

theorem writeVisibility_clear {s : State} (hv : s.valNat 0x2200 1 = 1) : s.writeVisibility 0 = (s.scrubAccumulators, 0) := by
  unfold State.writeVisibility
  rw [if_neg (by decide), if_pos hv]

theorem setVisibility_stores {s : State} {r : Req} (h : acceptsWrite s r 0x2200 1 2 (le 1 1)) (hs : s.secState ≠ 1)
    (hq : s.allQuiet = true) :
    ∃ t, exec (.accumulatorVisibility r 1) s = .next t ∧ respondedWith t r 2 0x2200 1 0 [] ∧ t.val 0x2200 1 = le 1 1 := by
  obtain ⟨_, t, e, hr, hv, -⟩ := serveWrite_stored (f := fun s => done (s.writeVisibility 1)) h
    (fun cs => congrArg (fun x => (done x).2) (writeVisibility_set (s := replayed s cs) hs hq)) (d := _) rfl (by decide)
  exact ⟨t, e, hr, hv⟩

theorem setVisibility_attested {s : State} {r : Req} (h : acceptsWrite s r 0x2200 1 2 (le 1 1)) (hs : s.secState = 1) :
    ∃ t, exec (.accumulatorVisibility r 1) s = .next t ∧ respondedWith t r 2 0x2200 1 0x5101 [] ∧
      onlyChanges [.caddy, .outs, .errq, .journal] s t :=
  serveWrite_refused_same (f := fun s => done (s.writeVisibility 1)) h
    (fun cs => congrArg done (writeVisibility_attested (s := replayed s cs) hs)) (by decide)

/-- The accumulators of every site read zero once they are cleared (R55). -/
theorem scrubAccumulators_zero (s : State) {site o : Nat} (hs : site < 1260) (h1 : accOff ≤ o) (h2 : o < bufOff) :
    Mem.get s.scrubAccumulators.mem (planePlace site o) = 0 := by
  unfold State.scrubAccumulators
  refine get_scrubWhere s _ ?_
  unfold accOff at h1
  unfold bufOff at h2
  have hd : (planePlace site o - planePlace 0 0) / 268435456 = site := by unfold planePlace; omega
  have hm : (planePlace site o - planePlace 0 0) % 268435456 = o := by unfold planePlace; omega
  have hp : planePlace 0 0 ≤ planePlace site o := by unfold planePlace; omega
  rw [hd, hm]
  simp [hs, hp, accOff, bufOff, h1, h2]

theorem clearVisibility_scrubs {s : State} {r : Req} (h : acceptsWrite s r 0x2200 1 2 (le 1 0))
    (hv : s.valNat 0x2200 1 = 1) :
    ∃ t, exec (.accumulatorVisibility r 0) s = .next t ∧ respondedWith t r 2 0x2200 1 0 [] ∧ t.val 0x2200 1 = le 1 0 ∧
      ∀ site < 1260, ∀ o, accOff ≤ o → o < bufOff → Mem.get t.mem (planePlace site o) = 0 := by
  have hf (cs : Caddy) : (replayed s cs).writeVisibility 0 = ((replayed s cs).scrubAccumulators, 0) := writeVisibility_clear hv
  obtain ⟨cs, t, e, hr, ht, hk⟩ := serveWrite_stored (f := fun s => done (s.writeVisibility 0)) h
    (fun cs => congrArg (fun x => (done x).2) (hf cs)) (d := _) rfl (by decide)
  have hm : t.mem = (replayed s cs).scrubAccumulators.mem :=
    (hk .mem (by decide)).trans (congrArg (fun x => (done x).1.mem) (hf cs))
  exact ⟨t, e, hr, ht, fun site hs o h1 h2 => by rw [hm]; exact scrubAccumulators_zero _ hs h1 h2⟩

/-- The stores of a run of bytes from a place on, as Debug tile data makes them. -/
def tileCells (a : Nat) (bs : List Byte) : List (Nat × Byte) := bs.zipIdx.map (fun e => (a + e.2, e.1))

theorem tileCells_places (a : Nat) (bs : List Byte) : (tileCells a bs).map (·.1) = (List.range bs.length).map (a + ·) := by
  unfold tileCells
  rw [List.map_map, List.range_eq_range', ← List.zipIdx_map_snd 0 bs, List.map_map]
  rfl

theorem get_tileCells {m : Mem} (hm : m.wf = true) (a : Nat) (bs : List Byte) {i : Nat} (hi : i < bs.length) :
    Mem.get (Mem.putAll m (tileCells a bs)) (a + i) = bs.getD i 0 := by
  have hn : ((tileCells a bs).map (·.1)).Nodup := by
    rw [tileCells_places]
    exact List.nodup_range.map (fun x y h => by simpa using h)
  have he : (a + i, bs.getD i 0) ∈ tileCells a bs :=
    List.mem_map.mpr ⟨(bs[i], i), List.mem_zipIdx_iff_getElem?.mpr (by simp [hi]), by simp [List.getD_eq_getElem?_getD, hi]⟩
  exact get_putAll_mem _ hn _ he m hm

theorem get_tileCells_other {m : Mem} (hm : m.wf = true) {a k : Nat} {bs : List Byte}
    (hk : ∀ i, i < bs.length → k ≠ a + i) : Mem.get (Mem.putAll m (tileCells a bs)) k = Mem.get m k := by
  refine get_putAll_other _ _ (fun e he => ?_) m hm
  have hp : e.1 ∈ (List.range bs.length).map (a + ·) := tileCells_places a bs ▸ List.mem_map_of_mem he
  obtain ⟨i, hi, e⟩ := List.mem_map.mp hp
  exact e ▸ hk i (List.mem_range.mp hi)

/-- s with the selected tile written. -/
def tileWritten (s : State) (bs : List Byte) : State := { s with mem := Mem.putAll s.mem (tileCells s.debugTile bs) }

theorem writeDebug_keeps {s : State} {bs : List Byte} (hv : s.valNat 0x2200 1 ≠ 0) (hg : s.isGated s.debugSite = false) :
    s.writeDebug bs = (tileWritten s bs, 0) := by
  unfold State.writeDebug
  rw [if_neg hv, if_neg (by rw [hg]; decide)]
  rfl

theorem writeDebug_gated {s : State} {bs : List Byte} (hv : s.valNat 0x2200 1 ≠ 0) (hg : s.isGated s.debugSite = true) :
    s.writeDebug bs = (s, 0) := by
  unfold State.writeDebug
  rw [if_neg hv, if_pos hg]

theorem debugWrite {s : State} {r : Req} {bs : List Byte} (hm : s.mem.wf = true) (h : acceptsWrite s r 0x2200 0x11 10 bs)
    (hv : s.valNat 0x2200 1 ≠ 0) :
    (s.isGated s.debugSite = false →
      ∃ t, exec (.debugTileData r (some bs)) s = .next t ∧ respondedWith t r 2 0x2200 0x11 0 [] ∧
        (∀ i, i < bs.length → Mem.get t.mem (s.debugTile + i) = bs.getD i 0) ∧
        ∀ k, (∀ i, i < bs.length → k ≠ s.debugTile + i) → Mem.get t.mem k = Mem.get s.mem k) ∧
    (s.isGated s.debugSite = true →
      ∃ t, exec (.debugTileData r (some bs)) s = .next t ∧ respondedWith t r 2 0x2200 0x11 0 [] ∧ t.mem = s.mem) := by
  constructor <;> intro hg
  · obtain ⟨cs, t, e, hr, hk⟩ := serveWrite_effect (f := fun s => done (s.writeDebug bs)) (g := fun s => tileWritten s bs) h
      (fun cs => congrArg done (writeDebug_keeps (s := replayed s cs) hv hg))
    have ht : t.mem = Mem.putAll s.mem (tileCells s.debugTile bs) := hk .mem (by decide)
    exact ⟨t, e, hr, fun i hi => ht ▸ get_tileCells hm _ bs hi, fun k hn => ht ▸ get_tileCells_other hm hn⟩
  · obtain ⟨cs, t, e, hr, hk⟩ := serveWrite_effect (f := fun s => done (s.writeDebug bs)) (g := id) h
      (fun cs => congrArg done (writeDebug_gated (s := replayed s cs) hv hg))
    exact ⟨t, e, hr, hk .mem (by decide)⟩

theorem readDebug_eq (s : State) : s.readDebug =
    (if s.valNat 0x2200 1 = 0 then 0x1102 else 0,
      if s.valNat 0x2200 1 = 0 then []
      else if s.isGated s.debugSite = true then zeros 1024
      else (List.range 1024).map (fun i => Mem.get s.mem (s.debugTile + i))) := by
  unfold State.readDebug
  split
  · rfl
  · split <;> rfl

theorem debugRead_answers {s : State} {r : Req} (h : admits s r 1 0x2200 0x11) :
    ∃ t, exec (.debugTileData r none) s = .next t ∧ respondedWith t r 1 0x2200 0x11 s.readDebug.1 s.readDebug.2 := by
  obtain ⟨cs, e⟩ := serve_answer (f := fun s => (s, some s.readDebug)) (g := replayed s) h
    (st := s.readDebug.1) (v := s.readDebug.2) (fun _ => rfl)
  exact ⟨_, congrArg (answer s) e, respondedWith_respond _ _ _ _ _ _ _⟩

/-- Settles O19: visibility set and cleared, and the selected tile written and read. -/
theorem accumulatorsShowUnderDebugVisibilityOnly : Obligations.AccumulatorsShowUnderDebugVisibilityOnly := by
  unfold Obligations.AccumulatorsShowUnderDebugVisibilityOnly
  intro s r hm
  refine ⟨fun h => ⟨setVisibility_stores h, setVisibility_attested h⟩, clearVisibility_scrubs,
    fun bs h hv => debugWrite hm h hv, fun h => ?read⟩
  case read =>
    have := debugRead_answers h
    rwa [readDebug_eq] at this

end Sys2Proof.Proofs.Accumulators

/-!
SUPPORT. Partner windows: writes whose answer waits, what the writes of Partner module address and Partner window request do
with the binding, and the statement of O16 from these.
-/

namespace Sys2Proof.Proofs.PartnerWindows

open Sys2Proof Sys2Proof.Machine Sys2Proof.Safety Sys2Proof.Laws Sys2Proof.Laws.Shared
open Sys2Proof.Proofs.CaddyWrites

/-! ### Writes that wait for their answer -/

theorem replayed_only (s : State) (cs : Caddy) : onlyChanges [.caddy] s (replayed s cs) := by
  intro k hk
  cases k <;> first | rfl | exact absurd (by decide) hk

/-- An accepted write whose effect leaves the answer for later, with the pieces of state that it changes. -/
theorem serveWrite_wait_only {ks ls : List Kind} {s : State} {r : Req} {i j ty : Nat} {bs : List Byte}
    {f : State → State × Option Nat} (h : acceptsWrite s r i j ty bs) (hf : ∀ cs, (f (replayed s cs)).2 = none)
    (hk : ∀ cs, onlyChanges ks (replayed s cs) (f (replayed s cs)).1)
    (hl : ∀ a ∈ .caddy :: (ks ++ [.errq, .journal]), a ∈ ls) :
    ∃ cs t, answer s (s.serveWrite r i j ty bs f) = .next t ∧ onlyChanges ls s t ∧
      ∀ k, k ∉ ([.pending, .time, .factory, .errq, .journal] : List Kind) → k.same (f (replayed s cs)).1 t := by
  obtain ⟨cs, e⟩ := serveWrite_runs h
  have e := e f
  rw [show f (replayed s cs) = ((f (replayed s cs)).1, none) from Prod.ext rfl (hf cs)] at e
  have hx : onlyChanges (.caddy :: ks) s (f (replayed s cs)).1 :=
    only_trans (only_mono (replayed_only s cs) (by simp)) (only_mono (hk cs) (fun _ => List.mem_cons_of_mem _))
  rw [e]
  exact ⟨cs, ansK hx hl fun t ht _ => ht⟩

/-! ### The effects of the two writes -/

theorem part_sendBind (s : State) (p m gib : Nat) (r : Option (Req × Nat)) :
    ((s.sendBind p m gib r).part p).bindReq = some (r, m, gib) := by
  unfold State.sendBind
  rw [part_modPart]

theorem askBind_reached {s : State} {m : Nat} (r : Req) (p gib j : Nat) (hm : s.portsTo m ≠ []) :
    s.askBind r p m gib j = (s.sendBind p m gib (some (r, j)), none) := by
  unfold State.askBind
  rw [if_neg (by simpa using hm)]

theorem askBind_unreached {s : State} {m : Nat} (r : Req) (p gib j : Nat) (hm : s.portsTo m = []) :
    s.askBind r p m gib j = (s, some 0x4101) := by
  unfold State.askBind
  rw [if_pos (by rw [hm]; rfl)]

theorem writePartner_free {s : State} {p : Nat} (r : Req) (m : Nat) (h : (s.part p).bindReq = none) :
    s.writePartner r p m = s.setPartner r p m := by
  unfold State.writePartner
  rw [if_neg (by rw [h]; decide)]

theorem writePartner_waits {s : State} {p : Nat} (r : Req) (m : Nat) (h : (s.part p).bindReq.isSome = true) :
    s.writePartner r p m = s.waitBind r p 1 m := if_pos h

theorem writeWindowRequest_free {s : State} {p : Nat} (r : Req) (gib : Nat) (h : (s.part p).bindReq = none) :
    s.writeWindowRequest r p gib = s.setWindow r p gib := by
  unfold State.writeWindowRequest
  rw [if_neg (by rw [h]; decide)]

theorem writeWindowRequest_waits {s : State} {p : Nat} (r : Req) (gib : Nat) (h : (s.part p).bindReq.isSome = true) :
    s.writeWindowRequest r p gib = s.waitBind r p 2 gib := if_pos h

theorem setPartner_asks {s : State} {p m : Nat} (r : Req) (hm : m ≠ 0xFF)
    (ho : m ≠ s.address ∨ (s.part p).state.works = false) : s.setPartner r p m = s.askBind r p m (s.pval p 0x20 2) 1 := by
  unfold State.setPartner
  rw [if_neg hm, if_neg]
  rintro ⟨ha, hw⟩
  exact ho.elim (fun h => h ha) (fun h => by rw [h] at hw; cases hw)

theorem setPartner_own {s : State} {p m : Nat} (r : Req) (hm : m ≠ 0xFF) (ha : m = s.address)
    (hw : (s.part p).state.works = true) : s.setPartner r p m = (s, some 0x1102) := by
  unfold State.setPartner
  rw [if_neg hm, if_pos ⟨ha, hw⟩]

theorem setPartner_none (s : State) (r : Req) (p : Nat) :
    (s.setPartner r p 0xFF).2 = some 0 ∧ ((s.setPartner r p 0xFF).1.part p).binding.module = 0xFF ∧
      ((s.setPartner r p 0xFF).1.part p).binding.bound = false := by
  unfold State.setPartner
  rw [if_pos rfl, part_modPart]
  exact ⟨rfl, rfl, rfl⟩

theorem setWindow_recorded {s : State} {p : Nat} (r : Req) (gib : Nat) (h : s.pval p 0x20 1 = 0xFF) :
    s.setWindow r p gib = (s, some 0) := if_pos h

theorem setWindow_asks {s : State} {p : Nat} (r : Req) (gib : Nat) (h : s.pval p 0x20 1 ≠ 0xFF) :
    s.setWindow r p gib = s.askBind r p (s.pval p 0x20 1) gib 2 := if_neg h

/-! ### The two writes -/

/-- A write that asks a partner for its window leaves the binding awaited. -/
theorem asks_window {s : State} {r : Req} {i j ty p m gib n : Nat} {bs : List Byte} {f : State → State × Option Nat}
    (h : acceptsWrite s r i j ty bs) (hm : s.portsTo m ≠ [])
    (hf : ∀ cs, f (replayed s cs) = (replayed s cs).askBind r p m gib n) :
    ∃ t, answer s (s.serveWrite r i j ty bs f) = .next t ∧ (t.part p).bindReq = some (some (r, n), m, gib) := by
  have hf (cs : Caddy) := (hf cs).trans (askBind_reached r p gib n (s := replayed s cs) hm)
  obtain ⟨cs, t, e, hk⟩ := serveWrite_wait (f := f) h (fun cs => by rw [hf cs])
  rw [hf cs] at hk
  refine ⟨t, e, ?_⟩
  rw [part_of (hk .parts (by decide)), part_sendBind]

/-- A write behind a binding that is awaited waits for it (R53). -/
theorem waits_in_order {s : State} {r : Req} {i j ty p n v : Nat} {bs : List Byte} {f : State → State × Option Nat}
    (h : acceptsWrite s r i j ty bs) (hf : ∀ cs, f (replayed s cs) = (replayed s cs).waitBind r p n v) :
    ∃ t, answer s (s.serveWrite r i j ty bs f) = .next t ∧ onlyChanges [.caddy, .parts, .errq, .journal] s t ∧
      (t.part p).bindNext = (s.part p).bindNext ++ [(r, n, v)] ∧ (t.part p).bindReq = (s.part p).bindReq := by
  obtain ⟨cs, t, e, ho, hk⟩ := serveWrite_wait_only (f := f) (ks := [.parts]) h (fun cs => by rw [hf cs]; rfl)
    (fun cs => by rw [hf cs]; exact (path_waitBind r p n v (by decide) (path_refl _ _)).frame)
    (ls := [.caddy, .parts, .errq, .journal]) (by decide)
  rw [hf cs] at hk
  have hp : t.part p = { s.part p with bindNext := (s.part p).bindNext ++ [(r, n, v)] } := by
    rw [part_of (hk .parts (by decide))]
    exact part_modPart _ _ _
  exact ⟨t, e, ho, by rw [hp], by rw [hp]⟩

theorem partnerAddress_asks {s : State} {r : Req} {p m : Nat} (hb : (s.part p).bindReq = none)
    (h : acceptsWrite s r (0x3020 + 256 * p) 1 2 (le 1 m)) (hm : m ≠ 0xFF)
    (ho : m ≠ s.address ∨ (s.part p).state.works = false) :
    (s.portsTo m ≠ [] →
      ∃ t, exec (.partnerModuleAddress r p m) s = .next t ∧ (t.part p).bindReq = some (some (r, 1), m, s.pval p 0x20 2)) ∧
    (s.portsTo m = [] →
      ∃ t, exec (.partnerModuleAddress r p m) s = .next t ∧ respondedWith t r 2 (0x3020 + 256 * p) 1 0x4101 [] ∧
        onlyChanges [.caddy, .outs, .errq, .journal] s t) := by
  have hf (cs : Caddy) : (replayed s cs).writePartner r p m = (replayed s cs).askBind r p m (s.pval p 0x20 2) 1 :=
    (writePartner_free (s := replayed s cs) r m hb).trans (setPartner_asks (s := replayed s cs) r hm ho)
  refine ⟨fun hr => asks_window (f := fun s => s.writePartner r p m) h hr hf, fun hr => ?_⟩
  exact serveWrite_refused_same (f := fun s => s.writePartner r p m) h
    (fun cs => (hf cs).trans (askBind_unreached r p _ 1 (s := replayed s cs) hr)) (by decide)

theorem partnerAddress_own {s : State} {r : Req} {p m : Nat} (hb : (s.part p).bindReq = none)
    (h : acceptsWrite s r (0x3020 + 256 * p) 1 2 (le 1 m)) (hm : m ≠ 0xFF) (ha : m = s.address)
    (hw : (s.part p).state.works = true) :
    ∃ t, exec (.partnerModuleAddress r p m) s = .next t ∧ respondedWith t r 2 (0x3020 + 256 * p) 1 0x1102 [] ∧
      onlyChanges [.caddy, .outs, .errq, .journal] s t :=
  serveWrite_refused_same (f := fun s => s.writePartner r p m) h
    (fun cs => (writePartner_free (s := replayed s cs) r m hb).trans (setPartner_own (s := replayed s cs) r hm ha hw)) (by decide)

theorem partnerAddress_gives_up {s : State} {r : Req} {p : Nat} (hb : (s.part p).bindReq = none)
    (h : acceptsWrite s r (0x3020 + 256 * p) 1 2 (le 1 0xFF)) :
    ∃ t, exec (.partnerModuleAddress r p 0xFF) s = .next t ∧ respondedWith t r 2 (0x3020 + 256 * p) 1 0 [] ∧
      (t.part p).binding.module = 0xFF ∧ (t.part p).binding.bound = false := by
  have hf (cs : Caddy) := writePartner_free (s := replayed s cs) r 0xFF hb
  have hn (cs : Caddy) := setPartner_none (replayed s cs) r p
  obtain ⟨cs, t, e, hr, hk⟩ := serveWrite_answer (f := fun s => s.writePartner r p 0xFF) h
    (fun cs => (congrArg Prod.snd (hf cs)).trans (hn cs).1)
  have hp : t.part p = ((replayed s cs).setPartner r p 0xFF).1.part p := by
    rw [part_of (hk .parts (by decide)), hf cs]
  exact ⟨t, e, hr, by rw [hp]; exact (hn cs).2⟩

/-- The dictionary's row of the partner window requests. -/
theorem dictFind_window {p : Nat} (hp : p < 4) : ∃ d, dictFind (0x3020 + 256 * p) 2 = some d ∧ d.acc ≠ 2 := by
  match p, hp with
  | 0, _ => exact ⟨_, rfl, by decide⟩
  | 1, _ => exact ⟨_, rfl, by decide⟩
  | 2, _ => exact ⟨_, rfl, by decide⟩
  | 3, _ => exact ⟨_, rfl, by decide⟩

theorem windowRequest_recorded {s : State} {r : Req} {p gib : Nat} (hp : p < 4) (hb : (s.part p).bindReq = none)
    (h : acceptsWrite s r (0x3020 + 256 * p) 2 3 (le 2 gib)) (hn : s.pval p 0x20 1 = 0xFF) :
    ∃ t, exec (.partnerWindowRequest r p gib) s = .next t ∧ respondedWith t r 2 (0x3020 + 256 * p) 2 0 [] ∧
      t.val (0x3020 + 256 * p) 2 = le 2 gib ∧ t.parts = s.parts := by
  have hf (cs : Caddy) : (replayed s cs).writeWindowRequest r p gib = (replayed s cs, some 0) :=
    (writeWindowRequest_free (s := replayed s cs) r gib hb).trans (setWindow_recorded (s := replayed s cs) r gib hn)
  obtain ⟨d, hd, ha⟩ := dictFind_window hp
  obtain ⟨cs, t, e, hr, hv, hk⟩ := serveWrite_stored (f := fun s => s.writeWindowRequest r p gib) h (fun cs => by rw [hf cs]) hd ha
  exact ⟨t, e, hr, hv, (hk .parts (by decide)).trans (by rw [hf cs]; rfl)⟩

theorem windowRequest_asks {s : State} {r : Req} {p gib : Nat} (hb : (s.part p).bindReq = none)
    (h : acceptsWrite s r (0x3020 + 256 * p) 2 3 (le 2 gib)) (hn : s.pval p 0x20 1 ≠ 0xFF) :
    (s.portsTo (s.pval p 0x20 1) ≠ [] →
      ∃ t, exec (.partnerWindowRequest r p gib) s = .next t ∧
        (t.part p).bindReq = some (some (r, 2), s.pval p 0x20 1, gib)) ∧
    (s.portsTo (s.pval p 0x20 1) = [] →
      ∃ t, exec (.partnerWindowRequest r p gib) s = .next t ∧ respondedWith t r 2 (0x3020 + 256 * p) 2 0x4101 [] ∧
        onlyChanges [.caddy, .outs, .errq, .journal] s t) := by
  have hf (cs : Caddy) : (replayed s cs).writeWindowRequest r p gib = (replayed s cs).askBind r p (s.pval p 0x20 1) gib 2 :=
    (writeWindowRequest_free (s := replayed s cs) r gib hb).trans (setWindow_asks (s := replayed s cs) r gib hn)
  refine ⟨fun hr => asks_window (f := fun s => s.writeWindowRequest r p gib) h hr hf, fun hr => ?_⟩
  exact serveWrite_refused_same (f := fun s => s.writeWindowRequest r p gib) h
    (fun cs => (hf cs).trans (askBind_unreached r p gib 2 (s := replayed s cs) hr)) (by decide)

/-- Settles O16: the writes with no binding awaited, and those behind one. -/
theorem partnerWindowsAreAskedForOverTheLink : Obligations.PartnerWindowsAreAskedForOverTheLink := by
  unfold Obligations.PartnerWindowsAreAskedForOverTheLink
  intro s r p hp
  refine ⟨fun hb => ⟨fun m h hm => ?address, partnerAddress_gives_up hb, fun gib h => ?window⟩,
    fun hb => ⟨fun m h => ?_, fun gib h => ?_⟩⟩
  case address => exact ⟨partnerAddress_asks hb h hm, partnerAddress_own hb h hm⟩
  case window =>
    exact ⟨windowRequest_recorded hp hb h, fun hn => (windowRequest_asks hb h hn).1, fun hn => (windowRequest_asks hb h hn).2⟩
  · exact waits_in_order (f := fun s => s.writePartner r p m) h (fun cs => writePartner_waits (s := replayed s cs) r m hb)
  · exact waits_in_order (f := fun s => s.writeWindowRequest r p gib) h
      (fun cs => writeWindowRequest_waits (s := replayed s cs) r gib hb)

end Sys2Proof.Proofs.PartnerWindows

/-!
SUPPORT. Layout commit: what putting a layout in force leaves to each partition, when a commit waits or is refused, and the
statement of O15 from these.
-/

namespace Sys2Proof.Proofs.LayoutCommit

open Sys2Proof Sys2Proof.Machine Sys2Proof.Safety Sys2Proof.Laws Sys2Proof.Laws.Shared
open Sys2Proof.Proofs.CaddyWrites Sys2Proof.Proofs.PartnerWindows

/-! ### Folds over partitions -/

section
variable {f : State → Nat → State} (hf : ∀ s p q, q ≠ p → (f s p).part q = s.part q)
include hf

/-- A fold whose steps touch one partition each leaves those it does not name. -/
theorem fold_part_other {q : Nat} {ps : List Nat} (hq : q ∉ ps) (s : State) : (ps.foldl f s).part q = s.part q := by
  induction ps generalizing s with
  | nil => rfl
  | cons p ps ih =>
    rw [List.mem_cons, not_or] at hq
    exact (ih hq.2 _).trans (hf s p q hq.1)

/-- A partition that the fold names once is as its own step leaves it. -/
theorem fold_part_once {q : Nat} {ps : List Nat} (hn : ps.Nodup) (hq : q ∈ ps) (s : State) :
    ∃ u, u.part q = s.part q ∧ (ps.foldl f s).part q = (f u q).part q := by
  induction ps generalizing s with
  | nil => cases hq
  | cons p ps ih =>
    rw [List.nodup_cons] at hn
    rcases List.mem_cons.mp hq with rfl | hq
    · exact ⟨s, rfl, fold_part_other hf hn.1 _⟩
    · have hne : q ≠ p := fun e => hn.1 (e ▸ hq)
      obtain ⟨u, hu, e⟩ := ih hn.2 hq (f s p)
      exact ⟨u, hu.trans (hf s p q hne), e⟩
end

/-! ### A layout in force -/

/-- s with partition p's place in layout l taken. -/
def takeSlice (l : List Slice) (s : State) (p : Nat) : State :=
  match l[p]? with
  | some x => s.setSlice p x
  | none => s

/-- s with the first channel of partition p in layout l taken, where it has rows. -/
def takeFirstCh (l : List Slice) (s : State) (p : Nat) : State :=
  match l[p]? with
  | some x => if x.rows = 0 then s else s.modPart p (fun q => { q with firstCh := x.firstCh })
  | none => s

theorem setSlice_part (s : State) (p : Nat) (x : Slice) :
    ((s.setSlice p x).part p).firstRow = x.firstRow ∧ ((s.setSlice p x).part p).rows = x.rows ∧
      ((s.setSlice p x).part p).firstCh = x.firstCh ∧ ((s.setSlice p x).part p).chans = x.chans ∧
      ((s.setSlice p x).part p).state = if x.rows = 0 then .unassigned else .idle := by
  unfold State.setSlice
  refine ⟨?_, ?_, ?_, ?_, setPState_state _ _ _⟩
  · rw [setPState_firstRow, part_modPart]
  · rw [setPState_rows, part_modPart]
  · rw [setPState_firstCh, part_modPart]
  · rw [setPState_chans, part_modPart]

theorem takeSlice_other (l : List Slice) (s : State) (p q : Nat) (h : q ≠ p) : (takeSlice l s p).part q = s.part q := by
  unfold takeSlice
  split
  · unfold State.setSlice
    rw [setPState_part_other _ _ _ _ h, part_modPart_other _ _ _ _ h]
  · rfl

theorem takeFirstCh_other (l : List Slice) (s : State) (p q : Nat) (h : q ≠ p) : (takeFirstCh l s p).part q = s.part q := by
  unfold takeFirstCh
  split
  · split
    · rfl
    · exact part_modPart_other _ _ _ _ h
  · rfl

theorem takeFirstCh_state (l : List Slice) (s : State) (p : Nat) : ((takeFirstCh l s p).part p).state = (s.part p).state := by
  unfold takeFirstCh
  split
  · split
    · rfl
    · rw [part_modPart]
  · rfl

theorem takeSlice_layoutGen (l : List Slice) (s : State) (p : Nat) : onlyChanges [.parts, .outs] s (takeSlice l s p) := by
  unfold takeSlice
  split
  · exact (path_setSlice _ _ (by decide) (path_refl _ s)).frame
  · exact only_refl _ s

theorem takeFirstCh_layoutGen (l : List Slice) (s : State) (p : Nat) : onlyChanges [.parts, .outs] s (takeFirstCh l s p) := by
  unfold takeFirstCh
  split
  · split
    · exact only_refl _ s
    · exact (path_modPart _ _ (by decide) (path_refl _ s)).frame
  · exact only_refl _ s

/-- u with the places of the changed partitions taken, and the first channels of the others. -/
def placed (l : List Slice) (changed : List Nat) (u : State) : State :=
  (partNumbers.filter (fun p => !changed.contains p)).foldl (takeFirstCh l) (changed.foldl (takeSlice l) u)

theorem placed_only (l : List Slice) (changed : List Nat) (u : State) : onlyChanges [.parts, .outs] u (placed l changed u) :=
  only_trans (fold_only _ _ _ (takeSlice_layoutGen l) u) (fold_only _ _ _ (takeFirstCh_layoutGen l) _)

/-- What becomes of the partitions and of the generation when a layout is put in force. -/
theorem applyLayout_places (s : State) (l : List Slice) (route : Nat) :
    ∃ u, u.parts = s.parts ∧ (s.applyLayout l route).parts = (placed l (s.changedBy l) u).parts ∧
      (s.applyLayout l route).layoutGen = s.layoutGen + 1 := by
  unfold State.applyLayout
  extract_lets old fles changed rows chans sites s1 s2 s3 moved s4 s5 s6
  have h1 : onlyChanges [.mem, .hbm] s s1 := (path_scrub _ _ (by decide) (path_refl _ s)).frame
  have h3 : onlyChanges [.parts, .outs] s1 s3 := placed_only l changed s1
  have h4 : onlyChanges [.mem, .hbm, .sites] s3 s4 := (path_scrubWhere _ _ (by decide) (path_refl _ s3)).frame
  have h5 : onlyChanges [.mem, .hbm, .sites] s4 s5 :=
    fold_only _ _ _ (fun s _ => (path_modSite _ _ (by decide) (path_refl _ s)).frame) _
  have h6 : onlyChanges [.mem, .hbm, .sites] s5 s6 := fold_only _ _ _
    (fun s _ => fold_only _ _ _ (fun s _ => (path_modSite _ _ (by decide) (path_refl _ s)).frame) s) _
  have h := only_trans h4 (only_trans h5 h6)
  have hg : s6.layoutGen = s.layoutGen :=
    (h .layoutGen (by decide)).trans ((h3 .layoutGen (by decide)).trans (h1 .layoutGen (by decide)))
  refine ⟨s1, h1 .parts (by decide), (logEvent_only _ _ _ _ _ .parts (by decide)).trans (h .parts (by decide)), ?_⟩
  exact (logEvent_only _ _ _ _ _ .layoutGen (by decide)).trans (congrArg (· + 1) hg)

theorem changedBy_nodup (s : State) (l : List Slice) : (s.changedBy l).Nodup :=
  List.Nodup.filter _ (show partNumbers.Nodup by decide)

theorem placed_changed {l : List Slice} {changed : List Nat} {p : Nat} {x : Slice} (hn : changed.Nodup) (hp : p ∈ changed)
    (hx : l[p]? = some x) (u : State) : ∃ v, (placed l changed u).part p = (State.setSlice v p x).part p := by
  obtain ⟨v, -, e⟩ := fold_part_once (takeSlice_other l) hn hp u
  have hs : takeSlice l v p = v.setSlice p x := by unfold takeSlice; rw [hx]
  have hq : p ∉ partNumbers.filter (fun p => !changed.contains p) := by simp [hp]
  exact ⟨v, by rw [placed, fold_part_other (takeFirstCh_other l) hq, e, hs]⟩

theorem placed_unchanged {l : List Slice} {changed : List Nat} {p : Nat} (hp : p ∉ changed) (u : State) :
    ((placed l changed u).part p).state = (u.part p).state := by
  have h1 : (changed.foldl (takeSlice l) u).part p = u.part p := fold_part_other (takeSlice_other l) hp u
  unfold placed
  by_cases hq : p ∈ partNumbers.filter (fun p => !changed.contains p)
  · obtain ⟨v, hv, e⟩ := fold_part_once (takeFirstCh_other l) (List.Nodup.filter _ (by decide)) hq (changed.foldl (takeSlice l) u)
    rw [e, takeFirstCh_state, hv, h1]
  · rw [fold_part_other (takeFirstCh_other l) hq, h1]

/-- A partition that the layout changes takes its place in it (R60, R61). -/
theorem applyLayout_changed {s : State} {l : List Slice} (route : Nat) {p : Nat} {x : Slice} (hp : p ∈ s.changedBy l)
    (hx : l[p]? = some x) : ∃ v, (s.applyLayout l route).part p = (State.setSlice v p x).part p := by
  obtain ⟨u, -, e, -⟩ := applyLayout_places s l route
  obtain ⟨v, hv⟩ := placed_changed (changedBy_nodup s l) hp hx u
  exact ⟨v, (part_of e p).trans hv⟩

theorem applyLayout_unchanged {s : State} {l : List Slice} (route : Nat) {p : Nat} (hp : p ∉ s.changedBy l) :
    ((s.applyLayout l route).part p).state = (s.part p).state := by
  obtain ⟨u, hu, e, -⟩ := applyLayout_places s l route
  rw [part_of e p, placed_unchanged hp u, part_of hu p]

theorem applyLayout_layoutGen (s : State) (l : List Slice) (route : Nat) :
    (s.applyLayout l route).layoutGen = s.layoutGen + 1 := by
  obtain ⟨_, _, _, e⟩ := applyLayout_places s l route
  exact e

/-! ### A commit -/

/-- What holds a commit of layout l back (R62, R366). -/
def heldBack (s : State) (l : List Slice) : Prop :=
  (∃ p ∈ s.changedBy l, (s.part p).rcv.fills ≠ []) ∨ s.cccUpdating = true

theorem heldBack_iff {s : State} {l : List Slice} :
    ((s.changedBy l).any (fun p => !(s.part p).rcv.fills.isEmpty) || s.cccUpdating) = true ↔ heldBack s l := by
  unfold heldBack
  simp

theorem not_heldBack {s : State} {l : List Slice} (hw : ∀ p ∈ s.changedBy l, (s.part p).rcv.fills = [])
    (hc : s.cccUpdating = false) : ¬heldBack s l := by
  rintro (⟨p, hp, h⟩ | h)
  · exact h (hw p hp)
  · rw [hc] at h
    cases h

theorem commitLayout_invalid {s : State} {l : List Slice} (r : Option Req) (route : Nat) (h : s.layoutValid l = false) :
    s.commitLayout l r route = (s, some 0x1105) := by
  unfold State.commitLayout
  rw [if_pos (by rw [h]; rfl)]

theorem commitLayout_waits {s : State} {l : List Slice} (r : Req) (route : Nat) (h : s.layoutValid l = true)
    (hb : heldBack s l) : s.commitLayout l (some r) route = ({ s with commitWait := some (r, l) }, none) := by
  unfold State.commitLayout
  rw [if_neg (by rw [h]; decide), if_pos (by rw [heldBack_iff.mpr hb]; rfl)]
  rfl

theorem commitLayout_busy {s : State} {l : List Slice} (r : Option Req) (route : Nat) (h : s.layoutValid l = true)
    (hb : ¬heldBack s l) (hq : ∃ p ∈ s.changedBy l, (s.part p).state.quiet = false) :
    s.commitLayout l r route = (s, some 0x1101) := by
  have ha : (s.changedBy l).any (fun p => !(s.part p).state.quiet) = true := by simpa using hq
  unfold State.commitLayout
  rw [if_neg (by rw [h]; decide), if_neg (by rw [Bool.and_eq_true, heldBack_iff]; exact fun h => hb h.2), if_pos ha]

theorem commitLayout_applies {s : State} {l : List Slice} (r : Option Req) (route : Nat) (h : s.layoutValid l = true)
    (hb : ¬heldBack s l) (hq : ∀ p ∈ s.changedBy l, (s.part p).state.quiet = true) :
    s.commitLayout l r route = (s.applyLayout l route, some 0) := by
  have ha : ¬(s.changedBy l).any (fun p => !(s.part p).state.quiet) = true := by simpa using hq
  unfold State.commitLayout
  rw [if_neg (by rw [h]; decide), if_neg (by rw [Bool.and_eq_true, heldBack_iff]; exact fun h => hb h.2), if_neg ha]

theorem writeLayout_behind {s : State} (r : Req) (h : s.commitWait.isSome = true) : s.writeLayout r = (s, some 0x4102) := if_pos h

theorem writeLayout_alone {s : State} (r : Req) (h : s.commitWait = none) :
    s.writeLayout r = s.commitLayout s.staged (some r) (Route.code r.route) := by
  unfold State.writeLayout
  rw [if_neg (by rw [h]; decide)]

/-! ### The write -/

theorem layoutCommit_applies {s : State} {r : Req} {v : Nat} (h : acceptsWrite s r 0x2100 1 2 (le 1 v))
    (hw : s.commitWait = none) (hv : s.layoutValid s.staged = true) (hb : ¬heldBack s s.staged)
    (hq : ∀ p ∈ s.changedBy s.staged, (s.part p).state.quiet = true) :
    ∃ t, exec (.layoutCommit r v) s = .next t ∧ respondedWith t r 2 0x2100 1 0 [] ∧ t.layoutGen = s.layoutGen + 1 ∧
      (∀ p ∈ s.changedBy s.staged, ∀ x, s.staged[p]? = some x →
        (t.part p).firstRow = x.firstRow ∧ (t.part p).rows = x.rows ∧ (t.part p).firstCh = x.firstCh ∧
        (t.part p).chans = x.chans ∧ (t.part p).state = if x.rows = 0 then .unassigned else .idle) ∧
      ∀ p, p ∉ s.changedBy s.staged → (t.part p).state = (s.part p).state := by
  have hf (cs : Caddy) : (replayed s cs).writeLayout r =
      ((replayed s cs).applyLayout s.staged (Route.code r.route), some 0) :=
    (writeLayout_alone (s := replayed s cs) r hw).trans
      (commitLayout_applies (s := replayed s cs) (some r) (Route.code r.route) hv hb hq)
  obtain ⟨cs, t, e, hr, hk⟩ := serveWrite_effect (f := fun s => s.writeLayout r)
    (g := fun u => u.applyLayout s.staged (Route.code r.route)) h hf
  have ht := part_of (hk .parts (by decide))
  refine ⟨t, e, hr, (hk .layoutGen (by decide)).trans (applyLayout_layoutGen _ _ _), fun p hp x hx => ?_, fun p hp => ?_⟩
  · obtain ⟨u, hu⟩ := applyLayout_changed (s := replayed s cs) (Route.code r.route) hp hx
    rw [ht p, hu]
    exact setSlice_part u p x
  · rw [ht p]
    exact applyLayout_unchanged (s := replayed s cs) (Route.code r.route) hp

theorem layoutCommit_waits {s : State} {r : Req} {v : Nat} (h : acceptsWrite s r 0x2100 1 2 (le 1 v))
    (hw : s.commitWait = none) (hv : s.layoutValid s.staged = true) (hb : heldBack s s.staged) :
    ∃ t, exec (.layoutCommit r v) s = .next t ∧ t.commitWait = some (r, s.staged) ∧
      onlyChanges [.caddy, .commitWait, .errq, .journal] s t := by
  have hf (cs : Caddy) : (replayed s cs).writeLayout r = ({ replayed s cs with commitWait := some (r, s.staged) }, none) :=
    (writeLayout_alone (s := replayed s cs) r hw).trans (commitLayout_waits (s := replayed s cs) r _ hv hb)
  have hk (cs : Caddy) : onlyChanges [.commitWait] (replayed s cs) ((replayed s cs).writeLayout r).1 := by
    rw [hf cs]
    intro k hk
    cases k <;> first | rfl | exact absurd (by decide) hk
  obtain ⟨cs, t, e, ho, ht⟩ := serveWrite_wait_only (f := fun s => s.writeLayout r) h (fun cs => by rw [hf cs]) hk
    (ls := [.caddy, .commitWait, .errq, .journal]) (by decide)
  exact ⟨t, e, (ht .commitWait (by decide)).trans (by rw [hf cs]), ho⟩

/-- A commit that its own effect refuses. -/
theorem layoutCommit_refused {s : State} {r : Req} {v st : Nat} (h : acceptsWrite s r 0x2100 1 2 (le 1 v))
    (hf : ∀ cs, (replayed s cs).writeLayout r = (replayed s cs, some st)) (hn : st ≠ 0) :
    ∃ t, exec (.layoutCommit r v) s = .next t ∧ respondedWith t r 2 0x2100 1 st [] ∧
      onlyChanges [.caddy, .outs, .errq, .journal] s t :=
  serveWrite_refused_same (f := fun s => s.writeLayout r) h hf hn

/-- Settles O15: the staged layout in force, held back, refused, and behind a commit that waits. -/
theorem layoutCommitPutsTheStagedLayoutInForce : Obligations.LayoutCommitPutsTheStagedLayoutInForce := by
  unfold Obligations.LayoutCommitPutsTheStagedLayoutInForce
  intro s r v h
  have alone (cs : Caddy) (hw : s.commitWait = none) := writeLayout_alone (s := replayed s cs) r hw
  refine ⟨fun hw => ⟨fun hv => ⟨fun hn hc => ⟨?applied, fun hq => ?busy⟩, ?waits⟩, fun hv => ?invalid⟩, fun hw => ?behind⟩
  case applied => exact layoutCommit_applies h hw hv (not_heldBack hn hc)
  case busy =>
    exact layoutCommit_refused h
      (fun cs => (alone cs hw).trans (commitLayout_busy (s := replayed s cs) _ _ hv (not_heldBack hn hc) hq)) (by decide)
  case waits => exact layoutCommit_waits h hw hv
  case invalid =>
    exact layoutCommit_refused h
      (fun cs => (alone cs hw).trans (commitLayout_invalid (s := replayed s cs) _ _ hv)) (by decide)
  case behind => exact layoutCommit_refused h (fun cs => writeLayout_behind (s := replayed s cs) r hw) (by decide)

end Sys2Proof.Proofs.LayoutCommit

/-!
SUPPORT. Run control: what the bookkeeping of rings, lease and group leaves to a partition, how a partition comes to Idle, how a
drain runs to its stop, how a reclaim begins, and the statement of O14 from these.
-/

namespace Sys2Proof.Proofs.RunControl

open Sys2Proof Sys2Proof.Machine Sys2Proof.Safety Sys2Proof.Laws Sys2Proof.Laws.Shared

/-! ### Bookkeeping: rings, lease and group -/

/-- From s to t the partition p keeps all but its rings' indices, its lease and its group. -/
def booked (s t : State) (p : Nat) : Prop :=
  ∃ (g : Rings) (l : Lease) (m : Bool), g.consuming = (s.part p).rings.consuming ∧
    t.part p = { s.part p with rings := g, lease := l, member := m }

section
variable {s t : State} {p : Nat}

theorem booked_refl (s : State) (p : Nat) : booked s s p := ⟨_, _, _, rfl, rfl⟩

theorem booked_of {u : State} (h : booked s t p) (e : u.part p = t.part p) : booked s u p := by
  obtain ⟨g, l, m, hc, ht⟩ := h
  exact ⟨g, l, m, hc, e.trans ht⟩

theorem booked_modRings {f : Rings → Rings} (h : booked s t p) (hf : ∀ r, (f r).consuming = r.consuming) :
    booked s (t.modRings p f) p := by
  obtain ⟨g, l, m, hc, ht⟩ := h
  exact ⟨f g, l, m, (hf g).trans hc, by rw [part_rings, ht]⟩

theorem booked_syncHeader (h : booked s t p) : booked s (t.syncHeader p) p := booked_of h (part_sync t p p)

theorem booked_signalCompletions (h : booked s t p) : booked s (t.signalCompletions p) p := by
  unfold State.signalCompletions
  exact booked_of (booked_modRings h (f := fun r => { r with irqPending := 0 }) (fun _ => rfl)) (part_out _ _ p)

theorem booked_countCompletion (h : booked s t p) : booked s (t.countCompletion p) p := by
  unfold State.countCompletion
  dsimp only
  split
  · exact booked_signalCompletions h
  · exact booked_modRings h (fun _ => rfl)

theorem booked_putCompletion (h : booked s t p) (e : CqEntry) (counted : Bool) : booked s (t.putCompletion p e counted) p := by
  unfold State.putCompletion
  extract_lets r s1 n s2 s3
  have h1 : booked s s1 p := booked_of h rfl
  have h2 : booked s s2 p := booked_modRings h1 (fun _ => rfl)
  have h3 : booked s s3 p := booked_syncHeader h2
  split
  · exact booked_countCompletion h3
  · exact h3

theorem booked_discardRing (h : booked s t p) : booked s (t.discardRing p) p := by
  unfold State.discardRing
  extract_lets r first any u
  split
  · exact h
  · have hu : booked s u p := booked_modRings h (fun _ => rfl)
    exact booked_putCompletion hu _ _

theorem booked_publish (h : booked s t p) : booked s (t.publish p) p := by
  unfold State.publish
  split
  · exact booked_signalCompletions (booked_syncHeader (booked_modRings h (fun _ => rfl)))
  · exact h

theorem booked_disarm (h : booked s t p) : booked s (t.disarm p) p := by
  obtain ⟨g, l, m, hc, ht⟩ := h
  unfold State.disarm
  exact ⟨g, _, m, hc, by rw [part_lease, ht]⟩

theorem booked_leaveGroup (h : booked s t p) : booked s (t.leaveGroup p) p := by
  unfold State.leaveGroup
  split
  · obtain ⟨g, l, m, hc, ht⟩ := h
    exact ⟨g, l, false, hc, (part_modPart _ _ _).trans (congrArg (fun q : Machine.Part => { q with member := false }) ht)⟩
  · exact h
end

/-! ### Idle -/

/-- How partition p is when it has come to Idle from s. -/
structure idled (s t : State) (p : Nat) : Prop where
  state : (t.part p).state = .idle
  consuming : (t.part p).rings.consuming = false
  lists : (t.part p).lists = (s.part p).lists
  ranMode : (t.part p).ranMode = (s.part p).ranMode
  scrubbed : (t.part p).scrubbed = (s.part p).scrubbed

theorem enterIdle_idled (s : State) (p : Nat) : idled s (s.enterIdle p) p := by
  unfold State.enterIdle
  extract_lets s1 s2 s3
  have h2 : s2.part p = { s.part p with runTo := .none, after := none, rings := { (s.part p).rings with consuming := false } } :=
    (part_rings s1 p _).trans (by rw [show s1.part p = _ from part_modPart s p _])
  have h3 : booked s2 (((s3.disarm p).syncHeader p).leaveGroup p) p :=
    booked_leaveGroup (booked_syncHeader (booked_disarm (booked_publish (booked_discardRing (booked_refl s2 p)))))
  obtain ⟨g, l, m, hc, e⟩ := h3
  obtain ⟨i, e4⟩ := pst (((s3.disarm p).syncHeader p).leaveGroup p) p .idle
  rw [e, h2] at e4
  rw [h2] at hc
  exact ⟨by rw [e4], by rw [e4]; exact hc, by rw [e4], by rw [e4], by rw [e4]⟩

theorem enterIdle_boundStreams (s : State) (p q : Nat) : (s.enterIdle p).boundStreams q = s.boundStreams q :=
  bound_of ((path_enterIdle (ks := [.parts, .mem, .hbm, .tfb, .outs]) p (by decide) (path_refl _ s)).frame .streams (by decide)) q

/-! ### Stopped work -/

theorem answerList_consuming (s : State) (p : Nat) (x : ListRec) (st f : Nat) :
    ((s.answerList p x st f).part p).rings.consuming = (s.part p).rings.consuming := by
  unfold State.answerList
  obtain ⟨g, l, m, hc, e⟩ := booked_putCompletion (booked_refl s p)
    { subId := x.subId, status := st, failing := f, tStart := x.tStart.getD s.now, tEnd := s.now, done := x.ranCount
      userTag := x.userTag, epoch := s.partEpoch p } x.irq
  rw [ml_part, e]
  exact hc

theorem foldl_consuming {α : Type} {p : Nat} {f : State → α → State}
    (h : ∀ s a, ((f s a).part p).rings.consuming = (s.part p).rings.consuming) (l : List α) (s : State) :
    ((l.foldl f s).part p).rings.consuming = (s.part p).rings.consuming := by
  induction l generalizing s with
  | nil => rfl
  | cons a l ih => exact (ih _).trans (h s a)

theorem stopLists_consuming (s : State) (p st : Nat) :
    ((s.stopLists p st).part p).rings.consuming = (s.part p).rings.consuming := by
  unfold State.stopLists
  extract_lets s0 s1 s2
  have h0 : (s0.part p).rings.consuming = (s.part p).rings.consuming := foldl_consuming (fun s x => by
    rw [part_of ((path_recordRun (ks := [.mem, .hbm]) _ _ (by decide) (path_refl _ s)).frame .parts (by decide))]) _ s
  have h1 : (s1.part p).rings.consuming = (s0.part p).rings.consuming := foldl_consuming (fun s x => by
    split
    · rfl
    · exact answerList_consuming s p x st _) _ s0
  have h2 : (s2.part p).rings.consuming = (s1.part p).rings.consuming := by rw [show s2.part p = _ from part_modPart s1 p _]
  exact h2.trans (h1.trans h0)

theorem stopWork_consuming (s : State) (p st : Nat) : ((s.stopWork p st).part p).rings.consuming = false := by
  unfold State.stopWork
  extract_lets s0 s1 s2 s3
  clear_value s1
  have h2 : s2.part p = _ := part_rings s1 p _
  have h3 : s3.part p = _ := part_modRcv s2 p _
  rw [h2] at h3
  clear_value s3
  have h4 : (s3.stopLists p st |>.part p).rings.consuming = false := by rw [stopLists_consuming, h3]
  generalize s3.stopLists p st = s4 at h4
  have h5 : (s4.closeStreams p st).parts = s4.parts :=
    (path_closeStreams (ks := [.mem, .hbm, .streams, .outs]) p st (by decide) (path_refl _ s4)).frame .parts (by decide)
  rw [(abandon_part _ p).1, part_of h5]
  exact h4

/-- An abort leaves the partition Idle with no list (R48, R49). -/
theorem abortPart_idles (s : State) (p : Nat) : ((s.abortPart p).part p).state = .idle ∧
    ((s.abortPart p).part p).lists = [] ∧ ((s.abortPart p).part p).rings.consuming = false := by
  obtain ⟨-, hl, -⟩ := stop_work s p 0x1107
  have h := enterIdle_idled (s.stopWork p 0x1107) p
  exact ⟨h.state, h.lists.trans hl, h.consuming⟩

/-! ### A drain runs to its stop -/

/-- Where the drain of partition p from s has got to, with no stream to close (R47). -/
structure drained (s t : State) (p : Nat) : Prop where
  streams : t.boundStreams p = []
  consuming : (t.part p).rings.consuming = false
  lists : (t.part p).lists = (s.part p).lists
  state : (t.part p).state = .draining ∨ (s.part p).lists = [] ∧ (t.part p).state = .idle

theorem drained_setRunTo {s t : State} {p : Nat} (h : drained s t p) (r : RunTo) : drained s (t.setRunTo p r) p := by
  have e := part_setRunTo t p r
  exact ⟨(bound_of rfl p).trans h.streams, by rw [e]; exact h.consuming, by rw [e]; exact h.lists, by rw [e]; exact h.state⟩

theorem beginCapture_part (s : State) (p : Nat) (c : Option QRef) :
    ∃ r, (s.beginCapture p c).part p = { s.part p with rcv := r } := by
  unfold State.beginCapture
  extract_lets u
  have hu : u.part p = s.part p := by
    show (ite _ _ _ : State).part p = _
    split
    · exact part_of (phase_done s p .parts (by decide)) p
    · rfl
  exact ⟨_, by rw [part_modRcv, hu]⟩

theorem drained_beginCapture {s t : State} {p : Nat} (h : drained s t p) : drained s (t.beginCapture p none) p := by
  obtain ⟨r, e⟩ := beginCapture_part t p none
  have hs : (t.beginCapture p none).streams = t.streams :=
    (path_beginCapture (ks := [.parts, .ctr]) p none (by decide) (path_refl _ t)).frame .streams (by decide)
  exact ⟨(bound_of hs p).trans h.streams, by rw [e]; exact h.consuming, by rw [e]; exact h.lists, by rw [e]; exact h.state⟩

theorem closingStreams_unbound {s : State} {p : Nat} (h : s.boundStreams p = []) (a : Bool) : s.closingStreams p a = s := by
  unfold State.closingStreams
  rw [h]
  rfl

theorem pumpAll_unbound {s : State} {p : Nat} (h : s.boundStreams p = []) : s.pumpAll p = s := by
  unfold State.pumpAll
  rw [h]
  rfl

theorem progressOnce_stopped {s : State} {p : Nat} (h : (s.part p).state = .idle) : s.progressOnce p = s := by
  unfold State.progressOnce
  dsimp only
  rw [h]
  rfl

theorem drained_enterIdle {s t : State} {p : Nat} (h : drained s t p) (hl : (t.part p).lists = []) :
    drained s (t.enterIdle p) p := by
  have k := enterIdle_idled t p
  exact ⟨(enterIdle_boundStreams t p p).trans h.streams, k.consuming, k.lists.trans h.lists,
    .inr ⟨h.lists.symm.trans hl, k.state⟩⟩

/-- The moves of a Draining partition with no stream bound (R47). -/
theorem progressOnce_draining {s : State} {p : Nat} (hd : (s.part p).state = .draining) (hb : s.boundStreams p = []) :
    s.progressOnce p = s ∨ (∃ r, s.progressOnce p = s.setRunTo p r) ∨
      s.progressOnce p = (s.beginCapture p none).setRunTo p .sachet ∨
      (s.part p).lists = [] ∧ s.progressOnce p = s.enterIdle p := by
  have hl : (PState.draining == PState.hostLost) = false := rfl
  unfold State.progressOnce
  dsimp only
  rw [hd, hl, beq_self_eq_true, closingStreams_unbound hb]
  simp only [Bool.false_eq_true, if_false, if_true, ite_self]
  split
  · exact .inl rfl
  · split
    case h_1 e _ =>
      split
      · split
        · exact .inr (.inr (.inl rfl))
        · exact .inr (.inl ⟨_, rfl⟩)
      · exact .inl rfl
    case h_2 =>
      split
      · exact .inr (.inl ⟨_, rfl⟩)
      · exact .inl rfl
    case h_3 =>
      split
      · rename_i h
        simp only [Bool.and_eq_true, List.isEmpty_iff] at h
        obtain ⟨⟨⟨⟨hq, -⟩, -⟩, -⟩, -⟩ := h
        exact .inr (.inr (.inr ⟨hq, rfl⟩))
      · exact .inl rfl
    case h_4 => exact .inr (.inl ⟨_, rfl⟩)
    case h_5 => exact .inl rfl

theorem drained_progressOnce {s t : State} {p : Nat} (h : drained s t p) : drained s (t.progressOnce p) p := by
  rcases h.state with hd | ⟨-, hi⟩
  · rcases progressOnce_draining hd h.streams with e | ⟨r, e⟩ | e | ⟨hl, e⟩ <;> rw [e]
    · exact h
    · exact drained_setRunTo h r
    · exact drained_setRunTo (drained_beginCapture h) _
    · exact drained_enterIdle h hl
  · rwa [progressOnce_stopped hi]

theorem drained_progress {s t : State} {p : Nat} (h : drained s t p) : drained s (t.progress p) p := by
  unfold State.progress
  rw [pumpAll_unbound h.streams]
  exact drained_progressOnce (drained_progressOnce (drained_progressOnce (drained_progressOnce h)))

theorem drain_refused {s : State} {p : Nat} (h1 : (s.part p).state ≠ .running) (h2 : (s.part p).state ≠ .hostLost) :
    s.drain p = (s, 0x1101) := if_pos ⟨h1, h2⟩

theorem drain_status {s : State} {p : Nat} (h : (s.part p).state = .running ∨ (s.part p).state = .hostLost) :
    (s.drain p).2 = 0 := by
  unfold State.drain
  rw [if_neg (by rintro ⟨h1, h2⟩; exact h.elim h1 h2)]

/-- A drain with no stream to close (R47). -/
theorem drain_drains {s : State} {p : Nat} (h : (s.part p).state = .running ∨ (s.part p).state = .hostLost)
    (hb : s.boundStreams p = []) : drained s (s.drain p).1 p := by
  unfold State.drain
  rw [if_neg (by rintro ⟨h1, h2⟩; exact h.elim h1 h2)]
  extract_lets u v
  have hu : drained s u p := by
    obtain ⟨i, e⟩ : ∃ i, u.part p = _ := pst (s.modRings p (fun r => { r with consuming := false })) p .draining
    rw [part_rings] at e
    have hs : u.streams = s.streams := setPState_s_streams (s.modRings p (fun r => { r with consuming := false })) p .draining
    exact ⟨(bound_of hs p).trans hb, by rw [e], by rw [e], .inl (by rw [e])⟩
  clear_value u
  have hv : drained s v p := by
    have hstreams := drained_setRunTo hu .streams
    show drained s (ite _ _ _) p
    rw [closingStreams_unbound hstreams.streams]
    split
    · split
      · exact hu
      · exact drained_setRunTo hu _
    · split
      · exact drained_setRunTo hu _
      · exact hstreams
  clear_value v
  dsimp only
  exact drained_progress hv

/-! ### A reclaim begins -/

/-- Partition p of t is in a reclaim that was asked for at tick t0 (R323, R324). -/
structure reclaims (t : State) (p t0 : Nat) : Prop where
  state : (t.part p).state = .reclaiming
  consuming : (t.part p).rings.consuming = false
  asked : (t.part p).rcv.reclaim.map (fun c => c.t0) = some t0

section
variable {t : State} {p t0 : Nat} (h : reclaims t p t0)
include h

theorem reclaims_of {u : State} (hs : (u.part p).state = (t.part p).state) (hr : (u.part p).rings = (t.part p).rings)
    (hc : (u.part p).rcv.reclaim = (t.part p).rcv.reclaim) : reclaims u p t0 :=
  ⟨hs.trans h.state, by rw [hr, h.consuming], by rw [hc, h.asked]⟩

theorem reclaims_modRcv {f : Recovery → Recovery}
    (hf : ∀ r, (f r).reclaim.map (fun c => c.t0) = r.reclaim.map (fun c => c.t0)) : reclaims (t.modRcv p f) p t0 := by
  have e := part_modRcv t p f
  exact ⟨by rw [e]; exact h.state, by rw [e]; exact h.consuming, by rw [e]; exact (hf _).trans h.asked⟩

theorem reclaims_abandonSachet : reclaims (t.abandonSachet p) p t0 := by
  have e := (abandon_part t p).1
  exact reclaims_of h (by rw [e]) (by rw [e]) (by rw [e])

theorem reclaims_stopWork (st : Nat) : reclaims (t.stopWork p st) p t0 := by
  obtain ⟨hs, -, hr, -⟩ := stop_work t p st
  exact ⟨(hs p).trans h.state, stopWork_consuming t p st, by rw [hr]; exact h.asked⟩

theorem reclaims_phaseDone : reclaims (t.phaseDone p) p t0 := by
  have e := part_of (phase_done t p .parts (by decide)) p
  exact reclaims_of h (by rw [e]) (by rw [e]) (by rw [e])

theorem reclaims_startScrub : reclaims (t.startScrub p) p t0 := by
  unfold State.startScrub
  have hv := reclaims_phaseDone (reclaims_stopWork h 0x1107)
  generalize (t.stopWork p 0x1107).phaseDone p = v at hv
  extract_lets v w
  have e : w.part p = _ := part_modPart v p _
  have hw : reclaims w p t0 := reclaims_of hv (by rw [e]) (by rw [e]) (by rw [e])
  exact reclaims_modRcv hw (fun r => Option.map_map _ _ r.reclaim)

theorem reclaims_beginCapture (c : Option QRef) : reclaims (t.beginCapture p c) p t0 := by
  unfold State.beginCapture
  extract_lets u
  have hu : reclaims u p t0 := by
    show reclaims (ite _ _ _) p t0
    split
    · exact reclaims_phaseDone h
    · exact h
  refine reclaims_modRcv hu (fun r => ?_)
  cases r.reclaim with
  | none => rfl
  | some c => simp only [Option.map_some]; split <;> rfl

end

theorem reclaim_modeless {s : State} {p : Nat} (group : Bool) (h : s.modeOf p ≠ 0) : s.reclaim p group = s := if_pos (.inr h)

theorem reclaim_repeated {s : State} {p : Nat} (group : Bool) (h : (s.part p).state = .reclaiming ∨ (s.part p).state = .safeStop) :
    (s.reclaim p group).parts = s.parts := by
  unfold State.reclaim
  by_cases hm : (s.part p).state = .unassigned ∨ s.modeOf p ≠ 0
  · rw [if_pos hm]
  · rw [if_neg hm, if_pos h]
    rfl

theorem reclaim_begins {s : State} {p : Nat} (group : Bool) (hm : s.modeOf p = 0)
    (h : (s.part p).state = .running ∨ (s.part p).state = .draining ∨ (s.part p).state = .hostLost ∨ (s.part p).state = .idle) :
    reclaims (s.reclaim p group) p s.time.ticks := by
  have hn (x : PState) (hx : x ∈ [PState.unassigned, .scrubbing, .reclaiming, .safeStop]) : (s.part p).state ≠ x := by
    rintro rfl
    rcases h with h | h | h | h <;> rw [h] at hx <;> exact absurd hx (by decide)
  unfold State.reclaim
  rw [if_neg (by rintro (h | h); exacts [hn _ (by decide) h, h hm])]
  extract_lets s1 s2 s3 s4 s5 s6 s7
  rw [if_neg (by rintro (h | h); exacts [hn _ (by decide) h, hn _ (by decide) h])]
  have e3 : s3.part p = { s.part p with
      rings := { (s.part p).rings with consuming := false }
      rcv := { (s.part p).rcv with reclaim := some { t0 := s.time.ticks, phase := 0, phaseStart := s.time.ticks }, force := true } } := by
    rw [show s3.part p = _ from part_rings s2 p _, show s2.part p = _ from part_modRcv s1 p _]
    rfl
  have b4 : booked s3 s4 p := booked_publish (booked_refl s3 p)
  have b5 : booked s3 s5 p := by
    show booked s3 (ite _ _ _) p
    split
    · exact booked_of b4 (part_of ((path_tfbSend (ks := [.tfb, .outs]) 7 _ (by decide) (path_refl _ s4)).frame .parts (by decide)) p)
    · exact b4
  obtain ⟨g, l, m, hc, e6⟩ := booked_disarm b5
  obtain ⟨i, e⟩ := pst (s5.disarm p) p .reclaiming
  have h7 : reclaims s7 p s.time.ticks := by
    have e7 : s7.part p = _ := part_setRunTo s6 p .none
    rw [show s6.part p = _ from e, e6, e3] at e7
    rw [e3] at hc
    exact ⟨by rw [e7], by rw [e7]; exact hc, by rw [e7]; rfl⟩
  clear_value s7
  rw [if_neg (hn _ (by decide))]
  split
  · exact reclaims_startScrub (reclaims_abandonSachet h7)
  · split
    · exact reclaims_modRcv h7 (fun r => Option.map_map _ _ r.reclaim)
    · split
      · split
        · exact reclaims_beginCapture h7 none
        · exact reclaims_startScrub h7
      · split
        · exact reclaims_startScrub h7
        · exact h7

/-! ### The other commands -/

theorem runReclaim_taken {s : State} {p : Nat}
    (h : (s.part p).state = .running ∨ (s.part p).state = .draining ∨ (s.part p).state = .hostLost ∨ (s.part p).state = .idle) :
    s.runReclaim p = (s.reclaim p true, 0) := if_pos h

theorem runReclaim_refused {s : State} {p : Nat} (h : (s.part p).state ∈ [PState.unassigned, .scrubbing, .reclaiming, .safeStop]) :
    (s.runReclaim p).2 = 0x1101 ∧ (s.runReclaim p).1.parts = s.parts := by
  have hn (x : PState) (hx : x ∉ [PState.unassigned, .scrubbing, .reclaiming, .safeStop]) : (s.part p).state ≠ x :=
    fun e => hx (e ▸ h)
  unfold State.runReclaim
  dsimp only
  rw [if_neg (by rintro (h | h | h | h) <;> exact hn _ (by decide) h)]
  refine ⟨rfl, ?_⟩
  split
  · rename_i hr
    exact reclaim_repeated true hr
  · rfl

theorem runScrub_scrubs {s : State} {p : Nat} (h : (s.part p).state = .idle) (hr : (s.part p).rcv.startRestore = none) :
    (s.runScrub p).2 = 0 ∧ ((s.runScrub p).1.part p).state = .scrubbing ∧ ((s.runScrub p).1.part p).after = some .idle ∧
      ((s.runScrub p).1.part p).scrubTick = s.time.ticks := by
  have ht : (s.wake p).time = s.time :=
    (path_wake (ks := [.parts, .sites, .power]) p (by decide) (path_refl _ s)).frame .time (by decide)
  unfold State.runScrub State.beginScrub
  rw [if_neg (by simp [h, hr])]
  refine ⟨rfl, setPState_state _ _ _, ?_, ?_⟩
  · rw [setPState_after, part_modPart]
  · rw [setPState_scrubTick, part_modPart, ht]

theorem runScrub_refused {s : State} {p : Nat} (h : (s.part p).state ≠ .idle ∨ (s.part p).rcv.startRestore.isSome = true) :
    s.runScrub p = (s, 0x1101) := if_pos h

theorem clearSafeStop_idles {s : State} {p : Nat} (h : (s.part p).state = .safeStop) (he : s.heldErrors p = 0) :
    (s.clearSafeStop p).2 = 0 ∧ ((s.clearSafeStop p).1.part p).state = .idle ∧
      ((s.clearSafeStop p).1.part p).ranMode = none ∧ ((s.clearSafeStop p).1.part p).scrubbed = false := by
  unfold State.clearSafeStop
  rw [if_neg (by simp [h, he])]
  have k := enterIdle_idled (s.modPart p (fun q => { q with ranMode := none, scrubbed := false })) p
  exact ⟨rfl, k.state, k.ranMode.trans (by rw [part_modPart]), k.scrubbed.trans (by rw [part_modPart])⟩

theorem clearSafeStop_refused {s : State} {p : Nat} (h : (s.part p).state ≠ .safeStop ∨ s.heldErrors p ≠ 0) :
    s.clearSafeStop p = (s, 0x1101) := if_pos h

theorem abort_taken {s : State} {p : Nat}
    (h : (s.part p).state = .running ∨ (s.part p).state = .draining ∨ (s.part p).state = .hostLost) :
    s.abort p = (s.abortPart p, 0) := if_pos h

theorem abort_refused {s : State} {p : Nat} (h1 : (s.part p).state ≠ .running) (h2 : (s.part p).state ≠ .draining)
    (h3 : (s.part p).state ≠ .hostLost) : s.abort p = (s, 0x1101) :=
  if_neg (by rintro (h | h | h); exacts [h1 h, h2 h, h3 h])

theorem start_refused {s : State} {p : Nat} (route : Nat) (h : (s.part p).state ≠ .idle) : s.start p route = (s, 0x1101) :=
  if_pos (.inl h)

/-! ### Which command a value of Run control asks for (R45) -/

section
variable {s : State} (hb : s.boot.schLost = false) (p route : Nat)
include hb

theorem runControl_start : s.runControl p 1 route = s.start p route := by
  unfold State.runControl
  rw [hb]
  rfl

theorem runControl_drain : s.runControl p 2 route = s.drain p := by
  unfold State.runControl
  rw [hb]
  rfl

theorem runControl_abort : s.runControl p 3 route = s.abort p := by
  unfold State.runControl
  rw [hb]
  rfl

theorem runControl_reclaim : s.runControl p 4 route = s.runReclaim p := by
  unfold State.runControl
  rw [hb]
  rfl

theorem runControl_scrub : s.runControl p 5 route = s.runScrub p := by
  unfold State.runControl
  rw [hb]
  rfl

theorem runControl_clearSafeStop : s.runControl p 6 route = s.clearSafeStop p := by
  unfold State.runControl
  rw [hb]
  rfl

end

/-! ### The write of Run control -/

section
variable {s : State} {r : Req} {p v : Nat} {f : State → State × Nat} (h : acceptsWrite s r (0x3000 + 256 * p) 2 2 (le 1 v))
  (hf : ∀ cs, (replayed s cs).runControl p v (Route.code r.route) = f (replayed s cs))
include h hf

/-- A write of Run control that is taken. -/
theorem runWrite_taken (h0 : ∀ cs, (f (replayed s cs)).2 = 0) :
    ∃ cs t, answer s (s.writeRun r p v) = .next t ∧ respondedWith t r 2 (0x3000 + 256 * p) 2 0 [] ∧
      t.parts = (f (replayed s cs)).1.parts := by
  obtain ⟨cs, t, e, hr, hk⟩ := serveWrite_answer (f := fun s => done (s.runControl p v (Route.code r.route))) h
    (fun cs => by rw [hf cs]; exact congrArg some (h0 cs))
  exact ⟨cs, t, e, hr, (hk .parts (by decide)).trans (by rw [hf cs]; rfl)⟩

/-- A write of Run control in a state that does not take it. -/
theorem runWrite_refused (h1 : ∀ cs, (f (replayed s cs)).2 = 0x1101 ∧ (f (replayed s cs)).1.parts = s.parts) :
    ∃ t, answer s (s.writeRun r p v) = .next t ∧ respondedWith t r 2 (0x3000 + 256 * p) 2 0x1101 [] ∧ t.parts = s.parts := by
  obtain ⟨cs, t, e, hr, hk⟩ := serveWrite_refused (st := 0x1101) (f := fun s => done (s.runControl p v (Route.code r.route))) h
    (fun cs => by rw [hf cs]; exact congrArg some (h1 cs).1) (by decide)
  refine ⟨t, e, hr, (hk .parts (by decide)).trans ?_⟩
  rw [hf cs]
  exact (h1 cs).2

end

theorem drain_runs {s : State} {r : Req} {p : Nat} (hb : s.boot.schLost = false)
    (h : acceptsWrite s r (0x3000 + 256 * p) 2 2 (le 1 2)) (hs : (s.part p).state = .running ∨ (s.part p).state = .hostLost) :
    ∃ t, exec (.drain r p) s = .next t ∧ respondedWith t r 2 (0x3000 + 256 * p) 2 0 [] ∧
      (s.boundStreams p = [] → (t.part p).rings.consuming = false ∧
        ((t.part p).state = .draining ∨ (s.part p).lists = [] ∧ (t.part p).state = .idle)) := by
  obtain ⟨cs, t, e, hr, ht⟩ := runWrite_taken (f := fun s => s.drain p) h
    (fun cs => (runControl_drain (s := replayed s cs) hb p _)) (fun cs => drain_status (s := replayed s cs) hs)
  refine ⟨t, e, hr, fun hn => ?_⟩
  have hd := drain_drains (s := replayed s cs) hs hn
  rw [part_of ht]
  exact ⟨hd.consuming, hd.state⟩

theorem abort_runs {s : State} {r : Req} {p : Nat} (hb : s.boot.schLost = false)
    (h : acceptsWrite s r (0x3000 + 256 * p) 2 2 (le 1 3))
    (hs : (s.part p).state = .running ∨ (s.part p).state = .draining ∨ (s.part p).state = .hostLost) :
    ∃ t, exec (.abort r p) s = .next t ∧ respondedWith t r 2 (0x3000 + 256 * p) 2 0 [] ∧ (t.part p).state = .idle ∧
      (t.part p).lists = [] ∧ (t.part p).rings.consuming = false := by
  obtain ⟨cs, t, e, hr, ht⟩ := runWrite_taken (f := fun s => (s.abortPart p, 0)) h
    (fun cs => (runControl_abort (s := replayed s cs) hb p _).trans (abort_taken (s := replayed s cs) hs)) (fun _ => rfl)
  refine ⟨t, e, hr, ?_⟩
  rw [part_of ht]
  exact abortPart_idles (replayed s cs) p

theorem reclaim_runs {s : State} {r : Req} {p : Nat} (hb : s.boot.schLost = false)
    (h : acceptsWrite s r (0x3000 + 256 * p) 2 2 (le 1 4))
    (hs : (s.part p).state = .running ∨ (s.part p).state = .draining ∨ (s.part p).state = .hostLost ∨ (s.part p).state = .idle) :
    (s.modeOf p = 0 →
      ∃ t, exec (.reclaim r p) s = .next t ∧ respondedWith t r 2 (0x3000 + 256 * p) 2 0 [] ∧
        (t.part p).state = .reclaiming ∧ (t.part p).rings.consuming = false ∧
        (t.part p).rcv.reclaim.map (fun c => c.t0) = some s.time.ticks) ∧
    (s.modeOf p ≠ 0 →
      ∃ t, exec (.reclaim r p) s = .next t ∧ respondedWith t r 2 (0x3000 + 256 * p) 2 0 [] ∧ t.parts = s.parts) := by
  obtain ⟨cs, t, e, hr, ht⟩ := runWrite_taken (f := fun s => (s.reclaim p true, 0)) h
    (fun cs => (runControl_reclaim (s := replayed s cs) hb p _).trans (runReclaim_taken (s := replayed s cs) hs))
    (fun _ => rfl)
  refine ⟨fun hm => ⟨t, e, hr, ?_⟩, fun hm => ⟨t, e, hr, ?_⟩⟩
  · have k := reclaim_begins (s := replayed s cs) true hm hs
    rw [part_of ht]
    exact ⟨k.state, k.consuming, k.asked⟩
  · have k := congrArg State.parts (reclaim_modeless (s := replayed s cs) true hm)
    exact ht.trans k

theorem scrub_runs {s : State} {r : Req} {p : Nat} (hb : s.boot.schLost = false)
    (h : acceptsWrite s r (0x3000 + 256 * p) 2 2 (le 1 5)) (hs : (s.part p).state = .idle)
    (hn : (s.part p).rcv.startRestore = none) :
    ∃ t, exec (.scrub r p) s = .next t ∧ respondedWith t r 2 (0x3000 + 256 * p) 2 0 [] ∧
      (t.part p).state = .scrubbing ∧ (t.part p).after = some .idle ∧ (t.part p).scrubTick = s.time.ticks := by
  have k (cs : Caddy) := runScrub_scrubs (s := replayed s cs) hs hn
  obtain ⟨cs, t, e, hr, ht⟩ := runWrite_taken (f := fun s => s.runScrub p) h
    (fun cs => (runControl_scrub (s := replayed s cs) hb p _)) (fun cs => (k cs).1)
  refine ⟨t, e, hr, ?_⟩
  rw [part_of ht]
  exact (k cs).2

theorem clearSafeStop_runs {s : State} {r : Req} {p : Nat} (hb : s.boot.schLost = false)
    (h : acceptsWrite s r (0x3000 + 256 * p) 2 2 (le 1 6)) (hs : (s.part p).state = .safeStop) (hn : s.heldErrors p = 0) :
    ∃ t, exec (.clearSafeStop r p) s = .next t ∧ respondedWith t r 2 (0x3000 + 256 * p) 2 0 [] ∧
      (t.part p).state = .idle ∧ (t.part p).ranMode = none ∧ (t.part p).scrubbed = false := by
  have k (cs : Caddy) := clearSafeStop_idles (s := replayed s cs) hs hn
  obtain ⟨cs, t, e, hr, ht⟩ := runWrite_taken (f := fun s => s.clearSafeStop p) h
    (fun cs => (runControl_clearSafeStop (s := replayed s cs) hb p _)) (fun cs => (k cs).1)
  refine ⟨t, e, hr, ?_⟩
  rw [part_of ht]
  exact (k cs).2

/-- A write that is refused before it does anything. -/
theorem runWrite_refused_same {s : State} {r : Req} {p v : Nat} (h : acceptsWrite s r (0x3000 + 256 * p) 2 2 (le 1 v))
    (hf : ∀ cs, (replayed s cs).runControl p v (Route.code r.route) = (replayed s cs, 0x1101)) :
    ∃ t, answer s (s.writeRun r p v) = .next t ∧ respondedWith t r 2 (0x3000 + 256 * p) 2 0x1101 [] ∧ t.parts = s.parts :=
  runWrite_refused (f := fun s => (s, 0x1101)) h hf (fun _ => ⟨rfl, rfl⟩)

/-- Settles O14: the commands that are taken, then those that a state does not take. -/
theorem runControlStopsThePartition : Obligations.RunControlStopsThePartition := by
  unfold Obligations.RunControlStopsThePartition
  intro s r p _ hb
  refine ⟨drain_runs hb, abort_runs hb, reclaim_runs hb, scrub_runs hb, clearSafeStop_runs hb, fun h hs => ?start,
    fun h h1 h2 => ?drain, fun h h1 h2 h3 => ?abort, fun h hs => ?reclaim, fun h hs => ?scrub, fun h hs => ?clear⟩
  case start =>
    exact runWrite_refused_same h (fun cs =>
      (runControl_start (s := replayed s cs) hb p _).trans (start_refused (s := replayed s cs) _ hs))
  case drain =>
    exact runWrite_refused_same h (fun cs =>
      (runControl_drain (s := replayed s cs) hb p _).trans (drain_refused (s := replayed s cs) h1 h2))
  case abort =>
    exact runWrite_refused_same h (fun cs =>
      (runControl_abort (s := replayed s cs) hb p _).trans (abort_refused (s := replayed s cs) h1 h2 h3))
  case reclaim =>
    exact runWrite_refused (f := fun s => s.runReclaim p) h (fun cs => (runControl_reclaim (s := replayed s cs) hb p _))
      (fun cs => runReclaim_refused (s := replayed s cs) hs)
  case scrub =>
    exact runWrite_refused_same h (fun cs =>
      (runControl_scrub (s := replayed s cs) hb p _).trans (runScrub_refused (s := replayed s cs) hs))
  case clear =>
    exact runWrite_refused_same h (fun cs =>
      (runControl_clearSafeStop (s := replayed s cs) hb p _).trans (clearSafeStop_refused (s := replayed s cs) hs))

end Sys2Proof.Proofs.RunControl

/-!
SUPPORT. Host registers: which writes a function takes, what a write to the rings of a partition leaves, what reads back, and
the statement of O34 from these.
-/

namespace Sys2Proof.Proofs.HostRegisters

open Sys2Proof Sys2Proof.Machine Sys2Proof.Safety Sys2Proof.Laws Sys2Proof.Laws.Shared

/-! ### Functions that take writes (R73, R410) -/

/-- What it takes for the function of partition p to take writes. -/
theorem takesWrites_iff (s : State) (p : Nat) (ide : Bool) : s.takesWrites (p + 1) ide = true ↔
    p < 4 ∧ s.boot.power = 2 ∧ s.ideBlocks (p + 1) ide = false ∧ (s.part p).state ≠ .unassigned := by
  unfold State.takesWrites
  simp only [Bool.and_eq_true, decide_eq_true_eq, Bool.not_eq_true', Nat.add_sub_cancel]
  constructor
  · rintro ⟨⟨⟨-, hp, hb⟩, hi⟩, hs⟩
    exact ⟨by omega, hb, hi, hs⟩
  · rintro ⟨hp, hb, hi, hs⟩
    exact ⟨⟨⟨by omega, by omega, hb⟩, hi⟩, hs⟩

theorem modRings_only (s : State) (p : Nat) (f : Rings → Rings) : onlyChanges [.parts] s (s.modRings p f) :=
  (path_modRings (ks := [.parts]) p f (by decide) (path_refl _ s)).frame

section
variable {s : State} {p : Nat} {ide : Bool} (h : s.takesWrites (p + 1) ide = true)
include h

theorem bar0RegisterWrite_taken (offset v : Nat) :
    exec (.bar0RegisterWrite (p + 1) offset v ide) s = answer s (s.regWrite p offset v) := by
  show answer s (if p + 1 = 0 then _ else _) = _
  rw [if_neg (Nat.succ_ne_zero p), if_pos h, Nat.add_sub_cancel]

theorem sqTailDb_taken (v : Nat) : exec (.sqTailDb (p + 1) v ide) s = answer s (s.sqTail p v) :=
  congrArg (answer s) (if_pos h)

theorem cqHeadDb_taken (v : Nat) : exec (.cqHeadDb (p + 1) v ide) s = answer s (s.cqHeadWrite p v) :=
  congrArg (answer s) (if_pos h)

theorem attachResume_taken : exec (.attachResume (p + 1) ide) s = answer s (s.attachResume p) :=
  congrArg (answer s) (if_pos h)

theorem attachReset_taken : exec (.attachReset (p + 1) ide) s = answer s (s.attachReset p) :=
  congrArg (answer s) (if_pos h)

theorem errqAck_taken (v : Nat) : exec (.errqAck (p + 1) v ide) s = answer s (s.ackErrors v (fun e => e.part == p)) :=
  congrArg (answer s) (if_pos h)

theorem bar2Write_taken {a : Nat} {bs : List Byte} (hi : s.inSlice p a bs.length = true) :
    exec (.bar2Write (p + 1) a bs ide) s =
      answer s (((s.wr p a bs).countLines p a bs.length ctrChWritten).modRcv p (fun r => { r with dirty := true })) :=
  congrArg (answer s) (if_pos (by rw [Nat.add_sub_cancel, h, hi]; rfl))

theorem doorbellErr_taken : exec (.doorbellErr (p + 1) ide) s =
    answer s ((s.modRings p (fun r => { r with doorbellErr := 0 })).out (.reg (p + 1) 0x02C (s.readBar0 p 0x02C))) := by
  obtain ⟨hp, -, hi, hs⟩ := (takesWrites_iff s p ide).mp h
  show answer s (if 4 < p + 1 then _ else _) = _
  rw [if_neg (by omega), if_neg (Nat.succ_ne_zero p), hi, if_neg Bool.false_ne_true, Nat.add_sub_cancel, if_neg hs]
end

/-! ### Writes to the rings (R73, R74) -/

/-- A command that changes the rings of partition p by f leaves everything else. -/
theorem answers_modRings {s u : State} {p : Nat} {f : Rings → Rings} {c : Instr} (he : exec c s = answer s u)
    (hu : u = s.modRings p f) : ∃ t, exec c s = .next t ∧ onlyChanges [.parts, .errq, .journal] s t ∧
      t.part p = { s.part p with rings := f (s.part p).rings } := by
  subst hu
  rw [he]
  exact ansK (modRings_only s p f) (by decide) (fun t kt _ => by rw [part_of (kt .parts (by decide)), part_rings])

section
variable {s : State} {p v : Nat}

theorem regWrite_base (hs : (s.part p).state = .idle) (hv : v % 4096 = 0) :
    s.regWrite p 0x008 v = s.modRings p (fun r => { r with base := v }) := by
  unfold State.regWrite
  rw [if_pos (.inl rfl), if_neg (by simp [hs]), if_pos rfl, if_neg (by simp [hv])]

theorem regWrite_size (hs : (s.part p).state = .idle) (h6 : 6 ≤ v) (h16 : v ≤ 16) :
    s.regWrite p 0x010 v = s.modRings p (fun r => { r with size := v }) := by
  unfold State.regWrite
  rw [if_pos (.inr rfl), if_neg (by simp [hs]), if_neg (by decide), if_neg (by omega)]

theorem regWrite_coalesce (hv : v % 65536 ≠ 0) :
    s.regWrite p 0x028 v = s.modRings p (fun r => { r with irqCount := v % 65536, irqTime := v / 65536 % 65536 }) := by
  unfold State.regWrite
  rw [if_neg (by decide), if_neg (by decide), if_neg (by decide), if_neg (by decide), if_pos rfl, if_neg hv]

theorem sqTail_moves (hv : v < (s.part p).rings.entries)
    (hb : (s.part p).rings.backlog ≤ (v + (s.part p).rings.entries - (s.part p).rings.sqHead) % (s.part p).rings.entries) :
    s.sqTail p v = s.modRings p (fun r => { r with sqTail := v }) := if_neg (by omega)

theorem cqHeadWrite_moves (hv : v < (s.part p).rings.entries)
    (hu : (v + (s.part p).rings.entries - (s.part p).rings.cqHead) % (s.part p).rings.entries ≤
      (s.part p).rings.cqUsed - (s.part p).rings.heldN) :
    s.cqHeadWrite p v = s.modRings p (fun r => { r with
      cqHead := v
      cqUsed := r.cqUsed - (v + (s.part p).rings.entries - (s.part p).rings.cqHead) % (s.part p).rings.entries }) :=
  if_neg (by omega)
end

/-! ### What reads back (R73) -/

section
variable {t : State} {p : Nat}

theorem readBar0_base (h : (t.part p).state ≠ .unassigned) : t.readBar0 p 0x008 = (t.part p).rings.base := by
  simp [State.readBar0, State.readRegister, h]

theorem readBar0_size (h : (t.part p).state ≠ .unassigned) : t.readBar0 p 0x010 = (t.part p).rings.size := by
  simp [State.readBar0, State.readRegister, h]

theorem readBar0_coalesce (h : (t.part p).state ≠ .unassigned) :
    t.readBar0 p 0x028 = (t.part p).rings.irqCount + 65536 * (t.part p).rings.irqTime := by
  simp [State.readBar0, State.readRegister, h]

theorem readBar0_doorbellErr (h : (t.part p).state ≠ .unassigned) : t.readBar0 p 0x02C = (t.part p).rings.doorbellErr := by
  simp [State.readBar0, State.readRegister, h]
end

/-! ### Acknowledgements (R337) -/

/-- An entry that is held stays so as the queue settles, and no other becomes held. -/
theorem settleErr_held (s : State) (e : ErrEntry) : (s.settleErr e).state = 4 ↔ e.state = 4 := by
  unfold State.settleErr
  split
  case isTrue h =>
    obtain ⟨h1, -⟩ := h
    simp [h1]
  case isFalse =>
    split
    case isTrue h =>
      simp only [Bool.and_eq_true, decide_eq_true_eq] at h
      obtain ⟨h2, -⟩ := h
      split <;> simp [h2]
    case isFalse => rfl

/-- No held entry up to sequence v that sel picks is left (R337). -/
theorem ackErrors_releases {s t : State} {v : Nat} {sel : ErrEntry → Bool} (hs : ∀ s e, sel (State.settleErr s e) = sel e)
    (ht : t.errq = (s.ackErrors v sel).settled) :
    ∀ e ∈ t.errq.entries, ¬(e.state = 4 ∧ serialGe v e.seq = true ∧ sel e = true) := by
  intro e he
  rw [ht] at he
  obtain ⟨x, hx, rfl⟩ := List.mem_map.mp he
  obtain ⟨-, hk⟩ := List.mem_filter.mp hx
  obtain ⟨hseq, -⟩ := settle_same (s.ackErrors v sel) x
  rw [settleErr_held, hseq, hs]
  rintro ⟨h1, h2, h3⟩
  simp [h1, h2, h3] at hk

theorem ackErrors_only (s : State) (v : Nat) (sel : ErrEntry → Bool) : onlyChanges [.errq] s (s.ackErrors v sel) :=
  modErr_only s _

/-! ### Host memory (R219) -/

/-- A BAR2 write stores its bytes, counts their lines and marks the partition's state as changed. -/
theorem bar2Write_stores {s : State} {p a : Nat} {bs : List Byte} {ide : Bool} (h : s.takesWrites (p + 1) ide = true)
    (hm : memoryCanonical s) (hi : s.inSlice p a bs.length = true) :
    ∃ t, exec (.bar2Write (p + 1) a bs ide) s = .next t ∧ onlyChanges [.parts, .mem, .hbm, .ctr, .errq, .journal] s t ∧
      stored p a bs s t ∧ (t.part p).rcv.dirty = true := by
  rw [bar2Write_taken h hi]
  have hw := wr_stored s p a bs hm
  have kw := wr_only s p a bs
  have kc : onlyChanges [.ctr] (s.wr p a bs) ((s.wr p a bs).countLines p a bs.length ctrChWritten) :=
    (path_countLines (ks := [.ctr]) _ _ _ _ (by decide) (path_refl _ _)).frame
  generalize (s.wr p a bs).countLines p a bs.length ctrChWritten = u at kc ⊢
  have kr : onlyChanges [.parts] u (u.modRcv p (fun r => { r with dirty := true })) :=
    (path_modRcv (ks := [.parts]) _ _ (by decide) (path_refl _ u)).frame
  have k : onlyChanges [.parts, .mem, .hbm, .ctr] s (u.modRcv p (fun r => { r with dirty := true })) :=
    only_trans (only_mono kw (by decide)) (only_trans (only_mono kc (by decide)) (only_mono kr (by decide)))
  refine ansK k (by decide) (fun t kt _ => ⟨?_, ?_⟩)
  · exact stored_mem hw ((kt .mem (by decide)).trans ((kr .mem (by decide)).trans (kc .mem (by decide))))
  · rw [part_of (kt .parts (by decide)), part_modRcv]

/-- Settles O34: each register by what its write leaves of the rings, then acknowledgements, DOORBELL_ERR and BAR2. -/
theorem hostRegistersTakeTheirWrites : Obligations.HostRegistersTakeTheirWrites := by
  unfold Obligations.HostRegistersTakeTheirWrites
  intro s p v ide h
  obtain ⟨-, -, -, hs⟩ := (takesWrites_iff s p ide).mp h
  refine ⟨fun hi hv => ?base, fun hi h6 h16 => ?size, fun hv => ?coalesce, ⟨fun hv hb => ?tail, fun hv hu => ?head⟩,
    ?ack, ?err, fun a bs => bar2Write_stores h⟩
  case base =>
    obtain ⟨t, e, k, ht⟩ := answers_modRings (bar0RegisterWrite_taken h _ v) (regWrite_base hi hv)
    exact ⟨t, e, k, by rw [ht], by rw [readBar0_base (by rw [ht]; exact hs), ht]⟩
  case size =>
    obtain ⟨t, e, k, ht⟩ := answers_modRings (bar0RegisterWrite_taken h _ v) (regWrite_size hi h6 h16)
    exact ⟨t, e, k, by rw [ht], by rw [readBar0_size (by rw [ht]; exact hs), ht]⟩
  case coalesce =>
    obtain ⟨t, e, k, ht⟩ := answers_modRings (bar0RegisterWrite_taken h _ v) (regWrite_coalesce (s := s) (p := p) hv)
    refine ⟨t, e, k, by rw [ht], by rw [ht], ?_⟩
    rw [readBar0_coalesce (by rw [ht]; exact hs), ht]
    show v % 65536 + 65536 * (v / 65536 % 65536) = v % 4294967296
    omega
  case tail =>
    obtain ⟨t, e, k, ht⟩ := answers_modRings (sqTailDb_taken h v) (sqTail_moves hv hb)
    exact ⟨t, e, k, by rw [ht], by rw [ht]⟩
  case head =>
    obtain ⟨t, e, k, ht⟩ := answers_modRings (cqHeadDb_taken h v) (cqHeadWrite_moves hv hu)
    exact ⟨t, e, k, by rw [ht], by rw [ht]⟩
  case ack =>
    rw [errqAck_taken h]
    refine ansK (ackErrors_only s v _) (by decide) (fun t _ ht e he => ?_)
    have hsel (s : State) (e : ErrEntry) : ((s.settleErr e).part == p) = (e.part == p) := by
      obtain ⟨-, -, hpart, -⟩ := settle_same s e
      rw [hpart]
    have hr := ackErrors_releases hsel ht e he
    simpa only [beq_iff_eq] using hr
  case err =>
    rw [doorbellErr_taken h, readBar0_doorbellErr hs]
    refine ansK (only_trans (only_mono (modRings_only s p _) (by decide)) (only_mono (out_only _ _) (by decide)))
      (ks := [.parts, .outs]) (by decide) (fun t kt _ => ⟨?_, ?_⟩)
    · rw [show t.outs = _ from kt .outs (by decide), out_head]
    · rw [part_of (kt .parts (by decide)), part_out, part_rings]

end Sys2Proof.Proofs.HostRegisters

/-!
SUPPORT. The host lease: how a partition comes back from Host-lost, how it is lost, and the statement of O36 from these.
-/

namespace Sys2Proof.Proofs.HostLease

open Sys2Proof Sys2Proof.Machine Sys2Proof.Safety Sys2Proof.Laws Sys2Proof.Laws.Shared
open Sys2Proof.Proofs.RunControl Sys2Proof.Proofs.HostRegisters

/-! ### The host comes back (R87, R88) -/

/-- Nothing is held once the held completions are published (R87). -/
theorem publish_rings (s : State) (p : Nat) : ∃ g : Rings, (s.publish p).part p = { s.part p with rings := g } ∧
    g.held = false ∧ g.attachStatus = (s.part p).rings.attachStatus := by
  rw [part_publish]
  split
  case isTrue => exact ⟨_, rfl, rfl, rfl⟩
  case isFalse h => exact ⟨(s.part p).rings, rfl, eq_false_of_ne_true h, rfl⟩

/-- Partition p of t runs for a host that has come back (R88). -/
structure resumed (t : State) (p status : Nat) : Prop where
  state : (t.part p).state = .running
  consuming : (t.part p).rings.consuming = true
  held : (t.part p).rings.held = false
  attachStatus : (t.part p).rings.attachStatus = status
  armed : (t.part p).lease.armed = true
  live : (t.part p).lease.state = 1

theorem resumeHost_resumes (s : State) (p : Nat) : resumed (s.resumeHost p) p (s.part p).rings.attachStatus := by
  unfold State.resumeHost
  extract_lets s1 s2 s3
  obtain ⟨g, hg, hheld, hstatus⟩ := publish_rings s p
  obtain ⟨b, h1⟩ : ∃ b, s1.part p = _ := part_arm (s.publish p) p
  have h2 : s2.part p = _ := part_modPart s1 p _
  have h3 : s3.part p = _ := part_rings s2 p _
  obtain ⟨i, h4⟩ := pst ((s3.modLease p (fun l => { l with asSB := false })).syncHeader p) p .running
  rw [part_sync, part_lease, h3, h2, h1, hg] at h4
  exact ⟨by rw [h4], by rw [h4], by rw [h4]; exact hheld, by rw [h4]; exact hstatus, by rw [h4], by rw [h4]⟩

theorem attachResult_part (s : State) (p st : Nat) :
    (s.attachResult p st).part p = { s.part p with rings := { (s.part p).rings with attachStatus := st } } := part_rings s p _

/-- Outside Host-lost an ATTACH answers 0x1101 and leaves the rest (R88). -/
theorem answers_not_lost {s u : State} {p : Nat} {c : Instr} (he : exec c s = answer s u) (hu : u = s.attachResult p 0x1101) :
    ∃ t, exec c s = .next t ∧ onlyChanges [.parts, .errq, .journal] s t ∧ (t.part p).rings.attachStatus = 0x1101 ∧
      (t.part p).state = (s.part p).state := by
  obtain ⟨t, e, k, ht⟩ := answers_modRings he hu
  exact ⟨t, e, k, by rw [ht], by rw [ht]⟩

section
variable {s : State} {p : Nat}

theorem attachResume_resumes (hl : (s.part p).state = .hostLost) (hb : (s.part p).runTo.busy = false) :
    resumed (s.attachResume p) p 0 := by
  have hp := attachResult_part s p 0
  have h := resumeHost_resumes (s.attachResult p 0) p
  rw [hp] at h
  have e : s.attachResume p = (s.attachResult p 0).resumeHost p := by
    unfold State.attachResume
    rw [if_neg (by simp [hl])]
    dsimp only
    rw [if_neg (by rw [hp]; simp [hb])]
  rw [e]
  exact h

/-- A partition that still runs to its stop keeps the resume for its end (R88). -/
theorem attachResume_waits (hl : (s.part p).state = .hostLost) (hb : (s.part p).runTo.busy = true) :
    ((s.attachResume p).part p).state = .hostLost ∧ ((s.attachResume p).part p).lease.state = 3 := by
  have hp := attachResult_part s p 0
  have e : s.attachResume p = ((s.attachResult p 0).modLease p (fun l => { l with state := 3 })).syncHeader p := by
    unfold State.attachResume
    rw [if_neg (by simp [hl])]
    dsimp only
    rw [if_pos (by rw [hp]; exact hb)]
  rw [e, part_sync, part_lease, hp]
  exact ⟨hl, rfl⟩

theorem attachReset_idles (hl : (s.part p).state = .hostLost) : ((s.attachReset p).part p).state = .idle := by
  unfold State.attachReset
  rw [if_neg (by simp [hl])]
  exact (abortPart_idles (s.attachResult p 0) p).1

theorem attachResume_refused (hl : (s.part p).state ≠ .hostLost) : s.attachResume p = s.attachResult p 0x1101 := if_pos hl

theorem attachReset_refused (hl : (s.part p).state ≠ .hostLost) : s.attachReset p = s.attachResult p 0x1101 := if_pos hl
end

/-- Settles O36: what resume and reset leave of a Host-lost partition, and the answer in every other state. -/
theorem hostsComeBackThroughAttach : Obligations.HostsComeBackThroughAttach := by
  unfold Obligations.HostsComeBackThroughAttach
  intro s p ide h
  refine ⟨fun hl => ⟨fun hb => ?resumes, fun hb => ?waits, ?resets⟩, fun hl => ?refused⟩
  case resumes =>
    rw [attachResume_taken h]
    have r := attachResume_resumes hl hb
    refine ansE (fun t kt _ => ?_)
    rw [part_of (kt .parts (by decide))]
    exact ⟨r.state, r.consuming, r.held, r.attachStatus, r.armed, r.live⟩
  case waits =>
    rw [attachResume_taken h]
    have w := attachResume_waits hl hb
    exact ansE (fun t kt _ => by rw [part_of (kt .parts (by decide))]; exact w)
  case resets =>
    rw [attachReset_taken h]
    have i := attachReset_idles hl
    exact ansE (fun t kt _ => by rw [part_of (kt .parts (by decide))]; exact i)
  case refused =>
    simp only [List.forall_mem_cons]
    exact ⟨answers_not_lost (attachResume_taken h) (attachResume_refused hl),
      answers_not_lost (attachReset_taken h) (attachReset_refused hl), fun _ hc => absurd hc List.not_mem_nil⟩

/-! ### The host is lost (R85, R86) -/

/-- A lease that is not armed is not lost. -/
theorem loseLease_unarmed {s : State} {p : Nat} (c : Nat) (h : (s.part p).lease.armed = false) : s.loseLease p c = s :=
  if_pos (.inl (by rw [h]; rfl))

/-- The lease of s as a loss for a cause leaves it. -/
def lostLease (s : State) (p cause : Nat) : Lease :=
  { (s.part p).lease with
    armed := false, state := 2, cause := cause, expiredAt := s.now, lostTick := s.time.ticks, lostSachet := 0, lostEpoch := 0 }

/-- From s to t partition p lost its host for a cause: it is Host-lost and holds its completions, 0x3108 is queued, and no
other partition has changed. -/
structure losesHost (s t : State) (p cause : Nat) : Prop where
  state : (t.part p).state = .hostLost
  lease : (t.part p).lease = lostLease s p cause
  held : (t.part p).rings.held = true
  consuming : (t.part p).rings.consuming = false
  recorded : queued s t { status := 0x3108, part := p }
  others : ∀ q, q ≠ p → t.part q = s.part q
  frame : onlyChanges [.parts, .mem, .hbm, .errq, .outs, .boot, .tfb] s t

theorem partEpoch_of {s t : State} {p : Nat} (h : (t.part p).fences = (s.part p).fences) : t.partEpoch p = s.partEpoch p := by
  unfold State.partEpoch
  rw [h]

/-- What a partition waits for when its host is lost: an SL partition goes on, another one has lists to end (R86). -/
def goesOnUnhosted (s : State) (p : Nat) : Prop :=
  (s.part p).mode = 2 ∧ (s.part p).runTo = .none ∨ (s.part p).mode ≠ 2 ∧ (s.part p).lists ≠ []

/-- s with the lease of partition p lost, its completions held and the loss queued (R85, R87). -/
def leaseGone (s : State) (p cause : Nat) : State :=
  let u := (s.modLease p (fun l => { l with
    armed := false, state := 2, cause := cause, expiredAt := s.now, lostTick := s.time.ticks, lostSachet := 0, lostEpoch := 0 })).modRings
      p (fun r => { r with held := true })
  u.raise { status := 0x3108, part := p, detail := le 1 cause ++ zeros 7 ++ le 8 u.now }

/-- s with the Running partition p, of a mode, in Host-lost: an SL partition goes on, another one runs to its barrier (R86). -/
def hostGone (mode : Nat) (s : State) (p : Nat) : State :=
  let u := (s.modRings p (fun r => { r with consuming := false })).setPState p .hostLost
  (if mode = 2 then u else u.setRunTo p (.barrier (u.partEpoch p))).syncHeader p

theorem loseLease_running {s : State} {p : Nat} (cause : Nat) (ha : (s.part p).lease.armed = true)
    (h1 : (s.part p).lease.state = 1) (hr : (s.part p).state = .running) :
    s.loseLease p cause = (hostGone (s.part p).mode (leaseGone s p cause) p).progress p := by
  unfold State.loseLease
  rw [if_neg (by simp [ha, h1, hr])]
  extract_lets s1 s2 s3 s4 s5
  rw [if_neg (by simp [hr])]
  rfl

theorem leaseGone_spec {s : State} {p : Nat} (cause : Nat) (hroom : roomFor s { status := 0x3108, part := p }) :
    (leaseGone s p cause).part p =
        { s.part p with lease := lostLease s p cause, rings := { (s.part p).rings with held := true } } ∧
      (∀ q, q ≠ p → (leaseGone s p cause).part q = s.part q) ∧
      queued s (leaseGone s p cause) { status := 0x3108, part := p } ∧
      onlyChanges [.parts, .errq, .outs, .boot, .tfb] s (leaseGone s p cause) := by
  unfold leaseGone
  extract_lets u
  have hp : u.part p = { s.part p with lease := lostLease s p cause, rings := { (s.part p).rings with held := true } } := by
    rw [show u.part p = _ from part_rings _ p _, part_lease]
    rfl
  have ho (q : Nat) (hq : q ≠ p) : u.part q = s.part q :=
    (part_modPart_other _ p q _ hq).trans (part_modPart_other s p q _ hq)
  have k : onlyChanges [.parts] s u := (path_modRings (ks := [.parts]) p _ (by decide) (path_modLease p _ (by decide) (path_refl _ s))).frame
  have hstate (q : Nat) : (u.part q).state = (s.part q).state := by
    by_cases hq : q = p
    · rw [hq, hp]
    · rw [ho q hq]
  clear_value u
  obtain ⟨kr, hrec⟩ := raise_room (s := u) (e := { status := 0x3108, part := p, detail := le 1 cause ++ zeros 7 ++ le 8 u.now })
    (room_of hroom (k .errq (by decide)) (fun q _ => hstate q))
  rw [show u.errq = s.errq from k .errq (by decide)] at hrec
  have e (q : Nat) := part_of (kr .parts (by decide)) q
  exact ⟨(e p).trans hp, fun q hq => (e q).trans (ho q hq), hrec, only_trans (only_mono k (by decide)) (only_mono kr (by decide))⟩

theorem hostGone_part (mode : Nat) (s : State) (p : Nat) : ∃ i r, (hostGone mode s p).part p =
      { s.part p with rings := { (s.part p).rings with consuming := false }, state := .hostLost, idleTick := i, runTo := r } ∧
    r = if mode = 2 then (s.part p).runTo else .barrier (s.partEpoch p) := by
  unfold hostGone
  extract_lets u
  obtain ⟨i, hu⟩ : ∃ i, u.part p = _ := pst (s.modRings p (fun r => { r with consuming := false })) p .hostLost
  rw [part_rings] at hu
  have he : u.partEpoch p = s.partEpoch p := partEpoch_of (by rw [hu])
  clear_value u
  rw [part_sync]
  split
  · exact ⟨i, _, hu, rfl⟩
  · exact ⟨i, _, by rw [part_setRunTo, hu], by rw [he]⟩

theorem hostGone_other (mode : Nat) (s : State) {p q : Nat} (hq : q ≠ p) : (hostGone mode s p).part q = s.part q := by
  unfold hostGone
  extract_lets u
  have hu : u.part q = s.part q := (setPState_part_other _ p q _ hq).trans (part_modPart_other s p q _ hq)
  clear_value u
  rw [part_sync]
  split
  · exact hu
  · exact (part_modPart_other u p q _ hq).trans hu

theorem hostGone_only (mode : Nat) (s : State) (p : Nat) : onlyChanges [.parts, .mem, .hbm, .outs] s (hostGone mode s p) := by
  unfold hostGone
  extract_lets u
  have k : Path [.parts, .mem, .hbm, .outs] s u :=
    path_setPState p .hostLost (by decide) (path_modRings p _ (by decide) (path_refl _ s))
  exact (path_syncHeader p (by decide) (path_ite (fun _ => k) (fun _ => path_modPart p _ (by decide) k))).frame

/-- A Running partition that loses its host goes on or runs to its barrier, and waits there for no stream. -/
theorem loseLease_loses {s : State} {p : Nat} (cause : Nat) (ha : (s.part p).lease.armed = true)
    (h1 : (s.part p).lease.state = 1) (hr : (s.part p).state = .running) (hb : s.boundStreams p = [])
    (hg : goesOnUnhosted s p) (hroom : roomFor s { status := 0x3108, part := p }) :
    losesHost s (s.loseLease p cause) p cause := by
  rw [loseLease_running cause ha h1 hr]
  obtain ⟨hl, hlo, hq, kl⟩ := leaseGone_spec cause hroom
  generalize leaseGone s p cause = u at hl hlo hq kl
  obtain ⟨i, r, hp, hrun⟩ := hostGone_part (s.part p).mode u p
  have ho (q : Nat) (hne : q ≠ p) := hostGone_other (s.part p).mode u hne
  have kh := hostGone_only (s.part p).mode u p
  generalize hostGone (s.part p).mode u p = v at hp ho kh
  rw [hl] at hp hrun
  have hepoch : v.partEpoch p = u.partEpoch p := partEpoch_of (by rw [hp, hl])
  have hrest : v.progress p = v := by
    refine stillLost (by rw [hp]) ((bound_of (kh .streams (by decide)) p).trans ((bound_of (kl .streams (by decide)) p).trans hb)) ?_
    rw [hp, hepoch]
    rcases hg with ⟨hm, hn⟩ | ⟨hm, hx⟩
    · exact .inl (hrun.trans ((if_pos hm).trans hn))
    · exact .inr ⟨hrun.trans (if_neg hm), hx⟩
  have herr : v.errq = u.errq := kh .errq (by decide)
  rw [hrest]
  exact ⟨by rw [hp], by rw [hp], by rw [hp], by rw [hp], by unfold queued at hq ⊢; rwa [herr],
    fun q hne => (ho q hne).trans (hlo q hne), only_trans (only_mono kl (by decide)) (only_mono kh (by decide))⟩

/-- The entry of the loss stands in the queue of an answer that has settled it. -/
theorem queued_of_settled {s u t : State} {e : ErrSpec} (h : queued s u e) (ht : t.errq = u.settled) : queued s t e :=
  queued_settled (x := u) h t ht

end Sys2Proof.Proofs.HostLease

/-!
SUPPORT. Links and buses: what the loss of the host link and a function's reset leave, what the I3C target changes and sends, and
the statement of O57 from these.
-/

namespace Sys2Proof.Proofs.LinksAndBuses

open Sys2Proof Sys2Proof.Machine Sys2Proof.Safety Sys2Proof.Laws Sys2Proof.Laws.Shared
open Sys2Proof.Proofs.HostRegisters Sys2Proof.Proofs.HostLease

/-! ### Commands that change one piece of state -/

theorem answers_same {s u : State} {c : Instr} (he : exec c s = answer s u) (hu : u = s) :
    ∃ t, exec c s = .next t ∧ onlyChanges [.errq, .journal] s t := by
  subst hu
  obtain ⟨t, e, k, -⟩ := ansK (P := fun _ => True) (only_refl [] u) (ls := [.errq, .journal]) (by decide) (fun _ _ _ => trivial)
  exact ⟨t, he.trans e, k⟩

theorem answers_caddy {s u : State} {c : Instr} {v : Caddy} (he : exec c s = answer s u) (hu : u = { s with caddy := v }) :
    ∃ t, exec c s = .next t ∧ onlyChanges [.caddy, .errq, .journal] s t ∧ t.caddy = v := by
  subst hu
  rw [he]
  exact ansK (path_set_caddy (ks := [.caddy]) v (by decide) (path_refl _ s)).frame (by decide) (fun t kt _ => kt .caddy (by decide))

theorem answers_modBus {s u : State} {c : Instr} {f : Bus → Bus} (he : exec c s = answer s u) (hu : u = s.modBus f) :
    ∃ t, exec c s = .next t ∧ onlyChanges [.bus, .errq, .journal] s t ∧ t.bus = f s.bus := by
  subst hu
  rw [he]
  exact ansK (path_set_bus (ks := [.bus]) (f s.bus) (by decide) (path_refl _ s)).frame (by decide) (fun t kt _ => kt .bus (by decide))

theorem answers_out {s u : State} {c : Instr} {o : Out} (he : exec c s = answer s u) (hu : u = s.out o) :
    ∃ t, exec c s = .next t ∧ onlyChanges [.outs, .errq, .journal] s t ∧ t.outs.head? = some o := by
  subst hu
  rw [he]
  exact ansK (out_only s o) (by decide) (fun t kt _ => by rw [show t.outs = _ from kt .outs (by decide), out_head])

/-! ### The host link (R85, R86, R434) -/

/-- A link loss costs one lease where one partition's lease alone is armed. -/
theorem foldl_loseLease_one {s : State} {p c : Nat} {l : List Nat} (hl : l.Nodup) (hp : p ∈ l)
    (ho : ∀ q ∈ l, q ≠ p → (s.part q).lease.armed = false) (hk : ∀ q, q ≠ p → (s.loseLease p c).part q = s.part q) :
    l.foldl (fun s p => s.loseLease p c) s = s.loseLease p c := by
  obtain ⟨before, after, rfl⟩ := List.append_of_mem hp
  rw [List.nodup_append, List.nodup_cons] at hl
  obtain ⟨-, ⟨hafter, -⟩, hbefore⟩ := hl
  have h1 : before.foldl (fun s p => s.loseLease p c) s = s := foldl_id _ _ _ (fun q hq =>
    loseLease_unarmed c (ho q (by simp [hq]) (hbefore q hq p (by simp))))
  have h2 : after.foldl (fun s p => s.loseLease p c) (s.loseLease p c) = s.loseLease p c := foldl_id _ _ _ (fun q hq => by
    have hne : q ≠ p := fun e => hafter (e ▸ hq)
    exact loseLease_unarmed c (by rw [hk q hne]; exact ho q (by simp [hq]) hne))
  rw [List.foldl_append, h1, List.foldl_cons, h2]

/-- With no lease armed a link loss discards the Caddy response alone. -/
theorem linkDown_unarmed {s : State} (h : ∀ p < 4, (s.part p).lease.armed = false) :
    ∃ t, exec .linkDown s = .next t ∧ onlyChanges [.caddy, .errq, .journal] s t ∧
      t.caddy = { s.caddy with ready := false, discard := s.caddy.busy } :=
  answers_caddy (u := partNumbers.foldl (fun s p => s.loseLease p 2) s.dropResponse) rfl
    (foldl_id _ _ _ (fun p hp => loseLease_unarmed 2 (h p (by revert hp; unfold partNumbers; simp; omega))))

/-- The registers of a partition function after its reset (R434). -/
def resetRings (r : Rings) : Rings := { r with irqCount := 1, irqTime := 0, attachStatus := 0, doorbellErr := 0 }

theorem functionReset_runs {p : Nat} (hp : p < 4) (s : State) :
    exec (.functionReset (p + 1)) s = answer s ((s.loseLease p 3).modRings p resetRings) :=
  congrArg (answer s) (if_neg (by omega))

section
variable {s : State} {p : Nat} (ha : (s.part p).lease.armed = true) (h1 : (s.part p).lease.state = 1)
  (hr : (s.part p).state = .running) (hb : s.boundStreams p = []) (hg : goesOnUnhosted s p)
  (hroom : roomFor s { status := 0x3108, part := p })
include ha h1 hr hb hg hroom

theorem functionReset_loses (hp : p < 4) : ∃ t, exec (.functionReset (p + 1)) s = .next t ∧ (t.part p).state = .hostLost ∧
    (t.part p).lease.armed = false ∧ (t.part p).lease.cause = 3 ∧ (t.part p).rings.irqCount = 1 ∧
    (t.part p).rings.held = true ∧ (t.part p).rings.consuming = false ∧ queued s t { status := 0x3108, part := p } := by
  rw [functionReset_runs hp]
  have l := loseLease_loses 3 ha h1 hr hb hg hroom
  generalize s.loseLease p 3 = u at l ⊢
  refine ansE (fun t kt ht => ?_)
  have hrec : queued s t { status := 0x3108, part := p } := queued_of_settled (u := u.modRings p resetRings) l.recorded ht
  have e : t.part p = { u.part p with rings := resetRings (u.part p).rings } :=
    (part_of (kt .parts (by decide)) p).trans (part_rings u p _)
  rw [e]
  exact ⟨l.state, by rw [l.lease]; rfl, by rw [l.lease]; rfl, rfl, l.held, l.consuming, hrec⟩

theorem linkDown_loses (hp : p < 4) (ho : ∀ q < 4, q ≠ p → (s.part q).lease.armed = false) :
    ∃ t, exec .linkDown s = .next t ∧ (t.part p).state = .hostLost ∧ (t.part p).lease.armed = false ∧
      (t.part p).lease.cause = 2 ∧ (t.part p).rings.held = true ∧ (t.part p).rings.consuming = false ∧
      t.caddy.ready = false ∧ queued s t { status := 0x3108, part := p } := by
  have l : losesHost s.dropResponse (s.dropResponse.loseLease p 2) p 2 := loseLease_loses (s := s.dropResponse) 2 ha h1 hr hb hg hroom
  have mem (q : Nat) : q ∈ partNumbers ↔ q < 4 := by unfold partNumbers; simp; omega
  have e : exec .linkDown s = answer s (s.dropResponse.loseLease p 2) :=
    congrArg (answer s) (foldl_loseLease_one (by decide) ((mem p).mpr hp) (fun q hq => ho q ((mem q).mp hq)) l.others)
  rw [e]
  refine ansE (fun t kt ht => ?_)
  have hrec : queued s t { status := 0x3108, part := p } := queued_of_settled l.recorded ht
  have hcaddy : t.caddy = s.dropResponse.caddy := (kt .caddy (by decide)).trans (l.frame .caddy (by decide))
  rw [part_of (kt .parts (by decide))]
  exact ⟨l.state, by rw [l.lease]; rfl, by rw [l.lease]; rfl, l.held, l.consuming, by rw [hcaddy]; rfl, hrec⟩
end

/-! ### Event masks (R457) -/

/-- An event stays enabled where the mask does not name it. -/
theorem testBit_disabled (x a : Nat) {k : Nat} (hk : k < 8) :
    (x &&& (255 - a % 256)).testBit k = (x.testBit k && !a.testBit k) := by
  have hmask : (255 - a % 256).testBit k = !(a % 256).testBit k := by
    have h := Nat.testBit_two_pow_sub_succ (n := 8) (Nat.mod_lt a (by decide : 0 < 2 ^ 8)) k
    rw [show 2 ^ 8 - (a % 2 ^ 8 + 1) = 255 - a % 256 by omega] at h
    simpa [hk] using h
  have hlow : (a % 256).testBit k = a.testBit k := by simpa [hk] using Nat.testBit_mod_two_pow a 8 k
  rw [Nat.testBit_and, hmask, hlow]

/-! ### The I3C target and the segment (R456, R457) -/

section
variable {s : State} (h : s.boot.power ≠ 0)
include h

theorem i3c_powered (f : State → State) : s.i3c f = f s := if_neg h

theorem target_changes {c : Instr} {f : Bus → Bus} (he : exec c s = answer s (s.i3c (fun s => s.modBus f))) :
    ∃ t, exec c s = .next t ∧ onlyChanges [.bus, .errq, .journal] s t ∧ t.bus = f s.bus :=
  answers_modBus he (i3c_powered h _)

/-- A target without a dynamic address takes one and answers with its identity. -/
theorem entdaa_takes (a : Nat) (h0 : s.bus.addr = 0) :
    ∃ t, exec (.entdaa a) s = .next t ∧ onlyChanges [.bus, .outs, .errq, .journal] s t ∧
      t.bus = { s.bus with addr := a % 128 } ∧
      t.outs.head? = some (.i3c 0x07 (Config.i3cPid ++ [Config.i3cBcr, Config.i3cDcr])) := by
  have e : exec (.entdaa a) s = answer s ((s.modBus (fun b => { b with addr := a % 128 })).out
      (.i3c 0x07 (Config.i3cPid ++ [Config.i3cBcr, Config.i3cDcr]))) :=
    congrArg (answer s) ((i3c_powered h _).trans (if_neg (by simp [h0])))
  rw [e]
  refine ansK (ks := [.bus, .outs]) (path_out _ (by decide) (path_set_bus _ (by decide) (path_refl _ s))).frame (by decide)
    (fun t kt _ => ⟨kt .bus (by decide), ?_⟩)
  rw [show t.outs = _ from kt .outs (by decide), out_head]

theorem entdaa_addressed (a : Nat) (h0 : s.bus.addr ≠ 0) :
    ∃ t, exec (.entdaa a) s = .next t ∧ onlyChanges [.errq, .journal] s t :=
  answers_same (u := s.i3c _) rfl ((i3c_powered h _).trans (if_pos h0))

/-- What the target answers with: its identity and its limits. -/
theorem i3c_answers : ∀ m ∈ [(Instr.getpid, 0x8D, Config.i3cPid), (.getbcr, 0x8E, [Config.i3cBcr]), (.getdcr, 0x8F, [Config.i3cDcr]),
      (.getmwl, 0x8B, be 2 s.bus.mwl), (.getmrl, 0x8C, be 2 s.bus.mrl)],
    ∃ t, exec m.1 s = .next t ∧ onlyChanges [.outs, .errq, .journal] s t ∧ t.outs.head? = some (.i3c m.2.1 m.2.2) := by
  simp only [List.forall_mem_cons]
  have sends {c : Instr} {o : Out} (he : exec c s = answer s (s.i3c (fun s => s.out o))) := answers_out he (i3c_powered h _)
  exact ⟨sends rfl, sends rfl, sends rfl, answers_out rfl (i3c_powered h _), answers_out rfl (i3c_powered h _),
    fun _ hm => absurd hm List.not_mem_nil⟩
end

/-- Settles O57: the link and the function resets by what they leave of a lease, then each command of the target. -/
theorem linksAndBusesAnswer : Obligations.LinksAndBusesAnswer := by
  unfold Obligations.LinksAndBusesAnswer
  intro s
  refine ⟨linkDown_unarmed, answers_caddy rfl rfl, fun p hp => ⟨fun ha => ?reset, fun ha h1 hr hb hg hroom => ?lost⟩,
    fun h a => ⟨entdaa_takes h a, entdaa_addressed h a, ?setdasa, ?rstdaa, i3c_answers h, ?setmwl, ?enec, ?disec, ?beacon⟩,
    fun h => answers_modBus (f := fun b => { b with beacons := false }) rfl (if_pos h), fun h => answers_same rfl (if_neg (by omega))⟩
  case reset =>
    obtain ⟨t, e, k, ht⟩ := answers_modRings (functionReset_runs hp s) (by rw [loseLease_unarmed 3 ha])
    exact ⟨t, e, k, by rw [ht]; rfl⟩
  case lost => exact ⟨functionReset_loses ha h1 hr hb hg hroom hp, linkDown_loses ha h1 hr hb hg hroom hp⟩
  case setdasa => exact target_changes (f := fun b => { b with addr := a % 128 }) h rfl
  case rstdaa => exact target_changes (f := fun b => { b with addr := 0 }) h rfl
  case setmwl => exact target_changes (f := fun b => { b with mwl := a % 65536 }) h rfl
  case enec =>
    obtain ⟨t, e, k, ht⟩ := target_changes (c := .enec a) h rfl
    exact ⟨t, e, k, fun i => by rw [ht, Nat.testBit_or]⟩
  case disec =>
    obtain ⟨t, e, k, ht⟩ := target_changes (c := .disec a) h rfl
    exact ⟨t, e, k, fun i hi => by rw [ht, testBit_disabled _ _ hi]⟩
  case beacon => exact target_changes (f := fun b => { b with beacons := true, beaconTick := s.time.ticks }) h rfl

end Sys2Proof.Proofs.LinksAndBuses

/-!
SUPPORT. Scheduler timers: what a missed deadline, a stalled barrier, a heartbeat, an orphaned partition and the next tick of a
schedule leave, and the statement of O39 from these.
-/

namespace Sys2Proof.Proofs.SchedulerTimers

open Sys2Proof Sys2Proof.Machine Sys2Proof.Safety Sys2Proof.Laws Sys2Proof.Laws.Shared
open Sys2Proof.Proofs.RunControl Sys2Proof.Proofs.HostLease Sys2Proof.Proofs.LinksAndBuses

/-! ### Deadlines (R78) -/

/-- A list past its deadline is answered; its commands go on (R78). -/
theorem deadlineMiss_answers {s : State} {p lane : Nat} {x : ListRec}
    (hf : (s.part p).lists.find? (fun y => y.lane == lane && y.missed s.now) = some x) (hx : s.list p x.id = some x) :
    ∃ t, exec (.deadlineMiss p lane) s = .next t ∧ onlyChanges [.parts, .mem, .hbm, .outs, .errq, .journal] s t ∧
      (t.list p x.id).map (fun y => y.answered) = some true ∧
      (t.part p).rings.cqHeldTail = ((s.part p).rings.cqHeldTail + 1) % (s.part p).rings.entries := by
  have e : exec (.deadlineMiss p lane) s = answer s (s.missList p x) := by
    show execDeadlineMiss p lane s = _
    unfold execDeadlineMiss
    rw [hf]
  have k : onlyChanges [.parts, .mem, .hbm, .outs] s (s.missList p x) :=
    (path_missList (ks := [.parts, .mem, .hbm, .outs]) p x (by decide) (path_refl _ s)).frame
  obtain ⟨g, hp, htail, -⟩ : ∃ g : Rings, (s.missList p x).part p = _ ∧ _ := answer_part s p x 0x3101 _
  rw [e]
  refine ansK k (by decide) (fun t kt _ => ?_)
  have ht : t.part p = (s.missList p x).part p := part_of (kt .parts (by decide)) p
  refine ⟨?_, by rw [ht, hp]; exact htail⟩
  unfold State.list at hx ⊢
  rw [ht, hp]
  dsimp only
  rw [list_find_map _ x.id (fun y => { y with answered := true }) (fun _ => rfl), hx]
  rfl

/-! ### Barriers that stay open (R106) -/

/-- The watchdog reports the epoch once, and queues 0x3102. -/
theorem reportStall_queued {s : State} {p kind e : Nat} (hr : roomFor s { status := 0x3102, part := p }) :
    queued s (s.reportStall p kind e) { status := 0x3102, part := p } ∧
      (scopeKey kind 0, e) ∈ ((s.reportStall p kind e).part p).fences.reported := by
  unfold State.reportStall
  extract_lets cs recs six u
  have hroom : roomFor u { status := 0x3102, part := p } :=
    room_of hr rfl (fun q _ => mod_state s p q _ (fun _ => rfl))
  obtain ⟨k, hq⟩ := raise_room (s := u)
    (e := { status := 0x3102, part := p, ref := (six.head?.map (fun x => field x.2.2 8 8)).getD 0
            detail := le 1 kind ++ zeros 1 ++ le 2 (if kind = 5 then u.group p else p) ++ le 4 e ++ le 4 cs.length ++
              six.flatMap (fun x => x.2.2.take 8) }) hroom
  refine ⟨hq, ?_⟩
  rw [part_of (k .parts (by decide)), show u.part p = _ from part_modPart s p _]
  exact List.mem_cons_self

theorem barrierStalled_reports {s : State} {p kind e : Nat} (h3 : 3 ≤ kind) (h5 : kind ≤ 5) (hv : s.valNat 0x6010 1 ≠ 0)
    (hw : (s.part p).state.works = true) (hf : (s.waitedEpochs p kind).find? (fun e => s.stalled p kind e) = some e)
    (hr : roomFor s { status := 0x3102, part := p }) :
    ∃ t, exec (.barrierStalled p kind) s = .next t ∧ queued s t { status := 0x3102, part := p } ∧
      (scopeKey kind 0, e) ∈ (t.part p).fences.reported := by
  have he : exec (.barrierStalled p kind) s = answer s (s.reportStall p kind e) := by
    refine congrArg (answer s) ((if_pos ⟨h3, h5, hv, hw⟩).trans ?_)
    rw [hf]
  obtain ⟨hq, hrep⟩ := reportStall_queued (kind := kind) (e := e) hr
  rw [he]
  exact ansE (fun t kt ht => ⟨queued_of_settled hq ht, by rw [part_of (kt .parts (by decide))]; exact hrep⟩)

/-! ### The heartbeat and the lease (R85, R86) -/

/-- The heartbeat field of partition p as it stands (R76). -/
def beatOf (s : State) (p : Nat) : Nat := s.rdNat p ((s.part p).rings.base + 0x18) 8

section
variable {s : State} {p : Nat}

theorem sampleHeartbeat_changed (ha : (s.part p).lease.armed = true) (h1 : (s.part p).lease.state = 1)
    (hb : beatOf s p ≠ (s.part p).lease.lastBeat) : (s.sampleHeartbeat p).part p =
      { s.part p with
        lease := { (s.part p).lease with lastBeat := beatOf s p, seen := s.now, seenTick := s.time.ticks }
        leaseMs := s.pval p 0x10 6 } := by
  unfold beatOf at hb ⊢
  unfold State.sampleHeartbeat
  extract_lets l beat u
  rw [if_neg (by simp [l, beat, ha, h1, hb]), part_sync, part_modPart, show u.part p = _ from part_lease s p _]
  rfl

theorem sampleHeartbeat_same (hb : beatOf s p = (s.part p).lease.lastBeat) : s.sampleHeartbeat p = s := if_pos (.inr (.inr hb))

theorem heartbeatSample_renews (ha : (s.part p).lease.armed = true) (h1 : (s.part p).lease.state = 1)
    (hb : beatOf s p ≠ (s.part p).lease.lastBeat) :
    ∃ t, exec (.heartbeatSample p) s = .next t ∧ onlyChanges [.parts, .mem, .hbm, .errq, .journal] s t ∧
      (t.part p).lease.lastBeat = beatOf s p ∧ (t.part p).lease.seen = s.now ∧ (t.part p).lease.seenTick = s.time.ticks ∧
      (t.part p).leaseMs = s.pval p 0x10 6 := by
  have e := sampleHeartbeat_changed ha h1 hb
  refine ansK (path_sampleHeartbeat (ks := [.parts, .mem, .hbm]) p (by decide) (path_refl _ s)).frame (by decide) (fun t kt _ => ?_)
  rw [part_of (kt .parts (by decide)), e]
  exact ⟨rfl, rfl, rfl, rfl⟩

/-- A host that stays silent for its timeout loses the partition. -/
theorem hostLeaseExpired_loses (ha : (s.part p).lease.armed = true) (h1 : (s.part p).lease.state = 1)
    (hb : beatOf s p = (s.part p).lease.lastBeat) (hr : (s.part p).state = .running) (hs : s.boundStreams p = [])
    (ht : (s.part p).lease.seenTick + (s.part p).leaseMs * Config.ticksPerMs ≤ s.time.ticks) (hg : goesOnUnhosted s p)
    (hroom : roomFor s { status := 0x3108, part := p }) :
    ∃ t, exec (.hostLeaseExpired p) s = .next t ∧ queued s t { status := 0x3108, part := p } ∧
      (t.part p).state = .hostLost ∧ (t.part p).lease.state = 2 ∧ (t.part p).lease.armed = false ∧
      (t.part p).rings.held = true ∧ (t.part p).rings.consuming = false := by
  have e : exec (.hostLeaseExpired p) s = answer s (s.loseLease p 1) := by
    show execHostLeaseExpired p s = _
    unfold execHostLeaseExpired
    rw [sampleHeartbeat_same hb, if_pos ht]
  have l := loseLease_loses 1 ha h1 hr hs hg hroom
  rw [e]
  refine ansE (fun t kt hq => ⟨queued_of_settled l.recorded hq, ?_⟩)
  rw [part_of (kt .parts (by decide))]
  exact ⟨l.state, by rw [l.lease]; rfl, by rw [l.lease]; rfl, l.held, l.consuming⟩

/-- A Host-lost partition with open lists and no stream waits for its next barrier. -/
theorem setRunTo_rests (hl : (s.part p).state = .hostLost) (hb : s.boundStreams p = []) (hx : (s.part p).lists ≠ []) :
    (s.setRunTo p (.barrier (s.partEpoch p))).progress p = s.setRunTo p (.barrier (s.partEpoch p)) := by
  have hv := part_setRunTo s p (.barrier (s.partEpoch p))
  have he : (s.setRunTo p (.barrier (s.partEpoch p))).partEpoch p = s.partEpoch p := partEpoch_of (by rw [hv])
  exact stillLost (by rw [hv]; exact hl) ((bound_of rfl p).trans hb) (.inr ⟨by rw [he, hv], by rw [hv]; exact hx⟩)

/-- An orphaned SL partition with no stream to close goes on as SB, to its next barrier. -/
theorem orphanServing_goes_on (hl : (s.part p).state = .hostLost) (hm : (s.part p).mode = 2) (hs : (s.part p).lease.asSB = false)
    (ht : (s.part p).lease.lostTick + s.pval p 0x10 7 * Config.ticksPerMs ≤ s.time.ticks) (hb : s.boundStreams p = [])
    (hx : (s.part p).lists ≠ []) :
    ∃ t, exec (.orphanServingTimeout p) s = .next t ∧ (t.part p).state = .hostLost ∧ (t.part p).lease.asSB = true ∧
      (t.part p).runTo = .barrier (s.partEpoch p) := by
  have hu : (s.modLease p (fun l => { l with asSB := true })).part p = { s.part p with lease := { (s.part p).lease with asSB := true } } :=
    part_lease s p _
  have hub : (s.modLease p (fun l => { l with asSB := true })).boundStreams p = [] := (bound_of rfl p).trans hb
  have e : exec (.orphanServingTimeout p) s = answer s (((s.modLease p (fun l => { l with asSB := true })).setRunTo p
      (.barrier ((s.modLease p (fun l => { l with asSB := true })).partEpoch p))).progress p) := by
    refine congrArg (answer s) ((if_pos ⟨hl, hm, by simp [hs], ht⟩).trans ?_)
    dsimp only
    rw [closingStreams_unbound hub]
  have hue : (s.modLease p (fun l => { l with asSB := true })).partEpoch p = s.partEpoch p := partEpoch_of (by rw [hu])
  rw [e, setRunTo_rests (by rw [hu]; exact hl) hub (by rw [hu]; exact hx), hue]
  refine ansE (fun t kt _ => ?_)
  rw [part_of (kt .parts (by decide)), part_setRunTo, hu]
  exact ⟨hl, rfl, rfl⟩
end

/-! ### Interrupt coalescing (R73) -/

/-- Completions that waited their time are signalled. -/
theorem irqTimer_signals {s : State} {p : Nat} (ht : 0 < (s.part p).rings.irqTime) (hp : 0 < (s.part p).rings.irqPending)
    (hf : (s.part p).rings.irqFirst + (s.part p).rings.irqTime * Config.ticksPerUs ≤ s.time.ticks) :
    ∃ t, exec (.irqCoalesceTimer p) s = .next t ∧ onlyChanges [.parts, .outs, .errq, .journal] s t ∧
      t.outs.head? = some (.msix (p + 1) 0) ∧ (t.part p).rings.irqPending = 0 := by
  have e : exec (.irqCoalesceTimer p) s = answer s (s.signalCompletions p) := congrArg (answer s) (if_pos ⟨ht, hp, hf⟩)
  rw [e]
  refine ansK (path_signalCompletions (ks := [.parts, .outs]) p (by decide) (path_refl _ s)).frame (by decide) (fun t kt _ => ⟨?_, ?_⟩)
  · rw [show t.outs = _ from kt .outs (by decide)]
    exact out_head _ _
  · rw [part_of (kt .parts (by decide)), part_signal]

/-! ### Schedule runs (R298) -/

/-- Handing commands to their queues leaves what a list holds beside its commands. -/
theorem map_list_dealList {α : Type} {g : ListRec → α} (hg : ∀ y, g { y with cmds := [] } = g y) (s : State) (p l : Nat)
    (x : ListRec) (sel : Cmd → Bool) : ((s.dealList p x sel).list p l).map g = (s.list p l).map g := by
  have h := congrArg (Option.map g) (shell_list (shell_deal s p x sel) l)
  rw [Option.map_map, Option.map_map, show g ∘ (fun y => { y with cmds := [] }) = g from funext hg] at h
  exact h

theorem dealList_only (s : State) (p : Nat) (x : ListRec) (sel : Cmd → Bool) : onlyChanges [.parts, .queues] s (s.dealList p x sel) :=
  (path_dealList (ks := [.parts, .queues]) p x sel (by decide) (path_refl _ s)).frame

theorem modList_only (s : State) (p l : Nat) (f : ListRec → ListRec) : onlyChanges [.parts] s (s.modList p l f) :=
  (path_modList (ks := [.parts]) p l f (by decide) (path_refl _ s)).frame

/-- s with the parameter block of list x written and its next tick begun and counted (R298). -/
def tickBegun (s : State) (p : Nat) (x : ListRec) (ws : List Nat) : State :=
  ((s.store p x.param (ws.flatMap (le 4))).modList p x.id (fun y => { y with tick := y.tick + 1 })).count
    (partCounters p) ctrSchedTicks 1

section
variable {s : State} {p lane : Nat} {x : ListRec} {ws : List Nat}

theorem nextTick_begins (hf : (s.part p).lists.find? (fun y => y.lane == lane && y.active && !y.abandoned && !y.ticks.isEmpty) = some x)
    (hw : (x.ticks[x.tick]?).map (·.2) = some ws) (hl : (s.part p).state ≠ .hostLost) (hc : (s.part p).rcv.capture = none)
    (hd : ∀ c ∈ x.cmds.take x.started, c.st ≠ .held ∧ c.st ≠ .queued ∧ failed c.status = false) :
    ∃ y, s.nextTick p lane = (tickBegun s p x ws).dealList p y (fun _ => true) := by
  obtain ⟨⟨n, ws'⟩, ht, rfl⟩ := Option.map_eq_some_iff.mp hw
  have hany : (x.cmds.take x.started).any (fun c => c.st == .held || c.st == .queued || failed c.status) = false := by
    rw [List.any_eq_false]
    intro c hcm
    obtain ⟨h1, h2, h3⟩ := hd c hcm
    simp [h1, h2, h3]
  unfold State.nextTick
  rw [hf]
  dsimp only
  rw [ht]
  dsimp only
  rw [if_neg (by simp [hl, hc, hany])]
  exact ⟨_, rfl⟩

theorem tickBegun_only (s : State) (p : Nat) (x : ListRec) (ws : List Nat) :
    onlyChanges [.parts, .mem, .hbm, .ctr] s (tickBegun s p x ws) := by
  have k := store_only s p x.param (ws.flatMap (le 4))
  unfold tickBegun
  generalize s.store p x.param (ws.flatMap (le 4)) = u at k ⊢
  exact only_trans (only_mono k (by decide)) (only_trans (only_mono (modList_only u p x.id _) (by decide))
    (only_mono (count_only _ _ _ _) (by decide)))

theorem tickBegun_tick (hx : s.list p x.id = some x) (ws : List Nat) :
    ((tickBegun s p x ws).list p x.id).map (fun y => y.tick) = some (x.tick + 1) := by
  have k := store_only s p x.param (ws.flatMap (le 4))
  unfold tickBegun
  generalize s.store p x.param (ws.flatMap (le 4)) = u at k ⊢
  have hu : u.list p x.id = some x := (list_of (by rw [part_of (k .parts (by decide))]) x.id).trans hx
  show ((u.modList p x.id (fun y => { y with tick := y.tick + 1 })).list p x.id).map _ = _
  rw [list_modList u p x.id (fun y => { y with tick := y.tick + 1 }) (fun _ => rfl), hu]
  rfl

theorem scheduleTick_begins (hf : (s.part p).lists.find? (fun y => y.lane == lane && y.active && !y.abandoned && !y.ticks.isEmpty) = some x)
    (hx : s.list p x.id = some x) (hw : (x.ticks[x.tick]?).map (·.2) = some ws) (hl : (s.part p).state ≠ .hostLost)
    (hc : (s.part p).rcv.capture = none)
    (hd : ∀ c ∈ x.cmds.take x.started, c.st ≠ .held ∧ c.st ≠ .queued ∧ failed c.status = false) (hm : memoryCanonical s) :
    ∃ t, exec (.scheduleTick p lane) s = .next t ∧ onlyChanges [.parts, .queues, .mem, .hbm, .ctr, .errq, .journal] s t ∧
      stored p x.param (ws.flatMap (le 4)) s t ∧ (t.list p x.id).map (fun y => y.tick) = some (x.tick + 1) := by
  obtain ⟨y, e⟩ := nextTick_begins hf hw hl hc hd
  have e' : exec (.scheduleTick p lane) s = answer s ((tickBegun s p x ws).dealList p y (fun _ => true)) := congrArg (answer s) e
  have kd := dealList_only (tickBegun s p x ws) p y (fun _ => true)
  rw [e']
  refine ansK (ks := [.parts, .queues, .mem, .hbm, .ctr])
    (only_trans (only_mono (tickBegun_only s p x ws) (by decide)) (only_mono kd (by decide))) (by decide) (fun t kt _ => ⟨?_, ?_⟩)
  · exact stored_mem (store_stored s p x.param _ hm) ((kt .mem (by decide)).trans (kd .mem (by decide)))
  · have ht : t.list p x.id = ((tickBegun s p x ws).dealList p y (fun _ => true)).list p x.id :=
      list_of (by rw [part_of (kt .parts (by decide))]) x.id
    rw [ht, map_list_dealList (g := fun y => y.tick) (fun _ => rfl)]
    exact tickBegun_tick hx ws
end

/-- Settles O39: one lemma for each timer. -/
theorem schedulerTimersTakeEffect : Obligations.SchedulerTimersTakeEffect := by
  unfold Obligations.SchedulerTimersTakeEffect
  intro s p _
  exact ⟨fun _ _ => deadlineMiss_answers, fun _ _ => barrierStalled_reports,
    fun ha h1 => ⟨heartbeatSample_renews ha h1, hostLeaseExpired_loses ha h1⟩, orphanServing_goes_on,
    ⟨irqTimer_signals, fun h0 => answers_same rfl (if_neg (by omega))⟩, fun _ _ _ => scheduleTick_begins⟩

end Sys2Proof.Proofs.SchedulerTimers

/-!
SUPPORT. Submissions and commands: what becomes of the next submission entry, of the next list of a lane, of the command that a
queue chooses and of a command whose writes are acknowledged, and the statement of O38 from these.
-/

namespace Sys2Proof.Proofs.Submissions

open Sys2Proof Sys2Proof.Machine Sys2Proof.Safety Sys2Proof.Laws Sys2Proof.Laws.Shared
open Sys2Proof.Proofs.GathersAndAdds Sys2Proof.Proofs.SchedulerTimers

/-! ### Consumption (R77 to R81, R84) -/

/-- s with the next submission entry of partition p passed over (R76, R78). -/
def entryTaken (s : State) (p : Nat) : State :=
  (s.modRings p (fun r => { r with sqHead := (r.sqHead + 1) % r.entries })).syncHeader p

theorem entryTaken_part (s : State) (p : Nat) : (entryTaken s p).part p =
    { s.part p with rings := { (s.part p).rings with sqHead := ((s.part p).rings.sqHead + 1) % (s.part p).rings.entries } } :=
  (part_sync _ p p).trans (part_rings s p _)

/-- The next submission entry of partition p (R75). -/
def nextEntry (s : State) (p : Nat) : List Byte := s.rd p ((s.part p).rings.sqAddr (s.part p).rings.sqHead) 64

section
variable {s : State} {p : Nat} (hc : (s.part p).rings.consuming = true) (hb : (s.part p).rings.backlog ≠ 0)
  (hf : s.openLists p + 2 ≤ (s.part p).rings.free)
include hc hb hf

theorem consumption_open : ¬(!(s.part p).rings.consuming ∨ (s.part p).rings.backlog = 0 ∨ (s.part p).rings.free < s.openLists p + 2) := by
  rw [hc]
  simp only [Bool.not_true, Bool.false_eq_true, false_or]
  omega

/-- An entry that passes its checks becomes the last list of its partition. -/
theorem consume_accepts {cs : List CmdRec} {ticks : List (Nat × List Nat)} {param : Nat}
    (h1 : (entryTaken s p).subStatus p (nextEntry s p) = 0)
    (h2 : (entryTaken s p).startFenceStatus p (Sub.ofBytes (nextEntry s p)).fenceKind = 0)
    (h3 : (entryTaken s p).takeList p (Sub.ofBytes (nextEntry s p)) = .ok (cs, ticks, param)) :
    ∃ x, s.consume p = (entryTaken s p).acceptList p x ∧ x.subId = field (nextEntry s p) 0x10 8 ∧ x.cmds = cs ∧
      x.lane = (Sub.ofBytes (nextEntry s p)).lane := by
  unfold State.consume
  rw [if_neg (consumption_open hc hb hf)]
  extract_lets b x u irq st0 st
  have hst : st = 0 := by
    show (if st0 ≠ 0 then st0 else u.startFenceStatus p x.fenceKind) = 0
    rw [if_neg (fun h => h h1)]
    exact h2
  have htake : u.takeList p x = .ok (cs, ticks, param) := h3
  rw [if_neg (fun h => h hst), htake]
  exact ⟨_, rfl, rfl, rfl, rfl⟩

/-- An entry that fails a check of its own is completed at once. -/
theorem consume_refuses (h1 : (entryTaken s p).subStatus p (nextEntry s p) ≠ 0) :
    ∃ e b, s.consume p = (entryTaken s p).putCompletion p e b := by
  unfold State.consume
  rw [if_neg (consumption_open hc hb hf)]
  extract_lets b x u irq st0 st
  have hst : st ≠ 0 := by
    show (if st0 ≠ 0 then st0 else u.startFenceStatus p x.fenceKind) ≠ 0
    rwa [if_pos (show st0 ≠ 0 from h1)]
  rw [if_pos hst]
  exact ⟨_, _, rfl⟩

theorem submissionConsume_accepts {cs : List CmdRec} {ticks : List (Nat × List Nat)} {param : Nat}
    (h1 : (entryTaken s p).subStatus p (nextEntry s p) = 0)
    (h2 : (entryTaken s p).startFenceStatus p (Sub.ofBytes (nextEntry s p)).fenceKind = 0)
    (h3 : (entryTaken s p).takeList p (Sub.ofBytes (nextEntry s p)) = .ok (cs, ticks, param)) :
    ∃ t x, exec (.submissionConsume p) s = .next t ∧
      (t.part p).rings.sqHead = ((s.part p).rings.sqHead + 1) % (s.part p).rings.entries ∧
      (t.part p).lists = (s.part p).lists ++ [x] ∧ x.subId = field (nextEntry s p) 0x10 8 ∧ x.cmds = cs ∧
      x.lane = (Sub.ofBytes (nextEntry s p)).lane := by
  obtain ⟨x, e, hx⟩ := consume_accepts hc hb hf h1 h2 h3
  have ha : ((entryTaken s p).acceptList p x).part p = _ := part_modPart _ p _
  have he : exec (.submissionConsume p) s = answer s ((entryTaken s p).acceptList p x) := congrArg (answer s) e
  obtain ⟨t, et, hh, hl⟩ : ∃ t, exec (.submissionConsume p) s = .next t ∧
      (t.part p).rings.sqHead = ((s.part p).rings.sqHead + 1) % (s.part p).rings.entries ∧
      (t.part p).lists = (s.part p).lists ++ [x] := by
    rw [he]
    refine ansE (fun t kt _ => ?_)
    rw [part_of (kt .parts (by decide)), ha, entryTaken_part]
    exact ⟨rfl, rfl⟩
  exact ⟨t, x, et, hh, hl, hx⟩

theorem submissionConsume_refuses (h1 : (entryTaken s p).subStatus p (nextEntry s p) ≠ 0) :
    ∃ t, exec (.submissionConsume p) s = .next t ∧
      (t.part p).rings.sqHead = ((s.part p).rings.sqHead + 1) % (s.part p).rings.entries ∧
      (t.part p).lists = (s.part p).lists ∧
      (t.part p).rings.cqHeldTail = ((s.part p).rings.cqHeldTail + 1) % (s.part p).rings.entries := by
  obtain ⟨c, b, e⟩ := consume_refuses hc hb hf h1
  have he : exec (.submissionConsume p) s = answer s ((entryTaken s p).putCompletion p c b) := congrArg (answer s) e
  obtain ⟨g, hp, htail, hhead⟩ := put_part (entryTaken s p) p c b
  rw [entryTaken_part] at hp htail hhead
  rw [he]
  refine ansE (fun t kt _ => ?_)
  rw [part_of (kt .parts (by decide)), hp]
  exact ⟨hhead, rfl, htail⟩
end

/-! ### List start (R77, R78) -/

/-- s with list l of partition p active, its partition's state no longer that of its last sachet (R68, R78). -/
def listActivated (s : State) (p l : Nat) : State :=
  (s.modList p l (fun y => { y with active := true })).modRcv p (fun r => { r with dirty := true })

theorem listActivated_only (s : State) (p l : Nat) : onlyChanges [.parts] s (listActivated s p l) :=
  (path_modRcv (ks := [.parts]) p _ (by decide) (path_modList p l _ (by decide) (path_refl _ s))).frame

theorem listActivated_active {s : State} {p l : Nat} (h : (s.list p l).isSome = true) :
    ((listActivated s p l).list p l).map (fun y => y.active) = some true := by
  obtain ⟨y, hy⟩ := Option.isSome_iff_exists.mp h
  unfold listActivated
  rw [list_of (s := s.modList p l (fun y => { y with active := true })) (by rw [part_modRcv]),
    list_modList s p l (fun y => { y with active := true }) (fun _ => rfl), hy]
  rfl

section
variable {s : State} {p lane : Nat} {x : ListRec} (hn : s.nextOnLane p lane = some x)
  (hw : (s.part p).state.works = true) (hc : (s.part p).rcv.capture = none) (hp : (s.part p).parked = false)
  (hl : ∀ y ∈ (s.part p).lists, y.lane = lane → y.active = true → y.parent ≠ none) (hk : x.fenceKind ≠ 5)
  (ho : s.startOpen p x = true)
include hn hw hc hp hl hk ho

theorem startList_activates :
    s.startList p lane = (listActivated s p x.id).dealList p { x with active := true } (fun _ => true) := by
  have hlane : (s.part p).lists.any (fun y => y.lane == lane && y.active && y.parent.isNone) = false := by
    rw [List.any_eq_false]
    intro y hy h
    simp only [Bool.and_eq_true, beq_iff_eq, Option.isNone_iff_eq_none] at h
    obtain ⟨⟨h1, h2⟩, h3⟩ := h
    exact hl y hy h1 h2 h3
  unfold State.startList
  rw [hn]
  dsimp only
  rw [if_neg (by simp [hw, hp, hc, hlane]), if_neg (by simp [hk]), if_pos ho]
  rfl

/-- The next list of a lane that nothing keeps back becomes active. -/
theorem listStart_activates : ∃ t, exec (.listStart p lane) s = .next t ∧
    onlyChanges [.parts, .queues, .errq, .journal] s t ∧ ((t.list p x.id).map (fun y => y.active)) = some true := by
  have hx : (s.list p x.id).isSome = true := List.find?_isSome.mpr ⟨x, List.mem_of_find?_eq_some hn, beq_self_eq_true _⟩
  have he : exec (.listStart p lane) s = answer s _ := congrArg (answer s) (startList_activates hn hw hc hp hl hk ho)
  have hu := listActivated_active hx
  have ku := listActivated_only s p x.id
  generalize listActivated s p x.id = u at he hu ku
  rw [he]
  refine ansK (only_trans (only_mono ku (by decide)) (dealList_only u p _ _)) (by decide) (fun t kt _ => ?_)
  have ht : t.list p x.id = (u.dealList p { x with active := true } (fun _ => true)).list p x.id :=
    list_of (by rw [part_of (kt .parts (by decide))]) x.id
  rw [ht, map_list_dealList (g := fun y => y.active) (fun _ => rfl), hu]
end

/-! ### Dispatch (R69, R84) -/

theorem dispatchNext_chooses {s : State} {k n : Nat} {r : QRef} (hh : s.holds k n = false) (hn : noneHeldBack k n s)
    (hr : (s.queue k n).running = none) (hp : (s.queue k n).preempted = []) (hch : s.choose k n (fun _ => false) = some r) :
    s.dispatchNext k n = s.dispatch k n r := by
  unfold State.dispatchNext
  rw [hh, if_neg Bool.false_ne_true, noRefill s k n hn]
  dsimp only
  rw [hr]
  dsimp only
  rw [if_neg (by simp [hp]), hch]

/-- The command that a queue chooses runs, once its checks pass. -/
theorem commandDispatch_runs {s : State} {k n : Nat} {r : QRef} {c : CmdRec} (hh : s.holds k n = false)
    (hn : noneHeldBack k n s) (hr : (s.queue k n).running = none) (hp : (s.queue k n).preempted = [])
    (hch : s.choose k n (fun _ => false) = some r) (hc : s.cmdOf r = some c)
    (h1 : (chosen k n r s).waitBroken r.part r.list c.cmd = false)
    (h2 : ((chosen k n r s).fit r.part c ((chosen k n r s).readHeld r.part c.cmd)).status = 0)
    (h3 : ((chosen k n r s).fit r.part c ((chosen k n r s).readHeld r.part c.cmd)).empty = false) :
    ∃ t, exec (.commandDispatch k n) s = .next t ∧
      onlyChanges [.parts, .queues, .sites, .ctr, .log, .errq, .journal] s t ∧
      t.running k n = some (r, { c with st := .running, held := (chosen k n r s).readHeld r.part c.cmd }) := by
  have he : exec (.commandDispatch k n) s = answer s _ :=
    congrArg (answer s) ((dispatchNext_chooses hh hn hr hp hch).trans (dispatch_ok hc hn h1 h2 h3))
  have ku := chosen_only k n r s
  have hu := chosen_cmd k n r s
  generalize chosen k n r s = u at he ku hu ⊢
  generalize u.readHeld r.part c.cmd = held at he ⊢
  have kv := record_only u k n r c.cmd held
  generalize u.recordStart k n r c.cmd held = v at he kv
  have kw := modCmd_only v r (fun d => { d with held := held })
  have hw := cmdOf_modCmd v r (fun d => { d with held := held })
  generalize v.modCmd r (fun d => { d with held := held }) = w at he kw hw
  have kx := roused_only k n r c.cmd held w
  generalize roused k n r c.cmd held w = x at he kx
  have ky := modCmd_only x r (fun c => { c with st := .running })
  have hy := cmdOf_modCmd x r (fun c => { c with st := .running })
  generalize x.modCmd r (fun c => { c with st := .running }) = y at he ky hy
  rw [cmdOf_of (kx .parts (by decide)), hw, cmdOf_of (kv .parts (by decide)), hu, hc] at hy
  have kq := modQueue_only y k n (fun q => { q with running := some r })
  rw [he]
  refine ansK (ks := [.parts, .queues, .sites, .ctr, .log])
    (only_trans (only_mono ku (by decide)) (only_trans (only_mono kv (by decide)) (only_trans (only_mono kw (by decide))
      (only_trans (only_mono kx (by decide)) (only_trans (only_mono ky (by decide)) (only_mono kq (by decide)))))))
    (by decide) (fun t kt _ => ?_)
  rw [running_of (kt .queues (by decide)) (kt .parts (by decide))]
  unfold State.running
  rw [queue_modQueue]
  show (y.cmdOf r).map (fun c => (r, c)) = _
  rw [hy]
  rfl

/-! ### Completion (R79, R101) -/

/-- List x with its command i as f leaves it. -/
def withCmd (x : ListRec) (i : Nat) (f : CmdRec → CmdRec) : ListRec :=
  { x with cmds := x.cmds.mapIdx (fun j c => if j = i then f c else c) }

theorem list_modCmd {s : State} {r : QRef} {x : ListRec} (f : CmdRec → CmdRec) (h : s.list r.part r.list = some x) :
    (s.modCmd r f).list r.part r.list = some (withCmd x r.index f) := by
  rw [show (s.modCmd r f).list r.part r.list = _ from list_modList s r.part r.list (withCmd · r.index f) (fun _ => rfl), h]
  rfl

/-- With command i done, a list has ended when all its other commands are done. -/
theorem withCmd_all_done (x : ListRec) (i : Nat) {f : CmdRec → CmdRec} (hf : ∀ c, (f c).st = .done) :
    (withCmd x i f).cmds.all (fun c => c.st == .done) = true ↔ ∀ j d, j ≠ i → x.cmds[j]? = some d → d.st = .done := by
  unfold withCmd
  simp only [List.all_eq_true, beq_iff_eq, List.mem_iff_getElem?, List.getElem?_mapIdx, Option.map_eq_some_iff]
  constructor
  · intro h j d hj hd
    exact h d ⟨j, d, hd, if_neg hj⟩
  · rintro h c ⟨j, d, hd, rfl⟩
    split
    case isTrue => exact hf d
    case isFalse hj => exact h j d hj hd

section
variable {s : State} {p l : Nat} {x : ListRec}

theorem finishList_open (hx : s.list p l = some x) (h : ¬x.cmds.all (fun c => c.st == .done) = true) : s.finishList p l = s := by
  unfold State.finishList
  rw [hx]
  exact if_neg h

theorem finishList_answers (hx : s.list p l = some x) (h : x.cmds.all (fun c => c.st == .done) = true)
    (hp : x.parent = none) (ha : x.answered = false) :
    s.finishList p l = (s.answerList p x x.verdict.1 x.verdict.2).modPart p (fun q =>
      { q with lists := q.lists.filter (fun y => y.id != l), laneDone := Tab.set q.laneDone x.lane x.subId }) := by
  unfold State.finishList
  rw [hx]
  dsimp only
  rw [if_pos h, hp, ha]
  rfl

/-- The end of a list's last command takes the list off and answers it. -/
theorem finishList_part (hx : s.list p l = some x) (h : x.cmds.all (fun c => c.st == .done) = true)
    (hp : x.parent = none) (ha : x.answered = false) : (s.finishList p l).list p l = none ∧
      ((s.finishList p l).part p).rings.cqHeldTail = ((s.part p).rings.cqHeldTail + 1) % (s.part p).rings.entries ∧
      ((s.finishList p l).part p).state = (s.part p).state := by
  rw [finishList_answers hx h hp ha]
  obtain ⟨g, hg, htail, -⟩ := answer_part s p x x.verdict.1 x.verdict.2
  generalize s.answerList p x x.verdict.1 x.verdict.2 = u at hg ⊢
  refine ⟨?_, by rw [part_modPart, hg]; exact htail, by rw [part_modPart, hg]⟩
  unfold State.list
  rw [part_modPart]
  refine List.find?_eq_none.mpr (fun y hy => ?_)
  obtain ⟨-, hne⟩ := List.mem_filter.mp hy
  simpa using hne
end

/-- The record of a command that has completed (R79, R101). -/
def completed (status : Nat) (c : CmdRec) : CmdRec := { c with st := .done, status := status, ran := true }

section
variable {s : State} {k n : Nat} {r : QRef} {rest : List QRef} {c : CmdRec} {x : ListRec}

/-- A command that signals no fence ends with its record, and with its list where it is the last (R99). -/
theorem endCmd_unsignalled (hc : s.cmdOf r = some c) (hs : c.cmd.sigKind = 0) (st : Nat) :
    s.endCmd r st true = (s.modCmd r (completed st)).finishList r.part r.list := by
  unfold State.endCmd
  rw [hc]
  exact congrArg (fun u : State => u.finishList r.part r.list) (if_pos hs)

/-- s with the writes of command r acknowledged: it leaves the issued commands of its queue (R101). -/
def acknowledged (k n : Nat) (r : QRef) (s : State) : State :=
  (s.modQueue k n (fun q => { q with issued := q.issued.drop 1 })).traceEnd (qKey k n) r

/-- s with the gap begun of the site that command c of queue n of kind k leaves without work (R137, R139). -/
def rested (k n p : Nat) (c : CmdRec) (s : State) : State :=
  match s.workSite k n c.cmd c.held with
  | some i => if s.atWork n i then s else s.beginGap p i
  | none => s

theorem acknowledged_only (k n : Nat) (r : QRef) (s : State) : onlyChanges [.queues, .log] s (acknowledged k n r s) :=
  (path_traceEnd (ks := [.queues, .log]) _ r (by decide) (path_modQueue k n _ (by decide) (path_refl _ s))).frame

theorem acknowledged_issued (hi : (s.queue k n).issued = r :: rest) : ((acknowledged k n r s).queue k n).issued = rest := by
  have kt : (acknowledged k n r s).queues = (s.modQueue k n (fun q => { q with issued := q.issued.drop 1 })).queues :=
    (path_traceEnd (ks := [.log]) _ r (by decide) (path_refl _ _)).frame .queues (by decide)
  rw [queue_of kt, queue_modQueue, hi]
  rfl

theorem rested_only (k n p : Nat) (c : CmdRec) (s : State) : onlyChanges [.sites] s (rested k n p c s) := by
  unfold rested
  split
  · exact only_ite (only_refl _ _) (path_beginGap (ks := [.sites]) _ _ (by decide) (path_refl _ s)).frame
  · exact only_refl _ _

/-- The oldest issued command ends, its list where it is the last, and its partition goes on. -/
theorem complete_ends (hi : (s.queue k n).issued = r :: rest) (hc : s.cmdOf r = some c) (hs : c.cmd.sigKind = 0) :
    ∃ u, onlyChanges [.queues, .sites, .log] s u ∧ (u.queue k n).issued = rest ∧ s.complete k n =
      ((((u.modCmd r (completed c.status)).finishList r.part r.list).stopTicks r.part r.list).progress r.part) := by
  have ka := acknowledged_only k n r s
  have kr := rested_only k n r.part c (acknowledged k n r s)
  have hac : (acknowledged k n r s).cmdOf r = some c := (cmdOf_of (ka .parts (by decide)) r).trans hc
  have hrc := (cmdOf_of (kr .parts (by decide)) r).trans hac
  refine ⟨rested k n r.part c (acknowledged k n r s), only_trans (only_mono ka (by decide)) (only_mono kr (by decide)),
    by rw [queue_of (kr .queues (by decide)), acknowledged_issued hi], ?_⟩
  rw [← endCmd_unsignalled hrc hs]
  unfold State.complete
  rw [hi]
  unfold acknowledged at hac
  dsimp only
  rw [hac]
  dsimp only
  rw [if_pos (.inr hs)]
  rfl

/-! ### Contributions that a completion lets go (R289) -/

/-- From s to t the queues stay, and the lists and rings of every partition. -/
def sameWork (s t : State) : Prop :=
  t.queues = s.queues ∧ ∀ q, (t.part q).lists = (s.part q).lists ∧ (t.part q).rings = (s.part q).rings

/-- Contributions that were dropped are counted and taken off a partition's fences. -/
theorem settleDrops_sameWork (s : State) (p : Nat) : sameWork s (s.settleDrops p) := by
  unfold State.settleDrops
  extract_lets f ready
  split
  case isTrue =>
    refine ⟨rfl, fun q => ?_⟩
    rw [part_count]
    by_cases h : q = p
    · rw [h, part_modFences]
      exact ⟨rfl, rfl⟩
    · rw [show (s.modFences p _).part q = _ from part_modPart_other s p q _ h]
      exact ⟨rfl, rfl⟩
  case isFalse => exact ⟨rfl, fun _ => ⟨rfl, rfl⟩⟩

theorem foldl_settleDrops_sameWork (l : List Nat) : ∀ s : State, sameWork s (l.foldl State.settleDrops s) := by
  induction l with
  | nil => exact fun s => ⟨rfl, fun _ => ⟨rfl, rfl⟩⟩
  | cons p l ih =>
    intro s
    obtain ⟨hq, hp⟩ := settleDrops_sameWork s p
    obtain ⟨hq', hp'⟩ := ih (s.settleDrops p)
    refine ⟨hq'.trans hq, fun q => ?_⟩
    obtain ⟨hl, hr⟩ := hp q
    obtain ⟨hl', hr'⟩ := hp' q
    exact ⟨hl'.trans hl, hr'.trans hr⟩

/-- With no collective running a completion settles dropped contributions alone. -/
theorem pumpColls_sameWork (h : s.colls = []) : sameWork s s.pumpColls := by
  have e : s.pumpColls = partNumbers.foldl State.settleDrops s := by
    unfold State.pumpColls
    rw [h, List.map_nil, List.foldl_nil]
  rw [e]
  exact foldl_settleDrops_sameWork partNumbers s

/-- The answer to an acknowledgement with no collective running. -/
theorem answers_complete {v : State} (e : s.complete k n = v) (h : v.colls = []) : ∃ t, exec (.commandComplete k n) s = .next t ∧
    t.queue k n = v.queue k n ∧
    ∀ q, (t.part q).lists = (v.part q).lists ∧ (t.part q).rings = (v.part q).rings := by
  have he : exec (.commandComplete k n) s = answer s v.pumpColls := congrArg (fun u : State => answer s u.pumpColls) e
  obtain ⟨hqueues, hparts⟩ := pumpColls_sameWork h
  rw [he]
  refine ansE (fun t kt _ => ⟨queue_of ((kt .queues (by decide)).trans hqueues) k n, fun q => ?_⟩)
  rw [part_of (kt .parts (by decide))]
  exact hparts q

theorem cmdOf_of_lists {t : State} (h : (t.part r.part).lists = (s.part r.part).lists) : t.cmdOf r = s.cmdOf r := by
  unfold State.cmdOf
  rw [list_of h]

section
variable (hi : (s.queue k n).issued = r :: rest) (hc : s.cmdOf r = some c) (hs : c.cmd.sigKind = 0)
  (hx : s.list r.part r.list = some x) (hr : (s.part r.part).state = .running)
  (hb : s.boundStreams r.part = []) (hcolls : s.colls = [])
include hi hc hs hx hr hb hcolls

/-- A command that completes before others of its list leaves its record done. -/
theorem commandComplete_leaves_list (ht : x.ticks = []) (ho : ∃ j d, j ≠ r.index ∧ x.cmds[j]? = some d ∧ d.st ≠ .done) :
    ∃ t, exec (.commandComplete k n) s = .next t ∧ (t.queue k n).issued = rest ∧
      t.cmdOf r = some { c with st := .done, ran := true } := by
  obtain ⟨u, ku, hq, e⟩ := complete_ends hi hc hs
  have hux : u.list r.part r.list = some x := (list_of (by rw [part_of (ku .parts (by decide))]) _).trans hx
  have hvx := list_modCmd (completed c.status) hux
  have hvc : (u.modCmd r (completed c.status)).cmdOf r = some { c with st := .done, ran := true } := by
    rw [cmdOf_modCmd, cmdOf_of (ku .parts (by decide)), hc]
    rfl
  have hvr : ((u.modCmd r (completed c.status)).part r.part).state = .running := by
    rw [show (u.modCmd r (completed c.status)).part r.part = _ from ml_part u _ _ _, part_of (ku .parts (by decide))]
    exact hr
  have hvb : (u.modCmd r (completed c.status)).boundStreams r.part = [] := (bound_of (ku .streams (by decide)) r.part).trans hb
  have hvq : ((u.modCmd r (completed c.status)).queue k n).issued = rest := hq
  have hvcolls : (u.modCmd r (completed c.status)).colls = [] := (ku .colls (by decide)).trans hcolls
  generalize u.modCmd r (completed c.status) = v at e hvx hvc hvr hvb hvq hvcolls
  have hopen : ¬(withCmd x r.index (completed c.status)).cmds.all (fun c => c.st == .done) = true := by
    obtain ⟨j, d, hj, hd, hne⟩ := ho
    exact fun h => hne ((withCmd_all_done x r.index (fun _ => rfl)).mp h j d hj hd)
  have hticks (y : ListRec) (hy : v.list r.part r.list = some y) : y.ticks = [] := by
    obtain rfl := Option.some.inj (hvx.symm.trans hy)
    exact ht
  rw [finishList_open hvx hopen, stop_id hticks, still hvr hvb] at e
  obtain ⟨t, et, hqueue, hpart⟩ := answers_complete e hvcolls
  obtain ⟨hlists, -⟩ := hpart r.part
  exact ⟨t, et, by rw [hqueue, hvq], by rw [cmdOf_of_lists hlists, hvc]⟩

/-- The last command of a list that completes takes its list off, which is answered. -/
theorem commandComplete_ends_list (ho : ∀ j d, j ≠ r.index → x.cmds[j]? = some d → d.st = .done) (hp : x.parent = none)
    (ha : x.answered = false) :
    ∃ t, exec (.commandComplete k n) s = .next t ∧ (t.queue k n).issued = rest ∧ t.list r.part r.list = none ∧
      (t.part r.part).rings.cqHeldTail = ((s.part r.part).rings.cqHeldTail + 1) % (s.part r.part).rings.entries := by
  obtain ⟨u, ku, hq, e⟩ := complete_ends hi hc hs
  have hux : u.list r.part r.list = some x := (list_of (by rw [part_of (ku .parts (by decide))]) _).trans hx
  have hvx := list_modCmd (completed c.status) hux
  have hvp : (u.modCmd r (completed c.status)).part r.part = _ := ml_part u _ _ _
  rw [part_of (ku .parts (by decide))] at hvp
  have hvb : (u.modCmd r (completed c.status)).boundStreams r.part = [] := (bound_of (ku .streams (by decide)) r.part).trans hb
  have hvq : ((u.modCmd r (completed c.status)).queue k n).issued = rest := hq
  have hvcolls : (u.modCmd r (completed c.status)).colls = [] := (ku .colls (by decide)).trans hcolls
  generalize u.modCmd r (completed c.status) = v at e hvx hvp hvb hvq hvcolls
  have hdone := (withCmd_all_done x r.index (f := completed c.status) (fun _ => rfl)).mpr ho
  obtain ⟨hl, htail, hstate⟩ := finishList_part hvx hdone hp ha
  have kw : onlyChanges [.parts, .mem, .hbm, .outs] v (v.finishList r.part r.list) := by
    rw [finishList_answers hvx hdone hp ha]
    exact (path_modPart (ks := [.parts, .mem, .hbm, .outs]) _ _ (by decide)
      (path_answerList _ _ _ _ (by decide) (path_refl _ v))).frame
  rw [hvp] at htail hstate
  generalize v.finishList r.part r.list = w at e hl htail hstate kw
  rw [stop_id (fun y hy => by rw [hl] at hy; cases hy), still (hstate.trans hr) ((bound_of (kw .streams (by decide)) _).trans hvb)] at e
  obtain ⟨t, et, hqueue, hpart⟩ := answers_complete e ((kw .colls (by decide)).trans hvcolls)
  obtain ⟨hlists, hrings⟩ := hpart r.part
  exact ⟨t, et, by rw [hqueue, queue_of (kw .queues (by decide)), hvq], by rw [list_of hlists, hl], by rw [hrings, htail]⟩
end
end

/-- Settles O38: consumption, list start, dispatch and completion in turn. -/
theorem submissionsBecomeListsAndCommands : Obligations.SubmissionsBecomeListsAndCommands := by
  unfold Obligations.SubmissionsBecomeListsAndCommands
  intro s p
  refine ⟨fun hc hb hf => ⟨fun _ _ _ => submissionConsume_accepts hc hb hf, submissionConsume_refuses hc hb hf⟩,
    fun _ _ => listStart_activates, fun _ _ _ _ => commandDispatch_runs, fun k n r rest c x hi hc hs hx ht hr hb h0 =>
      ⟨commandComplete_leaves_list hi hc hs hx hr hb h0 ht, commandComplete_ends_list hi hc hs hx hr hb h0⟩⟩

end Sys2Proof.Proofs.Submissions

/-!
SUPPORT. The timebase: what a step of it leaves, what a sync word of the master does, how the bus clock is lost, taken over and
handed over, how a snapshot is armed, latched and released, and the statements of O27, O28 and O29 from these.
-/

namespace Sys2Proof.Proofs.Timebase

open Sys2Proof Sys2Proof.Machine Sys2Proof.Safety Sys2Proof.Laws Sys2Proof.Laws.Shared

/-! ### Commands that may move the timebase -/

/-- Such a command keeps what its effect u keeps, and leaves what u leaves. -/
theorem answersTime {ks ls : List Kind} {s u : State} {c : Instr} {P : State → Prop} (he : exec c s = answerTime s u)
    (hk : onlyChanges ks s u) (hl : ∀ k ∈ ks ++ [.errq, .journal], k ∈ ls)
    (hp : ∀ t, (∀ k, k ∉ ([.pending, .factory, .errq, .journal] : List Kind) → k.same u t) → P t) :
    ∃ t, exec c s = .next t ∧ onlyChanges ls s t ∧ P t := by
  refine ⟨_, he, only_mono (only_answerTime hk) hl, hp _ (fun k hn => ?_)⟩
  cases k <;> first | rfl | exact absurd (by decide) hn

theorem answersTime_same {s u : State} {c : Instr} (he : exec c s = answerTime s u) (hu : u = s) :
    ∃ t, exec c s = .next t ∧ onlyChanges [.errq, .journal] s t := by
  subst hu
  obtain ⟨t, e, k, -⟩ := answersTime (P := fun _ => True) (ls := [.errq, .journal]) he (only_refl [] u) (by decide) (fun _ _ => trivial)
  exact ⟨t, e, k⟩

theorem now_of {s t : State} (h : t.time = s.time) : t.now = s.now := by unfold State.now; rw [h]

theorem timeTfb_only (s : State) (x : TimeState) (y : Tfb) : onlyChanges [.time, .tfb] s { s with time := x, tfb := y } :=
  (path_set_tfb (ks := [.time, .tfb]) y (by decide) (path_set_time x (by decide) (path_refl _ s))).frame

/-! ### A step of the timebase (R92, R93, R111) -/

/-- A step sets the count and the step counter, ends slewing and the run of words behind, and may latch the snapshot. -/
theorem stepTime_time (s : State) (t : Nat) : ∃ n a b, (s.stepTime t).time =
    { s.time with ps := 1000 * t, steps := n, slewPs := 0, behindRun := 0, snapState := a, snapSeq := b } := by
  unfold State.stepTime
  extract_lets old x u v w
  have hv : v.time = u.time := logEvent_only u 5 0xFF 4 _ .time (by decide)
  have hw : w.time = u.time := by
    refine Eq.trans ?_ hv
    unfold w
    split
    · exact (path_missAll (ks := [.parts, .mem, .hbm, .outs]) (by decide) (path_refl _ v)).frame .time (by decide)
    · rfl
  split
  · refine ⟨(s.time.steps + 1) % 4294967296, 3, (w.time.snapSeq + 1) % 4294967296, ?_⟩
    show { w.time with snapState := 3, snapSeq := (w.time.snapSeq + 1) % 4294967296 } = _
    rw [hw]
  · exact ⟨(s.time.steps + 1) % 4294967296, s.time.snapState, s.time.snapSeq, hw⟩

@[simp] theorem stepTime_ps (s : State) (t : Nat) : (s.stepTime t).time.ps = 1000 * t := by
  obtain ⟨n, a, b, h⟩ := stepTime_time s t
  rw [h]

@[simp] theorem stepTime_ticks (s : State) (t : Nat) : (s.stepTime t).time.ticks = s.time.ticks := by
  obtain ⟨n, a, b, h⟩ := stepTime_time s t
  rw [h]

@[simp] theorem stepTime_offset (s : State) (t : Nat) : (s.stepTime t).time.offset = s.time.offset := by
  obtain ⟨n, a, b, h⟩ := stepTime_time s t
  rw [h]

@[simp] theorem stepTime_corr (s : State) (t : Nat) : (s.stepTime t).time.corr = s.time.corr := by
  obtain ⟨n, a, b, h⟩ := stepTime_time s t
  rw [h]

theorem now_of_ps {s : State} {t : Nat} (h : s.time.ps = 1000 * t) (ht : t < 18446744073709551616) : s.now = t := by
  unfold State.now
  rw [h, Nat.mul_div_cancel_left _ (by decide), Nat.mod_eq_of_lt ht]

/-! ### Timebase set (R92, log 95) -/

theorem writeTimebase_steps {s : State} (t : Nat) (hm : s.tfb.master = true) (hq : s.allQuiet = true) :
    s.writeTimebase t = (s.stepTime t, 0) := by
  unfold State.writeTimebase
  rw [hm, hq]
  rfl

theorem writeTimebase_refuses {s : State} (t : Nat) (h : s.tfb.master = false ∨ s.allQuiet = false) :
    s.writeTimebase t = (s, 0x1101) := by
  unfold State.writeTimebase
  rcases h with h | h <;> simp [h]

section
variable {s : State} {r : Req} {v : Nat} (ha : acceptsWrite s r 0x6000 5 8 (le 8 v))
include ha

theorem timebaseSet_steps (hv : v < 18446744073709551616) (hm : s.tfb.master = true) (hq : s.allQuiet = true) :
    ∃ t, exec (.timebaseSet r v) s = .next t ∧ respondedWith t r 2 0x6000 5 0 [] ∧ t.now = v ∧ t.time.ticks = s.time.ticks := by
  obtain ⟨cs, t, e, hr, k⟩ := servedTime (f := fun s => done (s.writeTimebase v)) (g := fun cs => (replayed s cs).stepTime v) ha
    (fun cs => congrArg done (writeTimebase_steps (s := replayed s cs) v hm hq))
  have ht : t.time = ((replayed s cs).stepTime v).time := k .time (by decide)
  exact ⟨t, e, hr, now_of_ps (by rw [ht, stepTime_ps]) hv, by rw [ht, stepTime_ticks]; rfl⟩

theorem timebaseSet_refused (h : s.tfb.master = false ∨ s.allQuiet = false) :
    ∃ t, exec (.timebaseSet r v) s = .next t ∧ respondedWith t r 2 0x6000 5 0x1101 [] ∧ t.time = s.time := by
  obtain ⟨t, e, hr, k⟩ := refusedTime (f := fun s => done (s.writeTimebase v)) (st := 0x1101) ha
    (fun cs => congrArg done (writeTimebase_refuses (s := replayed s cs) v h)) (by decide)
  exact ⟨t, e, hr, k .time (by decide)⟩
end

/-! ### Sync words (R91, R92) -/

/-- The offset in ns that a sync word of time v shows, positive when this module is ahead (R92, R95). -/
def shownOffset (s : State) (v : Nat) : Int := Int.ofNat s.now - Int.ofNat (s.valNat 0xA100 3) - Int.ofNat v

/-- It shows this module more than 1 µs behind (R92). -/
def farBehind (s : State) (v : Nat) : Bool := decide (shownOffset s v < -1000)

/-- s with a sync word of time v judged (R91), before what it asks of the timebase. -/
def judged (s : State) (v : Nat) : State :=
  { s with time := { s.time.follow (shownOffset s v) with behindRun := if farBehind s v then s.time.behindRun + 1 else 0 } }

/-- s that acquires the bus clock anew (R91). -/
def acquiring (s : State) : State := { s with time := { s.time with state := 1, inWindow := 0 } }

theorem takeSync_eq (s : State) (v : Nat) : s.takeSync v =
    if farBehind s v then
      if s.time.state = 0 ∨ s.time.state = 1 ∨ 4 ≤ (judged s v).time.behindRun then
        acquiring ((judged s v).stepTime (v + s.valNat 0xA100 3))
      else judged s v
    else if 1000 < shownOffset s v ∧ s.allQuiet then (judged s v).stepTime (v + s.valNat 0xA100 3)
    else { judged s v with time := { (judged s v).time with slewPs := 1000 * shownOffset s v } } := rfl

theorem farBehind_iff (s : State) (v : Nat) : farBehind s v = true ↔ shownOffset s v < -1000 := decide_eq_true_iff

theorem judged_behindRun {s : State} {v : Nat} (hb : shownOffset s v < -1000) :
    (judged s v).time.behindRun = s.time.behindRun + 1 := if_pos ((farBehind_iff s v).mpr hb)

section
variable {s : State} {v : Nat}

/-- Far behind, before lock or for the fourth time: a step forward at once, and the module acquires anew. -/
theorem takeSync_stepsForward (hb : shownOffset s v < -1000) (h : s.time.state < 2 ∨ 3 ≤ s.time.behindRun) :
    s.takeSync v = acquiring ((judged s v).stepTime (v + s.valNat 0xA100 3)) := by
  rw [takeSync_eq, if_pos ((farBehind_iff s v).mpr hb), if_pos (by rw [judged_behindRun hb]; omega)]

/-- Far behind in lock, less than four times: the timebase waits. -/
theorem takeSync_waits (hb : shownOffset s v < -1000) (hs : 2 ≤ s.time.state) (hr : s.time.behindRun < 3) :
    s.takeSync v = judged s v := by
  rw [takeSync_eq, if_pos ((farBehind_iff s v).mpr hb), if_neg (by rw [judged_behindRun hb]; omega)]

/-- Far ahead with every partition quiet: a step back. -/
theorem takeSync_stepsBack (ho : 1000 < shownOffset s v) (hq : s.allQuiet = true) :
    s.takeSync v = (judged s v).stepTime (v + s.valNat 0xA100 3) := by
  rw [takeSync_eq, if_neg (by rw [farBehind_iff]; omega), if_pos ⟨ho, hq⟩]

/-- Within 1 µs, or ahead under work: the offset is slewed off. -/
theorem takeSync_slews (hb : -1000 ≤ shownOffset s v) (h : shownOffset s v ≤ 1000 ∨ s.allQuiet = false) :
    s.takeSync v = { judged s v with time := { (judged s v).time with slewPs := 1000 * shownOffset s v } } := by
  have hback : ¬(1000 < shownOffset s v ∧ s.allQuiet = true) := by
    rcases h with h | h
    · omega
    · simp [h]
  rw [takeSync_eq, if_neg (by rw [farBehind_iff]; omega), if_neg hback]

/-- Whatever it asks of the timebase, a word is answered in one of these four ways. -/
theorem takeSync_cases (s : State) (v : Nat) :
    (shownOffset s v < -1000 ∧ (s.time.state < 2 ∨ 3 ≤ s.time.behindRun)) ∨
    (shownOffset s v < -1000 ∧ 2 ≤ s.time.state ∧ s.time.behindRun < 3) ∨
    (1000 < shownOffset s v ∧ s.allQuiet = true) ∨
    (-1000 ≤ shownOffset s v ∧ (shownOffset s v ≤ 1000 ∨ s.allQuiet = false)) := by
  by_cases hb : shownOffset s v < -1000
  · omega
  · cases hq : s.allQuiet with
    | false => exact .inr (.inr (.inr ⟨by omega, .inr rfl⟩))
    | true => simp only [and_true]; omega

/-- Every word is learned from (R91, log 88). -/
theorem takeSync_learns (s : State) (v : Nat) : (s.takeSync v).time.offset = shownOffset s v ∧
    (s.takeSync v).time.corr = max (-8) (min 8 (Config.learned s.time.corr (shownOffset s v))) := by
  rcases takeSync_cases s v with ⟨hb, h⟩ | ⟨hb, hs, hr⟩ | ⟨ho, hq⟩ | ⟨hb, h⟩
  · rw [takeSync_stepsForward hb h]
    exact ⟨stepTime_offset _ _, stepTime_corr _ _⟩
  · rw [takeSync_waits hb hs hr]
    exact ⟨rfl, rfl⟩
  · rw [takeSync_stepsBack ho hq]
    exact ⟨stepTime_offset _ _, stepTime_corr _ _⟩
  · rw [takeSync_slews hb h]
    exact ⟨rfl, rfl⟩

theorem takeSync_now_forward (hv : v + s.valNat 0xA100 3 < 18446744073709551616) (hb : shownOffset s v < -1000)
    (h : s.time.state < 2 ∨ 3 ≤ s.time.behindRun) :
    (s.takeSync v).now = v + s.valNat 0xA100 3 ∧ (s.takeSync v).time.state = 1 := by
  rw [takeSync_stepsForward hb h]
  exact ⟨now_of_ps (stepTime_ps _ _) hv, rfl⟩

theorem takeSync_now_back (hv : v + s.valNat 0xA100 3 < 18446744073709551616) (ho : 1000 < shownOffset s v)
    (hq : s.allQuiet = true) : (s.takeSync v).now = v + s.valNat 0xA100 3 := by
  rw [takeSync_stepsBack ho hq]
  exact now_of_ps (stepTime_ps _ _) hv

/-- Under work no word turns the timebase back. -/
theorem takeSync_under_work (hv : v + s.valNat 0xA100 3 < 18446744073709551616) (hq : s.allQuiet = false) :
    s.now ≤ (s.takeSync v).now := by
  rcases takeSync_cases s v with ⟨hb, h⟩ | ⟨hb, hs, hr⟩ | ⟨-, hquiet⟩ | ⟨hb, h⟩
  · rw [(takeSync_now_forward hv hb h).1]
    have hb' : Int.ofNat s.now - Int.ofNat (s.valNat 0xA100 3) - Int.ofNat v < -1000 := hb
    simp only [Int.ofNat_eq_natCast] at hb'
    omega
  · rw [takeSync_waits hb hs hr]
    exact le_refl _
  · rw [hq] at hquiet
    cases hquiet
  · rw [takeSync_slews hb h]
    exact le_refl _
end

/-- s with the bus clock there again (R91). -/
def clockHeard (s : State) : State := { s with tfb := { s.tfb with clockLost := none } }

/-- What a follower does with a word of another module. -/
theorem sync_followed {s : State} {source v : Nat} (hm : s.tfb.master = false) (hs : source ≠ s.address) :
    exec (.sync source v) s = answerTime s ((clockHeard s).takeSync v) := by
  refine congrArg (answerTime s) ((if_neg hs).trans (if_neg ?_))
  rw [hm]
  decide

theorem takeSync_only (s : State) (v : Nat) :
    onlyChanges [.time, .tfb, .log, .shadow, .parts, .mem, .hbm, .outs] s ((clockHeard s).takeSync v) :=
  (path_takeSync (ks := [.time, .tfb, .log, .shadow, .parts, .mem, .hbm, .outs]) v (by decide)
    (path_set_tfb _ (by decide) (path_refl _ s))).frame

theorem takeSync_tfb (s : State) (v : Nat) : (s.takeSync v).tfb = s.tfb :=
  (path_takeSync (ks := [.time, .log, .parts, .mem, .hbm, .shadow, .outs]) v (by decide) (path_refl _ s)).frame .tfb (by decide)

/-- The master's own word is what it sends. -/
theorem sync_sent {s : State} {v : Nat} (hm : s.tfb.master = true) :
    ∃ t, exec (.sync s.address v) s = .next t ∧ onlyChanges [.outs, .tfb, .errq, .journal] s t ∧
      t.outs.head? = some (.tfb 1 [s.now]) :=
  answersTime (u := s.tfbSend 1 [s.now]) (congrArg (answerTime s) ((if_pos rfl).trans (if_pos hm))) (send_tfb_only s 1 _)
    (by decide) (fun t kt => congrArg List.head? (kt .outs (by decide)))

/-- Settles O27: the two answers to Timebase set, then a word that is followed by what it asks, and words that are not. -/
theorem timebaseNeverStepsBackUnderWork : Obligations.TimebaseNeverStepsBackUnderWork := by
  unfold Obligations.TimebaseNeverStepsBackUnderWork
  intro s r v source
  refine ⟨fun ha hv => ⟨timebaseSet_steps ha hv, timebaseSet_refused ha⟩, fun hm hs hv => ?follow,
    fun hm => ⟨fun hs => answersTime_same rfl ((if_neg hs).trans (if_pos hm)), fun hs => hs ▸ sync_sent hm⟩,
    fun hm hs => answersTime_same rfl ((if_pos hs).trans (if_neg (by rw [hm]; decide)))⟩
  case follow =>
    refine answersTime (sync_followed hm hs) (takeSync_only s v) (by decide) (fun t kt => ?_)
    have htime : t.time = ((clockHeard s).takeSync v).time := kt .time (by decide)
    have htfb : t.tfb = ((clockHeard s).takeSync v).tfb := kt .tfb (by decide)
    obtain ⟨hoffset, hcorr⟩ := takeSync_learns (clockHeard s) v
    rw [now_of htime, htime, htfb, takeSync_tfb, hcorr]
    refine ⟨takeSync_under_work (s := clockHeard s) hv, by omega, by omega, rfl, hoffset, fun hb h => ?_,
      takeSync_now_forward (s := clockHeard s) hv, fun hb h2 h3 => ?_, takeSync_now_back (s := clockHeard s) hv⟩
    · rw [takeSync_slews (s := clockHeard s) hb h]
      exact ⟨rfl, rfl⟩
    · rw [takeSync_waits (s := clockHeard s) hb h2 h3]
      exact ⟨rfl, judged_behindRun (s := clockHeard s) hb⟩

/-! ### The bus clock (R91, R455) -/

/-- s without a valid bus clock (R91): its learned correction is gone. -/
def freeRunning (s : State) : State :=
  { s with
    time := { s.time with state := 0, inWindow := 0, behindRun := 0, missed := 0, corr := 0 }
    tfb := { s.tfb with clockLost := some s.time.ticks } }

/-- s with the group epochs that are open broken by the loss of the bus clock (R105). -/
def groupsBroken (s : State) : State :=
  (partNumbers.filter s.grouped).foldl (fun s p => if (s.part p).fences.broken = 0x3103 then s else s.breakGroup p 0x3104) s

theorem groupsBroken_only (s : State) : onlyChanges [.parts] s (groupsBroken s) :=
  fold_only _ _ _ (fun t p => only_ite (only_refl _ _)
    (path_breakGroup (ks := [.parts]) p 0x3104 (by decide) (path_refl _ t)).frame) s

/-- s as the master of the bus clock, which is always Locked (R91, R455). -/
def mastering (s : State) : State :=
  { s with
    tfb := { s.tfb with master := true, clockLost := none }
    time := { s.time with state := 2, offset := 0, slewPs := 0, missed := 0, behindRun := 0 } }

section
variable {s : State}

/-- Neither the master, nor a module in Free-run, misses sync words. -/
theorem clock_unwatched (h : s.tfb.master = true ∨ s.time.state = 0) :
    (∃ t, exec .holdover s = .next t ∧ onlyChanges [.errq, .journal] s t) ∧
      ∃ t, exec .freeRun s = .next t ∧ onlyChanges [.errq, .journal] s t :=
  ⟨answersTime_same rfl (if_pos h), answersTime_same rfl (if_pos h)⟩

theorem holdover_keeps_correction (hm : s.tfb.master = false) (hs : s.time.state ≠ 0) :
    ∃ t, exec .holdover s = .next t ∧ onlyChanges [.time, .errq, .journal] s t ∧ t.time.state = 3 ∧ t.time.ps = s.time.ps ∧
      t.time.corr = s.time.corr :=
  answersTime (congrArg (answerTime s) (if_neg (by simp [hm, hs])))
    (path_set_time (ks := [.time]) _ (by decide) (path_refl _ s)).frame (by decide)
    (fun t kt => by rw [show t.time = _ from kt .time (by decide)]; exact ⟨rfl, rfl, rfl⟩)

theorem freeRun_drops_correction (hm : s.tfb.master = false) (hs : s.time.state ≠ 0) :
    ∃ t, exec .freeRun s = .next t ∧ onlyChanges [.time, .tfb, .parts, .errq, .journal] s t ∧ t.time.state = 0 ∧
      t.time.ps = s.time.ps ∧ t.time.corr = 0 ∧ t.tfb.clockLost = some s.time.ticks := by
  have hbroken := groupsBroken_only (freeRunning s)
  refine answersTime (ks := [.time, .tfb, .parts]) (u := groupsBroken (freeRunning s))
    (congrArg (answerTime s) (if_neg (by simp [hm, hs])))
    (only_trans (only_mono (timeTfb_only s _ _) (by decide)) (only_mono hbroken (by decide))) (by decide) (fun t kt => ?_)
  rw [show t.time = (freeRunning s).time from (kt .time (by decide)).trans (hbroken .time (by decide)),
    show t.tfb = (freeRunning s).tfb from (kt .tfb (by decide)).trans (hbroken .tfb (by decide))]
  exact ⟨rfl, rfl, rfl, rfl⟩

theorem masterTakeover_takes (hm : s.tfb.master = false) (he : s.valNat 0xA100 2 = 0) :
    ∃ t, exec (.masterTakeover s.address) s = .next t ∧ t.tfb.master = true ∧ t.time.state = 2 ∧ t.time.ps = s.time.ps ∧
      onlyChanges [.time, .tfb, .errq, .journal] s t := by
  have hu : exec (.masterTakeover s.address) s = answerTime s (mastering s) :=
    congrArg (answerTime s) ((if_pos rfl).trans (if_neg (by simp [hm, he])))
  obtain ⟨t, e, k, htfb, htime⟩ := answersTime (ls := [.time, .tfb, .errq, .journal])
    (P := fun t => t.tfb = (mastering s).tfb ∧ t.time = (mastering s).time) hu (timeTfb_only s _ _) (by decide)
    (fun t kt => ⟨kt .tfb (by decide), kt .time (by decide)⟩)
  exact ⟨t, e, by rw [htfb]; rfl, by rw [htime]; rfl, by rw [htime]; rfl, k⟩

/-- The master hands over to a module that takes over, and acquires its clock. -/
theorem masterTakeover_handsOver (hm : s.tfb.master = true) {a : Nat} (ha : a ≠ s.address) :
    ∃ t, exec (.masterTakeover a) s = .next t ∧ t.tfb.master = false ∧ t.time.state = 1 ∧
      onlyChanges [.time, .tfb, .errq, .journal] s t := by
  have hu : exec (.masterTakeover a) s = answerTime s (acquiring { s with tfb := { s.tfb with master := false } }) :=
    congrArg (answerTime s) ((if_neg ha).trans (if_pos hm))
  obtain ⟨t, e, k, htfb, htime⟩ := answersTime (ls := [.time, .tfb, .errq, .journal])
    (P := fun t => t.tfb = { s.tfb with master := false } ∧ t.time = (acquiring s).time) hu (timeTfb_only s _ _) (by decide)
    (fun t kt => ⟨kt .tfb (by decide), kt .time (by decide)⟩)
  exact ⟨t, e, by rw [htfb], by rw [htime]; rfl, k⟩

theorem masterTakeover_heard (hm : s.tfb.master = false) {a : Nat} (ha : a ≠ s.address) :
    ∃ t, exec (.masterTakeover a) s = .next t ∧ t.tfb.clockLost = none ∧ t.tfb.master = false ∧
      onlyChanges [.tfb, .errq, .journal] s t := by
  have hu : exec (.masterTakeover a) s = answerTime s (clockHeard s) :=
    congrArg (answerTime s) ((if_neg ha).trans (if_neg (by simp [hm])))
  obtain ⟨t, e, k, htfb⟩ := answersTime (ls := [.tfb, .errq, .journal]) (P := fun t => t.tfb = (clockHeard s).tfb) hu
    (path_set_tfb (ks := [.tfb]) _ (by decide) (path_refl _ s)).frame (by decide) (fun t kt => kt .tfb (by decide))
  exact ⟨t, e, by rw [htfb]; rfl, by rw [htfb]; exact hm, k⟩
end

/-- Settles O28: what a follower loses and keeps, then what the master does, and who takes over. -/
theorem modulesFollowTheBusClock : Obligations.ModulesFollowTheBusClock := by
  unfold Obligations.ModulesFollowTheBusClock
  intro s
  refine ⟨fun hm hs => ⟨holdover_keeps_correction hm hs, freeRun_drops_correction hm hs⟩, fun hm => ?master,
    masterTakeover_takes, fun hm a => masterTakeover_heard hm⟩
  case master =>
    obtain ⟨hholdover, hfree⟩ := clock_unwatched (.inl hm)
    exact ⟨hholdover, hfree, fun a => masterTakeover_handsOver hm⟩

/-! ### Scheduled snapshots (R110 to R112) -/

/-- The time T of a snapshot is one that may be asked for: 10 µs to 60 s ahead (R110). -/
def aheadEnough (s : State) (v : Nat) : Prop := s.now + 10000 ≤ v ∧ v ≤ s.now + 60000000000

/-- s with a snapshot armed for a time (R110). -/
def snapshotArmed (s : State) (v : Nat) : State := { s with time := { s.time with snapState := 1, snapTime := v } }

theorem writeSnapshot_arms {s : State} {v : Nat} (hv : aheadEnough s v) (h0 : s.time.snapState = 0) :
    s.writeSnapshot v = (snapshotArmed s v, 0) := by
  obtain ⟨hlow, hhigh⟩ := hv
  unfold State.writeSnapshot
  rw [if_neg (by omega), if_neg (by omega)]
  rfl

theorem writeSnapshot_conflicts {s : State} {v : Nat} (hv : aheadEnough s v) (h0 : s.time.snapState ≠ 0) :
    s.writeSnapshot v = (s, 0x4104) := by
  obtain ⟨hlow, hhigh⟩ := hv
  unfold State.writeSnapshot
  rw [if_neg (by omega), if_pos h0]

theorem writeSnapshot_outside {s : State} {v : Nat} (h : v < s.now + 10000 ∨ s.now + 60000000000 < v) :
    s.writeSnapshot v = (s, 0x3105) := if_pos h

section
variable {s : State} {r : Req} {v : Nat}

theorem snapshotTime_arms (ha : acceptsWrite s r 0x6000 0x10 8 (le 8 v)) (hv : aheadEnough s v) (h0 : s.time.snapState = 0) :
    ∃ t, exec (.snapshotTime r v) s = .next t ∧ respondedWith t r 2 0x6000 0x10 0 [] ∧ t.time.snapState = 1 ∧
      t.time.snapTime = v ∧ t.time.ps = s.time.ps := by
  obtain ⟨cs, t, e, hr, k⟩ := servedTime (f := fun s => done (s.writeSnapshot v)) (g := fun cs => snapshotArmed (replayed s cs) v)
    ha (fun cs => congrArg done (writeSnapshot_arms (s := replayed s cs) hv h0))
  have ht : t.time = (snapshotArmed s v).time := k .time (by decide)
  exact ⟨t, e, hr, by rw [ht]; rfl, by rw [ht]; rfl, by rw [ht]; rfl⟩

/-- A write that the snapshot's rules refuse leaves the timebase and the snapshot as they are. -/
theorem snapshotTime_refused (ha : acceptsWrite s r 0x6000 0x10 8 (le 8 v)) {st : Nat} (hst : st ≠ 0)
    (h : ∀ cs, (replayed s cs).writeSnapshot v = (replayed s cs, st)) :
    ∃ t, exec (.snapshotTime r v) s = .next t ∧ respondedWith t r 2 0x6000 0x10 st [] ∧ t.time = s.time := by
  obtain ⟨t, e, hr, k⟩ := refusedTime (f := fun s => done (s.writeSnapshot v)) ha (fun cs => congrArg done (h cs)) hst
  exact ⟨t, e, hr, k .time (by decide)⟩

theorem snapshotLatch_latches (h1 : s.time.snapState = 1) (hn : s.time.snapTime ≤ s.now) :
    ∃ t, exec .snapshotLatch s = .next t ∧ onlyChanges [.time, .shadow, .errq, .journal] s t ∧ t.time.snapState = 2 ∧
      t.shadow = s.latched ∧ t.time.snapSeq = (s.time.snapSeq + 1) % 4294967296 ∧ t.time.ps = s.time.ps := by
  refine answersTime (u := s.latch 2) (congrArg (answerTime s) (if_pos ⟨h1, hn⟩))
    (path_latch (ks := [.time, .shadow]) 2 (by decide) (path_refl _ s)).frame (by decide) (fun t kt => ?_)
  rw [show t.time = (s.latch 2).time from kt .time (by decide)]
  exact ⟨rfl, kt .shadow (by decide), rfl, rfl⟩

theorem snapshotLatch_idle (h : s.time.snapState ≠ 1 ∨ s.now < s.time.snapTime) :
    ∃ t, exec .snapshotLatch s = .next t ∧ onlyChanges [.errq, .journal] s t :=
  answersTime_same rfl (if_neg (by omega))

theorem snapshotRelease_releases (ha : acceptsWrite s r 0x6000 0x12 2 (le 1 v)) :
    ∃ t, exec (.snapshotRelease r v) s = .next t ∧ respondedWith t r 2 0x6000 0x12 0 [] ∧ t.time.snapState = 0 ∧
      t.shadow = [] ∧ t.time.ps = s.time.ps := by
  obtain ⟨cs, t, e, hr, k⟩ := servedTime (f := fun s => (s.releaseSnapshot, some 0))
    (g := fun cs => (replayed s cs).releaseSnapshot) ha (fun _ => rfl)
  have ht : t.time = s.releaseSnapshot.time := k .time (by decide)
  exact ⟨t, e, hr, by rw [ht]; rfl, k .shadow (by decide), by rw [ht]; rfl⟩
end

/-- Settles O29: the three answers to a snapshot time, the latch, and the release. -/
theorem snapshotsLatchEveryCounterAtTheirTime : Obligations.SnapshotsLatchEveryCounterAtTheirTime := by
  unfold Obligations.SnapshotsLatchEveryCounterAtTheirTime
  intro s r v
  refine ⟨fun ha => ⟨fun hlow hhigh => ⟨snapshotTime_arms ha ⟨hlow, hhigh⟩, fun h0 => ?held⟩, fun h => ?outside⟩,
    snapshotLatch_latches, snapshotLatch_idle, snapshotRelease_releases⟩
  case held => exact snapshotTime_refused ha (by decide) (fun cs => writeSnapshot_conflicts (s := replayed s cs) ⟨hlow, hhigh⟩ h0)
  case outside => exact snapshotTime_refused ha (by decide) (fun cs => writeSnapshot_outside (s := replayed s cs) h)

end Sys2Proof.Proofs.Timebase

/-!
SUPPORT. The front bus under a full error queue: a loss that a module declares while neither its reserve nor the shared entries take
its 0x7303 puts every partition at work into Safe-stop (R340), which has no rollback; the refutation of O52 from this.
-/

namespace Sys2Proof.Proofs.FrontBus

open Sys2Proof Sys2Proof.Machine Sys2Proof.Safety Sys2Proof.Laws Sys2Proof.Laws.Shared

/-! ### Messages that are taken (R454) -/

/-- A message that is no copy is taken, and noted in the bus's own state alone. -/
theorem message_taken {s : State} {source : Nat} {fields : List Nat} (f : State → State) (h : unheard s source fields) :
    ∃ y : Tfb, s.message source fields f = f { s with tfb := y } := by
  obtain ⟨hs, hseen⟩ := h
  have hnew : ¬(source = s.address ∨
      (s.tfb.seen.filter (fun m => s.time.ticks ≤ m.2 + superframes)).any (fun e => e.1 == source :: fields) = true) := by
    rintro (h | h)
    · exact hs h
    · obtain ⟨e, he, hcopy⟩ := List.any_eq_true.mp h
      obtain ⟨hmem, hrecent⟩ := List.mem_filter.mp he
      have hold := hseen e hmem (eq_of_beq hcopy)
      have hrecent := of_decide_eq_true hrecent
      unfold superframes at hrecent
      omega
  unfold State.message
  extract_lets recent m u
  rw [if_neg hnew]
  unfold State.stampTfb
  split
  · exact ⟨_, rfl⟩
  · exact ⟨_, rfl⟩

/-! ### Partitions in Safe-stop (R341) -/

/-- Partition p is in Safe-stop and rolls back to nothing. -/
def stopped (s : State) (p : Nat) : Prop := (s.part p).state = .safeStop ∧ (s.part p).rcv.rollback = none

section
variable {s t : State} {p : Nat}

theorem stopped_of (h : t.parts = s.parts) (hs : stopped s p) : stopped t p := by
  unfold stopped
  rw [part_of h]
  exact hs

theorem stopped_modPart (f : Part → Part) (hf : ∀ q, (f q).state = q.state ∧ (f q).rcv.rollback = q.rcv.rollback)
    (hs : stopped s p) : stopped (s.modPart p f) p := by
  obtain ⟨hstate, hroll⟩ := hs
  unfold stopped
  rw [part_modPart]
  exact ⟨(hf _).1.trans hstate, (hf _).2.trans hroll⟩

theorem leaveGroup_rcv (s : State) (p : Nat) : ((s.leaveGroup p).part p).rcv = (s.part p).rcv := by
  unfold State.leaveGroup
  split
  · rw [part_modPart]
    rfl
  · rfl

theorem publish_rcv (s : State) (p : Nat) : ((s.publish p).part p).rcv = (s.part p).rcv := by
  rw [part_publish]
  split <;> rfl

theorem enterSafeStop_stopped (s : State) (p st : Nat) : stopped (s.enterSafeStop p st) p := by
  refine ⟨safe_state s p st, ?_⟩
  unfold State.enterSafeStop State.disarm
  extract_lets u v w
  rw [setPState_rcv, leaveGroup_rcv, part_sync, part_modLease]
  show ((w.publish p).part p).rcv.rollback = none
  rw [publish_rcv]
  unfold w
  rw [part_modRcv]

/-- An overflow stops a partition that is not stopped yet (R340). -/
theorem overflowStop_stopped (h : (s.part p).state ≠ .safeStop) : stopped (s.overflowStop p) p := by
  have hs := enterSafeStop_stopped s p 0x7101
  unfold State.overflowStop State.queueOverflow
  rw [if_neg h]
  split
  · exact hs
  · exact stopped_of (enqueue_same _ _ _ .parts (by decide)) hs
end

/-! ### A loss declared under a full error queue (R320, R340) -/

/-- The error queue has room neither in its general reserve nor in the shared entries (R335). -/
def fullErrors (q : ErrQ) : Prop := 28 ≤ q.reserveUsed ∧ 224 ≤ q.sharedUsed

/-- The partitions that an overflow of the reserve stops (R340). -/
def busyParts (s : State) : List Nat := partNumbers.filter (fun p => !(s.part p).state.quiet)

/-- The entry of a module loss (R320). -/
def lossErr (m : Nat) : ErrSpec := { status := 0x7303, unitKind := 0x0D, unit := m }

/-- An entry of the reserve that a full queue loses stops every partition at work, and that is broadcast (R340). -/
theorem enrol_overflows {s : State} {e : ErrSpec} (he : 4 ≤ e.part) (hf : fullErrors s.errq) : ∃ fields, s.enrol e =
    ((busyParts s).foldl State.overflowStop
      { s with errq := { s.errq with reserveLost := s.errq.reserveLost + 1 } }).tfbSend 3 fields := by
  obtain ⟨hreserve, hshared⟩ := hf
  exact ⟨_, (if_pos (.inl he)).trans ((if_neg (by omega)).trans (if_neg (by omega)))⟩

/-- s with the loss of module m taken by the member p of a group, but for its rollback (R320). -/
def lossTaken (s : State) (m p : Nat) : State :=
  let s := s.modRcv p (fun r => { r with lost := m :: r.lost })
  let s := (s.moduleWrite (0x3050 + 256 * p) 2 (le 1 (s.pval p 0x50 2 - 1))).dropHolder p m
  if (s.part p).binding.module = m then s.modPart p (fun q => { q with binding := { q.binding with bound := false } }) else s

section
variable {s : State} {p m : Nat}

/-- A loss that the one member p of a group here declares (R320, R322). -/
theorem declareLost_one (ho : onlyMember s p) (hl : (s.part p).rcv.lost.contains m = false) : s.declareLost m true =
    let u := lossTaken ((s.raise (lossErr m)).tfbSend 4 [m]) m p
    if (u.part p).state.works && (u.part p).state != .reclaiming then u.beginRollback p 0x7303 none else u := by
  obtain ⟨hp, hmember, hothers⟩ := ho
  unfold State.declareLost
  rw [hit_one hp hothers hmember hl]
  rfl

theorem lossTaken_stopped (hs : stopped s p) : stopped (lossTaken s m p) p := by
  unfold lossTaken State.dropHolder
  extract_lets u w
  have hu : stopped u p := stopped_modPart _ (fun _ => ⟨rfl, rfl⟩) hs
  have hw : stopped w p := stopped_modPart _ (fun _ => ⟨rfl, rfl⟩) (stopped_of (moduleWrite_same u _ _ _ .parts (by decide)) hu)
  split
  · exact stopped_modPart _ (fun _ => ⟨rfl, rfl⟩) hw
  · exact hw

/-- A loss declared where the full queue loses its entry stops the one partition at work, which is past a rollback then. -/
theorem declareLost_full_stopped (hw : s.errq.window (lossErr m) = none) (hf : fullErrors s.errq) (hb : busyParts s = [p])
    (hs : (s.part p).state ≠ .safeStop) (ho : onlyMember s p) (hl : (s.part p).rcv.lost.contains m = false) :
    stopped (s.declareLost m true) p := by
  have hraise : s.raise (lossErr m) = s.enrol (lossErr m) := by
    unfold State.raise
    rw [hw]
    exact if_neg (fun h => absurd h.1 (by simp only [lossErr]; decide))
  have henrol : stopped (s.raise (lossErr m)) p := by
    obtain ⟨fields, e⟩ := enrol_overflows (e := lossErr m) (by simp [lossErr]) hf
    rw [hraise, e, hb]
    exact stopped_of (send_tfb_only _ 3 _ .parts (by decide)) (overflowStop_stopped hs)
  have htaken := lossTaken_stopped (m := m) (stopped_of (send_tfb_only _ 4 [m] .parts (by decide)) henrol)
  rw [declareLost_one ho hl]
  dsimp only
  rw [htaken.1]
  exact htaken
end

/-! ### A member at work whose error queue is full -/

/-- A committed sachet at tier 2. -/
def landedSachet : Sachet := { id := 7, tier2 := true, landed := true, committed := true }

/-- An entry with a sequence number, of a partition, in a pool of the error queue (R335). -/
def filler (part pool seq : Nat) : ErrEntry := { seq := seq, status := 0x2201, sev := 1, tDetect := 0, part := part, pool := pool }

/-- An error queue of n entries of the module in the general reserve and m of partition 0 among the shared ones. -/
def fillers (n m : Nat) : ErrQ :=
  { entries := (List.range n).map (filler 0xFF 1) ++ (List.range' n m).map (filler 0 0), nextSeq := n + m }

theorem fillers_reserveUsed (n m : Nat) : (fillers n m).reserveUsed = n := by
  simp [ErrQ.reserveUsed, fillers, filler, List.filter_map, Function.comp_def]

theorem fillers_sharedUsed (n m : Nat) : (fillers n m).sharedUsed = m := by
  simp [ErrQ.sharedUsed, fillers, filler, List.filter_map, Function.comp_def]

/-- No recovery window is open on a module (R339). -/
theorem fillers_window (n m k : Nat) : (fillers n m).window (lossErr k) = none := by
  refine List.find?_eq_none.mpr (fun x hx => ?_)
  have hunit : x.unitKind = 0 := by
    rcases List.mem_append.mp hx with h | h <;> obtain ⟨i, -, rfl⟩ := List.mem_map.mp h <;> rfl
  simp [hunit, lossErr]

/-- Partition 0 runs as the only member of a group, with a sachet to go back to, under a full error queue. -/
def crowdedMember : State :=
  { State.reset with
    parts := [(0, { Part.first with state := .running, member := true, rcv := { sachets := [landedSachet] } })]
    errq := fillers 28 224 }

theorem crowdedMember_full : fullErrors crowdedMember.errq :=
  ⟨(fillers_reserveUsed 28 224).ge, (fillers_sharedUsed 28 224).ge⟩

theorem crowdedMember_only : onlyMember crowdedMember 0 := by
  unfold onlyMember
  decide +kernel

theorem crowdedMember_unheard : unheard crowdedMember 1 [3, 0, 0, 1] := ⟨by decide, fun _ he => absurd he List.not_mem_nil⟩

theorem crowdedMember_stopped (y : Tfb) : stopped (State.declareLost { crowdedMember with tfb := y } 1 true) 0 :=
  declareLost_full_stopped (fillers_window 28 224 1) crowdedMember_full rfl
    (show (crowdedMember.part 0).state ≠ .safeStop by decide) crowdedMember_only rfl

/-- The broadcast of a fault of module 1 leaves the member of crowdedMember in Safe-stop, with no rollback. -/
theorem crowdedMember_faultBroadcast :
    ∃ u, exec (.faultBroadcast 1 0 false 1) crowdedMember = answer crowdedMember u ∧ stopped u 0 := by
  obtain ⟨y, e⟩ := message_taken (fun s => if 1 = 1 then s.declareLost 1 true else s) crowdedMember_unheard
  rw [if_pos rfl] at e
  exact ⟨_, congrArg (answer crowdedMember) e, crowdedMember_stopped y⟩

/-- Refutes O52: a module whose error queue is full stops its partitions (R340) instead of rolling them back when a fault
broadcast declares another module lost, and the clause on the rollback asks for no room in the queue. -/
theorem not_theFrontBusReachesItsMembers : ¬ Obligations.TheFrontBusReachesItsMembers := by
  unfold Obligations.TheFrontBusReachesItsMembers
  intro h
  obtain ⟨-, -, hfault, -⟩ := h crowdedMember 1 0 1 0 false
  obtain ⟨-, hlost⟩ := hfault crowdedMember_unheard
  obtain ⟨-, hback⟩ := hlost (.inl rfl) 0 crowdedMember_only rfl
  obtain ⟨t, e, -, -, hroll⟩ := hback landedSachet 2 rfl rfl (by decide +kernel) rfl rfl rfl (by decide)
  obtain ⟨u, eu, -, hnone⟩ := crowdedMember_faultBroadcast
  obtain rfl := Host.Outcome.next.inj (eu.symm.trans e)
  exact nomatch hnone.symm.trans hroll

end Sys2Proof.Proofs.FrontBus

/-!
SUPPORT. The move engine: what a verified read leaves, the packets of a copy on the mesh, what each move command stores, and
the statement of O43 from these.
-/

namespace Sys2Proof.Proofs.MoveEngine

open Sys2Proof Sys2Proof.Machine Sys2Proof.Safety Sys2Proof.Laws Sys2Proof.Laws.Shared Sys2Proof.Proofs.GathersAndAdds

/-! ### What the effects of a move command leave -/

theorem movePackets_only (s : State) (p n : Nat) (reads writes : List Nat) :
    onlyChanges [.log, .boot] s (s.movePackets p n reads writes) :=
  (path_movePackets (ks := [.log, .boot]) p n reads writes (by decide) (path_refl _ s)).frame

theorem loaded_only (s : State) (p a n : Nat) : onlyChanges [.ctr] s (s.loaded p a n) :=
  (path_loaded (ks := [.ctr]) p a n (by decide) (path_refl _ s)).frame

/-- Addresses lie where they did after packets, counts and errors. -/
theorem place_kept {s t : State} (h : onlyChanges [.log, .boot, .ctr, .free, .errq, .outs, .tfb] s t) (p a : Nat) :
    t.place p a = s.place p a := place_of (only_mono h (by decide)) p a

/-- After packets, counts and errors the same bytes are read. -/
theorem rd_kept {s t : State} (h : onlyChanges [.log, .boot, .ctr, .free, .errq, .outs, .tfb] s t) (p a n : Nat) :
    t.rd p a n = s.rd p a n := rd_of (place_kept h) (h .mem (by decide)) p a n

theorem alike_kept {s t : State} (h : onlyChanges [.log, .boot, .ctr, .free, .errq, .outs, .tfb] s t) : alike t s :=
  ⟨h .mem (by decide), place_kept h⟩

/-- A verified read meets the same mismatches after the mesh took packets. -/
theorem readStop_kept {s t : State} (h : onlyChanges [.log, .boot] s t) (p a n : Nat) (faults : List BlockFault) :
    t.readStop p a n faults = s.readStop p a n faults := by
  have h1 : t.parts = s.parts := h .parts (by decide)
  have h2 : t.vals = s.vals := h .vals (by decide)
  have h3 : t.hbm = s.hbm := h .hbm (by decide)
  have h4 : t.sites = s.sites := h .sites (by decide)
  have h5 : t.siteState = s.siteState := h .siteState (by decide)
  have h6 : t.factory = s.factory := h .factory (by decide)
  obtain ⟨⟩ := s
  obtain ⟨⟩ := t
  dsimp only at h1 h2 h3 h4 h5 h6
  subst h1 h2 h3 h4 h5 h6
  rfl

/-- Which tiles a tensor command holds depends on the partitions, their entries, the sites and the queues. -/
theorem tilesApart_kept {s t : State} {p a : Nat}
    (h : onlyChanges [.log, .boot, .mem, .hbm, .ctr, .free, .errq, .outs, .tfb] s t) (ha : tilesApart s p a) :
    tilesApart t p a := by
  have hw : t.inAccWindow p a 1 = s.inAccWindow p a 1 := by
    have h1 : t.parts = s.parts := h .parts (by decide)
    have h2 : t.vals = s.vals := h .vals (by decide)
    have h3 : t.siteState = s.siteState := h .siteState (by decide)
    have h4 : t.factory = s.factory := h .factory (by decide)
    obtain ⟨⟩ := s
    obtain ⟨⟩ := t
    dsimp only at h1 h2 h3 h4
    subst h1 h2 h3 h4
    rfl
  unfold tilesApart
  rw [hw, running_of (h .queues (by decide)) (h .parts (by decide))]
  exact ha

/-! ### Commands of the move engine -/

/-- An engine whose command its selection takes gives it its effect and hands it over. -/
theorem engine_runs {s : State} {k n : Nat} {r : QRef} {c : CmdRec} {sel : Cmd → Bool}
    {f : State → QRef → CmdRec → State × Nat} (h : runs s k n r c) (hs : sel c.cmd = true) :
    s.engine k n sel f = (f s r c).1.issue k n r (f s r c).2 := by
  obtain ⟨hrun, hhold⟩ := h
  unfold State.engine
  rw [hrun]
  dsimp only
  rw [hs, hhold, if_pos (by decide)]

/-- A move command is handed over with its effect, which may count its packets in the mesh and in the log. -/
theorem move_hands_over {s u : State} {n st : Nat} {r : QRef} {c : CmdRec} {sel : Cmd → Bool} {i : Instr}
    {f : State → QRef → CmdRec → State × Nat} (hi : exec i s = answer s (s.engine 3 n sel f)) (h : runs s 3 n r c)
    (hs : sel c.cmd = true) (hf : f s r c = (u, st))
    (hk : onlyChanges [.log, .sites, .mem, .hbm, .ctr, .free, .errq, .outs, .boot, .tfb] s u) :
    ∃ t, exec i s = .next t ∧ handedOver 3 n r c st s t ∧ t.mem = u.mem ∧ ∀ e, queued s u e → queued s t e := by
  obtain ⟨t, e, ho, hm, -, -, -, -, hq⟩ := answer_engine h hs hf hk (by decide)
  exact ⟨t, hi.trans e, ho, hm, fun e he => queued_settled (x := u.issue 3 n r st) he t hq⟩

/-! ### Verified reads that stop (R235, R236, R240) -/

/-- The error of a read that stops at address b: a parity error on the plane, a block that does not match in HBM. -/
def readErr (s : State) (p b : Nat) : ErrSpec :=
  if planeBase ≤ b then parityErr s p b else blockErr ((s.place p b).getD 0) p

theorem readErr_kept {s t : State} (h : onlyChanges [.log, .boot, .ctr, .free, .errq, .outs, .tfb] s t) (p b : Nat) :
    readErr t p b = readErr s p b := by
  unfold readErr parityErr
  rw [place_kept h]

theorem raiseParity_queued {s : State} {p a : Nat} (ref : Nat) (h : roomFor s (parityErr s p a)) :
    onlyChanges [.errq, .outs, .boot, .tfb] s (s.raiseParity p a ref) ∧
      queued s (s.raiseParity p a ref) (parityErr s p a) :=
  raise_room (e := { parityErr s p a with addr := a, ref := ref }) h

/-- Addresses lie where they did once a block is marked as one that does not match. -/
theorem place_spoilt (s : State) (k n p a : Nat) :
    ({ s with free := n, hbm := s.hbm.spoilt k } : State).place p a = s.place p a := by
  unfold Hbm.spoilt
  split <;> rfl

theorem raiseBlock_place {s : State} {p a : Nat} (consumer ref : Nat) (h : roomFor s (blockErr ((s.place p a).getD 0) p))
    (q x : Nat) : (s.raiseBlock p a consumer ref).place q x = s.place q x := by
  unfold State.raiseBlock State.raisePlace
  generalize (s.place p a).getD 0 = place at *
  generalize s.crcDetail _ _ _ = d
  obtain ⟨hr, -⟩ := raise_room (s := { s with free := s.free + 4, hbm := s.hbm.spoilt (blockOf place) })
    (e := { blockErr place p with addr := a, ref := ref, detail := d }) (roomFor_of h rfl rfl)
  exact (place_kept (only_mono hr (by decide)) q x).trans (place_spoilt s _ _ q x)

theorem raiseRead_queued {s : State} {r : QRef} {b : Nat} (consumer : Nat) (h : roomFor s (readErr s r.part b)) :
    onlyChanges [.hbm, .free, .errq, .outs, .boot, .tfb] s (s.raiseRead r consumer b) ∧
      (∀ q x, (s.raiseRead r consumer b).place q x = s.place q x) ∧
      queued s (s.raiseRead r consumer b) (readErr s r.part b) := by
  unfold State.raiseRead
  unfold readErr at h ⊢
  split
  case isTrue hb =>
    rw [if_pos hb] at h
    obtain ⟨hk, hq⟩ := raiseParity_queued (s.refOf r) h
    exact ⟨only_mono hk (by decide), place_kept (only_mono hk (by decide)), hq⟩
  case isFalse hb =>
    rw [if_neg hb] at h
    obtain ⟨hk, hq⟩ := raiseBlock_queued consumer (s.refOf r) h
    exact ⟨hk, raiseBlock_place consumer (s.refOf r) h, hq⟩

/-- A verified read that stops at address b gives the bytes before it, with the error queued. -/
theorem readVerified_stops {s : State} {r : QRef} {a n b : Nat} {faults : List BlockFault}
    (h : (s.readStop r.part a n faults).1 = some b) (hroom : roomFor s (readErr s r.part b)) :
    ∃ u, s.readVerified r a n faults = (u, s.rd r.part a (b - a), 0x2201) ∧
      onlyChanges [.ctr, .hbm, .free, .errq, .outs, .boot, .tfb] s u ∧ (∀ q x, u.place q x = s.place q x) ∧
      queued s u (readErr s r.part b) := by
  unfold State.readVerified
  dsimp only
  rw [h]
  dsimp only [Option.map, Option.getD]
  generalize List.filter _ (wholeBlockAddrs a n) = bs
  have hv := verified_only s r.part faults bs a (b - a)
  generalize (s.countVerified r.part faults bs).loaded r.part a (b - a) = v at *
  have hplace := place_kept (only_mono hv (by decide))
  have hnext : v.errq = s.errq := hv .errq (by decide)
  have herr : readErr v r.part b = readErr s r.part b := readErr_kept (only_mono hv (by decide)) _ _
  rw [← herr] at hroom
  obtain ⟨hk, hkp, hq⟩ := raiseRead_queued 1 (roomFor_of hroom hnext (hv .parts (by decide)))
  rw [herr] at hq
  unfold queued at hq
  rw [hnext] at hq
  exact ⟨v.raiseRead r 1 b, by rw [rd_kept (only_mono hv (by decide))],
    only_trans (only_mono hv (by decide)) (only_mono hk (by decide)), fun q x => (hkp q x).trans (hplace q x), hq⟩

/-! ### Copies (R83, R172, R235) -/

/-- The effect of a copy whose verified read leaves u with some bytes: they are stored at the destination. -/
def copied (p a : Nat) (bs : List Byte) (u : State) : State := (u.store p a bs).spoilAt p a bs.length

theorem copied_only (p a : Nat) (bs : List Byte) (u : State) :
    onlyChanges [.sites, .mem, .hbm, .ctr, .free] u (copied p a bs u) :=
  only_trans (only_mono (store_only u p a bs) (by decide)) (only_mono (spoilAt_only _ p a _) (by decide))

/-- Bytes copied where no running tensor command has its tiles stand there as they were read (R172). -/
theorem copied_stored {s u : State} {p a : Nat} (bs : List Byte) (hm : memoryCanonical s)
    (h : onlyChanges [.log, .hbm, .ctr, .free, .errq, .outs, .boot, .tfb] s u)
    (hp : ∀ q x, u.place q x = s.place q x) (ha : tilesApart s p a) :
    stored p a bs s (copied p a bs u) := by
  have hmem : u.mem = s.mem := h .mem (by decide)
  have hapart : tilesApart (u.store p a bs) p a :=
    tilesApart_kept (only_trans (only_mono h (by decide)) (only_mono (store_only u p a bs) (by decide))) ha
  unfold copied
  rw [spoilAt_apart _ hapart]
  have hu : memoryCanonical u := by unfold memoryCanonical; rw [hmem]; exact hm
  exact stored_from (store_stored u p a bs hu) hmem (hp p)

/-- A copy whose verified read finds every block stores all that it read. -/
theorem copy_stores_all {s : State} {n : Nat} {r : QRef} {c : CmdRec} {faults : List BlockFault} (h : runs s 3 n r c)
    (hm : memoryCanonical s) (hop : c.cmd.opcode = 1) (hd : bit c.cmd.arg4 0 = false)
    (hx : (s.readStop r.part c.cmd.arg0 c.cmd.arg3 faults).1 = none) :
    ∃ t, exec (.copy n faults) s = .next t ∧
      handedOver 3 n r c (if (s.readStop r.part c.cmd.arg0 c.cmd.arg3 faults).2 then 0x0103 else 0) s t ∧
      (tilesApart s r.part c.cmd.arg1 → stored r.part c.cmd.arg1 (s.rd r.part c.cmd.arg0 c.cmd.arg3) s t) := by
  have hp := movePackets_only s r.part n [c.cmd.arg0] [c.cmd.arg1]
  have hstop := readStop_kept hp r.part c.cmd.arg0 c.cmd.arg3 faults
  rw [← hstop] at hx ⊢
  obtain ⟨u, hu, hk⟩ := read_ok _ _ _ _ _ hx
  rw [rd_kept (only_mono hp (by decide))] at hu
  have hsu : onlyChanges [.log, .boot, .ctr] s u := only_trans (only_mono hp (by decide)) (only_mono hk (by decide))
  obtain ⟨t, e, ho, htm, -⟩ := move_hands_over (i := .copy n faults)
    (u := copied r.part c.cmd.arg1 (s.rd r.part c.cmd.arg0 c.cmd.arg3) u) rfl h (by simp [hop, hd]) (by rw [hu]; rfl)
    (only_trans (only_mono hsu (by decide)) (only_mono (copied_only _ _ _ u) (by decide)))
  exact ⟨t, e, ho, fun ha => stored_mem
    (copied_stored _ hm (only_mono hsu (by decide)) (place_kept (only_mono hsu (by decide))) ha) htm⟩

/-- A copy whose verified read stops at address b stores what it read before it, and its error is queued. -/
theorem copy_stores_up_to {s : State} {n b : Nat} {r : QRef} {c : CmdRec} {faults : List BlockFault} (h : runs s 3 n r c)
    (hm : memoryCanonical s) (hop : c.cmd.opcode = 1) (hd : bit c.cmd.arg4 0 = false)
    (hx : (s.readStop r.part c.cmd.arg0 c.cmd.arg3 faults).1 = some b) (hroom : roomFor s (readErr s r.part b)) :
    ∃ t, exec (.copy n faults) s = .next t ∧ handedOver 3 n r c 0x2201 s t ∧ queued s t (readErr s r.part b) ∧
      (tilesApart s r.part c.cmd.arg1 → stored r.part c.cmd.arg1 (s.rd r.part c.cmd.arg0 (b - c.cmd.arg0)) s t) := by
  have hp := movePackets_only s r.part n [c.cmd.arg0] [c.cmd.arg1]
  have herr := readErr_kept (only_mono hp (by decide)) r.part b
  have hnext : (s.movePackets r.part n [c.cmd.arg0] [c.cmd.arg1]).errq = s.errq := hp .errq (by decide)
  rw [← readStop_kept hp] at hx
  rw [← herr] at hroom
  obtain ⟨u, hu, hk, hplace, hq⟩ := readVerified_stops hx (roomFor_of hroom hnext (hp .parts (by decide)))
  rw [rd_kept (only_mono hp (by decide))] at hu
  rw [herr] at hq
  unfold queued at hq
  rw [hnext] at hq
  have hsu := only_trans (only_mono (ls := [.log, .hbm, .ctr, .free, .errq, .outs, .boot, .tfb]) hp (by decide))
    (only_mono hk (by decide))
  have hc := copied_only r.part c.cmd.arg1 (s.rd r.part c.cmd.arg0 (b - c.cmd.arg0)) u
  obtain ⟨t, e, ho, htm, hqt⟩ := move_hands_over (i := .copy n faults) (st := 0x2201)
    (u := copied r.part c.cmd.arg1 (s.rd r.part c.cmd.arg0 (b - c.cmd.arg0)) u) rfl h (by simp [hop, hd])
    (by rw [hu]; rfl) (only_trans (only_mono hsu (by decide)) (only_mono hc (by decide)))
  refine ⟨t, e, ho, hqt _ ?_, fun ha => stored_mem (copied_stored _ hm hsu
    (fun q x => (hplace q x).trans (place_kept (only_mono hp (by decide)) q x)) ha) htm⟩
  unfold queued
  rwa [show (copied _ _ _ u).errq = u.errq from hc .errq (by decide)]

/-! ### Packets on the mesh (R28, R29, R98, log 89) -/

/-- The key under which packets from site i to site j on a plane are numbered (R98). -/
def meshKey (i j plane : Nat) : Nat := (i * 1260 + j) * 4 + plane

/-- The header of the next packet from site i to site j on a plane, sent for partition p with a tag (R98). -/
def nextPacket (s : State) (i j plane p tag : Nat) : MeshHdr :=
  { source := i, dest := j, plane := plane, part := p, tag := tag
    seq := Tab.get s.boot.mesh.seqs 0 (meshKey i j plane), fenceEpoch := s.partEpoch p, timestamp := s.now % 16777216 }

/-- s with the next packet of a source, destination and plane numbered. -/
def numbered (s : State) (key : Nat) : State :=
  s.modMesh (fun m => { m with seqs := Tab.set m.seqs key ((Tab.get m.seqs 0 key + 1) % 65536) })

/-- On a route with a plane in service, between sites whose routers work, the next packet reaches its destination. -/
theorem sendPacket_arrives {s : State} {i j p a tag : Nat} {route : List (Nat × Nat)} (hr : s.route i j = some route)
    (hp : s.planesOf route ≠ []) (hi : s.bypassed i = false) (hj : s.bypassed j = false) :
    ∃ plane ∈ s.planesOf route,
      s.sendPacket i j p a tag = (numbered s (meshKey i j plane)).takePacket j (nextPacket s i j plane p tag) := by
  have hlt : (Config.planeHash a).toNat % (s.planesOf route).length < (s.planesOf route).length :=
    Nat.mod_lt _ (List.length_pos_iff.mpr hp)
  refine ⟨(s.planesOf route).getD ((Config.planeHash a).toNat % (s.planesOf route).length) 0, ?_, ?_⟩
  · rw [List.getD_eq_getElem _ _ hlt]
    exact List.getElem_mem hlt
  · unfold State.sendPacket
    rw [hr]
    dsimp only
    rw [if_neg (by simp [hp, hi, hj])]
    rfl

theorem logRecord_boot (s : State) (x : LogRec) (keep : Bool) : (s.logRecord x keep).boot = s.boot :=
  (path_logRecord (ks := [.log]) x keep (by decide) (path_refl _ s)).frame .boot (by decide)

theorem dropPacket_dropped (s : State) (j : Nat) :
    Tab.get (s.dropPacket j).boot.mesh.dropped 0 j = (Tab.get s.boot.mesh.dropped 0 j + 1) % 4294967296 :=
  tab_get_mod_same s.boot.mesh.dropped 0 j (fun n => (n + 1) % 4294967296)

/-- A packet that reaches a cluster at work is taken by one of its own partition, and dropped and counted by another. -/
theorem takePacket_mesh {s : State} {j : Nat} (x : MeshHdr) (hh : (s.site j).halted = false) :
    (s.takePacket j x).boot.mesh.seqs = s.boot.mesh.seqs ∧
      (s.partOfRow (j / 42) = some x.part → Tab.find (s.takePacket j x).boot.mesh.last j = some x) ∧
      (s.partOfRow (j / 42) ≠ some x.part →
        Tab.get (s.takePacket j x).boot.mesh.dropped 0 j = (Tab.get s.boot.mesh.dropped 0 j + 1) % 4294967296) := by
  unfold State.takePacket
  rw [hh, if_neg (by decide)]
  split
  case isTrue hne =>
    rw [logRecord_boot]
    exact ⟨rfl, fun h => absurd h hne, fun _ => dropPacket_dropped s j⟩
  case isFalse heq => exact ⟨rfl, fun _ => tab_find_set_same _ _ _, fun h => absurd h heq⟩

/-- A move that reads the slice and writes to the memory of another cluster sends one packet, to that cluster. -/
theorem movePackets_write {s : State} {p n a b i j : Nat} (hi : s.siteOf n = some i) (ha : a < planeBase)
    (hj : s.siteAt b = some j) (hne : j ≠ i) : s.movePackets p n [a] [b] = s.sendPacket i j p b 3 := by
  have hread : s.siteAt a = none := if_pos ha
  unfold State.movePackets
  rw [hi]
  simp [hread, hj, hne]

theorem enrol_boot (s : State) (e : ErrSpec) : (s.enrol e).boot = s.boot :=
  (path_enrol (ks := [.errq, .parts, .queues, .sites, .mem, .hbm, .streams, .ctr, .colls, .credits, .fetches, .xfers, .tfb,
    .outs, .free]) e (by decide) (path_refl _ s)).frame .boot (by decide)

/-- An error that is queued leaves the mesh, whatever room the queue has. -/
theorem raise_mesh (s : State) (e : ErrSpec) : (s.raise e).boot.mesh = s.boot.mesh := by
  unfold State.raise
  extract_lets w cls u b v
  have hv : v.boot.mesh = s.boot.mesh := by
    dsimp only [v]
    split
    · rw [send_tfb_only _ 3 _ .boot (by decide)]
      exact show b.mesh = s.boot.mesh from congrArg Boot.mesh (enrol_boot s e)
    · exact congrArg Boot.mesh (enrol_boot s e)
  clear_value v w cls
  split
  · split
    · rw [enrol_boot, hv]
    · exact hv
  · exact hv

theorem raiseRead_mesh (s : State) (r : QRef) (consumer b : Nat) : (s.raiseRead r consumer b).boot.mesh = s.boot.mesh := by
  unfold State.raiseRead State.raiseParity State.raiseBlock State.raisePlace
  split <;> exact raise_mesh _ _

theorem readVerified_mesh (s : State) (r : QRef) (a n : Nat) (faults : List BlockFault) :
    (s.readVerified r a n faults).1.boot.mesh = s.boot.mesh := by
  unfold State.readVerified
  dsimp only
  generalize List.filter _ (wholeBlockAddrs a n) = bs
  have hv : ∀ len, ((s.countVerified r.part faults bs).loaded r.part a len).boot.mesh = s.boot.mesh := fun len =>
    congrArg Boot.mesh (verified_only s r.part faults bs a len .boot (by decide))
  split
  · exact (raiseRead_mesh _ _ _ _).trans (hv _)
  · exact hv _

/-- A copy leaves the mesh as its packets left it. -/
theorem copy_mesh {s : State} {n : Nat} {r : QRef} {c : CmdRec} (faults : List BlockFault) (h : runs s 3 n r c)
    (hop : c.cmd.opcode = 1) (hd : bit c.cmd.arg4 0 = false) :
    ∃ t, exec (.copy n faults) s = .next t ∧
      t.boot.mesh = (s.movePackets r.part n [c.cmd.arg0] [c.cmd.arg1]).boot.mesh := by
  refine ⟨_, congrArg (answer s) (engine_runs h (by simp [hop, hd])), ?_⟩
  refine (congrArg Boot.mesh ?_).trans (readVerified_mesh _ r c.cmd.arg0 c.cmd.arg3 faults)
  exact copied_only _ _ _ _ .boot (by decide)

/-- A copy to another cluster's memory sends it a numbered packet, which a cluster of another partition drops and counts. -/
theorem copy_sends_packet {s : State} {n i j : Nat} {r : QRef} {c : CmdRec} {route : List (Nat × Nat)}
    (faults : List BlockFault) (h : runs s 3 n r c) (hop : c.cmd.opcode = 1) (hd : bit c.cmd.arg4 0 = false)
    (hi : s.siteOf n = some i) (ha : c.cmd.arg0 < planeBase) (hj : s.siteAt c.cmd.arg1 = some j) (hne : j ≠ i)
    (hr : s.route i j = some route) (hpl : s.planesOf route ≠ []) (hbi : s.bypassed i = false) (hbj : s.bypassed j = false)
    (hh : (s.site j).halted = false) :
    ∃ t plane, exec (.copy n faults) s = .next t ∧ plane ∈ s.planesOf route ∧
      Tab.get t.boot.mesh.seqs 0 (meshKey i j plane) = (Tab.get s.boot.mesh.seqs 0 (meshKey i j plane) + 1) % 65536 ∧
      (s.partOfRow (j / 42) = some r.part →
        Tab.find t.boot.mesh.last j = some (nextPacket s i j plane r.part 3)) ∧
      (s.partOfRow (j / 42) ≠ some r.part →
        Tab.get t.boot.mesh.dropped 0 j = (Tab.get s.boot.mesh.dropped 0 j + 1) % 4294967296) := by
  obtain ⟨plane, hin, hsend⟩ := sendPacket_arrives (p := r.part) (a := c.cmd.arg1) (tag := 3) hr hpl hbi hbj
  obtain ⟨t, e, hmesh⟩ := copy_mesh faults h hop hd
  rw [movePackets_write hi ha hj hne, hsend] at hmesh
  obtain ⟨hseq, hlast, hdrop⟩ :=
    takePacket_mesh (s := numbered s (meshKey i j plane)) (nextPacket s i j plane r.part 3) hh
  rw [← hmesh] at hseq hlast hdrop
  exact ⟨t, plane, e, hin, hseq ▸ tab_get_set_same _ _ _ _, hlast, hdrop⟩

/-! ### Decrypting copies (R408, R411, R412) -/

/-- u with block b of the container at src decrypted with a key to its place at dst, where block first goes to (R411). -/
def plainBlockAt (p src dst first : Nat) (key : List Byte) (u : State) (b : Nat) : State :=
  u.wr p (dst + 4096 * (b - first)) (u.plainBlock p src b key)

/-- The same as the engine does it, which counts the lines that it reads and writes. -/
def decryptBlock (p src dst first : Nat) (key : List Byte) (u : State) (b : Nat) : State :=
  (u.loaded p (src + 64 + 4096 * b) 4096).store p (dst + 4096 * (b - first)) (u.plainBlock p src b key)

theorem decryptBlock_only (p src dst first : Nat) (key : List Byte) (u : State) (b : Nat) :
    onlyChanges [.mem, .hbm, .ctr] u (decryptBlock p src dst first key u b) :=
  only_trans (only_mono (loaded_only u _ _ _) (by decide)) (store_only _ _ _ _)

theorem decryptBlock_alike {p src dst first : Nat} {key : List Byte} (u v : State) (b : Nat) (h : alike u v) :
    alike (decryptBlock p src dst first key u b) (plainBlockAt p src dst first key v b) := by
  have hplain : u.plainBlock p src b key = v.plainBlock p src b key := by
    unfold State.plainBlock
    rw [rd_of h.2 h.1, rd_of h.2 h.1]
  unfold decryptBlock plainBlockAt
  rw [hplain]
  exact store_alike (alike_trans (alike_kept (only_mono (loaded_only u _ _ _) (by decide))) h) _ _ _

/-- The blocks of a decrypting copy before one whose tag fails. -/
def goodBlocks (k : Cmd) (bad : Option Nat) : List Nat :=
  let blocks := (List.range k.blockCount).map (· + k.firstBlock)
  match bad with
  | some b => blocks.takeWhile (· != b)
  | none => blocks

theorem decryptingCopy_without_key {s : State} {n : Nat} {r : QRef} {c : CmdRec} (bad : Option Nat) (h : runs s 3 n r c)
    (hop : c.cmd.opcode = 1) (hd : bit c.cmd.arg4 0 = true) (hk : c.held.head? = none) :
    ∃ t, exec (.decryptingCopy n bad) s = .next t ∧ handedOver 3 n r c 0x5104 s t ∧ t.mem = s.mem := by
  obtain ⟨t, e, ho, htm, -⟩ := move_hands_over (i := .decryptingCopy n bad) (u := s) (st := 0x5104) rfl h
    (by simp [hop, hd]) (by rw [hk]) (only_refl _ s)
  exact ⟨t, e, ho, htm⟩

/-- With its key, a decrypting copy stores the plain text of its blocks up to one whose tag fails. -/
theorem decryptingCopy_stores_plain {s : State} {n : Nat} {r : QRef} {c : CmdRec} {key : List Byte} (bad : Option Nat)
    (h : runs s 3 n r c) (hop : c.cmd.opcode = 1) (hd : bit c.cmd.arg4 0 = true) (hk : c.held.head? = some key) :
    ∃ t, exec (.decryptingCopy n bad) s = .next t ∧
      handedOver 3 n r c (if (goodBlocks c.cmd bad).length <
        ((List.range c.cmd.blockCount).map (· + c.cmd.firstBlock)).length then 0x5103 else 0) s t ∧
      (tilesApart s r.part c.cmd.arg1 → t.mem = ((goodBlocks c.cmd bad).foldl
        (plainBlockAt r.part c.cmd.arg0 c.cmd.arg1 c.cmd.firstBlock key) s).mem) := by
  have hrows := fold_only _ (goodBlocks c.cmd bad) _
    (decryptBlock_only r.part c.cmd.arg0 c.cmd.arg1 c.cmd.firstBlock key) s
  have hsame := alike_foldl (goodBlocks c.cmd bad) _ (plainBlockAt r.part c.cmd.arg0 c.cmd.arg1 c.cmd.firstBlock key)
    decryptBlock_alike (alike_refl s)
  have hpack := fun u => movePackets_only u r.part n [] [c.cmd.arg1]
  obtain ⟨t, e, ho, htm, -⟩ := move_hands_over (i := .decryptingCopy n bad) rfl h (by simp [hop, hd]) (by rw [hk]; rfl)
    (only_trans (only_mono hrows (by decide)) (only_trans (only_mono (spoilAt_only _ r.part c.cmd.arg1
      (4096 * (goodBlocks c.cmd bad).length)) (by decide)) (only_mono (hpack _) (by decide))))
  refine ⟨t, e, ho, fun ha => ?_⟩
  rw [htm, hpack _ .mem (by decide), spoilAt_apart _ (tilesApart_kept (only_mono hrows (by decide)) ha), hsame.1]

/-! ### Skewed feed, multicast and recompute ranges (R116, R157, R295) -/

/-- The elements of an operand of some rows and columns at an address, each with its place in wavefront order (R116). -/
def feedCells (s : State) (p : Nat) (k : Cmd) : List (Nat × Nat) :=
  (List.range (k.arg2 % 4294967296)).flatMap (fun m => (List.range (k.arg2 / 4294967296)).map (fun j =>
    (wavefront (cycles2 k.arg4) (k.arg2 % 4294967296) (k.arg2 / 4294967296) m j,
      s.rdBits p (k.arg0 + m * k.arg3) (j * elemBits k.arg4) (elemBits k.arg4))))

/-- The elements as the feed stores them: in wavefront order. -/
def feedOrder (s : State) (p : Nat) (k : Cmd) : List Nat :=
  ((feedCells s p k).mergeSort (fun a b => decide (a.1 ≤ b.1))).map (·.2)

theorem packedAt_kept {s t : State} (h : onlyChanges [.log, .boot, .ctr, .free, .errq, .outs, .tfb] s t) (p a w : Nat)
    (es : List Nat) : packedAt t p a w es = packedAt s p a w es := by
  unfold packedAt State.rdNat
  dsimp only
  rw [rd_kept h]

theorem skewedFeed_stores_wavefronts {s : State} {n : Nat} {r : QRef} {c : CmdRec} (h : runs s 3 n r c)
    (hm : memoryCanonical s) (hop : c.cmd.opcode = 2) :
    ∃ t, exec (.skewedOperandFeed ⟨n, none⟩) s = .next t ∧ handedOver 3 n r c 0 s t ∧
      stored r.part c.cmd.arg1 (packedAt s r.part c.cmd.arg1 (elemBits c.cmd.arg4) (feedOrder s r.part c.cmd)) s t := by
  have hp := movePackets_only s r.part n [c.cmd.arg0] [c.cmd.arg1]
  have hl := fold_only _ (List.range (c.cmd.arg2 % 4294967296)) _ (fun (u : State) m => loaded_only u r.part
    (c.cmd.arg0 + m * c.cmd.arg3) (elemBytes c.cmd.arg4 (c.cmd.arg2 / 4294967296)))
    (s.movePackets r.part n [c.cmd.arg0] [c.cmd.arg1])
  obtain ⟨t, e, ho, htm, -⟩ := move_hands_over (i := .skewedOperandFeed ⟨n, none⟩) (st := 0) rfl h (by simp [hop])
    rfl (only_trans (only_mono hp (by decide)) (only_trans (only_mono hl (by decide))
      (only_mono (store_only _ _ _ _) (by decide))))
  have hk := only_trans (only_mono (ls := [.log, .boot, .ctr, .free, .errq, .outs, .tfb]) hp (by decide))
    (only_mono hl (by decide))
  refine ⟨t, e, ho, stored_mem
    (stored_from (store_stored _ r.part c.cmd.arg1 _ ?_) (hk .mem (by decide)) (place_kept hk _)) ?_⟩
  · unfold memoryCanonical
    rw [hk .mem (by decide)]
    exact hm
  · rw [htm, ← packedAt_kept hk]
    rfl

theorem mem_only (s : State) (m : Mem) : onlyChanges [.mem] s { s with mem := m } := by
  intro k hk
  cases k <;> first | rfl | exact absurd (by decide) hk

/-- Memory m with bs put at offset o of the operand buffers of some cores of cluster n, numbered row by row (R157). -/
def multicastMem (s : State) (n o : Nat) (bs : List Byte) (cores : List Nat) (m : Mem) : Mem :=
  cores.foldl (fun (m : Mem) b =>
    memPut m (bufPlace (s.siteN n) (s.physCore (s.siteN n) (b / 32, b % 32)).1
      (s.physCore (s.siteN n) (b / 32, b % 32)).2 o) bs) m

/-- A multicast writes what it read into the buffer of every core that its mask selects. -/
theorem multicast_writes_buffers {s : State} {n : Nat} {r : QRef} {c : CmdRec} {faults : List BlockFault}
    (h : runs s 3 n r c) (hop : c.cmd.opcode = 3) (hx : (s.readStop r.part c.cmd.arg0 c.cmd.arg3 faults).1 = none) :
    ∃ t, exec (.multicast n faults) s = .next t ∧
      handedOver 3 n r c (if (s.readStop r.part c.cmd.arg0 c.cmd.arg3 faults).2 then 0x0103 else 0) s t ∧
      t.mem = multicastMem s n c.cmd.arg1 (s.rd r.part c.cmd.arg0 c.cmd.arg3)
        ((List.range 256).filter (fun b => bit (s.rdNat r.part c.cmd.arg2 32) b)) s.mem := by
  have hp := movePackets_only s r.part n [c.cmd.arg0] []
  have hstop := readStop_kept hp r.part c.cmd.arg0 c.cmd.arg3 faults
  rw [← hstop] at hx ⊢
  obtain ⟨u, hu, hk⟩ := read_ok _ _ _ _ _ hx
  rw [rd_kept (only_mono hp (by decide))] at hu
  have hsu : onlyChanges [.log, .boot, .ctr] s u := only_trans (only_mono hp (by decide)) (only_mono hk (by decide))
  obtain ⟨t, e, ho, htm, -⟩ := move_hands_over (i := .multicast n faults)
    (u := { u with mem := (multicastMem s n c.cmd.arg1 (s.rd r.part c.cmd.arg0 c.cmd.arg3)
      ((List.range 256).filter (fun b => bit (s.rdNat r.part c.cmd.arg2 32) b)) u.mem) })
    rfl h (by simp [hop]) (by dsimp only; rw [hu]; rfl)
    (only_trans (only_mono hsu (by decide)) (only_mono (mem_only u _) (by decide)))
  exact ⟨t, e, ho, by rw [htm, hsu .mem (by decide)]⟩

/-- The list that a recompute range puts on its lane under the next number of its partition (R294, R295). -/
def rangeList (s : State) (r : QRef) (c : CmdRec) : ListRec :=
  let x := (s.list r.part r.list).getD { id := 0 }
  { id := (s.part r.part).nextList, subId := x.subId, userTag := x.userTag, lane := r.lane, active := true, answered := true
    tStart := some s.now, parent := some r
    cmds := (recomputeCmds c.held).map (fun k => { cmd := k, st := .queued, crcs := s.cmdCrcs r.part k }) }

/-- The commands of a kind of that list, as its queue names them. -/
def rangeRefs (s : State) (r : QRef) (c : CmdRec) (q : Nat) : List QRef :=
  ((recomputeCmds c.held).zipIdx.filter (fun e => e.1.kind == q)).map (fun e =>
    { part := r.part, list := (s.part r.part).nextList, index := e.2, lane := r.lane })

/-- The commands of a range stand in the queues of its kinds, each ahead of the later ones of its lane. -/
theorem injectRange_queue (s : State) (n : Nat) (r : QRef) (c : CmdRec) {q : Nat} (h1 : 1 ≤ q) (h3 : q ≤ 3) :
    (s.injectRange n r c).queue q n = (s.queue q n).inject r (rangeRefs s r c q) := by
  have hne : ∀ {j k : Nat}, j ≠ k → qKey j n ≠ qKey k n := fun h => by unfold qKey; omega
  show (([1, 2, 3].foldl (fun u k => u.modQueue k n (fun x => x.inject r (rangeRefs s r c k)))
    (s.acceptList r.part (rangeList s r c))).queue q n) = _
  simp only [List.foldl_cons, List.foldl_nil]
  obtain rfl | rfl | rfl : q = 1 ∨ q = 2 ∨ q = 3 := by omega
  · rw [queue_other _ _ _ _ _ (hne (by decide)), queue_other _ _ _ _ _ (hne (by decide)), queue_mod]; rfl
  · rw [queue_other _ _ _ _ _ (hne (by decide)), queue_mod, queue_other _ _ _ _ _ (hne (by decide))]; rfl
  · rw [queue_mod, queue_other _ _ _ _ _ (hne (by decide)), queue_other _ _ _ _ _ (hne (by decide))]; rfl

/-- The list of a range stands under a number that no list of the partition had. -/
theorem injectRange_list {s : State} (n : Nat) {r : QRef} (c : CmdRec) (h : s.list r.part (s.part r.part).nextList = none) :
    (s.injectRange n r c).list r.part (s.part r.part).nextList = some (rangeList s r c) := by
  show (s.acceptList r.part (rangeList s r c)).list r.part (s.part r.part).nextList = _
  unfold State.list State.acceptList at *
  rw [part_modPart]
  dsimp only
  rw [List.find?_append, h]
  simp [rangeList]

/-- A recompute range puts its commands, as a list of their own, into the queues of its cluster, and frees the engine. -/
theorem recomputeRange_injects {s : State} {n : Nat} {r : QRef} {c : CmdRec} (h : runs s 3 n r c) (hop : c.cmd.opcode = 4)
    (hl : s.list r.part (s.part r.part).nextList = none) :
    ∃ t, exec (.recomputeRange n) s = .next t ∧ onlyChanges [.parts, .queues, .ctr, .errq, .journal] s t ∧
      (t.queue 3 n).running = none ∧
      (∀ q, 1 ≤ q → q ≤ 3 → (t.queue q n).fifo = ((s.queue q n).inject r (rangeRefs s r c q)).fifo) ∧
      t.list r.part (s.part r.part).nextList = some (rangeList s r c) := by
  have hrun : exec (.recomputeRange n) s =
      answer s ((s.injectRange n r c).modQueue 3 n (fun q => { q with running := none })) := by
    obtain ⟨hr, hh⟩ := h
    show execRecomputeRange n s = _
    unfold execRecomputeRange
    rw [hr]
    dsimp only
    rw [if_neg (by simp [hop, hh])]
  have hinj := (path_injectRange (ks := [.parts, .queues, .ctr]) n r c (by decide) (path_refl _ s)).frame
  rw [hrun]
  refine ansK (only_trans hinj (only_mono (modQueue_only _ 3 n _) (by decide))) (by decide) (fun t ht _ => ⟨?_, ?_, ?_⟩)
  · rw [queue_of (ht .queues (by decide)), queue_mod]
  · intro q h1 h3
    rw [queue_of (ht .queues (by decide))]
    by_cases hq : q = 3
    · subst hq
      rw [queue_mod, injectRange_queue s n r c h1 h3]
    · rw [queue_other _ _ _ _ _ (by unfold qKey; omega), injectRange_queue s n r c h1 h3]
  · rw [list_of (congrArg Machine.Part.lists (part_of (ht .parts (by decide)) _)), ← injectRange_list n c hl]
    rfl

/-! ### The statement -/

/-- Settles O43, command by command from the lemmas above. -/
theorem moveCommandsStoreTheirData : Obligations.MoveCommandsStoreTheirData := by
  unfold Obligations.MoveCommandsStoreTheirData
  intro s n r c h hm
  refine ⟨?copy, ?decrypt, ?feed, ?multicast, ?recompute⟩
  case copy =>
    intro faults hop hd
    refine ⟨fun hx => copy_stores_all h hm hop hd hx, fun b hx hroom => copy_stores_up_to h hm hop hd hx hroom, ?_⟩
    intro i j route hi ha hj hne hr hpl hbi hbj hh
    exact copy_sends_packet faults h hop hd hi ha hj hne hr hpl hbi hbj hh
  case decrypt =>
    exact fun bad hop hd => ⟨decryptingCopy_without_key bad h hop hd,
      fun key hk => decryptingCopy_stores_plain bad h hop hd hk⟩
  case feed =>
    exact fun hop => ⟨fun a => engineRead_stops rfl hm h (by simp [hop]), skewedFeed_stores_wavefronts h hm hop⟩
  case multicast => exact fun faults hop hx => multicast_writes_buffers h hop hx
  case recompute =>
    intro hop hl
    obtain ⟨t, e, hk, hrun, hq, hlist⟩ := recomputeRange_injects h hop hl
    refine ⟨t, e, hk, hrun, hq, ?_⟩
    rw [hlist]
    simp [rangeList, Function.comp_def]

end Sys2Proof.Proofs.MoveEngine

/-!
SUPPORT. Array faults on a site whose logical number is that of another site: the spare map of a state may hold more active
sites in a row than the grade, and the statement of O41 does not keep such states out.
-/

namespace Sys2Proof.Proofs.ArrayFaults

open Sys2Proof Sys2Proof.Machine Sys2Proof.Safety

/-- A GEMM of one pass that runs. -/
def gemmRec : CmdRec := { cmd := { opcode := 1, kind := 1 }, st := .running }

/-- Its number in its list. -/
def gemmRef : QRef := { part := 0, list := 1, index := 0, lane := 0 }

/-- Row 0 has 41 active sites under a grade of 40, and a GEMM runs on logical cluster 40, which is site 42 of row 1. Site 40,
the last of row 0, has that number too (R6). -/
def crowdedRow : State :=
  { (State.reset.modPart 0 (fun q => { q with
      state := .running, lists := [{ id := 1, active := true, cmds := [gemmRec] }] })).modQueue 1 40
        (fun q => { q with running := some gemmRef }) with
    siteState := [(40, 0)] }

theorem crowdedRow_numbers : crowdedRow.logicalOf 40 = some 40 ∧ crowdedRow.siteOf 40 = some 42 := by decide +kernel

theorem crowdedRow_runs : runs crowdedRow 1 40 gemmRef gemmRec := by
  unfold runs
  decide +kernel

/-- The error of a fault of core (0, 0) of site 40. -/
def coreErr : ErrSpec :=
  { status := 0x6101, part := 0, unitKind := 2, unit := siteUnit 40, detail := le 1 0 ++ le 1 0 }

theorem crowdedRow_room : roomFor crowdedRow coreErr := by
  unfold roomFor
  decide +kernel

/-- The resume record on a site in the state that a command answers. -/
def resumeOn (i : Nat) (o : Host.Outcome State Fault Refusal) : Option (Option Resume) :=
  match o with
  | .next t => some (t.site i).resume
  | _ => none

/-- The fault of core (0, 0) of site 40 leaves no resume record on site 40. -/
theorem crowdedRow_fault : resumeOn 40 (exec (.arrayFault 40 0 0 ⟨0, false⟩) crowdedRow) = some none := by
  decide +kernel

/-- Refutes O41: where a row has more active sites than the grade, the logical number of its last site is that of the first
site of the next row (R6), whose running command is told of the fault: the resume record is made there, and the site that
faulted has none. -/
theorem not_arrayFaultsAndPreemptionTakeEffect : ¬ Obligations.ArrayFaultsAndPreemptionTakeEffect := by
  unfold Obligations.ArrayFaultsAndPreemptionTakeEffect
  intro h
  obtain ⟨-, hfault, -⟩ := h crowdedRow
  obtain ⟨hagain, -⟩ := hfault 40 0 0 0 40 gemmRef gemmRec false crowdedRow_numbers.1 crowdedRow_runs rfl rfl (.inl rfl)
    (by decide) (by decide) (by decide +kernel) (by decide +kernel) (by decide +kernel) (fun e => nomatch e) crowdedRow_room
  obtain ⟨t, e, -, -, -, hinit, -⟩ := hagain (by decide +kernel) rfl
  obtain ⟨-, hresume⟩ := hinit (by decide +kernel)
  have hnone := crowdedRow_fault
  rw [e] at hnone
  rw [Option.some.inj hnone] at hresume
  exact nomatch hresume

end Sys2Proof.Proofs.ArrayFaults

/-!
SUPPORT. The tensor commands: what a command that runs its passes to the end leaves, the array modes, the loads and the
epilogues, and what a parity error leaves. O40 asks of every memory that a parity error keeps what the command does not write.
In a memory that is not in canonical form that rests on the free bytes: the last theorem says that O40 comes to none of them
being zero.
-/

namespace Sys2Proof.Proofs.TensorCommands

open Sys2Proof Sys2Proof.Machine Sys2Proof.Safety Sys2Proof.Laws Sys2Proof.Laws.Shared Sys2Proof.Proofs.GathersAndAdds

/-! ### Commands of the tensor array -/

/-- A tensor command that meets no parity error is handed over with its effect. -/
theorem tensor_hands_over {ls : List Kind} {s u : State} {n : Nat} {r : QRef} {c : CmdRec} {sel : Cmd → Bool} {i : Instr}
    {f : State → QRef → CmdRec → State × Nat} (hi : exec i s = answer s (s.engine 1 n sel f)) (h : runs s 1 n r c)
    (hs : sel c.cmd = true) (hf : f s r c = (u, 0)) (hk : onlyChanges ls s u)
    (hl : Kind.parts ∉ ls ∧ Kind.queues ∉ ls) :
    ∃ t, exec i s = .next t ∧ handedOver 1 n r c 0 s t ∧ t.mem = u.mem ∧ (∀ j, t.site j = u.site j) ∧
      onlyChanges (ls ++ [.parts, .queues, .errq, .journal]) s t := by
  obtain ⟨t, e, ho, hm, hsite, -, -, hkt, -⟩ := answer_engine h hs hf hk hl
  exact ⟨t, hi.trans e, ho, hm, hsite, hkt⟩

/-! ### Stationary blocks (R118) -/

theorem endBlock_only (s : State) (i : Nat) (keep : Bool) : onlyChanges [.sites] s (s.endBlock i keep) :=
  only_ite (only_refl _ s) (modSite_only s i _)

theorem endBlock_retained (s : State) (i : Nat) : ((s.endBlock i false).site i).retained = none :=
  congrArg Site.retained (site_mod s i _)

/-- A site that keeps no block keeps none when another gives its block up. -/
theorem endBlock_retained_none {s : State} {j : Nat} (h : (s.site j).retained = none) (i : Nat) (keep : Bool) :
    ((s.endBlock i keep).site j).retained = none := by
  unfold State.endBlock
  split
  · exact h
  · by_cases hj : j = i
    · rw [hj, site_mod]
    · rw [site_mod_other _ _ _ _ hj, h]

/-! ### Commands that run their passes (R122, R131, R134, R141, R197, R204, R213) -/

/-- u at the end of command r of queue n, which ran on a site: its block is given up unless it is kept, and its record is
taken off its cluster's site. -/
def passesEnded (s : State) (n : Nat) (r : QRef) (c : CmdRec) (keep : Bool) (u : State) : State :=
  let w := u.endBlock (s.execSite (c.cmd.view c.held)) keep
  (if (c.cmd.view c.held).fle then w.endBlock (s.siteN n) false else w).modSite (s.siteN n)
    (fun x => { x with resume := x.resume.filter (fun e => e.ref != r), cleared := [], spoiled := [] })

theorem passesEnded_mem (s : State) (n : Nat) (r : QRef) (c : CmdRec) (keep : Bool) (u : State) :
    (passesEnded s n r c keep u).mem = u.mem :=
  (only_ite ((only_trans (endBlock_only u _ keep) (endBlock_only _ _ false))) (endBlock_only u _ keep)) .mem (by decide)

theorem passesEnded_resume (s : State) (n : Nat) (r : QRef) (c : CmdRec) (keep : Bool) (u : State) (x : Resume)
    (h : ((passesEnded s n r c keep u).site (s.siteN n)).resume = some x) : x.ref ≠ r := by
  unfold passesEnded at h
  rw [site_mod] at h
  simpa using (Option.filter_eq_some_iff.mp h).2

theorem passesEnded_retained (s : State) (n : Nat) (r : QRef) (c : CmdRec) (u : State) :
    ((passesEnded s n r c false u).site (s.execSite (c.cmd.view c.held))).retained = none := by
  unfold passesEnded
  refine Eq.trans (site_any _ _ _ _ Site.retained ?_) ?_
  · exact fun _ => rfl
  split
  · exact endBlock_retained_none (endBlock_retained u _) _ _
  · exact endBlock_retained u _

/-- The pooled rows of a command, stored pass by pass and array by array (R204, R205). -/
def pooledRows (s : State) (r : QRef) (v : TView) (x : Spatial) : State :=
  (List.range v.passes).foldl (fun u j =>
    (List.range v.arrays).foldl (fun u a => u.poolTiles r.part (s.execSite v) v x j a) u) s

/-- A GEMM or a convolution runs to its last pass. -/
theorem runTensor_passes {s : State} {n : Nat} {r : QRef} {c : CmdRec}
    (h : (c.cmd.view c.held).spat = none ∨ (c.cmd.view c.held).pool = false) :
    s.runTensor n r c = (passesEnded s n r c (bit c.cmd.arg4 1)
      (s.runTo n r (c.cmd.view c.held) (c.cmd.view c.held).passes), 0) := by
  unfold State.runTensor passesEnded
  dsimp only
  cases hx : (c.cmd.view c.held).spat with
  | none => rfl
  | some x =>
    have hpool : (c.cmd.view c.held).pool = false := h.resolve_left (by rw [hx]; exact nofun)
    simp only [hpool]
    rfl

/-- A pooling command stores its pooled rows. -/
theorem runTensor_pools {s : State} {n : Nat} {r : QRef} {c : CmdRec} {x : Spatial}
    (hx : (c.cmd.view c.held).spat = some x) (hp : (c.cmd.view c.held).pool = true) :
    s.runTensor n r c = (passesEnded s n r c false (pooledRows s r (c.cmd.view c.held) x), 0) := by
  unfold State.runTensor passesEnded
  dsimp only
  rw [hx, hp]
  rfl

theorem runTo_mem (s : State) (n : Nat) (r : QRef) (v : TView) (k : Nat) : (s.runTo n r v k).mem =
    if k ≤ (s.record (s.siteN n) r).passes then s.mem
    else (((s.reload (s.execSite v) v (s.record (s.siteN n) r).kept).replay r.part (s.execSite v) n v
      (s.record (s.siteN n) r).replay (s.record (s.siteN n) r).passes).runPasses r.part (s.execSite v) n v
      (s.record (s.siteN n) r).passes k).mem := by
  unfold State.runTo
  dsimp only
  split <;> rfl

/-- Every run of a command ends with its record taken off and, where it does not keep it, its block given up. -/
theorem runTensor_ends (s : State) (n : Nat) (r : QRef) (c : CmdRec) :
    ∃ keep u, s.runTensor n r c = (passesEnded s n r c keep u, 0) ∧ (bit c.cmd.arg4 1 = false → keep = false) := by
  cases hx : (c.cmd.view c.held).spat with
  | none => exact ⟨_, _, runTensor_passes (.inl hx), id⟩
  | some x =>
    cases hp : (c.cmd.view c.held).pool with
    | true => exact ⟨_, _, runTensor_pools hx hp, fun _ => rfl⟩
    | false => exact ⟨_, _, runTensor_passes (.inr hp), id⟩

/-- A GEMM or spatial command i is handed over at the end of its run. -/
theorem tensorCommand_runs {s : State} {n : Nat} {r : QRef} {c : CmdRec} {sel : Cmd → Bool} {i : Instr}
    (hi : exec i s = answer s (s.tensorRead n sel none (fun s r c => s.runTensor n r c))) (h : runs s 1 n r c)
    (hs : sel c.cmd = true) :
    ∃ t, exec i s = .next t ∧ handedOver 1 n r c 0 s t ∧
      (∀ x, (t.site (s.siteN n)).resume = some x → x.ref ≠ r) ∧
      (bit c.cmd.arg4 1 = false → (t.site (s.execSite (c.cmd.view c.held))).retained = none) ∧
      t.mem = (s.runTensor n r c).1.mem := by
  obtain ⟨keep, u, hrun, hkeep⟩ := runTensor_ends s n r c
  have hk := (path_runTensor (ks := [.sites, .mem, .hbm, .ctr, .free]) n r c (by decide) (path_refl _ s)).frame
  rw [hrun] at hk ⊢
  obtain ⟨t, e, ho, hm, hsite, -⟩ := tensor_hands_over hi h hs hrun hk (by decide)
  refine ⟨t, e, ho, fun x hx => ?_, fun hb => ?_, hm⟩
  · exact passesEnded_resume s n r c keep u x (by rwa [hsite] at hx)
  · rw [hsite, hkeep hb]
    exact passesEnded_retained s n r c u

/-! ### Array modes, loads and epilogues (R118, R127, R178) -/

theorem setMode_sets {s : State} {n mode : Nat} {r : QRef} {c : CmdRec} {i : Instr}
    (hi : exec i s = answer s (s.setMode n mode)) (h : runs s 1 n r c) (hop : c.cmd.opcode = 3)
    (hmode : c.cmd.arg4 % 4 = mode) :
    ∃ t, exec i s = .next t ∧ handedOver 1 n r c 0 s t ∧ (t.site (s.siteN n)).mode = mode ∧
      (t.site (s.siteN n)).retained = none ∧ onlyChanges [.parts, .queues, .sites, .errq, .journal] s t := by
  obtain ⟨t, e, ho, -, hsite, hk⟩ := tensor_hands_over hi h (by simp [hop, hmode]) rfl
    (modSite_only s (s.siteN n) (fun x => { x with mode := mode, retained := none })) (by decide)
  refine ⟨t, e, ho, ?_, ?_, only_mono hk (by decide)⟩ <;> rw [hsite, site_mod]

/-- The cores of a cluster, row by row. -/
def clusterCores : List (Nat × Nat) := (List.range 8).flatMap (fun y => (List.range 32).map (fun x => (y, x)))

theorem loadStationary_loads {s : State} {n : Nat} {r : QRef} {c : CmdRec} (h : runs s 1 n r c) (hop : c.cmd.opcode = 4) :
    ∃ t, exec (.loadStationary ⟨n, none⟩) s = .next t ∧ handedOver 1 n r c 0 s t ∧
      t.mem = (s.loadTiles (s.siteN n) c.cmd.fmt c.cmd.arg0 clusterCores).mem ∧
      (t.site (s.siteN n)).retained =
        some (blockKey c.cmd.fmt (c.cmd.arg4 % 2) 128 512, List.replicate 256 c.cmd.arg0) ∧
      onlyChanges [.parts, .queues, .sites, .mem, .errq, .journal] s t := by
  have hload := (path_loadTiles (ks := [.sites, .mem]) (s.siteN n) c.cmd.fmt c.cmd.arg0 clusterCores (by decide)
    (path_refl _ s)).frame
  obtain ⟨t, e, ho, hm, hsite, hk⟩ := tensor_hands_over (i := .loadStationary ⟨n, none⟩)
    (u := (s.loadTiles (s.siteN n) c.cmd.fmt c.cmd.arg0 clusterCores).modSite (s.siteN n) (fun x =>
      { x with retained := some (blockKey c.cmd.fmt (c.cmd.arg4 % 2) 128 512, List.replicate 256 c.cmd.arg0) }))
    rfl h (by simp [hop]) rfl (only_trans hload (only_mono (modSite_only _ _ _) (by decide))) (by decide)
  rw [modSite_mem] at hm
  refine ⟨t, e, ho, hm, ?_, only_mono hk (by decide)⟩
  rw [hsite, site_mod]

/-- s with the epilogue of every tile of command c of queue n written, from +0 or from its slot (R178). -/
def epilogues (s : State) (n : Nat) (r : QRef) (c : CmdRec) : State :=
  let v := c.cmd.view c.held
  (List.range v.passes).foldl (fun u j => (List.range v.arrays).foldl (fun u a =>
    if bit c.cmd.arg4 0 then u.writeRows r.part (s.siteN n) v j a (fun _ _ => List.replicate v.loop.passN 0)
    else u.writeOut r.part (s.siteN n) v (v.slot (s.slotBase r.part n v) j) j a) u) s

theorem writeRows_only (s : State) (p site : Nat) (v : TView) (j a : Nat) (vals : State → Nat → List Nat) :
    onlyChanges [.mem, .hbm, .ctr, .free] s (s.writeRows p site v j a vals) :=
  (path_writeRows (ks := [.mem, .hbm, .ctr, .free]) p site v j a vals (by decide) (path_refl _ s)).frame

theorem epilogues_only (s : State) (n : Nat) (r : QRef) (c : CmdRec) :
    onlyChanges [.mem, .hbm, .ctr, .free] s (epilogues s n r c) :=
  fold_only _ _ _ (fun u _ => fold_only _ _ _ (fun u _ =>
    only_ite (writeRows_only u _ _ _ _ _ _) (writeRows_only u _ _ _ _ _ _)) u) s

theorem epilogueOnly_writes {s : State} {n : Nat} {r : QRef} {c : CmdRec} (h : runs s 1 n r c) (hop : c.cmd.opcode = 5) :
    ∃ t, exec (.epilogueOnly ⟨n, none⟩) s = .next t ∧ handedOver 1 n r c 0 s t ∧
      (t.site (s.siteN n)).retained = none ∧ t.mem = (epilogues s n r c).mem := by
  have hend := endBlock_only (epilogues s n r c) (s.siteN n) false
  obtain ⟨t, e, ho, hm, hsite, -⟩ := tensor_hands_over (i := .epilogueOnly ⟨n, none⟩)
    (u := (epilogues s n r c).endBlock (s.siteN n) false) rfl h (by simp [hop]) rfl
    (only_trans (only_mono (ls := [.sites, .mem, .hbm, .ctr, .free]) (epilogues_only s n r c) (by decide))
      (only_mono hend (by decide))) (by decide)
  exact ⟨t, e, ho, (congrArg Site.retained (hsite _)).trans (endBlock_retained _ _), hm.trans (hend .mem (by decide))⟩

/-! ### Parity errors (R48, R118, R236, R240) -/

/-- A tensor command that reads a word which fails parity stops: its partial outputs are free values, and its error is
queued. -/
theorem tensorRead_stops {s : State} {n a : Nat} {r : QRef} {c : CmdRec} {sel : Cmd → Bool} {i : Instr}
    {f : State → QRef → CmdRec → State × Nat} (hi : exec i s = answer s (s.tensorRead n sel (some a) f))
    (h : runs s 1 n r c) (hs : sel c.cmd = true) (ha : planeBase ≤ a) (hin : s.inside r.part a 8 = true)
    (hroom : roomFor s (parityErr s r.part a)) :
    ∃ t, exec i s = .next t ∧ handedOver 1 n r c 0x2201 s t ∧ queued s t (parityErr s r.part a) ∧
      t.mem = (s.loseCmds r.part [c]).mem := by
  obtain ⟨hk, hmem, hq⟩ := stopRead_queued c hroom
  obtain ⟨t, e, ho, htm, hqt⟩ := engine_hands_over (st := 0x2201) hi h hs (by simp only [parityAt_inside ha hin]; rfl)
    (only_trans (only_mono hk (by decide)) (only_mono (modSite_only _ (s.siteN n) _) (by decide)))
  exact ⟨t, e, ho, hqt _ hq, htm.trans hmem⟩

/-- A stopped command leaves what it does not write, whatever memory it meets. -/
def stopKeepsOthers : Prop :=
  ∀ (s : State) (p : Nat) (c : CmdRec), ∀ x ∉ s.stoppedPlaces p c, Mem.get (s.loseCmds p [c]).mem x = Mem.get s.mem x

/-- A store of a byte that is not zero leaves every other place, in canonical form or not: it takes no cell away. -/
theorem get_put_nonzero {a k : Nat} {b : Byte} (hk : k ≠ a) (hb : b ≠ 0) (m : Mem) :
    Mem.get (Mem.put m a b) k = Mem.get m k := by
  induction m with
  | nil =>
    simp only [Mem.put, if_neg hb, Mem.get, if_neg hk.symm]
    split <;> rfl
  | cons c m ih =>
    obtain ⟨x, y⟩ := c
    unfold Mem.put
    rw [if_neg hb, if_neg hb]
    split
    case isTrue hlt =>
      show (if a = k then b else if k < a then 0 else Mem.get ((x, y) :: m) k) = _
      rw [if_neg hk.symm]
      split
      case isTrue hka =>
        unfold Mem.get
        rw [if_neg (by omega), if_pos (by omega)]
      case isFalse => rfl
    case isFalse =>
      split
      case isTrue hac =>
        subst hac
        simp only [Mem.get, if_neg hk.symm]
      case isFalse =>
        unfold Mem.get
        rw [ih]

theorem get_putAll_nonzero {k : Nat} (w : List (Nat × Byte)) (hk : ∀ e ∈ w, k ≠ e.1) (hw : ∀ e ∈ w, e.2 ≠ 0)
    (m : Mem) : Mem.get (Mem.putAll m w) k = Mem.get m k := by
  induction w generalizing m with
  | nil => rfl
  | cons e w ih =>
    exact (ih (fun x hx => hk x (List.mem_cons_of_mem _ hx)) (fun x hx => hw x (List.mem_cons_of_mem _ hx)) _).trans
      (get_put_nonzero (hk e (List.mem_cons_self ..)) (hw e (List.mem_cons_self ..)) m)

theorem stopKeepsOthers_of_nonzero (hfree : ∀ k, Config.freeByte k ≠ 0) : stopKeepsOthers := by
  intro s p c x hx
  refine get_putAll_nonzero _ (fun e he => ?_) (fun e he => ?_) _
  · obtain ⟨⟨k, i⟩, hk, rfl⟩ := List.mem_map.mp he
    rintro rfl
    exact hx (by simpa using List.fst_mem_of_mem_zipIdx hk)
  · obtain ⟨e', -, rfl⟩ := List.mem_map.mp he
    exact hfree _

/-! ### O40 and the free bytes -/

/-- All that O40 says holds where a stopped command leaves what it does not write. -/
theorem tensorCommands_of_stopKeepsOthers (hkeeps : stopKeepsOthers) : Obligations.TensorCommandsRunTheirPasses := by
  unfold Obligations.TensorCommandsRunTheirPasses
  intro s n r c h
  refine ⟨?passes, ?modes, loadStationary_loads h, epilogueOnly_writes h, ?parity⟩
  case passes =>
    intro cmd hcmd
    have hrun : ∃ t, exec cmd s = .next t ∧ handedOver 1 n r c 0 s t ∧
        (∀ x, (t.site (s.siteN n)).resume = some x → x.ref ≠ r) ∧
        (bit c.cmd.arg4 1 = false → (t.site (s.execSite (c.cmd.view c.held))).retained = none) ∧
        t.mem = (s.runTensor n r c).1.mem := by
      rcases hcmd with ⟨hop, rfl⟩ | ⟨hop, rfl⟩
      · exact tensorCommand_runs rfl h (by simp [hop])
      · exact tensorCommand_runs rfl h (by simp [hop])
    obtain ⟨t, e, ho, hresume, hkept, hm⟩ := hrun
    refine ⟨t, e, ho, hresume, hkept, fun hv => ?_, fun x hx hp => ?_⟩
    · rw [hm, runTensor_passes hv, passesEnded_mem, runTo_mem]
    · rw [hm, runTensor_pools hx hp, passesEnded_mem]
      rfl
  case modes =>
    intro mode hlt hop hmode
    refine setMode_sets ?_ h hop hmode
    obtain rfl | rfl | rfl : mode = 0 ∨ mode = 1 ∨ mode = 2 := by omega
    all_goals rfl
  case parity =>
    have hstops : ∀ {a : Nat} {i : Instr} {sel : Cmd → Bool} {f : State → QRef → CmdRec → State × Nat},
        exec i s = answer s (s.tensorRead n sel (some a) f) → sel c.cmd = true → stopsOnParity s 1 n r c a i := by
      intro a i sel f hi hs ha hin hroom
      obtain ⟨t, e, ho, hq, htm⟩ := tensorRead_stops hi h hs ha hin hroom
      exact ⟨t, e, ho, hq, fun x hx => by rw [htm, hkeeps s r.part c x hx]⟩
    intro a
    simp only [List.forall_mem_cons, List.not_mem_nil, false_implies, implies_true, and_true]
    exact ⟨fun hop => hstops rfl (by simp [hop]), fun hop => hstops rfl (by simp [hop]),
      fun hop => hstops rfl (by simp [hop]), fun hop => hstops rfl (by simp [hop])⟩

/-- A command of queue 1 that may write the one byte at address 4096. -/
def oneByte : CmdRec := { cmd := { opcode := 1, kind := 3, arg1 := 4096, arg3 := 1 }, st := .running }

/-- Its number in its list. -/
def oneByteRef : QRef := { part := 0, list := 1, index := 0, lane := 0 }

/-- It runs over a memory that is not in canonical form: behind the cell of that byte stands one of a lower place. The next
free byte is number k. -/
def unsorted (k : Nat) : State :=
  { (State.reset.modPart 0 (fun q => { q with
      state := .running, lists := [{ id := 1, active := true, cmds := [oneByte] }] })).modQueue 1 0
        (fun q => { q with running := some oneByteRef }) with
    mem := [(68719476736, 1), (5, 2)], free := k }

theorem unsorted_runs (k : Nat) : runs (unsorted k) 1 0 oneByteRef oneByte := by
  show runs (unsorted 0) 1 0 oneByteRef oneByte
  unfold runs
  decide +kernel

theorem unsorted_places (k : Nat) : (unsorted k).stoppedPlaces 0 oneByte = [68719476736] := by
  show (unsorted 0).stoppedPlaces 0 oneByte = _
  decide +kernel

theorem unsorted_inside (k : Nat) : (unsorted k).inside 0 planeBase 8 = true := by
  show (unsorted 0).inside 0 planeBase 8 = true
  decide +kernel

theorem unsorted_room (k : Nat) : roomFor (unsorted k) (parityErr (unsorted k) 0 planeBase) := by
  show roomFor (unsorted 0) (parityErr (unsorted 0) 0 planeBase)
  unfold roomFor
  decide +kernel

/-- Where the free byte is zero, its cell is taken away and the one behind it comes to light. -/
theorem unsorted_loses {k : Nat} (hz : Config.freeByte k = 0) : Mem.get ((unsorted k).loseCmds 0 [oneByte]).mem 5 = 2 := by
  unfold State.loseCmds
  simp only [List.flatMap_cons, List.flatMap_nil, unsorted_places]
  show Mem.get (Mem.put [(68719476736, 1), (5, 2)] 68719476736 (Config.freeByte k)) 5 = 2
  rw [hz]
  decide

/-- O40 comes to this of the free bytes, of which the model fixes none: its last clause asks what a parity error keeps of
every memory, also of one that is not in canonical form. -/
theorem tensorCommandsRunTheirPasses_iff : Obligations.TensorCommandsRunTheirPasses ↔ ∀ k, Config.freeByte k ≠ 0 := by
  refine ⟨fun h k hz => ?_, fun h => tensorCommands_of_stopKeepsOthers (stopKeepsOthers_of_nonzero h)⟩
  unfold Obligations.TensorCommandsRunTheirPasses at h
  obtain ⟨-, -, -, -, hparity⟩ := h (unsorted k) 0 oneByteRef oneByte (unsorted_runs k)
  obtain ⟨t, e, -, -, hkeeps⟩ := hparity planeBase (1, .gemm 0 (some planeBase)) (List.mem_cons_self ..) rfl
    (Nat.le_refl _) (unsorted_inside k) (unsorted_room k)
  obtain ⟨u, eu, -, -, hu⟩ := tensorRead_stops (i := .gemm 0 (some planeBase)) rfl (unsorted_runs k) rfl (Nat.le_refl _)
    (unsorted_inside k) (unsorted_room k)
  obtain rfl := Host.Outcome.next.inj (eu.symm.trans e)
  have hfive := hkeeps 5 (by rw [show oneByteRef.part = 0 from rfl, unsorted_places]; decide)
  rw [hu, show oneByteRef.part = 0 from rfl, unsorted_loses hz] at hfive
  exact absurd hfive (by show ¬(2 : Byte) = Mem.get [(68719476736, 1), (5, 2)] 5; decide)

end Sys2Proof.Proofs.TensorCommands

/-!
SUPPORT. Places of spread memory: where an address of a partition stands, which channels the reset state gives out, and the
statements of O5 and O9. O9 does not ask where a migration in progress copies to: it fails, and holds with that asked.
-/

namespace Sys2Proof.Proofs.SpreadPlaces

open Sys2Proof Sys2Proof.Machine Sys2Proof.Safety Sys2Proof.Laws Sys2Proof.Laws.Shared

/-! ### The reset state -/

/-- As delivered, each logical channel is the physical channel of its number (R485). -/
theorem physCh_reset (stack l : Nat) : State.reset.physCh stack l = l := rfl

theorem channelsDistinct_reset : channelsDistinct State.reset := fun _ _ _ _ _ _ h _ => h

theorem slicesApart_reset : slicesApart State.reset := by
  unfold slicesApart
  decide

/-- Settles O5: no byte is listed, each channel is its own, and partition 0 has all 31 channels alone. -/
theorem resetMeetsTheInvariants : Obligations.ResetMeetsTheInvariants :=
  ⟨rfl, channelsDistinct_reset, slicesApart_reset⟩

/-! ### A copy onto a channel in use -/

/-- The delivered module, with the first block of channel 0 of stack 0 already copied onto channel 5, which is in use. -/
def copyingOntoUsed : State :=
  { State.reset with hbm := { migrations := [(0, { logical := 0, source := 0, target := 5, ptr := 1 })] } }

/-- The first block of partition 0 is channel 0's, block 100 is channel 5's: both stand at the start of channel 5. -/
theorem copyingOntoUsed_places : copyingOntoUsed.place 0 0 = some (hbmPlace 0 5 0) ∧
    copyingOntoUsed.place 0 409600 = some (hbmPlace 0 5 0) := by decide +kernel

/-- Refutes O9: below the copy pointer of a migration an access goes to the channel that is copied onto (R244), and neither
premise speaks of that channel. Where a logical channel of the stack names it, two addresses share a place. -/
theorem not_spreadAddressesNeverShareAPlace : ¬ Obligations.SpreadAddressesNeverShareAPlace := by
  unfold Obligations.SpreadAddressesNeverShareAPlace
  intro h
  obtain ⟨hfirst, hhundredth⟩ := copyingOntoUsed_places
  obtain ⟨-, hab⟩ := h copyingOntoUsed 0 0 0 409600 _ channelsDistinct_reset slicesApart_reset (by decide) (by decide)
    (by decide) (by decide) hfirst hhundredth
  exact absurd hab (by decide)

/-! ### Where no copy goes onto a channel in use -/

/-- No migration in its copy phase copies onto a channel that a logical channel of its stack names (R243). -/
def copiesApart (s : State) : Prop :=
  ∀ stack g, Tab.find s.hbm.migrations stack = some g → g.phase = 0 → ∀ l < 31, s.physCh stack l ≠ g.target

/-- The delivered module copies nothing. -/
theorem copiesApart_reset : copiesApart State.reset := fun _ _ h => nomatch h

/-- An access goes to the channel of its name, or to the one that it is copied onto (R244). -/
theorem physAt_cases (s : State) (stack l off : Nat) : s.physAt stack l off = s.physCh stack l ∨
    ∃ g, Tab.find s.hbm.migrations stack = some g ∧ g.phase = 0 ∧ g.logical = l ∧ s.physAt stack l off = g.target := by
  unfold State.physAt
  split
  case h_1 g hg =>
    split
    case isTrue h =>
      obtain ⟨hphase, hlogical, -⟩ := h
      exact .inr ⟨g, hg, hphase, hlogical, rfl⟩
    case isFalse => exact .inl rfl
  case h_2 => exact .inl rfl

/-- Accesses that meet on a physical channel are to one logical channel. -/
theorem physAt_injective {s : State} {stack i j o o' : Nat} (hd : channelsDistinct s) (hc : copiesApart s) (hs : stack < 20)
    (hi : i < 31) (hj : j < 31) (h : s.physAt stack i o = s.physAt stack j o') (hp : s.physAt stack i o < 32) : i = j := by
  rcases physAt_cases s stack i o with ei | ⟨g, hg, hphase, hgi, ei⟩ <;>
    rcases physAt_cases s stack j o' with ej | ⟨g', hg', hphase', hgj, ej⟩
  · exact hd stack hs i hi j hj (ei.symm.trans (h.trans ej)) (ei ▸ hp)
  · exact absurd (ei.symm.trans (h.trans ej)) (hc stack g' hg' hphase' i hi)
  · exact absurd (ej.symm.trans (h.symm.trans ei)) (hc stack g hg hphase j hj)
  · obtain rfl := Option.some.inj (hg.symm.trans hg')
    exact hgi.symm.trans hgj

theorem granuleSlot_lt {n : Nat} (g : Nat) (hn : 0 < n) : granuleSlot g n < n := Nat.mod_lt _ hn

/-- Of one row of granules no two have the same slot (R223). -/
theorem granuleSlot_injective {n g h : Nat} (hrow : g / n = h / n) (hslot : granuleSlot g n = granuleSlot h n) : g = h := by
  unfold granuleSlot at hslot
  rw [hrow] at hslot
  have hmod : g % n = h % n := by
    have := Nat.ModEq.add_right_cancel' _ hslot
    rwa [Nat.ModEq, Nat.mod_mod, Nat.mod_mod] at this
  rw [← Nat.div_add_mod g n, ← Nat.div_add_mod h n, hrow, hmod]

/-- The slot of an address of spread memory of partition p among its channels (R223). -/
def spreadSlot (s : State) (p a : Nat) : Nat := granuleSlot (a / 4096) (20 * (s.part p).chans)

/-- The offset at which it stands in its channel (R222, R223). -/
def spreadOffset (s : State) (p a : Nat) : Nat :=
  s.near p * mib + a / 4096 / (20 * (s.part p).chans) * 4096 + a % 4096

/-- The physical channel that it stands in. -/
def spreadChannel (s : State) (p a : Nat) : Nat :=
  s.physAt (spreadSlot s p a % 20) ((s.part p).firstCh + spreadSlot s p a / 20) (spreadOffset s p a)

/-- An address within the spread region stands below the channel's end. -/
theorem spreadOffset_lt {s : State} {p a : Nat} (h : a < s.spreadSize p) : spreadOffset s p a < 2147483648 := by
  unfold State.spreadSize at h
  unfold spreadOffset
  generalize 20 * (s.part p).chans = n at *
  generalize hx : 2046 - s.carve - s.near p = x at *
  unfold mib at *
  have hrow : a / 4096 / n < x * 256 := by
    refine Nat.div_lt_of_lt_mul (Nat.div_lt_of_lt_mul ?_)
    calc a < n * x * 1048576 := h
      _ = 4096 * (n * (x * 256)) := by ring
  omega

/-- Where an address of spread memory stands. -/
theorem place_spread {s : State} {p a k : Nat} (ha : a < nearBase) (h : s.place p a = some k) :
    a < s.spreadSize p ∧ spreadChannel s p a < 32 ∧
      k = hbmPlace (spreadSlot s p a % 20) (spreadChannel s p a) (spreadOffset s p a) := by
  unfold State.place at h
  split at h
  case isTrue => exact nomatch h
  case isFalse hin =>
    have hsize : a < s.spreadSize p := by simpa [State.inside, ha] using hin
    dsimp only at h
    split at h
    case isTrue hphys => exact ⟨hsize, hphys, (Option.some.inj h).symm⟩
    case isFalse => exact nomatch h

/-- A place in the stacks names its stack, its channel and its offset. -/
theorem hbmPlace_injective {st st' c c' o o' : Nat} (hc : c < 32) (hc' : c' < 32) (ho : o < 2147483648)
    (ho' : o' < 2147483648) (h : hbmPlace st c o = hbmPlace st' c' o') : st = st' ∧ c = c' ∧ o = o' := by
  unfold hbmPlace at h
  omega

/-- Slices that have a channel in common are one partition's. -/
theorem slice_unique {s : State} (hs : slicesApart s) {p q i j : Nat} (hp : p < 4) (hq : q < 4) (hi : i < (s.part p).chans)
    (hj : j < (s.part q).chans) (h : (s.part p).firstCh + i = (s.part q).firstCh + j) : p = q := by
  rcases hs.2 p hp q hq with rfl | _ | _ | _ | _
  · rfl
  all_goals omega

theorem slice_below {s : State} (hs : slicesApart s) {p i : Nat} (hp : p < 4) (hi : i < (s.part p).chans) :
    (s.part p).firstCh + i < 31 := by
  rcases hs.1 p hp with _ | _ <;> omega

theorem chans_pos {s : State} {p a : Nat} (h : a < s.spreadSize p) : 0 < (s.part p).chans := by
  refine Nat.pos_of_ne_zero fun h0 => ?_
  simp [State.spreadSize, h0] at h

theorem spreadSlot_lt {s : State} {p a : Nat} (h : a < s.spreadSize p) : spreadSlot s p a < 20 * (s.part p).chans :=
  granuleSlot_lt _ (by have := chans_pos h; omega)

/-- One partition's addresses with one slot and one offset are the same address. -/
theorem spread_address_unique {s : State} {p a b : Nat} (hslot : spreadSlot s p a = spreadSlot s p b)
    (hoff : spreadOffset s p a = spreadOffset s p b) : a = b := by
  unfold spreadOffset at hoff
  have hrow : a / 4096 / (20 * (s.part p).chans) = b / 4096 / (20 * (s.part p).chans) := by omega
  have hgranule : a / 4096 = b / 4096 := granuleSlot_injective hrow hslot
  omega

/-- What O9 says of every state holds of those in which no migration copies onto a channel in use: no two addresses of spread
memory stand at one place. -/
theorem place_spread_injective {s : State} {p q a b k : Nat} (hd : channelsDistinct s) (hc : copiesApart s)
    (hs : slicesApart s) (hp : p < 4) (hq : q < 4) (ha : a < nearBase) (hb : b < nearBase) (hpa : s.place p a = some k)
    (hqb : s.place q b = some k) : p = q ∧ a = b := by
  obtain ⟨hsa, hca, hka⟩ := place_spread ha hpa
  obtain ⟨hsb, hcb, hkb⟩ := place_spread hb hqb
  have hla := spreadSlot_lt hsa
  have hlb := spreadSlot_lt hsb
  obtain ⟨hstack, hchan, hoff⟩ :=
    hbmPlace_injective hca hcb (spreadOffset_lt hsa) (spreadOffset_lt hsb) (hka.symm.trans hkb)
  have hchan' := hchan
  unfold spreadChannel at hchan' hca
  rw [← hstack] at hchan'
  have hlogical := physAt_injective hd hc (Nat.mod_lt _ (by decide)) (slice_below hs hp (by omega))
    (slice_below hs hq (by omega)) hchan' hca
  obtain rfl := slice_unique hs hp hq (by omega) (by omega) hlogical
  exact ⟨rfl, spread_address_unique (by omega) hoff⟩

end Sys2Proof.Proofs.SpreadPlaces

/-!
SUPPORT. Maintenance writes of the dictionary: what an accepted write leaves of each piece of state and of the error queue,
the lanes of a Kettle port and a port taken out of service with nothing under way, and the statement of O20 from these.
-/

namespace Sys2Proof.Proofs.MaintenanceWrites

open Sys2Proof Sys2Proof.Machine Sys2Proof.Safety Sys2Proof.Laws Sys2Proof.Laws.Shared
open Sys2Proof.Proofs.GathersAndAdds Sys2Proof.Proofs.CaddyWrites Sys2Proof.Proofs.PartnerWindows
open Sys2Proof.Proofs.HostRegisters

/-! ### Accepted writes -/

/-- A response is sent behind what was sent before. -/
theorem mem_outs_respond {s : State} {o : Out} (h : o ∈ s.outs) (r : Req) (op i j st : Nat) (v : List Byte) :
    o ∈ (s.respond r op i j st v).outs := by
  have hk : o ∈ (s.keepResponse r op i j st v).outs := h
  unfold State.respond State.sendResponse
  cases r.route <;> dsimp only
  case pcie =>
    split
    · exact hk
    · exact List.mem_cons_of_mem _ (List.mem_cons_of_mem _ hk)
  case i3c => exact List.mem_cons_of_mem _ hk
  case port =>
    split
    · exact hk
    · split <;> exact List.mem_cons_of_mem _ hk

/-- Storing a value sends nothing. -/
theorem commitWrite_outs (s : State) (c i j : Nat) (bs : List Byte) : (s.commitWrite c i j bs).outs = s.outs :=
  (path_commitWrite (ks := [.vals, .log, .nor]) _ _ _ _ (by decide) (path_refl _ s)).frame .outs (by decide)

/-- How error entries stand rests on none of the pieces that an answer changes. -/
theorem settled_of {s t : State} (h : onlyChanges [.vals, .caddy, .log, .nor, .outs] s t) : t.settled = s.settled := by
  have hq : t.errq = s.errq := h .errq (by decide)
  have hm : t.time = s.time := h .time (by decide)
  have hs : t.sites = s.sites := h .sites (by decide)
  have hi : t.siteState = s.siteState := h .siteState (by decide)
  have hp : t.parts = s.parts := h .parts (by decide)
  have hh : t.hbm = s.hbm := h .hbm (by decide)
  unfold State.settled State.settleErr State.actionEnded State.inService State.now State.part
  rw [hq, hm, hs, hi, hp, hh]

/-- An accepted write whose effect leaves state g: it is answered, and every piece that an answer does not change, the error
queue and the outputs stand as g has them. -/
theorem accepted_answers {s : State} {r : Req} {i j ty : Nat} {bs : List Byte} {c : Instr} {f : State → State × Option Nat}
    {g : State → State} (hc : exec c s = answer s (s.serveWrite r i j ty bs f)) (h : acceptsWrite s r i j ty bs)
    (hf : ∀ cs, f (replayed s cs) = (g (replayed s cs), some 0)) :
    ∃ cs t, exec c s = .next t ∧ respondedWith t r 2 i j 0 [] ∧ t.errq = (g (replayed s cs)).settled ∧
      (∀ o ∈ (g (replayed s cs)).outs, o ∈ t.outs) ∧
      ∀ k, k ∉ ([.pending, .time, .factory, .vals, .caddy, .log, .nor, .outs, .errq, .journal] : List Kind) →
        k.same (g (replayed s cs)) t := by
  obtain ⟨cs, e⟩ := serveWrite_is (f := f) (g := fun cs => g (replayed s cs)) h hf
  have hk := tail_same (g (replayed s cs)) r i j 0 (Route.code r.route) bs []
  refine ⟨cs, _, hc.trans (congrArg (answer s) e), respondedWith_respond _ _ _ _ _ _ _, settled_of hk, fun o ho => ?_,
    fun k hn => ?_⟩
  · exact mem_outs_respond (by rw [commitWrite_outs]; exact ho) _ _ _ _ _ _
  · have hsame := hk k (by revert hn; cases k <;> decide)
    revert hn hsame
    cases k <;> intro hn hsame <;> first | exact hsame | exact absurd (by decide) hn

/-! ### Migrations (R242, R243) -/

/-- A write of Migration request names a stack and a logical channel of it. -/
theorem writeMigration_starts (s : State) {stack ch : Nat} (hs : stack < 20) (hc : ch < 31) :
    s.writeMigration ((256 * stack + ch) % 65536) = s.startMigration stack ch := by
  unfold State.writeMigration
  rw [if_neg (by omega), show (256 * stack + ch) % 65536 / 256 = stack by omega,
    show (256 * stack + ch) % 65536 % 256 = ch by omega]

/-- The migration that a stack's standby allows (R243). -/
def migrationOf (s : State) (stack ch : Nat) : Migration :=
  { logical := ch, source := s.physCh stack ch, target := s.standby stack }

/-- s with that migration begun. -/
def migrating (s : State) (stack ch : Nat) : State :=
  s.modHbm (fun h => { h with migrations := Tab.set h.migrations stack (migrationOf s stack ch) })

theorem startMigration_begins {s : State} {stack ch : Nat} (hm : Tab.find s.hbm.migrations stack = none)
    (hb : s.standby stack < 32) (hp : s.physCh stack ch < 32) : s.startMigration stack ch = (migrating s stack ch, 0) := by
  unfold State.startMigration
  dsimp only
  rw [if_neg (by rw [hm]; simp; omega)]
  rfl

theorem startMigration_refuses {s : State} {stack ch : Nat}
    (h : (Tab.find s.hbm.migrations stack).isSome ∨ 32 ≤ s.standby stack ∨ 32 ≤ s.physCh stack ch) :
    s.startMigration stack ch = (s, 0x4106) := if_pos h

theorem migrationRequest_begins {s : State} {r : Req} {stack ch : Nat} (hs : stack < 20) (hc : ch < 31)
    (h : acceptsWrite s r 0x2400 1 3 (le 2 (256 * stack + ch))) (hm : Tab.find s.hbm.migrations stack = none)
    (hb : s.standby stack < 32) (hp : s.physCh stack ch < 32) :
    ∃ t, exec (.migrationRequest r stack ch) s = .next t ∧ respondedWith t r 2 0x2400 1 0 [] ∧
      Tab.find t.hbm.migrations stack = some (migrationOf s stack ch) := by
  obtain ⟨cs, t, e, hr, -, -, hk⟩ := accepted_answers (c := .migrationRequest r stack ch)
    (g := fun s => migrating s stack ch) rfl h (fun cs => by
      rw [writeMigration_starts _ hs hc, startMigration_begins (s := replayed s cs) hm hb hp]
      rfl)
  have hh : t.hbm = _ := hk .hbm (by decide)
  refine ⟨t, e, hr, ?_⟩
  rw [hh]
  exact tab_find_set_same _ _ _

theorem migrationRequest_refused {s : State} {r : Req} {stack ch : Nat} (hs : stack < 20) (hc : ch < 31)
    (h : acceptsWrite s r 0x2400 1 3 (le 2 (256 * stack + ch)))
    (hn : (Tab.find s.hbm.migrations stack).isSome ∨ 32 ≤ s.standby stack ∨ 32 ≤ s.physCh stack ch) :
    ∃ t, exec (.migrationRequest r stack ch) s = .next t ∧ respondedWith t r 2 0x2400 1 0x4106 [] ∧
      onlyChanges [.caddy, .outs, .errq, .journal] s t :=
  serveWrite_refused_same (f := fun s => done (s.writeMigration ((256 * stack + ch) % 65536))) h
    (fun cs => by
      rw [writeMigration_starts _ hs hc, startMigration_refuses (s := replayed s cs) hn]
      rfl) (by decide)

/-! ### Error entries, messages and sensors (R96, R345, R385, R453) -/

theorem acknowledge_releases {s : State} {r : Req} {n : Nat} (h : acceptsWrite s r 0x7100 3 4 (le 4 n)) :
    ∃ t, exec (.acknowledge r n) s = .next t ∧ respondedWith t r 2 0x7100 3 0 [] ∧
      (∀ e, e ∈ t.errq.entries → ¬(e.state = 4 ∧ serialGe n e.seq = true)) ∧
      ∀ e ∈ s.errq.entries, ¬(e.state = 4 ∧ serialGe n e.seq = true) → ∃ x ∈ t.errq.entries, x.seq = e.seq := by
  obtain ⟨cs, t, e, hr, hq, -, -⟩ := accepted_answers (c := .acknowledge r n)
    (g := fun s => s.ackErrors n (fun _ => true)) rfl h (fun _ => rfl)
  refine ⟨t, e, hr, fun x hx => ?_, fun x hx hn => ?_⟩
  · have hfree := ackErrors_releases (fun _ _ => rfl) hq x hx
    simpa using hfree
  · refine ⟨_, ?_, (settle_same ((replayed s cs).ackErrors n (fun _ => true)) x).1⟩
    rw [hq]
    refine List.mem_map_of_mem (List.mem_filter.mpr ⟨hx, ?_⟩)
    rw [not_and_or, Bool.not_eq_true] at hn
    rcases hn with hn | hn <;> simp [hn]

theorem reclaimNoticeSend_sends {s : State} {r : Req} {modules partitions : Nat}
    (h : acceptsWrite s r 0xA100 5 4 (le 4 (modules + 65536 * partitions))) :
    ∃ t, exec (.reclaimNoticeSend r modules partitions) s = .next t ∧ respondedWith t r 2 0xA100 5 0 [] ∧
      Out.tfb 2 [modules, partitions] ∈ t.outs ∧
      t.tfb.stamps.head? = some ([2, modules, partitions], s.now / 4 * 4) := by
  obtain ⟨cs, t, e, hr, -, ho, hk⟩ := accepted_answers (c := .reclaimNoticeSend r modules partitions)
    (g := fun s => s.tfbSend 2 [modules, partitions]) rfl h (fun _ => rfl)
  have ht : t.tfb = _ := hk .tfb (by decide)
  refine ⟨t, e, hr, ho _ (List.mem_cons_self ..), ?_⟩
  rw [ht]
  rfl

theorem sensorReset_resets {s : State} {r : Req} {i v : Nat} (hi : isSensor i = true)
    (h : acceptsWrite s r i 5 2 (le 1 v)) :
    ∃ t, exec (.sensorMinMaxReset r i v) s = .next t ∧ respondedWith t r 2 i 5 0 [] ∧
      (t.sensor i).low = (s.sensor i).value ∧ (t.sensor i).high = (s.sensor i).value ∧
      (t.sensor i).value = (s.sensor i).value := by
  obtain ⟨cs, t, e, hr, -, -, hk⟩ := accepted_answers (c := .sensorMinMaxReset r i v)
    (g := fun s => s.resetSensor i) rfl h (fun cs => by rw [if_pos hi])
  have hs : t.sensors = _ := hk .sensors (by decide)
  have hv : t.sensor i = { s.sensor i with low := (s.sensor i).value, high := (s.sensor i).value } := by
    unfold State.sensor
    rw [hs]
    exact tab_get_set_same _ _ _ _
  exact ⟨t, e, hr, by rw [hv], by rw [hv], by rw [hv]⟩

/-! ### Kettle ports (R438, R439) -/

/-- The lanes of nine that did not train. -/
def untrained (lanes : Nat) : List Nat := (List.range 9).filter (fun i => !bit lanes i)

theorem untrained_none {lanes : Nat} (h : ∀ i < 9, bit lanes i = true) : untrained lanes = [] :=
  List.filter_eq_nil_iff.mpr fun i hi => by simp [h i (List.mem_range.mp hi)]

theorem untrained_one {lanes b : Nat} (hb : b < 9) (h : ∀ i < 9, bit lanes i = true ↔ i ≠ b) : untrained lanes = [b] := by
  have hone : ∀ b < 9, (List.range 9).filter (fun i => decide (i = b)) = [b] := by decide
  rw [← hone b hb]
  refine List.filter_congr fun i hi => ?_
  rw [Bool.eq_iff_iff, Bool.not_eq_true', decide_eq_true_iff, ← Bool.not_eq_true, h i (List.mem_range.mp hi), not_not]

theorem untrained_more {lanes a b : Nat} (hab : a < b) (hb : b < 9) (hlow : ∀ i < a, bit lanes i = true)
    (ha : bit lanes a = false) (hbad : bit lanes b = false) : ∃ c l, untrained lanes = a :: c :: l := by
  have hsplit : List.range 9 = List.range a ++ a :: List.range' (a + 1) (8 - a) := by
    rw [← List.range'_succ, List.range_eq_range', List.range_eq_range']
    have := List.range'_append_1 (s := 0) (m := a) (n := 8 - a + 1)
    rw [Nat.zero_add] at this
    rw [this]
    congr 1
    omega
  have htrained : (List.range a).filter (fun i => !bit lanes i) = [] :=
    List.filter_eq_nil_iff.mpr fun i hi => by simp [hlow i (List.mem_range.mp hi)]
  have hmem : b ∈ (List.range' (a + 1) (8 - a)).filter (fun i => !bit lanes i) :=
    List.mem_filter.mpr ⟨List.mem_range'_1.mpr (by omega), by simp [hbad]⟩
  obtain ⟨c, l, hcl⟩ := List.exists_cons_of_ne_nil (List.ne_nil_of_mem hmem)
  refine ⟨c, l, ?_⟩
  unfold untrained
  rw [hsplit, List.filter_append, htrained, List.nil_append, List.filter_cons_of_pos (by simp [ha]), hcl]

/-- Nothing is in progress on the links. -/
def linksIdle (s : State) : Prop :=
  s.colls = [] ∧ s.xfers = [] ∧ s.fetches = [] ∧ ∀ p < 4, (s.part p).bindReq = none

theorem linksIdle_of {s t : State} (h : onlyChanges [.caddy, .errq, .outs, .boot, .tfb, .kports] s t) (hi : linksIdle s) :
    linksIdle t := by
  obtain ⟨hc, hx, hf, hb⟩ := hi
  exact ⟨(h .colls (by decide)).trans hc, (h .xfers (by decide)).trans hx, (h .fetches (by decide)).trans hf,
    fun p hp => by rw [part_of (h .parts (by decide))]; exact hb p hp⟩

/-- A module that no port reaches any more loses nothing. -/
theorem unreachable_idle {s : State} (hi : linksIdle s) (m : Nat) : s.unreachable m = s := by
  obtain ⟨-, hx, hf, hb⟩ := hi
  unfold State.unreachable
  split
  · rfl
  · have hparts : partNumbers.foldl (fun s p =>
        if ((s.part p).bindReq.map (fun b => b.2.1 == m)).getD false then s.bindAnswered p 0x4101 0 else s) s = s :=
      foldl_id partNumbers s _ (fun p hp => by
        rw [hb p (by unfold partNumbers at hp; simp at hp; omega)]
        rfl)
    have hs : ({ s with xfers := [] } : State) = s := by rw [← hx]
    simp only [hx, List.filter_nil, List.foldl_nil, hs, hparts]
    rw [hf]
    rfl

/-- Port k in state st of R439, out of service. -/
def portDown (s : State) (k st : Nat) : State :=
  s.modKport k (fun x => { x with state := st, downSince := s.time.ticks, nak := false, fails := 0, retrained := false })

/-- With nothing in progress a port goes out of service alone. -/
theorem portOff_idle {s : State} (hi : linksIdle s) (k st : Nat) : s.portOff k st = portDown s k st := by
  have hi' : linksIdle (portDown s k st) := linksIdle_of (only_mono (modKport_only s k _) (by decide)) hi
  have ⟨hc, hx, _⟩ := hi'
  have hcolls : (portDown s k st).stopPortColls k = portDown s k st := by
    unfold State.stopPortColls
    rw [hc]
    rfl
  have hblocks : (portDown s k st).rerouteBlocks k = portDown s k st := by
    unfold State.rerouteBlocks
    rw [hx, List.map_nil, ← hx]
  show ((((portDown s k st).stopPortColls k).rerouteBlocks k).pumpXfers).unreachable _ = _
  rw [hcolls, hblocks, pump_none hx, unreachable_idle hi']

/-- Port k trains again, with the spare pair in the place of a lane. -/
def portTrains (s : State) (k spare : Nat) (dead : Bool) : State :=
  s.modKport k (fun x => { x with state := 1, spare := spare, spareDead := dead })

theorem enablePort_trains {s : State} {k lanes : Nat} (h : (s.kport k).state = 4) (hl : untrained lanes = []) :
    s.enablePort k 1 lanes = (portTrains s k 0xFF false, 0) := by
  unfold untrained at hl
  simp only [State.enablePort, h, hl]
  rfl

theorem enablePort_trains_spare {s : State} {k lanes b : Nat} (h : (s.kport k).state = 4) (hl : untrained lanes = [b]) :
    s.enablePort k 1 lanes = (portTrains s k (if b < 8 then b else 0xFF) (b == 8), 0) := by
  unfold untrained at hl
  simp only [State.enablePort, h, hl]
  rfl

theorem enablePort_fails {s : State} {k lanes a c : Nat} {l : List Nat} (h : (s.kport k).state = 4)
    (hl : untrained lanes = a :: c :: l) : s.enablePort k 1 lanes = (s.kettleDown k a, 0) := by
  unfold untrained at hl
  simp only [State.enablePort, h, hl]
  rfl

theorem enablePort_in_service {s : State} {k : Nat} (lanes : Nat) (h : (s.kport k).state ≠ 4) :
    s.enablePort k 1 lanes = (s, 0) := by
  simp [State.enablePort, h]

/-- A port that is taken out of service is disabled. -/
theorem enablePort_disables {s : State} (hi : linksIdle s) (k lanes : Nat) :
    ((s.enablePort k 0 lanes).1.kport k).state = 4 := by
  unfold State.enablePort
  rw [if_pos rfl]
  dsimp only
  split
  · assumption
  · rw [portOff_idle hi]
    unfold portDown
    rw [kport_modKport]

/-- The error entry of a port that is down for a lane (R438). -/
def laneErr (k lane : Nat) : ErrSpec := { status := 0x6303, unitKind := 8, unit := k * 256 + lane }

/-- A port that fails to train goes down, and its error is queued. -/
theorem kettleDown_queues {s : State} {k lane : Nat} (hi : linksIdle s) (hroom : roomFor s (laneErr k lane)) :
    ((s.kettleDown k lane).kport k).state = 0 ∧ queued s (s.kettleDown k lane) (laneErr k lane) := by
  obtain ⟨hk, hq⟩ := raise_room hroom
  have hd : s.kettleDown k lane = portDown (s.raise (laneErr k lane)) k 0 :=
    portOff_idle (linksIdle_of (only_mono hk (by decide)) hi) k 0
  rw [hd]
  refine ⟨?_, hq⟩
  unfold portDown
  rw [kport_modKport]

section
variable {s : State} {r : Req} {k lanes v : Nat}

/-- A write of Port enable answers, and leaves the ports and the error queue that its effect leaves. -/
theorem portEnable_answers (h : acceptsWrite s r (0xA400 + k) 5 1 (le 1 v)) :
    ∃ cs t, exec (.kettlePortEnable r k v lanes) s = .next t ∧ respondedWith t r 2 (0xA400 + k) 5 0 [] ∧
      t.errq = ((replayed s cs).enablePort k v lanes).1.settled ∧
      t.kports = ((replayed s cs).enablePort k v lanes).1.kports := by
  obtain ⟨cs, t, e, hr, hq, -, hk⟩ := accepted_answers (c := .kettlePortEnable r k v lanes)
    (g := fun s => (s.enablePort k v lanes).1) rfl h (fun cs => by
      show (_, some _) = _
      rw [enablePort_status])
  exact ⟨cs, t, e, hr, hq, hk .kports (by decide)⟩

theorem portEnable_trains (h : acceptsWrite s r (0xA400 + k) 5 1 (le 1 1)) (hd : (s.kport k).state = 4)
    (hl : ∀ i < 9, bit lanes i = true) :
    ∃ t, exec (.kettlePortEnable r k 1 lanes) s = .next t ∧ respondedWith t r 2 (0xA400 + k) 5 0 [] ∧
      (t.kport k).state = 1 ∧ (t.kport k).spare = 0xFF ∧ (t.kport k).spareDead = false := by
  obtain ⟨cs, t, e, hr, -, hk⟩ := portEnable_answers (lanes := lanes) h
  rw [enablePort_trains (s := replayed s cs) hd (untrained_none hl)] at hk
  have hkp : t.kport k = _ := (kport_of hk k).trans (kport_modKport _ _ _)
  exact ⟨t, e, hr, by rw [hkp], by rw [hkp], by rw [hkp]⟩

theorem portEnable_trains_spare (h : acceptsWrite s r (0xA400 + k) 5 1 (le 1 1)) (hd : (s.kport k).state = 4) {b : Nat}
    (hb : b < 9) (hl : ∀ i < 9, bit lanes i = true ↔ i ≠ b) :
    ∃ t, exec (.kettlePortEnable r k 1 lanes) s = .next t ∧ respondedWith t r 2 (0xA400 + k) 5 0 [] ∧
      (t.kport k).state = 1 ∧ (t.kport k).spare = (if b < 8 then b else 0xFF) ∧
      (t.kport k).spareDead = decide (b = 8) := by
  obtain ⟨cs, t, e, hr, -, hk⟩ := portEnable_answers (lanes := lanes) h
  rw [enablePort_trains_spare (s := replayed s cs) hd (untrained_one hb hl)] at hk
  have hkp : t.kport k = _ := (kport_of hk k).trans (kport_modKport _ _ _)
  exact ⟨t, e, hr, by rw [hkp], by rw [hkp], by rw [hkp]; rfl⟩

theorem portEnable_in_service (h : acceptsWrite s r (0xA400 + k) 5 1 (le 1 1)) (hd : (s.kport k).state ≠ 4) :
    ∃ t, exec (.kettlePortEnable r k 1 lanes) s = .next t ∧ respondedWith t r 2 (0xA400 + k) 5 0 [] ∧
      t.kports = s.kports := by
  obtain ⟨cs, t, e, hr, -, hk⟩ := portEnable_answers (lanes := lanes) h
  rw [enablePort_in_service (s := replayed s cs) lanes hd] at hk
  exact ⟨t, e, hr, hk⟩

theorem linksIdle_replayed (hi : linksIdle s) (cs : Caddy) : linksIdle (replayed s cs) :=
  linksIdle_of (only_mono (replayed_only s cs) (by decide)) hi

theorem portEnable_disables (hi : linksIdle s) (h : acceptsWrite s r (0xA400 + k) 5 1 (le 1 0)) :
    ∃ t, exec (.kettlePortEnable r k 0 lanes) s = .next t ∧ respondedWith t r 2 (0xA400 + k) 5 0 [] ∧
      (t.kport k).state = 4 := by
  obtain ⟨cs, t, e, hr, -, hk⟩ := portEnable_answers (lanes := lanes) h
  refine ⟨t, e, hr, ?_⟩
  rw [kport_of hk k]
  exact enablePort_disables (linksIdle_replayed hi cs) k lanes

theorem portEnable_fails (hi : linksIdle s) (h : acceptsWrite s r (0xA400 + k) 5 1 (le 1 1)) (hd : (s.kport k).state = 4)
    {a b : Nat} (hab : a < b) (hb : b < 9) (hlow : ∀ i < a, bit lanes i = true) (ha : bit lanes a = false)
    (hbad : bit lanes b = false) (hroom : roomFor s (laneErr k a)) :
    ∃ t, exec (.kettlePortEnable r k 1 lanes) s = .next t ∧ respondedWith t r 2 (0xA400 + k) 5 0 [] ∧
      (t.kport k).state = 0 ∧ queued s t (laneErr k a) := by
  obtain ⟨cs, t, e, hr, hq, hk⟩ := portEnable_answers (lanes := lanes) h
  obtain ⟨c, l, hl⟩ := untrained_more hab hb hlow ha hbad
  rw [enablePort_fails (s := replayed s cs) hd hl] at hq hk
  obtain ⟨hdown, hqueued⟩ := kettleDown_queues (s := replayed s cs) (linksIdle_replayed hi cs)
    (roomFor_of hroom rfl rfl)
  exact ⟨t, e, hr, by rw [kport_of hk k]; exact hdown, queued_settled (s := s) hqueued t hq⟩

end

/-- Settles O20: each write by the state that its effect leaves. -/
theorem maintenanceWritesTakeEffect : Obligations.MaintenanceWritesTakeEffect := by
  unfold Obligations.MaintenanceWritesTakeEffect
  intro s r
  refine ⟨fun stack ch hs hc h => ⟨migrationRequest_begins hs hc h, migrationRequest_refused hs hc h⟩,
    fun n => acknowledge_releases, fun modules partitions => reclaimNoticeSend_sends, fun i v hi => sensorReset_resets hi,
    fun k lanes _ => ⟨fun h hd => ⟨portEnable_trains h hd, fun b => portEnable_trains_spare h hd⟩, portEnable_in_service,
      fun hc hx hf hb => ?_⟩⟩
  have hi : linksIdle s := ⟨hc, hx, hf, hb⟩
  exact ⟨portEnable_disables hi, fun a b hab hb hlow ha hbad h hd => portEnable_fails hi h hd hab hb hlow ha hbad⟩

end Sys2Proof.Proofs.MaintenanceWrites

/-!
SUPPORT. A channel that fails without a standby (R246): what the loss leaves of the stack, and the number of its error entry,
which comes round after 32 bits. O51 asks for a number that no entry can have, and fails.
-/

namespace Sys2Proof.Proofs.SpareChannels

open Sys2Proof Sys2Proof.Machine Sys2Proof.Safety Sys2Proof.Laws Sys2Proof.Laws.Shared

/-! ### The loss of a channel -/

/-- The error of a channel that fails, with its owner (R245). -/
def failureErr (s : State) (stack ch : Nat) : ErrSpec :=
  { status := 0x6202, part := s.channelOwner stack ch, unitKind := 3, unit := chUnit stack ch }

/-- The error of a stack that loses a channel for want of a standby (R246). -/
def exhaustionErr (stack ch : Nat) : ErrSpec := { status := 0x7201, part := 0xFF, unitKind := 3, unit := chUnit stack ch }

/-- The loss of a channel records what became of its failure: no further entry follows from the window on its unit (R339). -/
theorem raise_exhaustion {s : State} (stack ch : Nat) (h : s.errq.reserveUsed < 28) :
    s.raise (exhaustionErr stack ch) = s.enqueue (exhaustionErr stack ch) 1 := by
  have henrol : s.enrol (exhaustionErr stack ch) = s.enqueue (exhaustionErr stack ch) 1 := by
    unfold State.enrol
    rw [if_pos (.inl (show 255 ≥ 4 by decide)), if_pos h]
  unfold State.raise
  dsimp only
  rw [henrol, if_neg (fun c => absurd c.1 (by decide : severity 0x7201 ≠ 4))]
  split
  · rw [if_neg (fun c => absurd c.2.2 (by decide : ¬(!recordCodes.contains 0x7201) = true))]
  · rfl

theorem physCh_of {s t : State} (h : t.hbm.map = s.hbm.map) (stack l : Nat) : t.physCh stack l = s.physCh stack l := by
  unfold State.physCh
  rw [h]

theorem channelOwner_of {s t : State} (hp : t.parts = s.parts) (hh : t.hbm.map = s.hbm.map) (stack ch : Nat) :
    t.channelOwner stack ch = s.channelOwner stack ch := by
  unfold State.channelOwner State.logicalCh State.part
  simp only [physCh_of hh, hp]

/-- The map of a stack that has lost logical channel l: channel 30 takes its number, and 30 is gone (R246). -/
def mapWithout (s : State) (stack l : Nat) : Tab Nat :=
  if l = 30 then Tab.set s.hbm.map (stack * 32 + 30) 255
  else Tab.set (Tab.set s.hbm.map (stack * 32 + l) (s.physCh stack 30)) (stack * 32 + 30) 255

/-- s with the loss of logical channel l of a stack queued and recorded: the failed channel had that number. -/
def withoutChannel (s : State) (stack l ch : Nat) : State :=
  (s.enqueue (exhaustionErr stack ch) 1).modHbm (fun x =>
    { x with usable := 30, failed := (stack, ch) :: x.failed, stale := x.stale.eraseDups, map := mapWithout s stack l })

/-- A stack without a standby, where no partition has the channel that fails nor channel 30, loses the channel alone. -/
theorem exhausted_unowned {s : State} {stack l ch : Nat} (h : 4 ≤ s.channelOwner stack ch)
    (h30 : 4 ≤ s.channelOwner stack (s.physCh stack 30)) (hq : s.errq.reserveUsed < 28) :
    s.exhausted stack l ch = withoutChannel s stack l ch := by
  have hnone : [s.channelOwner stack ch, s.channelOwner stack (s.physCh stack 30)].eraseDups.filter
      (fun p => decide (p < 4)) = [] := by
    refine List.filter_eq_nil_iff.mpr fun p hp => ?_
    rcases List.mem_pair.mp (List.mem_eraseDups.mp hp) with rfl | rfl <;> simpa
  have hh : (s.enqueue (exhaustionErr stack ch) 1).hbm = s.hbm := enqueue_same s _ _ .hbm (by decide)
  have hr : s.raise { status := 0x7201, unitKind := 3, unit := chUnit stack ch } = s.enqueue (exhaustionErr stack ch) 1 :=
    raise_exhaustion stack ch hq
  unfold State.exhausted
  dsimp only
  rw [hr, hnone]
  unfold withoutChannel mapWithout
  split <;> simp [State.modHbm, hh]

theorem physCh_mapWithout {s t : State} {stack l : Nat} (h : t.hbm.map = mapWithout s stack l) :
    t.physCh stack 30 = 255 ∧ (l ≠ 30 → t.physCh stack l = s.physCh stack 30) := by
  unfold State.physCh
  rw [h]
  unfold mapWithout
  refine ⟨?_, fun hl => ?_⟩
  · split <;> exact tab_get_set_same _ _ _ _
  · rw [if_neg hl, tab_get_set_other _ _ _ _ _ (by omega)]
    exact tab_get_set_same _ _ _ _

/-- An entry that is queued stays as another one is. -/
theorem queued_enqueue {s t : State} {e : ErrSpec} (h : queued s t e) (e' : ErrSpec) (n : Nat) :
    queued s (t.enqueue e' n) e := by
  obtain ⟨x, hx, h⟩ := h
  refine ⟨x, ?_, h⟩
  unfold State.enqueue
  dsimp only
  split <;> exact List.mem_append_left _ hx

theorem raise_nextSeq {s : State} {e : ErrSpec} (h : roomFor s e) :
    (s.raise e).errq.nextSeq = (s.errq.nextSeq + 1) % 4294967296 := by
  rw [raise_errq h]
  unfold State.enqueue
  dsimp only
  split <;> rfl

/-- What O51 says of a channel that fails without a standby, with the number of the second entry as 32 bits give it. -/
theorem channelFailed_exhausts {s : State} {stack ch : Nat} (hs : stack < 20) (hc : ch < 32)
    (hf : s.hbm.failed.contains (stack, ch) = false) (hl : s.logicalCh stack ch ≠ 255)
    (hb : 32 ≤ s.standby stack) (h : 4 ≤ s.channelOwner stack ch) (h30 : 4 ≤ s.channelOwner stack (s.physCh stack 30))
    (hroom : roomFor s (failureErr s stack ch)) (hq : (s.raise (failureErr s stack ch)).errq.reserveUsed < 28) :
    ∃ t, exec (.channelFailed stack ch) s = .next t ∧ queued s t (failureErr s stack ch) ∧
      (∃ x ∈ t.errq.entries, x.seq = (s.errq.nextSeq + 1) % 4294967296 ∧ x.status = 0x7201 ∧ x.unitKind = 3 ∧
        x.unit = chUnit stack ch) ∧
      (stack, ch) ∈ t.hbm.failed ∧ t.hbm.usable = 30 ∧ t.physCh stack 30 = 255 ∧
      (s.logicalCh stack ch ≠ 30 → t.physCh stack (s.logicalCh stack ch) = s.physCh stack 30) := by
  obtain ⟨hk, hfirst⟩ := raise_room hroom
  have hseq := raise_nextSeq hroom
  have hfails : s.channelFails stack ch = (s.raise (failureErr s stack ch)).exhausted stack (s.logicalCh stack ch) ch := by
    unfold State.channelFails
    rw [if_neg (by rw [hf, Bool.false_eq_true, or_false]; omega)]
    dsimp only
    rw [if_neg hl, if_pos (by simp [hb])]
    rfl
  have he : exec (.channelFailed stack ch) s = answer s (s.channelFails stack ch) := rfl
  rw [he, hfails]
  generalize s.raise (failureErr s stack ch) = u at *
  have hparts : u.parts = s.parts := hk .parts (by decide)
  have hhbm : u.hbm = s.hbm := hk .hbm (by decide)
  have hmap : u.hbm.map = s.hbm.map := by rw [hhbm]
  rw [exhausted_unowned (by rwa [channelOwner_of hparts hmap])
    (by rwa [channelOwner_of hparts hmap, physCh_of hmap]) hq]
  generalize s.logicalCh stack ch = l
  obtain ⟨y, hy, hyseq, hystatus, -, hykind, hyunit, -⟩ := enqueue_mem u (exhaustionErr stack ch) 1
  refine ansE fun t kt ht => ?_
  have hth : t.hbm = _ := kt .hbm (by decide)
  obtain ⟨h255, hlast⟩ := physCh_mapWithout (s := u) (t := t) (stack := stack) (l := l) (by rw [hth]; rfl)
  refine ⟨queued_settled (x := withoutChannel u stack l ch) (queued_enqueue hfirst _ 1) t ht, ?_, ?_, ?_, h255, fun hn => ?_⟩
  · obtain ⟨a1, a2, -, a4, a5, -⟩ := settle_same (withoutChannel u stack l ch) y
    refine ⟨_, by rw [ht]; exact List.mem_map_of_mem hy, ?_, ?_, ?_, ?_⟩
    · rw [a1, hyseq, hseq]
    · rw [a2, hystatus]; rfl
    · rw [a4, hykind]; rfl
    · rw [a5, hyunit]; rfl
  · rw [hth]
    exact List.mem_cons_self ..
  · rw [hth]
    rfl
  · rw [hlast hn, physCh_of hmap]

/-! ### The last number -/

/-- A module whose stack 0 has lost its standby, with partition 0 on channels 0 to 3. Its next error entry has the last number
of 32 bits (R334). -/
def lastNumber : State :=
  { State.reset with
    parts := [(0, { Part.first with chans := 4 })]
    errq := { nextSeq := 4294967295 }
    hbm := { standby := [(0, 255)], failed := [(0, 31)] } }

theorem lastNumber_room : roomFor lastNumber (failureErr lastNumber 0 5) := by
  unfold roomFor
  decide +kernel

/-- The numbers of the error entries in the state that a command answers. -/
def errorNumbers (o : Host.Outcome State Fault Refusal) : Option (List Nat) :=
  match o with
  | .next t => some (t.errq.entries.map (·.seq))
  | _ => none

/-- The failure has the last number, and the loss of the channel that follows it has number 0 again. -/
theorem lastNumber_wraps : errorNumbers (exec (.channelFailed 0 5) lastNumber) = some [4294967295, 0] := by
  decide +kernel

/-- Refutes O51: a channel that fails without a standby queues 0x6202 and then 0x7201, of which O51 asks the number behind
that of the first. Numbers have 32 bits (R334): behind the last of them comes 0. -/
theorem not_channelsAreCheckedAndReplaced : ¬ Obligations.ChannelsAreCheckedAndReplaced := by
  unfold Obligations.ChannelsAreCheckedAndReplaced
  intro h
  obtain ⟨-, -, hchannels, -⟩ := h lastNumber
  obtain ⟨-, -, hfails⟩ := hchannels 0 5 (by decide) (by decide) (by decide)
  obtain ⟨-, -, -, hexhausted⟩ := hfails lastNumber_room
  obtain ⟨t, e, -, ⟨x, hx, hseq, -⟩, -⟩ :=
    hexhausted (by decide) (by decide) (by decide) (by decide) (by decide) (by decide +kernel)
  have hnumbers := lastNumber_wraps
  rw [e] at hnumbers
  have hmem : x.seq ∈ t.errq.entries.map (·.seq) := List.mem_map_of_mem hx
  rw [Option.some.inj hnumbers, hseq] at hmem
  exact absurd hmem (by decide)

end Sys2Proof.Proofs.SpareChannels

/-!
SUPPORT. Media commands: what a bind makes of its stream, when the rounds of a decode command begin, what a close does to a stream
with and without a decode command in hand, and the statement of O47 from these.
-/

namespace Sys2Proof.Proofs.MediaCommands

open Sys2Proof Sys2Proof.Machine Sys2Proof.Safety Sys2Proof.Laws Sys2Proof.Laws.Shared
open Sys2Proof.Proofs.GathersAndAdds

/-! ### Commands handed over -/

theorem issue_queues_of {s u : State} (h : u.queues = s.queues) (k n : Nat) (r : QRef) (st : Nat) :
    (u.issue k n r st).queues = (s.issue k n r st).queues := by
  unfold State.issue
  rw [modQueue_queues, modQueue_queues, modCmd_queues, modCmd_queues, h]

/-- A command of the present state a that ends by issuing r: r is handed over, as seen from any state s with the same queues
and the same record of r. -/
theorem issued_handed_over {a s u : State} {k n st : Nat} {r : QRef} {c : CmdRec} {i : Instr}
    (he : exec i a = answer a (u.issue k n r st)) (hr : (s.queue k n).running = some r) (hc : s.cmdOf r = some c)
    (hu : u.cmdOf r = some c) (hq : u.queues = s.queues) :
    ∃ t, exec i a = .next t ∧ handedOver k n r c st s t ∧ t.streams = u.streams ∧ t.outs = u.outs ∧
      t.parts = (u.issue k n r st).parts := by
  rw [he]
  exact ansE fun t kt _ => ⟨give hr hc hu hq kt, kt .streams (by decide), kt .outs (by decide), kt .parts (by decide)⟩

/-- A command that changes no more than streams, memory and messages before it issues r. -/
theorem runs_handed_over {s u : State} {n st : Nat} {r : QRef} {c : CmdRec} {i : Instr} (h : runs s 5 n r c)
    (he : exec i s = answer s (u.issue 5 n r st)) (hk : onlyChanges [.mem, .hbm, .streams, .outs] s u) :
    ∃ t, exec i s = .next t ∧ handedOver 5 n r c st s t ∧ t.streams = u.streams ∧ t.outs = u.outs := by
  obtain ⟨hr, hc, -⟩ := runs_parts h
  obtain ⟨t, e, ho, hs, hout, -⟩ := issued_handed_over he hr hc
    (by rw [cmdOf_of (hk .parts (by decide)), hc]) (hk .queues (by decide))
  exact ⟨t, e, ho, hs, hout⟩

/-! ### Binds (R251) -/

theorem mediaBind_bound {s : State} {n : Nat} (r : QRef) (c : CmdRec) (h : (s.stream n).state ≠ 0) :
    s.mediaBind n r c = (s, 0x1203) := if_pos h

theorem mediaBind_failed {s : State} {n : Nat} {r : QRef} {c : CmdRec} (h : (s.stream n).state = 0)
    (hst : s.bindStatus n (boundStream s n r c) (c.cmd.arg1 != 0) ≠ 0) :
    s.mediaBind n r c = (s, s.bindStatus n (boundStream s n r c) (c.cmd.arg1 != 0)) :=
  (if_neg (by rw [h]; decide)).trans (if_pos hst)

/-- The stream of a bind with the merge table that a text stream loads (R264). -/
def tabledStream (s : State) (n : Nat) (r : QRef) (c : CmdRec) : Stream :=
  let y := boundStream s n r c
  { y with table := if y.kind = 4 then s.rd r.part (field y.desc 0x38 8) (1024 + 12 * field y.desc 0x40 4) else [] }

theorem mediaBind_binds {s : State} {n : Nat} {r : QRef} {c : CmdRec} (h : (s.stream n).state = 0)
    (hst : s.bindStatus n (boundStream s n r c) (c.cmd.arg1 != 0) = 0) :
    s.mediaBind n r c = ((s.modStream n (fun _ => tabledStream s n r c)).syncHeader r.part, 0) :=
  (if_neg (by rw [h]; decide)).trans (if_neg (not_not.mpr hst))

theorem syncHeader_only (s : State) (p : Nat) : onlyChanges [.mem, .hbm] s (s.syncHeader p) :=
  (path_syncHeader (ks := [.mem, .hbm]) p (by decide) (path_refl _ s)).frame

theorem mediaBind_hands_over {s u : State} {n st : Nat} {r : QRef} {c : CmdRec} (h : runs s 5 n r c)
    (ho : c.cmd.opcode = 1) (hf : s.mediaBind n r c = (u, st)) (hk : onlyChanges [.mem, .hbm, .streams] s u) :
    ∃ t, exec (.mediaBind n) s = .next t ∧ handedOver 5 n r c st s t ∧ t.stream n = u.stream n := by
  obtain ⟨t, e, hh, -, -, -, hu, -⟩ := answer_engine (sel := fun c => c.opcode == 1) (f := fun s r c => s.mediaBind n r c)
    h (by rw [ho]; rfl) hf hk (by decide)
  exact ⟨t, e, hh, stream_of (hu .streams (by decide)) n⟩

theorem bind_makes_stream {s : State} {n : Nat} {r : QRef} {c : CmdRec} (h : runs s 5 n r c) (ho : c.cmd.opcode = 1)
    (hst : (s.stream n).state = 0) (hf : s.bindStatus n (boundStream s n r c) (c.cmd.arg1 != 0) = 0) :
    ∃ t, exec (.mediaBind n) s = .next t ∧ handedOver 5 n r c 0 s t ∧ t.stream n = tabledStream s n r c := by
  have hk := syncHeader_only (s.modStream n (fun _ => tabledStream s n r c)) r.part
  obtain ⟨t, e, hh, ht⟩ := mediaBind_hands_over h ho (mediaBind_binds hst hf)
    (only_trans (only_mono (modStream_only _ _ _) (by decide)) (only_mono hk (by decide)))
  exact ⟨t, e, hh, ht.trans ((stream_of (hk .streams (by decide)) n).trans (stream_modStream _ _ _))⟩

/-! ### Decode commands (R257, R259) -/

theorem decodeBlockList_begins {s : State} {n : Nat} {r : QRef} {c : CmdRec} (h : runs s 5 n r c)
    (ho : c.cmd.opcode = 2) (hc : (s.stream n).cmd = none) :
    exec (.decodeBlockList n) s = answer s (if (s.stream n).state = 0 then s.issue 5 n r 0x1203 else
      (s.modStream n (fun x => { x with rounds := some (c.cmd.rounds (c.held.getD 0 [])), cmd := some r })).pump n) := by
  show execDecodeBlockList n s = _
  unfold execDecodeBlockList
  rw [h.1]
  dsimp only
  rw [if_neg (by simp [ho, hc])]

/-- Of the rounds that a decode command begins, no entry is done. -/
theorem rounds_begun (x : Stream) {c : Cmd} {b : List Byte} (h : (c.rounds b).entries ≠ []) :
    ({ x with rounds := some (c.rounds b) } : Stream).roundDone = false := by
  have hd : (c.rounds b).done = [] := rfl
  have hl : 0 < (c.rounds b).entries.length := List.length_pos_of_ne_nil h
  unfold Stream.roundDone
  simp only [hd, List.contains_nil]
  exact List.all_eq_false.mpr ⟨0, List.mem_range.mpr hl, by decide⟩

/-- A command that leaves a stream changed and the rest of the module as it was. -/
theorem stream_changed {s : State} {n : Nat} {i : Instr} {f : Stream → Stream} (he : exec i s = answer s (s.modStream n f)) :
    ∃ t, exec i s = .next t ∧ onlyChanges [.streams, .errq, .journal] s t ∧ t.stream n = f (s.stream n) := by
  rw [he]
  exact ansK (modStream_only s n f) (by decide) fun t kt _ => by rw [stream_of (kt .streams (by decide)), stream_modStream]

theorem decodeBlockList_unbound {s : State} {n : Nat} {r : QRef} {c : CmdRec} (h : runs s 5 n r c) (ho : c.cmd.opcode = 2)
    (hc : (s.stream n).cmd = none) (hst : (s.stream n).state = 0) :
    ∃ t, exec (.decodeBlockList n) s = .next t ∧ handedOver 5 n r c 0x1203 s t := by
  have he := decodeBlockList_begins h ho hc
  rw [if_pos hst] at he
  obtain ⟨t, e, hh, -⟩ := runs_handed_over h he (only_refl _ s)
  exact ⟨t, e, hh⟩

/-- The rounds of a decode command begin, and wait for their first sample. -/
theorem decodeBlockList_waits {s : State} {n : Nat} {r : QRef} {c : CmdRec} (h : runs s 5 n r c) (ho : c.cmd.opcode = 2)
    (hc : (s.stream n).cmd = none) (hst : (s.stream n).state = 1 ∨ (s.stream n).state = 2) (hp : (s.stream n).fromPort = true)
    (hs : (s.stream n).samples = []) (hrc : (s.stream n).resultCredits = 0)
    (hw : (c.cmd.rounds (c.held.getD 0 [])).entries ≠ []) :
    ∃ t, exec (.decodeBlockList n) s = .next t ∧ onlyChanges [.streams, .errq, .journal] s t ∧
      t.stream n = { s.stream n with rounds := some (c.cmd.rounds (c.held.getD 0 [])), cmd := some r } := by
  have he := decodeBlockList_begins h ho hc
  have hx := stream_modStream s n (fun x => { x with rounds := some (c.cmd.rounds (c.held.getD 0 [])), cmd := some r })
  have h0 : (s.stream n).state ≠ 0 := by omega
  have h3 : (s.stream n).state ≠ 3 := by omega
  rw [if_neg h0, pump_quiet_stream (by rw [hx]; exact hs) (.inl (by rw [hx]; exact h3))
    (.inr (by rw [hx]; exact ⟨hp, hrc, rounds_begun { s.stream n with cmd := some r } hw⟩))] at he
  exact stream_changed he

/-! ### Closes (R273) -/

theorem closing_some {s : State} {n : Nat} {r : QRef} {c : CmdRec} (h : runs s 5 n r c) (ho : c.cmd.opcode = 3) :
    s.closing n (bit c.cmd.arg4 0) = some r := by
  unfold State.closing
  rw [h.1]
  simp [ho]

theorem closeGraceful_begins {s : State} {n : Nat} {r : QRef} {c : CmdRec} (h : runs s 5 n r c) (ho : c.cmd.opcode = 3)
    (hb : bit c.cmd.arg4 0 = false) :
    exec (.closeGraceful n) s = answer s (if (s.stream n).state = 0 then s.issue 5 n r 0 else
      (s.modStream n (fun x => { x with state := 3, closeCmd := some r })).pump n) := by
  have hcl := closing_some h ho
  rw [hb] at hcl
  show execCloseGraceful n s = _
  unfold execCloseGraceful
  rw [hcl]

theorem closeAbort_begins {s : State} {n : Nat} {r : QRef} {c : CmdRec} (h : runs s 5 n r c) (ho : c.cmd.opcode = 3)
    (hb : bit c.cmd.arg4 0 = true) :
    exec (.closeAbort n) s = answer s (if (s.stream n).state = 0 then s.issue 5 n r 0 else
      (s.modStream n (fun x => { x with closeCmd := some r })).abortClose n 0x1107) := by
  have hcl := closing_some h ho
  rw [hb] at hcl
  show execCloseAbort n s = _
  unfold execCloseAbort
  rw [hcl]

theorem endDecode_none {s : State} {n : Nat} (h : (s.stream n).cmd = none) (st : Nat) : s.endDecode n st = s := by
  unfold State.endDecode
  simp only [h]

theorem abortClose_idle {s : State} {n : Nat} {r : QRef} (hc : (s.stream n).cmd = none)
    (hr : (s.stream n).closeCmd = some r) (st : Nat) : s.abortClose n st = (s.closeStream n st).issue 5 n r 0 := by
  unfold State.abortClose
  simp only [hc, hr, Option.bind_none, endDecode_none hc]

theorem roundRuns_none {x : Stream} (h : x.rounds = none) : x.roundRuns = false := by
  unfold Stream.roundRuns
  rw [h]

/-- A closing stream without a sample or a round has only its end left. -/
theorem pumpOnce_closing {s : State} {n : Nat} (hs : (s.stream n).samples = []) (hr : (s.stream n).rounds = none) :
    s.pumpOnce n = s.endClosing n := by
  unfold State.pumpOnce
  simp only [takeSlots_none hs, ite_self, assign_none hs (.inl hr), maskCorrupt_none hs, roundRuns_none hr,
    takeBlocks_none (s := s) (n := n) (by simp [hs]), Bool.false_eq_true, and_false, if_false,
    sendResults_zero s n (.inr hr), rd_none hr]

theorem pump_closing {s : State} {n : Nat} {r : QRef} (hst : (s.stream n).state = 3) (hs : (s.stream n).samples = [])
    (hr : (s.stream n).rounds = none) (hc : (s.stream n).cmd = none) (hcl : (s.stream n).closeCmd = some r) :
    s.pump n = (s.closeStream n 0).issue 5 n r 0 := by
  have hend : s.endClosing n = (s.closeStream n 0).issue 5 n r 0 := by
    unfold State.endClosing
    simp only [hst, roundRuns_none hr, endDecode_none hc, hcl]
    rfl
  have hopen : (s.stream n).state ≠ 0 := by rw [hst]; decide
  have hgone : ((s.closeStream n 0).issue 5 n r 0).stream n = {} := (close_stream hopen).1
  unfold State.pump
  rw [hs, show List.range (([] : List Sample).length + 2) = [0, 1] from rfl, List.foldl_cons, List.foldl_cons, List.foldl_nil,
    if_neg hopen, pumpOnce_closing hs hr, hend, if_pos (by rw [hgone])]

/-- A stream at rest that a close command ends: the sender is told, and the command is handed over. -/
theorem idle_stream_closes {s : State} {n st : Nat} {r : QRef} {c : CmdRec} {i : Instr} {f : Stream → Stream}
    (h : runs s 5 n r c) (hst : (f (s.stream n)).state ≠ 0) (hd : (f (s.stream n)).desc = (s.stream n).desc)
    (hq : (f (s.stream n)).seqOut = (s.stream n).seqOut)
    (he : exec i s = answer s (((s.modStream n f).closeStream n st).issue 5 n r 0)) :
    ∃ t, exec i s = .next t ∧ handedOver 5 n r c 0 s t ∧ t.stream n = {} ∧ ((s.stream n).fromPort = true →
      t.outs.head? = some (.ingest (s.stream n).port (s.stream n).conn 0x85 [(s.stream n).seqOut, st] [])) := by
  have hx : (s.modStream n f).stream n = f (s.stream n) := stream_modStream s n f
  obtain ⟨hgone, hk, hout⟩ := close_stream (s := s.modStream n f) (st := st) (by rwa [hx])
  obtain ⟨t, e, ho, hstr, houts⟩ := runs_handed_over h he
    (only_trans (only_mono (modStream_only s n f) (by decide)) hk)
  refine ⟨t, e, ho, (stream_of hstr n).trans hgone, fun hp => ?_⟩
  rw [hx] at hout
  unfold Stream.fromPort Stream.port Stream.conn at *
  rw [hd, hq] at hout
  rw [houts, hout hp]

theorem close_unbound {s : State} {n : Nat} {r : QRef} {c : CmdRec} (h : runs s 5 n r c) (ho : c.cmd.opcode = 3)
    (hst : (s.stream n).state = 0) :
    ∃ t, exec (if bit c.cmd.arg4 0 = true then .closeAbort n else .closeGraceful n) s = .next t ∧
      handedOver 5 n r c 0 s t := by
  have he : exec (if bit c.cmd.arg4 0 = true then .closeAbort n else .closeGraceful n) s = answer s (s.issue 5 n r 0) := by
    split
    · rename_i hb
      rw [closeAbort_begins h ho hb, if_pos hst]
    · rename_i hb
      rw [closeGraceful_begins h ho (by simpa using hb), if_pos hst]
  obtain ⟨t, e, hh, -⟩ := runs_handed_over h he (only_refl _ s)
  exact ⟨t, e, hh⟩

/-- A stream without a decode command ends at once, with the status of the kind of close. -/
theorem close_idle {s : State} {n : Nat} {r : QRef} {c : CmdRec} (h : runs s 5 n r c) (ho : c.cmd.opcode = 3)
    (hst : (s.stream n).state ≠ 0) (hc : (s.stream n).cmd = none) (hr : (s.stream n).rounds = none)
    (hs : (s.stream n).samples = []) :
    ∃ t, exec (if bit c.cmd.arg4 0 = true then .closeAbort n else .closeGraceful n) s = .next t ∧ handedOver 5 n r c 0 s t ∧
      t.stream n = {} ∧ ((s.stream n).fromPort = true → t.outs.head? = some (.ingest (s.stream n).port (s.stream n).conn 0x85
        [(s.stream n).seqOut, if bit c.cmd.arg4 0 = true then 0x1107 else 0] [])) := by
  cases hb : bit c.cmd.arg4 0 with
  | false =>
    have he := closeGraceful_begins h ho hb
    have hx := stream_modStream s n (fun x => { x with state := 3, closeCmd := some r })
    rw [if_neg hst, pump_closing (by rw [hx]) (by rw [hx]; exact hs) (by rw [hx]; exact hr) (by rw [hx]; exact hc)
      (by rw [hx])] at he
    exact idle_stream_closes h (by decide : (3 : Nat) ≠ 0) rfl rfl he
  | true =>
    have he := closeAbort_begins h ho hb
    have hx := stream_modStream s n (fun x => { x with closeCmd := some r })
    rw [if_neg hst, abortClose_idle (by rw [hx]; exact hc) (by rw [hx])] at he
    exact idle_stream_closes (f := fun x => { x with closeCmd := some r }) h hst rfl rfl he

/-- A round is under way in which no sample is in hand: the stream only closes when it is done. -/
theorem closeGraceful_waits {s : State} {n : Nat} {r : QRef} {w : Rounds} {c : CmdRec} (h : runs s 5 n r c)
    (ho : c.cmd.opcode = 3) (hb : bit c.cmd.arg4 0 = false) (hst : (s.stream n).state ≠ 0) (hr : (s.stream n).rounds = some w)
    (hs : (s.stream n).samples = []) (hp : (s.stream n).fromPort = true) (hrc : (s.stream n).resultCredits = 0)
    (hw : w.done ≠ []) (hd : (s.stream n).roundDone = false) (ha : (s.stream n).admitsNew = true) :
    ∃ t, exec (.closeGraceful n) s = .next t ∧ onlyChanges [.streams, .errq, .journal] s t ∧
      t.stream n = { s.stream n with state := 3, closeCmd := some r } := by
  have he := closeGraceful_begins h ho hb
  have hx := stream_modStream s n (fun x => { x with state := 3, closeCmd := some r })
  have hruns : ({ s.stream n with state := 3, closeCmd := some r } : Stream).roundRuns = true := by
    unfold Stream.roundRuns
    simp [hr, hw]
  rw [if_neg hst, pump_quiet_stream (by rw [hx]; exact hs) (.inr (by rw [hx]; exact ⟨ha, hruns⟩))
    (.inr (by rw [hx]; exact ⟨hp, hrc, hd⟩))] at he
  exact stream_changed he

/-! ### An abort close under a decode command -/

/-- s with the outputs of the decode command d of stream n lost, and the stream without it (R273). -/
def decodeLost (s : State) (n : Nat) (d : CmdRec) : State :=
  (s.loseCmds (s.stream n).part [d]).modStream n (fun x => { x with cmd := none, rounds := none, cursor := x.cursorNow })

theorem decodeLost_only (s : State) (n : Nat) (d : CmdRec) : onlyChanges [.mem, .free, .streams] s (decodeLost s n d) :=
  only_trans (only_mono (loseCmds_only s _ [d]) (by decide)) (only_mono (modStream_only _ n _) (by decide))

theorem decodeLost_state (s : State) (n : Nat) (d : CmdRec) : ((decodeLost s n d).stream n).state = (s.stream n).state := by
  unfold decodeLost
  rw [stream_modStream]
  rfl

/-- An abort close hands over the decode command, ends the stream, and hands over the close command. -/
theorem abortClose_decoding {s : State} {n : Nat} {q r : QRef} {w : Rounds} {d : CmdRec} (hc : (s.stream n).cmd = some q)
    (hw : (s.stream n).rounds = some w) (hr : (s.stream n).closeCmd = some r) (hd : s.cmdOf q = some d) (st : Nat) :
    s.abortClose n st =
      ((((decodeLost s n d).issue 5 n q (mergeStatus 0x1107 w.status)).closeStream n st).issue 5 n r 0) := by
  have hx : (s.loseCmds (s.stream n).part [d]).stream n = s.stream n := rfl
  unfold State.abortClose State.endDecode decodeLost
  simp only [hc, hr, hd, Option.bind_some, hx, hw, Option.map_some, Option.getD_some]

theorem closeAbort_decoding {s : State} {n : Nat} {q r : QRef} {w : Rounds} {c d : CmdRec} (h : runs s 5 n r c)
    (ho : c.cmd.opcode = 3) (hb : bit c.cmd.arg4 0 = true) (hst : (s.stream n).state ≠ 0) (hc : (s.stream n).cmd = some q)
    (hw : (s.stream n).rounds = some w) (hd : s.cmdOf q = some d)
    (hne : q.part ≠ r.part ∨ q.list ≠ r.list ∨ q.index ≠ r.index) :
    ∃ t, exec (.closeAbort n) s = .next t ∧ handedOver 5 n r c 0 (s.issue 5 n q (mergeStatus 0x1107 w.status)) t ∧
      (t.cmdOf q).map (·.status) = some (mergeStatus d.status (mergeStatus 0x1107 w.status)) ∧ t.stream n = {} := by
  obtain ⟨hrun, hcr, -⟩ := runs_parts h
  have hrq : r ≠ q := by rintro rfl; simp at hne
  have hne' : r.part ≠ q.part ∨ r.list ≠ q.list ∨ r.index ≠ q.index := hne.imp Ne.symm (Or.imp Ne.symm Ne.symm)
  have he := closeAbort_begins h ho hb
  have hm := modStream_only s n (fun x => { x with closeCmd := some r })
  have hx := stream_modStream s n (fun x => { x with closeCmd := some r })
  rw [if_neg hst] at he
  generalize s.modStream n (fun x => { x with closeCmd := some r }) = a at *
  rw [abortClose_decoding (by rw [hx, hc]) (by rw [hx, hw]) (by rw [hx]) (by rw [cmdOf_of (hm .parts (by decide)), hd])] at he
  have hl : onlyChanges [.mem, .free, .streams] s (decodeLost a n d) :=
    only_trans (only_mono hm (by decide)) (decodeLost_only a n d)
  have hopen : ((decodeLost a n d).stream n).state ≠ 0 := by rwa [decodeLost_state, hx]
  generalize decodeLost a n d = v at *
  have hv : ∀ p, v.cmdOf p = s.cmdOf p := cmdOf_of (hl .parts (by decide))
  obtain ⟨hgone, hk, -⟩ := close_stream (s := v.issue 5 n q (mergeStatus 0x1107 w.status)) (st := 0x1107) hopen
  have hu : ∀ p, ((v.issue 5 n q (mergeStatus 0x1107 w.status)).closeStream n 0x1107).cmdOf p =
      (v.issue 5 n q (mergeStatus 0x1107 w.status)).cmdOf p := cmdOf_of (hk .parts (by decide))
  obtain ⟨t, e, hh, hstr, -, hparts⟩ := issued_handed_over (s := s.issue 5 n q (mergeStatus 0x1107 w.status)) he
    (by rw [issue_queue, hrun]; simp [hrq])
    (by rw [issue_of _ _ _ _ _ _ hne, hcr])
    (by rw [hu, issue_of _ _ _ _ _ _ hne, hv, hcr])
    ((hk .queues (by decide)).trans (issue_queues_of (hl .queues (by decide)) _ _ _ _))
  refine ⟨t, e, hh, ?_, (stream_of hstr n).trans hgone⟩
  rw [cmdOf_of hparts, issue_of _ _ _ _ _ _ hne', hu, issue_cmd, hv, hd]
  rfl

/-! ### The statement -/

/-- Settles O47: binds by their status, then decode commands, then closes by what the stream has in hand. -/
theorem mediaCommandsBindDecodeAndClose : Obligations.MediaCommandsBindDecodeAndClose := by
  unfold Obligations.MediaCommandsBindDecodeAndClose
  intro s n r c h x
  refine ⟨fun ho => ⟨fun hst => ?bound, fun hst hf => ?fails, fun hst hf => ?binds⟩, fun ho hc => ⟨?unbound, ?decodes⟩,
    fun ho => ⟨close_unbound h ho, close_idle h ho, fun q d w hst hc hr hs hp hrc hw hd ha hq hne =>
      ⟨fun hb => ?waits, fun hb => ?aborts⟩⟩⟩
  case bound => exact mediaBind_hands_over h ho (mediaBind_bound r c hst) (only_refl _ s)
  case fails => exact mediaBind_hands_over h ho (mediaBind_failed hst hf) (only_refl _ s)
  case binds => exact bind_makes_stream h ho hst hf
  case unbound => exact decodeBlockList_unbound h ho hc
  case decodes => exact fun hst hp hs hrc hw => decodeBlockList_waits h ho hc hst hp hs hrc hw
  case waits =>
    rw [if_neg (by rw [hb]; decide)]
    exact closeGraceful_waits h ho hb hst hr hs hp hrc hw hd ha
  case aborts =>
    rw [if_pos hb]
    exact closeAbort_decoding h ho hb hst hc hr hq hne

end Sys2Proof.Proofs.MediaCommands

/-!
SUPPORT. Messages of the ingest links: how a stream without a round moves on, what each message does that follows and what a gap
does, where the blocks of a sample go, who answers an OPEN, and the statement of O48 from these.
-/

namespace Sys2Proof.Proofs.IngestMessages

open Sys2Proof Sys2Proof.Machine Sys2Proof.Safety Sys2Proof.Laws Sys2Proof.Laws.Shared
open Sys2Proof.Proofs.MediaCommands

/-! ### Streams without a round -/

/-- Nothing waits in a stream without samples and rounds that is not closing. -/
theorem pump_empty {s : State} {n : Nat} (hs : (s.stream n).samples = []) (hr : (s.stream n).rounds = none)
    (hst : (s.stream n).state ≠ 3) : s.pump n = s :=
  pump_quiet_stream hs (.inl hst) (.inl hr)

/-- Without a round, samples that have no position yet only take slots. -/
theorem pump_waiting {s : State} {n : Nat} (hr : (s.stream n).rounds = none) (hst : (s.stream n).state ≠ 3)
    (hs : ∀ a ∈ (s.stream n).samples, a.entry = none) : slotsAside ((s.pump n).stream n) = slotsAside (s.stream n) :=
  (pump_bare hr hst (fun a ha => .inr (hs a ha)) (fun a ha => .inr (hs a ha))).2

theorem owe_credit_held {s : State} {n : Nat} (k : Nat) (h : (s.stream n).fromPort = true) :
    ((s.owe n k).stream n).held = (s.stream n).held - k := by
  unfold State.owe
  split
  · rename_i hk
    have hk : k = 0 := hk.resolve_right (by simp [h])
    rw [hk]
    rfl
  · dsimp only
    split
    · rename_i ho
      rw [(credit_stream _ n (by omega)).1, stream_modStream]
    · rw [stream_modStream]

/-- The input blocks of the one sample in decode are given back (R254, log 105). -/
theorem takeBlocks_one {s : State} {n : Nat} {a : Sample} (hp : (s.stream n).fromPort = true)
    (hs : (s.stream n).samples = [a]) (ha : a.slot = true) (he : a.entry.isSome = true) (hb : a.blocks ≠ 0) :
    ((s.takeBlocks n).stream n).rounds = (s.stream n).rounds ∧ ((s.takeBlocks n).stream n).state = (s.stream n).state ∧
      ((s.takeBlocks n).stream n).samples = [{ a with blocks := 0 }] ∧
      ((s.takeBlocks n).stream n).held = (s.stream n).held - a.blocks := by
  have hx := stream_modStream s n (fun x =>
    { x with samples := x.samples.map (fun m => if m.slot && m.entry.isSome then { m with blocks := 0 } else m) })
  have e : s.takeBlocks n = (s.modStream n (fun x => { x with
      samples := x.samples.map (fun m => if m.slot && m.entry.isSome then { m with blocks := 0 } else m) })).owe n
        a.blocks := by
    unfold State.takeBlocks
    simp [hs, ha, he, hb]
  rw [e]
  generalize s.modStream n _ = u at *
  have howe := (owe_core u n a.blocks).1
  simp only [core6, Prod.mk.injEq] at howe
  obtain ⟨hrounds, hsamples, hstate, -⟩ := howe
  refine ⟨by rw [hrounds, hx], by rw [hstate, hx], ?_, by rw [owe_credit_held a.blocks (by rw [hx]; exact hp), hx]⟩
  rw [hsamples, hx, hs]
  simp [ha, he]

/-- Without a round, a move of the one sample in decode gives its blocks back. -/
theorem pumpOnce_decoding {s : State} {n : Nat} {a : Sample} (hr : (s.stream n).rounds = none) (hst : (s.stream n).state ≠ 3)
    (hp : (s.stream n).fromPort = true) (hs : (s.stream n).samples = [a]) (ha : a.slot = true) (he : a.entry.isSome = true)
    (h0 : a.reason = 0) (hb : a.blocks ≠ 0) : s.pumpOnce n = s.takeBlocks n := by
  obtain ⟨hrounds, hstate, hs', -⟩ := takeBlocks_one hp hs ha he hb
  have hr' : ((s.takeBlocks n).stream n).rounds = none := hrounds.trans hr
  have hst' : ((s.takeBlocks n).stream n).state ≠ 3 := by rwa [hstate]
  have hslots : s.takeSlots n = s := by
    unfold State.takeSlots
    simp [hs, ha, List.range_succ]
  have hassign : s.assign n = s := by
    unfold State.assign State.roundOpen
    simp [hr]
  have hmask : (s.takeBlocks n).maskCorrupt n = s.takeBlocks n := by
    unfold State.maskCorrupt
    simp [hs', h0]
  have hend : (s.takeBlocks n).endClosing n = s.takeBlocks n := by
    unfold State.endClosing
    simp [hst']
  unfold State.pumpOnce
  simp only [hslots, ite_self, hassign, hmask, hst, false_and, if_false, sendResults_zero _ n (.inr hr'), rd_none hr',
    Bool.false_eq_true, hend]

/-- Further moves of samples whose blocks are given back change no more than slots. -/
theorem moves_aside (l : List Nat) {s : State} {n : Nat} (hr : (s.stream n).rounds = none) (hst : (s.stream n).state ≠ 3)
    (h0 : ∀ a ∈ (s.stream n).samples, a.reason = 0 ∨ a.entry = none)
    (hb : ∀ a ∈ (s.stream n).samples, a.blocks = 0 ∨ a.entry = none) :
    aside n s (l.foldl (fun s _ => if (s.stream n).state = 0 then s else s.pumpOnce n) s) := by
  induction l generalizing s with
  | nil => exact aside_refl n s
  | cons i l ih =>
    rw [List.foldl_cons]
    split
    · exact ih hr hst h0 hb
    · have ha := once_bare hr hst h0 hb
      generalize s.pumpOnce n = u at *
      exact aside_trans ha (ih ((congrArg Stream.rounds ha.2).trans hr)
        (fun h => hst ((congrArg Stream.state ha.2).symm.trans h)) (quietSamples ha.2 h0) (blocksSamples ha.2 hb))

theorem blocks_slotsAside (x : Stream) : (slotsAside x).samples.map (·.blocks) = x.samples.map (·.blocks) := by
  unfold slotsAside
  rw [List.map_map]
  rfl

theorem pump_decoding {s : State} {n : Nat} {a : Sample} (hr : (s.stream n).rounds = none) (h0 : (s.stream n).state ≠ 0)
    (hst : (s.stream n).state ≠ 3) (hp : (s.stream n).fromPort = true) (hs : (s.stream n).samples = [a])
    (ha : a.slot = true) (he : a.entry.isSome = true) (hsound : a.reason = 0) (hb : a.blocks ≠ 0) :
    ((s.pump n).stream n).samples.map (·.blocks) = [0] ∧ ((s.pump n).stream n).held = (s.stream n).held - a.blocks := by
  obtain ⟨hrounds, hstate, hs', hheld⟩ := takeBlocks_one hp hs ha he hb
  have hfirst := pumpOnce_decoding hr hst hp hs ha he hsound hb
  unfold State.pump
  rw [hs, show List.range ([a].length + 2) = [0, 1, 2] from rfl, List.foldl_cons, if_neg h0, hfirst]
  have hrest := (moves_aside [1, 2] (hrounds.trans hr) (by rwa [hstate]) (by rw [hs']; simp [hsound]) (by rw [hs']; simp)).2
  generalize List.foldl _ _ _ = u at *
  refine ⟨?_, (congrArg Stream.held hrest).trans hheld⟩
  rw [← blocks_slotsAside, hrest, blocks_slotsAside, hs']
  rfl

/-! ### Messages that follow (R253) -/

/-- Stream x once the message with a sequence number is taken. -/
def followed (x : Stream) (seq : Nat) : Stream := { x with expectSeq := some ((seq + 1) % 2 ^ 32) }

/-- A message that follows takes its effect f on the stream of its connection. -/
theorem message_follows {s : State} {m : IngestMsg} {n : Nat} {i : Instr} {f : State → Nat → State} (h : frameTaken s m)
    (hn : s.streamAt m.port m.conn = some n)
    (hq : (s.stream n).expectSeq = none ∨ (s.stream n).expectSeq = some m.seq)
    (hi : exec i s = answer s (s.onMessage m f)) :
    ∃ w t, w.stream n = followed (s.stream n) m.seq ∧ exec i s = .next t ∧ t.stream n = (f w n).stream n := by
  obtain ⟨w, -, hw, hmsg, -⟩ := onMsg h hn
  rw [hi, hmsg, if_pos hq]
  obtain ⟨t, e, ht⟩ := ansE (s := s) (x := f w n) (P := fun t => t.stream n = (f w n).stream n)
    fun t kt _ => stream_of (kt .streams (by decide)) n
  exact ⟨w, t, hw, e, ht⟩

/-- A message that does not follow is an authentication failure: its effect is left out. -/
theorem message_gap {s : State} {m : IngestMsg} {n : Nat} {i : Instr} {f : State → Nat → State} (h : frameTaken s m)
    (hn : s.streamAt m.port m.conn = some n) (hr : (s.stream n).rounds = none) (hst : (s.stream n).state ≠ 3)
    (henc : (s.stream n).encrypted = false) (hs : (s.stream n).samples = []) (hq : (s.stream n).expectSeq.isSome = true)
    (hgap : (s.stream n).expectSeq ≠ some m.seq)
    (hroom : roomFor s { status := 0x5103, part := (s.stream n).part, unitKind := 7, unit := n })
    (hi : exec i s = answer s (s.onMessage m f)) :
    ∃ t, exec i s = .next t ∧ t.stream n = followed (s.stream n) m.seq ∧
      queued s t { status := 0x5103, part := (s.stream n).part, unitKind := 7, unit := n } ∧
      t.counter (streamIndex n) 5 = s.counter (streamIndex n) 5 + 1 := by
  obtain ⟨w, hk, hw, hmsg, -⟩ := onMsg h hn
  have hnot : ¬((s.stream n).expectSeq = none ∨ (s.stream n).expectSeq = some m.seq) :=
    not_or.mpr ⟨Option.isSome_iff_ne_none.mp hq, hgap⟩
  have herr : w.errq = s.errq := hk .errq (by decide)
  have hpart : (w.stream n).part = (s.stream n).part := by rw [hw]
  obtain ⟨hx, hmem, hctr⟩ := auth_gap (w := w) (n := n) (by rw [hw]; exact henc) (by rw [hw]; exact hs) (by rw [hw]; exact hr)
    (by rw [hw]; exact hst) (by rw [hpart]; exact room_of hroom herr (fun p _ => by rw [part_of (hk .parts (by decide))]))
  rw [herr, hpart] at hmem
  rw [hi, hmsg, if_neg hnot]
  refine ansE fun t kt he => ⟨?_, queued_settled hmem t he, ?_⟩
  · rw [stream_of (kt .streams (by decide)), hx, hw]
    rfl
  · rw [counter_of (kt .ctr (by decide)), hctr, counter_of (hk .ctr (by decide))]

theorem endMsg_follows {s : State} {m : IngestMsg} {n : Nat} (h : frameTaken s m) (hn : s.streamAt m.port m.conn = some n)
    (hr : (s.stream n).rounds = none) (hst : (s.stream n).state ≠ 3)
    (hq : (s.stream n).expectSeq = none ∨ (s.stream n).expectSeq = some m.seq) (hs : (s.stream n).samples = []) :
    ∃ t, exec (.endMsg m) s = .next t ∧ t.stream n = { followed (s.stream n) m.seq with
      state := if (s.stream n).state = 2 then 1 else (s.stream n).state, credits := 0 } := by
  obtain ⟨w, t, hw, e, ht⟩ := message_follows (i := .endMsg m) h hn hq rfl
  refine ⟨t, e, ht.trans ?_⟩
  have hws : (w.stream n).samples = [] := by rw [hw]; exact hs
  have hx := stream_modStream (w.spoil n 5) n (fun x => { x with
    state := if x.state = 2 then 1 else x.state, credits := 0
    samples := (x.samples.map (fun y => { y with whole := true })).filter (fun y => !y.dropped) })
  rw [spoil_stream w n 5 hws, hw] at hx
  dsimp only
  generalize (w.spoil n 5).modStream n _ = u at *
  have hus : (u.stream n).samples = [] := by rw [hx]; simp [followed, hs]
  have hur : (u.stream n).rounds = none := by rw [hx]; exact hr
  have hust : (u.stream n).state ≠ 3 := by
    rw [hx]
    show (if (s.stream n).state = 2 then 1 else (s.stream n).state) ≠ 3
    split <;> omega
  rw [pump_empty hus hur hust, roundRuns_none hur, if_neg (by decide), pump_empty hus hur hust, hx]
  simp [followed, hs]

theorem roi_follows {s : State} {m : IngestMsg} {n : Nat} (h : frameTaken s m) (hn : s.streamAt m.port m.conn = some n)
    (hq : (s.stream n).expectSeq = none ∨ (s.stream n).expectSeq = some m.seq) (henc : (s.stream n).encrypted = false) :
    ∃ t, exec (.roi m) s = .next t ∧ t.stream n = { followed (s.stream n) m.seq with
      rois := (m.arg, padTo 16 m.payload) :: (s.stream n).rois } := by
  obtain ⟨w, t, hw, e, ht⟩ := message_follows (i := .roi m) h hn hq rfl
  refine ⟨t, e, ht.trans ?_⟩
  have hwe : (w.stream n).encrypted = false := by rw [hw]; exact henc
  dsimp only
  rw [hwe, if_neg (by simp), stream_modStream, stream_modStream, hwe]
  unfold State.plain
  rw [hwe, hw]
  rfl

theorem resultCredit_message {s : State} {m : IngestMsg} {n : Nat} (hn : s.streamAt m.port m.conn = some n) :
    exec (.resultCredit m) s = answer s (s.onMessage m (fun s n =>
      (s.modStream n (fun x => { x with resultCredits := x.resultCredits + m.arg })).pump n)) := by
  show execResultCredit m s = _
  unfold execResultCredit
  rw [hn]

theorem resultCredit_follows {s : State} {m : IngestMsg} {n : Nat} (h : frameTaken s m)
    (hn : s.streamAt m.port m.conn = some n) (hr : (s.stream n).rounds = none) (hst : (s.stream n).state ≠ 3)
    (hq : (s.stream n).expectSeq = none ∨ (s.stream n).expectSeq = some m.seq) (hs : (s.stream n).samples = []) :
    ∃ t, exec (.resultCredit m) s = .next t ∧ t.stream n = { followed (s.stream n) m.seq with
      resultCredits := (s.stream n).resultCredits + m.arg } := by
  obtain ⟨w, t, hw, e, ht⟩ := message_follows h hn hq (resultCredit_message hn)
  refine ⟨t, e, ht.trans ?_⟩
  have hx := stream_modStream w n (fun x => { x with resultCredits := x.resultCredits + m.arg })
  rw [hw] at hx
  rw [pump_empty (by rw [hx]; exact hs) (by rw [hx]; exact hr) (by rw [hx]; exact hst), hx]
  rfl

theorem abortSample_follows {s : State} {m : IngestMsg} {n : Nat} {a : Sample} (h : frameTaken s m)
    (hn : s.streamAt m.port m.conn = some n) (hr : (s.stream n).rounds = none) (hst : (s.stream n).state ≠ 3)
    (hq : (s.stream n).expectSeq = none ∨ (s.stream n).expectSeq = some m.seq) (hs : (s.stream n).samples = [a])
    (hw : a.whole = false) (h0 : a.reason = 0) (hd : a.dropped = false) (he : a.entry = none) :
    ∃ t, exec (.abortSample m) s = .next t ∧ slotsAside (t.stream n) = slotsAside { followed (s.stream n) m.seq with
      samples := [{ a with reason := 5, whole := true }] } := by
  obtain ⟨w, t, hws, e, ht⟩ := message_follows (i := .abortSample m) h hn hq rfl
  refine ⟨t, e, (congrArg slotsAside ht).trans ?_⟩
  have hx : (((w.spoil n 5).modStream n (fun x =>
      { x with samples := (x.samples.map (fun y => { y with whole := true })).filter (fun y => !y.dropped) })).stream n) =
      { followed (s.stream n) m.seq with samples := [{ a with reason := 5, whole := true }] } := by
    unfold State.spoil
    rw [stream_modStream, stream_modStream, hws]
    simp [followed, hs, hw, h0, hd]
  rw [pump_waiting (by rw [hx]; exact hr) (by rw [hx]; exact hst) (by rw [hx]; simpa using he), hx]

/-! ### Blocks of samples (R253, R254, R266) -/

/-- s once the first flag of a block is read: the block's time is noted, and a first block begins its sample. -/
def blockBegun (s : State) (n : Nat) (m : IngestMsg) : State :=
  let u := s.modStream n (fun x => { x with lastData := s.time.ticks, stallLogged := false })
  if bit m.flags 0 then u.beginSample n m else u

theorem blockBegun_eq (s : State) (n : Nat) (m : IngestMsg) : (if bit m.flags 0 = true then
    (s.modStream n fun x => { x with lastData := s.time.ticks, stallLogged := false }).beginSample n m else
    s.modStream n fun x => { x with lastData := s.time.ticks, stallLogged := false }) = blockBegun s n m := rfl

theorem blockBegun_first {s : State} {n : Nat} {m : IngestMsg} (hf : bit m.flags 0 = true) (hs : (s.stream n).samples = []) :
    (blockBegun s n m).stream n = { s.stream n with
      lastData := s.time.ticks, stallLogged := false
      samples := [{ id := m.sampleId, pos := (s.stream n).pos, tArrival := s.now, tick := s.time.ticks }] } := by
  have hx := stream_modStream s n (fun x => { x with lastData := s.time.ticks, stallLogged := false })
  unfold blockBegun State.beginSample
  simp only [hf, if_true]
  rw [stream_modStream, spoil_stream _ n 5 (by rw [hx]; exact hs), hx, hs]
  rfl

theorem blockBegun_later {s : State} {n : Nat} {m : IngestMsg} (hf : bit m.flags 0 = false) :
    (blockBegun s n m).stream n = { s.stream n with lastData := s.time.ticks, stallLogged := false } := by
  unfold blockBegun
  simp only [hf, Bool.false_eq_true, if_false]
  rw [stream_modStream]

/-- A plain block that follows and has its credit goes to the sample in progress. -/
theorem onData_credited {s : State} {n : Nat} {m : IngestMsg} (hc : ((blockBegun s n m).stream n).credits ≠ 0)
    (henc : ((blockBegun s n m).stream n).encrypted = false) (hst : ((blockBegun s n m).stream n).state ≠ 3) :
    ∃ u : State, s.onData n m true = (u.addBytes n m.payload (bit m.flags 1)).pump n ∧
      u.stream n = { (blockBegun s n m).stream n with
        credits := ((blockBegun s n m).stream n).credits - 1, held := ((blockBegun s n m).stream n).held + 1 } := by
  unfold State.onData
  dsimp only
  rw [blockBegun_eq]
  generalize blockBegun s n m = v at *
  have hx : ((v.modStream n (fun x => { x with credits := x.credits - 1, held := x.held + 1 })).highWater n).stream n =
      { v.stream n with credits := (v.stream n).credits - 1, held := (v.stream n).held + 1 } :=
    stream_modStream v n (fun x => { x with credits := x.credits - 1, held := x.held + 1 })
  generalize (v.modStream n (fun x => { x with credits := x.credits - 1, held := x.held + 1 })).highWater n = d at *
  refine ⟨d.modStream n (fun x => { x with ctrIn := if x.encrypted then x.ctrIn + 1 else x.ctrIn }), ?_, ?_⟩
  · simp [State.plain, hc, henc, hst]
  · have henc' : (d.stream n).encrypted = false := by rw [hx]; exact henc
    rw [stream_modStream, henc', hx]
    rfl

/-- The sample in progress takes the bytes of a block (R254). -/
theorem addBytes_sound {s : State} {n : Nat} {a : Sample} (hs : (s.stream n).samples = [a]) (hw : a.whole = false)
    (h0 : a.reason = 0) (hd : a.dropped = false) (bytes : List Byte) (last : Bool) :
    (s.addBytes n bytes last).stream n = { s.stream n with
      pos := (s.stream n).pos + bytes.length
      samples := [{ a with
        bytes := a.bytes ++ bytes, blocks := a.blocks + 1, coded := a.coded + bytes.length, whole := last }] } := by
  have hkeep : (s.stream n).samples.any (fun y => !y.whole && y.reason == 0 && !y.dropped) = true := by simp [hs, hw, h0, hd]
  unfold State.addBytes
  simp only [hkeep, if_true]
  rw [show ∀ (u : State) (i j k : Nat), (u.count i j k).stream n = u.stream n from fun _ _ _ _ => rfl, stream_modStream, hs]
  simp [hw, hd]

/-- A stream once the block of message m is taken against a credit, before its sample takes the bytes. -/
def blockTaken (s : State) (x : Stream) (m : IngestMsg) : Stream :=
  { followed x m.seq with
    lastData := s.time.ticks, stallLogged := false, credits := x.credits - 1, held := x.held + 1
    pos := x.pos + m.payload.length }

/-- Sample a with the payload of message m. -/
def blockAdded (a : Sample) (m : IngestMsg) : Sample :=
  { a with
    bytes := a.bytes ++ m.payload, blocks := a.blocks + 1, coded := a.coded + m.payload.length, whole := bit m.flags 1 }

/-- The sample of a block: begun by a first block, else the one in progress. -/
def blockSample (s : State) (x : Stream) (m : IngestMsg) (a : Sample) : Prop :=
  (x.samples = [] ∧ bit m.flags 0 = true ∧
      a = { id := m.sampleId, pos := x.pos, tArrival := s.now, tick := s.time.ticks }) ∨
    (x.samples = [a] ∧ bit m.flags 0 = false ∧ a.whole = false ∧ a.reason = 0 ∧ a.dropped = false)

/-- A plain block that follows and has its credit is added to its sample, and the stream moves on. -/
theorem dataMsg_added {s : State} {m : IngestMsg} {n : Nat} {a : Sample} (h : frameTaken s m)
    (hn : s.streamAt m.port m.conn = some n) (hst : (s.stream n).state ≠ 3)
    (hq : (s.stream n).expectSeq = none ∨ (s.stream n).expectSeq = some m.seq) (henc : (s.stream n).encrypted = false)
    (hc : (s.stream n).credits ≠ 0) (ha : blockSample s (s.stream n) m a) :
    ∃ t u : State, exec (.dataMsg m) s = .next t ∧ t.stream n = (u.pump n).stream n ∧
      u.stream n = { blockTaken s (s.stream n) m with samples := [blockAdded a m] } := by
  obtain ⟨w, hk, hw, -, hdata⟩ := onMsg h hn
  have htime : w.time = s.time := hk .time (by decide)
  have hnow : w.now = s.now := by unfold State.now; rw [htime]
  have hb : (blockBegun w n m).stream n = { followed (s.stream n) m.seq with
      lastData := s.time.ticks, stallLogged := false, samples := [a] } := by
    rcases ha with ⟨hs, hf, rfl⟩ | ⟨hs, hf, -⟩
    · rw [blockBegun_first hf (by rw [hw]; exact hs), hw, htime, hnow]
      rfl
    · rw [blockBegun_later hf, hw, htime, ← hs]
      rfl
  have hsound : a.whole = false ∧ a.reason = 0 ∧ a.dropped = false := by
    rcases ha with ⟨-, -, rfl⟩ | ⟨-, -, h⟩
    · exact ⟨rfl, rfl, rfl⟩
    · exact h
  obtain ⟨hwhole, h0, hd⟩ := hsound
  obtain ⟨u, e, hu⟩ := onData_credited (s := w) (n := n) (m := m) (by rw [hb]; exact hc) (by rw [hb]; exact henc)
    (by rw [hb]; exact hst)
  rw [hb] at hu
  have hadd := addBytes_sound (s := u) (by rw [hu]) hwhole h0 hd m.payload (bit m.flags 1)
  rw [hu] at hadd
  rw [hdata, decide_eq_true hq, e]
  obtain ⟨t, et, ht⟩ := ansE (s := s) (x := (u.addBytes n m.payload (bit m.flags 1)).pump n)
    (P := fun t => t.stream n = ((u.addBytes n m.payload (bit m.flags 1)).pump n).stream n)
    fun t kt _ => stream_of (kt .streams (by decide)) n
  exact ⟨t, _, et, ht, hadd⟩

/-- A block of a sample that waits for its position is kept with it. -/
theorem dataMsg_kept {s : State} {m : IngestMsg} {n : Nat} {a : Sample} (h : frameTaken s m)
    (hn : s.streamAt m.port m.conn = some n) (hr : (s.stream n).rounds = none) (hst : (s.stream n).state ≠ 3)
    (hq : (s.stream n).expectSeq = none ∨ (s.stream n).expectSeq = some m.seq) (henc : (s.stream n).encrypted = false)
    (hc : (s.stream n).credits ≠ 0) (ha : blockSample s (s.stream n) m a) (he : a.entry = none) :
    ∃ t, exec (.dataMsg m) s = .next t ∧
      slotsAside (t.stream n) = slotsAside { blockTaken s (s.stream n) m with samples := [blockAdded a m] } := by
  obtain ⟨t, u, e, ht, hu⟩ := dataMsg_added h hn hst hq henc hc ha
  refine ⟨t, e, ?_⟩
  rw [ht, pump_waiting (by rw [hu]; exact hr) (by rw [hu]; exact hst) (by rw [hu]; simpa [blockAdded] using he), hu]

/-- A stream that a connection has is bound, with a port as its source. -/
theorem streamAt_bound {s : State} {port conn n : Nat} (h : s.streamAt port conn = some n) :
    (s.stream n).state ≠ 0 ∧ (s.stream n).fromPort = true := by
  have hp := List.find?_some h
  have hd := List.mem_of_find?_eq_some h
  unfold State.dieStreams at hd
  simp only [List.mem_filter, Bool.and_eq_true, bne_iff_ne, ne_eq] at hp hd
  exact ⟨hd.2.1, hp.1⟩

/-- A block of a sample in decode is consumed, and its credit is given back (log 105). -/
theorem dataMsg_decoding {s : State} {m : IngestMsg} {n : Nat} {a : Sample} (h : frameTaken s m)
    (hn : s.streamAt m.port m.conn = some n) (hr : (s.stream n).rounds = none) (hst : (s.stream n).state ≠ 3)
    (hq : (s.stream n).expectSeq = none ∨ (s.stream n).expectSeq = some m.seq) (henc : (s.stream n).encrypted = false)
    (hc : (s.stream n).credits ≠ 0) (hs : (s.stream n).samples = [a]) (hf : bit m.flags 0 = false) (hw : a.whole = false)
    (h0 : a.reason = 0) (hd : a.dropped = false) (he : a.entry.isSome = true) (hslot : a.slot = true) :
    ∃ t, exec (.dataMsg m) s = .next t ∧ (t.stream n).samples.map (·.blocks) = [0] ∧
      (t.stream n).held = (s.stream n).held + 1 - (a.blocks + 1) := by
  obtain ⟨t, u, e, ht, hu⟩ := dataMsg_added h hn hst hq henc hc (.inr ⟨hs, hf, hw, h0, hd⟩)
  obtain ⟨hopen, hport⟩ := streamAt_bound hn
  obtain ⟨hblocks, hheld⟩ := pump_decoding (s := u) (a := blockAdded a m) (by rw [hu]; exact hr) (by rw [hu]; exact hopen)
    (by rw [hu]; exact hst) (by rw [hu]; exact hport) (by rw [hu]) hslot he h0 (Nat.succ_ne_zero a.blocks)
  rw [← ht] at hblocks hheld
  exact ⟨t, e, hblocks, by rw [hheld, hu]; rfl⟩

/-- A block without a credit leaves a stream without samples as its time alone, and is counted (R254). -/
theorem onData_uncredited {s : State} {n : Nat} {m : IngestMsg} (hc : ((blockBegun s n m).stream n).credits = 0)
    (hs : ((blockBegun s n m).stream n).samples = []) (hr : ((blockBegun s n m).stream n).rounds = none)
    (hst : ((blockBegun s n m).stream n).state ≠ 3) (follows : Bool) :
    (s.onData n m follows).stream n = (blockBegun s n m).stream n ∧
      (s.onData n m follows).counter (streamIndex n) 4 = (blockBegun s n m).counter (streamIndex n) 4 + 1 := by
  unfold State.onData
  dsimp only
  rw [blockBegun_eq, if_pos hc]
  generalize blockBegun s n m = v at *
  have hx : ((v.count (streamIndex n) 4 1).spoil n 5).stream n = v.stream n := spoil_stream (v.count (streamIndex n) 4 1) n 5 hs
  have hctr : ((v.count (streamIndex n) 4 1).spoil n 5).counter (streamIndex n) 4 = v.counter (streamIndex n) 4 + 1 :=
    (counter_of (spoil_only _ n 5 .ctr (by decide)) _ _).trans (counter_count v _ _ _)
  generalize (v.count (streamIndex n) 4 1).spoil n 5 = u at *
  generalize hw : (if bit m.flags 1 = true then u.modStream n (fun x =>
    { x with samples := (x.samples.map (fun y => { y with whole := true })).filter (fun y => !y.dropped) }) else u) = w
  have hwx : w.stream n = v.stream n ∧ w.ctr = u.ctr := by
    rw [← hw]
    split
    · exact ⟨by rw [stream_modStream, hx, hs, List.map_nil, List.filter_nil, ← hs], modStream_ctr u n _⟩
    · exact ⟨hx, rfl⟩
  rw [pump_empty (by rw [hwx.1, hs]) (by rw [hwx.1, hr]) (by rwa [hwx.1]), counter_of hwx.2]
  exact ⟨hwx.1, hctr⟩

/-- A block without a credit is dropped and counted (R254). -/
theorem dataMsg_uncredited {s : State} {m : IngestMsg} {n : Nat} (h : frameTaken s m)
    (hn : s.streamAt m.port m.conn = some n) (hr : (s.stream n).rounds = none) (hst : (s.stream n).state ≠ 3)
    (hc : (s.stream n).credits = 0) (hs : (s.stream n).samples = []) (hf : bit m.flags 0 = false) :
    ∃ t, exec (.dataMsg m) s = .next t ∧ t.stream n = { followed (s.stream n) m.seq with
        lastData := s.time.ticks, stallLogged := false } ∧
      t.counter (streamIndex n) 4 = s.counter (streamIndex n) 4 + 1 := by
  obtain ⟨w, hk, hw, -, hdata⟩ := onMsg h hn
  have hb : (blockBegun w n m).stream n = { followed (s.stream n) m.seq with
      lastData := s.time.ticks, stallLogged := false } := by
    rw [blockBegun_later hf, hw, show w.time = s.time from hk .time (by decide)]
    rfl
  have hbc : (blockBegun w n m).counter (streamIndex n) 4 = s.counter (streamIndex n) 4 := by
    unfold blockBegun
    rw [if_neg (by rw [hf]; decide)]
    exact counter_of (hk .ctr (by decide)) _ _
  obtain ⟨hx, hctr⟩ := onData_uncredited (s := w) (n := n) (m := m) (by rw [hb]; exact hc) (by rw [hb]; exact hs)
    (by rw [hb]; exact hr) (by rw [hb]; exact hst)
    (decide ((s.stream n).expectSeq = none ∨ (s.stream n).expectSeq = some m.seq))
  rw [hdata]
  exact ansE fun t kt _ => ⟨by rw [stream_of (kt .streams (by decide)), hx, hb],
    by rw [counter_of (kt .ctr (by decide)), hctr, hbc]⟩

/-! ### OPEN (R253, R328) -/

theorem streamAt_of {s w : State} (h : w.streams = s.streams) (port conn : Nat) :
    w.streamAt port conn = s.streamAt port conn := by
  unfold State.streamAt State.dieStreams
  simp only [stream_of h]

theorem storeAt_of {s w : State} (h : onlyChanges [.iports] s w) (port conn : Nat) :
    w.storeAt port conn = s.storeAt port conn := by
  unfold State.storeAt State.pval
  simp only [valNat_of (h .vals (by decide)) (h .factory (by decide))]

/-- The sender of a connection is noted at its port (R253). -/
def senderNoted (s : State) (m : IngestMsg) : State :=
  { s with iports := Tab.mod s.iports {} m.port (fun i => { i with senders := Tab.set i.senders m.conn m.source }) }

theorem senderNoted_stream (s : State) (m : IngestMsg) (n : Nat) : (senderNoted s m).stream n = s.stream n := rfl

theorem senderNoted_part (s : State) (m : IngestMsg) (p : Nat) : (senderNoted s m).part p = s.part p := rfl

/-- Who answers an OPEN: the port where it is closed to OPEN, else the stream of its connection, else the store of its
connection, else no one. -/
theorem openMsg_answered {s : State} {m : IngestMsg} (h : frameTaken s m) : ∃ w, onlyChanges [.iports] s w ∧
    (bit (s.valNat 0xC000 1) m.port = false →
      exec (.openMsg m) s = answer s (w.out (.ingest m.port m.conn 0x82 [0, 0x4109] []))) ∧
    (bit (s.valNat 0xC000 1) m.port = true →
      (∀ n, s.streamAt m.port m.conn = some n → exec (.openMsg m) s = answer s (w.openStream n m)) ∧
      (s.streamAt m.port m.conn = none →
        (∀ p, s.storeAt m.port m.conn = some p → exec (.openMsg m) s = answer s
          ((senderNoted (w.modRcv p (fun r => { r with store := { nonce := m.arg % 2 ^ 32, seq := 1 } })) m).out
            (.ingest m.port m.conn 0x81 [0, 0] []))) ∧
        (s.storeAt m.port m.conn = none → exec (.openMsg m) s = answer s (({ w with free := w.free + 2 } : State).out
          (.ingest m.port m.conn 0x82 [0, ofLe [Config.freeByte w.free, Config.freeByte (w.free + 1)]] []))))) := by
  obtain ⟨w, e, hk⟩ := frame_taken h
  have hexec : exec (.openMsg m) s = execOpenMsg m s := rfl
  unfold execOpenMsg at hexec
  simp only [e, Bool.not_true, Bool.false_eq_true, if_false, valNat_of (hk .vals (by decide)) (hk .factory (by decide)),
    streamAt_of (hk .streams (by decide)), storeAt_of hk] at hexec
  refine ⟨w, hk, fun hb => ?_, fun hb => ⟨fun n hn => ?_, fun hn => ⟨fun p hp => ?_, fun hp => ?_⟩⟩⟩
  · rw [hexec, if_pos (by rw [hb]; rfl)]
  · rw [hexec, if_neg (by rw [hb]; decide), hn]
  · rw [hexec, if_neg (by rw [hb]; decide), hn]
    simp only [hp]
    rfl
  · rw [hexec, if_neg (by rw [hb]; decide), hn]
    simp only [hp]

/-- Stream x as an OPEN leaves it, with the credit limit granted (R253, R254). -/
def opened (s : State) (x : Stream) (m : IngestMsg) : Stream :=
  { followed x m.seq with
    state := 2, nonce := m.arg % 2 ^ 32, ctrIn := 0, ctrOut := 0, seqOut := 1, credits := field x.desc 0x0A 2, owed := 0
    resultCredits := 0, pos := 0, frames := 0, rois := [], lastData := s.time.ticks }

/-- s with stream n as an OPEN leaves it before its ACCEPT goes out. -/
def streamReset (s : State) (n : Nat) (m : IngestMsg) : State :=
  senderNoted (((s.spoil n 5).modStream n (fun x =>
    { x with samples := x.samples.map (fun y => { y with whole := true }) })).modStream n (fun x => { x with
      state := if x.state = 3 then 3 else 2, expectSeq := some ((m.seq + 1) % 2 ^ 32), nonce := m.arg % 2 ^ 32, ctrIn := 0
      ctrOut := 0, seqOut := 0, credits := field x.desc 0x0A 2, owed := 0, resultCredits := 0, pos := 0, frames := 0
      rois := [], lastData := s.time.ticks })) m

theorem openStream_eq (s : State) (n : Nat) (m : IngestMsg) : s.openStream n m =
    ((streamReset s n m).tellSender n 0x81 (field ((streamReset s n m).stream n).desc 0x0A 2) []).pump n := rfl

theorem streamReset_stream {s : State} {n : Nat} (m : IngestMsg) (hs : (s.stream n).samples = [])
    (hst : (s.stream n).state ≠ 3) : (streamReset s n m).stream n = { opened s (s.stream n) m with seqOut := 0 } := by
  have hx : ((s.spoil n 5).modStream n (fun x =>
      { x with samples := x.samples.map (fun y => { y with whole := true }) })).stream n = s.stream n := by
    rw [stream_modStream, spoil_stream s n 5 hs, hs, List.map_nil, ← hs]
  unfold streamReset
  rw [senderNoted_stream, stream_modStream, hx, if_neg hst]
  rfl

theorem openStream_accepts {s : State} {n : Nat} {m : IngestMsg} (hs : (s.stream n).samples = [])
    (hr : (s.stream n).rounds = none) (hst : (s.stream n).state ≠ 3) :
    (s.openStream n m).stream n = opened s (s.stream n) m ∧ (s.openStream n m).outs.head? =
      some (.ingest (s.stream n).port (s.stream n).conn 0x81 [0, field (s.stream n).desc 0x0A 2] []) := by
  have hv := streamReset_stream m hs hst
  rw [openStream_eq]
  generalize streamReset s n m = v at *
  have ht := tell_stream v n 0x81 (field (v.stream n).desc 0x0A 2) []
  have hout := tell_out v n 0x81 (field (v.stream n).desc 0x0A 2) []
  generalize v.tellSender n 0x81 (field (v.stream n).desc 0x0A 2) [] = u at *
  rw [hv] at ht hout
  rw [pump_empty (by rw [ht]; exact hs) (by rw [ht]; exact hr) (by rw [ht]; exact (by decide : (2 : Nat) ≠ 3)), ht]
  exact ⟨rfl, hout⟩

/-- A partition's store takes an OPEN of its connection, and credits for its messages, whose sequence is not checked (R328,
log 110). -/
theorem store_takes_messages {s : State} {m : IngestMsg} {p : Nat} (h : frameTaken s m)
    (hb : bit (s.valNat 0xC000 1) m.port = true) (hn : s.streamAt m.port m.conn = none)
    (hp : s.storeAt m.port m.conn = some p) :
    (∃ t, exec (.resultCredit m) s = .next t ∧ (t.part p).rcv.store =
        { (s.part p).rcv.store with credits := (s.part p).rcv.store.credits + m.arg }) ∧
      ∃ t, exec (.openMsg m) s = .next t ∧ (t.part p).rcv.store = { nonce := m.arg % 2 ^ 32, seq := 1 } ∧
        t.outs.head? = some (.ingest m.port m.conn 0x81 [0, 0] []) := by
  constructor
  · obtain ⟨w, e, hk⟩ := frame_taken h
    have hexec : exec (.resultCredit m) s = answer s (w.modRcv p
        (fun r => { r with store := { r.store with credits := r.store.credits + m.arg } })) := by
      show execResultCredit m s = _
      unfold execResultCredit
      rw [hn, hp]
      dsimp only
      rw [e]
      rfl
    rw [hexec]
    refine ansE fun t kt _ => ?_
    rw [part_of (kt .parts (by decide)), part_modRcv, part_of (hk .parts (by decide))]
  · obtain ⟨w, -, -, hopen⟩ := openMsg_answered h
    rw [((hopen hb).2 hn).1 p hp]
    refine ansE fun t kt _ => ⟨?_, by rw [show t.outs = _ from kt .outs (by decide), out_head]⟩
    rw [part_of (kt .parts (by decide)), part_out, senderNoted_part, part_modRcv]

/-! ### The statement -/

/-- Settles O48: OPEN by who answers it, then the messages of a stream that is not in a round. -/
theorem ingestMessagesAreTaken : Obligations.IngestMessagesAreTaken := by
  unfold Obligations.IngestMessagesAreTaken
  intro s m h
  obtain ⟨w, hk, hclosed, hopen⟩ := openMsg_answered h
  have hx : ∀ n, w.stream n = s.stream n := stream_of (hk .streams (by decide))
  refine ⟨fun hb => ?closed, fun hb hn => ⟨fun p hp => store_takes_messages h hb hn hp, fun hp => ?unbound⟩,
    fun n hn hr hst => ⟨fun hb hs => ?opens, fun henc hs hq hgap hroom i hi => ?gap, fun hq => ⟨fun henc hc hs hf => ?first,
      fun a henc hc hs hf hw h0 hd he => ?later, fun a henc hc hs hf hw h0 hd he hslot => ?decoding,
      fun hc hs hf => dataMsg_uncredited h hn hr hst hc hs hf, fun hs => endMsg_follows h hn hr hst hq hs,
      fun henc => roi_follows h hn hq henc, fun hs => resultCredit_follows h hn hr hst hq hs,
      fun a hs hw h0 hd he => abortSample_follows h hn hr hst hq hs hw h0 hd he⟩⟩⟩
  case closed =>
    rw [hclosed hb]
    exact ansE fun t kt _ => by rw [show t.outs = _ from kt .outs (by decide), out_head]
  case unbound =>
    rw [((hopen hb).2 hn).2 hp]
    obtain ⟨t, e, ht⟩ := ansE (s := s) (x := ({ w with free := w.free + 2 } : State).out
      (.ingest m.port m.conn 0x82 [0, ofLe [Config.freeByte w.free, Config.freeByte (w.free + 1)]] []))
      fun t kt _ => (kt .outs (by decide) : t.outs = _)
    exact ⟨t, _, e, by rw [ht, out_head]⟩
  case opens =>
    obtain ⟨hstream, hout⟩ := openStream_accepts (s := w) (n := n) (m := m) (by rw [hx]; exact hs) (by rw [hx]; exact hr)
      (by rw [hx]; exact hst)
    rw [(hopen hb).1 n hn]
    rw [hx] at hstream hout
    refine ansE fun t kt _ => ⟨?_, by rw [show t.outs = _ from kt .outs (by decide), hout]⟩
    rw [stream_of (kt .streams (by decide)), hstream]
    unfold opened
    rw [show w.time = s.time from hk .time (by decide)]
    rfl
  case gap =>
    simp only [List.mem_cons, List.not_mem_nil, or_false] at hi
    rcases hi with rfl | rfl | rfl | rfl
    · exact message_gap h hn hr hst henc hs hq hgap hroom rfl
    · exact message_gap h hn hr hst henc hs hq hgap hroom rfl
    · exact message_gap h hn hr hst henc hs hq hgap hroom (resultCredit_message hn)
    · exact message_gap h hn hr hst henc hs hq hgap hroom rfl
  case first =>
    obtain ⟨t, e, ht⟩ := dataMsg_kept h hn hr hst hq henc hc (.inl ⟨hs, hf, rfl⟩) rfl
    exact ⟨t, e, ht.trans (by simp [slotsAside, blockTaken, blockAdded, followed])⟩
  case later => exact dataMsg_kept h hn hr hst hq henc hc (.inr ⟨hs, hf, hw, h0, hd⟩) he
  case decoding => exact dataMsg_decoding h hn hr hst hq henc hc hs hf hw h0 hd he hslot

end Sys2Proof.Proofs.IngestMessages

/-! SUPPORT. A module declared lost by an operator and by its links (R320, R444), under a full error queue (R335, R340). -/

namespace Sys2Proof.Proofs.DeclaredLosses

open Sys2Proof Sys2Proof.Machine Sys2Proof.Safety Sys2Proof.Laws Sys2Proof.Laws.Shared Sys2Proof.Proofs.FrontBus

/-! ### The member of a group at work under a full error queue -/

/-- The loss of module 1 leaves any state with crowdedMember's parts and error queue in Safe-stop. -/
theorem crowded_stopped {s : State} (hp : s.parts = crowdedMember.parts) (hq : s.errq = crowdedMember.errq) :
    stopped (s.declareLost 1 true) 0 := by
  have hpart := fun p => part_of hp (p := p)
  have honly : onlyMember s 0 := by
    obtain ⟨h, hmember, hothers⟩ := crowdedMember_only
    exact ⟨h, (grouped_of hp 0).trans hmember, fun q hlt hne => (grouped_of hp q).trans (hothers q hlt hne)⟩
  refine declareLost_full_stopped (hq ▸ fillers_window 28 224 1) (hq ▸ crowdedMember_full) ?_ ?_ honly ?_
  · unfold busyParts
    simp only [hpart]
    decide
  · rw [hpart]
    decide
  · rw [hpart]
    rfl

theorem answer_stopped {x : State} {p : Nat} (s : State) (h : stopped x p) : ∃ u, answer s x = .next u ∧ stopped u p :=
  ⟨_, rfl, stopped_of rfl h⟩

/-- A state in Safe-stop has no rollback for a loss of module 1 to begin. -/
theorem not_lossRollsBack {s u : State} {i : Instr} (hp : s.parts = crowdedMember.parts)
    (htarget : s.target 0 (fun _ => true) = some (landedSachet, 2)) (hbound : s.boundStreams 0 = [])
    (e : exec i s = .next u) (hs : stopped u 0) : ¬ lossRollsBack s 1 0 i := by
  intro h
  have hpart := part_of hp (p := 0)
  obtain ⟨t, et, -, -, hroll⟩ := h landedSachet 2 (by rw [hpart]; rfl) (by rw [hpart]; rfl) hbound (by rw [hpart]; rfl)
    (by rw [hpart]; rfl) htarget (by decide)
  obtain rfl := Host.Outcome.next.inj (e.symm.trans et)
  exact nomatch hs.2.symm.trans hroll

/-! ### An operator declares a module lost -/

/-- A request over PCIe (R370). -/
def pcieRequest : Req := { route := .pcie }

theorem crowdedMember_accepts : acceptsWrite crowdedMember pcieRequest 0xB000 3 2 (le 1 1) := by
  unfold acceptsWrite admits
  decide +kernel

theorem crowdedMember_declares : ∃ u, exec (.declareModuleLost pcieRequest 1) crowdedMember = .next u ∧ stopped u 0 := by
  obtain ⟨cs, u, e, -, hframe⟩ := served (f := fun s => (s.declareLost 1 true, some 0)) crowdedMember_accepts (fun _ => rfl)
  exact ⟨u, e, stopped_of (hframe .parts (by decide)) (crowded_stopped rfl rfl)⟩

/-- Refutes O22: the module declared lost enters a full error queue, which stops the partitions at work (R340), so the member
of a group is in Safe-stop and rolls back to nothing; the clause on the rollback asks for no room in the queue. -/
theorem not_declaredModuleIsLost : ¬ Obligations.DeclaredModuleIsLost := by
  unfold Obligations.DeclaredModuleIsLost
  intro h
  obtain ⟨hp, hmember, hothers⟩ := crowdedMember_only
  obtain ⟨hgrouped, -⟩ := h crowdedMember pcieRequest 1 0 hp crowdedMember_accepts hothers
  obtain ⟨-, hback⟩ := hgrouped hmember rfl
  obtain ⟨u, e, hu⟩ := crowdedMember_declares
  exact not_lossRollsBack rfl (by decide +kernel) rfl e hu hback

/-! ### A peer whose links stay down -/

/-- A peer with a link here, and every link to it down for the hold, is declared lost (R320). -/
theorem peerLossHold_declares {s : State} {peer k : Nat} (hpeer : peer ≤ 15) (hk : k < 12) (hlink : (s.kport k).peer = peer)
    (hdown : ∀ j < 12, (s.kport j).peer = peer → (s.kport j).state ≠ 2 ∧
      (s.kport j).downSince + s.valNat 0xB000 2 * Config.ticksPerMs ≤ s.time.ticks) :
    execPeerLossHold peer s = answer s (s.declareLost peer true) := by
  have hlinks : k ∈ (List.range 12).filter (fun j => (s.kport j).peer == peer) := by simp [hk, hlink]
  refine congrArg (answer s) (if_pos ⟨hpeer, ?_, ?_⟩)
  · cases e : (List.range 12).filter (fun j => (s.kport j).peer == peer) with
    | nil => exact absurd (e ▸ hlinks) List.not_mem_nil
    | cons => rfl
  · simp only [List.all_eq_true, List.mem_filter, List.mem_range, beq_iff_eq, Bool.and_eq_true, bne_iff_ne, decide_eq_true_eq]
    rintro j ⟨hj, hjp⟩
    exact hdown j hj hjp

/-- crowdedMember long after its one link, to module 1, went down. -/
def crowdedAlone : State :=
  { crowdedMember with time := { ticks := 10 ^ 12 }, kports := [(0, { state := 0, peer := 1 })] }

theorem crowdedAlone_down : ∀ j < 12, (crowdedAlone.kport j).peer = 1 → (crowdedAlone.kport j).state ≠ 2 ∧
    (crowdedAlone.kport j).downSince + crowdedAlone.valNat 0xB000 2 * Config.ticksPerMs ≤ crowdedAlone.time.ticks := by
  decide +kernel

theorem crowdedAlone_declares : ∃ u, exec (.peerLossHold 1) crowdedAlone = .next u ∧ stopped u 0 := by
  have e := peerLossHold_declares (s := crowdedAlone) (peer := 1) (k := 0) (by decide) (by decide) rfl crowdedAlone_down
  obtain ⟨u, eu, hu⟩ := answer_stopped crowdedAlone (crowded_stopped (s := crowdedAlone) rfl rfl)
  exact ⟨u, e.trans eu, hu⟩

/-- Refutes O45: the loss of a peer whose links stay down enters a full error queue, which stops the partitions at work (R340),
so the member of a group rolls back to nothing; the clause on the rollback asks for no room in the queue. -/
theorem not_kettlePortsKeepTheirLink : ¬ Obligations.KettlePortsKeepTheirLink := by
  unfold Obligations.KettlePortsKeepTheirLink
  intro h
  obtain ⟨hp, hmember, hothers⟩ := crowdedMember_only
  obtain ⟨-, -, -, -, -, hlost⟩ := h crowdedAlone 0 (by decide)
  obtain ⟨hgrouped, -⟩ := hlost 1 0 (by decide) rfl hp hothers crowdedAlone_down
  obtain ⟨-, hback⟩ := hgrouped hmember rfl
  obtain ⟨u, e, hu⟩ := crowdedAlone_declares
  exact not_lossRollsBack (s := crowdedAlone) rfl (by decide +kernel) rfl e hu hback

end Sys2Proof.Proofs.DeclaredLosses

/-! SUPPORT. Handlers of error entries (R336, R338, R340), word parity on the paths (R343) and the inputs behind the Strainer
(R323, R459). -/

namespace Sys2Proof.Proofs.ErrorHandling

open Sys2Proof Sys2Proof.Machine Sys2Proof.Safety Sys2Proof.Laws Sys2Proof.Laws.Shared

/-! ### A handler takes its next entry (R336, R338) -/

/-- The entry that a handler takes next is a pending one of its own. -/
theorem nextError_mem {s : State} {h : Nat} {e : ErrEntry} (hn : s.nextError h = some e) :
    e ∈ s.errq.entries ∧ e.state = 0 ∧ e.handler = h := by
  have hmem : ∀ e, s.nextError h = some e → e ∈ s.errq.entries.filter (fun e => e.state == 0 && e.handler == h) := by
    unfold State.nextError
    refine List.foldlRecOn (motive := fun o => ∀ e, o = some e → e ∈ _) _ _ (by simp) (fun best hbest a ha e he => ?_)
    cases best with
    | none =>
      obtain rfl := Option.some.inj he
      exact ha
    | some b =>
      dsimp only at he
      split at he
      · obtain rfl := Option.some.inj he
        exact ha
      · exact hbest e he
  obtain ⟨hin, hp⟩ := List.mem_filter.mp (hmem e hn)
  obtain ⟨h0, hh⟩ := Bool.and_eq_true_iff.mp hp
  exact ⟨hin, eq_of_beq h0, eq_of_beq hh⟩

/-- What becomes of an entry f when a handler takes e, which preempts the entry with sequence first (0: none) (R338). -/
def whenTaken (e : ErrEntry) (first : Nat) (f : ErrEntry) : ErrEntry :=
  if f.seq = e.seq then { f with state := 1, cause := if f.cause = 0 then first else f.cause }
  else if e.preempts f then { f with state := 2 } else f

/-- A handler takes its next entry, if each entry in its own hands is one that this entry preempts. -/
theorem errorEntryHandle_takes {s : State} {h : Nat} {e : ErrEntry} (hn : s.nextError h = some e) (hu : s.handlerUp h = true)
    (hst : e.status ≠ 0x6502) (hfree : ∀ f ∈ s.errq.entries, f.state = 1 → e.preempts f = true) :
    execErrorEntryHandle h s =
      answer s (s.modErr (fun es => es.map (whenTaken e (((s.errq.entries.find? e.preempts).map (fun f => f.seq)).getD 0)))) := by
  have hbusy : ¬((!s.handlerUp h) = true ∨ s.errq.entries.any
      (fun f => f.state == 1 && 2 ≤ f.sev && f.handler == h && !e.preempts f) = true) := by
    rintro (c | c)
    · rw [hu] at c
      cases c
    · obtain ⟨f, hf, c⟩ := List.any_eq_true.mp c
      simp only [Bool.and_eq_true, beq_iff_eq, Bool.not_eq_true'] at c
      exact absurd (hfree f hf c.1.1.1) (by simp [c.2])
  unfold execErrorEntryHandle
  rw [hn]
  dsimp only
  rw [if_neg hbusy, if_neg hst]
  rfl

section
variable {x : State} {e : ErrEntry}

theorem mem_settled (h : e ∈ x.errq.entries) : x.settleErr e ∈ x.settled.entries := List.mem_map_of_mem h

/-- An entry in a handler's hands is handled once its action has ended (R336). -/
theorem settleErr_taken (h : e.state = 1) :
    (x.settleErr e).state = if 2 ≤ e.sev ∧ x.actionEnded e = true then 3 else 1 := by
  unfold State.settleErr
  by_cases c : 2 ≤ e.sev ∧ x.actionEnded e = true
  · rw [if_pos ⟨h, by simp [c.1, c.2]⟩, if_pos c]
  · rw [if_neg (fun hc => c (by simpa using hc.2)), if_neg c, if_neg (by simp [h])]
    exact h

/-- A preempted entry stays preempted while the entry that names it as its cause is handled (R338). -/
theorem settleErr_preempted {g : ErrEntry} (h : e.state = 2) (hg : g ∈ x.errq.entries) (hcause : g.cause = e.seq)
    (hseq : g.seq ≠ e.seq) (hsev : e.sev < g.sev) (hstate : g.state < 3) : x.settleErr e = e := by
  have hany : x.errq.entries.any (fun g => g.cause == e.seq && g.seq != e.seq && g.sev > e.sev && g.state < 3) = true :=
    List.any_eq_true.mpr ⟨g, hg, by simp [hcause, hseq, hsev, hstate]⟩
  unfold State.settleErr
  rw [if_neg (by simp [h]), if_neg (by simp [hany])]

/-- An entry that is handled or held is not settled again. -/
theorem settleErr_closed (h : 3 ≤ e.state) : x.settleErr e = e := by
  unfold State.settleErr
  rw [if_neg (by omega), if_neg (by simp; omega)]
end

section
variable {s : State} {h : Nat} {e : ErrEntry}

/-- A handler without a pending entry does nothing. -/
theorem errorEntryHandle_none (hn : s.nextError h = none) :
    ∃ t, exec (.errorEntryHandle h) s = .next t ∧ onlyChanges [.errq, .journal] s t := by
  have hx : exec (.errorEntryHandle h) s = answer s s := by
    show execErrorEntryHandle h s = _
    unfold execErrorEntryHandle
    rw [hn]
  rw [hx]
  exact answer_only (only_refl [] s)

/-- What a handler leaves that takes its next entry, whose sequence number no other entry has. -/
theorem errorEntryHandle_entries (hn : s.nextError h = some e) (hu : s.handlerUp h = true) (hst : e.status ≠ 0x6502)
    (hfree : ∀ f ∈ s.errq.entries, f.state = 1 → e.preempts f = true) {first : Nat}
    (hfirst : ((s.errq.entries.find? e.preempts).map (fun f => f.seq)).getD 0 = first) :
    let u := s.modErr (fun es => es.map (whenTaken e first))
    ∃ t, exec (.errorEntryHandle h) s = .next t ∧ onlyChanges [.errq, .journal] s t ∧ t.errq = u.settled ∧
      ∀ f ∈ s.errq.entries, whenTaken e first f ∈ u.errq.entries ∧ u.settleErr (whenTaken e first f) ∈ t.errq.entries := by
  intro u
  have hmem : ∀ f ∈ s.errq.entries, whenTaken e first f ∈ u.errq.entries := fun f hf => List.mem_map_of_mem hf
  have hx : exec (.errorEntryHandle h) s = answer s u := by
    have hx := errorEntryHandle_takes hn hu hst hfree
    rw [hfirst] at hx
    exact hx
  rw [hx]
  refine ansK (modErr_only s _) (by decide) (fun t _ hq => ⟨hq, fun f hf => ⟨hmem f hf, ?_⟩⟩)
  rw [hq]
  exact mem_settled (hmem f hf)

theorem whenTaken_self (hc : e.cause = 0) (first : Nat) : whenTaken e first e = { e with state := 1, cause := first } := by
  unfold whenTaken
  rw [if_pos rfl, if_pos hc]

/-- With nothing in any handler's hands, the next entry is taken, and handled at once where its action has ended. -/
theorem errorEntryHandle_idle (hn : s.nextError h = some e) (hu : s.handlerUp h = true) (hst : e.status ≠ 0x6502)
    (hc : e.cause = 0) (hidle : ∀ f ∈ s.errq.entries, f.state ≠ 1) :
    ∃ t, exec (.errorEntryHandle h) s = .next t ∧ onlyChanges [.errq, .journal] s t ∧
      ∃ x ∈ t.errq.entries, x.seq = e.seq ∧ x.status = e.status ∧
        x.state = if 2 ≤ e.sev ∧ s.actionEnded e = true then 3 else 1 := by
  obtain ⟨hin, -, -⟩ := nextError_mem hn
  have hnone : s.errq.entries.find? e.preempts = none :=
    List.find?_eq_none.mpr (fun f hf => by simp [ErrEntry.preempts, hidle f hf])
  obtain ⟨t, ht, ho, -, hall⟩ := errorEntryHandle_entries (first := 0) hn hu hst (fun f hf hf1 => absurd hf1 (hidle f hf))
    (by rw [hnone]; rfl)
  obtain ⟨-, hx⟩ := hall e hin
  rw [whenTaken_self hc] at hx
  obtain ⟨hseq, hstatus, -⟩ := settle_same (s.modErr (fun es => es.map (whenTaken e 0))) { e with state := 1, cause := 0 }
  exact ⟨t, ht, ho, _, hx, hseq, hstatus, settleErr_taken rfl⟩

/-- The next entry preempts the one entry that is in a handler's hands, and names it as its cause. -/
theorem errorEntryHandle_preempts (hn : s.nextError h = some e) (hu : s.handlerUp h = true) (hst : e.status ≠ 0x6502)
    (hc : e.cause = 0) {f : ErrEntry} (hf : f ∈ s.errq.entries) (hseq : f.seq ≠ e.seq) (hp : e.preempts f = true)
    (honly : ∀ g ∈ s.errq.entries, g.state = 1 → g = f) :
    ∃ t, exec (.errorEntryHandle h) s = .next t ∧ onlyChanges [.errq, .journal] s t ∧
      (∃ x ∈ t.errq.entries, x.seq = f.seq ∧ x.state = 2) ∧ ∃ x ∈ t.errq.entries, x.seq = e.seq ∧ x.cause = f.seq := by
  obtain ⟨hin, -, -⟩ := nextError_mem hn
  have hlt : f.sev < e.sev := by
    simp only [ErrEntry.preempts, Bool.and_eq_true, decide_eq_true_eq] at hp
    exact hp.1.2
  have hfind : s.errq.entries.find? e.preempts = some f := by
    obtain ⟨g, hg⟩ := Option.isSome_iff_exists.mp (List.find?_isSome.mpr ⟨f, hf, hp⟩)
    have hg1 : g.state = 1 := by
      have := List.find?_some hg
      simp only [ErrEntry.preempts, Bool.and_eq_true, beq_iff_eq] at this
      exact this.1.1.1
    rw [hg, honly g (List.mem_of_find?_eq_some hg) hg1]
  obtain ⟨t, ht, ho, -, hall⟩ := errorEntryHandle_entries (first := f.seq) hn hu hst
    (fun g hg hg1 => honly g hg hg1 ▸ hp) (by rw [hfind]; rfl)
  obtain ⟨hinE, hsetE⟩ := hall e hin
  obtain ⟨-, hsetF⟩ := hall f hf
  rw [whenTaken_self hc] at hinE hsetE
  have hpre : whenTaken e f.seq f = { f with state := 2 } := by
    unfold whenTaken
    rw [if_neg hseq, if_pos hp]
  rw [hpre, settleErr_preempted (e := { f with state := 2 }) (g := { e with state := 1, cause := f.seq }) rfl hinE rfl (Ne.symm hseq) hlt
    (show 1 < 3 by decide)] at hsetF
  exact ⟨t, ht, ho, ⟨_, hsetF, rfl, rfl⟩, _, hsetE, (settle_same _ _).1, settle_cause _ _⟩
end

/-! ### A handled entry goes to the log (R336, R340, R341, R386) -/

/-- The entry as it goes to the log. -/
def asLogged (s : State) (e : ErrEntry) : ErrEntry :=
  { e with state := 3, tHandled := if e.state = 3 then e.tHandled else s.now }

/-- An entry is handled, or its handling is its copy to the log. -/
def loggable (n : Nat) (e : ErrEntry) : Bool := e.seq == n && (e.state == 3 || (e.state == 1 && e.sev ≤ 1))

/-- An entry stays in the queue behind its log record (R340, R341). -/
def keptLogged (s : State) (e : ErrEntry) : Bool :=
  e.part < 4 && ((s.part e.part).state == .safeStop || e.status == 0x7101)

/-- The entry queue behind the log record of e (R336, R341). -/
def afterLog (keep : Bool) (e : ErrEntry) (es : List ErrEntry) : List ErrEntry :=
  if keep then es.map (fun f => if f.seq = e.seq then { e with state := 4 } else f) else es.filter (fun f => f.seq != e.seq)

/-- The newest general record after an entry was logged. -/
theorem logEntry_last (s : State) (e : ErrEntry) : ∃ x, (s.logEntry e).log.general.getLast? = some x ∧ x.kind = 1 ∧
    x.part = e.part ∧ x.seq = s.log.nextSeq ∧ x.body = e.bytes :=
  ⟨_, List.getLast?_concat .., rfl, rfl, rfl, rfl⟩

theorem logEntry_only (s : State) (e : ErrEntry) : onlyChanges [.log] s (s.logEntry e) :=
  (path_logRecord (ks := [.log]) _ _ (by decide) (path_refl _ s)).frame

theorem errorEntryLogged_logs {s : State} {n : Nat} {e : ErrEntry} (hf : s.errq.entries.find? (loggable n) = some e)
    (hb : s.boot.secFailed = false) : ∃ t, exec (.errorEntryLogged n) s = .next t ∧ onlyChanges [.log, .errq, .journal] s t ∧
      (∃ x, t.log.general.getLast? = some x ∧ x.kind = 1 ∧ x.part = e.part ∧ x.seq = s.log.nextSeq ∧
        x.body = (asLogged s e).bytes) ∧
      (e.part < 4 → (s.part e.part).state = .safeStop → ∃ x ∈ t.errq.entries, x.seq = n ∧ x.state = 4) ∧
      (4 ≤ e.part → ∀ x ∈ t.errq.entries, x.seq ≠ n) := by
  have hn : e.seq = n := by
    have := List.find?_some hf
    simp only [loggable, Bool.and_eq_true, beq_iff_eq] at this
    exact this.1
  have hin := List.mem_of_find?_eq_some hf
  have hx : exec (.errorEntryLogged n) s =
      answer s ((s.logEntry (asLogged s e)).modErr (afterLog (keptLogged s e) (asLogged s e))) := by
    show execErrorEntryLogged n s = _
    unfold execErrorEntryLogged
    rw [show s.errq.entries.find? (fun e => e.seq == n && (e.state == 3 || (e.state == 1 && e.sev ≤ 1))) = some e from hf]
    dsimp only
    rw [hb]
    rfl
  rw [hx]
  have hl := logEntry_only s (asLogged s e)
  refine ansK (only_trans (only_mono hl (ls := [.log, .errq]) (by decide)) (only_mono (modErr_only _ _) (by decide)))
    (by decide) (fun t kt hq => ⟨?_, fun hp hs => ?_, fun hp x hx => ?_⟩)
  · have hlog : t.log = (s.logEntry (asLogged s e)).log := kt .log (by decide)
    rw [hlog]
    exact logEntry_last s (asLogged s e)
  · have hkeep : keptLogged s e = true := by simp [keptLogged, hp, hs]
    rw [hq, hkeep]
    refine ⟨_, mem_settled (e := { asLogged s e with state := 4 }) (List.mem_map.mpr ⟨e, hin, if_pos rfl⟩), ?_⟩
    rw [settleErr_closed (Nat.le_succ 3)]
    exact ⟨hn, rfl⟩
  · have hkeep : keptLogged s e = false := by simp [keptLogged, show ¬ e.part < 4 by omega]
    rw [hq, hkeep] at hx
    obtain ⟨f, hf, rfl⟩ := List.mem_map.mp hx
    rw [(settle_same _ f).1, ← hn]
    exact bne_iff_ne.mp (List.mem_filter.mp hf).2

/-! ### An error that enters the queue leaves what stands there (R335, R340) -/

section
variable {s : State} {x : ErrEntry}

theorem enqueue_keeps (hx : x ∈ s.errq.entries) (e : ErrSpec) (n : Nat) : x ∈ (s.enqueue e n).errq.entries := by
  unfold State.enqueue
  dsimp only
  split <;> exact List.mem_append_left _ hx

theorem queueOverflow_keeps (hx : x ∈ s.errq.entries) (p : Nat) : x ∈ (s.queueOverflow p).errq.entries := by
  unfold State.queueOverflow
  split
  · exact hx
  · exact enqueue_keeps hx _ _

theorem overflowStop_keeps (hx : x ∈ s.errq.entries) (p : Nat) : x ∈ (s.overflowStop p).errq.entries := by
  refine queueOverflow_keeps ?_ p
  split
  · exact hx
  · rw [(safe_errq s p 0x7101).1]
    exact hx

theorem overflowStops_keep (l : List Nat) : ∀ {s : State}, x ∈ s.errq.entries →
    x ∈ (l.foldl State.overflowStop s).errq.entries := by
  induction l with
  | nil => exact fun hx => hx
  | cons p l ih => exact fun hx => ih (overflowStop_keeps hx p)

/-- An error that is admitted, or lost, leaves the entries before it, whatever room the queue has. -/
theorem enrol_keeps (hx : x ∈ s.errq.entries) (e : ErrSpec) : x ∈ (s.enrol e).errq.entries := by
  unfold State.enrol
  split
  · split
    · exact enqueue_keeps hx _ _
    · split
      · exact enqueue_keeps hx _ _
      · dsimp only
        rw [send_tfb_only _ 3 _ .errq (by decide)]
        exact overflowStops_keep _ hx
  · split
    · exact enqueue_keeps hx _ _
    · split
      · exact hx
      · exact overflowStop_keeps (s := s.lose e.part) hx _
end

/-! ### Word parity on a path (R23, R36, R343) -/

section
variable (s : State) (kind path : Nat)

theorem countPath_only (a b : Nat) : onlyChanges [.ctr, .boot] s (s.countPath kind path a b) :=
  (path_countPath (ks := [.ctr, .boot]) _ _ _ _ (by decide) (path_refl _ s)).frame

theorem pathOffline_only (key : Nat) : onlyChanges [.boot] s (s.pathOffline key) :=
  (path_pathOffline (ks := [.boot]) _ (by decide) (path_refl _ s)).frame

/-- A path that is taken offline is on the list. -/
theorem pathOffline_contains (key : Nat) : (s.pathOffline key).boot.pathsOff.contains key = true := by
  unfold State.pathOffline
  split
  · assumption
  · simp

/-- A flit of a mesh link that is replayed counts its replays at the router of the link (R390). -/
theorem flitParityError_replays {replays : Nat} (hr : replays < 3) (retrained : Bool) :
    ∃ t, exec (.flitParityError path 0 replays retrained) s = .next t ∧ onlyChanges [.ctr, .errq, .journal] s t ∧
      t.counter (siteIndex (path / 16)) (ctrLinkReplays + path / 4 % 4) =
        s.counter (siteIndex (path / 16)) (ctrLinkReplays + path / 4 % 4) + (replays + 1) := by
  have hx : exec (.flitParityError path 0 replays retrained) s = answer s (s.countPath 0 path (replays + 1) 0) :=
    congrArg (answer s) ((if_neg (by omega)).trans (if_pos hr))
  have ho : onlyChanges [.ctr] s (s.countPath 0 path (replays + 1) 0) :=
    only_trans (count_only _ _ _ _) (count_only _ _ _ _)
  rw [hx]
  refine ansK ho (by decide) (fun t kt _ => ?_)
  have hctr : t.ctr = (s.countPath 0 path (replays + 1) 0).ctr := kt .ctr (by decide)
  rw [counter_of hctr]
  exact (counter_other _ _ _ _ _ (by unfold ctrLinkReplays ctrLinkRetrains; omega)).trans (counter_mod _ _ _ _)

/-- The link to the NVMe controller has no unit in the error queue, and goes out of service (R36, R41). -/
theorem flitParityError_flash :
    ∃ t, exec (.flitParityError 0 6 3 false) s = .next t ∧ onlyChanges [.boot, .errq, .journal] s t ∧ t.flashUp = false := by
  have ho : onlyChanges [.boot] s ((s.countPath 6 0 4 1).pathOffline (pathKey 6 0)) :=
    only_trans (fun k hk => by cases k <;> first | rfl | exact absurd (by decide) hk) (pathOffline_only _ _)
  show ∃ t, answer s ((s.countPath 6 0 4 1).pathOffline (pathKey 6 0)) = .next t ∧ _
  refine ansK ho (by decide) (fun t kt _ => ?_)
  have hboot : t.boot = _ := kt .boot (by decide)
  unfold State.flashUp
  rw [hboot, pathOffline_contains]
  rfl

theorem pathError_of {s t : State} (h : t.parts = s.parts) : t.pathError kind path = s.pathError kind path := by
  have hpart := fun q => part_of h (p := q)
  unfold State.pathError State.partOfRow
  simp only [hpart]

/-- s with the failed replays of a path counted, and a router that failed after its retraining offline (R343). -/
def pathFailed (retrained : Bool) : State :=
  if kind = 5 ∧ !retrained then (s.countPath kind path 4 1).pathOffline (pathKey 5 path) else s.countPath kind path 4 1

theorem pathFailed_only (retrained : Bool) : onlyChanges [.ctr, .boot] s (pathFailed s kind path retrained) := by
  unfold pathFailed
  split
  · exact only_trans (countPath_only s _ _ _ _) (only_mono (pathOffline_only _ _) (by decide))
  · exact countPath_only s _ _ _ _

/-- The entry that takes a path offline: the entry's of its failure, which it names as its cause (R339). -/
def offlineErr : ErrSpec := { s.pathError kind path with status := 0x6502, flags := 4, cause := s.errq.nextSeq }

/-- s with the failure of a path queued. -/
def failureRaised (retrained : Bool) : State := (pathFailed s kind path retrained).raise (s.pathError kind path)
end

section
variable {s : State} {kind path : Nat}

/-- Three failed replays queue the failure, which takes the path offline once it has retrained (R343). -/
theorem flitParityError_fails (hk : kind ≤ 5) (hroom : roomFor s (s.pathError kind path)) (retrained : Bool) :
    exec (.flitParityError path kind 3 retrained) s =
      answer s (if retrained then failureRaised s kind path retrained
        else (failureRaised s kind path retrained).enrol (offlineErr s kind path)) := by
  have hp := pathFailed_only s kind path retrained
  have herr : (pathFailed s kind path retrained).pathError kind path = s.pathError kind path :=
    pathError_of _ _ (hp .parts (by decide))
  have hq : (pathFailed s kind path retrained).errq = s.errq := hp .errq (by decide)
  have hw : ((pathFailed s kind path retrained).errq.window (s.pathError kind path)).isSome = false := by
    rw [hq, hroom.1]
    rfl
  show execFlitParityError path kind 3 retrained s = _
  unfold execFlitParityError
  rw [if_neg (by omega), if_neg (by decide), if_neg (by omega)]
  show answer s
    (let u := pathFailed s kind path retrained
     let e := u.pathError kind path
     if retrained ∨ (u.errq.window e).isSome then u.raise e
     else (u.raise e).enrol { e with status := 0x6502, flags := 4, cause := u.errq.nextSeq }) = _
  dsimp only
  rw [herr, hw, hq]
  cases retrained <;> rfl

/-- The failure stands in the queue, at its sequence number. -/
theorem failureRaised_queued (hroom : roomFor s (s.pathError kind path)) (retrained : Bool) :
    queued s (failureRaised s kind path retrained) (s.pathError kind path) := by
  have hp := pathFailed_only s kind path retrained
  have hq : (pathFailed s kind path retrained).errq = s.errq := hp .errq (by decide)
  obtain ⟨-, hx⟩ := raise_room (GathersAndAdds.roomFor_of hroom hq (hp .parts (by decide)))
  rw [hq] at hx
  exact hx

theorem queued_enrol {u : State} {e : ErrSpec} (h : queued s u e) (d : ErrSpec) : queued s (u.enrol d) e := by
  obtain ⟨x, hx, hsame⟩ := h
  exact ⟨x, enrol_keeps hx d, hsame⟩

theorem flitParityError_retrained (hk : kind ≤ 5) (hroom : roomFor s (s.pathError kind path)) :
    ∃ t, exec (.flitParityError path kind 3 true) s = .next t ∧ queued s t (s.pathError kind path) := by
  rw [flitParityError_fails hk hroom]
  exact ansE (fun t _ hq => queued_settled (failureRaised_queued hroom true) t hq)

/-- A router that fails has its site in router bypass at once (R23). -/
theorem flitParityError_router (hroom : roomFor s (s.pathError 5 path)) :
    ∃ t, exec (.flitParityError path 5 3 false) s = .next t ∧ queued s t (s.pathError 5 path) ∧
      t.boot.pathsOff.contains (pathKey 5 path) = true := by
  have hp := pathFailed_only s 5 path false
  obtain ⟨out, hboot⟩ := raise_boot (GathersAndAdds.roomFor_of hroom (hp .errq (by decide)) (hp .parts (by decide)))
  rw [flitParityError_fails (by decide) hroom]
  refine ansE (fun t kt hq => ⟨queued_settled (queued_enrol (failureRaised_queued hroom false) _) t hq, ?_⟩)
  have ht : t.boot = ((failureRaised s 5 path false).enrol (offlineErr s 5 path)).boot := kt .boot (by decide)
  rw [ht, MoveEngine.enrol_boot]
  unfold failureRaised
  rw [hboot]
  exact pathOffline_contains _ _

/-- An entry of the module in the general reserve. -/
theorem enqueue_reserve (s : State) (e : ErrSpec) : (s.enqueue e 1).errq.reserveUsed = s.errq.reserveUsed + 1 := by
  unfold State.enqueue ErrQ.reserveUsed
  dsimp only
  split <;> simp [List.filter_append]

/-- An error of the module enters the general reserve while that has room. -/
theorem enrol_reserve {s : State} {e : ErrSpec} (he : 4 ≤ e.part) (hfree : s.errq.reserveUsed < 28) :
    s.enrol e = s.enqueue e 1 := by
  unfold State.enrol
  rw [if_pos (.inl he), if_pos hfree]

theorem enqueue_unit (s : State) (e : ErrSpec) (n : Nat) : ∃ x ∈ (s.enqueue e n).errq.entries,
    x.status = e.status ∧ x.unitKind = e.unitKind ∧ x.unit = e.unit ∧ x.cause = e.cause := by
  unfold State.enqueue
  dsimp only
  split <;> exact ⟨_, List.mem_append_right _ (List.mem_singleton.mpr rfl), rfl, rfl, rfl, rfl⟩

/-- A plane of a mesh link that fails again is to go offline (R339, R343). -/
theorem flitParityError_link (hroom : roomFor s (s.pathError 0 path)) (hspare : s.errq.reserveUsed < 27) :
    ∃ t, exec (.flitParityError path 0 3 false) s = .next t ∧ queued s t (s.pathError 0 path) ∧
      ∃ x ∈ t.errq.entries, x.status = 0x6502 ∧ x.unitKind = 5 ∧ x.unit = path / 4 ∧ x.cause = s.errq.nextSeq := by
  have hp := pathFailed_only s 0 path false
  have hq : (pathFailed s 0 path false).errq = s.errq := hp .errq (by decide)
  have hmodule : 4 ≤ (s.pathError 0 path).part := show 4 ≤ 0xFF by decide
  have hraise := raise_errq (GathersAndAdds.roomFor_of hroom hq (hp .parts (by decide)))
  rw [if_pos (.inl hmodule)] at hraise
  have hfree : (failureRaised s 0 path false).errq.reserveUsed < 28 := by
    unfold failureRaised
    rw [hraise, enqueue_reserve, hq]
    omega
  have henrol := enrol_reserve (e := offlineErr s 0 path) hmodule hfree
  have hx := flitParityError_fails (by decide) hroom false
  rw [if_neg Bool.false_ne_true, henrol] at hx
  have hqueued := queued_enrol (failureRaised_queued hroom false) (offlineErr s 0 path)
  rw [henrol] at hqueued
  rw [hx]
  refine ansE (fun t kt hqt => ⟨queued_settled hqueued t hqt, ?_⟩)
  obtain ⟨y, hy, hstatus, hkind, hunit, hcause⟩ := enqueue_unit (failureRaised s 0 path false) (offlineErr s 0 path) 1
  obtain ⟨-, estatus, -, ekind, eunit, -⟩ := settle_same ((failureRaised s 0 path false).enqueue (offlineErr s 0 path) 1) y
  rw [hqt]
  exact ⟨_, mem_settled hy, estatus.trans hstatus, ekind.trans hkind, eunit.trans hunit, (settle_cause _ y).trans hcause⟩
end

/-! ### Inputs behind the Strainer (R459) -/

section
variable (s : State) (i : Nat)

/-- Since when an assertion that qualifies now has been active: the filter and its two samples earlier. -/
def qualifiedSince : Nat := s.time.ticks - (s.valNat (0xA700 + i) 1 / Config.tickNs + 2)

/-- An input that a new event has set. -/
def assertedInput : SInput :=
  { s.input i with
    state := 1, qualified := true, since := qualifiedSince s i, events := ((s.input i).events + 1) % 2 ^ 32
    lastEvent := some s.time.ticks }

/-- s with an input that qualifies. -/
def qualified : State := s.modInput i (fun x => { x with state := 1, qualified := true, since := qualifiedSince s i })

/-- s with the event of an input that qualifies counted. -/
def delivered : State :=
  (qualified s i).modInput i (fun x => { x with events := (x.events + 1) % 4294967296, lastEvent := some s.time.ticks })

/-- s with the event of an input that qualifies counted as coalesced. -/
def coalesced : State := (qualified s i).modInput i (fun x => { x with coalesced := (x.coalesced + 1) % 4294967296 })

theorem delivered_only : onlyChanges [.inputs] s (delivered s i) := only_trans (modInput_only _ _ _) (modInput_only _ _ _)

theorem coalesced_only : onlyChanges [.inputs] s (coalesced s i) := only_trans (modInput_only _ _ _) (modInput_only _ _ _)

theorem delivered_input : (delivered s i).input i = assertedInput s i := by
  unfold delivered qualified
  rw [input_mod, input_mod]
  rfl

theorem coalesced_input : ((coalesced s i).input i).coalesced = ((s.input i).coalesced + 1) % 2 ^ 32 ∧
    ((coalesced s i).input i).state = 1 := by
  unfold coalesced qualified
  rw [input_mod, input_mod]
  exact ⟨rfl, rfl⟩
end

section
variable {s : State} {i : Nat}

/-- An input without an event so far delivers one. -/
theorem strain_first (h0 : (s.input i).state = 0) (hl : (s.input i).lastEvent = none) (f : State → State) :
    s.strain i f = f (delivered s i) := by
  unfold State.strain
  dsimp only
  rw [if_neg (by omega), if_neg (by omega), hl]
  rfl

/-- An event inside the window of the one before it is coalesced. -/
theorem strain_coalesces {t0 : Nat} (h0 : (s.input i).state = 0) (hl : (s.input i).lastEvent = some t0)
    (hw : s.time.ticks < t0 + s.valNat (0xA700 + i) 2 * Config.ticksPerUs) (f : State → State) :
    s.strain i f = coalesced s i := by
  unfold State.strain
  dsimp only
  rw [if_neg (by omega), if_neg (by omega), hl]
  exact if_pos (decide_eq_true hw)

/-- What coalesced inputs leave. -/
theorem coalesced_answer (s : State) (i : Nat) : ∃ t, answer s (coalesced s i) = .next t ∧ onlyChanges [.inputs, .errq, .journal] s t ∧
    (t.input i).coalesced = ((s.input i).coalesced + 1) % 2 ^ 32 ∧ (t.input i).state = 1 :=
  ansK (coalesced_only s i) (by decide) (fun t kt _ => input_of (kt .inputs (by decide)) i ▸ coalesced_input s i)

/-- An event of RECLAIM_N or FAULT_IN_N inside its window is coalesced. -/
theorem inputs_coalesce : ∀ x ∈ [(0, Instr.reclaimN), (1, .faultInN)], (s.input x.1).state = 0 → ∀ t0,
    (s.input x.1).lastEvent = some t0 → s.time.ticks < t0 + s.valNat (0xA700 + x.1) 2 * Config.ticksPerUs →
    ∃ t, exec x.2 s = .next t ∧ onlyChanges [.inputs, .errq, .journal] s t ∧
      (t.input x.1).coalesced = ((s.input x.1).coalesced + 1) % 2 ^ 32 ∧ (t.input x.1).state = 1 := by
  intro x hx h0 t0 hl hw
  simp only [List.mem_cons, List.not_mem_nil, or_false] at hx
  rcases hx with rfl | rfl
  · have e : exec .reclaimN s = _ := congrArg (answer s) (strain_coalesces h0 hl hw _)
    rw [e]
    exact coalesced_answer s 0
  · have e : exec .faultInN s = _ := congrArg (answer s) (strain_coalesces h0 hl hw _)
    rw [e]
    exact coalesced_answer s 1

/-- An event of RECLAIM_N reclaims the partitions of its mask (R323). -/
theorem reclaimN_delivers (h0 : (s.input 0).state = 0) (hl : (s.input 0).lastEvent = none) {l : List Nat}
    (hm : maskParts (s.valNat 0x2500 1) = l) :
    exec .reclaimN s = answer s (l.foldl (fun u p => u.reclaim p true) (delivered s 0)) := by
  have hv : (delivered s 0).valNat 0x2500 1 = s.valNat 0x2500 1 := rfl
  refine congrArg (answer s) ((strain_first h0 hl _).trans ?_)
  rw [hv, hm]

theorem reclaimN_masked (h0 : (s.input 0).state = 0) (hl : (s.input 0).lastEvent = none) (hm : s.valNat 0x2500 1 = 0) :
    ∃ t, exec .reclaimN s = .next t ∧ onlyChanges [.inputs, .errq, .journal] s t ∧ t.input 0 = assertedInput s 0 := by
  rw [reclaimN_delivers (l := []) h0 hl (by rw [hm]; decide)]
  exact ansK (delivered_only s 0) (by decide) (fun t kt _ => (input_of (kt .inputs (by decide)) 0).trans (delivered_input s 0))

theorem reclaimN_reclaims {p : Nat} (h0 : (s.input 0).state = 0) (hl : (s.input 0).lastEvent = none)
    (hm : maskParts (s.valNat 0x2500 1) = [p]) (hs : (s.part p).state = .running) (hmode : (s.part p).mode = 0)
    (hr : (s.part p).rcv.rollback = none) (hc : (s.part p).rcv.capture = none) :
    ∃ t, exec .reclaimN s = .next t ∧ t.input 0 = assertedInput s 0 ∧ (t.part p).state = .reclaiming ∧
      (t.part p).rcv.reclaim = some { t0 := s.time.ticks, phaseStart := s.time.ticks } := by
  have ho : onlyChanges [.parts, .queues, .sites, .mem, .hbm, .streams, .ctr, .colls, .credits, .fetches, .xfers, .tfb, .outs,
      .free] (delivered s 0) ((delivered s 0).reclaim p true) := (path_reclaim p true (by decide) (path_refl _ _)).frame
  have hd := part_of (p := p) (delivered_only s 0 .parts (by decide))
  obtain ⟨hstate, -, hrec⟩ := reclaim_run (u := delivered s 0) (p := p) (by rw [hd]; exact hs) (by rw [hd]; exact hmode)
    (by rw [hd]; exact hr) (by rw [hd]; exact hc)
  rw [reclaimN_delivers h0 hl hm]
  refine ansE (fun t kt _ => ?_)
  rw [part_of (kt .parts (by decide))]
  exact ⟨(input_of ((kt .inputs (by decide)).trans (ho .inputs (by decide))) 0).trans (delivered_input s 0), hstate, hrec⟩

/-- An input that stays active for the stuck limit is masked. -/
theorem inputStuck_masks (hi : i < 3) (h1 : (s.input i).state = 1)
    (hs : (s.input i).since + s.valNat (0xA700 + i) 3 * Config.ticksPerMs ≤ s.time.ticks)
    (hroom : roomFor s { status := 0x6701, unitKind := 0x0C, unit := i }) :
    ∃ t, exec (.inputStuck i) s = .next t ∧ queued s t { status := 0x6701, unitKind := 0x0C, unit := i } ∧
      t.input i = { s.input i with state := 2, qualified := true, stuck := ((s.input i).stuck + 1) % 2 ^ 32 } := by
  obtain ⟨hk, hq⟩ := raise_room hroom
  have e : exec (.inputStuck i) s = answer s ((s.raise { status := 0x6701, unitKind := 0x0C, unit := i }).modInput i
      (fun x => { x with state := 2, qualified := true, stuck := (x.stuck + 1) % 4294967296 })) :=
    congrArg (answer s) (if_neg (by omega))
  rw [e]
  refine ansE (fun t kt hqt => ⟨queued_settled (x := _) hq t hqt, ?_⟩)
  rw [input_of (kt .inputs (by decide)), input_mod, input_of (hk .inputs (by decide))]
  rfl

/-- A masked input that was inactive for its interval is armed again. -/
theorem input_rearms (hi : i < 3) (h2 : (s.input i).state = 2) (hq : (s.input i).qualified = false)
    (hs : (s.input i).since + s.valNat (0xA700 + i) 4 * Config.ticksPerMs ≤ s.time.ticks) :
    ∃ t, exec (.strainerRearm i) s = .next t ∧ onlyChanges [.inputs, .errq, .journal] s t ∧
      t.input i = { s.input i with state := 0 } := by
  have e : exec (.strainerRearm i) s = answer s (s.modInput i (fun x => { x with state := 0 })) := by
    refine congrArg (answer s) (if_neg ?_)
    rw [hq]
    simp only [Bool.false_eq_true, false_or]
    omega
  rw [e]
  exact ansK (modInput_only s _ _) (by decide)
    (fun t kt _ => (input_of (kt .inputs (by decide)) i).trans (input_mod s i _))

/-- An input that goes inactive: a masked one begins its interval, a pulse that never qualified is counted. -/
theorem strainerInputRelease_releases (hi : i < 3) :
    ∃ t, exec (.strainerInputRelease i) s = .next t ∧ onlyChanges [.inputs, .errq, .journal] s t ∧
      t.input i = if (s.input i).state = 2 then { s.input i with qualified := false, since := s.time.ticks }
        else if (s.input i).state = 1 then { s.input i with state := 0, qualified := false, since := s.time.ticks }
        else { s.input i with rejected := ((s.input i).rejected + 1) % 2 ^ 32 } := by
  have e : exec (.strainerInputRelease i) s = answer s (s.modInput i _) := congrArg (answer s) (if_neg (by omega))
  rw [e]
  exact ansK (modInput_only s _ _) (by decide)
    (fun t kt _ => (input_of (kt .inputs (by decide)) i).trans (input_mod s i _))
end

/-- Settles O54: the handlers' lemmas, then those of the paths by kind, then those of the inputs by state. -/
theorem errorsAndInputsAreHandled : Obligations.ErrorsAndInputsAreHandled := by
  unfold Obligations.ErrorsAndInputsAreHandled
  intro s
  refine ⟨fun h => errorEntryHandle_none, fun h e hn hu hst hc _ => ⟨errorEntryHandle_idle hn hu hst hc, fun f hf hseq hp honly =>
    errorEntryHandle_preempts hn hu hst hc hf hseq hp honly⟩, fun n e => errorEntryLogged_logs,
    fun path replays hr retrained => flitParityError_replays s path hr retrained, flitParityError_flash s,
    fun path _ hroom => flitParityError_router hroom, fun path kind hk hroom => ⟨flitParityError_retrained hk hroom, ?_⟩,
    inputs_coalesce, fun h0 hl => ⟨reclaimN_masked h0 hl, fun p _ hm hs hmode hr hc =>
      reclaimN_reclaims h0 hl hm hs hmode hr hc⟩, fun i hi => ⟨inputStuck_masks hi, input_rearms hi,
      strainerInputRelease_releases hi⟩⟩
  rintro rfl hspare
  exact flitParityError_link hroom hspare

end Sys2Proof.Proofs.ErrorHandling

/-! SUPPORT. Sachet points and fetches of the scheduler (R303, R304, R321, R322), and the blocks of sachets and of fetched
data on the Kettle links (R308, R441, R443). -/

namespace Sys2Proof.Proofs.SachetTraffic

open Sys2Proof Sys2Proof.Machine Sys2Proof.Safety Sys2Proof.Laws Sys2Proof.Laws.Shared Sys2Proof.Proofs.GathersAndAdds

/-! ### Sachet points (R303, R304) -/

/-- The recovery state of a partition after one more step. -/
def stepped (v : Recovery) : Recovery := { v with steps := v.steps + 1, sinceLast := v.sinceLast + 1 }

/-- s with a step of partition p counted at a sachet point. -/
def pointCounted (s : State) (p : Nat) : State := (s.modRcv p stepped).count (partCounters p) ctrSachetPoints 1

/-- A sachet is due at the sachet point c of partition p: the interval is over, or it was asked for. -/
def sachetDue (s : State) (p : Nat) (c : CmdRec) : Prop :=
  ((s.part p).interval ≠ 0 ∧ (s.part p).interval ≤ (s.part p).rcv.sinceLast + 1) ∨ bit c.cmd.arg4 2 = true ∨
    (s.part p).rcv.force = true

theorem pointCounted_part (s : State) (p : Nat) :
    (pointCounted s p).part p = { s.part p with rcv := stepped (s.part p).rcv } := part_modRcv s p stepped

theorem pointCounted_cmdOf (s : State) (r : QRef) : (pointCounted s r.part).cmdOf r = s.cmdOf r :=
  Submissions.cmdOf_of_lists (by rw [pointCounted_part])

theorem issue_rcv (s : State) (k n : Nat) (r : QRef) (st : Nat) : ((s.issue k n r st).part r.part).rcv = (s.part r.part).rcv := by
  show ((s.modCmd r _).part r.part).rcv = _
  unfold State.modCmd State.modList
  rw [part_modPart]

section
variable {s : State} {q : Nat} {r : QRef} {c : CmdRec}

/-- A sachet point that is open: it takes the step, and then waits for a capture where a sachet is due. -/
theorem sachetPoint_steps (h : runs s 4 q r c) (hop : c.cmd.opcode = 4) (hbits : bits c.cmd.arg4 1 0 = 0)
    (hopen : ∀ k, (s.part r.part).rcv.capture = some k → k.phase = 0 ∧ r ∉ k.cmds) :
    (¬ sachetDue s r.part c →
      exec (.sachetPoint q) s = answer s ((pointCounted s r.part).issue 4 q r 0x0107)) ∧
    (sachetDue s r.part c → exec (.sachetPoint q) s = answer s
      (if (s.part r.part).rcv.capture.isSome then (pointCounted s r.part).modRcv r.part
        (fun v => { v with capture := v.capture.map (fun k => { k with cmds := k.cmds ++ [r] }) })
      else (pointCounted s r.part).beginCapture r.part (some r))) := by
  have hgo : ¬(c.cmd.opcode ≠ 4 ∨ bits c.cmd.arg4 1 0 ≠ 0 ∨
      ((s.part r.part).rcv.capture.map (fun k => k.cmds.contains r || k.phase != 0)).getD false = true) := by
    rw [hop, hbits]
    cases hcap : (s.part r.part).rcv.capture with
    | none => simp
    | some k => simp [hopen k hcap]
  have hpart := pointCounted_part s r.part
  have hx : exec (.sachetPoint q) s = answer s
      (if ((pointCounted s r.part).part r.part).interval ≠ 0 ∧
            ((pointCounted s r.part).part r.part).interval ≤ ((pointCounted s r.part).part r.part).rcv.sinceLast ∨
          bit c.cmd.arg4 2 = true ∨ ((pointCounted s r.part).part r.part).rcv.force = true then
        (if (s.part r.part).rcv.capture.isSome then (pointCounted s r.part).modRcv r.part
          (fun v => { v with capture := v.capture.map (fun k => { k with cmds := k.cmds ++ [r] }) })
        else (pointCounted s r.part).beginCapture r.part (some r))
      else (pointCounted s r.part).issue 4 q r 0x0107) := by
    show execSachetPoint q s = _
    unfold execSachetPoint
    rw [h.1]
    dsimp only
    rw [if_neg hgo]
    rfl
  rw [hpart] at hx
  exact ⟨fun hd => hx.trans (congrArg (answer s) (if_neg hd)), fun hd => hx.trans (congrArg (answer s) (if_pos hd))⟩

/-- A point at which no sachet is due completes. -/
theorem sachetPoint_passes (h : runs s 4 q r c) (hop : c.cmd.opcode = 4) (hbits : bits c.cmd.arg4 1 0 = 0)
    (hopen : ∀ k, (s.part r.part).rcv.capture = some k → k.phase = 0 ∧ r ∉ k.cmds) (hd : ¬ sachetDue s r.part c) :
    ∃ t, exec (.sachetPoint q) s = .next t ∧ handedOver 4 q r c 0x0107 s t ∧
      (t.part r.part).rcv.steps = (s.part r.part).rcv.steps + 1 ∧
      (t.part r.part).rcv.sinceLast = (s.part r.part).rcv.sinceLast + 1 ∧
      (t.part r.part).rcv.capture = (s.part r.part).rcv.capture := by
  obtain ⟨hrun, hcmd, -⟩ := runs_parts h
  have hrcv : (((pointCounted s r.part).issue 4 q r 0x0107).part r.part).rcv = stepped (s.part r.part).rcv := by
    rw [issue_rcv, pointCounted_part]
  rw [(sachetPoint_steps h hop hbits hopen).1 hd]
  refine ansE (fun t kt _ => ⟨give hrun hcmd ((pointCounted_cmdOf s r).trans hcmd) rfl kt, ?_⟩)
  rw [part_of (kt .parts (by decide)), hrcv]
  exact ⟨rfl, rfl, rfl⟩

/-- A point at which a sachet is due joins the capture that waits already (log 109). -/
theorem sachetPoint_joins (h : runs s 4 q r c) (hop : c.cmd.opcode = 4) (hbits : bits c.cmd.arg4 1 0 = 0)
    (hopen : ∀ k, (s.part r.part).rcv.capture = some k → k.phase = 0 ∧ r ∉ k.cmds) (hd : sachetDue s r.part c)
    {k : Capture} (hcap : (s.part r.part).rcv.capture = some k) :
    ∃ t, exec (.sachetPoint q) s = .next t ∧ (t.queue 4 q).running = some r ∧ (t.part r.part).rcv =
      { (s.part r.part).rcv with
        steps := (s.part r.part).rcv.steps + 1, sinceLast := (s.part r.part).rcv.sinceLast + 1
        capture := some { k with cmds := k.cmds ++ [r] } } := by
  obtain ⟨hrun, -, -⟩ := runs_parts h
  rw [(sachetPoint_steps h hop hbits hopen).2 hd, if_pos (by rw [hcap]; rfl)]
  refine ansE (fun t kt _ => ⟨(congrArg Queue.running (queue_of (kt .queues (by decide)) 4 q)).trans hrun, ?_⟩)
  rw [part_of (kt .parts (by decide)), part_modRcv, pointCounted_part]
  simp only [stepped, hcap, Option.map_some]

/-- A point at which a sachet is due begins a capture. -/
theorem sachetPoint_captures (h : runs s 4 q r c) (hop : c.cmd.opcode = 4) (hbits : bits c.cmd.arg4 1 0 = 0)
    (hd : sachetDue s r.part c) (hcap : (s.part r.part).rcv.capture = none) (hrec : (s.part r.part).rcv.reclaim = none) :
    ∃ t, exec (.sachetPoint q) s = .next t ∧ (t.queue 4 q).running = some r ∧ (t.part r.part).rcv =
      { (s.part r.part).rcv with
        steps := (s.part r.part).rcv.steps + 1, sinceLast := (s.part r.part).rcv.sinceLast + 1
        capture := some { phase := 0, cmds := [r], startNs := s.now } } := by
  obtain ⟨hrun, -, -⟩ := runs_parts h
  have hbegin : (pointCounted s r.part).beginCapture r.part (some r) = (pointCounted s r.part).modRcv r.part (fun v =>
      { v with
        capture := some { phase := 0, cmds := [r], startNs := s.now }
        reclaim := v.reclaim.map (fun c => if c.phase = 0 then { c with phase := 1, phaseStart := s.time.ticks } else c) }) := by
    unfold State.beginCapture
    rw [if_neg (by rw [pointCounted_part]; simp [stepped, hrec])]
    rfl
  rw [(sachetPoint_steps h hop hbits (fun k hk => nomatch hcap.symm.trans hk)).2 hd, if_neg (by rw [hcap]; decide), hbegin]
  refine ansE (fun t kt _ => ⟨(congrArg Queue.running (queue_of (kt .queues (by decide)) 4 q)).trans hrun, ?_⟩)
  rw [part_of (kt .parts (by decide)), part_modRcv, pointCounted_part]
  simp only [stepped, hrec, Option.map_none]
end

/-! ### Commands of the scheduler that end (R101) -/

/-- A scheduler command that ends by issuing r, which runs, hands r over. -/
theorem schedule_hands_over {s u : State} {q st : Nat} {r : QRef} {c : CmdRec} {i : Instr} (h : runs s 4 q r c)
    (he : exec i s = answer s (u.issue 4 q r st)) (hp : u.parts = s.parts) (hq : u.queues = s.queues) :
    ∃ t, exec i s = .next t ∧ handedOver 4 q r c st s t ∧ t.mem = u.mem ∧ t.fetches = u.fetches ∧
      ∀ e, queued s u e → queued s t e := by
  obtain ⟨hrun, hcmd, -⟩ := runs_parts h
  rw [he]
  refine ansE (fun t kt hqt => ⟨give hrun hcmd ((cmdOf_of hp r).trans hcmd) hq kt, kt .mem (by decide), kt .fetches (by decide),
    fun e hx => queued_settled (x := u.issue 4 q r st) (e := e) ?_ t hqt⟩)
  rw [show (u.issue 4 q r st).errq = u.errq from issue_only u 4 q r st .errq (by decide)]
  exact hx

/-! ### Fetches that this module asks for (R321, R322) -/

/-- The fetch that a command asks for. -/
def fetchOf (c : CmdRec) : FetchDesc := FetchDesc.ofBytes (c.held.getD 0 [])

/-- This module's own answer to the fetch d of partition p. -/
def ownFetch (s : State) (p : Nat) (d : FetchDesc) : Except Nat (Nat × Nat) :=
  s.serveFetch s.address p d.guest d.part d.id d.region d.offset

/-- Verified reads of blocks at HBM places change nothing but the counters. -/
theorem countPlaces_ctr (s : State) (ks : List Nat) : ∃ x : Tab Nat, s.countPlaces ks = { s with ctr := x } := by
  unfold State.countPlaces
  refine List.foldlRecOn (motive := fun u => ∃ x : Tab Nat, u = { s with ctr := x }) _ _ ⟨s.ctr, rfl⟩ (fun u hu k _ => ?_)
  obtain ⟨x, rfl⟩ := hu
  dsimp only
  split
  · exact ⟨_, rfl⟩
  · exact ⟨_, rfl⟩

/-- A block that does not match is queued where the queue has room for it (R235). -/
theorem raisePlace_queued {s : State} {place p : Nat} (consumer addr ref : Nat) (h : roomFor s (blockErr place p)) :
    onlyChanges [.hbm, .free, .errq, .outs, .boot, .tfb] s (s.raisePlace place consumer p addr ref) ∧
      queued s (s.raisePlace place consumer p addr ref) (blockErr place p) := by
  have hk : onlyChanges [.hbm, .free] s { s with free := s.free + 4, hbm := s.hbm.spoilt (blockOf place) } := by
    intro k hk
    cases k <;> first | rfl | exact absurd (by decide) hk
  unfold State.raisePlace
  generalize s.crcDetail _ _ _ = d
  obtain ⟨hr, hq⟩ := raise_room (s := { s with free := s.free + 4, hbm := s.hbm.spoilt (blockOf place) })
    (e := { blockErr place p with addr := addr, ref := ref, detail := d }) (roomFor_of h rfl rfl)
  exact ⟨only_trans (only_mono hk (by decide)) (only_mono hr (by decide)), hq⟩

/-- s once command r of queue q has begun the fetch d (R303, R321, R322). -/
def fetchBegun (s : State) (q : Nat) (r : QRef) (d : FetchDesc) : State :=
  if d.holder = s.address then
    match ownFetch s r.part d with
    | .error st => s.issue 4 q r st
    | .ok (_, a) =>
      let ks := s.windowBlocks a d.bytes
      let u := s.countPlaces ks
      match ks.find? u.badPlace with
      | some k => (u.raisePlace k 2 0xFF k (u.refOf r)).issue 4 q r 0x2201
      | none => (u.store r.part d.dst (u.windowBytes a d.bytes)).issue 4 q r 0
  else
    match s.portsTo d.holder with
    | [] => s.issue 4 q r 0x7302
    | k :: _ =>
      ({ s with fetches := Tab.set s.fetches q { ref := r } }).kettleSend k 0x13 r.part { tag := 0xFF }
        [d.id, d.offset, d.bytes, d.guest, d.part, d.region] []

section
variable {s : State} {q : Nat} {r : QRef} {c : CmdRec} (h : runs s 4 q r c) (hop : c.cmd.opcode = 4)
  (hbits : bits c.cmd.arg4 1 0 = 1) (hnew : Tab.find s.fetches q = none)
include h hop hbits hnew

theorem sachetFetch_begins : exec (.sachetFetch q) s = answer s (fetchBegun s q r (fetchOf c)) := by
  show execSachetFetch q s = _
  unfold execSachetFetch
  rw [h.1]
  dsimp only
  rw [if_neg (by simp [hop, hbits, hnew])]
  rfl

/-- A fetch from this module's own window that is refused ends with the refusal's status. -/
theorem sachetFetch_refused (hown : (fetchOf c).holder = s.address) {st : Nat}
    (hst : ownFetch s r.part (fetchOf c) = .error st) :
    ∃ t, exec (.sachetFetch q) s = .next t ∧ handedOver 4 q r c st s t ∧ t.mem = s.mem := by
  have he := sachetFetch_begins h hop hbits hnew
  unfold fetchBegun at he
  rw [if_pos hown, hst] at he
  obtain ⟨t, e, ho, hm, -⟩ := schedule_hands_over h he rfl rfl
  exact ⟨t, e, ho, hm⟩

/-- A fetch from this module's own window whose blocks match stores what it reads. -/
theorem sachetFetch_stores (hown : (fetchOf c).holder = s.address) (hm : memoryCanonical s) {x : Nat × Nat}
    (hx : ownFetch s r.part (fetchOf c) = .ok x)
    (hgood : (s.windowBlocks x.2 (fetchOf c).bytes).find? s.badPlace = none) :
    ∃ t, exec (.sachetFetch q) s = .next t ∧ handedOver 4 q r c 0 s t ∧
      stored r.part (fetchOf c).dst (s.windowBytes x.2 (fetchOf c).bytes) s t := by
  obtain ⟨y, hy⟩ := countPlaces_ctr s (s.windowBlocks x.2 (fetchOf c).bytes)
  have he : exec (.sachetFetch q) s = answer s (({ s with ctr := y }.store r.part (fetchOf c).dst
      (s.windowBytes x.2 (fetchOf c).bytes)).issue 4 q r 0) := by
    rw [sachetFetch_begins h hop hbits hnew]
    unfold fetchBegun
    rw [if_pos hown, hx]
    dsimp only
    rw [hy, show ({ s with ctr := y } : State).badPlace = s.badPlace from rfl, hgood]
    rfl
  have hk := store_only { s with ctr := y } r.part (fetchOf c).dst (s.windowBytes x.2 (fetchOf c).bytes)
  obtain ⟨t, e, ho, htm, -⟩ := schedule_hands_over h he (hk .parts (by decide)) (hk .queues (by decide))
  refine ⟨t, e, ho, stored_mem (stored_from (store_stored { s with ctr := y } r.part _ _ hm) rfl (fun _ => rfl)) htm⟩

/-- A fetch from this module's own window ends at a block that does not match (R235). -/
theorem sachetFetch_stops (hown : (fetchOf c).holder = s.address) {x : Nat × Nat}
    (hx : ownFetch s r.part (fetchOf c) = .ok x) {k : Nat}
    (hbad : (s.windowBlocks x.2 (fetchOf c).bytes).find? s.badPlace = some k) (hroom : roomFor s (blockErr k 0xFF)) :
    ∃ t, exec (.sachetFetch q) s = .next t ∧ handedOver 4 q r c 0x2201 s t ∧ queued s t (blockErr k 0xFF) ∧ t.mem = s.mem := by
  obtain ⟨y, hy⟩ := countPlaces_ctr s (s.windowBlocks x.2 (fetchOf c).bytes)
  have he : exec (.sachetFetch q) s =
      answer s (({ s with ctr := y }.raisePlace k 2 0xFF k (s.refOf r)).issue 4 q r 0x2201) := by
    rw [sachetFetch_begins h hop hbits hnew]
    unfold fetchBegun
    rw [if_pos hown, hx]
    dsimp only
    rw [hy, show ({ s with ctr := y } : State).badPlace = s.badPlace from rfl, hbad]
    rfl
  obtain ⟨hk, hq⟩ := raisePlace_queued (s := { s with ctr := y }) 2 k (s.refOf r) (roomFor_of hroom rfl rfl)
  obtain ⟨t, e, ho, htm, -, hqt⟩ := schedule_hands_over h he (hk .parts (by decide)) (hk .queues (by decide))
  exact ⟨t, e, ho, hqt _ hq, htm.trans (hk .mem (by decide))⟩

/-- A fetch from a holder that no port reaches fails (R322). -/
theorem sachetFetch_unreachable (hown : (fetchOf c).holder ≠ s.address) (hports : s.portsTo (fetchOf c).holder = []) :
    ∃ t, exec (.sachetFetch q) s = .next t ∧ handedOver 4 q r c 0x7302 s t := by
  have he := sachetFetch_begins h hop hbits hnew
  unfold fetchBegun at he
  rw [if_neg hown, hports] at he
  obtain ⟨t, e, ho, -⟩ := schedule_hands_over h he rfl rfl
  exact ⟨t, e, ho⟩

/-- A fetch from another holder is asked of it over the first port that reaches it. -/
theorem sachetFetch_asks {k : Nat} {ks : List Nat} (hown : (fetchOf c).holder ≠ s.address)
    (hports : s.portsTo (fetchOf c).holder = k :: ks) :
    ∃ t, exec (.sachetFetch q) s = .next t ∧ Tab.find t.fetches q = some { ref := r } ∧
      packetSent t k 0x13 r.part { tag := 0xFF }
        [(fetchOf c).id, (fetchOf c).offset, (fetchOf c).bytes, (fetchOf c).guest, (fetchOf c).part, (fetchOf c).region] [] := by
  have he := sachetFetch_begins h hop hbits hnew
  unfold fetchBegun at he
  rw [if_neg hown, hports] at he
  rw [he]
  refine ansE (fun t kt _ => ⟨?_, send_sent _ t _ _ _ _ _ _ (kt .outs (by decide))⟩)
  have hf : t.fetches = Tab.set s.fetches q { ref := r } := kt .fetches (by decide)
  rw [hf]
  exact tab_find_set_same _ _ _
end

/-! ### Transfers keep their way as their blocks leave (R443) -/

/-- Every block that a transfer of s sends matches: a sachet's own, or one of a window without a block that does not. -/
def sendsSound (s : State) : Prop := ∀ x ∈ s.xfers, x.source < 4 ∨ s.hbm.corrupt = []

/-- t has the transfers of s, but for what is on its way, and its memory's marks. -/
def sameWays (s t : State) : Prop := t.xfers.map wayOf = s.xfers.map wayOf ∧ t.hbm = s.hbm

theorem sendsSound_of {s t : State} (h : sendsSound s) (hw : sameWays s t) : sendsSound t := by
  obtain ⟨hx, hhbm⟩ := hw
  intro x hxt
  obtain ⟨y, hy, hway⟩ := List.mem_map.mp (hx ▸ List.mem_map_of_mem hxt : wayOf x ∈ s.xfers.map wayOf)
  rw [hhbm, show x.source = y.source from congrArg Prod.fst hway.symm]
  exact h y hy

theorem sent_wayOf (x : Xfer) (k b : Nat) : wayOf (x.sent k b) = wayOf x := rfl

theorem badPlace_clean {s : State} (h : s.hbm.corrupt = []) (k : Nat) : s.badPlace k = false := by
  unfold State.badPlace
  rw [h]
  simp

/-- One block sent leaves every transfer on its way, where its blocks match. -/
theorem sendBlock_sameWays {s : State} (h : sendsSound s) (k : Nat) : sameWays s (s.sendBlock k) := by
  unfold State.sendBlock
  split
  · exact ⟨rfl, rfl⟩
  split
  · exact ⟨rfl, rfl⟩
  · next x hx =>
    extract_lets b ks u v
    have hu : u.xfers = s.xfers ∧ u.hbm = s.hbm := by
      obtain ⟨y, hy⟩ : ∃ y : Tab Nat, u = { s with ctr := y } := countPlaces_ctr s ks
      rw [hy]
      exact ⟨rfl, rfl⟩
    obtain ⟨hxfers, hhbm⟩ := hu
    have hgood : ks.find? u.badPlace = none := by
      rcases h x (List.mem_of_find?_eq_some hx) with hs | hc
      · simp only [ks, if_pos hs, List.find?_nil]
      · exact List.find?_eq_none.mpr (fun a _ => by rw [badPlace_clean (by rw [hhbm, hc])]; decide)
    rw [hgood]
    refine ⟨?_, hhbm⟩
    show (u.xfers.map (fun z => if z = x then x.sent k b else z)).map wayOf = s.xfers.map wayOf
    rw [hxfers]
    rw [List.map_map]
    refine List.map_congr_left (fun z _ => ?_)
    simp only [Function.comp]
    split
    · next hz => rw [hz, sent_wayOf]
    · rfl

/-- As many blocks sent as the ports allow leave every transfer on its way, where its blocks match. -/
theorem pumpXfers_wayOf {s : State} (h : sendsSound s) : s.pumpXfers.xfers.map wayOf = s.xfers.map wayOf := by
  have hport : ∀ k, ∀ u, sameWays s u → sameWays s ((List.range 64).foldl (fun s _ => s.sendBlock k) u) := fun k u hu =>
    List.foldlRecOn _ _ hu (fun v hv _ _ => by
      obtain ⟨hx, hm⟩ := sendBlock_sameWays (sendsSound_of h hv) k
      exact ⟨hx.trans hv.1, hm.trans hv.2⟩)
  exact (List.foldlRecOn (motive := sameWays s) _ _ ⟨rfl, rfl⟩ (fun u hu k _ => hport k u hu)).1

/-! ### Packets of sachets and fetches -/

/-- A packet with a sound header on an up port is taken (R440). -/
theorem packet_taken {s : State} {h : KHdr} (hup : (s.kport h.port).state = 2) (hcrc : h.crcOk = true) (f : State → State) :
    s.packet h f = f s := by
  unfold State.packet
  rw [if_neg (by omega), if_pos hcrc]

/-- A block that changes nothing but is answered with a status. -/
theorem confirmed_answer (s : State) (k id offset st : Nat) :
    ∃ t, answer s (s.kettleSend k 0x12 0 { tag := 0xFF } [id, offset, 1, st] []) = .next t ∧
      onlyChanges [.kports, .outs, .errq, .journal] s t ∧ packetSent t k 0x12 0 { tag := 0xFF } [id, offset, 1, st] [] :=
  ansK (send_only s _ _ _ _ _ _) (by decide) (fun t kt _ => send_sent s t _ _ _ _ _ _ (kt .outs (by decide)))

/-- What a block written to the hosted window makes of memory does not depend on the guests. -/
theorem windowWrite_mem (s : State) (g : List Guest) (a : Nat) (bs : List Byte) :
    (State.windowWrite { s with guests := g } a bs).mem = (s.windowWrite a bs).mem := by
  have hcount : ∀ (l : List Nat) (u : State),
      (l.foldl (fun s k => s.count (channelIndex k) ctrChWritten 64) u).mem = u.mem := fun l u =>
    List.foldlRecOn (motive := fun v : State => v.mem = u.mem) _ _ rfl (fun _ hv _ _ => hv)
  unfold State.windowWrite
  dsimp only
  rw [hcount, hcount]
  rfl

/-- The window of a guest once block offset of sachet id has come. -/
def openedFor (g : Guest) (id offset : Nat) (payload : List Byte) : Guest := g.open id (imageTotal g offset payload)

/-- The byte of the hosted window at which block offset of the sachet in slot i of w lands. -/
def landingByte (w : Guest) (i offset : Nat) : Nat := w.base + i * w.slotBytes + offset

/-- A block for a slot that holds it is written there (R308). -/
theorem landBlock_lands {s : State} {m p id offset : Nat} {payload : List Byte} {g : Guest} {i : Nat}
    (hg : s.guestOf m p = some g) (hi : (openedFor g id offset payload).held.findIdx? (fun e => e.1 == id) = some i)
    (hslots : (openedFor g id offset payload).slots ≠ 0) (hsize : offset + 4096 ≤ (openedFor g id offset payload).slotBytes)
    (hin : s.inWindow (landingByte (openedFor g id offset payload) i offset) 4096 = true) :
    (s.landBlock m p id offset payload).1.mem =
        (s.windowWrite (landingByte (openedFor g id offset payload) i offset) (padTo 4096 payload)).mem ∧
      (s.landBlock m p id offset payload).2 = 0 := by
  unfold openedFor at hi hslots hsize hin ⊢
  unfold landingByte at hin ⊢
  unfold State.landBlock
  rw [hg]
  dsimp only
  rw [hi]
  dsimp only
  rw [if_neg (by rw [hin]; simp [hslots]; omega)]
  exact ⟨windowWrite_mem s _ _ _, rfl⟩

section
variable {s : State} {h : KHdr} (hup : (s.kport h.port).state = 2) (hcrc : h.crcOk = true)
include hup hcrc

/-- A block whose CRC fails is asked for again (R443). -/
theorem sachetBlock_bad (id offset : Nat) (payload : List Byte) :
    ∃ t, exec (.sachetBlock h id offset payload false) s = .next t ∧ onlyChanges [.kports, .outs, .errq, .journal] s t ∧
      packetSent t h.port 0x12 0 { tag := 0xFF } [id, offset, 1, 0x2201] [] := by
  have he : exec (.sachetBlock h id offset payload false) s = answer s _ := congrArg (answer s) (packet_taken hup hcrc _)
  rw [he]
  exact confirmed_answer s _ _ _ _

/-- A block of a partition without a window here is turned away (R65). -/
theorem sachetBlock_stranger (id offset : Nat) (payload : List Byte) (hg : s.guestOf h.srcModule h.srcPartition = none) :
    ∃ t, exec (.sachetBlock h id offset payload true) s = .next t ∧ onlyChanges [.kports, .outs, .errq, .journal] s t ∧
      packetSent t h.port 0x12 0 { tag := 0xFF } [id, offset, 1, 0x4101] [] := by
  have he : exec (.sachetBlock h id offset payload true) s = answer s _ := congrArg (answer s) (packet_taken hup hcrc _)
  have hland : s.landBlock h.srcModule h.srcPartition id offset payload = (s, 0x4101) := by
    unfold State.landBlock
    rw [hg]
  rw [he, if_pos rfl, hland]
  exact confirmed_answer s _ _ _ _

/-- A block for a guest's slot is written there and confirmed (R308, R443). -/
theorem sachetBlock_lands {id offset : Nat} {payload : List Byte} {g : Guest} {i : Nat}
    (hg : s.guestOf h.srcModule h.srcPartition = some g)
    (hi : (openedFor g id offset payload).held.findIdx? (fun e => e.1 == id) = some i)
    (hslots : (openedFor g id offset payload).slots ≠ 0) (hsize : offset + 4096 ≤ (openedFor g id offset payload).slotBytes)
    (hin : s.inWindow (landingByte (openedFor g id offset payload) i offset) 4096 = true) :
    ∃ t, exec (.sachetBlock h id offset payload true) s = .next t ∧
      t.mem = (s.windowWrite (landingByte (openedFor g id offset payload) i offset) (padTo 4096 payload)).mem ∧
      packetSent t h.port 0x12 0 { tag := 0xFF } [id, offset, 1, 0] [] := by
  have he : exec (.sachetBlock h id offset payload true) s = answer s _ := congrArg (answer s) (packet_taken hup hcrc _)
  obtain ⟨hmem, hst⟩ := landBlock_lands hg hi hslots hsize hin
  rw [he, if_pos rfl]
  dsimp only
  rw [hst]
  refine ansE (fun t kt _ => ⟨?_, send_sent _ t _ _ _ _ _ _ (kt .outs (by decide))⟩)
  exact (kt .mem (by decide) : t.mem = _).trans hmem
end

/-! ### Confirmations (R443) -/

/-- Blocks of a transfer under way among n from block b. -/
def flightAmong (x : Xfer) (b n : Nat) : Nat := (x.flight.filter (fun f => decide (b ≤ f.2) && decide (f.2 < b + n))).length

/-- Confirmed blocks are done. -/
theorem confirm_done (x : Xfer) (b n : Nat) :
    ∃ y, x.confirm b n 0 = some y ∧ wayOf y = wayOf { x with done := x.done + flightAmong x b n } := by
  unfold Xfer.confirm
  dsimp only
  rw [if_pos rfl]
  exact ⟨_, rfl, by simp only [wayOf, flightAmong, List.length_map]⟩

section
variable {s : State} {h : KHdr} (hup : (s.kport h.port).state = 2) (hcrc : h.crcOk = true) {x : Xfer} {id offset : Nat}
  (hx : s.xfers = [x]) (hid : x.id = id) (hmod : x.module = h.srcModule) (hfirst : x.first ≤ offset)
  (hblock : (offset - x.first) / 4096 < x.blocks)
include hup hcrc hx hid hmod hfirst hblock

/-- A confirmation moves the one transfer on, and ends it where it serves a fetch that is complete. -/
theorem sachetConfirm_moves (n : Nat) : ∃ y,
    wayOf y = wayOf { x with done := x.done + flightAmong x ((offset - x.first) / 4096) n } ∧
      exec (.sachetConfirm h id offset n 0) s =
        answer s (State.pumpXfers { s with xfers := [y].filter (fun z => z.source < 4 || z.done != z.blocks) }) := by
  obtain ⟨y, hy, hway⟩ := confirm_done x ((offset - x.first) / 4096) n
  refine ⟨y, hway, congrArg (answer s) ((packet_taken hup hcrc _).trans ?_)⟩
  have hfind : s.xfers.find? (fun z => z.id == id && z.module == h.srcModule && z.first ≤ offset &&
      (offset - z.first) / 4096 < z.blocks) = some x := by
    rw [hx, List.find?_singleton, if_pos (by simp [hid, hmod, hfirst, hblock])]
  rw [hfind]
  dsimp only
  rw [hy]
  dsimp only
  rw [hx, List.map_singleton, if_pos rfl]

theorem sachetConfirm_goes_on {n : Nat} (hgo : x.source < 4 ∨
      x.done + flightAmong x ((offset - x.first) / 4096) n ≠ x.blocks ∧ s.hbm.corrupt = []) :
    ∃ t, exec (.sachetConfirm h id offset n 0) s = .next t ∧
      t.xfers.map wayOf = [wayOf { x with done := x.done + flightAmong x ((offset - x.first) / 4096) n }] := by
  obtain ⟨y, hway, he⟩ := sachetConfirm_moves hup hcrc hx hid hmod hfirst hblock n
  have hsource : y.source = x.source := congrArg Prod.fst hway
  have hdone : y.done = x.done + flightAmong x ((offset - x.first) / 4096) n := congrArg (fun w => w.2.2.2.2.2.2) hway
  have hblocks : y.blocks = x.blocks := congrArg (fun w => w.2.2.2.2.2.1) hway
  have hkeep : [y].filter (fun z => z.source < 4 || z.done != z.blocks) = [y] := by
    refine List.filter_eq_self.mpr (fun z hz => ?_)
    rw [List.mem_singleton.mp hz, hsource, hdone, hblocks]
    rcases hgo with hlt | ⟨hne, -⟩
    · simp [hlt]
    · simp [hne]
  have hsound : sendsSound { s with xfers := [y] } := by
    intro z hz
    rw [List.mem_singleton.mp hz, hsource]
    exact hgo.imp_right And.right
  rw [hkeep] at he
  rw [he]
  refine ansE (fun t kt _ => ?_)
  rw [show t.xfers = _ from kt .xfers (by decide), pumpXfers_wayOf hsound]
  exact congrArg (fun w => [w]) hway

theorem sachetConfirm_ends {n : Nat} (hsrc : 4 ≤ x.source)
    (hall : x.done + flightAmong x ((offset - x.first) / 4096) n = x.blocks) :
    ∃ t, exec (.sachetConfirm h id offset n 0) s = .next t ∧ t.xfers = [] := by
  obtain ⟨y, hway, he⟩ := sachetConfirm_moves hup hcrc hx hid hmod hfirst hblock n
  have hsource : y.source = x.source := congrArg Prod.fst hway
  have hdone : y.done = x.done + flightAmong x ((offset - x.first) / 4096) n := congrArg (fun w => w.2.2.2.2.2.2) hway
  have hblocks : y.blocks = x.blocks := congrArg (fun w => w.2.2.2.2.2.1) hway
  have hdrop : [y].filter (fun z => z.source < 4 || z.done != z.blocks) = [] := by
    refine List.filter_eq_nil_iff.mpr (fun z hz => ?_)
    rw [List.mem_singleton.mp hz, hsource, hdone, hblocks, hall]
    simp
    omega
  rw [hdrop, pump_none rfl] at he
  rw [he]
  exact ansE (fun t kt _ => kt .xfers (by decide))
end

/-! ### Fetches of other modules, and the answers to this one's (R321, R322) -/

/-- A transfer that begins joins the others, and its first blocks leave. -/
theorem pumpXfers_adds {s : State} (x : Xfer) (hclean : s.hbm.corrupt = []) :
    (State.pumpXfers { s with xfers := s.xfers ++ [x] }).xfers.map wayOf = s.xfers.map wayOf ++ [wayOf x] := by
  have hsound : sendsSound { s with xfers := s.xfers ++ [x] } := fun _ _ => .inr hclean
  rw [pumpXfers_wayOf hsound, List.map_append]
  rfl

/-- s with a fetched block stored, and confirmed. -/
def blockTaken (s : State) (h : KHdr) (r : QRef) (d : FetchDesc) (id offset : Nat) (payload : List Byte) : State :=
  (s.store r.part (d.dst + offset - d.offset) (padTo 4096 payload)).kettleSend h.port 0x12 r.part { tag := 0xFF }
    [id, offset, 1, 0] []

theorem blockTaken_only (s : State) (h : KHdr) (r : QRef) (d : FetchDesc) (id offset : Nat) (payload : List Byte) :
    onlyChanges [.mem, .hbm, .ctr, .kports, .outs] s (blockTaken s h r d id offset payload) :=
  only_trans (only_mono (store_only s _ _ _) (by decide)) (only_mono (send_only _ _ _ _ _ _ _) (by decide))

section
variable {s : State} {h : KHdr} (hup : (s.kport h.port).state = 2) (hcrc : h.crcOk = true)
include hup hcrc

/-- A holder refuses a fetch with the status of what it lacks. -/
theorem fetchRequest_refused {id offset bytes guest part region st : Nat}
    (hown : s.serveFetch h.srcModule h.srcPartition guest part id region offset = .error st) :
    ∃ t, exec (.fetchRequest h id offset bytes guest part region) s = .next t ∧
      packetSent t h.port 0x15 0 { tag := 0xFF } [st] [] := by
  have he : exec (.fetchRequest h id offset bytes guest part region) s = answer s _ :=
    congrArg (answer s) (packet_taken hup hcrc _)
  rw [he, hown]
  exact ansE (fun t kt _ => send_sent s t _ _ _ _ _ _ (kt .outs (by decide)))

/-- A holder sends what it is asked for, from the sachet found. -/
theorem fetchRequest_served {id offset bytes guest part region : Nat} {x : Nat × Nat}
    (hown : s.serveFetch h.srcModule h.srcPartition guest part id region offset = .ok x) (hclean : s.hbm.corrupt = []) :
    ∃ t, exec (.fetchRequest h id offset bytes guest part region) s = .next t ∧
      t.xfers.map wayOf = s.xfers.map wayOf ++ [(4, h.srcModule, x.1, offset, x.2, bytes / 4096, 0)] := by
  have he : exec (.fetchRequest h id offset bytes guest part region) s = answer s _ :=
    congrArg (answer s) (packet_taken hup hcrc _)
  rw [he, hown]
  dsimp only
  exact ansE (fun t kt _ => (congrArg (List.map wayOf) (kt .xfers (by decide))).trans (pumpXfers_adds _ hclean))

section
variable {q : Nat} {r : QRef} {c : CmdRec} {d : FetchDesc} {id offset : Nat} {payload : List Byte}
  (hfrom : s.fetchFrom h.srcModule (fun d => (d.id == 0 || d.id == id) && d.offset ≤ offset && offset + 4096 ≤ d.offset + d.bytes)
    = some (q, r, d))
include hfrom

/-- A block of a fetch that comes bad is asked for once more. -/
theorem fetchData_again (hbad : (Tab.get s.fetches { ref := r } q).bad.contains offset = false) :
    ∃ t, exec (.fetchData h id offset payload false) s = .next t ∧
      Tab.find t.fetches q = some { Tab.get s.fetches { ref := r } q with
        bad := offset :: (Tab.get s.fetches { ref := r } q).bad } ∧
      packetSent t h.port 0x12 r.part { tag := 0xFF } [id, offset, 1, 0x2201] [] := by
  have he : exec (.fetchData h id offset payload false) s = answer s _ := congrArg (answer s) (packet_taken hup hcrc _)
  rw [hfrom] at he
  dsimp only at he
  rw [if_pos (by decide), if_neg (by rw [hbad]; decide)] at he
  rw [he]
  refine ansE (fun t kt _ => ⟨?_, send_sent s t _ _ _ _ _ _ (kt .outs (by decide))⟩)
  rw [show t.fetches = _ from kt .fetches (by decide)]
  exact tab_find_set_same _ _ _

/-- A block that comes bad twice fails the fetch. -/
theorem fetchData_fails (hr : runs s 4 q r c) (hbad : (Tab.get s.fetches { ref := r } q).bad.contains offset = true) :
    ∃ t, exec (.fetchData h id offset payload false) s = .next t ∧ Tab.find t.fetches q = none ∧
      handedOver 4 q r c 0x2201 s t := by
  have he : exec (.fetchData h id offset payload false) s = answer s _ := congrArg (answer s) (packet_taken hup hcrc _)
  rw [hfrom] at he
  dsimp only at he
  rw [if_pos (by decide), if_pos hbad] at he
  obtain ⟨t, e, ho, -, hf, -⟩ := schedule_hands_over hr he rfl rfl
  exact ⟨t, e, hf ▸ tab_find_del_same _ _, ho⟩

/-- A block of a fetch that is not the last is stored and confirmed. -/
theorem fetchData_stores (hm : memoryCanonical s) (hmore : (Tab.get s.fetches { ref := r } q).got + 4096 < d.bytes) :
    ∃ t, exec (.fetchData h id offset payload true) s = .next t ∧
      Tab.find t.fetches q = some { Tab.get s.fetches { ref := r } q with
        got := (Tab.get s.fetches { ref := r } q).got + 4096 } ∧
      stored r.part (d.dst + offset - d.offset) (padTo 4096 payload) s t ∧
      packetSent t h.port 0x12 r.part { tag := 0xFF } [id, offset, 1, 0] [] := by
  have he : exec (.fetchData h id offset payload true) s = answer s _ := congrArg (answer s) (packet_taken hup hcrc _)
  rw [hfrom] at he
  dsimp only at he
  rw [if_neg (by decide), if_neg (by omega)] at he
  rw [he]
  refine ansE (fun t kt _ => ⟨?_, ?_, send_sent _ t _ _ _ _ _ _ (kt .outs (by decide))⟩)
  · rw [show t.fetches = _ from kt .fetches (by decide)]
    exact tab_find_set_same _ _ _
  · exact stored_mem (store_stored s _ _ _ hm) (kt .mem (by decide))

/-- The last block of a fetch is stored, and completes it. -/
theorem fetchData_completes (hr : runs s 4 q r c) (hm : memoryCanonical s) (hall : d.bytes ≤ (Tab.get s.fetches { ref := r } q).got + 4096) :
    ∃ t, exec (.fetchData h id offset payload true) s = .next t ∧ Tab.find t.fetches q = none ∧
      handedOver 4 q r c 0 s t ∧ stored r.part (d.dst + offset - d.offset) (padTo 4096 payload) s t := by
  have he : exec (.fetchData h id offset payload true) s = answer s _ := congrArg (answer s) (packet_taken hup hcrc _)
  rw [hfrom] at he
  dsimp only at he
  rw [if_neg (by decide), if_pos hall] at he
  have hk := blockTaken_only s h r d id offset payload
  obtain ⟨t, e, ho, htm, hf, -⟩ := schedule_hands_over hr he (hk .parts (by decide)) (hk .queues (by decide))
  exact ⟨t, e, hf ▸ tab_find_del_same _ _, ho, stored_mem (store_stored s _ _ _ hm) htm⟩
end

/-- A refused fetch completes with the holder's status. -/
theorem fetchRefuse_ends {q : Nat} {r : QRef} {c : CmdRec} {d : FetchDesc} (hr : runs s 4 q r c)
    (hfrom : s.fetchFrom h.srcModule (fun _ => true) = some (q, r, d)) (st : Nat) :
    ∃ t, exec (.fetchRefuse h st) s = .next t ∧ Tab.find t.fetches q = none ∧ handedOver 4 q r c st s t := by
  have he : exec (.fetchRefuse h st) s = answer s _ := congrArg (answer s) (packet_taken hup hcrc _)
  rw [hfrom] at he
  obtain ⟨t, e, ho, -, hf, -⟩ := schedule_hands_over hr he rfl rfl
  exact ⟨t, e, hf ▸ tab_find_del_same _ _, ho⟩
end

/-- Settles O46: sachet points by what is due, fetch commands by their holder, and the packets by their type. -/
theorem sachetPointsAndFetchesTakeEffect : Obligations.SachetPointsAndFetchesTakeEffect := by
  unfold Obligations.SachetPointsAndFetchesTakeEffect
  intro s
  refine ⟨fun q r c hr hop => ⟨fun hbits hopen => ⟨sachetPoint_passes hr hop hbits hopen,
      fun k hd hcap => sachetPoint_joins hr hop hbits hopen hd hcap,
      fun hd hcap hrec => sachetPoint_captures hr hop hbits hd hcap hrec⟩,
    fun hbits hnew => ⟨fun hown st hst => sachetFetch_refused hr hop hbits hnew hown hst,
      fun hown hm x hx => ⟨sachetFetch_stores hr hop hbits hnew hown hm hx,
        fun k hbad hroom => sachetFetch_stops hr hop hbits hnew hown hx hbad hroom⟩,
      sachetFetch_unreachable hr hop hbits hnew, fun k ks hown hports => sachetFetch_asks hr hop hbits hnew hown hports⟩⟩,
    fun h hup hcrc => ⟨fun id offset payload => ⟨sachetBlock_bad hup hcrc id offset payload,
      sachetBlock_stranger hup hcrc id offset payload, fun g i hg hi hslots hsize hin =>
        sachetBlock_lands hup hcrc hg hi hslots hsize hin⟩, ?_, ?_, ?_, fun q r c d st hr hfrom =>
      fetchRefuse_ends hup hcrc hr hfrom st⟩⟩
  · intro x id offset n hx hid hmod hfirst hblock
    exact ⟨sachetConfirm_goes_on hup hcrc hx hid hmod hfirst hblock, sachetConfirm_ends hup hcrc hx hid hmod hfirst hblock⟩
  · intro id offset bytes guest part region
    exact ⟨fun st hown => fetchRequest_refused hup hcrc hown, fun x hown hclean => fetchRequest_served hup hcrc hown hclean⟩
  · intro q r c id offset payload hr d f hfrom
    exact ⟨fetchData_again hup hcrc hfrom, fetchData_fails hup hcrc hfrom hr, fetchData_stores hup hcrc hfrom,
      fetchData_completes hup hcrc hfrom hr⟩

end Sys2Proof.Proofs.SachetTraffic

/-! SUPPORT. What captures, landings, tier copies, restores, spare fills and reclaim phases leave when they end (R304 to R317,
R324, R327, R328). -/

namespace Sys2Proof.Proofs.RecoveryEnds

open Sys2Proof Sys2Proof.Machine Sys2Proof.Safety Sys2Proof.Laws Sys2Proof.Laws.Shared
open Sys2Proof.Proofs.GathersAndAdds

/-! ### Partitions that nothing waits in -/

/-- Partition p runs, streams nothing, rolls back to nothing, and is neither reclaimed nor on its way to a stop. -/
structure undisturbed (s : State) (p : Nat) : Prop where
  running : (s.part p).state = .running
  unbound : s.boundStreams p = []
  noRollback : (s.part p).rcv.rollback = none
  noReclaim : (s.part p).rcv.reclaim = none
  noStop : (s.part p).runTo = .none

/-- Recovery records of a partition that agree in its rollback and its reclaim. -/
def sameWork (r v : Recovery) : Prop := v.rollback = r.rollback ∧ v.reclaim = r.reclaim

section
variable {s t : State} {p : Nat}

theorem undisturbed_of (h : undisturbed s p) (hs : t.streams = s.streams) {v : Recovery}
    (hp : t.part p = { s.part p with rcv := v }) (hv : sameWork (s.part p).rcv v) : undisturbed t p := by
  obtain ⟨hroll, hrec⟩ := hv
  refine ⟨?_, (bound_of hs p).trans h.unbound, ?_, ?_, ?_⟩
  · rw [hp]; exact h.running
  · rw [hp]; exact hroll.trans h.noRollback
  · rw [hp]; exact hrec.trans h.noReclaim
  · rw [hp]; exact h.noStop

/-- Where nothing waits for a sachet, its end changes nothing more. -/
theorem sachetEnded_undisturbed (h : undisturbed s p) : s.sachetEnded p = s := by
  unfold State.sachetEnded
  dsimp only
  rw [if_neg (by rw [h.noRollback]; decide), if_neg (by rw [h.noReclaim]; decide), if_neg (by rw [h.noStop]; decide),
    still h.running h.unbound]

/-! ### Captures that end (R304) -/

/-- A capture that no command waits for ends in the partition's record alone. -/
theorem endCapture_unawaited {c : Capture} (hc : (s.part p).rcv.capture = some c) (hn : c.cmds = []) (st : Nat) :
    s.endCapture p st = (s.modRcv p (fun r => { r with capture := none })).count (partCounters p) ctrCaptureHold (s.now - c.startNs) := by
  unfold State.endCapture
  rw [hc]
  dsimp only
  rw [hn]
  rfl

theorem endCapture_part {c : Capture} (hc : (s.part p).rcv.capture = some c) (hn : c.cmds = []) (st : Nat) :
    (s.endCapture p st).part p = { s.part p with rcv := { (s.part p).rcv with capture := none } } := by
  rw [endCapture_unawaited hc hn, part_count, part_modRcv]

theorem endCapture_only {c : Capture} (hc : (s.part p).rcv.capture = some c) (hn : c.cmds = []) (st : Nat) :
    onlyChanges [.parts, .ctr] s (s.endCapture p st) := by
  rw [endCapture_unawaited hc hn]
  exact (path_count _ _ _ (by decide) (path_modRcv p _ (by decide) (path_refl _ s))).frame

/-- A capture that ends in a partition where nothing waits for it leaves the rest. -/
theorem endCapture_sachetEnded (h : undisturbed s p) {c : Capture} (hc : (s.part p).rcv.capture = some c) (hn : c.cmds = [])
    (st : Nat) : (s.endCapture p st).sachetEnded p = s.endCapture p st :=
  sachetEnded_undisturbed
    (undisturbed_of h (endCapture_only hc hn st .streams (by decide)) (endCapture_part hc hn st) ⟨rfl, rfl⟩)
end

/-! ### Captures (R304, R305) -/

theorem countLines_ctr (s : State) (p a n j : Nat) : ∃ x : Tab Nat, s.countLines p a n j = { s with ctr := x } := by
  unfold State.countLines
  refine List.foldlRecOn (motive := fun u => ∃ x : Tab Nat, u = { s with ctr := x }) _ _ ⟨s.ctr, rfl⟩ (fun u hu k _ => ?_)
  obtain ⟨x, rfl⟩ := hu
  exact ⟨_, rfl⟩

theorem countVerified_ctr (s : State) (p : Nat) (faults : List BlockFault) (bs : List Nat) :
    ∃ x : Tab Nat, s.countVerified p faults bs = { s with ctr := x } := by
  unfold State.countVerified
  refine List.foldlRecOn (motive := fun u => ∃ x : Tab Nat, u = { s with ctr := x }) _ _ ⟨s.ctr, rfl⟩ (fun u hu b _ => ?_)
  obtain ⟨x, rfl⟩ := hu
  split
  · exact ⟨x, rfl⟩
  · dsimp only
    split
    · exact ⟨_, rfl⟩
    · split
      · exact ⟨_, rfl⟩
      · exact ⟨_, rfl⟩

/-- Without a named fault no block is refetched: one that does not match stays so. -/
theorem faultAt_persists {s : State} {p b : Nat} : (s.faultAt p [] b).any (fun f => !f.persists) = false := by
  unfold State.faultAt
  dsimp only [List.find?_nil]
  split
  · rfl
  · split
    · rfl
    · split <;> rfl

/-- The reads of a capture that refetches nothing, or that no command waits for, are counted and leave the rest. -/
theorem readRegions_ctr {s : State} {p : Nat} {c : Capture} {faults : List BlockFault} (hc : (s.part p).rcv.capture = some c)
    (h : faults = [] ∨ c.cmds = []) (rs : List (Nat × Nat)) :
    ∃ x : Tab Nat, s.readRegions p faults rs = { s with ctr := x } := by
  unfold State.readRegions
  extract_lets bad blocks bs again u
  have hu : ∃ x : Tab Nat, u = { s with ctr := x } := by
    refine List.foldlRecOn (motive := fun v => ∃ x : Tab Nat, v = { s with ctr := x }) _ _ (countVerified_ctr s p faults _)
      (fun v hv b _ => ?_)
    obtain ⟨x, rfl⟩ := hv
    obtain ⟨y, hy⟩ := countLines_ctr { s with ctr := x } p b 4096 ctrChRead
    exact ⟨y, hy⟩
  obtain ⟨x, hx⟩ := hu
  clear_value u
  subst hx
  rcases h with rfl | hn
  · have hagain : again = false := by
      simp only [again, faultAt_persists]
      exact List.any_eq_false.mpr (fun _ _ => Bool.false_ne_true)
    rw [if_pos (by rw [hagain]; rfl)]
    exact ⟨x, rfl⟩
  · split
    · exact ⟨x, rfl⟩
    · refine ⟨x, ?_⟩
      rw [show ({ s with ctr := x } : State).part p = s.part p from rfl, hc]
      dsimp only [Option.map_some, Option.getD_some]
      rw [hn]
      rfl

section
variable {s : State} {p : Nat}

theorem bindAfresh_kept (h : (s.part p).binding.fresh = false) : s.bindAfresh p = s := by
  unfold State.bindAfresh
  dsimp only
  rw [if_neg (by rw [h]; simp)]

theorem tier1Ready_off (h : s.tierOn p 1 = false) : s.tier1Ready p = false := by
  unfold State.tier1Ready
  dsimp only
  rw [h]
  rfl

/-- The next sachet takes the next sequence number of the module (R305). -/
def numbered (s : State) : State := { s with nor := { s.nor with sachetSeq := s.nor.sachetSeq + 1 } }

/-- A capture on its way to flash. -/
def toFlash (c : Capture) (x : Sachet) : Capture := { c with phase := 1, tier := 2, sachet := some x }

/-- Without tier 1 a sachet goes to flash (R304 step 4, R307). -/
theorem sendSachet_flash (h1 : s.tierOn p 1 = false) (hb : (s.part p).binding.fresh = false) (h2 : s.tier2Ready p = true) :
    s.sendSachet p = (numbered s).modRcv p (fun r =>
      { r with capture := r.capture.map (fun c => toFlash c ((numbered s).image p (s.nextSlot p))), dirty := false }) := by
  have ht : s.currentTier p = some 2 := by
    unfold State.currentTier
    rw [tier1Ready_off h1, h2]
    rfl
  unfold State.sendSachet
  rw [bindAfresh_kept hb]
  dsimp only
  rw [h1]
  simp only [Bool.false_and, Bool.false_eq_true, if_false]
  rw [ht]
  rfl

/-- Without a tier a sachet is abandoned with 0x7302 (log 28). -/
theorem sendSachet_none (h1 : s.tierOn p 1 = false) (hb : (s.part p).binding.fresh = false) (h2 : s.tier2Ready p = false) :
    s.sendSachet p = (s.count (partCounters p) ctrAbandoned 1).endCapture p 0x7302 := by
  have ht : s.currentTier p = none := by
    unfold State.currentTier
    rw [tier1Ready_off h1, h2]
    rfl
  unfold State.sendSachet
  rw [bindAfresh_kept hb]
  dsimp only
  rw [h1]
  simp only [Bool.false_and, Bool.false_eq_true, if_false]
  rw [ht]

variable {c : Capture} (hc : (s.part p).rcv.capture = some c) (h0 : c.phase = 0) (hq : s.quiesced p c.cmds = true)
include hc h0 hq

/-- A capture whose reads all match sends its sachet, and ends where no tier takes it. -/
theorem sachetCapture_sends {faults : List BlockFault} (hgood : s.badBlock p faults ((s.part p).rcv.plan ++ s.ledgerRegion p) = none)
    {x : Tab Nat} (hx : s.readRegions p faults ((s.part p).rcv.plan ++ s.ledgerRegion p) = { s with ctr := x }) :
    let u := State.sendSachet { s with ctr := x } p
    exec (.sachetCapture p faults) s = answer s (if (u.part p).rcv.capture.isNone then u.sachetEnded p else u) := by
  intro u
  show execSachetCapture p faults s = _
  unfold execSachetCapture
  rw [hc]
  dsimp only
  rw [if_neg (by simp [h0, hq]), hgood, hx]

/-- A capture that reads a block that does not match fails (R235, R305). -/
theorem sachetCapture_fails {faults : List BlockFault} {a : Nat}
    (hbad : s.badBlock p faults ((s.part p).rcv.plan ++ s.ledgerRegion p) = some a)
    {x : Tab Nat} (hx : s.readRegions p faults ((s.part p).rcv.plan ++ s.ledgerRegion p) = { s with ctr := x }) :
    exec (.sachetCapture p faults) s = answer s
      (((({ s with ctr := x } : State).raiseBlock p a 2).count (partCounters p) ctrAbandoned 1).endCapture p 0x2201 |>.sachetEnded p) := by
  show execSachetCapture p faults s = _
  unfold execSachetCapture
  rw [hc]
  dsimp only
  rw [if_neg (by simp [h0, hq]), hbad, hx]

/-- A capture takes the plan's regions and the ledger to flash (R304, R305). -/
theorem sachetCapture_flash (h1 : s.tierOn p 1 = false) (hb : (s.part p).binding.fresh = false) (h2 : s.tier2Ready p = true)
    (hgood : s.badBlock p [] ((s.part p).rcv.plan ++ s.ledgerRegion p) = none) :
    ∃ t x, exec (.sachetCapture p []) s = .next t ∧
      (t.part p).rcv.capture = some { c with phase := 1, tier := 2, sachet := some x } ∧
      x.id = s.address * 2 ^ 60 + p * 2 ^ 58 + t.nor.sachetSeq % 2 ^ 58 ∧ t.nor.sachetSeq = s.nor.sachetSeq + 1 ∧
      x.regions = (s.part p).rcv.plan ∧ x.data = s.regionData p ((s.part p).rcv.plan ++ s.ledgerRegion p) ∧
      x.sched.closed = (s.part p).fences.closed := by
  obtain ⟨y, hy⟩ := readRegions_ctr hc (.inl rfl) ((s.part p).rcv.plan ++ s.ledgerRegion p)
  have he := sachetCapture_sends hc h0 hq hgood hy
  rw [sendSachet_flash (s := { s with ctr := y }) h1 hb h2] at he
  generalize hx : (numbered { s with ctr := y }).image p (State.nextSlot { s with ctr := y } p) = x at he
  have hcap : (((numbered { s with ctr := y }).modRcv p (fun r =>
      { r with capture := r.capture.map (fun c => toFlash c x), dirty := false })).part p).rcv.capture = some (toFlash c x) := by
    rw [part_modRcv]
    exact congrArg (Option.map (fun c => toFlash c x)) hc
  dsimp only at he
  rw [if_neg (by rw [hcap]; exact Bool.false_ne_true)] at he
  obtain ⟨t, e, hcapt, hnor⟩ : ∃ t, answer s ((numbered { s with ctr := y }).modRcv p (fun r =>
      { r with capture := r.capture.map (fun c => toFlash c x), dirty := false })) = .next t ∧
      (t.part p).rcv.capture = some (toFlash c x) ∧ t.nor = { s.nor with sachetSeq := s.nor.sachetSeq + 1 } :=
    ansE (fun t kt _ => ⟨(congrArg (fun q : Machine.Part => q.rcv.capture) (part_of (kt .parts (by decide)) p)).trans hcap,
      kt .nor (by decide)⟩)
  subst hx
  exact ⟨t, _, he.trans e, hcapt, by rw [hnor]; rfl, by rw [hnor], rfl, rfl, rfl⟩

/-- A capture that no tier takes is abandoned; the sachets before it stay (log 28). -/
theorem sachetCapture_abandons (hu : undisturbed s p) (hn : c.cmds = []) (h1 : s.tierOn p 1 = false)
    (hb : (s.part p).binding.fresh = false) (h2 : s.tier2Ready p = false)
    (hgood : s.badBlock p [] ((s.part p).rcv.plan ++ s.ledgerRegion p) = none) :
    ∃ t, exec (.sachetCapture p []) s = .next t ∧ (t.part p).rcv.capture = none ∧
      (t.part p).rcv.sachets = (s.part p).rcv.sachets := by
  obtain ⟨y, hy⟩ := readRegions_ctr hc (.inl rfl) ((s.part p).rcv.plan ++ s.ledgerRegion p)
  have he := sachetCapture_sends hc h0 hq hgood hy
  rw [sendSachet_none (s := { s with ctr := y }) h1 hb h2] at he
  generalize hv : State.count { s with ctr := y } (partCounters p) ctrAbandoned 1 = v at he
  have hpart : v.part p = s.part p := by rw [← hv]; rfl
  have hvu : undisturbed v p := undisturbed_of (v := (s.part p).rcv) hu (by rw [← hv]; rfl) hpart ⟨rfl, rfl⟩
  have hvc : (v.part p).rcv.capture = some c := by rw [hpart]; exact hc
  have hend := endCapture_part hvc hn 0x7302
  dsimp only at he
  rw [if_pos (by rw [hend]; rfl), endCapture_sachetEnded hvu hvc hn] at he
  rw [he]
  refine ansE (fun t kt _ => ?_)
  rw [part_of (kt .parts (by decide)), hend, hpart]
  exact ⟨rfl, rfl⟩

/-- A capture that meets a block that does not match ends, and the block is queued (R235). -/
theorem sachetCapture_queues (hu : undisturbed s p) (hn : c.cmds = []) {faults : List BlockFault} {a : Nat}
    (hbad : s.badBlock p faults ((s.part p).rcv.plan ++ s.ledgerRegion p) = some a)
    (hroom : roomFor s (blockErr ((s.place p a).getD 0) p)) :
    ∃ t, exec (.sachetCapture p faults) s = .next t ∧ (t.part p).rcv.capture = none ∧
      queued s t (blockErr ((s.place p a).getD 0) p) := by
  obtain ⟨y, hy⟩ := readRegions_ctr hc (.inr hn) ((s.part p).rcv.plan ++ s.ledgerRegion p)
  obtain ⟨hk, hqueued⟩ := raiseBlock_queued (s := { s with ctr := y }) (p := p) (a := a) 2 0 (roomFor_of hroom rfl rfl)
  have he := sachetCapture_fails hc h0 hq hbad hy
  generalize State.raiseBlock { s with ctr := y } p a 2 = v at he hk hqueued
  have hpart : v.part p = s.part p := part_of (hk .parts (by decide)) p
  have hvu : undisturbed (v.count (partCounters p) ctrAbandoned 1) p :=
    undisturbed_of (v := (s.part p).rcv) hu (hk .streams (by decide)) hpart ⟨rfl, rfl⟩
  have hvc : ((v.count (partCounters p) ctrAbandoned 1).part p).rcv.capture = some c :=
    (congrArg (fun q : Machine.Part => q.rcv.capture) hpart).trans hc
  rw [endCapture_sachetEnded hvu hvc hn] at he
  rw [he]
  refine ansE (fun t kt hqt => ⟨?_, queued_settled (x := _) ?_ t hqt⟩)
  · rw [part_of (kt .parts (by decide)), endCapture_part hvc hn]
  · rw [show (State.endCapture _ _ _).errq = _ from endCapture_only hvc hn 0x2201 .errq (by decide)]
    exact hqueued
end

/-! ### Sachets that land (R304 step 5, R307, R309) -/

/-- The record of a sachet that has landed in a tier, of a partition outside any group. -/
def landedCopy (x : Sachet) (tier : Nat) : Sachet :=
  { x with landed := true, tier1 := tier == 1, tier2 := tier == 2, committed := true }

/-- What a landing leaves of partition p of s, when the sachet x of the capture c has landed. -/
structure landedIn (s t : State) (p : Nat) (c : Capture) (x : Sachet) : Prop where
  capture : (t.part p).rcv.capture = none
  force : (t.part p).rcv.force = false
  newest : (t.part p).rcv.sachets.head? = some (landedCopy x c.tier)
  landed : t.val (0x3020 + 256 * p) 0x10 = le 8 x.id
  committed : t.val (0x3020 + 256 * p) 0x11 = le 8 x.id
  factory : t.factory = s.factory

section
variable {s : State} {p : Nat}

theorem pruneSachets_part (s : State) (p : Nat) : (s.pruneSachets p).part p = { s.part p with rcv := { (s.part p).rcv with
    sachets := (s.part p).rcv.sachets.filter (fun x => x.tier1 || x.tier2 || x.tier3) } } := part_modRcv s p _

/-- An entry that was written reads as it was written (R369). -/
theorem val_found {i j : Nat} {bs : List Byte} (h : Tab.find s.vals (i * 256 + j) = some bs) : s.val i j = bs := by
  unfold State.val
  rw [h]
  rfl

/-- The entries that a landing in a tier writes, at the partition's restore point i. -/
def landingVals (vals : Tab (List Byte)) (i : Nat) (id : List Byte) (tier : Nat) : Tab (List Byte) :=
  let written := Tab.set (Tab.set vals (i * 256 + 0x10) id) (i * 256 + 0x11) id
  if tier = 2 then Tab.set written (i * 256 + 0x12) id else written

theorem find_landingVals (vals : Tab (List Byte)) (i : Nat) (id : List Byte) (tier : Nat) :
    Tab.find (landingVals vals i id tier) (i * 256 + 0x10) = some id ∧
      Tab.find (landingVals vals i id tier) (i * 256 + 0x11) = some id := by
  have hlanded : Tab.find (Tab.set (Tab.set vals (i * 256 + 0x10) id) (i * 256 + 0x11) id) (i * 256 + 0x10) = some id := by
    rw [tab_find_set_other _ _ _ _ (by omega), tab_find_set_same]
  have hcommitted : Tab.find (Tab.set (Tab.set vals (i * 256 + 0x10) id) (i * 256 + 0x11) id) (i * 256 + 0x11) = some id :=
    tab_find_set_same _ _ _
  unfold landingVals
  dsimp only
  split
  · exact ⟨(tab_find_set_other _ _ _ _ (by omega)).trans hlanded, (tab_find_set_other _ _ _ _ (by omega)).trans hcommitted⟩
  · exact ⟨hlanded, hcommitted⟩

/-- A filter that keeps the first element keeps it first. -/
theorem head_filter {α : Type} {l : List α} {y : α} {f : α → Bool} (hl : l.head? = some y) (hf : f y = true) :
    (l.filter f).head? = some y := by
  obtain ⟨k, rfl⟩ := List.head?_eq_some_iff.mp hl
  rw [List.filter_cons_of_pos hf]
  rfl

theorem landSachet_lands {c : Capture} {x : Sachet} (hc : (s.part p).rcv.capture = some c) (hx : c.sachet = some x)
    (ht : c.tier = 1 ∨ c.tier = 2) (hn : c.cmds = []) (hu : undisturbed s p) (hg : s.grouped p = false)
    (hrel : (s.part p).binding.release = none) : landedIn s (s.landSachet p) p c x := by
  have hfactory : (s.landSachet p).factory = s.factory := (path_landSachet (ks := [.vals, .log, .errq, .parts, .queues, .sites,
    .mem, .hbm, .streams, .ctr, .colls, .credits, .fetches, .xfers, .kports, .tfb, .boot, .outs, .free, .nor]) p (by decide)
    (path_refl _ s)).frame .factory (by decide)
  revert hfactory
  unfold State.landSachet
  simp -zeta only [hc, hx]
  extract_lets g y i v1 v2 v3 v4 v5 b v6 v7 v8
  intro hfactory
  have hy : y = landedCopy x c.tier := by simp only [y, g, hg, landedCopy, Bool.not_false]
  have hv3 : v3 = v2.setVal i 0x11 (le 8 y.id) := if_neg (by simp only [g, hg]; decide)
  have hparts : v5.parts = v1.parts := by
    simp only [v5, v4, hv3]
    split <;> rfl
  obtain ⟨r, hv1, hcap, hforce, hsachets, hsame⟩ : ∃ r, v1.part p = { s.part p with rcv := r } ∧ r.capture = some c ∧
      r.force = false ∧ r.sachets.head? = some y ∧ sameWork (s.part p).rcv r := by
    refine ⟨_, part_modRcv s p _, hc, rfl, rfl, ?_, rfl⟩
    show Option.map _ (s.part p).rcv.rollback = _
    rw [hu.noRollback]
    rfl
  have hv5 : v5.part p = { s.part p with rcv := r } := (part_of hparts p).trans hv1
  have hv6 : v6 = v5 := by
    have hb : b.release = none := by simp only [b, hv5, hrel]
    simp only [v6, hb]
  have hv7 : v7 = v5 := by
    simp only [v7, hv6]
    rw [hv5, hu.running]
    exact if_neg (fun h => nomatch h.1)
  have hv8 : v8.part p = { s.part p with rcv := r } := (congrArg (fun u : State => u.part p) hv7).trans hv5
  have hstreams : v8.streams = s.streams := by
    show v7.streams = _
    rw [hv7]
    simp only [v5, v4, hv3]
    split <;> rfl
  have hvals : v8.vals = v4.vals := show v7.vals = v5.vals from congrArg State.vals hv7
  have hid : y.id = x.id := by rw [hy]; rfl
  have hfound : Tab.find v4.vals (i * 256 + 0x10) = some (le 8 x.id) ∧ Tab.find v4.vals (i * 256 + 0x11) = some (le 8 x.id) := by
    have h4 : v4.vals = landingVals s.vals i (le 8 x.id) c.tier := by
      simp only [v4, hv3, hid, landingVals]
      split
      · exact congrArg (fun b => Tab.set (Tab.set (Tab.set s.vals _ b) _ b) _ _) (congrArg (le 8) hid)
      · exact congrArg (fun b => Tab.set (Tab.set s.vals _ b) _ _) (congrArg (le 8) hid)
    rw [h4]
    exact find_landingVals _ _ _ _
  have hprune := pruneSachets_part v8 p
  rw [hv8] at hprune
  have hund : undisturbed (v8.pruneSachets p) p := undisturbed_of hu hstreams hprune hsame
  have hcapture : ((v8.pruneSachets p).part p).rcv.capture = some c := by rw [hprune]; exact hcap
  rw [endCapture_sachetEnded hund hcapture hn] at hfactory ⊢
  have hpart := endCapture_part hcapture hn 0
  have hval : ((v8.pruneSachets p).endCapture p 0).vals = v4.vals :=
    (endCapture_only hcapture hn 0 .vals (by decide)).trans hvals
  rw [hprune] at hpart
  refine ⟨by rw [hpart], by rw [hpart]; exact hforce, ?_, ?_, ?_, hfactory⟩
  · rw [hpart]
    dsimp only
    have hcopy : (y.tier1 || y.tier2 || y.tier3) = true := by
      rw [hy]
      rcases ht with ht | ht <;> simp [landedCopy, ht]
    rw [head_filter hsachets hcopy, hy]
  · exact val_found (hval ▸ hfound.1)
  · exact val_found (hval ▸ hfound.2)

/-- A landing whose blocks are not all confirmed goes on. -/
theorem sachetLanded_waits (h : s.allConfirmed p = false) :
    ∃ t, exec (.sachetLanded p) s = .next t ∧ onlyChanges [.errq, .journal] s t := by
  have he : exec (.sachetLanded p) s = answer s s := congrArg (answer s) (if_neg (by rw [h]; decide))
  rw [he]
  exact answer_only (only_refl [] s)

/-- A sachet whose blocks are all confirmed has landed, and outside a group it is committed (R309). -/
theorem sachetLanded_lands (h : s.allConfirmed p = true) {c : Capture} {x : Sachet} (hc : (s.part p).rcv.capture = some c)
    (hx : c.sachet = some x) (ht : c.tier = 1 ∨ c.tier = 2) (hn : c.cmds = []) (hu : undisturbed s p)
    (hg : s.grouped p = false) (hrel : (s.part p).binding.release = none) :
    ∃ t, exec (.sachetLanded p) s = .next t ∧ (t.part p).rcv.capture = none ∧ (t.part p).rcv.force = false ∧
      (t.part p).rcv.sachets.head? =
        some { x with landed := true, tier1 := c.tier == 1, tier2 := c.tier == 2, committed := true } ∧
      t.val (0x3020 + 256 * p) 0x10 = le 8 x.id ∧ t.val (0x3020 + 256 * p) 0x11 = le 8 x.id := by
  have hl := landSachet_lands hc hx ht hn hu hg hrel
  have he : exec (.sachetLanded p) s = answer s (s.landSachet p) := congrArg (answer s) (if_pos h)
  rw [he]
  refine ansF hl.factory (fun t kt _ hf => ?_)
  rw [part_of (kt .parts (by decide)), val_of (kt .vals (by decide)) hf, val_of (kt .vals (by decide)) hf]
  exact ⟨hl.capture, hl.force, hl.newest, hl.landed, hl.committed⟩

/-! ### Copies in the tiers behind (R307, R328) -/

/-- Without a copy that can be read, tier 2 takes nothing. -/
theorem tier2WriteDone_none (h : s.tierSource p (s.part p).rcv.tier2Next false = none) :
    ∃ t, exec (.tier2WriteDone p) s = .next t ∧ onlyChanges [.parts, .errq, .journal] s t ∧
      (t.part p).rcv = { (s.part p).rcv with tier2Next := none } := by
  have he : exec (.tier2WriteDone p) s = answer s (s.modRcv p (fun r => { r with tier2Next := none })) := by
    show execTier2WriteDone p s = _
    unfold execTier2WriteDone
    rw [h]
  rw [he]
  refine ansK (path_modRcv (ks := [.parts]) p _ (by decide) (path_refl _ s)).frame (by decide) (fun t kt _ => ?_)
  rw [part_of (kt .parts (by decide)), part_modRcv]

/-- The record of a partition once flash holds the copy of y alone. -/
def flashRcv (y : Sachet) (r : Recovery) : Recovery :=
  { r with tier2Next := none, sachets := r.sachets.map (fun x => { x with tier2 := x.id == y.id }) }

/-- Flash keeps the newest complete copy alone. -/
theorem tier2WriteDone_copies {y : Sachet} (h : s.tierSource p (s.part p).rcv.tier2Next false = some y) :
    ∃ t, exec (.tier2WriteDone p) s = .next t ∧ (t.part p).rcv.tier2Next = none ∧
      t.val (0x3020 + 256 * p) 0x12 = le 8 y.id ∧ ∀ x, x ∈ (t.part p).rcv.sachets → x.tier2 = (x.id == y.id) := by
  generalize hu : ((s.modRcv p (flashRcv y)).setVal (0x3020 + 256 * p) 0x12 (le 8 y.id)).count (partCounters p)
    (ctrLandedTier 2) 1 = u
  have he : exec (.tier2WriteDone p) s = answer s (u.pruneSachets p) := by
    show execTier2WriteDone p s = _
    unfold execTier2WriteDone
    rw [h, ← hu]
    rfl
  have hpart : u.part p = { s.part p with rcv := flashRcv y (s.part p).rcv } := by
    rw [← hu]
    exact part_modRcv s p (flashRcv y)
  have hval : Tab.find (u.pruneSachets p).vals ((0x3020 + 256 * p) * 256 + 0x12) = some (le 8 y.id) := by
    rw [← hu]
    exact tab_find_set_same _ _ _
  have hfac : (u.pruneSachets p).factory = s.factory := by
    rw [← hu]
    rfl
  rw [he]
  refine ansF hfac (fun t kt _ hf => ?_)
  rw [part_of (kt .parts (by decide)), val_of (kt .vals (by decide)) hf, pruneSachets_part, hpart]
  refine ⟨rfl, val_found hval, fun x hx => ?_⟩
  obtain ⟨z, -, rfl⟩ := List.mem_map.mp (List.mem_filter.mp hx).1
  rfl

/-- The image of a sachet may go to the store: unsealed outside Sealed, else under the store's key (R55, R408). -/
def storeOpen (s : State) (p : Nat) : Prop :=
  s.pval p 0x20 7 = 0 ∧ s.secState ≠ 2 ∨ s.pval p 0x20 7 ≠ 0 ∧ s.hasKey p 3 (s.pval p 0x20 7) = true

/-- The record of partition p once the image of y has gone to the store in n messages. -/
def storedRcv (y : Sachet) (n : Nat) (r : Recovery) : Recovery :=
  { r with
    tier3Next := none, sachets := r.sachets.map (fun x => { x with tier3 := x.tier3 || x.id == y.id })
    store := { r.store with credits := r.store.credits - n, seq := (r.store.seq + n) % 2 ^ 32, ctr := r.store.ctr + n } }

section
variable {y : Sachet} (h : s.tierSource p (s.part p).rcv.tier3Next true = some y) (hsec : s.boot.secFailed = false)
include h hsec

/-- An image that may go to the store waits for its credits. -/
theorem tier3WriteDone_open (hopen : storeOpen s p) : exec (.tier3WriteDone p) s = answer s
    (if (s.part p).rcv.store.credits < s.storeMessages p y then s
    else ((({ s with outs := (List.range (s.storeMessages p y)).reverse.map (s.storeMessage p y) ++ s.outs } : State).modRcv p
      (storedRcv y (s.storeMessages p y))).setVal (0x3020 + 256 * p) 0x13 (le 8 y.id)).count (partCounters p) (ctrLandedTier 3) 1) := by
  have hplain : ¬(s.pval p 0x20 7 = 0 ∧ s.secState = 2) := by
    rintro ⟨h0, h2⟩
    rcases hopen with ⟨-, ho⟩ | ⟨ho, -⟩
    · exact ho h2
    · exact ho h0
  have hkey : ¬(s.pval p 0x20 7 ≠ 0 ∧ (!s.hasKey p 3 (s.pval p 0x20 7)) = true) := by
    rintro ⟨h0, hk⟩
    rcases hopen with ⟨ho, -⟩ | ⟨-, ho⟩
    · exact h0 ho
    · rw [ho] at hk
      cases hk
  show execTier3WriteDone p s = _
  unfold execTier3WriteDone
  rw [h]
  dsimp only
  rw [hsec, if_neg (by decide), if_neg hplain, if_neg hkey]
  rfl

/-- The store takes the image of a sachet under its credits (R307, R328; log 110). -/
theorem tier3WriteDone_copies (hopen : storeOpen s p) (hcred : s.storeMessages p y ≤ (s.part p).rcv.store.credits) :
    ∃ t, exec (.tier3WriteDone p) s = .next t ∧ (t.part p).rcv.tier3Next = none ∧
      t.val (0x3020 + 256 * p) 0x13 = le 8 y.id ∧
      t.outs = (List.range (s.storeMessages p y)).reverse.map (s.storeMessage p y) ++ s.outs ∧
      (t.part p).rcv.store.credits = (s.part p).rcv.store.credits - s.storeMessages p y ∧
      ∀ x, x ∈ (t.part p).rcv.sachets → x.id = y.id → x.tier3 = true := by
  generalize hw : ({ s with outs := (List.range (s.storeMessages p y)).reverse.map (s.storeMessage p y) ++ s.outs } : State) = w
  generalize hu : ((w.modRcv p (storedRcv y (s.storeMessages p y))).setVal (0x3020 + 256 * p) 0x13 (le 8 y.id)).count
    (partCounters p) (ctrLandedTier 3) 1 = u
  have he := tier3WriteDone_open h hsec hopen
  rw [if_neg (by omega), hw, hu] at he
  have hpart : u.part p = { s.part p with rcv := storedRcv y (s.storeMessages p y) (s.part p).rcv } := by
    rw [← hu, ← hw]
    exact part_modRcv _ p _
  have hval : Tab.find u.vals ((0x3020 + 256 * p) * 256 + 0x13) = some (le 8 y.id) := by
    rw [← hu]
    exact tab_find_set_same _ _ _
  have houts : u.outs = w.outs ∧ u.factory = w.factory := by
    rw [← hu]
    exact ⟨rfl, rfl⟩
  rw [he]
  refine ansF (houts.2.trans (by rw [← hw])) (fun t kt _ hf => ?_)
  rw [part_of (kt .parts (by decide)), val_of (kt .vals (by decide)) hf, hpart]
  refine ⟨rfl, val_found hval, (kt .outs (by decide) : t.outs = u.outs).trans (houts.1.trans (by rw [← hw])), rfl, ?_⟩
  intro x hx hid
  obtain ⟨z, -, rfl⟩ := List.mem_map.mp hx
  simp only [Bool.or_eq_true, beq_iff_eq]
  exact .inr hid

/-- Until the store has given enough credits, nothing is sent. -/
theorem tier3WriteDone_waits (hopen : storeOpen s p) (hcred : (s.part p).rcv.store.credits < s.storeMessages p y) :
    ∃ t, exec (.tier3WriteDone p) s = .next t ∧ onlyChanges [.errq, .journal] s t := by
  have he := tier3WriteDone_open h hsec hopen
  rw [if_pos hcred] at he
  rw [he]
  exact answer_only (only_refl [] s)

/-- Without its key, or unsealed in Sealed, the image is not sent (R55, R408). -/
theorem tier3WriteDone_refused {st : Nat} (hst : s.pval p 0x20 7 = 0 ∧ s.secState = 2 ∧ st = 0x5101 ∨
      s.pval p 0x20 7 ≠ 0 ∧ s.hasKey p 3 (s.pval p 0x20 7) = false ∧ st = 0x5104)
    (hroom : roomFor s { status := st, part := p }) :
    ∃ t, exec (.tier3WriteDone p) s = .next t ∧ (t.part p).rcv.tier3Next = none ∧ queued s t { status := st, part := p } := by
  have he : exec (.tier3WriteDone p) s = answer s ((s.modRcv p (fun r => { r with tier3Next := none })).note p st) := by
    show execTier3WriteDone p s = _
    unfold execTier3WriteDone
    rw [h]
    dsimp only
    rw [hsec, if_neg (by decide)]
    rcases hst with ⟨h0, h2, rfl⟩ | ⟨h0, hk, rfl⟩
    · rw [if_pos ⟨h0, h2⟩]
    · rw [if_neg (fun h => h0 h.1), if_pos ⟨h0, by rw [hk]; rfl⟩]
  obtain ⟨hk, hq⟩ := raise_room (s := s.modRcv p (fun r => { r with tier3Next := none }))
    (room_of hroom rfl (fun k _ => mod_state s p k _ (fun _ => rfl)))
  rw [he]
  refine ansE (fun t kt hqt => ⟨?_, queued_settled hq t hqt⟩)
  rw [part_of (kt .parts (by decide)), part_of (show (State.note _ p st).parts = _ from hk .parts (by decide)), part_modRcv]
end
end

/-! ### Restores (R306, R310, R312) -/

section
variable {s : State} {p : Nat}

theorem restoreRegions_only (s : State) (p : Nat) (x : Sachet) (l : List (Nat × Nat)) :
    onlyChanges [.mem, .hbm, .ctr] s (s.restoreRegions p x l) :=
  (path_restoreRegions (ks := [.mem, .hbm, .ctr]) p x l (by decide) (path_refl _ s)).frame

theorem wideAll_only (s : State) (p : Nat) : onlyChanges [.sites, .pendingSrc] s (s.wideAll p) :=
  (path_wideAll (ks := [.sites, .pendingSrc]) p (by decide) (path_refl _ s)).frame

theorem lapseChive_only (s : State) (p : Nat) : onlyChanges [.parts] s (s.lapseChive p) :=
  (path_lapseChive (ks := [.parts]) p (by decide) (path_refl _ s)).frame

theorem lapseChive_part (s : State) (p : Nat) : ∃ l, (s.lapseChive p).part p = { s.part p with chive := l } :=
  ⟨_, part_modPart s p _⟩

theorem restoreSchedule_only (s : State) (p : Nat) (x : Sachet) (whole : Bool) : onlyChanges [.parts] s (s.restoreSchedule p x whole) :=
  (path_modPart (ks := [.parts]) p _ (by decide) (path_refl _ s)).frame

/-- s with sachet x back in the slice of partition p, its schedule section restored and its clusters wide (R310). -/
def putBack (s : State) (p : Nat) (x : Sachet) : State :=
  (((s.restoreRegions p x (s.ledgerRegion p)).restoreSchedule p x true).wideAll p).lapseChive p

theorem putBack_only (s : State) (p : Nat) (x : Sachet) :
    onlyChanges [.mem, .hbm, .ctr, .parts, .sites, .pendingSrc] s (putBack s p x) :=
  only_trans (only_mono (restoreRegions_only s p x _) (by decide)) (only_trans (only_mono (restoreSchedule_only _ p x true) (by decide))
    (only_trans (only_mono (wideAll_only _ p) (by decide)) (only_mono (lapseChive_only _ p) (by decide))))

/-- The recovery record of a partition with the schedule section of x restored. -/
def rewoundRcv (x : Sachet) (r : Recovery) : Recovery :=
  { r with steps := x.sched.steps, written := x.sched.written, sinceLast := 0, dirty := false }

theorem putBack_part (s : State) (p : Nat) (x : Sachet) : ∃ l, (putBack s p x).part p = { s.part p with
    fences := { closed := x.sched.closed }, laneDone := x.sched.lanes, rcv := rewoundRcv x (s.part p).rcv, chive := l } := by
  have h1 := part_of (restoreRegions_only s p x (s.ledgerRegion p) .parts (by decide)) p
  have h2 := part_modPart (s.restoreRegions p x (s.ledgerRegion p)) p (fun q => { q with
    fences := { closed := x.sched.closed }, laneDone := x.sched.lanes, rcv := rewoundRcv x q.rcv })
  have h3 := part_of (wideAll_only ((s.restoreRegions p x (s.ledgerRegion p)).restoreSchedule p x true) p .parts (by decide)) p
  rw [h1] at h2
  obtain ⟨l, h4⟩ := lapseChive_part (((s.restoreRegions p x (s.ledgerRegion p)).restoreSchedule p x true).wideAll p) p
  rw [h3.trans h2] at h4
  exact ⟨l, h4⟩

theorem rewindStreams_unbound (h : s.boundStreams p = []) (x : Sachet) : s.rewindStreams p x = s := by
  unfold State.rewindStreams
  rw [h]
  rfl

/-- s with the restore of partition p's rollback done. -/
def restoreDone (s : State) (p : Nat) (x : Sachet) : State :=
  (putBack s p x).modRcv p (fun r => { r with rollback := r.rollback.map (fun b => { b with restored := true }) })

theorem restoreDone_only (s : State) (p : Nat) (x : Sachet) :
    onlyChanges [.mem, .hbm, .ctr, .parts, .sites, .pendingSrc] s (restoreDone s p x) :=
  only_trans (putBack_only s p x) (only_mono (path_modRcv (ks := [.parts]) p _ (by decide) (path_refl _ _)).frame (by decide))

theorem restoreDone_part {b : Rollback} (hb : (s.part p).rcv.rollback = some b) (x : Sachet) :
    ∃ l, (restoreDone s p x).part p = { s.part p with
      fences := { closed := x.sched.closed }, laneDone := x.sched.lanes, chive := l
      rcv := { rewoundRcv x (s.part p).rcv with rollback := some { b with restored := true } } } := by
  obtain ⟨l, hl⟩ := putBack_part s p x
  refine ⟨l, (part_modRcv _ p _).trans ?_⟩
  rw [hl]
  simp only [rewoundRcv, hb, Option.map_some]

/-- The restore of a rollback to tier 2 puts the sachet back; the rollback ends where no fill holds it (R310, R315). -/
theorem rollbackRestoreDone_restores {b : Rollback} {x : Sachet} (hb : (s.part p).rcv.rollback = some b)
    (hx : (s.part p).rcv.sachets.find? (fun y => b.target == some y.id) = some x) (hr : b.restored = false) (ht : b.tier = 2)
    (hbound : s.boundStreams p = []) :
    exec (.rollbackRestoreDone p) s = answer s ((restoreDone s p x).finishRollback p) := by
  have hunbound : (putBack s p x).boundStreams p = [] := (bound_of (putBack_only s p x .streams (by decide)) p).trans hbound
  show execRollbackRestoreDone p s = _
  unfold execRollbackRestoreDone
  dsimp only
  rw [hb]
  dsimp only
  rw [hx]
  dsimp only
  rw [if_neg (by rw [hr]; decide), if_neg (fun h => absurd (ht.symm.trans h.1) (by decide))]
  show answer s (State.finishRollback (State.modRcv (State.rewindStreams (putBack s p x) p x) p _) p) = _
  rw [rewindStreams_unbound hunbound]
  rfl

/-- A rollback whose fills are not done waits for them. -/
theorem finishRollback_waits (h : (s.part p).rcv.fills ≠ []) : s.finishRollback p = s := by
  unfold State.finishRollback
  dsimp only
  split
  · rfl
  · exact if_pos (by simp [h])

/-- A restore of one region without a ledger stores the region's bytes. -/
theorem restoreDone_stored (hm : memoryCanonical s) {x : Sachet} {a n : Nat} (hregions : x.regions = [(a, n)])
    (hledger : s.ledgerSize p = 0) :
    stored p a ((List.range n).map (fun i => Mem.get x.data (a + i))) s (restoreDone s p x) := by
  have hstore : s.restoreRegions p x (s.ledgerRegion p) = s.store p a ((List.range n).map (fun i => Mem.get x.data (a + i))) := by
    unfold State.restoreRegions State.ledgerRegion
    rw [hregions, if_pos hledger]
    rfl
  refine stored_mem (store_stored s p a _ hm) ?_
  rw [← hstore]
  exact (lapseChive_only _ p .mem (by decide)).trans ((wideAll_only _ p .mem (by decide)).trans rfl)

theorem rollbackRestoreDone_waits (hm : memoryCanonical s) {b : Rollback} {x : Sachet} (hb : (s.part p).rcv.rollback = some b)
    (hx : (s.part p).rcv.sachets.find? (fun y => b.target == some y.id) = some x) (hr : b.restored = false) (ht : b.tier = 2)
    {a n : Nat} (hregions : x.regions = [(a, n)]) (hledger : s.ledgerSize p = 0) (hfills : (s.part p).rcv.fills ≠ [])
    (hbound : s.boundStreams p = []) :
    ∃ t, exec (.rollbackRestoreDone p) s = .next t ∧ (t.part p).rcv.rollback = some { b with restored := true } ∧
      stored p a ((List.range n).map (fun i => Mem.get x.data (a + i))) s t ∧
      (t.part p).fences.closed = x.sched.closed ∧ (t.part p).laneDone = x.sched.lanes := by
  obtain ⟨l, hpart⟩ := restoreDone_part hb x
  rw [rollbackRestoreDone_restores hb hx hr ht hbound, finishRollback_waits (by rw [hpart]; exact hfills)]
  refine ansE (fun t kt _ => ?_)
  rw [part_of (kt .parts (by decide)), hpart]
  exact ⟨rfl, stored_mem (restoreDone_stored hm hregions hledger) (kt .mem (by decide)), rfl, rfl⟩

/-! ### The end of a rollback (R310, R319) -/

theorem reducedRows_of {t : State} (hp : (t.part p).rowList = (s.part p).rowList) (hs : t.siteState = s.siteState)
    (hf : t.factory = s.factory) : t.reducedRows p = s.reducedRows p := by
  unfold State.reducedRows State.activeSites State.siteSt State.grade
  rw [hp, hs, hf]

theorem part_setVal (s : State) (i j : Nat) (bs : List Byte) (p : Nat) : (s.setVal i j bs).part p = s.part p := rfl

theorem selectPlan_part (s : State) (p plan : Nat) (words : List Nat) :
    (s.selectPlan p plan words).part p = { s.part p with rcv := { (s.part p).rcv with selected := plan } } := by
  unfold State.selectPlan
  dsimp only
  split
  · exact part_modRcv s p (fun r => { r with selected := plan })
  · exact part_modRcv s p (fun r => { r with selected := plan })

/-- A rollback has ended: the partition runs again from its target. -/
structure rolledBack (s t : State) (p target : Nat) : Prop where
  rollback : (t.part p).rcv.rollback = none
  last : (t.part p).rcv.lastRollback = target
  consuming : (t.part p).rings.consuming = true
  running : (t.part p).state = .running
  value : t.val (0x3080 + 256 * p) 2 = le 8 target
  factory : t.factory = s.factory

/-- s with the rollback of partition p ended at its target: the partition consumes again. -/
def ended (s : State) (p target : Nat) : State :=
  (((s.modRcv p (fun r => { r with rollback := none, lastRollback := target })).setVal (0x3080 + 256 * p) 2 (le 8 target)).out
    (.msix (p + 1) 1)).modRings p (fun r => { r with consuming := true })

theorem ended_part (s : State) (p target : Nat) : (ended s p target).part p = { s.part p with
    rcv := { (s.part p).rcv with rollback := none, lastRollback := target }
    rings := { (s.part p).rings with consuming := true } } := by
  unfold ended
  rw [part_modRings, part_out, part_setVal, part_modRcv]

theorem ended_val (s : State) (p target : Nat) : (ended s p target).val (0x3080 + 256 * p) 2 = le 8 target :=
  val_found (tab_find_set_same s.vals (le 8 target) _)

theorem ended_factory (s : State) (p target : Nat) : (ended s p target).factory = s.factory := rfl

/-- A rollback that is restored, in a partition that lost nothing for good, ends in plan 0. -/
theorem finishRollback_done {b : Rollback} (hb : (s.part p).rcv.rollback = some b) (hr : b.restored = true)
    (hfills : (s.part p).rcv.fills = []) (hrows : s.reducedRows p = []) (hlost : (s.part p).rcv.lost = [])
    (hrun : (s.part p).state = .running) : rolledBack s (s.finishRollback p) p (b.target.getD 0) := by
  have hx : s.finishRollback p = ended ((s.lapseChive p).selectPlan p 0 [0, 0, 0, 0]) p (b.target.getD 0) := by
    unfold State.finishRollback
    dsimp only
    rw [hb]
    dsimp only
    rw [hr, hfills, hrows, hlost, hrun, if_neg (by decide), if_neg (by decide)]
    dsimp only
    rw [if_pos rfl]
    rfl
  obtain ⟨l, hl⟩ := lapseChive_part s p
  have hpart := (selectPlan_part (s.lapseChive p) p 0 [0, 0, 0, 0]).trans (by rw [hl])
  rw [hx]
  have hend := ended_part ((s.lapseChive p).selectPlan p 0 [0, 0, 0, 0]) p (b.target.getD 0)
  rw [hpart] at hend
  have hplan : onlyChanges [.vals, .parts, .mem, .hbm] (s.lapseChive p) ((s.lapseChive p).selectPlan p 0 [0, 0, 0, 0]) :=
    (path_selectPlan p 0 [0, 0, 0, 0] (by decide) (path_refl _ _)).frame
  exact ⟨by rw [hend], by rw [hend], by rw [hend], by rw [hend]; exact hrun, ended_val _ p _,
    (ended_factory _ p _).trans (hplan .factory (by decide))⟩

theorem rollbackRestoreDone_ends {b : Rollback} {x : Sachet} (hb : (s.part p).rcv.rollback = some b)
    (hx : (s.part p).rcv.sachets.find? (fun y => b.target == some y.id) = some x) (hr : b.restored = false) (ht : b.tier = 2)
    (hfills : (s.part p).rcv.fills = []) (hbound : s.boundStreams p = []) (hrun : (s.part p).state = .running)
    (hrows : s.reducedRows p = []) (hlost : (s.part p).rcv.lost = []) :
    ∃ t, exec (.rollbackRestoreDone p) s = .next t ∧ (t.part p).rcv.rollback = none ∧ (t.part p).rcv.lastRollback = x.id ∧
      (t.part p).rings.consuming = true ∧ (t.part p).state = .running ∧ t.val (0x3080 + 256 * p) 2 = le 8 x.id := by
  have htarget : b.target = some x.id := by
    have h := List.find?_some hx
    exact eq_of_beq h
  have ho := restoreDone_only s p x
  obtain ⟨l, hpart⟩ := restoreDone_part hb x
  have hred : (restoreDone s p x).reducedRows p = [] :=
    (reducedRows_of (by rw [hpart]; rfl) (ho .siteState (by decide)) (ho .factory (by decide))).trans hrows
  have hdone := finishRollback_done (s := restoreDone s p x) (b := { b with restored := true }) (by rw [hpart]) rfl
    (by rw [hpart]; exact hfills) hred (by rw [hpart]; exact hlost) (by rw [hpart]; exact hrun)
  rw [show ({ b with restored := true } : Rollback).target.getD 0 = x.id from congrArg (fun o => o.getD 0) htarget] at hdone
  rw [rollbackRestoreDone_restores hb hx hr ht hbound]
  refine ansF (hdone.factory.trans (ho .factory (by decide))) (fun t kt _ hf => ?_)
  rw [part_of (kt .parts (by decide)), val_of (kt .vals (by decide)) hf]
  exact ⟨hdone.rollback, hdone.last, hdone.consuming, hdone.running, hdone.value⟩

/-! ### A Start from a sachet (R312) -/

theorem publishPlan_part (s : State) (p : Nat) :
    ∃ n, (s.publishPlan p).part p = { s.part p with rcv := { (s.part p).rcv with selected := n } } := by
  unfold State.publishPlan
  split
  · exact ⟨0, selectPlan_part s p 0 _⟩
  · split
    · exact ⟨_, selectPlan_part s p _ _⟩
    · exact ⟨_, rfl⟩

/-- Fresh rings are consumed. -/
theorem freshRings_part (s : State) (p : Nat) :
    ∃ (g : Rings) (l : Lease), (s.freshRings p).part p = { s.part p with rings := g, lease := l } ∧ g.consuming = true := by
  unfold State.freshRings
  extract_lets s1 r s2 s3
  have h1 := part_modRings s p (fun r => { r with
    sqTail := 0, sqHead := 0, cqHead := 0, cqTail := 0, cqHeldTail := 0, cqUsed := 0, heldN := 0, phase := 1
    irqPending := 0, consuming := true, held := false })
  have h2 : s2.part p = s1.part p := rfl
  have h3 := part_modLease s2 p (fun _ => { startGen := s2.layoutGen })
  obtain ⟨b, h4⟩ := part_arm s3 p
  rw [h3, h2, h1] at h4
  exact ⟨_, _, (part_sync (s3.armLease p) p p).trans h4, rfl⟩

/-- What a run that begins, with a sachet put back, leaves of its partition. -/
theorem beginRun_runs (s : State) (p : Nat) (x : Sachet) : ((s.beginRun p (some x)).part p).state = .running ∧
    ((s.beginRun p (some x)).part p).rcv.startRestore = none ∧ ((s.beginRun p (some x)).part p).rings.consuming = true := by
  unfold State.beginRun
  extract_lets first s1 s2 s3 s4
  have h2 : (s2.part p).rcv.startRestore = none := congrArg (fun q : Machine.Part => q.rcv.startRestore) (part_modPart s1 p _)
  have h3 : (s3.part p).rcv.startRestore = none := (congrArg (fun q : Machine.Part => q.rcv.startRestore) (part_modPart s2 p _)).trans h2
  have h4 : s4.part p = s3.part p :=
    part_of ((path_moduleWrite (ks := [.vals, .log, .nor]) _ _ _ (by decide) (path_refl _ s3)).frame .parts (by decide)) p
  have h5 : ((s4.wideAll p).initLedger p).part p = s4.part p :=
    part_of (((path_initLedger (ks := [.mem, .hbm]) p (by decide) (path_refl _ (s4.wideAll p))).frame .parts (by decide)).trans
      (wideAll_only s4 p .parts (by decide))) p
  obtain ⟨g, l, h6, hg⟩ := freshRings_part ((s4.wideAll p).initLedger p) p
  obtain ⟨n, h7⟩ := publishPlan_part (((s4.wideAll p).initLedger p).freshRings p) p
  rw [h6, h5, h4] at h7
  rw [setPState_state, setPState_rcv, setPState_rings, h7]
  exact ⟨rfl, h3, hg⟩

theorem startRestoreDone_runs {x : Sachet} (hx : (s.part p).rcv.startRestore = some x) (hidle : (s.part p).state = .idle) :
    ∃ t, exec (.startRestoreDone p) s = .next t ∧ (t.part p).state = .running ∧ (t.part p).rcv.startRestore = none ∧
      (t.part p).rings.consuming = true := by
  have he : exec (.startRestoreDone p) s = answer s ((s.restoreRegions p x (s.ledgerRegion p)).beginRun p (some x)) := by
    show execStartRestoreDone p s = _
    unfold execStartRestoreDone
    rw [hx]
    dsimp only
    rw [if_pos hidle]
  rw [he]
  refine ansE (fun t kt _ => ?_)
  rw [part_of (kt .parts (by decide))]
  exact beginRun_runs _ p x
end

/-! ### Spare fills (R315, R317) -/

section
variable {s : State} {p : Nat}

/-- A change of a partition's recovery record is what it makes of the record there is. -/
theorem modRcv_congr {f g : Recovery → Recovery} (h : f (s.part p).rcv = g (s.part p).rcv) : s.modRcv p f = s.modRcv p g := by
  unfold State.modRcv State.modPart Tab.mod
  show { s with parts := Tab.set s.parts p { s.part p with rcv := f (s.part p).rcv } } = _
  rw [h]
  rfl

theorem finishRollback_none (h : (s.part p).rcv.rollback = none) : s.finishRollback p = s := by
  unfold State.finishRollback
  dsimp only
  rw [h]

/-- s with no fill left in partition p. -/
def unfilled (s : State) (p : Nat) : State := s.modRcv p (fun r => { r with fills := [] })

theorem unfilled_part (s : State) (p : Nat) :
    (unfilled s p).part p = { s.part p with rcv := { (s.part p).rcv with fills := [] } } := part_modRcv s p _

theorem unfilled_part_other (s : State) {p q : Nat} (h : q ≠ p) : (unfilled s p).part q = s.part q :=
  part_modPart_other s p q _ h

/-- s with the spare of a fill of partition p in the place of the failed site (R315 step 6). -/
def filled (s : State) (p : Nat) (f : Fill) : State :=
  let s := unfilled s p
  let s := State.mapChanged { s with siteState := Tab.set (Tab.set s.siteState f.failed f.mark) f.spare 0 }
  let s := (s.freshSite f.spare).modSite f.spare (fun x =>
    { x with k := if p < 4 then s.wakeK (s.part p).mode f.spare else 0 })
  s.count (partCounters p) ctrFills 1

/-- The entry of a spare of partition p that fails its self-test (R317). -/
def spareErr (p spare : Nat) : ErrSpec :=
  { status := 0x6403, part := if p < 4 then p else 0xFF, unitKind := 1, unit := siteUnit spare }

/-- s with the spare of a fill of partition p failed. -/
def spareFailed (s : State) (p : Nat) (f : Fill) : State :=
  let s := unfilled s p
  let s := State.mapChanged { s with siteState := Tab.set s.siteState f.spare 2 }
  (s.raise (spareErr p f.spare)).count (partCounters p) ctrFillFailures 1

/-- s once the self-test of the spare of the one fill f of partition p has ended, but for what goes on then. -/
def tested (s : State) (p : Nat) (f : Fill) (passed : Bool) : State :=
  if passed then filled s p f else (spareFailed s p f).takeSpare f.failed f.mark

/-- The fill of a spare that only partition p has is found there. -/
theorem spareTested_tested {f : Fill} (hp : p < 4) (hf : (s.part p).rcv.fills = [f])
    (hother : ∀ k < 5, k ≠ p → ∀ g ∈ (s.part k).rcv.fills, g.spare ≠ f.spare) (passed : Bool) :
    s.spareTested f.spare passed = ((tested s p f passed).finishRollback p).progress p := by
  have hfind : [0, 1, 2, 3, 4].find? (fun k => (s.part k).rcv.fills.any (fun g => g.spare == f.spare)) = some p := by
    have hmem : p ∈ [0, 1, 2, 3, 4] := by simp; omega
    have hany : (s.part p).rcv.fills.any (fun g => g.spare == f.spare) = true := by rw [hf]; simp
    obtain ⟨k, hk⟩ := Option.isSome_iff_exists.mp
      (List.find?_isSome (p := fun k => (s.part k).rcv.fills.any (fun g => g.spare == f.spare)).mpr ⟨p, hmem, hany⟩)
    have hany := List.find?_some hk
    obtain ⟨g, hg, hspare⟩ := List.any_eq_true.mp hany
    have hlt : k < 5 := by
      have := List.mem_of_find?_eq_some hk
      simp at this
      omega
    by_cases hkp : k = p
    · rw [hk, hkp]
    · exact absurd (eq_of_beq hspare) (hother k hlt hkp g hg)
  have hgone : s.modRcv p (fun r => { r with fills := r.fills.filter (fun g => g.spare != f.spare) }) = unfilled s p :=
    modRcv_congr (by rw [hf]; simp)
  unfold State.spareTested
  rw [hfind]
  dsimp -zeta only
  rw [hf, List.find?_singleton, if_pos (beq_self_eq_true f.spare)]
  dsimp -zeta only
  rw [hgone]
  unfold tested filled spareFailed spareErr
  cases passed with
  | true =>
    dsimp only
    rw [if_pos rfl, if_pos rfl]
  | false =>
    dsimp only
    rw [if_neg Bool.false_ne_true, if_neg Bool.false_ne_true]
end

section
variable {s : State} {p : Nat} {f : Fill}

/-- A partition that runs, without a rollback and without streams, goes on after a self-test as it stands. -/
theorem spareSelfTestDone_tested (hp : p < 4) (hf : (s.part p).rcv.fills = [f])
    (hother : ∀ k < 5, k ≠ p → ∀ g ∈ (s.part k).rcv.fills, g.spare ≠ f.spare) (hcommit : s.commitWait = none) {passed : Bool}
    (hrun : ((tested s p f passed).part p).state = .running) (hroll : ((tested s p f passed).part p).rcv.rollback = none)
    (hbound : (tested s p f passed).boundStreams p = []) :
    exec (.spareSelfTestDone f.spare passed) s = answer s (tested s p f passed) := by
  have htested := spareTested_tested hp hf hother passed
  rw [finishRollback_none hroll, still hrun hbound] at htested
  have hwait : (s.spareTested f.spare passed).commitWait = none :=
    ((path_spareTested (ks := [.vals, .errq, .parts, .queues, .sites, .siteState, .spareGen, .spareTime, .mem, .hbm, .streams,
      .ctr, .colls, .credits, .fetches, .xfers, .tfb, .boot, .outs, .free]) f.spare passed (by decide) (path_refl _ s)).frame
      .commitWait (by decide)).trans hcommit
  show answer s (s.spareTested f.spare passed).retryLayout = _
  unfold State.retryLayout
  rw [hwait, htested]

theorem freshSite_only (s : State) (i : Nat) : onlyChanges [.sites, .mem, .hbm] s (s.freshSite i) :=
  (path_freshSite (ks := [.sites, .mem, .hbm]) i (by decide) (path_refl _ s)).frame

/-- The state in which the spare map says that the self-test has ended. -/
def remapped (s : State) (p : Nat) (m : Tab Nat) : State := State.mapChanged { unfilled s p with siteState := m }

theorem filled_only (s : State) (p : Nat) (f : Fill) : onlyChanges [.sites, .mem, .hbm, .ctr]
    (remapped s p (Tab.set (Tab.set s.siteState f.failed f.mark) f.spare 0)) (filled s p f) :=
  (path_count (ks := [.sites, .mem, .hbm, .ctr]) _ _ _ (by decide) (path_modSite _ _ (by decide)
    (path_freshSite _ (by decide) (path_refl _ _)))).frame

/-- A spare that passes its self-test takes the failed site's place (R315). -/
theorem spareSelfTestDone_fills (hp : p < 4) (hf : (s.part p).rcv.fills = [f])
    (hother : ∀ k < 5, k ≠ p → ∀ g ∈ (s.part k).rcv.fills, g.spare ≠ f.spare) (hne : f.failed ≠ f.spare)
    (hrun : (s.part p).state = .running) (hroll : (s.part p).rcv.rollback = none) (hbound : s.boundStreams p = [])
    (hcommit : s.commitWait = none) :
    ∃ t, exec (.spareSelfTestDone f.spare true) s = .next t ∧ t.siteSt f.failed = f.mark ∧ t.siteSt f.spare = 0 ∧
      t.spareGen = s.spareGen + 1 ∧ (t.part p).rcv.fills = [] := by
  have ho := filled_only s p f
  have htested : tested s p f true = filled s p f := if_pos rfl
  have hpart : (filled s p f).part p = { s.part p with rcv := { (s.part p).rcv with fills := [] } } :=
    (part_of (ho .parts (by decide)) p).trans (unfilled_part s p)
  have he := spareSelfTestDone_tested (passed := true) hp hf hother hcommit (by rw [htested, hpart]; exact hrun)
    (by rw [htested, hpart]; exact hroll) ((bound_of (htested ▸ ho .streams (by decide)) p).trans hbound)
  rw [he, htested]
  refine ansE (fun t kt _ => ⟨?_, ?_, (kt .spareGen (by decide)).trans (ho .spareGen (by decide)), ?_⟩)
  · unfold State.siteSt
    rw [show t.siteState = _ from (kt .siteState (by decide)).trans (ho .siteState (by decide))]
    exact (tab_get_set_other _ _ _ _ _ hne).trans (tab_get_set_same _ _ _ _)
  · unfold State.siteSt
    rw [show t.siteState = _ from (kt .siteState (by decide)).trans (ho .siteState (by decide))]
    exact tab_get_set_same _ _ _ _
  · rw [part_of (kt .parts (by decide)), hpart]

theorem siteSt_of {t : State} (hs : t.siteState = s.siteState) (hf : t.factory = s.factory) (i : Nat) : t.siteSt i = s.siteSt i := by
  unfold State.siteSt State.grade
  rw [hs, hf]

theorem nearestSpare_of {t : State} (hs : t.siteState = s.siteState) (hf : t.factory = s.factory) (hp : t.parts = s.parts)
    (i : Nat) : t.nearestSpare i = s.nearestSpare i := by
  have hst := siteSt_of hs hf
  have hpart := part_of hp
  unfold State.nearestSpare State.taken
  simp only [hst, hpart]

/-- Removing a fill leaves who owns a row. -/
theorem fillKey_of {t : State} (hp : t.part p = { s.part p with rcv := { (s.part p).rcv with fills := [] } })
    (ho : ∀ q, q ≠ p → t.part q = s.part q) (i : Nat) : t.fillKey i = s.fillKey i := by
  have hq : ∀ q, (t.part q).state = (s.part q).state ∧ (t.part q).firstRow = (s.part q).firstRow ∧
      (t.part q).rows = (s.part q).rows := by
    intro q
    by_cases h : q = p
    · subst h
      rw [hp]
      exact ⟨rfl, rfl, rfl⟩
    · rw [ho q h]
      exact ⟨rfl, rfl, rfl⟩
  unfold State.fillKey
  rw [partOfRow_of (fun q => (hq q).1) (fun q => (hq q).2.1) (fun q => (hq q).2.2)]

/-- A spare taken for a failed site is one more fill of its partition. -/
theorem takeSpare_takes {failed i : Nat} (hi : s.nearestSpare failed = some i) (hk : s.fillKey failed = p) (mark : Nat) :
    onlyChanges [.sites, .mem, .hbm, .parts] s (s.takeSpare failed mark) ∧
      (s.takeSpare failed mark).part p = { s.part p with rcv := { (s.part p).rcv with
        fills := (s.part p).rcv.fills ++ [{ failed := failed, spare := i, mark := mark }] } } := by
  have he : s.takeSpare failed mark = (s.freshSite i).modRcv p
      (fun r => { r with fills := r.fills ++ [{ failed := failed, spare := i, mark := mark }] }) := by
    unfold State.takeSpare
    rw [hk, hi]
  rw [he]
  have ho := freshSite_only s i
  refine ⟨only_trans (only_mono ho (by decide)) (only_mono (path_modRcv (ks := [.parts]) p _ (by decide) (path_refl _ _)).frame (by decide)), ?_⟩
  rw [part_modRcv, part_of (ho .parts (by decide))]

/-- A spare that fails its self-test is given up, and the next one is tried (R317). -/
theorem spareSelfTestDone_next (hp : p < 4) (hf : (s.part p).rcv.fills = [f])
    (hother : ∀ k < 5, k ≠ p → ∀ g ∈ (s.part k).rcv.fills, g.spare ≠ f.spare)
    (hrun : (s.part p).state = .running) (hroll : (s.part p).rcv.rollback = none) (hbound : s.boundStreams p = [])
    (hcommit : s.commitWait = none) {i : Nat}
    (hi : State.nearestSpare { unfilled s p with siteState := Tab.set s.siteState f.spare 2 } f.failed = some i)
    (hk : s.fillKey f.failed = p) (hroom : roomFor s { status := 0x6403, part := p, unitKind := 1, unit := siteUnit f.spare }) :
    ∃ t, exec (.spareSelfTestDone f.spare false) s = .next t ∧ t.siteSt f.spare = 2 ∧ t.spareGen = s.spareGen + 1 ∧
      (t.part p).rcv.fills = [{ failed := f.failed, spare := i, mark := f.mark }] ∧
      queued s t { status := 0x6403, part := p, unitKind := 1, unit := siteUnit f.spare } := by
  have herr : spareErr p f.spare = { status := 0x6403, part := p, unitKind := 1, unit := siteUnit f.spare } := by
    unfold spareErr
    rw [if_pos hp]
  rw [← herr] at hroom ⊢
  have hpart0 : (remapped s p (Tab.set s.siteState f.spare 2)).part p = { s.part p with rcv := { (s.part p).rcv with fills := [] } } :=
    unfilled_part s p
  have hparts0 : ∀ q, q ≠ p → (remapped s p (Tab.set s.siteState f.spare 2)).part q = s.part q := fun q h => unfilled_part_other s h
  have hroom0 : roomFor (remapped s p (Tab.set s.siteState f.spare 2)) (spareErr p f.spare) :=
    room_of hroom rfl (fun q _ => mod_state s p q (fun x => { x with rcv := { x.rcv with fills := [] } }) (fun _ => rfl))
  obtain ⟨hraise, hqueued⟩ := raise_room hroom0
  have hfailed : onlyChanges [.errq, .outs, .boot, .tfb, .ctr] (remapped s p (Tab.set s.siteState f.spare 2)) (spareFailed s p f) :=
    only_trans (only_mono hraise (by decide)) (only_mono (count_only _ _ _ _) (by decide))
  have hkey : (spareFailed s p f).fillKey f.failed = p := by
    rw [fillKey_of ((part_of (hfailed .parts (by decide)) p).trans hpart0)
      (fun q h => (part_of (hfailed .parts (by decide)) q).trans (hparts0 q h)), hk]
  have hnear : (spareFailed s p f).nearestSpare f.failed = some i :=
    (nearestSpare_of (s := { unfilled s p with siteState := Tab.set s.siteState f.spare 2 }) (hfailed .siteState (by decide))
      (hfailed .factory (by decide)) (hfailed .parts (by decide)) _).trans hi
  obtain ⟨htake, hpart⟩ := takeSpare_takes hnear hkey f.mark
  rw [part_of (hfailed .parts (by decide)), hpart0] at hpart
  have htested : tested s p f false = (spareFailed s p f).takeSpare f.failed f.mark := if_neg Bool.false_ne_true
  have he := spareSelfTestDone_tested (passed := false) hp hf hother hcommit (by rw [htested, hpart]; exact hrun)
    (by rw [htested, hpart]; exact hroll)
    ((bound_of (htested ▸ (htake .streams (by decide)).trans (hfailed .streams (by decide))) p).trans hbound)
  rw [he, htested]
  refine ansE (fun t kt hqt => ⟨?_, ?_, ?_, queued_settled ?_ t hqt⟩)
  · unfold State.siteSt
    rw [show t.siteState = _ from ((kt .siteState (by decide)).trans (htake .siteState (by decide))).trans (hfailed .siteState (by decide))]
    exact tab_get_set_same _ _ _ _
  · exact ((kt .spareGen (by decide)).trans (htake .spareGen (by decide))).trans (hfailed .spareGen (by decide))
  · rw [part_of (kt .parts (by decide)), hpart]
    rfl
  · rw [show (State.takeSpare _ _ _).errq = _ from htake .errq (by decide)]
    exact hqueued
end

/-! ### Phases of a reclaim that last too long (R324, R327) -/

section
variable {s : State} {p : Nat} {c : Reclaim}

/-- From s to t the partition p has come to the scrub of its reclaim, as record c, and e is queued. -/
structure scrubs (s t : State) (p : Nat) (c : Reclaim) (e : ErrSpec) : Prop where
  lists : (t.part p).lists = []
  after : (t.part p).after = some .handover
  capture : (t.part p).rcv.capture = none
  reclaim : (t.part p).rcv.reclaim = some c
  queued : queued s t e

/-- A reclaim phase that ends with an entry of the partition goes on with the scrub. -/
theorem noted_scrubs {u : State} {st j : Nat} (hq : u.errq = s.errq) (hstate : ∀ q < 4, (u.part q).state = (s.part q).state)
    (hroom : roomFor s { status := st, part := p }) (hrec : (u.part p).rcv.reclaim = some c) :
    scrubs s (((u.note p st).count (partCounters p) j 1).startScrub p) p
      { c with phase := 2, phaseStart := u.time.ticks } { status := st, part := p } := by
  obtain ⟨hk, hqueued⟩ := raise_room (room_of hroom hq hstate)
  rw [hq] at hqueued
  have hpart : ((u.note p st).count (partCounters p) j 1).part p = u.part p := part_of (hk .parts (by decide)) p
  obtain ⟨hlists, hafter, hcap, hreclaim, herrq⟩ :=
    start_scrub (s := (u.note p st).count (partCounters p) j 1) (p := p) (c := c) (by rw [hpart]; exact hrec)
  have htime : ((u.note p st).count (partCounters p) j 1).time = u.time := hk .time (by decide)
  rw [htime] at hreclaim
  refine ⟨hlists, hafter, hcap, hreclaim, ?_⟩
  unfold Safety.queued
  rw [herrq]
  exact hqueued

/-- The scrub of a reclaim, as the answer of a command leaves it. -/
theorem scrubs_answer {u : State} {i : Instr} {e : ErrSpec} (he : exec i s = answer s u) (h : scrubs s u p c e) :
    ∃ t, exec i s = .next t ∧ scrubs s t p c e := by
  rw [he]
  refine ansE (fun t kt hqt => ?_)
  have hpart := part_of (kt .parts (by decide)) p
  exact ⟨by rw [hpart]; exact h.lists, by rw [hpart]; exact h.after, by rw [hpart]; exact h.capture,
    by rw [hpart]; exact h.reclaim, queued_settled h.queued t hqt⟩

/-- Before the fence limit the fence phase goes on. -/
theorem reclaimFenceAbort_waits (hc : (s.part p).rcv.reclaim = some c)
    (ht : s.time.ticks < c.t0 + s.pval p 0x10 0x0B * Config.ticksPerMs) :
    ∃ t, exec (.reclaimFenceAbort p) s = .next t ∧ onlyChanges [.errq, .journal] s t := by
  have he : exec (.reclaimFenceAbort p) s = answer s s := by
    show execReclaimFenceAbort p s = _
    unfold execReclaimFenceAbort
    rw [hc]
    dsimp only
    rw [if_neg (by omega)]
  rw [he]
  exact answer_only (only_refl [] s)

/-- At the fence limit the fence phase ends in the scrub. -/
theorem reclaimFenceAbort_scrubs (hc : (s.part p).rcv.reclaim = some c) (h0 : c.phase = 0)
    (ht : c.t0 + s.pval p 0x10 0x0B * Config.ticksPerMs ≤ s.time.ticks) (hroom : roomFor s { status := 0x3109, part := p }) :
    ∃ t, exec (.reclaimFenceAbort p) s = .next t ∧
      scrubs s t p { c with phase := 2, phaseStart := s.time.ticks } { status := 0x3109, part := p } := by
  obtain ⟨hstate, -, hrcv, hq, htime⟩ := stop_work s p 0x1107
  have hscrub := noted_scrubs (j := ctrFenceAborts) hq (fun q _ => hstate q) hroom (c := c) (by rw [hrcv]; exact hc)
  rw [htime] at hscrub
  refine scrubs_answer ?_ hscrub
  show execReclaimFenceAbort p s = _
  unfold execReclaimFenceAbort
  rw [hc]
  dsimp only
  rw [if_pos ⟨h0, ht⟩]
  rfl

/-- A sachet phase that cannot land in time gives its sachet up, and ends in the scrub. -/
theorem reclaimDeadline_scrubs (hc : (s.part p).rcv.reclaim = some c) (h1 : c.phase = 1) (hl : c.late = false)
    (hroom : roomFor s { status := 0x310A, part := p }) :
    ∃ t, exec (.reclaimDeadline p) s = .next t ∧
      scrubs s t p { c with phase := 2, phaseStart := s.time.ticks, late := true } { status := 0x310A, part := p } := by
  generalize hu : s.modRcv p (fun r => { r with reclaim := r.reclaim.map (fun c => { c with late := true }) }) = u
  have hpart : u.part p = { s.part p with rcv := { (s.part p).rcv with reclaim := some { c with late := true } } } := by
    rw [← hu, part_modRcv, hc]
    rfl
  have hustate : ∀ q, (u.part q).state = (s.part q).state := fun q => by
    rw [← hu]
    exact mod_state s p q _ (fun _ => rfl)
  obtain ⟨hown, hothers⟩ := abandon_part u p
  have habandon : onlyChanges [.parts, .ctr, .xfers] u (u.abandonSachet p) :=
    (path_abandonSachet (ks := [.parts, .ctr, .xfers]) p (by decide) (path_refl _ u)).frame
  have hstate : ∀ q < 4, ((u.abandonSachet p).part q).state = (s.part q).state := by
    intro q _
    by_cases hqp : q = p
    · rw [hqp, hown]
      exact hustate p
    · rw [hothers q hqp]
      exact hustate q
  have hq : (u.abandonSachet p).errq = s.errq := (habandon .errq (by decide)).trans (by rw [← hu]; rfl)
  have htime : (u.abandonSachet p).time = s.time := (habandon .time (by decide)).trans (by rw [← hu]; rfl)
  have hscrub := noted_scrubs (j := ctrDeadlineMisses) hq hstate hroom (c := { c with late := true }) (by rw [hown, hpart])
  rw [htime] at hscrub
  refine scrubs_answer ?_ hscrub
  show execReclaimDeadline p s = _
  unfold execReclaimDeadline
  rw [hc]
  dsimp only
  rw [if_pos ⟨h1, by rw [hl]; rfl⟩, hu]
end

/-- Settles O53: captures by whether their blocks match and a tier takes them, landings, the tiers behind, restores by what they
serve, self-tests by their outcome, and the phases of a reclaim. -/
theorem recoveryWorkEndsAsWritten : Obligations.RecoveryWorkEndsAsWritten := by
  unfold Obligations.RecoveryWorkEndsAsWritten
  intro s p hp hm
  refine ⟨?captures, ?landings, ?flash, ?store, ?restores, ?rollbacks, ?starts, ?fills, ?reclaims⟩
  case captures =>
    intro c hc h0 hq h1 hb
    refine ⟨fun h2 hgood => sachetCapture_flash hc h0 hq h1 hb h2 hgood, fun hrun hbound hroll hrec hstop hn => ?_⟩
    have hu : undisturbed s p := ⟨hrun, hbound, hroll, hrec, hstop⟩
    exact ⟨fun h2 hgood => sachetCapture_abandons hc h0 hq hu hn h1 hb h2 hgood,
      fun faults a hbad hroom => sachetCapture_queues hc h0 hq hu hn hbad hroom⟩
  case landings =>
    exact fun c x hc hx ht => ⟨sachetLanded_waits, fun hall hn hrun hbound hroll hrec hstop hg hrel =>
      sachetLanded_lands hall hc hx ht hn ⟨hrun, hbound, hroll, hrec, hstop⟩ hg hrel⟩
  case flash => exact ⟨tier2WriteDone_none, fun y hy => tier2WriteDone_copies hy⟩
  case store =>
    exact fun y hy hsec => ⟨fun hopen => ⟨tier3WriteDone_copies hy hsec hopen, tier3WriteDone_waits hy hsec hopen⟩,
      fun st hst hroom => tier3WriteDone_refused hy hsec hst hroom⟩
  case restores =>
    exact fun b x hb hx hr ht a n hregions hledger hfills hbound =>
      rollbackRestoreDone_waits hm hb hx hr ht hregions hledger hfills hbound
  case rollbacks =>
    exact fun b x hb hx hr ht hfills hbound hrun hrows hlost => rollbackRestoreDone_ends hb hx hr ht hfills hbound hrun hrows hlost
  case starts => exact fun x hx hidle => startRestoreDone_runs hx hidle
  case fills =>
    exact fun f hf hother hne hrun hroll hbound hcommit =>
      ⟨spareSelfTestDone_fills hp hf hother hne hrun hroll hbound hcommit, fun i hi hk hroom =>
        spareSelfTestDone_next hp hf hother hrun hroll hbound hcommit hi hk hroom⟩
  case reclaims =>
    refine fun c hc => ⟨fun _ ht => reclaimFenceAbort_waits hc ht, fun h0 ht hroom => ?_, fun h1 hl hroom => ?_⟩
    · obtain ⟨t, e, h⟩ := reclaimFenceAbort_scrubs hc h0 ht hroom
      exact ⟨t, e, h.lists, h.after, h.reclaim, h.queued⟩
    · obtain ⟨t, e, h⟩ := reclaimDeadline_scrubs hc h1 hl hroom
      exact ⟨t, e, h.lists, h.after, h.capture, h.reclaim, h.queued⟩

end Sys2Proof.Proofs.RecoveryEnds

/-! SUPPORT. The fault input behind the Strainer (R344): its entry in the error queue and the Safe-stop of the partitions of its
mask. -/

namespace Sys2Proof.Proofs.FaultInput

open Sys2Proof Sys2Proof.Machine Sys2Proof.Safety Sys2Proof.Laws Sys2Proof.Laws.Shared
open Sys2Proof.Proofs.ErrorHandling

/-- The entry of an external fault (R344). -/
def faultErr : ErrSpec := { status := 0x7103, part := 0xFF, unitKind := 0x0C, unit := 1 }

/-- The partitions of Fault input mask that are neither Idle nor Unassigned, and not stopped already. -/
def faultStops (s : State) : List Nat :=
  (maskParts (s.valNat 0x2500 3)).filter (fun p => !(s.part p).state.quiet && (s.part p).state != .safeStop)

/-- s with Fault input action done. -/
def faultAction (s : State) : State :=
  if s.valNat 0x2500 2 = 1 then (faultStops s).foldl (fun u p => u.enterSafeStop p 0x7103) s else s

section
variable {s : State}

/-! ### An event outside the filter window -/

/-- An input whose last event lies a filter window back or more delivers the next one. -/
theorem strain_delivers {i : Nat} (h0 : (s.input i).state = 0)
    (hw : ∀ t0, (s.input i).lastEvent = some t0 → t0 + s.valNat (0xA700 + i) 2 * Config.ticksPerUs ≤ s.time.ticks)
    (f : State → State) : s.strain i f = f (delivered s i) := by
  cases hl : (s.input i).lastEvent with
  | none => exact strain_first h0 hl f
  | some t0 =>
    have hpast := hw t0 hl
    unfold State.strain
    dsimp only
    rw [if_neg (by omega), if_neg (by omega), hl]
    exact if_neg (decide_eq_true_iff.not.mpr (Nat.not_lt.mpr hpast))

theorem faultInN_delivers (h0 : (s.input 1).state = 0)
    (hw : ∀ t0, (s.input 1).lastEvent = some t0 → t0 + s.valNat 0xA701 2 * Config.ticksPerUs ≤ s.time.ticks) :
    exec .faultInN s = answer s (faultAction ((delivered s 1).raise faultErr)) :=
  congrArg (answer s) (strain_delivers h0 hw _)

/-- What the entry of an external fault leaves, where it finds room. -/
theorem fault_recorded (hroom : roomFor s faultErr) :
    onlyChanges [.inputs, .errq, .outs, .boot, .tfb] s ((delivered s 1).raise faultErr) ∧
      ((delivered s 1).raise faultErr).input 1 = assertedInput s 1 ∧
      ∃ x ∈ ((delivered s 1).raise faultErr).errq.entries, x.seq = s.errq.nextSeq ∧ x.status = faultErr.status ∧
        x.part = faultErr.part ∧ x.unitKind = faultErr.unitKind ∧ x.unit = faultErr.unit ∧ x.sev = severity faultErr.status := by
  have hd := delivered_only s 1
  have herrq : (delivered s 1).errq = s.errq := hd .errq (by decide)
  have hroom' : roomFor (delivered s 1) faultErr :=
    room_of hroom herrq (fun p _ => by rw [part_of (hd .parts (by decide))])
  obtain ⟨hr, hq⟩ := raise_room hroom'
  rw [herrq] at hq
  exact ⟨only_trans (only_mono hd (by decide)) (only_mono hr (by decide)),
    (input_of (hr .inputs (by decide)) 1).trans (delivered_input s 1), hq⟩

/-! ### Fault input action -/

theorem faultAction_records (ha : s.valNat 0x2500 2 = 0) : faultAction s = s := if_neg (by omega)

/-- Fault input action neither queues an entry nor touches an input. -/
theorem faultAction_keeps (s : State) : (faultAction s).errq = s.errq ∧ (faultAction s).inputs = s.inputs := by
  have hpath : Path [.parts, .queues, .sites, .mem, .hbm, .streams, .ctr, .colls, .credits, .fetches, .xfers, .tfb, .outs, .free]
      s (faultAction s) :=
    path_ite (fun _ => path_foldl _ _ (fun _ p => path_enterSafeStop p 0x7103 (by decide)) s (path_refl _ s))
      (fun _ => path_refl _ s)
  exact ⟨hpath.frame .errq (by decide), hpath.frame .inputs (by decide)⟩

theorem quiet_eq_false (x : PState) : x.quiet = false ↔ x ≠ .idle ∧ x ≠ .unassigned := by
  cases x <;> decide

theorem mem_faultStops {p : Nat} (hp : p < 4) : p ∈ faultStops s ↔ bit (s.valNat 0x2500 3) p = true ∧
    (s.part p).state ≠ .idle ∧ (s.part p).state ≠ .unassigned ∧ (s.part p).state ≠ .safeStop := by
  have hn : p ∈ partNumbers := by unfold partNumbers; simp; omega
  unfold faultStops maskParts
  simp only [List.mem_filter, Bool.and_eq_true, Bool.not_eq_true', bne_iff_ne, quiet_eq_false, hn, true_and, and_assoc]

/-- Partitions that are stopped already are left out of the action, and stand in Safe-stop as R344 asks. -/
theorem faultAction_stops (ha : s.valNat 0x2500 2 = 1) {p : Nat} (hp : p < 4) :
    ((faultAction s).part p).state =
      if bit (s.valNat 0x2500 3) p = true ∧ (s.part p).state ≠ .idle ∧ (s.part p).state ≠ .unassigned then .safeStop
      else (s.part p).state := by
  obtain ⟨hin, hout, -⟩ := stop_all 0x7103 (faultStops s) s
  rw [show faultAction s = (faultStops s).foldl (fun u q => u.enterSafeStop q 0x7103) s from if_pos ha]
  by_cases hstop : p ∈ faultStops s
  · obtain ⟨hbit, hidle, hunassigned, -⟩ := (mem_faultStops hp).mp hstop
    rw [hin p hstop, if_pos ⟨hbit, hidle, hunassigned⟩]
  · rw [hout p hstop]
    split
    · next h =>
      obtain ⟨hbit, hidle, hunassigned⟩ := h
      by_contra hs
      exact hstop ((mem_faultStops hp).mpr ⟨hbit, hidle, hunassigned, hs⟩)
    · rfl
end

/-- Settles O58: the event is delivered, its entry is queued, and Fault input action is done on the state with the entry, whose
partitions and Caddy entries are those of the state before. -/
theorem faultInputIsRecordedAndStopsPartitions : Obligations.FaultInputIsRecordedAndStopsPartitions := by
  unfold Obligations.FaultInputIsRecordedAndStopsPartitions
  intro s h0 hw hroom
  obtain ⟨honly, hinput, hqueued⟩ := fault_recorded hroom
  rw [faultInN_delivers h0 hw]
  generalize (delivered s 1).raise faultErr = u at *
  have hval (j : Nat) : u.valNat 0x2500 j = s.valNat 0x2500 j :=
    valNat_of (honly .vals (by decide)) (honly .factory (by decide)) _ _
  obtain ⟨herrq, hinputs⟩ := faultAction_keeps u
  rw [← herrq] at hqueued
  refine ⟨_, rfl, queued_settled hqueued _ rfl, ?input, ?event, ?recorded, ?stopped⟩
  case input => exact congrArg SInput.state ((input_of hinputs 1).trans hinput)
  case event => exact congrArg SInput.lastEvent ((input_of hinputs 1).trans hinput)
  case recorded =>
    intro ha
    rw [faultAction_records ((hval 2).trans ha)]
    exact only_mono (only_answer honly) (by decide)
  case stopped =>
    intro ha p hp
    have hstate := faultAction_stops ((hval 2).trans ha) hp
    rw [hval, part_of (honly .parts (by decide))] at hstate
    exact hstate

end Sys2Proof.Proofs.FaultInput

/-! SUPPORT. Handoffs of a firmware update (R361 to R366): how the old image stops at its handoff point, and what commits an update
or fails it. -/

namespace Sys2Proof.Proofs.Handoffs

open Sys2Proof Sys2Proof.Machine Sys2Proof.Safety Sys2Proof.Laws Sys2Proof.Laws.Shared

section
variable {s : State}

/-! ### The old image stops (R361, R362, R365) -/

theorem stopOld_only (s : State) : onlyChanges [.update] s s.stopOld :=
  (path_stopOld (ks := [.update]) (by decide) (path_refl _ s)).frame

/-- An activation that does not wait, or waits for nothing that holds any more, is not held back. -/
theorem activation_free (h : s.update.waiting = none ∨ s.mustWait = false) :
    (s.update.waiting.isSome && s.mustWait) = false := by
  rcases h with h | h <;> simp [h]

theorem handoffPoint_stops (hstate : s.update.state = 3) (hstop : s.update.stopped = none)
    (hwait : s.update.waiting = none ∨ s.mustWait = false) (hpoint : s.pointReached = true) :
    exec .handoffPoint s = answer s s.stopOld :=
  congrArg (answer s) (if_pos ⟨hstate, by simp [hstop, activation_free hwait, hpoint]⟩)

/-- s with the tensor commands of a row preempted at their pass boundaries (R365). -/
def rowPreempted (s : State) (row : Nat) : State := (s.rowClusters row).foldl (fun s c => s.preemptFor c.1) s

theorem rowPreempted_only (s : State) (row : Nat) :
    onlyChanges [.queues, .sites, .mem, .hbm, .ctr, .free] s (rowPreempted s row) :=
  (path_foldl (fun (s : State) (c : Nat × Nat) => s.preemptFor c.1) _ (fun _ c => path_preemptFor c.1 (by decide)) s (path_refl _ s)).frame

theorem cccHandoffWait_stops (hstate : s.update.state = 3) (hstop : s.update.stopped = none)
    (hwait : s.update.waiting = none ∨ s.mustWait = false) (hkind : s.updateKind = 4)
    (hlate : s.update.since + s.valNat 0x9000 7 * Config.ticksPerMs ≤ s.time.ticks) :
    exec (.cccHandoffWait s.update.rows) s = answer s (rowPreempted s s.update.rows).stopOld :=
  congrArg (answer s) (if_pos ⟨hstate, hkind, rfl, hstop, by simp [hlate, activation_free hwait]⟩)

/-! ### The end of an update (R361, R366, R383) -/

theorem retryLayout_idle (h : s.commitWait = none) : s.retryLayout = s := by
  unfold State.retryLayout
  rw [h]

theorem retryApply_idle (h : s.applyWait = none) : s.retryApply = s := by
  unfold State.retryApply
  rw [h]

/-- Where neither a layout commit nor an apply waits, the end of an update makes nothing else. -/
theorem updateEnded_idle (hc : s.commitWait = none) (ha : s.applyWait = none) : s.updateEnded = s := by
  unfold State.updateEnded
  rw [retryLayout_idle hc, retryApply_idle ha]

theorem logHandoff_only (s : State) (kind old new result : Nat) : onlyChanges [.log] s (s.logHandoff kind old new result) :=
  logEvent_only s _ _ _ _

/-- An update that fails leaves the flash as it is, the old image active in it (R361 step 5). -/
theorem failUpdate_fails (hc : s.commitWait = none) (ha : s.applyWait = none) (result : Nat) :
    (s.failUpdate result).update.state = 5 ∧ (s.failUpdate result).update.result = result ∧ (s.failUpdate result).nor = s.nor := by
  unfold State.failUpdate
  extract_lets kind u v
  have hlog := logHandoff_only v kind (v.activeImage kind).version u.image.version result
  generalize v.logHandoff kind (v.activeImage kind).version u.image.version result = w at hlog
  have hupdate : w.update = v.update := hlog .update (by decide)
  rw [updateEnded_idle ((hlog .commitWait (by decide)).trans hc) ((hlog .applyWait (by decide)).trans ha), hupdate]
  exact ⟨rfl, rfl, hlog .nor (by decide)⟩

/-- Erased keys leave the images in the flash (R408). -/
theorem eraseKeys_images (s : State) (sel : Key → Bool) :
    (s.eraseKeys sel).nor.active = s.nor.active ∧ (s.eraseKeys sel).nor.inactive = s.nor.inactive := by
  unfold State.eraseKeys
  extract_lets gone nor sec u
  have hclose : Laws.Path [.parts, .queues, .mem, .hbm, .streams, .outs, .free] u
      ((gone.filter (fun k => k.ty == 1)).foldl (fun s k => (s.keyedStreams k).foldl (fun s n => s.abortClose n 0x5104) s) u) :=
    path_foldl _ _ (fun _ _ h => path_foldl _ _ (fun _ n => path_abortClose n 0x5104 (by decide)) _ h) u (path_refl _ u)
  have hnor : State.nor _ = u.nor := hclose.frame .nor (by decide)
  rw [hnor]
  exact ⟨rfl, rfl⟩

/-- A new measurement ends sessions and keys, and leaves the images in the flash (R406). -/
theorem remeasured_images (s : State) : s.remeasured.nor.active = s.nor.active ∧ s.remeasured.nor.inactive = s.nor.inactive := by
  unfold State.remeasured
  extract_lets sec u
  split
  · exact eraseKeys_images u _
  · exact ⟨rfl, rfl⟩

theorem remeasured_only (s : State) : onlyChanges [.parts, .queues, .mem, .hbm, .streams, .nor, .sec, .outs, .free] s s.remeasured :=
  (path_remeasured (ks := [.parts, .queues, .mem, .hbm, .streams, .nor, .sec, .outs, .free]) (by decide) (path_refl _ s)).frame

/-- An update that commits makes its image the active one and the old one the inactive one of its kind (R361 step 4). -/
theorem commitUpdate_commits (hc : s.commitWait = none) (ha : s.applyWait = none) :
    s.commitUpdate.update.state = 4 ∧ s.commitUpdate.update.result = 1 ∧
      s.commitUpdate.activeImage s.updateKind = s.update.image ∧
      Tab.find s.commitUpdate.nor.inactive s.updateKind = some (s.activeImage s.updateKind) := by
  unfold State.commitUpdate
  extract_lets kind old new nor s1 s2 boot s3 s4
  have hlog := logHandoff_only s4 kind old.version new.version 1
  generalize s4.logHandoff kind old.version new.version 1 = u at hlog
  have hkeep := only_trans (only_mono hlog (ls := [.log, .parts, .queues, .mem, .hbm, .streams, .nor, .sec, .outs, .free]) (by decide))
    (only_mono (remeasured_only _) (by decide))
  obtain ⟨hactive, hinactive⟩ := remeasured_images u
  generalize u.remeasured = v at hkeep hactive hinactive
  have hnor : u.nor = s4.nor := hlog .nor (by decide)
  have hupdate : v.update = s4.update := hkeep .update (by decide)
  rw [updateEnded_idle ((hkeep .commitWait (by decide)).trans hc) ((hkeep .applyWait (by decide)).trans ha), hupdate]
  refine ⟨rfl, rfl, ?active, ?inactive⟩
  case active =>
    unfold State.activeImage
    rw [hactive, hnor]
    exact tab_get_set_same _ _ _ _
  case inactive =>
    rw [hinactive, hnor]
    exact tab_find_set_same _ _ _

/-! ### What the new image answers (R361 to R366) -/

/-- s with the next row of the CCCs to hand off (R365). -/
def nextRow (s : State) : State :=
  s.modUpdate (fun u => { u with rows := u.rows + 1, stopped := none, since := s.time.ticks })

section
variable {at' : Nat} (hstate : s.update.state = 3) (hstop : s.update.stopped = some at')
include hstate hstop

theorem acceptance_given {accept crashed : Bool} :
    exec (.handoffAcceptance accept crashed) s = answer s
      (if crashed then s.failUpdate 3
       else if !accept || !s.update.records.all s.update.image.takes then s.failUpdate 2
       else if s.updateKind = 4 then (if 30 ≤ (nextRow s).update.rows then (nextRow s).commitUpdate else nextRow s)
       else s.commitUpdate) :=
  congrArg (answer s) (if_neg (by simp [hstate, hstop]))

theorem acceptance_crashed (accept : Bool) : exec (.handoffAcceptance accept true) s = answer s (s.failUpdate 3) :=
  acceptance_given hstate hstop

theorem acceptance_refused {accept : Bool} (h : accept = false ∨ s.update.records.all s.update.image.takes = false) :
    exec (.handoffAcceptance accept false) s = answer s (s.failUpdate 2) := by
  rw [acceptance_given hstate hstop, if_neg Bool.false_ne_true, if_pos]
  rcases h with h | h <;> simp [h]

theorem acceptance_commits (hkind : s.updateKind ≠ 4) (htakes : s.update.records.all s.update.image.takes = true) :
    exec (.handoffAcceptance true false) s = answer s s.commitUpdate := by
  rw [acceptance_given hstate hstop, if_neg Bool.false_ne_true, htakes, if_neg (by decide), if_neg hkind]

theorem acceptance_nextRow (hkind : s.updateKind = 4) (hrows : s.update.rows < 29)
    (htakes : s.update.records.all s.update.image.takes = true) :
    exec (.handoffAcceptance true false) s = answer s (nextRow s) := by
  have hlast : ¬ 30 ≤ (nextRow s).update.rows := by
    show ¬ 30 ≤ s.update.rows + 1
    omega
  rw [acceptance_given hstate hstop, if_neg Bool.false_ne_true, htakes, if_neg (by decide), if_pos hkind, if_neg hlast]

theorem acceptance_late (hlate : at' + acceptTicks s.updateKind ≤ s.time.ticks) :
    exec .acceptanceLimit s = answer s (s.failUpdate 3) := by
  refine congrArg (answer s) ?_
  rw [hstop]
  exact if_pos ⟨hstate, hlate⟩
end

theorem nextRow_only (s : State) : onlyChanges [.update] s (nextRow s) :=
  (path_modUpdate (ks := [.update]) _ (by decide) (path_refl _ s)).frame
end

/-- Settles O31: each command does one thing to the state before (the stop of the old image, the commit, the next row or the
failure), and each of these is stated once above. -/
theorem handoffsCommitOrFallBack : Obligations.HandoffsCommitOrFallBack := by
  unfold Obligations.HandoffsCommitOrFallBack
  intro s hstate
  refine ⟨fun hstop hwait => ⟨?point, ?late⟩, fun at' hstop hc ha => ⟨?commits, ?nextRow, ?crashes, ?refuses, ?limit⟩⟩
  case point =>
    intro hpoint
    rw [handoffPoint_stops hstate hstop hwait hpoint]
    exact ⟨_, rfl, only_answer (stopOld_only s), hstate, rfl, rfl, rfl⟩
  case late =>
    intro hkind hlate
    have hrow := rowPreempted_only s s.update.rows
    rw [cccHandoffWait_stops hstate hstop hwait hkind hlate]
    generalize rowPreempted s s.update.rows = u at hrow
    have hupdate : u.update = s.update := hrow .update (by decide)
    have htime : u.time = s.time := hrow .time (by decide)
    exact ⟨_, rfl, (congrArg Update.state hupdate).trans hstate, congrArg (fun x : TimeState => some x.ticks) htime, rfl⟩
  case commits =>
    intro hkind htakes
    rw [acceptance_commits hstate hstop hkind htakes]
    exact ⟨_, rfl, commitUpdate_commits hc ha⟩
  case nextRow =>
    intro hkind hrows htakes
    rw [acceptance_nextRow hstate hstop hkind hrows htakes]
    exact ⟨_, rfl, only_answer (nextRow_only s), hstate, rfl, rfl⟩
  case crashes =>
    intro accept
    rw [acceptance_crashed hstate hstop accept]
    exact ⟨_, rfl, failUpdate_fails hc ha 3⟩
  case refuses =>
    intro accept h
    rw [acceptance_refused hstate hstop h]
    exact ⟨_, rfl, failUpdate_fails hc ha 2⟩
  case limit =>
    intro hlate
    rw [acceptance_late hstate hstop hlate]
    exact ⟨_, rfl, failUpdate_fails hc ha 3⟩

end Sys2Proof.Proofs.Handoffs

/-! SUPPORT. Crashes of the firmware processors (R346 to R356): restarts of components, a CCC's commands issued again or rolled
back, the takeovers of SCH and PMC, and what a failed SEC leaves. -/

namespace Sys2Proof.Proofs.ProcessorCrashes

open Sys2Proof Sys2Proof.Machine Sys2Proof.Safety Sys2Proof.Laws Sys2Proof.Laws.Shared

section
variable {s : State}

/-! ### Components (R346, R348) -/

theorem port_modPort (s : State) (key : Nat) (f : Port → Port) :
    Tab.get (s.modPort key f).caddy.ports {} key = f (Tab.get s.caddy.ports {} key) := by
  unfold State.modPort
  dsimp only
  split
  · next hempty => rw [hempty, Tab.get, tab_find_del_same]; rfl
  · exact tab_get_set_same _ _ _ _

theorem componentFault_restarts {processor c : Nat} (h : restartable processor c = true) :
    exec (.componentFault processor c) s =
      answer s (s.modPort (portKey processor c) (fun p => p.resent s.time.ticks)) :=
  congrArg (answer s) (if_pos h)

/-- A fault of a component that cannot restart is the crash of its processor. -/
theorem componentFault_crashes {processor c : Nat} (h : restartable processor c = false) :
    exec (.componentFault processor c) s = answer s
      (if processor = 0 then s.secCrash else if processor = 1 then s.pmcCrash else if processor = 2 then s.schCrash
       else s.cccCrash (processor - 3)) :=
  congrArg (answer s) (if_neg (by simp [h]))

/-! ### The entry of a crash in the error queue (R332, R335) -/

theorem queued_of {t u : State} {e : ErrSpec} (h : queued s t e) (hq : u.errq = t.errq) : queued s u e := by
  unfold queued
  rw [hq]
  exact h

/-- s with the ports of a processor gone and its crash queued. -/
def crashed (s : State) (processor : Nat) (e : ErrSpec) : State := (s.losePorts processor).raise e

section
variable {processor : Nat} {e : ErrSpec} (hroom : roomFor s e)
include hroom

theorem crashed_only : onlyChanges [.errq, .outs, .boot, .tfb, .caddy] s (crashed s processor e) :=
  only_trans (only_mono (path_losePorts (ks := [.caddy]) processor (by decide) (path_refl _ s)).frame (by decide))
    (only_mono (raise_room (s := s.losePorts processor) hroom).1 (by decide))

theorem crashed_queued : queued s (crashed s processor e) e := (raise_room (s := s.losePorts processor) hroom).2

theorem crashed_boot : ∃ b, (crashed s processor e).boot = { s.boot with faultOut := b } :=
  raise_boot (s := s.losePorts processor) hroom
end

theorem crashCommits_of {t : State} (hu : t.update = s.update) (hv : t.vals = s.vals) (hf : t.factory = s.factory) (kind : Nat) :
    t.crashCommits kind = s.crashCommits kind := by
  unfold State.crashCommits State.updateKind
  rw [hu, valNat_of hv hf]

/-! ### A CCC: commands issued again (R350) -/

/-- The entry of a CCC's crash (R334; the unit's number is log 66). -/
def cccErr (i p : Nat) : ErrSpec := { status := 0x6601, part := p, unitKind := 0x0A, unit := siteUnit i }

/-- s with the CCC of cluster n, on site i of partition p, down: its ports and retained block gone, the array mode its
record's. -/
def cccDown (s : State) (n i p : Nat) : State :=
  ((s.raise (cccErr i p)).losePorts (3 + n)).modSite i (fun x => { x with retained := none, mode := x.record.mode })

/-- s with the commands of the three queues of cluster n since the last recorded fence issued again. -/
def cccReissued (s : State) (n i : Nat) : State :=
  ([1, 2, 3].foldl (fun s k => s.reissue i k n) s).modSite i (fun x =>
    { x with sinceFence := [], resume := x.resume.filter (fun r => !(s.site i).sinceFence.contains r.ref) })

theorem cccRestarted_crashes {n i p : Nat} (hi : s.siteOf n = some i) (hp : s.partOfCluster n = some p) :
    exec (.cccRestarted n) s = answer s
      (if ((cccDown s n i p).site i).nonRepeat then (cccDown s n i p).rollFor p 0x6601
       else cccReissued (cccDown s n i p) n i) := by
  refine congrArg (answer s) ?_
  unfold State.cccCrash
  rw [hi, hp]
  rfl

section
variable {n i p : Nat} (hroom : roomFor s (cccErr i p))
include hroom

theorem cccDown_only : onlyChanges [.errq, .outs, .boot, .tfb, .caddy, .sites] s (cccDown s n i p) :=
  only_trans (only_mono (raise_room hroom).1 (by decide))
    (only_trans (only_mono (path_losePorts (ks := [.caddy]) (3 + n) (by decide) (path_refl _ _)).frame (by decide))
      (only_mono (modSite_only _ _ _) (by decide)))

theorem cccDown_queued : queued s (cccDown s n i p) (cccErr i p) := queued_of (raise_room hroom).2 rfl

theorem cccDown_site :
    (cccDown s n i p).site i = { s.site i with retained := none, mode := (s.site i).record.mode } := by
  have hsite : ((s.raise (cccErr i p)).losePorts (3 + n)).site i = s.site i := site_of ((raise_room hroom).1 .sites (by decide)) i
  rw [cccDown, site_modSite, hsite]

theorem cccDown_pathsOff : (cccDown s n i p).boot.pathsOff = s.boot.pathsOff := by
  obtain ⟨b, hb⟩ := raise_boot hroom
  show (s.raise (cccErr i p)).boot.pathsOff = _
  rw [hb]
end

/-- Command c as it is issued again (R350; log 112). -/
def waitingAgain (c : CmdRec) : CmdRec := { c with st := .queued, status := 0, ran := true, held := [] }

/-- A queue with the commands rs back in front, and nowhere else. -/
def queueAgain (q : Queue) (rs : List QRef) : Queue :=
  { q with
    fifo := rs ++ q.fifo.filter (fun r => !rs.contains r)
    running := q.running.filter (fun r => !rs.contains r)
    issued := q.issued.filter (fun r => !rs.contains r)
    preempted := q.preempted.filter (fun r => !rs.contains r) }

theorem reissue_only (s : State) (i k n : Nat) : onlyChanges [.parts, .queues] s (s.reissue i k n) :=
  (path_reissue (ks := [.parts, .queues]) i k n (by decide) (path_refl _ s)).frame

section
variable {i k n : Nat} {r : QRef} {c : CmdRec} (hsince : (s.site i).sinceFence = [r]) (hcmd : s.cmdOf r = some c)
include hsince hcmd

theorem reissued_one (j : Nat) : s.reissued i j = if c.cmd.kind = j then [r] else [] := by
  unfold State.reissued
  rw [hsince, List.filter_cons, hcmd]
  simp

/-- The queue of the command's kind has it back in front. -/
theorem reissue_own (hkind : c.cmd.kind = k) :
    (s.reissue i k n).cmdOf r = some (waitingAgain c) ∧ (s.reissue i k n).queue k n = queueAgain (s.queue k n) [r] := by
  unfold State.reissue
  rw [reissued_one hsince hcmd, if_pos hkind]
  refine ⟨?_, queue_modQueue _ _ _ _⟩
  exact (cmdOf_of (s := s.modCmd r waitingAgain) rfl r).trans (by rw [cmdOf_modCmd, hcmd]; rfl)

/-- The queues of the other kinds leave the command and its queue as they are. -/
theorem reissue_other {j : Nat} (hkind : c.cmd.kind = k) (hj : j ≠ k) :
    (s.reissue i j n).cmdOf r = some c ∧ (s.reissue i j n).queue k n = s.queue k n := by
  unfold State.reissue
  rw [reissued_one hsince hcmd, if_neg (by omega)]
  exact ⟨hcmd, queue_other _ _ _ _ _ (by unfold qKey; omega)⟩

theorem reissue_others {l : List Nat} (hkind : c.cmd.kind = k) (hl : k ∉ l) :
    (l.foldl (fun s j => s.reissue i j n) s).cmdOf r = some c ∧
      (l.foldl (fun s j => s.reissue i j n) s).queue k n = s.queue k n := by
  induction l generalizing s with
  | nil => exact ⟨hcmd, rfl⟩
  | cons j l ih =>
    obtain ⟨hj, hl⟩ := List.ne_and_not_mem_of_not_mem_cons hl
    obtain ⟨hcmd', hqueue⟩ := reissue_other (n := n) hsince hcmd hkind (Ne.symm hj)
    have hsites : (s.reissue i j n).site i = s.site i := site_of (reissue_only s i j n .sites (by decide)) i
    rw [List.foldl_cons, ← hqueue]
    exact ih (by rw [hsites, hsince]) hcmd' hl

/-- Of several queues, each named once, one is that of the command's kind. -/
theorem reissue_all {l : List Nat} (hkind : c.cmd.kind = k) (hk : k ∈ l) (hl : l.Nodup) :
    (l.foldl (fun s j => s.reissue i j n) s).cmdOf r = some (waitingAgain c) ∧
      (l.foldl (fun s j => s.reissue i j n) s).queue k n = queueAgain (s.queue k n) [r] := by
  induction l generalizing s with
  | nil => exact absurd hk List.not_mem_nil
  | cons j l ih =>
    obtain ⟨hj, hl⟩ := List.nodup_cons.mp hl
    have hsites : (s.reissue i j n).site i = s.site i := site_of (reissue_only s i j n .sites (by decide)) i
    rw [List.foldl_cons]
    by_cases hjk : j = k
    · subst hjk
      obtain ⟨hcmd', hqueue⟩ := reissue_own (n := n) hsince hcmd hkind
      rw [← hqueue]
      exact reissue_others (by rw [hsites, hsince]) hcmd' hkind hj
    · obtain ⟨hcmd', hqueue⟩ := reissue_other (n := n) hsince hcmd hkind hjk
      rw [← hqueue]
      exact ih (by rw [hsites, hsince]) hcmd' ((List.mem_cons.mp hk).resolve_left (Ne.symm hjk)) hl
end

theorem queueAgain_front (q : Queue) (r : QRef) :
    (queueAgain q [r]).fifo.head? = some r ∧ r ∉ (queueAgain q [r]).running ∧ r ∉ (queueAgain q [r]).issued := by
  refine ⟨rfl, ?_, ?_⟩ <;> simp [queueAgain]

theorem fold_reissue_only (s : State) (i n : Nat) (l : List Nat) :
    onlyChanges [.parts, .queues] s (l.foldl (fun s k => s.reissue i k n) s) :=
  fold_only _ _ _ (fun s k => reissue_only s i k n) s

theorem cccReissued_only (s : State) (n i : Nat) : onlyChanges [.parts, .queues, .sites] s (cccReissued s n i) :=
  only_trans (only_mono (fold_reissue_only s i n _) (by decide)) (only_mono (modSite_only _ _ _) (by decide))

/-- The site's record of issued commands is empty, its block and mode as before. -/
theorem cccReissued_site (s : State) (n i : Nat) :
    ((cccReissued s n i).site i).sinceFence = [] ∧ ((cccReissued s n i).site i).retained = (s.site i).retained ∧
      ((cccReissued s n i).site i).mode = (s.site i).mode := by
  have hsite := site_of (fold_reissue_only s i n [1, 2, 3] .sites (by decide)) i
  unfold cccReissued
  rw [site_modSite, hsite]
  exact ⟨rfl, rfl, rfl⟩

/-- The one command since the last recorded fence waits again, in front of its queue. -/
theorem cccReissued_again {n i k : Nat} {r : QRef} {c : CmdRec} (hsince : (s.site i).sinceFence = [r]) (hcmd : s.cmdOf r = some c)
    (hkind : c.cmd.kind = k) (hk : k ∈ [1, 2, 3]) : (cccReissued s n i).cmdOf r = some (waitingAgain c) ∧
      (cccReissued s n i).queue k n = queueAgain (s.queue k n) [r] := by
  have hall := reissue_all (n := n) hsince hcmd hkind hk (by decide)
  unfold cccReissued
  generalize List.foldl _ s [1, 2, 3] = u at hall ⊢
  exact hall

/-- A CCC whose one command since the last recorded fence can be repeated issues it again (R350). -/
theorem cccRestarted_reissues {n i p k : Nat} {r : QRef} {c : CmdRec} (hi : s.siteOf n = some i) (hp : s.partOfCluster n = some p)
    (hroom : roomFor s (cccErr i p)) (hrepeat : (s.site i).nonRepeat = false) (hsince : (s.site i).sinceFence = [r])
    (hcmd : s.cmdOf r = some c) (hkind : c.cmd.kind = k) (hlow : 1 ≤ k) (hhigh : k ≤ 3) :
    ∃ t, exec (.cccRestarted n) s = .next t ∧ queued s t (cccErr i p) ∧ t.cmdOf r = some (waitingAgain c) ∧
      (t.queue k n).fifo.head? = some r ∧ r ∉ (t.queue k n).running ∧ r ∉ (t.queue k n).issued ∧
      (t.site i).sinceFence = [] ∧ (t.site i).retained = none ∧ (t.site i).mode = (s.site i).record.mode := by
  have hsite := cccDown_site (n := n) hroom
  have honly := cccDown_only (n := n) hroom
  have hqueued := cccDown_queued (n := n) hroom
  rw [cccRestarted_crashes hi hp, if_neg (by rw [hsite]; simp [hrepeat])]
  generalize cccDown s n i p = u at *
  obtain ⟨hagain, hqueue⟩ := cccReissued_again (n := n) (by rw [hsite]; exact hsince)
    ((cmdOf_of (honly .parts (by decide)) r).trans hcmd) hkind (by simp; omega)
  obtain ⟨hempty, hretained, hmode⟩ := cccReissued_site u n i
  have herrq : (cccReissued u n i).errq = u.errq := cccReissued_only u n i .errq (by decide)
  generalize cccReissued u n i = v at *
  obtain ⟨hfront, hrunning, hissued⟩ := queueAgain_front (u.queue k n) r
  rw [← hqueue] at hfront hrunning hissued
  rw [hsite] at hretained hmode
  exact ⟨_, rfl, queued_settled (queued_of hqueued herrq) _ rfl, hagain, hfront, hrunning, hissued, hempty, hretained, hmode⟩

/-! ### A CCC: the partition rolls back (R310, R350) -/

theorem target_of {t : State} {p : Nat} (hsachets : (t.part p).rcv.sachets = (s.part p).rcv.sachets) (hports : t.kports = s.kports)
    (hpaths : t.boot.pathsOff = s.boot.pathsOff) (sel : Sachet → Bool) : t.target p sel = s.target p sel := by
  unfold State.target State.portsTo State.kport State.flashUp
  dsimp only
  rw [hsachets, hports, hpaths]

/-- A rollback that captured nothing and follows no other member's word takes the newest committed sachet. -/
theorem rollbackTarget_newest (s : State) (p cause : Nat) :
    s.rollbackTarget p { cause := cause } = s.target p (fun _ => true) := by
  unfold State.rollbackTarget
  dsimp only
  rw [List.find?_eq_none.mpr (fun x _ => by simp)]

/-- s with sachet x of a tier put down as the target of partition p's rollback (R310 step 2). -/
def aimed (s : State) (p tier : Nat) (x : Sachet) : State :=
  s.modRcv p (fun r => { r with rollback := r.rollback.map (fun b => { b with target := some x.id, tier := tier }) })

/-- A target that is found is put down in the rollback's record, and nothing else of the partition changes. -/
theorem chooseTarget_found {p cause tier : Nat} {x : Sachet} (hroll : (s.part p).rcv.rollback = some { cause := cause })
    (hcap : (s.part p).rcv.capture = none) (ht : s.target p (fun _ => true) = some (x, tier)) :
    (s.chooseTarget p).part p = { s.part p with rcv := { (s.part p).rcv with
      rollback := some { cause := cause, target := some x.id, tier := tier } } } ∧ (s.chooseTarget p).errq = s.errq := by
  have hpart : (aimed s p tier x).part p = { s.part p with rcv := { (s.part p).rcv with
      rollback := some { cause := cause, target := some x.id, tier := tier } } } := by
    rw [aimed, part_modRcv, hroll]
    rfl
  unfold State.chooseTarget
  rw [hroll, hcap]
  dsimp only
  rw [rollbackTarget_newest, ht]
  dsimp only
  split
  · have hsend := send_tfb_only (aimed s p tier x) 6
    exact ⟨(part_of (hsend _ .parts (by decide)) p).trans hpart, hsend _ .errq (by decide)⟩
  · exact ⟨hpart, rfl⟩

/-- s with the tensor work of partition p stopped for a rollback (R310 step 1). -/
def rollStopped (s : State) (p : Nat) : State :=
  ((((s.modRings p (fun r => { r with consuming := false })).loseOutputs p).preemptAll p).stopLists p 0x6402).haltRounds p

theorem rollStopped_only (s : State) (p : Nat) :
    onlyChanges [.parts, .queues, .sites, .mem, .hbm, .streams, .ctr, .colls, .credits, .fetches, .outs, .free] s (rollStopped s p) :=
  (path_haltRounds p (by decide) (path_stopLists p 0x6402 (by decide) (path_preemptAll p (by decide)
    (path_loseOutputs p (by decide) (path_modRings p _ (by decide) (path_refl _ s)))))).frame

theorem rollStopped_part (s : State) (p : Nat) : ((rollStopped s p).part p).rcv = (s.part p).rcv ∧
    ((rollStopped s p).part p).lists = [] ∧ ((rollStopped s p).part p).rings.consuming = false := by
  unfold rollStopped
  have hrings := part_rings s p (fun r => { r with consuming := false })
  generalize s.modRings p (fun r => { r with consuming := false }) = u at hrings
  have hpreempt : onlyChanges [.mem, .free, .sites, .ctr] u ((u.loseOutputs p).preemptAll p) :=
    (path_preemptAll p (by decide) (path_loseOutputs p (by decide) (path_refl _ u))).frame
  generalize (u.loseOutputs p).preemptAll p = v at hpreempt
  have hv : v.part p = u.part p := part_of (hpreempt .parts (by decide)) p
  obtain ⟨⟨-, -, hrcv⟩, hlists⟩ := stop_lists v p 0x6402
  have hconsuming := RunControl.stopLists_consuming v p 0x6402
  generalize v.stopLists p 0x6402 = w at hrcv hlists hconsuming
  have hw : (w.haltRounds p).part p = w.part p :=
    part_of ((path_haltRounds (ks := [.streams]) p (by decide) (path_refl _ w)).frame .parts (by decide)) p
  rw [hw, hrcv, hlists, hconsuming, hv, hrings]
  exact ⟨rfl, rfl, rfl⟩

/-- s with a rollback of partition p entered in its record and counted, where no capture is under way (R310 step 1). -/
def rollEntered (s : State) (p cause : Nat) : State :=
  ((rollStopped s p).modRcv p (fun r =>
    { r with
      rollback := some { cause := cause }
      capture := r.capture.bind (fun c => if c.phase = 0 then none else some { c with cmds := [] }) })).count
    (partCounters p) ctrRollbacks 1

theorem beginRollback_enters {p : Nat} (hroll : (s.part p).rcv.rollback = none) (hcap : (s.part p).rcv.capture = none) (cause : Nat) :
    s.beginRollback p cause none = (rollEntered s p cause).chooseTarget p := by
  obtain ⟨hrcv, -, -⟩ := rollStopped_part s p
  have hcap' : ((rollStopped s p).part p).rcv.capture = none := by rw [hrcv, hcap]
  unfold State.beginRollback rollEntered
  rw [if_neg (by simp [hroll])]
  extract_lets consumed stopped waits asked entered
  have hstopped : stopped = rollStopped s p := rfl
  rw [← hstopped] at hcap' ⊢
  clear_value stopped
  have hwaits : waits = false := by
    show ((stopped.part p).rcv.capture.map (fun c => c.phase == 0)).getD false = false
    rw [hcap']
    rfl
  have hasked : asked = stopped := if_neg (by simp [hwaits])
  clear_value asked
  subst hasked
  rfl

theorem rollEntered_only (s : State) (p cause : Nat) :
    onlyChanges [.parts, .queues, .sites, .mem, .hbm, .streams, .ctr, .colls, .credits, .fetches, .outs, .free] s
      (rollEntered s p cause) := by
  have hstopped := rollStopped_only s p
  unfold rollEntered
  generalize rollStopped s p = u at hstopped
  exact only_trans hstopped (path_count _ _ _ (by decide) (path_modRcv p _ (by decide) (path_refl _ u))).frame

theorem rollEntered_part {p : Nat} (hcap : (s.part p).rcv.capture = none) (cause : Nat) :
    ((rollEntered s p cause).part p).rcv = { (s.part p).rcv with rollback := some { cause := cause }, capture := none } ∧
      ((rollEntered s p cause).part p).lists = [] ∧ ((rollEntered s p cause).part p).rings.consuming = false := by
  obtain ⟨hrcv, hlists, hconsuming⟩ := rollStopped_part s p
  unfold rollEntered
  generalize rollStopped s p = u at hrcv hlists hconsuming
  rw [part_count, part_modRcv, hrcv, hcap]
  exact ⟨rfl, hlists, hconsuming⟩

/-- The rollback of a partition with a committed sachet (R310 steps 1 and 2). -/
theorem beginRollback_targets {p tier : Nat} {x : Sachet} (hroll : (s.part p).rcv.rollback = none)
    (hcap : (s.part p).rcv.capture = none) (ht : s.target p (fun _ => true) = some (x, tier)) (cause : Nat) :
    ((s.beginRollback p cause none).part p).rcv.rollback = some { cause := cause, target := some x.id, tier := tier } ∧
      ((s.beginRollback p cause none).part p).lists = [] ∧
      ((s.beginRollback p cause none).part p).rings.consuming = false ∧ (s.beginRollback p cause none).errq = s.errq := by
  have honly := rollEntered_only s p cause
  obtain ⟨hrcv, hlists, hconsuming⟩ := rollEntered_part hcap cause
  rw [beginRollback_enters hroll hcap]
  generalize rollEntered s p cause = u at honly hrcv hlists hconsuming
  have htarget : u.target p (fun _ => true) = some (x, tier) :=
    (target_of (by rw [hrcv]) (honly .kports (by decide)) (congrArg Boot.pathsOff (honly .boot (by decide))) _).trans ht
  obtain ⟨hchosen, herrq⟩ := chooseTarget_found (cause := cause) (by rw [hrcv]) (by rw [hrcv]) htarget
  rw [hchosen]
  exact ⟨rfl, hlists, hconsuming, herrq.trans (honly .errq (by decide))⟩

/-- A CCC that cannot repeat its commands takes its partition back to the newest committed sachet (R350). -/
theorem cccRestarted_rollsBack {n i p tier : Nat} {x : Sachet} (hi : s.siteOf n = some i) (hp : s.partOfCluster n = some p)
    (hroom : roomFor s (cccErr i p)) (hrepeat : (s.site i).nonRepeat = true) (hstate : (s.part p).state = .running)
    (hroll : (s.part p).rcv.rollback = none) (hcap : (s.part p).rcv.capture = none)
    (htarget : s.target p (fun _ => true) = some (x, tier)) :
    ∃ t, exec (.cccRestarted n) s = .next t ∧ queued s t (cccErr i p) ∧
      (t.part p).rcv.rollback = some { cause := 0x6601, target := some x.id, tier := tier } ∧ (t.part p).lists = [] ∧
      (t.part p).rings.consuming = false := by
  have hsite := cccDown_site (n := n) hroom
  have honly := cccDown_only (n := n) hroom
  have hqueued := cccDown_queued (n := n) hroom
  have hpaths := cccDown_pathsOff (n := n) hroom
  rw [cccRestarted_crashes hi hp, if_pos (by rw [hsite]; exact hrepeat)]
  generalize cccDown s n i p = u at *
  have hpart : u.part p = s.part p := part_of (honly .parts (by decide)) p
  have hrolls : u.rollFor p 0x6601 = u.beginRollback p 0x6601 none := if_pos (.inl (by rw [hpart]; exact hstate))
  obtain ⟨hrollback, hlists, hconsuming, herrq⟩ := beginRollback_targets (by rw [hpart]; exact hroll) (by rw [hpart]; exact hcap)
    ((target_of (by rw [hpart]) (honly .kports (by decide)) hpaths _).trans htarget) 0x6601
  rw [hrolls]
  exact ⟨_, rfl, queued_settled (queued_of hqueued herrq) _ rfl, hrollback, hlists, hconsuming⟩

/-! ### SCH (R351 to R353, R356) -/

/-- The entry of an SCH's crash whose standby takes over. -/
def schErr (s : State) : ErrSpec := { status := 0x6602, unitKind := 0x0A, unit := s.schUnit }

/-- The entry of an SCH's crash that leaves none. -/
def schLostErr (s : State) : ErrSpec := { status := 0x7402, unitKind := 0x0A, unit := s.schUnit }

/-- s with the standby SCH active. -/
def schSwapped (s : State) : State := { s with boot := { s.boot with schB := !s.boot.schB } }

theorem schTakeover_takes (hlost : s.boot.schLost = false) (hstandby : s.boot.schStandby = true)
    (hmirror : s.journal.valid.isSome = true) (hcommit : s.crashCommits 3 = false) (hroom : roomFor s (schErr s)) :
    exec .schTakeover s = answer s (schSwapped (crashed s 2 (schErr s))) := by
  have honly := crashed_only (processor := 2) hroom
  refine congrArg (answer s) ?_
  unfold State.schCrash
  rw [if_neg (by simp [hlost]), if_pos ⟨hstandby, hmirror⟩]
  change (if (crashed s 2 (schErr s)).crashCommits 3 = true then _ else _) = _
  rw [crashCommits_of (honly .update (by decide)) (honly .vals (by decide)) (honly .factory (by decide)), hcommit]
  rfl

/-- s without an SCH, its partitions not yet stopped. -/
def schGone (s : State) : State :=
  { s.raise (schLostErr s) with boot := { (s.raise (schLostErr s)).boot with schLost := true } }

/-- The partitions of s that stop without an SCH. -/
def schStops (s : State) : List Nat :=
  partNumbers.filter (fun p => !(s.part p).state.quiet && (s.part p).state != .safeStop)

theorem schTakeover_stops (hlost : s.boot.schLost = false) (h : s.boot.schStandby = false ∨ s.journal.valid = none) :
    exec .schTakeover s = answer s ((schStops (schGone s)).foldl (fun s p => s.enterSafeStop p 0x7402) (schGone s)) := by
  refine congrArg (answer s) ?_
  unfold State.schCrash State.schedulerLost
  rw [if_neg (by simp [hlost]), if_neg (by rcases h with h | h <;> simp [h]), if_neg (by simp [hlost])]
  rfl

theorem mem_schStops {p : Nat} (hp : p < 4) : p ∈ schStops s ↔ (s.part p).state.quiet = false ∧ (s.part p).state ≠ .safeStop := by
  have hn : p ∈ partNumbers := by unfold partNumbers; simp; omega
  simp [schStops, hn]

/-- Without an SCH every partition that is not quiet is in Safe-stop; the error queue and the processors stand as they are. -/
theorem schStops_stopped (s : State) :
    let t := (schStops s).foldl (fun s p => s.enterSafeStop p 0x7402) s
    (∀ p < 4, (t.part p).state = if (s.part p).state.quiet then (s.part p).state else .safeStop) ∧
      t.errq = s.errq ∧ t.boot = s.boot := by
  obtain ⟨hin, hout, herrq, hboot⟩ := stop_all 0x7402 (schStops s) s
  refine ⟨fun p hp => ?_, herrq, hboot⟩
  by_cases hstop : p ∈ schStops s
  · rw [hin p hstop, ((mem_schStops hp).mp hstop).1]
    rfl
  · rw [hout p hstop]
    split
    · rfl
    · next hquiet =>
      by_contra hstate
      exact hstop ((mem_schStops hp).mpr ⟨by simpa using hquiet, hstate⟩)

/-- The standby takes the place of an SCH that crashes (R352). -/
theorem schTakeover_standby (hlost : s.boot.schLost = false) (hstandby : s.boot.schStandby = true)
    (hmirror : s.journal.valid.isSome = true) (hcommit : s.crashCommits 3 = false) (hroom : roomFor s (schErr s)) :
    ∃ t, exec .schTakeover s = .next t ∧ t.boot.schB = !s.boot.schB ∧ t.boot.schLost = false ∧ queued s t (schErr s) := by
  obtain ⟨b, hboot⟩ := crashed_boot (processor := 2) (e := schErr s) hroom
  have hqueued := crashed_queued (processor := 2) (e := schErr s) hroom
  rw [schTakeover_takes hlost hstandby hmirror hcommit hroom]
  generalize crashed s 2 (schErr s) = u at hboot hqueued ⊢
  have hswapped : queued s (schSwapped u) (schErr s) := hqueued
  exact ⟨_, rfl, (congrArg (fun x : Boot => !x.schB) hboot :), (congrArg Boot.schLost hboot :).trans hlost,
    queued_settled hswapped _ rfl⟩

/-- Without a standby or a valid mirror the SCH is lost, and the partitions stop (R353, R356). -/
theorem schTakeover_none (hlost : s.boot.schLost = false) (hnone : s.boot.schStandby = false ∨ s.journal.valid = none)
    (hroom : roomFor s (schLostErr s)) :
    ∃ t, exec .schTakeover s = .next t ∧ t.boot.schLost = true ∧
      (∀ p < 4, (t.part p).state = if (s.part p).state.quiet then (s.part p).state else .safeStop) ∧
      queued s t (schLostErr s) := by
  obtain ⟨hraise, hqueued⟩ := raise_room (e := schLostErr s) hroom
  have hparts : (schGone s).parts = s.parts := hraise .parts (by decide)
  have hqueued' : queued s (schGone s) (schLostErr s) := hqueued
  obtain ⟨hstates, herrq, hboot⟩ := schStops_stopped (schGone s)
  have hgone : (schGone s).boot.schLost = true := rfl
  rw [schTakeover_stops hlost hnone]
  generalize schGone s = u at hparts hqueued' hstates herrq hboot hgone ⊢
  generalize (schStops u).foldl (fun s p => s.enterSafeStop p 0x7402) u = v at hstates herrq hboot ⊢
  refine ⟨_, rfl, (congrArg Boot.schLost hboot :).trans hgone, fun p hp => ?_, queued_settled (queued_of hqueued' herrq) _ rfl⟩
  have h := hstates p hp
  rw [part_of hparts] at h
  exact h

/-! ### PMC (R339, R354) -/

theorem governorHold_only (s : State) : onlyChanges [.sites, .power] s s.governorHold :=
  (path_governorHold (ks := [.sites, .power]) (by decide) (path_refl _ s)).frame

theorem governorHold_holds (s : State) : s.governorHold.power.governor = true := by
  unfold State.governorHold
  split
  · assumption
  · extract_lets power u
    have hsites : onlyChanges [.sites] u
        (u.allRunning.foldl (fun s i => s.modSite i (fun x => { x with k := max x.k (64 - 96000 / s.siteClock i) })) u) :=
      fold_only _ _ _ (fun s i => modSite_only s i _) u
    exact congrArg Power.governor (hsites .power (by decide))

/-- The entry of a PMC's crash. -/
def pmcErr (s : State) : ErrSpec := { status := 0x6603, unitKind := 0x0A, unit := s.pmcUnit }

/-- s with the active PMC down and the governor holding. -/
def pmcDown (s : State) : State := crashed s.governorHold 1 (pmcErr s)

section
variable (hroom : roomFor s (pmcErr s))
include hroom

theorem governorHold_room : roomFor s.governorHold (pmcErr s) :=
  room_of hroom (governorHold_only s .errq (by decide)) (fun p _ => by rw [part_of (governorHold_only s .parts (by decide))])

theorem pmcDown_only : onlyChanges [.errq, .outs, .boot, .tfb, .caddy, .sites, .power] s (pmcDown s) :=
  only_trans (only_mono (governorHold_only s) (by decide)) (only_mono (crashed_only (governorHold_room hroom)) (by decide))

theorem pmcDown_queued : queued s (pmcDown s) (pmcErr s) := by
  have hseq : s.governorHold.errq = s.errq := governorHold_only s .errq (by decide)
  have h := crashed_queued (processor := 1) (governorHold_room hroom)
  unfold queued at h ⊢
  rw [hseq] at h
  exact h

theorem pmcDown_boot : ∃ b, (pmcDown s).boot = { s.boot with faultOut := b } := by
  have hboot : s.governorHold.boot = s.boot := governorHold_only s .boot (by decide)
  rw [← hboot]
  exact crashed_boot (governorHold_room hroom)
end

theorem governorHold_pmcUnit (s : State) : s.governorHold.pmcUnit = s.pmcUnit := by
  have hboot : s.governorHold.boot = s.boot := governorHold_only s .boot (by decide)
  unfold State.pmcUnit
  rw [hboot]

/-- s with the update of the PMC committed where its crash does that, else with the standby active (R354, R366). -/
def pmcOther (s : State) : State :=
  if s.crashCommits 2 then s.commitUpdate else { s with boot := { s.boot with pmcB := !s.boot.pmcB } }

/-- s with the standby in the place of the PMC that is down, and the governor let go. -/
def pmcSwapped (s : State) : State :=
  { pmcOther s with power := { (pmcOther s).power with governor := false, overSamples := 0 } }

theorem pmcTakeover_crashes (hlost : s.boot.pmcLost = false) : exec .pmcTakeover s = answer s
    (if (pmcDown s).boot.pmcStandby then pmcSwapped (pmcDown s) else (pmcDown s).pmcGone) := by
  refine congrArg (answer s) ?_
  unfold State.pmcCrash
  rw [if_neg (by simp [hlost])]
  dsimp only
  rw [governorHold_pmcUnit]
  rfl

theorem pmcSwapped_stands (hcommit : s.crashCommits 2 = false) : (pmcSwapped s).boot = { s.boot with pmcB := !s.boot.pmcB } ∧
    (pmcSwapped s).power.governor = false ∧ (pmcSwapped s).errq = s.errq := by
  have hother : pmcOther s = { s with boot := { s.boot with pmcB := !s.boot.pmcB } } := if_neg (by simp [hcommit])
  unfold pmcSwapped
  rw [hother]
  exact ⟨rfl, rfl, rfl⟩

theorem pmcGone_holds (s : State) :
    s.pmcGone.boot.pmcLost = true ∧ s.pmcGone.power.governor = true ∧ s.pmcGone.errq = s.errq :=
  ⟨rfl, governorHold_holds s, governorHold_only s .errq (by decide)⟩

section
variable (hlost : s.boot.pmcLost = false) (hroom : roomFor s (pmcErr s))
include hlost hroom

/-- The standby takes the place of a PMC that crashes, and the governor lets go (R354). -/
theorem pmcTakeover_standby (hstandby : s.boot.pmcStandby = true) (hcommit : s.crashCommits 2 = false) :
    ∃ t, exec .pmcTakeover s = .next t ∧ t.boot.pmcB = !s.boot.pmcB ∧ t.boot.pmcLost = false ∧ t.power.governor = false ∧
      queued s t (pmcErr s) := by
  have honly := pmcDown_only hroom
  have hqueued := pmcDown_queued hroom
  obtain ⟨b, hboot⟩ := pmcDown_boot hroom
  rw [pmcTakeover_crashes hlost, if_pos (by rw [hboot]; exact hstandby)]
  generalize pmcDown s = u at honly hqueued hboot ⊢
  obtain ⟨hswap, hgovernor, herrq⟩ := pmcSwapped_stands
    ((crashCommits_of (honly .update (by decide)) (honly .vals (by decide)) (honly .factory (by decide)) 2).trans hcommit)
  generalize pmcSwapped u = v at hswap hgovernor herrq ⊢
  rw [hboot] at hswap
  exact ⟨_, rfl, (congrArg Boot.pmcB hswap :), (congrArg Boot.pmcLost hswap :).trans hlost, hgovernor,
    queued_settled (queued_of hqueued herrq) _ rfl⟩

/-- Without a standby the governor goes on holding (R339). -/
theorem pmcTakeover_none (hstandby : s.boot.pmcStandby = false) :
    ∃ t, exec .pmcTakeover s = .next t ∧ t.boot.pmcLost = true ∧ t.power.governor = true ∧ queued s t (pmcErr s) := by
  have hqueued := pmcDown_queued hroom
  obtain ⟨b, hboot⟩ := pmcDown_boot hroom
  rw [pmcTakeover_crashes hlost, if_neg (by rw [hboot]; simp [hstandby])]
  generalize pmcDown s = u at hqueued ⊢
  obtain ⟨hgone, hgovernor, herrq⟩ := pmcGone_holds u
  exact ⟨_, rfl, hgone, hgovernor, queued_settled (queued_of hqueued herrq) _ rfl⟩
end

/-! ### SEC (R273, R355) -/

/-- The entry of a SEC's failure. -/
def secErr : ErrSpec := { status := 0x7401, unitKind := 0x0A, unit := secUnit }

/-- s with SEC down. -/
def secDown (s : State) : State :=
  { crashed s 0 secErr with boot := { (crashed s 0 secErr).boot with secFailed := true } }

/-- s with the encrypted streams failed. -/
def streamsFailed (s : State) : State :=
  (partNumbers.flatMap s.boundStreams).foldl (fun s n => if (s.stream n).encrypted then s.failStream n 0x0B else s) s

/-- s with what SEC held gone. -/
def secEmptied (s : State) : State :=
  { s with
    sec := { s.sec with keys := [], sessions := [], chunksIn := [] }
    update := if 1 ≤ s.update.state ∧ s.update.state ≤ 3 then {} else s.update
    recStage := {}, trustStage := {}, applyWait := none, commitWait := none }

/-- s with partition p no longer writing to tier 3. -/
def tier3Ended (s : State) (p : Nat) : State := s.modRcv p (fun r => { r with tier3Next := none })

/-- s with partition p no longer writing to tier 3, and draining where it trains or serves. -/
def secDrains (s : State) (p : Nat) : State :=
  if ((tier3Ended s p).part p).mode ≠ 2 ∧
      (((tier3Ended s p).part p).state = .running ∨ ((tier3Ended s p).part p).state = .hostLost) then ((tier3Ended s p).drain p).1
  else tier3Ended s p

theorem secFailed_fails (h : s.boot.secFailed = false) :
    exec .secFailed s = answer s (partNumbers.foldl secDrains (secEmptied (streamsFailed (secDown s)))) := by
  refine congrArg (answer s) ?_
  unfold State.secCrash
  rw [if_neg (by simp [h])]
  rfl

/-- Drains bring back nothing that SEC held. -/
theorem secDrains_only (s : State) (l : List Nat) :
    onlyChanges [.errq, .parts, .queues, .sites, .mem, .hbm, .streams, .ctr, .colls, .credits, .fetches, .xfers, .tfb, .boot, .outs, .free]
      s (l.foldl secDrains s) := by
  refine (path_foldl secDrains l (fun u p h => ?_) s (path_refl _ s)).frame
  have hended : Laws.Path [.errq, .parts, .queues, .sites, .mem, .hbm, .streams, .ctr, .colls, .credits, .fetches, .xfers, .tfb, .boot,
      .outs, .free] s (tier3Ended u p) := path_modRcv p _ (by decide) h
  unfold secDrains
  exact path_ite (fun _ => path_drain p (by decide) hended) (fun _ => hended)

section
variable {p : Nat}

/-- A Draining partition that waits for its lists goes no further (R47). -/
theorem progressOnce_waits (hstate : (s.part p).state = .draining) (hrun : (s.part p).runTo = .lists) (hlists : (s.part p).lists ≠ []) :
    s.progressOnce p = s := by
  unfold State.progressOnce
  simp [hstate, hrun, hlists]

/-- s with partition p draining and waiting for its lists. -/
def drainsLists (s : State) (p : Nat) : State :=
  ((s.modRings p (fun r => { r with consuming := false })).setPState p .draining).setRunTo p .lists

theorem drainsLists_part (s : State) (p : Nat) : ∃ tick, (drainsLists s p).part p = { s.part p with
    state := .draining, idleTick := tick, runTo := .lists, rings := { (s.part p).rings with consuming := false } } := by
  obtain ⟨tick, h⟩ := pst (s.modRings p (fun r => { r with consuming := false })) p .draining
  exact ⟨tick, by rw [drainsLists, part_setRunTo, h, part_rings]⟩

theorem drainsLists_only (s : State) (p : Nat) : onlyChanges [.parts, .outs] s (drainsLists s p) :=
  (path_setRunTo p _ (by decide) (path_setPState p _ (by decide) (path_modRings p _ (by decide) (path_refl _ s)))).frame

theorem drainsLists_part_other {q : Nat} (h : q ≠ p) : (drainsLists s p).part q = s.part q :=
  (part_modPart_other _ _ _ _ h).trans ((setPState_part_other _ _ _ _ h).trans (part_modPart_other _ _ _ _ h))

/-- The drain of a partition that serves, with lists under way and no stream (R47). -/
theorem drain_serving (hstate : (s.part p).state = .running) (hmode : (s.part p).mode = 1) (hlists : (s.part p).lists ≠ [])
    (hbound : s.boundStreams p = []) : (s.drain p).1 = drainsLists s p := by
  obtain ⟨tick, hpart⟩ := drainsLists_part s p
  have hpump : (drainsLists s p).pumpAll p = drainsLists s p :=
    RunControl.pumpAll_unbound ((bound_of (drainsLists_only s p .streams (by decide)) p).trans hbound)
  have honce : (drainsLists s p).progressOnce p = drainsLists s p :=
    progressOnce_waits (by rw [hpart]) (by rw [hpart]) (by rw [hpart]; exact hlists)
  unfold State.drain
  extract_lets q drains runs
  have hruns : runs = drainsLists s p := by
    show (if (s.part p).mode = 0 then _ else if (s.part p).mode = 1 ∨ _ then _ else _) = _
    rw [if_neg (by omega), if_pos (.inl hmode)]
    rfl
  rw [if_neg (by rintro ⟨hrun, -⟩; exact hrun hstate), hruns]
  dsimp only
  unfold State.progress
  rw [hpump, honce, honce, honce, honce]

theorem tier3Ended_part (s : State) (p : Nat) :
    (tier3Ended s p).part p = { s.part p with rcv := { (s.part p).rcv with tier3Next := none } } := part_modRcv s p _

theorem tier3Ended_state (s : State) (p q : Nat) : ((tier3Ended s p).part q).state = (s.part q).state :=
  mod_state s p q _ (fun _ => rfl)

/-- A partition that does not run only ends its writes to tier 3. -/
theorem secDrains_idle (h : (s.part p).state ≠ .running ∧ (s.part p).state ≠ .hostLost) : secDrains s p = tier3Ended s p := by
  refine if_neg ?_
  rw [tier3Ended_state]
  rintro ⟨-, hrun | hrun⟩
  · exact h.1 hrun
  · exact h.2 hrun

theorem secDrains_serving (hstate : (s.part p).state = .running) (hmode : (s.part p).mode = 1) (hlists : (s.part p).lists ≠ [])
    (hbound : s.boundStreams p = []) : secDrains s p = drainsLists (tier3Ended s p) p := by
  have hpart := tier3Ended_part s p
  have hrun : ((tier3Ended s p).part p).state = .running := by rw [hpart]; exact hstate
  have hserves : ((tier3Ended s p).part p).mode = 1 := by rw [hpart]; exact hmode
  have hwork : ((tier3Ended s p).part p).lists ≠ [] := by rw [hpart]; exact hlists
  unfold secDrains
  rw [if_pos ⟨by omega, .inl hrun⟩, drain_serving hrun hserves hwork ((bound_of rfl p).trans hbound)]

/-- Partitions that do not run leave partition p and the state of every partition. -/
theorem secDrains_others {l : List Nat} (hp : p ∉ l) (h : ∀ q ∈ l, (s.part q).state ≠ .running ∧ (s.part q).state ≠ .hostLost) :
    (l.foldl secDrains s).part p = s.part p ∧ onlyChanges [.parts] s (l.foldl secDrains s) ∧
      ∀ q, ((l.foldl secDrains s).part q).state = (s.part q).state := by
  induction l generalizing s with
  | nil => exact ⟨rfl, only_refl _ s, fun _ => rfl⟩
  | cons a l ih =>
    obtain ⟨ha, hp⟩ := List.ne_and_not_mem_of_not_mem_cons hp
    obtain ⟨hpart, honly, hstates⟩ := ih (s := tier3Ended s a) hp (fun q hq => by
      rw [tier3Ended_state]
      exact h q (List.mem_cons_of_mem _ hq))
    rw [List.foldl_cons, secDrains_idle (h a List.mem_cons_self)]
    exact ⟨hpart.trans (part_modPart_other _ _ _ _ ha),
      only_trans (only_mono (path_modRcv (ks := [.parts]) a _ (by decide) (path_refl _ s)).frame (by decide)) honly,
      fun q => (hstates q).trans (tier3Ended_state s a q)⟩

/-- Partition p, which serves and alone runs, drains, and nothing enters the error queue. -/
theorem secDrains_alone (hp : p < 4) (hbound : s.boundStreams p = [])
    (hothers : ∀ q < 4, q ≠ p → (s.part q).state ≠ .running ∧ (s.part q).state ≠ .hostLost)
    (hstate : (s.part p).state = .running) (hmode : (s.part p).mode = 1) (hlists : (s.part p).lists ≠ []) :
    let t := partNumbers.foldl secDrains s
    (t.part p).state = .draining ∧ (t.part p).rings.consuming = false ∧ (t.part p).rcv.tier3Next = none ∧
      onlyChanges [.parts, .outs] s t := by
  have hmem : p ∈ partNumbers := by unfold partNumbers; simp; omega
  have hless : ∀ q ∈ partNumbers, q < 4 := by decide
  have hnodup : partNumbers.Nodup := by decide
  obtain ⟨before, after, hsplit⟩ := List.append_of_mem hmem
  rw [hsplit] at hless hnodup
  have hfirst : p ∉ before := fun h => List.disjoint_of_nodup_append hnodup h List.mem_cons_self
  have hlast : p ∉ after := (List.nodup_cons.mp (List.Nodup.of_append_right hnodup)).1
  have hidle : ∀ q ∈ before ++ p :: after, q ≠ p → (s.part q).state ≠ .running ∧ (s.part q).state ≠ .hostLost :=
    fun q hq => hothers q (hless q hq)
  obtain ⟨hpart, honly, hstates⟩ := secDrains_others (s := s) (l := before) hfirst (fun q hq =>
    hidle q (List.mem_append_left _ hq) (fun e => hfirst (e ▸ hq)))
  rw [hsplit, List.foldl_append, List.foldl_cons]
  generalize before.foldl secDrains s = u at hpart honly hstates
  rw [secDrains_serving (by rw [hpart]; exact hstate) (by rw [hpart]; exact hmode) (by rw [hpart]; exact hlists)
    ((bound_of (honly .streams (by decide)) p).trans hbound)]
  obtain ⟨tick, hdrains⟩ := drainsLists_part (tier3Ended u p) p
  have hother : ∀ q, q ≠ p → ((drainsLists (tier3Ended u p) p).part q).state = (s.part q).state := fun q hq => by
    rw [drainsLists_part_other hq, tier3Ended_state, hstates]
  have honly' : onlyChanges [.parts, .outs] s (drainsLists (tier3Ended u p) p) :=
    only_trans (only_mono honly (by decide)) (only_trans (only_mono (path_modRcv (ks := [.parts]) p _ (by decide)
      (path_refl _ u)).frame (by decide)) (drainsLists_only _ p))
  rw [tier3Ended_part] at hdrains
  generalize drainsLists (tier3Ended u p) p = v at hdrains hother honly'
  obtain ⟨hpart', hrest, -⟩ := secDrains_others (s := v) (l := after) hlast (fun q hq => by
    have hq' : q ≠ p := fun e => hlast (e ▸ hq)
    rw [hother q hq']
    exact hidle q (List.mem_append_right _ (List.mem_cons_of_mem _ hq)) hq')
  dsimp only
  rw [hpart', hdrains]
  exact ⟨rfl, rfl, rfl, only_trans honly' (only_mono hrest (by decide))⟩

theorem streamsFailed_unbound (h : ∀ q < 4, s.boundStreams q = []) : streamsFailed s = s := by
  have hnone : partNumbers.flatMap s.boundStreams = [] :=
    List.flatMap_eq_nil_iff.mpr (fun q hq => h q (by revert q; decide))
  unfold streamsFailed
  rw [hnone]
  rfl
end

/-- What SEC held is gone with it (R355). -/
theorem secFailed_empties (hfailed : s.boot.secFailed = false) : ∃ t, exec .secFailed s = .next t ∧
    t.sec.keys = [] ∧ t.sec.sessions = [] ∧ t.trustStage = {} ∧ t.recStage = {} := by
  rw [secFailed_fails hfailed]
  generalize streamsFailed (secDown s) = u
  have hdrains := secDrains_only (secEmptied u) partNumbers
  generalize partNumbers.foldl secDrains (secEmptied u) = v at hdrains
  have hsec : v.sec = (secEmptied u).sec := hdrains .sec (by decide)
  exact ⟨_, rfl, (congrArg Sec.keys hsec :), (congrArg Sec.sessions hsec :), hdrains .trustStage (by decide),
    hdrains .recStage (by decide)⟩

/-- Without SEC the one partition that serves drains (R355). -/
theorem secFailed_drains {p : Nat} (hfailed : s.boot.secFailed = false) (hroom : roomFor s secErr) (hp : p < 4)
    (hbound : ∀ q < 4, s.boundStreams q = [])
    (hothers : ∀ q < 4, q ≠ p → (s.part q).state ≠ .running ∧ (s.part q).state ≠ .hostLost)
    (hstate : (s.part p).state = .running) (hmode : (s.part p).mode = 1) (hlists : (s.part p).lists ≠ []) :
    ∃ t, exec .secFailed s = .next t ∧ t.boot.secFailed = true ∧ (t.part p).state = .draining ∧
      (t.part p).rings.consuming = false ∧ (t.part p).rcv.tier3Next = none ∧ queued s t secErr := by
  have honly := crashed_only (processor := 0) (e := secErr) hroom
  have hqueued : queued s (secDown s) secErr := crashed_queued (processor := 0) (e := secErr) hroom
  have hparts : (secDown s).parts = s.parts := honly .parts (by decide)
  have hstreams : (secDown s).streams = s.streams := honly .streams (by decide)
  have hdown : (secDown s).boot.secFailed = true := rfl
  rw [secFailed_fails hfailed]
  generalize secDown s = u at hqueued hparts hstreams hdown ⊢
  rw [streamsFailed_unbound (fun q hq => (bound_of hstreams q).trans (hbound q hq))]
  have hpart (q : Nat) : (secEmptied u).part q = s.part q := part_of hparts q
  have hunbound : (secEmptied u).boundStreams p = [] := (bound_of hstreams p).trans (hbound p hp)
  have hkept : (secEmptied u).boot = u.boot ∧ (secEmptied u).errq = u.errq := ⟨rfl, rfl⟩
  generalize secEmptied u = v at hpart hunbound hkept ⊢
  obtain ⟨hdraining, hconsuming, htier3, hkeeps⟩ := secDrains_alone hp hunbound
    (fun q hq hne => by rw [hpart]; exact hothers q hq hne) (by rw [hpart]; exact hstate) (by rw [hpart]; exact hmode)
    (by rw [hpart]; exact hlists)
  generalize partNumbers.foldl secDrains v = w at hdraining hconsuming htier3 hkeeps ⊢
  have hboot : w.boot = u.boot := (hkeeps .boot (by decide)).trans hkept.1
  have herrq : w.errq = u.errq := (hkeeps .errq (by decide)).trans hkept.2
  exact ⟨_, rfl, (congrArg Boot.secFailed hboot :).trans hdown, hdraining, hconsuming, htier3,
    queued_settled (queued_of hqueued herrq) _ rfl⟩
end

/-- Settles O55: each crash is one change of the state before, with its entry in the error queue: the queues of a CCC with their
command back in front or the partition's rollback, the standby in the place of the crashed SCH or PMC, and where SEC is gone the
drain of the partition that serves. -/
theorem processorsAreReplaced : Obligations.ProcessorsAreReplaced := by
  unfold Obligations.ProcessorsAreReplaced
  intro s
  refine ⟨?restart, ?secFault, ?pmcFault, ?schFault, ?cccFault, fun n i p hi hp _ hroom => ⟨?reissue, ?rollback⟩,
    fun hlost => ⟨?sch, ?noSch⟩, fun hlost hroom => ⟨?pmc, ?noPmc⟩, fun hfailed hroom => ⟨?keys, ?drains⟩⟩
  case restart =>
    intro processor c h
    rw [componentFault_restarts h]
    exact ⟨_, rfl, only_answer (path_modPort (ks := [.caddy]) _ _ (by decide) (path_refl _ s)).frame,
      port_modPort s (portKey processor c) (fun p => p.resent s.time.ticks)⟩
  case secFault => exact fun c h => componentFault_crashes h
  case pmcFault => exact fun c h => componentFault_crashes h
  case schFault => exact fun c h => componentFault_crashes h
  case cccFault =>
    intro n c h
    rw [componentFault_crashes h, if_neg (by omega), if_neg (by omega), if_neg (by omega), Nat.add_sub_cancel_left]
    rfl
  case reissue =>
    exact fun hrepeat r c k hsince hcmd hkind hlow hhigh =>
      cccRestarted_reissues hi hp hroom hrepeat hsince hcmd hkind hlow hhigh
  case rollback =>
    exact fun hrepeat hstate hroll hcap x tier htarget => cccRestarted_rollsBack hi hp hroom hrepeat hstate hroll hcap htarget
  case sch => exact fun hstandby hmirror hcommit hroom => schTakeover_standby hlost hstandby hmirror hcommit hroom
  case noSch => exact fun hnone hroom => schTakeover_none hlost hnone hroom
  case pmc => exact fun hstandby hcommit => pmcTakeover_standby hlost hroom hstandby hcommit
  case noPmc => exact fun hstandby => pmcTakeover_none hlost hroom hstandby
  case keys => exact secFailed_empties hfailed
  case drains =>
    exact fun p hp hbound hothers hstate hmode hlists _ => secFailed_drains hfailed hroom hp hbound hothers hstate hmode hlists

end Sys2Proof.Proofs.ProcessorCrashes

/-!
SUPPORT. What stands before a Caddy entry (R371 to R379, R469, R471): the checks of the gate one after the other, what the gate
leaves of a request that passes, and the statement of O10 from these.
-/

namespace Sys2Proof.Proofs.CaddyGate

open Sys2Proof Sys2Proof.Machine Sys2Proof.Safety

/-- s as the gate leaves it for a request that passes: the replay counter of an authenticated frame's source is raised
(R376). -/
def counted (s : State) (r : Req) : State :=
  if r.route = .port ∧ r.auth then
    { s with caddy := { s.caddy with counters := Tab.set s.caddy.counters (sourceOf r) r.counter } }
  else s

theorem counted_counters (s : State) (r : Req) :
    ∃ c, counted s r = { s with caddy := { s.caddy with counters := c } } := by
  by_cases h : r.route = .port ∧ r.auth = true
  · exact ⟨_, if_pos h⟩
  · exact ⟨s.caddy.counters, if_neg h⟩

/-- A request that fares as x passes exactly when P holds, and then leaves u. -/
def passesWhen (u : State) (P : Prop) (x : State × Gate) : Prop := (x.2 = .pass ↔ P) ∧ (x.2 = .pass → x.1 = u)

/-- A check of the gate: a request that it stops does not pass, and one that it does not stop fares as the rest says. -/
theorem passesWhen_ite {c P : Prop} [Decidable c] {t u : State} {g : Gate} {x : State × Gate} (hg : g ≠ .pass)
    (h : passesWhen u P x) : passesWhen u (¬c ∧ P) (if c then (t, g) else x) := by
  by_cases hc : c
  · simp [passesWhen, hc, hg]
  · simpa [passesWhen, hc] using h

/-- The gate lets a request pass when none of its checks, in their order, stops it. -/
theorem gate_passesWhen (s : State) (r : Req) (op i j : Nat) : passesWhen (counted s r)
    (¬(r.route = .port ∧ (!s.frameOk r (op == 4)) = true) ∧
      ¬((!(!s.boot.secFailed && s.boot.power != 0 && (s.boot.power == 2 || r.route != .pcie))) = true) ∧
      ¬(s.boot.step = 0xFF ∧ (r.route ≠ .i3c ∨ (!recoveryIndex i j) = true)) ∧
      ¬(r.route = .port ∧ r.auth = true ∧
        (!(r.tagOk && s.nor.portKey.isSome && decide (Tab.get s.caddy.counters 0 (sourceOf r) < r.counter))) = true) ∧
      ¬(r.version ≠ 1 ∨ r.reserved ≠ 0) ∧
      s.caddy.kept.find? (fun k => k.source == sourceOf r && k.txn == r.txn) = none ∧
      ¬(r.route = .port ∧ (!(s.secState == 0 || r.auth || op == 4 ||
        ((op == 1 || op == 3) && (i / 4096 == 1 || i / 4096 == 5) && s.valNat 0xA200 3 == 1))) = true) ∧
      ¬((!(op == 4) && (if op == 2 then s.rights r.route i != 3 else !bit (s.rights r.route i) 0)) = true) ∧
      ¬(op = 2 ∧ s.boot.step ≠ 0x0A ∧ (!([0x84, 0x90, 0x91].contains (i / 256))) = true) ∧ True)
    (s.gate r op i j) := by
  unfold State.gate
  extract_lets ident live _ u open' right
  have hu : u = counted s r := rfl
  obtain ⟨c, hc⟩ := counted_counters s r
  rw [hc] at hu ⊢
  clear_value u
  subst hu
  refine passesWhen_ite (by decide) (passesWhen_ite (by decide) (passesWhen_ite (by decide) (passesWhen_ite (by decide)
    (passesWhen_ite nofun ?_))))
  cases hkept : s.caddy.kept.find? (fun k => k.source == sourceOf r && k.txn == r.txn) with
  | some k => simp [passesWhen]
  | none =>
    simp only [true_and]
    exact passesWhen_ite nofun (passesWhen_ite nofun (passesWhen_ite nofun ⟨by simp, fun _ => rfl⟩))

/-- A request that passes is served on a state that differs in the replay counters only. -/
theorem gate_counted {s : State} {r : Req} {op i j : Nat} (h : admits s r op i j) :
    s.gate r op i j = (counted s r, .pass) := Prod.ext ((gate_passesWhen s r op i j).2 h) h

/-- Settles O10: each check of the gate, put as what a request that passes meets. -/
theorem caddyGatePassesExactlyWhen : Obligations.CaddyGatePassesExactlyWhen := by
  unfold Obligations.CaddyGatePassesExactlyWhen
  intro s r op i j
  refine (gate_passesWhen s r op i j).1.trans ?_
  have hframe : ¬(r.route = .port ∧ (!s.frameOk r (op == 4)) = true) ↔
      (r.route = .port → s.frameOk r (op == 4) = true) := by
    simp
  have hlive : ¬((!(!s.boot.secFailed && s.boot.power != 0 && (s.boot.power == 2 || r.route != .pcie))) = true) ↔
      s.boot.secFailed = false ∧ s.boot.power ≠ 0 ∧ (r.route = .pcie → s.boot.power = 2) := by
    by_cases hr : r.route = .pcie <;> simp [hr, and_assoc]
  have hrecovery : ¬(s.boot.step = 0xFF ∧ (r.route ≠ .i3c ∨ (!recoveryIndex i j) = true)) ↔
      (s.boot.step = 0xFF → r.route = .i3c ∧ recoveryIndex i j = true) := by
    simp
  have hauth : ¬(r.route = .port ∧ r.auth = true ∧
      (!(r.tagOk && s.nor.portKey.isSome && decide (Tab.get s.caddy.counters 0 (sourceOf r) < r.counter))) = true) ↔
      (r.route = .port → r.auth = true →
        r.tagOk = true ∧ s.nor.portKey.isSome = true ∧ Tab.get s.caddy.counters 0 (sourceOf r) < r.counter) := by
    simp [and_assoc, Option.isSome_iff_ne_none]
  have hkept : s.caddy.kept.find? (fun k => k.source == sourceOf r && k.txn == r.txn) = none ↔
      ∀ k ∈ s.caddy.kept, ¬(k.source = sourceOf r ∧ k.txn = r.txn) := by
    simp
  have hopen : ¬(r.route = .port ∧ (!(s.secState == 0 || r.auth || op == 4 ||
      ((op == 1 || op == 3) && (i / 4096 == 1 || i / 4096 == 5) && s.valNat 0xA200 3 == 1))) = true) ↔
      (r.route = .port → s.secState = 0 ∨ r.auth = true ∨ op = 4 ∨
        ((op = 1 ∨ op = 3) ∧ (i / 4096 = 1 ∨ i / 4096 = 5) ∧ s.valNat 0xA200 3 = 1)) := by
    simp only [not_and, Bool.not_eq_true', Bool.not_eq_false, Bool.or_eq_true, Bool.and_eq_true, beq_iff_eq, or_assoc,
      and_assoc]
  have hrights : ¬((!(op == 4) && (if op == 2 then s.rights r.route i != 3 else !bit (s.rights r.route i) 0)) = true) ↔
      (op ≠ 4 → op ≠ 2 → bit (s.rights r.route i) 0 = true) ∧ (op = 2 → s.rights r.route i = 3) := by
    by_cases h4 : op = 4
    · simp [h4]
    · by_cases h2 : op = 2 <;> simp [h2, h4]
  have hready : ¬(op = 2 ∧ s.boot.step ≠ 0x0A ∧ (!([0x84, 0x90, 0x91].contains (i / 256))) = true) ↔
      (op = 2 → s.boot.step = 0x0A ∨ i / 256 = 0x84 ∨ i / 256 = 0x90 ∨ i / 256 = 0x91) := by
    simp [or_iff_not_imp_left]
  rw [hframe, hlive, hrecovery, hauth, hkept, hopen, hrights, hready, not_or, not_not, not_not, and_true]
  constructor
  · rintro ⟨frame, live, recovery, auth, version, kept, isOpen, ⟨reads, writes⟩, ready⟩
    exact ⟨live, recovery, frame, auth, version, kept, isOpen, reads, fun h => ⟨writes h, ready h⟩⟩
  · rintro ⟨live, recovery, frame, auth, version, kept, isOpen, reads, writes⟩
    exact ⟨frame, live, recovery, auth, version, kept, isOpen, ⟨reads, fun h => (writes h).1⟩, fun h => (writes h).2⟩

end Sys2Proof.Proofs.CaddyGate

/-!
SUPPORT. Caddy reads, describes and identify requests (R370, R372) and the window of function 0 (R378): what a read of an entry
sees of the service, what a served request answers, and the statements of O11 and O37 from these.
-/

namespace Sys2Proof.Proofs.CaddyReads

open Sys2Proof Sys2Proof.Machine Sys2Proof.Safety Sys2Proof.Laws Sys2Proof.Laws.Shared Sys2Proof.Proofs.CaddyGate

/-! ### Requests that pass -/

/-- A request that passes and is answered: what serves it runs on the state that the gate leaves. -/
theorem serve_counted {s u : State} {r : Req} {op i j st : Nat} {v : List Byte}
    (f : State → State × Option (Nat × List Byte)) (h : admits s r op i j) (hf : f (counted s r) = (u, some (st, v))) :
    s.serve r op i j f = u.respond r op i j st v := by
  unfold State.serve
  rw [gate_counted h]
  dsimp only
  rw [hf]

/-- Read data of a route are the records of its ring from its cursor on, at most 4 (R389). -/
theorem readLog_records (s : State) (route : Nat) : (s.readLog route).2 =
    (((s.ring route).1.filter (fun x => decide (Tab.get s.log.cursor 0 route ≤ x.seq))).take 4).flatMap LogRec.bytes := by
  unfold State.readLog
  extract_lets got
  cases h : got.getLast? with
  | none => exact (congrArg (List.flatMap LogRec.bytes) (List.getLast?_eq_none_iff.mp h)).symm
  | some x => rfl

/-- No entry shows the replay counters. -/
theorem readEntry_counted (s : State) (r : Req) (route i j : Nat) :
    ((counted s r).readEntry route i j).2 = (s.readEntry route i j).2 := by
  obtain ⟨c, hc⟩ := counted_counters s r
  rw [hc]
  unfold State.readEntry
  cases dictFind i j with
  | none => rfl
  | some e =>
    simp only [apply_ite Prod.snd, readLog_records]
    rfl

theorem counted_address (s : State) (r : Req) : (counted s r).address = s.address := by
  obtain ⟨c, hc⟩ := counted_counters s r
  rw [hc]
  rfl

theorem counted_identifyValue (s : State) (r : Req) : (counted s r).identifyValue = s.identifyValue := by
  obtain ⟨c, hc⟩ := counted_counters s r
  rw [hc]
  rfl

theorem readRequest_answers {s : State} {r : Req} {i j : Nat} (offset : Nat) (h : admits s r 1 i j) :
    s.readRequest r i j offset = ((counted s r).readEntry (Route.code r.route) i j).1.respond r 1 i j
      (s.readEntry (Route.code r.route) i j).2.1 (((s.readEntry (Route.code r.route) i j).2.2.drop offset).take 1024) := by
  rw [← readEntry_counted s r]
  exact serve_counted _ h rfl

theorem caddyRead_answers {s : State} {r : Req} {i j : Nat} (offset : Nat) (h : admits s r 1 i j) :
    ∃ t, exec (.caddyRead r i j offset) s = .next t ∧ respondedWith t r 1 i j (s.readEntry (Route.code r.route) i j).2.1
      (((s.readEntry (Route.code r.route) i j).2.2.drop offset).take 1024) :=
  ⟨_, congrArg (answer s) (readRequest_answers offset h), respondedWith_respond _ _ _ _ _ _ _⟩

theorem readEntry_unknown {s : State} {i j : Nat} (route : Nat) (h : dictFind i j = none) :
    s.readEntry route i j = (s, 0x1203, []) := by
  unfold State.readEntry
  rw [h]

theorem caddyDescribe_answers {s : State} {r : Req} {i j : Nat} (offset : Nat) (h : admits s r 3 i j) :
    ∃ t, exec (.caddyDescribe r i j offset) s = .next t ∧
      respondedWith t r 3 i j (if (dictFind i j).isSome then 0 else 0x1203)
        ((((s.describe i j).getD []).drop offset).take 1024) := by
  have hd : (counted s r).describe i j = s.describe i j := by
    unfold State.describe
    rw [counted_address]
  refine ⟨_, congrArg (answer s) (serve_counted (u := counted s r) (st := if (dictFind i j).isSome then 0 else 0x1203)
    (v := (((s.describe i j).getD []).drop offset).take 1024) _ h ?value), respondedWith_respond _ _ _ _ _ _ _⟩
  case value =>
    rw [hd]
    unfold State.describe
    cases dictFind i j with
    | none => simp
    | some e => rfl

theorem caddyIdentify_answers {s : State} {r : Req} {broadcast : Bool}
    (h : admits s (if broadcast then { r with dest := 1 } else r) 4 0 0) :
    ∃ t, exec (.caddyIdentify r broadcast) s = .next t ∧ respondedWith t r 4 0 0 0 s.identifyValue := by
  have hs := serve_counted (fun s => (s, some (0, s.identifyValue))) h (by rw [counted_identifyValue])
  refine ⟨_, congrArg (answer s) hs, ?_⟩
  have hr := respondedWith_respond (counted s (if broadcast then { r with dest := 1 } else r))
    (if broadcast then { r with dest := 1 } else r) 4 0 0 0 s.identifyValue
  cases broadcast <;> exact hr

/-- Settles O11: a read by what the entry reads as, the others by their value. -/
theorem caddyReadsAreAnswered : Obligations.CaddyReadsAreAnswered := by
  unfold Obligations.CaddyReadsAreAnswered
  intro s r i j offset broadcast
  refine ⟨caddyRead_answers offset, fun h hnone => ?unknown, caddyDescribe_answers offset, caddyIdentify_answers⟩
  case unknown =>
    have hread := caddyRead_answers offset h
    rwa [readEntry_unknown _ hnone, List.drop_nil, List.take_nil] at hread

/-! ### The window of function 0 (R378) -/

theorem readEntry_caddy (s : State) (route i j : Nat) : (s.readEntry route i j).1.caddy = s.caddy :=
  (path_readEntry (ks := [.log, .free]) route i j (by decide) (path_refl _ s)).frame .caddy (by decide)

theorem counted_window (s : State) (r : Req) : (counted s r).caddy.discard = s.caddy.discard := by
  obtain ⟨c, hc⟩ := counted_counters s r
  rw [hc]

/-- The response to a request of the window stands in the response area (R378). -/
theorem respond_window {s : State} {r : Req} (op i j st : Nat) (v : List Byte) (hr : r.route = .pcie)
    (hd : s.caddy.discard = false) :
    (s.respond r op i j st v).caddy.busy = false ∧ (s.respond r op i j st v).caddy.ready = true ∧
      (s.respond r op i j st v).caddy.rsp = responseBytes op r.txn i j st v := by
  have hkeep : (s.keepResponse r op i j st v).caddy.discard = false := hd
  unfold State.respond State.sendResponse
  rw [hr]
  dsimp only
  rw [hkeep]
  exact ⟨rfl, rfl, rfl⟩

theorem windowRequest_reads {s : State} (h : field (padTo 1056 s.caddy.req) 1 1 = 1) :
    let b := padTo 1056 s.caddy.req
    s.windowRequest = s.readRequest (windowReq b) (field b 8 2) (field b 0x0A 1) (field b 0x10 4) := by
  unfold State.windowRequest
  exact if_pos h

theorem caddyDb_submits {s : State} (hp : s.boot.power = 2) (hb : s.caddy.busy = false) :
    exec (.caddyDb 1) s = answerTime s { s with caddy := { s.caddy with busy := true } }.windowRequest := by
  refine congrArg (answerTime s) ?_
  rw [if_neg (not_not.mpr hp), if_neg (by simp [hb])]

theorem caddyDb_drops {s : State} {v : Nat} (hp : s.boot.power = 2) (h : s.caddy.busy = true ∨ v ≠ 1) :
    exec (.caddyDb v) s = answerTime s
      { s with caddy := { s.caddy with doorbellErr0 := (s.caddy.doorbellErr0 + 1) % 4294967296 } } := by
  refine congrArg (answerTime s) ?_
  rw [if_neg (not_not.mpr hp), if_pos h]
  unfold State.refuseHost
  rw [if_neg (not_not.mpr hp), if_pos rfl]

theorem caddyRsp_reads {s : State} (hp : s.boot.power = 2) :
    exec .caddyRsp s = answer s
      ({ s with caddy := { s.caddy with ready := false } }.out (.reg 0 0x1800 (ofLe s.caddy.rsp))) :=
  congrArg (answer s) (if_neg (not_not.mpr hp))

theorem setCaddy_only (s : State) (c : Caddy) : onlyChanges [.caddy] s { s with caddy := c } :=
  (path_set_caddy (ks := [.caddy]) c (by decide) (path_refl _ s)).frame

/-- Settles O37: the request in the window is a read, its response stands in the response area, and the doorbell and the
response register change the service only. -/
theorem caddyWindowServesOneRequest : Obligations.CaddyWindowServesOneRequest := by
  unfold Obligations.CaddyWindowServesOneRequest
  intro s hp
  refine ⟨?read, fun v h => ?dropped, ?response⟩
  case read =>
    intro b u hbusy hdiscard hop hadmits
    have hserved : u.windowRequest = _ :=
      (windowRequest_reads (s := u) hop).trans (readRequest_answers (field b 0x10 4) hadmits)
    obtain ⟨hbusy', hready, hrsp⟩ := respond_window
      (s := ((counted u (windowReq b)).readEntry 1 (field b 8 2) (field b 0x0A 1)).1) (r := windowReq b) 1
      (field b 8 2) (field b 0x0A 1) (u.readEntry 1 (field b 8 2) (field b 0x0A 1)).2.1
      (((u.readEntry 1 (field b 8 2) (field b 0x0A 1)).2.2.drop (field b 0x10 4)).take 1024) rfl
      (by rw [readEntry_caddy, counted_window]; exact hdiscard)
    exact ⟨_, (caddyDb_submits hp hbusy).trans (congrArg (answerTime s) hserved), hbusy', hready, hrsp⟩
  case dropped => exact ⟨_, caddyDb_drops hp h, only_answerTime (setCaddy_only s _), rfl⟩
  case response =>
    have hread : onlyChanges [.caddy, .outs] s
        ({ s with caddy := { s.caddy with ready := false } }.out (.reg 0 0x1800 (ofLe s.caddy.rsp))) :=
      only_trans (only_mono (setCaddy_only s _) (by decide)) (only_mono (out_only _ _) (by decide))
    exact ⟨_, caddyRsp_reads hp, only_answer hread, rfl, rfl⟩

end Sys2Proof.Proofs.CaddyReads

/-!
SUPPORT. The event log through the Caddy service (R386, R389): what a log clear leaves where the sequence numbers come round, and
the refutation of O21 from this.
-/

namespace Sys2Proof.Proofs.EventLog

open Sys2Proof Sys2Proof.Machine Sys2Proof.Safety Sys2Proof.Laws Sys2Proof.Laws.Shared

/-- s with the general ring emptied and the event of the clear in it (R386). -/
def logCleared (s : State) (route : Nat) : State :=
  { s with log := { s.log with general := [] } }.logEvent 0x0A 0xFF route (le 4 s.log.general.length)

theorem clearLog_unsealed {s : State} (route : Nat) (h : s.secState ≠ 2) : s.clearLog route = (logCleared s route, 0) :=
  if_neg h

theorem logCleared_nextSeq (s : State) (route : Nat) :
    (logCleared s route).log.nextSeq = (s.log.nextSeq + 1) % 18446744073709551616 := rfl

/-- An accepted write of an entry that keeps no value is the newest record of the general ring (R388). -/
theorem logWrite_records (s : State) (route i j ty : Nat) (old new : List Byte) :
    ∃ x ∈ (s.logWrite route i j ty old new).log.general, x.seq = s.log.nextSeq :=
  ⟨_, List.mem_append_right _ (List.mem_singleton.mpr rfl), rfl⟩

/-- A log clear ends with the record of its own write, the second record that it makes (R386, R388). -/
theorem logClear_records_write {s : State} {r : Req} {v : Nat} (h : acceptsWrite s r 0x7000 6 2 (le 1 v))
    (hs : s.secState ≠ 2) :
    ∃ t, exec (.logClear r v) s = .next t ∧
      ∃ x ∈ t.log.general, x.seq = (s.log.nextSeq + 1) % 18446744073709551616 := by
  obtain ⟨cs, e⟩ := serveWrite_is (f := fun s => done (s.clearLog (Route.code r.route)))
    (g := fun cs => logCleared (replayed s cs) (Route.code r.route)) h
    (fun cs => congrArg done (clearLog_unsealed (s := replayed s cs) _ hs))
  refine ⟨_, congrArg (answer s) e, ?_⟩
  have hnext := logCleared_nextSeq (replayed s cs) (Route.code r.route)
  generalize logCleared (replayed s cs) (Route.code r.route) = u at hnext
  have hlog : State.log _ = (u.commitWrite (Route.code r.route) 0x7000 6 (le 1 v)).log :=
    respond_same (u.commitWrite (Route.code r.route) 0x7000 6 (le 1 v)) r 2 0x7000 6 0 [] .log (by decide)
  obtain ⟨x, hx, hseq⟩ := logWrite_records u (Route.code r.route) 0x7000 6 2 [] (le 1 v)
  exact ⟨x, (congrArg EvLog.general hlog).symm ▸ hx, hseq.trans hnext⟩

/-- The module whose next record takes the last sequence number. -/
def lastSequence : State := { State.reset with log := { nextSeq := 18446744073709551615 } }

theorem lastSequence_accepts : acceptsWrite lastSequence { route := .pcie } 0x7000 6 2 (le 1 1) := by
  unfold acceptsWrite admits
  decide +kernel

/-- Refutes O21: where the event of the clear takes the last sequence number of 64 bits, the record of the write that comes
after it takes number 0, below the next number before the clear. -/
theorem not_logIsReadAndCleared : ¬ Obligations.LogIsReadAndCleared := by
  unfold Obligations.LogIsReadAndCleared
  intro h
  obtain ⟨hclear, -⟩ := h lastSequence { route := .pcie } 1
  obtain ⟨hopen, -⟩ := hclear lastSequence_accepts
  obtain ⟨t, e, -, hsince⟩ := hopen (by decide)
  obtain ⟨u, e', x, hx, hseq⟩ := logClear_records_write lastSequence_accepts (by decide)
  obtain rfl := Host.Outcome.next.inj (e.symm.trans e')
  have hlow : 18446744073709551615 ≤ x.seq := hsince x hx
  have hzero : x.seq = 0 := hseq
  omega

end Sys2Proof.Proofs.EventLog

/-!
SUPPORT. Signed records (R381, R383, R400): what a write to a record's entries answers and leaves, what an apply puts in force,
and the statement of O32 from these.
-/

namespace Sys2Proof.Proofs.SignedRecords

open Sys2Proof Sys2Proof.Machine Sys2Proof.Safety Sys2Proof.Laws Sys2Proof.Laws.Shared

/-! ### Writes of entries that keep no value -/

/-- An accepted write of a write-only entry: its effect's status is answered, and but for the service and the log the effect's
state is what it leaves. -/
theorem served_status {s : State} {r : Req} {i j ty st : Nat} {bs : List Byte} {f : State → State × Option Nat}
    {g : Caddy → State} (d : DEntry) (hd : dictFind i j = some d) (ha : d.acc = 2) (h : acceptsWrite s r i j ty bs)
    (hf : ∀ cs, f (replayed s cs) = (g cs, some st)) :
    ∃ cs t, answer s (s.serveWrite r i j ty bs f) = .next t ∧ respondedWith t r 2 i j st [] ∧
      onlyChanges [.pending, .time, .factory, .caddy, .log, .outs, .errq, .journal] (g cs) t := by
  by_cases hst : st = 0
  · subst hst
    exact served_wo d hd ha h hf
  · obtain ⟨cs, t, e, a, k⟩ := serveWrite_refused (f := f) h (fun cs => by rw [hf cs]) hst
    rw [hf cs] at k
    exact ⟨cs, t, e, a, only_mono (ks := [.pending, .time, .factory, .caddy, .outs, .errq, .journal]) k (by decide)⟩

theorem stagingEntry (trust : Bool) : ∃ d, dictFind (recordIndex trust) 3 = some d ∧ d.acc = 2 := by
  cases trust <;> exact ⟨_, rfl, rfl⟩

theorem controlEntry (trust : Bool) : ∃ d, dictFind (recordIndex trust) 4 = some d ∧ d.acc = 2 := by
  cases trust <;> exact ⟨_, rfl, rfl⟩

/-- A value written to a record's control whose effect answers a status. -/
theorem writeControl_served {s : State} {r : Req} {trust : Bool} {v st : Nat} {verdict : Verdict} {g : State → State}
    (h : acceptsWrite s r (recordIndex trust) 4 2 (le 1 v))
    (hf : ∀ cs, (replayed s cs).recordControl r trust v verdict = (g (replayed s cs), some st)) :
    ∃ cs t, answer s (s.writeControl r trust v verdict) = .next t ∧ respondedWith t r 2 (recordIndex trust) 4 st [] ∧
      onlyChanges [.pending, .time, .factory, .caddy, .log, .outs, .errq, .journal] (g (replayed s cs)) t := by
  obtain ⟨d, hd, ha⟩ := controlEntry trust
  exact served_status (g := fun cs => g (replayed s cs)) d hd ha h hf

/-! ### Staging and verifying -/

theorem slice_length (bs : List Byte) (off n : Nat) : (slice bs off n).length = n := by
  unfold slice
  simp

/-- Bytes put at an offset are read there. -/
theorem overlay_read (bs : List Byte) (off : Nat) (w : List Byte) : ((overlay bs off w).drop off).take w.length = w := by
  unfold overlay
  rw [List.append_assoc, List.drop_left' (slice_length bs 0 off), List.take_left]

theorem setStaging_staging (s : State) (trust : Bool) (x : Staging) : (s.setStaging trust x).staging trust = x := by
  cases trust <;> rfl

theorem staging_of {s t : State} (hr : t.recStage = s.recStage) (ht : t.trustStage = s.trustStage) (trust : Bool) :
    t.staging trust = s.staging trust := by
  unfold State.staging
  rw [hr, ht]

/-- The area of a record after staging data came for it (R383). -/
def stagedArea (s : State) (trust : Bool) (bs : List Byte) : Staging :=
  { s.staging trust with
    state := 1, result := 0, failing := 0
    bytes := overlay (if (s.staging trust).state = 1 then (s.staging trust).bytes else [])
      (s.valNat (recordIndex trust) 2) bs }

/-- s with staging data of a record in its area, and the staging offset past them. -/
def recordStaged (s : State) (trust : Bool) (bs : List Byte) : State :=
  (s.setStaging trust (stagedArea s trust bs)).setVal (recordIndex trust) 2
    (le 4 (s.valNat (recordIndex trust) 2 + bs.length))

theorem stageRecord_stages {s : State} {trust : Bool} {bs : List Byte} (hstate : (s.staging trust).state ≠ 2)
    (hroom : s.valNat (recordIndex trust) 2 + bs.length ≤ stagingSize) :
    s.stageRecord trust bs = (recordStaged s trust bs, 0) := by
  unfold State.stageRecord
  extract_lets x off old
  rw [if_neg hstate, if_neg (Nat.not_lt.mpr hroom)]
  rfl

theorem writeStaging_stages {s : State} {r : Req} {trust : Bool} {bs : List Byte} (hstate : (s.staging trust).state ≠ 2)
    (hroom : s.valNat (recordIndex trust) 2 + bs.length ≤ stagingSize)
    (h : acceptsWrite s r (recordIndex trust) 3 10 bs) :
    ∃ t, answer s (s.writeStaging r trust bs) = .next t ∧ respondedWith t r 2 (recordIndex trust) 3 0 [] ∧
      (t.staging trust).state = 1 ∧
      ((t.staging trust).bytes.drop (s.valNat (recordIndex trust) 2)).take bs.length = bs := by
  obtain ⟨d, hd, ha⟩ := stagingEntry trust
  obtain ⟨cs, t, e, hans, hkeep⟩ := served_wo (f := fun s => done (s.stageRecord trust bs))
    (g := fun cs => recordStaged (replayed s cs) trust bs) d hd ha h
    (fun cs => congrArg done (stageRecord_stages (s := replayed s cs) hstate hroom))
  have harea : t.staging trust = stagedArea s trust bs :=
    (staging_of (hkeep .recStage (by decide)) (hkeep .trustStage (by decide)) trust).trans
      (setStaging_staging (replayed s cs) trust _)
  refine ⟨t, e, hans, ?_⟩
  rw [harea]
  exact ⟨rfl, overlay_read _ _ _⟩

/-- s with the staged configuration record judged (R383). -/
def recordJudged (s : State) (v : Verdict) : State :=
  { s with recStage := { s.recStage with
    state := if (s.judgeRecord v).1 = 0 then 2 else 3, result := (s.judgeRecord v).1, failing := (s.judgeRecord v).2.1 } }

theorem verifyRecord_judges {s : State} (v : Verdict) (route : Nat) (h : s.recStage.state = 1) :
    s.verifyRecord v route = ((recordJudged s v).logRecordEvent route, (s.judgeRecord v).2.2) := by
  unfold State.verifyRecord
  exact if_neg (not_not.mpr h)

/-- s with the staged trust record judged (R400). -/
def trustJudged (s : State) (v : Verdict) : State :=
  { s with trustStage := { s.trustStage with
    state := if (s.judgeTrust v).1 = 0 then 2 else 3, result := (s.judgeTrust v).1 } }

theorem verifyTrust_judges {s : State} (v : Verdict) (h : s.trustStage.state = 1) :
    s.verifyTrust v = (trustJudged s v, (s.judgeTrust v).2) := by
  unfold State.verifyTrust
  exact if_neg (not_not.mpr h)

theorem logRecordEvent_only (s : State) (route : Nat) : onlyChanges [.log] s (s.logRecordEvent route) :=
  logEvent_only s _ _ _ _

theorem recordVerify_judges {s : State} {r : Req} (v : Verdict) (h : acceptsWrite s r 0x9100 4 2 (le 1 1))
    (hstate : s.recStage.state = 1) :
    ∃ t, exec (.recordVerify r v) s = .next t ∧ respondedWith t r 2 0x9100 4 (s.judgeRecord v).2.2 [] ∧
      t.recStage = (recordJudged s v).recStage := by
  obtain ⟨cs, t, e, hans, hkeep⟩ := writeControl_served (trust := false) (verdict := v) (st := (s.judgeRecord v).2.2)
    (g := fun u => (recordJudged u v).logRecordEvent (Route.code r.route)) h
    (fun cs => congrArg done (verifyRecord_judges (s := replayed s cs) v _ hstate))
  exact ⟨t, e, hans, (hkeep .recStage (by decide)).trans (logRecordEvent_only _ _ .recStage (by decide))⟩

theorem trustRecordVerify_judges {s : State} {r : Req} (v : Verdict) (h : acceptsWrite s r 0x8400 4 2 (le 1 1))
    (hstate : s.trustStage.state = 1) :
    ∃ t, exec (.trustRecordVerify r v) s = .next t ∧ respondedWith t r 2 0x8400 4 (s.judgeTrust v).2 [] ∧
      t.trustStage = (trustJudged s v).trustStage := by
  obtain ⟨cs, t, e, hans, hkeep⟩ := writeControl_served (trust := true) (verdict := v) (st := (s.judgeTrust v).2)
    (g := fun u => trustJudged u v) h
    (fun cs => congrArg done (verifyTrust_judges (s := replayed s cs) v hstate))
  exact ⟨t, e, hans, hkeep .trustStage (by decide)⟩

/-! ### Apply -/

/-- Erased keys leave everything of the flash but the Caddy port key as it is (R408). -/
theorem eraseKeys_nor (s : State) (sel : Key → Bool) : ∃ k, (s.eraseKeys sel).nor = { s.nor with portKey := k } := by
  unfold State.eraseKeys
  extract_lets gone nor sec u
  have hclose : Laws.Path [.parts, .queues, .mem, .hbm, .streams, .outs, .free] u
      ((gone.filter (fun k => k.ty == 1)).foldl (fun s k => (s.keyedStreams k).foldl (fun s n => s.abortClose n 0x5104) s) u) :=
    path_foldl _ _ (fun _ _ h => path_foldl _ _ (fun _ n => path_abortClose n 0x5104 (by decide)) _ h) u (path_refl _ u)
  exact ⟨_, hclose.frame .nor (by decide)⟩

/-- A new measurement leaves everything of the flash but the Caddy port key as it is (R406). -/
theorem remeasured_nor (s : State) : ∃ k, s.remeasured.nor = { s.nor with portKey := k } := by
  unfold State.remeasured
  extract_lets sec u
  split
  · exact eraseKeys_nor u _
  · exact ⟨s.nor.portKey, rfl⟩

/-- An apply puts the configuration record in force: its version is the one that reads, and the journal is empty (R383). -/
theorem applyConfig_inForce (s : State) (route : Nat) : (s.applyConfig route).recStage.state = 4 ∧
    (s.applyConfig route).nor.journal = [] ∧ (s.applyConfig route).recordVersion = field s.recStage.bytes 4 4 := by
  unfold State.applyConfig
  extract_lets bs n es written bound nor cleared u area
  obtain ⟨k, hk⟩ := remeasured_nor (cleared.raiseCounter 5 (field bs 4 4))
  have hu : u.nor = { (cleared.raiseCounter 5 (field bs 4 4)).nor with portKey := k } := hk
  clear_value area u
  have hlog := logRecordEvent_only { u with recStage := { area with state := 4, result := 1, failing := 0 } } route
  have hnor : State.nor _ = u.nor := hlog .nor (by decide)
  refine ⟨congrArg Staging.state (hlog .recStage (by decide)), ?_, ?_⟩
  · rw [hnor, hu]
    rfl
  · unfold State.recordVersion
    rw [hnor, hu]
    rfl

/-- An apply installs the trust record (R400). -/
theorem applyTrust_installs (s : State) : s.applyTrust.trustStage.state = 4 ∧
    s.applyTrust.nor.trust = some (padTo trustBytes s.trustStage.bytes) := by
  unfold State.applyTrust
  extract_lets bs nor u trustArea recArea w
  obtain ⟨k, hk⟩ := remeasured_nor w
  have hkeep := (path_remeasured (ks := [.parts, .queues, .mem, .hbm, .streams, .nor, .sec, .outs, .free]) (by decide)
    (path_refl _ w)).frame
  exact ⟨congrArg Staging.state (hkeep .trustStage (by decide)), congrArg Nor.trust hk⟩

theorem applyStaged_applies {s : State} (r : Req) {trust : Bool} (hwait : s.applyWait = none) (hupdate : s.update.state ≠ 3)
    (hstate : (s.staging trust).state = 2) :
    s.applyStaged r trust = (if trust then s.applyTrust else s.applyConfig (Route.code r.route), some 0) := by
  unfold State.applyStaged
  rw [if_neg (by simp [hwait]), if_neg (not_not.mpr hstate), if_neg hupdate]

theorem recordApply_applies {s : State} {r : Req} (hwait : s.applyWait = none) (hupdate : s.update.state ≠ 3)
    (h : acceptsWrite s r 0x9100 4 2 (le 1 2)) (hstate : s.recStage.state = 2) :
    ∃ t, exec (.recordApply r) s = .next t ∧ respondedWith t r 2 0x9100 4 0 [] ∧ t.recStage.state = 4 ∧
      t.nor.journal = [] ∧ t.recordVersion = field s.recStage.bytes 4 4 := by
  obtain ⟨cs, t, e, hans, hkeep⟩ := writeControl_served (trust := false) (verdict := allOk) (st := 0)
    (g := fun u => u.applyConfig (Route.code r.route)) h
    (fun cs => applyStaged_applies (s := replayed s cs) r (trust := false) hwait hupdate hstate)
  obtain ⟨harea, hjournal, hversion⟩ := applyConfig_inForce (replayed s cs) (Route.code r.route)
  have hnor : t.nor = _ := hkeep .nor (by decide)
  refine ⟨t, e, hans, (congrArg Staging.state (hkeep .recStage (by decide))).trans harea, ?_, ?_⟩
  · rw [hnor]
    exact hjournal
  · unfold State.recordVersion
    rw [hnor]
    exact hversion

theorem trustRecordApply_installs {s : State} {r : Req} (hwait : s.applyWait = none) (hupdate : s.update.state ≠ 3)
    (h : acceptsWrite s r 0x8400 4 2 (le 1 2)) (hstate : s.trustStage.state = 2) :
    ∃ t, exec (.trustRecordApply r) s = .next t ∧ respondedWith t r 2 0x8400 4 0 [] ∧ t.trustStage.state = 4 ∧
      t.nor.trust = some (padTo trustBytes s.trustStage.bytes) := by
  obtain ⟨cs, t, e, hans, hkeep⟩ := writeControl_served (trust := true) (verdict := allOk) (st := 0)
    (g := State.applyTrust) h (fun cs => applyStaged_applies (s := replayed s cs) r (trust := true) hwait hupdate hstate)
  obtain ⟨harea, htrust⟩ := applyTrust_installs (replayed s cs)
  exact ⟨t, e, hans, (congrArg Staging.state (hkeep .trustStage (by decide))).trans harea,
    (congrArg Nor.trust (hkeep .nor (by decide))).trans htrust⟩

/-! ### The other control values (R383), and the journal's regions (R381) -/

/-- s with the area of a record empty (R383). -/
def areaEmptied (s : State) (trust : Bool) : State :=
  s.setStaging trust { s.staging trust with state := 0, bytes := [], result := 0, failing := 0 }

theorem cancelRecord_empties {s : State} (trust : Bool) (hwait : s.applyWait = none) :
    s.cancelRecord trust = (areaEmptied s trust, 0) := by
  unfold State.cancelRecord
  exact if_neg (by simp [hwait])

theorem writeControl_cancels {s : State} {r : Req} {trust : Bool} (hwait : s.applyWait = none)
    (h : acceptsWrite s r (recordIndex trust) 4 2 (le 1 3)) :
    ∃ t, answer s (s.writeControl r trust 3 allOk) = .next t ∧ respondedWith t r 2 (recordIndex trust) 4 0 [] ∧
      (t.staging trust).state = 0 ∧ (t.staging trust).bytes = [] := by
  obtain ⟨cs, t, e, hans, hkeep⟩ := writeControl_served (trust := trust) (verdict := allOk) (st := 0)
    (g := fun u => areaEmptied u trust) h
    (fun cs => congrArg done (cancelRecord_empties (s := replayed s cs) trust hwait))
  have harea : t.staging trust = { s.staging trust with state := 0, bytes := [], result := 0, failing := 0 } :=
    (staging_of (hkeep .recStage (by decide)) (hkeep .trustStage (by decide)) trust).trans
      (setStaging_staging (replayed s cs) trust _)
  refine ⟨t, e, hans, ?_⟩
  rw [harea]
  exact ⟨rfl, rfl⟩

/-- s with the record of its saved values ready to be read (R383). -/
def exportReady (s : State) : State := { s with recStage := { s.recStage with exported := s.exportRecord } }

theorem recordExport_exports {s : State} {r : Req} (h : acceptsWrite s r 0x9100 4 2 (le 1 4)) :
    ∃ t, exec (.recordExport r) s = .next t ∧ respondedWith t r 2 0x9100 4 0 [] ∧ t.recStage.exported = s.exportRecord := by
  obtain ⟨cs, t, e, hans, hkeep⟩ := writeControl_served (trust := false) (verdict := allOk) (st := 0) (g := exportReady) h
    (fun cs => rfl)
  exact ⟨t, e, hans, congrArg Staging.exported (hkeep .recStage (by decide))⟩

theorem restoreDefaults_clears {s : State} (hopen : s.secState ≠ 2) (hquiet : s.allQuiet = true) :
    s.restoreDefaults = ({ s with nor := { s.nor with journal := [] } }, 0) := by
  unfold State.restoreDefaults
  rw [if_neg hopen, if_neg (by simp [hquiet])]

theorem restoreDefaults_served {s : State} {r : Req} (h : acceptsWrite s r 0x9100 4 2 (le 1 5)) :
    (s.secState ≠ 2 → s.allQuiet = true →
      ∃ t, exec (.restoreDefaults r) s = .next t ∧ respondedWith t r 2 0x9100 4 0 [] ∧ t.nor.journal = []) ∧
    (s.secState = 2 →
      ∃ t, exec (.restoreDefaults r) s = .next t ∧ respondedWith t r 2 0x9100 4 0x1103 [] ∧ t.nor = s.nor) := by
  refine ⟨fun hopen hquiet => ?_, fun hsealed => ?_⟩
  · obtain ⟨cs, t, e, hans, hkeep⟩ := writeControl_served (trust := false) (verdict := allOk) (st := 0)
      (g := fun u => { u with nor := { u.nor with journal := [] } }) h
      (fun cs => congrArg done (restoreDefaults_clears (s := replayed s cs) hopen hquiet))
    exact ⟨t, e, hans, congrArg Nor.journal (hkeep .nor (by decide))⟩
  · obtain ⟨cs, t, e, hans, hkeep⟩ := writeControl_served (trust := false) (verdict := allOk) (st := 0x1103) (g := id) h
      (fun cs => congrArg done (if_pos hsealed))
    exact ⟨t, e, hans, hkeep .nor (by decide)⟩

theorem journalSwitch_switches {s : State} (h : s.boot.secFailed = false) :
    ∃ t, exec .journalSwitch s = .next t ∧ onlyChanges [.nor, .errq, .journal] s t ∧
      t.nor.journal = newest s.nor.journal ∧ t.nor.region = 1 - s.nor.region := by
  have hswitch : exec .journalSwitch s =
      answer s { s with nor := { s.nor with journal := newest s.nor.journal, region := 1 - s.nor.region } } :=
    congrArg (answer s) (if_neg (by simp [h]))
  have honly : onlyChanges [.nor] s
      { s with nor := { s.nor with journal := newest s.nor.journal, region := 1 - s.nor.region } } := by
    intro k hk
    cases k <;> first | rfl | exact absurd (by decide) hk
  exact ⟨_, hswitch, only_answer honly, rfl, rfl⟩

/-- Settles O32: each write of a record's entries by what its effect leaves, and the switch of the journal. -/
theorem recordsAreStagedVerifiedApplied : Obligations.RecordsAreStagedVerifiedApplied := by
  unfold Obligations.RecordsAreStagedVerifiedApplied
  intro s r bs v
  refine ⟨writeStaging_stages (trust := false), writeStaging_stages (trust := true), fun h hstate => ?judged,
    fun h hstate => ?trustJudged,
    fun hwait hupdate => ⟨recordApply_applies hwait hupdate, trustRecordApply_installs hwait hupdate⟩,
    fun hwait => ⟨writeControl_cancels (trust := false) hwait, writeControl_cancels (trust := true) hwait⟩,
    recordExport_exports, restoreDefaults_served, journalSwitch_switches⟩
  case judged =>
    obtain ⟨t, e, hans, harea⟩ := recordVerify_judges v h hstate
    exact ⟨t, e, hans, congrArg Staging.state harea, congrArg Staging.result harea, congrArg Staging.failing harea⟩
  case trustJudged =>
    obtain ⟨t, e, hans, harea⟩ := trustRecordVerify_judges v h hstate
    exact ⟨t, e, hans, congrArg Staging.state harea, congrArg Staging.result harea⟩

end Sys2Proof.Proofs.SignedRecords

/-!
SUPPORT. Resets and power (R386, R462 to R467, R480): a start-up that finds everything sound step by step, what asks for a warm
reset, and the statement of O33 from these.
-/

namespace Sys2Proof.Proofs.Resets

open Sys2Proof Sys2Proof.Machine Sys2Proof.Safety Sys2Proof.Laws Sys2Proof.Laws.Shared
open Sys2Proof.Proofs.CaddyWrites Sys2Proof.Proofs.PowerAndHeat

/-! ### The steps of a sound start-up (R467 to R473) -/

section
variable {s : State} {f : Findings}

theorem chooseBank_active (kind : Nat) (inactiveOk : Bool) : s.chooseBank kind true inactiveOk = some s := rfl

theorem chooseBanks_active (h : ∀ k < 3, f.imagesActiveOk.getD k true = true) : s.chooseBanks f = some s := by
  unfold State.chooseBanks
  simp only [List.foldl, Option.bind_some, h 0 (by decide), h 1 (by decide), h 2 (by decide), chooseBank_active]

theorem emptyErrors_entries (s : State) : s.emptyErrors.errq.entries = [] := rfl

theorem emptyErrors_only (s : State) : onlyChanges [.log, .errq] s s.emptyErrors :=
  (path_emptyErrors (ks := [.log, .errq]) (by decide) (path_refl _ s)).frame

/-- s with the values of its records in force (R369): those of the configuration record, then those of the journal. -/
def valuesLoaded (s : State) : State :=
  (s.layer 3 (s.startState == 2) ((s.nor.config.map (fun c => c.2.1)).getD [])).layer 4 (s.startState == 2)
    (newest s.nor.journal)

theorem valuesLoaded_only (s : State) : onlyChanges [.vals, .log] s (valuesLoaded s) :=
  (path_layer (ks := [.vals, .log]) _ _ _ (by decide) (path_layer _ _ _ (by decide) (path_refl _ s))).frame

theorem loadRecords_sound (htrust : f.trustOk = true) (hconfig : f.configOk = true) :
    s.loadRecords f = some (valuesLoaded s.emptyErrors) := by
  unfold State.loadRecords
  simp only [htrust, hconfig, Bool.not_true, Bool.and_false, Bool.false_and, Bool.false_eq_true, if_true, if_false]
  rfl

/-- s with a self-test behind it that found no failing part (R472). -/
def allPassed (s : State) : State := { s with boot := { s.boot with selfTest := [0, 0, 0, 0] } }

theorem allPassed_only (s : State) : onlyChanges [.boot] s (allPassed s) :=
  (path_set_boot (ks := [.boot]) _ (by decide) (path_refl _ s)).frame

theorem selfTest_sound (hc : f.badColumns = []) (hs : f.badSites = []) (ha : f.badFleArrays = []) (hk : f.badChannels = []) :
    s.selfTest f = allPassed s := by
  unfold State.selfTest State.tested
  simp [hc, hs, ha, hk, allPassed]

end

/-! ### The security state of a module without streams (R395) -/

section
variable {s : State}

theorem boundStreams_none (h : s.streams = []) (p : Nat) : s.boundStreams p = [] := by
  unfold State.boundStreams State.stream
  rw [h]
  exact List.filter_eq_nil_iff.mpr (fun n _ => by simp [Tab.get, Tab.find])

theorem keyedStreams_none (h : s.streams = []) (k : Key) : s.keyedStreams k = [] := by
  unfold State.keyedStreams
  rw [boundStreams_none h]
  rfl

theorem eraseKeys_noStreams (h : s.streams = []) (sel : Key → Bool) : onlyChanges [.nor, .sec] s (s.eraseKeys sel) := by
  unfold State.eraseKeys
  extract_lets gone nor sec u
  have hu : u.streams = [] := h
  rw [foldl_id _ u _ (fun k _ => by rw [keyedStreams_none hu]; rfl)]
  intro k hk
  cases k <;> first | rfl | exact absurd (by decide) hk

theorem setSec_only (s : State) (x : Sec) : onlyChanges [.sec] s { s with sec := x } :=
  (path_set_sec (ks := [.sec]) x (by decide) (path_refl _ s)).frame

theorem remeasured_noStreams (h : s.streams = []) : onlyChanges [.nor, .sec] s s.remeasured := by
  unfold State.remeasured
  extract_lets sec u
  have hu : onlyChanges [.nor, .sec] s u := only_mono (setSec_only s _) (by decide)
  exact only_ite (only_trans hu (eraseKeys_noStreams (s := u) h _)) hu

theorem setSecState_noStreams (h : s.streams = []) (new : Nat) :
    onlyChanges [.secState, .log, .nor, .sec] s (s.setSecState new) := by
  unfold State.setSecState
  extract_lets old u v w
  have hu : onlyChanges [.secState, .log, .nor, .sec] s u :=
    (path_logEvent (ks := [.secState, .log, .nor, .sec]) _ _ _ _ (by decide)
      (path_set_secState (ks := [.secState, .log, .nor, .sec]) new (by decide) (path_refl _ s))).frame
  have hus : u.streams = [] := (hu .streams (by decide)).trans h
  have hv : v = u := by
    have hnone : partNumbers.flatMap u.boundStreams = [] := List.flatMap_eq_nil_iff.mpr (fun p _ => boundStreams_none hus p)
    simp only [v, hnone, List.foldl_nil, ite_self]
  have hw : onlyChanges [.secState, .log, .nor, .sec] s w := by
    simp only [w, hv]
    exact only_ite (only_trans hu (only_mono (eraseKeys_noStreams hus _) (by decide))) hu
  exact only_trans hw (only_mono (remeasured_noStreams ((hw .streams (by decide)).trans h)) (by decide))

theorem requestSecState_noStreams (h : s.streams = []) (v : Nat) :
    onlyChanges [.secState, .log, .nor, .sec] s (s.requestSecState v).1 := by
  unfold State.requestSecState
  have hset := setSecState_noStreams h
  have hsame := only_refl [.secState, .log, .nor, .sec] s
  simp only [apply_ite Prod.fst]
  exact only_ite hsame (only_ite hsame (only_ite (only_ite hsame (only_ite hsame (only_ite hsame (hset 1))))
    (only_ite (only_ite hsame (hset 2)) (only_ite (hset 0) hsame))))

theorem raiseSecurity_noStreams (h : s.streams = []) : onlyChanges [.secState, .log, .nor, .sec] s s.raiseSecurity := by
  unfold State.raiseSecurity
  extract_lets v u
  have hu : onlyChanges [.secState, .log, .nor, .sec] s u := requestSecState_noStreams h 1
  have hus : u.streams = [] := (hu .streams (by decide)).trans h
  exact only_ite (only_refl _ s) (only_ite (only_trans hu (requestSecState_noStreams hus 2)) hu)
end

/-! ### A sound start-up as a whole (R466, R467) -/

theorem readyNow_boot (s : State) (most : Nat) : (s.readyNow most).boot =
    { s.boot with step := 0x0A, time := freeF32 s.free % (most + 1), ready := true } := rfl

theorem startUp_sound_eq {s : State} {f : Findings} (hf : soundFindings f) (cold : Bool) (kind : Nat) :
    s.startUp cold kind f =
      ((((valuesLoaded (s.fresh cold kind f).emptyErrors).selfTest f).commitSaved s.active).raiseSecurity).readyNow
        (if cold then 3560000 else 550000) := by
  obtain ⟨hfactory, hsec, htrust, hconfig, himages, -, -, -, -, hshut⟩ := hf
  unfold State.startUp
  simp only [hfactory, hsec, chooseBank_active, loadRecords_sound htrust hconfig, chooseBanks_active himages, hshut]
  rfl

/-- What a reset starts from: no memory and no stream is maintained, the spare map is (R462, R466). -/
theorem fresh_starts (s : State) (cold : Bool) (kind : Nat) (f : Findings) :
    (s.fresh cold kind f).mem = [] ∧ (s.fresh cold kind f).streams = [] ∧ (s.fresh cold kind f).siteState = s.siteState ∧
      (s.fresh cold kind f).spareGen = s.spareGen ∧ (s.fresh cold kind f).pending = s.pending ∧
      (s.fresh cold kind f).boot.kind = kind ∧ (s.fresh cold kind f).boot.power = 2 :=
  ⟨rfl, rfl, rfl, rfl, rfl, rfl, rfl⟩

theorem commitSaved_only (s : State) (old : List Slice) : onlyChanges [.parts, .layoutGen] s (s.commitSaved old) :=
  (path_commitSaved (ks := [.parts, .layoutGen]) old (by decide) (path_refl _ s)).frame

theorem readyNow_only (s : State) (most : Nat) : onlyChanges [.log, .boot, .free] s (s.readyNow most) :=
  (path_readyNow (ks := [.log, .boot, .free]) most (by decide) (path_refl _ s)).frame

theorem startUp_sound {s : State} {f : Findings} (hf : soundFindings f) (cold : Bool) (kind : Nat) :
    startedUp kind s (s.startUp cold kind f) ∧ (s.startUp cold kind f).time = (s.fresh cold kind f).time := by
  rw [startUp_sound_eq hf]
  obtain ⟨-, -, -, -, -, hcolumns, hsites, harrays, hchannels, -⟩ := hf
  rw [selfTest_sound hcolumns hsites harrays hchannels]
  obtain ⟨hmem, hstreams, hsiteState, hspareGen, hpending, hkind, hpower⟩ := fresh_starts s cold kind f
  generalize s.fresh cold kind f = u at *
  have hload : onlyChanges [.vals, .log, .errq] u (valuesLoaded u.emptyErrors) :=
    only_trans (only_mono (emptyErrors_only u) (by decide)) (only_mono (valuesLoaded_only _) (by decide))
  have hempty : (valuesLoaded u.emptyErrors).errq.entries = [] :=
    (congrArg ErrQ.entries (valuesLoaded_only u.emptyErrors .errq (by decide))).trans (emptyErrors_entries u)
  generalize valuesLoaded u.emptyErrors = v at hload hempty
  have hcommit : onlyChanges [.boot, .parts, .layoutGen] v ((allPassed v).commitSaved s.active) :=
    only_trans (only_mono (allPassed_only v) (by decide)) (only_mono (commitSaved_only _ _) (by decide))
  have hboot : ((allPassed v).commitSaved s.active).boot = { v.boot with selfTest := [0, 0, 0, 0] } :=
    commitSaved_only (allPassed v) s.active .boot (by decide)
  generalize (allPassed v).commitSaved s.active = w at hcommit hboot
  have hsecurity := raiseSecurity_noStreams
    ((hcommit .streams (by decide)).trans ((hload .streams (by decide)).trans hstreams))
  generalize w.raiseSecurity = x at hsecurity
  have hready := readyNow_only x (if cold then 3560000 else 550000)
  have hx : x.boot = { u.boot with selfTest := [0, 0, 0, 0] } := by
    rw [hsecurity .boot (by decide), hboot, hload .boot (by decide)]
  obtain ⟨hstep, hup, hpower', hkind'⟩ : (x.readyNow (if cold then 3560000 else 550000)).boot.step = 0x0A ∧
      (x.readyNow (if cold then 3560000 else 550000)).boot.ready = true ∧
      (x.readyNow (if cold then 3560000 else 550000)).boot.power = 2 ∧
      (x.readyNow (if cold then 3560000 else 550000)).boot.kind = kind := by
    rw [readyNow_boot, hx]
    exact ⟨rfl, rfl, hpower, hkind⟩
  generalize x.readyNow (if cold then 3560000 else 550000) = y at *
  have hall : onlyChanges [.vals, .log, .errq, .boot, .parts, .layoutGen, .secState, .nor, .sec, .free] u y :=
    only_trans (only_mono hload (by decide)) (only_trans (only_mono hcommit (by decide))
      (only_trans (only_mono hsecurity (by decide)) (only_mono hready (by decide))))
  have herrq : y.errq = v.errq :=
    (hready .errq (by decide)).trans ((hsecurity .errq (by decide)).trans (hcommit .errq (by decide)))
  exact ⟨⟨hstep, hup, hpower', hkind', (hall .mem (by decide)).trans hmem, (congrArg ErrQ.entries herrq).trans hempty,
    (hall .siteState (by decide)).trans hsiteState, (hall .spareGen (by decide)).trans hspareGen,
    (hall .pending (by decide)).trans hpending⟩, hall .time (by decide)⟩

/-! ### Warm resets (R462 to R465) -/

/-- A start-up from a state with the same spare map and the same queue of commands. -/
theorem startedUp_from {kind : Nat} {s u t : State} {ks : List Kind} (h : startedUp kind u t) (hu : onlyChanges ks s u)
    (hk : ∀ k ∈ ([.siteState, .spareGen, .pending] : List Kind), k ∉ ks) : startedUp kind s t := by
  obtain ⟨hstep, hready, hpower, hkind, hmem, herrors, hsites, hgen, hpending⟩ := h
  exact ⟨hstep, hready, hpower, hkind, hmem, herrors, hsites.trans (hu .siteState (hk _ (by decide))),
    hgen.trans (hu .spareGen (hk _ (by decide))), hpending.trans (hu .pending (hk _ (by decide)))⟩

theorem settled_none {x : State} (h : x.errq.entries = []) : x.settled.entries = [] := by
  unfold State.settled
  rw [h]
  rfl

/-- A command whose work is a start-up answers with the module started up. -/
theorem answerTime_startedUp {kind : Nat} {s x : State} (h : startedUp kind s x) :
    ∃ t, answerTime s x = .next t ∧ startedUp kind s t := by
  obtain ⟨hstep, hready, hpower, hkind, hmem, herrors, hsites, hgen, -⟩ := h
  exact ⟨_, rfl, hstep, hready, hpower, hkind, hmem, settled_none herrors, hsites, hgen, rfl⟩

/-- s with the partitions that hold work stopped for a reset (R462). -/
def workStopped (s : State) : State :=
  (partNumbers.filter (fun p => (s.part p).state.works)).foldl (fun s p => s.enterSafeStop p 0x1107) s

theorem workStopped_only (s : State) : onlyChanges
    [.parts, .queues, .sites, .mem, .hbm, .streams, .ctr, .colls, .credits, .fetches, .xfers, .tfb, .outs, .free] s
    (workStopped s) :=
  fold_only _ _ _ (fun s p => (path_enterSafeStop p 0x1107 (by decide) (path_refl _ s)).frame) s

theorem saveLog_only (s : State) : onlyChanges [.log] s s.saveLog :=
  (path_saveLog (ks := [.log]) (by decide) (path_refl _ s)).frame

theorem warmReset_startsUp {s : State} {f : Findings} (hf : soundFindings f) (kind : Nat) (hstep : s.boot.step = 0x0A) :
    startedUp kind s (s.warmReset kind f) := by
  have hsaved := only_trans (only_mono (workStopped_only s) (ls := [.log, .parts, .queues, .sites, .mem, .hbm, .streams, .ctr,
    .colls, .credits, .fetches, .xfers, .tfb, .outs, .free]) (by decide)) (only_mono (saveLog_only _) (by decide))
  show startedUp kind s ((workStopped s).saveLog.startUp false (if (workStopped s).boot.step = 0x0A then kind else 5) f)
  rw [if_pos ((congrArg Boot.step (workStopped_only s .boot (by decide))).trans hstep)]
  exact startedUp_from (startUp_sound hf false kind).1 hsaved (by decide)

theorem requestReset_resets {s : State} (kind : Nat) (f : Findings) (hpower : s.boot.power ≠ 0) (hhot : s.hot = false)
    (hfirst : s.coalesced = false) : s.requestReset kind f = s.warmReset kind f := by
  unfold State.requestReset
  rw [if_neg hpower, if_neg (by simp [hhot]), if_neg (by simp [hfirst])]

theorem caddyReset_resets {s : State} (r : Req) (f : Findings) (hhot : s.hot = false) (hfirst : s.coalesced = false) :
    s.caddyReset r f =
      (((s.commitWrite (Route.code r.route) 0x2600 1 (le 1 1)).respond r 2 0x2600 1 0 []).warmReset 4 f, none) := by
  unfold State.caddyReset
  rw [if_neg (by simp [hhot]), if_neg (by simp [hfirst])]

/-- A qualified assertion of an input that is inactive and unmasked, and that no earlier one coalesces with, is delivered
(R459). -/
theorem strain_delivers {s : State} {i : Nat} (g : State → State) (hstate : (s.input i).state = 0)
    (hlast : (s.input i).lastEvent = none) : ∃ u, s.strain i g = g u ∧ onlyChanges [.inputs] s u := by
  unfold State.strain
  dsimp only
  rw [if_neg (by rw [hstate]; decide), if_neg (by rw [hstate]; decide), hlast]
  exact ⟨_, rfl, only_trans (modInput_only s _ _) (modInput_only _ _ _)⟩

theorem hot_of {s t : State} (h : t.sensors = s.sensors) : t.hot = s.hot := by
  unfold State.hot
  rw [h]

theorem coalesced_of {s t : State} (ht : t.time = s.time) (hb : t.boot = s.boot) : t.coalesced = s.coalesced := by
  unfold State.coalesced
  rw [ht, hb]

section
variable {s : State} {f : Findings} (hf : soundFindings f) (hhot : s.hot = false) (hfirst : s.coalesced = false)
  (hstep : s.boot.step = 0x0A)
include hf hhot hfirst hstep

theorem requestReset_startsUp (kind : Nat) (hpower : s.boot.power ≠ 0) : startedUp kind s (s.requestReset kind f) := by
  rw [requestReset_resets kind f hpower hhot hfirst]
  exact warmReset_startsUp hf kind hstep

theorem warmResetRequest_startsUp {r : Req} (h : acceptsWrite s r 0x2600 1 2 (le 1 1)) :
    ∃ t, exec (.warmResetRequest r 1 f) s = .next t ∧ startedUp 4 s t := by
  obtain ⟨cs, e⟩ := serveWrite_runs h
  have hserved : s.serveWrite r 0x2600 1 2 (le 1 1) (fun s => s.caddyReset r f) =
      ((((replayed s cs).commitWrite (Route.code r.route) 0x2600 1 (le 1 1)).respond r 2 0x2600 1 0 []).warmReset 4 f) := by
    rw [e, caddyReset_resets (s := replayed s cs) r f hhot hfirst]
  have htail := tail_same (replayed s cs) r 0x2600 1 0 (Route.code r.route) (le 1 1) []
  have hup := startedUp_from
    (warmReset_startsUp hf 4 ((congrArg Boot.step (htail .boot (by decide))).trans hstep)) htail (by decide)
  obtain ⟨t, ht, hstarted⟩ := answerTime_startedUp (s := s) hup
  exact ⟨t, (congrArg (answerTime s) hserved).trans ht, hstarted⟩

theorem moduleReset_startsUp (hpower : s.boot.power = 2) :
    ∃ t, exec (.moduleReset 0x5752 f) s = .next t ∧ startedUp 3 s t := by
  have hexec : exec (.moduleReset 0x5752 f) s = answerTime s (s.requestReset 3 f) :=
    congrArg (answerTime s) ((if_neg (not_not.mpr hpower)).trans (if_neg (not_not.mpr rfl)))
  rw [hexec]
  exact answerTime_startedUp (requestReset_startsUp hf hhot hfirst hstep 3 (by omega))

theorem rstact_startsUp (hpower : s.boot.power ≠ 0) : ∃ t, exec (.rstact 2 f) s = .next t ∧ startedUp 2 s t :=
  answerTime_startedUp (requestReset_startsUp hf hhot hfirst hstep 2 hpower)

theorem warmResetN_startsUp (hpower : s.boot.power ≠ 0) (hstate : (s.input 2).state = 0)
    (hlast : (s.input 2).lastEvent = none) :
    ∃ t, exec (.warmResetN f) s = .next t ∧ startedUp 1 s t := by
  obtain ⟨u, hu, hinputs⟩ := strain_delivers (fun s => s.requestReset 1 f) hstate hlast
  have hexec : exec (.warmResetN f) s = answerTime s (u.requestReset 1 f) :=
    congrArg (answerTime s) ((if_neg hpower).trans hu)
  have hup := requestReset_startsUp (s := u) hf ((hot_of (hinputs .sensors (by decide))).trans hhot)
    ((coalesced_of (hinputs .time (by decide)) (hinputs .boot (by decide))).trans hfirst)
    ((congrArg Boot.step (hinputs .boot (by decide))).trans hstep) 1 (by rw [hinputs .boot (by decide)]; exact hpower)
  rw [hexec]
  exact answerTime_startedUp (startedUp_from hup hinputs (by decide))
end

/-! ### Requests that make no reset (R464) -/

section
variable {s : State} {f : Findings}

/-- s with a refused reset request counted (R464). -/
def resetRefused (s : State) : State := { s with boot := { s.boot with refused := (s.boot.refused + 1) % 4294967296 } }

theorem requestReset_hot (kind : Nat) (hpower : s.boot.power = 2) (hhot : s.hot = true) :
    s.requestReset kind f = resetRefused s := by
  unfold State.requestReset
  rw [if_neg (by omega), if_pos hhot]
  rfl

theorem requestReset_coalesced (kind : Nat) (hhot : s.hot = false) (hfirst : s.coalesced = true) :
    s.requestReset kind f = s := by
  unfold State.requestReset
  rw [if_neg (c := s.hot = true) (by simp [hhot]), if_pos hfirst, ite_self]

/-- Either request past SEC is answered with the reset that it asks for. -/
theorem resetRequest_exec (hpower : s.boot.power = 2) :
    ∀ c ∈ [Instr.moduleReset 0x5752 f, .rstact 2 f], ∃ kind, exec c s = answerTime s (s.requestReset kind f) := by
  have hmodule : exec (.moduleReset 0x5752 f) s = answerTime s (s.requestReset 3 f) :=
    congrArg (answerTime s) ((if_neg (not_not.mpr hpower)).trans (if_neg (not_not.mpr rfl)))
  simp only [List.forall_mem_cons]
  exact ⟨⟨3, hmodule⟩, ⟨2, rfl⟩, List.forall_mem_nil _⟩

theorem resetRequest_hot (hpower : s.boot.power = 2) (hhot : s.hot = true) :
    ∀ c ∈ [Instr.moduleReset 0x5752 f, .rstact 2 f], ∃ t, exec c s = .next t ∧
      onlyChanges [.boot, .errq, .journal] s t ∧
        t.boot.refused = (s.boot.refused + 1) % 4294967296 ∧ t.boot.step = s.boot.step := by
  intro c hc
  obtain ⟨kind, hexec⟩ := resetRequest_exec hpower c hc
  rw [hexec, requestReset_hot kind hpower hhot]
  exact ⟨_, rfl, only_answerTime (path_set_boot (ks := [.boot]) _ (by decide) (path_refl _ s)).frame, rfl, rfl⟩

theorem resetRequest_coalesced (hpower : s.boot.power = 2) (hhot : s.hot = false) (hfirst : s.coalesced = true) :
    ∀ c ∈ [Instr.moduleReset 0x5752 f, .rstact 2 f], ∃ t, exec c s = .next t ∧ onlyChanges [.errq, .journal] s t := by
  intro c hc
  obtain ⟨kind, hexec⟩ := resetRequest_exec hpower c hc
  rw [hexec, requestReset_coalesced kind hhot hfirst]
  exact ⟨_, rfl, only_answerTime (ks := []) (only_refl [] s)⟩

theorem warmResetRequest_hot {r : Req} (hhot : s.hot = true) (h : acceptsWrite s r 0x2600 1 2 (le 1 1)) :
    ∃ t, exec (.warmResetRequest r 1 f) s = .next t ∧ respondedWith t r 2 0x2600 1 0x1101 [] ∧
      onlyChanges [.caddy, .outs, .errq, .journal] s t :=
  refusedTime (f := fun s => s.caddyReset r f) h (fun cs => if_pos hhot) (by decide)
end

/-! ### Power and the log (R386, R480) -/

theorem bladesLive_startsUp {s : State} {f : Findings} (hf : soundFindings f) (hpower : s.boot.power = 0) :
    ∃ t, exec (.bladesLive f) s = .next t ∧ startedUp 0 s t ∧ t.time.ticks = 0 := by
  have hexec : exec (.bladesLive f) s = answerCold s (s.startUp true 0 f) := congrArg (answerCold s) (if_pos hpower)
  obtain ⟨⟨hstep, hready, hpower', hkind, hmem, herrors, hsites, hgen, -⟩, htime⟩ := startUp_sound (s := s) hf true 0
  exact ⟨_, hexec, ⟨hstep, hready, hpower', hkind, hmem, settled_none herrors, hsites, hgen, rfl⟩,
    congrArg TimeState.ticks htime⟩

theorem saveLog_programs {s : State} (h : s.boot.secFailed = false) : s.saveLog = s.programLog := by
  unfold State.saveLog
  exact if_neg (by simp [h])

/-- s with a Kettle port down. -/
def portDown (s : State) (k : Nat) : State := s.modKport k (fun x => { x with state := 0 })

theorem foldl_portDown_state (l : List Nat) (k : Nat) :
    ∀ s : State, ((l.foldl portDown s).kport k).state = if k ∈ l then 0 else (s.kport k).state := by
  induction l with
  | nil => exact fun s => rfl
  | cons a l ih =>
    intro s
    rw [List.foldl_cons, ih]
    by_cases ha : k = a
    · subst ha
      simp [portDown]
    · have hother : (portDown s a).kport k = s.kport k :=
        tab_get_mod_other s.kports {} {} a k (fun x => { x with state := 0 }) ha
      simp [hother, ha]

theorem mainOff_ports (s : State) (power : Nat) : ∀ k < 12, ((s.mainOff power).kport k).state = 0 := by
  intro k hk
  have hdown := foldl_portDown_state (List.range 12) k s
  rw [if_pos (List.mem_range.mpr hk)] at hdown
  exact hdown

theorem bladePowerFail_dies {s : State} (hpower : s.boot.power ≠ 0) (hsec : s.boot.secFailed = false) :
    ∃ t, exec .bladePowerFail s = .next t ∧ t.boot.power = 0 ∧ t.boot.ready = false ∧ t.log.unprogrammed = 0 ∧
      (∀ k < 12, (t.kport k).state = 0) ∧ t.mem = s.mem := by
  have hexec : exec .bladePowerFail s = answer s (s.programLog.mainOff 0) := by
    rw [← saveLog_programs hsec]
    exact congrArg (answer s) (if_neg hpower)
  have hboot := mainOff_boot s.programLog 0
  have hkeep := mainOff_only s.programLog 0
  have hports := mainOff_ports s.programLog 0
  generalize s.programLog.mainOff 0 = u at hexec hboot hkeep hports
  exact ⟨_, hexec, congrArg Boot.power hboot, congrArg Boot.ready hboot,
    congrArg EvLog.unprogrammed (hkeep .log (by decide)), hports, hkeep .mem (by decide)⟩

theorem logBufferProgram_programs {s : State} (hsec : s.boot.secFailed = false) (hfull : 256 ≤ s.log.unprogrammed) :
    ∃ t, exec .logBufferProgram s = .next t ∧ onlyChanges [.log, .errq, .journal] s t ∧ t.log.unprogrammed = 0 ∧
      t.log.general = s.log.general ∧ t.log.retained = s.log.retained := by
  have hexec : exec .logBufferProgram s = answer s s.programLog := congrArg (answer s) (if_neg (by simp [hsec, hfull]))
  have honly : onlyChanges [.log] s s.programLog := (path_programLog (ks := [.log]) (by decide) (path_refl _ s)).frame
  exact ⟨_, hexec, only_answer honly, rfl, rfl, rfl⟩

/-- Settles O33: the requests that make a reset start the module up, those that make none by what they leave, then the blades
and the log buffer. -/
theorem resetsStartTheModuleUp : Obligations.ResetsStartTheModuleUp := by
  unfold Obligations.ResetsStartTheModuleUp
  intro s r f
  exact ⟨fun hf hhot hfirst hstep => ⟨warmResetRequest_startsUp hf hhot hfirst hstep,
      moduleReset_startsUp hf hhot hfirst hstep, rstact_startsUp hf hhot hfirst hstep,
      warmResetN_startsUp hf hhot hfirst hstep⟩,
    fun hhot => ⟨warmResetRequest_hot hhot, fun hpower => resetRequest_hot hpower hhot⟩,
    fun hhot hfirst hpower => resetRequest_coalesced hpower hhot hfirst, bladesLive_startsUp, bladePowerFail_dies,
    logBufferProgram_programs⟩

end Sys2Proof.Proofs.Resets

/-!
SUPPORT. What every step keeps: for each command, that it goes on and changes nothing outside its footprint
(95_what_each_step_holds.md), and from these the statements O1, O3, O6, O7 and O8.
-/

namespace Sys2Proof.Proofs.Footprints

open Sys2Proof Sys2Proof.Machine Sys2Proof.Safety Sys2Proof.Laws Sys2Proof.Laws.Shared

/-! ### One change of a piece that only rises -/

section
variable {ks : List Kind} {s t u : State}

theorem path_set_nor (v : Nor) (hv : ∀ k, Tab.get t.nor.counters 0 k ≤ Tab.get v.counters 0 k) (hk : [.nor] ⊆ ks)
    (h : Path ks s t) : Path ks s { t with nor := v } := by
  refine path_trans h ⟨fun k hn => ?_, ⟨id, hv, le_refl _, le_refl _, fun _ hc => hc⟩⟩
  cases k
  case nor => exact absurd (hk (List.mem_singleton_self _)) hn
  all_goals rfl

theorem path_set_mem (v : Mem) (hv : t.mem.wf = true → v.wf = true) (hk : [.mem] ⊆ ks) (h : Path ks s t) :
    Path ks s { t with mem := v } := by
  refine path_trans h ⟨fun k hn => ?_, ⟨hv, fun _ => le_refl _, le_refl _, le_refl _, fun _ hc => hc⟩⟩
  cases k
  case mem => exact absurd (hk (List.mem_singleton_self _)) hn
  all_goals rfl

theorem path_set_hbm (v : Hbm) (hv : ∀ c, c ∈ t.hbm.failed → c ∈ v.failed) (hk : [.hbm] ⊆ ks) (h : Path ks s t) :
    Path ks s { t with hbm := v } := by
  refine path_trans h ⟨fun k hn => ?_, ⟨id, fun _ => le_refl _, le_refl _, le_refl _, hv⟩⟩
  cases k
  case hbm => exact absurd (hk (List.mem_singleton_self _)) hn
  all_goals rfl

theorem path_set_timeTfb (v : TimeState) (w : Tfb) (hk : [.time, .tfb] ⊆ ks) (h : Path ks s t) :
    Path ks s { t with time := v, tfb := w } :=
  path_set_time (t := { t with tfb := w }) v (List.Subset.trans (by decide) hk)
    (path_set_tfb w (List.Subset.trans (by decide) hk) h)

/-- A path that several branches go on from is found once. -/
theorem path_then (h : Path ks s t) (f : Path ks s t → Path ks s u) : Path ks s u := f h

/-- A host's write is carried out, or refused where its function is a partition's, or left alone. -/
theorem path_hostWrite {p q : Prop} [Decidable p] [Decidable q] (fn : Nat) (hk : [.caddy, .parts] ⊆ ks)
    (h : Path ks s t) : Path ks s (if p then t else if q then s.refuseHost fn else s) :=
  path_ite (fun _ => h) fun _ => path_ite (fun _ => path_refuseHost _ hk (path_refl _ _)) fun _ => path_refl _ _

/-- A piece that reads as before after all need not be on the list. -/
theorem path_restored {k : Kind} (h : Path (k :: ks) s t) (hk : k.same s t) : Path ks s t := by
  refine ⟨fun j hj => ?_, h.oneWay⟩
  by_cases hjk : j = k
  · exact hjk ▸ hk
  · exact h.frame j (List.not_mem_cons_of_ne_of_not_mem hjk hj)
end

/-! ### From what a command does to what it keeps -/

/-- Command c goes on from s, and keeps to its footprint. -/
def Keeps (c : Instr) (s : State) : Prop := ∃ t, exec c s = .next t ∧ Path (footprint c) s t

section
variable {c : Instr} {s x : State}

theorem within {ks ls : List Kind} (h : ks.all (fun k => ls.contains k) = true) : ks ⊆ ls :=
  fun k hk => List.contains_iff_mem.mp (List.all_eq_true.mp h k hk)

/-- Every answer settles the error queue (R336) and writes the journal (R351). -/
theorem answer_within (c : Instr) : [.errq, .journal] ⊆ footprint c := by
  cases c <;> exact within rfl

theorem append_within {ks : List Kind} (hk : footprint c ⊆ ks) : ∀ k ∈ ks ++ [.errq, .journal], k ∈ ks := by
  intro k hmem
  rcases List.mem_append.mp hmem with h | h
  · exact h
  · exact hk (answer_within c h)

theorem keeps_answer (e : exec c s = answer s x) (h : Path (footprint c) s x) : Keeps c s := by
  obtain ⟨hmem, hroll, hlayouts, hspares, hchannels⟩ := h.oneWay
  exact ⟨_, e, only_mono (only_answer h.frame) (append_within (List.Subset.refl _)),
    ⟨hmem, hroll, hlayouts, hspares, hchannels⟩⟩

/-- An answer that may move the timebase gives the factory record back as it was. -/
theorem keeps_answerTime (e : exec c s = answerTime s x) (h : Path (.factory :: footprint c) s x) : Keeps c s := by
  obtain ⟨hmem, hroll, hlayouts, hspares, hchannels⟩ := h.oneWay
  refine ⟨_, e, path_restored (k := .factory) ?_ rfl⟩
  exact ⟨only_mono (only_answerTime h.frame) (append_within (List.subset_cons_self _ _)),
    ⟨hmem, hroll, hlayouts, hspares, hchannels⟩⟩

theorem keeps_write {r : Req} {i j ty : Nat} {bs : List Byte} {f : State → State × Option Nat}
    (e : exec c s = answer s (s.serveWrite r i j ty bs f)) (hk : [.vals, .caddy, .log, .nor, .outs] ⊆ footprint c)
    (hf : ∀ u, Path (footprint c) s u → Path (footprint c) s (f u).1) : Keeps c s :=
  keeps_answer e (path_serveWrite _ _ _ _ _ _ hk hf (path_refl _ _))
end

/-! ### The Caddy (R367 to R391) -/

theorem keeps_caddyDescribe (r : Req) (index sub offset : Nat) (s : State) :
    Keeps (.caddyDescribe r index sub offset) s :=
  keeps_answer rfl <|
    path_serve _ _ _ _ _ (within rfl) (fun _ h => by
        split
        · exact h
        · exact h) (path_refl _ _)

theorem keeps_debugTileData (r : Req) (write : Option (List Byte)) (s : State) : Keeps (.debugTileData r write) s :=
  keeps_answer rfl <| by
    split
    · exact path_serveWrite _ _ _ _ _ _ (within rfl) (fun _ h => path_done _ (path_writeDebug _ (within rfl) h)) <|
        path_refl _ _
    · exact path_serve _ _ _ _ _ (within rfl) (fun _ h => h) (path_refl _ _)

theorem keeps_timebaseSet (r : Req) (t : Nat) (s : State) : Keeps (.timebaseSet r t) s :=
  keeps_answerTime rfl <|
    path_serveWrite _ _ _ _ _ _ (within rfl) (fun _ h => path_done _ (path_writeTimebase _ (within rfl) h)) <|
      path_refl _ _

theorem keeps_snapshotTime (r : Req) (t : Nat) (s : State) : Keeps (.snapshotTime r t) s :=
  keeps_answerTime rfl <|
    path_serveWrite _ _ _ _ _ _ (within rfl) (fun _ h => path_done _ (path_writeSnapshot _ (within rfl) h)) <|
      path_refl _ _

theorem keeps_snapshotLatch (s : State) : Keeps .snapshotLatch s :=
  keeps_answerTime rfl (path_ite (fun _ => path_latch _ (within rfl) (path_refl _ _)) fun _ => path_refl _ _)

theorem keeps_snapshotRelease (r : Req) (value : Nat) (s : State) : Keeps (.snapshotRelease r value) s :=
  keeps_answerTime rfl <|
    path_serveWrite _ _ _ _ _ _ (within rfl) (fun _ h => path_releaseSnapshot (within rfl) h) (path_refl _ _)

theorem keeps_warmResetRequest (r : Req) (value : Nat) (found : Findings) (s : State) :
    Keeps (.warmResetRequest r value found) s :=
  keeps_answerTime rfl <|
    path_serveWrite _ _ _ _ _ _ (within rfl) (fun _ h => path_caddyReset _ _ (within rfl) h) (path_refl _ _)

theorem keeps_logReadData (r : Req) (s : State) : Keeps (.logReadData r) s :=
  keeps_answer rfl (path_serve _ _ _ _ _ (within rfl) (fun _ h => path_readLog _ (within rfl) h) (path_refl _ _))

theorem keeps_updateActivate (r : Req) (s : State) : Keeps (.updateActivate r) s :=
  keeps_answerTime rfl <|
    path_serveWrite _ _ _ _ _ _ (within rfl) (fun _ h => path_activate _ (within rfl) h) (path_refl _ _)

theorem keeps_activationHold (s : State) : Keeps .activationHold s :=
  keeps_answer rfl <| by
    split
    · exact path_ite
        (fun _ =>
          path_retryApply (within rfl) <|
            path_raise _ (within rfl) (path_modUpdate _ (within rfl) (path_refl _ _)))
        fun _ => path_refl _ _
    · exact path_refl _ _

theorem keeps_handoffPoint (s : State) : Keeps .handoffPoint s :=
  keeps_answer rfl (path_ite (fun _ => path_stopOld (within rfl) (path_refl _ _)) fun _ => path_refl _ _)

theorem keeps_handoffAcceptance (accept crashed : Bool) (s : State) : Keeps (.handoffAcceptance accept crashed) s :=
  keeps_answer rfl <|
    path_ite (fun _ => path_refl _ _) fun _ =>
    path_ite (fun _ => path_failUpdate _ (within rfl) (path_refl _ _)) fun _ =>
    path_ite (fun _ => path_failUpdate _ (within rfl) (path_refl _ _)) fun _ =>
    path_ite
      (fun _ =>
        path_then (path_modUpdate _ (within rfl) (path_refl _ _)) fun hs =>
        path_ite (fun _ => path_commitUpdate (within rfl) hs) fun _ => hs)
      fun _ => path_commitUpdate (within rfl) (path_refl _ _)

theorem keeps_acceptanceLimit (s : State) : Keeps .acceptanceLimit s :=
  keeps_answer rfl <| by
    split
    · exact path_ite (fun _ => path_failUpdate _ (within rfl) (path_refl _ _)) fun _ => path_refl _ _
    · exact path_refl _ _

theorem keeps_cccHandoffWait (row : Nat) (s : State) : Keeps (.cccHandoffWait row) s :=
  keeps_answer rfl <|
    path_ite
      (fun _ =>
        path_stopOld (within rfl) <|
          path_foldl _ _ (fun _ _ h => path_preemptFor _ (within rfl) h) _ (path_refl _ _))
      fun _ => path_refl _ _

theorem keeps_journalSwitch (s : State) : Keeps .journalSwitch s :=
  keeps_answer rfl <|
    path_ite (fun _ => path_refl _ _) fun _ => path_set_nor _ (fun _ => le_refl _) (within rfl) (path_refl _ _)

/-! ### Host registers (R74 to R88) -/

theorem keeps_bar0RegisterWrite (fn offset value : Nat) (ide : Bool) (s : State) :
    Keeps (.bar0RegisterWrite fn offset value ide) s :=
  keeps_answer rfl <|
    path_ite (fun _ => path_reg0Write _ _ (within rfl) (path_refl _ _)) fun _ =>
    path_hostWrite _ (within rfl) (path_regWrite _ _ _ (within rfl) (path_refl _ _))

theorem keeps_moduleReset (value : Nat) (found : Findings) (s : State) : Keeps (.moduleReset value found) s :=
  keeps_answerTime rfl <|
    path_ite (fun _ => path_refl _ _) fun _ =>
    path_ite (fun _ => path_refuseHost _ (within rfl) (path_refl _ _)) fun _ =>
    path_requestReset _ _ (within rfl) (path_refl _ _)

theorem keeps_caddyDb (value : Nat) (s : State) : Keeps (.caddyDb value) s :=
  keeps_answerTime rfl <|
    path_ite (fun _ => path_refl _ _) fun _ =>
    path_ite (fun _ => path_refuseHost _ (within rfl) (path_refl _ _)) fun _ =>
    path_windowRequest (within rfl) (path_set_caddy _ (within rfl) (path_refl _ _))

theorem keeps_caddyRsp (s : State) : Keeps .caddyRsp s :=
  keeps_answer rfl <|
    path_ite (fun _ => path_refl _ _) fun _ => path_out _ (within rfl) (path_set_caddy _ (within rfl) (path_refl _ _))

theorem keeps_doorbellErr (fn : Nat) (ide : Bool) (s : State) : Keeps (.doorbellErr fn ide) s :=
  keeps_answer rfl <|
    path_ite (fun _ => path_refl _ _) fun _ =>
    path_ite (fun _ => path_out _ (within rfl) (path_set_caddy _ (within rfl) (path_refl _ _))) fun _ =>
    path_ite (fun _ => path_refuseHost _ (within rfl) (path_refl _ _)) fun _ =>
    path_ite (fun _ => path_out _ (within rfl) (path_refl _ _)) fun _ =>
    path_out _ (within rfl) (path_modRings _ _ (within rfl) (path_refl _ _))

theorem keeps_bar2Write (fn address : Nat) (bytes : List Byte) (ide : Bool) (s : State) :
    Keeps (.bar2Write fn address bytes ide) s :=
  keeps_answer rfl <|
    path_hostWrite _ (within rfl) <|
      path_modRcv _ _ (within rfl) <|
        path_countLines _ _ _ _ (within rfl) (path_wr _ _ _ (within rfl) (path_refl _ _))

/-! ### The scheduler (R69 to R112) -/

theorem keeps_commandComplete (kind q : Nat) (s : State) : Keeps (.commandComplete kind q) s :=
  keeps_answer rfl (path_pumpColls (within rfl) (path_complete _ _ (within rfl) (path_refl _ _)))

theorem keeps_deadlineMiss (p lane : Nat) (s : State) : Keeps (.deadlineMiss p lane) s :=
  keeps_answer rfl <| by
    split
    · exact path_missList _ _ (within rfl) (path_refl _ _)
    · exact path_refl _ _

theorem keeps_barrierStalled (p kind : Nat) (s : State) : Keeps (.barrierStalled p kind) s :=
  keeps_answer rfl <|
    path_ite
      (fun _ => by
        split
        · exact path_reportStall _ _ _ (within rfl) (path_refl _ _)
        · exact path_refl _ _)
      fun _ => path_refl _ _

theorem keeps_hostLeaseExpired (p : Nat) (s : State) : Keeps (.hostLeaseExpired p) s :=
  keeps_answer rfl <|
    path_then (path_sampleHeartbeat _ (within rfl) (path_refl _ _)) fun hs =>
    path_ite (fun _ => path_loseLease _ _ (within rfl) hs) fun _ => hs

theorem keeps_orphanServingTimeout (p : Nat) (s : State) : Keeps (.orphanServingTimeout p) s :=
  keeps_answer rfl <|
    path_ite
      (fun _ =>
        path_progress _ (within rfl) <|
          path_setRunTo _ _ (within rfl) <|
            path_closingStreams _ _ (within rfl) (path_modLease _ _ (within rfl) (path_refl _ _)))
      fun _ => path_refl _ _

theorem keeps_irqCoalesceTimer (p : Nat) (s : State) : Keeps (.irqCoalesceTimer p) s :=
  keeps_answer rfl (path_ite (fun _ => path_signalCompletions _ (within rfl) (path_refl _ _)) fun _ => path_refl _ _)

/-! ### Tensor engines (R113 to R172) -/

theorem keeps_gemm (n : Nat) (parity : Option Nat) (s : State) : Keeps (.gemm n parity) s :=
  keeps_answer rfl <|
    path_tensorRead _ _ _ _ (within rfl) (fun _ _ _ h => path_runTensor _ _ _ (within rfl) h) (path_refl _ _)

theorem keeps_spatialOperator (u : EngineRun) (s : State) : Keeps (.spatialOperator u) s :=
  keeps_answer rfl <|
    path_tensorRead _ _ _ _ (within rfl) (fun _ _ _ h => path_runTensor _ _ _ (within rfl) h) (path_refl _ _)

theorem keeps_loadStationary (u : EngineRun) (s : State) : Keeps (.loadStationary u) s :=
  keeps_answer rfl <|
    path_tensorRead _ _ _ _ (within rfl)
      (fun _ _ _ h => path_modSite _ _ (within rfl) (path_loadTiles _ _ _ _ (within rfl) h)) (path_refl _ _)

theorem keeps_epilogueOnly (u : EngineRun) (s : State) : Keeps (.epilogueOnly u) s :=
  keeps_answer rfl <| by
    refine path_tensorRead _ _ _ _ (within rfl) (fun t r c h => ?_) (path_refl _ _)
    dsimp only
    refine path_endBlock _ _ (within rfl) (path_foldl _ _ (fun t j ht => ?_) _ h)
    refine path_foldl _ _ (fun v a hv => ?_) _ ht
    exact path_ite (fun _ => path_writeRows _ _ _ _ _ _ (within rfl) hv) fun _ =>
      path_writeOut _ _ _ _ _ _ (within rfl) hv

theorem keeps_preemption (n passesDone : Nat) (s : State) : Keeps (.preemption n passesDone) s :=
  keeps_answer rfl <| by
    split
    · exact path_refl _ _
    · exact path_ite (fun _ => path_refl _ _) fun _ => by
        split
        · exact path_refl _ _
        · exact path_dispatch _ _ _ (within rfl) <|
            path_modQueue _ _ _ (within rfl) <|
              path_count _ _ _ (within rfl) (path_stopAt _ _ _ _ (within rfl) (path_refl _ _))

theorem keeps_arrayFault (site coreRow coreCol : Nat) (u : PassFault) (s : State) :
    Keeps (.arrayFault site coreRow coreCol u) s :=
  keeps_answer rfl <| by
    split
    · exact path_refl _ _
    · exact path_ite (fun _ => path_refl _ _) fun _ => by
        split
        · exact path_drainFault _ _ _ (within rfl) (path_refl _ _)
        · exact path_ite (fun _ => path_refl _ _) fun _ =>
          path_then
            (path_modSite _ _ (within rfl) <|
                path_recoverTiles _ _ _ _ _ _ (within rfl) <|
                  path_logFault _ _ _ _ _ (within rfl) (path_coreFault _ _ (within rfl) (path_refl _ _)))
            fun hs =>
              path_ite (fun _ => path_retireColumn _ _ (within rfl) hs) fun _ => hs

theorem keeps_coreRetirementComplete (site : Nat) (badWords : List Nat) (s : State) :
    Keeps (.coreRetirementComplete site badWords) s :=
  keeps_answer rfl <| by
    split
    · exact path_refl _ _
    · extract_lets tile before placed after moved lcol spare lost stands
      refine path_then (t := stands)
        (path_mapChanged (within rfl) <|
          path_set_ctr _ (within rfl) <|
            path_foldl _ _ (fun _ _ h => path_loseWord _ _ _ _ (within rfl) h) _ <|
              path_moveColumns _ _ _ (within rfl) (path_modSite _ _ (within rfl) (path_refl _ _))) fun hs => ?_
      split
      · exact path_replayLost _ _ _ (within rfl) (path_failPreempted _ _ (within rfl) hs)
      · exact hs

theorem keeps_steepRampDown (u : ArrayUnit) (s : State) : Keeps (.steepRampDown u) s :=
  keeps_answer rfl <|
    path_ite
      (fun _ => by
        split
        · exact path_ite (fun _ => path_refl _ _) fun _ => path_rampDown _ _ (within rfl) (path_refl _ _)
        · exact path_refl _ _)
      fun _ => by
        split
        · exact path_ite (fun _ => path_refl _ _) fun _ => path_rampDown _ _ (within rfl) (path_refl _ _)
        · exact path_refl _ _

theorem keeps_fleFault (f array : Nat) (u : PassFault) (s : State) : Keeps (.fleFault f array u) s :=
  keeps_answer rfl <|
    path_ite (fun _ => path_refl _ _) fun _ => by
      split
      · exact path_refl _ _
      · exact path_ite (fun _ => path_refl _ _) fun _ =>
        path_then
          (path_raise _ (within rfl) (path_count _ _ _ (within rfl) (path_modFle _ _ (within rfl) (path_refl _ _))))
          fun h1 =>
            path_then
              (by
                split
                · exact path_recoverTiles _ _ _ _ _ _ (within rfl) h1
                · exact h1)
              fun h2 =>
                path_ite (fun _ => path_retireArray _ _ _ (within rfl) h2) fun _ => h2

/-! ### Vector, move and collective engines -/

theorem keeps_castOnGather (u : EngineRun) (s : State) : Keeps (.castOnGather u) s :=
  keeps_answer rfl <|
    path_engineRead _ _ _ _ _ (within rfl) (fun _ _ _ h =>
        path_count _ _ _ (within rfl) <|
          path_ite (fun _ => path_gatherMx _ _ _ (within rfl) h) fun _ => path_gatherPlain _ _ _ (within rfl) h)
      (path_refl _ _)

theorem keeps_reduceAdd (u : EngineRun) (s : State) : Keeps (.reduceAdd u) s :=
  keeps_answer rfl <|
    path_engineRead _ _ _ _ _ (within rfl) (fun _ _ _ h =>
        path_then (path_addRegion _ _ _ _ _ _ (within rfl) h) fun hs =>
        path_spoilTiles _ _ _ _ (within rfl) <|
          path_ite (fun _ => path_addPairTable _ _ _ _ (within rfl) hs) fun _ => hs) (path_refl _ _)

theorem keeps_checksumVerify (u : EngineRun) (s : State) : Keeps (.checksumVerify u) s :=
  keeps_answer rfl <|
    path_engineRead _ _ _ _ _ (within rfl) (fun _ _ _ h =>
        path_ite
          (fun _ =>
            path_abandonAfter _ _ (within rfl) <|
              path_foldl_fst _ _ (fun _ _ h =>
                  path_ite_fst (fun _ => h) fun _ =>
                  path_then (path_count _ _ _ (within rfl) h) fun hs =>
                  path_ite_fst (fun _ => hs) fun _ => path_checksumFault _ _ _ _ _ _ (within rfl) hs) _ h)
          fun _ =>
            path_foldl_fst _ _ (fun _ _ h =>
                path_ite_fst (fun _ => h) fun _ =>
                path_then (path_count _ _ _ (within rfl) h) fun hs =>
                path_ite_fst (fun _ => hs) fun _ => path_checksumFault _ _ _ _ _ _ (within rfl) hs) _ h)
      (path_refl _ _)

theorem keeps_copy (n : Nat) (faults : List BlockFault) (s : State) : Keeps (.copy n faults) s :=
  keeps_answer rfl <|
    path_engine _ _ _ _ (within rfl) (fun _ _ _ h =>
        path_spoilAt _ _ _ (within rfl) <|
          path_store _ _ _ (within rfl) <|
            path_readVerified _ _ _ _ (within rfl) (path_movePackets _ _ _ _ (within rfl) h)) (path_refl _ _)

theorem keeps_decryptingCopy (n : Nat) (badTag : Option Nat) (s : State) : Keeps (.decryptingCopy n badTag) s :=
  keeps_answer rfl <|
    path_engine _ _ _ _ (within rfl) (fun _ _ _ h => by
        split
        · exact h
        · exact path_movePackets _ _ _ _ (within rfl) <|
            path_spoilAt _ _ _ (within rfl) <|
              path_foldl _ _ (fun _ _ h => path_store _ _ _ (within rfl) (path_loaded _ _ _ (within rfl) h)) _ h)
      (path_refl _ _)

theorem keeps_skewedOperandFeed (u : EngineRun) (s : State) : Keeps (.skewedOperandFeed u) s :=
  keeps_answer rfl <|
    path_engineRead _ _ _ _ _ (within rfl) (fun _ _ _ h =>
        path_storeElems _ _ _ _ (within rfl) <|
          path_foldl _ _ (fun _ _ h => path_loaded _ _ _ (within rfl) h) _ (path_movePackets _ _ _ _ (within rfl) h))
      (path_refl _ _)

theorem keeps_multicast (n : Nat) (faults : List BlockFault) (s : State) : Keeps (.multicast n faults) s :=
  keeps_answer rfl <| by
    refine path_engine _ _ _ _ (within rfl) (fun u r c h => ?_) (path_refl _ _)
    refine path_set_mem _ (wf_foldl _ _ (fun m _ hm => wf_memPut m _ _ hm) _) (within rfl) ?_
    exact path_readVerified _ _ _ _ (within rfl) (path_movePackets _ _ _ _ (within rfl) h)

theorem keeps_recomputeRange (n : Nat) (s : State) : Keeps (.recomputeRange n) s :=
  keeps_answer rfl <| by
    split
    · exact path_ite (fun _ => path_refl _ _) fun _ =>
      path_modQueue _ _ _ (within rfl) (path_injectRange _ _ _ (within rfl) (path_refl _ _))
    · exact path_refl _ _

theorem keeps_sachetPoint (q : Nat) (s : State) : Keeps (.sachetPoint q) s :=
  keeps_answer rfl <| by
    split
    · exact path_refl _ _
    · exact path_ite (fun _ => path_refl _ _) fun _ =>
      path_then (path_count _ _ _ (within rfl) (path_modRcv _ _ (within rfl) (path_refl _ _))) fun hs =>
      path_ite
        (fun _ =>
          path_ite (fun _ => path_modRcv _ _ (within rfl) hs) fun _ =>
          path_beginCapture _ _ (within rfl) hs)
        fun _ => path_issue _ _ _ _ (within rfl) hs

theorem keeps_sachetFetch (q : Nat) (s : State) : Keeps (.sachetFetch q) s :=
  keeps_answer rfl <| by
    split
    · exact path_refl _ _
    · refine path_ite (fun _ => path_refl _ _) fun _ => path_ite (fun _ => ?_) fun _ => ?_
      · split
        · exact path_issue _ _ _ _ (within rfl) (path_refl _ _)
        · extract_lets blocks counted
          refine path_then (t := counted) (path_countPlaces _ (within rfl) (path_refl _ _)) fun hs => ?_
          split
          · exact path_issue _ _ _ _ (within rfl) (path_raisePlace _ _ _ _ _ (within rfl) hs)
          · exact path_issue _ _ _ _ (within rfl) (path_store _ _ _ (within rfl) hs)
      · split
        · exact path_issue _ _ _ _ (within rfl) (path_refl _ _)
        · exact path_kettleSend _ _ _ _ _ _ (within rfl) (path_set_fetches _ (within rfl) (path_refl _ _))

/-! ### Media and gather engines -/

theorem keeps_mediaBind (u : Nat) (s : State) : Keeps (.mediaBind u) s :=
  keeps_answer rfl <|
    path_engine _ _ _ _ (within rfl) (fun _ _ _ h => path_mediaBind _ _ _ (within rfl) h) (path_refl _ _)

theorem keeps_decodeBlockList (u : Nat) (s : State) : Keeps (.decodeBlockList u) s :=
  keeps_answer rfl <| by
    split
    · exact path_ite (fun _ => path_refl _ _) fun _ =>
      path_ite (fun _ => path_issue _ _ _ _ (within rfl) (path_refl _ _)) fun _ =>
      path_pump _ (within rfl) (path_modStream _ _ (within rfl) (path_refl _ _))
    · exact path_refl _ _

theorem keeps_closeGraceful (u : Nat) (s : State) : Keeps (.closeGraceful u) s :=
  keeps_answer rfl <| by
    split
    · exact path_ite (fun _ => path_issue _ _ _ _ (within rfl) (path_refl _ _)) fun _ =>
      path_pump _ (within rfl) (path_modStream _ _ (within rfl) (path_refl _ _))
    · exact path_refl _ _

theorem keeps_closeAbort (u : Nat) (s : State) : Keeps (.closeAbort u) s :=
  keeps_answer rfl <| by
    split
    · exact path_ite (fun _ => path_issue _ _ _ _ (within rfl) (path_refl _ _)) fun _ =>
      path_abortClose _ _ (within rfl) (path_modStream _ _ (within rfl) (path_refl _ _))
    · exact path_refl _ _

theorem keeps_gatherList (u : EngineRun) (s : State) : Keeps (.gatherList u) s :=
  keeps_answer rfl <|
    path_engineRead _ _ _ _ _ (within rfl) (fun _ _ _ h =>
        path_spoilAt _ _ _ (within rfl) <|
          path_foldl _ _ (fun _ _ h => path_store _ _ _ (within rfl) (path_countGather _ _ _ (within rfl) h)) _ h)
      (path_refl _ _)

theorem keeps_gatherAdd (u : EngineRun) (badRows : List Nat) (s : State) : Keeps (.gatherAdd u badRows) s :=
  keeps_answer rfl <|
    path_engineRead _ _ _ _ _ (within rfl) (fun _ _ _ h =>
        path_then (path_spend _ (within rfl) h) fun hs =>
        path_ite
          (fun _ =>
            path_abandonAfter _ _ (within rfl) <|
              path_foldl_fst _ _ (fun _ _ h =>
                  path_ite_fst (fun _ => h) fun _ =>
                  path_ite_fst (fun _ => path_raiseBlock _ _ _ _ (within rfl) h) fun _ =>
                  path_addRow _ _ _ _ (within rfl) h) _ hs)
          fun _ =>
            path_foldl_fst _ _ (fun _ _ h =>
                path_ite_fst (fun _ => h) fun _ =>
                path_ite_fst (fun _ => path_raiseBlock _ _ _ _ (within rfl) h) fun _ =>
                path_addRow _ _ _ _ (within rfl) h) _ hs) (path_refl _ _)

theorem keeps_atomicAdd (p address format : Nat) (values : List (Option F32)) (stochastic : Bool) (s : State) :
    Keeps (.atomicAdd p address format values stochastic) s :=
  keeps_answer rfl (path_ite (fun _ => path_atomicLine _ _ _ _ _ (within rfl) (path_refl _ _)) fun _ => path_refl _ _)

theorem keeps_pairAdd (p address : Nat) (sum abs : F64) (s : State) : Keeps (.pairAdd p address sum abs) s :=
  keeps_answer rfl (path_ite (fun _ => path_pairAddAt _ _ _ _ (within rfl) (path_refl _ _)) fun _ => path_refl _ _)

theorem keeps_hbmWrite (p address : Nat) (bytes : List Byte) (s : State) : Keeps (.hbmWrite p address bytes) s :=
  keeps_answer rfl (path_ite (fun _ => path_store _ _ _ (within rfl) (path_refl _ _)) fun _ => path_refl _ _)

/-! ### Memory channels (R234 to R245) -/

theorem keeps_hbmBlockRead (p address consumer : Nat) (mismatch persists : Bool) (s : State) :
    Keeps (.hbmBlockRead p address consumer mismatch persists) s :=
  keeps_answer rfl <| by
    refine path_ite (fun _ => ?_) fun _ => path_refl _ _
    extract_lets faults fault reader read
    refine path_then (t := read)
      (path_countLines _ _ _ _ (within rfl) (path_countVerified _ _ _ (within rfl) (path_refl _ _))) fun hs => ?_
    clear_value fault
    cases fault with
    | none => exact hs
    | some f =>
      refine path_ite (fun _ => ?_) fun _ => ?_
      · clear_value reader
        cases reader with
        | none => exact path_raiseBlock _ _ _ _ (within rfl) hs
        | some n => exact path_stopResult _ _ (within rfl) hs
      · split
        · exact path_modCmd _ _ (within rfl) hs
        · exact hs

theorem keeps_patrolBlock (stack channel : Nat) (mismatch persists : Bool) (s : State) :
    Keeps (.patrolBlock stack channel mismatch persists) s :=
  keeps_answer rfl <| by
    refine path_ite (fun _ => path_refl _ _) fun _ => ?_
    extract_lets key block wrong held old walked bank counted wrongCounted inData recent spoilt raised
    refine path_then (t := walked) (path_set_hbm _ (fun _ hc => hc) (within rfl) (path_refl _ _)) fun hw => ?_
    refine path_ite (fun _ => hw) fun _ => path_then (t := counted) (path_count _ _ _ (within rfl) hw) fun hc => ?_
    refine path_ite (fun _ => hc) fun _ => path_then (t := wrongCounted) (path_count _ _ _ (within rfl) hc) fun hb => ?_
    refine path_ite (fun _ => hb) fun _ => path_then (t := raised) ?_ fun hr => ?_
    · exact path_raise _ (within rfl) (path_modHbm _ (within rfl) (fun x c hx => (spoilt_failed x _).symm ▸ hx) hb)
    · exact path_ite (fun _ => path_degrade _ _ (within rfl) hr) fun _ => hr

theorem keeps_channelDegraded (stack channel : Nat) (s : State) : Keeps (.channelDegraded stack channel) s :=
  keeps_answer rfl <|
    path_ite (fun _ => path_refl _ _) fun _ =>
    path_degrade _ _ (within rfl) (path_count _ _ _ (within rfl) (path_refl _ _))

theorem keeps_retrainingCheckFailed (stack channel : Nat) (s : State) :
    Keeps (.retrainingCheckFailed stack channel) s :=
  keeps_answer rfl (path_ite (fun _ => path_refl _ _) fun _ => path_migrateAway _ _ (within rfl) (path_refl _ _))

theorem keeps_migrationCopyDone (stack : Nat) (badBlocks : List Nat) (s : State) :
    Keeps (.migrationCopyDone stack badBlocks) s :=
  keeps_answer rfl <| by
    split
    · exact path_refl _ _
    · exact path_ite (fun _ => path_refl _ _) fun _ =>
        path_modHbm _ (within rfl) (fun _ _ hc => hc) <|
          path_count _ _ _ (within rfl) <|
            path_count _ _ _ (within rfl) <|
              path_copyOn _ _ (within rfl) <|
                path_foldl _ _ (fun _ _ h => path_raisePlace _ _ _ _ _ (within rfl) h) _ (path_refl _ _)

theorem keeps_migrationRetrainDone (stack : Nat) (s : State) : Keeps (.migrationRetrainDone stack) s :=
  keeps_answer rfl <| by
    split
    · exact path_ite (fun _ => path_modHbm _ (within rfl) (fun _ _ hc => hc) (path_refl _ _)) fun _ => path_refl _ _
    · exact path_refl _ _

theorem keeps_marchTestDone (stack : Nat) (passed : Bool) (s : State) : Keeps (.marchTestDone stack passed) s :=
  keeps_answer rfl <| by
    split
    · refine path_ite (fun _ => path_refl _ _) fun _ => path_modHbm _ (within rfl) (fun x c hc => ?_) (path_refl _ _)
      cases passed with
      | true => exact hc
      | false => exact List.mem_cons_of_mem _ hc
    · exact path_refl _ _

theorem keeps_scrubComplete (p : Nat) (s : State) : Keeps (.scrubComplete p) s :=
  keeps_answer rfl <| by
    split
    · exact path_ite (fun _ => path_refl _ _) fun _ =>
      path_then (path_modPart _ _ (within rfl) (path_clearPartition _ (within rfl) (path_refl _ _))) fun hs => by
        split
        · exact path_setPState _ _ (within rfl) hs
        · exact path_proceedStart _ (within rfl) hs
        · exact path_handover _ (within rfl) hs
    · exact path_refl _ _

/-! ### Ingest ports (R246 to R273) -/

theorem keeps_openMsg (m : IngestMsg) (s : State) : Keeps (.openMsg m) s :=
  keeps_answer rfl <|
    path_ite (fun _ => path_takeFrame _ (within rfl) (path_refl _ _)) fun _ =>
    path_then (path_takeFrame _ (within rfl) (path_refl _ _)) fun hs =>
    path_ite (fun _ => path_out _ (within rfl) hs) fun _ => by
      split
      · exact path_openStream _ _ (within rfl) hs
      · split
        · exact path_out _ (within rfl) (path_set_iports _ (within rfl) (path_modRcv _ _ (within rfl) hs))
        · exact path_out _ (within rfl) (path_set_free _ (within rfl) hs)

theorem keeps_dataMsg (m : IngestMsg) (s : State) : Keeps (.dataMsg m) s :=
  keeps_answer rfl <|
    path_ite (fun _ => path_takeFrame _ (within rfl) (path_refl _ _)) fun _ => by
      split
      · exact path_takeFrame _ (within rfl) (path_refl _ _)
      · exact path_onData _ _ _ (within rfl) <|
          path_takeSeq _ _ (within rfl) (path_takeFrame _ (within rfl) (path_refl _ _))

theorem keeps_endMsg (m : IngestMsg) (s : State) : Keeps (.endMsg m) s :=
  keeps_answer rfl <|
    path_onMessage _ _ (within rfl) (fun _ _ h =>
        path_then
          (path_pump _ (within rfl) (path_modStream _ _ (within rfl) (path_spoil _ _ (within rfl) h)))
          fun hs =>
            path_pump _ (within rfl) <|
              path_ite (fun _ => path_foldl _ _ (fun _ _ h => path_maskEntry _ _ _ (within rfl) h) _ hs) fun _ => hs)
      (path_refl _ _)

theorem keeps_roi (m : IngestMsg) (s : State) : Keeps (.roi m) s :=
  keeps_answer rfl <|
    path_onMessage _ _ (within rfl) (fun _ _ h =>
        path_ite (fun _ => path_authFailure _ _ (within rfl) (path_modStream _ _ (within rfl) h)) fun _ =>
        path_modStream _ _ (within rfl) (path_modStream _ _ (within rfl) h)) (path_refl _ _)

theorem keeps_resultCredit (m : IngestMsg) (s : State) : Keeps (.resultCredit m) s :=
  keeps_answer rfl <| by
    split
    · exact path_then (path_takeFrame _ (within rfl) (path_refl _ _)) fun hs =>
        path_ite (fun _ => path_modRcv _ _ (within rfl) hs) fun _ => hs
    · exact path_onMessage _ _ (within rfl)
        (fun _ _ h => path_pump _ (within rfl) (path_modStream _ _ (within rfl) h)) (path_refl _ _)

theorem keeps_abortSample (m : IngestMsg) (s : State) : Keeps (.abortSample m) s :=
  keeps_answer rfl <|
    path_onMessage _ _ (within rfl)
      (fun _ _ h => path_pump _ (within rfl) (path_modStream _ _ (within rfl) (path_spoil _ _ (within rfl) h)))
      (path_refl _ _)

theorem keeps_ingestCreditTimer (u : Nat) (s : State) : Keeps (.ingestCreditTimer u) s :=
  keeps_answer rfl (path_ite (fun _ => path_sendCredit _ (within rfl) (path_refl _ _)) fun _ => path_refl _ _)

theorem keeps_positionWritten (u position : Nat) (d : Decoded) (s : State) :
    Keeps (.positionWritten u position d) s :=
  keeps_answer rfl <| by
    extract_lets stream
    split
    · exact path_refl _ _
    · split
      · exact path_refl _ _
      · split
        · exact path_refl _ _
        · exact path_ite (fun _ => path_refl _ _) fun _ =>
            path_pump _ (within rfl) <|
              path_dropSample _ _ (within rfl) <|
                path_putPosition _ _ _ _ (within rfl) <|
                  path_modStream _ _ (within rfl) <|
                    path_count _ _ _ (within rfl) <|
                      path_count _ _ _ (within rfl) (path_count _ _ _ (within rfl) (path_refl _ _))

theorem keeps_roundDeadline (u : Nat) (s : State) : Keeps (.roundDeadline u) s :=
  keeps_answer rfl <| by
    extract_lets stream limit
    split
    · exact path_ite
        (fun _ => path_pump _ (within rfl) <|
          path_foldl _ _ (fun _ _ h => path_maskEntry _ _ _ (within rfl) h) _ (path_refl _ _))
        fun _ => path_refl _ _
    · exact path_refl _ _

theorem keeps_streamStall (u : Nat) (s : State) : Keeps (.streamStall u) s :=
  keeps_answer rfl <|
    path_ite
      (fun _ => path_modStream _ _ (within rfl) (path_raise _ (within rfl) (path_refl _ _)))
      fun _ => path_refl _ _

/-! ### Kettle ports (R435 to R444) -/

theorem keeps_kettleFlit (k seq ack : Nat) (crcOk : Bool) (s : State) : Keeps (.kettleFlit k seq ack crcOk) s :=
  keeps_answer rfl <|
    path_ite (fun _ => path_refl _ _) fun _ =>
    path_ite (fun _ => path_modKport _ _ (within rfl) (path_refl _ _)) fun _ =>
    path_ite
      (fun _ => path_ite (fun _ => path_refl _ _) fun _ => path_sendNak _ (within rfl) (path_refl _ _))
      fun _ =>
        path_then (path_modKport _ _ (within rfl) (path_refl _ _)) fun hs =>
        path_ite (fun _ => path_sendNak _ (within rfl) hs) fun _ =>
        path_ite (fun _ => path_kettleDown _ _ (within rfl) hs) fun _ =>
        path_sendNak _ (within rfl) (path_modKport _ _ (within rfl) hs)

theorem keeps_nak (k seq : Nat) (s : State) : Keeps (.nak k seq) s :=
  keeps_answer rfl (path_ite (fun _ => path_refl _ _) fun _ => path_modKport _ _ (within rfl) (path_refl _ _))

theorem keeps_hello (k peer peerPort lanes secVersion : Nat) (s : State) :
    Keeps (.hello k peer peerPort lanes secVersion) s :=
  keeps_answer rfl <|
    path_ite (fun _ => path_refl _ _) fun _ =>
    path_ite (fun _ => path_portUp _ _ _ (within rfl) (path_refl _ _)) fun _ =>
    path_ite
      (fun _ => path_portUp _ _ _ (within rfl) (path_portOff _ _ (within rfl) (path_refl _ _)))
      fun _ => path_refl _ _

theorem keeps_remap (k lane phase : Nat) (s : State) : Keeps (.remap k lane phase) s :=
  keeps_answer rfl <|
    path_ite (fun _ => path_refl _ _) fun _ =>
    path_ite (fun _ => path_kettleDown _ _ (within rfl) (path_refl _ _)) fun _ =>
    path_out _ (within rfl) (path_modKport _ _ (within rfl) (path_refl _ _))

theorem keeps_kettleLaneRemapped (k lane : Nat) (ok : Bool) (s : State) : Keeps (.kettleLaneRemapped k lane ok) s :=
  keeps_answer rfl <|
    path_ite (fun _ => path_refl _ _) fun _ =>
    path_then (path_ite (fun _ => path_out _ (within rfl) (path_refl _ _)) fun _ => path_refl _ _) fun hs =>
    path_ite (fun _ => path_kettleDown _ _ (within rfl) hs) fun _ =>
    path_pumpXfers (within rfl) (path_raise _ (within rfl) (path_modKport _ _ (within rfl) hs))

theorem keeps_block (h : KHdr) (b : BlockFields) (s : State) : Keeps (.block h b) s :=
  keeps_answer rfl <|
    path_packet _ _ (within rfl) (fun _ h => by
        split
        · exact path_modKport _ _ (within rfl) h
        · split
          · exact h
          · exact path_ite
              (fun _ =>
                path_stopColl _ _ (within rfl) <|
                  path_kettleSend _ _ _ _ _ _ (within rfl) (path_count _ _ _ (within rfl) h))
              fun _ =>
                path_ite (fun _ => path_modKport _ _ (within rfl) h) fun _ =>
                path_ite (fun _ => h) fun _ =>
                path_pumpColl _ (within rfl) <|
                  path_modColl _ _ (within rfl) <|
                    path_count _ _ _ (within rfl) (path_toStaging _ _ (within rfl) h)) (path_refl _ _)

theorem keeps_credit (h : KHdr) (count : Nat) (s : State) : Keeps (.credit h count) s :=
  keeps_answer rfl <|
    path_packet _ _ (within rfl) (fun _ h =>
        path_ite (fun _ => h) fun _ =>
        path_pumpColl _ (within rfl) (path_modColl _ _ (within rfl) (path_set_credits _ (within rfl) h)))
      (path_refl _ _)

theorem keeps_refuse (h : KHdr) (status : Nat) (s : State) : Keeps (.refuse h status) s :=
  keeps_answer rfl <|
    path_packet _ _ (within rfl) (fun _ h => by
        split
        · exact path_ite (fun _ => path_stopColl _ _ (within rfl) h) fun _ => h
        · exact h) (path_refl _ _)

theorem keeps_kettleCreditTimer (q : Nat) (s : State) : Keeps (.kettleCreditTimer q) s :=
  keeps_answer rfl <| by
    split
    · exact path_ite (fun _ => path_sendCredits _ (within rfl) (path_refl _ _)) fun _ => path_refl _ _
    · exact path_refl _ _

theorem keeps_sachetBlock (h : KHdr) (sachetId offset : Nat) (payload : List Byte) (crcOk : Bool) (s : State) :
    Keeps (.sachetBlock h sachetId offset payload crcOk) s :=
  keeps_answer rfl <|
    path_packet _ _ (within rfl) (fun _ h =>
        path_kettleSend _ _ _ _ _ _ (within rfl) <|
          path_ite_fst (fun _ => path_landBlock _ _ _ _ _ (within rfl) h) fun _ => h) (path_refl _ _)

theorem keeps_sachetConfirm (h : KHdr) (sachetId offset count status : Nat) (s : State) :
    Keeps (.sachetConfirm h sachetId offset count status) s :=
  keeps_answer rfl <|
    path_packet _ _ (within rfl) (fun _ h => by
        split
        · exact h
        · split
          · exact path_pumpXfers (within rfl) (path_set_xfers _ (within rfl) h)
          · exact path_ite
              (fun _ =>
                path_pumpXfers (within rfl) <|
                  path_landingFailed _ _ (within rfl) <|
                    path_ite (fun _ => h) fun _ => path_modPart _ _ (within rfl) h)
              fun _ => path_pumpXfers (within rfl) (path_set_xfers _ (within rfl) h)) (path_refl _ _)

theorem keeps_fetchRequest (h : KHdr) (sachetId offset bytes guest guestPartition region : Nat) (s : State) :
    Keeps (.fetchRequest h sachetId offset bytes guest guestPartition region) s :=
  keeps_answer rfl <|
    path_packet _ _ (within rfl) (fun _ h => by
        split
        · exact path_kettleSend _ _ _ _ _ _ (within rfl) h
        · exact path_pumpXfers (within rfl) (path_set_xfers _ (within rfl) h)) (path_refl _ _)

theorem keeps_fetchData (h : KHdr) (sachetId offset : Nat) (payload : List Byte) (crcOk : Bool) (s : State) :
    Keeps (.fetchData h sachetId offset payload crcOk) s :=
  keeps_answer rfl <|
    path_packet _ _ (within rfl) (fun _ h => by
        split
        · exact h
        · exact path_ite
            (fun _ =>
              path_then (path_kettleSend _ _ _ _ _ _ (within rfl) h) fun h1 =>
              path_ite
                (fun _ => path_issue _ _ _ _ (within rfl) (path_set_fetches _ (within rfl) h1))
                fun _ => path_set_fetches _ (within rfl) h1)
            fun _ =>
              path_then (path_kettleSend _ _ _ _ _ _ (within rfl) (path_store _ _ _ (within rfl) h)) fun h2 =>
              path_ite
                (fun _ => path_issue _ _ _ _ (within rfl) (path_set_fetches _ (within rfl) h2))
                fun _ => path_set_fetches _ (within rfl) h2) (path_refl _ _)

theorem keeps_fetchRefuse (h : KHdr) (status : Nat) (s : State) : Keeps (.fetchRefuse h status) s :=
  keeps_answer rfl <|
    path_packet _ _ (within rfl) (fun _ h => by
        split
        · exact path_issue _ _ _ _ (within rfl) (path_set_fetches _ (within rfl) h)
        · exact h) (path_refl _ _)

theorem keeps_windowBind (h : KHdr) (gib partition : Nat) (s : State) : Keeps (.windowBind h gib partition) s :=
  keeps_answer rfl <|
    path_packet _ _ (within rfl) (fun _ h =>
        path_ite (fun _ => path_kettleSend _ _ _ _ _ _ (within rfl) h) fun _ =>
        path_kettleSend _ _ _ _ _ _ (within rfl) (path_set_guests _ (within rfl) h)) (path_refl _ _)

theorem keeps_windowReply (h : KHdr) (status slots : Nat) (s : State) : Keeps (.windowReply h status slots) s :=
  keeps_answer rfl <|
    path_packet _ _ (within rfl) (fun _ h => by
        split
        · exact h
        · exact path_bindAnswered _ _ _ (within rfl) h) (path_refl _ _)

theorem keeps_windowRelease (h : KHdr) (partition : Nat) (s : State) : Keeps (.windowRelease h partition) s :=
  keeps_answer rfl (path_packet _ _ (within rfl) (fun _ h => path_set_guests _ (within rfl) h) (path_refl _ _))

theorem keeps_windowNotice (h : KHdr) (status : Nat) (s : State) : Keeps (.windowNotice h status) s :=
  keeps_answer rfl <|
    path_packet _ _ (within rfl) (fun _ h =>
        path_foldl _ _ (fun _ _ h =>
            path_ite (fun _ => path_modPart _ _ (within rfl) (path_dropHolder _ _ (within rfl) h)) fun _ =>
            path_dropHolder _ _ (within rfl) h) _ h) (path_refl _ _)

/-! ### Collectives in time (R279 to R303) -/

theorem keeps_stragglerDeadline (q : Nat) (s : State) : Keeps (.stragglerDeadline q) s :=
  keeps_answer rfl <| by
    split
    · exact path_deadline _ (within rfl) (path_refl _ _)
    · exact path_refl _ _

theorem keeps_ledgerCopyDone (p key : Nat) (s : State) : Keeps (.ledgerCopyDone p key) s :=
  keeps_answer rfl <|
    path_then (path_beginCopies _ (within rfl) (path_refl _ _)) fun hs =>
    path_ite (fun _ => hs) fun _ => path_pumpColls (within rfl) (path_copyLedger _ _ (within rfl) hs)

theorem keeps_collectiveStall (q : Nat) (s : State) : Keeps (.collectiveStall q) s :=
  keeps_answer rfl <| by
    split
    · exact path_ite
        (fun _ => path_stopColl _ _ (within rfl) (path_count _ _ _ (within rfl) (path_refl _ _)))
        fun _ => path_refl _ _
    · exact path_refl _ _

theorem keeps_peerLossHold (peer : Nat) (s : State) : Keeps (.peerLossHold peer) s :=
  keeps_answer rfl (path_ite (fun _ => path_declareLost _ _ (within rfl) (path_refl _ _)) fun _ => path_refl _ _)

/-! ### The front bus (R90 to R112, R453 to R454) -/

theorem keeps_sync (source t : Nat) (s : State) : Keeps (.sync source t) s :=
  keeps_answerTime rfl <|
    path_ite
      (fun _ => path_ite (fun _ => path_tfbSend _ _ (within rfl) (path_refl _ _)) fun _ => path_refl _ _)
      fun _ =>
        path_ite (fun _ => path_refl _ _) fun _ =>
        path_takeSync _ (within rfl) (path_set_tfb _ (within rfl) (path_refl _ _))

theorem keeps_reclaimNotice (source modules partitions : Nat) (s : State) :
    Keeps (.reclaimNotice source modules partitions) s :=
  keeps_answer rfl <|
    path_message _ _ _ (within rfl)
      (fun _ h => path_ite (fun _ => path_foldl _ _ (fun _ _ h => path_reclaim _ _ (within rfl) h) _ h) fun _ => h)
      (path_refl _ _)

theorem keeps_faultBroadcast (source status : Nat) (fatal : Bool) (named : Nat) (s : State) :
    Keeps (.faultBroadcast source status fatal named) s :=
  keeps_answer rfl <|
    path_message _ _ _ (within rfl) (fun _ h =>
        path_ite (fun _ => path_declareLost _ _ (within rfl) h) fun _ =>
        path_ite (fun _ => path_declareLost _ _ (within rfl) h) fun _ => h) (path_refl _ _)

theorem keeps_moduleLost (source lost : Nat) (s : State) : Keeps (.moduleLost source lost) s :=
  keeps_answer rfl (path_message _ _ _ (within rfl) (fun _ h => path_declareLost _ _ (within rfl) h) (path_refl _ _))

theorem keeps_landed (source group epoch partition : Nat) (s : State) :
    Keeps (.landed source group epoch partition) s :=
  keeps_answer rfl <|
    path_message _ _ _ (within rfl) (fun _ h => path_foldl _ _ (fun _ _ h => path_groupLanded _ _ _ (within rfl) h) _ h)
      (path_refl _ _)

theorem keeps_rollbackMsg (source group epoch : Nat) (s : State) : Keeps (.rollbackMsg source group epoch) s :=
  keeps_answer rfl <|
    path_message _ _ _ (within rfl) (fun _ h =>
        path_foldl _ _ (fun _ _ h => path_ite (fun _ => path_beginRollback _ _ _ (within rfl) h) fun _ => h) _ h)
      (path_refl _ _)

theorem keeps_groupReclaim (source group partition : Nat) (s : State) :
    Keeps (.groupReclaim source group partition) s :=
  keeps_answer rfl <|
    path_message _ _ _ (within rfl) (fun _ h => path_foldl _ _ (fun _ _ h => path_modRcv _ _ (within rfl) h) _ h) <|
      path_refl _ _

theorem keeps_holdover (s : State) : Keeps .holdover s :=
  keeps_answerTime rfl (path_ite (fun _ => path_refl _ _) fun _ => path_set_time _ (within rfl) (path_refl _ _))

theorem keeps_freeRun (s : State) : Keeps .freeRun s :=
  keeps_answerTime rfl <|
    path_ite (fun _ => path_refl _ _) fun _ =>
    path_foldl _ _ (fun _ _ h => path_ite (fun _ => h) fun _ => path_breakGroup _ _ (within rfl) h) _
      (path_set_timeTfb _ _ (within rfl) (path_refl _ _))

theorem keeps_masterTakeover (address : Nat) (s : State) : Keeps (.masterTakeover address) s :=
  keeps_answerTime rfl <|
    path_ite
      (fun _ => path_ite (fun _ => path_refl _ _) fun _ => path_set_timeTfb _ _ (within rfl) (path_refl _ _))
      fun _ =>
        path_ite (fun _ => path_set_timeTfb _ _ (within rfl) (path_refl _ _)) fun _ =>
        path_set_tfb _ (within rfl) (path_refl _ _)

/-! ### Sachets and reclaims (R304 to R329) -/

theorem keeps_sachetCapture (p : Nat) (faults : List BlockFault) (s : State) : Keeps (.sachetCapture p faults) s :=
  keeps_answer rfl <| by
    split
    · refine path_ite (fun _ => path_refl _ _) fun _ => ?_
      extract_lets regions bad read sent
      refine path_then (t := read) (path_readRegions _ _ _ (within rfl) (path_refl _ _)) fun hr => ?_
      clear_value bad
      split
      · exact path_sachetEnded _ (within rfl) <|
          path_endCapture _ _ (within rfl) <|
            path_count _ _ _ (within rfl) (path_raiseBlock _ _ _ _ (within rfl) hr)
      · exact path_then (path_sendSachet _ (within rfl) hr) fun hs =>
          path_ite (fun _ => path_sachetEnded _ (within rfl) hs) fun _ => hs
    · exact path_refl _ _

theorem keeps_sachetLanded (p : Nat) (s : State) : Keeps (.sachetLanded p) s :=
  keeps_answer rfl (path_ite (fun _ => path_landSachet _ (within rfl) (path_refl _ _)) fun _ => path_refl _ _)

theorem keeps_tier2WriteDone (p : Nat) (s : State) : Keeps (.tier2WriteDone p) s :=
  keeps_answer rfl <| by
    split
    · exact path_modRcv _ _ (within rfl) (path_refl _ _)
    · exact path_pruneSachets _ (within rfl) <|
        path_count _ _ _ (within rfl) <|
          path_setVal _ _ _ (within rfl) (path_modRcv _ _ (within rfl) (path_refl _ _))

theorem keeps_tier3WriteDone (p : Nat) (s : State) : Keeps (.tier3WriteDone p) s :=
  keeps_answer rfl <| by
    split
    · exact path_modRcv _ _ (within rfl) (path_refl _ _)
    · exact path_then (path_modRcv _ _ (within rfl) (path_refl _ _)) fun hs =>
      path_ite (fun _ => hs) fun _ =>
      path_ite (fun _ => path_note _ _ (within rfl) hs) fun _ =>
      path_ite (fun _ => path_note _ _ (within rfl) hs) fun _ =>
      path_ite (fun _ => path_refl _ _) fun _ =>
      path_count _ _ _ (within rfl) <|
        path_setVal _ _ _ (within rfl) (path_modRcv _ _ (within rfl) (path_set_outs _ (within rfl) (path_refl _ _)))

theorem keeps_rollbackRestoreDone (p : Nat) (s : State) : Keeps (.rollbackRestoreDone p) s :=
  keeps_answer rfl <| by
    extract_lets work
    split
    · exact path_refl _ _
    · split
      · exact path_refl _ _
      · exact path_ite (fun _ => path_refl _ _) fun _ =>
          path_ite (fun _ => path_chooseTarget _ (within rfl) (path_modRcv _ _ (within rfl) (path_refl _ _))) fun _ =>
          path_finishRollback _ (within rfl) <|
            path_modRcv _ _ (within rfl) <|
              path_rewindStreams _ _ (within rfl) <|
                path_lapseChive _ (within rfl) <|
                  path_wideAll _ (within rfl) <|
                    path_restoreSchedule _ _ _ (within rfl) (path_restoreRegions _ _ _ (within rfl) (path_refl _ _))

theorem keeps_startRestoreDone (p : Nat) (s : State) : Keeps (.startRestoreDone p) s :=
  keeps_answer rfl <| by
    split
    · exact path_ite
        (fun _ => path_beginRun _ _ (within rfl) (path_restoreRegions _ _ _ (within rfl) (path_refl _ _)))
        fun _ => path_refl _ _
    · exact path_refl _ _

theorem keeps_spareSelfTestDone (site : Nat) (passed : Bool) (s : State) : Keeps (.spareSelfTestDone site passed) s :=
  keeps_answer rfl (path_retryLayout (within rfl) (path_spareTested _ _ (within rfl) (path_refl _ _)))

theorem keeps_reclaimFenceAbort (p : Nat) (s : State) : Keeps (.reclaimFenceAbort p) s :=
  keeps_answer rfl <| by
    split
    · exact path_ite (fun _ => path_fenceAbort _ (within rfl) (path_refl _ _)) fun _ => path_refl _ _
    · exact path_refl _ _

theorem keeps_reclaimDeadline (p : Nat) (s : State) : Keeps (.reclaimDeadline p) s :=
  keeps_answer rfl <| by
    split
    · exact path_ite
        (fun _ =>
          path_startScrub _ (within rfl) <|
            path_count _ _ _ (within rfl) <|
              path_note _ _ (within rfl) <|
                path_abandonSachet _ (within rfl) (path_modRcv _ _ (within rfl) (path_refl _ _)))
        fun _ => path_refl _ _
    · exact path_refl _ _

/-! ### Errors and inputs (R330 to R348) -/

theorem keeps_errorEntryHandle (handler : Nat) (s : State) : Keeps (.errorEntryHandle handler) s :=
  keeps_answer rfl <| by
    split
    · exact path_refl _ _
    · exact path_ite (fun _ => path_refl _ _) fun _ =>
      path_then (path_modErr _ (within rfl) (path_refl _ _)) fun hs =>
      path_ite (fun _ => path_takeOffline _ (within rfl) hs) fun _ => hs

theorem keeps_errorEntryLogged (sequence : Nat) (s : State) : Keeps (.errorEntryLogged sequence) s :=
  keeps_answer rfl <| by
    split
    · exact path_refl _ _
    · exact path_ite (fun _ => path_refl _ _) fun _ =>
      path_modErr _ (within rfl) (path_logEntry _ (within rfl) (path_refl _ _))

theorem keeps_flitParityError (path kind : Nat) (replaysFailed : Nat) (retrained : Bool) (s : State) :
    Keeps (.flitParityError path kind replaysFailed retrained) s :=
  keeps_answer rfl <|
    path_ite (fun _ => path_refl _ _) fun _ =>
    path_ite (fun _ => path_countPath _ _ _ _ (within rfl) (path_refl _ _)) fun _ =>
    path_then (path_countPath _ _ _ _ (within rfl) (path_refl _ _)) fun h1 =>
    path_ite (fun _ => path_ite (fun _ => h1) fun _ => path_pathOffline _ (within rfl) h1) fun _ =>
    path_then
      (path_raise _ (within rfl) (path_ite (fun _ => path_pathOffline _ (within rfl) h1) fun _ => h1))
      fun h2 =>
        path_ite (fun _ => h2) fun _ => path_enrol _ (within rfl) h2

theorem keeps_faultInN (s : State) : Keeps .faultInN s :=
  keeps_answer rfl <|
    path_strain _ _ (within rfl) (fun _ h =>
        path_then (path_raise _ (within rfl) h) fun hs =>
        path_ite (fun _ => path_foldl _ _ (fun _ _ h => path_enterSafeStop _ _ (within rfl) h) _ hs) fun _ => hs)
      (path_refl _ _)

theorem keeps_reclaimN (s : State) : Keeps .reclaimN s :=
  keeps_answer rfl <|
    path_strain _ _ (within rfl) (fun _ h => path_foldl _ _ (fun _ _ h => path_reclaim _ _ (within rfl) h) _ h) <|
      path_refl _ _

theorem keeps_warmResetN (found : Findings) (s : State) : Keeps (.warmResetN found) s :=
  keeps_answerTime rfl <|
    path_ite (fun _ => path_refl _ _) fun _ =>
    path_strain _ _ (within rfl) (fun _ h => path_requestReset _ _ (within rfl) h) (path_refl _ _)

theorem keeps_inputStuck (input : Nat) (s : State) : Keeps (.inputStuck input) s :=
  keeps_answer rfl <|
    path_ite (fun _ => path_refl _ _) fun _ =>
    path_modInput _ _ (within rfl) (path_raise _ (within rfl) (path_refl _ _))

theorem keeps_strainerRearm (input : Nat) (s : State) : Keeps (.strainerRearm input) s :=
  keeps_answer rfl (path_ite (fun _ => path_refl _ _) fun _ => path_modInput _ _ (within rfl) (path_refl _ _))

theorem keeps_componentFault (processor component : Nat) (s : State) :
    Keeps (.componentFault processor component) s :=
  keeps_answer rfl <|
    path_ite (fun _ => path_modPort _ _ (within rfl) (path_refl _ _)) fun _ =>
    path_ite (fun _ => path_secCrash (within rfl) (path_refl _ _)) fun _ =>
    path_ite (fun _ => path_pmcCrash (within rfl) (path_refl _ _)) fun _ =>
    path_ite (fun _ => path_schCrash (within rfl) (path_refl _ _)) fun _ =>
    path_cccCrash _ (within rfl) (path_refl _ _)

/-! ### Security (R393 to R415) -/

theorem keeps_keyExchange (m : Spdm) (slot : Nat) (s : State) : Keeps (.keyExchange m slot) s :=
  keeps_answer rfl <|
    path_spdm _ _ (within rfl) (fun _ h => path_ite_fst (fun _ => h) fun _ => path_set_sec _ (within rfl) h) <|
      path_refl _ _

theorem keeps_chunkSend (m : Spdm) (handle chunk : Nat) (last : Bool) (s : State) :
    Keeps (.chunkSend m handle chunk last) s :=
  keeps_answer rfl (path_spdm _ _ (within rfl) (fun _ h => path_set_sec _ (within rfl) h) (path_refl _ _))

theorem keeps_keyDeliver (m : Spdm) (ty partition handle lifetime : Nat) (key : List Byte) (s : State) :
    Keeps (.keyDeliver m ty partition handle lifetime key) s :=
  keeps_answer rfl <|
    path_spdm _ _ (within rfl)
      (fun _ h =>
        path_ite (fun _ => h) fun _ =>
        path_ite (fun _ => path_set_nor _ (fun _ => le_refl _) (within rfl) h) fun _ => path_set_sec _ (within rfl) h)
      (path_refl _ _)

theorem keeps_keyRevoke (m : Spdm) (ty partition handle : Nat) (s : State) :
    Keeps (.keyRevoke m ty partition handle) s :=
  keeps_answer rfl <|
    path_spdm _ _ (within rfl) (fun _ h =>
        path_ite_fst (fun _ => h) fun _ => path_ite_fst (fun _ => h) fun _ => path_eraseKeys _ (within rfl) h)
      (path_refl _ _)

theorem keeps_ideKm (m : Spdm) (stream keySet : Nat) (key : List Byte) (s : State) :
    Keeps (.ideKm m stream keySet key) s :=
  keeps_answer rfl <|
    path_spdm _ _ (within rfl) (fun _ h => path_ite_fst (fun _ => h) fun _ => path_set_sec _ (within rfl) h) <|
      path_refl _ _

/-! ### Power and clocks (R417 to R434) -/

theorem keeps_pmcControlPeriod (power : Nat) (s : State) : Keeps (.pmcControlPeriod power) s :=
  keeps_answer rfl <|
    path_ite (fun _ => path_refl _ _) fun _ =>
    path_then (path_countPeriod (within rfl) (path_refl _ _)) fun hs =>
    path_ite (fun _ => path_capDown (within rfl) hs) fun _ =>
    path_ite (fun _ => path_capUp (within rfl) hs) fun _ => hs

theorem keeps_governorSample (power : Nat) (s : State) : Keeps (.governorSample power) s :=
  keeps_answer rfl <|
    path_ite (fun _ => path_refl _ _) fun _ =>
    path_ite (fun _ => path_set_power _ (within rfl) (path_refl _ _)) fun _ =>
    path_ite (fun _ => path_set_power _ (within rfl) (path_refl _ _)) fun _ => by
      split
      · exact path_set_power _ (within rfl) (path_refl _ _)
      · exact path_refl _ _

theorem keeps_droopEvent (n : Nat) (s : State) : Keeps (.droopEvent n) s :=
  keeps_answer rfl <| by
    split
    · exact path_ite (fun _ => path_refl _ _) fun _ =>
      path_spend _ (within rfl) (path_set_power _ (within rfl) (path_refl _ _))
    · exact path_refl _ _

theorem keeps_sensorSample (index : Nat) (value : F32) (s : State) : Keeps (.sensorSample index value) s :=
  keeps_answer rfl (path_ite (fun _ => path_sample _ _ (within rfl) (path_refl _ _)) fun _ => path_refl _ _)

theorem keeps_zoneThrottleStep (zone : Nat) (s : State) : Keeps (.zoneThrottleStep zone) s :=
  keeps_answer rfl <|
    path_ite (fun _ => path_refl _ _) fun _ =>
    path_countThermal _ _ (within rfl) <|
      path_foldl _ _ (fun _ _ h => path_modSite _ _ (within rfl) h) _ (path_refl _ _)

theorem keeps_idleGating (p : Nat) (s : State) : Keeps (.idleGating p) s :=
  keeps_answer rfl <|
    path_ite (fun _ => path_refl _ _) fun _ =>
    path_modPart _ _ (within rfl) <|
      path_foldl _ _ (fun _ _ h => path_modSite _ _ (within rfl) h) _ <|
        path_scrubWhere _ _ (within rfl) (path_refl _ _)

theorem keeps_bandPllStop (band : Nat) (s : State) : Keeps (.bandPllStop band) s :=
  keeps_answer rfl (path_ite (fun _ => path_refl _ _) fun _ => path_set_power _ (within rfl) (path_refl _ _))

theorem keeps_bladesLive (found : Findings) (s : State) : Keeps (.bladesLive found) s := by
  have started : Path (.pending :: footprint (.bladesLive found)) s
      (if s.boot.power = 0 then s.startUp true 0 found else s) :=
    path_ite (fun _ => path_startUp _ _ _ (within rfl) (path_refl _ _)) fun _ => path_refl _ _
  obtain ⟨hmem, hroll, hlayouts, hspares, hchannels⟩ := started.oneWay
  refine ⟨_, rfl, fun k hk => ?_, ⟨hmem, hroll, hlayouts, hspares, hchannels⟩⟩
  cases k
  case pending => rfl
  all_goals exact absurd (List.contains_iff_mem.mp rfl) hk

theorem keeps_bladePowerFail (s : State) : Keeps .bladePowerFail s :=
  keeps_answer rfl <|
    path_ite (fun _ => path_refl _ _) fun _ => path_mainOff _ (within rfl) (path_saveLog (within rfl) (path_refl _ _))

theorem keeps_logBufferProgram (s : State) : Keeps .logBufferProgram s :=
  keeps_answer rfl (path_ite (fun _ => path_refl _ _) fun _ => path_programLog (within rfl) (path_refl _ _))

/-! ### Links and buses (R455 to R465) -/

theorem keeps_linkDown (s : State) : Keeps .linkDown s :=
  keeps_answer rfl <|
    path_foldl _ _ (fun _ _ h => path_loseLease _ _ (within rfl) h) _ (path_dropResponse (within rfl) (path_refl _ _))

theorem keeps_functionReset (fn : Nat) (s : State) : Keeps (.functionReset fn) s :=
  keeps_answer rfl <|
    path_ite (fun _ => path_refl _ _) fun _ =>
    path_modRings _ _ (within rfl) (path_loseLease _ _ (within rfl) (path_refl _ _))

theorem keeps_function0Reset (s : State) : Keeps .function0Reset s :=
  keeps_answer rfl (path_set_caddy _ (within rfl) (path_dropResponse (within rfl) (path_refl _ _)))

theorem keeps_entdaa (address : Nat) (s : State) : Keeps (.entdaa address) s :=
  keeps_answer rfl <|
    path_i3c _ (within rfl)
      (fun _ h => path_ite (fun _ => h) fun _ => path_out _ (within rfl) (path_modBus _ (within rfl) h)) (path_refl _ _)

theorem keeps_setdasa (address : Nat) (s : State) : Keeps (.setdasa address) s :=
  keeps_answer rfl (path_i3c _ (within rfl) (fun _ h => path_modBus _ (within rfl) h) (path_refl _ _))

theorem keeps_rstact (definingByte : Nat) (found : Findings) (s : State) : Keeps (.rstact definingByte found) s :=
  keeps_answerTime rfl (path_ite (fun _ => path_requestReset _ _ (within rfl) (path_refl _ _)) fun _ => path_refl _ _)

theorem keeps_ingestPortUp (port : Nat) (s : State) : Keeps (.ingestPortUp port) s :=
  keeps_answer rfl (path_ite (fun _ => path_set_iports _ (within rfl) (path_refl _ _)) fun _ => path_refl _ _)

theorem keeps_plcaBeaconLost (s : State) : Keeps .plcaBeaconLost s :=
  keeps_answer rfl (path_ite (fun _ => path_modBus _ (within rfl) (path_refl _ _)) fun _ => path_refl _ _)

theorem keeps_plcaBeacon (s : State) : Keeps .plcaBeacon s :=
  keeps_answer rfl (path_i3c _ (within rfl) (fun _ h => path_modBus _ (within rfl) h) (path_refl _ _))

theorem keeps_debugSessionOpen (s : State) : Keeps .debugSessionOpen s :=
  keeps_answer rfl <|
    path_ite (fun _ => path_refl _ _) fun _ =>
    path_then (path_set_sec _ (within rfl) (path_refl _ _)) fun hs =>
    path_ite (fun _ => path_remeasured (within rfl) hs) fun _ => hs

theorem keeps_strainerInputRelease (input : Nat) (s : State) : Keeps (.strainerInputRelease input) s :=
  keeps_answer rfl (path_ite (fun _ => path_refl _ _) fun _ => path_modInput _ _ (within rfl) (path_refl _ _))

theorem keeps_flowControlFrame (port : Nat) (s : State) : Keeps (.flowControlFrame port) s :=
  keeps_answer rfl (path_ite (fun _ => path_set_iports _ (within rfl) (path_refl _ _)) fun _ => path_refl _ _)

/-! ### Every command -/

/-- Every command goes on and keeps to its footprint: by the path of its one operation, or by its lemma above. -/
theorem keeps_footprint (c : Instr) (s : State) : Keeps c s := by
  cases c with
  | caddyRead => exact keeps_answer rfl (path_readRequest _ _ _ _ (within rfl) (path_refl _ _))
  | caddyWrite => exact keeps_answerTime rfl (path_writeRequest _ _ _ _ _ _ _ _ (within rfl) (path_refl _ _))
  | caddyDescribe => exact keeps_caddyDescribe ..
  | caddyIdentify => exact keeps_answer rfl (path_identifyRequest _ (within rfl) (path_refl _ _))
  | caddySegmentTimeout => exact keeps_answer rfl (path_set_caddy _ (within rfl) (path_refl _ _))
  | start => exact keeps_answer rfl (path_writeRun _ _ _ (within rfl) (path_refl _ _))
  | drain => exact keeps_answer rfl (path_writeRun _ _ _ (within rfl) (path_refl _ _))
  | abort => exact keeps_answer rfl (path_writeRun _ _ _ (within rfl) (path_refl _ _))
  | reclaim => exact keeps_answer rfl (path_writeRun _ _ _ (within rfl) (path_refl _ _))
  | scrub => exact keeps_answer rfl (path_writeRun _ _ _ (within rfl) (path_refl _ _))
  | clearSafeStop => exact keeps_answer rfl (path_writeRun _ _ _ (within rfl) (path_refl _ _))
  | layoutCommit => exact keeps_write rfl (within rfl) fun _ h => path_writeLayout _ (within rfl) h
  | hostedPartnerWindow => exact keeps_write rfl (within rfl) fun _ h => path_done _ (path_writeWindow _ (within rfl) h)
  | partnerModuleAddress => exact keeps_write rfl (within rfl) fun _ h => path_writePartner _ _ _ (within rfl) h
  | partnerWindowRequest => exact keeps_write rfl (within rfl) fun _ h => path_writeWindowRequest _ _ _ (within rfl) h
  | accumulatorVisibility =>
    exact keeps_write rfl (within rfl) fun _ h => path_done _ (path_writeVisibility _ (within rfl) h)
  | debugTileData => exact keeps_debugTileData ..
  | timebaseSet => exact keeps_timebaseSet ..
  | snapshotTime => exact keeps_snapshotTime ..
  | snapshotLatch => exact keeps_snapshotLatch ..
  | snapshotRelease => exact keeps_snapshotRelease ..
  | migrationRequest => exact keeps_write rfl (within rfl) fun _ h => path_done _ (path_writeMigration _ (within rfl) h)
  | acknowledge => exact keeps_write rfl (within rfl) fun _ h => path_ackErrors _ _ (within rfl) h
  | declareModuleLost => exact keeps_write rfl (within rfl) fun _ h => path_declareLost _ _ (within rfl) h
  | reclaimNoticeSend => exact keeps_write rfl (within rfl) fun _ h => path_tfbSend _ _ (within rfl) h
  | warmResetRequest => exact keeps_warmResetRequest ..
  | sensorMinMaxReset =>
    exact keeps_write rfl (within rfl) fun _ h => path_ite (fun _ => path_resetSensor _ (within rfl) h) fun _ => h
  | logClear => exact keeps_write rfl (within rfl) fun _ h => path_done _ (path_clearLog _ (within rfl) h)
  | logReadData => exact keeps_logReadData ..
  | keyErase => exact keeps_write rfl (within rfl) fun _ h => path_eraseKeys _ (within rfl) h
  | securityStateRequest =>
    exact keeps_write rfl (within rfl) fun _ h => path_done _ (path_requestSecState _ (within rfl) h)
  | updateStagingData => exact keeps_write rfl (within rfl) fun _ h => path_done _ (path_stageUpdate _ (within rfl) h)
  | updateVerify => exact keeps_write rfl (within rfl) fun _ h => path_done _ (path_verifyUpdate _ (within rfl) h)
  | updateActivate => exact keeps_updateActivate ..
  | updateCancel => exact keeps_write rfl (within rfl) fun _ h => path_done _ (path_cancelUpdate (within rfl) h)
  | activationHold => exact keeps_activationHold ..
  | handoffPoint => exact keeps_handoffPoint ..
  | handoffAcceptance => exact keeps_handoffAcceptance ..
  | acceptanceLimit => exact keeps_acceptanceLimit ..
  | cccHandoffWait => exact keeps_cccHandoffWait ..
  | recordStagingData => exact keeps_answer rfl (path_writeStaging _ _ _ (within rfl) (path_refl _ _))
  | recordVerify => exact keeps_answer rfl (path_writeControl _ _ _ _ (within rfl) (path_refl _ _))
  | recordApply => exact keeps_answer rfl (path_writeControl _ _ _ _ (within rfl) (path_refl _ _))
  | recordCancel => exact keeps_answer rfl (path_writeControl _ _ _ _ (within rfl) (path_refl _ _))
  | recordExport => exact keeps_answer rfl (path_writeControl _ _ _ _ (within rfl) (path_refl _ _))
  | restoreDefaults => exact keeps_answer rfl (path_writeControl _ _ _ _ (within rfl) (path_refl _ _))
  | trustRecordStagingData => exact keeps_answer rfl (path_writeStaging _ _ _ (within rfl) (path_refl _ _))
  | trustRecordVerify => exact keeps_answer rfl (path_writeControl _ _ _ _ (within rfl) (path_refl _ _))
  | trustRecordApply => exact keeps_answer rfl (path_writeControl _ _ _ _ (within rfl) (path_refl _ _))
  | trustRecordCancel => exact keeps_answer rfl (path_writeControl _ _ _ _ (within rfl) (path_refl _ _))
  | journalSwitch => exact keeps_journalSwitch ..
  | kettlePortEnable => exact keeps_write rfl (within rfl) fun _ h => path_done _ (path_enablePort _ _ _ (within rfl) h)
  | bar0RegisterWrite => exact keeps_bar0RegisterWrite ..
  | sqTailDb => exact keeps_answer rfl (path_hostWrite _ (within rfl) (path_sqTail _ _ (within rfl) (path_refl _ _)))
  | cqHeadDb => exact keeps_answer rfl (path_hostWrite _ (within rfl) (path_cqHeadWrite _ _ (within rfl) (path_refl _ _)))
  | attachResume => exact keeps_answer rfl (path_hostWrite _ (within rfl) (path_attachResume _ (within rfl) (path_refl _ _)))
  | attachReset => exact keeps_answer rfl (path_hostWrite _ (within rfl) (path_attachReset _ (within rfl) (path_refl _ _)))
  | errqAck => exact keeps_answer rfl (path_hostWrite _ (within rfl) (path_ackErrors _ _ (within rfl) (path_refl _ _)))
  | moduleReset => exact keeps_moduleReset ..
  | caddyDb => exact keeps_caddyDb ..
  | caddyRsp => exact keeps_caddyRsp ..
  | doorbellErr => exact keeps_doorbellErr ..
  | bar2Write => exact keeps_bar2Write ..
  | submissionConsume => exact keeps_answer rfl (path_consume _ (within rfl) (path_refl _ _))
  | listStart => exact keeps_answer rfl (path_startList _ _ (within rfl) (path_refl _ _))
  | commandDispatch => exact keeps_answer rfl (path_dispatchNext _ _ (within rfl) (path_refl _ _))
  | commandComplete => exact keeps_commandComplete ..
  | deadlineMiss => exact keeps_deadlineMiss ..
  | barrierStalled => exact keeps_barrierStalled ..
  | heartbeatSample => exact keeps_answer rfl (path_sampleHeartbeat _ (within rfl) (path_refl _ _))
  | hostLeaseExpired => exact keeps_hostLeaseExpired ..
  | orphanServingTimeout => exact keeps_orphanServingTimeout ..
  | irqCoalesceTimer => exact keeps_irqCoalesceTimer ..
  | scheduleTick => exact keeps_answer rfl (path_nextTick _ _ (within rfl) (path_refl _ _))
  | gemm => exact keeps_gemm ..
  | spatialOperator => exact keeps_spatialOperator ..
  | setArrayModeWide => exact keeps_answer rfl (path_setMode _ _ (within rfl) (path_refl _ _))
  | setArrayModeChive16 => exact keeps_answer rfl (path_setMode _ _ (within rfl) (path_refl _ _))
  | setArrayModeChive32 => exact keeps_answer rfl (path_setMode _ _ (within rfl) (path_refl _ _))
  | loadStationary => exact keeps_loadStationary ..
  | epilogueOnly => exact keeps_epilogueOnly ..
  | preemption => exact keeps_preemption ..
  | arrayFault => exact keeps_arrayFault ..
  | coreRetirementComplete => exact keeps_coreRetirementComplete ..
  | steepRampDown => exact keeps_steepRampDown ..
  | fleFault => exact keeps_fleFault ..
  | vectorAdd => exact keeps_answer rfl (path_elementwise _ _ _ _ (within rfl) (path_refl _ _))
  | vectorMultiply => exact keeps_answer rfl (path_elementwise _ _ _ _ (within rfl) (path_refl _ _))
  | vectorSubtract => exact keeps_answer rfl (path_elementwise _ _ _ _ (within rfl) (path_refl _ _))
  | vectorMaximum => exact keeps_answer rfl (path_elementwise _ _ _ _ (within rfl) (path_refl _ _))
  | vectorMinimum => exact keeps_answer rfl (path_elementwise _ _ _ _ (within rfl) (path_refl _ _))
  | vectorCopyAndCast => exact keeps_answer rfl (path_elementwise _ _ _ _ (within rfl) (path_refl _ _))
  | vectorExp => exact keeps_answer rfl (path_elementwise _ _ _ _ (within rfl) (path_refl _ _))
  | vectorReciprocal => exact keeps_answer rfl (path_elementwise _ _ _ _ (within rfl) (path_refl _ _))
  | vectorReciprocalSqrt => exact keeps_answer rfl (path_elementwise _ _ _ _ (within rfl) (path_refl _ _))
  | castOnGather => exact keeps_castOnGather ..
  | reduceAdd => exact keeps_reduceAdd ..
  | checksumVerify => exact keeps_checksumVerify ..
  | copy => exact keeps_copy ..
  | decryptingCopy => exact keeps_decryptingCopy ..
  | skewedOperandFeed => exact keeps_skewedOperandFeed ..
  | multicast => exact keeps_multicast ..
  | recomputeRange => exact keeps_recomputeRange ..
  | reduceScatter => exact keeps_answer rfl (path_runColl _ _ _ (within rfl) (path_refl _ _))
  | allGather => exact keeps_answer rfl (path_runColl _ _ _ (within rfl) (path_refl _ _))
  | allReduce => exact keeps_answer rfl (path_runColl _ _ _ (within rfl) (path_refl _ _))
  | sachetPoint => exact keeps_sachetPoint ..
  | sachetFetch => exact keeps_sachetFetch ..
  | mediaBind => exact keeps_mediaBind ..
  | decodeBlockList => exact keeps_decodeBlockList ..
  | closeGraceful => exact keeps_closeGraceful ..
  | closeAbort => exact keeps_closeAbort ..
  | gatherList => exact keeps_gatherList ..
  | gatherAdd => exact keeps_gatherAdd ..
  | atomicAdd => exact keeps_atomicAdd ..
  | pairAdd => exact keeps_pairAdd ..
  | hbmWrite => exact keeps_hbmWrite ..
  | hbmBlockRead => exact keeps_hbmBlockRead ..
  | patrolBlock => exact keeps_patrolBlock ..
  | channelDegraded => exact keeps_channelDegraded ..
  | retrainingCheckFailed => exact keeps_retrainingCheckFailed ..
  | migrationCopyDone => exact keeps_migrationCopyDone ..
  | migrationRetrainDone => exact keeps_migrationRetrainDone ..
  | marchTestDone => exact keeps_marchTestDone ..
  | channelFailed => exact keeps_answer rfl (path_channelFails _ _ (within rfl) (path_refl _ _))
  | scrubComplete => exact keeps_scrubComplete ..
  | openMsg => exact keeps_openMsg ..
  | dataMsg => exact keeps_dataMsg ..
  | endMsg => exact keeps_endMsg ..
  | roi => exact keeps_roi ..
  | resultCredit => exact keeps_resultCredit ..
  | abortSample => exact keeps_abortSample ..
  | ingestCreditTimer => exact keeps_ingestCreditTimer ..
  | positionWritten => exact keeps_positionWritten ..
  | roundDeadline => exact keeps_roundDeadline ..
  | streamStall => exact keeps_streamStall ..
  | portDown => exact keeps_answer rfl (path_ingestDown _ (within rfl) (path_refl _ _))
  | kettleFlit => exact keeps_kettleFlit ..
  | nak => exact keeps_nak ..
  | hello => exact keeps_hello ..
  | remap => exact keeps_remap ..
  | kettleLaneRemapped => exact keeps_kettleLaneRemapped ..
  | block => exact keeps_block ..
  | credit => exact keeps_credit ..
  | refuse => exact keeps_refuse ..
  | kettleCreditTimer => exact keeps_kettleCreditTimer ..
  | sachetBlock => exact keeps_sachetBlock ..
  | sachetConfirm => exact keeps_sachetConfirm ..
  | fetchRequest => exact keeps_fetchRequest ..
  | fetchData => exact keeps_fetchData ..
  | fetchRefuse => exact keeps_fetchRefuse ..
  | windowBind => exact keeps_windowBind ..
  | windowReply => exact keeps_windowReply ..
  | windowRelease => exact keeps_windowRelease ..
  | windowNotice => exact keeps_windowNotice ..
  | stragglerDeadline => exact keeps_stragglerDeadline ..
  | ledgerCopyDone => exact keeps_ledgerCopyDone ..
  | collectiveStall => exact keeps_collectiveStall ..
  | peerLossHold => exact keeps_peerLossHold ..
  | sync => exact keeps_sync ..
  | reclaimNotice => exact keeps_reclaimNotice ..
  | faultBroadcast => exact keeps_faultBroadcast ..
  | moduleLost => exact keeps_moduleLost ..
  | landed => exact keeps_landed ..
  | rollbackMsg => exact keeps_rollbackMsg ..
  | groupReclaim => exact keeps_groupReclaim ..
  | barrierSlot => exact keeps_answer rfl (path_presentSlot _ _ _ _ _ _ (within rfl) (path_refl _ _))
  | holdover => exact keeps_holdover ..
  | freeRun => exact keeps_freeRun ..
  | masterTakeover => exact keeps_masterTakeover ..
  | sachetCapture => exact keeps_sachetCapture ..
  | sachetLanded => exact keeps_sachetLanded ..
  | tier2WriteDone => exact keeps_tier2WriteDone ..
  | tier3WriteDone => exact keeps_tier3WriteDone ..
  | rollbackRestoreDone => exact keeps_rollbackRestoreDone ..
  | startRestoreDone => exact keeps_startRestoreDone ..
  | spareSelfTestDone => exact keeps_spareSelfTestDone ..
  | reclaimFenceAbort => exact keeps_reclaimFenceAbort ..
  | reclaimDeadline => exact keeps_reclaimDeadline ..
  | errorEntryHandle => exact keeps_errorEntryHandle ..
  | errorEntryLogged => exact keeps_errorEntryLogged ..
  | flitParityError => exact keeps_flitParityError ..
  | faultInN => exact keeps_faultInN ..
  | reclaimN => exact keeps_reclaimN ..
  | warmResetN => exact keeps_warmResetN ..
  | inputStuck => exact keeps_inputStuck ..
  | strainerRearm => exact keeps_strainerRearm ..
  | componentFault => exact keeps_componentFault ..
  | cccRestarted => exact keeps_answer rfl (path_cccCrash _ (within rfl) (path_refl _ _))
  | schTakeover => exact keeps_answer rfl (path_schCrash (within rfl) (path_refl _ _))
  | pmcTakeover => exact keeps_answer rfl (path_pmcCrash (within rfl) (path_refl _ _))
  | secFailed => exact keeps_answer rfl (path_secCrash (within rfl) (path_refl _ _))
  | getVersion => exact keeps_answer rfl (path_spdmPlain _ _ (within rfl) (path_refl _ _))
  | getCapabilities => exact keeps_answer rfl (path_spdmPlain _ _ (within rfl) (path_refl _ _))
  | negotiateAlgorithms => exact keeps_answer rfl (path_spdmPlain _ _ (within rfl) (path_refl _ _))
  | getDigests => exact keeps_answer rfl (path_spdmPlain _ _ (within rfl) (path_refl _ _))
  | getCertificate => exact keeps_answer rfl (path_spdm _ _ (within rfl) (fun _ h => h) (path_refl _ _))
  | challenge => exact keeps_answer rfl (path_spdm _ _ (within rfl) (fun _ h => h) (path_refl _ _))
  | getMeasurements => exact keeps_answer rfl (path_spdm _ _ (within rfl) (fun _ h => h) (path_refl _ _))
  | keyExchange => exact keeps_keyExchange ..
  | finish => exact keeps_answer rfl (path_inSession _ _ _ (within rfl) (path_refl _ _))
  | keyUpdate => exact keeps_answer rfl (path_inSession _ _ _ (within rfl) (path_refl _ _))
  | heartbeat => exact keeps_answer rfl (path_inSession _ _ _ (within rfl) (path_refl _ _))
  | endSession => exact keeps_answer rfl (path_inSession _ _ _ (within rfl) (path_refl _ _))
  | chunkGet => exact keeps_answer rfl (path_spdm _ _ (within rfl) (fun _ h => h) (path_refl _ _))
  | chunkSend => exact keeps_chunkSend ..
  | keyDeliver => exact keeps_keyDeliver ..
  | keyRevoke => exact keeps_keyRevoke ..
  | keyLifetimeExpired => exact keeps_answer rfl (path_eraseKeys _ (within rfl) (path_refl _ _))
  | ideKm => exact keeps_ideKm ..
  | pmcControlPeriod => exact keeps_pmcControlPeriod ..
  | governorSample => exact keeps_governorSample ..
  | droopEvent => exact keeps_droopEvent ..
  | sensorSample => exact keeps_sensorSample ..
  | zoneThrottleStep => exact keeps_zoneThrottleStep ..
  | idleGating => exact keeps_idleGating ..
  | bandPllStop => exact keeps_bandPllStop ..
  | bladesLive => exact keeps_bladesLive ..
  | bladePowerFail => exact keeps_bladePowerFail ..
  | logBufferProgram => exact keeps_logBufferProgram ..
  | linkDown => exact keeps_linkDown ..
  | functionReset => exact keeps_functionReset ..
  | function0Reset => exact keeps_function0Reset ..
  | entdaa => exact keeps_entdaa ..
  | setdasa => exact keeps_setdasa ..
  | rstdaa => exact keeps_answer rfl (path_i3c _ (within rfl) (fun _ h => path_modBus _ (within rfl) h) (path_refl _ _))
  | getpid => exact keeps_answer rfl (path_i3c _ (within rfl) (fun _ h => path_out _ (within rfl) h) (path_refl _ _))
  | getbcr => exact keeps_answer rfl (path_i3c _ (within rfl) (fun _ h => path_out _ (within rfl) h) (path_refl _ _))
  | getdcr => exact keeps_answer rfl (path_i3c _ (within rfl) (fun _ h => path_out _ (within rfl) h) (path_refl _ _))
  | getmwl => exact keeps_answer rfl (path_i3c _ (within rfl) (fun _ h => path_out _ (within rfl) h) (path_refl _ _))
  | setmwl => exact keeps_answer rfl (path_i3c _ (within rfl) (fun _ h => path_modBus _ (within rfl) h) (path_refl _ _))
  | getmrl => exact keeps_answer rfl (path_i3c _ (within rfl) (fun _ h => path_out _ (within rfl) h) (path_refl _ _))
  | enec => exact keeps_answer rfl (path_i3c _ (within rfl) (fun _ h => path_modBus _ (within rfl) h) (path_refl _ _))
  | disec => exact keeps_answer rfl (path_i3c _ (within rfl) (fun _ h => path_modBus _ (within rfl) h) (path_refl _ _))
  | rstact => exact keeps_rstact ..
  | ingestPortUp => exact keeps_ingestPortUp ..
  | plcaBeaconLost => exact keeps_plcaBeaconLost ..
  | plcaBeacon => exact keeps_plcaBeacon ..
  | debugSessionOpen => exact keeps_debugSessionOpen ..
  | debugSessionClose => exact keeps_answer rfl (path_set_sec _ (within rfl) (path_refl _ _))
  | strainerInputRelease => exact keeps_strainerInputRelease ..
  | flowControlFrame => exact keeps_flowControlFrame ..

/-! ### The statements -/

theorem step_front {s : State} {c : Instr} {rest : List Instr} (h : s.pending = c :: rest) :
    step s = exec c { s with pending := rest } := by
  unfold step
  rw [h]

theorem step_idle {s : State} (h : s.pending = []) :
    step s = .next { s.copyTick.stallTick.portTick with time := s.time.tick } := by
  unfold step
  rw [h]

/-- Every step goes on, and nothing that only rises falls (R60, R243, R245, R314, R399). -/
theorem step_oneWay (s : State) : ∃ t, step s = .next t ∧ oneWay s t := by
  cases hq : s.pending with
  | nil =>
    have ticked : Path [.time, .mem, .hbm, .ctr, .caddy, .free] s
        { s.copyTick.stallTick.portTick with time := s.time.tick } :=
      path_set_time _ (by decide) <|
        path_portTick (by decide) (path_stallTick (by decide) (path_copyTick (by decide) (path_refl _ s)))
    exact ⟨_, step_idle hq, ticked.oneWay⟩
  | cons c rest =>
    obtain ⟨t, ht, hpath⟩ := keeps_footprint c { s with pending := rest }
    obtain ⟨hmem, hroll, hlayouts, hspares, hchannels⟩ := hpath.oneWay
    exact ⟨t, (step_front hq).trans ht, ⟨hmem, hroll, hlayouts, hspares, hchannels⟩⟩

theorem oneWay_of_step {s t : State} (h : step s = .next t) : oneWay s t := by
  obtain ⟨u, hu, hway⟩ := step_oneWay s
  obtain rfl : u = t := Host.Outcome.next.inj (hu.symm.trans h)
  exact hway

theorem decodeTableWord_none (nbits w : Nat) : decodeTableWord nbits w = none := rfl

/-- Settles O7: a path of changes takes back nothing that only rises. -/
theorem whatOnlyRisesNeverFalls : Obligations.WhatOnlyRisesNeverFalls := by
  unfold Obligations.WhatOnlyRisesNeverFalls
  exact fun s t h => oneWay_of_step h

/-- Settles O6: canonical memory is among what a path keeps. -/
theorem everyStepKeepsMemoryCanonical : Obligations.EveryStepKeepsMemoryCanonical := by
  unfold Obligations.EveryStepKeepsMemoryCanonical memoryCanonical
  exact fun s t hs h => (oneWay_of_step h).memory hs

/-- Settles O8: each command's path lies within its footprint. -/
theorem everyCommandKeepsToItsFootprint : Obligations.EveryCommandKeepsToItsFootprint := by
  unfold Obligations.EveryCommandKeepsToItsFootprint
  intro c s t h
  obtain ⟨u, hu, hpath⟩ := keeps_footprint c s
  obtain rfl : u = t := Host.Outcome.next.inj (hu.symm.trans h)
  exact hpath.frame

/-- Settles O1: the queue's front is the command that runs. -/
theorem stepRunsTheFrontCommand : Obligations.StepRunsTheFrontCommand := by
  unfold Obligations.StepRunsTheFrontCommand
  exact fun s c q => step_front rfl

/-- Settles O3: every command is answered by a next state, and no word spells one. -/
theorem everyStateGoesOn : Obligations.EveryStateGoesOn := by
  unfold Obligations.EveryStateGoesOn goesOn
  intro s
  obtain ⟨t, ht, -⟩ := step_oneWay s
  exact ⟨⟨t, ht⟩, fun nbits w => ⟨decodeTableWord_none nbits w, rfl⟩⟩

end Sys2Proof.Proofs.Footprints

/-!
SUPPORT. The SPDM responder (R403 to R405, R409): what an answered request leaves, whatever it asks for, and from this what
each request does. Settles O23 and O24.
-/

namespace Sys2Proof.Proofs.SpdmResponder

open Sys2Proof Sys2Proof.Machine Sys2Proof.Safety Sys2Proof.Laws Sys2Proof.Laws.Shared

/-! ### The answer to a request -/

/-- In w, the state that c leaves, the answer to request m is sent; beside what sending takes, w is t. -/
structure Responds (c : Instr) (s : State) (m : Spdm) (t : State) (code : Nat) (body : List Byte) (w : State) : Prop where
  runs : exec c s = .next w
  sent : spdmAnswered w m.source code body
  sec : ∃ kept, w.sec = { t.sec with spdmOut := kept }
  others : onlyChanges [.sec, .outs, .errq, .journal]
    { t with pending := s.pending, time := s.time, factory := s.factory } w

section
variable {c : Instr} {s t w : State} {m : Spdm} {f : State → State × Option (Nat × List Byte)} {code : Nat}
  {body : List Byte}

theorem spdmSend_outs (t : State) (source code : Nat) (body : List Byte) :
    (t.spdmSend source code body).outs = .spdm source code body :: t.outs := by
  unfold State.spdmSend
  split <;> rfl

theorem spdmSend_sec (t : State) (source code : Nat) (body : List Byte) :
    ∃ kept, (t.spdmSend source code body).sec = { t.sec with spdmOut := kept } := by
  unfold State.spdmSend
  split <;> exact ⟨_, rfl⟩

theorem responds_of_send (e : exec c s = answer s (t.spdmSend m.source code body)) :
    ∃ w, Responds c s m t code body w := by
  refine ⟨_, e, congrArg List.head? (spdmSend_outs ..), spdmSend_sec .., fun k hk => ?_⟩
  have hsend := (path_spdmSend (ks := [.sec, .outs]) m.source code body (by decide) (path_refl _ t)).frame k
    (fun hmem => hk (by revert hmem; cases k <;> decide))
  cases k <;> first | exact hsend | rfl | exact absurd (by decide) hk

theorem spdm_down (hup : s.spdmUp = false) : s.spdm m f = s := by
  simp [State.spdm, hup]

theorem spdm_malformed (hup : s.spdmUp = true) (hok : m.ok = false) : s.spdm m f = s.spdmSend m.source 0x7F [] := by
  simp [State.spdm, hup, hok]

theorem spdm_answered (hup : s.spdmUp = true) (hok : m.ok = true) (hf : f s = (t, some (code, body))) :
    s.spdm m f = t.spdmSend m.source code (body ++ Config.spdmBody code m.body) := by
  simp [State.spdm, hup, hok, hf]

/-- A request that its checks pass is answered with what the spec fixes and the standard's rest. -/
theorem spdm_responds (hup : s.spdmUp = true) (hok : m.ok = true) (e : exec c s = answer s (s.spdm m f))
    (hf : f s = (t, some (code, body))) : ∃ w, Responds c s m t code (body ++ Config.spdmBody code m.body) w :=
  responds_of_send (e.trans (congrArg (answer s) (spdm_answered hup hok hf)))

theorem Responds.unchanged (h : Responds c s m s code body w) : onlyChanges [.sec, .outs, .errq, .journal] s w := h.others

theorem Responds.sessions (h : Responds c s m t code body w) : w.sec.sessions = t.sec.sessions := by
  obtain ⟨_, hsec⟩ := h.sec
  rw [hsec]

theorem Responds.keys (h : Responds c s m t code body w) : w.sec.keys = t.sec.keys := by
  obtain ⟨_, hsec⟩ := h.sec
  rw [hsec]

theorem Responds.ide (h : Responds c s m t code body w) : w.sec.ide = t.sec.ide := by
  obtain ⟨_, hsec⟩ := h.sec
  rw [hsec]

theorem Responds.chunksIn (h : Responds c s m t code body w) : w.sec.chunksIn = t.sec.chunksIn := by
  obtain ⟨_, hsec⟩ := h.sec
  rw [hsec]

theorem Responds.nor (h : Responds c s m t code body w) : w.nor = t.nor := h.others .nor (by decide)
end

/-! ### Requests that change nothing, malformed requests, and a responder that is down -/

section
variable {c : Instr} {s : State} {m : Spdm}

/-- A request whose answer is fixed by the state alone leaves the state as it is. -/
theorem asks_responds {code : Nat} {body : List Byte} (hup : s.spdmUp = true) (hok : m.ok = true)
    (e : exec c s = answer s (s.spdm m (fun u => (u, some (code, body))))) :
    ∃ w, Responds c s m s code (body ++ Config.spdmBody code m.body) w :=
  spdm_responds hup hok e rfl

theorem plain_responds (hup : s.spdmUp = true) (hok : m.ok = true) :
    ∀ p ∈ [(Instr.getVersion m, 0x04), (.getCapabilities m, 0x61), (.negotiateAlgorithms m, 0x63), (.getDigests m, 0x01)],
      ∃ w, Responds p.1 s m s p.2 (Config.spdmBody p.2 m.body) w := by
  intro p hp
  simp only [List.mem_cons, List.not_mem_nil, or_false] at hp
  rcases hp with rfl | rfl | rfl | rfl <;> exact asks_responds (body := []) hup hok rfl

theorem getMeasurements_responds {i : Nat} {signed : Bool} (hup : s.spdmUp = true) (hok : m.ok = true) (hlow : 1 ≤ i)
    (hhigh : i ≤ 10) (hroot : signed = true → s.boot.deviceRoot = true) :
    ∃ w, Responds (.getMeasurements m i signed) s m s 0x60 (s.measurement i ++ Config.spdmBody 0x60 m.body) w := by
  refine spdm_responds hup hok rfl ?_
  have hsigned : ¬((signed && !s.boot.deviceRoot) = true) := by
    rw [Bool.and_eq_true]
    rintro ⟨hs, hr⟩
    simp [hroot hs] at hr
  rw [if_neg hsigned, if_neg (by omega), if_pos ⟨hlow, hhigh⟩]

/-- Every SPDM command asks the responder. -/
theorem spdmCommand_asks (a b : Nat) (signed last : Bool) (bs : List Byte) :
    ∀ c ∈ [Instr.getVersion m, .getCapabilities m, .negotiateAlgorithms m, .getDigests m, .getCertificate m a b b,
        .challenge m a, .getMeasurements m a signed, .keyExchange m a, .finish m, .keyUpdate m, .heartbeat m, .endSession m,
        .chunkGet m a b, .chunkSend m a b last, .keyDeliver m a b a b bs, .keyRevoke m a b a, .ideKm m a b bs],
      ∃ f, exec c s = answer s (s.spdm m f) := by
  intro c hc
  simp only [List.mem_cons, List.not_mem_nil, or_false] at hc
  rcases hc with rfl | rfl | rfl | rfl | rfl | rfl | rfl | rfl | rfl | rfl | rfl | rfl | rfl | rfl | rfl | rfl | rfl <;>
    exact ⟨_, rfl⟩

theorem malformed_responds {f : State → State × Option (Nat × List Byte)} (e : exec c s = answer s (s.spdm m f))
    (hup : s.spdmUp = true) (hok : m.ok = false) : ∃ w, Responds c s m s 0x7F [] w :=
  responds_of_send (e.trans (congrArg (answer s) (spdm_malformed hup hok)))

theorem down_unanswered {f : State → State × Option (Nat × List Byte)} (e : exec c s = answer s (s.spdm m f))
    (hup : s.spdmUp = false) : ∃ t, exec c s = .next t ∧ onlyChanges [.errq, .journal] s t := by
  rw [e, spdm_down hup]
  exact answer_only (only_refl [] s)
end

/-- Settles O23: each of these requests is answered from the state as it is. -/
theorem spdmRequestsGetTheirResponse : Obligations.SpdmRequestsGetTheirResponse := by
  unfold Obligations.SpdmRequestsGetTheirResponse
  refine ⟨fun s m hup hok => ⟨fun p hp => ?_, fun offset length => ?_, fun hroot => ?_,
    fun i signed hlow hhigh hroot => ?_, fun handle chunk => ?_⟩,
    fun s m a b signed last bs c hc => ⟨fun hup hok => ?_, ?_⟩⟩
  · obtain ⟨w, h⟩ := plain_responds hup hok p hp
    exact ⟨w, h.runs, h.unchanged, h.sessions, h.keys, h.sent⟩
  · obtain ⟨w, h⟩ := asks_responds (c := .getCertificate m 0 offset length) hup hok rfl
    exact ⟨w, h.runs, h.unchanged, h.sent⟩
  · obtain ⟨w, h⟩ := spdm_responds (c := .challenge m 0) (body := []) hup hok rfl
      (Prod.ext rfl (if_pos ⟨rfl, hroot⟩))
    exact ⟨w, h.runs, h.unchanged, h.sent⟩
  · obtain ⟨w, h⟩ := getMeasurements_responds hup hok hlow hhigh hroot
    exact ⟨w, h.runs, h.unchanged, h.sent⟩
  · obtain ⟨w, h⟩ := asks_responds (c := .chunkGet m handle chunk) hup hok rfl
    exact ⟨w, h.runs, h.unchanged, h.sent⟩
  · obtain ⟨f, e⟩ := spdmCommand_asks a b signed last bs c hc
    obtain ⟨w, h⟩ := malformed_responds e hup hok
    exact ⟨w, h.runs, h.unchanged, h.sent, h.sessions, h.keys, h.ide⟩
  · obtain ⟨f, e⟩ := spdmCommand_asks a b signed last bs c hc
    exact down_unanswered e

/-! ### Sessions -/

/-- The number that KEY_EXCHANGE gives: the lowest that no session has. -/
def freeNumber (l : List Session) : Nat := ((List.range 5).find? (fun i => !l.any (fun x => x.id == i))).getD 4

/-- Four sessions leave one of five numbers free. -/
theorem freeNumber_free {l : List Session} (h : l.length < 4) : freeNumber l < 5 ∧ ∀ x ∈ l, x.id ≠ freeNumber l := by
  unfold freeNumber
  cases hfind : (List.range 5).find? (fun i => !l.any (fun x => x.id == i)) with
  | some i =>
    have hfree := List.find?_some hfind
    simp only [Bool.not_eq_true', List.any_eq_false, beq_iff_eq] at hfree
    exact ⟨List.mem_range.mp (List.mem_of_find?_eq_some hfind), hfree⟩
  | none =>
    have htaken : List.range 5 ⊆ l.map Session.id := fun i hi => by
      have hany := List.find?_eq_none.mp hfind i hi
      simpa [List.mem_map] using hany
    have hlen := (List.nodup_range.subperm htaken).length_le
    simp at hlen
    omega

section
variable {c : Instr} {s : State} {m : Spdm} {x : Session}

theorem keyExchange_responds (hup : s.spdmUp = true) (hok : m.ok = true) (hroot : s.boot.deviceRoot = true)
    (hroom : s.sec.sessions.length < 4) :
    ∃ w, Responds (.keyExchange m 0) s m
      { s with sec := { s.sec with
          sessions := { source := m.source, id := freeNumber s.sec.sessions } :: s.sec.sessions } }
      0x64 (le 1 (freeNumber s.sec.sessions) ++ Config.spdmBody 0x64 m.body) w :=
  spdm_responds hup hok rfl (if_neg (by simp [hroot]; omega))

/-- s with session x replaced by those of l. -/
def replaceSession (s : State) (x : Session) (l : List Session) : State :=
  { s with sec := { s.sec with
      sessions := l ++ s.sec.sessions.filter (fun y => !(y.source == x.source && y.id == x.id)) } }

theorem inSession_responds {code : Nat} {f : Session → Option Session} (hup : s.spdmUp = true) (hok : m.ok = true)
    (hx : s.session m = some x) (e : exec c s = answer s (s.inSession m code f)) :
    ∃ w, Responds c s m (replaceSession s x (f x).toList) code (Config.spdmBody code m.body) w := by
  refine spdm_responds (body := []) hup hok e ?_
  rw [hx]
  rfl

theorem ideKm_responds {stream keySet : Nat} {key : List Byte} (hup : s.spdmUp = true) (hok : m.ok = true)
    (hx : s.session m = some x) (hdone : x.done = true) (hsource : m.source = 2) (hstream : stream < 8)
    (hset : keySet < 2) :
    ∃ w, Responds (.ideKm m stream keySet key) s m
      { s with sec := { s.sec with
          ide := (stream, keySet, key) :: s.sec.ide.filter (fun e => !(e.1 == stream && e.2.1 == keySet)) } }
      0x7E (Config.spdmBody 0x7E m.body) w := by
  refine spdm_responds (body := []) hup hok rfl (if_neg ?_)
  simp [hx, hdone, hsource]
  omega

/-- What CHUNK_SEND leaves of the large requests. -/
def gathered (s : State) (m : Spdm) (chunk : Nat) (last : Bool) : Tab (List Byte) :=
  if last then Tab.del s.sec.chunksIn m.source
  else Tab.set s.sec.chunksIn m.source ((if chunk = 0 then [] else Tab.get s.sec.chunksIn [] m.source) ++ m.body)

theorem chunkSend_responds {handle chunk : Nat} {last : Bool} (hup : s.spdmUp = true) (hok : m.ok = true) :
    ∃ w, Responds (.chunkSend m handle chunk last) s m
      { s with sec := { s.sec with chunksIn := gathered s m chunk last } }
      0x05 (le 1 handle ++ le 2 chunk ++ Config.spdmBody 0x05 m.body) w :=
  spdm_responds hup hok rfl rfl

theorem gathered_get (s : State) (m : Spdm) (chunk : Nat) (last : Bool) :
    Tab.get (gathered s m chunk last) [] m.source =
      if last then [] else (if chunk = 0 then [] else Tab.get s.sec.chunksIn [] m.source) ++ m.body := by
  unfold gathered
  cases last with
  | true => exact congrArg (Option.getD · []) (tab_find_del_same _ _)
  | false => exact tab_get_set_same ..
end

/-- Settles O24: each request leaves the list of sessions, keys or chunks that its answer stands for. -/
theorem spdmSessionsOpenAndClose : Obligations.SpdmSessionsOpenAndClose := by
  unfold Obligations.SpdmSessionsOpenAndClose
  refine fun s m hup hok => ⟨fun hroot hroom => ?_, fun x hx => ⟨?_, fun p hp => ?_, ?_,
    fun stream keySet key hsource hdone hstream hset => ?_⟩, fun handle chunk last => ?_⟩
  · obtain ⟨w, h⟩ := keyExchange_responds hup hok hroot hroom
    obtain ⟨hlt, hfresh⟩ := freeNumber_free hroom
    exact ⟨w, _, h.runs, hlt, hfresh, h.sessions, h.sent⟩
  · obtain ⟨w, h⟩ := inSession_responds (c := .finish m) hup hok hx rfl
    exact ⟨w, h.runs, h.sent, h.sessions ▸ List.mem_cons_self⟩
  · have hkept : ∃ w, Responds p.1 s m (replaceSession s x [x]) p.2 (Config.spdmBody p.2 m.body) w := by
      simp only [List.mem_cons, List.not_mem_nil, or_false] at hp
      rcases hp with rfl | rfl <;> exact inSession_responds (f := some) hup hok hx rfl
    obtain ⟨w, h⟩ := hkept
    exact ⟨w, h.runs, h.sent, h.sessions ▸ List.mem_cons_self⟩
  · obtain ⟨w, h⟩ := inSession_responds (c := .endSession m) hup hok hx rfl
    refine ⟨w, h.runs, h.sent, fun y hy hsame => ?_⟩
    rw [h.sessions] at hy
    simpa [hsame] using (List.mem_filter.mp hy).2
  · obtain ⟨w, h⟩ := ideKm_responds hup hok hx hdone hsource hstream hset
    exact ⟨w, h.runs, h.ide ▸ List.mem_cons_self, h.sent⟩
  · obtain ⟨w, h⟩ := chunkSend_responds (handle := handle) (chunk := chunk) (last := last) hup hok
    exact ⟨w, h.runs, h.sent, h.chunksIn ▸ gathered_get s m chunk last⟩

end Sys2Proof.Proofs.SpdmResponder

/-!
SUPPORT. Keys and the security state (R393, R395, R407, R408, R415): which keys an erasure leaves, and what a change of the
security state or a measurement leaves as it is. Settles O25 and O26.
-/

namespace Sys2Proof.Proofs.KeysAndSecurity

open Sys2Proof Sys2Proof.Machine Sys2Proof.Safety Sys2Proof.Laws Sys2Proof.Laws.Shared Sys2Proof.Proofs.SpdmResponder

/-! ### Erasing keys -/

/-- s with the keys that sel picks taken out, before the streams under them are closed. -/
def keysTaken (s : State) (sel : Key → Bool) : State :=
  { s with
    sec := { s.sec with keys := s.sec.keys.filter (fun k => !sel k) }
    nor := { s.nor with portKey := s.nor.portKey.filter (fun k => !sel k) } }

section
variable {s t : State} {k : Key}

theorem eraseKeys_path (s : State) (sel : Key → Bool) :
    Path [.parts, .queues, .mem, .hbm, .streams, .outs, .free] (keysTaken s sel) (s.eraseKeys sel) :=
  path_foldl _ _ (fun _ _ hu => path_foldl _ _ (fun _ _ hv => path_abortClose _ _ (by decide) hv) _ hu) _ (path_refl _ _)

theorem eraseKeys_sec (s : State) (sel : Key → Bool) :
    (s.eraseKeys sel).sec = { s.sec with keys := s.sec.keys.filter (fun k => !sel k) } :=
  (eraseKeys_path s sel).frame .sec (by decide)

theorem eraseKeys_nor (s : State) (sel : Key → Bool) :
    (s.eraseKeys sel).nor = { s.nor with portKey := s.nor.portKey.filter (fun k => !sel k) } :=
  (eraseKeys_path s sel).frame .nor (by decide)

theorem mem_eraseKeys (s : State) (sel : Key → Bool) :
    k ∈ (s.eraseKeys sel).sec.keys ↔ k ∈ s.sec.keys ∧ sel k = false := by
  simp [eraseKeys_sec, List.mem_filter]

theorem allKeys_eraseKeys {sel : Key → Bool} (h : k ∈ (s.eraseKeys sel).allKeys) : sel k = false := by
  unfold State.allKeys at h
  rw [eraseKeys_sec, eraseKeys_nor] at h
  rcases List.mem_append.mp h with h | h
  · simpa using (List.mem_filter.mp h).2
  · simpa using (Option.filter_eq_some_iff.mp (Option.mem_toList.mp h)).2

/-! ### A measurement that changed -/

theorem remeasured_secState (s : State) : s.remeasured.secState = s.secState :=
  (path_remeasured (ks := [.parts, .queues, .mem, .hbm, .streams, .nor, .sec, .outs, .free]) (by decide)
    (path_refl _ s)).frame .secState (by decide)

/-- s after a measurement changed, before any key is erased. -/
def sessionsEnded (s : State) : State := { s with sec := { s.sec with sessions := [] } }

/-- New measurements end sessions and may erase keys; the debug port stays as it was. -/
theorem remeasured_sec (s : State) : ∃ keys, (∀ k ∈ keys, k ∈ s.sec.keys) ∧
    s.remeasured.sec = { s.sec with sessions := [], keys := keys } := by
  have herase : s.remeasured =
      if (sessionsEnded s).valNat 0x8000 5 = 1 then (sessionsEnded s).eraseKeys (fun k => k.ty ≤ 3)
      else sessionsEnded s := rfl
  rw [herase]
  split
  · exact ⟨_, fun k hk => List.mem_of_mem_filter hk, eraseKeys_sec _ _⟩
  · exact ⟨_, fun k hk => hk, rfl⟩

/-! ### A change of the security state -/

/-- s in a new security state with what it closes closed, before keys are erased for Open. -/
def stateEntered (s : State) (new : Nat) : State :=
  let u := { s with secState := new }.logEvent 4 0xFF 4 (le 1 s.secState ++ le 1 new)
  if new = 2 then
    (partNumbers.flatMap u.boundStreams).foldl
      (fun u n => if (u.stream n).encrypted then u else u.abortClose n 0x5101) u
  else u

theorem setSecState_eq (s : State) (new : Nat) : s.setSecState new =
    (if new = 0 then (stateEntered s new).eraseKeys (fun k => k.ty ≤ 3) else stateEntered s new).remeasured := rfl

theorem stateEntered_path (s : State) (new : Nat) :
    Path [.log, .parts, .queues, .mem, .hbm, .streams, .outs, .free] { s with secState := new } (stateEntered s new) := by
  have hlogged := path_logEvent (ks := [.log, .parts, .queues, .mem, .hbm, .streams, .outs, .free]) 4 0xFF 4
    (le 1 s.secState ++ le 1 new) (by decide) (path_refl _ { s with secState := new })
  exact path_ite
    (fun _ => path_foldl _ _ (fun _ _ hu => path_ite (fun _ => hu) fun _ => path_abortClose _ _ (by decide) hu) _ hlogged)
    fun _ => hlogged

theorem stateEntered_secState (s : State) (new : Nat) : (stateEntered s new).secState = new :=
  (stateEntered_path s new).frame .secState (by decide)

theorem setSecState_secState (s : State) (new : Nat) : (s.setSecState new).secState = new := by
  rw [setSecState_eq, remeasured_secState]
  split
  · exact ((eraseKeys_path _ _).frame .secState (by decide)).trans (stateEntered_secState s new)
  · exact stateEntered_secState s new

/-- In Open no stream, weight or store key is held. -/
theorem setSecState_open_keys (hk : k ∈ (s.setSecState 0).sec.keys) : 3 < k.ty := by
  rw [setSecState_eq, if_pos rfl] at hk
  obtain ⟨keys, hsub, hsec⟩ := remeasured_sec ((stateEntered s 0).eraseKeys (fun k => k.ty ≤ 3))
  rw [hsec] at hk
  have hleft := ((mem_eraseKeys _ _).mp (hsub k hk)).2
  simpa using hleft

/-! ### Requests for a security state -/

theorem request_attested (hs : s.secState = 0) (hdebug : s.sec.debugOpen = false) (hvis : s.valNat 0x2200 1 = 0) :
    s.requestSecState 1 = (s.setSecState 1, 0) := by
  simp [State.requestSecState, hs, hdebug, hvis]

theorem request_sealed (hs : s.secState = 1) (htrust : s.nor.trust.isSome = true) :
    s.requestSecState 2 = (s.setSecState 2, 0) := by
  have hheld : s.nor.trust ≠ none := Option.isSome_iff_ne_none.mp htrust
  simp [State.requestSecState, hs, hheld]

theorem request_open (hs : s.secState = 1) (hquiet : s.allQuiet = true) :
    s.requestSecState 0 = (s.setSecState 0, 0) := by
  have hall : partNumbers.all (fun p => (s.part p).state.quiet) = true := hquiet
  simp [State.requestSecState, hs, hall]

theorem request_of_sealed {v : Nat} (hs : s.secState = 2) (hv : v ≠ 2) : s.requestSecState v = (s, 0x1103) := by
  simp [State.requestSecState, hs, hv]

/-- A request that is granted answers 0 and leaves the state asked for. -/
theorem request_granted {r : Req} {v : Nat} (hw : acceptsWrite s r 0x8000 2 2 (le 1 v))
    (hr : ∀ cs, (replayed s cs).requestSecState v = ((replayed s cs).setSecState v, 0)) :
    ∃ cs t, exec (.securityStateRequest r v) s = .next t ∧ respondedWith t r 2 0x8000 2 0 [] ∧ t.secState = v ∧
      t.sec = ((replayed s cs).setSecState v).sec := by
  obtain ⟨cs, t, ht, hresp, hsame⟩ :=
    served (f := fun u => done (u.requestSecState v)) hw fun cs => congrArg done (hr cs)
  exact ⟨cs, t, ht, hresp, (hsame .secState (by decide)).trans (setSecState_secState _ _), hsame .sec (by decide)⟩

/-! ### Debug sessions -/

theorem debugSessionOpen_opens (hs : s.secState = 0) (hport : s.valNat 0x8000 6 = 1) :
    ∃ t, exec .debugSessionOpen s = .next t ∧ t.sec.debugOpen = true ∧ t.sec.debugFlag = true := by
  have hallowed : ¬(s.secState ≠ 0 ∨ s.valNat 0x8000 6 ≠ 1) := by simp [hs, hport]
  refine ⟨_, congrArg (answer s) (if_neg hallowed), ?_⟩
  cases hfirst : !s.sec.debugFlag with
  | false => exact ⟨rfl, rfl⟩
  | true =>
    obtain ⟨keys, -, hsec⟩ := remeasured_sec { s with sec := { s.sec with debugOpen := true, debugFlag := true } }
    exact ⟨congrArg Sec.debugOpen hsec, congrArg Sec.debugFlag hsec⟩

theorem debugSessionOpen_ignored (h : s.secState ≠ 0 ∨ s.valNat 0x8000 6 ≠ 1) :
    ∃ t, exec .debugSessionOpen s = .next t ∧ onlyChanges [.errq, .journal] s t := by
  have hexec : exec .debugSessionOpen s = answer s s := congrArg (answer s) (if_pos h)
  rw [hexec]
  exact answer_only (only_refl [] s)

theorem debugSessionClose_closes (s : State) :
    ∃ t, exec .debugSessionClose s = .next t ∧ t.sec.debugOpen = false ∧ onlyChanges [.sec, .errq, .journal] s t ∧
      t.sec.keys = s.sec.keys ∧ t.sec.debugFlag = s.sec.debugFlag :=
  ⟨_, rfl, rfl, only_answer (path_set_sec (ks := [.sec]) _ (by decide) (path_refl _ s)).frame, rfl, rfl⟩
end

/-- Settles O26: each move is a granted request, and Sealed grants none. -/
theorem securityStateMovesAsAllowed : Obligations.SecurityStateMovesAsAllowed := by
  unfold Obligations.SecurityStateMovesAsAllowed
  refine fun s r => ⟨fun v hw => ⟨?_, ?_, ?_, fun hs hv => ?_⟩, debugSessionOpen_opens, debugSessionOpen_ignored,
    debugSessionClose_closes s⟩
  · rintro hs rfl hdebug hvis
    obtain ⟨_, t, ht, hresp, hstate, -⟩ := request_granted hw fun cs => request_attested hs hdebug hvis
    exact ⟨t, ht, hresp, hstate⟩
  · rintro hs rfl htrust
    obtain ⟨_, t, ht, hresp, hstate, -⟩ := request_granted hw fun cs => request_sealed hs htrust
    exact ⟨t, ht, hresp, hstate⟩
  · rintro hs rfl hquiet
    obtain ⟨_, t, ht, hresp, hstate, hsec⟩ := request_granted hw fun cs => request_open hs hquiet
    exact ⟨t, ht, hresp, hstate, fun k hk => setSecState_open_keys (hsec ▸ hk)⟩
  · exact serveWrite_refused_same (f := fun u => done (u.requestSecState v)) hw
      (fun cs => congrArg done (request_of_sealed (s := replayed s cs) hs hv)) (by decide)

/-! ### Delivery, revocation, lifetime and erasure -/

section
variable {s : State} {m : Spdm} {ty part handle lifetime : Nat} {key : List Byte}

/-- The key that a delivery brings. -/
def deliveredKey (s : State) (ty part handle lifetime : Nat) (key : List Byte) : Key :=
  { handle := handle, ty := ty, part := part, key := padTo 32 key
    lapse := if lifetime = 0 then none else some (s.time.ticks + lifetime * 1000 * Config.ticksPerMs) }

/-- s after key k was delivered with a status: held in its place, or not at all. -/
def delivered (s : State) (status : Nat) (k : Key) : State :=
  if status ≠ 0 then s
  else if k.ty = 4 then { s with nor := { s.nor with portKey := some k } }
  else { s with sec := { s.sec with keys := s.sec.keys.filter (fun x => x.handle != k.handle) ++ [k] } }

theorem delivered_held {k : Key} (hty : k.ty ≠ 4) : k ∈ (delivered s 0 k).sec.keys := by
  simp [delivered, hty]

theorem delivered_refused {status : Nat} {k : Key} (h : status ≠ 0) : delivered s status k = s := if_pos h

theorem keyDeliver_responds (hup : s.spdmUp = true) (hok : m.ok = true) :
    ∃ w, Responds (.keyDeliver m ty part handle lifetime key) s m
      (delivered s (s.deliverStatus m ty part handle) (deliveredKey s ty part handle lifetime key))
      0x7E (le 2 (s.deliverStatus m ty part handle) ++ Config.spdmBody 0x7E m.body) w :=
  spdm_responds hup hok rfl rfl

/-- Key k stands under this handle, with this type and partition. -/
def isKey (ty part handle : Nat) (k : Key) : Bool := k.handle == handle && k.ty == ty && k.part == part

theorem keyRevoke_responds (hup : s.spdmUp = true) (hok : m.ok = true) (hbroker : s.broker m = true)
    (hheld : s.allKeys.any (isKey ty part handle) = true) :
    ∃ w, Responds (.keyRevoke m ty part handle) s m (s.eraseKeys (isKey ty part handle))
      0x7E (le 2 0 ++ Config.spdmBody 0x7E m.body) w := by
  refine spdm_responds hup hok rfl ?_
  exact (if_neg (by simp [hbroker])).trans (if_neg (by simpa [isKey, and_assoc] using hheld))

theorem keyLifetimeExpired_erases (s : State) (handle : Nat) :
    ∃ t, exec (.keyLifetimeExpired handle) s = .next t ∧
      ∀ k, k ∈ t.sec.keys ↔
        k ∈ s.sec.keys ∧ ¬(k.handle = handle ∧ ∃ x, k.lapse = some x ∧ x ≤ s.time.ticks) := by
  refine ⟨_, rfl, fun k => (mem_eraseKeys s _).trans (and_congr_right fun _ => ?_)⟩
  cases hlapse : k.lapse <;> simp

theorem keyErase_erases {r : Req} (hw : acceptsWrite s r 0x8100 3 4 (le 4 handle)) :
    ∃ t, exec (.keyErase r handle) s = .next t ∧ respondedWith t r 2 0x8100 3 0 [] ∧
      ∀ k, k ∈ t.sec.keys ↔ k ∈ s.sec.keys ∧ handle ≠ 0xFFFFFFFF ∧ k.handle ≠ handle := by
  obtain ⟨cs, t, ht, hresp, hsame⟩ := served
    (f := fun u => (u.eraseKeys (fun k => handle == 0xFFFFFFFF || k.handle == handle), some 0)) hw fun cs => rfl
  refine ⟨t, ht, hresp, fun k => ?_⟩
  have hsec : t.sec = _ := hsame .sec (by decide)
  rw [hsec, mem_eraseKeys]
  simp [replayed]
end

/-- Settles O25: a delivery puts one key in its place, and every other case erases those it names. -/
theorem keysAreHeldUntilErased : Obligations.KeysAreHeldUntilErased := by
  unfold Obligations.KeysAreHeldUntilErased
  refine fun s m r handle => ⟨fun ty part lifetime key hup hok => ?_, fun ty part hup hok hbroker hheld => ?_,
    keyLifetimeExpired_erases s handle, keyErase_erases⟩
  · obtain ⟨w, h⟩ := keyDeliver_responds (ty := ty) (part := part) (handle := handle) (lifetime := lifetime)
      (key := key) hup hok
    refine ⟨w, h.runs, h.sent, fun hst => or_iff_not_imp_right.mpr fun hty => ?_, fun hst => ?_⟩
    · rw [State.hasKey, h.keys, hst]
      exact List.any_eq_true.mpr ⟨_, delivered_held (k := deliveredKey s ty part handle lifetime key) hty,
        by simp [deliveredKey]⟩
    · rw [h.keys, delivered_refused hst]
  · obtain ⟨w, h⟩ := keyRevoke_responds hup hok hbroker hheld
    refine ⟨w, h.runs, h.sent, ?_⟩
    rintro k hk ⟨rfl, rfl, rfl⟩
    have hall : w.allKeys = (s.eraseKeys (isKey k.ty k.part k.handle)).allKeys := by
      rw [State.allKeys, State.allKeys, h.keys, h.nor]
    have herased : isKey k.ty k.part k.handle k = false := allKeys_eraseKeys (hall ▸ hk)
    simp [isKey] at herased

end Sys2Proof.Proofs.KeysAndSecurity

/-!
SUPPORT. Sensor states (R425): what a sample leaves in its sensor, and the state by the limits of the sensor's kind. Settles
O59.
-/

namespace Sys2Proof.Proofs.SensorStates

open Sys2Proof Sys2Proof.Machine Sys2Proof.Safety Sys2Proof.Laws Sys2Proof.Laws.Shared

section
variable {s : State} {i old w h k : Nat} {v : F32}

/-- Whatever else a sample brings about, its sensor keeps the reading and the state that follows from it. -/
theorem sample_sensors (s : State) (i : Nat) (v : F32) :
    ∃ x : Sensor, (s.sample i v).sensors = Tab.set s.sensors i x ∧ x.value = v ∧
      x.state = sensorState i (s.sensor i).state v := by
  unfold State.sample
  extract_lets old first nan st x kept counted z eased
  refine ⟨x, ?_, rfl, rfl⟩
  let others : List Kind := [.errq, .parts, .queues, .sites, .mem, .hbm, .streams, .ctr, .colls, .credits, .fetches,
    .xfers, .kports, .iports, .tfb, .update, .boot, .power, .outs, .free]
  have hcounted : Path others kept counted := by
    unfold counted
    split
    · exact path_ite (fun _ => path_countThermal _ _ (by decide) (path_refl _ _)) fun _ => path_refl _ _
    · exact path_refl _ _
  have heased : Path others kept eased :=
    path_ite
      (fun _ => path_foldl _ _ (fun _ _ hu => path_ite (fun _ => path_modSite _ _ (by decide) hu) fun _ => hu) _ hcounted)
      fun _ => hcounted
  have hend : Path others kept (if st = 3 then eased.thermalShutdown i else eased) :=
    path_ite (fun _ => path_thermalShutdown _ (by decide) heased) fun _ => heased
  exact hend.frame .sensors (by decide)

theorem sensorSample_sensor (hi : isSensor i = true) :
    ∃ t, exec (.sensorSample i v) s = .next t ∧ (t.sensor i).value = v ∧
      (t.sensor i).state = sensorState i (s.sensor i).state v := by
  obtain ⟨x, hx, hvalue, hstate⟩ := sample_sensors s i v
  have hset : Tab.get (s.sample i v).sensors {} i = x := hx ▸ tab_get_set_same ..
  exact ⟨_, congrArg (answer s) (if_pos hi), (congrArg Sensor.value hset).trans hvalue,
    (congrArg Sensor.state hset).trans hstate⟩

/-- A limit that is reached from below, with the 3 °C by which a state lasts. -/
theorem sensorState_rising (hv : ofF32 v.toNat ≠ .nan) (hl : sensorLimits i = some (false, w, h, k)) :
    sensorState i old v =
      if FV.lt (ofF32 v.toNat) (whole k) = false then 3
      else if FV.lt (ofF32 v.toNat) (whole h) = false ∨ (2 ≤ old ∧ FV.lt (whole (h - 3)) (ofF32 v.toNat) = true) then 2
      else if FV.lt (ofF32 v.toNat) (whole w) = false ∨ (1 ≤ old ∧ FV.lt (whole (w - 3)) (ofF32 v.toNat) = true) then 1
      else 0 := by
  unfold sensorState
  rw [hl]
  cases hx : ofF32 v.toNat with
  | nan => exact absurd hx hv
  | _ => simp [Bool.or_eq_true, Bool.and_eq_true]

/-- Coolant flow: each limit is reached from above. -/
theorem sensorState_falling (hv : ofF32 v.toNat ≠ .nan) (hl : sensorLimits i = some (true, w, h, k)) :
    sensorState i old v =
      if FV.lt (ofF32 v.toNat) (whole k) = true then 3 else if FV.lt (ofF32 v.toNat) (whole h) = true then 2
      else if FV.lt (ofF32 v.toNat) (whole w) = true then 1 else 0 := by
  unfold sensorState
  rw [hl]
  cases hx : ofF32 v.toNat with
  | nan => exact absurd hx hv
  | _ => rfl

/-- The sensors that rise to their limits, by kind: zone, stack, I/O die, coolant inlet. -/
theorem sensorLimits_rising (hk : (0x5200 ≤ i ∧ i < 0x5219 ∧ (w, h, k) = (95, 105, 115)) ∨
      (0x5300 ≤ i ∧ i < 0x5314 ∧ (w, h, k) = (85, 95, 105)) ∨
      (0x5400 ≤ i ∧ i < 0x5404 ∧ (w, h, k) = (95, 105, 115)) ∨ (i = 0x5100 ∧ (w, h, k) = (45, 47, 55))) :
    isSensor i = true ∧ sensorLimits i = some (false, w, h, k) := by
  unfold isSensor sensorLimits
  rcases hk with ⟨hlow, hhigh, hlim⟩ | ⟨hlow, hhigh, hlim⟩ | ⟨hlow, hhigh, hlim⟩ | ⟨rfl, hlim⟩ <;>
    obtain ⟨rfl, rfl, rfl⟩ : w = _ ∧ h = _ ∧ k = _ := by simpa using hlim
  · exact ⟨by simp; omega, by rw [if_neg (by omega), if_neg (by omega), if_pos ⟨hlow, hhigh⟩]⟩
  · exact ⟨by simp; omega,
      by rw [if_neg (by omega), if_neg (by omega), if_neg (by omega), if_pos ⟨hlow, hhigh⟩]⟩
  · exact ⟨by simp; omega,
      by rw [if_neg (by omega), if_neg (by omega), if_neg (by omega), if_neg (by omega), if_pos ⟨hlow, hhigh⟩]⟩
  · exact ⟨rfl, rfl⟩
end

/-- Settles O59: a sample leaves the state that follows from its kind's limits. -/
theorem sensorStatesFollowTheirLimits : Obligations.SensorStatesFollowTheirLimits := by
  unfold Obligations.SensorStatesFollowTheirLimits
  intro s i v hv x old
  constructor
  · intro w h k hkind
    obtain ⟨hi, hl⟩ := sensorLimits_rising hkind
    obtain ⟨t, ht, hvalue, hstate⟩ := sensorSample_sensor (s := s) (v := v) hi
    exact ⟨t, ht, hvalue, hstate.trans (sensorState_rising hv hl)⟩
  · rintro rfl
    obtain ⟨t, ht, hvalue, hstate⟩ := sensorSample_sensor (s := s) (v := v) (i := 0x5102) rfl
    exact ⟨t, ht, hvalue, hstate.trans (sensorState_falling hv rfl)⟩

end Sys2Proof.Proofs.SensorStates

/-!
SUPPORT. A parity error of a tensor command in a state whose memory is canonical. The last clause of O40 asks this of every
state, where it rests on the free bytes (tensorCommandsRunTheirPasses_iff); it holds whatever they are in every state that
keeps the invariant of O5 and O6.
-/

namespace Sys2Proof.Proofs.TensorParity

open Sys2Proof Sys2Proof.Machine Sys2Proof.Safety Sys2Proof.Laws Sys2Proof.Proofs.TensorCommands

/-- Free values in the places of a stopped command leave every other place of a canonical memory (R48). -/
theorem get_loseCmds_other {s : State} (hm : memoryCanonical s) {p x : Nat} {c : CmdRec} (hx : x ∉ s.stoppedPlaces p c) :
    Mem.get (s.loseCmds p [c]).mem x = Mem.get s.mem x := by
  refine get_putAll_other _ x (fun e he => ?_) s.mem hm
  obtain ⟨⟨k, j⟩, hk, rfl⟩ := List.mem_map.mp he
  rintro rfl
  exact hx (by simpa using List.fst_mem_of_mem_zipIdx hk)

/-- An instruction i that reads for the tensor command of queue n stops it on a parity error. -/
theorem tensorRead_stopsOnParity {s : State} (hm : memoryCanonical s) {n a : Nat} {r : QRef} {c : CmdRec}
    {sel : Cmd → Bool} {i : Instr} {f : State → QRef → CmdRec → State × Nat}
    (hi : exec i s = answer s (s.tensorRead n sel (some a) f)) (h : runs s 1 n r c) (hs : sel c.cmd = true) :
    stopsOnParity s 1 n r c a i := by
  intro ha hin hroom
  obtain ⟨t, e, ho, hq, htm⟩ := tensorRead_stops hi h hs ha hin hroom
  exact ⟨t, e, ho, hq, fun x hx => by rw [htm, get_loseCmds_other hm hx]⟩

/-- The last clause of O40, of a canonical memory: each tensor command that reads words of the plane stops on a parity error
of one of them (R118, R236, R240). -/
theorem tensorCommands_stopOnParity {s : State} (hm : memoryCanonical s) {n : Nat} {r : QRef} {c : CmdRec}
    (h : runs s 1 n r c) (a : Nat) :
    (c.cmd.opcode = 1 → stopsOnParity s 1 n r c a (.gemm n (some a))) ∧
    (c.cmd.opcode = 2 → stopsOnParity s 1 n r c a (.spatialOperator ⟨n, some a⟩)) ∧
    (c.cmd.opcode = 4 → stopsOnParity s 1 n r c a (.loadStationary ⟨n, some a⟩)) ∧
    (c.cmd.opcode = 5 → stopsOnParity s 1 n r c a (.epilogueOnly ⟨n, some a⟩)) :=
  ⟨fun hop => tensorRead_stopsOnParity hm rfl h (by simp [hop]), fun hop => tensorRead_stopsOnParity hm rfl h (by simp [hop]),
    fun hop => tensorRead_stopsOnParity hm rfl h (by simp [hop]), fun hop => tensorRead_stopsOnParity hm rfl h (by simp [hop])⟩

end Sys2Proof.Proofs.TensorParity
